-- ==== Sys2Proof/Word.lean ====
section
/-! DEFINITION. The word types of the module (spec 00_scope.md, R2, R4 and R6). -/
namespace Sys2Proof

/-- A register, a 32-bit operand or half of a 64-bit pair. -/
abbrev Word := BitVec 32

/-- One byte of memory. -/
abbrev Byte := BitVec 8

/-- A 64-bit program word (R66). -/
abbrev PWord := BitVec 64

/-- A DRAM byte address (R70), 36 bits. -/
abbrev Addr := BitVec 36

/-- A converter code, 20-bit two's complement (18_module_integration.md, "Analog characteristics"). -/
abbrev Code := BitVec 20

/-- A galvo coordinate, signed 24-bit (R6). -/
abbrev Gu := BitVec 24

end Sys2Proof
end

