-- ==== Sys2Proof/Syntax.lean ====
section
/-!
DEFINITION. The commands of the module: one constructor of `Instr` per row of spec/opcode_table.json.

Every command carries `dt`, the reference ticks (1.25 ns) that pass between the command before it
and this one (log entry 1).  The other operands are what the row's rule leaves to the outside: the
address and value of a host write, the words of an instruction, a measured level, the outcome of a
physical process that the spec bounds and does not fix.
-/
namespace Sys2Proof

/-! ## Names -/

/-- The register blocks of the BAR0 map that have an unlock (R31, R36). -/
inductive Block where
  | glb | pwr | thm | tim | saf | cbk | afe | hs | mem | ce
  | fe (n : Fin 16)
  | trl | hld | coo | axe | img | cmp | rng
  deriving DecidableEq, Repr

/-- A Tykai-S context (R19): eight per field engine, eight of the coordinator, one per axis. -/
inductive Ctx where
  | fe (n : Fin 16) (c : Fin 8)
  | coo (c : Fin 8)
  | axe (a : Fin 8)
  deriving DecidableEq, Repr

/-- The outputs that an edge stage presents (R20, R56). -/
inductive Edge where
  | gate (n : Fin 16)
  | lpwr (n : Fin 16)
  | gxc (n : Fin 16)
  | gyc (n : Fin 16)
  | gzc (n : Fin 16)
  | fdl (n : Fin 16)
  | step (a : Fin 8)
  | trig (p : Fin 20)
  | cyc (p : Fin 2)
  deriving DecidableEq, Repr

/-- The value of an edge-stage entry (R54). -/
inductive EdgeVal where
  /-- Internal gate level and modulation pattern level of a channel. -/
  | gate (lgate lmod : Bool)
  /-- A converter code. -/
  | dac (code : Code)
  /-- Deflector words of a frame. -/
  | defl (x y : BitVec 16)
  /-- Levels of STEP and DIR. -/
  | step (step dir : Bool)
  /-- A trigger pulse, or a frame launch. -/
  | pulse
  deriving DecidableEq, Repr

/-- What a read of a DRAM line finds (R357 to R359): the error of the first read, and of the retry. -/
inductive EccFind where
  | clean
  | correctable
  /-- Uncorrectable, and the retry finds no error. -/
  | retryClean
  /-- Uncorrectable, and the retry finds a correctable error. -/
  | retryCorrectable
  /-- Uncorrectable twice: a confirmed error. -/
  | confirmed
  deriving DecidableEq, Repr

/-- Interlock channel (R476). -/
inductive Ilk where
  | a | b
  deriving DecidableEq, Repr

/-- Power feed (R436). -/
inductive Feed where
  | a | b
  deriving DecidableEq, Repr

/-- How a host-memory access of HS fails (R397). -/
inductive HostErr where
  | timeout | unsupported | abort | poisoned
  deriving DecidableEq, Repr

/-- The rails of R443 in table order; VAFE_P and VAFE_N share one bit. -/
inductive Rail where
  | vaon | vring | vcore | vsram | vio | vddq | vpp | vafe
  deriving DecidableEq, Repr

/-- A parameter bank or a stream of a bed image processor (R301). -/
inductive ShadowSet where
  | bank (b : Fin 2) (k : Fin 3)
  | stream (b : Fin 2) (s : Fin 4)
  deriving DecidableEq, Repr

/-- The keep-out registers whose write computes the extents (R245). -/
inductive KoReg where
  | dir | down | up | half
  deriving DecidableEq, Repr

/-! ## Structured operands -/

/-- A planned segment (R146).  `z1` is the end focus offset, `pow1` the end power fraction. -/
structure Seg where
  dur : Nat
  x1 : Int
  y1 : Int
  vx1 : Int
  vy1 : Int
  z1 : Int
  pow1 : BitVec 16
  laser : Bool
  wobble : Bool
  nopool : Bool
  ckpt : Bool
  mprof : Fin 16
  mat : Fin 4
  deriving DecidableEq, Repr

/-- A committed axis segment (R334): a cubic Hermite segment in 2^-16 position units and
2^-16 units per ms. -/
structure AxSeg where
  dur : Nat
  pos : Int
  vel : Int
  deriving DecidableEq, Repr

/-- A CSI-2 packet as the receiver sees it (R281, R282). -/
structure CsiPacket where
  vc : BitVec 4
  dtype : BitVec 6
  /-- The header's ECC could not correct the header. -/
  headerBad : Bool
  /-- The header's ECC corrected a single-bit error. -/
  headerFixed : Bool
  crcBad : Bool
  payload : List Byte
  deriving DecidableEq, Repr

/-- A host-stream descriptor, 32 bytes (R389), as its eight little-endian words. -/
structure Descriptor where
  haddr : BitVec 64
  daddr : BitVec 64
  len : Word
  crc : Word
  op : Byte
  flags : BitVec 24
  tag : Word
  deriving DecidableEq, Repr

/-- A ring request of a plan summary, 24 bytes (R259). -/
structure RingReq where
  sigma : BitVec 18
  gfield : BitVec 7
  tprio : BitVec 4
  age : Byte
  xmin : Int
  ymin : Int
  xmax : Int
  ymax : Int
  deriving DecidableEq, Repr

/-- An axis command record (R339). -/
structure AxCmdRec where
  pos : Word
  vel : Word
  enable : Bool
  qstop : Bool
  clrf : Bool
  axis : Fin 8
  modid : BitVec 3
  seq : BitVec 16
  deriving DecidableEq, Repr

/-- An axis feedback record (R339). -/
structure AxFbRec where
  apos : Word
  ipos : Word
  ready : Bool
  fault : Bool
  standstill : Bool
  idx : Bool
  ack : BitVec 16
  deriving DecidableEq, Repr

/-- A ring signal record (R426). -/
structure SigRec where
  cycle : Word
  setm : BitVec 64
  clrm : BitVec 64
  deriving DecidableEq, Repr

/-- One section of a cyclic frame (R423); `bad` stands for a section whose TYPE is unknown. -/
inductive CycSect where
  | axCmd (rs : List AxCmdRec)
  | axFb (rs : List AxFbRec)
  | req (rs : List RingReq)
  | sig (rs : List SigRec)
  | bad (type : Byte)
  deriving DecidableEq, Repr

/-- A cyclic frame (R423).  `fits` says that the sections fit the frame. -/
structure CycFrame where
  ver : BitVec 4
  kind : BitVec 4
  num : Byte
  ptv : Bool
  cycle : Word
  seq : BitVec 16
  sections : List CycSect
  fits : Bool
  deriving DecidableEq, Repr

/-- Kinds of PTP message that RNG distinguishes (R427, R431, R432). -/
inductive PtpKind where
  | sync | followUp | announce | peerDelay | other
  deriving DecidableEq, Repr

/-- A PTP message inside a received frame (R431, R432). -/
structure PtpMsg where
  kind : PtpKind
  domain : Byte
  correction : BitVec 64
  bytes : List Byte
  deriving DecidableEq, Repr

/-- A received Ethernet frame (R411, R415). `tag` is the HSR sequence number when there is a tag. -/
structure EthFrame where
  dst : BitVec 48
  src : BitVec 48
  tag : Option (BitVec 16)
  etype : BitVec 16
  len : Nat
  fcsBad : Bool
  ptp : Option PtpMsg
  deriving DecidableEq, Repr

/-- Three-point measurement of a topping step (R460): offset in 1/16 code, gain in Q2.22, and the
mean tracking difference in codes. -/
structure TopMeas where
  offs : Int
  gain : Nat
  track : Nat
  deriving DecidableEq, Repr

/-- The outcome of the physical parts of a boot (R512, R513, R371). -/
structure BootOutcome where
  fwValid : Bool
  synthLocks : Bool
  /-- The first rail of R443 outside its window, if any. -/
  railBad : Option Rail
  mramAnswers : Bool
  /-- Ranks (channel, rank) whose training found no working setting. -/
  untrained : List (Fin 2 × Fin 3)
  /-- Highest device temperature of each rank at training, °C, in the order A0 A1 A2 B0 B1 B2. -/
  temps : List Int
  /-- The domain (bit of DOMOPEN) that does not open within 1 s, if any. -/
  domainBad : Option (Fin 8)
  deriving DecidableEq, Repr

/-- Which OT slot is valid at power-up (R53). -/
structure OtSlots where
  slot0 : Bool
  slot1 : Bool
  deriving DecidableEq, Repr

/-! ## Tykai-S instructions

The decoded form of an instruction (R82 to R105): what the planner decodes and the front retires.
Operands keep the widths of the encoding, so an operand out of its range is still an instruction,
which raises OPERAND. -/

/-- A Tykai-S instruction with its operands. -/
inductive TInstr where
  | nop
  | br (off : Word)
  | brc (hint cls : BitVec 4) (idx : Byte) (test : BitVec 4) (off value : Word)
  | call (off : Word)
  | ret
  | loop (body : BitVec 16) (count : Word)
  | halt
  | layerend
  | jump (rel : Bool) (px py : Word)
  | mark (cont rel nopool : Bool) (px py : Word)
  | arc (cont rel nopool : Bool) (sweep cx cy : Word)
  | poly (cont rel nopool close : Bool) (npts : BitVec 16) (addr : Addr)
  | dot (rel nopool curd : Bool) (dwell px py : Word)
  | spiral (cont rel nopool : Bool) (sweep cx cy rend : Word)
  | wobble (freq amp : BitVec 16) (shape : BitVec 4)
  | setv (jmp : Bool) (speed : BitVec 24)
  | setp (keepp keepd : Bool) (power : BitVec 16) (dwell : Word)
  | setpool (target : BitVec 16) (stat : BitVec 4) (mode : BitVec 2)
  | setfocus (focus : Word)
  | setreentry (overlap : Word) (ramp : BitVec 16)
  | setprofile (keepm keepmat : Bool) (mprof : BitVec 4) (mat : BitVec 2)
  | sig (clr evt fence : Bool) (signum : BitVec 7) (fval : Word) (addr : Addr)
  | waitsig (clr wclr : Bool) (signum : BitVec 7) (timeout : BitVec 16)
  | waitt (abs : Bool) (t : Word)
  | claim (token : BitVec 5) (timeout : BitVec 16)
  | release (token : BitVec 5)
  | setreg (offset : BitVec 24) (value mask : Word)
  | ledger (op : BitVec 4) (k3 : Bool) (factor : BitVec 16) (addr : Addr)
  | fstart (fmask : BitVec 16) (ctx : BitVec 3) (addr : Addr)
  | fwait (fmask : BitVec 16) (ctx : BitVec 3) (timeout : BitVec 16)
  | axmove (rel : Bool) (axis : BitVec 3) (target speed : Word)
  | axwait (axmask : Byte) (timeout : BitVec 16)
  | snap (cmask : BitVec 4) (delay : Word)
  | flip (lmask : Byte)
  | exportImage (queue : BitVec 5) (len : Word) (addr : Addr)
  deriving DecidableEq, Repr

/-! ## The commands -/

/-- The commands, in the order of spec/opcode_table.json.  `a : BitVec 25` names a register by its
word index (byte offset / 4, R17), bit 24 set for BAR2; `n` is a field, `x` a Tykai-S context. -/
inductive Instr where
  -- registers, unlock, modes (01)
  | hostRegisterWrite (dt : Nat) (a : BitVec 25) (v : Word)
  | narrowWrite (dt : Nat) (a : BitVec 27) (v : BitVec 16)
  | loReadLatch (dt : Nat) (a : BitVec 25)
  | loWriteHold (dt : Nat) (a : BitVec 25) (v : Word)
  | hiWriteCommit (dt : Nat) (a : BitVec 25) (v : Word)
  | configRequest (dt : Nat) (a : BitVec 10)
  | unlockKeyWrite (dt : Nat) (b : Block) (v : Word)
  | unlockSequenceTimeout (dt : Nat) (b : Block)
  | requestSafe (dt : Nat)
  | requestReady (dt : Nat)
  | disarmComplete (dt : Nat)
  | slackGovernorTick (dt : Nat)
  -- time (02)
  | oscCompensationUpdate (dt : Nat)
  | mtkCapture (dt : Nat)
  | mtkSeqReadLatch (dt : Nat)
  | deadlineWatchRollover (dt : Nat)
  | ptWrap (dt : Nat)
  | ptStep (dt : Nat) (v : Word)
  | ptReadLatch (dt : Nat)
  | otReadLatch (dt : Nat)
  | otSave (dt : Nat)
  | edgeEntryArrival (dt : Nat) (e : Edge) (due : Nat) (val : EdgeVal)
  | edgePresent (dt : Nat) (e : Edge)
  | synthLockLost (dt : Nat)
  -- Tykai-S (03)
  | nop (dt : Nat) (x : Ctx) (tag : BitVec 48)
  | br (dt : Nat) (x : Ctx) (off : Word)
  | brc (dt : Nat) (x : Ctx) (hint : BitVec 4) (cls : BitVec 4) (idx : Byte) (test : BitVec 4)
      (off : Word) (value : Word)
  | call (dt : Nat) (x : Ctx) (off : Word)
  | ret (dt : Nat) (x : Ctx)
  | loop (dt : Nat) (x : Ctx) (body : BitVec 16) (count : Word)
  | halt (dt : Nat) (x : Ctx)
  | layerend (dt : Nat) (x : Ctx)
  | jump (dt : Nat) (x : Ctx) (rel : Bool) (px py : Word)
  | mark (dt : Nat) (x : Ctx) (cont rel nopool : Bool) (px py : Word)
  | arc (dt : Nat) (x : Ctx) (cont rel nopool : Bool) (sweep : Word) (cx cy : Word)
  | poly (dt : Nat) (x : Ctx) (cont rel nopool close : Bool) (npts : BitVec 16) (addr : Addr)
  | dot (dt : Nat) (x : Ctx) (rel nopool curd : Bool) (dwell : Word) (px py : Word)
  | spiral (dt : Nat) (x : Ctx) (cont rel nopool : Bool) (sweep : Word) (cx cy : Word) (rend : Word)
  | wobble (dt : Nat) (x : Ctx) (freq amp : BitVec 16) (shape : BitVec 4)
  | setv (dt : Nat) (x : Ctx) (jmp : Bool) (speed : BitVec 24)
  | setp (dt : Nat) (x : Ctx) (keepp keepd : Bool) (power : BitVec 16) (dwell : Word)
  | setpool (dt : Nat) (x : Ctx) (target : BitVec 16) (stat : BitVec 4) (mode : BitVec 2)
  | setfocus (dt : Nat) (x : Ctx) (focus : Word)
  | setreentry (dt : Nat) (x : Ctx) (overlap : Word) (ramp : BitVec 16)
  | setprofile (dt : Nat) (x : Ctx) (keepm keepmat : Bool) (mprof : BitVec 4) (mat : BitVec 2)
  | sig (dt : Nat) (x : Ctx) (clr evt fence : Bool) (signum : BitVec 7) (fval : Word) (addr : Addr)
  | sigFenceComplete (dt : Nat) (x : Ctx)
  | waitsig (dt : Nat) (x : Ctx) (clr wclr : Bool) (signum : BitVec 7) (timeout : BitVec 16)
  | waitt (dt : Nat) (x : Ctx) (abs : Bool) (t : Word)
  | waittExpire (dt : Nat) (x : Ctx)
  | waitTimeout (dt : Nat) (x : Ctx)
  | claim (dt : Nat) (x : Ctx) (token : BitVec 5) (timeout : BitVec 16)
  | release (dt : Nat) (x : Ctx) (token : BitVec 5)
  | setreg (dt : Nat) (x : Ctx) (offset : BitVec 24) (value mask : Word)
  | ledgerClear (dt : Nat) (x : Ctx)
  | ledgerCarry (dt : Nat) (x : Ctx) (factor : BitVec 16)
  | ledgerExport (dt : Nat) (x : Ctx) (addr : Addr)
  | ledgerExportDone (dt : Nat)
  | ledgerDepoff (dt : Nat) (x : Ctx)
  | ledgerDepon (dt : Nat) (x : Ctx)
  | ledgerKernel (dt : Nat) (x : Ctx) (k3 : Bool)
  | fstart (dt : Nat) (x : Ctx) (fmask : BitVec 16) (ctx : BitVec 3) (addr : Addr)
  | fwait (dt : Nat) (x : Ctx) (fmask : BitVec 16) (ctx : BitVec 3) (timeout : BitVec 16)
  | axmove (dt : Nat) (x : Ctx) (rel : Bool) (axis : BitVec 3) (target speed : Word)
  | axwait (dt : Nat) (x : Ctx) (axmask : Byte) (timeout : BitVec 16)
  | snap (dt : Nat) (x : Ctx) (cmask : BitVec 4) (delay : Word)
  | flip (dt : Nat) (x : Ctx) (lmask : Byte)
  | exportImage (dt : Nat) (x : Ctx) (queue : BitVec 5) (len : Word) (addr : Addr)
  -- field engines (04)
  | emissionFrontReach (dt : Nat) (x : Ctx)
  | plannerDecode (dt : Nat) (n : Fin 16) (segs : List Seg) (slowed : List (BitVec 8))
  | summaryPublish (dt : Nat) (n : Fin 16) (slice : Nat)
  | replanReady (dt : Nat) (n : Fin 16)
  | ctxStart (dt : Nat) (n : Fin 16) (c : Fin 8)
  | ctxStop (dt : Nat) (n : Fin 16) (c : Fin 8)
  | ctxStopComplete (dt : Nat) (n : Fin 16) (c : Fin 8)
  | ctxReset (dt : Nat) (n : Fin 16) (c : Fin 8)
  | emissionGrant (dt : Nat) (n : Fin 16)
  | contextSwitch (dt : Nat) (n : Fin 16)
  | laserOnRunStart (dt : Nat) (n : Fin 16)
  | planUnderrun (dt : Nat) (n : Fin 16)
  -- path and deflection (05)
  | corLoad (dt : Nat) (n : Fin 16)
  | corLoadExecute (dt : Nat) (n : Fin 16)
  | galvoSample (dt : Nat) (n : Fin 16) (gx gy gz lpd : Code) (avail : Nat)
  | fdlFrameSend (dt : Nat) (n : Fin 16)
  | fdlReturnFrame (dt : Nat) (n : Fin 16) (ack stat : Byte) (crcOk : Bool)
  | fdlReturnTimeout (dt : Nat) (n : Fin 16)
  | frameLatch (dt : Nat) (n : Fin 16)
  | framePendingApply (dt : Nat) (n : Fin 16)
  | encoderTransition (dt : Nat) (k : Fin 4) (a b : Bool)
  -- control engine (06)
  | slotSample (dt : Nat) (k : Fin 160)
  | poolRecordDeliver (dt : Nat) (n : Fin 16)
  | executionComplete (dt : Nat) (k : Fin 160)
  | executionDrop (dt : Nat) (k : Fin 160)
  | slotStart (dt : Nat) (k : Fin 160)
  | slotStop (dt : Nat) (k : Fin 160)
  | loadlib (dt : Nat) (k : Fin 160)
  | swapRequest (dt : Nat) (k : Fin 160)
  | tuneApply (dt : Nat) (k : Fin 160)
  | ceWindowWrite (dt : Nat) (a : BitVec 24) (v : Word)
  -- laser (07)
  | directPowerUpdate (dt : Nat) (n : Fin 16)
  | lchPendingApply (dt : Nat) (n : Fin 16)
  | laserAlarm (dt : Nat) (n : Fin 16)
  | laserReadyChange (dt : Nat) (n : Fin 16) (active : Bool)
  | pdCheck (dt : Nat) (n : Fin 16)
  -- trellis and ledger (08)
  | ledgerFactorDeliver (dt : Nat) (n : Fin 16) (late : Bool)
  | hldDeposit (dt : Nat) (n : Fin 16)
  | sweepVisit (dt : Nat) (m : Nat) (k : BitVec 22)
  | ledgerWindowWrite (dt : Nat) (cell : BitVec 22) (v : Word)
  | grantPass (dt : Nat)
  | grantTimeout (dt : Nat) (n : Fin 16)
  | keepoutWrite (dt : Nat) (r : KoReg) (v : Word)
  | ringDecision (dt : Nat) (cycle : Word)
  | bookedResume (dt : Nat) (n : Fin 16)
  -- imaging (09)
  | cameraEnable (dt : Nat) (p : Fin 20) (v : Word)
  | cameraDisable (dt : Nat) (p : Fin 20)
  | csiPacketReceive (dt : Nat) (p : Fin 20) (pkt : CsiPacket)
  | cameraFrameStart (dt : Nat) (p : Fin 20)
  | cameraFrameEnd (dt : Nat) (p : Fin 20)
  | frameTimeout (dt : Nat) (p : Fin 20)
  | triggerDiscard (dt : Nat) (p : Fin 20)
  | cameraTrig (dt : Nat) (p : Fin 20)
  | biTakeFrame (dt : Nat) (b : Fin 2)
  | biFrameComplete (dt : Nat) (b : Fin 2)
  | shadowCommit (dt : Nat) (set : ShadowSet)
  -- composition (10)
  | cmpFlipRequest (dt : Nat) (lmask : Byte)
  | fenceRead (dt : Nat)
  | frameBoundary (dt : Nat)
  | lineOutput (dt : Nat) (line : BitVec 14) (late : Byte)
  | dirtyWrite (dt : Nat) (l : Fin 8)
  | flattenComplete (dt : Nat)
  | timingEnable (dt : Nat)
  | hpdChange (dt : Nat) (level : Bool)
  | dpEnable (dt : Nat)
  | dpRetrain (dt : Nat)
  | linkTrainingComplete (dt : Nat) (result : Option (Fin 3 × BitVec 3))
  | auxGo (dt : Nat) (v : Word)
  | auxReply (dt : Nat) (reply : BitVec 2) (data : List Byte)
  -- axes (11)
  | axisHome (dt : Nat) (a : Fin 8)
  | axisStop (dt : Nat) (a : Fin 8)
  | axisFlush (dt : Nat) (a : Fin 8)
  | axisClrf (dt : Nat) (a : Fin 8)
  | axisSetpos (dt : Nat) (a : Fin 8)
  | pushMove (dt : Nat) (a : Fin 8)
  | pushRelativeMove (dt : Nat) (a : Fin 8)
  | pushRawSegment (dt : Nat) (a : Fin 8)
  | axisEnable (dt : Nat) (a : Fin 8) (enable : Bool)
  | profilerCommit (dt : Nat) (a : Fin 8) (segs : List AxSeg)
  | axisInputSample (dt : Nat) (a : Fin 8) (home limp limn : Bool)
  | feedbackTimeout (dt : Nat) (a : Fin 8)
  | axeCtxStart (dt : Nat) (a : Fin 8)
  | axeCtxStop (dt : Nat) (a : Fin 8)
  | axeCtxReset (dt : Nat) (a : Fin 8)
  -- memory (12)
  | memRead (dt : Nat) (port : Fin 12) (stream : Byte) (addr : BitVec 40) (find : EccFind)
      (level : BitVec 4)
  | memWrite (dt : Nat) (port : Fin 12) (stream : Byte) (addr : BitVec 40) (data : List Byte)
      (find : EccFind) (level : BitVec 4)
  | agePromotion (dt : Nat) (port : Fin 12)
  | rowIdleClose (dt : Nat) (ch : Fin 2) (rank : Fin 3) (bank : BitVec 5)
  | scrubRead (dt : Nat) (ch : Fin 2) (rank : Fin 3) (find : EccFind)
  | caParityAlert (dt : Nat) (ch : Fin 2) (rank : Fin 3)
  | refresh (dt : Nat) (ch : Fin 2) (rank : Fin 3)
  | dramTempRead (dt : Nat) (temps : List Int)
  | retrainWindow (dt : Nat) (ch : Fin 2) (rank : Fin 3) (last ok : Bool) (temp : Int)
  | rackCmd (dt : Nat) (v : Word)
  | rackCopyLine (dt : Nat) (ch : Fin 2) (find : EccFind)
  | rackComplete (dt : Nat) (ch : Fin 2)
  | rmapClr (dt : Nat)
  -- host stream (13)
  | h2dDoorbell (dt : Nat) (q : Fin 32) (v : Word)
  | doorbellRetry (dt : Nat) (q : Fin 32) (tail : BitVec 16)
  | d2hDoorbell (dt : Nat) (q : Fin 32) (v : Word)
  | descriptorStart (dt : Nat) (q : Fin 64) (d : Descriptor)
  | descWrite (dt : Nat) (q : Fin 32)
  | h2dDataReceived (dt : Nat) (q : Fin 32) (data : List Byte)
  | descWriteComplete (dt : Nat) (q : Fin 32)
  | descRead (dt : Nat) (q : Fin 32)
  | descSync (dt : Nat) (q : Fin 64)
  | syncFenceComplete (dt : Nat) (q : Fin 64)
  | descPush (dt : Nat) (q : Fin 32)
  | queueEnable (dt : Nat) (q : Fin 64) (v : Word)
  | queueDisable (dt : Nat) (q : Fin 64) (v : Word)
  | hostAccessError (dt : Nat) (q : Fin 64) (e : HostErr)
  | pcieLinkUp (dt : Nat) (speed : BitVec 3) (width : BitVec 4)
  | pcieLinkDown (dt : Nat)
  | d3hotEntry (dt : Nat)
  | hotReset (dt : Nat)
  -- ring (14)
  | ringModeWrite (dt : Nat) (mode : BitVec 2)
  | ringFrameReceive (dt : Nat) (p : Fin 2) (f : EthFrame) (egress : Int)
  | supervisionSend (dt : Nat)
  | cyclicFrameLaunch (dt : Nat)
  | cyclicFrameReceive (dt : Nat) (p : Fin 2) (f : CycFrame)
  | bypassWrite (dt : Nat) (v : Bool)
  | relayChange (dt : Nat)
  | watchdogRefresh (dt : Nat)
  | ringWatchdogExpire (dt : Nat)
  | phyLinkChange (dt : Nat) (p : Fin 2) (up : Bool)
  | pdelayReqSend (dt : Nat) (p : Fin 2)
  | pdelayReqReceive (dt : Nat) (p : Fin 2) (turnaround : Nat)
  | pdelayMeasurement (dt : Nat) (p : Fin 2) (t1 t2 t3 t4 : Int)
  | psack (dt : Nat) (p : Fin 2)
  -- power, thermal, calibration (15)
  | feedPresent (dt : Nat) (f : Feed)
  | feedFail (dt : Nat)
  | feedSwitch (dt : Nat)
  | holdupExhausted (dt : Nat)
  | railExcursion (dt : Nat) (r : Rail)
  | railRestart (dt : Nat) (r : Rail)
  | pstateActive (dt : Nat)
  | pstateHold (dt : Nat)
  | pstateIdle (dt : Nat)
  | pstateStandby (dt : Nat)
  | wakeOt (dt : Nat)
  | wakeFrame (dt : Nat) (key : Word)
  | thermalRead (dt : Nat) (readings : List Int)
  | thresholdClear (dt : Nat)
  | sensorClr (dt : Nat) (k : Fin 88)
  | referenceCompensation (dt : Nat)
  | toppingStep (dt : Nat) (g : Fin 16) (m : TopMeas)
  | toppingSwap (dt : Nat) (g : Fin 16)
  | sliceClr (dt : Nat) (dac : Bool) (k : Fin 72)
  | calibrationWrite (dt : Nat) (dac : Bool) (k : Fin 72) (gain : Bool) (v : BitVec 24)
  -- fail-safe and recovery (16)
  | interlockOpen (dt : Nat) (ch : Ilk)
  | interlockClose (dt : Nat) (ch : Ilk)
  | ilkDiscrepancy (dt : Nat)
  | msHeartbeatTimeout (dt : Nat)
  | msWatchdogReset (dt : Nat)
  | gstatClear (dt : Nat) (v : BitVec 5)
  | discClear (dt : Nat)
  | resume (dt : Nat) (n : Fin 16) (force : Bool)
  | resumeWindowExpire (dt : Nat) (n : Fin 16)
  | genrel (dt : Nat) (n : Fin 16)
  | armKeyFirst (dt : Nat)
  | armKeySecond (dt : Nat) (v : Word)
  | armKeyTimeout (dt : Nat)
  | armComplete (dt : Nat)
  -- cellar book and resets (17)
  | recordWrite (dt : Nat) (readback1 readback2 : Bool)
  | summaryEntry (dt : Nat)
  | powerOnReset (dt : Nat) (ot : OtSlots)
  | resetL (dt : Nat) (low : Nat)
  | hostSoftReset (dt : Nat) (v : Word)
  | fieldReset (dt : Nat) (n : Fin 16)
  | boot (dt : Nat) (o : BootOutcome)
  | bootComplete (dt : Nat) (ms : Nat)
  -- rows added at the table's end
  | synthLockRegained (dt : Nat)
  | feedCeasesPresent (dt : Nat) (f : Feed)
  | laserAlarmInactive (dt : Nat) (n : Fin 16)
  | dphySyncError (dt : Nat) (p : Fin 20)
  | aerErrorLogged (dt : Nat) (uncorrectable : Bool)
  | msixUnmask (dt : Nat) (vec : Option (BitVec 6))
  | cooContextStart (dt : Nat) (c : Fin 8) (pc : Addr)
  | tuningComplete (dt : Nat) (k : Fin 160)
  | exportWritesComplete (dt : Nat) (c : Fin 8)
  | axisAtRest (dt : Nat) (a : Fin 8)
  | vcoreMeasurement (dt : Nat) (mv : BitVec 10)
  deriving DecidableEq, Repr

end Sys2Proof
end

