-- ==== Sys2Proof/Decode.lean ====
section
/-! DEFINITION. The words of the opcode table: the table gives no row a bit field. -/
namespace Sys2Proof

/-- The command that a word spells by the table's bits.  Every row of spec/opcode_table.json has an
empty list of fields, so no word spells a command. -/
def decodeTableWord (_nbits _w : Nat) : Option Instr := none

end Sys2Proof
end

