-- ==== Sys2Proof/Config.lean ====
section
/-! DEFINITION. What the spec leaves to the implementation or leaves open: opaque constants, so that a
statement about one holds for every value. -/
namespace Sys2Proof.Config

/-- The word that module flash or the factory gives a register, by the register's address: firmware
version, vendor id, compensation table, reference coefficients, calibration, MAC, PHY latencies. -/
opaque flashWord : Nat → Word

/-- A fresh free word for each count of the state's counter `free`: values the spec leaves open after
an effect that goes on. -/
opaque freeWord : Nat → Word

/-- A fresh free number for each count of the state's counter `free`. -/
opaque freeRat : Nat → Rat

/-- Word i of the image of loop-library program l in module flash (R204). -/
opaque libWord : Nat → Nat → Word

/-- Default latency L of loop-library program l where R235 gives none (R204). -/
opaque libLat : Nat → BitVec 16

/-- Word i of the coefficient bank that tuning makes of the tuning values of program l (R204). -/
opaque tuneWord : Nat → List Nat → Nat → Word

/-- Gain of the integral trim of LASER_PD, per execution, for a bandwidth in Hz (R235). -/
opaque pdGain : Nat → Rat

/-- Bank of the line at an address, within its rank, and the row: how MEM interleaves banks. -/
opaque bankOf : Nat → BitVec 5

opaque rowOf : Nat → Nat

/-- Where the spec gives a value that is no integer and no rounding, whether the value num / den at a
place of the model is rounded up from its floor. -/
opaque roundUp : Nat → Int → Nat → Bool

/-- The value that a scaler takes for sample i beyond the edge of a line. -/
opaque scaleEdge : List Nat → Int → BitVec 16

/-- The ITC encoder packs a tile of pixels, where it may, instead of writing it raw (R312). -/
opaque itcPack : List Nat → Bool

/-- Deviation of the flat image from live composition: channel values below, at a pixel (R316). -/
opaque flatDev : Nat → Nat → Nat → Int

/-- The word of a pixel that the compositor makes of a read that answered an error, by instant and
address (R361). -/
opaque badPixel : Nat → Nat → Word

/-- A word of a torn slot of the cellar book, by byte offset (R504). -/
opaque tornWord : Nat → Word

/-- A word of the PCIe configuration space by its index; the spec gives only the device's ids. -/
opaque cfgWord : BitVec 10 → Word

end Sys2Proof.Config
end

