-- ==== Sys2Proof/Machine/State.lean ====
section
/-!
DEFINITION. The state of the module as plain data, and the state at reset.

Registers have one home: `regs`, a sparse map from BAR0 byte offset (BAR2: offset + 2^32) to the
stored word, read through the register table of Machine/RegTable.lean (an unlisted register holds
its reset value).  What no register holds stands in the structures below, block by block.
-/
namespace Sys2Proof.Machine

/-- Why the machine stops.  The spec gives every command an effect, so no command faults and the
type has no constructor: every run goes on (safe). -/
inductive Fault : Type
  deriving DecidableEq, Repr

/-- Why a command is refused. -/
inductive Refusal : Type where
  /-- Raised by an arm of `exec` that has no meaning yet; no arm raises it (safe). -/
  | notModelled (mnemonic : String)
  deriving DecidableEq, Repr

/-- A sparse map: keys strictly rising, no entry equal to what an unlisted key reads as. -/
abbrev Sparse (α : Type) := List (Nat × α)

/-! ## Contexts and fields (03, 04, 05) -/

/-- Context states (R113). -/
inductive CtxSt where
  | idle | ready | active | waiting | suspended | faulted | halted | layerDone
  deriving DecidableEq, Repr

/-- An entry of the loop stack (R85). -/
structure LoopEntry where
  start : Addr
  stop : Addr
  count : Nat
  deriving DecidableEq, Repr

/-- An entry of the call stack (R83): return address and saved loop depth. -/
structure CallEntry where
  ret : Addr
  depth : Nat
  deriving DecidableEq, Repr

/-- The architectural state of a context but its tokens (R73), with the point's laser state (R77),
the count of R81's SPIN and the wobble's start instant (R162). -/
structure PState where
  pc : Addr
  calls : List CallEntry
  loops : List LoopEntry
  px : Word
  py : Word
  mspeed : BitVec 24
  jspeed : BitVec 24
  power : BitVec 16
  dwell : Word
  poolMode : BitVec 2
  poolStat : BitVec 4
  poolTarget : BitVec 16
  focus : Word
  overlap : Word
  ramp : BitVec 16
  mprof : BitVec 4
  mat : BitVec 2
  wshape : BitVec 4
  wfreq : BitVec 16
  wamp : BitVec 16
  dep : Bool
  k3 : Bool
  /-- The point is a laser-on point (R77). -/
  laserOn : Bool
  /-- A motion instruction has preceded the point since the start (R77, R88). -/
  moved : Bool
  /-- Instructions planned since the last motion, wait, HALT or LAYEREND (SPIN, R81). -/
  spin : Nat
  /-- Start of the first emitting segment after the WOBBLE (R162). -/
  wstart : Option Nat
  deriving DecidableEq, Repr

/-- What a context waits for. -/
inductive WaitK where
  | waitt (til : Nat)
  | waitsig (sig : BitVec 7) (clr wclr : Bool)
  | claim (token : BitVec 5)
  /-- SIG with FENCE = 1: waits for the context's writes (R98). -/
  | fence (sig : BitVec 7) (clr evt : Bool) (fval : Word) (addr : Addr)
  | fwait (fmask : BitVec 16) (ctx : BitVec 3)
  | axwait (mask : Byte)
  /-- AXMOVE at a full queue (R108). -/
  | axroom (rel : Bool) (axis : BitVec 3) (target speed : Word)
  /-- EXPORT: first its writes, then room in the queue (R111). -/
  | exportWrites (queue : BitVec 5) (len : Word) (addr : Addr)
  | exportRoom (queue : BitVec 5) (len : Word) (addr : Addr)
  deriving DecidableEq, Repr

/-- A wait at the front: reach instant, timeout in ms (0 = none), ticks of HOLD since the reach
(R447), and the instruction that waits. -/
structure Wait where
  k : WaitK
  reached : Nat
  timeout : Nat
  held : Nat
  ins : TInstr
  deriving DecidableEq, Repr

/-- A context (R113, R134). -/
structure CtxRec where
  st : CtxSt
  /-- The retired state, which the context registers show (R73, R145). -/
  ret : PState
  wait : Option Wait
  /-- A SIG fence or EXPORT of this context has memory writes under way (R98, R111). -/
  writes : Nat
  fcode : Byte
  /-- STOP was accepted while ACTIVE (R116). -/
  stopReq : Bool
  /-- Instant the READY state began (R118). -/
  readyAt : Nat
  /-- Retired instructions (R76). -/
  retired : Nat
  /-- K_eff when the SETPOOL that set mode 2 retired (R216). -/
  khold : BitVec 16
  deriving DecidableEq, Repr

/-- A queue entry (R333). -/
inductive QEntry where
  | move (target : Int) (speed : Nat)
  | raw (dur : Nat) (pos vel : Int)
  deriving DecidableEq, Repr

/-- A committed segment with its start state (R334). -/
structure CSeg where
  t0 : Nat
  pos0 : Int
  vel0 : Int
  seg : AxSeg
  /-- The queue entry that ends with this segment. -/
  entry : Option QEntry
  deriving DecidableEq, Repr

/-- The frame displacement predicted for a segment when it was planned (R168): the instant, F and V_F
(2^−16 BU, and per tick); of an axis source, the committed segments and the position and instant of
their end. -/
structure FrmPred where
  tn : Nat
  fx : Int
  fy : Int
  vx : Rat
  vy : Rat
  cover : Nat
  axq : List CSeg
  axEnd : Int
  deriving DecidableEq, Repr

/-- A segment of the plan with the instants and the state it starts from (R146, R124). -/
structure PSeg where
  t0 : Nat
  x0 : Int
  y0 : Int
  vx0 : Int
  vy0 : Int
  z0 : Int
  pow0 : BitVec 16
  seg : Seg
  pc : Addr
  ctx : Fin 8
  frm : FrmPred
  /-- The wobble amplitude in force, BU (R243, R248). -/
  wamp : Nat
  deriving DecidableEq, Repr

/-- What a leg of a motion runs along (R88 to R92, R148). -/
inductive Course where
  /-- At rest: the ticks left of a dwell, or a settle hold of whole fine ticks (R89, R161). -/
  | rest (ticks : Option Nat)
  /-- A straight line from a point, and its phases planned. -/
  | line (x0 y0 : Int) (k : Nat)
  /-- A circle: centre, the start from it, the sweep in 2^−16 turns, its segments, and those planned. -/
  | arc (cx cy vx vy sweep : Int) (n k : Nat)
  /-- A spiral: centre, unit direction of the start (2^−96), start and end radius (2^−40 BU), the sweep,
  and the angle planned (2^−48 turns). -/
  | spiral (cx cy ux uy : Int) (r0 r1 : Nat) (sweep : Int) (done : Nat)
  /-- The emitted path of a re-entry (R485). -/
  | along
  deriving DecidableEq, Repr

/-- A leg of a motion still to be planned: its laser, course, end point, the direction of its start, and
the programmed speed (16.8 mm/s). -/
structure Leg where
  on : Bool
  course : Course
  x1 : Int
  y1 : Int
  dx : Int
  dy : Int
  v : Nat
  /-- Some of it has been planned. -/
  begun : Bool
  deriving DecidableEq, Repr

/-- An entry of the plan: a decoded instruction, its segments, the planner's state after it; or a
fault found (R80). -/
structure PlanEntry where
  pc : Addr
  ins : TInstr
  fault : Option Byte
  segs : List PSeg
  before : PState
  after : PState
  /-- BRC: the predicted outcome. -/
  taken : Bool
  /-- The entry holds the instruction's first segments, and its last ones (R123). -/
  first : Bool
  last : Bool
  /-- A switch checkpoint stands at the point after the instruction (R128). -/
  ck : Bool
  /-- Index of the first of its segments within the instruction (R134). -/
  idx : Nat
  /-- STOPDEC of its profile in force when it was planned (R132, R152). -/
  stopdec : Nat
  deriving DecidableEq, Repr

/-- What a speculation checkpoint holds of its BRC (R129). -/
structure CkBranch where
  cls : BitVec 4
  idx : Byte
  test : BitVec 4
  value : Word
  hint : BitVec 4
  deriving DecidableEq, Repr

/-- The path state of a checkpoint: planned spot, velocity (2^−24 BU per tick) and acceleration (2^−24 BU
per tick squared), and the galvo path in GU (R129). -/
structure PathState where
  x : Int
  y : Int
  z : Int
  vx : Int
  vy : Int
  ax : Int
  ay : Int
  gx : Int
  gy : Int
  gz : Int
  deriving DecidableEq, Repr

/-- A checkpoint (R129). -/
structure Ckpt where
  ctx : Fin 8
  /-- A speculation checkpoint; otherwise a switch checkpoint (R128). -/
  spec : Bool
  pc : Addr
  st : PState
  at_ : Nat
  /-- The eight words of the path not predicted, by address; `none` of a poisoned one (R131). -/
  prefetch : List (Nat × Option Nat)
  /-- The planner's state along the path not predicted. -/
  alt : PState
  path : PathState
  /-- Plan-buffer index of the first segment after the point. -/
  index : Nat
  ramp : PSeg
  /-- Index of the slice that holds the point. -/
  slice : Nat
  branch : Option CkBranch
  deriving DecidableEq, Repr

/-- A yielded context's plan, kept while another context owns emission and has not emitted (R119). -/
structure Kept where
  ctx : Fin 8
  plan : List PlanEntry
  ckpts : List Ckpt
  atCk : Option (Nat × Ckpt)
  pl : PState
  planEnd : Nat
  ckAt : Nat
  barrier : Bool
  prefetch : List (Nat × Option Nat)
  legs : List Leg
  deriving DecidableEq, Repr

/-- Why a replan is under way (R138, R139). -/
inductive ReplanWhy where
  | squash | barrier | switch | grant
  deriving DecidableEq, Repr

/-- A replan in progress: its start, the end of the stop ramp that it waits for, and, once the new plan
is ready, the instant at which emission goes on (R138). -/
structure Replan where
  why : ReplanWhy
  since : Nat
  rampEnd : Nat
  go : Option Nat
  deriving DecidableEq, Repr

/-- A box in BU, closed (R246). -/
structure Box where
  xmin : Int
  ymin : Int
  xmax : Int
  ymax : Int
  deriving DecidableEq, Repr

/-- A plan summary (R247) with the instant of its publication and of its replacement. -/
structure Summary where
  slice : Nat
  lon : Bool
  ringm : Bool
  ver : Byte
  box : Box
  pubAt : Nat
  goneAt : Option Nat
  deriving DecidableEq, Repr

/-- A reservation of a slice; `none` is the empty box (R251, R252). -/
structure Resv where
  slice : Nat
  box : Option Box
  deriving DecidableEq, Repr

/-- A field correction table in force: header and the image's node bytes as a sparse slice (R153). -/
structure CorTable where
  x0 : Int
  y0 : Int
  pitch : Nat
  base : Nat
  bytes : List Host.Cell
  deriving DecidableEq, Repr

/-- What stood at the emission front from an instant on: used for the statistics at TMID (R231). -/
structure Snap where
  at_ : Nat
  pc : Addr
  owner : Option (Fin 8)
  layer : Word
  mode : BitVec 2
  nopool : Bool
  /-- K_eff held by NOPOOL and by mode 2. -/
  knopool : BitVec 16
  khold : BitVec 16
  stat : BitVec 4
  target : BitVec 16
  deriving DecidableEq, Repr

/-- The laser channel's own state (07). -/
structure Lch where
  /-- Due instant of the last falling gate edge (R212). -/
  lastFall : Option Nat
  /-- The falling edge of the present run has been queued. -/
  fallSet : Bool
  rdy : Bool
  alm : Bool
  /-- Values of CE port 528, Q2.14, with the instants of their presentation, newest first (R216). -/
  kpool : List (Nat × BitVec 16)
  /-- K_eff held by NOPOOL and by pool mode 2 (R216). -/
  knopool : BitVec 16
  khold : BitVec 16
  nopool : Bool
  /-- Pool settings in force (R217). -/
  poolMode : BitVec 2
  poolStat : BitVec 4
  poolTarget : BitVec 16
  /-- F_L with the instants from which it is in effect, newest first (R218, R221). -/
  facts : List (Nat × Nat)
  /-- LRDY and LALM last changed at these instants (R222). -/
  rdyAt : Option Nat
  almAt : Option Nat
  /-- Start of re-entry emission and length of the ramp (R485). -/
  rampAt : Option Nat
  rampLen : Nat
  /-- Codes presented on LPWR with their instants, newest first (R268). -/
  coutHist : List (Nat × Nat)
  /-- Level changes of G_int, newest first (R225, R268). -/
  gintHist : List (Nat × Bool)
  /-- Level changes of the LGATE pin, newest first (R229). -/
  pinHist : List (Nat × Bool)
  deriving DecidableEq, Repr

/-- The splitter, frame and deflector-link state of a field (05). -/
structure Split where
  /-- Newest accepted galvo sample: instant and GU values (R164). -/
  sampleAt : Option Nat
  gmx : Int
  gmy : Int
  /-- Consecutive clamped laser-on fine ticks (R165). -/
  clamped : Nat
  seq : Byte
  lastX : BitVec 16
  lastY : BitVec 16
  /-- Consecutive late FDL frames (R58). -/
  lateRun : Nat
  lastReturn : Option Nat
  /-- A held REF or LATCH write: the value that REF takes (R169).  A held SRC stands in its register;
  the source in force is the value in `force` (R167). -/
  heldRef : Option Word
  /-- Source counts with their instants, newest first (R168). -/
  counts : List (Nat × Word)
  /-- Every measured position has kept the lock window since this instant (R482). -/
  lockFrom : Option Nat
  deriving DecidableEq, Repr

/-- The fail-safe record of a field (16). -/
structure FsRec where
  /-- The causes in hand, first cause first (R479, R490). -/
  causes : List Nat
  td : Nat
  /-- Stop point: context, PC, segment index, ticks into the segment, spot (R471). -/
  ctx : Fin 8
  pc : Addr
  segIdx : Nat
  ticks : Nat
  x : Int
  y : Int
  /-- The stop point lies inside a laser-on run (R485). -/
  inRun : Bool
  /-- The stopped run's emitted segments, in order (R485). -/
  path : List PSeg
  rest : List PlanEntry
  /-- FTIME counts from here (R471). -/
  ftFrom : Nat
  deriving DecidableEq, Repr

/-- A field engine (04, 05, 07). -/
structure Field where
  ctx : Vector CtxRec 8
  plan : List PlanEntry
  /-- Checkpoints of points that the front has not reached, in order. -/
  ckpts : List Ckpt
  /-- The checkpoint of the point at which the front stands, and the instant of its reach (R118, R130). -/
  atCk : Option (Nat × Ckpt)
  /-- The owner gave up emission at a wait, and its plan is intact (R119). -/
  yielded : Option (Fin 8)
  /-- Start of the laser-on run that the front has been let into (R126). -/
  runAt : Option Nat
  /-- The planner's frontier state and the planned end instant (R122). -/
  pl : PState
  planEnd : Nat
  /-- Last switch or speculation checkpoint, in planned emission (R128). -/
  ckAt : Nat
  /-- The planner stands at a barrier (R79). -/
  barrier : Bool
  /-- Words of the target prefetch not yet planned from, by address (R131). -/
  prefetch : List (Nat × Option Nat)
  /-- Legs of the motion at the frontier still to be planned (R123, R148). -/
  legs : List Leg
  /-- Plans of contexts that yielded, while no successor has emitted (R119). -/
  keptPlans : List Kept
  /-- No segment has been emitted since emission was granted (R133). -/
  fresh : Bool
  /-- STOPDEC of the point at the front (R132). -/
  stopdec : Nat
  /-- Segments that the spot has run along, newest first, each with the instant at which it left it. -/
  trail : List (PSeg × Nat)
  replan : Option Replan
  /-- The front waits since, in a dwell class (R141). -/
  dwell : Option (Nat × Fin 4)
  /-- A run start is under way: the front is inside a laser-on run. -/
  inRun : Bool
  /-- Instant at which the first segment of the plan's first entry began, while it is emitted. -/
  emit : Option Nat
  spotX : Int
  spotY : Int
  spotZ : Int
  /-- Segments emitted in the present run, in order (R485). -/
  emitted : List PSeg
  /-- Segments of the present plan already emitted, newest first, for the galvo kernel (R158). -/
  past : List PSeg
  /-- The stop ramp that the galvo follows or rests at the end of (R132). -/
  ramp : Option PSeg
  /-- Start of the present plan, and the bed point where the galvo rested before it (R158). -/
  planFrom : Option Nat
  restX : Int
  restY : Int
  restZ : Int
  /-- Last owner of emission (R217). -/
  lastOwner : Fin 8
  /-- Profiles of the last planned segment (R158, R270). -/
  lastProf : Fin 16
  lastMat : Fin 4
  hist : List Snap
  /-- A resume's re-entry is to be planned. -/
  reentry : Option FsRec
  cor : Option CorTable
  /-- The table in force before the last change, and the instant of that change (R157). -/
  corPrev : Option CorTable
  corSince : Nat
  corPending : Bool
  traceSeq : Word
  lch : Lch
  spl : Split
  fs : FsRec
  summ : List Summary
  ver : Byte
  resv : List Resv
  /-- The clearance wait has raised its timeout (R255). -/
  gtoDone : Bool
  deriving DecidableEq, Repr

/-! ## Control engine (06) -/

/-- A block: eight mantissas and the shared exponent (R184). -/
structure Blk where
  m : List Int
  e : Int
  deriving DecidableEq, Repr

/-- An execution of a slot: sample instant, due instant, and the port values as of t_k. -/
structure ExecRec where
  tk : Nat
  ready : Nat
  due : Nat
  inputs : Sparse Rat
  deriving DecidableEq, Repr

/-- Outputs of a completed execution, to be presented at their due instant (R194). -/
structure SlotOut where
  due : Nat
  port : Nat
  val : Rat
  deriving DecidableEq, Repr

/-- What a slot holds beside its registers and windows. -/
structure Slot where
  /-- Executions not yet complete, oldest first, and the instant the last one ended (R181). -/
  exec : List ExecRec
  doneAt : Nat
  lastTk : Option Nat
  /-- Sample instants begin here (R182). -/
  firstTk : Nat
  stopAt : Option Nat
  swapReq : Option Nat
  /-- Tuning under way: the values taken at APPLY (R204). -/
  tuneVals : Option (List Nat)
  /-- Values on NOUT0 to NOUT3 and MON_0 to MON_3 with their due instants, newest first (R194, R199). -/
  nout : List SlotOut
  /-- Outer outputs count for NIN0 to NIN3 from these instants on (R198). -/
  nestFrom : List Nat
  /-- The library program that stands in the slot unchanged (R204). -/
  lib : Option Nat
  /-- Tuning values whose coefficients stand in bank 0 and bank 1 (R204). -/
  tune : List (Option (List Nat))
  /-- SAT of the integrator on each of S0 to S7: bit j for lane j (R191). -/
  sats : List Nat
  /-- Integral state and output of POOL (R234). -/
  libS : Rat
  libK : Rat
  /-- NIN0 of the previous execution, and the trim, of LASER_PD (R235). -/
  libNin : Rat
  libTrim : Rat
  /-- Its misses have raised the LOOPMISS that its field has in hand (R196, R479). -/
  missed : Bool
  deriving DecidableEq, Repr

/-! ## Ledger and trellis (08) -/

/-- The heat ledger's cells (R265): the word of every unlisted cell, and the listed cells. -/
structure Ledger where
  base : Word
  cells : Sparse Word
  /-- Boundary of the last deposits, and the cells they wrote as they stood before (R270). -/
  depAt : Nat
  before : Sparse Word
  deriving DecidableEq, Repr

/-- A write-out of the ledger image under way or queued (R273). -/
structure LedgerExp where
  ctx : Ctx
  addr : Addr
  at_ : Nat
  snapshot : Ledger
  /-- HLD_DECAY and the grid's size at that instant. -/
  decay : Nat
  nx : Nat
  ny : Nat
  deriving DecidableEq, Repr

/-! ## Imaging (09) -/

/-- Geometry flags of a frame in the order of R288. -/
structure GeomF where
  frameShort : Bool
  frameLong : Bool
  lineShort : Bool
  lineLong : Bool
  crcErr : Bool
  pktLost : Bool
  femiss : Bool
  deriving DecidableEq, Repr

/-- A frame: open, or closed and shaped (R285, R286). Pixels are 12-bit codes, line by line. -/
structure Frame where
  port : Fin 20
  num : Word
  mtFs : Nat
  mtFe : Nat
  trig : Option Nat
  /-- Expected geometry and packing of the port: 0 RAW8, 1 RAW10, 2 RAW12. -/
  width : Nat
  height : Nat
  fmt : Nat
  lines : List (List Nat)
  linesRx : Nat
  lmin : Nat
  lmax : Nat
  flags : GeomF
  lastPkt : Nat
  closed : Bool
  /-- Slot of the wait ring, and whether a BI has taken the frame. -/
  slot : Nat
  taken : Bool
  deriving DecidableEq, Repr

/-- A pool statistics record (R231). -/
structure PoolRec where
  frame : Word
  inv : BitVec 4
  pflag : Byte
  tmid : Nat
  x : Int
  y : Int
  pc : Addr
  owner : Option (Fin 8)
  layer : Word
  pplan : Nat
  keff : Nat
  /-- Statistic and target in force at TMID. -/
  stat : Nat
  target : Nat
  sum : Nat
  areaA : Nat
  areaB : Nat
  peak : Nat
  peakCol : Nat
  peakRow : Nat
  cx : Nat
  cy : Nat
  mxx : Nat
  myy : Nat
  mxy : Int
  nsat : Nat
  hist : List Nat
  tfe : Nat
  deriving DecidableEq, Repr

/-- A camera port (R280). -/
structure Cam where
  open_ : Option Frame
  /-- Frame starts received since EN was set, or frames since the pipeline's EN (R290, R227). -/
  next : Word
  /-- Due instants of presented, unmatched triggers, oldest first (R227, R291). -/
  trigs : List Nat
  /-- A trigger has been lost since the last record (R227). -/
  lost : Bool
  /-- Closed frames in the wait ring, oldest first, and the slot written next (R292). -/
  ring : List Frame
  ringSlot : Nat
  deriving DecidableEq, Repr

/-- A pool pipeline (R227). -/
structure Pool where
  pend : List PoolRec
  /-- Flags of the latest valid record (R230). -/
  flags : Byte
  /-- Instant at which EN was set. -/
  enAt : Nat
  deriving DecidableEq, Repr

/-- A frame in a bed image processor, with the registers in force when it began (R301). -/
structure BiJob where
  frame : Frame
  bank : Nat
  force : Sparse Word
  /-- State of each stream: 0 off, 1 normal, 2 fallback. -/
  modes : List Nat
  deriving DecidableEq, Repr

/-- A bed image processor (R294). -/
structure Bi where
  cur : Option BiJob
  susp : Option BiJob
  /-- Instants of COMMIT of the pending sets: banks 0 to 2, then streams 0 to 3. -/
  commits : List (Option Nat)
  /-- Stream s has had an accepted set since reset (R306). -/
  accepted : List Bool
  deriving DecidableEq, Repr

/-! ## Axes (11) -/

/-- A qualified input of an axis (R343). -/
structure AxIn where
  level : Bool
  cand : Bool
  count : Nat
  /-- Edge instant of the last qualified change, and of the candidate. -/
  edgeAt : Nat
  candAt : Nat
  /-- Instants of raw level changes (R343). -/
  changes : List Nat
  raw : Bool
  deriving DecidableEq, Repr

/-- Axis states (R338). -/
inductive AxSt where
  | off | unref | ready | moving | stopping | homing | limit | faulted | held
  deriving DecidableEq, Repr

/-- An axis (R330). Positions in 2^-16 units. -/
structure Axis where
  st : AxSt
  ref : Bool
  queue : List QEntry
  plan : List CSeg
  /-- End state of the committed plan. -/
  endAt : Nat
  endPos : Int
  endVel : Int
  lastTarget : Int
  /-- Net step edges since last set (R332). -/
  steps : Int
  home : AxIn
  limp : AxIn
  limn : AxIn
  /-- Homing step 1 to 5 and whether the direction was reversed once (R344, R345). -/
  homing : Option (Nat × Bool)
  homeFrom : Int
  latch : Int
  /-- SDEC in force during a planned stop; a lower SDEC written since is held in its register (R336). -/
  stop : Option Nat
  qstop : Bool
  chatter : Bool
  /-- A fault while moving: FAULTED once at rest (R349). -/
  faultPend : Bool
  ctx : CtxRec
  fbMiss : Nat
  fbSeen : Bool
  cmdSeq : BitVec 16
  /-- The next command record carries CLRF (R339). -/
  clrf : Bool
  lastIdx : Bool
  apos : Word
  dirAt : Nat
  dir : Bool
  deriving DecidableEq, Repr

/-! ## Memory (12) -/

/-- Memory controller state beside its registers. -/
structure Mem where
  /-- DRAM bytes of the logical address space, unlisted = 0 (R511). -/
  bytes : List Host.Cell
  /-- Poisoned lines, 128 bytes each, by address / 128 (R360). -/
  poison : List Nat
  /-- Open rows: key (channel·3 + rank)·32 + bank, value row and last access (R367). -/
  rows : Sparse (Nat × Nat)
  /-- Sources in panic: port·256 + stream (R366). -/
  panic : List Nat
  /-- Parity error instants of each rank, 3·channel + rank (R363). -/
  parity : List (Nat × Nat)
  /-- Instant of the last refresh of each rank. -/
  refreshed : Sparse Nat
  /-- Instants of the last training and of the last retraining window of each rank (R372). -/
  trainedAt : Sparse Nat
  winAt : Sparse Nat
  /-- Ranks with a retraining under way, with a window of it not passed, and owing one since IDLE. -/
  training : List Nat
  winBad : List Nat
  oweTrain : List Nat
  /-- Highest device temperature of each rank at the last reading. -/
  temps : List Int
  /-- Lines of each rank read in the present patrol pass (R362). -/
  scrubAt : Sparse Nat
  /-- Watermark of each channel, and the start of its present pacing window: instant and watermark
  (R376, R377). -/
  wmark : List Nat
  rackFrom : List (Nat × Nat)
  /-- Stored map: ranks out of service, 3·channel + rank (R355). -/
  out : List Nat
  deriving DecidableEq, Repr

/-! ## Host stream (13) -/

/-- A descriptor in progress (R389). -/
structure Desc where
  d : Descriptor
  idx : BitVec 16
  attempt : Nat
  /-- Data received with a good CRC, to be written (R393). -/
  data : List Byte
  crc : Word
  wrote : Bool
  memErr : Bool
  deriving DecidableEq, Repr

/-- A pushed transfer (R399). -/
structure Push where
  ctx : Fin 8
  len : Nat
  addr : Addr
  blk : Nat
  deriving DecidableEq, Repr

/-- A queue of HS. -/
structure HsQueue where
  cur : Option Desc
  retry : Nat
  push : Option Push
  deriving DecidableEq, Repr

/-! ## Ring (14) -/

/-- A peer-delay port (R430). -/
structure PdPort where
  last4 : List Int
  outliers : Nat
  lastSent : Nat
  deriving DecidableEq, Repr

/-- A pair seen by HSR duplicate discard (R415). -/
structure DupEntry where
  src : BitVec 48
  seq : BitVec 16
  port : Fin 2
  at_ : Nat
  delivered : Bool
  /-- Already sent on the port opposite to the one it came in on. -/
  sent : List (Fin 2)
  deriving DecidableEq, Repr

/-- A module frame received for a cycle (R425). -/
structure CycRx where
  cycle : Word
  modid : Nat
  at_ : Nat
  ports : List (Fin 2)
  reqs : List RingReq
  sigs : List SigRec
  deriving DecidableEq, Repr

/-- A cyclic frame of this module: its cycle, the instant at which its edges are due, and its HSR
sequence number (R414, R422). -/
structure OwnFrame where
  cycle : Word
  due : Nat
  frame : CycFrame
  tag : Option (BitVec 16)
  deriving DecidableEq, Repr

/-- A grant in the ring history: global field, PT slice, box; or an unknown window (R260, R261). -/
structure RingGrant where
  g : Nat
  sigma : Nat
  box : Box
  /-- MT instant of the decision (R252). -/
  at_ : Nat
  deriving DecidableEq, Repr

/-- The ring block's state beside its registers. -/
structure Rng where
  hsrSeq : BitVec 16
  cycSeq : BitVec 16
  dups : List DupEntry
  rx : List CycRx
  own : List OwnFrame
  /-- Own changes of ring signals not yet in a record, oldest first: instant, signal, set (R426). -/
  chg : List (Nat × Nat × Bool)
  /-- Records held of the cycles not yet applied, by MODID, and the cycles applied of late. -/
  sigRecs : List (Nat × SigRec)
  applied : List Word
  /-- Cycles decided of late. -/
  decided : List Word
  hist : List RingGrant
  /-- No grants in windows that begin before this PT value (R261). -/
  abstainTil : Option Nat
  missRun : List Nat
  wdAt : Nat
  wdExp : Bool
  /-- BYPASS was written 1 since the expiry (R419). -/
  wdAck : Bool
  /-- An expiry is still to be recorded (R419). -/
  wdOwed : Bool
  supAt : Nat
  pd : Vector PdPort 2
  deriving DecidableEq, Repr

/-! ## Composition (10) -/

/-- A layer of the flat image: its place, and its pixels as (A, R, G, B) with 10-bit colours. -/
structure FlatLayer where
  layer : Nat
  x : Nat
  y : Nat
  ga : Nat
  rows : List (List (Nat × Nat × Nat × Nat))
  deriving DecidableEq, Repr

/-- The compositor's state beside its registers. -/
structure Cmp where
  /-- Instants of the pending flip requests of each layer (R318). -/
  pendAt : List (Option Nat)
  /-- Fence results of the last read, layer by layer; `none` with no read since the boundary (R319). -/
  fence : List (Option Bool)
  /-- A flattening runs; the image it has completed, waiting for the boundary; the image shown (R316,
  R317). -/
  flattening : Bool
  flatNew : Option (List FlatLayer)
  flat : Option (List FlatLayer)
  /-- The static run, in rising ZPOS, as last judged. -/
  run : List Nat
  /-- Layer by layer, the tile rows below this one have been judged in the present frame (R313). -/
  itcNext : List Nat
  /-- Boundaries since writeback was enabled (R326). -/
  wbCount : Nat
  training : Bool
  deriving DecidableEq, Repr

/-! ## Power, thermal, calibration (15) -/

/-- A step of a converter group whose spare is to take a channel (R460). -/
structure TopStep where
  spare : Nat
  channel : Nat
  deriving DecidableEq, Repr

/-- A host calibration write: until `due` the slice goes on with the value `v` (R465). -/
structure CalWrite where
  dac : Bool
  k : Fin 72
  gain : Bool
  v : BitVec 24
  due : Nat
  deriving DecidableEq, Repr

/-- Power, thermal and calibration state beside the registers. -/
structure Env where
  powered : Bool
  holdup : Bool
  /-- Instant of the last feed switch-over (R441). -/
  switchAt : Option Nat
  /-- Consecutive ticks of slack above 40 % (R22). -/
  govCount : Nat
  /-- A slack occurrence is under way (R24). -/
  slackOcc : Bool
  /-- Consecutive deviating reads of each sensor (R453). -/
  dev : List Nat
  /-- Tj has stayed below the clear values of WARN and of LIMIT since (R455). -/
  cool : List (Option Nat)
  /-- A wake waits for the board sensors to cool; a wake is under way (R450, R449). -/
  wakePend : Bool
  waking : Bool
  /-- VCORE set-point before the last change, and the instant of that change (R545). -/
  vslew : Nat × Nat
  /-- Reference correction of each group, 1/16 parts per 10^9 (R458). -/
  refcorr : List Int
  top : List (Option TopStep)
  /-- Next channel of the rotation of each group (R460). -/
  nextCh : List Nat
  calHeld : List CalWrite
  /-- Gate for at most one raise per management tick: source, tick index. -/
  onceTick : Sparse Nat
  deriving DecidableEq, Repr

/-! ## Safety, time, cellar book -/

/-- SAF's state beside its registers (16). -/
structure Saf where
  armFirst : Option Nat
  arming : Option Nat
  disarming : Bool
  ilkA : Bool
  ilkB : Bool
  /-- One channel open and the other closed since (R477). -/
  discAt : Option Nat
  /-- Both channels have been open together, and then closed together, since DISC (R477). -/
  bothOpen : Bool
  bothClosed : Bool
  msRun : Bool
  hbAt : Nat
  msfAt : Option Nat
  /-- HOLD began at (R447). -/
  holdAt : Option Nat
  deriving DecidableEq, Repr

/-- Time bases (02). -/
structure Tim where
  mtRun : Bool
  /-- PT accumulator: nanoseconds and 32 fraction bits, with the wraps not yet accounted for. -/
  ptAcc : Nat
  ptInc : Nat
  ptEpoch : BitVec 16
  /-- Instant of the last step, and PT with its epoch before it (R51). -/
  preStep : Option (Nat × Nat)
  /-- An increment has been committed since the last boundary (R49). -/
  incNew : Bool
  /-- Trim in force, compensation term, and TRIM_EFF (R40, R44). -/
  trim : Int
  term : Int
  eff : Int
  /-- Remainder of the conversion of MT ticks to cycles of the reference (R40). -/
  rem : Nat
  /-- Reference cycles of operating time, and those of the last save (R52). -/
  ot : Nat
  otSaved : Nat
  pcc : BitVec 24
  /-- OT save slots: OT in 1/65,536 s, power-cycle count; next slot to be written. -/
  slot0 : Nat × Nat
  slot1 : Nat × Nat
  /-- The CRC-32C that each slot carries (R52). -/
  crc0 : Nat
  crc1 : Nat
  nextSlot : Bool
  /-- Where OT was restored from: 0 newer slot or running, 1 older slot, 2 factory record (R514). -/
  otSrc : Nat
  /-- Worst slack and miss of each core in the present management tick (R62). -/
  worst : List (Nat × Bool)
  /-- Latched values: TIM_PT_EPOCH, TIM_OT_FRAC, TIM_MTK_PT, TIM_MTK_EPOCH (R47, R50). -/
  latchEpoch : BitVec 16
  latchOt : Word
  latchMtkPt : Word
  latchMtkEpoch : BitVec 16
  deriving DecidableEq, Repr

/-- A cellar-book record but its SEQ and CRC (R493). -/
structure Rec where
  sev : Nat
  src : Nat
  sum : Bool
  boot : Bool
  code : BitVec 16
  mt : Nat
  otsec : Word
  otfrac : BitVec 16
  pcc : BitVec 24
  payload : List Byte
  deriving DecidableEq, Repr

/-- Losses of a source since its last summary (R498). -/
structure Lost where
  n : Nat
  sev : Nat
  first : Nat
  last : Nat
  deriving DecidableEq, Repr

/-- The cellar book (17): ingress queue, and the slots that hold a valid record with its SEQ. -/
structure Cbk where
  queue : List Rec
  lost : Sparse Lost
  book : Sparse (Nat × Rec)
  bad : List Nat
  torn : List Nat
  /-- Losses not yet summarised stand since a loss (R500). -/
  owed : Bool
  deriving DecidableEq, Repr

/-- A queued entry of an edge stage (R54). -/
structure EdgeEntry where
  due : Nat
  val : EdgeVal
  deriving DecidableEq, Repr

/-- An edge stage: entries in order of due instant, and the writer held by the handshake (R56). -/
structure Stage where
  q : List EdgeEntry
  held : List EdgeEntry
  /-- Due instant of the last entry queued (R55). -/
  lastDue : Option Nat
  deriving DecidableEq, Repr

/-- The levels at the pins of one field (R209, R469). -/
structure FieldPins where
  lgate : Bool
  /-- The modulation pattern runs, since the instant `rise` (R214). -/
  lmod : Bool
  rise : Nat
  lpwr : Code
  gxc : Code
  gyc : Code
  gzc : Code
  gen : Bool
  /-- Instant from which the override of the current commands is released (R482). -/
  genAt : Nat
  fdlX : BitVec 16
  fdlY : BitVec 16
  /-- Latest accepted ADC codes (R536). -/
  gx : Code
  gy : Code
  gz : Code
  lpd : Code
  deriving DecidableEq, Repr

/-- The levels at the pins of one axis (R341). -/
structure AxPins where
  step : Bool
  dir : Bool
  axen : Bool
  deriving DecidableEq, Repr

/-- What leaves the module, newest first in `out`. -/
inductive Out where
  | fdl (n : Fin 16) (x y : BitVec 16) (seq : Byte) (crc : Byte)
  | trig (p : Fin 20) (at_ : Nat)
  | cyc (p : Fin 2) (f : CycFrame) (tag : Option (BitVec 16))
  | eth (p : Fin 2) (f : EthFrame)
  | supervision (p : Fin 2) (seq : BitVec 16)
  | pdelayReq (p : Fin 2)
  | pdelayResp (p : Fin 2) (turnaround : Nat)
  | msix (vec : BitVec 6)
  | completion (q : Fin 64) (idx : BitVec 16) (bytes : List Byte)
  | hostWrite (addr : BitVec 64) (bytes : List Byte)
  | memReply (port : Fin 12) (stream : Byte) (addr : Nat) (line : Option (List Byte))
  | hostRead (q : Fin 64) (addr : BitVec 64) (len : Nat)
  | cfgReply (a : BitVec 10) (v : Word)
  | readReply (a : Nat) (v : Word)
  | line (no : Nat) (px : List Nat)
  | aux (cmd : Word)
  deriving DecidableEq, Repr

/-- The module without its command queue. -/
structure Mach where
  /-- Ticks of 1.25 ns since the last reset, and MT (R38). -/
  now : Nat
  mt : Nat
  regs : Sparse Word
  /-- The registers as the present instant began, with what has been written since (R9). -/
  regs0 : Sparse Word
  /-- Values in force of shadowed registers (R8). -/
  force : Sparse Word
  /-- Held NAME_LO writes and latched NAME_HI values, by the address of NAME_LO (R5, R14). -/
  loHeld : Sparse Word
  hiLatch : Sparse Word
  /-- Pending unlock sequences: block id, instant of the first word (R32). -/
  unlock : Sparse Nat
  /-- Writes to gated blocks that wait for the end of IDLE, oldest first (R18). -/
  idleWrites : List (Nat × Word)
  tim : Tim
  saf : Saf
  cbk : Cbk
  env : Env
  mem : Mem
  ledger : Ledger
  exports : List LedgerExp
  fe : Vector Field 16
  coo : Vector CtxRec 8
  cooLayer : Word
  axis : Vector Axis 8
  slot : Vector Slot 160
  cam : Vector Cam 20
  pool : Vector Pool 16
  bi : Vector Bi 2
  cmp : Cmp
  hs : Vector HsQueue 64
  rng : Rng
  /-- The signal table (R97) and the holder of each token. -/
  signals : BitVec 128
  tokens : Sparse Ctx
  stages : List (Edge × Stage)
  pins : Vector FieldPins 16
  axpins : Vector AxPins 8
  /-- Encoder inputs: qualified levels A and B of each encoder (R171). -/
  enc : List (Bool × Bool)
  /-- Instants at which the A and B inputs last changed (R171). -/
  encAt : List (Option Nat × Option Nat)
  /-- Changes of the encoder counts with their instants, newest first (R268). -/
  encLog : List (List (Nat × Word))
  safeOut : Bool
  /-- The MSI-X function mask (R405). -/
  fnMask : Bool
  /-- The model's own counter that feeds the free values of Config. -/
  free : Nat
  /-- The word that the last read command answered. -/
  rdata : Word
  out : List Out
  deriving DecidableEq, Repr

/-- The state: the module and the queue of waiting commands, first in first out. -/
structure State where
  pending : List Instr
  m : Mach
  deriving DecidableEq, Repr

/-! ## Reset -/

/-- The initial state of a context (R73): mark speed 100 mm/s, jump speed 1,000 mm/s in 16.8. -/
def PState.init (pc : Addr) : PState :=
  { pc := pc, calls := [], loops := [], px := 0, py := 0, mspeed := 25600, jspeed := 256000,
    power := 0, dwell := 0, poolMode := 0, poolStat := 0, poolTarget := 0, focus := 0,
    overlap := 0, ramp := 0, mprof := 0, mat := 0, wshape := 0, wfreq := 0, wamp := 0,
    dep := true, k3 := false, laserOn := false, moved := false, spin := 0, wstart := none }

/-- A context never started (R113). -/
def CtxRec.reset : CtxRec :=
  { st := .idle, ret := .init 0, wait := none, writes := 0, fcode := 0, stopReq := false,
    readyAt := 0, retired := 0, khold := 0x4000 }

/-- The laser channel at reset: K_pool 1.0, inputs at the level of R531. -/
def Lch.reset : Lch :=
  { lastFall := none, fallSet := false, rdy := false, alm := false, kpool := [],
    knopool := 0x4000, khold := 0x4000, nopool := false, poolMode := 0, poolStat := 0, poolTarget := 0,
    facts := [], rdyAt := none, almAt := none, rampAt := none, rampLen := 0, coutHist := [], gintHist := [], pinHist := [] }

/-- The splitter at reset. -/
def Split.reset : Split :=
  { sampleAt := none, gmx := 0, gmy := 0, clamped := 0, seq := 0, lastX := 0x8000,
    lastY := 0x8000, lateRun := 0, lastReturn := none, heldRef := none,
    counts := [], lockFrom := none }

/-- No fault in hand. -/
def FsRec.reset : FsRec :=
  { causes := [], td := 0, ctx := 0, pc := 0, segIdx := 0, ticks := 0, x := 0, y := 0,
    inRun := false, path := [], rest := [], ftFrom := 0 }

/-- A field engine at reset. -/
def Field.reset : Field :=
  { ctx := Vector.replicate 8 CtxRec.reset, plan := [], ckpts := [], atCk := none, yielded := none, runAt := none, pl := .init 0, planEnd := 0,
    ckAt := 0, barrier := false, prefetch := [], legs := [], keptPlans := [], fresh := true, stopdec := 0, trail := [], replan := none, dwell := none, inRun := false,
    emit := none, spotX := 0, spotY := 0, spotZ := 0, emitted := [], past := [], ramp := none,
    planFrom := none, restX := 0, restY := 0, restZ := 0, lastOwner := 0,
    lastProf := 0, lastMat := 0, hist := [], reentry := none, cor := none, corPrev := none, corSince := 0,
    corPending := false,
    traceSeq := 0, lch := .reset, spl := .reset, fs := .reset, summ := [], ver := 0, resv := [], gtoDone := false }

/-- A slot at reset. -/
def Slot.reset : Slot :=
  { exec := [], doneAt := 0, lastTk := none, firstTk := 0, stopAt := none, swapReq := none,
    tuneVals := none,
    nout := [], nestFrom := [0, 0, 0, 0], lib := none, tune := [none, none], sats := List.replicate 8 0, libS := 0, libK := 1,
    libNin := 0, libTrim := 0, missed := false }

/-- A camera port at reset. -/
def Cam.reset : Cam :=
  { open_ := none, next := 0, trigs := [], lost := false, ring := [], ringSlot := 0 }

/-- An axis input at reset: inactive. -/
def AxIn.reset : AxIn :=
  { level := false, cand := false, count := 0, edgeAt := 0, candAt := 0, changes := [],
    raw := false }

/-- An axis at reset: OFF, position 0, REF = 0 (R351). -/
def Axis.reset : Axis :=
  { st := .off, ref := false, queue := [], plan := [], endAt := 0, endPos := 0, endVel := 0,
    lastTarget := 0, steps := 0, home := .reset, limp := .reset, limn := .reset, homing := none,
    homeFrom := 0, latch := 0, stop := none, qstop := false, chatter := false,
    faultPend := false, ctx := .reset, fbMiss := 0, fbSeen := false, cmdSeq := 0, clrf := false,
    lastIdx := false, apos := 0, dirAt := 0, dir := false }

/-- Memory at power-on: nothing listed. -/
def Mem.reset : Mem :=
  { bytes := [], poison := [], rows := [], panic := [], parity := [], refreshed := [], trainedAt := []
    winAt := [], training := [], winBad := [], oweTrain := [], temps := List.replicate 6 0
    scrubAt := [], wmark := [0, 0], rackFrom := [(0, 0), (0, 0)], out := [] }

/-- The ring block at reset. -/
def Rng.reset : Rng :=
  { hsrSeq := 0, cycSeq := 0, dups := [], rx := [], own := [], chg := [],
    sigRecs := [], applied := [], decided := [], hist := [], abstainTil := none, missRun := [0, 0],
    wdAt := 0, wdExp := false, wdAck := false, wdOwed := false, supAt := 0,
    pd := Vector.replicate 2 { last4 := [], outliers := 0, lastSent := 0 } }

/-- The compositor at reset. -/
def Cmp.reset : Cmp :=
  { pendAt := List.replicate 8 none, fence := List.replicate 8 none, flattening := false
    flatNew := none, flat := none, run := [], itcNext := List.replicate 8 0, wbCount := 0, training := false }

/-- The environment at power-on. -/
def Env.reset : Env :=
  { powered := true, holdup := false, switchAt := none, govCount := 0, slackOcc := false,
    dev := List.replicate 88 0, cool := [none, none], wakePend := false, waking := false,
    vslew := (850, 0),
    refcorr := List.replicate 16 0, top := List.replicate 16 none,
    nextCh := List.replicate 16 0, calHeld := [], onceTick := [] }

/-- SAF at power-on: outputs held in fail-safe, MS not running, both channels read open. -/
def Saf.reset : Saf :=
  { armFirst := none, arming := none, disarming := false, ilkA := false, ilkB := false,
    discAt := none, bothOpen := false, bothClosed := false, msRun := false, hbAt := 0,
    msfAt := none, holdAt := none }

/-- The time bases at power-on: MT holds 0 (R512); OT and the power-cycle count of the factory
record (R53). -/
def Tim.reset : Tim :=
  { mtRun := false, ptAcc := 0, ptInc := 0x140000000, ptEpoch := 0, preStep := none, incNew := false, trim := 0, term := 0, eff := 0, rem := 0, ot := 0,
    otSaved := 0, pcc := 1, slot0 := (0, 1), slot1 := (0, 0), crc0 := 0x1EA4FADD, crc1 := 0xBBE568A3, nextSlot := true, otSrc := 0,
    worst := List.replicate 8 (1023, false), latchEpoch := 0, latchOt := 0,
    latchMtkPt := 0, latchMtkEpoch := 0 }

/-- An empty cellar book. -/
def Cbk.reset : Cbk :=
  { queue := [], lost := [], book := [], bad := [], torn := [], owed := false }

/-- The pins of a field at reset (R508, R531). -/
def FieldPins.reset : FieldPins :=
  { lgate := false, lmod := false, rise := 0, lpwr := 0, gxc := 0, gyc := 0, gzc := 0, gen := false, genAt := 0,
    fdlX := 0x8000, fdlY := 0x8000, gx := 0, gy := 0, gz := 0, lpd := 0 }

/-- The module right after its first power-on reset, before boot. -/
def Mach.reset : Mach :=
  { now := 0, mt := 0, regs := [], regs0 := [], force := [], loHeld := [], hiLatch := [], unlock := [], idleWrites := [],
    tim := .reset, saf := .reset, cbk := .reset, env := .reset, mem := .reset,
    ledger := { base := 0, cells := [], depAt := 0, before := [] }, exports := [],
    fe := Vector.replicate 16 Field.reset, coo := Vector.replicate 8 CtxRec.reset, cooLayer := 0,
    axis := Vector.replicate 8 Axis.reset, slot := Vector.replicate 160 Slot.reset,
    cam := Vector.replicate 20 Cam.reset,
    pool := Vector.replicate 16 { pend := [], flags := 0, enAt := 0 },
    bi := Vector.replicate 2 { cur := none, susp := none, commits := List.replicate 7 none,
                               accepted := List.replicate 4 false },
    cmp := .reset, hs := Vector.replicate 64 { cur := none, retry := 0, push := none },
    rng := .reset, signals := 0, tokens := [], stages := [],
    pins := Vector.replicate 16 FieldPins.reset,
    axpins := Vector.replicate 8 { step := false, dir := false, axen := false },
    enc := List.replicate 4 (false, false), encAt := List.replicate 4 (none, none), encLog := List.replicate 4 [], safeOut := false, fnMask := false, free := 0, rdata := 0, out := [] }

/-- The state right after reset: BOOT, no command waiting. -/
def State.reset : State :=
  { pending := [], m := .reset }

end Sys2Proof.Machine
end

