-- ==== Sys2Proof/Machine/RegTable.lean ====
section
/-! DEFINITION. The register tables of the spec's chapters: every register of BAR0 and BAR2 with its
offset, replication, fields, access codes and reset values, and one name for each field. -/
namespace Sys2Proof.Machine

/-- Access codes (R8). -/
inductive Acc where
  | rw | ro | wo | w1c | w1s
  deriving DecidableEq, Repr

/-- How a field's reset value is given: a constant, or a value that depends on the instance. -/
inductive RTag where
  | const | flash | slice | spare | rkstate | class | pon | core | bisrc | coef | ccm | tone | zpos
  | blkid
  deriving DecidableEq, Repr

/-- A field of a register table: bits, access codes SH, P and X, reset value. -/
structure Fd where
  msb : Nat
  lsb : Nat
  acc : Acc
  sh : Bool
  p : Bool
  x : Bool
  tag : RTag
  rst : Nat
  deriving DecidableEq, Repr

/-- A row of a register table.  `pair`: 1 for NAME_LO, 2 for NAME_HI of a 64-bit pair (R5). -/
structure Row where
  off : Nat
  pair : Nat
  /-- Replication: count and stride, outermost first. -/
  dims : List (Nat × Nat)
  fields : List Fd
  deriving DecidableEq, Repr

/-- A field of one register: its address and bits. -/
structure RF where
  a : Nat
  msb : Nat
  lsb : Nat
  deriving DecidableEq, Repr

def Fd.rw (h l r : Nat) : Fd := ⟨h, l, .rw, false, false, false, .const, r⟩
def Fd.ro (h l r : Nat) : Fd := ⟨h, l, .ro, false, false, false, .const, r⟩
def Fd.wo (h l r : Nat) : Fd := ⟨h, l, .wo, false, false, false, .const, r⟩
def Fd.w1c (h l r : Nat) : Fd := ⟨h, l, .w1c, false, false, false, .const, r⟩
def Fd.w1s (h l r : Nat) : Fd := ⟨h, l, .w1s, false, false, false, .const, r⟩
def Fd.rwx (h l r : Nat) : Fd := ⟨h, l, .rw, false, false, true, .const, r⟩
def Fd.rwp (h l r : Nat) : Fd := ⟨h, l, .rw, false, true, false, .const, r⟩
def Fd.wop (h l r : Nat) : Fd := ⟨h, l, .wo, false, true, false, .const, r⟩
def Fd.w1sp (h l r : Nat) : Fd := ⟨h, l, .w1s, false, true, false, .const, r⟩
def Fd.w1sx (h l r : Nat) : Fd := ⟨h, l, .w1s, false, false, true, .const, r⟩
def Fd.rwsh (h l r : Nat) : Fd := ⟨h, l, .rw, true, false, false, .const, r⟩
/-- The field with a reset value that depends on the instance. -/
def Fd.by (f : Fd) (t : RTag) : Fd := { f with tag := t }

def glbRows0 : List Row :=
  [ ⟨0x0, 0, [], [.ro 31 0 0x16001D57]⟩
  , ⟨0x4, 0, [], [.ro 7 0 0xA1]⟩
  , ⟨0x8, 0, [], [(Fd.ro 31 0 0).by .flash]⟩
  , ⟨0xC, 0, [], [.ro 0 0 0, .w1c 1 1 0]⟩
  , ⟨0x10, 0, [], [.ro 2 0 0, .ro 5 4 0, .w1c 8 8 0, .ro 15 12 0]⟩
  , ⟨0x14, 0, [], [.wo 2 0 0]⟩
  , ⟨0x20, 0, [], [.wo 31 0 0]⟩
  , ⟨0x24, 0, [], [.wo 31 0 0]⟩
  , ⟨0x28, 0, [], [.ro 3 0 0, .w1c 8 8 0]⟩
  , ⟨0x2C, 1, [], [.ro 31 0 0]⟩
  , ⟨0x30, 2, [], [.ro 15 0 0]⟩
  , ⟨0xF0, 0, [], [.wo 31 0 0]⟩
  , ⟨0xF4, 0, [], [.ro 0 0 0, .w1c 1 1 0, .w1c 2 2 0, (Fd.ro 15 8 0).by .blkid]⟩ ]

/-- The registers of GLB. -/
def glbRows : List Row := glbRows0

def pwrRows0 : List Row :=
  [ ⟨0x0, 0, [], [.ro 0 0 0, .ro 1 1 0, .ro 2 2 0, .rw 31 16 0]⟩
  , ⟨0x4, 0, [], [.ro 15 0 0]⟩
  , ⟨0x8, 0, [], [.ro 15 0 0]⟩
  , ⟨0xC, 0, [], [.w1s 0 0 0, .w1c 1 1 0]⟩
  , ⟨0x20, 0, [], [.wo 1 0 0]⟩
  , ⟨0x24, 0, [], [.ro 1 0 0, .w1c 2 2 0, .ro 7 4 0]⟩
  , ⟨0x28, 0, [], [.rw 31 0 0]⟩
  , ⟨0x2C, 0, [], [.rw 31 0 0]⟩
  , ⟨0x30, 0, [], [.w1c 7 0 0]⟩
  , ⟨0x34, 0, [], [.ro 9 0 850, .ro 25 16 0]⟩
  , ⟨0xF0, 0, [], [.wo 31 0 0]⟩
  , ⟨0xF4, 0, [], [.ro 0 0 0, .w1c 1 1 0, .w1c 2 2 0, (Fd.ro 15 8 0).by .blkid]⟩ ]

/-- The registers of PWR. -/
def pwrRows : List Row := pwrRows0

def thmRows0 : List Row :=
  [ ⟨0x0, 0, [], [.ro 15 0 0, .ro 17 16 0]⟩
  , ⟨0x4, 0, [], [.ro 0 0 0, .ro 1 1 0, .ro 15 8 0]⟩
  , ⟨0x1000, 0, [(88, 4)], [.ro 15 0 0, .ro 16 16 0, .ro 17 17 0, .w1s 18 18 0]⟩
  , ⟨0xF0, 0, [], [.wo 31 0 0]⟩
  , ⟨0xF4, 0, [], [.ro 0 0 0, .w1c 1 1 0, .w1c 2 2 0, (Fd.ro 15 8 0).by .blkid]⟩ ]

/-- The registers of THM. -/
def thmRows : List Row := thmRows0

def timRows0 : List Row :=
  [ ⟨0x0, 1, [], [.ro 31 0 0]⟩
  , ⟨0x4, 2, [], [.ro 31 0 0]⟩
  , ⟨0x8, 1, [], [.rwsh 31 0 0]⟩
  , ⟨0xC, 2, [], [.rwsh 7 0 0]⟩
  , ⟨0x10, 1, [], [.ro 31 0 0]⟩
  , ⟨0x14, 2, [], [.ro 7 0 0]⟩
  , ⟨0x18, 0, [], [.ro 0 0 0, .w1c 1 1 0, .w1c 2 2 0, .w1c 3 3 0, .w1c 4 4 0, .ro 5 5 0, .w1c 6 6 0]⟩
  , ⟨0x20, 0, [], [.ro 31 0 0]⟩
  , ⟨0x24, 0, [], [.ro 15 0 0]⟩
  , ⟨0x28, 1, [], [.rwsh 31 0 0x40000000]⟩
  , ⟨0x2C, 2, [], [.rwsh 7 0 1]⟩
  , ⟨0x30, 0, [], [.wo 29 0 0, .wo 30 30 0, .wo 31 31 0]⟩
  , ⟨0x34, 0, [], [.rw 29 0 10000]⟩
  , ⟨0x40, 0, [], [.ro 31 0 0]⟩
  , ⟨0x44, 0, [], [.ro 31 0 0]⟩
  , ⟨0x48, 0, [], [.ro 15 0 0]⟩
  , ⟨0x50, 0, [], [.ro 31 0 0]⟩
  , ⟨0x54, 0, [], [.ro 15 0 0]⟩
  , ⟨0x58, 0, [], [.ro 23 0 0]⟩
  , ⟨0x60, 0, [], [.rw 0 0 1]⟩
  , ⟨0x64, 0, [], [.ro 15 0 0]⟩
  , ⟨0x68, 0, [], [.ro 31 0 0]⟩
  , ⟨0x100, 0, [(64, 4)], [(Fd.rwx 31 0 0).by .flash]⟩
  , ⟨0x200, 0, [(8, 4)], [.ro 9 0 1023, .ro 10 10 0]⟩ ]

def timRows1 : List Row :=
  [ ⟨0x220, 0, [], [.ro 9 0 1023, .ro 10 10 0, .ro 14 12 0]⟩
  , ⟨0x224, 0, [(6, 4)], [.rw 15 0 0]⟩
  , ⟨0x23C, 0, [], [.ro 2 0 0, .ro 3 3 0, .ro 15 8 0]⟩
  , ⟨0xF0, 0, [], [.wo 31 0 0]⟩
  , ⟨0xF4, 0, [], [.ro 0 0 0, .w1c 1 1 0, .w1c 2 2 0, (Fd.ro 15 8 0).by .blkid]⟩ ]

/-- The registers of TIM. -/
def timRows : List Row := timRows0 ++ timRows1

def safRows0 : List Row :=
  [ ⟨0x0, 0, [], [.w1c 4 0 0, .ro 8 8 0]⟩
  , ⟨0x4, 0, [], [.ro 0 0 0, .ro 1 1 0, .w1c 2 2 0, .ro 3 3 0]⟩
  , ⟨0x8, 0, [], [.rw 7 0 20]⟩
  , ⟨0xC, 0, [], [.rw 15 0 0]⟩
  , ⟨0x10, 0, [], [.rw 15 0 2000]⟩
  , ⟨0x14, 0, [], [.rw 23 0 8192]⟩
  , ⟨0x18, 0, [], [.rw 7 0 20]⟩
  , ⟨0x20, 0, [], [.wo 31 0 0]⟩
  , ⟨0x24, 0, [], [.ro 3 0 0, .w1c 4 4 0]⟩
  , ⟨0x100, 1, [(8, 0x10)], [.rw 31 12 0]⟩
  , ⟨0x104, 2, [(8, 0x10)], [.rw 3 0 0]⟩
  , ⟨0x108, 0, [(8, 0x10)], [.rw 23 0 0]⟩
  , ⟨0x1000, 0, [(16, 0x40)], [.ro 0 0 0, .ro 1 1 0, .ro 2 2 0, .ro 3 3 1, .ro 4 4 1, .ro 5 5 0, .ro 6 6 0, .ro 7 7 0, .w1c 8 8 0, .ro 15 12 0, .ro 23 16 0]⟩
  , ⟨0x1004, 0, [(16, 0x40)], [.w1s 0 0 0, .wo 1 1 0, .w1s 2 2 0]⟩
  , ⟨0x1008, 1, [(16, 0x40)], [.ro 31 0 0]⟩
  , ⟨0x100C, 2, [(16, 0x40)], [.ro 31 0 0]⟩
  , ⟨0x1010, 1, [(16, 0x40)], [.rw 31 0 0]⟩
  , ⟨0x1014, 2, [(16, 0x40)], [.rw 31 0 0]⟩
  , ⟨0x1018, 0, [(16, 0x40)], [.rw 31 0 0]⟩
  , ⟨0xF0, 0, [], [.wo 31 0 0]⟩
  , ⟨0xF4, 0, [], [.ro 0 0 0, .w1c 1 1 0, .w1c 2 2 0, (Fd.ro 15 8 0).by .blkid]⟩ ]

/-- The registers of SAF. -/
def safRows : List Row := safRows0

def cbkRows0 : List Row :=
  [ ⟨0x0, 0, [], [.ro 0 0 0, .ro 1 1 0]⟩
  , ⟨0x4, 0, [], [.ro 17 0 0]⟩
  , ⟨0x8, 1, [], [.ro 31 0 1]⟩
  , ⟨0xC, 2, [], [.ro 15 0 0]⟩
  , ⟨0x10, 0, [], [.ro 16 0 0]⟩
  , ⟨0x14, 0, [], [.ro 10 0 0, .rw 26 16 0]⟩
  , ⟨0x18, 0, [], [.rw 31 0 0]⟩
  , ⟨0x1C, 0, [], [.ro 31 0 0]⟩
  , ⟨0x20, 0, [], [.ro 31 0 0]⟩
  , ⟨0x40, 0, [(7, 4)], [.ro 16 0 0, .ro 31 31 1]⟩
  , ⟨0x1000, 0, [(192, 4)], [.rw 1 0 1]⟩
  , ⟨0x2000, 0, [(192, 4)], [.rw 31 0 0]⟩
  , ⟨0xF0, 0, [], [.wo 31 0 0]⟩
  , ⟨0xF4, 0, [], [.ro 0 0 0, .w1c 1 1 0, .w1c 2 2 0, (Fd.ro 15 8 0).by .blkid]⟩ ]

/-- The registers of CBK. -/
def cbkRows : List Row := cbkRows0

def afeRows0 : List Row :=
  [ ⟨0x0, 0, [], [.rw 0 0 1]⟩
  , ⟨0x4, 0, [], [.rw 31 0 0]⟩
  , ⟨0x40, 0, [(16, 4)], [(Fd.rwx 31 0 0).by .flash]⟩
  , ⟨0x100, 0, [(64, 4)], [(Fd.ro 6 0 0).by .slice]⟩
  , ⟨0x200, 0, [(64, 4)], [(Fd.ro 6 0 0).by .slice]⟩
  , ⟨0x1000, 0, [(72, 16)], [(Fd.rw 23 0 0).by .flash]⟩
  , ⟨0x1004, 0, [(72, 16)], [(Fd.rw 23 0 0).by .flash]⟩
  , ⟨0x1008, 0, [(72, 16)], [.ro 1 0 0, .ro 2 2 0, (Fd.ro 3 3 0).by .spare, .w1c 4 4 0, .w1s 5 5 0, .ro 9 8 0]⟩
  , ⟨0x2000, 0, [(72, 16)], [(Fd.rw 23 0 0).by .flash]⟩
  , ⟨0x2004, 0, [(72, 16)], [(Fd.rw 23 0 0).by .flash]⟩
  , ⟨0x2008, 0, [(72, 16)], [.ro 1 0 0, .ro 2 2 0, (Fd.ro 3 3 0).by .spare, .w1c 4 4 0, .w1s 5 5 0, .ro 9 8 0]⟩
  , ⟨0xF0, 0, [], [.wo 31 0 0]⟩
  , ⟨0xF4, 0, [], [.ro 0 0 0, .w1c 1 1 0, .w1c 2 2 0, (Fd.ro 15 8 0).by .blkid]⟩ ]

/-- The registers of AFE. -/
def afeRows : List Row := afeRows0

def hsRows0 : List Row :=
  [ ⟨0x0, 0, [], [.rw 0 0 0]⟩
  , ⟨0x4, 0, [], [.ro 0 0 0, .ro 3 1 0, .ro 7 4 0, .ro 8 8 0]⟩
  , ⟨0x8, 0, [], [.ro 3 0 0, .ro 11 4 0]⟩
  , ⟨0xC, 0, [], [.rw 31 0 0]⟩
  , ⟨0x10, 0, [], [(Fd.ro 15 0 0).by .flash, .ro 31 16 0x1600]⟩
  , ⟨0x100, 0, [(6, 4)], [.w1c 31 0 0]⟩
  , ⟨0x1000, 0, [(192, 4)], [.rw 5 0 0, .rw 7 7 0]⟩
  , ⟨0xF0, 0, [], [.wo 31 0 0]⟩
  , ⟨0xF4, 0, [], [.ro 0 0 0, .w1c 1 1 0, .w1c 2 2 0, (Fd.ro 15 8 0).by .blkid]⟩ ]

/-- The registers of HS. -/
def hsRows : List Row := hsRows0

def memRows0 : List Row :=
  [ ⟨0x0, 0, [], [.rw 0 0 1]⟩
  , ⟨0x4, 0, [], [.ro 0 0 0, .ro 1 1 0]⟩
  , ⟨0x8, 0, [], [.ro 5 0 32, .ro 13 8 16]⟩
  , ⟨0x10, 0, [], [.rwx 11 0 400]⟩
  , ⟨0x14, 0, [], [.rwx 7 0 2, .rwx 15 8 10, .rwx 31 16 100]⟩
  , ⟨0x18, 0, [], [.rw 7 0 4, .rw 31 16 1000]⟩
  , ⟨0x1C, 0, [], [.rw 7 0 24]⟩
  , ⟨0x20, 0, [], [.rw 5 0 20, .ro 13 8 20]⟩
  , ⟨0x24, 0, [], [.wo 0 0 0, .wo 1 1 0, .wo 31 31 0]⟩
  , ⟨0x30, 0, [(2, 0x10)], [.ro 1 0 0, .w1c 2 2 0, .ro 5 4 0, .ro 6 6 0, .ro 9 8 0]⟩
  , ⟨0x34, 1, [(2, 0x10)], [.ro 31 0 0]⟩
  , ⟨0x38, 2, [(2, 0x10)], [.ro 0 0 0]⟩
  , ⟨0x3C, 0, [(2, 0x10)], [.rw 31 0 0]⟩
  , ⟨0x60, 1, [], [.ro 31 0 0]⟩
  , ⟨0x64, 2, [], [.ro 3 0 0]⟩
  , ⟨0x68, 0, [], [.ro 3 0 0, .ro 15 8 0, .ro 16 16 0]⟩
  , ⟨0x6C, 0, [], [.rw 31 0 0]⟩
  , ⟨0x70, 0, [], [.rw 31 0 0]⟩
  , ⟨0x74, 0, [], [.w1sx 0 0 0]⟩
  , ⟨0x1000, 0, [(2, 0x1000)], [.ro 1 0 0, .ro 3 2 1, .ro 5 4 2]⟩
  , ⟨0x1004, 0, [(2, 0x1000)], [.ro 7 0 0, .ro 8 8 0]⟩
  , ⟨0x1100, 0, [(2, 0x1000), (3, 0x40)], [(Fd.ro 2 0 0).by .rkstate, .w1c 3 3 0]⟩
  , ⟨0x1104, 0, [(2, 0x1000), (3, 0x40)], [.rw 31 0 0]⟩
  , ⟨0x1108, 0, [(2, 0x1000), (3, 0x40)], [.rw 31 0 0]⟩ ]

def memRows1 : List Row :=
  [ ⟨0x110C, 0, [(2, 0x1000), (3, 0x40)], [.rw 31 0 0]⟩
  , ⟨0x1110, 0, [(2, 0x1000), (3, 0x40)], [.ro 7 0 0, .rw 31 16 0]⟩
  , ⟨0x1114, 0, [(2, 0x1000), (3, 0x40)], [.rw 31 0 0]⟩
  , ⟨0x4000, 0, [(12, 0x40)], [(Fd.rwx 1 0 0).by .class, (Fd.rw 7 4 0).by .pon, .rw 11 8 8]⟩
  , ⟨0x4004, 0, [(12, 0x40)], [.ro 0 0 0]⟩
  , ⟨0x4008, 0, [(12, 0x40)], [.rw 31 0 0]⟩
  , ⟨0x400C, 0, [(12, 0x40)], [.rw 31 0 0]⟩
  , ⟨0x4010, 0, [(12, 0x40)], [.rw 31 0 0]⟩
  , ⟨0xF0, 0, [], [.wo 31 0 0]⟩
  , ⟨0xF4, 0, [], [.ro 0 0 0, .w1c 1 1 0, .w1c 2 2 0, (Fd.ro 15 8 0).by .blkid]⟩ ]

/-- The registers of MEM. -/
def memRows : List Row := memRows0 ++ memRows1

def ceRows0 : List Row :=
  [ ⟨0x100, 0, [(8, 4)], [.ro 16 0 0]⟩
  , ⟨0x180, 1, [], [.rw 31 12 0]⟩
  , ⟨0x184, 2, [], [.rw 3 0 0]⟩
  , ⟨0x800, 0, [(96, 4)], [.rwx 7 0 0]⟩
  , ⟨0x1000, 0, [(160, 0x40)], [.rw 6 0 1, .rw 7 7 0, .rw 13 8 0, .rw 14 14 0, (Fd.rwx 18 16 0).by .core, .rw 23 20 3, .rw 28 24 16]⟩
  , ⟨0x1004, 0, [(160, 0x40)], [.rw 15 0 1000, .rw 22 16 4]⟩
  , ⟨0x1008, 0, [(160, 0x40)], [.wo 1 0 0]⟩
  , ⟨0x100C, 0, [(160, 0x40)], [.ro 1 0 0, .w1c 2 2 0, .w1c 3 3 0, .ro 7 4 0, .w1c 8 8 0, .w1c 9 9 0, .w1c 10 10 0, .ro 11 11 0, .ro 12 12 0, .ro 13 13 0, .w1c 14 14 0, .ro 19 16 0, .ro 31 24 0]⟩
  , ⟨0x1010, 0, [(160, 0x40)], [.rw 15 0 0, .rw 31 16 0]⟩
  , ⟨0x1014, 0, [(160, 0x40)], [.w1sp 0 0 0, .w1s 1 1 0]⟩
  , ⟨0x1018, 0, [(160, 0x40), (2, 4)], [.rw 7 0 0, .rw 9 8 0, .rw 15 15 0, .rw 23 16 0, .rw 25 24 0, .rw 31 31 0]⟩
  , ⟨0x1020, 0, [(160, 0x40)], [.rw 6 0 0, .rw 7 7 0, .rw 14 8 0, .rw 15 15 0, .rw 22 16 0, .rw 23 23 0, .rw 30 24 0, .rw 31 31 0]⟩
  , ⟨0x1024, 0, [(160, 0x40)], [.ro 8 0 0]⟩
  , ⟨0x1028, 0, [(160, 0x40), (4, 4)], [.rwp 31 0 0]⟩
  , ⟨0x1038, 0, [(160, 0x40)], [.rw 3 0 0]⟩
  , ⟨0x4000, 0, [(160, 0x10), (4, 4)], [.ro 31 0 0]⟩
  , ⟨0x6000, 0, [(160, 0x20), (8, 4)], [.rw 31 0 0]⟩
  , ⟨0x100000, 0, [(160, 0x400), (256, 4)], [.rwx 31 0 0]⟩
  , ⟨0x200000, 0, [(160, 0x400), (2, 0x200), (8, 0x40), (8, 4)], [.rwx 23 0 0]⟩
  , ⟨0x200020, 0, [(160, 0x400), (2, 0x200), (8, 0x40)], [.rwx 7 0 0]⟩
  , ⟨0x280000, 0, [(160, 0x200), (8, 0x40), (8, 4)], [.rwx 23 0 0]⟩
  , ⟨0x280020, 0, [(160, 0x200), (8, 0x40)], [.rwx 7 0 0]⟩
  , ⟨0x300000, 0, [(96, 0x1000), (1024, 4)], [.rwx 23 0 0]⟩
  , ⟨0xF0, 0, [], [.wo 31 0 0]⟩ ]

def ceRows1 : List Row :=
  [ ⟨0xF4, 0, [], [.ro 0 0 0, .w1c 1 1 0, .w1c 2 2 0, (Fd.ro 15 8 0).by .blkid]⟩ ]

/-- The registers of CE. -/
def ceRows : List Row := ceRows0 ++ ceRows1

def feRows0 : List Row :=
  [ ⟨0x0, 0, [(16, 0x40000)], [.ro 2 0 0, .ro 3 3 0, .ro 4 4 0, .ro 10 8 6, .ro 14 12 6]⟩
  , ⟨0x4, 0, [(16, 0x40000)], [.ro 7 0 0, .ro 10 8 0, .ro 11 11 0]⟩
  , ⟨0x8, 1, [(16, 0x40000)], [.ro 31 0 0]⟩
  , ⟨0xC, 2, [(16, 0x40000)], [.ro 3 0 0]⟩
  , ⟨0x10, 0, [(16, 0x40000)], [.rw 13 0 4000]⟩
  , ⟨0x14, 0, [(16, 0x40000)], [.ro 15 0 0, .ro 24 16 0]⟩
  , ⟨0x18, 0, [(16, 0x40000)], [.ro 15 0 0]⟩
  , ⟨0x100, 0, [(16, 0x40000)], [.rw 31 0 0]⟩
  , ⟨0x104, 0, [(16, 0x40000)], [.rw 31 0 0]⟩
  , ⟨0x108, 0, [(16, 0x40000)], [.rw 31 0 0]⟩
  , ⟨0x10C, 0, [(16, 0x40000)], [.rw 15 0 0]⟩
  , ⟨0x110, 0, [(16, 0x40000)], [.rw 31 0 0]⟩
  , ⟨0x120, 1, [(16, 0x40000), (4, 8)], [.rw 31 0 0]⟩
  , ⟨0x124, 2, [(16, 0x40000), (4, 8)], [.rw 31 0 0]⟩
  , ⟨0x200, 0, [(16, 0x40000)], [.rw 0 0 0, .rw 4 1 0]⟩
  , ⟨0x204, 1, [(16, 0x40000)], [.rw 31 12 0]⟩
  , ⟨0x208, 2, [(16, 0x40000)], [.rw 3 0 0]⟩
  , ⟨0x20C, 0, [(16, 0x40000)], [.ro 23 0 0]⟩
  , ⟨0x210, 0, [(16, 0x40000)], [.rw 23 0 0]⟩
  , ⟨0x214, 0, [(16, 0x40000)], [.rw 31 0 0]⟩
  , ⟨0x1000, 0, [(16, 0x40000), (8, 0x100)], [.ro 2 0 0, .w1c 3 3 0, .ro 7 4 0, .ro 15 8 0]⟩
  , ⟨0x1004, 0, [(16, 0x40000), (8, 0x100)], [.rw 3 0 0, .rw 4 4 1, .rw 5 5 1]⟩
  , ⟨0x1008, 0, [(16, 0x40000), (8, 0x100)], [.wo 1 0 0]⟩
  , ⟨0x100C, 1, [(16, 0x40000), (8, 0x100)], [.rw 31 3 0]⟩ ]

def feRows1 : List Row :=
  [ ⟨0x1010, 2, [(16, 0x40000), (8, 0x100)], [.rw 3 0 0]⟩
  , ⟨0x1014, 1, [(16, 0x40000), (8, 0x100)], [.ro 31 0 0]⟩
  , ⟨0x1018, 2, [(16, 0x40000), (8, 0x100)], [.ro 3 0 0]⟩
  , ⟨0x101C, 0, [(16, 0x40000), (8, 0x100)], [.rw 31 0 0]⟩
  , ⟨0x1020, 1, [(16, 0x40000), (8, 0x100)], [.ro 31 0 0]⟩
  , ⟨0x1024, 2, [(16, 0x40000), (8, 0x100)], [.ro 31 0 0]⟩
  , ⟨0x1028, 0, [(16, 0x40000), (8, 0x100)], [.ro 31 0 0]⟩
  , ⟨0x102C, 0, [(16, 0x40000), (8, 0x100)], [.ro 31 0 0]⟩
  , ⟨0x1030, 0, [(16, 0x40000), (8, 0x100)], [.ro 23 0 25600]⟩
  , ⟨0x1034, 0, [(16, 0x40000), (8, 0x100)], [.ro 23 0 256000]⟩
  , ⟨0x1038, 0, [(16, 0x40000), (8, 0x100)], [.ro 15 0 0]⟩
  , ⟨0x103C, 0, [(16, 0x40000), (8, 0x100)], [.ro 31 0 0]⟩
  , ⟨0x1040, 0, [(16, 0x40000), (8, 0x100)], [.ro 15 0 0, .ro 19 16 0, .ro 21 20 0]⟩
  , ⟨0x1044, 0, [(16, 0x40000), (8, 0x100)], [.ro 31 0 0]⟩
  , ⟨0x1048, 0, [(16, 0x40000), (8, 0x100)], [.ro 31 0 0]⟩
  , ⟨0x104C, 0, [(16, 0x40000), (8, 0x100)], [.ro 15 0 0]⟩
  , ⟨0x1050, 0, [(16, 0x40000), (8, 0x100)], [.ro 3 0 0, .ro 9 8 0, .ro 19 16 0, .ro 20 20 1, .ro 21 21 0]⟩
  , ⟨0x1054, 0, [(16, 0x40000), (8, 0x100)], [.ro 15 0 0, .ro 31 16 0]⟩
  , ⟨0x1058, 0, [(16, 0x40000), (8, 0x100)], [.ro 31 0 0]⟩
  , ⟨0x105C, 0, [(16, 0x40000), (8, 0x100)], [.ro 3 0 0, .ro 7 4 0]⟩
  , ⟨0x2000, 0, [(16, 0x40000), (16, 0x40)], [.rw 23 0 1024000]⟩
  , ⟨0x2004, 0, [(16, 0x40000), (16, 0x40)], [.rw 23 0 2560000]⟩
  , ⟨0x2008, 0, [(16, 0x40000), (16, 0x40)], [.rw 31 0 100000]⟩
  , ⟨0x200C, 0, [(16, 0x40000), (16, 0x40)], [.rw 31 0 1000000]⟩ ]

def feRows2 : List Row :=
  [ ⟨0x2010, 0, [(16, 0x40000), (16, 0x40)], [.rw 23 0 256000]⟩
  , ⟨0x2014, 0, [(16, 0x40000), (16, 0x40)], [.rwx 23 0 2560000]⟩
  , ⟨0x2018, 0, [(16, 0x40000), (16, 0x40)], [.rwx 31 0 20000]⟩
  , ⟨0x201C, 0, [(16, 0x40000), (16, 0x40)], [.rwx 31 0 100000]⟩
  , ⟨0x2020, 0, [(16, 0x40000), (16, 0x40)], [.rwx 10 0 200]⟩
  , ⟨0x2024, 0, [(16, 0x40000), (16, 0x40)], [.rw 12 0 1000, .rw 28 16 50]⟩
  , ⟨0x2028, 0, [(16, 0x40000), (16, 0x40)], [.rwx 31 0 20000]⟩
  , ⟨0x202C, 0, [(16, 0x40000), (16, 0x40)], [.rw 31 0 0xFFFB1E00]⟩
  , ⟨0x2030, 0, [(16, 0x40000), (16, 0x40)], [.rw 31 0 320000]⟩
  , ⟨0x2034, 0, [(16, 0x40000), (16, 0x40)], [.rw 23 0 256000]⟩
  , ⟨0x2038, 0, [(16, 0x40000), (16, 0x40)], [.rw 15 0 16]⟩
  , ⟨0x2400, 1, [(16, 0x40000)], [.rw 31 12 0]⟩
  , ⟨0x2404, 2, [(16, 0x40000)], [.rw 3 0 0]⟩
  , ⟨0x2408, 0, [(16, 0x40000)], [.wo 0 0 0]⟩
  , ⟨0x240C, 0, [(16, 0x40000)], [.ro 0 0 0, .ro 1 1 0, .ro 7 4 0, .w1c 8 8 0]⟩
  , ⟨0x2410, 0, [(16, 0x40000)], [.ro 31 0 0]⟩
  , ⟨0x2414, 0, [(16, 0x40000)], [.ro 31 0 0]⟩
  , ⟨0x2418, 0, [(16, 0x40000)], [.ro 31 0 0]⟩
  , ⟨0x241C, 0, [(16, 0x40000)], [.rw 31 0 0]⟩
  , ⟨0x2420, 0, [(16, 0x40000)], [.rw 31 0 0]⟩
  , ⟨0x2600, 0, [(16, 0x40000)], [.rw 15 0 2000]⟩
  , ⟨0x2604, 0, [(16, 0x40000)], [.rw 23 0 65536]⟩
  , ⟨0x2608, 0, [(16, 0x40000)], [.rw 7 0 4]⟩
  , ⟨0x2610, 0, [(16, 0x40000)], [.rw 31 0 0]⟩ ]

def feRows3 : List Row :=
  [ ⟨0x2614, 0, [(16, 0x40000)], [.rw 8 0 256]⟩
  , ⟨0x2618, 0, [(16, 0x40000)], [.rw 31 0 0]⟩
  , ⟨0x261C, 0, [(16, 0x40000)], [.rw 31 0 0]⟩
  , ⟨0x2620, 0, [(16, 0x40000)], [.rw 31 0 0]⟩
  , ⟨0x2624, 0, [(16, 0x40000)], [.rw 31 0 0]⟩
  , ⟨0x2628, 0, [(16, 0x40000)], [.rw 31 0 0]⟩
  , ⟨0x262C, 0, [(16, 0x40000)], [.rw 12 0 0, .rw 28 16 0]⟩
  , ⟨0x2800, 0, [(16, 0x40000)], [.rw 3 0 0, .ro 4 4 0]⟩
  , ⟨0x2804, 0, [(16, 0x40000)], [.rw 31 0 0]⟩
  , ⟨0x2808, 0, [(16, 0x40000)], [.rw 31 0 0]⟩
  , ⟨0x280C, 0, [(16, 0x40000)], [.rwp 31 0 0]⟩
  , ⟨0x2810, 0, [(16, 0x40000)], [.w1sp 0 0 0]⟩
  , ⟨0x2814, 0, [(16, 0x40000)], [.rw 6 0 4]⟩
  , ⟨0x2818, 0, [(16, 0x40000)], [.ro 31 0 0]⟩
  , ⟨0x281C, 0, [(16, 0x40000)], [.ro 31 0 0]⟩
  , ⟨0x2820, 0, [(16, 0x40000)], [.rw 31 0 0]⟩
  , ⟨0x2A00, 0, [(16, 0x40000)], [.rw 0 0 0, .rw 1 1 1]⟩
  , ⟨0x2A04, 0, [(16, 0x40000)], [.rw 15 0 0x8000, .rw 31 16 0x8000]⟩
  , ⟨0x2A08, 0, [(16, 0x40000)], [.rwx 31 0 0x80000]⟩
  , ⟨0x2A0C, 0, [(16, 0x40000)], [.rwx 31 0 0]⟩
  , ⟨0x2A10, 0, [(16, 0x40000)], [.rwx 31 0 0]⟩
  , ⟨0x2A14, 0, [(16, 0x40000)], [.rwx 31 0 0x80000]⟩
  , ⟨0x2A18, 0, [(16, 0x40000)], [.rw 15 0 0]⟩
  , ⟨0x2A1C, 0, [(16, 0x40000)], [.ro 0 0 0, .ro 4 1 0, .ro 5 5 0, .ro 15 8 0]⟩ ]

def feRows4 : List Row :=
  [ ⟨0x2A20, 0, [(16, 0x40000)], [.rw 31 0 0]⟩
  , ⟨0x2A24, 0, [(16, 0x40000)], [.rw 31 0 0]⟩
  , ⟨0x4000, 0, [(16, 0x40000)], [.rw 0 0 0, .rw 1 1 1, .rw 2 2 1, .rw 3 3 0, .rw 4 4 0, .rw 10 8 1]⟩
  , ⟨0x4004, 0, [(16, 0x40000)], [.rw 18 0 524287]⟩
  , ⟨0x4008, 0, [(16, 0x40000)], [.rwx 18 0 524287]⟩
  , ⟨0x400C, 0, [(16, 0x40000)], [.rw 15 0 0]⟩
  , ⟨0x4010, 0, [(16, 0x40000)], [.rw 12 0 0]⟩
  , ⟨0x4014, 0, [(16, 0x40000)], [.rw 9 0 0, .rw 25 16 0]⟩
  , ⟨0x4018, 0, [(16, 0x40000)], [.rw 9 0 40]⟩
  , ⟨0x401C, 0, [(16, 0x40000)], [.rw 19 0 80]⟩
  , ⟨0x4020, 0, [(16, 0x40000)], [.rw 19 0 40]⟩
  , ⟨0x4024, 0, [(16, 0x40000)], [.rw 7 0 80]⟩
  , ⟨0x4028, 0, [(16, 0x40000)], [.rw 15 0 16384]⟩
  , ⟨0x402C, 0, [(16, 0x40000)], [.rw 15 0 13107, .rw 31 16 19661]⟩
  , ⟨0x4030, 0, [(16, 0x40000)], [.rw 7 0 8, .rw 26 8 26214]⟩
  , ⟨0x4040, 0, [(16, 0x40000)], [.ro 0 0 0, .ro 1 1 0, .ro 2 2 0, .ro 3 3 0, .ro 4 4 0, .w1c 5 5 0, .ro 7 6 0, .ro 15 8 0]⟩
  , ⟨0x4044, 0, [(16, 0x40000)], [.ro 18 0 0]⟩
  , ⟨0x4048, 0, [(16, 0x40000)], [.ro 15 0 0x8000]⟩
  , ⟨0x404C, 0, [(16, 0x40000)], [.ro 15 0 16384, .ro 31 16 16384]⟩
  , ⟨0x4060, 0, [(16, 0x40000)], [.rw 31 0 0]⟩
  , ⟨0x4064, 0, [(16, 0x40000)], [.rw 31 0 0]⟩
  , ⟨0x4068, 0, [(16, 0x40000)], [.rw 31 0 0]⟩
  , ⟨0x406C, 0, [(16, 0x40000)], [.ro 1 0 0]⟩
  , ⟨0x5000, 1, [(16, 0x40000)], [.ro 31 0 0]⟩ ]

def feRows5 : List Row :=
  [ ⟨0x5004, 2, [(16, 0x40000)], [.ro 31 0 0]⟩
  , ⟨0x5008, 0, [(16, 0x40000)], [.ro 7 0 0, .ro 12 8 0]⟩
  , ⟨0x500C, 1, [(16, 0x40000)], [.ro 31 0 0]⟩
  , ⟨0x5010, 2, [(16, 0x40000)], [.ro 31 0 0]⟩
  , ⟨0x5014, 0, [(16, 0x40000)], [.rw 31 0 0]⟩
  , ⟨0x5020, 0, [(16, 0x40000)], [.rw 15 0 256]⟩
  , ⟨0xF0, 0, [(16, 0x40000)], [.wo 31 0 0]⟩
  , ⟨0xF4, 0, [(16, 0x40000)], [.ro 0 0 0, .w1c 1 1 0, .w1c 2 2 0, (Fd.ro 15 8 0).by .blkid]⟩ ]

/-- The registers of FE. -/
def feRows : List Row := feRows0 ++ feRows1 ++ feRows2 ++ feRows3 ++ feRows4 ++ feRows5

def trlRows0 : List Row :=
  [ ⟨0x0, 0, [], [.rwx 0 0 1, .rw 1 1 0, .rw 2 2 0, .rw 6 4 0, .rw 15 8 1]⟩
  , ⟨0x4, 0, [], [.ro 0 0 0]⟩
  , ⟨0x10, 0, [], [.rw 31 0 0]⟩
  , ⟨0x14, 0, [], [.rw 31 0 0]⟩
  , ⟨0x18, 0, [], [.rw 9 0 512, .rw 25 16 512, .rw 30 26 17]⟩
  , ⟨0x20, 0, [], [.rw 15 0 0]⟩
  , ⟨0x24, 0, [], [.rw 30 0 0]⟩
  , ⟨0x28, 0, [], [.rw 30 0 0]⟩
  , ⟨0x2C, 0, [], [.rw 30 0 0]⟩
  , ⟨0x30, 0, [], [.rw 7 0 0]⟩
  , ⟨0x34, 0, [], [.rw 23 0 64]⟩
  , ⟨0x38, 0, [], [.ro 31 0 0]⟩
  , ⟨0x3C, 0, [], [.ro 31 0 0]⟩
  , ⟨0x40, 0, [], [.ro 31 0 0]⟩
  , ⟨0x44, 0, [], [.ro 31 0 0]⟩
  , ⟨0x48, 0, [], [.rwx 7 0 16]⟩
  , ⟨0x4C, 0, [], [.rw 15 0 50]⟩
  , ⟨0x50, 0, [], [.rw 12 0 3842]⟩
  , ⟨0x54, 0, [], [.rw 11 0 120]⟩
  , ⟨0x58, 0, [], [.rw 15 0 1000]⟩
  , ⟨0x60, 0, [], [.ro 15 0 0]⟩
  , ⟨0x64, 0, [], [.w1c 15 0 0]⟩
  , ⟨0x68, 0, [], [.rw 31 0 0]⟩
  , ⟨0x6C, 0, [], [.rw 31 0 0]⟩ ]

def trlRows1 : List Row :=
  [ ⟨0x70, 0, [], [.rw 31 0 0]⟩
  , ⟨0x100, 0, [(16, 4)], [.rwx 3 0 0]⟩
  , ⟨0x1000, 0, [(256, 0x20), (4, 4)], [.rw 31 0 0]⟩
  , ⟨0x1010, 0, [(256, 0x20)], [.rw 0 0 0, .rw 1 1 0]⟩
  , ⟨0x10000, 0, [(65536, 4)], [.rw 7 0 0, .rw 15 8 0, .rw 23 16 0, .rw 31 24 0]⟩
  , ⟨0xF0, 0, [], [.wo 31 0 0]⟩
  , ⟨0xF4, 0, [], [.ro 0 0 0, .w1c 1 1 0, .w1c 2 2 0, (Fd.ro 15 8 0).by .blkid]⟩ ]

/-- The registers of TRL. -/
def trlRows : List Row := trlRows0 ++ trlRows1

def hldRows0 : List Row :=
  [ ⟨0x0, 0, [], [.rw 0 0 1]⟩
  , ⟨0x4, 0, [], [.rw 31 0 0]⟩
  , ⟨0x8, 0, [], [.rw 31 0 0]⟩
  , ⟨0xC, 0, [], [.rw 11 0 2048, .rw 27 16 2048]⟩
  , ⟨0x10, 0, [], [.rw 4 0 12]⟩
  , ⟨0x14, 0, [], [.rw 15 0 0]⟩
  , ⟨0x18, 0, [], [.rw 5 0 20]⟩
  , ⟨0x1C, 0, [], [.ro 0 0 0, .w1c 1 1 0, .w1c 2 2 0]⟩
  , ⟨0x20, 0, [], [.rw 31 0 0]⟩
  , ⟨0x24, 0, [], [.rw 31 0 0]⟩
  , ⟨0x1000, 0, [(4, 0x400), (256, 4)], [.rw 15 0 0x8000]⟩
  , ⟨0xF0, 0, [], [.wo 31 0 0]⟩
  , ⟨0xF4, 0, [], [.ro 0 0 0, .w1c 1 1 0, .w1c 2 2 0, (Fd.ro 15 8 0).by .blkid]⟩ ]

/-- The registers of HLD. -/
def hldRows : List Row := hldRows0

def cooRows0 : List Row :=
  [ ⟨0xF0, 0, [], [.wo 31 0 0]⟩
  , ⟨0xF4, 0, [], [.ro 0 0 0, .w1c 1 1 0, .w1c 2 2 0, (Fd.ro 15 8 0).by .blkid]⟩ ]

/-- The registers of COO. -/
def cooRows : List Row := cooRows0

def axeRows0 : List Row :=
  [ ⟨0x800, 0, [(4, 0x20)], [.rw 1 0 0, .rw 2 2 0, .rw 15 8 16]⟩
  , ⟨0x804, 0, [(4, 0x20)], [.ro 31 0 0]⟩
  , ⟨0x808, 0, [(4, 0x20)], [.rw 31 0 0]⟩
  , ⟨0x1000, 0, [(8, 0x100)], [.rw 1 0 0, .rw 3 2 0, .rw 4 4 0, .rw 5 5 0, .rw 6 6 0, .rw 7 7 1, .rw 8 8 0, .rw 9 9 0, .rw 10 10 0, .w1c 11 11 0]⟩
  , ⟨0x1004, 0, [(8, 0x100)], [.rwp 0 0 0]⟩
  , ⟨0x1008, 0, [(8, 0x100)], [.wop 2 0 0]⟩
  , ⟨0x100C, 0, [(8, 0x100)], [.rwp 31 0 0]⟩
  , ⟨0x1010, 0, [(8, 0x100)], [.rwp 31 0 0]⟩
  , ⟨0x1014, 0, [(8, 0x100)], [.wop 1 0 0]⟩
  , ⟨0x1018, 0, [(8, 0x100)], [.rwp 31 0 0]⟩
  , ⟨0x101C, 0, [(8, 0x100)], [.rwp 31 0 0]⟩
  , ⟨0x1020, 0, [(8, 0x100)], [.rwp 31 0 0x640000]⟩
  , ⟨0x1024, 0, [(8, 0x100)], [.rwp 31 0 0x640000]⟩
  , ⟨0x1028, 0, [(8, 0x100)], [.rwp 31 0 0]⟩
  , ⟨0x102C, 0, [(8, 0x100)], [.rwp 31 0 0xC80000]⟩
  , ⟨0x1030, 0, [(8, 0x100)], [.rwx 31 0 1000]⟩
  , ⟨0x1034, 0, [(8, 0x100)], [.rw 31 0 100]⟩
  , ⟨0x1038, 0, [(8, 0x100)], [.rw 31 0 5]⟩
  , ⟨0x103C, 0, [(8, 0x100)], [.rw 31 0 0]⟩
  , ⟨0x1040, 0, [(8, 0x100)], [.rw 31 0 0x7FFFFFFF]⟩
  , ⟨0x1044, 0, [(8, 0x100)], [.rw 15 0 1024]⟩
  , ⟨0x1048, 0, [(8, 0x100)], [.rw 7 0 32, .rw 15 8 8, .rw 31 16 10]⟩
  , ⟨0x104C, 0, [(8, 0x100)], [.rw 9 0 80, .rw 25 16 160]⟩
  , ⟨0x1050, 0, [(8, 0x100)], [.rw 31 0 50]⟩ ]

def axeRows1 : List Row :=
  [ ⟨0x1054, 0, [(8, 0x100)], [.rw 9 0 0]⟩
  , ⟨0x1058, 0, [(8, 0x100)], [.rw 3 0 3]⟩
  , ⟨0x1060, 0, [(8, 0x100)], [.ro 3 0 0, .ro 4 4 0, .ro 5 5 0, .ro 6 6 0, .ro 7 7 0, .ro 8 8 0, .ro 17 9 0]⟩
  , ⟨0x1064, 0, [(8, 0x100)], [.ro 7 0 0, .ro 8 8 0]⟩
  , ⟨0x1068, 0, [(8, 0x100)], [.ro 31 0 0]⟩
  , ⟨0x106C, 0, [(8, 0x100)], [.ro 15 0 0]⟩
  , ⟨0x1070, 0, [(8, 0x100)], [.ro 31 0 0]⟩
  , ⟨0x1074, 0, [(8, 0x100)], [.ro 31 0 0]⟩
  , ⟨0x1078, 0, [(8, 0x100)], [.rw 31 0 0]⟩
  , ⟨0x107C, 0, [(8, 0x100)], [.rw 31 0 0]⟩
  , ⟨0x1080, 0, [(8, 0x100)], [.ro 2 0 0, .ro 15 8 0]⟩
  , ⟨0x1084, 0, [(8, 0x100)], [.wo 1 0 0]⟩
  , ⟨0x1088, 1, [(8, 0x100)], [.rw 31 3 0]⟩
  , ⟨0x108C, 2, [(8, 0x100)], [.rw 3 0 0]⟩
  , ⟨0x1090, 1, [(8, 0x100)], [.ro 31 0 0]⟩
  , ⟨0x1094, 2, [(8, 0x100)], [.ro 3 0 0]⟩
  , ⟨0xF0, 0, [], [.wo 31 0 0]⟩
  , ⟨0xF4, 0, [], [.ro 0 0 0, .w1c 1 1 0, .w1c 2 2 0, (Fd.ro 15 8 0).by .blkid]⟩ ]

/-- The registers of AXE. -/
def axeRows : List Row := axeRows0 ++ axeRows1

def imgRows0 : List Row :=
  [ ⟨0x1000, 0, [(20, 0x100)], [.rw 0 0 0, .rw 3 1 1, .rw 5 4 2, .rw 11 8 0, .rw 12 12 0, .w1c 13 13 0]⟩
  , ⟨0x1004, 0, [(20, 0x100)], [.rw 12 0 64, .rw 28 16 64]⟩
  , ⟨0x1008, 0, [(20, 0x100)], [.rw 11 0 0]⟩
  , ⟨0x100C, 0, [(20, 0x100)], [.rw 15 0 1000]⟩
  , ⟨0x1010, 0, [(20, 0x100)], [.rw 23 0 8000000]⟩
  , ⟨0x1014, 0, [(20, 0x100)], [.rw 15 0 0]⟩
  , ⟨0x1018, 0, [(20, 0x100)], [.w1s 0 0 0]⟩
  , ⟨0x1020, 1, [(20, 0x100)], [.rw 31 12 0]⟩
  , ⟨0x1024, 2, [(20, 0x100)], [.rw 3 0 0]⟩
  , ⟨0x1028, 0, [(20, 0x100)], [.ro 31 0 0]⟩
  , ⟨0x1030, 1, [(20, 0x100)], [.rw 31 12 0]⟩
  , ⟨0x1034, 2, [(20, 0x100)], [.rw 3 0 0]⟩
  , ⟨0x1038, 0, [(20, 0x100)], [.rw 0 0 0, .rw 7 4 0]⟩
  , ⟨0x103C, 0, [(20, 0x100)], [.ro 23 0 0]⟩
  , ⟨0x1040, 0, [(20, 0x100)], [.rw 23 0 0]⟩
  , ⟨0x1044, 0, [(20, 0x100)], [.rw 31 0 0]⟩
  , ⟨0x1060, 0, [(20, 0x100)], [.rw 31 0 0]⟩
  , ⟨0x1064, 0, [(20, 0x100)], [.rw 31 0 0]⟩
  , ⟨0x1068, 0, [(20, 0x100)], [.rw 31 0 0]⟩
  , ⟨0x106C, 0, [(20, 0x100)], [.rw 31 0 0]⟩
  , ⟨0x1070, 0, [(20, 0x100)], [.rw 31 0 0]⟩
  , ⟨0x1074, 0, [(20, 0x100)], [.rw 31 0 0]⟩
  , ⟨0x1078, 0, [(20, 0x100)], [.rw 31 0 0]⟩
  , ⟨0x1080, 0, [(20, 0x100)], [.ro 31 0 0]⟩ ]

def imgRows1 : List Row :=
  [ ⟨0x1084, 0, [(20, 0x100)], [.ro 6 0 0, .ro 31 16 0]⟩
  , ⟨0x1088, 0, [(20, 0x100)], [.ro 15 0 0, .ro 31 16 0]⟩
  , ⟨0x10000, 0, [(16, 0x100)], [.rw 0 0 0, .rw 1 1 0, .rw 2 2 0]⟩
  , ⟨0x10004, 0, [(16, 0x100)], [.rw 23 0 8000]⟩
  , ⟨0x10008, 0, [(16, 0x100)], [.rw 23 0 0]⟩
  , ⟨0x1000C, 0, [(16, 0x100)], [.rw 15 0 0]⟩
  , ⟨0x10010, 0, [(16, 0x100)], [.rw 23 0 4000]⟩
  , ⟨0x10014, 0, [(16, 0x100)], [.rw 23 0 0]⟩
  , ⟨0x10018, 0, [(16, 0x100)], [.rw 23 0 0]⟩
  , ⟨0x1001C, 0, [(16, 0x100)], [.rw 11 0 0]⟩
  , ⟨0x10020, 0, [(16, 0x100)], [.rw 11 0 0x400, .rw 27 16 0xC00]⟩
  , ⟨0x10024, 0, [(16, 0x100)], [.rw 15 0 0]⟩
  , ⟨0x10040, 0, [(16, 0x100), (8, 8)], [.rw 2 0 0, .rw 4 4 1]⟩
  , ⟨0x10044, 0, [(16, 0x100), (8, 8)], [.rw 31 0 0]⟩
  , ⟨0x10080, 1, [(16, 0x100)], [.rw 31 12 0]⟩
  , ⟨0x10084, 2, [(16, 0x100)], [.rw 3 0 0]⟩
  , ⟨0x10088, 0, [(16, 0x100)], [.rw 3 0 0]⟩
  , ⟨0x1008C, 0, [(16, 0x100)], [.ro 23 0 0]⟩
  , ⟨0x10090, 0, [(16, 0x100)], [.rw 23 0 0]⟩
  , ⟨0x10094, 0, [(16, 0x100)], [.rw 31 0 0]⟩
  , ⟨0x10098, 0, [(16, 0x100)], [.ro 31 0 0]⟩
  , ⟨0x1009C, 0, [(16, 0x100)], [.ro 31 0 0]⟩
  , ⟨0x20000, 0, [(2, 0x10000)], [.ro 0 0 0, .ro 5 1 0]⟩
  , ⟨0x20004, 0, [(2, 0x10000)], [.rw 31 0 0]⟩ ]

def imgRows2 : List Row :=
  [ ⟨0x20008, 0, [(2, 0x10000)], [.rw 31 0 0]⟩
  , ⟨0x20010, 0, [(2, 0x10000), (8, 4)], [.rw 4 0 0, .rw 6 5 1, .rw 7 7 0]⟩
  , ⟨0x20040, 1, [(2, 0x10000)], [.rw 31 12 0]⟩
  , ⟨0x20044, 2, [(2, 0x10000)], [.rw 3 0 0]⟩
  , ⟨0x20048, 0, [(2, 0x10000)], [.rw 3 0 0]⟩
  , ⟨0x2004C, 0, [(2, 0x10000)], [.ro 23 0 0]⟩
  , ⟨0x20050, 0, [(2, 0x10000)], [.rw 23 0 0]⟩
  , ⟨0x20054, 0, [(2, 0x10000)], [.rw 31 0 0]⟩
  , ⟨0x20400, 0, [(2, 0x10000), (4, 0x100)], [.rwsh 0 0 0, .rwsh 1 1 0, .rwsh 4 2 0, .rwsh 5 5 0, .rwsh 6 6 0, .rwsh 7 7 0, (Fd.rwsh 12 8 0).by .bisrc]⟩
  , ⟨0x20404, 0, [(2, 0x10000), (4, 0x100)], [.rwsh 12 0 0, .rwsh 28 16 0]⟩
  , ⟨0x20408, 0, [(2, 0x10000), (4, 0x100)], [.rwsh 13 0 1024, .rwsh 29 16 768]⟩
  , ⟨0x2040C, 0, [(2, 0x10000), (4, 0x100)], [.rwsh 13 0 1024, .rwsh 29 16 768]⟩
  , ⟨0x20410, 1, [(2, 0x10000), (4, 0x100)], [.rwsh 31 12 0]⟩
  , ⟨0x20414, 2, [(2, 0x10000), (4, 0x100)], [.rwsh 3 0 0]⟩
  , ⟨0x20418, 0, [(2, 0x10000), (4, 0x100)], [.rwsh 17 0 256]⟩
  , ⟨0x2041C, 0, [(2, 0x10000), (4, 0x100)], [.rwsh 6 0 4]⟩
  , ⟨0x20420, 1, [(2, 0x10000), (4, 0x100)], [.rwsh 31 2 0]⟩
  , ⟨0x20424, 2, [(2, 0x10000), (4, 0x100)], [.rwsh 3 0 0]⟩
  , ⟨0x20428, 0, [(2, 0x10000), (4, 0x100)], [.w1s 0 0 0]⟩
  , ⟨0x2042C, 0, [(2, 0x10000), (4, 0x100)], [.ro 1 0 0, .w1c 2 2 0, .ro 6 4 0]⟩
  , ⟨0x20430, 0, [(2, 0x10000), (4, 0x100)], [.ro 5 0 0]⟩
  , ⟨0x20434, 0, [(2, 0x10000), (4, 0x100)], [.rw 5 0 0]⟩
  , ⟨0x20438, 0, [(2, 0x10000), (4, 0x100)], [.rw 31 0 0]⟩
  , ⟨0x21000, 0, [(2, 0x10000), (4, 0x800), (512, 4)], [(Fd.rwsh 11 0 0).by .coef]⟩ ]

def imgRows3 : List Row :=
  [ ⟨0x24000, 0, [(2, 0x10000), (3, 0x4000)], [.rwsh 2 0 0, .rwsh 3 3 0, .rwsh 4 4 0]⟩
  , ⟨0x24004, 0, [(2, 0x10000), (3, 0x4000), (2, 4)], [.rwsh 11 0 0, .rwsh 27 16 0]⟩
  , ⟨0x2400C, 0, [(2, 0x10000), (3, 0x4000)], [.rwsh 15 0 0, .rwsh 26 16 0]⟩
  , ⟨0x24010, 0, [(2, 0x10000), (3, 0x4000)], [.rwsh 15 0 0]⟩
  , ⟨0x24020, 0, [(2, 0x10000), (3, 0x4000), (9, 4)], [(Fd.rwsh 15 0 0).by .ccm]⟩
  , ⟨0x24044, 0, [(2, 0x10000), (3, 0x4000), (3, 4)], [.rwsh 15 0 0]⟩
  , ⟨0x24050, 0, [(2, 0x10000), (3, 0x4000)], [.rwsh 12 0 0, .rwsh 28 16 0]⟩
  , ⟨0x24054, 0, [(2, 0x10000), (3, 0x4000)], [.rwsh 13 0 8192, .rwsh 29 16 8192]⟩
  , ⟨0x24058, 0, [(2, 0x10000), (3, 0x4000)], [.w1s 0 0 0]⟩
  , ⟨0x24400, 0, [(2, 0x10000), (3, 0x4000), (1024, 4)], [.rwsh 12 0 0, .rwsh 28 16 0]⟩
  , ⟨0x25400, 0, [(2, 0x10000), (3, 0x4000), (1650, 4)], [.rwsh 15 0 16384, .rwsh 31 16 16384]⟩
  , ⟨0x27000, 0, [(2, 0x10000), (3, 0x4000), (257, 4)], [(Fd.rwsh 15 0 0).by .tone]⟩
  , ⟨0xF0, 0, [], [.wo 31 0 0]⟩
  , ⟨0xF4, 0, [], [.ro 0 0 0, .w1c 1 1 0, .w1c 2 2 0, (Fd.ro 15 8 0).by .blkid]⟩ ]

/-- The registers of IMG. -/
def imgRows : List Row := imgRows0 ++ imgRows1 ++ imgRows2 ++ imgRows3

def cmpRows0 : List Row :=
  [ ⟨0x0, 0, [], [.rw 0 0 0, .w1c 1 1 0]⟩
  , ⟨0x4, 0, [], [.rw 23 0 0]⟩
  , ⟨0x8, 0, [], [.w1s 7 0 0]⟩
  , ⟨0xC, 0, [], [.ro 1 0 0, .ro 2 2 0]⟩
  , ⟨0x10, 0, [], [.ro 31 0 0]⟩
  , ⟨0x14, 1, [], [.ro 31 0 0]⟩
  , ⟨0x18, 2, [], [.ro 31 0 0]⟩
  , ⟨0x1C, 0, [], [.rw 31 0 0]⟩
  , ⟨0x20, 0, [], [.rw 31 0 0]⟩
  , ⟨0x40, 0, [(8, 4)], [.rw 31 0 0]⟩
  , ⟨0x100, 0, [], [.rw 18 0 148500]⟩
  , ⟨0x104, 0, [], [.rw 13 0 1920, .rw 29 16 2200]⟩
  , ⟨0x108, 0, [], [.rw 13 0 2008, .rw 29 16 2052, .rw 31 31 0]⟩
  , ⟨0x10C, 0, [], [.rw 13 0 1080, .rw 29 16 1125]⟩
  , ⟨0x110, 0, [], [.rw 13 0 1084, .rw 29 16 1089, .rw 31 31 0]⟩
  , ⟨0x200, 0, [], [.rw 0 0 0, .rw 2 1 2, .rw 5 3 4, .rw 7 6 1, .w1s 8 8 0]⟩
  , ⟨0x204, 0, [], [.ro 0 0 0, .ro 1 1 0, .ro 3 2 0, .ro 6 4 0]⟩
  , ⟨0x210, 0, [], [.rw 3 0 0, .rw 23 4 0, .rw 27 24 0, .w1s 31 31 0]⟩
  , ⟨0x214, 0, [], [.ro 1 0 0]⟩
  , ⟨0x218, 0, [(4, 4)], [.rw 31 0 0]⟩
  , ⟨0x300, 0, [], [.rw 0 0 0, .rw 1 1 0, .rw 11 4 0]⟩
  , ⟨0x304, 1, [], [.rw 31 12 0]⟩
  , ⟨0x308, 2, [], [.rw 3 0 0]⟩
  , ⟨0x30C, 0, [], [.rw 17 0 2048]⟩ ]

def cmpRows1 : List Row :=
  [ ⟨0x310, 0, [], [.rw 6 0 4]⟩
  , ⟨0x314, 0, [], [.ro 5 0 0]⟩
  , ⟨0x318, 0, [], [.rw 5 0 0]⟩
  , ⟨0x31C, 0, [], [.rw 31 0 0]⟩
  , ⟨0x1000, 0, [(8, 0x100)], [.rwsh 0 0 0, .rwsh 3 1 0, (Fd.rwsh 6 4 0).by .zpos, .rwsh 7 7 0, .rwsh 15 8 255, .rwsh 17 16 0]⟩
  , ⟨0x1004, 1, [(8, 0x100)], [.rwsh 31 0 0]⟩
  , ⟨0x1008, 2, [(8, 0x100)], [.rwsh 3 0 0]⟩
  , ⟨0x100C, 1, [(8, 0x100)], [.rwsh 31 0 0]⟩
  , ⟨0x1010, 2, [(8, 0x100)], [.rwsh 3 0 0]⟩
  , ⟨0x1014, 0, [(8, 0x100)], [.rwsh 17 0 0]⟩
  , ⟨0x1018, 0, [(8, 0x100)], [.rwsh 13 0 0, .rwsh 29 16 0]⟩
  , ⟨0x101C, 0, [(8, 0x100)], [.rwsh 13 0 0, .rwsh 29 16 0]⟩
  , ⟨0x1020, 0, [(8, 0x100)], [.rwsh 13 0 0, .rwsh 29 16 0]⟩
  , ⟨0x1024, 0, [(8, 0x100)], [.rwsh 13 0 0, .rwsh 29 16 0]⟩
  , ⟨0x1028, 0, [(8, 0x100)], [.rwsh 13 0 0, .rwsh 29 16 0]⟩
  , ⟨0x102C, 1, [(8, 0x100)], [.rwsh 31 2 0]⟩
  , ⟨0x1030, 2, [(8, 0x100)], [.rwsh 3 0 0]⟩
  , ⟨0x1034, 0, [(8, 0x100)], [.rwsh 31 0 0]⟩
  , ⟨0x1038, 0, [(8, 0x100)], [.ro 0 0 0, .ro 1 1 0, .w1c 2 2 0, .ro 6 4 0]⟩
  , ⟨0x103C, 0, [(8, 0x100)], [.w1s 0 0 0]⟩
  , ⟨0x8000, 0, [(6, 0x400), (256, 4)], [.rwsh 31 0 0]⟩
  , ⟨0xF0, 0, [], [.wo 31 0 0]⟩
  , ⟨0xF4, 0, [], [.ro 0 0 0, .w1c 1 1 0, .w1c 2 2 0, (Fd.ro 15 8 0).by .blkid]⟩ ]

/-- The registers of CMP. -/
def cmpRows : List Row := cmpRows0 ++ cmpRows1

def rngRows0 : List Row :=
  [ ⟨0x0, 0, [], [.rw 1 0 0, .rw 2 2 0, .rw 3 3 0, .rw 8 8 1, .w1c 9 9 0]⟩
  , ⟨0x4, 0, [], [.ro 0 0 1, .ro 1 1 0, .ro 2 2 0, .ro 3 3 0, .ro 4 4 0, .w1c 5 5 0, .w1c 6 6 0]⟩
  , ⟨0x8, 0, [], [.rw 9 0 100, .rw 31 16 0x88B5]⟩
  , ⟨0xC, 1, [], [.rw 31 0 0x57000001]⟩
  , ⟨0x10, 2, [], [.rw 15 0 0x031D]⟩
  , ⟨0x14, 1, [], [(Fd.ro 31 0 0).by .flash]⟩
  , ⟨0x18, 2, [], [(Fd.ro 15 0 0).by .flash]⟩
  , ⟨0x1C, 0, [], [.rwx 7 0 50]⟩
  , ⟨0x20, 0, [], [.rw 7 0 16]⟩
  , ⟨0x40, 0, [], [.rw 31 0 0]⟩
  , ⟨0x44, 0, [], [.rw 31 0 0]⟩
  , ⟨0x48, 0, [], [.rw 31 0 0]⟩
  , ⟨0x100, 0, [(8, 4)], [.rw 7 0 0, .rw 11 8 0]⟩
  , ⟨0x200, 0, [], [.rw 7 0 0, .rw 11 8 0, .rw 31 16 200]⟩
  , ⟨0x204, 1, [], [.rw 31 12 0]⟩
  , ⟨0x208, 2, [], [.rw 3 0 0]⟩
  , ⟨0x20C, 0, [], [.rw 3 0 0]⟩
  , ⟨0x210, 0, [], [.ro 23 0 0]⟩
  , ⟨0x214, 0, [], [.rw 23 0 0]⟩
  , ⟨0x218, 0, [], [.rw 31 0 0]⟩
  , ⟨0x400, 0, [(2, 0x80)], [(Fd.rwx 15 0 0).by .flash]⟩
  , ⟨0x404, 0, [(2, 0x80)], [(Fd.rwx 15 0 0).by .flash]⟩
  , ⟨0x408, 0, [(2, 0x80)], [.rw 31 0 0]⟩
  , ⟨0x40C, 0, [(2, 0x80)], [.ro 31 0 0]⟩ ]

def rngRows1 : List Row :=
  [ ⟨0x410, 0, [(2, 0x80)], [.ro 31 0 0]⟩
  , ⟨0x414, 0, [(2, 0x80)], [.ro 31 0 0]⟩
  , ⟨0x418, 0, [(2, 0x80)], [.ro 0 0 0, .ro 1 1 0, .w1s 2 2 0]⟩
  , ⟨0x41C, 0, [(2, 0x80)], [.rw 31 0 0]⟩
  , ⟨0x420, 0, [(2, 0x80)], [.rw 31 0 0]⟩
  , ⟨0x424, 0, [(2, 0x80)], [.rw 31 0 0]⟩
  , ⟨0x428, 0, [(2, 0x80)], [.rw 31 0 0]⟩
  , ⟨0x42C, 0, [(2, 0x80)], [.rw 31 0 0]⟩
  , ⟨0x430, 0, [(2, 0x80)], [.rw 31 0 0]⟩
  , ⟨0xF0, 0, [], [.wo 31 0 0]⟩
  , ⟨0xF4, 0, [], [.ro 0 0 0, .w1c 1 1 0, .w1c 2 2 0, (Fd.ro 15 8 0).by .blkid]⟩ ]

/-- The registers of RNG. -/
def rngRows : List Row := rngRows0 ++ rngRows1

def hsqRows0 : List Row :=
  [ ⟨0x0, 0, [(32, 0x1000)], [.wo 31 0 0]⟩
  , ⟨0x20000, 0, [(32, 0x1000)], [.wo 31 0 0]⟩
  , ⟨0x100000, 1, [(64, 0x40)], [.rw 31 6 0]⟩
  , ⟨0x100004, 2, [(64, 0x40)], [.rw 31 0 0]⟩
  , ⟨0x100008, 1, [(64, 0x40)], [.rw 31 6 0]⟩
  , ⟨0x10000C, 2, [(64, 0x40)], [.rw 31 0 0]⟩
  , ⟨0x100010, 0, [(64, 0x40)], [.rw 0 0 0, .rw 4 1 8, .rw 13 8 0, .rw 14 14 0]⟩
  , ⟨0x100014, 0, [(64, 0x40)], [.ro 1 0 0, .ro 7 4 0, .w1c 8 8 0]⟩
  , ⟨0x100018, 0, [(64, 0x40)], [.ro 15 0 0]⟩
  , ⟨0x10001C, 0, [(64, 0x40)], [.ro 15 0 0]⟩
  , ⟨0x100020, 0, [(64, 0x40)], [.ro 15 0 0]⟩
  , ⟨0x100024, 0, [(64, 0x40)], [.rw 31 0 0]⟩
  , ⟨0x100028, 0, [(64, 0x40)], [.rw 31 0 0]⟩
  , ⟨0x10002C, 0, [(64, 0x40)], [.ro 2 0 0, .ro 7 7 0]⟩
  , ⟨0x200000, 1, [(64, 16)], [.rw 31 2 0]⟩
  , ⟨0x200004, 2, [(64, 16)], [.rw 31 0 0]⟩
  , ⟨0x200008, 0, [(64, 16)], [.rw 31 0 0]⟩
  , ⟨0x20000C, 0, [(64, 16)], [.rw 0 0 1]⟩
  , ⟨0x201000, 0, [(2, 4)], [.ro 31 0 0]⟩ ]

/-- The registers of HSQ. -/
def hsqRows : List Row := hsqRows0

/-- The block of an address: base of its registers and its rows (R36, R410; BAR2 offsets stand at
2^32 and above). -/
def blockOf (a : Nat) : Nat × List Row :=
  if 0x100000000 ≤ a then (0x100000000, hsqRows)
  else if 0x1500000 ≤ a then (0x1500000, rngRows)
  else if 0x1400000 ≤ a then (0x1400000, cmpRows)
  else if 0x1000000 ≤ a then (0x1000000, imgRows)
  else if 0xF00000 ≤ a then (0xF00000, axeRows)
  else if 0xE00000 ≤ a then (0xE00000, cooRows)
  else if 0xD00000 ≤ a then (0xD00000, hldRows)
  else if 0xC00000 ≤ a then (0xC00000, trlRows)
  else if 0x800000 ≤ a then (0x800000, feRows)
  else if 0x400000 ≤ a then (0x400000, ceRows)
  else if 0x200000 ≤ a then (0x200000, memRows)
  else if 0x100000 ≤ a then (0x100000, hsRows)
  else if 0x60000 ≤ a then (0x60000, afeRows)
  else if 0x50000 ≤ a then (0x50000, cbkRows)
  else if 0x40000 ≤ a then (0x40000, safRows)
  else if 0x30000 ≤ a then (0x30000, timRows)
  else if 0x20000 ≤ a then (0x20000, thmRows)
  else if 0x10000 ≤ a then (0x10000, pwrRows)
  else if 0x0 ≤ a then (0x0, glbRows)
  else (0, [])

namespace R

def GLB_ID : RF := ⟨0x0, 31, 0⟩
def GLB_STEPPING : RF := ⟨0x4, 7, 0⟩
def GLB_FWVER : RF := ⟨0x8, 31, 0⟩
def GLB_STATUS_BOOTERR : RF := ⟨0xC, 0, 0⟩
def GLB_STATUS_BADACC : RF := ⟨0xC, 1, 1⟩
def GLB_MODE_MODE : RF := ⟨0x10, 2, 0⟩
def GLB_MODE_PSTATE : RF := ⟨0x10, 5, 4⟩
def GLB_MODE_REFUSED : RF := ⟨0x10, 8, 8⟩
def GLB_MODE_REASON : RF := ⟨0x10, 15, 12⟩
def GLB_MODE_REQ : RF := ⟨0x14, 2, 0⟩
def GLB_RESET : RF := ⟨0x20, 31, 0⟩
def GLB_FRESET : RF := ⟨0x24, 31, 0⟩
def GLB_RSTCAUSE_KIND : RF := ⟨0x28, 3, 0⟩
def GLB_RSTCAUSE_FRERR : RF := ⟨0x28, 8, 8⟩
def GLB_BOOTSEQ_LO : RF := ⟨0x2C, 31, 0⟩
def GLB_BOOTSEQ_HI : RF := ⟨0x30, 15, 0⟩
def GLB_BLK_UNLOCK : RF := ⟨0xF0, 31, 0⟩
def GLB_BLK_XSTAT_UNLOCKED : RF := ⟨0xF4, 0, 0⟩
def GLB_BLK_XSTAT_XLOCK : RF := ⟨0xF4, 1, 1⟩
def GLB_BLK_XSTAT_SEQERR : RF := ⟨0xF4, 2, 2⟩
def GLB_BLK_XSTAT_BLKID : RF := ⟨0xF4, 15, 8⟩
def PWR_FEED_ACT : RF := ⟨0x10000, 0, 0⟩
def PWR_FEED_AOK : RF := ⟨0x10000, 1, 1⟩
def PWR_FEED_BOK : RF := ⟨0x10000, 2, 2⟩
def PWR_FEED_SWN : RF := ⟨0x10000, 31, 16⟩
def PWR_VIN_A : RF := ⟨0x10004, 15, 0⟩
def PWR_VIN_B : RF := ⟨0x10008, 15, 0⟩
def PWR_FEED_CMD_SWITCH : RF := ⟨0x1000C, 0, 0⟩
def PWR_FEED_CMD_CMDERR : RF := ⟨0x1000C, 1, 1⟩
def PWR_PSTATE_REQ : RF := ⟨0x10020, 1, 0⟩
def PWR_PSTATE_STATE : RF := ⟨0x10024, 1, 0⟩
def PWR_PSTATE_REFUSED : RF := ⟨0x10024, 2, 2⟩
def PWR_PSTATE_REASON : RF := ⟨0x10024, 7, 4⟩
def PWR_WAKE_OT : RF := ⟨0x10028, 31, 0⟩
def PWR_WAKEKEY : RF := ⟨0x1002C, 31, 0⟩
def PWR_RAILERR : RF := ⟨0x10030, 7, 0⟩
def PWR_VCORE_SET : RF := ⟨0x10034, 9, 0⟩
def PWR_VCORE_MEAS : RF := ⟨0x10034, 25, 16⟩
def PWR_BLK_UNLOCK : RF := ⟨0x100F0, 31, 0⟩
def PWR_BLK_XSTAT_UNLOCKED : RF := ⟨0x100F4, 0, 0⟩
def PWR_BLK_XSTAT_XLOCK : RF := ⟨0x100F4, 1, 1⟩
def PWR_BLK_XSTAT_SEQERR : RF := ⟨0x100F4, 2, 2⟩
def PWR_BLK_XSTAT_BLKID : RF := ⟨0x100F4, 15, 8⟩
def THM_TJ_TJ : RF := ⟨0x20000, 15, 0⟩
def THM_TJ_LEVEL : RF := ⟨0x20000, 17, 16⟩
def THM_STATUS_SHED : RF := ⟨0x20004, 0, 0⟩
def THM_STATUS_TRIPLATCH : RF := ⟨0x20004, 1, 1⟩
def THM_STATUS_NBROKEN : RF := ⟨0x20004, 15, 8⟩
def THM_S_TEMP (k : Nat) : RF := ⟨0x21000 + k * 4, 15, 0⟩
def THM_S_BROKEN (k : Nat) : RF := ⟨0x21000 + k * 4, 16, 16⟩
def THM_S_NOSUB (k : Nat) : RF := ⟨0x21000 + k * 4, 17, 17⟩
def THM_S_CLR (k : Nat) : RF := ⟨0x21000 + k * 4, 18, 18⟩
def THM_BLK_UNLOCK : RF := ⟨0x200F0, 31, 0⟩
def THM_BLK_XSTAT_UNLOCKED : RF := ⟨0x200F4, 0, 0⟩
def THM_BLK_XSTAT_XLOCK : RF := ⟨0x200F4, 1, 1⟩
def THM_BLK_XSTAT_SEQERR : RF := ⟨0x200F4, 2, 2⟩
def THM_BLK_XSTAT_BLKID : RF := ⟨0x200F4, 15, 8⟩
def TIM_MT_LO : RF := ⟨0x30000, 31, 0⟩
def TIM_MT_HI : RF := ⟨0x30004, 31, 0⟩
def TIM_MT_TRIM_LO : RF := ⟨0x30008, 31, 0⟩
def TIM_MT_TRIM_HI : RF := ⟨0x3000C, 7, 0⟩
def TIM_MT_TRIM_EFF_LO : RF := ⟨0x30010, 31, 0⟩
def TIM_MT_TRIM_EFF_HI : RF := ⟨0x30014, 7, 0⟩
def TIM_STATUS_LOCK : RF := ⟨0x30018, 0, 0⟩
def TIM_STATUS_LOCKLOST : RF := ⟨0x30018, 1, 1⟩
def TIM_STATUS_TRIMCLAMP : RF := ⟨0x30018, 2, 2⟩
def TIM_STATUS_INCCLAMP : RF := ⟨0x30018, 3, 3⟩
def TIM_STATUS_JUMPREF : RF := ⟨0x30018, 4, 4⟩
def TIM_STATUS_COMPHOLD : RF := ⟨0x30018, 5, 5⟩
def TIM_STATUS_OTOLD : RF := ⟨0x30018, 6, 6⟩
def TIM_PT : RF := ⟨0x30020, 31, 0⟩
def TIM_PT_EPOCH : RF := ⟨0x30024, 15, 0⟩
def TIM_PT_INC_LO : RF := ⟨0x30028, 31, 0⟩
def TIM_PT_INC_HI : RF := ⟨0x3002C, 7, 0⟩
def TIM_PT_STEP_MAG : RF := ⟨0x30030, 29, 0⟩
def TIM_PT_STEP_SIGN : RF := ⟨0x30030, 30, 30⟩
def TIM_PT_STEP_FORCE : RF := ⟨0x30030, 31, 31⟩
def TIM_PT_JUMP_LIMIT : RF := ⟨0x30034, 29, 0⟩
def TIM_MTK_SEQ : RF := ⟨0x30040, 31, 0⟩
def TIM_MTK_PT : RF := ⟨0x30044, 31, 0⟩
def TIM_MTK_EPOCH : RF := ⟨0x30048, 15, 0⟩
def TIM_OT_SEC : RF := ⟨0x30050, 31, 0⟩
def TIM_OT_FRAC : RF := ⟨0x30054, 15, 0⟩
def TIM_OT_PCC : RF := ⟨0x30058, 23, 0⟩
def TIM_COMP_CTRL : RF := ⟨0x30060, 0, 0⟩
def TIM_COMP_TEMP : RF := ⟨0x30064, 15, 0⟩
def TIM_COMP_TERM : RF := ⟨0x30068, 31, 0⟩
def TIM_COMP (k : Nat) : RF := ⟨0x30100 + k * 4, 31, 0⟩
def TIM_DLW_CORE_SLACK (c : Nat) : RF := ⟨0x30200 + c * 4, 9, 0⟩
def TIM_DLW_CORE_MISS (c : Nat) : RF := ⟨0x30200 + c * 4, 10, 10⟩
def TIM_DLW_WORST_SLACK : RF := ⟨0x30220, 9, 0⟩
def TIM_DLW_WORST_MISS : RF := ⟨0x30220, 10, 10⟩
def TIM_DLW_WORST_CORE : RF := ⟨0x30220, 14, 12⟩
def TIM_LATE (c : Nat) : RF := ⟨0x30224 + c * 4, 15, 0⟩
def TIM_LATE_LAST_CLASS : RF := ⟨0x3023C, 2, 0⟩
def TIM_LATE_LAST_ORDER : RF := ⟨0x3023C, 3, 3⟩
def TIM_LATE_LAST_INST : RF := ⟨0x3023C, 15, 8⟩
def TIM_BLK_UNLOCK : RF := ⟨0x300F0, 31, 0⟩
def TIM_BLK_XSTAT_UNLOCKED : RF := ⟨0x300F4, 0, 0⟩
def TIM_BLK_XSTAT_XLOCK : RF := ⟨0x300F4, 1, 1⟩
def TIM_BLK_XSTAT_SEQERR : RF := ⟨0x300F4, 2, 2⟩
def TIM_BLK_XSTAT_BLKID : RF := ⟨0x300F4, 15, 8⟩
def SAF_GSTAT_CAUSE : RF := ⟨0x40000, 4, 0⟩
def SAF_GSTAT_ANY : RF := ⟨0x40000, 8, 8⟩
def SAF_ILK_ILKA : RF := ⟨0x40004, 0, 0⟩
def SAF_ILK_ILKB : RF := ⟨0x40004, 1, 1⟩
def SAF_ILK_DISC : RF := ⟨0x40004, 2, 2⟩
def SAF_ILK_SAFEOUT : RF := ⟨0x40004, 3, 3⟩
def SAF_ILKDISC : RF := ⟨0x40008, 7, 0⟩
def SAF_FIELDS : RF := ⟨0x4000C, 15, 0⟩
def SAF_RWIN : RF := ⟨0x40010, 15, 0⟩
def SAF_LOCKWIN : RF := ⟨0x40014, 23, 0⟩
def SAF_MSWDT : RF := ⟨0x40018, 7, 0⟩
def SAF_ARM : RF := ⟨0x40020, 31, 0⟩
def SAF_ARM_STAT_AREASON : RF := ⟨0x40024, 3, 0⟩
def SAF_ARM_STAT_KEYERR : RF := ⟨0x40024, 4, 4⟩
def SAF_SHARED_LO (k : Nat) : RF := ⟨0x40100 + k * 0x10, 31, 12⟩
def SAF_SHARED_HI (k : Nat) : RF := ⟨0x40104 + k * 0x10, 3, 0⟩
def SAF_SHARED_SIZE (k : Nat) : RF := ⟨0x40108 + k * 0x10, 23, 0⟩
def SAF_FS_STATUS_FS (n : Nat) : RF := ⟨0x41000 + n * 0x40, 0, 0⟩
def SAF_FS_STATUS_DOUBT (n : Nat) : RF := ⟨0x41000 + n * 0x40, 1, 1⟩
def SAF_FS_STATUS_LOCK (n : Nat) : RF := ⟨0x41000 + n * 0x40, 2, 2⟩
def SAF_FS_STATUS_CKOK (n : Nat) : RF := ⟨0x41000 + n * 0x40, 3, 3⟩
def SAF_FS_STATUS_LEDOK (n : Nat) : RF := ⟨0x41000 + n * 0x40, 4, 4⟩
def SAF_FS_STATUS_RECOV (n : Nat) : RF := ⟨0x41000 + n * 0x40, 5, 5⟩
def SAF_FS_STATUS_WINEXP (n : Nat) : RF := ⟨0x41000 + n * 0x40, 6, 6⟩
def SAF_FS_STATUS_GEN (n : Nat) : RF := ⟨0x41000 + n * 0x40, 7, 7⟩
def SAF_FS_STATUS_REFUSED (n : Nat) : RF := ⟨0x41000 + n * 0x40, 8, 8⟩
def SAF_FS_STATUS_RREASON (n : Nat) : RF := ⟨0x41000 + n * 0x40, 15, 12⟩
def SAF_FS_STATUS_CAUSE (n : Nat) : RF := ⟨0x41000 + n * 0x40, 23, 16⟩
def SAF_FS_CMD_RESUME (n : Nat) : RF := ⟨0x41004 + n * 0x40, 0, 0⟩
def SAF_FS_CMD_FORCE (n : Nat) : RF := ⟨0x41004 + n * 0x40, 1, 1⟩
def SAF_FS_CMD_GENREL (n : Nat) : RF := ⟨0x41004 + n * 0x40, 2, 2⟩
def SAF_FS_FAULT_MT_LO (n : Nat) : RF := ⟨0x41008 + n * 0x40, 31, 0⟩
def SAF_FS_FAULT_MT_HI (n : Nat) : RF := ⟨0x4100C + n * 0x40, 31, 0⟩
def SAF_FS_FTIME_LO (n : Nat) : RF := ⟨0x41010 + n * 0x40, 31, 0⟩
def SAF_FS_FTIME_HI (n : Nat) : RF := ⟨0x41014 + n * 0x40, 31, 0⟩
def SAF_FS_RESUMES (n : Nat) : RF := ⟨0x41018 + n * 0x40, 31, 0⟩
def SAF_BLK_UNLOCK : RF := ⟨0x400F0, 31, 0⟩
def SAF_BLK_XSTAT_UNLOCKED : RF := ⟨0x400F4, 0, 0⟩
def SAF_BLK_XSTAT_XLOCK : RF := ⟨0x400F4, 1, 1⟩
def SAF_BLK_XSTAT_SEQERR : RF := ⟨0x400F4, 2, 2⟩
def SAF_BLK_XSTAT_BLKID : RF := ⟨0x400F4, 15, 8⟩
def CBK_STATUS_READY : RF := ⟨0x50000, 0, 0⟩
def CBK_STATUS_FULL : RF := ⟨0x50000, 1, 1⟩
def CBK_COUNT : RF := ⟨0x50004, 17, 0⟩
def CBK_NEXTSEQ_LO : RF := ⟨0x50008, 31, 0⟩
def CBK_NEXTSEQ_HI : RF := ⟨0x5000C, 15, 0⟩
def CBK_LASTSLOT : RF := ⟨0x50010, 16, 0⟩
def CBK_QLEVEL_LEVEL : RF := ⟨0x50014, 10, 0⟩
def CBK_QLEVEL_QMAX : RF := ⟨0x50014, 26, 16⟩
def CBK_DROPPED : RF := ⟨0x50018, 31, 0⟩
def CBK_TORN : RF := ⟨0x5001C, 31, 0⟩
def CBK_BADSLOT : RF := ⟨0x50020, 31, 0⟩
def CBK_OLDEST_SLOT (v : Nat) : RF := ⟨0x50040 + v * 4, 16, 0⟩
def CBK_OLDEST_NONE (v : Nat) : RF := ⟨0x50040 + v * 4, 31, 31⟩
def CBK_SRC (s : Nat) : RF := ⟨0x51000 + s * 4, 1, 0⟩
def CBK_ANGEL (s : Nat) : RF := ⟨0x52000 + s * 4, 31, 0⟩
def CBK_BLK_UNLOCK : RF := ⟨0x500F0, 31, 0⟩
def CBK_BLK_XSTAT_UNLOCKED : RF := ⟨0x500F4, 0, 0⟩
def CBK_BLK_XSTAT_XLOCK : RF := ⟨0x500F4, 1, 1⟩
def CBK_BLK_XSTAT_SEQERR : RF := ⟨0x500F4, 2, 2⟩
def CBK_BLK_XSTAT_BLKID : RF := ⟨0x500F4, 15, 8⟩
def AFE_CTRL : RF := ⟨0x60000, 0, 0⟩
def AFE_CALFAIL : RF := ⟨0x60004, 31, 0⟩
def AFE_TC (g : Nat) : RF := ⟨0x60040 + g * 4, 31, 0⟩
def AFE_ADC_SLICE (c : Nat) : RF := ⟨0x60100 + c * 4, 6, 0⟩
def AFE_DAC_SLICE (c : Nat) : RF := ⟨0x60200 + c * 4, 6, 0⟩
def AFE_ADC_OFFS (k : Nat) : RF := ⟨0x61000 + k * 16, 23, 0⟩
def AFE_ADC_GAIN (k : Nat) : RF := ⟨0x61004 + k * 16, 23, 0⟩
def AFE_ADC_STAT_CAL_SRC (k : Nat) : RF := ⟨0x61008 + k * 16, 1, 0⟩
def AFE_ADC_STAT_FAILED (k : Nat) : RF := ⟨0x61008 + k * 16, 2, 2⟩
def AFE_ADC_STAT_SPARE (k : Nat) : RF := ⟨0x61008 + k * 16, 3, 3⟩
def AFE_ADC_STAT_WRERR (k : Nat) : RF := ⟨0x61008 + k * 16, 4, 4⟩
def AFE_ADC_STAT_CLR (k : Nat) : RF := ⟨0x61008 + k * 16, 5, 5⟩
def AFE_ADC_STAT_FAILN (k : Nat) : RF := ⟨0x61008 + k * 16, 9, 8⟩
def AFE_DAC_OFFS (k : Nat) : RF := ⟨0x62000 + k * 16, 23, 0⟩
def AFE_DAC_GAIN (k : Nat) : RF := ⟨0x62004 + k * 16, 23, 0⟩
def AFE_DAC_STAT_CAL_SRC (k : Nat) : RF := ⟨0x62008 + k * 16, 1, 0⟩
def AFE_DAC_STAT_FAILED (k : Nat) : RF := ⟨0x62008 + k * 16, 2, 2⟩
def AFE_DAC_STAT_SPARE (k : Nat) : RF := ⟨0x62008 + k * 16, 3, 3⟩
def AFE_DAC_STAT_WRERR (k : Nat) : RF := ⟨0x62008 + k * 16, 4, 4⟩
def AFE_DAC_STAT_CLR (k : Nat) : RF := ⟨0x62008 + k * 16, 5, 5⟩
def AFE_DAC_STAT_FAILN (k : Nat) : RF := ⟨0x62008 + k * 16, 9, 8⟩
def AFE_BLK_UNLOCK : RF := ⟨0x600F0, 31, 0⟩
def AFE_BLK_XSTAT_UNLOCKED : RF := ⟨0x600F4, 0, 0⟩
def AFE_BLK_XSTAT_XLOCK : RF := ⟨0x600F4, 1, 1⟩
def AFE_BLK_XSTAT_SEQERR : RF := ⟨0x600F4, 2, 2⟩
def AFE_BLK_XSTAT_BLKID : RF := ⟨0x600F4, 15, 8⟩
def HS_CTRL : RF := ⟨0x100000, 0, 0⟩
def HS_LINK_UP : RF := ⟨0x100004, 0, 0⟩
def HS_LINK_SPEED : RF := ⟨0x100004, 3, 1⟩
def HS_LINK_WIDTH : RF := ⟨0x100004, 7, 4⟩
def HS_LINK_DEGRADED : RF := ⟨0x100004, 8, 8⟩
def HS_BOOT_STAGE : RF := ⟨0x100008, 3, 0⟩
def HS_BOOT_DOMOPEN : RF := ⟨0x100008, 11, 4⟩
def HS_EARLY : RF := ⟨0x10000C, 31, 0⟩
def HS_PCI_ID_VID : RF := ⟨0x100010, 15, 0⟩
def HS_PCI_ID_DID : RF := ⟨0x100010, 31, 16⟩
def HS_EVT_PEND (w : Nat) : RF := ⟨0x100100 + w * 4, 31, 0⟩
def HS_EVT_ROUTE_VEC (s : Nat) : RF := ⟨0x101000 + s * 4, 5, 0⟩
def HS_EVT_ROUTE_EN (s : Nat) : RF := ⟨0x101000 + s * 4, 7, 7⟩
def HS_BLK_UNLOCK : RF := ⟨0x1000F0, 31, 0⟩
def HS_BLK_XSTAT_UNLOCKED : RF := ⟨0x1000F4, 0, 0⟩
def HS_BLK_XSTAT_XLOCK : RF := ⟨0x1000F4, 1, 1⟩
def HS_BLK_XSTAT_SEQERR : RF := ⟨0x1000F4, 2, 2⟩
def HS_BLK_XSTAT_BLKID : RF := ⟨0x1000F4, 15, 8⟩
def MEM_CTRL : RF := ⟨0x200000, 0, 0⟩
def MEM_STATUS_TRAINED : RF := ⟨0x200004, 0, 0⟩
def MEM_STATUS_CAPRED : RF := ⟨0x200004, 1, 1⟩
def MEM_CAP_GIB : RF := ⟨0x200008, 5, 0⟩
def MEM_CAP_SPARE : RF := ⟨0x200008, 13, 8⟩
def MEM_PAGE : RF := ⟨0x200010, 11, 0⟩
def MEM_AGE_LL : RF := ⟨0x200014, 7, 0⟩
def MEM_AGE_BE : RF := ⟨0x200014, 15, 8⟩
def MEM_AGE_BG : RF := ⟨0x200014, 31, 16⟩
def MEM_CAPTH_N : RF := ⟨0x200018, 7, 0⟩
def MEM_CAPTH_WIN : RF := ⟨0x200018, 31, 16⟩
def MEM_SCRUB : RF := ⟨0x20001C, 7, 0⟩
def MEM_RACKRATE_RATE : RF := ⟨0x200020, 5, 0⟩
def MEM_RACKRATE_EFF : RF := ⟨0x200020, 13, 8⟩
def MEM_RACK_CMD_CH : RF := ⟨0x200024, 0, 0⟩
def MEM_RACK_CMD_LRANK : RF := ⟨0x200024, 1, 1⟩
def MEM_RACK_CMD_GO : RF := ⟨0x200024, 31, 31⟩
def MEM_RACK_STAT_STATE (c : Nat) : RF := ⟨0x200030 + c * 0x10, 1, 0⟩
def MEM_RACK_STAT_REFUSED (c : Nat) : RF := ⟨0x200030 + c * 0x10, 2, 2⟩
def MEM_RACK_STAT_SRC (c : Nat) : RF := ⟨0x200030 + c * 0x10, 5, 4⟩
def MEM_RACK_STAT_LRANK (c : Nat) : RF := ⟨0x200030 + c * 0x10, 6, 6⟩
def MEM_RACK_STAT_CAUSE (c : Nat) : RF := ⟨0x200030 + c * 0x10, 9, 8⟩
def MEM_RACK_WMARK_LO (c : Nat) : RF := ⟨0x200034 + c * 0x10, 31, 0⟩
def MEM_RACK_WMARK_HI (c : Nat) : RF := ⟨0x200038 + c * 0x10, 0, 0⟩
def MEM_RACK_POISCOPY (c : Nat) : RF := ⟨0x20003C + c * 0x10, 31, 0⟩
def MEM_ERR_ADDR_LO : RF := ⟨0x200060, 31, 0⟩
def MEM_ERR_ADDR_HI : RF := ⟨0x200064, 3, 0⟩
def MEM_ERR_SRC_PORT : RF := ⟨0x200068, 3, 0⟩
def MEM_ERR_SRC_STREAM : RF := ⟨0x200068, 15, 8⟩
def MEM_ERR_SRC_SCRUB : RF := ⟨0x200068, 16, 16⟩
def MEM_UNBACKED : RF := ⟨0x20006C, 31, 0⟩
def MEM_WPOISON : RF := ⟨0x200070, 31, 0⟩
def MEM_RMAP_CLR : RF := ⟨0x200074, 0, 0⟩
def MEM_CH_RMAP_L0 (c : Nat) : RF := ⟨0x201000 + c * 0x1000, 1, 0⟩
def MEM_CH_RMAP_L1 (c : Nat) : RF := ⟨0x201000 + c * 0x1000, 3, 2⟩
def MEM_CH_RMAP_SPARE (c : Nat) : RF := ⟨0x201000 + c * 0x1000, 5, 4⟩
def MEM_CH_TEMP_TEMP (c : Nat) : RF := ⟨0x201004 + c * 0x1000, 7, 0⟩
def MEM_CH_TEMP_HOT (c : Nat) : RF := ⟨0x201004 + c * 0x1000, 8, 8⟩
def MEM_CH_RK_STATE_STATE (c r : Nat) : RF := ⟨0x201100 + c * 0x1000 + r * 0x40, 2, 0⟩
def MEM_CH_RK_STATE_SUSPECT (c r : Nat) : RF := ⟨0x201100 + c * 0x1000 + r * 0x40, 3, 3⟩
def MEM_CH_RK_CE (c r : Nat) : RF := ⟨0x201104 + c * 0x1000 + r * 0x40, 31, 0⟩
def MEM_CH_RK_UE (c r : Nat) : RF := ⟨0x201108 + c * 0x1000 + r * 0x40, 31, 0⟩
def MEM_CH_RK_CAPAR (c r : Nat) : RF := ⟨0x20110C + c * 0x1000 + r * 0x40, 31, 0⟩
def MEM_CH_RK_TRAIN_LASTT (c r : Nat) : RF := ⟨0x201110 + c * 0x1000 + r * 0x40, 7, 0⟩
def MEM_CH_RK_TRAIN_RETRAINS (c r : Nat) : RF := ⟨0x201110 + c * 0x1000 + r * 0x40, 31, 16⟩
def MEM_CH_RK_TRFAIL (c r : Nat) : RF := ⟨0x201114 + c * 0x1000 + r * 0x40, 31, 0⟩
def MEM_PORT_CFG_CLASS (p : Nat) : RF := ⟨0x204000 + p * 0x40, 1, 0⟩
def MEM_PORT_CFG_PON (p : Nat) : RF := ⟨0x204000 + p * 0x40, 7, 4⟩
def MEM_PORT_CFG_POFF (p : Nat) : RF := ⟨0x204000 + p * 0x40, 11, 8⟩
def MEM_PORT_STAT (p : Nat) : RF := ⟨0x204004 + p * 0x40, 0, 0⟩
def MEM_PORT_PANICN (p : Nat) : RF := ⟨0x204008 + p * 0x40, 31, 0⟩
def MEM_PORT_PROMO (p : Nat) : RF := ⟨0x20400C + p * 0x40, 31, 0⟩
def MEM_PORT_ERRN (p : Nat) : RF := ⟨0x204010 + p * 0x40, 31, 0⟩
def MEM_BLK_UNLOCK : RF := ⟨0x2000F0, 31, 0⟩
def MEM_BLK_XSTAT_UNLOCKED : RF := ⟨0x2000F4, 0, 0⟩
def MEM_BLK_XSTAT_XLOCK : RF := ⟨0x2000F4, 1, 1⟩
def MEM_BLK_XSTAT_SEQERR : RF := ⟨0x2000F4, 2, 2⟩
def MEM_BLK_XSTAT_BLKID : RF := ⟨0x2000F4, 15, 8⟩
def CE_CORE_LOAD (c : Nat) : RF := ⟨0x400100 + c * 4, 16, 0⟩
def CE_SAVE_BASE_LO : RF := ⟨0x400180, 31, 12⟩
def CE_SAVE_BASE_HI : RF := ⟨0x400184, 3, 0⟩
def CE_TAB_EXP (t : Nat) : RF := ⟨0x400800 + t * 4, 7, 0⟩
def CE_SLOT_CFG_PER (s : Nat) : RF := ⟨0x401000 + s * 0x40, 6, 0⟩
def CE_SLOT_CFG_FRM (s : Nat) : RF := ⟨0x401000 + s * 0x40, 7, 7⟩
def CE_SLOT_CFG_PHASE (s : Nat) : RF := ⟨0x401000 + s * 0x40, 13, 8⟩
def CE_SLOT_CFG_ALIGN (s : Nat) : RF := ⟨0x401000 + s * 0x40, 14, 14⟩
def CE_SLOT_CFG_CORE (s : Nat) : RF := ⟨0x401000 + s * 0x40, 18, 16⟩
def CE_SLOT_CFG_K (s : Nat) : RF := ⟨0x401000 + s * 0x40, 23, 20⟩
def CE_SLOT_CFG_FIELD (s : Nat) : RF := ⟨0x401000 + s * 0x40, 28, 24⟩
def CE_SLOT_LAT_L (s : Nat) : RF := ⟨0x401004 + s * 0x40, 15, 0⟩
def CE_SLOT_LAT_MINPER (s : Nat) : RF := ⟨0x401004 + s * 0x40, 22, 16⟩
def CE_SLOT_CMD (s : Nat) : RF := ⟨0x401008 + s * 0x40, 1, 0⟩
def CE_SLOT_STATUS_STATE (s : Nat) : RF := ⟨0x40100C + s * 0x40, 1, 0⟩
def CE_SLOT_STATUS_CFGERR (s : Nat) : RF := ⟨0x40100C + s * 0x40, 2, 2⟩
def CE_SLOT_STATUS_WRERR (s : Nat) : RF := ⟨0x40100C + s * 0x40, 3, 3⟩
def CE_SLOT_STATUS_LOADERR (s : Nat) : RF := ⟨0x40100C + s * 0x40, 7, 4⟩
def CE_SLOT_STATUS_OVR (s : Nat) : RF := ⟨0x40100C + s * 0x40, 8, 8⟩
def CE_SLOT_STATUS_AOVF (s : Nat) : RF := ⟨0x40100C + s * 0x40, 9, 9⟩
def CE_SLOT_STATUS_OSAT (s : Nat) : RF := ⟨0x40100C + s * 0x40, 10, 10⟩
def CE_SLOT_STATUS_ACTBANK (s : Nat) : RF := ⟨0x40100C + s * 0x40, 11, 11⟩
def CE_SLOT_STATUS_SWPEND (s : Nat) : RF := ⟨0x40100C + s * 0x40, 12, 12⟩
def CE_SLOT_STATUS_TUNEBUSY (s : Nat) : RF := ⟨0x40100C + s * 0x40, 13, 13⟩
def CE_SLOT_STATUS_TUNEERR (s : Nat) : RF := ⟨0x40100C + s * 0x40, 14, 14⟩
def CE_SLOT_STATUS_CONSEC (s : Nat) : RF := ⟨0x40100C + s * 0x40, 19, 16⟩
def CE_SLOT_STATUS_SAT (s : Nat) : RF := ⟨0x40100C + s * 0x40, 31, 24⟩
def CE_SLOT_MISS_MISS (s : Nat) : RF := ⟨0x401010 + s * 0x40, 15, 0⟩
def CE_SLOT_MISS_FRSKIP (s : Nat) : RF := ⟨0x401010 + s * 0x40, 31, 16⟩
def CE_SLOT_SWAP_REQ (s : Nat) : RF := ⟨0x401014 + s * 0x40, 0, 0⟩
def CE_SLOT_SWAP_APPLY (s : Nat) : RF := ⟨0x401014 + s * 0x40, 1, 1⟩
def CE_SLOT_NEST_OSLOT_A (s h : Nat) : RF := ⟨0x401018 + s * 0x40 + h * 4, 7, 0⟩
def CE_SLOT_NEST_OPORT_A (s h : Nat) : RF := ⟨0x401018 + s * 0x40 + h * 4, 9, 8⟩
def CE_SLOT_NEST_EN_A (s h : Nat) : RF := ⟨0x401018 + s * 0x40 + h * 4, 15, 15⟩
def CE_SLOT_NEST_OSLOT_B (s h : Nat) : RF := ⟨0x401018 + s * 0x40 + h * 4, 23, 16⟩
def CE_SLOT_NEST_OPORT_B (s h : Nat) : RF := ⟨0x401018 + s * 0x40 + h * 4, 25, 24⟩
def CE_SLOT_NEST_EN_B (s h : Nat) : RF := ⟨0x401018 + s * 0x40 + h * 4, 31, 31⟩
def CE_SLOT_TAB_T0 (s : Nat) : RF := ⟨0x401020 + s * 0x40, 6, 0⟩
def CE_SLOT_TAB_EN0 (s : Nat) : RF := ⟨0x401020 + s * 0x40, 7, 7⟩
def CE_SLOT_TAB_T1 (s : Nat) : RF := ⟨0x401020 + s * 0x40, 14, 8⟩
def CE_SLOT_TAB_EN1 (s : Nat) : RF := ⟨0x401020 + s * 0x40, 15, 15⟩
def CE_SLOT_TAB_T2 (s : Nat) : RF := ⟨0x401020 + s * 0x40, 22, 16⟩
def CE_SLOT_TAB_EN2 (s : Nat) : RF := ⟨0x401020 + s * 0x40, 23, 23⟩
def CE_SLOT_TAB_T3 (s : Nat) : RF := ⟨0x401020 + s * 0x40, 30, 24⟩
def CE_SLOT_TAB_EN3 (s : Nat) : RF := ⟨0x401020 + s * 0x40, 31, 31⟩
def CE_SLOT_COST (s : Nat) : RF := ⟨0x401024 + s * 0x40, 8, 0⟩
def CE_SLOT_PARAM (s i : Nat) : RF := ⟨0x401028 + s * 0x40 + i * 4, 31, 0⟩
def CE_SLOT_LIB (s : Nat) : RF := ⟨0x401038 + s * 0x40, 3, 0⟩
def CE_SLOT_MON (s i : Nat) : RF := ⟨0x404000 + s * 0x10 + i * 4, 31, 0⟩
def CE_SLOT_TUNE (s i : Nat) : RF := ⟨0x406000 + s * 0x20 + i * 4, 31, 0⟩
def CE_PROG (s i : Nat) : RF := ⟨0x500000 + s * 0x400 + i * 4, 31, 0⟩
def CE_BANKM (s b k j : Nat) : RF := ⟨0x600000 + s * 0x400 + b * 0x200 + k * 0x40 + j * 4, 23, 0⟩
def CE_BANKE (s b k : Nat) : RF := ⟨0x600020 + s * 0x400 + b * 0x200 + k * 0x40, 7, 0⟩
def CE_SREGM (s k j : Nat) : RF := ⟨0x680000 + s * 0x200 + k * 0x40 + j * 4, 23, 0⟩
def CE_SREGE (s k : Nat) : RF := ⟨0x680020 + s * 0x200 + k * 0x40, 7, 0⟩
def CE_TABLE (t i : Nat) : RF := ⟨0x700000 + t * 0x1000 + i * 4, 23, 0⟩
def CE_BLK_UNLOCK : RF := ⟨0x4000F0, 31, 0⟩
def CE_BLK_XSTAT_UNLOCKED : RF := ⟨0x4000F4, 0, 0⟩
def CE_BLK_XSTAT_XLOCK : RF := ⟨0x4000F4, 1, 1⟩
def CE_BLK_XSTAT_SEQERR : RF := ⟨0x4000F4, 2, 2⟩
def CE_BLK_XSTAT_BLKID : RF := ⟨0x4000F4, 15, 8⟩
def FE_STATUS_OWNER (n : Nat) : RF := ⟨0x800000 + n * 0x40000, 2, 0⟩
def FE_STATUS_OWNED (n : Nat) : RF := ⟨0x800000 + n * 0x40000, 3, 3⟩
def FE_STATUS_FAULT (n : Nat) : RF := ⟨0x800000 + n * 0x40000, 4, 4⟩
def FE_STATUS_WAIT (n : Nat) : RF := ⟨0x800000 + n * 0x40000, 10, 8⟩
def FE_STATUS_PSTOP (n : Nat) : RF := ⟨0x800000 + n * 0x40000, 14, 12⟩
def FE_FAULT_CAUSE (n : Nat) : RF := ⟨0x800004 + n * 0x40000, 7, 0⟩
def FE_FAULT_CTX (n : Nat) : RF := ⟨0x800004 + n * 0x40000, 10, 8⟩
def FE_FAULT_BYCTX (n : Nat) : RF := ⟨0x800004 + n * 0x40000, 11, 11⟩
def FE_FAULT_PC_LO (n : Nat) : RF := ⟨0x800008 + n * 0x40000, 31, 0⟩
def FE_FAULT_PC_HI (n : Nat) : RF := ⟨0x80000C + n * 0x40000, 3, 0⟩
def FE_HORIZON (n : Nat) : RF := ⟨0x800010 + n * 0x40000, 13, 0⟩
def FE_PLAN_SEGS (n : Nat) : RF := ⟨0x800014 + n * 0x40000, 15, 0⟩
def FE_PLAN_CKPT (n : Nat) : RF := ⟨0x800014 + n * 0x40000, 24, 16⟩
def FE_LEAD (n : Nat) : RF := ⟨0x800018 + n * 0x40000, 15, 0⟩
def FE_SQUASH (n : Nat) : RF := ⟨0x800100 + n * 0x40000, 31, 0⟩
def FE_SWITCH (n : Nat) : RF := ⟨0x800104 + n * 0x40000, 31, 0⟩
def FE_STARVE (n : Nat) : RF := ⟨0x800108 + n * 0x40000, 31, 0⟩
def FE_REPLAN_MAX (n : Nat) : RF := ⟨0x80010C + n * 0x40000, 15, 0⟩
def FE_REPLAN_LATE (n : Nat) : RF := ⟨0x800110 + n * 0x40000, 31, 0⟩
def FE_DWELL_LO (n c : Nat) : RF := ⟨0x800120 + n * 0x40000 + c * 8, 31, 0⟩
def FE_DWELL_HI (n c : Nat) : RF := ⟨0x800124 + n * 0x40000 + c * 8, 31, 0⟩
def FE_TRC_CTRL_EN (n : Nat) : RF := ⟨0x800200 + n * 0x40000, 0, 0⟩
def FE_TRC_CTRL_SIZE (n : Nat) : RF := ⟨0x800200 + n * 0x40000, 4, 1⟩
def FE_TRC_BASE_LO (n : Nat) : RF := ⟨0x800204 + n * 0x40000, 31, 12⟩
def FE_TRC_BASE_HI (n : Nat) : RF := ⟨0x800208 + n * 0x40000, 3, 0⟩
def FE_TRC_WPTR (n : Nat) : RF := ⟨0x80020C + n * 0x40000, 23, 0⟩
def FE_TRC_RPTR (n : Nat) : RF := ⟨0x800210 + n * 0x40000, 23, 0⟩
def FE_TRC_LOST (n : Nat) : RF := ⟨0x800214 + n * 0x40000, 31, 0⟩
def FE_CTX_STATE_STATE (n c : Nat) : RF := ⟨0x801000 + n * 0x40000 + c * 0x100, 2, 0⟩
def FE_CTX_STATE_CMDERR (n c : Nat) : RF := ⟨0x801000 + n * 0x40000 + c * 0x100, 3, 3⟩
def FE_CTX_STATE_WAITK (n c : Nat) : RF := ⟨0x801000 + n * 0x40000 + c * 0x100, 7, 4⟩
def FE_CTX_STATE_FCODE (n c : Nat) : RF := ⟨0x801000 + n * 0x40000 + c * 0x100, 15, 8⟩
def FE_CTX_CTRL_PRIO (n c : Nat) : RF := ⟨0x801004 + n * 0x40000 + c * 0x100, 3, 0⟩
def FE_CTX_CTRL_YIELD (n c : Nat) : RF := ⟨0x801004 + n * 0x40000 + c * 0x100, 4, 4⟩
def FE_CTX_CTRL_TRACE (n c : Nat) : RF := ⟨0x801004 + n * 0x40000 + c * 0x100, 5, 5⟩
def FE_CTX_CMD (n c : Nat) : RF := ⟨0x801008 + n * 0x40000 + c * 0x100, 1, 0⟩
def FE_CTX_START_LO (n c : Nat) : RF := ⟨0x80100C + n * 0x40000 + c * 0x100, 31, 3⟩
def FE_CTX_START_HI (n c : Nat) : RF := ⟨0x801010 + n * 0x40000 + c * 0x100, 3, 0⟩
def FE_CTX_PC_LO (n c : Nat) : RF := ⟨0x801014 + n * 0x40000 + c * 0x100, 31, 0⟩
def FE_CTX_PC_HI (n c : Nat) : RF := ⟨0x801018 + n * 0x40000 + c * 0x100, 3, 0⟩
def FE_CTX_LAYER (n c : Nat) : RF := ⟨0x80101C + n * 0x40000 + c * 0x100, 31, 0⟩
def FE_CTX_RETIRED_LO (n c : Nat) : RF := ⟨0x801020 + n * 0x40000 + c * 0x100, 31, 0⟩
def FE_CTX_RETIRED_HI (n c : Nat) : RF := ⟨0x801024 + n * 0x40000 + c * 0x100, 31, 0⟩
def FE_CTX_POS_X (n c : Nat) : RF := ⟨0x801028 + n * 0x40000 + c * 0x100, 31, 0⟩
def FE_CTX_POS_Y (n c : Nat) : RF := ⟨0x80102C + n * 0x40000 + c * 0x100, 31, 0⟩
def FE_CTX_MSPEED (n c : Nat) : RF := ⟨0x801030 + n * 0x40000 + c * 0x100, 23, 0⟩
def FE_CTX_JSPEED (n c : Nat) : RF := ⟨0x801034 + n * 0x40000 + c * 0x100, 23, 0⟩
def FE_CTX_POWER (n c : Nat) : RF := ⟨0x801038 + n * 0x40000 + c * 0x100, 15, 0⟩
def FE_CTX_DWELL (n c : Nat) : RF := ⟨0x80103C + n * 0x40000 + c * 0x100, 31, 0⟩
def FE_CTX_POOL_TARGET (n c : Nat) : RF := ⟨0x801040 + n * 0x40000 + c * 0x100, 15, 0⟩
def FE_CTX_POOL_STAT (n c : Nat) : RF := ⟨0x801040 + n * 0x40000 + c * 0x100, 19, 16⟩
def FE_CTX_POOL_MODE (n c : Nat) : RF := ⟨0x801040 + n * 0x40000 + c * 0x100, 21, 20⟩
def FE_CTX_FOCUS (n c : Nat) : RF := ⟨0x801044 + n * 0x40000 + c * 0x100, 31, 0⟩
def FE_CTX_OVERLAP (n c : Nat) : RF := ⟨0x801048 + n * 0x40000 + c * 0x100, 31, 0⟩
def FE_CTX_RAMP (n c : Nat) : RF := ⟨0x80104C + n * 0x40000 + c * 0x100, 15, 0⟩
def FE_CTX_PROF_MPROF (n c : Nat) : RF := ⟨0x801050 + n * 0x40000 + c * 0x100, 3, 0⟩
def FE_CTX_PROF_MAT (n c : Nat) : RF := ⟨0x801050 + n * 0x40000 + c * 0x100, 9, 8⟩
def FE_CTX_PROF_WSHAPE (n c : Nat) : RF := ⟨0x801050 + n * 0x40000 + c * 0x100, 19, 16⟩
def FE_CTX_PROF_DEP (n c : Nat) : RF := ⟨0x801050 + n * 0x40000 + c * 0x100, 20, 20⟩
def FE_CTX_PROF_K3 (n c : Nat) : RF := ⟨0x801050 + n * 0x40000 + c * 0x100, 21, 21⟩
def FE_CTX_WOBBLE_FREQ (n c : Nat) : RF := ⟨0x801054 + n * 0x40000 + c * 0x100, 15, 0⟩
def FE_CTX_WOBBLE_AMP (n c : Nat) : RF := ⟨0x801054 + n * 0x40000 + c * 0x100, 31, 16⟩
def FE_CTX_TOKENS (n c : Nat) : RF := ⟨0x801058 + n * 0x40000 + c * 0x100, 31, 0⟩
def FE_CTX_STACK_CDEPTH (n c : Nat) : RF := ⟨0x80105C + n * 0x40000 + c * 0x100, 3, 0⟩
def FE_CTX_STACK_LDEPTH (n c : Nat) : RF := ⟨0x80105C + n * 0x40000 + c * 0x100, 7, 4⟩
def FE_PROF_VMARK (n k : Nat) : RF := ⟨0x802000 + n * 0x40000 + k * 0x40, 23, 0⟩
def FE_PROF_VJUMP (n k : Nat) : RF := ⟨0x802004 + n * 0x40000 + k * 0x40, 23, 0⟩
def FE_PROF_AMAX (n k : Nat) : RF := ⟨0x802008 + n * 0x40000 + k * 0x40, 31, 0⟩
def FE_PROF_JMAX (n k : Nat) : RF := ⟨0x80200C + n * 0x40000 + k * 0x40, 31, 0⟩
def FE_PROF_DVMAX (n k : Nat) : RF := ⟨0x802010 + n * 0x40000 + k * 0x40, 23, 0⟩
def FE_PROF_GVMAX (n k : Nat) : RF := ⟨0x802014 + n * 0x40000 + k * 0x40, 23, 0⟩
def FE_PROF_GAMAX (n k : Nat) : RF := ⟨0x802018 + n * 0x40000 + k * 0x40, 31, 0⟩
def FE_PROF_GJMAX (n k : Nat) : RF := ⟨0x80201C + n * 0x40000 + k * 0x40, 31, 0⟩
def FE_PROF_GTW (n k : Nat) : RF := ⟨0x802020 + n * 0x40000 + k * 0x40, 10, 0⟩
def FE_PROF_RANGE_DRANGE (n k : Nat) : RF := ⟨0x802024 + n * 0x40000 + k * 0x40, 12, 0⟩
def FE_PROF_RANGE_FEMARGIN (n k : Nat) : RF := ⟨0x802024 + n * 0x40000 + k * 0x40, 28, 16⟩
def FE_PROF_STOPDEC (n k : Nat) : RF := ⟨0x802028 + n * 0x40000 + k * 0x40, 31, 0⟩
def FE_PROF_ZMIN (n k : Nat) : RF := ⟨0x80202C + n * 0x40000 + k * 0x40, 31, 0⟩
def FE_PROF_ZMAX (n k : Nat) : RF := ⟨0x802030 + n * 0x40000 + k * 0x40, 31, 0⟩
def FE_PROF_ZVMAX (n k : Nat) : RF := ⟨0x802034 + n * 0x40000 + k * 0x40, 23, 0⟩
def FE_PROF_ARCTOL (n k : Nat) : RF := ⟨0x802038 + n * 0x40000 + k * 0x40, 15, 0⟩
def FE_COR_BASE_LO (n : Nat) : RF := ⟨0x802400 + n * 0x40000, 31, 12⟩
def FE_COR_BASE_HI (n : Nat) : RF := ⟨0x802404 + n * 0x40000, 3, 0⟩
def FE_COR_CTRL (n : Nat) : RF := ⟨0x802408 + n * 0x40000, 0, 0⟩
def FE_COR_STATUS_VALID (n : Nat) : RF := ⟨0x80240C + n * 0x40000, 0, 0⟩
def FE_COR_STATUS_PENDING (n : Nat) : RF := ⟨0x80240C + n * 0x40000, 1, 1⟩
def FE_COR_STATUS_ERR (n : Nat) : RF := ⟨0x80240C + n * 0x40000, 7, 4⟩
def FE_COR_STATUS_ERRF (n : Nat) : RF := ⟨0x80240C + n * 0x40000, 8, 8⟩
def FE_COR_X0 (n : Nat) : RF := ⟨0x802410 + n * 0x40000, 31, 0⟩
def FE_COR_Y0 (n : Nat) : RF := ⟨0x802414 + n * 0x40000, 31, 0⟩
def FE_COR_PITCH (n : Nat) : RF := ⟨0x802418 + n * 0x40000, 31, 0⟩
def FE_COR_ZGAIN (n : Nat) : RF := ⟨0x80241C + n * 0x40000, 31, 0⟩
def FE_COR_OUT (n : Nat) : RF := ⟨0x802420 + n * 0x40000, 31, 0⟩
def FE_SPL_GAGE (n : Nat) : RF := ⟨0x802600 + n * 0x40000, 15, 0⟩
def FE_SPL_GJUMP (n : Nat) : RF := ⟨0x802604 + n * 0x40000, 23, 0⟩
def FE_SPL_DSATMAX (n : Nat) : RF := ⟨0x802608 + n * 0x40000, 7, 0⟩
def FE_SPL_SLOWED (n : Nat) : RF := ⟨0x802610 + n * 0x40000, 31, 0⟩
def FE_SPL_MINM (n : Nat) : RF := ⟨0x802614 + n * 0x40000, 8, 0⟩
def FE_SPL_SETTLE_N (n : Nat) : RF := ⟨0x802618 + n * 0x40000, 31, 0⟩
def FE_SPL_SETTLE_T (n : Nat) : RF := ⟨0x80261C + n * 0x40000, 31, 0⟩
def FE_SPL_DSAT (n : Nat) : RF := ⟨0x802620 + n * 0x40000, 31, 0⟩
def FE_SPL_GBAD (n : Nat) : RF := ⟨0x802624 + n * 0x40000, 31, 0⟩
def FE_SPL_GLATE (n : Nat) : RF := ⟨0x802628 + n * 0x40000, 31, 0⟩
def FE_SPL_EPEAK_EX (n : Nat) : RF := ⟨0x80262C + n * 0x40000, 12, 0⟩
def FE_SPL_EPEAK_EY (n : Nat) : RF := ⟨0x80262C + n * 0x40000, 28, 16⟩
def FE_FRM_CTRL_SRC (n : Nat) : RF := ⟨0x802800 + n * 0x40000, 3, 0⟩
def FE_FRM_CTRL_PEND (n : Nat) : RF := ⟨0x802800 + n * 0x40000, 4, 4⟩
def FE_FRM_SX (n : Nat) : RF := ⟨0x802804 + n * 0x40000, 31, 0⟩
def FE_FRM_SY (n : Nat) : RF := ⟨0x802808 + n * 0x40000, 31, 0⟩
def FE_FRM_REF (n : Nat) : RF := ⟨0x80280C + n * 0x40000, 31, 0⟩
def FE_FRM_LATCH (n : Nat) : RF := ⟨0x802810 + n * 0x40000, 0, 0⟩
def FE_FRM_VWIN (n : Nat) : RF := ⟨0x802814 + n * 0x40000, 6, 0⟩
def FE_FRM_FX (n : Nat) : RF := ⟨0x802818 + n * 0x40000, 31, 0⟩
def FE_FRM_FY (n : Nat) : RF := ⟨0x80281C + n * 0x40000, 31, 0⟩
def FE_FRM_ERRMAX (n : Nat) : RF := ⟨0x802820 + n * 0x40000, 31, 0⟩
def FE_FDL_CTRL_EN (n : Nat) : RF := ⟨0x802A00 + n * 0x40000, 0, 0⟩
def FE_FDL_CTRL_RETEN (n : Nat) : RF := ⟨0x802A00 + n * 0x40000, 1, 1⟩
def FE_FDL_ZERO_ZX (n : Nat) : RF := ⟨0x802A04 + n * 0x40000, 15, 0⟩
def FE_FDL_ZERO_ZY (n : Nat) : RF := ⟨0x802A04 + n * 0x40000, 31, 16⟩
def FE_FDL_M00 (n : Nat) : RF := ⟨0x802A08 + n * 0x40000, 31, 0⟩
def FE_FDL_M01 (n : Nat) : RF := ⟨0x802A0C + n * 0x40000, 31, 0⟩
def FE_FDL_M10 (n : Nat) : RF := ⟨0x802A10 + n * 0x40000, 31, 0⟩
def FE_FDL_M11 (n : Nat) : RF := ⟨0x802A14 + n * 0x40000, 31, 0⟩
def FE_FDL_DLAT (n : Nat) : RF := ⟨0x802A18 + n * 0x40000, 15, 0⟩
def FE_FDL_STATUS_LINK (n : Nat) : RF := ⟨0x802A1C + n * 0x40000, 0, 0⟩
def FE_FDL_STATUS_BADRUN (n : Nat) : RF := ⟨0x802A1C + n * 0x40000, 4, 1⟩
def FE_FDL_STATUS_READY (n : Nat) : RF := ⟨0x802A1C + n * 0x40000, 5, 5⟩
def FE_FDL_STATUS_ACK (n : Nat) : RF := ⟨0x802A1C + n * 0x40000, 15, 8⟩
def FE_FDL_BADRET (n : Nat) : RF := ⟨0x802A20 + n * 0x40000, 31, 0⟩
def FE_FDL_BADFWD (n : Nat) : RF := ⟨0x802A24 + n * 0x40000, 31, 0⟩
def FE_LCH_CTRL_PMODE (n : Nat) : RF := ⟨0x804000 + n * 0x40000, 0, 0⟩
def FE_LCH_CTRL_LFEN (n : Nat) : RF := ⟨0x804000 + n * 0x40000, 1, 1⟩
def FE_LCH_CTRL_RDYREQ (n : Nat) : RF := ⟨0x804000 + n * 0x40000, 2, 2⟩
def FE_LCH_CTRL_RDYPOL (n : Nat) : RF := ⟨0x804000 + n * 0x40000, 3, 3⟩
def FE_LCH_CTRL_ALMPOL (n : Nat) : RF := ⟨0x804000 + n * 0x40000, 4, 4⟩
def FE_LCH_CTRL_MMODE (n : Nat) : RF := ⟨0x804000 + n * 0x40000, 10, 8⟩
def FE_LCH_FS (n : Nat) : RF := ⟨0x804004 + n * 0x40000, 18, 0⟩
def FE_LCH_LIMIT (n : Nat) : RF := ⟨0x804008 + n * 0x40000, 18, 0⟩
def FE_LCH_IDLE (n : Nat) : RF := ⟨0x80400C + n * 0x40000, 15, 0⟩
def FE_LCH_PLEAD (n : Nat) : RF := ⟨0x804010 + n * 0x40000, 12, 0⟩
def FE_LCH_GADV_GONADV (n : Nat) : RF := ⟨0x804014 + n * 0x40000, 9, 0⟩
def FE_LCH_GADV_GOFFADV (n : Nat) : RF := ⟨0x804014 + n * 0x40000, 25, 16⟩
def FE_LCH_MINLOW (n : Nat) : RF := ⟨0x804018 + n * 0x40000, 9, 0⟩
def FE_LCH_MPER (n : Nat) : RF := ⟨0x80401C + n * 0x40000, 19, 0⟩
def FE_LCH_MHI (n : Nat) : RF := ⟨0x804020 + n * 0x40000, 19, 0⟩
def FE_LCH_QUAL (n : Nat) : RF := ⟨0x804024 + n * 0x40000, 7, 0⟩
def FE_LCH_PDK (n : Nat) : RF := ⟨0x804028 + n * 0x40000, 15, 0⟩
def FE_LCH_PDLIM_PDLO (n : Nat) : RF := ⟨0x80402C + n * 0x40000, 15, 0⟩
def FE_LCH_PDLIM_PDHI (n : Nat) : RF := ⟨0x80402C + n * 0x40000, 31, 16⟩
def FE_LCH_PDCHK_PDN (n : Nat) : RF := ⟨0x804030 + n * 0x40000, 7, 0⟩
def FE_LCH_PDCHK_PDMIN (n : Nat) : RF := ⟨0x804030 + n * 0x40000, 26, 8⟩
def FE_LCH_STATUS_GATE (n : Nat) : RF := ⟨0x804040 + n * 0x40000, 0, 0⟩
def FE_LCH_STATUS_GINT (n : Nat) : RF := ⟨0x804040 + n * 0x40000, 1, 1⟩
def FE_LCH_STATUS_RDY (n : Nat) : RF := ⟨0x804040 + n * 0x40000, 2, 2⟩
def FE_LCH_STATUS_ALM (n : Nat) : RF := ⟨0x804040 + n * 0x40000, 3, 3⟩
def FE_LCH_STATUS_PEND (n : Nat) : RF := ⟨0x804040 + n * 0x40000, 4, 4⟩
def FE_LCH_STATUS_PSRCERR (n : Nat) : RF := ⟨0x804040 + n * 0x40000, 5, 5⟩
def FE_LCH_STATUS_KMODE (n : Nat) : RF := ⟨0x804040 + n * 0x40000, 7, 6⟩
def FE_LCH_STATUS_PDCNT (n : Nat) : RF := ⟨0x804040 + n * 0x40000, 15, 8⟩
def FE_LCH_COUT (n : Nat) : RF := ⟨0x804044 + n * 0x40000, 18, 0⟩
def FE_LCH_LFAC (n : Nat) : RF := ⟨0x804048 + n * 0x40000, 15, 0⟩
def FE_LCH_KPOOL_KEFF (n : Nat) : RF := ⟨0x80404C + n * 0x40000, 15, 0⟩
def FE_LCH_KPOOL_KPOOL (n : Nat) : RF := ⟨0x80404C + n * 0x40000, 31, 16⟩
def FE_LCH_GCLIP (n : Nat) : RF := ⟨0x804060 + n * 0x40000, 31, 0⟩
def FE_LCH_CLAMPN (n : Nat) : RF := ⟨0x804064 + n * 0x40000, 31, 0⟩
def FE_LCH_LFLATE (n : Nat) : RF := ⟨0x804068 + n * 0x40000, 31, 0⟩
def FE_LCH_PWRMISS (n : Nat) : RF := ⟨0x80406C + n * 0x40000, 1, 0⟩
def FE_TRL_CLEAR_LO (n : Nat) : RF := ⟨0x805000 + n * 0x40000, 31, 0⟩
def FE_TRL_CLEAR_HI (n : Nat) : RF := ⟨0x805004 + n * 0x40000, 31, 0⟩
def FE_TRL_AGE_AGE (n : Nat) : RF := ⟨0x805008 + n * 0x40000, 7, 0⟩
def FE_TRL_AGE_EFF (n : Nat) : RF := ⟨0x805008 + n * 0x40000, 12, 8⟩
def FE_TRL_BOOK_LO (n : Nat) : RF := ⟨0x80500C + n * 0x40000, 31, 0⟩
def FE_TRL_BOOK_HI (n : Nat) : RF := ⟨0x805010 + n * 0x40000, 31, 0⟩
def FE_TRL_DENY (n : Nat) : RF := ⟨0x805014 + n * 0x40000, 31, 0⟩
def FE_HLD_DSCALE (n : Nat) : RF := ⟨0x805020 + n * 0x40000, 15, 0⟩
def FE_BLK_UNLOCK (n : Nat) : RF := ⟨0x8000F0 + n * 0x40000, 31, 0⟩
def FE_BLK_XSTAT_UNLOCKED (n : Nat) : RF := ⟨0x8000F4 + n * 0x40000, 0, 0⟩
def FE_BLK_XSTAT_XLOCK (n : Nat) : RF := ⟨0x8000F4 + n * 0x40000, 1, 1⟩
def FE_BLK_XSTAT_SEQERR (n : Nat) : RF := ⟨0x8000F4 + n * 0x40000, 2, 2⟩
def FE_BLK_XSTAT_BLKID (n : Nat) : RF := ⟨0x8000F4 + n * 0x40000, 15, 8⟩
def TRL_CTRL_EN : RF := ⟨0xC00000, 0, 0⟩
def TRL_CTRL_RINGEN : RF := ⟨0xC00000, 1, 1⟩
def TRL_CTRL_PTVALID : RF := ⟨0xC00000, 2, 2⟩
def TRL_CTRL_MODID : RF := ⟨0xC00000, 6, 4⟩
def TRL_CTRL_RMASK : RF := ⟨0xC00000, 15, 8⟩
def TRL_STATUS : RF := ⟨0xC00004, 0, 0⟩
def TRL_TILE_ORGX : RF := ⟨0xC00010, 31, 0⟩
def TRL_TILE_ORGY : RF := ⟨0xC00014, 31, 0⟩
def TRL_TILE_GEOM_NX : RF := ⟨0xC00018, 9, 0⟩
def TRL_TILE_GEOM_NY : RF := ⟨0xC00018, 25, 16⟩
def TRL_TILE_GEOM_TSHIFT : RF := ⟨0xC00018, 30, 26⟩
def TRL_KO_DIR : RF := ⟨0xC00020, 15, 0⟩
def TRL_KO_DOWN : RF := ⟨0xC00024, 30, 0⟩
def TRL_KO_UP : RF := ⟨0xC00028, 30, 0⟩
def TRL_KO_HALF : RF := ⟨0xC0002C, 30, 0⟩
def TRL_KO_TAIL : RF := ⟨0xC00030, 7, 0⟩
def TRL_MARGIN : RF := ⟨0xC00034, 23, 0⟩
def TRL_KO_XLO : RF := ⟨0xC00038, 31, 0⟩
def TRL_KO_XHI : RF := ⟨0xC0003C, 31, 0⟩
def TRL_KO_YLO : RF := ⟨0xC00040, 31, 0⟩
def TRL_KO_YHI : RF := ⟨0xC00044, 31, 0⟩
def TRL_AGESTEP : RF := ⟨0xC00048, 7, 0⟩
def TRL_GTO : RF := ⟨0xC0004C, 15, 0⟩
def TRL_RDEPTH : RF := ⟨0xC00050, 12, 0⟩
def TRL_RDLY : RF := ⟨0xC00054, 11, 0⟩
def TRL_GUARD : RF := ⟨0xC00058, 15, 0⟩
def TRL_STUCK : RF := ⟨0xC00060, 15, 0⟩
def TRL_TILEERR : RF := ⟨0xC00064, 15, 0⟩
def TRL_ABSTAIN : RF := ⟨0xC00068, 31, 0⟩
def TRL_RQDROP : RF := ⟨0xC0006C, 31, 0⟩
def TRL_LATEFRM : RF := ⟨0xC00070, 31, 0⟩
def TRL_FPRIO (n : Nat) : RF := ⟨0xC00100 + n * 4, 3, 0⟩
def TRL_OWN_MASK (k w : Nat) : RF := ⟨0xC01000 + k * 0x20 + w * 4, 31, 0⟩
def TRL_OWN_ATTR_EXCL (k : Nat) : RF := ⟨0xC01010 + k * 0x20, 0, 0⟩
def TRL_OWN_ATTR_RING (k : Nat) : RF := ⟨0xC01010 + k * 0x20, 1, 1⟩
def TRL_TILE_S0 (w : Nat) : RF := ⟨0xC10000 + w * 4, 7, 0⟩
def TRL_TILE_S1 (w : Nat) : RF := ⟨0xC10000 + w * 4, 15, 8⟩
def TRL_TILE_S2 (w : Nat) : RF := ⟨0xC10000 + w * 4, 23, 16⟩
def TRL_TILE_S3 (w : Nat) : RF := ⟨0xC10000 + w * 4, 31, 24⟩
def TRL_BLK_UNLOCK : RF := ⟨0xC000F0, 31, 0⟩
def TRL_BLK_XSTAT_UNLOCKED : RF := ⟨0xC000F4, 0, 0⟩
def TRL_BLK_XSTAT_XLOCK : RF := ⟨0xC000F4, 1, 1⟩
def TRL_BLK_XSTAT_SEQERR : RF := ⟨0xC000F4, 2, 2⟩
def TRL_BLK_XSTAT_BLKID : RF := ⟨0xC000F4, 15, 8⟩
def HLD_CTRL : RF := ⟨0xD00000, 0, 0⟩
def HLD_ORGX : RF := ⟨0xD00004, 31, 0⟩
def HLD_ORGY : RF := ⟨0xD00008, 31, 0⟩
def HLD_GEOM_NX : RF := ⟨0xD0000C, 11, 0⟩
def HLD_GEOM_NY : RF := ⟨0xD0000C, 27, 16⟩
def HLD_CSHIFT : RF := ⟨0xD00010, 4, 0⟩
def HLD_DECAY : RF := ⟨0xD00014, 15, 0⟩
def HLD_EXRATE : RF := ⟨0xD00018, 5, 0⟩
def HLD_STATUS_EXBUSY : RF := ⟨0xD0001C, 0, 0⟩
def HLD_STATUS_CFGERR : RF := ⟨0xD0001C, 1, 1⟩
def HLD_STATUS_SATF : RF := ⟨0xD0001C, 2, 2⟩
def HLD_SAT : RF := ⟨0xD00020, 31, 0⟩
def HLD_DEPOUT : RF := ⟨0xD00024, 31, 0⟩
def HLD_FAC (m i : Nat) : RF := ⟨0xD01000 + m * 0x400 + i * 4, 15, 0⟩
def HLD_BLK_UNLOCK : RF := ⟨0xD000F0, 31, 0⟩
def HLD_BLK_XSTAT_UNLOCKED : RF := ⟨0xD000F4, 0, 0⟩
def HLD_BLK_XSTAT_XLOCK : RF := ⟨0xD000F4, 1, 1⟩
def HLD_BLK_XSTAT_SEQERR : RF := ⟨0xD000F4, 2, 2⟩
def HLD_BLK_XSTAT_BLKID : RF := ⟨0xD000F4, 15, 8⟩
def COO_BLK_UNLOCK : RF := ⟨0xE000F0, 31, 0⟩
def COO_BLK_XSTAT_UNLOCKED : RF := ⟨0xE000F4, 0, 0⟩
def COO_BLK_XSTAT_XLOCK : RF := ⟨0xE000F4, 1, 1⟩
def COO_BLK_XSTAT_SEQERR : RF := ⟨0xE000F4, 2, 2⟩
def COO_BLK_XSTAT_BLKID : RF := ⟨0xE000F4, 15, 8⟩
def AXE_ENC_CTRL_MODE (k : Nat) : RF := ⟨0xF00800 + k * 0x20, 1, 0⟩
def AXE_ENC_CTRL_INV (k : Nat) : RF := ⟨0xF00800 + k * 0x20, 2, 2⟩
def AXE_ENC_CTRL_FILT (k : Nat) : RF := ⟨0xF00800 + k * 0x20, 15, 8⟩
def AXE_ENC_CNT (k : Nat) : RF := ⟨0xF00804 + k * 0x20, 31, 0⟩
def AXE_ENC_ERR (k : Nat) : RF := ⟨0xF00808 + k * 0x20, 31, 0⟩
def AXE_AX_CFG_KIND (a : Nat) : RF := ⟨0xF01000 + a * 0x100, 1, 0⟩
def AXE_AX_CFG_APER (a : Nat) : RF := ⟨0xF01000 + a * 0x100, 3, 2⟩
def AXE_AX_CFG_HDIR (a : Nat) : RF := ⟨0xF01000 + a * 0x100, 4, 4⟩
def AXE_AX_CFG_HREV (a : Nat) : RF := ⟨0xF01000 + a * 0x100, 5, 5⟩
def AXE_AX_CFG_HIDX (a : Nat) : RF := ⟨0xF01000 + a * 0x100, 6, 6⟩
def AXE_AX_CFG_REFREQ (a : Nat) : RF := ⟨0xF01000 + a * 0x100, 7, 7⟩
def AXE_AX_CFG_DIRINV (a : Nat) : RF := ⟨0xF01000 + a * 0x100, 8, 8⟩
def AXE_AX_CFG_LIMPOL (a : Nat) : RF := ⟨0xF01000 + a * 0x100, 9, 9⟩
def AXE_AX_CFG_HOMEPOL (a : Nat) : RF := ⟨0xF01000 + a * 0x100, 10, 10⟩
def AXE_AX_CFG_CFGERR (a : Nat) : RF := ⟨0xF01000 + a * 0x100, 11, 11⟩
def AXE_AX_CTRL (a : Nat) : RF := ⟨0xF01004 + a * 0x100, 0, 0⟩
def AXE_AX_CMD (a : Nat) : RF := ⟨0xF01008 + a * 0x100, 2, 0⟩
def AXE_AX_QTGT (a : Nat) : RF := ⟨0xF0100C + a * 0x100, 31, 0⟩
def AXE_AX_QSPD (a : Nat) : RF := ⟨0xF01010 + a * 0x100, 31, 0⟩
def AXE_AX_QPUSH (a : Nat) : RF := ⟨0xF01014 + a * 0x100, 1, 0⟩
def AXE_AX_SEGDUR (a : Nat) : RF := ⟨0xF01018 + a * 0x100, 31, 0⟩
def AXE_AX_SEGVEL (a : Nat) : RF := ⟨0xF0101C + a * 0x100, 31, 0⟩
def AXE_AX_AMAX (a : Nat) : RF := ⟨0xF01020 + a * 0x100, 31, 0⟩
def AXE_AX_DMAX (a : Nat) : RF := ⟨0xF01024 + a * 0x100, 31, 0⟩
def AXE_AX_JMAX (a : Nat) : RF := ⟨0xF01028 + a * 0x100, 31, 0⟩
def AXE_AX_SDEC (a : Nat) : RF := ⟨0xF0102C + a * 0x100, 31, 0⟩
def AXE_AX_VMAX (a : Nat) : RF := ⟨0xF01030 + a * 0x100, 31, 0⟩
def AXE_AX_HSPD (a : Nat) : RF := ⟨0xF01034 + a * 0x100, 31, 0⟩
def AXE_AX_HLSPD (a : Nat) : RF := ⟨0xF01038 + a * 0x100, 31, 0⟩
def AXE_AX_HOFFS (a : Nat) : RF := ⟨0xF0103C + a * 0x100, 31, 0⟩
def AXE_AX_HMAXT (a : Nat) : RF := ⟨0xF01040 + a * 0x100, 31, 0⟩
def AXE_AX_IDXMOD (a : Nat) : RF := ⟨0xF01044 + a * 0x100, 15, 0⟩
def AXE_AX_QUAL_N (a : Nat) : RF := ⟨0xF01048 + a * 0x100, 7, 0⟩
def AXE_AX_QUAL_CHTH (a : Nat) : RF := ⟨0xF01048 + a * 0x100, 15, 8⟩
def AXE_AX_QUAL_CHWIN (a : Nat) : RF := ⟨0xF01048 + a * 0x100, 31, 16⟩
def AXE_AX_STEPT_PW (a : Nat) : RF := ⟨0xF0104C + a * 0x100, 9, 0⟩
def AXE_AX_STEPT_DSU (a : Nat) : RF := ⟨0xF0104C + a * 0x100, 25, 16⟩
def AXE_AX_SSRATE (a : Nat) : RF := ⟨0xF01050 + a * 0x100, 31, 0⟩
def AXE_AX_SPLEAD (a : Nat) : RF := ⟨0xF01054 + a * 0x100, 9, 0⟩
def AXE_AX_RFMISS (a : Nat) : RF := ⟨0xF01058 + a * 0x100, 3, 0⟩
def AXE_AX_STATUS_STATE (a : Nat) : RF := ⟨0xF01060 + a * 0x100, 3, 0⟩
def AXE_AX_STATUS_REF (a : Nat) : RF := ⟨0xF01060 + a * 0x100, 4, 4⟩
def AXE_AX_STATUS_LIMP (a : Nat) : RF := ⟨0xF01060 + a * 0x100, 5, 5⟩
def AXE_AX_STATUS_LIMN (a : Nat) : RF := ⟨0xF01060 + a * 0x100, 6, 6⟩
def AXE_AX_STATUS_HOME (a : Nat) : RF := ⟨0xF01060 + a * 0x100, 7, 7⟩
def AXE_AX_STATUS_QSTOP (a : Nat) : RF := ⟨0xF01060 + a * 0x100, 8, 8⟩
def AXE_AX_STATUS_QLEN (a : Nat) : RF := ⟨0xF01060 + a * 0x100, 17, 9⟩
def AXE_AX_FAULT_CAUSE (a : Nat) : RF := ⟨0xF01064 + a * 0x100, 7, 0⟩
def AXE_AX_FAULT_BYCTX (a : Nat) : RF := ⟨0xF01064 + a * 0x100, 8, 8⟩
def AXE_AX_POS (a : Nat) : RF := ⟨0xF01068 + a * 0x100, 31, 0⟩
def AXE_AX_POSF (a : Nat) : RF := ⟨0xF0106C + a * 0x100, 15, 0⟩
def AXE_AX_APOS (a : Nat) : RF := ⟨0xF01070 + a * 0x100, 31, 0⟩
def AXE_AX_HLATCH (a : Nat) : RF := ⟨0xF01074 + a * 0x100, 31, 0⟩
def AXE_AX_DSUCLIP (a : Nat) : RF := ⟨0xF01078 + a * 0x100, 31, 0⟩
def AXE_AX_QREFUSE (a : Nat) : RF := ⟨0xF0107C + a * 0x100, 31, 0⟩
def AXE_AX_CSTATE_STATE (a : Nat) : RF := ⟨0xF01080 + a * 0x100, 2, 0⟩
def AXE_AX_CSTATE_FCODE (a : Nat) : RF := ⟨0xF01080 + a * 0x100, 15, 8⟩
def AXE_AX_CCMD (a : Nat) : RF := ⟨0xF01084 + a * 0x100, 1, 0⟩
def AXE_AX_CSTART_LO (a : Nat) : RF := ⟨0xF01088 + a * 0x100, 31, 3⟩
def AXE_AX_CSTART_HI (a : Nat) : RF := ⟨0xF0108C + a * 0x100, 3, 0⟩
def AXE_AX_CPC_LO (a : Nat) : RF := ⟨0xF01090 + a * 0x100, 31, 0⟩
def AXE_AX_CPC_HI (a : Nat) : RF := ⟨0xF01094 + a * 0x100, 3, 0⟩
def AXE_BLK_UNLOCK : RF := ⟨0xF000F0, 31, 0⟩
def AXE_BLK_XSTAT_UNLOCKED : RF := ⟨0xF000F4, 0, 0⟩
def AXE_BLK_XSTAT_XLOCK : RF := ⟨0xF000F4, 1, 1⟩
def AXE_BLK_XSTAT_SEQERR : RF := ⟨0xF000F4, 2, 2⟩
def AXE_BLK_XSTAT_BLKID : RF := ⟨0xF000F4, 15, 8⟩
def IMG_CAM_CTRL_EN (p : Nat) : RF := ⟨0x1001000 + p * 0x100, 0, 0⟩
def IMG_CAM_CTRL_LANES (p : Nat) : RF := ⟨0x1001000 + p * 0x100, 3, 1⟩
def IMG_CAM_CTRL_DT (p : Nat) : RF := ⟨0x1001000 + p * 0x100, 5, 4⟩
def IMG_CAM_CTRL_VC (p : Nat) : RF := ⟨0x1001000 + p * 0x100, 11, 8⟩
def IMG_CAM_CTRL_TRIGM (p : Nat) : RF := ⟨0x1001000 + p * 0x100, 12, 12⟩
def IMG_CAM_CTRL_CFGERR (p : Nat) : RF := ⟨0x1001000 + p * 0x100, 13, 13⟩
def IMG_CAM_GEOM_WIDTH (p : Nat) : RF := ⟨0x1001004 + p * 0x100, 12, 0⟩
def IMG_CAM_GEOM_HEIGHT (p : Nat) : RF := ⟨0x1001004 + p * 0x100, 28, 16⟩
def IMG_CAM_BLACK (p : Nat) : RF := ⟨0x1001008 + p * 0x100, 11, 0⟩
def IMG_CAM_FTO (p : Nat) : RF := ⟨0x100100C + p * 0x100, 15, 0⟩
def IMG_CAM_TWIN (p : Nat) : RF := ⟨0x1001010 + p * 0x100, 23, 0⟩
def IMG_CAM_DECIM (p : Nat) : RF := ⟨0x1001014 + p * 0x100, 15, 0⟩
def IMG_CAM_TRIG (p : Nat) : RF := ⟨0x1001018 + p * 0x100, 0, 0⟩
def IMG_CAM_WAIT_BASE_LO (p : Nat) : RF := ⟨0x1001020 + p * 0x100, 31, 12⟩
def IMG_CAM_WAIT_BASE_HI (p : Nat) : RF := ⟨0x1001024 + p * 0x100, 3, 0⟩
def IMG_CAM_WAIT_SLOT (p : Nat) : RF := ⟨0x1001028 + p * 0x100, 31, 0⟩
def IMG_CAM_ARCH_BASE_LO (p : Nat) : RF := ⟨0x1001030 + p * 0x100, 31, 12⟩
def IMG_CAM_ARCH_BASE_HI (p : Nat) : RF := ⟨0x1001034 + p * 0x100, 3, 0⟩
def IMG_CAM_ARCH_CTRL_ARCH (p : Nat) : RF := ⟨0x1001038 + p * 0x100, 0, 0⟩
def IMG_CAM_ARCH_CTRL_SIZE (p : Nat) : RF := ⟨0x1001038 + p * 0x100, 7, 4⟩
def IMG_CAM_ARCH_WPTR (p : Nat) : RF := ⟨0x100103C + p * 0x100, 23, 0⟩
def IMG_CAM_ARCH_RPTR (p : Nat) : RF := ⟨0x1001040 + p * 0x100, 23, 0⟩
def IMG_CAM_ARCH_LOST (p : Nat) : RF := ⟨0x1001044 + p * 0x100, 31, 0⟩
def IMG_CAM_FRAMES (p : Nat) : RF := ⟨0x1001060 + p * 0x100, 31, 0⟩
def IMG_CAM_MISMATCH (p : Nat) : RF := ⟨0x1001064 + p * 0x100, 31, 0⟩
def IMG_CAM_ECCCOR (p : Nat) : RF := ⟨0x1001068 + p * 0x100, 31, 0⟩
def IMG_CAM_PKTDROP (p : Nat) : RF := ⟨0x100106C + p * 0x100, 31, 0⟩
def IMG_CAM_VCOTHER (p : Nat) : RF := ⟨0x1001070 + p * 0x100, 31, 0⟩
def IMG_CAM_DROP (p : Nat) : RF := ⟨0x1001074 + p * 0x100, 31, 0⟩
def IMG_CAM_TRIGLOST (p : Nat) : RF := ⟨0x1001078 + p * 0x100, 31, 0⟩
def IMG_CAM_LAST (p : Nat) : RF := ⟨0x1001080 + p * 0x100, 31, 0⟩
def IMG_CAM_LASTG_GEOMF (p : Nat) : RF := ⟨0x1001084 + p * 0x100, 6, 0⟩
def IMG_CAM_LASTG_LINESRX (p : Nat) : RF := ⟨0x1001084 + p * 0x100, 31, 16⟩
def IMG_CAM_LASTL_LMIN (p : Nat) : RF := ⟨0x1001088 + p * 0x100, 15, 0⟩
def IMG_CAM_LASTL_LMAX (p : Nat) : RF := ⟨0x1001088 + p * 0x100, 31, 16⟩
def IMG_PP_CTRL_EN (n : Nat) : RF := ⟨0x1010000 + n * 0x100, 0, 0⟩
def IMG_PP_CTRL_TMODE (n : Nat) : RF := ⟨0x1010000 + n * 0x100, 1, 1⟩
def IMG_PP_CTRL_RECEN (n : Nat) : RF := ⟨0x1010000 + n * 0x100, 2, 2⟩
def IMG_PP_TPER (n : Nat) : RF := ⟨0x1010004 + n * 0x100, 23, 0⟩
def IMG_PP_TPHASE (n : Nat) : RF := ⟨0x1010008 + n * 0x100, 23, 0⟩
def IMG_PP_EXPDLY (n : Nat) : RF := ⟨0x101000C + n * 0x100, 15, 0⟩
def IMG_PP_EXPT (n : Nat) : RF := ⟨0x1010010 + n * 0x100, 23, 0⟩
def IMG_PP_FSOFF (n : Nat) : RF := ⟨0x1010014 + n * 0x100, 23, 0⟩
def IMG_PP_TWIN (n : Nat) : RF := ⟨0x1010018 + n * 0x100, 23, 0⟩
def IMG_PP_BLACK (n : Nat) : RF := ⟨0x101001C + n * 0x100, 11, 0⟩
def IMG_PP_THR_THRA (n : Nat) : RF := ⟨0x1010020 + n * 0x100, 11, 0⟩
def IMG_PP_THR_THRB (n : Nat) : RF := ⟨0x1010020 + n * 0x100, 27, 16⟩
def IMG_PP_SATMAX (n : Nat) : RF := ⟨0x1010024 + n * 0x100, 15, 0⟩
def IMG_PP_FLAG_CFG_STAT (n k : Nat) : RF := ⟨0x1010040 + n * 0x100 + k * 8, 2, 0⟩
def IMG_PP_FLAG_CFG_GT (n k : Nat) : RF := ⟨0x1010040 + n * 0x100 + k * 8, 4, 4⟩
def IMG_PP_FLAG_THRESH (n k : Nat) : RF := ⟨0x1010044 + n * 0x100 + k * 8, 31, 0⟩
def IMG_PP_REC_BASE_LO (n : Nat) : RF := ⟨0x1010080 + n * 0x100, 31, 12⟩
def IMG_PP_REC_BASE_HI (n : Nat) : RF := ⟨0x1010084 + n * 0x100, 3, 0⟩
def IMG_PP_REC_SIZE (n : Nat) : RF := ⟨0x1010088 + n * 0x100, 3, 0⟩
def IMG_PP_REC_WPTR (n : Nat) : RF := ⟨0x101008C + n * 0x100, 23, 0⟩
def IMG_PP_REC_RPTR (n : Nat) : RF := ⟨0x1010090 + n * 0x100, 23, 0⟩
def IMG_PP_REC_LOST (n : Nat) : RF := ⟨0x1010094 + n * 0x100, 31, 0⟩
def IMG_PP_LAST_FRAME (n : Nat) : RF := ⟨0x1010098 + n * 0x100, 31, 0⟩
def IMG_PP_LAST_VALID (n : Nat) : RF := ⟨0x101009C + n * 0x100, 31, 0⟩
def IMG_BI_STATUS_BUSY (b : Nat) : RF := ⟨0x1020000 + b * 0x10000, 0, 0⟩
def IMG_BI_STATUS_PORT (b : Nat) : RF := ⟨0x1020000 + b * 0x10000, 5, 1⟩
def IMG_BI_FRAMES (b : Nat) : RF := ⟨0x1020004 + b * 0x10000, 31, 0⟩
def IMG_BI_PREEMPT (b : Nat) : RF := ⟨0x1020008 + b * 0x10000, 31, 0⟩
def IMG_BI_MSRC_PORT (b e : Nat) : RF := ⟨0x1020010 + b * 0x10000 + e * 4, 4, 0⟩
def IMG_BI_MSRC_BANK (b e : Nat) : RF := ⟨0x1020010 + b * 0x10000 + e * 4, 6, 5⟩
def IMG_BI_MSRC_EN (b e : Nat) : RF := ⟨0x1020010 + b * 0x10000 + e * 4, 7, 7⟩
def IMG_BI_STBASE_LO (b : Nat) : RF := ⟨0x1020040 + b * 0x10000, 31, 12⟩
def IMG_BI_STBASE_HI (b : Nat) : RF := ⟨0x1020044 + b * 0x10000, 3, 0⟩
def IMG_BI_STSIZE (b : Nat) : RF := ⟨0x1020048 + b * 0x10000, 3, 0⟩
def IMG_BI_STWPTR (b : Nat) : RF := ⟨0x102004C + b * 0x10000, 23, 0⟩
def IMG_BI_STRPTR (b : Nat) : RF := ⟨0x1020050 + b * 0x10000, 23, 0⟩
def IMG_BI_STLOST (b : Nat) : RF := ⟨0x1020054 + b * 0x10000, 31, 0⟩
def IMG_BI_S_CTRL_EN (b s : Nat) : RF := ⟨0x1020400 + b * 0x10000 + s * 0x100, 0, 0⟩
def IMG_BI_S_CTRL_CHAIN (b s : Nat) : RF := ⟨0x1020400 + b * 0x10000 + s * 0x100, 1, 1⟩
def IMG_BI_S_CTRL_FMT (b s : Nat) : RF := ⟨0x1020400 + b * 0x10000 + s * 0x100, 4, 2⟩
def IMG_BI_S_CTRL_FBCOD (b s : Nat) : RF := ⟨0x1020400 + b * 0x10000 + s * 0x100, 5, 5⟩
def IMG_BI_S_CTRL_FBMONO (b s : Nat) : RF := ⟨0x1020400 + b * 0x10000 + s * 0x100, 6, 6⟩
def IMG_BI_S_CTRL_FENCEN (b s : Nat) : RF := ⟨0x1020400 + b * 0x10000 + s * 0x100, 7, 7⟩
def IMG_BI_S_CTRL_SRC (b s : Nat) : RF := ⟨0x1020400 + b * 0x10000 + s * 0x100, 12, 8⟩
def IMG_BI_S_CROP_POS_CX (b s : Nat) : RF := ⟨0x1020404 + b * 0x10000 + s * 0x100, 12, 0⟩
def IMG_BI_S_CROP_POS_CY (b s : Nat) : RF := ⟨0x1020404 + b * 0x10000 + s * 0x100, 28, 16⟩
def IMG_BI_S_CROP_SIZE_CW (b s : Nat) : RF := ⟨0x1020408 + b * 0x10000 + s * 0x100, 13, 0⟩
def IMG_BI_S_CROP_SIZE_CH (b s : Nat) : RF := ⟨0x1020408 + b * 0x10000 + s * 0x100, 29, 16⟩
def IMG_BI_S_OUT_SIZE_OW (b s : Nat) : RF := ⟨0x102040C + b * 0x10000 + s * 0x100, 13, 0⟩
def IMG_BI_S_OUT_SIZE_OH (b s : Nat) : RF := ⟨0x102040C + b * 0x10000 + s * 0x100, 29, 16⟩
def IMG_BI_S_SBASE_LO (b s : Nat) : RF := ⟨0x1020410 + b * 0x10000 + s * 0x100, 31, 12⟩
def IMG_BI_S_SBASE_HI (b s : Nat) : RF := ⟨0x1020414 + b * 0x10000 + s * 0x100, 3, 0⟩
def IMG_BI_S_SLOT (b s : Nat) : RF := ⟨0x1020418 + b * 0x10000 + s * 0x100, 17, 0⟩
def IMG_BI_S_NSLOT (b s : Nat) : RF := ⟨0x102041C + b * 0x10000 + s * 0x100, 6, 0⟩
def IMG_BI_S_FENCE_LO (b s : Nat) : RF := ⟨0x1020420 + b * 0x10000 + s * 0x100, 31, 2⟩
def IMG_BI_S_FENCE_HI (b s : Nat) : RF := ⟨0x1020424 + b * 0x10000 + s * 0x100, 3, 0⟩
def IMG_BI_S_COMMIT (b s : Nat) : RF := ⟨0x1020428 + b * 0x10000 + s * 0x100, 0, 0⟩
def IMG_BI_S_STATUS_STATE (b s : Nat) : RF := ⟨0x102042C + b * 0x10000 + s * 0x100, 1, 0⟩
def IMG_BI_S_STATUS_SCL_LBUF (b s : Nat) : RF := ⟨0x102042C + b * 0x10000 + s * 0x100, 2, 2⟩
def IMG_BI_S_STATUS_REFCODE (b s : Nat) : RF := ⟨0x102042C + b * 0x10000 + s * 0x100, 6, 4⟩
def IMG_BI_S_SWPTR (b s : Nat) : RF := ⟨0x1020430 + b * 0x10000 + s * 0x100, 5, 0⟩
def IMG_BI_S_SRPTR (b s : Nat) : RF := ⟨0x1020434 + b * 0x10000 + s * 0x100, 5, 0⟩
def IMG_BI_S_SDROP (b s : Nat) : RF := ⟨0x1020438 + b * 0x10000 + s * 0x100, 31, 0⟩
def IMG_BI_S_COEF (b s i : Nat) : RF := ⟨0x1021000 + b * 0x10000 + s * 0x800 + i * 4, 11, 0⟩
def IMG_BI_BK_CFA_CFA (b k : Nat) : RF := ⟨0x1024000 + b * 0x10000 + k * 0x4000, 2, 0⟩
def IMG_BI_BK_CFA_LSEN (b k : Nat) : RF := ⟨0x1024000 + b * 0x10000 + k * 0x4000, 3, 3⟩
def IMG_BI_BK_CFA_TEN (b k : Nat) : RF := ⟨0x1024000 + b * 0x10000 + k * 0x4000, 4, 4⟩
def IMG_BI_BK_BL_BLA (b k i : Nat) : RF := ⟨0x1024004 + b * 0x10000 + k * 0x4000 + i * 4, 11, 0⟩
def IMG_BI_BK_BL_BLB (b k i : Nat) : RF := ⟨0x1024004 + b * 0x10000 + k * 0x4000 + i * 4, 27, 16⟩
def IMG_BI_BK_DPC_DTH (b k : Nat) : RF := ⟨0x102400C + b * 0x10000 + k * 0x4000, 15, 0⟩
def IMG_BI_BK_DPC_NDEF (b k : Nat) : RF := ⟨0x102400C + b * 0x10000 + k * 0x4000, 26, 16⟩
def IMG_BI_BK_NR (b k : Nat) : RF := ⟨0x1024010 + b * 0x10000 + k * 0x4000, 15, 0⟩
def IMG_BI_BK_CCM (b k i : Nat) : RF := ⟨0x1024020 + b * 0x10000 + k * 0x4000 + i * 4, 15, 0⟩
def IMG_BI_BK_CCMOFF (b k i : Nat) : RF := ⟨0x1024044 + b * 0x10000 + k * 0x4000 + i * 4, 15, 0⟩
def IMG_BI_BK_STWIN_POS_X0 (b k : Nat) : RF := ⟨0x1024050 + b * 0x10000 + k * 0x4000, 12, 0⟩
def IMG_BI_BK_STWIN_POS_Y0 (b k : Nat) : RF := ⟨0x1024050 + b * 0x10000 + k * 0x4000, 28, 16⟩
def IMG_BI_BK_STWIN_SIZE_SW (b k : Nat) : RF := ⟨0x1024054 + b * 0x10000 + k * 0x4000, 13, 0⟩
def IMG_BI_BK_STWIN_SIZE_SHT (b k : Nat) : RF := ⟨0x1024054 + b * 0x10000 + k * 0x4000, 29, 16⟩
def IMG_BI_BK_COMMIT (b k : Nat) : RF := ⟨0x1024058 + b * 0x10000 + k * 0x4000, 0, 0⟩
def IMG_BI_BK_DEF_X (b k d : Nat) : RF := ⟨0x1024400 + b * 0x10000 + k * 0x4000 + d * 4, 12, 0⟩
def IMG_BI_BK_DEF_Y (b k d : Nat) : RF := ⟨0x1024400 + b * 0x10000 + k * 0x4000 + d * 4, 28, 16⟩
def IMG_BI_BK_LENS_GA (b k i : Nat) : RF := ⟨0x1025400 + b * 0x10000 + k * 0x4000 + i * 4, 15, 0⟩
def IMG_BI_BK_LENS_GB (b k i : Nat) : RF := ⟨0x1025400 + b * 0x10000 + k * 0x4000 + i * 4, 31, 16⟩
def IMG_BI_BK_TONE (b k i : Nat) : RF := ⟨0x1027000 + b * 0x10000 + k * 0x4000 + i * 4, 15, 0⟩
def IMG_BLK_UNLOCK : RF := ⟨0x10000F0, 31, 0⟩
def IMG_BLK_XSTAT_UNLOCKED : RF := ⟨0x10000F4, 0, 0⟩
def IMG_BLK_XSTAT_XLOCK : RF := ⟨0x10000F4, 1, 1⟩
def IMG_BLK_XSTAT_SEQERR : RF := ⟨0x10000F4, 2, 2⟩
def IMG_BLK_XSTAT_BLKID : RF := ⟨0x10000F4, 15, 8⟩
def CMP_CTRL_EN : RF := ⟨0x1400000, 0, 0⟩
def CMP_CTRL_CFGERR : RF := ⟨0x1400000, 1, 1⟩
def CMP_BG : RF := ⟨0x1400004, 23, 0⟩
def CMP_FLIP : RF := ⟨0x1400008, 7, 0⟩
def CMP_STATUS_FLATERR : RF := ⟨0x140000C, 1, 0⟩
def CMP_STATUS_FLATUSE : RF := ⟨0x140000C, 2, 2⟩
def CMP_FRAME : RF := ⟨0x1400010, 31, 0⟩
def CMP_FRAME_MT_LO : RF := ⟨0x1400014, 31, 0⟩
def CMP_FRAME_MT_HI : RF := ⟨0x1400018, 31, 0⟩
def CMP_UNDERRUN : RF := ⟨0x140001C, 31, 0⟩
def CMP_ITCERR : RF := ⟨0x1400020, 31, 0⟩
def CMP_LATE (l : Nat) : RF := ⟨0x1400040 + l * 4, 31, 0⟩
def CMP_PCLK : RF := ⟨0x1400100, 18, 0⟩
def CMP_H_HACT : RF := ⟨0x1400104, 13, 0⟩
def CMP_H_HTOT : RF := ⟨0x1400104, 29, 16⟩
def CMP_HS_HSS : RF := ⟨0x1400108, 13, 0⟩
def CMP_HS_HSE : RF := ⟨0x1400108, 29, 16⟩
def CMP_HS_HPOL : RF := ⟨0x1400108, 31, 31⟩
def CMP_V_VACT : RF := ⟨0x140010C, 13, 0⟩
def CMP_V_VTOT : RF := ⟨0x140010C, 29, 16⟩
def CMP_VS_VSS : RF := ⟨0x1400110, 13, 0⟩
def CMP_VS_VSE : RF := ⟨0x1400110, 29, 16⟩
def CMP_VS_VPOL : RF := ⟨0x1400110, 31, 31⟩
def CMP_DP_CTRL_EN : RF := ⟨0x1400200, 0, 0⟩
def CMP_DP_CTRL_RATE : RF := ⟨0x1400200, 2, 1⟩
def CMP_DP_CTRL_LANES : RF := ⟨0x1400200, 5, 3⟩
def CMP_DP_CTRL_BPC : RF := ⟨0x1400200, 7, 6⟩
def CMP_DP_CTRL_RETRAIN : RF := ⟨0x1400200, 8, 8⟩
def CMP_DP_STATUS_HPD : RF := ⟨0x1400204, 0, 0⟩
def CMP_DP_STATUS_TRAINED : RF := ⟨0x1400204, 1, 1⟩
def CMP_DP_STATUS_RATE : RF := ⟨0x1400204, 3, 2⟩
def CMP_DP_STATUS_LANES : RF := ⟨0x1400204, 6, 4⟩
def CMP_DP_AUX_CMD_REQ : RF := ⟨0x1400210, 3, 0⟩
def CMP_DP_AUX_CMD_ADDR : RF := ⟨0x1400210, 23, 4⟩
def CMP_DP_AUX_CMD_LEN : RF := ⟨0x1400210, 27, 24⟩
def CMP_DP_AUX_CMD_GO : RF := ⟨0x1400210, 31, 31⟩
def CMP_DP_AUX_STAT : RF := ⟨0x1400214, 1, 0⟩
def CMP_DP_AUX_DATA (i : Nat) : RF := ⟨0x1400218 + i * 4, 31, 0⟩
def CMP_WB_CTRL_EN : RF := ⟨0x1400300, 0, 0⟩
def CMP_WB_CTRL_FMT : RF := ⟨0x1400300, 1, 1⟩
def CMP_WB_CTRL_DIV : RF := ⟨0x1400300, 11, 4⟩
def CMP_WB_BASE_LO : RF := ⟨0x1400304, 31, 12⟩
def CMP_WB_BASE_HI : RF := ⟨0x1400308, 3, 0⟩
def CMP_WB_SLOT : RF := ⟨0x140030C, 17, 0⟩
def CMP_WB_NSLOT : RF := ⟨0x1400310, 6, 0⟩
def CMP_WB_WPTR : RF := ⟨0x1400314, 5, 0⟩
def CMP_WB_RPTR : RF := ⟨0x1400318, 5, 0⟩
def CMP_WB_DROP : RF := ⟨0x140031C, 31, 0⟩
def CMP_LY_CTRL_EN (l : Nat) : RF := ⟨0x1401000 + l * 0x100, 0, 0⟩
def CMP_LY_CTRL_FMT (l : Nat) : RF := ⟨0x1401000 + l * 0x100, 3, 1⟩
def CMP_LY_CTRL_ZPOS (l : Nat) : RF := ⟨0x1401000 + l * 0x100, 6, 4⟩
def CMP_LY_CTRL_STATIC (l : Nat) : RF := ⟨0x1401000 + l * 0x100, 7, 7⟩
def CMP_LY_CTRL_GA (l : Nat) : RF := ⟨0x1401000 + l * 0x100, 15, 8⟩
def CMP_LY_CTRL_FMODE (l : Nat) : RF := ⟨0x1401000 + l * 0x100, 17, 16⟩
def CMP_LY_BASE_LO (l : Nat) : RF := ⟨0x1401004 + l * 0x100, 31, 0⟩
def CMP_LY_BASE_HI (l : Nat) : RF := ⟨0x1401008 + l * 0x100, 3, 0⟩
def CMP_LY_UVBASE_LO (l : Nat) : RF := ⟨0x140100C + l * 0x100, 31, 0⟩
def CMP_LY_UVBASE_HI (l : Nat) : RF := ⟨0x1401010 + l * 0x100, 3, 0⟩
def CMP_LY_STRIDE (l : Nat) : RF := ⟨0x1401014 + l * 0x100, 17, 0⟩
def CMP_LY_SURF_W (l : Nat) : RF := ⟨0x1401018 + l * 0x100, 13, 0⟩
def CMP_LY_SURF_H (l : Nat) : RF := ⟨0x1401018 + l * 0x100, 29, 16⟩
def CMP_LY_SRC_POS_SX (l : Nat) : RF := ⟨0x140101C + l * 0x100, 13, 0⟩
def CMP_LY_SRC_POS_SY (l : Nat) : RF := ⟨0x140101C + l * 0x100, 29, 16⟩
def CMP_LY_SRC_SIZE_SW (l : Nat) : RF := ⟨0x1401020 + l * 0x100, 13, 0⟩
def CMP_LY_SRC_SIZE_SH (l : Nat) : RF := ⟨0x1401020 + l * 0x100, 29, 16⟩
def CMP_LY_DST_POS_DX (l : Nat) : RF := ⟨0x1401024 + l * 0x100, 13, 0⟩
def CMP_LY_DST_POS_DY (l : Nat) : RF := ⟨0x1401024 + l * 0x100, 29, 16⟩
def CMP_LY_DST_SIZE_DW (l : Nat) : RF := ⟨0x1401028 + l * 0x100, 13, 0⟩
def CMP_LY_DST_SIZE_DH (l : Nat) : RF := ⟨0x1401028 + l * 0x100, 29, 16⟩
def CMP_LY_FENCE_LO (l : Nat) : RF := ⟨0x140102C + l * 0x100, 31, 2⟩
def CMP_LY_FENCE_HI (l : Nat) : RF := ⟨0x1401030 + l * 0x100, 3, 0⟩
def CMP_LY_FVAL (l : Nat) : RF := ⟨0x1401034 + l * 0x100, 31, 0⟩
def CMP_LY_STATUS_SHOWN (l : Nat) : RF := ⟨0x1401038 + l * 0x100, 0, 0⟩
def CMP_LY_STATUS_PENDING (l : Nat) : RF := ⟨0x1401038 + l * 0x100, 1, 1⟩
def CMP_LY_STATUS_REFUSED (l : Nat) : RF := ⟨0x1401038 + l * 0x100, 2, 2⟩
def CMP_LY_STATUS_REFCODE (l : Nat) : RF := ⟨0x1401038 + l * 0x100, 6, 4⟩
def CMP_LY_DIRTY (l : Nat) : RF := ⟨0x140103C + l * 0x100, 0, 0⟩
def CMP_PAL (k i : Nat) : RF := ⟨0x1408000 + k * 0x400 + i * 4, 31, 0⟩
def CMP_BLK_UNLOCK : RF := ⟨0x14000F0, 31, 0⟩
def CMP_BLK_XSTAT_UNLOCKED : RF := ⟨0x14000F4, 0, 0⟩
def CMP_BLK_XSTAT_XLOCK : RF := ⟨0x14000F4, 1, 1⟩
def CMP_BLK_XSTAT_SEQERR : RF := ⟨0x14000F4, 2, 2⟩
def CMP_BLK_XSTAT_BLKID : RF := ⟨0x14000F4, 15, 8⟩
def RNG_CTRL_MODE : RF := ⟨0x1500000, 1, 0⟩
def RNG_CTRL_CYCEN : RF := ⟨0x1500000, 2, 2⟩
def RNG_CTRL_PTPEN : RF := ⟨0x1500000, 3, 3⟩
def RNG_CTRL_BYPASS : RF := ⟨0x1500000, 8, 8⟩
def RNG_CTRL_CFGERR : RF := ⟨0x1500000, 9, 9⟩
def RNG_STATUS_BYPST : RF := ⟨0x1500004, 0, 0⟩
def RNG_STATUS_LINKA : RF := ⟨0x1500004, 1, 1⟩
def RNG_STATUS_LINKB : RF := ⟨0x1500004, 2, 2⟩
def RNG_STATUS_LOSSA : RF := ⟨0x1500004, 3, 3⟩
def RNG_STATUS_LOSSB : RF := ⟨0x1500004, 4, 4⟩
def RNG_STATUS_WDEXP : RF := ⟨0x1500004, 5, 5⟩
def RNG_STATUS_LOOP : RF := ⟨0x1500004, 6, 6⟩
def RNG_CYC_PER : RF := ⟨0x1500008, 9, 0⟩
def RNG_CYC_ETYPE : RF := ⟨0x1500008, 31, 16⟩
def RNG_CYC_DA_LO : RF := ⟨0x150000C, 31, 0⟩
def RNG_CYC_DA_HI : RF := ⟨0x1500010, 15, 0⟩
def RNG_MAC_LO : RF := ⟨0x1500014, 31, 0⟩
def RNG_MAC_HI : RF := ⟨0x1500018, 15, 0⟩
def RNG_WDT : RF := ⟨0x150001C, 7, 0⟩
def RNG_PLWIN : RF := ⟨0x1500020, 7, 0⟩
def RNG_CYCMISS : RF := ⟨0x1500040, 31, 0⟩
def RNG_CYCBAD : RF := ⟨0x1500044, 31, 0⟩
def RNG_SIGLOST : RF := ⟨0x1500048, 31, 0⟩
def RNG_AX_DRV_DRV (a : Nat) : RF := ⟨0x1500100 + a * 4, 7, 0⟩
def RNG_AX_DRV_IDX (a : Nat) : RF := ⟨0x1500100 + a * 4, 11, 8⟩
def RNG_PTP_CTRL_DOMAIN : RF := ⟨0x1500200, 7, 0⟩
def RNG_PTP_CTRL_LOGPDI : RF := ⟨0x1500200, 11, 8⟩
def RNG_PTP_CTRL_PSLIM : RF := ⟨0x1500200, 31, 16⟩
def RNG_PTPRX_BASE_LO : RF := ⟨0x1500204, 31, 12⟩
def RNG_PTPRX_BASE_HI : RF := ⟨0x1500208, 3, 0⟩
def RNG_PTPRX_SIZE : RF := ⟨0x150020C, 3, 0⟩
def RNG_PTPRX_WPTR : RF := ⟨0x1500210, 23, 0⟩
def RNG_PTPRX_RPTR : RF := ⟨0x1500214, 23, 0⟩
def RNG_PTPRX_LOST : RF := ⟨0x1500218, 31, 0⟩
def RNG_P_ILAT (p : Nat) : RF := ⟨0x1500400 + p * 0x80, 15, 0⟩
def RNG_P_ELAT (p : Nat) : RF := ⟨0x1500404 + p * 0x80, 15, 0⟩
def RNG_P_ASYM (p : Nat) : RF := ⟨0x1500408 + p * 0x80, 31, 0⟩
def RNG_P_PDELAY (p : Nat) : RF := ⟨0x150040C + p * 0x80, 31, 0⟩
def RNG_P_PSVAL (p : Nat) : RF := ⟨0x1500410 + p * 0x80, 31, 0⟩
def RNG_P_PDLAST (p : Nat) : RF := ⟨0x1500414 + p * 0x80, 31, 0⟩
def RNG_P_PSTAT_PDOK (p : Nat) : RF := ⟨0x1500418 + p * 0x80, 0, 0⟩
def RNG_P_PSTAT_PATH_STEP (p : Nat) : RF := ⟨0x1500418 + p * 0x80, 1, 1⟩
def RNG_P_PSTAT_PSACK (p : Nat) : RF := ⟨0x1500418 + p * 0x80, 2, 2⟩
def RNG_P_OUTLIER (p : Nat) : RF := ⟨0x150041C + p * 0x80, 31, 0⟩
def RNG_P_RXFRAMES (p : Nat) : RF := ⟨0x1500420 + p * 0x80, 31, 0⟩
def RNG_P_TXFRAMES (p : Nat) : RF := ⟨0x1500424 + p * 0x80, 31, 0⟩
def RNG_P_RXERR (p : Nat) : RF := ⟨0x1500428 + p * 0x80, 31, 0⟩
def RNG_P_DUPDROP (p : Nat) : RF := ⟨0x150042C + p * 0x80, 31, 0⟩
def RNG_P_NOTAG (p : Nat) : RF := ⟨0x1500430 + p * 0x80, 31, 0⟩
def RNG_BLK_UNLOCK : RF := ⟨0x15000F0, 31, 0⟩
def RNG_BLK_XSTAT_UNLOCKED : RF := ⟨0x15000F4, 0, 0⟩
def RNG_BLK_XSTAT_XLOCK : RF := ⟨0x15000F4, 1, 1⟩
def RNG_BLK_XSTAT_SEQERR : RF := ⟨0x15000F4, 2, 2⟩
def RNG_BLK_XSTAT_BLKID : RF := ⟨0x15000F4, 15, 8⟩
def HSQ_DB_H2D (q : Nat) : RF := ⟨0x100000000 + q * 0x1000, 31, 0⟩
def HSQ_DB_D2H (q : Nat) : RF := ⟨0x100020000 + q * 0x1000, 31, 0⟩
def HSQ_RING_LO (i : Nat) : RF := ⟨0x100100000 + i * 0x40, 31, 6⟩
def HSQ_RING_HI (i : Nat) : RF := ⟨0x100100004 + i * 0x40, 31, 0⟩
def HSQ_CPL_LO (i : Nat) : RF := ⟨0x100100008 + i * 0x40, 31, 6⟩
def HSQ_CPL_HI (i : Nat) : RF := ⟨0x10010000C + i * 0x40, 31, 0⟩
def HSQ_CTRL_EN (i : Nat) : RF := ⟨0x100100010 + i * 0x40, 0, 0⟩
def HSQ_CTRL_SIZE (i : Nat) : RF := ⟨0x100100010 + i * 0x40, 4, 1⟩
def HSQ_CTRL_VEC (i : Nat) : RF := ⟨0x100100010 + i * 0x40, 13, 8⟩
def HSQ_CTRL_IRQALL (i : Nat) : RF := ⟨0x100100010 + i * 0x40, 14, 14⟩
def HSQ_STATUS_STATE (i : Nat) : RF := ⟨0x100100014 + i * 0x40, 1, 0⟩
def HSQ_STATUS_ERR (i : Nat) : RF := ⟨0x100100014 + i * 0x40, 7, 4⟩
def HSQ_STATUS_CFGERR (i : Nat) : RF := ⟨0x100100014 + i * 0x40, 8, 8⟩
def HSQ_HEAD (i : Nat) : RF := ⟨0x100100018 + i * 0x40, 15, 0⟩
def HSQ_TAIL (i : Nat) : RF := ⟨0x10010001C + i * 0x40, 15, 0⟩
def HSQ_CPLIDX (i : Nat) : RF := ⟨0x100100020 + i * 0x40, 15, 0⟩
def HSQ_BLOCKS (i : Nat) : RF := ⟨0x100100024 + i * 0x40, 31, 0⟩
def HSQ_RESENDN (i : Nat) : RF := ⟨0x100100028 + i * 0x40, 31, 0⟩
def HSQ_PUSHSRC_CTX (i : Nat) : RF := ⟨0x10010002C + i * 0x40, 2, 0⟩
def HSQ_PUSHSRC_OPEN (i : Nat) : RF := ⟨0x10010002C + i * 0x40, 7, 7⟩
def HSQ_MSIX_ADDR_LO (v : Nat) : RF := ⟨0x100200000 + v * 16, 31, 2⟩
def HSQ_MSIX_ADDR_HI (v : Nat) : RF := ⟨0x100200004 + v * 16, 31, 0⟩
def HSQ_MSIX_DATA (v : Nat) : RF := ⟨0x100200008 + v * 16, 31, 0⟩
def HSQ_MSIX_CTRL (v : Nat) : RF := ⟨0x10020000C + v * 16, 0, 0⟩
def HSQ_PBA (w : Nat) : RF := ⟨0x100201000 + w * 4, 31, 0⟩

end R

end Sys2Proof.Machine
end

