-- ==== Sys2Proof/Machine/Ops.lean ====
section
/-! DEFINITION. The shared operations: sparse maps, bit fields, the register store, time, DRAM bytes,
CRC-32C, the pins, the modes, and a command's outcome. -/
namespace Sys2Proof.Machine

/-! ## Sparse maps -/

/-- The value at a key; an unlisted key reads as `d`. -/
def sget {α : Type} (d : Nat → α) (m : Sparse α) (k : Nat) : α :=
  match m with
  | [] => d k
  | (j, v) :: t => if j = k then v else sget d t k

/-- The map without a key. -/
def serase {α : Type} (m : Sparse α) (k : Nat) : Sparse α :=
  match m with
  | [] => []
  | (j, v) :: t => if j = k then serase t k else (j, v) :: serase t k

/-- The map with a key listed, keys rising. -/
def sput {α : Type} (m : Sparse α) (k : Nat) (v : α) : Sparse α :=
  match m with
  | [] => [(k, v)]
  | (j, w) :: t =>
    if j < k then (j, w) :: sput t k v
    else if j = k then (k, v) :: t else (k, v) :: (j, w) :: t

/-- Writes a value; the value that an unlisted key reads as removes the entry. -/
def sset {α : Type} [DecidableEq α] (d : Nat → α) (m : Sparse α) (k : Nat) (v : α) : Sparse α :=
  if v = d k then serase m k else sput m k v

/-- Keys strictly rising and all at least `lo`, no entry equal to what an unlisted key reads as. -/
def swfFrom {α : Type} [DecidableEq α] (d : Nat → α) (lo : Nat) : Sparse α → Bool
  | [] => true
  | (j, v) :: t => decide (lo ≤ j) && decide (v ≠ d j) && swfFrom d (j + 1) t

/-- The canonical form of a sparse map. -/
def swf {α : Type} [DecidableEq α] (d : Nat → α) (m : Sparse α) : Bool := swfFrom d 0 m

/-! ## Bits and numbers -/

/-- Bits [msb:lsb] of a number (R4). -/
def bits (v msb lsb : Nat) : Nat := v / 2 ^ lsb % 2 ^ (msb + 1 - lsb)

/-- A number with bits [msb:lsb] replaced. -/
def putBits (v msb lsb x : Nat) : Nat :=
  v / 2 ^ (msb + 1) * 2 ^ (msb + 1) + x % 2 ^ (msb + 1 - lsb) * 2 ^ lsb + v % 2 ^ lsb

/-- Two's complement reading of the low `w` bits. -/
def signed (w v : Nat) : Int :=
  if v % 2 ^ w < 2 ^ (w - 1) then ((v % 2 ^ w : Nat) : Int) else ((v % 2 ^ w : Nat) : Int) - 2 ^ w

/-- The low `w` bits of an integer. -/
def unsigned (w : Nat) (x : Int) : Nat := (x % (2 ^ w : Int)).toNat

/-- An integer held within bounds. -/
def clampI (lo hi x : Int) : Int := if x < lo then lo else if hi < x then hi else x

def clampN (lo hi x : Nat) : Nat := if x < lo then lo else if hi < x then hi else x

/-- Floor of a rational. -/
def rfloor (q : Rat) : Int := q.num / (q.den : Int)

/-- Rounding to nearest, halves away from zero upwards. -/
def rround (q : Rat) : Int := rfloor (q + 1 / 2)

def bool01 (b : Bool) : Nat := if b then 1 else 0

/-- `n` bytes of a number, little-endian (R4). -/
def leBytes : Nat → Nat → List Byte
  | 0, _ => []
  | n + 1, v => BitVec.ofNat 8 v :: leBytes n (v / 256)

/-- The number of little-endian bytes. -/
def ofLe : List Byte → Nat
  | [] => 0
  | b :: t => b.toNat + 256 * ofLe t

/-- `f` where the condition holds. -/
def when' {α : Type} (c : Bool) (f : α → α) (a : α) : α := if c then f a else a

/-- CRC-32C of the bytes so far, one byte on (R392). -/
def crcByte (c : Nat) (b : Byte) : Nat :=
  (List.range 8).foldl (fun c _ => if c % 2 = 1 then (c / 2) ^^^ 0x82F63B78 else c / 2)
    (c ^^^ b.toNat)

/-- CRC-32C with reflected input and output (R392). -/
def crc32c (bs : List Byte) : Nat := (bs.foldl crcByte 0xFFFFFFFF) ^^^ 0xFFFFFFFF

/-! ## Register words -/

/-- The instance of a replicated register that an offset names. -/
def matchDims : List (Nat × Nat) → Nat → Option (List Nat)
  | [], r => if r = 0 then some [] else none
  | (c, s) :: ds, r =>
    if r / s < c then (matchDims ds (r % s)).map (r / s :: ·) else none

/-- The instance of a row at an address. -/
def Row.index (base : Nat) (w : Row) (a : Nat) : Option (List Nat) :=
  if base + w.off ≤ a then matchDims w.dims (a - (base + w.off)) else none

/-- The register at an address, with its instance. -/
def findRow (a : Nat) : Option (Row × List Nat) :=
  (blockOf a).2.findSome? fun w => (w.index (blockOf a).1 a).map (w, ·)

/-- Block ids of the address map (R36). -/
def blockId (a : Nat) : Nat :=
  if a < 0x70000 then a / 0x10000
  else if a < 0x200000 then 0x10
  else if a < 0x400000 then 0x20
  else if a < 0x800000 then 0x40
  else if a < 0xC00000 then 0x80 + (a - 0x800000) / 0x40000
  else if a < 0xD00000 then 0xC0
  else if a < 0xE00000 then 0xD0
  else if a < 0xF00000 then 0xE0
  else if a < 0x1000000 then 0xF0
  else if a < 0x1400000 then 0xA0
  else if a < 0x1500000 then 0xA4
  else 0xA5

/-- Catmull-Rom tap t of phase p of 64, Q1.10, in two's complement (R304). -/
def catmullRom (p t : Nat) : Int :=
  let f : Int := p
  -- weights times 2·64³, for the samples at −1, 0, 1 and 2
  let w : Int :=
    if t = 0 then -f * 4096 + 2 * f * f * 64 - f * f * f
    else if t = 1 then 2 * 262144 - 5 * f * f * 64 + 3 * f * f * f
    else if t = 2 then f * 4096 + 4 * f * f * 64 - 3 * f * f * f
    else -(f * f * 64) + f * f * f
  (w * 1024 + 262144) / 524288

/-- Service class of a port at reset (R364): 0 RT, 1 LL, 2 BE, 3 BG. -/
def portClass (p : Nat) : Nat :=
  if p = 2 ∨ p = 4 ∨ p = 5 ∨ p = 7 then 0 else if p = 9 ∨ p = 10 then 1 else if p = 11 then 3 else 2

/-- The reset value of a field in the instance `ix`. -/
def Fd.resetVal (f : Fd) (a : Nat) (ix : List Nat) : Nat :=
  let i := ix.getLastD 0
  match f.tag with
  | .const => f.rst
  | .flash => (Config.flashWord a).toNat
  | .slice => i + i / 8
  | .spare => if i % 9 = 8 then 1 else 0
  | .rkstate => if i = 2 then 0 else 1
  | .class => portClass i
  | .pon => if i = 4 ∨ i = 5 then 12 else 4
  | .core => ix.headD 0 % 8
  | .bisrc => 16 + ix.headD 0
  | .coef => unsigned 12 (catmullRom (i % 256 / 4) (i % 4))
  | .ccm => if i % 4 = 0 then 4096 else 0
  | .tone => if i = 256 then 65535 else 256 * i
  | .zpos => i
  | .blkid => blockId a

/-- The reset word of the register at an address; reserved addresses read as 0 (R10). -/
def resetWord (a : Nat) : Word :=
  match findRow a with
  | none => 0
  | some (w, ix) =>
    BitVec.ofNat 32 (w.fields.foldl
      (fun v f => v + f.resetVal a ix % 2 ^ (f.msb + 1 - f.lsb) * 2 ^ f.lsb) 0)

/-- The stored word of a register. -/
def rget (g : Sparse Word) (a : Nat) : Word := sget resetWord g a

/-- Stores a register's word. -/
def rput (g : Sparse Word) (a : Nat) (v : Word) : Sparse Word := sset resetWord g a v

/-- A field of a stored register. -/
def rrd (g : Sparse Word) (r : RF) : Nat := bits (rget g r.a).toNat r.msb r.lsb

/-- Writes one field of a stored register. -/
def rwr (g : Sparse Word) (r : RF) (v : Nat) : Sparse Word :=
  rput g r.a (BitVec.ofNat 32 (putBits (rget g r.a).toNat r.msb r.lsb v))

/-- Increments a counter field, saturating. -/
def rinc (g : Sparse Word) (r : RF) : Sparse Word :=
  if rrd g r + 1 < 2 ^ (r.msb + 1 - r.lsb) then rwr g r (rrd g r + 1) else g

def Mach.word (m : Mach) (a : Nat) : Word := rget m.regs a

def Mach.setWord (m : Mach) (a : Nat) (v : Word) : Mach := { m with regs := rput m.regs a v }

/-- A field of a register. -/
def Mach.rd (m : Mach) (r : RF) : Nat := rrd m.regs r

/-- A one-bit field is 1. -/
def Mach.on (m : Mach) (r : RF) : Bool := m.rd r == 1

/-- A field as a two's complement number. -/
def Mach.rdS (m : Mach) (r : RF) : Int := signed (r.msb + 1 - r.lsb) (m.rd r)

/-- A block writes a field of its register. -/
def Mach.wr (m : Mach) (r : RF) (v : Nat) : Mach := { m with regs := rwr m.regs r v }

/-- A block increments a saturating counter. -/
def Mach.inc (m : Mach) (r : RF) : Mach := { m with regs := rinc m.regs r }

/-- Several fields at once. -/
def rwrs (g : Sparse Word) (l : List (RF × Nat)) : Sparse Word :=
  l.foldl (fun g p => rwr g p.1 p.2) g

def Mach.wrs (m : Mach) (l : List (RF × Nat)) : Mach := { m with regs := rwrs m.regs l }

/-- A DRAM address held in NAME_LO and NAME_HI. -/
def Mach.addr (m : Mach) (lo hi : RF) : Nat :=
  m.rd lo * 2 ^ lo.lsb + m.rd hi * 2 ^ 32

/-- A 64-bit value written to a pair. -/
def Mach.wr64 (m : Mach) (lo hi : RF) (v : Nat) : Mach :=
  { m with regs := rwr (rwr m.regs lo v) hi (v / 2 ^ 32) }

def Mach.rd64 (m : Mach) (lo hi : RF) : Nat := m.rd lo + m.rd hi * 2 ^ 32

/-- The value in force of a shadowed field (R8). -/
def Mach.rdf (m : Mach) (r : RF) : Nat := rrd m.force r

/-- The written values of some shadowed registers take effect. -/
def Mach.commit (m : Mach) (as : List Nat) : Mach :=
  { m with force := as.foldl (fun g a => rput g a (rget m.regs a)) m.force }

/-! ## Time (02) -/

/-- MT ticks of one management tick (R7). -/
def mgmtTick : Nat := 800000

/-- Servo tick, fine tick. -/
def servoTick : Nat := 2000

def fineTick : Nat := 80

/-- Ticks of one millisecond. -/
def msTicks : Nat := 800000

/-- MT ticks per cycle of the reference's 800 MHz phase, times 2^40 (R40).  A synthesizer that has lost
lock keeps this rate (DESIGN CHOICE, log entry 107). -/
def Tim.rate (t : Tim) : Nat := ((2 ^ 40 : Int) + t.eff).toNat

/-- Cycles of the reference's 800 MHz phase in `dt` MT ticks (R40). -/
def Tim.cycles (t : Tim) (dt : Nat) : Nat :=
  if t.mtRun then (dt * 2 ^ 40 + t.rem) / t.rate else dt

/-- PT and OT advance with the reference (R38, R48). -/
def Tim.advance (t : Tim) (dt : Nat) : Tim :=
  { t with
    ptAcc := t.ptAcc + t.ptInc * t.cycles dt
    ot := t.ot + t.cycles dt
    rem := if t.mtRun then (dt * 2 ^ 40 + t.rem) % t.rate else t.rem }

/-- Time passes: MT when it runs, PT, OT (R38, R48).  `dt` counts MT ticks, or cycles of the reference
while MT does not run. -/
def Mach.advance (m : Mach) (dt : Nat) : Mach :=
  { m with
    now := m.now + dt
    regs0 := if dt = 0 then m.regs0 else m.regs
    mt := if m.tim.mtRun then m.mt + dt else m.mt
    tim := m.tim.advance dt }

/-- PT in nanoseconds, 32 bits (R48). -/
def Tim.pt (t : Tim) : Nat := t.ptAcc / 2 ^ 32 % 2 ^ 32

/-- PT with its epoch, 2^−32 ns. -/
def Tim.ptFull (t : Tim) : Nat := t.ptEpoch.toNat * 2 ^ 64 + t.ptAcc

/-- The value that a timestamp taken at an instant carries: in the cycle of a step, the one before it (R51). -/
def Tim.stamp (t : Tim) (now : Nat) : Nat :=
  match t.preStep with
  | some (i, v) => if i = now then v else t.ptFull
  | none => t.ptFull

/-- OT seconds and 1/65,536 fraction. -/
def Tim.otSec (t : Tim) : Nat := t.ot / 800000000

def Tim.otFrac (t : Tim) : Nat := t.ot % 800000000 * 65536 / 800000000

/-- The instant nearest `near` whose low 32 bits are `v` (R42).  Of two that are equally near, the later
one (DESIGN CHOICE, log entry 106). -/
def nearest32 (near v : Nat) : Nat :=
  let b := near / 2 ^ 32 * 2 ^ 32 + v % 2 ^ 32
  if near + 2 ^ 31 < b ∧ 2 ^ 32 ≤ b then b - 2 ^ 32
  else if b + 2 ^ 31 ≤ near then b + 2 ^ 32 else b

/-- The next multiple of `p` at or after `t`. -/
def ceilTo (p t : Nat) : Nat := (t + p - 1) / p * p

/-! ## DRAM bytes (12) -/

/-- What an unlisted byte reads as: MEM zeroes memory before boot stage 2 (R511). -/
def memDefault (_ : Nat) : Byte := 0

/-- The canonical form of memory. -/
abbrev Memory.wf (bs : List Host.Cell) : Bool := swf memDefault bs

/-- One byte of DRAM. -/
def Mach.byte (m : Mach) (a : Nat) : Byte := sget memDefault m.mem.bytes a

/-- `n` bytes from an address. -/
def Mach.bytes (m : Mach) (a n : Nat) : List Byte := (List.range n).map fun i => m.byte (a + i)

/-- A little-endian number of `n` bytes. -/
def Mach.le (m : Mach) (a n : Nat) : Nat := ofLe (m.bytes a n)

/-- Stores bytes from an address on. -/
def storeBytes (bs : List Host.Cell) (a : Nat) : List Byte → List Host.Cell
  | [] => bs
  | b :: t => storeBytes (sset memDefault bs a b) (a + 1) t

/-- The lines that a range of bytes touches, 128 bytes each (12_memory.md, R354). -/
def linesOf (a n : Nat) : List Nat :=
  if n = 0 then [] else (List.range ((a + n - 1) / 128 - a / 128 + 1)).map (a / 128 + ·)

/-- Channel of an address: ADDR[8] (R354). -/
def chanOf (a : Nat) : Nat := a / 256 % 2

/-- Logical rank of an address: ADDR[34]. -/
def lrankOf (a : Nat) : Nat := a / 2 ^ 34 % 2

/-- The physical rank behind a logical rank; 3 for none. -/
def Mach.backing (m : Mach) (c l : Nat) : Nat :=
  if l = 0 then m.rd (R.MEM_CH_RMAP_L0 c) else m.rd (R.MEM_CH_RMAP_L1 c)

/-- The address has no memory behind it (R356). -/
def Mach.unbacked (m : Mach) (a : Nat) : Bool :=
  decide (0x800000000 ≤ a) || m.backing (chanOf a) (lrankOf a) == 3

/-- Some line of the range is unbacked. -/
def Mach.someUnbacked (m : Mach) (a n : Nat) : Bool := (linesOf a n).any fun l => m.unbacked (128 * l)

/-- A read of the range meets a poisoned line (R361) or an unbacked one (R356). -/
def Mach.poisoned (m : Mach) (a n : Nat) : Bool :=
  (linesOf a n).any fun l => m.mem.poison.contains l || m.unbacked (128 * l)

/-- The part of a byte range that lies in a line: its address and bytes. -/
def lineSlice (a : Nat) (bs : List Byte) (l : Nat) : Nat × List Byte :=
  let s := max a (128 * l)
  (s, (bs.drop (s - a)).take (128 * l + 128 - s))

/-! ## Lists -/

/-- `l` with `f` applied at index `i`. -/
def modify {α : Type} (l : List α) (i : Nat) (f : α → α) : List α :=
  match l, i with
  | [], _ => []
  | a :: t, 0 => f a :: t
  | a :: t, i + 1 => a :: modify t i f

/-- The elements of a list with their indices. -/
def indexed {α : Type} (l : List α) : List (Nat × α) := (List.range l.length).zip l

/-- Increment, bounded. -/
def satInc (w v : Nat) : Nat := if v + 1 < 2 ^ w then v + 1 else v

/-- Something leaves the module. -/
def Mach.emit (m : Mach) (o : Out) : Mach := { m with out := o :: m.out }

/-- Ticks of a history that are kept: more than any window that looks back (R214, R229, R231). -/
def histTicks : Nat := 2 ^ 33

/-- A history, newest first, without what is older than the entry in effect `histTicks` ago. -/
def keepHist {α : Type} (t : Nat) : List (Nat × α) → List (Nat × α)
  | [] => []
  | p :: l => if p.1 + histTicks < t then [p] else p :: keepHist t l

/-- The LGATE pin of a field is at a level from now on (R229). -/
def Lch.pin (l : Lch) (t : Nat) (v : Bool) : Lch :=
  if (match l.pinHist with | (_, w) :: _ => w | [] => false) = v then l
  else { l with pinHist := (t, v) :: keepHist t l.pinHist }

/-- The laser outputs of a field go to fail-safe: gate low, code 0 (R469). -/
def Lch.dark (l : Lch) (t : Nat) : Lch :=
  { l.pin t false with coutHist := (t, 0) :: keepHist t l.coutHist }

/-- The value in effect at an instant in a list of changes, newest first. -/
def inEffect {α : Type} (d : α) (l : List (Nat × α)) (t : Nat) : α :=
  match l.find? fun p => decide (p.1 ≤ t) with
  | some p => p.2
  | none => d

/-- G_int takes a level at an instant; later changes that were to come do not. -/
def Lch.setGint (l : Lch) (t : Nat) (v : Bool) : Lch :=
  let h := l.gintHist.filter fun p => decide (p.1 < t)
  if inEffect false h t = v then { l with gintHist := h } else { l with gintHist := (t, v) :: keepHist t h }

/-- The levels of the gate pins of a field change. -/
def Mach.setGatePins (m : Mach) (n : Fin 16) (g l : Bool) (rise : Nat) : Mach :=
  { m with
    pins := m.pins.set n { m.pins[n] with lgate := g, lmod := l, rise := rise }
    fe := m.fe.set n { m.fe[n] with lch := m.fe[n].lch.pin m.mt g } }

/-- A read command answers. -/
def Mach.answer (m : Mach) (a : Nat) (v : Word) : Mach :=
  { m with rdata := v, out := .readReply a v :: m.out }

/-! ## Modes (01) -/

def modeBoot : Nat := 0
def modeSafe : Nat := 1
def modeReady : Nat := 2
def modeArmed : Nat := 3

def Mach.mode (m : Mach) : Nat := m.rd R.GLB_MODE_MODE

def Mach.setMode (m : Mach) (v : Nat) : Mach := m.wr R.GLB_MODE_MODE v

/-- Power state: 0 ACTIVE, 1 HOLD, 2 IDLE, 3 STANDBY. -/
def Mach.pstate (m : Mach) : Nat := m.rd R.PWR_PSTATE_STATE

def Mach.setPstate (m : Mach) (v : Nat) : Mach :=
  { m with regs := rwr (rwr m.regs R.PWR_PSTATE_STATE v) R.GLB_MODE_PSTATE v }

/-- The VCORE set-point changes (R545). -/
def Mach.setVcore (m : Mach) (v : Nat) : Mach :=
  if m.rd R.PWR_VCORE_SET = v then m
  else { m with regs := rwr m.regs R.PWR_VCORE_SET v
                env := { m.env with vslew := (m.rd R.PWR_VCORE_SET, m.now) } }

/-- Outcome of a command: the module after it, the queue as it stands. -/
def State.done (s : State) (m : Mach) : Host.Outcome State Fault Refusal := .next { s with m := m }

/-- The module of the state with the command's time passed. -/
def State.at (s : State) (dt : Nat) : Mach := s.m.advance dt

end Sys2Proof.Machine
end

