-- ==== Sys2Proof/Machine/Flags.lean ====
section
/-! DEFINITION. The event flags of the module: the severity of a source (17), its pending bit and its
vector (13), and the records that enter the cellar book (17). -/
namespace Sys2Proof.Machine

/-- The severity of an event source's record by code (R515). -/
def severity (src code : Nat) : Nat :=
  if src = 0 then 5
  else if src = 1 then 3
  else if src = 2 then (if code = 0 then 1 else 6)
  else if src = 3 then 4
  else if src = 4 then 1
  else if src = 5 then 3
  else if src = 6 then 3
  else if src = 7 then 4
  else if src = 8 then 6
  else if src = 9 then 3
  else if src = 10 then 2
  else if src = 11 then 4
  else if src = 12 then 2
  else if src = 13 then (if code = 0 then 2 else 3)
  else if src = 14 then 3
  else if src = 15 then 5
  else if src = 16 then 1
  else if src = 17 then 3
  else if src = 18 then 5
  else if src = 19 ∨ src = 20 then 3
  else if src = 21 ∨ src = 23 ∨ src = 27 then 2
  else if src = 26 ∨ src = 29 then 4
  else if src ≤ 29 then 3
  else if src = 32 ∨ src = 36 then 2
  else if src = 33 ∨ src = 35 ∨ src = 37 ∨ src = 39 ∨ src = 40 then 4
  else if src = 34 ∨ src = 38 ∨ src = 42 ∨ src = 43 then 3
  else if src = 41 ∨ src = 44 then 1
  else if src = 48 ∨ src = 52 then 2
  else if src = 53 then 4
  else if src = 49 ∨ src = 50 ∨ src = 51 ∨ src = 54 then 3
  else if src = 74 then 2
  else if src = 75 then 4
  else if 64 ≤ src ∧ src ≤ 76 then 3
  else if 80 ≤ src ∧ src ≤ 95 then (if code = 0x100 then 3 else 4)
  else if 96 ≤ src ∧ src ≤ 111 then 1
  else if 112 ≤ src ∧ src ≤ 130 ∨ src = 132 then 2
  else if src = 131 ∨ src = 135 then 3
  else if src = 133 ∨ src = 134 ∨ src = 136 then 0
  else if src = 137 then 1
  else if 138 ≤ src ∧ src ≤ 140 then 3
  else if 141 ≤ src ∧ src ≤ 143 then 2
  else if 144 ≤ src ∧ src ≤ 151 then (if 0x8000 ≤ code then 1 else 4)
  else if src = 152 ∨ src = 154 then 3
  else if src = 153 ∨ src = 155 ∨ src = 157 then 4
  else if src = 156 ∨ src = 158 then 2
  else if 160 ≤ src ∧ src ≤ 167 then (if 0x8000 ≤ code then 1 else if code = 0x4000 then 2 else 4)
  else if src = 170 then 5
  else if src = 171 then 3
  else if 172 ≤ src ∧ src ≤ 174 then 3
  else 0

/-- PAYLOAD of R495: INST, VALUE and zeros. -/
def payload (inst value : Nat) : List Byte :=
  leBytes 4 inst ++ leBytes 4 value ++ List.replicate 24 0

/-- A vector is signalled: one message, or its PBA bit while the vector is masked (R405). -/
def signalVec (g : Sparse Word) (out : List Out) (fnMask : Bool) (v : Nat) :
    Sparse Word × List Out :=
  if fnMask || rrd g (R.HSQ_MSIX_CTRL v) == 1 then
    let pba := rget g (R.HSQ_PBA (v / 32)).a
    (rput g (R.HSQ_PBA (v / 32)).a (pba ||| BitVec.ofNat 32 (2 ^ (v % 32))), out)
  else (g, .msix (BitVec.ofNat 6 v) :: out)

/-- Sets the pending bit of a source and signals its route when the bit was 0 (R405). -/
def pend (g : Sparse Word) (out : List Out) (fnMask : Bool) (src : Nat) :
    Sparse Word × List Out :=
  let r : RF := ⟨(R.HS_EVT_PEND (src / 32)).a, src % 32, src % 32⟩
  let g' := rwr g r 1
  if rrd g r = 0 ∧ rrd g (R.HS_EVT_ROUTE_EN src) = 1 then
    signalVec g' out fnMask (rrd g (R.HS_EVT_ROUTE_VEC src))
  else (g', out)

/-- Records in use above which an ordinary raise is lost (R498). -/
def queueFull : Nat := 832

/-- The record enters the ingress queue, or is lost and noted (R498). -/
def enqueue (c : Cbk) (r : Rec) : Cbk :=
  if c.queue.length < queueFull then { c with queue := c.queue ++ [r] }
  else
    let l := sget (fun _ => ⟨0, 0, 0, 0⟩) c.lost r.src
    let l' : Lost := if l.n = 0 then ⟨1, r.sev, r.mt, r.mt⟩
                     else ⟨l.n + 1, max l.sev r.sev, l.first, r.mt⟩
    { c with lost := sset (fun _ => ⟨0, 0, 0, 0⟩) c.lost r.src l', owed := true }

/-- The angel's share of a lost record and the highest queue level (R498, R517). -/
def enqueueRegs (c : Cbk) (g : Sparse Word) (src : Nat) : Sparse Word :=
  if c.queue.length < queueFull then
    if rrd g R.CBK_QLEVEL_QMAX < c.queue.length + 1 then
      rwr g R.CBK_QLEVEL_QMAX (c.queue.length + 1) else g
  else rinc g (R.CBK_ANGEL src)

/-- A record with the times of this instant (R493, R497). -/
def Mach.mkRec (m : Mach) (src code : Nat) (p : List Byte) : Rec :=
  { sev := severity src code, src := src, sum := false, boot := false
    code := BitVec.ofNat 16 code, mt := m.mt, otsec := BitVec.ofNat 32 m.tim.otSec
    otfrac := BitVec.ofNat 16 m.tim.otFrac, pcc := m.tim.pcc, payload := p }

/-- RECMIN lets the record of a source enter (R497). -/
def recorded (g : Sparse Word) (src sev : Nat) : Bool :=
  decide (min (rrd g (R.CBK_SRC src)) 2 ≤ sev)

/-- A source is raised with a payload (R405, R497). -/
def Mach.raiseP (m : Mach) (src code : Nat) (p : List Byte) : Mach :=
  let po := pend m.regs m.out m.fnMask src
  { m with
    regs := if recorded m.regs src (severity src code) then enqueueRegs m.cbk po.1 src else po.1
    out := po.2
    cbk := if recorded m.regs src (severity src code) then
        enqueue m.cbk (m.mkRec src code p) else m.cbk }

/-- A source is raised with INST and VALUE (R495). -/
def Mach.raise (m : Mach) (src code inst value : Nat) : Mach :=
  m.raiseP src code (payload inst value)

/-- The index of the present management tick. -/
def Mach.tick (m : Mach) : Nat := m.mt / mgmtTick

/-- The source has been raised in the present management tick under a gate of one raise a tick. -/
def Mach.raisedThisTick (m : Mach) (src : Nat) : Bool :=
  sget (fun _ => 0) m.env.onceTick src == m.tick + 1

/-- A raise that happens at most once per management tick. -/
def Mach.raiseOnce (m : Mach) (src code inst value : Nat) : Mach :=
  if m.raisedThisTick src then m
  else { m.raise src code inst value with
         env := { m.env with onceTick := sset (fun _ => 0) m.env.onceTick src (m.tick + 1) } }

/-- A counter counts, and a source is raised with the counter as VALUE (R495). -/
def Mach.incRaise (m : Mach) (r : RF) (src code inst : Nat) : Mach :=
  (m.inc r).raise src code inst ((m.inc r).rd r)

/-- A counter counts, and a source is raised at most once per management tick. -/
def Mach.incRaiseOnce (m : Mach) (r : RF) (src code inst : Nat) : Mach :=
  (m.inc r).raiseOnce src code inst ((m.inc r).rd r)

end Sys2Proof.Machine
end

