-- ==== Sys2Proof/Machine/Bus.lean ====
section
/-! DEFINITION. The register file: access codes, 64-bit pairs, unlock, closed domains (00, 01, 13). -/
namespace Sys2Proof.Machine

/-! ## Addresses -/

/-- The byte address of a word index: BAR0, or BAR2 at 2^32 and above. -/
def regAddr (a : BitVec 25) : Nat :=
  if a.toNat < 2 ^ 24 then 4 * a.toNat else 2 ^ 32 + 4 * (a.toNat - 2 ^ 24)

/-- Base of the block that an address lies in, the field's own base within FEn (R36). -/
def blockBase (a : Nat) : Nat :=
  if 0x800000 ≤ a ∧ a < 0xC00000 then 0x800000 + (a - 0x800000) / 0x40000 * 0x40000
  else (blockOf a).1

/-- The domain bit of an address in DOMOPEN; `none` answers from link-up (R385, R409). -/
def domainOf (a : Nat) : Option Nat :=
  if a < 0x10000 then none
  else if a < 0x30000 then some 0
  else if a < 0x40000 then some 1
  else if a < 0x60000 then some 7
  else if a < 0x70000 then some 3
  else if 0x100000 ≤ a ∧ a < 0x200000 then none
  else if 0x200000 ≤ a ∧ a < 0x400000 then some 2
  else if 0x400000 ≤ a ∧ a < 0xF00000 then some 3
  else if 0xF00000 ≤ a ∧ a < 0x1000000 then some 5
  else if 0x1000000 ≤ a ∧ a < 0x1500000 then some 4
  else if 0x1500000 ≤ a ∧ a < 0x1600000 then some 6
  else if 0x2800000 ≤ a ∧ a < 0x3800000 then some 3
  else none

/-- The block at the address answers BAR0 accesses (R385, R386). -/
def Mach.open? (m : Mach) (a : Nat) : Bool :=
  match domainOf a with
  | none => true
  | some d => bits (m.rd R.HS_BOOT_DOMOPEN) d d == 1

/-- A write to a closed block is ignored and counted (R386). -/
def Mach.early (m : Mach) : Mach := m.inc R.HS_EARLY

/-- The effect of a host write where the block answers; otherwise the write is ignored (R386). -/
def Mach.ifOpen (m : Mach) (a : Nat) (f : Mach → Mach) : Mach := if m.open? a then f m else m.early

/-! ## Access codes -/

/-- The X fields of the block at an address are writable (R31, R33). -/
def Mach.unlocked (m : Mach) (a : Nat) : Bool :=
  m.on ⟨blockBase a + 0xF4, 0, 0⟩

/-- The value of a field after a write of `w`, by its access code (R8). -/
def Acc.after (c : Acc) (w : Nat) (o w' : Nat) : Nat :=
  match c with
  | .rw => w'
  | .ro => o
  | .wo => 0
  | .w1c => (List.range w).foldl
      (fun v i => if bits o i i = 1 ∧ bits w' i i = 0 then v + 2 ^ i else v) 0
  | .w1s => o ||| w'

/-- The register at an address holds an extreme, which a block replaces, and no count (R140, R166, R168,
R517). -/
def isPeak (a : Nat) : Bool :=
  a == 0x50014 || (decide (0x800000 ≤ a ∧ a < 0xC00000) && [0x10C, 0x262C, 0x2820].contains (a % 0x40000))

/-- The value of a field after a write of `w`: `o0` is its value as the present instant began, `o` its
value now.  A block's update of this instant applies after a host's clear of it (R9). -/
def Fd.after (f : Fd) (pk : Bool) (o0 o w : Nat) : Nat :=
  let n := f.msb + 1 - f.lsb
  match f.acc with
  | .w1c => f.acc.after n (o &&& o0) w ||| f.acc.after n o o0
  | .rw => if w = 0 ∧ o0 < o ∧ !f.p ∧ !f.x ∧ !f.sh then (if pk then o else o - o0) else w
  | c => c.after n o w

/-- One field of a written word: the new word so far, and whether XLOCK is set (R34). -/
def Fd.write (pk unlocked : Bool) (old0 old v : Nat) (acc : Nat × Bool) (f : Fd) : Nat × Bool :=
  let o := bits old f.msb f.lsb
  let w := bits v f.msb f.lsb
  if f.x && !unlocked then (acc.1, acc.2 || o != w)
  else (putBits acc.1 f.msb f.lsb (f.after pk (bits old0 f.msb f.lsb) o w), acc.2)

/-- The word of a register after a write, and whether an X field of a locked block was refused. -/
def Row.write (r : Row) (pk unlocked : Bool) (old0 old v : Nat) : Nat × Bool :=
  r.fields.foldl (Fd.write pk unlocked old0 old v) (old, false)

/-- The word of a register as the present instant began, with what has been written since (R9). -/
def Mach.word0 (m : Mach) (a : Nat) : Word := rget m.regs0 a

/-- A 32-bit write applied under the access codes (R8, R9, R13, R34); reserved addresses ignore it. -/
def Mach.applyWrite (m : Mach) (a : Nat) (v : Word) : Mach :=
  match findRow a with
  | none => m
  | some (r, _) =>
    let w0 := (m.word0 a).toNat
    let p := r.write (isPeak a) (m.unlocked a) w0 (m.word a).toNat v.toNat
    let m := { m.setWord a (BitVec.ofNat 32 p.1) with
               regs0 := rput m.regs0 a (BitVec.ofNat 32 (r.write false (m.unlocked a) w0 w0 v.toNat).1) }
    if p.2 then m.wr ⟨blockBase a + 0xF4, 1, 1⟩ 1 else m

/-- XLOCK is set where a write would change an X field of a locked block, whatever else refuses it (R34). -/
def Mach.noteX (m : Mach) (a : Nat) (v : Word) : Mach :=
  match findRow a with
  | none => m
  | some (r, _) =>
    if (r.write false (m.unlocked a) (m.word a).toNat (m.word a).toNat v.toNat).2 then
      m.wr ⟨blockBase a + 0xF4, 1, 1⟩ 1
    else m

/-- A write to NAME_LO is held (R14). -/
def Mach.holdLo (m : Mach) (a : Nat) (v : Word) : Mach :=
  { m with loHeld := sput m.loHeld a v }

/-- A write to NAME_HI commits both halves (R14). -/
def Mach.commitHi (m : Mach) (a : Nat) (v : Word) : Mach :=
  let lo := a - 4
  let m1 := match m.loHeld.lookup lo with
    | none => m
    | some w => { m.applyWrite lo w with loHeld := serase m.loHeld lo }
  m1.applyWrite a v

/-- The pair half that an address holds: 0 none, 1 NAME_LO, 2 NAME_HI. -/
def pairOf (a : Nat) : Nat :=
  match findRow a with
  | none => 0
  | some (r, _) => r.pair

/-- A register write without effects of its own. -/
def Mach.plainWrite (m : Mach) (a : Nat) (v : Word) : Mach :=
  match pairOf a with
  | 1 => m.holdLo a v
  | 2 => m.commitHi a v
  | _ => m.applyWrite a v

/-! ## Unlock -/


/-- Base address of a block (R36). -/
def blockAddr : Block → Nat
  | .glb => 0 | .pwr => 0x10000 | .thm => 0x20000 | .tim => 0x30000 | .saf => 0x40000
  | .cbk => 0x50000 | .afe => 0x60000 | .hs => 0x100000 | .mem => 0x200000 | .ce => 0x400000
  | .fe n => 0x800000 + n * 0x40000
  | .trl => 0xC00000 | .hld => 0xD00000 | .coo => 0xE00000 | .axe => 0xF00000
  | .img => 0x1000000 | .cmp => 0x1400000 | .rng => 0x1500000

/-- Ticks of the 1 ms between the two words (R31). -/
def unlockTicks : Nat := 800000

/-- The first word of a block's sequence (R31). -/
def unlockFirst (b : Nat) : Nat := 0x1D570000 + blockId b

/-- The instant of a pending first word, plus 1; 0 with none pending. -/
def Mach.unlockPending (m : Mach) (b : Nat) : Nat := sget (fun _ => 0) m.unlock b

/-- Locks the block; `err` sets SEQERR; `p` is the new pending first word. -/
def Mach.lockBlock (m : Mach) (b : Nat) (err : Bool) (p : Nat) : Mach :=
  { m with
    regs := rwr (if err then rwr m.regs ⟨b + 0xF4, 2, 2⟩ 1 else m.regs) ⟨b + 0xF4, 0, 0⟩ 0
    unlock := sset (fun _ => 0) m.unlock b p }

/-- The sequence's 1 ms has passed: it is abandoned (R32). -/
def Mach.unlockExpire (m : Mach) (b : Nat) : Mach :=
  if m.unlockPending b ≠ 0 ∧ m.unlockPending b - 1 + unlockTicks < m.now then
    m.lockBlock b true 0
  else m

/-- A word written to BLK_UNLOCK of the block at base `b` (R31 to R35). -/
def Mach.unlockWrite (m : Mach) (b : Nat) (v : Word) : Mach :=
  let m := m.unlockExpire b
  if m.unlockPending b = 0 then
    if v.toNat = unlockFirst b then
      { m with unlock := sset (fun _ => 0) m.unlock b (m.now + 1) }
    else m.lockBlock b (v.toNat / 256 == 0x1D5700) 0
  else if v.toNat = 0xFFFFFFFF - unlockFirst b then
    if b = 0x40000 then m.lockBlock b true 0
    else { m with regs := rwr m.regs ⟨b + 0xF4, 0, 0⟩ 1
                  unlock := sset (fun _ => 0) m.unlock b 0 }
  else if v.toNat = unlockFirst b then m.lockBlock b true (m.now + 1)
  else m.lockBlock b true 0

/-- Every block locks, and no sequence is pending: entry into BOOT (R33). -/
def Mach.lockAll (m : Mach) (bs : List Nat) : Mach :=
  { m with regs := bs.foldl (fun g b => rwr g ⟨b + 0xF4, 0, 0⟩ 0) m.regs, unlock := [] }

/-! ## Reads -/

/-- The stored word as a read shows it: WO fields read 0 (they store 0), reserved addresses 0 (R10). -/
def Mach.storedRead (m : Mach) (a : Nat) : Word :=
  match findRow a with
  | none => 0
  | some _ => m.word a

/-- What NAME_HI shows: the latched value, or its reset value before the first latch (R5). -/
def Mach.latched (m : Mach) (lo : Nat) : Word :=
  match m.hiLatch.lookup lo with
  | none => resetWord (lo + 4)
  | some v => v

end Sys2Proof.Machine
end

