-- ==== Sys2Proof/Machine/Operands.lean ====
section
/-! DEFINITION. The operand forms of Tykai-S: decoding of words, the fault checks of R544 that depend
on the words and the planner state, and the planner state after an instruction (03). -/
namespace Sys2Proof.Machine

/-- The engines of the opcode map (R72). -/
inductive Eng where
  | fe | coo | axe
  deriving DecidableEq, Repr

def ctxEng : Ctx → Eng
  | .fe .. => .fe
  | .coo _ => .coo
  | .axe _ => .axe

/-! ## Fault codes (R81) -/

def fIllegal : Nat := 0x01
def fOperand : Nat := 0x02
def fStack : Nat := 0x03
def fFetch : Nat := 0x04
def fPoison : Nat := 0x05
def fEmiton : Nat := 0x06
def fNotp : Nat := 0x07
def fTimeout : Nat := 0x08
def fToken : Nat := 0x09
def fCtxbusy : Nat := 0x0A
def fAxfault : Nat := 0x0B
def fSpin : Nat := 0x0C

/-! ## Opcode map (R72) -/

/-- Opcode of an instruction. -/
def opc : TInstr → Nat
  | .nop => 0x01 | .br .. => 0x02 | .brc .. => 0x03 | .call .. => 0x04 | .ret => 0x05
  | .loop .. => 0x06 | .halt => 0x07 | .layerend => 0x08 | .jump .. => 0x20 | .mark .. => 0x21
  | .arc .. => 0x22 | .poly .. => 0x23 | .dot .. => 0x24 | .spiral .. => 0x25 | .wobble .. => 0x26
  | .setv .. => 0x40 | .setp .. => 0x41 | .setpool .. => 0x42 | .setfocus .. => 0x43
  | .setreentry .. => 0x44 | .setprofile .. => 0x45 | .sig .. => 0x60 | .waitsig .. => 0x61
  | .waitt .. => 0x62 | .claim .. => 0x63 | .release .. => 0x64 | .setreg .. => 0x70
  | .ledger .. => 0x71 | .fstart .. => 0x80 | .fwait .. => 0x81 | .axmove .. => 0x82
  | .axwait .. => 0x83 | .snap .. => 0x84 | .flip .. => 0x85 | .exportImage .. => 0x86

/-- Extension words of an opcode (R68, R72). -/
def extWords (op : Nat) : Nat :=
  if op = 0x25 then 2
  else if op = 0x03 ∨ (0x20 ≤ op ∧ op ≤ 0x24) ∨ op = 0x60 ∨ op = 0x70 ∨ op = 0x71 ∨ op = 0x80 ∨
    op = 0x82 ∨ op = 0x86 then 1
  else 0

/-- The opcode is allowed in the engine (R72). -/
def opAllowed (e : Eng) (op : Nat) : Bool :=
  if op = 0 then false
  else if op ≤ 0x07 then true
  else if op = 0x08 then e ≠ .axe
  else if (0x20 ≤ op ∧ op ≤ 0x26) ∨ (0x40 ≤ op ∧ op ≤ 0x45) then e = .fe
  else if 0x60 ≤ op ∧ op ≤ 0x62 then true
  else if op = 0x63 ∨ op = 0x64 then e ≠ .axe
  else if op = 0x70 then true
  else if op = 0x71 then e ≠ .axe
  else if 0x80 ≤ op ∧ op ≤ 0x86 then e = .coo
  else false

/-- Bytes of an instruction. -/
def tBytes (i : TInstr) : Nat := 8 * (1 + extWords (opc i))

/-! ## Decoding (R67, R69) -/

/-- The bits of word 0 and the extension words that an opcode's encoding defines, with its flags:
masks of word 0 [55:0], E1 and E2. -/
def definedBits (op : Nat) : Nat × Nat × Nat :=
  let fl (f ops e1 e2 : Nat) := (f * 2 ^ 52 + ops, e1, e2)
  if op = 0x01 then fl 0 0xFFFFFFFFFFFF 0 0
  else if op = 0x02 ∨ op = 0x04 then fl 0 0xFFFFFFFF 0 0
  else if op = 0x03 then fl 0 0xFFFFFFFFFFFFF 0xFFFFFFFF 0
  else if op = 0x06 then fl 0 0xFFFFFFFFFFFF 0 0
  else if op = 0x20 then fl 2 0 0xFFFFFFFFFFFFFFFF 0
  else if op = 0x21 then fl 7 0 0xFFFFFFFFFFFFFFFF 0
  else if op = 0x22 then fl 7 0xFFFFFFFF 0xFFFFFFFFFFFFFFFF 0
  else if op = 0x23 then fl 15 0xFFFF 0xFFFFFFFFF 0
  else if op = 0x24 then fl 14 0xFFFFFFFF 0xFFFFFFFFFFFFFFFF 0
  else if op = 0x25 then fl 7 0xFFFFFFFF 0xFFFFFFFFFFFFFFFF 0xFFFFFFFF
  else if op = 0x26 then fl 0 0xFFFFFFFFF 0 0
  else if op = 0x40 then fl 1 0xFFFFFF 0 0
  else if op = 0x41 then fl 3 0xFFFFFFFFFFFF 0 0
  else if op = 0x42 then fl 0 0x3FFFFF 0 0
  else if op = 0x43 then fl 0 0xFFFFFFFF 0 0
  else if op = 0x44 then fl 0 0xFFFFFFFFFFFF 0 0
  else if op = 0x45 then fl 3 0x30F 0 0
  else if op = 0x60 then fl 7 0xFFFFFFFF007F 0xFFFFFFFFF 0
  else if op = 0x61 then fl 3 0xFFFF0000007F 0 0
  else if op = 0x62 then fl 1 0xFFFFFFFF 0 0
  else if op = 0x63 then fl 0 0xFFFF0000001F 0 0
  else if op = 0x64 then fl 0 0x1F 0 0
  else if op = 0x70 then fl 0 0x3FFFFFC 0xFFFFFFFFFFFFFFFF 0
  else if op = 0x71 then fl 0 0xFFFF010F 0xFFFFFFFFF 0
  else if op = 0x80 then fl 0 0x7FFFF 0xFFFFFFFFF 0
  else if op = 0x81 then fl 0 0xFFFF0007FFFF 0 0
  else if op = 0x82 then fl 1 7 0xFFFFFFFFFFFFFFFF 0
  else if op = 0x83 then fl 0 0xFFFF000000FF 0 0
  else if op = 0x84 then fl 0 0xFFFFFFFF000F 0 0
  else if op = 0x85 then fl 0 0xFF 0 0
  else if op = 0x86 then fl 0 0xFFFFFFFF001F 0xFFFFFFFFF 0
  else fl 0 0 0 0

/-- The instruction of three words whose opcode is assigned; bits outside the encoding are judged
by `definedBits`. -/
def tFields (w0 e1 e2 : Nat) : TInstr :=
  let f (k : Nat) : Bool := bits w0 (52 + k) (52 + k) == 1
  let b (n msb lsb : Nat) : BitVec n := BitVec.ofNat n (bits w0 msb lsb)
  let x : Word := BitVec.ofNat 32 e1
  let y : Word := BitVec.ofNat 32 (e1 / 2 ^ 32)
  let a : Addr := BitVec.ofNat 36 e1
  match w0 / 2 ^ 56 with
  | 0x02 => .br (b 32 31 0)
  | 0x03 => .brc (b 4 51 48) (b 4 47 44) (b 8 43 36) (b 4 35 32) (b 32 31 0) x
  | 0x04 => .call (b 32 31 0)
  | 0x05 => .ret
  | 0x06 => .loop (b 16 47 32) (b 32 31 0)
  | 0x07 => .halt
  | 0x08 => .layerend
  | 0x20 => .jump (f 1) x y
  | 0x21 => .mark (f 0) (f 1) (f 2) x y
  | 0x22 => .arc (f 0) (f 1) (f 2) (b 32 31 0) x y
  | 0x23 => .poly (f 0) (f 1) (f 2) (f 3) (b 16 15 0) a
  | 0x24 => .dot (f 1) (f 2) (f 3) (b 32 31 0) x y
  | 0x25 => .spiral (f 0) (f 1) (f 2) (b 32 31 0) x y (BitVec.ofNat 32 e2)
  | 0x26 => .wobble (b 16 15 0) (b 16 31 16) (b 4 35 32)
  | 0x40 => .setv (f 0) (b 24 23 0)
  | 0x41 => .setp (f 0) (f 1) (b 16 15 0) (b 32 47 16)
  | 0x42 => .setpool (b 16 15 0) (b 4 19 16) (b 2 21 20)
  | 0x43 => .setfocus (b 32 31 0)
  | 0x44 => .setreentry (b 32 31 0) (b 16 47 32)
  | 0x45 => .setprofile (f 0) (f 1) (b 4 3 0) (b 2 9 8)
  | 0x60 => .sig (f 0) (f 1) (f 2) (b 7 6 0) (b 32 47 16) a
  | 0x61 => .waitsig (f 0) (f 1) (b 7 6 0) (b 16 47 32)
  | 0x62 => .waitt (f 0) (b 32 31 0)
  | 0x63 => .claim (b 5 4 0) (b 16 47 32)
  | 0x64 => .release (b 5 4 0)
  | 0x70 => .setreg (b 24 25 2) x y
  | 0x71 => .ledger (b 4 3 0) (bits w0 8 8 == 1) (b 16 31 16) a
  | 0x80 => .fstart (b 16 15 0) (b 3 18 16) a
  | 0x81 => .fwait (b 16 15 0) (b 3 18 16) (b 16 47 32)
  | 0x82 => .axmove (f 0) (b 3 2 0) x y
  | 0x83 => .axwait (b 8 7 0) (b 16 47 32)
  | 0x84 => .snap (b 4 3 0) (b 32 47 16)
  | 0x85 => .flip (b 8 7 0)
  | 0x86 => .exportImage (b 5 4 0) (b 32 47 16) a
  | _ => .nop

/-- The instruction that three words spell; `none` where R69 or R72 makes it ILLEGAL. -/
def tDecode (e : Eng) (w0 e1 e2 : Nat) : Option TInstr :=
  let op := w0 / 2 ^ 56
  let d := definedBits op
  let n := extWords op
  let v0 := w0 % 2 ^ 56
  if opAllowed e op && (v0 &&& d.1 == v0) && (n == 0 || (e1 &&& d.2.1 == e1)) &&
    (n ≤ 1 || (e2 &&& d.2.2 == e2)) then some (tFields w0 e1 e2) else none

/-! ## Kinds (R76, R77, R79) -/

/-- A motion instruction (R76). -/
def isMotion : TInstr → Bool
  | .jump .. | .mark .. | .arc .. | .dot .. | .spiral .. => true
  | .poly _ _ _ _ n _ => n ≠ 0
  | _ => false

/-- A wait instruction. -/
def isWait : TInstr → Bool
  | .waitt .. | .waitsig .. | .claim .. | .fwait .. | .axwait .. => true
  | _ => false

/-- A speculation barrier (R79). -/
def isBarrier : TInstr → Bool
  | .brc h .. => h == 2
  | .waitt _ t => t ≠ 0
  | .waitsig .. | .fwait .. | .axwait .. | .halt | .layerend => true
  | _ => false

/-- Must stand at a laser-off point (R78). -/
def needsOff : TInstr → Bool
  | .brc .. | .waitsig .. | .claim .. | .halt | .layerend => true
  | .waitt _ t => t ≠ 0
  | .sig _ _ fence .. => fence
  | .ledger op .. => op == 0 || op == 1
  | _ => false

/-- NOPOOL flag of an emitting instruction. -/
def hasNopool : TInstr → Bool
  | .mark _ _ np .. | .arc _ _ np .. | .poly _ _ np .. | .spiral _ _ np .. => np
  | .dot _ np .. => np
  | _ => false

/-! ## Trigonometry

Fixed point with 96 fraction bits; exact at quarter turns. -/

/-- π/2 · 2^96. -/
def halfPi : Nat := 124451306656115542615260972311

/-- Sum of a Taylor series: term k+1 is term k · x² / ((d+1)(d+2)), signs alternating. -/
def taylor (x : Nat) : Nat → Nat → Int → Int
  | 0, _, _ => 0
  | n + 1, d, t =>
    t - taylor x n (d + 2) (t * x / 2 ^ 96 * x / 2 ^ 96 / ((d + 1) * (d + 2)))

/-- Cosine and sine of num/den turns, times 2^96 (num < den after reduction). -/
def trig (num den : Nat) : Int × Int :=
  let k := num % den * 4 / den
  let x := halfPi * (num % den * 4 - k * den) / den
  let c := taylor x 26 0 (2 ^ 96)
  let s := taylor x 26 1 x
  match k with
  | 0 => (c, s)
  | 1 => (-s, c)
  | 2 => (-c, -s)
  | _ => (s, -c)

/-- Nearest integer of a quotient, ties away from zero. -/
def roundAway (n : Int) (d : Nat) : Int :=
  if 0 ≤ n then (2 * n + d) / (2 * d) else -((-2 * n + d) / (2 * d))

/-- Integer square root by bits. -/
def isqrt (n : Nat) : Nat :=
  (List.range 130).foldl (fun r i => let b := 2 ^ (129 - i); if (r + b) * (r + b) ≤ n then r + b else r) 0

/-- A vector turned by a signed number of 2^−16 turns, in 2^−96 units of its own. -/
def turn (vx vy : Int) (sweep : Int) : Int × Int :=
  let cs := trig (sweep % 65536).toNat 65536
  (vx * cs.1 - vy * cs.2, vx * cs.2 + vy * cs.1)

/-- End point of an ARC: the start turned about the centre, rounded (R90). -/
def arcEnd (px py cx cy sweep : Int) : Int × Int :=
  let v := turn (px - cx) (py - cy) sweep
  (cx + roundAway v.1 (2 ^ 96), cy + roundAway v.2 (2 ^ 96))

/-- Unit direction of a vector, 2^−96; +X for the zero vector (R91). -/
def unitOf (dx dy : Int) : Int × Int :=
  let r2 := (dx * dx + dy * dy).toNat
  let r := isqrt (r2 * 2 ^ 192)
  if r2 = 0 then (2 ^ 96, 0) else (dx * 2 ^ 192 / r, dy * 2 ^ 192 / r)

/-- A unit direction turned by a signed angle of 2^−48 turns, 2^−192. -/
def turn48 (u : Int × Int) (a : Int) : Int × Int :=
  let cs := trig (a % 2 ^ 48).toNat (2 ^ 48)
  (u.1 * cs.1 - u.2 * cs.2, u.1 * cs.2 + u.2 * cs.1)

/-- The point at an angle from a direction and a radius of 2^−40 BU about a centre, rounded. -/
def polarPt (cx cy : Int) (u : Int × Int) (a : Int) (r : Nat) : Int × Int :=
  let v := turn48 u a
  (cx + roundAway (v.1 * r) (2 ^ 232), cy + roundAway (v.2 * r) (2 ^ 232))

/-- End point of a SPIRAL: radius REND at the start's angle plus SWEEP, rounded (R91). -/
def spiralEnd (px py cx cy sweep : Int) (rend : Nat) : Int × Int :=
  polarPt cx cy (unitOf (px - cx) (py - cy)) (sweep * 2 ^ 32) (rend * 2 ^ 40)

/-! ## Branches and stacks (R83 to R85) -/

/-- The address of a branch target: signed words from word 0 (R82). -/
def target (pc : Addr) (off : Word) : Addr := pc + (off.signExtend 36 <<< (3 : Nat))

/-- The planner's next PC meets body ends: passes close from the innermost entry outwards (R85). -/
def closePasses (pc : Addr) : List LoopEntry → Addr × List LoopEntry
  | [] => (pc, [])
  | e :: t =>
    if e.stop = pc then
      if 1 < e.count then (e.start, { e with count := e.count - 1 } :: t) else closePasses pc t
    else (pc, e :: t)

/-- A taken branch pops every entry whose body its target leaves, and all above it (R85).  The
stack is innermost first. -/
def leaveLoops (tgt : Addr) (l : List LoopEntry) : List LoopEntry :=
  (l.reverse.takeWhile fun e => decide (e.start.toNat ≤ tgt.toNat ∧ tgt.toNat < e.stop.toNat)).reverse

/-- The planner goes on at an address, with passes closed there. -/
def PState.goTo (st : PState) (pc : Addr) : PState :=
  let r := closePasses pc st.loops
  { st with pc := r.1, loops := r.2 }

/-- The planner goes on after an instruction. -/
def PState.fall (st : PState) (i : TInstr) : PState :=
  st.goTo (st.pc + BitVec.ofNat 36 (tBytes i))

/-- The planner takes a branch. -/
def PState.jumpTo (st : PState) (tgt : Addr) : PState :=
  { st with pc := tgt, loops := leaveLoops tgt st.loops }

/-! ## Planner state after an instruction (R73, R75) -/

/-- Sum of a coordinate and a signed operand (REL), modulo 2^32. -/
def relPt (rel : Bool) (p v : Word) : Word := if rel then p + v else v

/-- Points of a POLY list as read from memory (R92). -/
def Mach.polyPts (m : Mach) (addr n : Nat) : List (Word × Word) :=
  (List.range n).map fun i =>
    (BitVec.ofNat 32 (m.le (addr + 8 * i) 4), BitVec.ofNat 32 (m.le (addr + 8 * i + 4) 4))

/-- The last point of a POLY (R92). -/
def polyEnd (rel close : Bool) (x y : Word) (pts : List (Word × Word)) : Word × Word :=
  if close then (x, y)
  else if rel then pts.foldl (fun p q => (p.1 + q.1, p.2 + q.2)) (x, y)
  else pts.getLastD (x, y)

/-- End point of a motion instruction (R87 to R92). -/
def Mach.endPoint (m : Mach) (st : PState) : TInstr → Word × Word
  | .jump rel x y => (relPt rel st.px x, relPt rel st.py y)
  | .mark _ rel _ x y => (relPt rel st.px x, relPt rel st.py y)
  | .dot rel _ _ _ x y => (relPt rel st.px x, relPt rel st.py y)
  | .arc _ rel _ sw cx cy =>
    let cx' := relPt rel st.px cx
    let cy' := relPt rel st.py cy
    if sw = 0 ∨ (cx' = st.px ∧ cy' = st.py) then (st.px, st.py)
    else
      let e := arcEnd st.px.toInt st.py.toInt cx'.toInt cy'.toInt sw.toInt
      (BitVec.ofInt 32 e.1, BitVec.ofInt 32 e.2)
  | .spiral _ rel _ sw cx cy rend =>
    if sw = 0 then (st.px, st.py)
    else
      let e := spiralEnd st.px.toInt st.py.toInt (relPt rel st.px cx).toInt
        (relPt rel st.py cy).toInt sw.toInt rend.toNat
      (BitVec.ofInt 32 e.1, BitVec.ofInt 32 e.2)
  | .poly _ rel _ close n a =>
    polyEnd rel close st.px st.py (m.polyPts a.toNat n.toNat)
  | _ => (st.px, st.py)

/-- A MARK, ARC or SPIRAL of zero length is executed as a DOT (R88, R90, R91). -/
def asDot (st : PState) : TInstr → Bool
  | .mark _ rel _ x y => relPt rel st.px x = st.px ∧ relPt rel st.py y = st.py
  | .arc _ rel _ sw cx cy => sw = 0 ∨ (relPt rel st.px cx = st.px ∧ relPt rel st.py cy = st.py)
  | .spiral _ _ _ sw .. => sw = 0
  | _ => false

/-- CONT of a motion instruction as executed: the point after it is a laser-on point (R77). -/
def contOf (st : PState) (i : TInstr) : Bool :=
  match i with
  | .mark c .. | .arc c .. | .spiral c .. => c && !asDot st i
  | .poly c .. => c
  | _ => false

/-- The wobble a WOBBLE sets: off where the shape, the amplitude or the frequency is 0 (R93). -/
def wobbleShape (freq amp : BitVec 16) (shape : BitVec 4) : BitVec 4 :=
  if amp = 0 ∨ freq = 0 then 0 else shape

/-- The parameter part of the planner state after an instruction (R75, R94, R104). -/
def PState.setParams (st : PState) : TInstr → PState
  | .setv jmp v => if jmp then { st with jspeed := v } else { st with mspeed := v }
  | .setp keepp keepd p d =>
    { st with power := if keepp then st.power else p, dwell := if keepd then st.dwell else d }
  | .setpool t stat mode =>
    { st with poolTarget := t, poolStat := stat, poolMode := if mode = 1 ∧ t = 0 then 0 else mode }
  | .setfocus z => { st with focus := z }
  | .setreentry o r => { st with overlap := o, ramp := r }
  | .setprofile keepm keepmat p mat =>
    { st with mprof := if keepm then st.mprof else p, mat := if keepmat then st.mat else mat }
  | .wobble freq amp shape =>
    { st with wfreq := freq, wamp := amp, wshape := wobbleShape freq amp shape, wstart := none }
  | .ledger op k3 _ _ =>
    if op = 3 then { st with dep := false }
    else if op = 4 then { st with dep := true }
    else if op = 5 then { st with k3 := k3 } else st
  | _ => st

/-- Instructions that restart the count of SPIN (R81). -/
def resetsSpin (i : TInstr) : Bool :=
  isMotion i || isWait i || (match i with | .halt | .layerend => true | _ => false)

/-- The planner state after an instruction; `taken` is the outcome of a BRC.  A LOOP with COUNT 0 whose body end
is also the outer entry's closes the outer pass (DESIGN CHOICE, log entry 116). -/
def Mach.after (m : Mach) (st : PState) (i : TInstr) (taken : Bool) : PState :=
  let st := { st.setParams i with spin := if resetsSpin i then 0 else st.spin + 1 }
  match i with
  | .br off => st.jumpTo (target st.pc off)
  | .brc _ _ _ _ off _ => if taken then st.jumpTo (target st.pc off) else st.fall i
  | .call off =>
    { st with pc := target st.pc off
              calls := ⟨st.pc + 8, st.loops.length⟩ :: st.calls }
  | .ret =>
    match st.calls with
    | [] => st
    | c :: t =>
      PState.goTo { st with calls := t, loops := st.loops.drop (st.loops.length - c.depth) } c.ret
  | .loop body count =>
    let start : Addr := st.pc + 8
    let stop : Addr := start + (body.setWidth 36 <<< (3 : Nat))
    if count = 0 then st.goTo stop
    else { st with pc := start, loops := ⟨start, stop, count.toNat⟩ :: st.loops }
  | .halt | .layerend => st
  | i =>
    if isMotion i then
      let e := m.endPoint st i
      PState.fall { st with px := e.1, py := e.2, laserOn := contOf st i, moved := true } i
    else st.fall i

/-! ## Fault checks (R544) -/

/-- An address below the end of service and a multiple of `al` (R70). -/
def addrOk (al a : Nat) : Bool := a < 0x800000000 && a % al == 0

/-- ILLEGAL of a decoded instruction (R72, R84, R104). -/
def illegal (e : Eng) (i : TInstr) : Bool :=
  !opAllowed e (opc i) ||
  (match i with
   | .brc h cls .. => decide (2 < h.toNat) || decide (cls.toNat < 1 ∨ 4 < cls.toNat) ||
      ((cls == 2 || cls == 3) && e != .fe)
   | .ledger op .. => decide (5 < op.toNat) || (op == 2 && e != .coo) ||
      (decide (3 ≤ op.toNat) && e != .fe)
   | _ => false)

/-- OPERAND of BRC: INDEX, TEST and VALUE within their ranges (R84). -/
def brcBad (cls : BitVec 4) (idx : Byte) (test : BitVec 4) (off value : Word) : Bool :=
  off == 0 || decide (1 < test.toNat) ||
  (match cls.toNat with
   | 1 => decide (127 < idx.toNat) || value != 0
   | 2 => decide (7 < idx.toNat) || value != 0
   | 3 => idx != 0 || decide (0xFFFF < value.toNat)
   | _ => decide (7 < idx.toNat) || decide (8 < value.toNat))

/-- Registers of a motion profile that must not be 0 for motion (R152). -/
def Mach.profileStuck (m : Mach) (n k : Nat) : Bool :=
  m.rd (R.FE_PROF_VMARK n k) == 0 || m.rd (R.FE_PROF_VJUMP n k) == 0 ||
  m.rd (R.FE_PROF_AMAX n k) == 0 || m.rd (R.FE_PROF_JMAX n k) == 0 ||
  m.rd (R.FE_PROF_STOPDEC n k) == 0

/-- DRANGE − FEMARGIN of a profile, µm (R152, R160). -/
def Mach.deflMargin (m : Mach) (n k : Nat) : Int :=
  (clampN 1 4096 (m.rd (R.FE_PROF_RANGE_DRANGE n k)) : Int) - m.rd (R.FE_PROF_RANGE_FEMARGIN n k)

/-- The field of a context, 0 outside the field engines. -/
def ctxField : Ctx → Nat
  | .fe n _ => n
  | _ => 0

/-- OPERAND for an operand in the words (R82 to R105). -/
def Mach.operandBad (m : Mach) (x : Ctx) (st : PState) : TInstr → Bool
  | .br off | .call off => off == 0
  | .brc _ cls idx test off value => brcBad cls idx test off value
  | .loop body _ => body == 0
  | .arc _ _ _ sw _ _ => decide (65536 < sw.toInt.natAbs)
  | .dot _ _ curd d _ _ => curd && d != 0
  | .wobble _ amp shape =>
    decide (4 < shape.toNat) ||
    decide (m.deflMargin (ctxField x) st.mprof.toNat * 4 < (amp.toNat : Int))
  | .setv _ v => v == 0
  | .setp keepp keepd p d => (keepp && p != 0) || (keepd && d != 0)
  | .setpool _ stat mode => decide (3 < stat.toNat) || mode == 3
  | .setprofile keepm keepmat p mat => (keepm && p != 0) || (keepmat && mat != 0)
  | .sig _ _ fence _ fval addr => !fence && (fval != 0 || addr != 0)
  | .ledger op k3 factor addr =>
    (op != 5 && k3) || (op != 1 && factor != 0) || (op != 2 && addr != 0)
  | .axmove _ _ _ speed => speed == 0
  | _ => false

/-- The bits of a register that lie in fields marked P (R15). -/
def pMask (a : Nat) : Nat :=
  match findRow a with
  | none => 0
  | some (r, _) => r.fields.foldl
      (fun v f => if f.p then v ||| ((2 ^ (f.msb + 1 - f.lsb) - 1) * 2 ^ f.lsb) else v) 0

/-- NOTP of a SETREG (R15, R103). -/
def setregBad (off : BitVec 24) (mask : Word) : Bool :=
  let a := 4 * off.toNat
  if 0x2000000 ≤ a then true else mask.toNat &&& pMask a != mask.toNat

def notpBad : TInstr → Bool
  | .setreg off _ mask => setregBad off mask
  | _ => false

/-- FETCH for an ADDR operand (R70). -/
def fetchBad : TInstr → Bool
  | .poly _ _ _ _ _ a => !addrOk 8 a.toNat
  | .sig _ _ fence _ _ a => fence && !addrOk 4 a.toNat
  | .ledger op _ _ a => op == 2 && !addrOk 4096 a.toNat
  | .fstart _ _ a => !addrOk 8 a.toNat
  | .exportImage _ _ a => !addrOk 4096 a.toNat
  | _ => false

/-- STACK (R83, R85). -/
def stackBad (st : PState) : TInstr → Bool
  | .call _ => decide (8 ≤ st.calls.length)
  | .ret => st.calls.isEmpty
  | .loop _ count => count != 0 && decide (8 ≤ st.loops.length)
  | _ => false

/-- The first fault of an instruction that its words and the planner state show (R544, 2 to 8). -/
def Mach.wordFault (m : Mach) (x : Ctx) (st : PState) (i : TInstr) : Option Nat :=
  if illegal (ctxEng x) i then some fIllegal
  else if m.operandBad x st i then some fOperand
  else if notpBad i then some fNotp
  else if fetchBad i then some fFetch
  else if stackBad st i then some fStack
  else if st.laserOn && needsOff i then some fEmiton
  else if decide (4096 ≤ st.spin) && !resetsSpin i then some fSpin
  else none

/-! ## Fetch (R66, R70, R71) -/

/-- A program word at an address, or the prefetched copy of it (R131). -/
def Mach.pword (m : Mach) (pre : List (Nat × Option Nat)) (a : Nat) : Nat :=
  match pre.lookup a with
  | some w => w.getD 0
  | none => m.le a 8

/-- A program word is read from a poisoned line; of a prefetched one, when it was prefetched. -/
def Mach.pwordBad (m : Mach) (pre : List (Nat × Option Nat)) (a : Nat) : Bool :=
  match pre.lookup a with
  | some w => w.isNone
  | none => m.poisoned a 8

/-- What stands at a PC: an instruction, or a fault (R544, 1 and 2). -/
def Mach.fetch (m : Mach) (e : Eng) (pre : List (Nat × Option Nat)) (pc : Addr) : Except Nat TInstr :=
  if !addrOk 8 pc.toNat then .error fFetch
  else
    let w0 := m.pword pre pc.toNat
    let n := extWords (w0 / 2 ^ 56)
    if !addrOk 8 (pc.toNat + 8 * n) then .error fFetch
    else if (List.range (n + 1)).any fun k => m.pwordBad pre (pc.toNat + 8 * k) then .error fPoison
    else
      match tDecode e w0 (m.pword pre (pc.toNat + 8)) (m.pword pre (pc.toNat + 16)) with
      | none => .error fIllegal
      | some i => .ok i

end Sys2Proof.Machine
end

