-- ==== Sys2Proof/Machine/Field.lean ====
section
/-! DEFINITION. Shared operations of the contexts and field engines: context access, the path of a
planned segment, the field correction, tokens, the plan and its summaries (03, 04, 05, 08). -/
namespace Sys2Proof.Machine

/-! ## Contexts -/

/-- Codes of the context states (R113). -/
def ctxCode : CtxSt → Nat
  | .idle => 0 | .ready => 1 | .active => 2 | .waiting => 3 | .suspended => 4 | .faulted => 5
  | .halted => 6 | .layerDone => 7

/-- An idle context accepts a start (R114). -/
def ctxIdle : CtxSt → Bool
  | .idle | .halted | .layerDone => true
  | _ => false

/-- ACTIVE, READY or WAITING. -/
def ctxBusy : CtxSt → Bool
  | .active | .ready | .waiting => true
  | _ => false

def Mach.field (m : Mach) (n : Fin 16) : Field := m.fe[n]

def Mach.setField (m : Mach) (n : Fin 16) (f : Field) : Mach := { m with fe := m.fe.set n f }

def Mach.modField (m : Mach) (n : Fin 16) (g : Field → Field) : Mach := m.setField n (g m.fe[n])

/-- The record of a context. -/
def Mach.ctx (m : Mach) : Ctx → CtxRec
  | .fe n c => m.fe[n].ctx[c]
  | .coo c => m.coo[c]
  | .axe a => m.axis[a].ctx

def Field.setCtx (f : Field) (c : Fin 8) (r : CtxRec) : Field := { f with ctx := f.ctx.set c r }

def Mach.setCtx (m : Mach) (x : Ctx) (r : CtxRec) : Mach :=
  match x with
  | .fe n c => m.setField n (m.fe[n].setCtx c r)
  | .coo c => { m with coo := m.coo.set c r }
  | .axe a => { m with axis := m.axis.set a { m.axis[a] with ctx := r } }

/-- The ACTIVE context of a field. -/
def Field.owner (f : Field) : Option (Fin 8) :=
  (List.finRange 8).find? fun c => f.ctx[c].st = .active

/-- Some context of the field is ACTIVE. -/
def Field.active (f : Field) : Bool := f.owner.isSome

/-- Some context is ACTIVE, READY or WAITING. -/
def Field.busy (f : Field) : Bool := (List.finRange 8).any fun c => ctxBusy f.ctx[c].st

/-- The contexts in the order that breaks ties (R99): COO 0–7, FE0 to FE15, AXE. -/
def allCtx : List Ctx :=
  (List.finRange 8).map Ctx.coo ++
  (List.finRange 16).flatMap (fun n => (List.finRange 8).map (Ctx.fe n)) ++
  (List.finRange 8).map Ctx.axe

/-- Register bits of the field's fail-safe. -/
def Mach.inFs (m : Mach) (n : Nat) : Bool := m.on (R.SAF_FS_STATUS_FS n)

/-! ## Tokens (R101) -/

/-- The holder of a token. -/
def Mach.holder (m : Mach) (t : Nat) : Option Ctx := m.tokens.lookup t

def Mach.holds (m : Mach) (x : Ctx) (t : Nat) : Bool := m.holder t == some x

/-- The token passes to a context. -/
def Mach.take (m : Mach) (x : Ctx) (t : Nat) : Mach := { m with tokens := sput m.tokens t x }

/-- The token becomes free. -/
def Mach.freeTok (m : Mach) (t : Nat) : Mach := { m with tokens := serase m.tokens t }

/-- Every token of a context becomes free (R86, R116). -/
def Mach.dropTokens (m : Mach) (x : Ctx) : Mach :=
  { m with tokens := m.tokens.filter fun p => p.2 ≠ x }

/-- The tokens a context holds as the mask of CTX_TOKENS. -/
def Mach.tokenMask (m : Mach) (x : Ctx) : Nat :=
  (m.tokens.filter fun p => p.2 = x).foldl (fun v p => v + 2 ^ p.1) 0

/-! ## Segments (R146, R147) -/

/-- Position on one axis, `k` ticks into a segment of `d` ticks: cubic Hermite, rounded (R147).
Velocities in 2^−24 BU per tick. -/
def hermite (d : Nat) (k : Int) (p0 v0 p1 v1 : Int) : Int :=
  let D : Int := d
  let a := 2 ^ 24 * ((2 * k ^ 3 - 3 * k ^ 2 * D + D ^ 3) * p0 + (3 * k ^ 2 * D - 2 * k ^ 3) * p1)
  let b := D * ((k ^ 3 - 2 * k ^ 2 * D + k * D ^ 2) * v0 + (k ^ 3 - k ^ 2 * D) * v1)
  if d = 0 then p1 else roundAway (a + b) (2 ^ 24 * d ^ 3)

/-- Linear change over a segment, rounded (R147). -/
def lerp (d k : Nat) (a b : Int) : Int :=
  if d = 0 then b else roundAway (a * d + (b - a) * k) d

/-- Spot of a segment at `k` ticks: X, Y and focus offset. -/
def PSeg.pos (s : PSeg) (k : Nat) : Int × Int × Int :=
  (hermite s.seg.dur k s.x0 s.vx0 s.seg.x1 s.seg.vx1,
   hermite s.seg.dur k s.y0 s.vy0 s.seg.y1 s.seg.vy1,
   lerp s.seg.dur k s.z0 s.seg.z1)

/-- Power fraction of a segment at `k` ticks. -/
def PSeg.pow (s : PSeg) (k : Nat) : Int := lerp s.seg.dur k s.pow0.toNat s.seg.pow1.toNat

/-- Ticks of a list of segments. -/
def segsDur (l : List PSeg) : Nat := l.foldl (fun n s => n + s.seg.dur) 0

/-- The segment that stands `k` ticks after the first one began, and the ticks into it. -/
def segAt : List PSeg → Nat → Option (PSeg × Nat)
  | [], _ => none
  | s :: t, k => if k < s.seg.dur then some (s, k) else segAt t (k - s.seg.dur)

/-- The segment at the front at an instant, and the ticks emitted into it. -/
def Field.segNow (f : Field) (t : Nat) : Option (PSeg × Nat) :=
  match f.emit, f.plan with
  | some t0, e :: _ => if t < t0 then none else segAt e.segs (t - t0)
  | _, _ => none

/-- End of the motion at the front. -/
def Field.motionEnd (f : Field) : Option Nat :=
  match f.emit, f.plan with
  | some t0, e :: _ => some (t0 + segsDur e.segs)
  | _, _ => none

/-- The spot at an instant: on the segment at the front, or held (R147, R132). -/
def Field.spot (f : Field) (t : Nat) : Int × Int × Int :=
  match f.emit, f.plan with
  | some t0, e :: _ =>
    match segAt e.segs (t - t0) with
    | some (s, k) => s.pos k
    | none =>
      match e.segs.getLast? with
      | some s => (s.seg.x1, s.seg.y1, s.seg.z1)
      | none => (f.spotX, f.spotY, f.spotZ)
  | _, _ => (f.spotX, f.spotY, f.spotZ)

/-- Velocity at the front, 2^−24 BU per tick; the end velocity where a motion has just ended. -/
def Field.velocity (f : Field) (t : Nat) : Int × Int :=
  match f.segNow t with
  | some (s, k) =>
    -- derivative of the cubic over ticks, floor division
    let d : Int := s.seg.dur
    let g (p0 v0 p1 v1 : Int) : Int :=
      (2 ^ 24 * 6 * ((k : Int) ^ 2 - k * d) * (p0 - p1) +
        (3 * (k : Int) ^ 2 - 4 * k * d + d ^ 2) * d * v0 + (3 * (k : Int) ^ 2 - 2 * k * d) * d * v1) /
        (d ^ 3)
    (g s.x0 s.vx0 s.seg.x1 s.seg.vx1, g s.y0 s.vy0 s.seg.y1 s.seg.vy1)
  | none =>
    match f.emit, f.plan with
    | some t0, e :: _ => (match e.segs.getLast? with
        | some s => if t < t0 then (0, 0) else (s.seg.vx1, s.seg.vy1)
        | none => (0, 0))
    | _, _ => match f.past with
      | s :: _ => if s.t0 + s.seg.dur = t then (s.seg.vx1, s.seg.vy1) else (0, 0)
      | [] => (0, 0)

/-- A laser-on segment of the field is being emitted: G_int (R209). -/
def Field.lasing (f : Field) (t : Nat) : Bool :=
  f.inRun &&
  (match f.segNow t with
   | some (s, _) => s.seg.laser
   | none => match f.motionEnd, f.plan with
     | some e, p :: _ => decide (e ≤ t) && p.after.laserOn
     | _, _ => false)

/-! ## Field correction (R153 to R157) -/

def signed24 (v : Nat) : Int := signed 24 v

/-- GX, GY and GZ of node (i, j) with indices clamped to 0…256 (R153, R155). -/
def CorTable.node (c : CorTable) (i j : Int) : Int × Int × Int :=
  let i := (clampI 0 256 i).toNat
  let j := (clampI 0 256 j).toNat
  let a := c.base + 64 + 9 * (257 * j + i)
  let g (k : Nat) : Int :=
    signed24 (ofLe ((List.range 3).map fun b => sget memDefault c.bytes (a + 3 * k + b)))
  (g 0, g 1, g 2)

/-- Catmull-Rom weights of a 16-bit fraction, times 2·2^48, in node order −1, 0, 1, 2 (R155). -/
def crWeights (a : Int) : List Int :=
  let o : Int := 2 ^ 16
  [-a ^ 3 + 2 * a ^ 2 * o - a * o ^ 2, 3 * a ^ 3 - 5 * a ^ 2 * o + 2 * o ^ 3,
   -3 * a ^ 3 + 4 * a ^ 2 * o + a * o ^ 2, a ^ 3 - a ^ 2 * o]

/-- Derivative weights with respect to the fraction, times 2·2^32. -/
def crSlopes (a : Int) : List Int :=
  let o : Int := 2 ^ 16
  [-3 * a ^ 2 + 4 * a * o - o ^ 2, 9 * a ^ 2 - 10 * a * o, -9 * a ^ 2 + 8 * a * o + o ^ 2,
   3 * a ^ 2 - 2 * a * o]

/-- Cell and 16-bit fraction of a coordinate (R155). -/
def CorTable.cell (c : CorTable) (x0 x : Int) : Int × Int :=
  let q : Int := (x - x0) * 65536 / c.pitch
  (q / 65536, q % 65536)

/-- Weighted sums of the 4 × 4 nodes about a bed point. -/
def CorTable.sums (c : CorTable) (x y : Int) (wx wy : Int → List Int) : Int × Int × Int :=
  let u := c.cell c.x0 x
  let w := c.cell c.y0 y
  let terms := (List.range 4).flatMap fun (jj : Nat) => (List.range 4).map fun (ii : Nat) =>
    let n := c.node (u.1 + (ii : Int) - 1) (w.1 + (jj : Int) - 1)
    let k := (wx u.2).getD ii 0 * (wy w.2).getD jj 0
    (n.1 * k, n.2.1 * k, n.2.2 * k)
  terms.foldl (fun s t => (s.1 + t.1, s.2.1 + t.2.1, s.2.2 + t.2.2)) (0, 0, 0)

/-- C(X, Y) in GU (R155). -/
def CorTable.eval (c : CorTable) (x y : Int) : Int × Int × Int :=
  let s := c.sums x y crWeights crWeights
  (roundAway s.1 (2 ^ 98), roundAway s.2.1 (2 ^ 98), roundAway s.2.2 (2 ^ 98))

/-- The bed point lies inside the table area (R155). -/
def CorTable.inside (c : CorTable) (x y : Int) : Bool :=
  decide (0 ≤ x - c.x0 ∧ x - c.x0 ≤ 256 * c.pitch ∧ 0 ≤ y - c.y0 ∧ y - c.y0 ≤ 256 * c.pitch)

/-- The local Jacobian in GU per BU times 2^82·pitch: rows GX, GY (R156). -/
def CorTable.jacobian (c : CorTable) (x y : Int) : (Int × Int) × (Int × Int) :=
  let dx := c.sums x y crSlopes crWeights
  let dy := c.sums x y crWeights crSlopes
  ((dx.1, dy.1), (dx.2.1, dy.2.1))

/-- GU range. -/
def clampGu (v : Int) : Int := clampI (-8388608) 8388607 v

/-- The field's correction in force: COR_STATUS.VALID (R157). -/
def Mach.corOf (m : Mach) (n : Fin 16) : Option CorTable := m.fe[n].cor

/-- The corrected position of a bed point with a focus offset under a table; 0 without one. -/
def Mach.correctBy (m : Mach) (n : Fin 16) (c : Option CorTable) (x y z : Int) : Int × Int × Int :=
  match c with
  | none => (0, 0, 0)
  | some c =>
    let q := c.eval x y
    (q.1, q.2.1, clampGu (q.2.2 + roundAway (m.rdS (R.FE_COR_ZGAIN n) * z) (2 ^ 24)))

/-- Q: the corrected position of a bed point under the table in force (R155, R157). -/
def Mach.correct (m : Mach) (n : Fin 16) (x y z : Int) : Int × Int × Int :=
  m.correctBy n (m.corOf n) x y z

/-- Q at an instant, under the table in force then (R157). -/
def Mach.correctAt (m : Mach) (n : Fin 16) (t : Nat) (p : Int × Int × Int) : Int × Int × Int :=
  m.correctBy n (if t < m.fe[n].corSince then m.fe[n].corPrev else m.fe[n].cor) p.1 p.2.1 p.2.2

/-- Determinant of the finite-difference Jacobian at a node (R154). -/
def CorTable.det (c : CorTable) (i j : Nat) : Int :=
  let i0 := if i < 256 then i else 255
  let j0 := if j < 256 then j else 255
  let a := c.node (i0 + 1) j
  let b := c.node i0 j
  let d := c.node i (j0 + 1)
  let e := c.node i j0
  (a.1 - b.1) * (d.2.1 - e.2.1) - (d.1 - e.1) * (a.2.1 - b.2.1)

/-- Some node folds (R154, ERR 3). -/
def CorTable.folds (c : CorTable) : Bool :=
  let d := c.det 0 0
  (List.range 257).any fun j => (List.range 257).any fun i =>
    decide (c.det i j * d ≤ 0)

/-- Bytes of a correction image (R153). -/
def corBytes : Nat := 594505

/-- The correction image at an address as a table. -/
def Mach.corAt (m : Mach) (a : Nat) : CorTable :=
  { x0 := signed 32 (m.le (a + 4) 4), y0 := signed 32 (m.le (a + 8) 4)
    pitch := m.le (a + 12) 4, base := a
    bytes := m.mem.bytes.filter fun p => decide (a ≤ p.1 ∧ p.1 < a + corBytes) }

/-- The result of judging an image: 0, or the first ERR of the order 4, 1, 2, 3 (R154). -/
def Mach.corErr (m : Mach) (a : Nat) : Nat :=
  let t := m.corAt a
  if m.poisoned a corBytes || !addrOk 1 (a + corBytes - 1) then 4
  else if m.le a 4 ≠ 0x1D570C05 ∨ t.pitch < 1 ∨ 2 ^ 24 < t.pitch then 1
  else if crc32c (m.bytes (a + 64) (corBytes - 64)) ≠ m.le (a + 16) 4 then 2
  else if t.folds then 3 else 0

/-- A load is taken: the new table, or the previous one and the error (R154). -/
def Mach.corTake (m : Mach) (n : Fin 16) : Mach :=
  let a := m.addr (R.FE_COR_BASE_LO n) (R.FE_COR_BASE_HI n)
  let e := m.corErr a
  let t := m.corAt a
  let f := m.fe[n]
  let f := if e = 0 then { f with cor := some t, corPrev := if f.corSince = m.mt then f.corPrev else f.cor, corSince := m.mt, corPending := false }
           else { f with corPending := false }
  let g := rwrs m.regs
    ([(R.FE_COR_STATUS_PENDING n, 0), (R.FE_COR_STATUS_ERR n, e)] ++
     (if e = 0 then [(R.FE_COR_STATUS_VALID n, 1), (R.FE_COR_X0 n, unsigned 32 t.x0),
        (R.FE_COR_Y0 n, unsigned 32 t.y0), (R.FE_COR_PITCH n, t.pitch)]
      else [(R.FE_COR_STATUS_ERRF n, 1)]))
  { m with fe := m.fe.set n f, regs := g }

/-- A load is requested: taken at once with no ACTIVE context, otherwise pending (R154). -/
def Mach.corRequest (m : Mach) (n : Fin 16) : Mach :=
  if m.fe[n].active then
    { m with fe := m.fe.set n { m.fe[n] with corPending := true }
             regs := rwr m.regs (R.FE_COR_STATUS_PENDING n) 1 }
  else m.corTake n

/-! ## Tiles and ownership (R241 to R243) -/

def Mach.tileNx (m : Mach) : Nat := clampN 1 512 (m.rd R.TRL_TILE_GEOM_NX)
def Mach.tileNy (m : Mach) : Nat := clampN 1 512 (m.rd R.TRL_TILE_GEOM_NY)
def Mach.tileShift (m : Mach) : Nat := clampN 12 22 (m.rd R.TRL_TILE_GEOM_TSHIFT)

/-- Tile coordinate of a bed coordinate, possibly outside the map. -/
def Mach.tileX (m : Mach) (x : Int) : Int := (x - m.rdS R.TRL_TILE_ORGX) / 2 ^ m.tileShift
def Mach.tileY (m : Mach) (y : Int) : Int := (y - m.rdS R.TRL_TILE_ORGY) / 2 ^ m.tileShift

def Mach.inMap (m : Mach) (tx ty : Int) : Bool :=
  decide (0 ≤ tx ∧ tx < m.tileNx ∧ 0 ≤ ty ∧ ty < m.tileNy)

/-- Owner set of a tile (R242): one byte of the tile map. -/
def Mach.tileSet (m : Mach) (tx ty : Nat) : Nat :=
  let o := 512 * ty + tx
  m.rd ⟨0xC10000 + o / 4 * 4, o % 4 * 8 + 7, o % 4 * 8⟩

/-- The global field number (R242). -/
def Mach.gfield (m : Mach) (n : Nat) : Nat := 16 * m.rd R.TRL_CTRL_MODID + n

/-- Bit g of an owner set's MASK. -/
def Mach.ownBit (m : Mach) (set g : Nat) : Bool :=
  bits (m.rd (R.TRL_OWN_MASK set (g / 32))) (g % 32) (g % 32) == 1

/-- The field holds the tile at a tile coordinate; no field holds what lies in no tile. -/
def Mach.holdsTile (m : Mach) (n : Nat) (tx ty : Int) : Bool :=
  m.inMap tx ty && m.ownBit (m.tileSet tx.toNat ty.toNat) (m.gfield n)

/-- Integers of a closed interval. -/
def intRange (a b : Int) : List Int := (List.range (b - a + 1).toNat).map fun (i : Nat) => a + (i : Int)

/-- The tiles that a closed box meets. -/
def Mach.tilesOf (m : Mach) (b : Box) : List (Int × Int) :=
  (intRange (m.tileX b.xmin) (m.tileX b.xmax)).flatMap fun tx =>
    (intRange (m.tileY b.ymin) (m.tileY b.ymax)).map fun ty => (tx, ty)

/-- Every tile that a box meets is held by the field (R243). -/
def Mach.ownsBox (m : Mach) (n : Nat) (b : Box) : Bool :=
  (m.tilesOf b).all fun t => m.holdsTile n t.1 t.2

/-- A box grown on every side. -/
def Box.grow (b : Box) (w : Int) : Box :=
  ⟨b.xmin - w, b.ymin - w, b.xmax + w, b.ymax + w⟩

/-- The least box that holds two. -/
def Box.union (a b : Box) : Box :=
  ⟨min a.xmin b.xmin, min a.ymin b.ymin, max a.xmax b.xmax, max a.ymax b.ymax⟩

/-- Closed boxes meet (R246). -/
def Box.meets (a b : Box) : Bool :=
  decide (a.xmin ≤ b.xmax ∧ b.xmin ≤ a.xmax ∧ a.ymin ≤ b.ymax ∧ b.ymin ≤ a.ymax)

/-- A box lies within another. -/
def Box.within (a b : Box) : Bool :=
  decide (b.xmin ≤ a.xmin ∧ b.ymin ≤ a.ymin ∧ a.xmax ≤ b.xmax ∧ a.ymax ≤ b.ymax)

/-- The box that bounds a segment's cubic: its Bézier control points hold the curve (R147). -/
def PSeg.hull (s : PSeg) : Box :=
  let d : Int := s.seg.dur
  let c0 (p v : Int) : Int := p + (v * d) / (3 * 2 ^ 24)
  let c1 (p v : Int) : Int := p - (v * d) / (3 * 2 ^ 24)
  let xs := [s.x0, c0 s.x0 s.vx0, c1 s.seg.x1 s.seg.vx1, s.seg.x1]
  let ys := [s.y0, c0 s.y0 s.vy0, c1 s.seg.y1 s.seg.vy1, s.seg.y1]
  ⟨xs.foldl min s.x0 - 1, ys.foldl min s.y0 - 1, xs.foldl max s.x0 + 1, ys.foldl max s.y0 + 1⟩

/-- Spots of a segment at fine ticks and at its ends, as degenerate boxes. -/
def PSeg.samples (s : PSeg) : List Box :=
  let ks := s.seg.dur :: (List.range (s.seg.dur / fineTick + 1)).map (· * fineTick)
  ks.map fun k => let p := s.pos k; ⟨p.1, p.2.1, p.1, p.2.1⟩

/-- Least box of a list of boxes. -/
def boxOf : List Box → Option Box
  | [] => none
  | b :: t => some (t.foldl Box.union b)

/-- The box of the spots of a segment. -/
def PSeg.box (s : PSeg) : Box := (boxOf s.samples).getD s.hull

/-! ## Stop ramps (R132) -/

/-- Ticks of a stop ramp: v / STOPDEC, rounded up (R132).  `v2` is the square of the speed in
2^−24 BU per tick, STOPDEC in m/s²; 1 BU per tick is 12.5 m/s. -/
def stopTicks (v2 stopdec : Nat) : Nat :=
  let r := isqrt (v2 * 10 ^ 20)
  let up := if r * r < v2 * 10 ^ 20 then r + 1 else r
  if stopdec = 0 then 0 else (up + 2 ^ 24 * stopdec - 1) / (2 ^ 24 * stopdec)

/-- The stop ramp from a point with a velocity at an instant. -/
def rampFrom (t : Nat) (p : Int × Int × Int) (v : Int × Int) (stopdec : Nat) (prof : Fin 16) (mat : Fin 4)
    (c : Fin 8) : PSeg :=
  let d := stopTicks (v.1 * v.1 + v.2 * v.2).toNat stopdec
  { t0 := t, x0 := p.1, y0 := p.2.1, vx0 := v.1, vy0 := v.2, z0 := p.2.2, pow0 := 0
    seg := { dur := d, x1 := p.1 + roundAway (v.1 * d) (2 ^ 25), y1 := p.2.1 + roundAway (v.2 * d) (2 ^ 25)
             vx1 := 0, vy1 := 0, z1 := p.2.2, pow1 := 0, laser := false, wobble := false
             nopool := false, ckpt := false, mprof := prof, mat := mat }
    pc := 0, ctx := c, frm := ⟨t, 0, 0, 0, 0, 0, [], 0⟩, wamp := 0 }

/-- The stop ramp from the point at the front: the galvo goes on along its direction and comes to
rest, with the STOPDEC in force when the point was planned (R132, R152). -/
def Mach.stopSeg (m : Mach) (n : Fin 16) (t : Nat) : PSeg :=
  let f := m.fe[n]
  rampFrom t (f.spot t) (f.velocity t) f.stopdec f.lastProf f.lastMat f.lastOwner

/-- The spot leaves its path at an instant. -/
def cutTrail (t : Nat) (l : List (PSeg × Nat)) : List (PSeg × Nat) :=
  (l.filter fun p => decide (p.1.t0 < t)).map fun p => (p.1, min p.2 t)

/-- The galvo takes a stop ramp; a ramp that it already follows goes on. -/
def Field.brake (f : Field) (r : PSeg) : Field :=
  match f.ramp, f.planFrom with
  | some _, none => f
  | _, _ => { f with ramp := some r, planFrom := none, past := [], trail := cutTrail r.t0 f.trail }

/-- The end of the stop ramp in force, or the instant itself. -/
def Field.rampEnd (f : Field) (t : Nat) : Nat :=
  match f.ramp with
  | some r => max t (r.t0 + r.seg.dur)
  | none => t

/-! ## Plan and summaries (R247 to R251) -/

/-- Segments in the plan buffer. -/
def Field.segCount (f : Field) : Nat := f.plan.foldl (fun n e => n + e.segs.length) 0

/-- A wobble whose first emitting segment starts at `t` or later slips with the plan (R162). -/
def PState.slip (st : PState) (t d : Nat) : PState :=
  { st with wstart := st.wstart.map fun w => if t ≤ w then w + d else w }

/-- Start of the first planned segment. -/
def Field.planStart (f : Field) : Option Nat :=
  match f.plan.flatMap (·.segs) with
  | s :: _ => some s.t0
  | [] => none

/-- The plan shifted by the length of a wait (R124). -/
def Field.shift (f : Field) (d : Nat) : Field :=
  { f with plan := f.plan.map fun (e : PlanEntry) =>
             { e with segs := e.segs.map fun s => { s with t0 := s.t0 + d }
                      before := e.before.slip (f.planStart.getD f.planEnd) d
                      after := e.after.slip (f.planStart.getD f.planEnd) d }
           pl := f.pl.slip (f.planStart.getD f.planEnd) d
           ckpts := f.ckpts.map fun (c : Ckpt) =>
             { c with st := c.st.slip (f.planStart.getD f.planEnd) d, alt := c.alt.slip (f.planStart.getD f.planEnd) d }
           planEnd := f.planEnd + d, ckAt := f.ckAt + d }

/-- The plan moved so that its first segment starts no earlier than `t`. -/
def Field.slipTo (f : Field) (t : Nat) : Field :=
  match f.planStart with
  | some s => if s < t then f.shift (t - s) else f
  | none => f

/-- The emission front stands: the field dwells, replans, waits in its program, or has no owner. -/
def Field.stands (f : Field) : Bool :=
  f.emit.isNone && (f.dwell.isSome || f.replan.isSome ||
    (match f.owner with
     | none => true
     | some c => f.ctx[c].wait.isSome))

/-- The plan as it stands at an instant: while the front waits, every planned instant moves on (R124). -/
def Field.live (f : Field) (t : Nat) : Field := if f.stands then f.slipTo t else f

/-- MT ticks of a slice (R247). -/
def sliceTicks : Nat := 16000

/-- The summary of a slice that stands at an instant: the latest published by then. -/
def Field.summaryAt (f : Field) (k t : Nat) : Option Summary :=
  f.summ.reverse.find? fun s => s.slice == k && decide (s.pubAt ≤ t) &&
    (match s.goneAt with | none => true | some g => decide (t < g))

/-- The standing summary of a slice. -/
def Field.summary (f : Field) (k : Nat) : Option Summary :=
  f.summ.find? fun s => s.slice == k && s.goneAt.isNone

/-- The reservation of a slice. -/
def Field.reserved (f : Field) (k : Nat) : Option Resv := f.resv.find? fun r => r.slice == k

/-- A summary is covered by its reservation: LON = 0, or its box within res (R251). -/
def covered (s : Summary) (r : Option Resv) : Bool :=
  !s.lon || (match r with
    | some ⟨_, some b⟩ => s.box.within b
    | _ => false)

/-- First slice from `k` on whose summary of instant `t` is missing or not covered, looking at most `fuel`
slices ahead. -/
def Field.clearFrom (f : Field) (t : Nat) : Nat → Nat → Nat
  | 0, k => k
  | fuel + 1, k =>
    match f.summaryAt k t with
    | none => k
    | some s => if covered s (f.reserved k) then f.clearFrom t fuel (k + 1) else k

/-- The instant whose summaries the pass of the latest boundary used (R252, R275). -/
def passView (t : Nat) : Nat := t / sliceTicks * sliceTicks - 8000

/-- The clearance instant, over the summaries of the latest pass (R251, R275); unbounded while the trellis is off (R243). -/
def Mach.clearance (m : Mach) (n : Fin 16) : Nat :=
  if m.on R.TRL_CTRL_EN then m.fe[n].clearFrom (passView m.mt) 2049 (m.mt / sliceTicks) * sliceTicks
  else 2 ^ 64 - 1

/-- The summaries from the present slice on are replaced, and reservations of slices that have not
begun are released (R249, R254). -/
def Field.republish (f : Field) (t : Nat) : Field :=
  let k := t / sliceTicks
  { f with
    summ := f.summ.map fun s =>
      if k ≤ s.slice ∧ s.goneAt.isNone then { s with goneAt := some ((k + 1) * sliceTicks) } else s
    ver := f.ver + 1
    resv := f.resv.filter fun r => decide (r.slice ≤ k) }

/-- Reservations of slices that have not begun are released (R254). -/
def Field.release (f : Field) (t : Nat) : Field :=
  { f with resv := f.resv.filter fun r => decide (r.slice ≤ t / sliceTicks) }

/-- Segments, checkpoints and prefetched words past the front are squashed (R137). -/
def Field.squash (f : Field) : Field :=
  { f with plan := [], ckpts := [], atCk := none, yielded := none, runAt := none, prefetch := [], legs := [], barrier := false
           emit := none, inRun := false, planEnd := 0 }

end Sys2Proof.Machine
end

