-- ==== Sys2Proof/Machine/FieldFault.lean ====
section
/-! DEFINITION. A field fault: the entry of one field into fail-safe (16). -/
namespace Sys2Proof.Machine

/-- Cause GLOBAL, and the causes used by name elsewhere (R479). -/
def cUnderrun : Nat := 0x20
def cDeflrange : Nat := 0x21
def cGmeas : Nat := 0x22
def cFdllink : Nat := 0x23
def cNocor : Nat := 0x24
def cOutside : Nat := 0x25
def cFrame : Nat := 0x26
def cFdllate : Nat := 0x27
def cLoopmiss : Nat := 0x28
def cLserr : Nat := 0x29
def cLocklost : Nat := 0x2A
def cLalm : Nat := 0x30
def cLrdy : Nat := 0x31
def cPddev : Nat := 0x32
def cPwrlate : Nat := 0x33
def cGatelate : Nat := 0x34
def cNotowner : Nat := 0x38
def cGlobal : Nat := 0x50

/-- A cause is recoverable (R479).  GLOBAL is, unless TRIP, MSF or SHARED is among the bits of
SAF_GSTAT. -/
def recoverableCause (gstat cause : Nat) : Bool :=
  if cause = cGlobal then bits gstat 1 1 == 0 && bits gstat 3 3 == 0 && bits gstat 4 4 == 0
  else cause == 0x08 || cause == 0x0B || (decide (0x20 ≤ cause ∧ cause ≤ 0x29)) ||
    (decide (0x30 ≤ cause ∧ cause ≤ 0x34)) || cause == 0x38

/-- Payload of a field-fault record: CAUSE, CTX, PC, t_d and the stop position (R487). -/
def faultPayload (cause ctx pc td : Nat) (x y : Int) : List Byte :=
  leBytes 1 cause ++ leBytes 1 ctx ++ leBytes 2 0 ++ leBytes 8 pc ++ leBytes 8 td ++
  leBytes 4 (unsigned 32 x) ++ leBytes 4 (unsigned 32 y) ++ List.replicate 4 (0 : Byte)

/-- Index of a segment of the motion at the front, and the ticks emitted into it (R134). -/
def stopIndex : List PSeg → Nat → Nat × Nat
  | [], _ => (0, 0)
  | s :: t, k => if k < s.seg.dur then (0, k) else
      let r := stopIndex t (k - s.seg.dur); (r.1 + 1, r.2)

/-- The point at the front as a stop point; the segment counts within its motion instruction (R134). -/
def Field.stopHere (f : Field) (t cause : Nat) (c : Fin 8) : FsRec :=
  let p := f.spot t
  let segs := match f.plan with | e :: _ => e.segs | [] => []
  let base := match f.emit, f.plan with | some _, e :: _ => e.idx | _, _ => 0
  let i := match f.emit with | some t0 => stopIndex segs (t - t0) | none => (0, 0)
  { causes := [cause], td := t, ctx := c, pc := f.ctx[c].ret.pc, segIdx := base + i.1, ticks := i.2
    x := p.1, y := p.2.1, inRun := f.inRun
    path := f.emitted ++ (if f.emit.isSome then segs.take (i.1 + 1) else [])
    rest := f.plan, ftFrom := t }

/-- The stop point of a field at an instant (R471).  A re-entry that has not begun keeps its stop point. -/
def Field.stopRec (f : Field) (t cause : Nat) : FsRec :=
  let c := f.owner.getD f.lastOwner
  match f.reentry with
  | some r => if r.ctx = c then { r with causes := [cause], td := t, ftFrom := t } else f.stopHere t cause c
  | none => f.stopHere t cause c

/-- A context's state in fail-safe: the raising context FAULTED, the others that were ACTIVE, READY
or WAITING SUSPENDED (R115). -/
def CtxRec.held (r : CtxRec) (raiser : Bool) (cause : Nat) : CtxRec :=
  if raiser then { r with st := .faulted, fcode := BitVec.ofNat 8 cause, wait := none }
  else if ctxBusy r.st then { r with st := .suspended, wait := none } else r

/-- The field at the decision instant: the galvo follows the stop ramp, and with it, at zero
deflection, the spot (R469, R471). -/
def Field.enterFs (f : Field) (t cause : Nat) (byctx : Bool) (ramp : PSeg) : Field :=
  let r := f.stopRec t cause
  let b := f.brake ramp
  let e' := b.ramp.getD ramp
  let e := e'.seg
  { (b.squash.republish t) with
    ctx := Vector.ofFn fun c => f.ctx[c].held (byctx && c == r.ctx) cause
    trail := (e', e'.t0 + e'.seg.dur) :: cutTrail t f.trail, keptPlans := []
    fs := r, spotX := e.x1, spotY := e.y1, spotZ := e.z1, replan := none, dwell := none
    reentry := none, lastOwner := r.ctx
    lch := { (f.lch.dark t).setGint t false with nopool := false, rampAt := none } }

/-- Queued gate entries of a field are discarded (R469). -/
def dropStage (l : List (Edge × Stage)) (e : Edge) : List (Edge × Stage) :=
  l.filter fun p => p.1 ≠ e

/-- Levels of a field's pins in fail-safe (R469). -/
def FieldPins.failSafe (p : FieldPins) (zx zy : Nat) (doubt : Bool) : FieldPins :=
  { p with lgate := false, lmod := false, lpwr := 0
           fdlX := BitVec.ofNat 16 zx, fdlY := BitVec.ofNat 16 zy
           gxc := if doubt then 0 else p.gxc, gyc := if doubt then 0 else p.gyc
           gzc := if doubt then 0 else p.gzc, gen := p.gen && !doubt }

/-- The outputs of a field take their fail-safe state (R469). -/
def Mach.outputsSafe (m : Mach) (n : Fin 16) (doubt : Bool) : Mach :=
  { m with
    pins := m.pins.set n (m.pins[n].failSafe (m.rd (R.FE_FDL_ZERO_ZX n)) (m.rd (R.FE_FDL_ZERO_ZY n)) doubt)
    stages := dropStage m.stages (.gate n)
    fe := m.fe.set n { m.fe[n] with lch := m.fe[n].lch.dark m.mt }
    regs := rwr (if doubt then rwr m.regs (R.SAF_FS_STATUS_GEN n) 0 else m.regs) (R.FE_LCH_COUT n) 0 }

/-- A further cause joins the fault in hand (R490). -/
def Mach.joinCause (m : Mach) (n : Fin 16) (cause : Nat) (doubt : Bool) : Mach :=
  let f := (m.outputsSafe n doubt).fe[n]
  let g := (m.outputsSafe n doubt).regs
  let c0 := rrd g (R.SAF_FS_STATUS_CAUSE n)
  let same := f.fs.td / fineTick == m.mt / fineTick
  let c := if cause = cGlobal then cGlobal
           else if same then min c0 cause else c0
  let rec' := rrd g (R.SAF_FS_STATUS_RECOV n) == 1 && recoverableCause (rrd g R.SAF_GSTAT_CAUSE) cause
  { (m.outputsSafe n doubt) with
    fe := m.fe.set n { f with fs := { f.fs with causes := if f.fs.causes.contains cause then f.fs.causes
                                            else f.fs.causes ++ [cause] } }
    regs := rwrs g
      [(R.SAF_FS_STATUS_CAUSE n, c), (R.FE_FAULT_CAUSE n, c), (R.SAF_FS_STATUS_RECOV n, bool01 rec'),
       (R.SAF_FS_STATUS_DOUBT n, if doubt then 1 else rrd g (R.SAF_FS_STATUS_DOUBT n))] }

/-! ## Dwell (R141) -/

/-- The wait in dwell class 2 ends: STUCK clears, and no booking stands (R255, R263). -/
def Mach.unstick (m : Mach) (n : Fin 16) : Mach :=
  ((m.setField n { m.fe[n] with gtoDone := false }).wr ⟨R.TRL_STUCK.a, n, n⟩ 0).wr64
    (R.FE_TRL_BOOK_LO n) (R.FE_TRL_BOOK_HI n) 0

/-- A wait counted in a dwell class ends at an instant: the class takes the time. -/
def Mach.dwellClose (m : Mach) (n : Fin 16) (te : Nat) : Mach :=
  match m.fe[n].dwell with
  | none => m
  | some (t, c) =>
    let v := m.rd (R.FE_DWELL_LO n c) + m.rd (R.FE_DWELL_HI n c) * 2 ^ 32 + (te - t)
    let m := (m.modField n fun f => { f with dwell := none }).wr64 (R.FE_DWELL_LO n c) (R.FE_DWELL_HI n c) v
    if c = 2 then m.unstick n else m

/-- A wait counted in a dwell class ends now. -/
def Mach.dwellEnd (m : Mach) (n : Fin 16) : Mach := m.dwellClose n m.mt

/-- The front waits in a dwell class from now on, unless it does already. -/
def Mach.dwellIn (m : Mach) (n : Fin 16) (c : Fin 4) : Mach :=
  match m.fe[n].dwell with
  | some (_, k) => if k = c then m
      else (m.dwellEnd n).modField n fun f => { f with dwell := some (m.mt, c) }
  | none => m.modField n fun f => { f with dwell := some (m.mt, c) }

/-! ## Entry -/

/-- The field enters fail-safe, and the fault is recorded (R471, R487). -/
def Mach.enterFs (m : Mach) (n : Fin 16) (cause : Nat) (byctx doubt : Bool) : Mach :=
  let m := m.dwellEnd n
  let f := m.fe[n]
  let r := f.stopRec m.mt cause
  let m1 : Mach := { (m.outputsSafe n doubt) with fe := m.fe.set n (f.enterFs m.mt cause byctx (m.stopSeg n m.mt)) }
  let m2 := m1.wrs
    [(R.FE_FAULT_CAUSE n, cause), (R.FE_FAULT_CTX n, r.ctx), (R.FE_FAULT_BYCTX n, bool01 byctx),
     (R.FE_FAULT_PC_LO n, r.pc.toNat), (R.FE_FAULT_PC_HI n, r.pc.toNat / 2 ^ 32),
     (R.SAF_FS_STATUS_FS n, 1), (R.SAF_FS_STATUS_DOUBT n, bool01 doubt),
     (R.SAF_FS_STATUS_RECOV n, bool01 (recoverableCause (m.rd R.SAF_GSTAT_CAUSE) cause)),
     (R.SAF_FS_STATUS_WINEXP n, 0), (R.SAF_FS_STATUS_LEDOK n, 1), (R.SAF_FS_STATUS_CAUSE n, cause),
     (R.SAF_FS_FAULT_MT_LO n, m.mt), (R.SAF_FS_FAULT_MT_HI n, m.mt / 2 ^ 32)]
  m2.raiseP (80 + n) cause (faultPayload cause r.ctx r.pc.toNat m.mt r.x r.y)

/-- A field fault (R471, R472, R490). -/
def Mach.fieldFault (m : Mach) (n : Fin 16) (cause : Nat) (byctx doubt : Bool) : Mach :=
  if m.inFs n then m.joinCause n cause doubt else m.enterFs n cause byctx doubt

/-- NOTOWNER: TRL_TILEERR and source 153 come with the fault (R243). -/
def Mach.notOwner (m : Mach) (n : Fin 16) : Mach :=
  let m := m.fieldFault n cNotowner true false
  let m := m.wr ⟨(R.TRL_TILEERR).a, n, n⟩ 1
  m.raise 153 0 n 0

end Sys2Proof.Machine
end

