-- ==== Sys2Proof/Machine/Axis.lean ====
section
/-! DEFINITION. The axis engine: path of an axis, planned stops, queue, homing, inputs, axis faults,
fail-safe and power states (11). -/
namespace Sys2Proof.Machine

def Mach.setAxis (m : Mach) (a : Fin 8) (x : Axis) : Mach := { m with axis := m.axis.set a x }

/-! ## Path of an axis (R331, R332) -/

/-- Half away from zero to a whole position unit (R341). -/
def roundPos (p : Int) : Int := roundAway p 65536

/-- Position `k` ticks into a segment, 2^−16 units; velocities per ms. -/
def CSeg.pos (s : CSeg) (k : Int) : Int :=
  let D : Int := s.seg.dur
  let a := 800000 * ((2 * k ^ 3 - 3 * k ^ 2 * D + D ^ 3) * s.pos0 + (3 * k ^ 2 * D - 2 * k ^ 3) * s.seg.pos)
  let b := D * ((k ^ 3 - 2 * k ^ 2 * D + k * D ^ 2) * s.vel0 + (k ^ 3 - k ^ 2 * D) * s.seg.vel)
  if s.seg.dur = 0 then s.seg.pos else roundAway (a + b) (800000 * s.seg.dur ^ 3)

/-- Velocity `k` ticks into a segment, 2^−16 units per ms. -/
def CSeg.vel (s : CSeg) (k : Int) : Int :=
  let D : Int := s.seg.dur
  if s.seg.dur = 0 then s.seg.vel
  else roundAway (4800000 * (k ^ 2 - k * D) * (s.pos0 - s.seg.pos) +
    D * ((3 * k ^ 2 - 4 * k * D + D ^ 2) * s.vel0 + (3 * k ^ 2 - 2 * k * D) * s.seg.vel)) (s.seg.dur ^ 3)

/-- The committed segment in force at an instant; a stop's segments stand before those they replace. -/
def Axis.cseg (x : Axis) (t : Nat) : Option CSeg :=
  x.plan.find? fun s => decide (s.t0 ≤ t ∧ t < s.t0 + s.seg.dur)

/-- Commanded position (R332). -/
def Axis.posAt (x : Axis) (t : Nat) : Int :=
  match x.cseg t with
  | some s => s.pos ((t - s.t0 : Nat) : Int)
  | none => x.endPos

/-- Commanded position at an instant of the last 20 ms: before a plan, its start. -/
def Axis.posPast (x : Axis) (t : Nat) : Int :=
  match x.cseg t with
  | some s => s.pos ((t - s.t0 : Nat) : Int)
  | none => match x.plan.find? fun s => decide (t < s.t0) with
    | some s => s.pos0
    | none => x.endPos

/-- Commanded velocity. -/
def Axis.velAt (x : Axis) (t : Nat) : Int :=
  match x.cseg t with
  | some s => s.vel ((t - s.t0 : Nat) : Int)
  | none => if x.endAt ≤ t then 0 else x.endVel

/-- The axis moves: its committed plan has not ended. -/
def Axis.moves (x : Axis) (t : Nat) : Bool := decide (t < x.endAt)

/-- Some limit input is active. -/
def Axis.limited (x : Axis) : Bool := x.limp.level || x.limn.level

/-- State of an axis at rest outside a stop, homing and faults (R338). -/
def Mach.restSt (m : Mach) (a : Fin 8) (x : Axis) : AxSt :=
  if m.rd (R.AXE_AX_CFG_KIND a) = 0 ∨ m.rd (R.AXE_AX_CTRL a) = 0 then .off
  else if x.limited then .limit
  else if x.ref then .ready else .unref

/-- The code of an axis state (R338). -/
def axCode : AxSt → Nat
  | .off => 0 | .unref => 1 | .ready => 2 | .moving => 3 | .stopping => 4 | .homing => 5
  | .limit => 6 | .faulted => 7 | .held => 8

/-- "At rest" for AXWAIT (R338). -/
def axResting : AxSt → Bool
  | .off | .unref | .ready | .limit => true
  | _ => false

/-! ## Planned stops (R336) -/

/-- Segments chained from a start state. -/
def chain (t p v : Int) : List AxSeg → List CSeg
  | [] => []
  | s :: l => ⟨t.toNat, p, v, s, none⟩ :: chain (t + s.dur) s.pos s.vel l

def sgn (v : Int) : Int := if v < 0 then -1 else 1

/-- The ramp to rest from position and velocity at deceleration `acc` within jerk `j` (0 = none),
in 2^−16 units and ms: constant deceleration, or a symmetric ramp with jerk phases. -/
def stopSegs (p v : Int) (acc j : Nat) : List AxSeg :=
  let u := v.natAbs
  let g := sgn v
  let a := max acc 1
  if u = 0 then []
  else if j = 0 then
    let d := (u * 800000 + a - 1) / a
    [⟨d, p + roundAway (v * d) 1600000, 0⟩]
  else
    let a := min a (isqrt (u * j))
    let a := max a 1
    let tj := (a * 800000 + j - 1) / j
    let dv := a * a / (2 * j)
    let tc := (u - min u (2 * dv)) * 800000 / a
    let p1 := p + g * ((u * a / j : Nat) - (a ^ 3 / (6 * j ^ 2) : Nat))
    let v1 : Int := g * ((u - min u dv : Nat) : Int)
    let v2 : Int := g * (dv : Int)
    let p2 := p1 + roundAway ((v1 + v2) * tc) 1600000
    let p3 := p2 + g * ((a ^ 3 / (6 * j ^ 2) : Nat) : Int)
    [⟨tj, p1, v1⟩, ⟨tc, p2, v2⟩, ⟨tj, p3, 0⟩]

/-- Entries whose last segment has not been passed: they stay to be executed (R350). -/
def Axis.unfinished (x : Axis) (t : Nat) : List QEntry :=
  (x.plan.filter fun s => decide (t < s.t0 + s.seg.dur)).filterMap (·.entry)

/-- A plan of segments replaces the committed one from an instant. -/
def Axis.replan (x : Axis) (t : Nat) (p v : Int) (l : List AxSeg) : Axis :=
  let c := chain t p v l
  let e : AxSeg := l.getLastD ⟨0, p, v⟩
  { x with plan := c ++ x.plan.map fun s => { s with entry := none }
           endAt := t + l.foldl (fun n s => n + s.dur) 0, endPos := e.pos, endVel := e.vel }

/-- The ramp of a planned stop with SDEC `acc` begins at the next fine tick. -/
def Mach.stopRamp (m : Mach) (a : Fin 8) (x : Axis) (acc : Nat) : Axis :=
  let t := ceilTo fineTick m.mt
  x.replan t (x.posAt t) (x.velAt t)
    (stopSegs (x.posAt t) (x.velAt t) acc (m.rd (R.AXE_AX_JMAX a)))

/-- A planned stop (R336); `keep` on entry into HOLD or IDLE.  The last target becomes the
position of rest (log entry 13). -/
def Mach.axStop (m : Mach) (a : Fin 8) (x : Axis) (keep : Bool) : Axis :=
  let q := if keep then (if x.stop.isSome then x.queue else x.unfinished m.mt ++ x.queue) else []
  if x.stop.isSome then
    { x with queue := q, homing := none, st := if x.st = .homing then .stopping else x.st }
  else if x.moves m.mt then
    let acc := m.rd (R.AXE_AX_SDEC a)
    let y := m.stopRamp a x acc
    { y with st := .stopping, stop := some acc, queue := q, homing := none
             lastTarget := if keep then x.lastTarget else roundPos y.endPos }
  else { x with queue := q, homing := none
                lastTarget := if keep then x.lastTarget else roundPos x.endPos }

/-! ## Axis faults (R347, R349) -/

def aLimitp : Nat := 0x40
def aLimitn : Nat := 0x41
def aLimboth : Nat := 0x42
def aChatter : Nat := 0x43
def aHomefail : Nat := 0x44
def aSteplate : Nat := 0x45
def aRinglost : Nat := 0x46
def aDrive : Nat := 0x47
def aQovf : Nat := 0x48

/-- Motion ends at once: the commanded position is the one of this instant, or the microstep count
of a STEP axis. -/
def Mach.axHalt (m : Mach) (a : Fin 8) (x : Axis) : Axis :=
  let p := if m.rd (R.AXE_AX_CFG_KIND a) = 2 then x.steps * 65536 else x.posAt m.mt
  { x with plan := [], endAt := m.mt, endPos := p, endVel := 0, stop := none }

/-- The queue is flushed at rest: the last queued target is where the axis stands (log entry 13). -/
def Axis.flushed (x : Axis) : Axis := { x with queue := [], homing := none, lastTarget := roundPos x.endPos }

/-- The motion part of an axis fault (R349): a planned stop and an empty queue; STEPLATE stops the
pulses at once and loses the reference; RINGLOST sets QSTOP. -/
def Mach.axFaultMotion (m : Mach) (a : Fin 8) (x : Axis) (cause : Nat) : Axis :=
  if cause = aSteplate then
    { (m.axHalt a x).flushed with ref := false, st := .faulted }
  else if cause = aRinglost then
    let mv := x.moves m.mt || x.qstop
    { (m.axHalt a x).flushed with qstop := true, faultPend := mv
                                  st := if mv then .stopping else .faulted }
  else
    let y := m.axStop a x false
    if y.stop.isSome then { y with faultPend := true } else { y with st := .faulted }

/-- Fields whose program frame follows the axis and whose laser is on take FRAME (R170). -/
def Mach.frameFaults (m : Mach) (src : Nat) : Mach :=
  (List.finRange 16).foldl (fun (m : Mach) (n : Fin 16) =>
    if m.rdf (R.FE_FRM_CTRL_SRC n) = src ∧ m.fe[n].lasing m.mt then m.fieldFault n cFrame false false
    else m) m

/-- The axis is faulted, or stops for a fault (R349). -/
def Axis.faulty (x : Axis) : Bool := x.st == .faulted || x.faultPend

/-- An axis fault.  A fault of the axis that finds one already in hand reports nothing more (log entry
14); a fault of its context always reports (R348). -/
def Mach.axisFault (m : Mach) (a : Fin 8) (cause : Nat) (byctx : Bool) : Mach :=
  let had := m.rd (R.AXE_AX_FAULT_CAUSE a) != 0
  let m := m.setAxis a (m.axFaultMotion a m.axis[a] cause)
  if had && !byctx then m
  else
    let m := m.wrs [(R.AXE_AX_FAULT_CAUSE a, cause), (R.AXE_AX_FAULT_BYCTX a, bool01 byctx)]
    (m.raise (144 + a) cause a 0).frameFaults (8 + a)

/-! ## Queue (R333) -/

/-- Entries of an axis queue. -/
def axDepth : Nat := 256

/-- A move is appended under the equal-target rule (R108).  A relative target beyond 32 bits wraps
(DESIGN CHOICE, log entry 102). -/
def Axis.appendMove (x : Axis) (rel : Bool) (target : Int) (speed : Nat) : Axis :=
  let t := signed 32 (unsigned 32 (if rel then x.lastTarget + target else target))
  if t = x.lastTarget then x
  else { x with queue := x.queue ++ [.move t speed], lastTarget := t }

/-- A raw segment is appended. -/
def Axis.appendRaw (x : Axis) (dur : Nat) (pos vel : Int) : Axis :=
  { x with queue := x.queue ++ [.raw dur (pos * 65536) vel], lastTarget := pos }

/-- A push is refused: nothing is appended and QREFUSE increments. -/
def Mach.axRefuse (m : Mach) (a : Fin 8) : Mach := m.inc (R.AXE_AX_QREFUSE a)

/-- A push of QPUSH (R333). -/
def Mach.axPush (m : Mach) (a : Fin 8) (bad : Bool) (f : Axis → Axis) : Mach :=
  let x := m.axis[a]
  if bad || (m.on (R.AXE_AX_CFG_REFREQ a) && !x.ref) then m.axRefuse a
  else if axDepth ≤ x.queue.length then m.axisFault a aQovf false
  else m.setAxis a (f x)

/-! ## The profiler (R334) -/

/-- Acceleration at the start and the end of a segment, 2^−16 units per ms². -/
def CSeg.acc (s : CSeg) : Int × Int :=
  let D : Int := s.seg.dur
  let dp := s.seg.pos - s.pos0
  let q : Int := 800000
  ((6 * dp * q * q - D * q * (4 * s.vel0 + 2 * s.seg.vel)) / (D * D),
   (-6 * dp * q * q + D * q * (2 * s.vel0 + 4 * s.seg.vel)) / (D * D))

/-- Magnitude of the constant jerk of a segment, 2^−16 units per ms³. -/
def CSeg.jerk (s : CSeg) : Nat :=
  let D : Int := s.seg.dur
  let q : Int := 800000
  ((12 * (s.pos0 - s.seg.pos) * q * q * q + 6 * D * q * q * (s.vel0 + s.seg.vel)) / (D * D * D)).natAbs

/-- Direction in which a segment moves. -/
def CSeg.dir (s : CSeg) : Int :=
  let d := s.seg.pos - s.pos0
  sgn (if d ≠ 0 then d else if s.vel0 ≠ 0 then s.vel0 else s.seg.vel)

/-- A limit with one part in 1,024 left to rounding. -/
def slack (n : Nat) : Nat := n + n / 1024 + 64

/-- An acceleration along the motion is within AMAX, one against it within DMAX (R334). -/
def Mach.axAccOk (m : Mach) (a : Fin 8) (dir acc : Int) : Bool :=
  decide (acc.natAbs ≤ slack (m.rd (if 0 < acc * dir then R.AXE_AX_AMAX a else R.AXE_AX_DMAX a)))

/-- A segment keeps the speed, acceleration and jerk limits. -/
def Mach.axSegOk (m : Mach) (a : Fin 8) (speed : Nat) (s : CSeg) : Bool :=
  let v := slack (speed * 65536)
  let j := m.rd (R.AXE_AX_JMAX a)
  decide (s.seg.dur ≠ 0) && decide (s.seg.vel.natAbs ≤ v) && decide ((s.vel (s.seg.dur / 2)).natAbs ≤ v) &&
  m.axAccOk a s.dir s.acc.1 && m.axAccOk a s.dir s.acc.2 && (j == 0 || decide (s.jerk ≤ slack j))

/-- The speed limit of an axis: VMAX, at most 4,000 units per ms for a STEP axis (R341). -/
def Mach.axVmax (m : Mach) (a : Fin 8) : Nat :=
  let v := m.rd (R.AXE_AX_VMAX a)
  if m.rd (R.AXE_AX_CFG_KIND a) = 2 then min v 4000 else v

/-- The highest speed at which the end of a move may be joined to its successor. -/
def joinSpeed (dir : Int) (t : Int) (speed : Nat) : List QEntry → Nat
  | .move u w :: _ => if 0 < (u - t) * dir then min speed w else 0
  | _ => 0

/-- The axes are released from fail-safe: no global fault stands, and the mode is READY or ARMED, where
axes may run (R25, R350). -/
def Mach.axesRun (m : Mach) : Bool := decide (modeReady ≤ m.mode) && m.rd R.SAF_GSTAT_CAUSE == 0

/-- The profiler may commit: enabled, powered, released, and not stopping. -/
def Mach.axCommits (m : Mach) (a : Fin 8) (x : Axis) : Bool :=
  m.rd (R.AXE_AX_CFG_KIND a) != 0 && m.on (R.AXE_AX_CTRL a) && m.pstate == 0 && m.axesRun && !x.qstop && x.stop.isNone &&
  (x.st == .ready || x.st == .unref || x.st == .limit || x.st == .moving)

/-- Where the next segment starts: the end of the plan, or this instant at rest. -/
def Axis.nextStart (x : Axis) (t : Nat) : Nat := max t x.endAt

/-- Segments become committed; `done` when the entry leaves the queue with them. -/
def Axis.commit (x : Axis) (t : Nat) (l : List AxSeg) (e : Option QEntry) (rest : List QEntry) : Axis :=
  let c := chain (x.nextStart t) x.endPos x.endVel l
  let n := c.length
  let c := (indexed c).map fun p => if p.1 + 1 = n then { p.2 with entry := e } else p.2
  let last : AxSeg := l.getLastD ⟨0, x.endPos, x.endVel⟩
  { x with plan := (x.plan.filter fun s => decide (t < s.t0 + s.seg.dur + 16000000)) ++ c
           endAt := x.nextStart t + l.foldl (fun n s => n + s.dur) 0
           endPos := last.pos, endVel := last.vel, queue := rest
           st := if l.isEmpty then x.st else .moving }

/-- An entry that begins toward an active limit is discarded, or both limits stop all motion (R346). -/
def Mach.axLimitCause (x : Axis) (dir : Int) : Option Nat :=
  if x.limp.level ∧ x.limn.level then some aLimboth
  else if 0 < dir ∧ x.limp.level then some aLimitp
  else if dir < 0 ∧ x.limn.level then some aLimitn
  else none

/-- An entry begins toward an active limit: it is discarded, counted, and the cause is raised. -/
def Mach.axDiscard (m : Mach) (a : Fin 8) (rest : List QEntry) (c : Nat) : Mach :=
  ((m.setAxis a { m.axis[a] with queue := rest }).axRefuse a).axisFault a c false

/-- Segments of a move keep its limits and end where the move allows. -/
def Mach.axMoveOk (m : Mach) (a : Fin 8) (x : Axis) (t : Int) (speed : Nat) (rest : List QEntry)
    (l : List AxSeg) : Bool :=
  let sp := min speed (m.axVmax a)
  let e : AxSeg := l.getLastD ⟨0, x.endPos, x.endVel⟩
  let dir := sgn (t * 65536 - x.endPos)
  !l.isEmpty && (chain (x.nextStart m.mt) x.endPos x.endVel l).all (m.axSegOk a sp) &&
  (if e.pos = t * 65536 then
      decide (e.vel.natAbs ≤ joinSpeed dir t sp rest * 65536) && decide (e.vel = 0 ∨ 0 < e.vel * dir)
    else true)

/-- The profiler commits segments of the entry at the front (R334): a raw segment as it stands, a
move by the segments it planned, and the deceleration to rest once the queue is empty. -/
def Mach.axProfile (m : Mach) (a : Fin 8) (l : List AxSeg) : Mach :=
  let x := m.axis[a]
  if m.axCommits a x then
    match x.queue with
    | [] =>
      if x.endVel ≠ 0 ∧ (l.getLastD ⟨0, 0, 1⟩).vel = 0 ∧
          (chain (x.nextStart m.mt) x.endPos x.endVel l).all (m.axSegOk a (m.axVmax a)) then
        m.setAxis a { x.commit m.mt l none [] with lastTarget := roundPos (l.getLastD ⟨0, x.endPos, 0⟩).pos }
      else m
    | .raw d p v :: rest =>
      match (if x.moves m.mt then none else Mach.axLimitCause x (p - x.endPos)) with
      | some c => m.axDiscard a rest c
      | none => m.setAxis a (x.commit m.mt [⟨d, p, v⟩] (some (.raw d p v)) rest)
    | .move t sp :: rest =>
      match (if x.moves m.mt then none else Mach.axLimitCause x (t * 65536 - x.endPos)) with
      | some c => m.axDiscard a rest c
      | none =>
        if m.axMoveOk a x t sp rest l then
          let e : AxSeg := l.getLastD ⟨0, 0, 0⟩
          if e.pos = t * 65536 then m.setAxis a (x.commit m.mt l (some (.move t sp)) rest)
          else m.setAxis a (x.commit m.mt l none x.queue)
        else m
  else m

/-! ## Homing (R344, R345) -/

/-- Direction of HDIR: +1 or −1. -/
def Mach.hdir (m : Mach) (a : Fin 8) : Int := if m.on (R.AXE_AX_CFG_HDIR a) then -1 else 1

/-- A run at constant speed from rest at AMAX, without end. -/
def Mach.homeRun (m : Mach) (a : Fin 8) (x : Axis) (v : Int) : Axis :=
  let acc := max (m.rd (R.AXE_AX_AMAX a)) 1
  let p := x.posAt m.mt
  let v0 := x.velAt m.mt
  let d := ((v - v0).natAbs * 800000 + acc - 1) / acc
  let p1 := p + roundAway ((v0 + v) * d) 1600000
  let long : Nat := 2 ^ 50
  let y := x.replan m.mt p v0
    ((if d = 0 then [] else [⟨d, p1, v⟩]) ++ [⟨long, p1 + v * long / 800000, v⟩])
  { y with plan := y.plan.filter fun s => decide (m.mt < s.t0 + s.seg.dur) }

/-- Search (step 1), latch move (3) and reversed search in force. -/
def Mach.homeStep (m : Mach) (a : Fin 8) (x : Axis) (k : Nat) (rev : Bool) : Axis :=
  let v := if k = 1 then (if rev then -m.hdir a else m.hdir a) * (m.rd (R.AXE_AX_HSPD a) * 65536 : Nat)
           else -m.hdir a * (m.rd (R.AXE_AX_HLSPD a) * 65536 : Nat)
  let y := if k = 4 then x else m.homeRun a x v
  { y with st := .homing, homing := some (k, rev), homeFrom := x.posAt m.mt }

/-- A stop at SDEC inside homing (steps 2, 5 and the reversal, 6). -/
def Mach.homeStop (m : Mach) (a : Fin 8) (x : Axis) (k : Nat) (rev : Bool) : Axis :=
  let y := m.stopRamp a x (m.rd (R.AXE_AX_SDEC a))
  { y with st := .homing, homing := some (k, rev), homeFrom := x.posAt m.mt
           stop := some (m.rd (R.AXE_AX_SDEC a)) }

/-- HOME is commanded in state 1, 2 or 6 (R344); in fail-safe it does nothing (log entry 103). -/
def Mach.axHome (m : Mach) (a : Fin 8) : Mach :=
  let x := m.axis[a]
  if m.axesRun ∧ (x.st = .unref ∨ x.st = .ready ∨ x.st = .limit) then
    let y := { x with ref := false, queue := [] }
    m.setAxis a (m.homeStep a y (if x.home.level then 3 else 1) false)
  else m

/-- The latch of homing is taken at a position. -/
def Axis.latchAt (x : Axis) (p : Int) : Axis := { x with latch := p }

/-- The microstep count is a multiple of IDXMOD somewhere between two counts. -/
def idxPassed (md : Nat) (c0 c : Int) : Option Int :=
  let k : Int := max md 1
  let up := -((-c0) / k) * k
  let dn := c0 / k * k
  if c0 ≤ c then (if up ≤ c then some up else none) else (if c ≤ dn then some dn else none)

/-- Homing events of an input sample, after limits: HOME edges, the index of a STEP axis, travel. -/
def Mach.homeEvents (m : Mach) (a : Fin 8) (was : Bool) : Mach :=
  let x := m.axis[a]
  match x.homing with
  | none => m
  | some (k, rev) =>
    if m.rd (R.AXE_AX_HMAXT a) * 65536 < (x.posAt m.mt - x.homeFrom).natAbs then
      m.axisFault a aHomefail false
    else if k = 1 ∧ x.home.level then m.setAxis a (m.homeStop a x 2 rev)
    else if k = 3 ∧ was ∧ !x.home.level then
      let y := x.latchAt (x.posAt x.home.edgeAt)
      if m.on (R.AXE_AX_CFG_HIDX a) then m.setAxis a (m.homeStep a y 4 rev)
      else m.setAxis a (m.homeStop a y 5 rev)
    else if k = 4 ∧ m.rd (R.AXE_AX_CFG_KIND a) = 2 then
      match idxPassed (m.rd (R.AXE_AX_IDXMOD a)) (roundPos x.homeFrom) (roundPos (x.posAt m.mt)) with
      | some c => m.setAxis a (m.homeStop a (x.latchAt (c * 65536)) 5 rev)
      | none => m
    else m

/-- A limit becomes active: handling in homing (R345) and in motion (R346). -/
def Mach.limitTrip (m : Mach) (a : Fin 8) (pos : Bool) : Mach :=
  let x := m.axis[a]
  let d : Int := if pos then 1 else -1
  let toward := decide (0 < x.velAt m.mt * d)
  match x.homing with
  | some (1, rev) =>
    if !toward then m
    else if m.on (R.AXE_AX_CFG_HREV a) && !rev then m.setAxis a (m.homeStop a x 6 true)
    else m.axisFault a aHomefail false
  | some (2, _) => if toward then m.axisFault a (if pos then aLimitp else aLimitn) false else m
  | some (6, _) => if toward then m else m
  | some _ => m.axisFault a aHomefail false
  | none =>
    if x.moves m.mt then
      (if toward then m.axisFault a (if pos then aLimitp else aLimitn) false else m)
    else m

/-! ## Inputs (R343) -/

/-- One sample of an input: the level after inversion, N, the chatter window in ticks. -/
def AxIn.sample (i : AxIn) (t : Nat) (raw act : Bool) (n win : Nat) : AxIn :=
  let ch := (if raw ≠ i.raw then t :: i.changes else i.changes).filter fun c => decide (t < c + win)
  let i := { i with raw := raw, changes := ch }
  if act = i.level then { i with count := 0, cand := i.level }
  else
    let c := if i.count = 0 then t else i.candAt
    if max n 1 ≤ i.count + 1 then
      { i with level := act, cand := act, count := 0, edgeAt := c, candAt := c }
    else { i with cand := act, count := i.count + 1, candAt := c }

/-- The three inputs of an axis are sampled (R343). -/
def Mach.axSample (m : Mach) (a : Fin 8) (home limp limn : Bool) : Axis :=
  let x := m.axis[a]
  let n := m.rd (R.AXE_AX_QUAL_N a)
  let win := m.rd (R.AXE_AX_QUAL_CHWIN a) * msTicks
  let lp := m.on (R.AXE_AX_CFG_LIMPOL a)
  let hp := m.on (R.AXE_AX_CFG_HOMEPOL a)
  { x with home := x.home.sample m.mt home (home != hp) n win
           limp := x.limp.sample m.mt limp (limp != lp) n win
           limn := x.limn.sample m.mt limn (limn != lp) n win }

/-- Some input has changed more than CHTH times within the window. -/
def Mach.axChatters (m : Mach) (a : Fin 8) (x : Axis) : Bool :=
  let th := m.rd (R.AXE_AX_QUAL_CHTH a)
  decide (th < x.home.changes.length) || decide (th < x.limp.changes.length) ||
  decide (th < x.limn.changes.length)

/-- State 1, 2 or 6 follows the limit inputs at rest. -/
def Mach.axRestUpdate (m : Mach) (a : Fin 8) : Mach :=
  let x := m.axis[a]
  if x.st = .unref ∨ x.st = .ready ∨ x.st = .limit then m.setAxis a { x with st := m.restSt a x }
  else m

/-- A sample of HOME, LIMP and LIMN, at multiples of 800 ticks: chatter, limits, homing edges, lowest cause
first (R343 to R347, R352). -/
def Mach.axInputs (m : Mach) (a : Fin 8) (home limp limn : Bool) : Mach :=
  if m.mt % 800 ≠ 0 then m
  else
    let old := m.axis[a]
    let m := m.setAxis a (m.axSample a home limp limn)
    let x := m.axis[a]
    let m := if x.limp.level && !old.limp.level then m.limitTrip a true else m
    let m := if x.limn.level && !old.limn.level then m.limitTrip a false else m
    let m := if x.limp.level && x.limn.level && !(old.limp.level && old.limn.level)
             then m.axisFault a aLimboth false else m
    let m := if m.axChatters a x && !old.chatter then
               (m.setAxis a { m.axis[a] with chatter := true }).axisFault a aChatter false else m
    (m.homeEvents a old.home.level).axRestUpdate a

/-! ## Coming to rest (R338) -/

/-- The state an axis takes when a planned stop ends. -/
def Mach.afterStop (m : Mach) (a : Fin 8) (x : Axis) : AxSt :=
  if x.faultPend then .faulted
  else if m.rd (R.AXE_AX_CTRL a) = 0 then .off
  else if (m.pstate = 1 ∨ m.pstate = 2) ∧ !x.queue.isEmpty then .held
  else m.restSt a x

/-- Levels of a STEP axis's enable pin: low once a disabled axis rests (R350). -/
def Mach.axenLow (m : Mach) (a : Fin 8) : Mach :=
  if m.rd (R.AXE_AX_CTRL a) = 0 then
    { m with axpins := m.axpins.set a { m.axpins[a] with axen := false } }
  else m

/-- The commanded position and the microstep count are set (R342). -/
def Axis.setPos (x : Axis) (t : Nat) (p : Int) : Axis :=
  { x with plan := [], endAt := t, endPos := p, endVel := 0, steps := roundPos p
           lastTarget := roundPos p }

/-- An axis reaches the end of its plan or stop at rest. -/
def Mach.axRest (m : Mach) (a : Fin 8) : Mach :=
  let x := m.axis[a]
  if x.moves m.mt || x.endVel != 0 then m
  else
    let x := { m.axis[a] with stop := none }
    match x.homing with
    | some (2, rev) => m.setAxis a (m.homeStep a x 3 rev)
    | some (6, rev) => m.setAxis a (m.homeStep a x 1 rev)
    | some (5, _) =>
      let y := { x.setPos m.mt (m.rdS (R.AXE_AX_HOFFS a) * 65536 + (x.endPos - x.latch)) with
                 ref := true, homing := none }
      m.setAxis a { y with st := m.restSt a y }
    | some _ => m
    | none =>
      if x.st = .stopping ∧ !x.qstop then
        (m.setAxis a { x with st := m.afterStop a x, faultPend := false }).axenLow a
      else if x.st = .moving ∧ x.queue.isEmpty then m.setAxis a { x with st := m.restSt a x }
      else m

/-! ## Commands (R342, R349) -/

/-- STOP: a planned stop, which abandons homing (R336, R345). -/
def Mach.axStopCmd (m : Mach) (a : Fin 8) : Mach := m.setAxis a (m.axStop a m.axis[a] false)

/-- FLUSH empties the queue (R353). -/
def Mach.axFlush (m : Mach) (a : Fin 8) : Mach :=
  let x := m.axis[a]
  m.setAxis a { x with queue := [], lastTarget := roundPos x.endPos }

/-- The chattering input has been quiet for CHWIN (R343). -/
def Mach.axQuiet (m : Mach) (a : Fin 8) (x : Axis) : Bool :=
  let win := m.rd (R.AXE_AX_QUAL_CHWIN a) * msTicks
  (x.home.changes ++ x.limp.changes ++ x.limn.changes).all fun c => decide (c + win ≤ m.mt)

/-- CLRF, accepted once the axis is at rest (R349). -/
def Mach.axClrf (m : Mach) (a : Fin 8) : Mach :=
  let x := m.axis[a]
  if x.st = .faulted ∧ (!x.chatter ∨ m.axQuiet a x) then
    let c := if x.ctx.st = .faulted then { x.ctx with st := .idle } else x.ctx
    let y := { x with chatter := false, faultPend := false, ctx := c, clrf := true }
    (m.setAxis a { y with st := m.restSt a y }).wrs
      [(R.AXE_AX_FAULT_CAUSE a, 0), (R.AXE_AX_FAULT_BYCTX a, 0)]
  else m

/-- SETPOS in states 1, 2 and 6 (R342). -/
def Mach.axSetpos (m : Mach) (a : Fin 8) : Mach :=
  let x := m.axis[a]
  if x.st = .unref ∨ x.st = .ready ∨ x.st = .limit then
    let y := { x.setPos m.mt (m.rdS (R.AXE_AX_QTGT a) * 65536) with ref := true }
    m.setAxis a { y with st := m.restSt a y }
  else m

/-- Microseconds of an axis period (R353). -/
def aper (c : Nat) : Nat := if c = 0 then 125 else if c = 1 then 250 else if c = 2 then 500 else 1000

/-- ENABLE is refused: APER is no whole multiple of T_c (R339). -/
def Mach.enableBad (m : Mach) (a : Fin 8) : Bool :=
  m.rd (R.AXE_AX_CFG_KIND a) == 1 &&
  aper (m.rd (R.AXE_AX_CFG_APER a)) % max (m.rd R.RNG_CYC_PER) 1 != 0

/-- A write of ENABLE (R330, R339, R350). -/
def Mach.axEnable (m : Mach) (a : Fin 8) (en : Bool) : Mach :=
  if en then
    if m.enableBad a then m.wr (R.AXE_AX_CFG_CFGERR a) 1
    else
      let m := m.wr (R.AXE_AX_CTRL a) 1
      let x := m.axis[a]
      let m := m.setAxis a (if x.st = .off then { x with st := m.restSt a x } else x)
      { m with axpins := m.axpins.set a
                { m.axpins[a] with axen := m.rd (R.AXE_AX_CFG_KIND a) == 2 } }
  else
    let m := m.wr (R.AXE_AX_CTRL a) 0
    let x := m.axis[a]
    if x.moves m.mt then m.setAxis a (m.axStop a x false)
    else if x.qstop ∨ x.st = .faulted then m
    else (m.setAxis a { x.flushed with st := .off }).axenLow a

/-! ## SDEC during a stop (R336) -/

/-- A write of SDEC: raised during a stop it applies from the next fine tick; a lower value stays in
the register and applies when the stop ends. -/
def Mach.writeSdec (m : Mach) (a : Fin 8) (v : Word) : Mach :=
  let x := m.axis[a]
  let m := m.wr (R.AXE_AX_SDEC a) v.toNat
  match x.stop with
  | none => m
  | some s =>
    if v.toNat < s then m
    else
      let y := m.stopRamp a x v.toNat
      m.setAxis a { y with stop := some v.toNat }

/-! ## Ring axes (R339, R340) -/

/-- A feedback record of the drive. -/
def Mach.axFeedback (m : Mach) (a : Fin 8) (r : AxFbRec) : Mach :=
  let x := { m.axis[a] with apos := r.apos, fbSeen := true, fbMiss := 0 }
  let p := r.apos.toInt * 65536
  -- quick stop: the commanded position follows, and ends at STANDSTILL once fail-safe is released
  let x := if x.qstop then
      let y := { x with plan := [], endAt := m.mt, endPos := p, endVel := 0, stop := none }
      if r.standstill ∧ m.axesRun then
        let z := { y with qstop := false }
        if z.st = .stopping then { z with st := m.afterStop a z, faultPend := false } else z
      else y
    else x
  -- the index of homing step 4
  let x := if x.homing == some (4, false) || x.homing == some (4, true) then
      if r.idx ≠ x.lastIdx then
        m.homeStop a (x.latchAt (r.ipos.toInt * 65536)) 5 (x.homing == some (4, true))
      else x
    else x
  let m := m.setAxis a { x with lastIdx := r.idx }
  if r.fault ∨ (!r.ready ∧ m.on (R.AXE_AX_CTRL a)) then m.axisFault a aDrive false else m

/-- RFMISS periods without a feedback record (R340). -/
def Mach.axFbTimeout (m : Mach) (a : Fin 8) : Mach :=
  if m.rd (R.AXE_AX_CFG_KIND a) = 1 ∧ m.rd (R.AXE_AX_CTRL a) = 1 ∧
      max (m.rd (R.AXE_AX_RFMISS a)) 1 ≤ m.axis[a].fbMiss then m.axisFault a aRinglost false
  else m

/-! ## Fail-safe and power states (R350) -/

/-- One axis in fail-safe. -/
def Mach.axFailSafe (m : Mach) (a : Fin 8) : Axis :=
  let x := m.axis[a]
  let hm := x.homing.isSome
  let q := if x.stop.isSome ∨ hm then x.queue else x.unfinished m.mt ++ x.queue
  match m.rd (R.AXE_AX_CFG_KIND a) with
  | 1 => { x with qstop := true, homing := none, queue := q
                  ref := x.ref && !hm
                  st := if x.st = .faulted ∨ x.st = .off then x.st
                        else if x.moves m.mt then .stopping else x.st
                  plan := [], endAt := m.mt, endPos := x.posAt m.mt, endVel := 0, stop := none }
  | 2 =>
    let y := { m.axHalt a x with
               queue := q, homing := none
               ref := x.ref && !hm &&
                 decide ((x.velAt m.mt).natAbs ≤ m.rd (R.AXE_AX_SSRATE a) * 65536) }
    { y with st := if x.st = .faulted ∨ x.faultPend then .faulted
                   else if x.st = .off then .off else m.restSt a y
             faultPend := false }
  | _ => x

/-- Every axis enters fail-safe. -/
def Mach.axesFailSafe (m : Mach) : Mach := { m with axis := Vector.ofFn fun a => m.axFailSafe a }

/-- Entry into HOLD or IDLE: a moving axis makes a planned stop and keeps its queue (R350). -/
def Mach.axesHold (m : Mach) : Mach :=
  { m with axis := Vector.ofFn fun a =>
      let x := m.axis[a]
      if x.moves m.mt then m.axStop a x true
      else if axResting x.st ∧ x.st ≠ .off ∧ !x.queue.isEmpty then { x with st := .held } else x }

/-- Return to ACTIVE: the queue continues from rest (R350). -/
def Mach.axesActive (m : Mach) : Mach :=
  { m with axis := Vector.ofFn fun a =>
      let x := m.axis[a]
      if x.st = .held then { x with st := m.restSt a x } else x }

end Sys2Proof.Machine
end

