-- ==== Sys2Proof/Machine/FailSafe.lean ====
section
/-! DEFINITION. Global faults and the modes: the outputs of every field, the interlock, arming (16, 01). -/
namespace Sys2Proof.Machine

/-- Bits of SAF_GSTAT (R473). -/
def gIlk : Nat := 0
def gTrip : Nat := 1
def gFeedloss : Nat := 2
def gMsf : Nat := 3
def gShared : Nat := 4

/-- Both interlock channels are closed and no discrepancy is latched. -/
def Mach.ilkClosed (m : Mach) : Bool := m.saf.ilkA && m.saf.ilkB && !m.on R.SAF_ILK_DISC

/-- SAFE_OUT follows MS and SAF_GSTAT (R478). -/
def Mach.updateSafeOut (m : Mach) : Mach :=
  let s := m.saf.msRun && m.rd R.SAF_GSTAT_CAUSE == 0
  { m with safeOut := s, regs := rwr m.regs R.SAF_ILK_SAFEOUT (bool01 s) }

/-- The module goes to SAFE from READY or ARMED (R26): an arming or a disarm ends. -/
def Mach.toSafe (m : Mach) : Mach :=
  let m := { m with saf := { m.saf with arming := none, armFirst := none, disarming := false } }
  if m.mode = modeReady ∨ m.mode = modeArmed then m.setMode modeSafe else m

/-- Every field's outputs take their fail-safe state (R469). -/
def Mach.allOutputsSafe (m : Mach) (doubt : Bool) : Mach :=
  (List.finRange 16).foldl (fun (m : Mach) (n : Fin 16) => m.outputsSafe n doubt) m

/-- Every field with an ACTIVE, READY or WAITING context, or in a fault, takes GLOBAL (R473, R490). -/
def Mach.globalFields (m : Mach) (doubt : Bool) : Mach :=
  (List.finRange 16).foldl (fun (m : Mach) (n : Fin 16) =>
    if m.fe[n].busy || m.inFs n then m.fieldFault n cGlobal false doubt else m) m

/-- A global fault is declared (R473). -/
def Mach.globalFault (m : Mach) (k : Nat) : Mach :=
  let doubt := k == gFeedloss
  let m := m.wrs [(⟨R.SAF_GSTAT_CAUSE.a, k, k⟩, 1), (R.SAF_GSTAT_ANY, 1)]
  ((((m.globalFields doubt).allOutputsSafe doubt).axesFailSafe).toSafe.updateSafeOut).raise 0 0 0 0

/-- A refused mode request (R30). -/
def Mach.modeRefuse (m : Mach) (reason : Nat) : Mach :=
  m.wrs [(R.GLB_MODE_REFUSED, 1), (R.GLB_MODE_REASON, reason)]

/-- A field is inside a laser-on run. -/
def Mach.someRun (m : Mach) : Bool := (List.finRange 16).any fun n => m.fe[n].inRun

end Sys2Proof.Machine
end

