-- ==== Sys2Proof/Machine/Galvo.lean ====
section
/-! DEFINITION. Calibration of the analog slices, the galvo path, the program frame and the deflector
link (05, 15). -/
namespace Sys2Proof.Machine

/-! ## Numbers -/

/-- Nearest integer of a rational, halves away from zero. -/
def rroundAway (q : Rat) : Int := roundAway q.num q.den

/-- Nearest integer of a rational, halves to even. -/
def rroundEven (q : Rat) : Int :=
  let f := rfloor q
  let r := q - f
  if r < 1 / 2 then f else if 1 / 2 < r then f + 1 else if f % 2 = 0 then f else f + 1

/-- A 20-bit converter code, clipped. -/
def clampCode (v : Int) : Int := clampI (-524288) 524287 v

/-! ## Analog slices (R459, R463) -/

/-- The physical slice that serves an ADC channel 4n + i. -/
def Mach.adcSlice (m : Mach) (n i : Nat) : Nat := m.rd (R.AFE_ADC_SLICE (4 * n + i))
def Mach.dacSlice (m : Mach) (n i : Nat) : Nat := m.rd (R.AFE_DAC_SLICE (4 * n + i))

/-- The calibration word that a slice uses: a host write takes effect at its boundary (R465). -/
def Mach.calWord (m : Mach) (dac gain : Bool) (k : Nat) (r : RF) : Nat :=
  match m.env.calHeld.find? fun c => c.dac == dac && c.gain == gain && c.k.val == k && decide (m.mt < c.due) with
  | some c => c.v.toNat
  | none => m.rd r

/-- An ADC slice corrects its raw code (R463). -/
def Mach.adcCorrect (m : Mach) (n i : Nat) (x : Code) : Code :=
  let k := m.adcSlice n i
  let v : Rat := ((x.toInt : Rat) - (signed 24 (m.calWord false false k (R.AFE_ADC_OFFS k)) : Rat) / 16) *
    (m.calWord false true k (R.AFE_ADC_GAIN k) : Rat) / 4194304
  BitVec.ofInt 20 (clampCode (rroundEven v))

/-- The code that a DAC slice presents for a commanded code (R463). -/
def Mach.dacPresented (m : Mach) (n i : Nat) (c : Code) : Code :=
  let k := m.dacSlice n i
  let v : Rat := (c.toInt : Rat) * (m.calWord true true k (R.AFE_DAC_GAIN k) : Rat) / 4194304 +
    (signed 24 (m.calWord true false k (R.AFE_DAC_OFFS k)) : Rat) / 16
  BitVec.ofInt 20 (clampCode (rroundEven v))

/-! ## The planned path P (R147) -/

/-- Segments of the present plan in order: emitted ones, then planned ones. -/
def Field.pathSegs (f : Field) : List PSeg := f.past.reverse ++ f.plan.flatMap (·.segs)

/-- The segment that covers an instant, and the ticks into it. -/
def Field.segOn (f : Field) (t : Nat) : Option (PSeg × Nat) :=
  (f.pathSegs.find? fun s => decide (s.t0 ≤ t ∧ t < s.t0 + s.seg.dur)).map fun s => (s, t - s.t0)

/-- P at an instant: on a segment, held between segments, at the last planned point beyond them. -/
def Field.pathAt (f : Field) (t : Nat) : Int × Int × Int :=
  f.pathSegs.foldl (fun p s => if s.t0 ≤ t then s.pos (min (t - s.t0) s.seg.dur) else p)
    (if f.planFrom.isSome then (f.restX, f.restY, f.restZ) else (f.spotX, f.spotY, f.spotZ))

/-- The segment that the spot ran along at the present or a past instant, and the ticks into it. -/
def Field.trailOn (f : Field) (t : Nat) : Option (PSeg × Nat) :=
  (f.trail.find? fun p => decide (p.1.t0 ≤ t)).map fun p => (p.1, min t p.2 - p.1.t0)

/-- The spot at the present or a past instant (R231, R268). -/
def Field.spotAt (f : Field) (t : Nat) : Int × Int × Int :=
  match f.trailOn t with
  | some (s, k) => s.pos k
  | none => (f.spotX, f.spotY, f.spotZ)

/-- Velocity of a segment, 2^−24 BU per tick. -/
def PSeg.vel (s : PSeg) (k : Nat) : Int × Int :=
  let d : Int := s.seg.dur
  let g (p0 v0 p1 v1 : Int) : Int :=
    (2 ^ 24 * 6 * ((k : Int) ^ 2 - k * d) * (p0 - p1) +
      (3 * (k : Int) ^ 2 - 4 * k * d + d ^ 2) * d * v0 + (3 * (k : Int) ^ 2 - 2 * k * d) * d * v1) / (d ^ 3)
  if s.seg.dur = 0 then (0, 0) else (g s.x0 s.vx0 s.seg.x1 s.seg.vx1, g s.y0 s.vy0 s.seg.y1 s.seg.vy1)

/-- The plan entry whose segments cover an instant. -/
def Field.entryOn (f : Field) (t : Nat) : Option PlanEntry :=
  f.plan.find? fun e => e.segs.any fun s => decide (s.t0 ≤ t ∧ t < s.t0 + s.seg.dur)

/-! ## The program frame (R167 to R169) -/

/-- The count of a source: an encoder, or an axis's commanded position. -/
def Mach.srcCount (m : Mach) (src : Nat) : Word :=
  if 1 ≤ src ∧ src ≤ 4 then BitVec.ofNat 32 (m.rd (R.AXE_ENC_CNT (src - 1)))
  else if h : 8 ≤ src ∧ src < 16 then
    BitVec.ofInt 32 (m.axis[(⟨src - 8, by omega⟩ : Fin 8)].posAt m.mt / 65536)
  else 0

/-- The count of a source at an instant of the last half servo tick. -/
def Mach.srcCountAt (m : Mach) (src t : Nat) : Word :=
  if 1 ≤ src ∧ src ≤ 4 then
    match (m.encLog.getD (src - 1) []).find? fun p => decide (p.1 ≤ t) with
    | some p => p.2
    | none => 0
  else if h : 8 ≤ src ∧ src < 16 then
    BitVec.ofInt 32 (m.axis[(⟨src - 8, by omega⟩ : Fin 8)].posPast t / 65536)
  else 0

/-- The source in force, 0 for none. -/
def Mach.frmSrc (m : Mach) (n : Fin 16) : Nat :=
  let s := m.rdf (R.FE_FRM_CTRL_SRC n)
  if (1 ≤ s ∧ s ≤ 4) ∨ 8 ≤ s then s else 0

/-- F for a count, 2^−16 BU. -/
def Mach.frameOf (m : Mach) (n : Fin 16) (c : Word) : Int × Int :=
  if m.frmSrc n = 0 then (0, 0)
  else
    let d := (c - BitVec.ofNat 32 (m.rdf (R.FE_FRM_REF n))).toInt
    (d * m.rdS (R.FE_FRM_SX n), d * m.rdS (R.FE_FRM_SY n))

/-- The measured displacement now, 2^−16 BU. -/
def Mach.frameF (m : Mach) (n : Fin 16) : Int × Int := m.frameOf n (m.srcCount (m.frmSrc n))

/-- V_F: displacement over the last VWIN servo ticks by their length, 2^−16 BU per tick. -/
def Mach.frameV (m : Mach) (n : Fin 16) : Rat × Rat :=
  let w := clampN 1 64 (m.rd (R.FE_FRM_VWIN n)) * servoTick
  let now := m.mt / servoTick * servoTick
  let cs := m.fe[n].spl.counts
  match cs.lookup now, (if now < w then none else cs.lookup (now - w)) with
  | some c1, some c0 =>
    let a := m.frameOf n c1
    let b := m.frameOf n c0
    (((a.1 - b.1 : Int) : Rat) / w, ((a.2 - b.2 : Int) : Rat) / w)
  | _, _ => (0, 0)

/-- The prediction that a segment planned now carries (R168). -/
def Mach.framePred (m : Mach) (n : Fin 16) : FrmPred :=
  let f := m.frameF n
  let v := m.frameV n
  let s := m.frmSrc n
  { tn := m.mt, fx := f.1, fy := f.2, vx := v.1, vy := v.2
    cover := if h : 8 ≤ s ∧ s < 16 then m.axis[(⟨s - 8, by omega⟩ : Fin 8)].endAt else 0
    axq := if h : 8 ≤ s ∧ s < 16 then m.axis[(⟨s - 8, by omega⟩ : Fin 8)].plan else []
    axEnd := if h : 8 ≤ s ∧ s < 16 then m.axis[(⟨s - 8, by omega⟩ : Fin 8)].endPos else 0 }

/-- Commanded position of the source axis at an instant, by its segments of the instant of planning. -/
def FrmPred.axPos (p : FrmPred) (t : Nat) : Int :=
  match p.axq.find? fun s => decide (s.t0 ≤ t ∧ t < s.t0 + s.seg.dur) with
  | some s => s.pos ((t - s.t0 : Nat) : Int)
  | none => p.axEnd

/-- F_p: the displacement predicted for a segment at an instant, 2^−16 BU (R168). -/
def Mach.framePredAt (m : Mach) (n : Fin 16) (p : FrmPred) (t : Nat) : Int × Int :=
  if t < p.cover then m.frameOf n (BitVec.ofInt 32 (p.axPos t / 65536))
  else
    let d : Rat := ((t - p.tn : Nat) : Rat)
    (rroundAway (p.fx + p.vx * d), rroundAway (p.fy + p.vy * d))

/-- |F − F_p| at an instant, BU rounded to nearest, the larger axis (R168). -/
def Mach.framePredErr (m : Mach) (n : Fin 16) (p : FrmPred) : Nat :=
  let f := m.frameF n
  let g := m.framePredAt n p m.mt
  max (roundAway (f.1 - g.1) 65536).natAbs (roundAway (f.2 - g.2) 65536).natAbs

/-- Counts of the source at ST boundaries are kept for V_F. -/
def Split.noteCount (s : Split) (t : Nat) (c : Word) : Split :=
  if t % servoTick = 0 then { s with counts := ((t, c) :: s.counts).take 66 } else s

/-- Held SRC and REF writes act (R167, R169). -/
def Mach.frameApply (m : Mach) (n : Fin 16) : Mach :=
  let f := m.fe[n]
  let g := match f.spl.heldRef with
    | some v => rwr m.regs (R.FE_FRM_REF n) v.toNat
    | none => m.regs
  { m with
    fe := m.fe.set n { f with spl := { f.spl with heldRef := none } }
    regs := rwr (rwr g (R.FE_FRM_CTRL_PEND n) 0) (R.FE_FRM_LATCH n) 0
    force := rwr (rwr m.force (R.FE_FRM_CTRL_SRC n) (rrd g (R.FE_FRM_CTRL_SRC n)))
               (R.FE_FRM_REF n) (rrd g (R.FE_FRM_REF n)) }

/-- A write of SRC, REF or LATCH is held while a context is ACTIVE, and acts at once otherwise.
`ref` is the value that FRM_REF is to take. -/
def Mach.frameHold (m : Mach) (n : Fin 16) (ref : Option Word) : Mach :=
  let f := m.fe[n]
  let f' := match ref with
    | some v => { f with spl := { f.spl with heldRef := some v } }
    | none => f
  let m := { m with fe := m.fe.set n f' }
  if f.active then m.wr (R.FE_FRM_CTRL_PEND n) 1 else m.frameApply n

/-- A write of 1 to FRM_LATCH captures the count at its instant (R169). -/
def Mach.frameLatch (m : Mach) (n : Fin 16) : Mach :=
  (m.wr (R.FE_FRM_LATCH n) 1).frameHold n (some (m.srcCount (m.frmSrc n)))

/-! ## The galvo path G (R158) -/

/-- The motion profile that holds at a fine tick. -/
def Field.profileAt (f : Field) (t : Nat) : Nat :=
  match f.segOn t with
  | some (s, _) => s.seg.mprof
  | none => match (f.pathSegs.filter fun s => decide (s.t0 ≤ t)).getLast? with
    | some s => s.seg.mprof
    | none => f.lastProf

/-- Kernel half-width N of a motion profile in fine ticks: 25 × GTW, at least 1 and clamped to HZ / 5
(R152, R158). -/
def Mach.profN (m : Mach) (n : Fin 16) (k : Nat) : Nat :=
  let hz := clampN 500 8000 (m.rd (R.FE_HORIZON n))
  25 * max 1 (min (m.rd (R.FE_PROF_GTW n k)) (hz / 5))

/-- Kernel half-width N of a plan at a fine tick. -/
def Mach.kernelN (m : Mach) (n : Fin 16) (f : Field) (t : Nat) : Nat := m.profN n (f.profileAt t)

/-- The segment whose prediction holds at an instant of the plan: the one on it, or the last before it. -/
def Field.segBy (f : Field) (t : Nat) : Option PSeg :=
  (f.pathSegs.filter fun s => decide (s.t0 ≤ t)).getLast?

/-- End of the path that is planned. -/
def Field.pathEnd (f : Field) : Nat := f.pathSegs.foldl (fun e s => max e (s.t0 + s.seg.dur)) 0

/-- The planned bed point P + F_p at an instant, with its focus offset; beyond the end of the plan, that of
its last point (R157, R158). -/
def Mach.bedOf (m : Mach) (n : Fin 16) (f : Field) (t : Nat) : Int × Int × Int :=
  let p := f.pathAt t
  match f.segBy t with
  | some s =>
    let d := m.framePredAt n s.frm (min t f.pathEnd)
    (p.1 + roundAway d.1 65536, p.2.1 + roundAway d.2 65536, p.2.2)
  | none => p

/-- Q of a plan at an instant of the kernel: at the galvo's rest before the start of the plan. -/
def Mach.kernelQ (m : Mach) (n : Fin 16) (f : Field) (t : Int) : Int × Int × Int :=
  match f.planFrom with
  | some t0 =>
    if t < t0 then m.correctAt n t.toNat (f.restX, f.restY, f.restZ)
    else m.correctAt n t.toNat (m.bedOf n f t.toNat)
  | none => m.correctAt n t.toNat (f.spotX, f.spotY, f.spotZ)

/-- Sum of 2N − 1 values weighted by the kernel, times N². -/
def kernelFold (N : Nat) (q : Int → Int × Int × Int) : Int × Int × Int :=
  (List.range (2 * N - 1)).foldl (fun (s : Int × Int × Int) (i : Nat) =>
    let j : Int := (i : Int) - ((N : Int) - 1)
    let w : Int := (N : Int) - j.natAbs
    let v := q j
    (s.1 + w * v.1, s.2.1 + w * v.2.1, s.2.2 + w * v.2.2)) (0, 0, 0)

/-- Sum of the weighted terms of the kernel about an instant, times N². -/
def Mach.kernelSum (m : Mach) (n : Fin 16) (f : Field) (t N : Nat) : Int × Int × Int :=
  kernelFold N fun j => m.kernelQ n f ((t : Int) + 80 * j)

/-- The mean of a kernel's sum. -/
def kernelMean (N : Nat) (s : Int × Int × Int) : Rat × Rat × Rat :=
  let d : Rat := (N : Rat) * N
  (s.1 / d, s.2.1 / d, s.2.2 / d)

/-- No correction has been in force about this instant: Q and G are 0 (R157). -/
def Field.noCor (f : Field) (t : Nat) : Bool := f.cor.isNone && (f.corPrev.isNone || decide (f.corSince + 3200000 < t))

/-- G before rounding at a fine tick of a plan: the smoothed path. -/
def Mach.smoothed (m : Mach) (n : Fin 16) (f : Field) (t : Nat) : Rat × Rat × Rat :=
  let N := m.kernelN n f t
  kernelMean N (m.kernelSum n f t N)

/-- G before rounding on a stop ramp: the ramp under the table in force; about a change of table, the
kernel leads from one table to the other (R132, R157). -/
def Mach.rampRaw (m : Mach) (n : Fin 16) (r : PSeg) (t : Nat) : Rat × Rat × Rat :=
  let f := m.fe[n]
  let p := r.pos (min (t - r.t0) r.seg.dur)
  let N := m.profN n f.lastProf
  if f.corSince ≠ 0 ∧ t < f.corSince + 80 * N ∧ f.corSince < t + 80 * N then
    kernelMean N (kernelFold N fun j => m.correctAt n ((t : Int) + 80 * j).toNat p)
  else
    let q := m.correctAt n t p
    ((q.1 : Rat), (q.2.1 : Rat), (q.2.2 : Rat))

/-- G before rounding at a fine tick: on the stop ramp, or the smoothed path. -/
def Mach.galvoRaw (m : Mach) (n : Fin 16) (t : Nat) : Rat × Rat × Rat :=
  let f := m.fe[n]
  if f.noCor t then (0, 0, 0)
  else
    match f.ramp, f.planFrom with
    | some r, none => m.rampRaw n r t
    | _, _ => m.smoothed n (f.live m.mt) t

/-- G at a fine tick, GU. -/
def Mach.galvo (m : Mach) (n : Fin 16) (t : Nat) : Int × Int × Int :=
  let g := m.galvoRaw n t
  (rroundAway g.1, rroundAway g.2.1, rroundAway g.2.2)

/-- G at any instant: linear between fine ticks. -/
def Mach.galvoAt (m : Mach) (n : Fin 16) (t : Nat) : Int × Int × Int :=
  let r := t % fineTick
  let a := m.galvo n (t - r)
  if r = 0 then a
  else
    let b := m.galvo n (t - r + fineTick)
    let l (x y : Int) : Int := roundAway (x * (fineTick - r : Nat) + y * r) fineTick
    (l a.1 b.1, l a.2.1 b.2.1, l a.2.2 b.2.2)

/-- Set-point velocity at an ST boundary, GU per ST, to the nearest 2^−8 (R158). -/
def Mach.galvoVel (m : Mach) (n : Fin 16) (s : Nat) : Rat × Rat × Rat :=
  let a := m.galvoRaw n (s + fineTick)
  let b := m.galvoRaw n (s - fineTick)
  let v (x y : Rat) : Rat := (rroundAway (25 * (x - y) / 2 * 256) : Rat) / 256
  (v a.1 b.1, v a.2.1 b.2.1, v a.2.2 b.2.2)

/-! ## Galvo samples (R164, R482) -/

/-- A code of the ADC in GU. -/
def codeGu (c : Code) : Int := c.toInt * 16

def clipped (c : Code) : Bool := c.toInt == -524288 || c.toInt == 524287

/-- A sample lies within SPL_GJUMP of the prediction from the last accepted one. -/
def Mach.plausible (m : Mach) (n : Fin 16) (gx gy : Int) : Bool :=
  let s := m.fe[n].spl
  match s.sampleAt with
  | none => true
  | some t0 =>
    let g := m.galvoAt n m.mt
    let h := m.galvoAt n t0
    let w := m.rd (R.FE_SPL_GJUMP n)
    decide ((gx - (s.gmx + g.1 - h.1)).natAbs ≤ w) && decide ((gy - (s.gmy + g.2.1 - h.2.1)).natAbs ≤ w)

/-- Every measured position lies within LOCKWIN of its set-point (R482). -/
def Mach.inLockWin (m : Mach) (n : Fin 16) (gx gy gz : Code) : Bool :=
  let g := m.galvo n (m.mt / servoTick * servoTick)
  let w := m.rd R.SAF_LOCKWIN
  decide ((codeGu gx - g.1).natAbs ≤ w) && decide ((codeGu gy - g.2.1).natAbs ≤ w) &&
  decide ((codeGu gz - g.2.2).natAbs ≤ w)

/-- The lock window is judged at ST boundaries (R482). -/
def Mach.trackLock (m : Mach) (n : Fin 16) (gx gy gz : Code) : Option Nat :=
  let s := m.fe[n].spl
  if m.mt % servoTick ≠ 0 then s.lockFrom
  else if m.inLockWin n gx gy gz then (match s.lockFrom with | some t => some t | none => some m.mt)
  else none

/-- The converters' codes of a sample, corrected, at the pins of the field. -/
def Mach.takeAdc (m : Mach) (n : Fin 16) (gx gy gz lpd : Code) : Mach :=
  { m with pins := m.pins.set n { m.pins[n] with
      gx := m.adcCorrect n 0 gx, gy := m.adcCorrect n 1 gy, gz := m.adcCorrect n 2 gz
      lpd := m.adcCorrect n 3 lpd } }

/-- A sample of the field's converters at a multiple of 400 ticks: late ones and bad ones are counted, and
not used.  Clipping is of the ADC code, before its correction (R164). -/
def Mach.galvoSample (m : Mach) (n : Fin 16) (gx gy gz lpd : Code) (avail : Nat) : Mach :=
  if m.mt % 400 ≠ 0 then m
  else
    let m := m.takeAdc n gx gy gz lpd
    let p := m.pins[n]
    let f := m.fe[n]
    let x := codeGu p.gx
    let y := codeGu p.gy
    let lock := m.trackLock n p.gx p.gy p.gz
    let late := decide (800 < avail)
    let bad := clipped gx || clipped gy || !m.plausible n x y
    let s := { f.spl with lockFrom := lock }
    let s := if late || bad then s else { s with sampleAt := some m.mt, gmx := x, gmy := y }
    let m := m.setField n { f with spl := s }
    let m := cond late (m.inc (R.FE_SPL_GLATE n)) m
    cond bad (m.inc (R.FE_SPL_GBAD n)) m

/-! ## Deflection (R160 to R166) -/

/-- Outputs of the field are in their fail-safe state: fail-safe, BOOT or SAFE (R25, R469). -/
def Mach.outSafe (m : Mach) (n : Nat) : Bool := m.inFs n || decide (m.mode ≤ modeSafe)

/-- W at an instant, µm (R162). -/
def Mach.wobble (m : Mach) (n : Fin 16) (t : Nat) : Rat × Rat :=
  let f := m.fe[n].live m.mt
  match f.entryOn t, f.segOn t with
  | some e, some (s, k) =>
    if !s.seg.laser || !s.seg.wobble then (0, 0)
    else
      match e.after.wstart with
      | none => (0, 0)
      | some tw =>
        let cs := trig (e.after.wfreq.toNat * (t - tw)) 800000000
        let cs2 := trig (2 * e.after.wfreq.toNat * (t - tw)) 800000000
        let v := s.vel k
        let l := isqrt ((v.1 * v.1 + v.2 * v.2).toNat * 2 ^ 80)
        let u : Rat × Rat := if l = 0 then (1, 0)
          else (((v.1 * 2 ^ 40 : Int) : Rat) / l, ((v.2 * 2 ^ 40 : Int) : Rat) / l)
        let nn : Rat × Rat := (-u.2, u.1)
        let A : Rat := (e.after.wamp.toNat : Rat) / 4
        let one : Rat := 2 ^ 96
        let c : Rat := cs.1 / one
        let sn : Rat := cs.2 / one
        let s2 : Rat := cs2.2 / one
        let mix (a b : Rat) : Rat × Rat := (A * (a * u.1 + b * nn.1), A * (a * u.2 + b * nn.2))
        match e.after.wshape.toNat with
        | 1 => mix c sn
        | 2 => mix 0 sn
        | 3 => mix sn 0
        | 4 => mix (s2 / 2) sn
        | _ => (0, 0)
  | _, _ => (0, 0)

/-- B_e of a frame at fine tick f, rounded to the BU (R163). -/
def Mach.frameBed (m : Mach) (n : Fin 16) (te : Nat) : Int × Int :=
  let p := (m.fe[n].live m.mt).pathAt te
  let f := m.frameF n
  let v := m.frameV n
  let d : Rat := ((te - m.mt : Nat) : Rat)
  (p.1 + rroundAway (((f.1 : Rat) + v.1 * d) / 65536), p.2.1 + rroundAway (((f.2 : Rat) + v.2 * d) / 65536))

/-- E of a frame, µm; `none` where no table is in force or its Jacobian has no inverse. -/
def Mach.deflection (m : Mach) (n : Fin 16) (te : Nat) : Option (Rat × Rat) :=
  let f := m.fe[n]
  match f.cor, f.spl.sampleAt with
  | some c, some ts =>
    let b := m.frameBed n te
    let q := c.eval b.1 b.2
    let g := m.galvoAt n te
    let h := m.galvoAt n ts
    let dx : Rat := ((q.1 - (f.spl.gmx + g.1 - h.1) : Int) : Rat)
    let dy : Rat := ((q.2.1 - (f.spl.gmy + g.2.1 - h.2.1) : Int) : Rat)
    let j := c.jacobian b.1 b.2
    let k : Rat := 2 ^ 82 * c.pitch
    let a : Rat := j.1.1 / k
    let bb : Rat := j.1.2 / k
    let cc : Rat := j.2.1 / k
    let d : Rat := j.2.2 / k
    let det := a * d - bb * cc
    if det = 0 then none
    else
      let w := m.wobble n te
      some ((d * dx - bb * dy) / det / 64 + w.1, (a * dy - cc * dx) / det / 64 + w.2)
  | _, _ => none

/-- A deflector code and whether it was clamped: `z` the zero code, `v` the deflection in codes, `r`
the codes of DRANGE. -/
def deflCode (z : Nat) (v : Int) (r : Nat) : Nat × Bool :=
  let c := (z : Int) + v
  let lo := max 0 ((z : Int) - r)
  let hi := min 65535 ((z : Int) + r)
  ((clampI lo hi c).toNat, decide (c < lo ∨ hi < c))

/-- CRC-8 of R172, one byte on. -/
def crc8Byte (c : Nat) (b : Nat) : Nat :=
  (List.range 8).foldl (fun c _ => if 128 ≤ c then (2 * c % 256) ^^^ 7 else 2 * c) (c ^^^ b)

/-- CRC-8 of a forward frame (R172). -/
def fdlCrc (x y : BitVec 16) (seq : Byte) : Byte :=
  BitVec.ofNat 8 ([x.toNat % 256, x.toNat / 256, y.toNat % 256, y.toNat / 256, seq.toNat].foldl crc8Byte 0)

/-- A forward frame leaves on time with words x and y (R58, R172). -/
def Mach.fdlSend (m : Mach) (n : Fin 16) (x y : BitVec 16) : Mach :=
  let f := m.fe[n]
  let s := f.spl
  { m with
    fe := m.fe.set n { f with spl := { s with seq := s.seq + 1, lastX := x, lastY := y, lateRun := 0 } }
    pins := m.pins.set n { m.pins[n] with fdlX := x, fdlY := y }
    out := .fdl n x y s.seq (fdlCrc x y s.seq) :: m.out }

/-- The words of a frame formed under R163, whether a code was clamped, and |E|. -/
structure FdlWords where
  x : BitVec 16
  y : BitVec 16
  clamped : Bool
  ex : Nat
  ey : Nat
  deriving DecidableEq, Repr

/-- Words of the forward frame for t_e; where R163 has no E the words are free values. -/
def Mach.fdlWords (m : Mach) (n : Fin 16) (te : Nat) : FdlWords :=
  match m.deflection n te with
  | none => ⟨BitVec.setWidth 16 (Config.freeWord m.free), BitVec.setWidth 16 (Config.freeWord (m.free + 1)), false, 0, 0⟩
  | some e =>
    let d (r : RF) : Rat := (m.rdS r : Rat) / 65536
    let vx := rroundAway (d (R.FE_FDL_M00 n) * e.1 + d (R.FE_FDL_M01 n) * e.2)
    let vy := rroundAway (d (R.FE_FDL_M10 n) * e.1 + d (R.FE_FDL_M11 n) * e.2)
    let rg := clampN 1 4096 (m.rd (R.FE_PROF_RANGE_DRANGE n ((m.fe[n].live m.mt).profileAt te)))
    let lim (r : RF) : Nat := (rroundAway (d r * rg)).natAbs
    let cx := deflCode (m.rd (R.FE_FDL_ZERO_ZX n)) vx (lim (R.FE_FDL_M00 n))
    let cy := deflCode (m.rd (R.FE_FDL_ZERO_ZY n)) vy (lim (R.FE_FDL_M11 n))
    ⟨BitVec.ofNat 16 cx.1, BitVec.ofNat 16 cy.1, cx.2 || cy.2, (rroundAway e.1).natAbs, (rroundAway e.2).natAbs⟩

/-- The largest laser-on deflections. -/
def Mach.notePeak (m : Mach) (n : Fin 16) (w : FdlWords) : Mach :=
  m.wrs [(R.FE_SPL_EPEAK_EX n, max (m.rd (R.FE_SPL_EPEAK_EX n)) (min w.ex 8191)),
         (R.FE_SPL_EPEAK_EY n, max (m.rd (R.FE_SPL_EPEAK_EY n)) (min w.ey 8191))]

/-- Clamped laser-on ticks and DEFLRANGE (R165). -/
def Mach.noteClamp (m : Mach) (n : Fin 16) (clamped : Bool) : Mach :=
  let f := m.fe[n]
  if clamped then
    let c := f.spl.clamped + 1
    let m := (m.setField n { f with spl := { f.spl with clamped := c } }).inc (R.FE_SPL_DSAT n)
    if m.rd (R.FE_SPL_DSATMAX n) < c then m.fieldFault n cDeflrange false false else m
  else m.setField n { f with spl := { f.spl with clamped := 0 } }

/-- The newest accepted sample is older than SPL_GAGE (R164). -/
def Mach.sampleOld (m : Mach) (n : Fin 16) : Bool :=
  match m.fe[n].spl.sampleAt with
  | none => true
  | some t => decide (t + m.rd (R.FE_SPL_GAGE n) < m.mt)

/-- The frame error is kept (R168). -/
def Mach.noteFrameErr (m : Mach) (n : Fin 16) : Mach :=
  match (m.fe[n].live m.mt).segOn m.mt with
  | some (s, _) =>
    let e := m.framePredErr n s.frm
    if m.rd (R.FE_FRM_ERRMAX n) < e then m.wr (R.FE_FRM_ERRMAX n) e else m
  | none => m

/-- A frame whose B_e lies outside the table area (R166). -/
def Mach.fdlOutside (m : Mach) (n : Fin 16) (on : Bool) : Mach :=
  let m := m.inc (R.FE_COR_OUT n)
  if on then m.fieldFault n cOutside false false else m

/-- The frame of a fine tick outside fail-safe, with the faults of the tick in order of code. -/
def Mach.fdlLive (m : Mach) (n : Fin 16) : Mach :=
  let te := m.mt + min (m.rd (R.FE_FDL_DLAT n)) 8000
  let on := m.fe[n].lasing m.mt
  let w := m.fdlWords n te
  let b := m.frameBed n te
  let out : Bool := match m.fe[n].cor with | some c => !c.inside b.1 b.2 | none => false
  let old := m.sampleOld n
  let used := (m.deflection n te).isNone
  let m := m.fdlSend n w.x w.y
  let m := if used then { m with free := m.free + 2 } else m
  let m := m.noteFrameErr n
  let m := if on then (m.notePeak n w).noteClamp n w.clamped else m
  let m := if old then m.fieldFault n cGmeas false true else m
  cond out (m.fdlOutside n on) m

/-- A frame with words x and y leaves where the link is on: zero deflection in fail-safe, none in BOOT or
with EN = 0 (R174). -/
def Mach.fdlPut (m : Mach) (n : Fin 16) (x y : BitVec 16) : Mach :=
  if m.rd (R.FE_FDL_CTRL_EN n) = 0 ∨ m.mode = modeBoot then m
  else if m.outSafe n then
    m.fdlSend n (BitVec.ofNat 16 (m.rd (R.FE_FDL_ZERO_ZX n))) (BitVec.ofNat 16 (m.rd (R.FE_FDL_ZERO_ZY n)))
  else m.fdlSend n x y

/-- A forward frame at a fine tick (R163, R172, R174). -/
def Mach.fdlFrame (m : Mach) (n : Fin 16) : Mach :=
  let f := m.fe[n]
  let m := m.setField n { f with spl := f.spl.noteCount m.mt (m.srcCount (m.frmSrc n)) }
  if m.mt % fineTick ≠ 0 ∨ m.rd (R.FE_FDL_CTRL_EN n) = 0 ∨ m.mode = modeBoot then m
  else if m.outSafe n then m.fdlPut n 0 0
  else m.fdlLive n

/-- A late deflector frame: the previous words and the next SEQ; more than 4 in a row fault (R58). -/
def Mach.fdlLate (m : Mach) (n : Fin 16) : Mach :=
  let s := m.fe[n].spl
  let m := m.fdlPut n s.lastX s.lastY
  let f := m.fe[n]
  let m := m.setField n { f with spl := { f.spl with lateRun := s.lateRun + 1 } }
  if 4 < m.fe[n].spl.lateRun then m.fieldFault n cFdllate false false else m

/-- A return frame of the deflector driver (R173). -/
def Mach.fdlReturn (m : Mach) (n : Fin 16) (ack stat : Byte) (crcOk : Bool) : Mach :=
  if !crcOk then m.inc (R.FE_FDL_BADRET n)
  else
    let bad := bits stat.toNat 3 0
    let rdy := bits stat.toNat 4 4
    let was := m.rd (R.FE_FDL_STATUS_BADRUN n)
    let up := min (m.rd (R.FE_FDL_BADFWD n) + (bad - was)) (2 ^ 32 - 1)
    let f := m.fe[n]
    let m := m.setField n { f with spl := { f.spl with lastReturn := some m.mt } }
    let m := m.wrs [(R.FE_FDL_BADFWD n, up), (R.FE_FDL_STATUS_LINK n, 1), (R.FE_FDL_STATUS_BADRUN n, bad),
      (R.FE_FDL_STATUS_READY n, rdy), (R.FE_FDL_STATUS_ACK n, ack.toNat)]
    if m.rd (R.FE_FDL_CTRL_RETEN n) = 1 ∧ (4 < bad ∨ (rdy = 0 ∧ m.mode = modeArmed)) then
      m.fieldFault n cFdllink false false
    else m

/-- No valid return frame has arrived within the last 16 fine ticks. -/
def Split.silent (s : Split) (t : Nat) : Bool :=
  match s.lastReturn with
  | none => true
  | some t0 => decide (t0 + 16 * fineTick ≤ t)

/-- No valid return frame for 16 fine ticks (R173). -/
def Mach.fdlTimeout (m : Mach) (n : Fin 16) : Mach :=
  if m.fe[n].spl.silent m.mt then
    let m := m.wr (R.FE_FDL_STATUS_LINK n) 0
    if m.rd (R.FE_FDL_CTRL_EN n) = 1 ∧ m.rd (R.FE_FDL_CTRL_RETEN n) = 1 then
      m.fieldFault n cFdllink false false
    else m
  else m

/-! ## Encoders (R171) -/

/-- Position of a quadrature level pair in its cycle. -/
def quadPos (a b : Bool) : Nat :=
  match a, b with
  | false, false => 0
  | true, false => 1
  | true, true => 2
  | false, true => 3

/-- An input that last changed at `at_` may have a qualified change now: its new level has been stable for
`w` ticks (R171, R222, log entry 113). -/
def Mach.qualified (m : Mach) (at_ : Option Nat) (w : Nat) : Bool :=
  match at_ with
  | none => true
  | some t => decide (t + max 1 w ≤ m.mt)

/-- The inputs of encoder `k` that change may do so now (R171). -/
def Mach.encQualified (m : Mach) (k : Fin 4) (a b : Bool) : Bool :=
  let old := m.enc.getD k (false, false)
  let t := m.encAt.getD k (none, none)
  let w := m.rd (R.AXE_ENC_CTRL_FILT k)
  (a == old.1 || m.qualified t.1 w) && (b == old.2 || m.qualified t.2 w)

/-- A qualified change of an encoder's inputs. -/
def Mach.encChange (m : Mach) (k : Fin 4) (a b : Bool) : Mach :=
  let old := m.enc.getD k (false, false)
  let m := { m with
    enc := modify m.enc k fun _ => (a, b)
    encAt := modify m.encAt k fun t => (if a = old.1 then t.1 else some m.mt, if b = old.2 then t.2 else some m.mt) }
  let sg : Int := if m.on (R.AXE_ENC_CTRL_INV k) then -1 else 1
  let count (d : Int) : Mach :=
    let c := unsigned 32 ((m.rd (R.AXE_ENC_CNT k) : Int) + sg * d)
    { (m.wr (R.AXE_ENC_CNT k) c) with
      encLog := modify m.encLog k fun l => ((m.mt, BitVec.ofNat 32 c) :: l).take 4096 }
  match m.rd (R.AXE_ENC_CTRL_MODE k) with
  | 1 =>
    match (quadPos a b + 4 - quadPos old.1 old.2) % 4 with
    | 0 => m
    | 1 => count 1
    | 3 => count (-1)
    | _ => (m.inc (R.AXE_ENC_ERR k)).frameFaults (1 + k)
  | 2 => if a && !old.1 then count (if b then 1 else -1) else m
  | _ => m

/-- A change of an encoder's inputs: a level that has not been stable for FILT ticks does not count (R171). -/
def Mach.encoder (m : Mach) (k : Fin 4) (a b : Bool) : Mach :=
  if m.encQualified k a b then m.encChange k a b else m

end Sys2Proof.Machine
end

