-- ==== Sys2Proof/Machine/Laser.lean ====
section
/-! DEFINITION. The laser channel: pool correction in effect, the power chain, gate edges, ready, alarm
and photodiode (07). -/
namespace Sys2Proof.Machine

/-! ## Histories -/

/-- G_int at an instant. -/
def Lch.gintAt' (l : Lch) (t : Nat) : Bool := inEffect false l.gintHist t

/-- G_int was high throughout [a, b]. -/
def Lch.gintHeld (l : Lch) (a b : Nat) : Bool :=
  l.gintAt' a && l.gintHist.all fun p => p.2 || decide (p.1 ≤ a ∨ b < p.1)

/-! ## Pool correction (R216, R217) -/

/-- K_pool at an instant, Q2.14: 1.0 before any value has been presented. -/
def Lch.kpoolAt (l : Lch) (t : Nat) : Nat := (inEffect (0x4000 : BitVec 16) l.kpool t).toNat

/-- K_eff at an instant, Q2.14 (R216). -/
def Lch.keff (l : Lch) (t : Nat) : Nat :=
  if l.poolMode = 0 then 16384
  else if l.nopool then l.knopool.toNat
  else if l.poolMode = 2 then l.khold.toNat
  else l.kpoolAt t

/-- The pool mode in force as registers and port 28 show it: 2 while NOPOOL applies. -/
def Lch.kmode (l : Lch) : Nat := if l.nopool then 2 else l.poolMode.toNat

/-- A SETPOOL with mode 1 and target 0 counts as mode 0 (R95, R217). -/
def poolModeOf (mode : BitVec 2) (target : BitVec 16) : BitVec 2 := if mode = 1 ∧ target = 0 then 0 else mode

/-- Pool settings come into force. -/
def Lch.setPool (l : Lch) (mode : BitVec 2) (stat : BitVec 4) (target : BitVec 16) (khold : BitVec 16) : Lch :=
  { l with poolMode := poolModeOf mode target, poolStat := stat, poolTarget := target, khold := khold }

/-- A target on the scale of port 33 (R233). -/
def poolScale (stat : Nat) (target : Nat) : Rat :=
  if stat = 0 then (target * 4096 : Nat) / 2 ^ 28
  else if stat = 3 then (target : Rat) / 2 ^ 12
  else (target : Rat) / 2 ^ 16

/-! ## The power chain (R215) -/

/-- K_eff at a past instant, from what stood at the front then. -/
def Lch.keffAt (l : Lch) (s : Snap) (t : Nat) : Nat :=
  if s.mode = 0 then 16384
  else if s.nopool then s.knopool.toNat
  else if s.mode = 2 then s.khold.toNat
  else l.kpoolAt t

/-- What stood at the emission front at an instant. -/
def Field.snapAt (f : Field) (t : Nat) : Snap :=
  (f.hist.find? fun s => decide (s.at_ ≤ t)).getD ⟨0, 0, none, 0, 0, false, 0x4000, 0x4000, 0, 0⟩

/-- The segment emitted or planned at an instant, and the ticks into it. -/
def Mach.segThen (m : Mach) (n : Fin 16) (t : Nat) : Option (PSeg × Nat) :=
  let f := m.fe[n]
  if t < m.mt then (f.trailOn t).filter fun p => decide (t < p.1.t0 + p.1.seg.dur) && decide (t ≤ p.1.t0 + p.2)
  else (f.live m.mt).segOn t

/-- Planned power fraction at an instant, of 65,535. -/
def Mach.planPower (m : Mach) (n : Fin 16) (t : Nat) : Int :=
  match m.segThen n t with
  | some (s, k) => if s.seg.laser then s.pow k else m.rd (R.FE_LCH_IDLE n)
  | none => m.rd (R.FE_LCH_IDLE n)

/-- PLEAD, at most 8,000 ticks. -/
def Mach.plead (m : Mach) (n : Fin 16) : Nat := min (m.rd (R.FE_LCH_PLEAD n)) 8000

/-- The ledger factor in effect, Q1.15; 1.0 when LFEN is 0. -/
def Mach.ledgerFactor (m : Mach) (n : Fin 16) : Nat :=
  if m.rdf (R.FE_LCH_CTRL_LFEN n) = 1 then m.rd (R.FE_LCH_LFAC n) else 32768

/-- The ledger factor in effect at an instant, Q1.15. -/
def Lch.factAt (l : Lch) (t : Nat) : Nat := inEffect 32768 l.facts t

/-- The ledger factor in effect may have changed. -/
def Mach.noteFact (m : Mach) (n : Fin 16) : Mach :=
  let f := m.fe[n]
  m.setField n { f with lch := { f.lch with facts := (m.mt, m.ledgerFactor n) :: keepHist m.mt f.lch.facts } }

/-- The re-entry ramp factor at an instant (R485). -/
def Lch.rho (l : Lch) (t : Nat) : Rat :=
  match l.rampAt with
  | none => 1
  | some t0 => if l.rampLen = 0 ∨ t < t0 then 1 else min 1 (((t - t0 : Nat) : Rat) / l.rampLen)

/-- The chain code for a planned power and factors (R215). -/
def Mach.chainOf (m : Mach) (n : Fin 16) (p : Int) (fl k : Nat) (rho : Rat) : Int :=
  rroundEven ((m.rdf (R.FE_LCH_FS n) : Rat) * p / 65535 * fl / 32768 * k / 16384 * rho)

/-- c_chain at this instant, with the factors in effect now. -/
def Mach.chain (m : Mach) (n : Fin 16) : Int :=
  let l := m.fe[n].lch
  m.chainOf n (m.planPower n (m.mt + m.plead n)) (m.ledgerFactor n) (l.keff m.mt) (l.rho m.mt)

/-- The output code of a code (R215). -/
def Mach.outCode (m : Mach) (n : Fin 16) (c : Int) : Int := min (max c 0) (m.rdf (R.FE_LCH_LIMIT n))

/-- A code is presented on LPWR_n through the clamp; code 0 in fail-safe (R215, R469). -/
def Mach.presentPower (m : Mach) (n : Fin 16) (c : Int) : Mach :=
  let o := if m.outSafe n then 0 else m.outCode n c
  let f := m.fe[n]
  let g := if !m.outSafe n && o != c && f.lch.gintAt' m.mt then rinc m.regs (R.FE_LCH_CLAMPN n) else m.regs
  { m with
    fe := m.fe.set n { f with lch := { f.lch with coutHist := (m.mt, o.toNat) :: keepHist m.mt f.lch.coutHist } }
    pins := m.pins.set n { m.pins[n] with lpwr := BitVec.ofInt 20 o }
    regs := rwr g (R.FE_LCH_COUT n) o.toNat }

/-- The code of a direct-mode update now: the planned power PLEAD ahead, and the factors in effect 400
ticks ago (R218, R237). -/
def Mach.directCode (m : Mach) (n : Fin 16) : Int :=
  let f := m.fe[n]
  let u := m.mt - 400
  m.chainOf n (m.planPower n (m.mt + m.plead n)) (f.lch.factAt u) (f.lch.keffAt (f.snapAt u) u) (f.lch.rho u)

/-- A direct-mode update at a multiple of 400 ticks (R218). -/
def Mach.directPower (m : Mach) (n : Fin 16) : Mach :=
  if m.mt % 400 ≠ 0 ∨ m.rdf (R.FE_LCH_CTRL_PMODE n) = 1 then m
  else (m.presentPower n (m.directCode n)).wr (R.FE_LCH_PWRMISS n) 0

/-- A direct update misses its deadline; the third miss in a row faults (R218). -/
def Mach.directMiss (m : Mach) (n : Fin 16) : Mach :=
  let c := m.rd (R.FE_LCH_PWRMISS n) + 1
  let m := m.wr (R.FE_LCH_PWRMISS n) (min c 3)
  if c = 3 then m.fieldFault n 0x33 false false else m

/-! ## Held registers (R220) -/

/-- PMODE, FS, LIMIT and LFEN come into force as they stand. -/
def Mach.lchForce (m : Mach) (n : Fin 16) : Mach :=
  { m with
    regs := rwr m.regs (R.FE_LCH_STATUS_PEND n) 0
    force := [R.FE_LCH_CTRL_PMODE n, R.FE_LCH_CTRL_LFEN n, R.FE_LCH_FS n, R.FE_LCH_LIMIT n].foldl
      (fun g r => rwr g r (rrd m.regs r)) m.force }

/-- The held writes of PMODE, FS, LIMIT and LFEN act; on a change to TRIM code 0 is presented until the
slot's first output (R218). -/
def Mach.lchApply (m : Mach) (n : Fin 16) : Mach :=
  let was := m.rdf (R.FE_LCH_CTRL_PMODE n)
  let m := (m.lchForce n).noteFact n
  if was = 0 ∧ m.rdf (R.FE_LCH_CTRL_PMODE n) = 1 then m.presentPower n 0 else m

/-- After a write of one of them: held while a context is ACTIVE, else in force at once. -/
def Mach.lchHold (m : Mach) (n : Fin 16) : Mach :=
  if m.fe[n].active then m.wr (R.FE_LCH_STATUS_PEND n) 1 else m.lchApply n

/-! ## Gate (R209 to R213) -/

/-- SAF, the interlock and the alarm permit the gate of a field (R213). -/
def Mach.gatePermit (m : Mach) (n : Fin 16) : Bool :=
  m.saf.ilkA && m.saf.ilkB && m.mode == modeArmed && !m.inFs n && m.rd R.SAF_GSTAT_CAUSE == 0 &&
  !m.fe[n].lch.alm

/-- The gate stage's output changes: the pins follow where every term permits. -/
def Mach.presentGate (m : Mach) (n : Fin 16) (g l : Bool) : Mach :=
  let p := m.gatePermit n
  m.setGatePins n (g && p) (l && p) (if g && !m.pins[n].lgate then m.mt else m.pins[n].rise)

/-- The gate terms of a field go away: both pins low at once. -/
def Mach.gateLow (m : Mach) (n : Fin 16) : Mach := m.setGatePins n false false m.pins[n].rise

/-- The gate terms of every field go away (R476). -/
def Mach.allGatesLow (m : Mach) : Mach :=
  (List.finRange 16).foldl (fun (m : Mach) (n : Fin 16) => m.gateLow n) m

/-- The level of LMOD_n at an instant (R214). -/
def Mach.lmodLevel (m : Mach) (n : Fin 16) (t : Nat) : Bool :=
  let p := m.pins[n]
  let per := max 20 (m.rd (R.FE_LCH_MPER n))
  let k := (t - p.rise) % per
  match m.rd (R.FE_LCH_CTRL_MMODE n) with
  | 1 => p.lmod
  | 2 =>
    let hi := m.rd (R.FE_LCH_MHI n)
    let hi := if hi = 0 then 1 else if per ≤ hi then per - 1 else hi
    p.lmod && decide (k < hi)
  | 3 =>
    let c := inEffect 0 m.fe[n].lch.coutHist (t - k)
    p.lmod && decide ((k : Int) < rroundEven ((per * c : Nat) / 524288))
  | _ => false

/-- The gate edges of a run: the rising edge, the falling edge, and whether an edge was moved or the
pulse dropped (R210, R212). -/
def Mach.gateEdges (m : Mach) (n : Fin 16) (a b : Nat) : Option (Nat × Nat) × Bool :=
  let on := min 800 (m.rd (R.FE_LCH_GADV_GONADV n))
  let off := min 800 (m.rd (R.FE_LCH_GADV_GOFFADV n))
  if b - a = 0 then (none, false)
  else if b - a + on ≤ off then (none, true)
  else
    let r := a - on
    let f := b - off
    let low := max 1 (m.rd (R.FE_LCH_MINLOW n))
    match m.fe[n].lch.lastFall with
    | some l => if r < l + low then
        (if l + low < f then (some (l + low, f), true) else (none, true)) else (some (r, f), false)
    | none => (some (r, f), false)

/-! ## Ready, alarm, photodiode (R222 to R225) -/

/-- LRDY_n may have a qualified change now: its level has been stable for QUAL ticks (R222). -/
def Mach.rdyQualified (m : Mach) (n : Fin 16) : Bool := m.qualified m.fe[n].lch.rdyAt (m.rd (R.FE_LCH_QUAL n))

/-- LALM_n may have a qualified change now (R222). -/
def Mach.almQualified (m : Mach) (n : Fin 16) : Bool := m.qualified m.fe[n].lch.almAt (m.rd (R.FE_LCH_QUAL n))

/-- LALM_n, qualified, becomes active (R222, R223). -/
def Mach.laserAlarm (m : Mach) (n : Fin 16) : Mach :=
  let f := m.fe[n]
  if !m.almQualified n then m
  else
    let m := (m.setField n { f with lch := { f.lch with alm := true, almAt := some m.mt } }).gateLow n
    (m.wr (R.FE_LCH_STATUS_ALM n) 1).fieldFault n cLalm false false

/-- LALM_n, qualified, returns to its inactive level (R222, R223). -/
def Mach.laserAlarmOff (m : Mach) (n : Fin 16) : Mach :=
  let f := m.fe[n]
  if !m.almQualified n then m
  else (m.setField n { f with lch := { f.lch with alm := false, almAt := some m.mt } }).wr (R.FE_LCH_STATUS_ALM n) 0

/-- A qualified change of LRDY_n (R222, R224). -/
def Mach.laserReady (m : Mach) (n : Fin 16) (active : Bool) : Mach :=
  let f := m.fe[n]
  let was := f.lch.rdy
  if !m.rdyQualified n then m
  else
    let m := (m.setField n { f with lch := { f.lch with rdy := active, rdyAt := some m.mt } }).wr
      (R.FE_LCH_STATUS_RDY n) (bool01 active)
    if was && !active && f.lch.gintAt' m.mt then m.fieldFault n cLrdy false false else m

/-- The photodiode reference at this instant, codes (R225). -/
def Mach.pdref (m : Mach) (n : Fin 16) : Rat := (m.chain n : Rat) * m.rd (R.FE_LCH_PDK n) / 16384

/-- The check of an ST boundary is made (R225). -/
def Mach.pdChecked (m : Mach) (n : Fin 16) : Bool :=
  m.mt % servoTick == 0 && servoTick ≤ m.mt && m.rd (R.FE_LCH_PDCHK_PDN n) != 0 &&
  m.fe[n].lch.gintHeld (m.mt - servoTick) (m.mt - 1) &&
  decide ((m.rd (R.FE_LCH_PDCHK_PDMIN n) : Int) ≤ m.chain n)

/-- The LPD code lies outside its window. -/
def Mach.pdFails (m : Mach) (n : Fin 16) : Bool :=
  let c : Rat := (m.pins[n].lpd.toInt : Rat)
  let r := m.pdref n
  decide (c < r * m.rd (R.FE_LCH_PDLIM_PDLO n) / 16384) || decide (r * m.rd (R.FE_LCH_PDLIM_PDHI n) / 16384 < c)

/-- The photodiode check of an ST boundary (R225). -/
def Mach.pdCheck (m : Mach) (n : Fin 16) : Mach :=
  if !m.pdChecked n then m
  else if m.pdFails n then
    let c := m.rd (R.FE_LCH_STATUS_PDCNT n) + 1
    let m := m.wr (R.FE_LCH_STATUS_PDCNT n) (min c 255)
    if c = m.rd (R.FE_LCH_PDCHK_PDN n) then m.fieldFault n cPddev false false else m
  else m.wr (R.FE_LCH_STATUS_PDCNT n) 0

end Sys2Proof.Machine
end

