-- ==== Sys2Proof/Machine/Loop.lean ====
section
/-! DEFINITION. Tykai-C: block floating point, the instructions of a loop program, and its execution
on a set of registers (06). -/
namespace Sys2Proof.Machine

/-! ## Block floating point (R184 to R188) -/

/-- 2 to an integer power. -/
def pow2 (e : Int) : Rat := if 0 ≤ e then 2 ^ e.toNat else 1 / 2 ^ (-e).toNat

/-- The all-zero block. -/
def Blk.zero : Blk := ⟨List.replicate 8 0, -128⟩

/-- Magnitude of a rational. -/
def rabs (q : Rat) : Rat := if q < 0 then -q else q

/-- Mantissa of a lane. -/
def Blk.lane (b : Blk) (j : Nat) : Int := b.m.getD j 0

/-- Value of a lane: m × 2^(e − 23). -/
def Blk.val (b : Blk) (j : Nat) : Rat := (b.lane j : Rat) * pow2 (b.e - 23)

/-- Bits of a natural number. -/
def bitLen (n : Nat) : Nat := if n = 0 then 0 else Nat.log2 n + 1

/-- A term: value a × 2^(E − 46). -/
structure Term where
  a : Int
  e : Int
  deriving DecidableEq, Repr

/-- An operand lane as a term (R185). -/
def Blk.term (b : Blk) (j : Nat) : Term := ⟨b.lane j * 2 ^ 23, b.e⟩

/-- A product of lanes as a term (R185). -/
def prodTerm (x y : Blk) (j : Nat) : Term := ⟨x.lane j * y.lane j, x.e + y.e⟩

def Term.neg (t : Term) : Term := ⟨-t.a, t.e⟩

/-- Arithmetic shift right. -/
def sar (a : Int) (k : Nat) : Int := a / 2 ^ k

/-- Division by 2^k rounded to nearest, ties to even. -/
def divEven (a : Int) (k : Nat) : Int :=
  let q := a / 2 ^ k
  let r := a % 2 ^ k
  if k = 0 then a
  else if r < 2 ^ (k - 1) then q
  else if 2 ^ (k - 1) < r then q + 1
  else if q % 2 = 0 then q else q + 1

/-- Mantissas at a shift: exact for a negative shift, else rounded. -/
def mantissas (r : List Int) (sh : Int) : List Int :=
  if sh ≤ 0 then r.map (· * 2 ^ (-sh).toNat) else r.map (divEven · sh.toNat)

/-- Renormalization of lane sums with stage exponent E, and whether AOVF is set (R186, R187). -/
def renorm (r : List Int) (E : Int) : Blk × Bool :=
  let big := r.foldl (fun n x => max n x.natAbs) 0
  if big = 0 then (Blk.zero, false)
  else
    let sh : Int := (bitLen big : Int) - 23
    let sh := if (mantissas r sh).any (· == 2 ^ 23) then sh + 1 else sh
    let e := E - 23 + sh
    if 127 < e then
      (⟨r.map fun x => if 0 < x then 2 ^ 23 - 1 else if x < 0 then -2 ^ 23 else 0, 127⟩, true)
    else if e < -128 then (⟨mantissas r (-128 - E + 23), -128⟩, false)
    else (⟨mantissas r sh, e⟩, false)

/-- A stage: each lane's terms, the guard (R185). -/
def stage (g : Nat) (lanes : List (List Term)) : Blk × Bool :=
  let E := lanes.foldl (fun e ts => ts.foldl (fun e t => max e t.e) e) (-1000) + g
  renorm (lanes.map fun ts => ts.foldl (fun s t => s + sar t.a (E - t.e).toNat) 0) E

/-- Lane j is in a mask. -/
def inMask (mask j : Nat) : Bool := bits mask j j == 1

/-- A stage on the lanes of a mask; other lanes of D keep their values as one-term lanes (R188). -/
def maskStage (g mask : Nat) (d : Blk) (f : Nat → List Term) : Blk × Bool :=
  if mask % 256 = 0 then (d, false)
  else stage g ((List.range 8).map fun j => if inMask mask j then f j else [d.term j])

/-- A rational value as a normalized term; bits below 2^−46 of it are dropped. -/
def ratTerm (v : Rat) : Term :=
  if v = 0 then ⟨0, -128⟩
  else
    let e0 : Int := (bitLen v.num.natAbs : Int) - (bitLen v.den : Int)
    let e := if rabs v < pow2 e0 then e0 else e0 + 1
    ⟨rfloor (v * pow2 (46 - e)), e⟩

/-- A block of exact rational lanes, rounded once under R186 and R187. -/
def roundBlk (vs : List Rat) : Blk × Bool :=
  let big := vs.foldl (fun n x => max n (rabs x)) 0
  if big = 0 then (Blk.zero, false)
  else
    let e := (ratTerm big).e
    let ms (e : Int) : List Int := vs.map fun v => rroundEven (v * pow2 (23 - e))
    let e := if (ms e).any (· == 2 ^ 23) then e + 1 else e
    if 127 < e then
      (⟨vs.map fun x => if 0 < x then 2 ^ 23 - 1 else if x < 0 then -2 ^ 23 else 0, 127⟩, true)
    else let e := max e (-128); (⟨ms e, e⟩, false)

/-! ## Instructions (R189, R190) -/

/-- A Tykai-C word's fields. -/
structure CIns where
  opc : Nat
  d : Nat
  a : Nat
  b : Nat
  md : Nat
  mask : Nat
  deriving DecidableEq, Repr

def cFields (w : Nat) : CIns :=
  ⟨bits w 31 26, bits w 25 21, bits w 20 16, bits w 15 11, bits w 10 8, bits w 7 0⟩

/-- The port number of a port-format word. -/
def CIns.port (i : CIns) : Nat := 32 * i.a + i.b

/-- COST of an instruction (R190). -/
def CIns.cost (i : CIns) : Nat := if i.opc = 1 then 0 else if i.opc = 0x11 ∨ i.opc = 0x12 then 2 else 1

/-- A defined opcode with no undefined bit set (R183, check 2). -/
def CIns.defined (i : CIns) : Bool :=
  if i.opc = 1 then i.d == 0 && i.a == 0 && i.b == 0 && i.md == 0 && i.mask == 0
  else if i.opc = 2 ∨ i.opc = 3 then i.md == 0
  else if i.opc = 0x12 then decide (i.md < 4)
  else decide (4 ≤ i.opc ∧ i.opc ≤ 0x11)

/-- Register numbers: V, K and S. -/
def isV (r : Nat) : Bool := decide (r < 16)
def isK (r : Nat) : Bool := decide (16 ≤ r ∧ r < 24)
def isS (r : Nat) : Bool := decide (24 ≤ r)

/-- Register operands obey the opcode table (R183, check 3, for one instruction). -/
def CIns.regsOk (i : CIns) : Bool :=
  if i.opc = 1 then true
  else if i.opc = 2 ∨ i.opc = 3 then isV i.d
  else if i.opc = 0x04 ∨ i.opc = 0x0E then !isK i.d && i.b == 0
  else if i.opc = 0x0F then i.d == 0
  else if i.opc = 0x11 then isS i.d && isV i.a && isK i.b && i.b != 23
  else if i.opc = 0x12 then !isK i.d && isV i.a && i.b == 0
  else !isK i.d

/-- Destination register of an instruction. -/
def CIns.dest (i : CIns) : Option Nat :=
  if i.opc = 1 ∨ i.opc = 3 ∨ i.opc = 0x0F then none else some i.d

/-- INT state registers are named as D by that INT alone (R183, check 3). -/
def intsOk (p : List CIns) : Bool :=
  (indexed p).all fun x => x.2.opc != 0x11 ||
    (indexed p).all fun y => x.1 == y.1 || y.2.dest != some x.2.d

/-! ## Execution -/

/-- Registers of an execution (R184), its outputs and flags. -/
structure CRun where
  v : List Blk
  k : List Blk
  s : List Blk
  c : List Nat
  /-- SAT of the integrators on S0 to S7. -/
  sat : List Nat
  outs : List (Nat × Rat)
  aovf : Bool
  deriving DecidableEq, Repr

/-- Reads a register. -/
def CRun.reg (x : CRun) (r : Nat) : Blk :=
  if r < 16 then x.v.getD r Blk.zero
  else if r < 24 then x.k.getD (r - 16) Blk.zero
  else x.s.getD (r - 24) Blk.zero

/-- Writes a working or state register with a stage's result. -/
def CRun.set (x : CRun) (r : Nat) (b : Blk × Bool) : CRun :=
  if r < 16 then { x with v := modify x.v r fun _ => b.1, aovf := x.aovf || b.2 }
  else { x with s := modify x.s (r - 24) fun _ => b.1, aovf := x.aovf || b.2 }

/-- A feed-forward table bound to a slot: exponent and entries. -/
structure TabRef where
  exp : Int
  t : List Int
  deriving DecidableEq, Repr

/-- The value of a table at x, as a term (R200). -/
def TabRef.at' (t : TabRef) (x : Rat) : Term :=
  let g (i : Nat) : Int := t.t.getD i 0
  let u := (x + 1) * 512
  let fl := rfloor u
  let i := (clampI 0 1023 fl).toNat
  let f := rfloor ((u - i) * 65536)
  let v : Int := if x < -1 then g 0 * 65536
    else if 1023 ≤ i then g 1023 * 65536
    else g i * 65536 + f * (g (i + 1) - g i)
  ⟨v * 2 ^ 7, t.exp⟩

/-- |lane| as a term. -/
def Blk.absTerm (b : Blk) (j : Nat) : Term := ⟨((b.lane j).natAbs : Int) * 2 ^ 23, b.e⟩

/-- A limited to −|B| … |B| as a term (CLAMP). -/
def clampTerm (a b : Blk) (j : Nat) : Term :=
  if rabs (b.val j) < a.val j then b.absTerm j
  else if a.val j < -rabs (b.val j) then (b.absTerm j).neg
  else a.term j

/-- INT: the first stage with its limit and SAT, then the gain (R191). -/
def CRun.int (x : CRun) (i : CIns) : CRun :=
  let sd := x.reg i.d
  let va := x.reg i.a
  let g := x.reg i.b
  let l := x.reg (i.b + 1)
  if i.mask = 0 then x
  else
    let t := maskStage 1 i.mask sd fun j => [sd.term j, va.term j]
    let past (j : Nat) : Bool := inMask i.mask j && decide (rabs (l.val j) < rabs (t.1.val j))
    let s := maskStage 0 i.mask t.1 fun j => [clampTerm t.1 l j]
    let mark (n : Nat) : Nat := (List.range 8).foldl
      (fun n j => if inMask i.mask j then putBits n j j (bool01 (past j)) else n) n
    let y := { (x.set i.d s) with sat := modify x.sat (i.d - 24) mark, aovf := x.aovf || t.2 || s.2 }
    let o := x.reg i.md
    y.set i.md (maskStage 0 i.mask o fun j => [prodTerm g s.1 j])

/-- One instruction but END: `inp` gives the value of an input port, `tabs` the four bindings. -/
def CRun.exec (inp : Nat → Rat) (tabs : List (Option TabRef)) (x : CRun) (i : CIns) : CRun :=
  let d := x.reg i.d
  let a := x.reg i.a
  let b := x.reg i.b
  let one (g : Nat) (f : Nat → List Term) : CRun := x.set i.d (maskStage g i.mask d f)
  match i.opc with
  | 0x02 => one 0 fun j => [ratTerm (inp (i.port + j))]
  | 0x03 =>
    let f (l : List (Nat × Rat)) (j : Nat) : List (Nat × Rat) :=
      if inMask i.mask j then (i.port + j, d.val j) :: l else l
    { x with outs := (List.range 8).foldl f x.outs }
  | 0x04 => one 0 fun j => [a.term j]
  | 0x05 => one 1 fun j => [a.term j, b.term j]
  | 0x06 => one 1 fun j => [a.term j, (b.term j).neg]
  | 0x07 => one 0 fun j => [prodTerm a b j]
  | 0x08 => one 1 fun j => [d.term j, prodTerm a b j]
  | 0x09 => one 1 fun j => [d.term j, (prodTerm a b j).neg]
  | 0x0A =>
    if i.mask = 0 then x
    else
      let ts := ((List.range 8).filter (inMask i.mask)).map (prodTerm a b)
      x.set i.d (stage 3 ((List.range 8).map fun j => if j = i.md then ts else [d.term j]))
  | 0x0B => one 0 fun j => [if b.val j < a.val j then b.term j else a.term j]
  | 0x0C => one 0 fun j => [if a.val j < b.val j then b.term j else a.term j]
  | 0x0D => one 0 fun j => [clampTerm a b j]
  | 0x0E => one 0 fun _ => [a.term i.md]
  | 0x0F =>
    let f (n j : Nat) : Nat := if inMask i.mask j && decide (a.val j < b.val j) then n + 2 ^ j else n
    if i.mask = 0 then x else { x with c := modify x.c i.md fun _ => (List.range 8).foldl f 0 }
  | 0x10 => one 0 fun j => [if inMask (x.c.getD i.md 0) j then a.term j else b.term j]
  | 0x11 => x.int i
  | 0x12 => one 0 fun j => [match tabs.getD i.md none with
      | some t => t.at' (a.val j)
      | none => ⟨0, -128⟩]
  | _ => x

/-- The registers at the start of an execution (R184). -/
def CRun.start (k s : List Blk) (sat : List Nat) : CRun :=
  { v := List.replicate 16 Blk.zero, k := k, s := s, c := List.replicate 8 0, sat := sat, outs := []
    aovf := false }

/-- Runs a program up to its END. -/
def CRun.prog (inp : Nat → Rat) (tabs : List (Option TabRef)) : List CIns → CRun → CRun
  | [], x => x
  | i :: t, x => if i.opc = 1 then x else CRun.prog inp tabs t (x.exec inp tabs i)

/-- The output of OUT to a port: the value in the port's unit, and whether it saturated (R193). -/
def outConv (port : Nat) (v : Rat) : Rat × Bool :=
  let c (s : Rat) (lo hi : Int) : Rat × Bool :=
    let r := rroundEven (v * s)
    ((clampI lo hi r : Rat), decide (r < lo ∨ hi < r))
  if 512 ≤ port ∧ port ≤ 515 then c 524288 (-524288) 524287
  else if port = 528 then c 16384 0 65535
  else if 544 ≤ port ∧ port ≤ 547 then c 16777216 (-2147483648) 2147483647
  else (v, false)

end Sys2Proof.Machine
end

