-- ==== Sys2Proof/Machine/Stage.lean ====
section
/-! DEFINITION. Edge stages: queues, arrival, lateness (02). -/
namespace Sys2Proof.Machine

/-- An edge stage; a stage never used is empty. -/
def stageOf (l : List (Edge × Stage)) (e : Edge) : Stage := (l.lookup e).getD ⟨[], [], none⟩

/-- The stages with one replaced. -/
def stageSet (l : List (Edge × Stage)) (e : Edge) (s : Stage) : List (Edge × Stage) :=
  match l with
  | [] => [(e, s)]
  | p :: t => if p.1 = e then (e, s) :: t else p :: stageSet t e s

def Mach.stage (m : Mach) (e : Edge) : Stage := stageOf m.stages e

def Mach.setStage (m : Mach) (e : Edge) (s : Stage) : Mach := { m with stages := stageSet m.stages e s }

/-- Entries of a stage's queue (R56). -/
def stageDepth : Edge → Nat
  | .gate _ => 32
  | .step _ => 16
  | .cyc _ => 2
  | _ => 4

/-- Class of an output (R58). -/
def edgeClass : Edge → Nat
  | .gate _ => 0
  | .lpwr _ | .gxc _ | .gyc _ | .gzc _ => 1
  | .fdl _ => 2
  | .step _ => 3
  | .trig _ => 4
  | .cyc _ => 5

/-- Field, slice, port or axis number of an output: DAC slices 4n + i (R463). -/
def edgeInst : Edge → Nat
  | .gate n => n
  | .gxc n => 4 * n
  | .gyc n => 4 * n + 1
  | .gzc n => 4 * n + 2
  | .lpwr n => 4 * n + 3
  | .fdl n => n
  | .step a => a
  | .trig p => p
  | .cyc p => p

/-- An entry due earlier than the last one queued is an order violation (R55). -/
def Stage.violates (s : Stage) (due : Nat) : Bool :=
  match s.lastDue with
  | none => false
  | some d => decide (due < d)

/-- An entry is queued: it replaces one with the same due instant; a full queue holds the writer (R55,
R56). -/
def Stage.push (s : Stage) (depth : Nat) (e : EdgeEntry) : Stage :=
  if s.q.any (·.due == e.due) then
    { s with q := s.q.map fun x => if x.due = e.due then e else x }
  else if s.q.length < depth then { s with q := s.q ++ [e], lastDue := some e.due }
  else { s with held := s.held ++ [e] }

/-- An entry enters a stage. -/
def Mach.pushEdge (m : Mach) (e : Edge) (due : Nat) (v : EdgeVal) : Mach :=
  m.setStage e ((m.stage e).push (stageDepth e) ⟨due, v⟩)

/-- An entry arrives late at this instant (R57). -/
def Mach.isLate (m : Mach) (due : Nat) : Bool := decide (due < m.mt + 40)

/-- A late entry is counted and raised (R58). -/
def Mach.noteLate (m : Mach) (cls inst : Nat) (order : Bool) : Mach :=
  let m := (m.inc (R.TIM_LATE cls)).wrs
    [(R.TIM_LATE_LAST_CLASS, cls), (R.TIM_LATE_LAST_ORDER, bool01 order), (R.TIM_LATE_LAST_INST, inst)]
  m.raise 20 0 inst (m.rd (R.TIM_LATE cls))

/-- A camera trigger of the module enters its stage; one due before the last queued is late by order (R55,
R58, R110, R291). -/
def Mach.trigPush (m : Mach) (p : Fin 20) (due : Nat) : Mach :=
  if (m.stage (.trig p)).violates due then m.noteLate 4 p true else m.pushEdge (.trig p) due .pulse

end Sys2Proof.Machine
end

