-- ==== Sys2Proof/Machine/Ce.lean ====
section
/-! DEFINITION. The control engine: slots, their checks, samples, executions, swaps, the loop library and
the windows (06, 07). -/
namespace Sys2Proof.Machine

def Mach.setSlot (m : Mach) (s : Fin 160) (x : Slot) : Mach := { m with slot := m.slot.set s x }

/-- The slot is in RUN. -/
def Mach.runs (m : Mach) (s : Nat) : Bool := m.rd (R.CE_SLOT_STATUS_STATE s) == 1

/-- Number of a slot's field, 16 and above for none. -/
def Mach.slotField (m : Mach) (s : Nat) : Nat := m.rd (R.CE_SLOT_CFG_FIELD s)

def Mach.frameSlot (m : Mach) (s : Nat) : Bool := m.on (R.CE_SLOT_CFG_FRM s)

/-! ## Programs (R189, R190, R204) -/

/-- Instructions from word `i` up to the first END, which comes last; `none` without an END. -/
def Mach.progFrom (m : Mach) (s : Nat) : Nat → Nat → Option (List CIns)
  | 0, _ => none
  | k + 1, i =>
    let c := cFields (m.rd (R.CE_PROG s i))
    if c.opc = 1 then some [c] else (m.progFrom s k (i + 1)).map (c :: ·)

/-- The program of a slot (R183, check 1). -/
def Mach.slotProg (m : Mach) (s : Nat) : Option (List CIns) := m.progFrom s 256 0

/-- Ports that an instruction names. -/
def CIns.ports (i : CIns) : List Nat := ((List.range 8).filter (inMask i.mask)).map (i.port + ·)

/-- Input and output ports of a program. -/
def inPorts (p : List CIns) : List Nat := p.flatMap fun i => if i.opc = 2 then i.ports else []
def outPorts (p : List CIns) : List Nat := p.flatMap fun i => if i.opc = 3 then i.ports else []

def isIn (p : Nat) : Bool :=
  decide (p ≤ 3 ∨ (8 ≤ p ∧ p ≤ 10) ∨ (12 ≤ p ∧ p ≤ 14) ∨ (16 ≤ p ∧ p ≤ 19) ∨ (24 ≤ p ∧ p ≤ 67))

def isOut (p : Nat) : Bool :=
  decide ((512 ≤ p ∧ p ≤ 515) ∨ (520 ≤ p ∧ p ≤ 523) ∨ p = 528 ∨ (544 ≤ p ∧ p ≤ 547))

/-- Field ports (R192). -/
def isFieldPort (p : Nat) : Bool :=
  decide (p ≤ 15 ∨ (24 ≤ p ∧ p ≤ 63) ∨ (512 ≤ p ∧ p ≤ 515) ∨ p = 528)

/-- A tuning value of a slot's active bank, or the register where none has been applied. -/
def Mach.tuned (m : Mach) (s : Fin 160) (i : Nat) : Nat :=
  match m.slot[s].tune.getD (m.rd (R.CE_SLOT_STATUS_ACTBANK s)) none with
  | some l => l.getD i 0
  | none => m.rd (R.CE_SLOT_TUNE s i)

/-- Axis of a galvo program: TUNE_7, at most 2. -/
def Mach.libAxis (m : Mach) (s : Fin 160) : Nat := min 2 (m.tuned s 7)

/-- COST of a library program (R204). -/
def libCost (l : Nat) : Nat := if l = 1 then 32 else if l = 2 then 64 else if l = 3 then 12 else 26

/-- Ports that a library program reads and writes (R204, R234, R235). -/
def libIns (l ax : Nat) : List Nat :=
  if l = 1 then [ax, 16, 12 + ax] else if l = 2 then [ax, 8 + ax, 12 + ax]
  else if l = 3 then [3, 24, 25, 16] else [32, 26, 28, 47, 33]

def libOuts (l ax : Nat) : List Nat :=
  if l = 1 then [512 + ax] else if l = 2 then [520] else if l = 3 then [515] else [520, 528]

/-- Input ports of a slot. -/
def Mach.slotIns (m : Mach) (s : Fin 160) : List Nat :=
  match m.slot[s].lib with
  | some l => libIns l (m.libAxis s)
  | none => ((m.slotProg s).map inPorts).getD []

/-- Output ports of a slot. -/
def Mach.slotOuts (m : Mach) (s : Fin 160) : List Nat :=
  match m.slot[s].lib with
  | some l => libOuts l (m.libAxis s)
  | none => ((m.slotProg s).map outPorts).getD []

/-- COST of a slot's program. -/
def Mach.slotCost (m : Mach) (s : Fin 160) : Nat :=
  match m.slot[s].lib with
  | some l => libCost l
  | none => ((m.slotProg s).map fun p => p.foldl (fun n i => n + i.cost) 0).getD 0

/-! ## Start checks (R183) -/

/-- Check 4 for one port. -/
def Mach.portOk (m : Mach) (s : Fin 160) (p : Nat) (out : Bool) : Bool :=
  (if out then isOut p else isIn p) &&
  (!isFieldPort p || decide (m.slotField s < 16)) &&
  (!decide (32 ≤ p ∧ p ≤ 63) || m.frameSlot s)

/-- Another slot in RUN writes the port of the same field. -/
def Mach.portTaken (m : Mach) (s : Fin 160) (p : Nat) : Bool :=
  isFieldPort p && (List.finRange 160).any fun t =>
    t != s && m.runs t && m.slotField t == m.slotField s && (m.slotOuts t).contains p

/-- Load of one slot, 1/64 stage-operation per ST. -/
def Mach.loadOf (m : Mach) (s : Nat) (cost : Nat) : Nat :=
  let per := max 1 (if m.frameSlot s then m.rd (R.CE_SLOT_LAT_MINPER s) else m.rd (R.CE_SLOT_CFG_PER s))
  (cost * 64 + per - 1) / per

/-- Static load of a core over its slots in RUN. -/
def Mach.coreLoad (m : Mach) (c : Nat) : Nat :=
  (List.range 160).foldl (fun n t =>
    if m.runs t && m.rd (R.CE_SLOT_CFG_CORE t) == c then n + m.loadOf t (m.rd (R.CE_SLOT_COST t)) else n) 0

/-- Check 6. -/
def Mach.timesOk (m : Mach) (s : Nat) : Bool :=
  let per := m.rd (R.CE_SLOT_CFG_PER s)
  let l := m.rd (R.CE_SLOT_LAT_L s)
  decide (1 ≤ per ∧ per ≤ 64 ∧ m.rd (R.CE_SLOT_CFG_PHASE s) < per ∧ 400 ≤ l) &&
  (if m.frameSlot s then decide (l ≤ 8000 ∧ m.slotField s < 16) else decide (l ≤ per * servoTick))

/-- The binding of a nest input: outer slot and its output, where enabled. -/
def Mach.binding (m : Mach) (s i : Nat) : Option (Nat × Nat) :=
  let h := i / 2
  if i % 2 = 0 then
    (if m.on (R.CE_SLOT_NEST_EN_A s h) then
      some (m.rd (R.CE_SLOT_NEST_OSLOT_A s h), m.rd (R.CE_SLOT_NEST_OPORT_A s h)) else none)
  else
    (if m.on (R.CE_SLOT_NEST_EN_B s h) then
      some (m.rd (R.CE_SLOT_NEST_OSLOT_B s h), m.rd (R.CE_SLOT_NEST_OPORT_B s h)) else none)

def Mach.bindings (m : Mach) (s : Nat) : List (Nat × Nat) := (List.range 4).filterMap (m.binding s)

/-- Slots of the longest chain of outer slots that ends at a slot, up to `k`: bindings of slots in RUN
and of the slot that starts. -/
def Mach.chainUp (m : Mach) (s0 : Nat) : Nat → Nat → Nat
  | 0, _ => 1
  | k + 1, s =>
    if s = s0 ∨ m.runs s then 1 + (m.bindings s).foldl (fun n b => max n (m.chainUp s0 k b.1)) 0 else 1

/-- Slots of the longest chain of inner slots in RUN from a slot on, up to `k`. -/
def Mach.chainDown (m : Mach) : Nat → Nat → Nat
  | 0, _ => 1
  | k + 1, s => 1 + (List.range 160).foldl (fun n t =>
      if m.runs t && (m.bindings t).any (·.1 == s) then max n (m.chainDown k t) else n) 0

/-- Check 7: nesting rules (R198). -/
def Mach.nestOk (m : Mach) (s : Nat) : Bool :=
  let bs := m.bindings s
  bs.isEmpty ||
  (!m.frameSlot s &&
   bs.all (fun b => decide (b.1 < 160) &&
     (m.frameSlot b.1 || m.rd (R.CE_SLOT_CFG_PER b.1) % max 1 (m.rd (R.CE_SLOT_CFG_PER s)) == 0)) &&
   decide (m.chainUp s 4 s + m.chainDown 4 s ≤ 4))

/-- The first failing check of START, 0 when all pass. -/
def Mach.startErr (m : Mach) (s : Fin 160) : Nat :=
  let p := m.slotProg s
  let lib := m.slot[s].lib.isSome
  let ins := (p.getD [])
  let c := m.rd (R.CE_SLOT_CFG_CORE s)
  if !lib && p.isNone then 1
  else if !lib && !ins.all CIns.defined then 2
  else if !lib && !(ins.all CIns.regsOk && intsOk ins) then 3
  else if !((m.slotIns s).all (m.portOk s · false) && (m.slotOuts s).all (m.portOk s · true)) ||
    (m.slotOuts s).any (m.portTaken s) then 4
  else if 65536 < m.coreLoad c + m.loadOf s (m.slotCost s) then 5
  else if !m.timesOk s then 6
  else if !m.nestOk s then 7 else 0

/-- CFGERR: a command or write is refused (R178, R182). -/
def Mach.slotRefuse (m : Mach) (s : Nat) : Mach := m.wr (R.CE_SLOT_STATUS_CFGERR s) 1

/-- The loads of a core as its register shows them. -/
def Mach.showLoad (m : Mach) (c : Nat) : Mach := m.wr (R.CE_CORE_LOAD c) (m.coreLoad c)

/-- START (R182, R183). -/
def Mach.slotStart (m : Mach) (s : Fin 160) : Mach :=
  if m.runs s then m.slotRefuse s
  else
    let e := m.startErr s
    let m := m.wr (R.CE_SLOT_STATUS_LOADERR s) e
    if e ≠ 0 then m.raise 72 0 s 0
    else
      let m := m.wrs [(R.CE_SLOT_COST s, m.slotCost s), (R.CE_SLOT_STATUS_STATE s, 1)]
      let from' := (List.range 4).map fun i => match m.binding s i with
        | some b => if m.runs b.1 then 0 else m.mt
        | none => 0
      (m.setSlot s { m.slot[s] with firstTk := m.mt + 4000, lastTk := none, stopAt := none, nestFrom := from' }).showLoad
        (m.rd (R.CE_SLOT_CFG_CORE s))

/-- STOP: it acts at the next sample instant (R182). -/
def Mach.slotStop (m : Mach) (s : Fin 160) : Mach :=
  if m.runs s then m.setSlot s { m.slot[s] with stopAt := some m.mt } else m.slotRefuse s

/-- STOP acts: DAC outputs go to code 0 at t_k + L, LPWR only where the slot drives it (R218), and inner slots
lose their outer loop (R182, R199). -/
def Mach.slotHalt (m : Mach) (s : Fin 160) : Mach :=
  let n := m.slotField s
  let due := m.mt + m.rd (R.CE_SLOT_LAT_L s)
  let ps := m.slotOuts s
  let bound := (List.range 160).any fun t => m.runs t && (m.bindings t).any (·.1 == s.val)
  let m := m.wr (R.CE_SLOT_STATUS_STATE s) 0
  let m := m.showLoad (m.rd (R.CE_SLOT_CFG_CORE s))
  let m := m.setSlot s { m.slot[s] with stopAt := none }
  let m := if h : n < 16 then
      let f : Fin 16 := ⟨n, h⟩
      let put (p : Nat) (e : Edge) (m : Mach) : Mach := if ps.contains p then m.pushEdge e due (.dac 0) else m
      let lp := m.rdf (R.FE_LCH_CTRL_PMODE f) == 1
      (if lp then put 515 (.lpwr f) else id) (put 514 (.gzc f) (put 513 (.gyc f) (put 512 (.gxc f) m)))
    else m
  if bound then m.raise 76 0 s 0 else m

/-! ## Coefficient banks (R202, R203) -/

/-- A block held in registers: mantissas and exponent. -/
def Mach.blkAt (m : Mach) (mant : Nat → RF) (ex : RF) : Blk :=
  ⟨(List.range 8).map fun j => m.rdS (mant j), m.rdS ex⟩

def Mach.bank (m : Mach) (s b : Nat) : List Blk :=
  (List.range 8).map fun k => m.blkAt (R.CE_BANKM s b k) (R.CE_BANKE s b k)

def Mach.sregs (m : Mach) (s : Nat) : List Blk :=
  (List.range 8).map fun k => m.blkAt (R.CE_SREGM s k) (R.CE_SREGE s k)

/-- A state register is written. -/
def Mach.putSreg (m : Mach) (s k : Nat) (b : Blk) : Mach :=
  m.wrs ((List.range 8).map (fun j => (R.CE_SREGM s k j, unsigned 24 (b.lane j))) ++
    [(R.CE_SREGE s k, unsigned 8 b.e)])

/-- State registers that changed are written. -/
def Mach.putSregs (m : Mach) (s : Nat) (old new : List Blk) : Mach :=
  (List.range 8).foldl (fun (m : Mach) (k : Nat) =>
    if old.getD k Blk.zero = new.getD k Blk.zero then m else m.putSreg s k (new.getD k Blk.zero)) m

/-- A lane of an integrator's state is rescaled: S × G_o / G_n, or S where a gain is 0. -/
def rescaleVal (sv go gn : Rat) : Rat := if go = 0 ∨ gn = 0 then sv else sv * go / gn

/-- An integrator's state at a swap: rescaled, then limited; the lanes at the limit, and whether a stage
saturated (R203, R187). -/
def rescale (sd go gn ln : Blk) : Blk × List Bool × Bool :=
  let moved := (List.range 8).any fun j => go.val j ≠ 0 && gn.val j ≠ 0
  let r := if moved then roundBlk ((List.range 8).map fun j => rescaleVal (sd.val j) (go.val j) (gn.val j))
    else (sd, false)
  let past := (List.range 8).map fun j => decide (rabs (ln.val j) < rabs (r.1.val j))
  let c := if past.any id then stage 0 ((List.range 8).map fun j => [clampTerm r.1 ln j]) else (r.1, false)
  (c.1, past, r.2 || c.2)

/-- What a swap leaves: state registers, SAT of each, AOVF. -/
structure SwapOut where
  s : List Blk
  sats : List Nat
  aovf : Bool
  deriving DecidableEq, Repr

/-- Every INT of the program updates its state register, in every lane (R203). -/
def swapInts (o n : List Blk) (p : List CIns) (x : SwapOut) : SwapOut :=
  p.foldl (fun (x : SwapOut) (i : CIns) =>
    if i.opc ≠ 0x11 then x
    else
      let k := i.d - 24
      let b := i.b - 16
      let r := rescale (x.s.getD k Blk.zero) (o.getD b Blk.zero) (n.getD b Blk.zero) (n.getD (b + 1) Blk.zero)
      { s := modify x.s k fun _ => r.1
        sats := modify x.sats k fun v => (List.range 8).foldl (fun v j => if r.2.1.getD j false then putBits v j j 1 else v) v
        aovf := x.aovf || r.2.2 }) x

/-- STATUS.SAT: bit j is SAT of lane j in any INT of the slot (R205). -/
def satWord (l : List Nat) : Nat := l.foldl (· ||| ·) 0

/-- A signed Q8.24 word. -/
def q824 (w : Nat) : Rat := (signed 32 w : Rat) / 16777216

def clampR (lo hi x : Rat) : Rat := if x < lo then lo else if hi < x then hi else x

/-- The integral state of POOL limited to ±(kmax − kmin) of the new bank (R203, R234). -/
def poolLimit (t : Option (List Nat)) (s : Rat) : Rat :=
  match t with
  | some l =>
    let lim := q824 (l.getD 3 0) - q824 (l.getD 2 0)
    clampR (-lim) lim s
  | none => s

/-- The swap acts (R202, R203). -/
def Mach.swapNow (m : Mach) (s : Fin 160) : Mach :=
  let a := m.rd (R.CE_SLOT_STATUS_ACTBANK s)
  let ss := m.sregs s
  let x := m.slot[s]
  let p := if x.lib.isSome then [] else (m.slotProg s).getD []
  let r := swapInts (m.bank s a) (m.bank s (1 - a)) p ⟨ss, x.sats, false⟩
  let m := (m.putSregs s ss r.s).wrs
    [(R.CE_SLOT_STATUS_SAT s, satWord r.sats), (R.CE_SLOT_STATUS_ACTBANK s, 1 - a), (R.CE_SLOT_STATUS_SWPEND s, 0),
     (R.CE_SLOT_SWAP_REQ s, 0), (R.CE_SLOT_STATUS_AOVF s, max (m.rd (R.CE_SLOT_STATUS_AOVF s)) (bool01 r.aovf))]
  let m := if r.aovf then m.raiseOnce 74 0 s 0 else m
  m.setSlot s { x with swapReq := none, sats := r.sats, libS := poolLimit (x.tune.getD (1 - a) none) x.libS }

/-- A swap is requested; in a slot that is OFF it takes effect at once (R202). -/
def Mach.swapRequest (m : Mach) (s : Fin 160) : Mach :=
  if m.on (R.CE_SLOT_STATUS_SWPEND s) then m
  else if m.runs s then
    (m.setSlot s { m.slot[s] with swapReq := some m.mt }).wrs
      [(R.CE_SLOT_STATUS_SWPEND s, 1), (R.CE_SLOT_SWAP_REQ s, 1)]
  else m.swapNow s

/-- A pending swap acts at a sample at least 400 ticks after its request. -/
def Mach.swapAt (m : Mach) (s : Fin 160) : Mach :=
  match m.slot[s].swapReq with
  | some t => if t + 400 ≤ m.mt then m.swapNow s else m
  | none => m

/-! ## Inputs (R192, R199, R233) -/

/-- Value of a nest input at this instant: the newest output presented; a free value where no binding
is enabled. -/
def Mach.nestIn (m : Mach) (s : Fin 160) (i : Nat) : Rat :=
  match m.binding s i with
  | none => Config.freeRat (m.free + i)
  | some b =>
    if h : b.1 < 160 then
      let from' := m.slot[s].nestFrom.getD i 0
      match m.slot[(⟨b.1, h⟩ : Fin 160)].nout.find? fun o =>
          o.port == 520 + b.2 && decide (o.due ≤ m.mt ∧ from' ≤ o.due) with
      | some o => o.val
      | none => 0
    else 0

/-- Statistic of a record by the statistic code, on the scale of port 33. -/
def PoolRec.statVal (r : PoolRec) (k : Nat) : Rat :=
  if k = 0 then (r.sum : Rat) / 2 ^ 28
  else if k = 1 then (r.areaA : Rat) / 2 ^ 16
  else if k = 2 then (r.areaB : Rat) / 2 ^ 16
  else (r.peak : Rat) / 2 ^ 12

/-- Ports 32 to 63 of a record (R233). -/
def PoolRec.port (r : PoolRec) (p : Nat) : Rat :=
  if p = 32 then (if r.inv = 0 then 1 else 0)
  else if p = 33 then r.statVal r.stat
  else if p = 34 then r.statVal 0
  else if p = 35 then r.statVal 1
  else if p = 36 then r.statVal 2
  else if p = 37 then r.statVal 3
  else if p = 38 then (r.cx : Rat) / 2 ^ 8
  else if p = 39 then (r.cy : Rat) / 2 ^ 8
  else if p = 40 then (r.mxx : Rat) / 2 ^ 14
  else if p = 41 then (r.myy : Rat) / 2 ^ 14
  else if p = 42 then (r.mxy : Rat) / 2 ^ 14
  else if p = 43 then (r.nsat : Rat) / 2 ^ 16
  else if p = 44 then (r.pplan : Rat) / 65535
  else if p = 45 then (r.keff : Rat) / 16384
  else if p = 46 then (r.inv.toNat : Rat)
  else if p = 47 then poolScale r.stat r.target
  else ((List.range 4).foldl (fun n i => n + r.hist.getD (4 * (p - 48) + i) 0) 0 : Nat) / 2 ^ 16

/-- Field ports at this instant. -/
def Mach.fieldIn (m : Mach) (n : Fin 16) (p : Nat) : Rat :=
  let st := m.mt / servoTick * servoTick
  let l := m.fe[n].lch
  if p = 0 then (m.pins[n].gx.toInt : Rat) / 2 ^ 19
  else if p = 1 then (m.pins[n].gy.toInt : Rat) / 2 ^ 19
  else if p = 2 then (m.pins[n].gz.toInt : Rat) / 2 ^ 19
  else if p = 3 then (m.pins[n].lpd.toInt : Rat) / 2 ^ 19
  else if p = 8 then ((m.galvo n st).1 : Rat) / 2 ^ 23
  else if p = 9 then ((m.galvo n st).2.1 : Rat) / 2 ^ 23
  else if p = 10 then ((m.galvo n st).2.2 : Rat) / 2 ^ 23
  else if p = 12 then (m.galvoVel n st).1 / 2 ^ 23
  else if p = 13 then (m.galvoVel n st).2.1 / 2 ^ 23
  else if p = 14 then (m.galvoVel n st).2.2 / 2 ^ 23
  else if p = 24 then (m.chain n : Rat) / 2 ^ 19
  else if p = 25 then m.pdref n / 2 ^ 19
  else if p = 26 then (if l.gintAt' m.mt then 1 else 0)
  else if p = 27 then poolScale l.poolStat.toNat l.poolTarget.toNat
  else if p = 28 then (l.kmode : Rat)
  else if p = 29 then (l.keff m.mt : Rat) / 16384
  else if p = 30 then (m.ledgerFactor n : Rat) / 32768
  else if p = 31 then (l.kpoolAt m.mt : Rat) / 16384
  else 0

/-- An input port of a slot at this instant (R192). -/
def Mach.portIn (m : Mach) (s : Fin 160) (r : Option PoolRec) (p : Nat) : Rat :=
  if 16 ≤ p ∧ p ≤ 19 then m.nestIn s (p - 16)
  else if 64 ≤ p then (m.rdS (R.CE_SLOT_PARAM s (p - 64)) : Rat) / 16777216
  else if 32 ≤ p then (match r with | some r => r.port p | none => 0)
  else if h : m.slotField s < 16 then m.fieldIn ⟨m.slotField s, h⟩ p
  else 0

/-! ## Samples (R179 to R182) -/

/-- The inputs of a slot as of this instant. -/
def Mach.sampleIns (m : Mach) (s : Fin 160) (r : Option PoolRec) : Sparse Rat :=
  (m.slotIns s).foldl (fun (l : Sparse Rat) (p : Nat) => sput l p (m.portIn s r p)) []

/-- The due instant of a sample (R194). -/
def Mach.slotDue (m : Mach) (s : Nat) : Nat :=
  let u := m.mt + m.rd (R.CE_SLOT_LAT_L s)
  if m.frameSlot s && m.on (R.CE_SLOT_CFG_ALIGN s) then ceilTo servoTick u else u

/-- A sample instant of a slot: a swap that is due acts; then a STOP acts, or the inputs are taken (R181,
R182, R202). -/
def Mach.takeSample (m : Mach) (s : Fin 160) (r : Option PoolRec) : Mach :=
  let m := m.swapAt s
  if m.slot[s].stopAt.isSome then m.slotHalt s
  else
    let e : ExecRec := { tk := m.mt, ready := if m.frameSlot s then m.mt else m.mt + 240
                         due := m.slotDue s, inputs := m.sampleIns s r }
    let x := m.slot[s]
    { (m.setSlot s { x with exec := x.exec ++ [e], lastTk := some m.mt }) with free := m.free + 4 }

/-- This instant is a sample instant of a periodic slot (R179). -/
def Mach.sampleDue (m : Mach) (s : Fin 160) : Bool :=
  let per := m.rd (R.CE_SLOT_CFG_PER s) * servoTick
  m.runs s && !m.frameSlot s && decide (m.slot[s].firstTk ≤ m.mt) &&
  m.mt % max per 1 == m.rd (R.CE_SLOT_CFG_PHASE s) * servoTick % max per 1 && m.slot[s].lastTk != some m.mt

/-- A sample instant of a periodic slot (R179). -/
def Mach.slotSample (m : Mach) (s : Fin 160) : Mach := if m.sampleDue s then m.takeSample s none else m

/-- Slots of a core with executions, each with its oldest one. -/
def Mach.coreQueue (m : Mach) (c : Nat) : List (Fin 160 × ExecRec) :=
  (List.finRange 160).filterMap fun (s : Fin 160) =>
    if m.rd (R.CE_SLOT_CFG_CORE s) = c then m.slot[s].exec.head?.map (s, ·) else none

/-- Instant since which a core is free of earlier executions. -/
def Mach.coreFree (m : Mach) (c : Nat) : Nat :=
  (List.finRange 160).foldl (fun (n : Nat) (s : Fin 160) => if m.rd (R.CE_SLOT_CFG_CORE s) = c then max n m.slot[s].doneAt else n) 0

/-- The slot whose execution a core runs: the one with the earliest deadline among those ready when the
core became free and able to start by their deadlines (R181). -/
def Mach.coreRuns (m : Mach) (c : Nat) : Option (Fin 160) :=
  let free := m.coreFree c
  let q := (m.coreQueue c).filter fun p => decide (max free p.2.ready + 40 ≤ p.2.due)
  match q with
  | [] => none
  | h :: t =>
    let start := max free (t.foldl (fun n p => min n p.2.ready) h.2.ready)
    if m.mt < start then none
    else
      ((q.filter fun p => decide (p.2.ready ≤ start)).foldl
        (fun (b : Option (Fin 160 × ExecRec)) p => match b with
          | none => some p
          | some x => if p.2.due < x.2.due then some p else some x) none).map (·.1)

/-- The newest execution of a slot has not started. -/
def Mach.unstarted (m : Mach) (s : Fin 160) : Bool :=
  match m.slot[s].exec with
  | [] => false
  | [_] => m.coreRuns (m.rd (R.CE_SLOT_CFG_CORE s)) != some s
  | _ => true

/-- A record gives a frame-triggered slot a sample instant; it replaces an unstarted one (R180). -/
def Mach.frameSample (m : Mach) (s : Fin 160) (r : PoolRec) : Mach :=
  if m.unstarted s && m.slot[s].stopAt.isNone then
    let x := m.slot[s]
    ((m.setSlot s { x with exec := x.exec.dropLast }).inc (R.CE_SLOT_MISS_FRSKIP s)).takeSample s (some r)
  else m.takeSample s (some r)

/-- A record is delivered to every frame-triggered slot of its field in RUN (R180). -/
def Mach.deliverRec (m : Mach) (n : Fin 16) (r : PoolRec) : Mach :=
  (List.finRange 160).foldl (fun (m : Mach) (s : Fin 160) =>
    if m.runs s && m.frameSlot s && m.slotField s == n.val && decide (m.slot[s].firstTk ≤ m.mt) then
      m.frameSample s r else m) m

/-! ## Executions (R181, R195, R196) -/

/-- A table as an execution sees it. -/
def Mach.tableOf (m : Mach) (s k : Nat) : Option TabRef :=
  let p : RF × RF := match k with
    | 0 => (R.CE_SLOT_TAB_EN0 s, R.CE_SLOT_TAB_T0 s)
    | 1 => (R.CE_SLOT_TAB_EN1 s, R.CE_SLOT_TAB_T1 s)
    | 2 => (R.CE_SLOT_TAB_EN2 s, R.CE_SLOT_TAB_T2 s)
    | _ => (R.CE_SLOT_TAB_EN3 s, R.CE_SLOT_TAB_T3 s)
  let t := m.rd p.2
  if m.on p.1 ∧ t < 96 then
    some ⟨m.rdS (R.CE_TAB_EXP t), (List.range 1024).map fun i => m.rdS (R.CE_TABLE t i)⟩
  else none

/-- What an execution leaves: outputs in order, state, SAT, AOVF, and the library's own state. -/
structure ExecOut where
  outs : List (Nat × Rat)
  s : List Blk
  sat : List Nat
  aovf : Bool
  slot : Slot
  /-- Free values used. -/
  used : Nat
  deriving DecidableEq, Repr

/-- An execution of a program of the slot's windows. -/
def Mach.runProg (m : Mach) (s : Fin 160) (e : ExecRec) : ExecOut :=
  let p := (m.slotProg s).getD []
  let used := p.any (·.opc == 0x12)
  let tabs := if used then (List.range 4).map (m.tableOf s) else []
  let x := CRun.prog (fun q => sget (fun _ => 0) e.inputs q) tabs p
    (CRun.start (m.bank s (m.rd (R.CE_SLOT_STATUS_ACTBANK s))) (m.sregs s) m.slot[s].sats)
  ⟨x.outs.reverse, x.s, x.sat, x.aovf, m.slot[s], 0⟩

/-- POOL (R234) on the tuning values of the active bank, or of the registers where none has been applied;
TPER acts as at least 8,000 (R227). -/
def Mach.runPool (m : Mach) (s : Fin 160) (e : ExecRec) : List (Nat × Rat) × Slot :=
  let x := m.slot[s]
  let inp (p : Nat) : Rat := sget (fun _ => 0) e.inputs p
  let g := q824 (m.tuned s 0)
  let ti := m.tuned s 1
  let kmin := q824 (m.tuned s 2)
  let kmax := q824 (m.tuned s 3)
  let tper : Rat := (max 8000 (m.rd (R.IMG_PP_TPER (m.slotField s))) : Nat)
  let ki : Rat := if ti = 0 then 0 else g * (tper / 800) / ti
  let use := inp 32 == 1 && inp 26 == 1 && inp 28 == 1
  let er := inp 47 - inp 33
  let s' := if use then clampR (-(kmax - kmin)) (kmax - kmin) (x.libS + ki * er) else x.libS
  let k := if use then clampR kmin kmax (1 + g * er + s') else x.libK
  ([(528, k), (520, k)], { x with libS := s', libK := k })

/-- LASER_PD (R235): c_chain × (1 + trim).  The trim integrates LPD − PDREF with the gain that TUNE_0's bandwidth
gives (Config.pdGain), within ±TUNE_1, and is held where NIN0 changed. -/
def Mach.runPd (m : Mach) (s : Fin 160) (e : ExecRec) : List (Nat × Rat) × Slot :=
  let x := m.slot[s]
  let inp (p : Nat) : Rat := sget (fun _ => 0) e.inputs p
  let lim : Rat := (m.tuned s 1 : Rat) / 65536
  let trim := if inp 16 = x.libNin then
      clampR (-lim) lim (x.libTrim + Config.pdGain (m.tuned s 0) * (inp 3 - inp 25)) else x.libTrim
  ([(515, inp 24 * (1 + trim))], { x with libNin := inp 16, libTrim := trim })

/-- An execution of a library program: GALVO_VI and GALVO_POS give free values within their limits. -/
def Mach.runLib (m : Mach) (s : Fin 160) (e : ExecRec) (l : Nat) : ExecOut :=
  let x := m.slot[s]
  let o : List (Nat × Rat) × Slot :=
    match l with
    | 1 =>
      let v := Config.freeRat m.free
      let lim : Rat := match x.tune.getD (m.rd (R.CE_SLOT_STATUS_ACTBANK s)) none with
        | some t => (t.getD 2 0 : Rat) / 65536
        | none => 1
      ([(512 + m.libAxis s, clampR (-lim) lim v)], x)
    | 2 => ([(520, Config.freeRat m.free)], x)
    | 3 => m.runPd s e
    | _ => m.runPool s e
  ⟨o.1, m.sregs s, m.slot[s].sats, false, o.2, 1⟩

/-- An execution runs to END. -/
def Mach.runExec (m : Mach) (s : Fin 160) (e : ExecRec) : ExecOut :=
  match m.slot[s].lib with
  | some l => m.runLib s e l
  | none => m.runProg s e

/-- Slack of an execution, Q0.10 (R61). -/
def slackOf (e : ExecRec) (t : Nat) : Nat :=
  if e.due < t + 40 then 0 else min 1023 ((e.due - 40 - t) * 1024 / max 1 (e.due - 40 - e.tk))

/-- The worst slack and miss of a core in this management tick (R62). -/
def Mach.noteSlack (m : Mach) (c sl : Nat) (miss : Bool) : Mach :=
  { m with tim := { m.tim with worst := modify m.tim.worst c fun w => (min w.1 sl, w.2 || miss) } }

/-- PWR raises VCORE to 0.85 V without waiting for MS (R23). -/
def Mach.fastRaise (m : Mach) : Mach :=
  { (m.setVcore 850) with env := { (m.setVcore 850).env with govCount := 0 } }

/-- The slot drives a galvo. -/
def Mach.servoSlot (m : Mach) (s : Fin 160) : Bool :=
  (m.slotOuts s).any fun p => p == 512 || p == 513 || p == 514

/-- CONSEC reaches K: LOOPMISS, or source 75 and a stop (R196). -/
def Mach.loopMiss (m : Mach) (s : Fin 160) : Mach :=
  if h : m.slotField s < 16 then
    (m.setSlot s { m.slot[s] with missed := true }).fieldFault ⟨m.slotField s, h⟩ cLoopmiss false (m.servoSlot s)
  else
    let m := m.setSlot s { m.slot[s] with stopAt := some (m.slot[s].stopAt.getD m.mt) }
    m.raise 75 0 s 0

/-- INST of a slot's late execution: the converter slice that the slot's first DAC port drives, or the slot's
number where it drives none (R58, R64; DESIGN CHOICE, log entry 112). -/
def Mach.slotInst (m : Mach) (s : Fin 160) : Nat :=
  match (m.slotOuts s).find? fun p => decide (512 ≤ p ∧ p ≤ 515) with
  | some p => 4 * m.slotField s + (p - 512)
  | none => s

/-- A miss: flags, counters and sources (R58, R195, R196). -/
def Mach.slotMiss (m : Mach) (s : Fin 160) (order : Bool) : Mach :=
  let c := m.rd (R.CE_SLOT_CFG_CORE s)
  let old := m.rd (R.CE_SLOT_STATUS_CONSEC s)
  let k := max 1 (m.rd (R.CE_SLOT_CFG_K s))
  let m := (m.inc (R.CE_SLOT_MISS_MISS s)).wrs
    [(R.CE_SLOT_STATUS_OVR s, 1), (R.CE_SLOT_STATUS_CONSEC s, min 15 (old + 1))]
  let m := m.noteLate 1 (m.slotInst s) order
  let m := m.raiseOnce (64 + c) 0 c (m.rd (R.CE_SLOT_MISS_MISS s))
  if old < k ∧ k ≤ old + 1 then m.loopMiss s else m

/-- Newest presented value of each port, and the values still to be presented. -/
def keepOuts (t : Nat) (l : List SlotOut) : List SlotOut :=
  (l.foldl (fun (a : List SlotOut × List Nat) (o : SlotOut) =>
    if t < o.due then (o :: a.1, a.2)
    else if a.2.contains o.port then a else (o :: a.1, o.port :: a.2)) ([], [])).1.reverse

/-- One output of an execution goes to its stage (R193, R194, R216, R218). -/
def Mach.output (m : Mach) (s : Fin 160) (due port : Nat) (v : Rat) : Mach :=
  if 520 ≤ port ∧ port ≠ 528 then
    let x := m.slot[s]
    m.setSlot s { x with nout := keepOuts m.mt (⟨due, port, v⟩ :: x.nout) }
  else if h : m.slotField s < 16 then
    let n : Fin 16 := ⟨m.slotField s, h⟩
    let code : Code := BitVec.ofInt 20 v.num
    match port with
    | 512 => m.pushEdge (.gxc n) due (.dac code)
    | 513 => m.pushEdge (.gyc n) due (.dac code)
    | 514 => m.pushEdge (.gzc n) due (.dac code)
    | 515 =>
      if m.rdf (R.FE_LCH_CTRL_PMODE n) = 1 then m.pushEdge (.lpwr n) due (.dac code)
      else m.wr (R.FE_LCH_STATUS_PSRCERR n) 1
    | _ =>
      let f := m.fe[n]
      m.setField n { f with lch := { f.lch with kpool := ((due, BitVec.ofInt 16 v.num) :: f.lch.kpool).take 64 } }
  else m

/-- The outputs of an execution are handed over, in order. -/
def Mach.outputs (m : Mach) (s : Fin 160) (due : Nat) (l : List (Nat × Rat)) : Mach :=
  l.foldl (fun (m : Mach) (o : Nat × Rat) => m.output s due o.1 (outConv o.1 o.2).1) m

/-- The DAC stage of an output port. -/
def dacEdge (n : Fin 16) (p : Nat) : Option Edge :=
  match p with
  | 512 => some (.gxc n)
  | 513 => some (.gyc n)
  | 514 => some (.gzc n)
  | 515 => some (.lpwr n)
  | _ => none

/-- Some output of the execution is an order violation at its stage (R55). -/
def Mach.outViolates (m : Mach) (s : Fin 160) (due : Nat) : Bool :=
  if h : m.slotField s < 16 then
    (m.slotOuts s).any fun p => match dacEdge ⟨m.slotField s, h⟩ p with
      | some e => (m.stage e).violates due
      | none => false
  else false

/-- State, SAT and flags after an execution (R187, R193, R195). -/
def Mach.execState (m : Mach) (s : Fin 160) (o : ExecOut) : Mach :=
  let os := o.outs.any fun p => (outConv p.1 p.2).2
  let m1 := (m.setSlot s { o.slot with exec := m.slot[s].exec.drop 1, doneAt := m.mt, sats := o.sat }).putSregs s (m.sregs s) o.s
  let m2 := m1.wrs
    [(R.CE_SLOT_STATUS_SAT s, satWord o.sat),
     (R.CE_SLOT_STATUS_AOVF s, max (m.rd (R.CE_SLOT_STATUS_AOVF s)) (bool01 o.aovf)),
     (R.CE_SLOT_STATUS_OSAT s, max (m.rd (R.CE_SLOT_STATUS_OSAT s)) (bool01 os))]
  let m2 := { m2 with free := m2.free + o.used }
  if o.aovf || os then m2.raiseOnce 74 (bool01 (!o.aovf)) s 0 else m2

/-- The execution that its core runs completes at END (R181, R195); an order violation is handled as late
(R55), and a reported slack of 102 or less raises VCORE (R23). -/
def Mach.execComplete (m : Mach) (s : Fin 160) : Mach :=
  match m.slot[s].exec with
  | [] => m
  | e :: _ =>
    let c := m.rd (R.CE_SLOT_CFG_CORE s)
    if m.coreRuns c ≠ some s then m
    else
      let late := decide (e.due < m.mt + 40)
      let order := m.outViolates s e.due
      let sl := if late || order then 0 else slackOf e m.mt
      let o := m.runExec s e
      let m := m.noteSlack c sl (late || order)
      let m := if sl ≤ 102 then m.fastRaise else m
      let m := m.execState s o
      if late || order then m.slotMiss s (order && !late)
      else (m.outputs s e.due o.outs).wr (R.CE_SLOT_STATUS_CONSEC s) 0

/-- An execution that has not started by its deadline is dropped (R181, R195). -/
def Mach.execDrop (m : Mach) (s : Fin 160) : Mach :=
  match m.slot[s].exec with
  | [] => m
  | e :: t =>
    if m.mt + 40 < e.due ∨ m.coreRuns (m.rd (R.CE_SLOT_CFG_CORE s)) = some s then m
    else
      let x := m.slot[s]
      let m := m.setSlot s { x with exec := t }
      (m.noteSlack (m.rd (R.CE_SLOT_CFG_CORE s)) 0 true).slotMiss s false

/-! ## Loop library and tuning (R204, R235) -/

/-- LOADLIB copies a library program into the slot. -/
def Mach.loadLib (m : Mach) (s : Fin 160) : Mach :=
  let l := m.rd (R.CE_SLOT_LIB s)
  if m.runs s ∨ l = 0 ∨ 4 < l then m.slotRefuse s
  else
    let m := m.wrs ((List.range 256).map fun i => (R.CE_PROG s i, (Config.libWord l i).toNat))
    let lat := if l = 3 then 500 else if l = 4 then 400 else (Config.libLat l).toNat
    let m := m.wrs [(R.CE_SLOT_CFG_PER s, if l = 2 then 4 else if l = 4 then m.rd (R.CE_SLOT_CFG_PER s) else 1),
      (R.CE_SLOT_CFG_FRM s, if l = 4 then 1 else 0), (R.CE_SLOT_LAT_L s, lat),
      (R.CE_SLOT_CFG_ALIGN s, if l = 4 then 1 else m.rd (R.CE_SLOT_CFG_ALIGN s))]
    m.setSlot s { m.slot[s] with lib := some l }

/-- Ranges of tuning values (R204): values not listed must be 0. -/
def tuneOk (l : Nat) (v : List Nat) : Bool :=
  let t (i : Nat) : Nat := v.getD i 0
  let tab (i : Nat) : Bool := decide (t i < 256 ∧ t i % 128 < 96)
  let zero (is : List Nat) : Bool := is.all fun i => t i == 0
  match l with
  | 1 => decide (100 ≤ t 0 ∧ t 0 ≤ 20000 ∧ 300 ≤ t 1 ∧ t 1 ≤ 2000 ∧ t 2 < 65536 ∧ t 7 ≤ 2) && tab 4 && tab 5 && zero [6]
  | 2 => decide (20 ≤ t 0 ∧ t 0 ≤ 5000 ∧ (t 1 = 0 ∨ (50 ≤ t 1 ∧ t 1 ≤ 100000)) ∧ t 2 < 65536 ∧ t 7 ≤ 2) && zero [4, 5, 6]
  | 3 => decide (100 ≤ t 0 ∧ t 0 ≤ 50000 ∧ t 1 < 65536) && zero [2, 3, 4, 5, 6, 7]
  | 4 => zero [4, 5, 6, 7]
  | _ => false

/-- APPLY (R204). -/
def Mach.tuneApply (m : Mach) (s : Fin 160) : Mach :=
  let v := (List.range 8).map fun i => m.rd (R.CE_SLOT_TUNE s i)
  if tuneOk (m.rd (R.CE_SLOT_LIB s)) v then
    (m.setSlot s { m.slot[s] with tuneVals := some v }).wr (R.CE_SLOT_STATUS_TUNEBUSY s) 1
  else (m.wr (R.CE_SLOT_STATUS_TUNEERR s) 1).raise 73 0 s 0

/-- The 72 words of a bank: mantissas and exponents. -/
def bankWords (s b : Nat) (w : Nat → Word) : List (RF × Nat) :=
  (List.range 8).flatMap fun k =>
    (List.range 8).map (fun j => (R.CE_BANKM s b k j, (w (9 * k + j)).toNat)) ++ [(R.CE_BANKE s b k, (w (9 * k + 8)).toNat)]

/-- MS writes the coefficients into the shadow bank and requests a swap; it waits while a swap is
pending (R204). -/
def Mach.tuneDone (m : Mach) (s : Fin 160) : Mach :=
  match m.slot[s].tuneVals with
  | none => m
  | some v =>
    if m.on (R.CE_SLOT_STATUS_SWPEND s) then m
    else
      let b := 1 - m.rd (R.CE_SLOT_STATUS_ACTBANK s)
      let m := m.wrs (bankWords s b (Config.tuneWord (m.rd (R.CE_SLOT_LIB s)) v))
      let x := m.slot[s]
      ((m.setSlot s { x with tuneVals := none, tune := modify x.tune b fun _ => some v }).wr
        (R.CE_SLOT_STATUS_TUNEBUSY s) 0).swapRequest s

/-! ## Windows (R206) -/

/-- The slot and the writability of a window address (offset from the CE base); `none` for a table. -/
def Mach.windowSlot (m : Mach) (o : Nat) : Option (Nat × Bool) :=
  if 0x100000 ≤ o ∧ o < 0x128000 then
    let s := (o - 0x100000) / 0x400
    some (s, !m.runs s)
  else if 0x200000 ≤ o ∧ o < 0x228000 then
    let s := (o - 0x200000) / 0x400
    let b := (o - 0x200000) % 0x400 / 0x200
    some (s, (!m.runs s || m.rd (R.CE_SLOT_STATUS_ACTBANK s) != b) &&
      !m.on (R.CE_SLOT_STATUS_SWPEND s) && !m.on (R.CE_SLOT_STATUS_TUNEBUSY s))
  else if 0x280000 ≤ o ∧ o < 0x294000 then
    let s := (o - 0x280000) / 0x200
    some (s, !m.runs s)
  else none

/-- A program write ends the library's hold on the slot; a bank write that of its tuning. -/
def Slot.touched (x : Slot) (o : Nat) : Slot :=
  if 0x100000 ≤ o ∧ o < 0x128000 then { x with lib := none }
  else if 0x200000 ≤ o ∧ o < 0x228000 then
    { x with tune := modify x.tune ((o - 0x200000) % 0x400 / 0x200) fun _ => none }
  else x

/-- A write to a CE window at an offset from the CE base (R206). -/
def Mach.ceWindow (m : Mach) (o : Nat) (v : Word) : Mach :=
  match m.windowSlot o with
  | none => m.plainWrite (0x400000 + o) v
  | some (s, ok) =>
    if !ok then (m.noteX (0x400000 + o) v).wr (R.CE_SLOT_STATUS_WRERR s) 1
    else
      let w := m.plainWrite (0x400000 + o) v
      if h : s < 160 then
        (if w.word (0x400000 + o) = m.word (0x400000 + o) then w
         else w.setSlot ⟨s, h⟩ (w.slot[(⟨s, h⟩ : Fin 160)].touched o))
      else w

/-! ## The save area (R207) -/

/-- The base of the save area, 0 for none. -/
def Mach.saveBase (m : Mach) : Nat := m.addr R.CE_SAVE_BASE_LO R.CE_SAVE_BASE_HI

/-- The offset in the save area of a window register, by its offset from the CE base. -/
def saveOff (o : Nat) : Option Nat :=
  if 0x100000 ≤ o ∧ o < 0x128000 then some (o - 0x100000)
  else if 0x200000 ≤ o ∧ o < 0x228000 then some (o - 0x200000 + 0x28000)
  else if 0x300000 ≤ o ∧ o < 0x360000 then some (o - 0x300000 + 0x50000)
  else none

/-- The word that a read of a window shows: mantissas with their sign extension (R206). -/
def windowView (o : Nat) (w : Word) : Word :=
  let mant : Bool := decide (0x200000 ≤ o ∧ o < 0x294000 ∧ o % 64 < 32) || decide (0x300000 ≤ o ∧ o < 0x360000)
  if mant then BitVec.ofInt 32 (signed 24 w.toNat) else w

/-- Offsets from the CE base of the saved regions' words that a range of registers lists. -/
def ceListed (g : Sparse Word) : List (Nat × Word) :=
  g.filterMap fun p => if 0x400000 ≤ p.1 ∧ p.1 < 0x800000 then
      (saveOff (p.1 - 0x400000)).map fun _ => (p.1 - 0x400000, p.2) else none

/-- MS copies programs, banks and tables to the save area: zeros, then every listed word. -/
def Mach.ceSave (m : Mach) : Mach :=
  let b := m.saveBase
  let clear : List Host.Cell := m.mem.bytes.filter fun p => !decide (b ≤ p.1 ∧ p.1 < b + 0xB0000)
  let bytes := (ceListed m.regs).foldl (fun (l : List Host.Cell) p =>
    let a := b + (saveOff p.1).getD 0
    if m.unbacked a then l else storeBytes l a (leBytes 4 (windowView p.1 p.2).toNat)) clear
  let keep := m.mem.poison.filter fun l => !decide (b ≤ 128 * l ∧ 128 * l < b + 0xB0000)
  { m with mem := { m.mem with bytes := bytes, poison := keep } }

/-- The window offset of a word of the save area. -/
def saveInv (k : Nat) : Nat :=
  if k < 0x28000 then 0x100000 + k else if k < 0x50000 then 0x200000 + (k - 0x28000) else 0x300000 + (k - 0x50000)

/-- Bytes of the save area. -/
def saveBytes : Nat := 0xB0000

/-- Some address of the save area has no memory behind it. -/
def Mach.saveGap (m : Mach) : Bool :=
  decide (0x800000000 < m.saveBase + saveBytes) || [0, 1].any fun c => [0, 1].any fun l => m.backing c l == 3

/-- Lines of the save area that are unbacked, and those that are poisoned. -/
def Mach.saveLines (m : Mach) : List Nat × List Nat :=
  let b := m.saveBase
  (if m.saveGap then (linesOf b saveBytes).filter fun l => m.unbacked (128 * l) else [],
   m.mem.poison.filter fun l => decide (b ≤ 128 * l ∧ 128 * l < b + saveBytes))

/-- The program of a slot has come back with a word zeroed. -/
def progHurt (b : Nat) (bad : List Nat) (s : Nat) : Bool :=
  bad.any fun l => decide (b + s * 0x400 < 128 * l + 128 ∧ 128 * l < b + (s + 1) * 0x400)

/-- A slot after IDLE: its state reads zero; a library program that was hurt stands no longer unchanged. -/
def Slot.woken (x : Slot) (hurt : Bool) : Slot :=
  { x with lib := if hurt then none else x.lib, sats := List.replicate 8 0, libS := 0, libK := 1, libNin := 0, libTrim := 0 }

/-- MS copies the regions back; words of a poisoned line are zero, and slot state reads zero (R207). -/
def Mach.ceRestore (m : Mach) : Mach :=
  let b := m.saveBase
  let base := m.regs.filter fun p => !decide (0x500000 ≤ p.1 ∧ p.1 < 0x760000)
  let ks := (m.mem.bytes.filterMap fun p => if b ≤ p.1 ∧ p.1 < b + 0xB0000 then some ((p.1 - b) / 4) else none).foldl
    (fun (l : List Nat) k => if l.head? = some k then l else k :: l) []
  let bad := m.saveLines.1 ++ m.saveLines.2
  { m with slot := Vector.ofFn fun (s : Fin 160) => m.slot[s].woken (progHurt b bad s)
           regs := ks.foldl (fun (g : Sparse Word) k =>
      if m.poisoned (b + 4 * k) 4 then g else rput g (0x400000 + saveInv (4 * k)) (BitVec.ofNat 32 (m.le (b + 4 * k) 4))) base }

/-! ## Lock (R482) -/

/-- The RUN slots of a field that write the three galvo ports. -/
def Mach.galvoSlots (m : Mach) (n : Fin 16) : Bool :=
  [512, 513, 514].all fun p => (List.finRange 160).any fun s =>
    m.runs s && m.slotField s == n.val && (m.slotOuts s).contains p

/-- The field is locked (R482). -/
def Mach.locked (m : Mach) (n : Fin 16) : Bool :=
  m.galvoSlots n && m.pins[n].gen &&
  (match m.fe[n].spl.lockFrom with | some t => decide (t + 400 * servoTick ≤ m.mt) | none => false)

end Sys2Proof.Machine
end

