-- ==== Sys2Proof/Machine/Hld.lean ====
section
/-! DEFINITION. The heat ledger: decay, sweep, deposits, factors, whole-grid operations, window, write-out
(08). -/
namespace Sys2Proof.Machine

/-! ## Cells (R265, R266) -/

def Mach.hldNx (m : Mach) : Nat := clampN 1 2048 (m.rd R.HLD_GEOM_NX)
def Mach.hldNy (m : Mach) : Nat := clampN 1 2048 (m.rd R.HLD_GEOM_NY)
def Mach.hldShift (m : Mach) : Nat := clampN 8 20 (m.rd R.HLD_CSHIFT)

/-- The window index 2048j + i of the cell at column i and row j of the grid. -/
def Mach.cellIx (m : Mach) (i j : Int) : Option Nat :=
  if 0 ≤ i ∧ i < m.hldNx ∧ 0 ≤ j ∧ j < m.hldNy then some (2048 * j.toNat + i.toNat) else none

/-- Column and row of a bed point, possibly outside the grid. -/
def Mach.cellXY (m : Mach) (x y : Int) : Int × Int :=
  ((x - m.rdS R.HLD_ORGX) / 2 ^ m.hldShift, (y - m.rdS R.HLD_ORGY) / 2 ^ m.hldShift)

/-- The cell under a bed point. -/
def Mach.cellOf (m : Mach) (x y : Int) : Option Nat :=
  let c := m.cellXY x y
  m.cellIx c.1 c.2

/-- Coarse time of an instant: MT[31:16]. -/
def coarse (t : Nat) : Nat := t / 65536 % 65536

/-- Powers P_0, P_1, … of the decay factor, applied for the set bits of Δ (R266). -/
def decayFactor : Nat → Nat → Nat → Nat → Nat
  | 0, _, _, f => f
  | k + 1, dl, p, f =>
    decayFactor k (dl / 2) (p * p / 2 ^ 24) (if dl % 2 = 1 then f * p / 2 ^ 24 else f)

/-- Energy of a cell word decayed to a coarse time (R266). -/
def decayE (d : Nat) (w : Word) (tc : Nat) : Nat :=
  let e := bits w.toNat 15 0
  if d = 0 then e
  else e * decayFactor 16 ((tc + 65536 - bits w.toNat 31 16) % 65536) (d * 256) (2 ^ 24) / 2 ^ 24

/-- The word of a cell with an energy and a coarse time. -/
def cellWord (e tc : Nat) : Word := BitVec.ofNat 32 (e % 65536 + tc % 65536 * 65536)

/-- The stored word of a cell. -/
def Ledger.cell (l : Ledger) (k : Nat) : Word := sget (fun _ => l.base) l.cells k

/-- A cell is written. -/
def Ledger.put (l : Ledger) (k : Nat) (w : Word) : Ledger :=
  { l with cells := sset (fun _ => l.base) l.cells k w }

/-- Energy of a cell at an instant. -/
def Mach.energy (m : Mach) (k t : Nat) : Nat := decayE (m.rd R.HLD_DECAY) (m.ledger.cell k) (coarse t)

/-- A cell decayed to an instant, as a read of the window shows it (R274). -/
def Mach.cellRead (m : Mach) (k t : Nat) : Word := cellWord (m.energy k t) (coarse t)

/-! ## Sweep (R267) -/

/-- Ticks of one sweep. -/
def sweepTicks : Nat := 800000000

/-- Due instant of raster index k in sweep j. -/
def Mach.sweepDueAt (m : Mach) (j k : Nat) : Nat := j * sweepTicks + k * sweepTicks / (m.hldNx * m.hldNy)

/-- LEDOK of every field in fail-safe falls: an overrun of the sweep, or a write to EN, geometry or decay
(R483). -/
def Mach.ledBad (m : Mach) : Mach :=
  (List.finRange 16).foldl (fun (m : Mach) (n : Fin 16) => if m.inFs n then m.wr (R.SAF_FS_STATUS_LEDOK n) 0 else m) m

/-- The sweeper visits a cell: it is written back decayed to this instant (R267). -/
def Mach.sweepVisit (m : Mach) (j k : Nat) : Mach :=
  let due := m.sweepDueAt j k
  if m.mt < due ∨ m.hldNx * m.hldNy ≤ k then m
  else
    let c := 2048 * (k / m.hldNx) + k % m.hldNx
    let m' := { m with ledger := m.ledger.put c (m.cellRead c m.mt) }
    if due + sweepTicks < m.mt then m'.ledBad.raise 157 0 0 0 else m'

/-! ## Deposits (R268, R269) -/

/-- Amount of a deposit at this boundary. -/
def Mach.depositAmount (m : Mach) (n : Fin 16) : Nat :=
  let l := m.fe[n].lch
  let s := m.mt
  let c := ((List.range 5).foldl (fun v k => v + inEffect 0 l.coutHist (s - 2000 + 400 * k)) 0) / 5
  let on := (List.range 25).foldl (fun v k => if l.gintAt' (s - 2000 + 80 * k) then v + 1 else v) 0
  c * on * m.rd (R.FE_HLD_DSCALE n) / 2 ^ 27

/-- The spot B at the present or a past instant: the point emitted and the measured displacement. -/
def Mach.bedAt (m : Mach) (n : Fin 16) (t : Nat) : Int × Int :=
  let p := m.fe[n].spotAt t
  let f := m.frameOf n (m.srcCountAt (m.frmSrc n) t)
  (p.1 + roundAway f.1 65536, p.2.1 + roundAway f.2 65536)

/-- The cells as they stood before the deposits of this boundary. -/
def Ledger.open' (l : Ledger) (t : Nat) : Ledger :=
  if l.depAt = t then l else { l with depAt := t, before := [] }

/-- A share is added to a cell (R269); whether it saturated. -/
def Mach.addShare (m : Mach) (k a : Nat) : Mach × Bool :=
  let l := m.ledger.open' m.mt
  let e := m.energy k m.mt + a
  let old := l.cell k
  let b := if (l.before.lookup k).isSome then l.before else sput l.before k old
  ({ m with ledger := { (l.put k (cellWord (min e 65535) (coarse m.mt))) with before := b } }, decide (65535 < e))

/-- A saturated cell is counted and reported (R269). -/
def Mach.noteSat (m : Mach) : Mach :=
  let m := (m.inc R.HLD_SAT).wr R.HLD_STATUS_SATF 1
  m.raiseOnce 158 0 0 (m.rd R.HLD_SAT)

/-- A share of a deposit goes to a cell of the grid, or is lost outside it. -/
def Mach.depositShare (m : Mach) (i j : Int) (a : Nat) : Mach :=
  match m.cellIx i j with
  | none => m
  | some k =>
    let r := m.addShare k a
    if r.2 then r.1.noteSat else r.1

/-- Weights of the 3 × 3 kernel for the neighbours. -/
def kernel3 : List (Int × Int × Nat) :=
  [(-1, -1, 1), (0, -1, 2), (1, -1, 1), (-1, 0, 2), (1, 0, 2), (-1, 1, 1), (0, 1, 2), (1, 1, 1)]

/-- A deposit is spread (R269). -/
def Mach.spread (m : Mach) (i j : Int) (a : Nat) (k3 : Bool) : Mach :=
  if k3 then
    let side := kernel3.foldl (fun v w => v + a * w.2.2 / 16) 0
    kernel3.foldl (fun (m : Mach) w => m.depositShare (i + w.1) (j + w.2.1) (a * w.2.2 / 16))
      (m.depositShare i j (a - side))
  else m.depositShare i j a

/-- The deposit of a field at an ST boundary (R268). -/
def Mach.deposit (m : Mach) (n : Fin 16) : Mach :=
  let f := m.fe[n]
  let st := (f.ctx[f.owner.getD f.lastOwner]).ret
  let a := m.depositAmount n
  if m.mt % servoTick ≠ 0 ∨ m.mt < servoTick ∨ !st.dep ∨ m.rd R.HLD_CTRL = 0 ∨ a = 0 then m
  else
    let b := m.bedAt n (m.mt - 1000)
    let c := m.cellXY b.1 b.2
    match m.cellIx c.1 c.2 with
    | none =>
      let m := m.inc R.HLD_DEPOUT
      m.raiseOnce 156 0 n (m.rd R.HLD_DEPOUT)
    | some _ => m.spread c.1 c.2 a st.k3

/-! ## Factors (R270, R221) -/

/-- The planned spot P + F_p at an instant. -/
def Mach.planBed (m : Mach) (n : Fin 16) (t : Nat) : Int × Int :=
  let f := m.fe[n].live t
  let p := f.pathAt t
  let d := match f.segOn t with
    | some (s, _) => m.framePredAt n s.frm t
    | none => m.frameF n
  (p.1 + roundAway d.1 65536, p.2.1 + roundAway d.2 65536)

/-- Material profile of the segment in emission, or of the field's last segment. -/
def Field.matAt (f : Field) (t : Nat) : Nat :=
  match (f.live t).segOn t with
  | some (s, _) => s.seg.mat
  | none => f.lastMat

/-- Interpolation in a factor table (R270). -/
def Mach.factorOf (m : Mach) (mat e : Nat) : Nat :=
  let i := e / 256
  let t (k : Nat) : Int := m.rd (R.HLD_FAC mat k)
  if i < 255 then (t i + (t (i + 1) - t i) * (e % 256 : Nat) / 256).toNat else (t 255).toNat

/-- The word that the factor of this boundary reads: before the deposits of this boundary. -/
def Mach.factorCell (m : Mach) (k : Nat) : Word :=
  if m.ledger.depAt = m.mt then (m.ledger.before.lookup k).getD (m.ledger.cell k) else m.ledger.cell k

/-- F_L of a field at an ST boundary (R270). -/
def Mach.factorNow (m : Mach) (n : Fin 16) : Nat :=
  if m.rd R.HLD_CTRL = 0 then 0x8000
  else
    let b := m.planBed n m.mt
    match m.cellOf b.1 b.2 with
    | none => 0x8000
    | some k => m.factorOf (m.fe[n].matAt m.mt) (decayE (m.rd R.HLD_DECAY) (m.factorCell k) (coarse m.mt))

/-- HLD delivers a factor, or delivers it too late (R221, R270). -/
def Mach.deliverFactor (m : Mach) (n : Fin 16) (late : Bool) : Mach :=
  if m.mt % servoTick ≠ 0 then m
  else if late then m.inc (R.FE_LCH_LFLATE n)
  else (m.wr (R.FE_LCH_LFAC n) (m.factorNow n)).noteFact n

/-! ## Whole-grid operations (R272) -/

/-- CLEAR. -/
def Mach.ledgerClear (m : Mach) : Mach :=
  { m with ledger := { m.ledger with base := cellWord 0 (coarse m.mt), cells := [], before := [] } }

/-- A word carried over a layer. -/
def carryWord (d factor tc : Nat) (w : Word) : Word := cellWord (decayE d w tc * factor / 65536) tc

/-- CARRY. -/
def Mach.ledgerCarry (m : Mach) (factor : Nat) : Mach :=
  let d := m.rd R.HLD_DECAY
  let tc := coarse m.mt
  let l := m.ledger
  let g := carryWord d factor tc
  let b := g l.base
  { m with ledger := { l with
      base := b
      cells := l.cells.foldl (fun c p => sset (fun _ => b) c p.1 (g p.2)) []
      before := l.before.map fun p => (p.1, g p.2) } }

/-! ## Export (R273) -/

/-- EXPORT begins, or waits for the one under way; its writes count as the context's (R98, R104). -/
def Mach.ledgerExport (m : Mach) (x : Ctx) (a : Addr) : Mach :=
  let r := m.ctx x
  let m := m.setCtx x { r with writes := r.writes + 1 }
  { m with
    exports := m.exports ++ [⟨x, a, m.mt, m.ledger, m.rd R.HLD_DECAY, m.hldNx, m.hldNy⟩]
    regs := rwr m.regs R.HLD_STATUS_EXBUSY 1 }

/-- The image of a grid as it stood at its instant: sixteen-bit values at their places, zeros elsewhere. -/
def LedgerExp.image (x : LedgerExp) : List (Nat × Nat) :=
  let d := x.decay
  let tc := coarse x.at_
  let val (k : Nat) : Nat := decayE d (x.snapshot.cell k) tc
  let ks := if decayE d x.snapshot.base tc = 0 then x.snapshot.cells.map (·.1)
    else (List.range x.ny).flatMap fun j => (List.range x.nx).map fun i => 2048 * j + i
  (ks.filter fun k => decide (k % 2048 < x.nx ∧ k / 2048 < x.ny)).map fun k => (k, val k)

/-- The first write-out has been written: 8 MiB at its address (R273). -/
def Mach.exportDone (m : Mach) : Mach :=
  match m.exports with
  | [] => m
  | x :: t =>
    let a := x.addr.toNat
    let clear : List Host.Cell := m.mem.bytes.filter fun p => !decide (a ≤ p.1 ∧ p.1 < a + 2 ^ 23)
    let bytes := x.image.foldl (fun (b : List Host.Cell) p => storeBytes b (a + 2 * p.1) (leBytes 2 p.2)) clear
    let pois := m.mem.poison.filter fun l => !decide (a ≤ 128 * l ∧ 128 * l < a + 2 ^ 23)
    let r := m.ctx x.ctx
    let m := m.setCtx x.ctx { r with writes := r.writes - 1 }
    { m with
      mem := { m.mem with bytes := bytes, poison := pois }
      exports := t
      regs := rwr m.regs R.HLD_STATUS_EXBUSY (bool01 !t.isEmpty) }

/-! ## Window (R274) -/

/-- A host write to the ledger window. -/
def Mach.ledgerWrite (m : Mach) (cell : Nat) (v : Word) : Mach :=
  if !m.open? 0x2800000 then m.early
  else if !m.on R.HLD_BLK_XSTAT_UNLOCKED then m.wr R.HLD_BLK_XSTAT_XLOCK 1
  else
    match m.cellIx (cell % 2048 : Nat) (cell / 2048 : Nat) with
    | none => m
    | some k => { m with ledger := { m.ledger.put k v with before := serase m.ledger.before k } }

/-- A read of the ledger window. -/
def Mach.ledgerView (m : Mach) (cell : Nat) : Word :=
  match m.cellIx (cell % 2048 : Nat) (cell / 2048 : Nat) with
  | none => 0
  | some k => m.cellRead k m.mt

end Sys2Proof.Machine
end

