-- ==== Sys2Proof/Machine/Trellis.lean ====
section
/-! DEFINITION. The trellis: ownership, keep-out extents, claims, plan summaries, the grant pass (08). -/
namespace Sys2Proof.Machine

/-! ## Ownership (R243) -/

/-- The path B of a segment at `k` ticks, BU. -/
def Mach.segBed (m : Mach) (n : Fin 16) (s : PSeg) (k : Nat) : Int × Int :=
  let p := s.pos k
  let f := m.framePredAt n s.frm (s.t0 + k)
  (p.1 + roundAway f.1 65536, p.2.1 + roundAway f.2 65536)

/-- Every point of a laser-on segment, widened, lies in tiles the field holds.  The box of the curve is
tried first; otherwise every tick is. -/
def Mach.segOwned (m : Mach) (n : Fin 16) (s : PSeg) (w : Int) : Bool :=
  (m.frmSrc n == 0 && m.ownsBox n (s.hull.grow w)) ||
  (List.range (s.seg.dur + 1)).all fun k =>
    let b := m.segBed n s k
    m.ownsBox n (Box.grow ⟨b.1, b.2, b.1, b.2⟩ w)

/-- The laser-on segments of a planned instruction stay in the field's tiles. -/
def Mach.segsOwned (m : Mach) (n : Fin 16) (l : List PSeg) : Bool :=
  !m.on R.TRL_CTRL_EN || l.all fun s => !s.seg.laser || m.segOwned n s s.wamp

/-! ## Keep-out (R245, R246) -/

/-- A number of 2^−96 units to the nearest 2^−24. -/
def to24 (v : Int) : Int := roundAway v (2 ^ 72)

/-- The four corners of the keep-out zone, 2^−24 BU. -/
def Mach.koCorners (m : Mach) : List (Int × Int) :=
  let cs := trig (m.rd R.TRL_KO_DIR) 65536
  let c := to24 cs.1
  let s := to24 cs.2
  let down : Int := m.rd R.TRL_KO_DOWN
  let up : Int := m.rd R.TRL_KO_UP
  let half : Int := m.rd R.TRL_KO_HALF
  ([-up, down].flatMap fun a => [-half, half].map fun w => (a * c - w * s, a * s + w * c))

def minI (l : List Int) : Int := l.foldl min (l.headD 0)
def maxI (l : List Int) : Int := l.foldl max (l.headD 0)

/-- The extents: XLO, XHI, YLO, YHI. -/
def Mach.koExtents (m : Mach) : Int × Int × Int × Int :=
  let xs := m.koCorners.map (·.1)
  let ys := m.koCorners.map (·.2)
  (minI xs / 2 ^ 24, -(-maxI xs / 2 ^ 24), minI ys / 2 ^ 24, -(-maxI ys / 2 ^ 24))

/-- The extents are computed and shown (R245). -/
def Mach.koCompute (m : Mach) : Mach :=
  let e := m.koExtents
  m.wrs [(R.TRL_KO_XLO, unsigned 32 e.1), (R.TRL_KO_XHI, unsigned 32 e.2.1),
    (R.TRL_KO_YLO, unsigned 32 e.2.2.1), (R.TRL_KO_YHI, unsigned 32 e.2.2.2)]

/-- Address of a keep-out register. -/
def koAddr : KoReg → Nat
  | .dir => R.TRL_KO_DIR.a | .down => R.TRL_KO_DOWN.a | .up => R.TRL_KO_UP.a | .half => R.TRL_KO_HALF.a

/-- A box expanded by the extents in force. -/
def Mach.expand (m : Mach) (b : Box) : Box :=
  ⟨b.xmin + m.rdS R.TRL_KO_XLO, b.ymin + m.rdS R.TRL_KO_YLO, b.xmax + m.rdS R.TRL_KO_XHI, b.ymax + m.rdS R.TRL_KO_YHI⟩

/-- A claim over an interval [a, e) of nanoseconds; no box is the empty box (R246). -/
structure Claim where
  a : Int
  e : Int
  box : Option Box
  deriving DecidableEq, Repr

def overlap (a e b f : Int) : Bool := decide (a < f ∧ b < e)

/-- The tail τ, ns: a slice is 20,000 ns. -/
def Mach.tail (m : Mach) : Int := m.rd R.TRL_KO_TAIL * 20000

/-- Both boxes meet one tile whose owner set is exclusive. -/
def Mach.exclMeet (m : Mach) (b c : Box) : Bool :=
  (m.tilesOf b).any fun t => m.inMap t.1 t.2 && (m.tilesOf c).contains t &&
    m.on (R.TRL_OWN_ATTR_EXCL (m.tileSet t.1.toNat t.2.toNat))

/-- Claims of different fields conflict (R246). -/
def Mach.conflict (m : Mach) (f g : Claim) : Bool :=
  match f.box, g.box with
  | some b, some c =>
    (overlap f.a f.e g.a (g.e + m.tail) && b.meets (m.expand c)) ||
    (overlap g.a g.e f.a (f.e + m.tail) && c.meets (m.expand b)) ||
    (overlap f.a f.e g.a g.e && m.exclMeet b c)
  | _, _ => false

/-! ## PT and MT for the ring (R258) -/

/-- PT, ns without wrap, of an MT instant from the latest capture; MT instants in ticks. -/
def Mach.ptOf (m : Mach) (t : Nat) : Int :=
  let cap : Int := m.rd R.TIM_MTK_SEQ * mgmtTick
  (m.rd R.TIM_MTK_PT : Int) + (((t : Int) - cap) * 5) / 4

/-- A PT value modulo 2^32 nearest a PT instant without wrap. -/
def nearPt (near : Int) (v : Nat) : Int := near + signed 32 (unsigned 32 ((v : Int) - near))

/-- Start of PT slice σ near an instant. -/
def sliceNs : Nat := 16384

/-- The claim of an MT slice in MT terms, ns. -/
def sliceClaim (k : Nat) (b : Option Box) : Claim := ⟨k * 20000, (k + 1) * 20000, b⟩

/-- The claim of an MT slice over PT, for the ring. -/
def Mach.ptClaim (m : Mach) (k : Nat) (b : Option Box) : Claim :=
  let g : Int := m.rd R.TRL_GUARD
  ⟨m.ptOf (k * sliceTicks) - g, m.ptOf ((k + 1) * sliceTicks) + g, b⟩

/-- A ring grant's claim over PT. -/
def ringClaim (near : Int) (r : RingGrant) : Claim :=
  let a := nearPt near (r.sigma * sliceNs)
  ⟨a, a + sliceNs, some r.box⟩

/-- PT slices that an MT slice meets with the guard. -/
def Mach.ptSlices (m : Mach) (k : Nat) : List Nat :=
  let c := m.ptClaim k none
  (intRange (c.a / sliceNs) ((c.e - 1) / sliceNs)).map fun s => unsigned 18 s

/-- The ring decisions that stood at an instant. -/
def Rng.decidedBy (r : Rng) (t : Nat) : List RingGrant := r.hist.filter fun g => decide (g.at_ ≤ t)

/-- Every PT slice of the summary held, at instant `t`, a ring grant whose box covers it (R252, R260). -/
def Mach.ringGranted (m : Mach) (n : Fin 16) (t k : Nat) (b : Box) : Bool :=
  m.rd R.TRL_STATUS == 0 && (m.ptSlices k).all fun s =>
    (m.rng.decidedBy t).any fun r => r.g == m.gfield n && r.sigma == s && b.within r.box

/-- The summary's claim meets a ring claim of another field that stood at instant `t` (R246, R252). -/
def Mach.meetsRing (m : Mach) (n : Fin 16) (t k : Nat) (b : Box) : Bool :=
  let c := m.ptClaim k (some b)
  (m.rng.decidedBy t).any fun r => r.g != m.gfield n && m.conflict c (ringClaim c.a r)

/-! ## Summaries (R247, R248) -/

/-- Entries of the summary buffer: 64 KiB of 32 bytes (R112). -/
def summCap : Nat := 2048

/-- Points of the laser-on fine ticks of a slice as boxes, widened. -/
def Mach.sliceBoxes (m : Mach) (n : Fin 16) (k : Nat) : List Box :=
  let f := m.fe[n].live m.mt
  (List.range 200).filterMap fun i =>
    let t := k * sliceTicks + i * fineTick
    match f.segOn t with
    | some (s, q) =>
      if s.seg.laser then
        let b := m.segBed n s q
        some (Box.grow ⟨b.1, b.2, b.1, b.2⟩ (s.wamp + m.rd R.TRL_MARGIN))
      else none
    | none => none

/-- The box meets a tile whose owner set is marked RING. -/
def Mach.ringTile (m : Mach) (b : Box) : Bool :=
  (m.tilesOf b).any fun t => m.inMap t.1 t.2 && m.on (R.TRL_OWN_ATTR_RING (m.tileSet t.1.toNat t.2.toNat))

/-- The summary of a slice from the plan as it stands. -/
def Mach.summaryOf (m : Mach) (n : Fin 16) (k : Nat) : Summary :=
  match boxOf (m.sliceBoxes n k) with
  | none => { slice := k, lon := false, ringm := false, ver := m.fe[n].ver, box := ⟨0, 0, 0, 0⟩, pubAt := m.mt, goneAt := none }
  | some b => { slice := k, lon := true, ringm := m.ringTile b, ver := m.fe[n].ver, box := b, pubAt := m.mt, goneAt := none }

/-- The plan covers a slice, or ends within it at a laser-off point (R248). -/
def Field.covers (f : Field) (k : Nat) : Bool :=
  decide ((k + 1) * sliceTicks ≤ f.planEnd) ||
  (decide (k * sliceTicks ≤ f.planEnd ∧ f.planEnd < (k + 1) * sliceTicks) && !f.pl.laserOn)

/-- Standing summaries of slices that are not over. -/
def Field.published (f : Field) (t : Nat) : List Summary :=
  f.summ.filter fun s => s.goneAt.isNone && decide (t < (s.slice + 1) * sliceTicks)

/-- A field publishes the summary of a slice (R248). -/
def Mach.publish (m : Mach) (n : Fin 16) (k : Nat) : Mach :=
  let f := m.fe[n]
  if f.covers k && (f.summary k).isNone && decide (m.mt / sliceTicks ≤ k) &&
      decide ((f.published m.mt).length < summCap) then
    let keep := f.summ.filter fun s => match s.goneAt with
      | none => decide (m.mt < (s.slice + 2) * sliceTicks)
      | some g => decide (m.mt < g + sliceTicks)
    m.setField n { f with summ := keep ++ [m.summaryOf n k] }
  else m

/-! ## The grant pass (R252 to R254) -/

/-- Effective priority from age (R253). -/
def Mach.effOf (m : Mach) (n age : Nat) : Nat :=
  min (m.rd (R.TRL_FPRIO n) + age / max 1 (m.rd R.TRL_AGESTEP)) 31

def Mach.eff (m : Mach) (n : Nat) : Nat := m.effOf n (m.rd (R.FE_TRL_AGE_AGE n))

/-- A reservation of another field conflicts with a claim. -/
def Mach.meetsResv (m : Mach) (n : Fin 16) (c : Claim) : Bool :=
  (List.finRange 16).any fun h => h != n && m.fe[h].resv.any fun r => m.conflict c (sliceClaim r.slice r.box)

/-- The slice of a summary may be granted, by the ring decisions that stood at instant `t`. -/
def Mach.grantable (m : Mach) (n : Fin 16) (t : Nat) (x : Summary) : Bool :=
  !x.lon ||
  ((!x.ringm || m.ringGranted n t x.slice x.box) && !m.meetsResv n (sliceClaim x.slice (some x.box)) &&
   !m.meetsRing n t x.slice x.box)

/-- Grants a field slice by slice from `k`; `got` tells whether a laser-on slice was granted, and the
result where the field stopped. -/
def Mach.grantFrom (b : Nat) (n : Fin 16) : Nat → Nat → Bool → Mach → Mach × Nat × Bool
  | 0, k, got, m => (m, k, got)
  | fuel + 1, k, got, m =>
    match m.fe[n].summaryAt k (b - 8000) with
    | none => (m, k, got)
    | some x =>
      if m.grantable n (b - 8000) x then
        let f := m.fe[n]
        let r : Resv := ⟨k, if x.lon then some x.box else none⟩
        let f := { f with resv := (f.resv.filter fun q => q.slice ≠ k) ++ [r] }
        Mach.grantFrom b n fuel (k + 1) (got || x.lon) (m.setField n f)
      else (m, k, got)

/-- The pass for one field at boundary b. -/
def Mach.grantField (b : Nat) (m : Mach) (n : Fin 16) : Mach :=
  let s0 := b / sliceTicks
  let k0 := max s0 (m.fe[n].clearFrom (b - 8000) 2049 s0)
  let r := Mach.grantFrom b n (s0 + 2048 - k0) k0 false m
  let m := r.1
  let denied : Bool := ((m.fe[n].summaryAt r.2.1 (b - 8000)).map (·.lon)).getD false
  let age := m.rd (R.FE_TRL_AGE_AGE n)
  let age' := if r.2.2 then 0 else if denied then min (age + 1) 255 else age
  let m := m.wrs [(R.FE_TRL_AGE_AGE n, age'), (R.FE_TRL_AGE_EFF n, m.effOf n age')]
  cond denied (m.inc (R.FE_TRL_DENY n)) m

/-- Insertion of a field into the order of the pass. -/
def insertPrio (m : Mach) (n : Fin 16) : List (Fin 16) → List (Fin 16)
  | [] => [n]
  | h :: t => if m.eff h < m.eff n then n :: h :: t else h :: insertPrio m n t

/-- Fields by falling effective priority, then rising number. -/
def Mach.grantOrder (m : Mach) : List (Fin 16) :=
  (List.finRange 16).foldl (fun l n => insertPrio m n l) []

/-- Reservations whose tail is over are forgotten. -/
def Field.oldResv (f : Field) (k tail : Nat) : Field :=
  { f with resv := f.resv.filter fun r => decide (k ≤ r.slice + tail + 1) }

/-- Posts the clearance instants (R251). -/
def Mach.postClear (m : Mach) : Mach :=
  (List.finRange 16).foldl (fun (m : Mach) (n : Fin 16) =>
    m.wr64 (R.FE_TRL_CLEAR_LO n) (R.FE_TRL_CLEAR_HI n) (m.clearance n)) m

/-- The grant pass of a slice boundary (R252). -/
def Mach.grantPass (m : Mach) : Mach :=
  if m.mt % sliceTicks ≠ 0 then m
  else
    let m := if m.on R.TRL_CTRL_EN then m.grantOrder.foldl (Mach.grantField m.mt) m else m
    let tail := m.rd R.TRL_KO_TAIL
    let m := { m with fe := m.fe.map fun (f : Field) => f.oldResv (m.mt / sliceTicks) tail }
    m.postClear

/-- The front has waited for its grant too long (R255). -/
def Mach.grantTimeout (m : Mach) (n : Fin 16) : Mach :=
  let f := m.fe[n]
  let g := m.rd R.TRL_GTO
  match f.dwell with
  | some (t, c) =>
    if c = 2 ∧ g ≠ 0 ∧ t + g * msTicks ≤ m.mt ∧ !f.gtoDone then
      ((m.setField n { f with gtoDone := true }).wr ⟨R.TRL_STUCK.a, n, n⟩ 1).raise 152 0 n 0
    else m
  | none => m

/-- RDEPTH is too short for the ring (R262): CFGERR and source 155 when it becomes so. -/
def Mach.ringCfg (m : Mach) : Mach :=
  let bad := decide (m.rd R.TRL_RDEPTH * 1000 < m.rd R.TRL_RDLY * 1000 + m.rd R.TRL_GUARD + 30000)
  let was := m.on R.TRL_STATUS
  let m := m.wr R.TRL_STATUS (bool01 bad)
  if bad && !was then m.raise 155 0 0 0 else m

end Sys2Proof.Machine
end

