-- ==== Sys2Proof/Machine/Mem.lean ====
section
/-! DEFINITION. The memory controller: reads and writes of a line, errors, poison, panic, scrub, refresh,
training and racking (12). -/
namespace Sys2Proof.Machine

/-! ## Placement (R354, R376) -/

/-- Offset of an address in its rank. -/
def rankOffset (a : Nat) : Nat := a / 2 ^ 9 % 2 ^ 25 * 256 + a % 256

/-- The address of a rank offset. -/
def lineAddr (c l off : Nat) : Nat := l * 2 ^ 34 + off / 256 * 512 + c * 256 + off % 256

/-- Index of a rank in the lists of ranks. -/
def rankIx (c r : Nat) : Nat := 3 * c + r

/-- Racking runs or pauses on a channel. -/
def Mach.racking (m : Mach) (c : Nat) : Bool :=
  m.rd (R.MEM_RACK_STAT_STATE c) == 1 || m.rd (R.MEM_RACK_STAT_STATE c) == 2

/-- The physical rank that serves a backed address: below the watermark, the spare (R376). -/
def Mach.physOf (m : Mach) (a : Nat) : Nat :=
  let c := chanOf a
  let l := lrankOf a
  if m.racking c && m.rd (R.MEM_RACK_STAT_LRANK c) == l then
    (if rankOffset a < m.mem.wmark.getD c 0 then m.rd (R.MEM_CH_RMAP_SPARE c)
     else m.rd (R.MEM_RACK_STAT_SRC c))
  else m.backing c l

/-! ## Racking (R374) -/

/-- State of a rank. -/
def Mach.rkState (m : Mach) (c r : Nat) : Nat := m.rd (R.MEM_CH_RK_STATE_STATE c r)

/-- The channel has a spare that may take over a rank. -/
def Mach.spareReady (m : Mach) (c : Nat) : Bool :=
  m.rd (R.MEM_CH_RMAP_SPARE c) != 3 && m.rkState c (m.rd (R.MEM_CH_RMAP_SPARE c)) == 0 && !m.racking c

/-- Racking of a rank is triggered: it starts, or is refused. -/
def Mach.rackStart (m : Mach) (c r cause : Nat) : Mach :=
  if m.spareReady c && m.rkState c r == 1 then
    let l := if m.backing c 0 = r then 0 else 1
    let m := m.wrs [(R.MEM_CH_RK_STATE_STATE c r, 2), (R.MEM_CH_RK_STATE_STATE c (m.rd (R.MEM_CH_RMAP_SPARE c)), 3),
      (R.MEM_RACK_STAT_STATE c, 1), (R.MEM_RACK_STAT_SRC c, r), (R.MEM_RACK_STAT_LRANK c, l),
      (R.MEM_RACK_STAT_CAUSE c, cause)]
    let m := m.wr64 (R.MEM_RACK_WMARK_LO c) (R.MEM_RACK_WMARK_HI c) 0
    { m with mem := { m.mem with wmark := modify m.mem.wmark c fun _ => 0
                                 rackFrom := modify m.mem.rackFrom c fun _ => (m.mt, 0) } }.raise 35 0 (rankIx c r) 0
  else (m.wr (R.MEM_RACK_STAT_REFUSED c) 1).raise 37 0 (rankIx c r) 0

/-- A trigger; a rank that takes part in racking is not triggered again (R379, R380). -/
def Mach.rackTrigger (m : Mach) (c r cause : Nat) : Mach :=
  if m.rkState c r = 2 ∨ m.rkState c r = 3 then m else m.rackStart c r cause

/-! ## Errors (R357 to R361) -/

/-- The line lies in a window that SAF_SHARED names (R474). -/
def Mach.sharedLine (m : Mach) (a : Nat) : Bool :=
  (List.range 8).any fun k =>
    let b := m.addr (R.SAF_SHARED_LO k) (R.SAF_SHARED_HI k)
    let n := m.rd (R.SAF_SHARED_SIZE k) * 4096
    decide (b < a / 128 * 128 + 128 ∧ a / 128 * 128 < b + n)

/-- A corrected error (R358). -/
def Mach.eccCorrected (m : Mach) (c r : Nat) : Mach :=
  m.incRaiseOnce (R.MEM_CH_RK_CE c r) 32 0 (rankIx c r)

/-- Lines in rising order with one more. -/
def addLine (l : List Nat) (k : Nat) : List Nat :=
  match l with
  | [] => [k]
  | h :: t => if h < k then h :: addLine t k else if h = k then l else k :: l

/-- A confirmed error: the line is poisoned, counted and recorded (R359). -/
def Mach.eccConfirmed (m : Mach) (a port stream : Nat) (scrub : Bool) : Mach :=
  let c := chanOf a
  let r := m.physOf a
  let m := { m with mem := { m.mem with poison := addLine m.mem.poison (a / 128) } }
  let m := (m.inc (R.MEM_CH_RK_UE c r)).wrs
    [(R.MEM_ERR_ADDR_LO, a / 128 * 128), (R.MEM_ERR_ADDR_HI, a / 2 ^ 32), (R.MEM_ERR_SRC_PORT, port),
     (R.MEM_ERR_SRC_STREAM, stream), (R.MEM_ERR_SRC_SCRUB, bool01 scrub)]
  (m.raise 33 0 (rankIx c r) (m.rd (R.MEM_CH_RK_UE c r))).rackTrigger c r 0

/-- A confirmed error in a shared window, reported to a requester, declares SHARED (R474). -/
def Mach.sharedFault (m : Mach) (a : Nat) : Mach := if m.sharedLine a then m.globalFault gShared else m

/-- An error completion goes to a port. -/
def Mach.portError (m : Mach) (p : Fin 12) (s : Byte) (a : Nat) : Mach :=
  (m.inc (R.MEM_PORT_ERRN p)).emit (.memReply p s a none)

/-! ## Panic (R366) -/

/-- The port's class is RT, fixed (R364). -/
def rtPort (p : Nat) : Bool := p == 2 || p == 4 || p == 5 || p == 7

/-- The level of a source's buffer, in sixteenths, is seen with a request. -/
def Mach.panicLevel (m : Mach) (p : Fin 12) (s : Byte) (level : Nat) : Mach :=
  if !rtPort p then m
  else
    let k := p.val * 256 + s.toNat
    let reads := p.val == 2 || p.val == 7
    let pon := m.rd (R.MEM_PORT_CFG_PON p)
    let poff := m.rd (R.MEM_PORT_CFG_POFF p)
    let enter := if reads then decide (level ≤ pon) else decide (pon ≤ level)
    let leave := if reads then decide (poff ≤ level) else decide (level ≤ poff)
    let was := m.mem.panic.contains k
    let set (m : Mach) (l : List Nat) : Mach :=
      { m with mem := { m.mem with panic := l }
               regs := rwr m.regs (R.MEM_PORT_STAT p) (bool01 (l.any fun q => q / 256 == p.val)) }
    if !was && enter then (set m (m.mem.panic ++ [k])).incRaiseOnce (R.MEM_PORT_PANICN p) 42 0 p
    else if was && leave then set m (m.mem.panic.filter (· != k))
    else m

/-! ## Rows (R367) -/

def rowKey (c r b : Nat) : Nat := (c * 3 + r) * 32 + b

/-- An access opens its row; with IDLE = 0 the row closes at once. -/
def Mach.openRow (m : Mach) (a : Nat) : Mach :=
  let k := rowKey (chanOf a) (m.physOf a) (Config.bankOf a).toNat
  { m with mem := { m.mem with
      rows := if m.rd R.MEM_PAGE = 0 then serase m.mem.rows k else sput m.mem.rows k (Config.rowOf a, m.mt) } }

/-- A row is closed after IDLE ns without an access. -/
def Mach.rowClose (m : Mach) (c : Fin 2) (r : Fin 3) (b : BitVec 5) : Mach :=
  match m.mem.rows.lookup (rowKey c r b.toNat) with
  | some (_, t) =>
    if m.rd R.MEM_PAGE * 4 ≤ (m.mt - t) * 5 then
      { m with mem := { m.mem with rows := serase m.mem.rows (rowKey c r b.toNat) } }
    else m
  | none => m

/-! ## Requests -/

/-- The bytes of the line that holds an address. -/
def Mach.lineBytes (m : Mach) (a : Nat) : List Byte := m.bytes (a / 128 * 128) 128

/-- The word that a read of a line answers: the four bytes at the address. -/
def Mach.answerLine (m : Mach) (p : Fin 12) (s : Byte) (a : Nat) : Mach :=
  { (m.emit (.memReply p s a (some (m.lineBytes a)))) with rdata := BitVec.ofNat 32 (m.le (a / 4 * 4) 4) }

/-- A read of the line that holds an address (R356 to R361). -/
def Mach.memRead (m : Mach) (p : Fin 12) (s : Byte) (a : Nat) (find : EccFind) (level : Nat) : Mach :=
  let m := m.panicLevel p s level
  if m.unbacked a then (m.incRaiseOnce R.MEM_UNBACKED 39 1 p).portError p s a
  else
    let m := m.openRow a
    let c := chanOf a
    let r := m.physOf a
    if m.mem.poison.contains (a / 128) then (m.raiseOnce 39 0 p 0).portError p s a
    else
      match find with
      | .clean | .retryClean => m.answerLine p s a
      | .correctable | .retryCorrectable => (m.eccCorrected c r).answerLine p s a
      | .confirmed => ((m.eccConfirmed a p s.toNat false).portError p s a).sharedFault a

/-- Bytes are made in memory within one line; a whole line clears its poison. -/
def Mach.storeLine (m : Mach) (a : Nat) (bs : List Byte) : Mach :=
  { m with mem := { m.mem with
      bytes := storeBytes m.mem.bytes a bs
      poison := if bs.length = 128 then m.mem.poison.filter (· != a / 128) else m.mem.poison } }

/-- A partial write is refused on poison (R361). -/
def Mach.refuseWrite (m : Mach) (p : Fin 12) (s : Byte) (a : Nat) : Mach :=
  (m.incRaiseOnce R.MEM_WPOISON 43 1 p).portError p s a

/-- A write within one line (R356, R361). -/
def Mach.writeLine (m : Mach) (p : Fin 12) (s : Byte) (a : Nat) (bs : List Byte) (find : EccFind) : Mach :=
  if m.unbacked a then m.incRaise R.MEM_UNBACKED 43 0 p
  else
    let m := m.openRow a
    let c := chanOf a
    let r := m.physOf a
    if bs.length = 128 then m.storeLine a bs
    else if m.mem.poison.contains (a / 128) then m.refuseWrite p s a
    else
      match find with
      | .clean | .retryClean => m.storeLine a bs
      | .correctable | .retryCorrectable => (m.eccCorrected c r).storeLine a bs
      | .confirmed => ((m.eccConfirmed a p s.toNat false).refuseWrite p s a).sharedFault a

/-- A write of bytes, line by line; `find` is what the reads of partial lines find. -/
def Mach.memPut (m : Mach) (p : Fin 12) (s : Byte) (a : Nat) (bs : List Byte) (find : EccFind) : Mach :=
  (linesOf a bs.length).foldl (fun (m : Mach) l =>
    m.writeLine p s (lineSlice a bs l).1 (lineSlice a bs l).2 find) m

/-- A write request. -/
def Mach.memWrite (m : Mach) (p : Fin 12) (s : Byte) (a : Nat) (bs : List Byte) (find : EccFind) (level : Nat) : Mach :=
  (m.panicLevel p s level).memPut p s a bs find

/-- A block of the module writes bytes through its port. -/
def Mach.dmaWrite (m : Mach) (p : Fin 12) (s : Nat) (a : Nat) (bs : List Byte) : Mach :=
  m.memPut p (BitVec.ofNat 8 s) a bs .clean

/-- A block of the module reads a range: a poisoned or unbacked line is an error (R356, R361). -/
def Mach.dmaReadErr (m : Mach) (p : Fin 12) (a n : Nat) : Mach :=
  if m.someUnbacked a n then ((m.incRaiseOnce R.MEM_UNBACKED 39 1 p).inc (R.MEM_PORT_ERRN p))
  else if m.poisoned a n then (m.raiseOnce 39 0 p 0).inc (R.MEM_PORT_ERRN p) else m

/-! ## Promotion (R365) -/

/-- Class of a port: 0 written to a port that is not RT acts as 1. -/
def Mach.portClassNow (m : Mach) (p : Fin 12) : Nat :=
  if rtPort p then 0 else max 1 (m.rd (R.MEM_PORT_CFG_CLASS p))

/-- A request of a port has waited beyond the age limit of its class. -/
def Mach.agePromote (m : Mach) (p : Fin 12) : Mach :=
  let c := m.portClassNow p
  let lim := if c = 2 then m.rd R.MEM_AGE_BE else if c = 3 then m.rd R.MEM_AGE_BG else 0
  if lim = 0 then m else m.inc (R.MEM_PORT_PROMO p)

/-! ## Scrub, parity, refresh, temperature -/

/-- Lines of a rank. -/
def rankLines : Nat := 2 ^ 26

/-- The logical rank that a physical rank backs. -/
def Mach.logicalOf (m : Mach) (c r : Nat) : Option Nat :=
  if m.backing c 0 = r then some 0 else if m.backing c 1 = r then some 1 else none

/-- Ranks in service. -/
def Mach.inService (m : Mach) : List (Fin 2 × Fin 3) :=
  (List.finRange 2).flatMap fun (c : Fin 2) => (List.finRange 3).filterMap fun (r : Fin 3) =>
    if m.rkState c r = 1 ∨ m.rkState c r = 2 then some (c, r) else none

/-- Lines of a rank read in the present pass. -/
def Mach.scrubbed (m : Mach) (c r : Nat) : Nat := sget (fun _ => 0) m.mem.scrubAt (rankIx c r)

/-- The patrol read of a line: what it finds. -/
def Mach.scrubFind (m : Mach) (a : Nat) (c r : Nat) (find : EccFind) : Mach :=
  if m.mem.poison.contains (a / 128) then m.raiseOnce 39 0 (rankIx c r) 0
  else
    match find with
    | .clean | .retryClean => m
    | .correctable | .retryCorrectable => m.eccCorrected c r
    | .confirmed => { (m.eccConfirmed a (Config.freeWord m.free).toNat (Config.freeWord (m.free + 1)).toNat true) with
                      free := m.free + 2 }

/-- The pass is complete when every line of every rank in service has been read. -/
def Mach.scrubEnd (m : Mach) : Mach :=
  if m.inService.all fun p => decide (rankLines ≤ m.scrubbed p.1 p.2) then
    ({ m with mem := { m.mem with scrubAt := [] } }).raise 44 0 0 0
  else m

/-- The patrol scrubber reads the next line of a rank (R362). -/
def Mach.scrubRead (m : Mach) (c : Fin 2) (r : Fin 3) (find : EccFind) : Mach :=
  let k := m.scrubbed c r
  match m.logicalOf c r with
  | none => m
  | some l =>
    if m.rd R.MEM_CTRL = 0 ∨ (m.rkState c r ≠ 1 ∧ m.rkState c r ≠ 2) ∨ rankLines ≤ k then m
    else
      let m := m.scrubFind (lineAddr c l (128 * k)) c r find
      ({ m with mem := { m.mem with scrubAt := sput m.mem.scrubAt (rankIx c r) (k + 1) } }).scrubEnd

/-- A command or address parity error of a rank (R363). -/
def Mach.caParity (m : Mach) (c : Fin 2) (r : Fin 3) : Mach :=
  let win := m.rd R.MEM_CAPTH_WIN * msTicks
  let l : List (Nat × Nat) := (m.mem.parity.filter fun p => decide (m.mt < p.2 + win)) ++ [(rankIx c r, m.mt)]
  let n : Nat := (l.filter fun p => p.1 == rankIx c r).length
  let m : Mach := { m with mem := { m.mem with parity := l } }
  let m : Mach := m.incRaiseOnce (R.MEM_CH_RK_CAPAR c r) 34 0 (rankIx c r)
  if max 1 (m.rd R.MEM_CAPTH_N) ≤ n ∧ m.rkState c r = 1 then m.rackTrigger c r 1
  else m

/-- A rank that MEM refreshes and trains. -/
def Mach.rankLives (m : Mach) (c r : Nat) : Bool := decide (m.rkState c r ≤ 3)

/-- A rank is refreshed (R370). -/
def Mach.refreshRank (m : Mach) (c : Fin 2) (r : Fin 3) : Mach :=
  if m.rankLives c r then { m with mem := { m.mem with refreshed := sput m.mem.refreshed (rankIx c r) m.mt } } else m

/-- Interval of refresh of a channel, ticks (R370). -/
def Mach.refreshEvery (m : Mach) (c : Nat) : Nat := if m.on (R.MEM_CH_TEMP_HOT c) then 1560 else 3120

/-- The highest of some temperatures. -/
def maxTemp (l : List Int) : Int := l.foldl max (l.headD 0)

/-- The temperatures of a channel's fifteen devices: the interval, and source 41 on a change. -/
def Mach.chanTemp (m : Mach) (c : Nat) (l : List Int) : Mach :=
  let hot := l.any fun t => decide (85 < t)
  let cool := l.all fun t => decide (t ≤ 80)
  let was := m.on (R.MEM_CH_TEMP_HOT c)
  let now := hot || (was && !cool)
  let m := m.wrs [(R.MEM_CH_TEMP_TEMP c, unsigned 8 (maxTemp l)), (R.MEM_CH_TEMP_HOT c, bool01 now)]
  if now = was then m else m.raise 41 0 c 0

/-- The temperatures of all thirty devices, channel by channel and rank by rank, five each (R370). -/
def Mach.dramTemps (m : Mach) (l : List Int) : Mach :=
  let m := { m with mem := { m.mem with temps := (List.range 6).map fun k => maxTemp ((l.drop (5 * k)).take 5) } }
  (m.chanTemp 0 (l.take 15)).chanTemp 1 ((l.drop 15).take 15)

/-! ## Retraining (R372, R373) -/

/-- The rank's highest device temperature at its last reading. -/
def Mach.rankTemp (m : Mach) (c r : Nat) : Int := m.mem.temps.getD (rankIx c r) 0

/-- A retraining of the rank is due. -/
def Mach.trainDue (m : Mach) (c r : Nat) : Bool :=
  let k := rankIx c r
  m.mem.training.contains k || m.mem.oweTrain.contains k ||
  decide (sget (fun _ => 0) m.mem.trainedAt k + 480000000000 ≤ m.now) ||
  decide (10 ≤ (m.rankTemp c r - m.rdS (R.MEM_CH_RK_TRAIN_LASTT c r)).natAbs)

/-- Windows of one rank are at least 100 µs apart. -/
def Mach.windowFree (m : Mach) (c r : Nat) : Bool :=
  match m.mem.winAt.lookup (rankIx c r) with
  | none => true
  | some t => decide (t + 80000 ≤ m.now)

/-- The last window has passed: the new setting is adopted, or the rank is SUSPECT. -/
def Mach.trainEnd (m : Mach) (c r : Nat) (ok : Bool) (temp : Int) : Mach :=
  let k := rankIx c r
  let drop (l : List Nat) : List Nat := l.filter (· != k)
  let m := { m with mem := { m.mem with
    training := drop m.mem.training, winBad := drop m.mem.winBad, oweTrain := drop m.mem.oweTrain
    trainedAt := sput m.mem.trainedAt k m.now } }
  let m := m.wr (R.MEM_CH_RK_TRAIN_LASTT c r) (unsigned 8 temp)
  if ok then m.inc (R.MEM_CH_RK_TRAIN_RETRAINS c r)
  else (m.wr (R.MEM_CH_RK_STATE_SUSPECT c r) 1).incRaise (R.MEM_CH_RK_TRFAIL c r) 38 0 (rankIx c r)

/-- A retraining window of a rank in service or spare. -/
def Mach.trainWindow (m : Mach) (c : Fin 2) (r : Fin 3) (last ok : Bool) (temp : Int) : Mach :=
  let k := rankIx c r
  if m.rkState c r ≤ 1 ∧ m.trainDue c r ∧ m.windowFree c r then
    let bad := if ok then m.mem.winBad else addLine m.mem.winBad k
    let m := { m with mem := { m.mem with
      training := addLine m.mem.training k, winBad := bad, winAt := sput m.mem.winAt k m.now } }
    if last then m.trainEnd c r (!bad.contains k) temp else m
  else m

/-! ## The copy (R375 to R378) -/

/-- The host requests racking (R375). -/
def Mach.rackCmd (m : Mach) (v : Word) : Mach :=
  if bits v.toNat 31 31 = 0 then m
  else
    let c := bits v.toNat 0 0
    m.rackStart c (m.backing c (bits v.toNat 1 1)) 2

/-- Start of the present pacing window of the copy: windows of 1 ms. -/
def Mach.paceFrom (m : Mach) (c : Nat) : Nat × Nat :=
  let p := m.mem.rackFrom.getD c (0, 0)
  if p.1 + msTicks < m.mt then (m.mt - 128 * 8 / max 1 (m.rd R.MEM_RACKRATE_EFF) - 1, m.mem.wmark.getD c 0) else p

/-- The pace allows one more line: EFF × 100 MB/s are EFF / 8 bytes per tick. -/
def Mach.paceOk (m : Mach) (c : Nat) : Bool :=
  let p := m.paceFrom c
  decide ((m.mem.wmark.getD c 0 + 128 - p.2) * 8 ≤ m.rd R.MEM_RACKRATE_EFF * (m.mt - p.1))

/-- The line at the watermark is copied (R376). -/
def Mach.rackCopy (m : Mach) (c : Fin 2) (find : EccFind) : Mach :=
  let w := m.mem.wmark.getD c 0
  if m.rd (R.MEM_RACK_STAT_STATE c) ≠ 1 ∨ 2 ^ 33 ≤ w ∨ !m.paceOk c then m
  else
    let a := lineAddr c (m.rd (R.MEM_RACK_STAT_LRANK c)) w
    let bad := m.mem.poison.contains (a / 128) || find == .confirmed
    let m := if bad then
        ({ m with mem := { m.mem with poison := addLine m.mem.poison (a / 128) } }).inc (R.MEM_RACK_POISCOPY c)
      else m
    let m := { m with mem := { m.mem with wmark := modify m.mem.wmark c fun _ => w + 128
                                          rackFrom := modify m.mem.rackFrom c fun _ => m.paceFrom c } }
    m.wr64 (R.MEM_RACK_WMARK_LO c) (R.MEM_RACK_WMARK_HI c) (w + 128)

/-- The watermark reaches 8 GiB (R378). -/
def Mach.rackDone (m : Mach) (c : Fin 2) : Mach :=
  if m.rd (R.MEM_RACK_STAT_STATE c) ≠ 1 ∨ m.mem.wmark.getD c 0 < 2 ^ 33 then m
  else
    let s := m.rd (R.MEM_CH_RMAP_SPARE c)
    let o := m.rd (R.MEM_RACK_STAT_SRC c)
    let l := m.rd (R.MEM_RACK_STAT_LRANK c)
    let m := { m with mem := { m.mem with out := addLine m.mem.out (rankIx c o) } }
    (m.wrs [(if l = 0 then R.MEM_CH_RMAP_L0 c else R.MEM_CH_RMAP_L1 c, s), (R.MEM_CH_RMAP_SPARE c, 3),
      (R.MEM_CH_RK_STATE_STATE c o, 4), (R.MEM_CH_RK_STATE_STATE c s, 1), (R.MEM_RACK_STAT_STATE c, 3),
      (R.MEM_CAP_SPARE, m.rd R.MEM_CAP_SPARE - 8)]).raise 36 0 (rankIx c o) 0

/-- Racking pauses in IDLE, and goes on in ACTIVE (R379). -/
def Mach.rackPause (m : Mach) (pause : Bool) : Mach :=
  (List.range 2).foldl (fun (m : Mach) c =>
    if m.racking c then m.wr (R.MEM_RACK_STAT_STATE c) (if pause then 2 else 1) else m) m

/-- Every rank in service or spare is to be retrained (R372). -/
def Mach.trainAll (m : Mach) : Mach :=
  { m with mem := { m.mem with oweTrain := (List.range 6).filter fun k => decide (m.rkState (k / 3) (k % 3) ≤ 1) } }

/-- Rows of the memory map are kept while a rank is trained: a trained rank, its temperature (R371). -/
def Mach.bootTrained (m : Mach) (c r : Nat) (temp : Int) : Mach :=
  ({ m with mem := { m.mem with trainedAt := sput m.mem.trainedAt (rankIx c r) m.now } }).wr
    (R.MEM_CH_RK_TRAIN_LASTT c r) (unsigned 8 temp)

end Sys2Proof.Machine
end

