-- ==== Sys2Proof/Machine/Pix.lean ====
section
/-! DEFINITION. Pixels: packings, scaling, colour conversion, tiled surfaces (09, 10). -/
namespace Sys2Proof.Machine

/-- A picture, row by row. -/
abbrev Pic := List (List Nat)

def Pic.at' (p : Pic) (x y : Nat) : Nat := (p.getD y []).getD x 0

/-- A picture of w × h pixels from a function of the place. -/
def picOf (w h : Nat) (f : Nat → Nat → Nat) : Pic :=
  (List.range h).map fun y => (List.range w).map fun x => f x y

/-- num / den rounded to an integer in a way that the spec leaves open: the floor, or the next one up
where the quotient is no integer. -/
def openRound (place : Nat) (num : Int) (den : Nat) : Int :=
  let q := num / den
  if num % den = 0 then q else if Config.roundUp place num den then q + 1 else q

/-! ## Packings (R284, R289) -/

/-- Bits of a pixel in a packing: RAW8, RAW10, RAW12. -/
def rawBits (fmt : Nat) : Nat := 8 + 2 * min fmt 2

/-- Bytes of a line of `w` pixels. -/
def lineLen (fmt w : Nat) : Nat := (w * rawBits fmt + 7) / 8

/-- Pixels of a group, and its bytes. -/
def rawGroup (fmt : Nat) : Nat := if fmt = 0 then 1 else if fmt = 1 then 4 else 2

/-- The pixels of one group of bytes as 12-bit codes: the high bits of each pixel, then one byte of low
bits. -/
def unpackGroup (fmt : Nat) (g : List Byte) : List Nat :=
  match fmt with
  | 0 => g.map fun b => b.toNat * 16
  | 1 =>
    let lo := (g.getLastD 0).toNat
    (indexed g.dropLast).map fun p => (p.2.toNat * 4 + lo / 4 ^ p.1 % 4) * 4
  | _ =>
    let lo := (g.getLastD 0).toNat
    (indexed g.dropLast).map fun p => p.2.toNat * 16 + lo / 16 ^ p.1 % 16

/-- Whole pixels of a line of bytes, as 12-bit codes (R228, R284). -/
def unpackLine (fmt : Nat) : Nat → List Byte → List Nat
  | 0, _ => []
  | _, [] => []
  | k + 1, l =>
    let n := if fmt = 0 then 1 else if fmt = 1 then 5 else 3
    unpackGroup fmt (l.take n) ++ unpackLine fmt k (l.drop n)

/-- The bytes of a group of 12-bit codes. -/
def packGroup (fmt : Nat) (g : List Nat) : List Byte :=
  match fmt with
  | 0 => g.map fun c => BitVec.ofNat 8 (c / 16)
  | 1 => g.map (fun c => BitVec.ofNat 8 (c / 16)) ++
      [BitVec.ofNat 8 ((indexed g).foldl (fun v p => v + p.2 / 4 % 4 * 4 ^ p.1) 0)]
  | _ => g.map (fun c => BitVec.ofNat 8 (c / 16)) ++
      [BitVec.ofNat 8 ((indexed g).foldl (fun v p => v + p.2 % 16 * 16 ^ p.1) 0)]

/-- The bytes of a line. -/
def packLine (fmt : Nat) : Nat → List Nat → List Byte
  | 0, _ => []
  | _, [] => []
  | k + 1, l => packGroup fmt (l.take (rawGroup fmt)) ++ packLine fmt k (l.drop (rawGroup fmt))

/-- A 12-bit code as its packing keeps it. -/
def quantize (fmt c : Nat) : Nat := if fmt = 0 then c / 16 * 16 else if fmt = 1 then c / 4 * 4 else c

/-- Bytes of the pixels of a frame in its packing. -/
def packPic (fmt w : Nat) (p : Pic) : List Byte := p.flatMap fun l => packLine fmt w l

/-! ## Scaling (R303, R314) -/

/-- The box of an axis: 1, 2 or 4 pixels are averaged first. -/
def boxSize (out inp : Nat) (four : Bool) : Nat :=
  if four && decide (out * 4 < inp) then 4 else if out * 2 < inp then 2 else 1

/-- A line averaged over boxes, rounded down. -/
def boxLine (b : Nat) (l : List Nat) : List Nat :=
  if b ≤ 1 then l
  else (List.range (l.length / b)).map fun i => ((l.drop (i * b)).take b).foldl (· + ·) 0 / b

/-- One sample of a line, also beyond its edge. -/
def lineAt (l : List Nat) (i : Int) : Nat :=
  if 0 ≤ i ∧ i < l.length then l.getD i.toNat 0 else (Config.scaleEdge l i).toNat

/-- Output pixel k of `out` from a line of `n` pixels: coefficient `co p t`, Q1.10; values up to `top`. -/
def scalePixel (co : Nat → Nat → Int) (top : Nat) (l : List Nat) (n out k : Nat) : Nat :=
  -- position times 2·out
  let pos : Int := (2 * k + 1) * n - out
  let d : Nat := 2 * max out 1
  let ph := openRound 1 (pos % d * 64) d
  let i := pos / d + ph / 64
  let p := (ph % 64).toNat
  let s := (List.range 4).foldl (fun (s : Int) t => s + co p t * lineAt l (i - 1 + t)) 0
  (clampI 0 top (openRound 2 s 1024)).toNat

/-- A line scaled to the first `made` of `out` pixels. -/
def scaleLine (co : Nat → Nat → Int) (top : Nat) (b out made : Nat) (l : List Nat) (full : Nat) : List Nat :=
  let l' := boxLine b l
  (List.range made).map fun k => scalePixel co top l' (full / b) out k

def column (p : Pic) (x : Nat) : List Nat := p.map fun l => l.getD x 0

/-- A picture scaled: lines first, then columns. `h` is the input height of the whole rectangle and
`made` the output lines produced. -/
def scalePic (hc vc : Nat → Nat → Int) (four : Bool) (top ow oh w h made : Nat) (p : Pic) : Pic :=
  let a := p.map fun l => scaleLine hc top (boxSize ow w four) ow ow l w
  let cols := (List.range ow).map fun x => scaleLine vc top (boxSize oh h four) oh made (column a x) h
  (List.range made).map fun y => cols.map fun c => c.getD y 0

/-! ## Colour (R304, R311) -/

/-- round(v × 255 / 65,535). -/
def to8 (v : Nat) : Nat := (v * 510 + 65535) / 131070

/-- 10,000 times the BT.709 luma of an RGB pixel. -/
def luma10k (r g b : Nat) : Nat := 2126 * r + 7152 * g + 722 * b

/-- Limited-range luma of colours up to `top`: 16 + 219 Y, or 64 + 876 Y at ten bits. -/
def lumaCode (ten : Bool) (top r g b : Nat) : Nat :=
  let s : Nat := if ten then 4 else 1
  (openRound 3 ((219 * s * luma10k r g b : Nat) + (16 * s * (10000 * top) : Nat)) (10000 * top)).toNat

/-- Limited-range chroma of colours up to `top`: Cb for `c` blue, Cr for `c` red; k is 1.8556 or 1.5748 times
10,000. -/
def chromaCode (ten : Bool) (top c k : Nat) (r g b : Nat) : Nat :=
  let s : Int := if ten then 4 else 1
  let d : Int := (10000 * c : Int) - luma10k r g b
  (openRound 4 (224 * s * d + 128 * s * (top * k : Nat)) (top * k)).toNat

def cbCode (ten : Bool) (top r g b : Nat) : Nat := chromaCode ten top b 18556 r g b
def crCode (ten : Bool) (top r g b : Nat) : Nat := chromaCode ten top r 15748 r g b

/-- Mean of the values of a 2 × 2 block, rounded down. -/
def blockMean (w h bx by' : Nat) (f : Nat → Nat → Nat) : Nat :=
  let ps := [(0, 0), (1, 0), (0, 1), (1, 1)].filter fun p => decide (2 * bx + p.1 < w ∧ 2 * by' + p.2 < h)
  (ps.foldl (fun s p => s + f (2 * bx + p.1) (2 * by' + p.2)) 0) / max 1 ps.length

/-- A little-endian value of one or two bytes. -/
def sampleBytes (two : Bool) (v : Nat) : List Byte := if two then leBytes 2 v else leBytes 1 v

/-- A plane of w × h samples. -/
def planeBytes (w h : Nat) (f : Nat → Nat → List Byte) : List Byte :=
  (List.range h).flatMap fun y => (List.range w).flatMap fun x => f x y

/-- ARGB8888 word of 16-bit colours. -/
def argbWord (r g b : Nat) : Nat := 0xFF000000 + to8 r * 65536 + to8 g * 256 + to8 b

/-- Limited-range luma of a 16-bit RGB pixel at sixteen bits: 4,096 + 56,064 Y (R304). -/
def luma16 (r g b : Nat) : Nat := (openRound 10 ((56064 * luma10k r g b : Nat) + 4096 * 655350000) 655350000).toNat

/-- The luma plane and the interleaved chroma plane of NV12 or P010 (`ten`). -/
def nvPlanes (ten mono : Bool) (top w h : Nat) (r g b : Pic) : List (List Byte) :=
  let sh := if ten then 64 else 1
  let y := planeBytes w h fun x y => sampleBytes ten (sh * lumaCode ten top (r.at' x y) (g.at' x y) (b.at' x y))
  let c (f : Bool → Nat → Nat → Nat → Nat → Nat) (x y : Nat) : Nat :=
    if mono then (if ten then 512 else 128)
    else blockMean w h x y fun x y => f ten top (r.at' x y) (g.at' x y) (b.at' x y)
  let uv := planeBytes ((w + 1) / 2) ((h + 1) / 2) fun x y =>
    sampleBytes ten (sh * c cbCode x y) ++ sampleBytes ten (sh * c crCode x y)
  [y, uv]

/-! ## Tiled surfaces (R312) -/

/-- Channel of an ARGB word: 0 A, 1 R, 2 G, 3 B. -/
def argbChan (v c : Nat) : Nat := v / 2 ^ (24 - 8 * c) % 256

/-- Signed difference mapped to a number. -/
def zigzag (v p : Nat) : Nat :=
  let d := (v + 256 - p) % 256
  if d < 128 then 2 * d else 2 * (256 - d) - 1

/-- The difference of a mapped number. -/
def unzigzag (z : Nat) : Nat := if z % 2 = 0 then z / 2 else 256 - (z + 1) / 2

/-- The prediction of a channel at (x, y) of a tile of 256 words. -/
def tilePred (t : List Nat) (c x y : Nat) : Nat :=
  if 0 < x then argbChan (t.getD (32 * y + x - 1) 0) c
  else if 0 < y then argbChan (t.getD (32 * (y - 1)) 0) c else 0

/-- Numbers of a row and a channel. -/
def tileRow (t : List Nat) (c y : Nat) : List Nat :=
  (List.range 32).map fun x => zigzag (argbChan (t.getD (32 * y + x) 0) c) (tilePred t c x y)

/-- The least width, at most 8, that holds every number of a list. -/
def rowWidth (l : List Nat) : Nat := (List.range 9).find? (fun w => l.all fun z => decide (z < 2 ^ w)) |>.getD 8

/-- Fields of a packed tile: value and bits. -/
def tileFields (t : List Nat) : List (Nat × Nat) :=
  (List.range 8).flatMap fun y => (List.range 4).flatMap fun c =>
    let l := tileRow t c y
    let w := rowWidth l
    (w, 4) :: l.map fun z => (z, w)

/-- Bytes of fields packed from bit 0 upwards. -/
def packBits (l : List (Nat × Nat)) : List Byte :=
  let r := l.foldl (fun (s : Nat × Nat) p => (s.1 + p.1 * 2 ^ s.2, s.2 + p.2)) (0, 0)
  leBytes ((r.2 + 7) / 8) r.1

/-- A tile of 256 ARGB words as MODE, LEN, WORD (solid) and data: solid where it may be, else packed or
raw as the encoder chooses. -/
def encodeTile (t : List Nat) : Nat × Nat × List Byte :=
  if t.all (· == t.headD 0) then (1, t.headD 0, [])
  else if Config.itcPack t then (2, 0, packBits (tileFields t))
  else (0, 0, t.flatMap fun v => leBytes 4 v)

/-- Round up to a multiple of 16. -/
def up16 (n : Nat) : Nat := (n + 15) / 16 * 16

/-- The tiles of a surface, row-major, each of 256 words; pixels beyond the surface are 0. -/
def tilesOfPic (w h : Nat) (f : Nat → Nat → Nat) : List (List Nat) :=
  (List.range ((h + 7) / 8)).flatMap fun ty => (List.range ((w + 31) / 32)).map fun tx =>
    (List.range 256).map fun i =>
      let x := 32 * tx + i % 32
      let y := 8 * ty + i / 32
      if x < w ∧ y < h then f x y else 0

/-- An ITC surface of w × h ARGB words: the table, then the tiles' data in order. -/
def encodeItc (w h : Nat) (f : Nat → Nat → Nat) : List Byte :=
  let ts := (tilesOfPic w h f).map encodeTile
  let base := up16 (8 * ts.length)
  let r := ts.foldl (fun (s : List Byte × List Byte) t =>
    let off := up16 (base + s.2.length)
    let pad := List.replicate (off - base - s.2.length) (0 : Byte)
    let word := if t.1 = 1 then t.2.1 else off
    let len := t.2.2.length
    (s.1 ++ leBytes 4 word ++ leBytes 2 len ++ [BitVec.ofNat 8 t.1, 0],
     if t.1 = 1 then s.2 else s.2 ++ pad ++ t.2.2)) ([], [])
  r.1 ++ List.replicate (base - r.1.length) 0 ++ r.2

/-- Bits [n, n + w) of a list of bytes as a number. -/
def bitField (v n w : Nat) : Nat := v / 2 ^ n % 2 ^ w

/-- The rows of a packed tile read from its number: words so far, newest row last; `none` for a width
above 8. -/
def decodeRows (v : Nat) : Nat → Nat → List Nat → Option (List Nat × Nat)
  | 0, pos, t => some (t, pos)
  | k + 1, pos, t =>
    let y := 8 - (k + 1)
    -- the four channels of the row: position and the row's words so far
    let step (s : Option (Nat × List Nat)) (c : Nat) : Option (Nat × List Nat) :=
      s.bind fun s =>
        let w := bitField v s.1 4
        if 8 < w then none
        else
          let row := (List.range 32).foldl (fun (r : List Nat) x =>
            let p := if 0 < x then argbChan (r.getD (x - 1) 0) c
              else if 0 < y then argbChan (t.getD (32 * (y - 1)) 0) c else 0
            let d := (p + unzigzag (bitField v (s.1 + 4 + w * x) w)) % 256
            modify r x fun u => u + d * 2 ^ (24 - 8 * c)) s.2
          some (s.1 + 4 + 32 * w, row)
    match (List.range 4).foldl step (some (pos, List.replicate 32 0)) with
    | none => none
    | some (pos', row) => decodeRows v k pos' (t ++ row)

/-- The 256 words of a packed tile; `none` where a width is above 8 or LEN is not the length. -/
def decodePacked (bs : List Byte) : Option (List Nat) :=
  match decodeRows (ofLe bs) 8 0 [] with
  | none => none
  | some (t, n) => if (n + 7) / 8 = bs.length then some t else none

/-- The words of tile number `k` of a surface at `base`; `none` for a tile in error (R313). -/
def Mach.itcTile (m : Mach) (base k : Nat) : Option (List Nat) :=
  let e := base + 8 * k
  let word := m.le e 4
  let len := m.le (e + 4) 2
  let mode := m.le (e + 6) 1
  let a := base + word
  let bad := m.poisoned e 8 || (mode != 1 && (word % 16 != 0 || decide (0x800000000 < a + len) || m.poisoned a len))
  if bad then none
  else if mode = 0 then (if len = 1024 then some ((List.range 256).map fun i => m.le (a + 4 * i) 4) else none)
  else if mode = 1 then (if len = 0 then some (List.replicate 256 word) else none)
  else if mode = 2 then decodePacked (m.bytes a len)
  else none

/-! ## Frame headers (R288) -/

/-- The flags of a frame as a number. -/
def GeomF.code (g : GeomF) : Nat :=
  bool01 g.frameShort + 2 * bool01 g.frameLong + 4 * bool01 g.lineShort + 8 * bool01 g.lineLong +
  16 * bool01 g.crcErr + 32 * bool01 g.pktLost + 64 * bool01 g.femiss

/-- What a frame header says. -/
structure Header where
  num : Nat
  geomf : Nat
  trigm : Bool
  fallbk : Bool
  fmt : Nat
  kind : Nat
  port : Nat
  strm : Nat
  mtFs : Nat
  mtTrig : Nat
  linesRx : Nat
  lmin : Nat
  lmax : Nat
  lines : Nat
  w : Nat
  h : Nat
  bytes : Nat
  mtFe : Nat
  offs : List Nat
  deriving DecidableEq, Repr

/-- The 64 bytes of a frame header. -/
def Header.encode (h : Header) : List Byte :=
  leBytes 4 h.num ++
  leBytes 4 (h.geomf + 2 ^ 7 * bool01 h.trigm + 2 ^ 8 * bool01 h.fallbk + 2 ^ 9 * h.fmt + 2 ^ 13 * h.kind +
    2 ^ 16 * h.port + 2 ^ 24 * h.strm) ++
  leBytes 8 h.mtFs ++ leBytes 8 h.mtTrig ++ leBytes 2 h.linesRx ++ leBytes 2 h.lmin ++ leBytes 2 h.lmax ++
  leBytes 2 h.lines ++ leBytes 2 h.w ++ leBytes 2 h.h ++ leBytes 4 h.bytes ++ leBytes 8 h.mtFe ++
  (List.range 4).flatMap fun i => leBytes 4 (h.offs.getD i 0)

/-- Round up to a multiple of 4,096. -/
def up4096 (n : Nat) : Nat := (n + 4095) / 4096 * 4096

/-- Offsets of planes in a slot: the first at 4,096, each further at the next multiple (R307). -/
def planeOffs : Nat → List Nat → List Nat
  | _, [] => []
  | o, n :: t => o :: planeOffs (up4096 (o + n)) t

/-- Bytes that a frame of planes takes in its slot. -/
def slotNeed (l : List Nat) : Nat :=
  match (planeOffs 4096 l).getLast?, l.getLast? with
  | some o, some n => o + n
  | _, _ => 4096

/-- Slots of a ring, 1 to 64. -/
def ringN (n : Nat) : Nat := clampN 1 64 n

/-- The next place of a ring. -/
def ringNext (size p : Nat) : Nat := (p + 1) % max 1 size

/-- A ring is full when the place after the next write is the next read. -/
def ringFull (size w r : Nat) : Bool := ringNext size w == r % max 1 size

end Sys2Proof.Machine
end

