-- ==== Sys2Proof/Machine/Img.lean ====
section
/-! DEFINITION. Camera ports, frames, triggers and the pool pipelines (09, 07). -/
namespace Sys2Proof.Machine

def Mach.setCam (m : Mach) (p : Fin 20) (c : Cam) : Mach := { m with cam := m.cam.set p c }

def Mach.setPool (m : Mach) (n : Fin 16) (x : Pool) : Mach := { m with pool := m.pool.set n x }

/-- The port receives. -/
def Mach.camOn (m : Mach) (p : Fin 20) : Bool := m.on (R.IMG_CAM_CTRL_EN p)

/-- The field of a pool port. -/
def poolOf (p : Fin 20) : Option (Fin 16) := if h : p.val < 16 then some ⟨p.val, h⟩ else none

/-! ## Limits and enabling (R280, R283, R284) -/

/-- Packing of a port: 0 RAW8, 1 RAW10, 2 RAW12. -/
def Mach.camFmt (m : Mach) (p : Nat) : Nat := m.rd (R.IMG_CAM_CTRL_DT p)

/-- LANES, DT and GEOM keep the limits of R280. -/
def Mach.camLimits (m : Mach) (p : Nat) (ctrl : Nat) : Bool :=
  let lanes := bits ctrl 3 1
  let dt := bits ctrl 5 4
  let w := m.rd (R.IMG_CAM_GEOM_WIDTH p)
  let h := m.rd (R.IMG_CAM_GEOM_HEIGHT p)
  let top := if p < 16 then 256 else 8192
  let pix := if p < 16 then 65536 else 20000000
  (lanes == 1 || lanes == 2 || (decide (16 ≤ p) && lanes == 4)) && decide (dt ≤ 2) &&
  decide (1 ≤ w ∧ w ≤ top ∧ 1 ≤ h ∧ h ≤ top ∧ w * h ≤ pix)

/-- The slot of a frame of the port's geometry (R292). -/
def Mach.slotSize (m : Mach) (p : Nat) : Nat :=
  (64 + lineLen (m.camFmt p) (m.rd (R.IMG_CAM_GEOM_WIDTH p)) * m.rd (R.IMG_CAM_GEOM_HEIGHT p) + 63) / 64 * 64

/-- A write of CTRL: while EN is 1 only the clearing of EN acts; EN is refused outside the limits. -/
def Mach.camCtrl (m : Mach) (p : Fin 20) (v : Word) : Mach :=
  let a := (R.IMG_CAM_CTRL_EN p).a
  if m.camOn p then m.wr (R.IMG_CAM_CTRL_CFGERR p) 1
  else if bits v.toNat 0 0 = 0 then m.plainWrite a v
  else if m.camLimits p v.toNat then
    let m := m.plainWrite a v
    let m := m.wr (R.IMG_CAM_WAIT_SLOT p) (m.slotSize p)
    m.setCam p { m.cam[p] with open_ := none, next := if p.val < 16 then m.cam[p].next else 0 }
  else ((m.plainWrite a v).wr (R.IMG_CAM_CTRL_EN p) 0).wr (R.IMG_CAM_CTRL_CFGERR p) 1

/-- A write of GEOM (R283). -/
def Mach.camGeom (m : Mach) (p : Fin 20) (v : Word) : Mach :=
  if m.camOn p then m.wr (R.IMG_CAM_CTRL_CFGERR p) 1 else m.plainWrite (R.IMG_CAM_GEOM_WIDTH p).a v

/-! ## Receiving (R281, R282, R286) -/

/-- The open frame changes. -/
def Mach.withOpen (m : Mach) (p : Fin 20) (g : Frame → Frame) : Mach :=
  match m.cam[p].open_ with
  | none => m
  | some f => m.setCam p { m.cam[p] with open_ := some (g f) }

/-- The pad code of a port (R286). -/
def Mach.padCode (m : Mach) (p : Nat) : Nat :=
  if p < 16 then m.rd (R.IMG_PP_BLACK p) else m.rd (R.IMG_CAM_BLACK p)

/-- A line of pixels joins a frame, shaped to its width. -/
def Frame.addLine (f : Frame) (l : List Nat) (pad : Nat) (crc : Bool) : Frame :=
  let n := l.length
  let shaped := l.take f.width ++ List.replicate (f.width - n) pad
  { f with
    lines := if f.linesRx < f.height then f.lines ++ [shaped] else f.lines
    linesRx := min 65535 (f.linesRx + 1)
    lmin := if f.linesRx = 0 then n else min f.lmin n
    lmax := max f.lmax n
    flags := { f.flags with
      lineShort := f.flags.lineShort || decide (n < f.width)
      lineLong := f.flags.lineLong || decide (f.width < n)
      frameLong := f.flags.frameLong || decide (f.height ≤ f.linesRx)
      crcErr := f.flags.crcErr || crc } }

/-! ## Triggers (R227, R291) -/

/-- Trigger period of a pool pipeline. -/
def Mach.tper (m : Mach) (n : Nat) : Nat := max 8000 (m.rd (R.IMG_PP_TPER n))

/-- Match window of a port. -/
def Mach.twin (m : Mach) (p : Nat) : Nat :=
  if p < 16 then
    let w := m.rd (R.IMG_PP_TWIN p)
    if w = 0 then m.tper p else w
  else m.rd (R.IMG_CAM_TWIN p)

/-- Frames of the port are matched to triggers. -/
def Mach.matches? (m : Mach) (p : Nat) : Bool :=
  if p < 16 then m.on (R.IMG_PP_CTRL_EN p) && m.rd (R.IMG_PP_CTRL_TMODE p) == 0
  else m.on (R.IMG_CAM_CTRL_TRIGM p)

/-- A trigger pulse is presented at this instant. -/
def Mach.trigPresented (m : Mach) (p : Fin 20) : Mach :=
  let m := m.emit (.trig p m.mt)
  if m.matches? p then m.setCam p { m.cam[p] with trigs := m.cam[p].trigs ++ [m.mt] } else m

/-- The trigger that a frame start at this instant is matched to. -/
def Mach.matchTrig (m : Mach) (p : Fin 20) : Option Nat :=
  if m.matches? p then m.cam[p].trigs.find? fun d => decide (m.mt ≤ d + m.twin p) else none

/-- A trigger unmatched for longer than its window is discarded. -/
def Mach.trigDiscard (m : Mach) (p : Fin 20) : Mach :=
  match m.cam[p].trigs with
  | [] => m
  | d :: t =>
    if m.mt ≤ d + m.twin p then m
    else
      let c := { m.cam[p] with trigs := t }
      if p.val < 16 then m.setCam p { c with lost := true }
      else (m.setCam p c).incRaiseOnce (R.IMG_CAM_TRIGLOST p) 130 0 p

/-- A write of TRIG of a bed port: a trigger due 2,000 ticks later. -/
def Mach.camTrig (m : Mach) (p : Fin 20) : Mach :=
  if p.val < 16 then m else m.trigPush p (m.mt + 2000)

/-! ## Frame numbers (R227, R290) -/

/-- Index of a due instant counted from 0 at EN. -/
def Mach.trigIndex (m : Mach) (n : Fin 16) (d : Nat) : Nat :=
  let per := m.tper n
  let ph := m.rd (R.IMG_PP_TPHASE n) % per
  let e := m.pool[n].enAt
  -- the first due instant at or after EN
  let first := e + (ph + per - e % per) % per
  (d - first) / per

/-- Number of the frame that starts now, matched to `d`; free where R227 gives none. -/
def Mach.frameNum (m : Mach) (p : Fin 20) (d : Option Nat) : Word :=
  match poolOf p with
  | none => m.cam[p].next
  | some n =>
    if m.rd (R.IMG_PP_CTRL_TMODE n) = 1 then m.cam[p].next
    else match d with
      | some d => BitVec.ofNat 32 (m.trigIndex n d)
      | none => Config.freeWord m.free

/-- A frame opens at this instant. -/
def Mach.newFrame (m : Mach) (p : Fin 20) : Frame :=
  { port := p, num := m.frameNum p (m.matchTrig p), mtFs := m.mt, mtFe := m.mt, trig := m.matchTrig p
    width := m.rd (R.IMG_CAM_GEOM_WIDTH p), height := m.rd (R.IMG_CAM_GEOM_HEIGHT p), fmt := m.camFmt p
    lines := [], linesRx := 0, lmin := 0, lmax := 0
    flags := ⟨false, false, false, false, false, false, false⟩, lastPkt := m.mt, closed := false
    slot := 0, taken := false }

/-! ## Pool statistics (R228 to R231) -/

/-- Quotient in Q16.16, to nearest, ties to even. -/
def q16 (num : Rat) : Int := rroundEven (num * 65536)

/-- The pixels of a frame with their places: (column, row, q). -/
def poolPixels (black : Nat) (p : Pic) : List (Nat × Nat × Nat) :=
  (indexed p).flatMap fun r => (indexed r.2).map fun c => (c.1, r.1, c.2 - black)

/-- Sum of a function over pixels. -/
def sumPix (l : List (Nat × Nat × Nat)) (f : Nat → Nat → Nat → Nat) : Nat :=
  l.foldl (fun s t => s + f t.1 t.2.1 t.2.2) 0

/-- The largest code of a packing as a 12-bit code. -/
def maxCode (fmt : Nat) : Nat := if fmt = 0 then 0xFF0 else if fmt = 1 then 0xFFC else 0xFFF

/-- The LGATE pin was high throughout [a, b]. -/
def Lch.pinHeld (l : Lch) (a b : Nat) : Bool :=
  inEffect false l.pinHist a && l.pinHist.all fun p => p.2 || decide (p.1 ≤ a ∨ b < p.1)

/-- The pool flags of a record (R230). -/
def Mach.poolFlags (m : Mach) (n : Nat) (r : PoolRec) : Byte :=
  BitVec.ofNat 8 ((List.range 8).foldl (fun v k =>
    let s := match m.rd (R.IMG_PP_FLAG_CFG_STAT n k) with
      | 1 => r.areaA | 2 => r.areaB | 3 => r.peak | 4 => r.nsat | 5 => r.cx | 6 => r.cy | _ => r.sum
    let t := m.rd (R.IMG_PP_FLAG_THRESH n k)
    let hit := if m.on (R.IMG_PP_FLAG_CFG_GT n k) then decide (t < s) else decide (s < t)
    v + 2 ^ k * bool01 hit) 0)

/-- The mid-exposure instant of a frame (R227); free where it has no trigger in TMODE 0. -/
def Mach.tmid (m : Mach) (n : Nat) (f : Frame) : Nat :=
  if m.rd (R.IMG_PP_CTRL_TMODE n) = 1 then f.mtFs - m.rd (R.IMG_PP_FSOFF n)
  else match f.trig with
    | some d => d + m.rd (R.IMG_PP_EXPDLY n) + m.rd (R.IMG_PP_EXPT n) / 2
    | none => (Config.freeWord m.free).toNat

/-- A mismatched frame (R287). -/
def GeomF.bad (g : GeomF) : Bool := g.code != 0

/-- The statistics record of a closed frame (R228 to R231). -/
def Mach.poolRecord (m : Mach) (n : Fin 16) (f : Frame) (lost : Bool) : PoolRec :=
  let px := poolPixels (m.rd (R.IMG_PP_BLACK n)) f.lines
  let s := sumPix px fun _ _ q => q
  let sr : Rat := (s : Rat)
  let mean (g : Nat → Nat → Nat → Nat) : Rat := if s = 0 then 0 else (sumPix px g : Rat) / sr
  let ex := mean fun c _ q => q * c
  let ey := mean fun _ r q => q * r
  let peak := px.foldl (fun b t => max b t.2.2) 0
  let first := (px.find? fun t => t.2.2 == peak).getD (0, 0, 0)
  let tm := m.tmid n f
  let half := m.rd (R.IMG_PP_EXPT n) / 2
  let fe := m.fe[n]
  let sn := fe.snapAt tm
  let b := m.bedAt n tm
  let nsat := (f.lines.flatMap id).countP (fun c => decide (maxCode f.fmt ≤ c))
  let smax := m.rd (R.IMG_PP_SATMAX n)
  let inv := 2 ^ 0 * bool01 (!fe.lch.pinHeld (tm - (half + m.rd (R.IMG_PP_EXPT n) % 2)) (tm + half)) + 2 * bool01 f.flags.bad +
    4 * bool01 lost + 8 * bool01 (smax != 0 && decide (smax < nsat))
  let r : PoolRec :=
    { frame := f.num, inv := BitVec.ofNat 4 inv, pflag := 0, tmid := tm, x := b.1, y := b.2, pc := sn.pc
      owner := sn.owner, layer := sn.layer, pplan := (m.planPower n tm).toNat, keff := fe.lch.keffAt sn tm
      stat := sn.stat.toNat, target := sn.target.toNat
      sum := min s (2 ^ 32 - 1), areaA := px.countP fun t => decide (m.rd (R.IMG_PP_THR_THRA n) ≤ t.2.2)
      areaB := px.countP fun t => decide (m.rd (R.IMG_PP_THR_THRB n) ≤ t.2.2)
      peak := peak, peakCol := first.1, peakRow := first.2.1
      cx := (q16 ex).toNat, cy := (q16 ey).toNat
      mxx := (q16 (mean (fun c _ q => q * c * c) - ex * ex)).toNat
      myy := (q16 (mean (fun _ r q => q * r * r) - ey * ey)).toNat
      mxy := q16 (mean (fun c r q => q * c * r) - ex * ey)
      nsat := nsat
      hist := (List.range 64).map fun k => min 65535 (px.countP fun t => decide (t.2.2 / 64 = k))
      tfe := f.mtFe }
  { r with pflag := m.poolFlags n r }

/-- The 256 bytes of a record (R231). -/
def PoolRec.encode (r : PoolRec) : List Byte :=
  leBytes 4 r.frame.toNat ++ leBytes 4 (bool01 (r.inv == 0) + 2 * r.inv.toNat + 256 * r.pflag.toNat) ++
  leBytes 8 r.tmid ++ leBytes 4 (unsigned 32 r.x) ++ leBytes 4 (unsigned 32 r.y) ++
  leBytes 8 (r.pc.toNat + (match r.owner with | some c => 2 ^ 36 * c.val + 2 ^ 39 | none => 0)) ++
  leBytes 4 r.layer.toNat ++ leBytes 2 r.pplan ++ leBytes 2 r.keff ++
  leBytes 4 r.sum ++ leBytes 4 r.areaA ++ leBytes 4 r.areaB ++
  leBytes 2 r.peak ++ leBytes 1 r.peakCol ++ leBytes 1 r.peakRow ++
  leBytes 4 r.cx ++ leBytes 4 r.cy ++ leBytes 4 r.mxx ++ leBytes 4 r.myy ++ leBytes 4 (unsigned 32 r.mxy) ++
  leBytes 4 r.nsat ++ r.hist.flatMap (leBytes 2) ++ List.replicate 48 0

/-- A closed pool frame gives a record, which waits for its delivery. -/
def Mach.poolClose (m : Mach) (n : Fin 16) (p : Fin 20) (f : Frame) : Mach :=
  if m.on (R.IMG_PP_CTRL_EN n) then
    let r := m.poolRecord n f m.cam[p].lost
    let m := m.setCam p { m.cam[p] with lost := false }
    { (m.setPool n { m.pool[n] with pend := m.pool[n].pend ++ [r] }) with free := m.free + 1 }
  else m

/-- A record goes to its ring, or is lost there (R232). -/
def Mach.recWrite (m : Mach) (n : Fin 16) (r : PoolRec) : Mach :=
  let size := 2 ^ (8 + m.rd (R.IMG_PP_REC_SIZE n))
  let w := m.rd (R.IMG_PP_REC_WPTR n)
  if ringFull size w (m.rd (R.IMG_PP_REC_RPTR n)) then m.incRaiseOnce (R.IMG_PP_REC_LOST n) (112 + n) 1 n
  else
    (m.dmaWrite 4 n (m.addr (R.IMG_PP_REC_BASE_LO n) (R.IMG_PP_REC_BASE_HI n) + 256 * w) r.encode).wr
      (R.IMG_PP_REC_WPTR n) (ringNext size w)

/-- PP_n delivers its oldest record (R180, R230, R232, R240). -/
def Mach.poolDeliver (m : Mach) (n : Fin 16) : Mach :=
  match m.pool[n].pend with
  | [] => m
  | r :: t =>
    let x := m.pool[n]
    let m := m.setPool n { x with pend := t, flags := if r.inv = 0 then r.pflag else x.flags }
    let m := m.wr (R.IMG_PP_LAST_FRAME n) r.frame.toNat
    let m := if r.inv = 0 then m.wr (R.IMG_PP_LAST_VALID n) r.frame.toNat else m
    let m := if r.inv.getLsbD 2 then m.raiseOnce (112 + n) 0 n 0 else m
    let m := if m.on (R.IMG_PP_CTRL_RECEN n) then m.recWrite n r else m
    m.deliverRec n r

/-- A write of EN of a pool pipeline: numbers and flags begin anew (R227, R230). -/
def Mach.poolEnable (m : Mach) (n : Fin 16) : Mach :=
  let p : Fin 20 := ⟨n, by omega⟩
  (m.setPool n { pend := [], flags := 0, enAt := m.mt }).setCam p { m.cam[p] with trigs := [], lost := false, next := 0 }

/-! ## Closing (R285 to R289, R292, R293) -/

/-- The header of a capture. -/
def Frame.header (f : Frame) : Header :=
  { num := f.num.toNat, geomf := f.flags.code, trigm := f.trig.isSome, fallbk := false, fmt := f.fmt, kind := 0
    port := f.port, strm := 0, mtFs := f.mtFs, mtTrig := f.trig.getD 0, linesRx := f.linesRx, lmin := f.lmin
    lmax := f.lmax, lines := f.lines.length, w := f.width, h := f.lines.length
    bytes := lineLen f.fmt f.width * f.lines.length, mtFe := f.mtFe, offs := [64] }

/-- The bytes of a capture: header and pixels. -/
def Frame.encode (f : Frame) : List Byte := f.header.encode ++ packPic f.fmt f.width f.lines

/-- The pixels of a frame as memory keeps them. -/
def Frame.stored (f : Frame) : Frame := { f with lines := f.lines.map fun l => l.map (quantize f.fmt) }

/-- A frame goes to the archive ring of its pool port (R309). -/
def Mach.archive (m : Mach) (p : Fin 20) (f : Frame) : Mach :=
  if decide (p.val < 16) && m.on (R.IMG_CAM_ARCH_CTRL_ARCH p) then
    let size := 2 ^ (8 + m.rd (R.IMG_CAM_ARCH_CTRL_SIZE p))
    let w := m.rd (R.IMG_CAM_ARCH_WPTR p)
    if ringFull size w (m.rd (R.IMG_CAM_ARCH_RPTR p)) then m.incRaiseOnce (R.IMG_CAM_ARCH_LOST p) 130 1 p
    else
      (m.dmaWrite 4 p (m.addr (R.IMG_CAM_ARCH_BASE_LO p) (R.IMG_CAM_ARCH_BASE_HI p) +
        m.rd (R.IMG_CAM_WAIT_SLOT p) * w) f.encode).wr (R.IMG_CAM_ARCH_WPTR p) (ringNext size w)
  else m

/-- The port has a wait ring (R292). -/
def Mach.hasRing (m : Mach) (p : Nat) : Bool :=
  if p < 16 then m.rd (R.IMG_CAM_DECIM p) != 0 else decide (18 ≤ p) && m.on (R.IMG_CAM_CTRL_EN p)

/-- The frame enters the wait ring of its port. -/
def Mach.waits? (m : Mach) (p : Fin 20) (f : Frame) : Bool :=
  m.hasRing p && (decide (16 ≤ p.val) || f.num.toNat % max 1 (m.rd (R.IMG_CAM_DECIM p)) == 0)

/-- The first slot from `k` on that holds no frame. -/
def freeSlot (l : List Frame) (k : Nat) : Nat :=
  (((List.range 4).map fun i => (k + i) % 4).find? fun s => !l.any (·.slot == s)).getD 0

/-- A frame waits in memory, or is dropped (R293). -/
def Mach.waitRing (m : Mach) (p : Fin 20) (f : Frame) : Mach :=
  let c := m.cam[p]
  if !m.waits? p f then m
  else if 4 ≤ c.ring.length then m.incRaiseOnce (R.IMG_CAM_DROP p) 129 0 p
  else
    let s := freeSlot c.ring c.ringSlot
    (m.setCam p { c with ring := c.ring ++ [{ f.stored with slot := s }], ringSlot := (s + 1) % 4 }).dmaWrite 5 p
      (m.addr (R.IMG_CAM_WAIT_BASE_LO p) (R.IMG_CAM_WAIT_BASE_HI p) + m.rd (R.IMG_CAM_WAIT_SLOT p) * s) f.encode

/-- Counters and registers of a closed frame (R286, R287). -/
def Mach.noteClosed (m : Mach) (p : Fin 20) (f : Frame) : Mach :=
  let m := (m.inc (R.IMG_CAM_FRAMES p)).wrs
    [(R.IMG_CAM_LAST p, f.num.toNat), (R.IMG_CAM_LASTG_GEOMF p, f.flags.code),
     (R.IMG_CAM_LASTG_LINESRX p, f.linesRx), (R.IMG_CAM_LASTL_LMIN p, f.lmin), (R.IMG_CAM_LASTL_LMAX p, f.lmax)]
  if f.flags.bad then m.incRaiseOnce (R.IMG_CAM_MISMATCH p) 128 0 p else m

/-- A frame as it closes at this instant. -/
def Frame.close (f : Frame) (t : Nat) (femiss : Bool) : Frame :=
  { f with mtFe := t, closed := true
           flags := { f.flags with frameShort := decide (f.linesRx < f.height), femiss := f.flags.femiss || femiss } }

/-- The in-line frame of a BI closes. -/
def Bi.closeInline (b : Bi) (f : Frame) : Bi :=
  match b.cur with
  | some j => if j.frame.port = f.port ∧ !j.frame.closed then { b with cur := some { j with frame := f } } else b
  | none => b

/-- The BI of an in-line port. -/
def inlineBi (p : Fin 20) : Option (Fin 2) := if p.val = 16 then some 0 else if p.val = 17 then some 1 else none

/-- The open frame closes (R285). -/
def Mach.closeFrame (m : Mach) (p : Fin 20) (femiss : Bool) : Mach :=
  match m.cam[p].open_ with
  | none => m
  | some f0 =>
    let f := f0.close m.mt femiss
    let m := (m.setCam p { m.cam[p] with open_ := none }).noteClosed p f
    let m := match poolOf p with | some n => m.poolClose n p f | none => m
    let m := (m.archive p f).waitRing p f
    match inlineBi p with
    | some b => { m with bi := m.bi.set b (m.bi[b].closeInline f) }
    | none => m

/-- FTO µs without a packet of the port (R285). -/
def Mach.frameTimeout (m : Mach) (p : Fin 20) : Mach :=
  match m.cam[p].open_ with
  | none => m
  | some f =>
    let t := m.rd (R.IMG_CAM_FTO p)
    if t ≠ 0 ∧ f.lastPkt + t * 800 ≤ m.mt then m.closeFrame p true else m

/-- A D-PHY error of a port (R310). -/
def Mach.dphyError (m : Mach) (p : Fin 20) : Mach := m.raiseOnce 135 0 p 0

end Sys2Proof.Machine
end

