-- ==== Sys2Proof/Machine/Bi.lean ====
section
/-! DEFINITION. Bed image processors: shadow sets, the processing stages, statistics, streams, and the
frames of a camera port (09). -/
namespace Sys2Proof.Machine

def Mach.setBi (m : Mach) (b : Fin 2) (x : Bi) : Mach := { m with bi := m.bi.set b x }

/-! ## Shadow sets (R301) -/

/-- Base address of a BI. -/
def biBase (b : Nat) : Nat := 0x1020000 + b * 0x10000

/-- Address ranges of a shadow set: index 0 to 2 a bank, 3 to 6 a stream. -/
def setRanges (b k : Nat) : List (Nat × Nat) :=
  if k < 3 then [(biBase b + 0x4000 + k * 0x4000, biBase b + 0x8000 + k * 0x4000)]
  else
    let s := k - 3
    [(biBase b + 0x400 + s * 0x100, biBase b + 0x428 + s * 0x100), (biBase b + 0x1000 + s * 0x800, biBase b + 0x1800 + s * 0x800)]

def inRanges (l : List (Nat × Nat)) (a : Nat) : Bool := l.any fun r => decide (r.1 ≤ a ∧ a < r.2)

/-- The in-force words with those of some ranges taken from the shadow copy. -/
def takeRanges (force regs : Sparse Word) (l : List (Nat × Nat)) : Sparse Word :=
  (regs.filter fun p => inRanges l p.1).foldr (fun p g => rput g p.1 p.2) (force.filter fun p => !inRanges l p.1)

/-- Index of a shadow set among a BI's seven. -/
def setIx : ShadowSet → Fin 2 × Nat
  | .bank b k => (b, k)
  | .stream b s => (b, 3 + s)

/-- The COMMIT bit of a set. -/
def commitBit (b k : Nat) : RF := if k < 3 then R.IMG_BI_BK_COMMIT b k else R.IMG_BI_S_COMMIT b (k - 3)

/-- COMMIT makes a set pending. -/
def Mach.shadowCommit (m : Mach) (x : ShadowSet) : Mach :=
  let i := setIx x
  let bi := m.bi[i.1]
  { m with
    bi := m.bi.set i.1 { bi with commits := modify bi.commits i.2 fun _ => some m.mt }
    regs := rwr m.regs (commitBit i.1 i.2) 1 }

/-- A set is pending and meets a boundary at this instant (R308). -/
def Mach.setDue (m : Mach) (b : Fin 2) (k : Nat) : Bool :=
  match (m.bi[b].commits).getD k none with
  | some t => decide (t < m.mt)
  | none => false

/-- A pending set is no longer pending. -/
def Mach.setTaken (m : Mach) (b : Fin 2) (k : Nat) : Mach :=
  let bi := m.bi[b]
  { m with
    bi := m.bi.set b { bi with commits := modify bi.commits k fun _ => none }
    regs := rwr m.regs (commitBit b k) 0 }

/-! ## Streams: settings and checks (R302 to R306) -/

/-- A stream's settings as one record, from a set of words. -/
structure StreamCfg where
  en : Bool
  chain : Bool
  fmt : Nat
  fbcod : Bool
  fbmono : Bool
  fencen : Bool
  src : Nat
  cx : Nat
  cy : Nat
  cw : Nat
  ch : Nat
  ow : Nat
  oh : Nat
  base : Nat
  slot : Nat
  nslot : Nat
  fence : Nat
  deriving DecidableEq, Repr

/-- The settings of a stream in a set of words. -/
def streamCfg (g : Sparse Word) (b s : Nat) : StreamCfg :=
  let r (f : Nat → Nat → RF) : Nat := rrd g (f b s)
  { en := r R.IMG_BI_S_CTRL_EN == 1, chain := r R.IMG_BI_S_CTRL_CHAIN == 1 && s % 2 == 0
    fmt := r R.IMG_BI_S_CTRL_FMT, fbcod := r R.IMG_BI_S_CTRL_FBCOD == 1
    fbmono := r R.IMG_BI_S_CTRL_FBMONO == 1, fencen := r R.IMG_BI_S_CTRL_FENCEN == 1
    src := r R.IMG_BI_S_CTRL_SRC, cx := r R.IMG_BI_S_CROP_POS_CX, cy := r R.IMG_BI_S_CROP_POS_CY
    cw := r R.IMG_BI_S_CROP_SIZE_CW, ch := r R.IMG_BI_S_CROP_SIZE_CH
    ow := r R.IMG_BI_S_OUT_SIZE_OW, oh := r R.IMG_BI_S_OUT_SIZE_OH
    base := r R.IMG_BI_S_SBASE_LO * 4096 + r R.IMG_BI_S_SBASE_HI * 2 ^ 32
    slot := r R.IMG_BI_S_SLOT, nslot := ringN (r R.IMG_BI_S_NSLOT)
    fence := r R.IMG_BI_S_FENCE_LO * 4 + r R.IMG_BI_S_FENCE_HI * 2 ^ 32 }

/-- Bytes of the planes of a format at w × h. -/
def planeSizes (fmt w h : Nat) : List Nat :=
  match fmt with
  | 0 => [4 * w * h]
  | 1 => [w * h, 2 * ((w + 1) / 2 * ((h + 1) / 2))]
  | 2 => [2 * w * h, 4 * ((w + 1) / 2 * ((h + 1) / 2))]
  | 3 => [w * h]
  | 4 => [2 * w * h]
  | _ =>
    let t := (w + 31) / 32 * ((h + 7) / 8)
    [up16 (8 * t) + 1024 * t]

/-- A ratio out / in within 1/8 to 2. -/
def ratioOk (out inp : Nat) : Bool := decide (0 < inp ∧ 0 < out ∧ inp ≤ 8 * out ∧ out ≤ 2 * inp)

/-- The first REFCODE of a set for a source of w × h; 0 when it is accepted (R305). -/
def StreamCfg.refuse (c : StreamCfg) (w h : Nat) : Nat :=
  if (if c.chain then 8192 else 4096) < max c.cw c.ow then 1
  else if !(ratioOk c.ow c.cw && ratioOk c.oh c.ch && decide (c.fmt ≤ 5)) then 2
  else if w < c.cx + c.cw ∨ h < c.cy + c.ch then 3
  else if c.slot * 4096 < slotNeed (planeSizes c.fmt c.ow c.oh) then 4 else 0

/-- A pending set of a stream takes effect, is refused, or puts the stream in fallback (R301, R305,
R306). -/
def Mach.streamApply (m : Mach) (b : Fin 2) (s : Nat) (w h : Nat) : Mach :=
  let c := streamCfg m.regs b s
  let e := c.refuse w h
  let first := !(m.bi[b].accepted.getD s false)
  let m := m.setTaken b (3 + s)
  let bi := m.bi[b]
  let taken : Mach := { m with force := takeRanges m.force m.regs (setRanges b (3 + s)) }
  if e = 0 then
    (taken.setBi b { bi with accepted := modify bi.accepted s fun _ => true }).wr
      (R.IMG_BI_S_STATUS_STATE b s) (bool01 c.en)
  else
    let m := if first then taken.wr (R.IMG_BI_S_STATUS_STATE b s) (if c.en then 2 else 0) else m
    let m := m.wr (R.IMG_BI_S_STATUS_REFCODE b s) e
    let m := if e = 1 then m.wr (R.IMG_BI_S_STATUS_SCL_LBUF b s) 1 else m
    m.raise 131 0 (4 * b + s) 0

/-- The sets that a frame of a port with a bank meets at the start of its processing. -/
def Mach.applySets (m : Mach) (b : Fin 2) (bank : Nat) (f : Frame) : Mach :=
  let m := if m.setDue b bank then
      { m.setTaken b bank with force := takeRanges m.force m.regs (setRanges b bank) } else m
  (List.range 4).foldl (fun (m : Mach) s =>
    if m.setDue b (3 + s) && (streamCfg m.regs b s).src == f.port.val then m.streamApply b s f.width f.height
    else m) m

/-! ## Processing a frame -/

/-- The words in force of a BI. -/
def biForce (g : Sparse Word) (b : Nat) : Sparse Word :=
  g.filter fun p => decide (biBase b ≤ p.1 ∧ p.1 < biBase b + 0x10000)

/-- Processing of a frame begins with a bank. -/
def Mach.biStart (m : Mach) (b : Fin 2) (bank : Nat) (f : Frame) : Mach :=
  let m := m.applySets b bank f
  let j : BiJob := { frame := f, bank := bank, force := biForce m.force b
                     modes := (List.range 4).map fun s => m.rd (R.IMG_BI_S_STATUS_STATE b s) }
  (m.setBi b { m.bi[b] with cur := some j }).wrs [(R.IMG_BI_STATUS_BUSY b, 1), (R.IMG_BI_STATUS_PORT b, f.port)]

/-- The BI goes on with its suspended frame, or is free. -/
def Mach.biNext (m : Mach) (b : Fin 2) : Mach :=
  let x := m.bi[b]
  let m := m.setBi b { x with cur := x.susp, susp := none }
  match x.susp with
  | some j => m.wrs [(R.IMG_BI_STATUS_BUSY b, 1), (R.IMG_BI_STATUS_PORT b, j.frame.port)]
  | none => m.wr (R.IMG_BI_STATUS_BUSY b) 0

/-- Mirror of an index about the edges, without repeating the edge pixel. -/
def mirror (n : Nat) (i : Int) : Nat :=
  let j := if i < 0 then -i else if n ≤ i then 2 * ((n : Int) - 1) - i else i
  (clampI 0 (n - 1 : Nat) j).toNat

/-- A pixel of a picture of w × h, mirrored beyond the edge. -/
def Pic.mir (p : Pic) (w h : Nat) (x y : Int) : Nat := p.at' (mirror w x) (mirror h y)

/-- Channel of a pixel: 0 R, 1 Gr, 2 Gb, 3 B; 0 for a mono frame (R299). -/
def cfaChan (cfa x y : Nat) : Nat :=
  let k := x % 2 + 2 * (y % 2)
  match cfa with
  | 1 => [0, 1, 2, 3].getD k 0
  | 2 => [1, 0, 3, 2].getD k 0
  | 3 => [2, 3, 0, 1].getD k 0
  | 4 => [3, 2, 1, 0].getD k 0
  | _ => 0

/-- A frame's processing: the words in force, BI, bank, size, and pattern. -/
structure Proc where
  g : Sparse Word
  b : Nat
  k : Nat
  w : Nat
  h : Nat
  /-- Height of the source geometry. -/
  hs : Nat
  cfa : Nat
  deriving DecidableEq, Repr

def Proc.rd (p : Proc) (r : RF) : Nat := rrd p.g r

/-- Insertion sort of a short list. -/
def sortN (l : List Nat) : List Nat :=
  l.foldr (fun a s => (s.takeWhile (decide <| · < a)) ++ a :: (s.dropWhile (decide <| · < a))) []

/-- Stage 1: black level. -/
def Proc.black (p : Proc) (f : Pic) : Pic :=
  picOf p.w p.h fun x y =>
    let c := cfaChan p.cfa x y
    let bl := if c % 2 = 0 then p.rd (R.IMG_BI_BK_BL_BLA p.b p.k (c / 2)) else p.rd (R.IMG_BI_BK_BL_BLB p.b p.k (c / 2))
    16 * f.at' x y - 16 * bl

/-- The eight nearest same-channel neighbours. -/
def Proc.around (p : Proc) (v : Pic) (x y : Nat) : List Nat :=
  let d : Int := if p.cfa = 0 then 1 else 2
  [(-1, -1), (0, -1), (1, -1), (-1, 0), (1, 0), (-1, 1), (0, 1), (1, 1)].map fun (o : Int × Int) =>
    v.mir p.w p.h (x + d * o.1) (y + d * o.2)

/-- Listed defects, by 8,192·Y + X. -/
def Proc.defects (p : Proc) : List Nat :=
  (List.range (min 1024 (p.rd (R.IMG_BI_BK_DPC_NDEF p.b p.k)))).map fun d =>
    8192 * p.rd (R.IMG_BI_BK_DEF_Y p.b p.k d) + p.rd (R.IMG_BI_BK_DEF_X p.b p.k d)

/-- Stage 2: defect pixels. -/
def Proc.defect (p : Proc) (v : Pic) : Pic :=
  let dth := p.rd (R.IMG_BI_BK_DPC_DTH p.b p.k)
  let ds := p.defects
  if dth = 0 ∧ ds.isEmpty then v
  else picOf p.w p.h fun x y =>
    let c := v.at' x y
    let s := sortN (p.around v x y)
    let far := dth != 0 && (decide (s.getD 7 0 + dth < c) || decide (c + dth < s.getD 0 0))
    if far || ds.contains (8192 * y + x) then (s.getD 3 0 + s.getD 4 0) / 2 else c

/-- Gain of a lens node. -/
def Proc.lensNode (p : Proc) (c i j : Nat) : Nat :=
  let e := 2 * (33 * min 24 j + min 32 i) + c / 2
  if c % 2 = 0 then p.rd (R.IMG_BI_BK_LENS_GA p.b p.k e) else p.rd (R.IMG_BI_BK_LENS_GB p.b p.k e)

/-- Stage 3: lens shading. -/
def Proc.lens (p : Proc) (v : Pic) : Pic :=
  if p.rd (R.IMG_BI_BK_CFA_LSEN p.b p.k) = 0 then v
  else
    let sw := max 1 ((p.w + 31) / 32)
    let sh := max 1 ((p.hs + 23) / 24)
    picOf p.w p.h fun x y =>
      let c := cfaChan p.cfa x y
      let i := x / sw
      let j := y / sh
      let fx := x % sw
      let fy := y % sh
      let n (a b : Nat) : Nat := p.lensNode c (i + a) (j + b)
      let g := (n 0 0 * (sw - fx) + n 1 0 * fx) * (sh - fy) + (n 0 1 * (sw - fx) + n 1 1 * fx) * fy
      (min 65535 (rroundEven ((v.at' x y * g : Nat) / (16384 * sw * sh : Nat)))).toNat

/-- Distance of two numbers. -/
def dist (a b : Nat) : Nat := (a - b) + (b - a)

/-- Green at a red or blue site. -/
def greenAt (l r u d : Nat) : Nat :=
  if dist l r < dist u d then (l + r) / 2 else if dist u d < dist l r then (u + d) / 2 else (l + r + u + d) / 4

/-- Stage 4 at one pixel: R, G and B. -/
def Proc.demosaicAt (p : Proc) (v : Pic) (x y : Nat) : Nat × Nat × Nat :=
  let a (dx dy : Int) : Nat := v.mir p.w p.h (x + dx) (y + dy)
  let c := v.at' x y
  let l := a (-1) 0
  let r := a 1 0
  let u := a 0 (-1)
  let d := a 0 1
  let diag := (a (-1) (-1) + a 1 (-1) + a (-1) 1 + a 1 1) / 4
  match cfaChan p.cfa x y with
  | 0 => (c, greenAt l r u d, diag)
  | 3 => (diag, greenAt l r u d, c)
  -- Gr has red at its left and right, Gb blue
  | 1 => ((l + r) / 2, c, (u + d) / 2)
  | _ => ((u + d) / 2, c, (l + r) / 2)

/-- The three colour pictures of a Bayer frame. -/
def Proc.demosaic (p : Proc) (v : Pic) : List Pic :=
  let t := (List.range p.h).map fun y => (List.range p.w).map fun x => p.demosaicAt v x y
  [t.map fun l => l.map (·.1), t.map fun l => l.map (·.2.1), t.map fun l => l.map (·.2.2)]

/-- Stage 5 of one output channel. -/
def Proc.ccm (p : Proc) (i : Nat) (r g b : Nat) : Nat :=
  let c (j : Nat) : Int := signed 16 (p.rd (R.IMG_BI_BK_CCM p.b p.k (3 * i + j)))
  let s := c 0 * r + c 1 * g + c 2 * b
  (clampI 0 65535 (rroundEven ((s : Rat) / 4096) + signed 16 (p.rd (R.IMG_BI_BK_CCMOFF p.b p.k i)))).toNat

/-- Stage 5: colour matrix. -/
def Proc.matrix (p : Proc) (c : List Pic) : List Pic :=
  let at3 (j x y : Nat) : Nat := (c.getD j []).at' x y
  (List.range 3).map fun i => picOf p.w p.h fun x y => p.ccm i (at3 0 x y) (at3 1 x y) (at3 2 x y)

/-- Stage 6: tone. -/
def Proc.tone (p : Proc) (v : Pic) : Pic :=
  if p.rd (R.IMG_BI_BK_CFA_TEN p.b p.k) = 0 then v
  else v.map fun l => l.map fun v =>
    let t (i : Nat) : Int := p.rd (R.IMG_BI_BK_TONE p.b p.k i)
    (t (v / 256) + (t (v / 256 + 1) - t (v / 256)) * (v % 256 : Nat) / 256).toNat

/-- Stage 7: noise reduction. -/
def Proc.noise (p : Proc) (v : Pic) : Pic :=
  let th := p.rd (R.IMG_BI_BK_NR p.b p.k)
  if th = 0 then v
  else picOf p.w p.h fun x y =>
    let c := v.at' x y
    let ns := ([(-1, -1), (0, -1), (1, -1), (-1, 0), (1, 0), (-1, 1), (0, 1), (1, 1)].map fun (o : Int × Int) =>
      v.mir p.w p.h (x + o.1) (y + o.2)).filter fun n => decide (dist n c ≤ th)
    (2 * c + ns.foldl (· + ·) 0) / (2 + ns.length)

/-- The processing of a job. -/
def BiJob.proc (j : BiJob) (b : Nat) : Proc :=
  let cfa := rrd j.force (R.IMG_BI_BK_CFA_CFA b j.bank)
  { g := j.force, b := b, k := j.bank, w := j.frame.width, h := j.frame.lines.length, hs := j.frame.height
    cfa := if 4 < cfa then 0 else cfa }

/-- The picture after stage 3. -/
def Proc.stage3 (p : Proc) (f : Pic) : Pic := p.lens (p.defect (p.black f))

/-- The pictures after stage 7: one of a mono frame, three of a Bayer frame. -/
def Proc.stage7 (p : Proc) (v : Pic) : List Pic :=
  (if p.cfa = 0 then [v] else p.matrix (p.demosaic v)).map fun c => p.noise (p.tone c)

/-! ## Statistics (R300) -/

/-- The statistics of a frame: zone averages and histograms after its heading. -/
def Proc.zones (p : Proc) (v : Pic) (x0 y0 zw zh : Nat) : List Byte :=
  (List.range 24).flatMap fun zy => (List.range 32).flatMap fun zx => (List.range 4).flatMap fun c =>
    let ps := (List.range zh).flatMap fun dy => (List.range zw).filterMap fun dx =>
      let x := x0 + zx * zw + dx
      let y := y0 + zy * zh + dy
      if x < p.w ∧ y < p.h ∧ cfaChan p.cfa x y = c then some (v.at' x y) else none
    leBytes 2 (if ps.isEmpty then 0 else ps.foldl (· + ·) 0 / ps.length)

/-- Histograms of the window. -/
def Proc.hists (p : Proc) (v : Pic) (x0 y0 sw sh : Nat) : List Byte :=
  let ps := (List.range sh).flatMap fun dy => (List.range sw).filterMap fun dx =>
    let x := x0 + dx
    let y := y0 + dy
    if x < p.w ∧ y < p.h then some (cfaChan p.cfa x y * 256 + v.at' x y / 256) else none
  (List.range 1024).flatMap fun k => leBytes 4 (min (2 ^ 32 - 1) (ps.countP (· == k)))

/-- The 12,288 bytes of a statistics record. -/
def BiJob.stats (j : BiJob) (b : Nat) (v : Pic) : List Byte :=
  let p := j.proc b
  let f := j.frame
  let x0 := p.rd (R.IMG_BI_BK_STWIN_POS_X0 b j.bank)
  let y0 := p.rd (R.IMG_BI_BK_STWIN_POS_Y0 b j.bank)
  let sw := min (p.rd (R.IMG_BI_BK_STWIN_SIZE_SW b j.bank)) (f.width - x0)
  let sh := min (p.rd (R.IMG_BI_BK_STWIN_SIZE_SHT b j.bank)) (f.height - y0)
  let zw := 2 * (sw / 64)
  let zh := 2 * (sh / 48)
  leBytes 4 f.num.toNat ++
  leBytes 4 (f.port + 32 * j.bank + 128 * bool01 (!f.flags.bad) + 256 * f.flags.code) ++
  leBytes 8 f.mtFs ++ leBytes 8 (f.trig.getD 0) ++ leBytes 2 zw ++ leBytes 2 zh ++
  leBytes 4 (if p.cfa = 0 then 1 else 4) ++ List.replicate 32 0 ++
  p.zones v x0 y0 zw zh ++ p.hists v x0 y0 sw sh ++ List.replicate 1984 0

/-- The record goes to the statistics ring (R300). -/
def Mach.statsWrite (m : Mach) (b : Fin 2) (bytes : List Byte) : Mach :=
  let size := 2 ^ (2 + m.rd (R.IMG_BI_STSIZE b))
  let w := m.rd (R.IMG_BI_STWPTR b)
  if ringFull size w (m.rd (R.IMG_BI_STRPTR b)) then m.inc (R.IMG_BI_STLOST b)
  else
    ((m.dmaWrite 6 (8 + b) (m.addr (R.IMG_BI_STBASE_LO b) (R.IMG_BI_STBASE_HI b) + 12288 * w) bytes).wr
      (R.IMG_BI_STWPTR b) (ringNext size w)).raiseOnce (133 + b) 0 b 0

/-! ## Stream outputs (R302 to R307) -/

/-- Red, green and blue of a list of one or three pictures. -/
def chans (c : List Pic) : Pic × Pic × Pic :=
  (c.getD 0 [], c.getD (if c.length = 1 then 0 else 1) [], c.getD (if c.length = 1 then 0 else 2) [])

/-- The planes of a picture in a format. -/
def planesOf (fmt w h : Nat) (c : List Pic) : List (List Byte) :=
  let t := chans c
  let mono := c.length == 1
  let argb (x y : Nat) : Nat := argbWord (t.1.at' x y) (t.2.1.at' x y) (t.2.2.at' x y)
  let lum (x y : Nat) : Nat :=
    if mono then t.1.at' x y else luma16 (t.1.at' x y) (t.2.1.at' x y) (t.2.2.at' x y)
  match fmt with
  | 0 => [planeBytes w h fun x y => leBytes 4 (argb x y)]
  | 1 => nvPlanes false mono 65535 w h t.1 t.2.1 t.2.2
  | 2 => nvPlanes true mono 65535 w h t.1 t.2.1 t.2.2
  | 3 => [planeBytes w h fun x y => leBytes 1 (to8 (lum x y))]
  | 4 => [planeBytes w h fun x y => leBytes 2 (lum x y)]
  | _ => [encodeItc w h argb]

/-- A rectangle of a picture, as far as its lines are held. -/
def Pic.crop (p : Pic) (x y w h : Nat) : Pic := ((p.drop y).take h).map fun l => (l.drop x).take w

/-- A coefficient of a stream, Q1.10: axis 0 horizontal, 1 vertical. -/
def coefOf (g : Sparse Word) (b s axis p t : Nat) : Int :=
  signed 12 (rrd g (R.IMG_BI_S_COEF b s (256 * axis + 4 * p + t)))

/-- The scaled pictures of a stream, and their size. -/
def scaledOut (g : Sparse Word) (b s : Nat) (c : StreamCfg) (pics : List Pic) : List Pic × Nat × Nat :=
  let made := ((pics.getD 0 []).length - c.cy) |> min c.ch
  let oh := if c.ch = 0 then 0 else made * c.oh / c.ch
  (pics.map fun p => scalePic (coefOf g b s 0) (coefOf g b s 1) true 65535 c.ow c.oh c.cw c.ch oh
      (p.crop c.cx c.cy c.cw c.ch), c.ow, oh)

/-- The rectangle of a stream in fallback. -/
def fallRect (c : StreamCfg) (w h : Nat) : Nat × Nat × Nat × Nat :=
  let x := min c.cx w
  let y := min c.cy h
  (x, y, min (min c.cw 4096) (w - x), min c.ch (h - y))

/-- The planes of a stream's frame, with its width and height. -/
def streamPlanes (g : Sparse Word) (b s mode : Nat) (c : StreamCfg) (f : Frame) (pics : List Pic) :
    List (List Byte) × Nat × Nat :=
  if mode = 2 then
    let r := fallRect c f.width f.height
    let q := pics.map fun p => p.crop r.1 r.2.1 r.2.2.1 r.2.2.2
    let h := (q.getD 0 []).length
    let w := r.2.2.1
    (planesOf 0 w h q ++ planesOf (if c.fbcod then 2 else 1) w h q ++ planesOf (if c.fbmono then 4 else 3) w h q, w, h)
  else
    let r := scaledOut g b s c pics
    (planesOf c.fmt r.2.1 r.2.2 r.1, r.2.1, r.2.2)

/-- Header of a stream's frame. -/
def streamHeader (s mode : Nat) (c : StreamCfg) (f : Frame) (w h : Nat) (sizes : List Nat) : Header :=
  { f.header with
    fallbk := mode == 2
    fmt := if mode = 2 then 8 + bool01 c.fbcod + 2 * bool01 c.fbmono else c.fmt
    kind := if mode = 2 then 2 else 1
    strm := s, w := w, h := h, bytes := sizes.foldl (· + ·) 0, offs := planeOffs 4096 sizes }

/-- The frame is dropped (R307). -/
def Mach.streamDrop (m : Mach) (b s : Nat) : Mach := m.incRaiseOnce (R.IMG_BI_S_SDROP b s) 132 0 (4 * b + s)

/-- A frame of planes is written to a slot. -/
def Mach.putPlanes (m : Mach) (p : Fin 12) (st : Nat) (a : Nat) (h : Header) (planes : List (List Byte)) : Mach :=
  ((h.offs.zip planes).foldl (fun (m : Mach) q => m.dmaWrite p st (a + q.1) q.2) (m.dmaWrite p st a h.encode))

/-- A stream writes its frame (R307). -/
def Mach.streamWrite (m : Mach) (b : Fin 2) (s mode : Nat) (j : BiJob) (pics : List Pic) : Mach :=
  let c := streamCfg j.force b s
  let r := streamPlanes j.force b s mode c j.frame pics
  let sizes := r.1.map (·.length)
  let w := m.rd (R.IMG_BI_S_SWPTR b s)
  if ringFull c.nslot w (m.rd (R.IMG_BI_S_SRPTR b s)) || decide (c.slot * 4096 < slotNeed sizes) then m.streamDrop b s
  else
    let h := streamHeader s mode c j.frame r.2.1 r.2.2 sizes
    let m := m.putPlanes 6 (4 * b + s) (c.base + c.slot * 4096 * w) h r.1
    let m := m.wr (R.IMG_BI_S_SWPTR b s) (ringNext c.nslot w)
    if c.fencen then m.dmaWrite 6 (4 * b + s) c.fence (leBytes 4 j.frame.num.toNat) else m

/-- The stream produces a frame of the job: enabled, its source, its scaler not taken by a chain. -/
def BiJob.streams (j : BiJob) (b s : Nat) : Bool :=
  let c := streamCfg j.force b s
  let taken := s % 2 == 1 && (streamCfg j.force b (s - 1)).chain
  c.en && c.src == j.frame.port.val && !taken && j.modes.getD s 0 != 0

/-- The outputs of a job. -/
def Mach.biOutputs (m : Mach) (b : Fin 2) (j : BiJob) : Mach :=
  let p := j.proc b
  let v := p.stage3 j.frame.lines
  let c := p.stage7 v
  (List.range 4).foldl (fun (m : Mach) s =>
    if j.streams b s then m.streamWrite b s (j.modes.getD s 0) j c else m) (m.statsWrite b (j.stats b v))

/-- The slot of a waiting frame is freed. -/
def Mach.freeWait (m : Mach) (f : Frame) : Mach :=
  let c := m.cam[f.port]
  m.setCam f.port { c with ring := c.ring.filter fun q => !(q.slot == f.slot && q.taken) }

/-- A BI completes its frame (R292, R297). -/
def Mach.biComplete (m : Mach) (b : Fin 2) : Mach :=
  match m.bi[b].cur with
  | none => m
  | some j =>
    if !j.frame.closed then m
    else
      let m := (m.biOutputs b j).inc (R.IMG_BI_FRAMES b)
      let m := if j.frame.taken then m.freeWait j.frame else m
      m.biNext b

/-! ## Taking frames (R294 to R296) -/

/-- The enabled entries of a BI: port and bank. -/
def Mach.biEntries (m : Mach) (b : Nat) : List (Nat × Nat) :=
  (List.range 8).filterMap fun e =>
    let p := m.rd (R.IMG_BI_MSRC_PORT b e)
    let k := m.rd (R.IMG_BI_MSRC_BANK b e)
    if m.on (R.IMG_BI_MSRC_EN b e) && decide (p < 20) && m.hasRing p then some (p, if k = 2 then 2 else 1) else none

/-- The oldest frame of a port's ring that no BI has taken. -/
def Cam.waiting (c : Cam) : Option Frame := c.ring.find? fun f => !f.taken

/-- The frame that a free BI takes: the one that closed first, ties to the lower port. -/
def Mach.biPick (m : Mach) (b : Nat) : Option (Frame × Nat) :=
  (List.finRange 20).foldl (fun (r : Option (Frame × Nat)) (p : Fin 20) =>
    match (m.biEntries b).find? (·.1 == p.val), m.cam[p].waiting with
    | some e, some f => (match r with
      | none => some (f, e.2)
      | some q => if f.mtFe < q.1.mtFe then some (f, e.2) else some q)
    | _, _ => r) none

/-- BI0 is free and names the frame that BI1 names: BI0 takes it (R295). -/
def Mach.bi0Takes (m : Mach) : Bool :=
  m.bi[0].cur.isNone &&
  (match m.biPick 0, m.biPick 1 with
   | some f, some g => f.1.port == g.1.port && f.1.slot == g.1.slot
   | _, _ => false)

/-- A free BI takes a frame. -/
def Mach.biTake (m : Mach) (b : Fin 2) : Mach :=
  if m.bi[b].cur.isSome || (b == 1 && m.bi0Takes) then m
  else
    match m.biPick b with
    | none => m
    | some (f, bank) =>
      let g := { f with taken := true }
      let c := m.cam[f.port]
      let m := m.setCam f.port { c with ring := c.ring.map fun q => if q.slot = f.slot then g else q }
      m.biStart b bank g

/-- An in-line frame starts: a memory-path frame is suspended (R296); a frame not yet handed over is
complete by now (R308). -/
def Mach.biInline (m : Mach) (b : Fin 2) (f : Frame) : Mach :=
  let m := match m.bi[b].cur with
    | some j => if j.frame.taken then m else m.biComplete b
    | none => m
  let x := m.bi[b]
  match x.cur with
  | some j => ((m.setBi b { x with cur := none, susp := some j }).inc (R.IMG_BI_PREEMPT b)).biStart b 0 f
  | none => m.biStart b 0 f

/-! ## Camera packets -/

/-- A frame start: it closes an open frame, opens the next, and is matched to a trigger (R285, R291). -/
def Mach.frameStart (m : Mach) (p : Fin 20) : Mach :=
  if !m.camOn p then m
  else
    let m := m.closeFrame p true
    let f := m.newFrame p
    let c := m.cam[p]
    let m := m.setCam p { c with open_ := some f, next := c.next + 1
                                 trigs := match f.trig with | some d => c.trigs.erase d | none => c.trigs }
    let m := { m with free := m.free + 1 }
    match inlineBi p with
    | some b => m.biInline b f
    | none => m

/-- A frame end closes the open frame; without one it is ignored (R285). -/
def Mach.frameEnd (m : Mach) (p : Fin 20) : Mach := if m.camOn p then m.closeFrame p false else m

/-- A packet of the port's channel has arrived: the frame timeout starts again. -/
def Mach.notePacket (m : Mach) (p : Fin 20) : Mach := m.withOpen p fun f => { f with lastPkt := m.mt }

/-- A packet whose header could be read (R281). -/
def Mach.goodPacket (m : Mach) (p : Fin 20) (k : CsiPacket) : Mach :=
  if k.vc.toNat ≠ m.rd (R.IMG_CAM_CTRL_VC p) then m.inc (R.IMG_CAM_VCOTHER p)
  else
    let m := m.notePacket p
    let dt := k.dtype.toNat
    if dt = 0 then m.frameStart p
    else if dt = 1 then m.frameEnd p
    else if dt < 0x10 ∨ dt = 0x12 then m
    else if dt = 0x2A + m.camFmt p then
      m.withOpen p fun f => f.addLine (unpackLine f.fmt (k.payload.length + 1) k.payload) (m.padCode p) k.crcBad
    else m.inc (R.IMG_CAM_PKTDROP p)

/-- A CSI-2 packet arrives at a port (R281, R282). -/
def Mach.csiPacket (m : Mach) (p : Fin 20) (k : CsiPacket) : Mach :=
  if !m.camOn p then m
  else if k.headerBad then
    (m.inc (R.IMG_CAM_PKTDROP p)).withOpen p fun f => { f with flags := { f.flags with pktLost := true } }
  else (if k.headerFixed then m.inc (R.IMG_CAM_ECCCOR p) else m).goodPacket p k

/-- EN of a port is cleared: the open frame is discarded (R284). -/
def Mach.camDisable (m : Mach) (p : Fin 20) : Mach :=
  if !m.camOn p then m
  else
    let m := (m.wr (R.IMG_CAM_CTRL_EN p) 0).setCam p { m.cam[p] with open_ := none }
    match inlineBi p with
    | some b =>
      (match m.bi[b].cur with
       | some j => if !j.frame.taken && !j.frame.closed then m.biNext b else m
       | none => m)
    | none => m

/-- A write of CTRL of a camera port (R283, R284). -/
def Mach.camWrite (m : Mach) (p : Fin 20) (v : Word) : Mach :=
  if m.camOn p && bits v.toNat 0 0 == 0 then m.camDisable p else m.camCtrl p v

end Sys2Proof.Machine
end

