-- ==== Sys2Proof/Machine/Cmp.lean ====
section
/-! DEFINITION. Composition: layers, blending, flattening, flips and fences, the display link, writeback
(10). -/
namespace Sys2Proof.Machine

def Mach.setCmp (m : Mach) (x : Cmp) : Mach := { m with cmp := x }

/-! ## Layers (R311) -/

/-- The settings of a layer. -/
structure LayerCfg where
  l : Nat
  en : Bool
  fmt : Nat
  zpos : Nat
  static : Bool
  ga : Nat
  base : Nat
  uvbase : Nat
  stride : Nat
  w : Nat
  h : Nat
  sx : Nat
  sy : Nat
  sw : Nat
  sh : Nat
  dx : Nat
  dy : Nat
  dw : Nat
  dh : Nat
  deriving DecidableEq, Repr

/-- A video layer: V0 or V1. -/
def LayerCfg.video (c : LayerCfg) : Bool := decide (c.l < 2)

/-- The settings of layer l in a set of words. -/
def layerCfg (g : Sparse Word) (l : Nat) : LayerCfg :=
  let r (f : Nat → RF) : Nat := rrd g (f l)
  let sw := r R.CMP_LY_SRC_SIZE_SW
  let sh := r R.CMP_LY_SRC_SIZE_SH
  { l := l, en := r R.CMP_LY_CTRL_EN == 1, fmt := r R.CMP_LY_CTRL_FMT, zpos := r R.CMP_LY_CTRL_ZPOS
    static := decide (2 ≤ l) && r R.CMP_LY_CTRL_STATIC == 1, ga := r R.CMP_LY_CTRL_GA
    base := r R.CMP_LY_BASE_LO + r R.CMP_LY_BASE_HI * 2 ^ 32
    uvbase := r R.CMP_LY_UVBASE_LO + r R.CMP_LY_UVBASE_HI * 2 ^ 32
    stride := r R.CMP_LY_STRIDE, w := r R.CMP_LY_SURF_W, h := r R.CMP_LY_SURF_H
    sx := r R.CMP_LY_SRC_POS_SX, sy := r R.CMP_LY_SRC_POS_SY, sw := sw, sh := sh
    dx := r R.CMP_LY_DST_POS_DX, dy := r R.CMP_LY_DST_POS_DY
    dw := if l < 2 then r R.CMP_LY_DST_SIZE_DW else sw, dh := if l < 2 then r R.CMP_LY_DST_SIZE_DH else sh }

/-- The settings of a layer in effect. -/
def Mach.layer (m : Mach) (l : Nat) : LayerCfg := layerCfg m.force l

/-- A pixel: alpha, 8 bits, and colours, 10 bits each. -/
structure Px where
  a : Nat
  r : Nat
  g : Nat
  b : Nat
  deriving DecidableEq, Repr

/-- An 8-bit value at 10 bits (R315). -/
def to10 (c : Nat) : Nat := c * 4 + c / 64

/-- The pixel of an ARGB8888 word. -/
def argbPx (v : Nat) : Px := ⟨argbChan v 0, to10 (argbChan v 1), to10 (argbChan v 2), to10 (argbChan v 3)⟩

/-- A little-endian value that the compositor reads; a read that answers an error gives an open value. -/
def Mach.cmpRead (m : Mach) (a n : Nat) : Nat :=
  if m.poisoned a n then (Config.badPixel m.mt a).toNat % 256 ^ n else m.le a n

/-- RGB at 10 bits of a limited-range pixel, BT.709; `s` is 1 for 8-bit codes and 4 for 10-bit codes. -/
def yuvPx (s y cb cr : Nat) : Px :=
  let l : Int := ((y : Int) - 16 * s) * 224 * 10000 * 7152
  let b : Int := (cb : Int) - 128 * s
  let r : Int := (cr : Int) - 128 * s
  let den := 219 * 224 * s * 10000 * 7152
  let out (v : Int) : Nat := (clampI 0 1023 (openRound 5 (1023 * v) den)).toNat
  ⟨255, out (l + r * 219 * 7152 * 15748), out (l - r * 219 * 2126 * 15748 - b * 219 * 722 * 18556),
   out (l + b * 219 * 7152 * 18556)⟩

/-- A pixel of the chroma formats: `two` for P010, with its code in bits [15:6]. -/
def Mach.nvPx (m : Mach) (c : LayerCfg) (two : Bool) (x y : Nat) : Px :=
  let n := if two then 2 else 1
  let sh := if two then 64 else 1
  let yv := m.cmpRead (c.base + c.stride * y + n * x) n / sh
  let u := c.uvbase + c.stride * (y / 2) + 2 * n * (x / 2)
  yuvPx (if two then 4 else 1) yv (m.cmpRead u n / sh) (m.cmpRead (u + n) n / sh)

/-- Tile of a surface that holds a pixel. -/
def LayerCfg.tile (c : LayerCfg) (x y : Nat) : Nat := (c.w + 31) / 32 * (y / 8) + x / 32

/-- A pixel of a layer's surface (R311 to R313). -/
def Mach.layerPx (m : Mach) (c : LayerCfg) (x y : Nat) : Px :=
  if c.fmt = 0 then argbPx (m.cmpRead (c.base + c.stride * y + 4 * x) 4)
  else if c.video then
    if c.fmt = 3 then
      match m.itcTile c.base (c.tile x y) with
      | none => ⟨0, 0, 0, 0⟩
      | some t => argbPx (t.getD (32 * (y % 8) + x % 32) 0)
    else m.nvPx c (c.fmt == 2) x y
  else
    let i := if c.fmt = 1 then m.cmpRead (c.base + c.stride * y + x) 1
             else m.cmpRead (c.base + c.stride * y + 2 * x) 2 / 256
    argbPx (m.rdf (R.CMP_PAL (c.l - 2) i))

/-- A channel of the source rectangle as a picture, scaled for a video layer (R314). -/
def LayerCfg.channel (c : LayerCfg) (px : Nat → Nat → Px) (f : Px → Nat) (top : Nat) : Pic :=
  let p := picOf c.sw c.sh fun x y => f (px (c.sx + x) (c.sy + y))
  if c.video then scalePic catmullRom catmullRom false top c.dw c.dh c.sw c.sh c.dh p else p

/-- The pixels of a layer at its destination, row by row. -/
def Mach.layerRows (m : Mach) (c : LayerCfg) : List (List Px) :=
  let px := m.layerPx c
  let a := c.channel px (·.a) 255
  let r := c.channel px (·.r) 1023
  let g := c.channel px (·.g) 1023
  let b := c.channel px (·.b) 1023
  (List.range c.dh).map fun y => (List.range c.dw).map fun x => ⟨a.at' x y, r.at' x y, g.at' x y, b.at' x y⟩

/-! ## Checks (R321) -/

/-- A scaling ratio within 1/4 to 8 (R314). -/
def zoomOk (out inp : Nat) : Bool := decide (inp ≤ 4 * out ∧ out ≤ 8 * inp)

/-- The first REFCODE of a set; `used` are the places of the other enabled layers; 0 when it is taken. -/
def LayerCfg.refuse (c : LayerCfg) (used : List Nat) : Nat :=
  if (if c.video then 3 else 2) < c.fmt then 1
  else if c.w < c.sx + c.sw ∨ c.h < c.sy + c.sh ∨ c.base % 64 ≠ 0 ∨ c.uvbase % 64 ≠ 0 ∨ c.stride % 64 ≠ 0 then 2
  else if c.video && !(zoomOk c.dw c.sw && zoomOk c.dh c.sh) then 3
  else if c.en && used.contains c.zpos then 4 else 0

/-- Places of the enabled layers but one. -/
def Mach.zposUsed (m : Mach) (l : Nat) : List Nat :=
  ((List.range 8).filter fun k => k != l && (m.layer k).en).map fun k => (m.layer k).zpos

/-! ## Blending (R315) -/

/-- One channel of a layer laid over the value below. -/
def blendChan (a s d : Nat) : Nat := (a * s + (255 - a) * d + 127) / 255

/-- A layer pixel laid over the colours below. -/
def blendPx (ga : Nat) (s d : Px) : Px :=
  let a := (s.a * ga + 127) / 255
  ⟨255, blendChan a s.r d.r, blendChan a s.g d.g, blendChan a s.b d.b⟩

/-- A row of a layer laid over a line from pixel x0 on; pixels beyond the line are discarded. -/
def overlay (line : List Px) (x0 ga : Nat) (row : List Px) : List Px :=
  line.take x0 ++ ((line.drop x0).zip row).map (fun p => blendPx ga p.2 p.1) ++ line.drop (x0 + row.length)

/-- Enabled layers in rising ZPOS. -/
def Mach.stack (m : Mach) : List Nat :=
  (List.range 8).flatMap fun z => (List.range 8).filter fun l => (m.layer l).en && (m.layer l).zpos == z

/-- The flat image's copy of a layer, where that image is shown. -/
def Mach.flatOf (m : Mach) (l : Nat) : Option FlatLayer :=
  m.cmp.flat.bind fun fl => fl.find? fun k => k.layer == l

/-- A layer's row for an output line, with its first pixel and its alpha; none beside the layer. -/
def Mach.layerLine (m : Mach) (l y : Nat) : Option (Nat × Nat × List Px) :=
  match m.flatOf l with
  | some k =>
    if k.y ≤ y ∧ y < k.y + k.rows.length then
      some (k.x, k.ga, (k.rows.getD (y - k.y) []).map fun p => ⟨p.1, p.2.1, p.2.2.1, p.2.2.2⟩)
    else none
  | none =>
    let c := m.layer l
    if c.dy ≤ y ∧ y < c.dy + c.dh then some (c.dx, c.ga, (m.layerRows c).getD (y - c.dy) []) else none

/-- The deviation of the flat image at a pixel, at most 4 codes (R316). -/
def deviate (frame x y : Nat) (p : Px) : Px :=
  let d (k v : Nat) : Nat :=
    (clampI 0 1023 (v + clampI (-4) 4 (Config.flatDev frame (x + 16384 * y) k))).toNat
  ⟨p.a, d 0 p.r, d 1 p.g, d 2 p.b⟩

/-- The flat image deviates where it covers the line. -/
def Mach.deviateLine (m : Mach) (y : Nat) (line : List Px) : List Px :=
  let spans := m.cmp.run.filterMap fun l => (m.layerLine l y).map fun r => (r.1, r.1 + r.2.2.length)
  (indexed line).map fun p =>
    if spans.any fun s => decide (s.1 ≤ p.1 ∧ p.1 < s.2) then deviate (m.rd R.CMP_FRAME) p.1 y p.2 else p.2

/-- The background colour. -/
def Mach.background (m : Mach) : Px := { argbPx (m.rd R.CMP_BG) with a := 255 }

/-- One output line at 10 bits; the layers of `skip` are transparent. -/
def Mach.composeLine (m : Mach) (skip : List Nat) (y : Nat) : List Px :=
  m.stack.foldl (fun (line : List Px) l =>
    if skip.contains l then line
    else
      let line := match m.layerLine l y with
        | none => line
        | some r => overlay line r.1 r.2.1 r.2.2
      if m.cmp.flat.isSome && m.cmp.run.getLast? == some l then m.deviateLine y line else line)
    (List.replicate (m.rd R.CMP_H_HACT) m.background)

/-- A colour at BPC bits. -/
def sendChan (bpc c : Nat) : Nat :=
  if bpc = 2 then c else if bpc = 0 then min ((c + 8) / 16) 63 else min ((c + 2) / 4) 255

/-- A pixel as it is sent: red, green and blue in ten bits each. -/
def sendPx (bpc : Nat) (p : Px) : Nat := sendChan bpc p.r * 2 ^ 20 + sendChan bpc p.g * 2 ^ 10 + sendChan bpc p.b

/-! ## Line output (R313, R325) -/

/-- Source rows, from the first on, that an output row of a scaled axis reads. -/
def rowSpan (inp out k : Nat) : Nat × Nat :=
  let b := boxSize out inp false
  let pos : Int := (2 * k + 1) * (inp / b : Nat) - out
  let d : Nat := 2 * max out 1
  let i := pos / d + openRound 1 (pos % d * 64) d / 64
  ((clampI 0 (inp - 1 : Nat) ((i - 1) * b)).toNat, (clampI 0 (inp - 1 : Nat) ((i + 3) * b - 1)).toNat)

/-- Tile rows that an output row of a layer reads. -/
def LayerCfg.tileRows (c : LayerCfg) (k : Nat) : List Nat :=
  let r := rowSpan c.sh c.dh k
  let lo := (c.sy + r.1) / 8
  (List.range ((c.sy + r.2) / 8 + 1 - lo)).map (lo + ·)

/-- The tiles in error that an output line of a layer is the first to read. -/
def Mach.tilesBad (m : Mach) (l y : Nat) : Nat :=
  let c := m.layer l
  if c.video && c.fmt == 3 && c.en && decide (c.dy ≤ y ∧ y < c.dy + c.dh) then
    let rows := (c.tileRows (y - c.dy)).filter fun t => decide (m.cmp.itcNext.getD l 0 ≤ t)
    let lo := c.sx / 32
    let cols := (List.range ((c.sx + c.sw - 1) / 32 + 1 - lo)).map (lo + ·)
    (rows.map fun t => cols.countP fun u => (m.itcTile c.base ((c.w + 31) / 32 * t + u)).isNone).foldl (· + ·) 0
  else 0

/-- The tile rows that a line of a layer shows have been judged. -/
def Mach.tilesSeen (m : Mach) (l y : Nat) : Mach :=
  let c := m.layer l
  let up := (c.tileRows (y - c.dy)).foldl (fun k t => max k (t + 1)) (m.cmp.itcNext.getD l 0)
  if c.en && decide (c.dy ≤ y ∧ y < c.dy + c.dh) then
    { m with cmp := { m.cmp with itcNext := modify m.cmp.itcNext l fun _ => up } }
  else m

/-- Tiles in error on a line of a layer are counted, each once a frame. -/
def Mach.countTiles (m : Mach) (l y : Nat) : Mach :=
  ((List.range (m.tilesBad l y)).foldl (fun (m : Mach) _ => m.incRaiseOnce R.CMP_ITCERR 140 0 l) m).tilesSeen l y

/-- A new frame begins with its first line. -/
def Mach.frameTiles (m : Mach) (y : Nat) : Mach :=
  if y = 0 then { m with cmp := { m.cmp with itcNext := List.replicate 8 0 } } else m

/-- The layers whose data is late for a line, and that have data on it. -/
def Mach.lateLayers (m : Mach) (late : Byte) (y : Nat) : List Nat :=
  m.stack.filter fun l => late.getLsbD l && (m.layerLine l y).isSome

/-- An output line is sent (R315, R325, R448). -/
def Mach.lineOutput (m : Mach) (y : Nat) (late : Byte) : Mach :=
  if !m.on R.CMP_CTRL_EN || decide (m.rd R.CMP_V_VACT ≤ y) then m
  else
    let idle := m.pstate == 2
    let skip := if idle then List.range 8 else m.lateLayers late y
    let px := (m.composeLine skip y).map (sendPx (m.rd R.CMP_DP_CTRL_BPC))
    let m := if idle then m
      else skip.foldl (fun (m : Mach) l => m.incRaiseOnce R.CMP_UNDERRUN 139 0 l) m
    let m := if idle then m
      else ((m.frameTiles y).stack.filter fun l => !skip.contains l).foldl (fun (m : Mach) l => m.countTiles l y) (m.frameTiles y)
    if m.on R.CMP_DP_STATUS_TRAINED then m.emit (.line y px) else m

/-! ## Flattening (R316, R317) -/

/-- The static run: enabled graphic layers with STATIC, in rising ZPOS. -/
def Mach.staticRun (m : Mach) : List Nat := m.stack.filter fun l => (m.layer l).static

/-- Pixels of the bounding box of some layers' destinations. -/
def Mach.runBox (m : Mach) (run : List Nat) : Nat :=
  let cs := run.map m.layer
  let lo (f : LayerCfg → Nat) : Nat := (cs.map f).foldl min (2 ^ 20)
  let hi (f : LayerCfg → Nat) : Nat := (cs.map f).foldl max 0
  (hi (fun c => c.dx + c.dw) - lo (·.dx)) * (hi (fun c => c.dy + c.dh) - lo (·.dy))

/-- What keeps a run from being flattened: 0 nothing, 1 size, 2 order. -/
def Mach.runErr (m : Mach) (run : List Nat) : Nat :=
  if run.isEmpty then 0
  else if 1048576 < m.runBox run then 1
  else
    let ix := (indexed m.stack).filterMap fun p => if run.contains p.2 then some p.1 else none
    if ix.getLastD 0 + 1 - ix.headD 0 = run.length then 0 else 2

/-- The flat image is shown, or is not. -/
def Mach.setFlat (m : Mach) (fl : Option (List FlatLayer)) : Mach :=
  (m.setCmp { m.cmp with flat := fl }).wr R.CMP_STATUS_FLATUSE (bool01 fl.isSome)

/-- A new flattening of the run starts; the run's layers are composed live meanwhile. -/
def Mach.flattenStart (m : Mach) : Mach :=
  let m := m.setFlat none
  m.setCmp { m.cmp with flattening := !m.cmp.run.isEmpty, flatNew := none }

/-- The run is judged after flips of the layers `ls` took effect. -/
def Mach.judgeRun (m : Mach) (ls : List Nat) : Mach :=
  let old := m.cmp.run
  let run := m.staticRun
  let e := m.runErr run
  let was := m.rd R.CMP_STATUS_FLATERR
  let touched := ls.any fun l => old.contains l || run.contains l
  let m := (m.setCmp { m.cmp with run := run }).wr R.CMP_STATUS_FLATERR e
  if !touched && e == was then m
  else if e = 0 then m.flattenStart
  else
    let m := m.setFlat none
    (m.setCmp { m.cmp with flattening := false, flatNew := none }).raise 141 0 0 0

/-- The host writes DIRTY of a layer (R317, R327). -/
def Mach.dirtyWrite (m : Mach) (l : Nat) : Mach :=
  if m.cmp.run.contains l && m.rd R.CMP_STATUS_FLATERR == 0 then
    (m.wr (R.CMP_LY_DIRTY l) 1).flattenStart
  else m

/-- The flat copy of a layer. -/
def Mach.flatCopy (m : Mach) (l : Nat) : FlatLayer :=
  let c := m.layer l
  { layer := l, x := c.dx, y := c.dy, ga := c.ga
    rows := (m.layerRows c).map fun r => r.map fun p => (p.a, p.r, p.g, p.b) }

/-- A flattening completes. -/
def Mach.flattenDone (m : Mach) : Mach :=
  if !m.cmp.flattening then m
  else
    let m := { m with regs := m.cmp.run.foldl (fun g l => rwr g (R.CMP_LY_DIRTY l) 0) m.regs }
    m.setCmp { m.cmp with flattening := false, flatNew := some (m.cmp.run.map m.flatCopy) }

/-! ## Writeback (R326) -/

/-- The composed frame, row by row. -/
def Mach.composed (m : Mach) : List (List Px) :=
  (List.range (m.rd R.CMP_V_VACT)).map (m.composeLine [])

/-- Planes of the composed frame in the writeback format. -/
def Mach.wbPlanes (m : Mach) : List (List Byte) :=
  let w := m.rd R.CMP_H_HACT
  let h := m.rd R.CMP_V_VACT
  let rows := m.composed
  let pic (f : Px → Nat) : Pic := rows.map fun r => r.map f
  if m.rd R.CMP_WB_CTRL_FMT = 0 then
    [rows.flatMap fun r => r.flatMap fun p =>
      leBytes 4 (0xFF000000 + sendChan 1 p.r * 65536 + sendChan 1 p.g * 256 + sendChan 1 p.b)]
  else nvPlanes false false 1023 w h (pic (·.r)) (pic (·.g)) (pic (·.b))

/-- Header of a writeback frame. -/
def Mach.wbHeader (m : Mach) (sizes : List Nat) : Header :=
  let w := m.rd R.CMP_H_HACT
  let h := m.rd R.CMP_V_VACT
  { num := m.rd R.CMP_FRAME, geomf := 0, trigm := false, fallbk := false, fmt := m.rd R.CMP_WB_CTRL_FMT
    kind := 3, port := 31, strm := 0, mtFs := m.rd64 R.CMP_FRAME_MT_LO R.CMP_FRAME_MT_HI, mtTrig := 0
    linesRx := 0, lmin := 0, lmax := 0, lines := h, w := w, h := h, bytes := sizes.foldl (· + ·) 0
    mtFe := m.mt, offs := planeOffs 4096 sizes }

/-- The frame just sent is written to the ring, or dropped; under load shedding it is dropped (R456). -/
def Mach.wbWrite (m : Mach) : Mach :=
  let n := ringN (m.rd R.CMP_WB_NSLOT)
  let w := m.rd R.CMP_WB_WPTR
  let slot := m.rd R.CMP_WB_SLOT * 4096
  let need := slotNeed (planeSizes (m.rd R.CMP_WB_CTRL_FMT) (m.rd R.CMP_H_HACT) (m.rd R.CMP_V_VACT))
  if m.on R.THM_STATUS_SHED then m.inc R.CMP_WB_DROP
  else if ringFull n w (m.rd R.CMP_WB_RPTR) || decide (slot < need) then m.incRaiseOnce R.CMP_WB_DROP 143 0 0
  else
    let planes := m.wbPlanes
    (m.putPlanes 7 9 (m.addr R.CMP_WB_BASE_LO R.CMP_WB_BASE_HI + slot * w) (m.wbHeader (planes.map (·.length)))
      planes).wr R.CMP_WB_WPTR (ringNext n w)

/-- Writeback at a frame boundary: frames are counted from the boundary that follows EN. -/
def Mach.writeback (m : Mach) : Mach :=
  if !m.on R.CMP_WB_CTRL_EN then m.setCmp { m.cmp with wbCount := 0 }
  else
    let k := m.cmp.wbCount
    let m := if 0 < k ∧ k % max 1 (m.rd R.CMP_WB_CTRL_DIV) = 0 then m.wbWrite else m
    m.setCmp { m.cmp with wbCount := k + 1 }

/-! ## Flips and fences (R318 to R320) -/

/-- A flip of the layers of a mask is requested. -/
def Mach.flipRequest (m : Mach) (lmask : Byte) : Mach :=
  let ls := (List.range 8).filter fun l => lmask.getLsbD l
  let pend := ls.foldl (fun (p : List (Option Nat)) l => modify p l fun t => some (t.getD m.mt)) m.cmp.pendAt
  let regs := ls.foldl (fun g l => rwr g (R.CMP_LY_STATUS_PENDING l) 1) m.regs
  { m with cmp := { m.cmp with pendAt := pend }, regs := rwr regs R.CMP_FLIP (rrd m.regs R.CMP_FLIP ||| lmask.toNat) }

/-- PENDING of a layer clears. -/
def Mach.flipDone (m : Mach) (l : Nat) : Mach :=
  { m with
    cmp := { m.cmp with pendAt := modify m.cmp.pendAt l fun _ => none }
    regs := rwr (rwr m.regs (R.CMP_LY_STATUS_PENDING l) 0) ⟨R.CMP_FLIP.a, l, l⟩ 0 }

/-- The fence is satisfied by a word (R319). -/
def fenceOk (mode w v : Nat) : Bool :=
  if mode = 0 then true else if mode = 2 then decide ((w + 2 ^ 32 - v) % 2 ^ 32 < 2 ^ 31) else w == v

/-- The fence word of one layer is read. -/
def Mach.fenceOne (m : Mach) (l : Nat) : Mach :=
  match m.cmp.pendAt.getD l none, m.cmp.fence.getD l none with
  | some _, none =>
    let a := m.rd (R.CMP_LY_FENCE_LO l) * 4 + m.rd (R.CMP_LY_FENCE_HI l) * 2 ^ 32
    let bad := m.poisoned a 4
    let w := if bad then (Config.freeWord m.free).toNat else m.le a 4
    let ok := fenceOk (m.rd (R.CMP_LY_CTRL_FMODE l)) w (m.rd (R.CMP_LY_FVAL l))
    let m := m.dmaReadErr 7 a 4
    { m with cmp := { m.cmp with fence := modify m.cmp.fence l fun _ => some ok }
             free := if bad then m.free + 1 else m.free }
  | _, _ => m

/-- The fence words of the pending layers are read, once before each boundary (R319); MEM serves no
request in IDLE (R448). -/
def Mach.fenceRead (m : Mach) : Mach :=
  if !m.on R.CMP_CTRL_EN || m.pstate == 2 then m
  else (List.range 8).foldl (fun (m : Mach) l => m.fenceOne l) m

/-- Address ranges of a layer's shadow set (R318). -/
def layerRanges (l : Nat) : List (Nat × Nat) :=
  (0x1401000 + l * 0x100, 0x1401038 + l * 0x100) ::
  (if 2 ≤ l then [(0x1408000 + (l - 2) * 0x400, 0x1408400 + (l - 2) * 0x400)] else [])

/-- A satisfied flip: the set is checked and takes effect, or is refused (R321). -/
def Mach.flipTake (m : Mach) (l : Nat) : Mach :=
  let c := layerCfg m.regs l
  let e := c.refuse (m.zposUsed l)
  let m := m.flipDone l
  if e = 0 then
    { m with force := takeRanges m.force m.regs (layerRanges l)
             regs := rwr m.regs (R.CMP_LY_STATUS_SHOWN l) (bool01 c.en) }
  else (m.wrs [(R.CMP_LY_STATUS_REFUSED l, 1), (R.CMP_LY_STATUS_REFCODE l, e)]).raise 138 0 l 0

/-- A pending layer at a boundary: the module, and whether its flip took effect (R320). -/
def Mach.flipAt (m : Mach) (l : Nat) : Mach × Bool :=
  match m.cmp.pendAt.getD l none with
  | none => (m, false)
  | some t =>
    if m.mt ≤ t then (m, false)
    else
      let ok := (m.cmp.fence.getD l none).getD (m.rd (R.CMP_LY_CTRL_FMODE l) == 0)
      if ok then (m.flipTake l, (layerCfg m.regs l).refuse (m.zposUsed l) == 0)
      else (m.incRaiseOnce (R.CMP_LATE l) 137 0 l, false)

/-- All pending layers in rising number, with the list of layers that flipped. -/
def Mach.flips (m : Mach) : Mach × List Nat :=
  (List.range 8).foldl (fun (s : Mach × List Nat) l =>
    let r := s.1.flipAt l
    (r.1, if r.2 then s.2 ++ [l] else s.2)) (m, [])

/-- A completed flat image is shown from the boundary on. -/
def Mach.showFlat (m : Mach) : Mach :=
  match m.cmp.flatNew with
  | none => m
  | some fl =>
    let m := m.setFlat (some fl)
    m.setCmp { m.cmp with flatNew := none }

/-- A frame boundary (R318 to R321, R326). -/
def Mach.frameBoundary (m : Mach) : Mach :=
  if !m.on R.CMP_CTRL_EN then m
  else
    let m := m.writeback
    let m := m.wr R.CMP_FRAME (m.rd R.CMP_FRAME + 1)
    let m := m.wr64 R.CMP_FRAME_MT_LO R.CMP_FRAME_MT_HI m.mt
    let r := m.flips
    let m := r.1
    let m := m.setCmp { m.cmp with fence := List.replicate 8 none }
    let m := if r.2.isEmpty then m else (m.judgeRun r.2).raise 136 0 0 0
    m.showFlat

/-! ## Timing and the link (R322, R323) -/

/-- The timing registers admit EN. -/
def Mach.timingOk (m : Mach) : Bool :=
  let p := m.rd R.CMP_PCLK
  let ha := m.rd R.CMP_H_HACT
  let ht := m.rd R.CMP_H_HTOT
  let va := m.rd R.CMP_V_VACT
  let vt := m.rd R.CMP_V_VTOT
  decide (25000 ≤ p ∧ p ≤ 300000 ∧ ha ≤ 3840 ∧ va ≤ 2160) &&
  decide (ha < m.rd R.CMP_HS_HSS ∧ m.rd R.CMP_HS_HSS < m.rd R.CMP_HS_HSE ∧ m.rd R.CMP_HS_HSE ≤ ht) &&
  decide (va < m.rd R.CMP_VS_VSS ∧ m.rd R.CMP_VS_VSS < m.rd R.CMP_VS_VSE ∧ m.rd R.CMP_VS_VSE ≤ vt) &&
  decide (ha * va * p * 1000 ≤ 250000000 * (ht * vt))

/-- EN of CMP_CTRL is set. -/
def Mach.timingEnable (m : Mach) : Mach :=
  if m.on R.CMP_CTRL_EN then m
  else if m.timingOk then m.wr R.CMP_CTRL_EN 1
  else m.wr R.CMP_CTRL_CFGERR 1

/-- Link training starts: the link does not carry the stream meanwhile. -/
def Mach.trainLink (m : Mach) : Mach :=
  (m.setCmp { m.cmp with training := true }).wr R.CMP_DP_STATUS_TRAINED 0

/-- The link ends. -/
def Mach.linkOff (m : Mach) : Mach :=
  (m.setCmp { m.cmp with training := false }).wrs
    [(R.CMP_DP_STATUS_TRAINED, 0), (R.CMP_DP_STATUS_RATE, 0), (R.CMP_DP_STATUS_LANES, 0)]

/-- DP_HPD changes its level. -/
def Mach.hpdChange (m : Mach) (v : Bool) : Mach :=
  if m.on R.CMP_DP_STATUS_HPD = v then m
  else
    let m := (m.wr R.CMP_DP_STATUS_HPD (bool01 v)).raise 142 0 0 0
    if v then m.trainLink else m.linkOff

/-- EN of CMP_DP_CTRL is set. -/
def Mach.dpEnable (m : Mach) : Mach :=
  if m.on R.CMP_DP_CTRL_EN then m else (m.wr R.CMP_DP_CTRL_EN 1).trainLink

/-- Mbit/s of a lane: RBR, HBR, HBR2. -/
def linkRate (r : Nat) : Nat := if r = 0 then 1620 else if r = 1 then 2700 else 5400

/-- Most lanes that LANES allows. -/
def laneLimit (v : Nat) : Nat := if v = 1 ∨ v = 2 then v else 4

/-- Bits of a component. -/
def bpcBits (v : Nat) : Nat := if v = 0 then 6 else if v = 2 then 10 else 8

/-- The link of a rate and a number of lanes carries PCLK × 3 × BPC. -/
def Mach.linkCarries (m : Mach) (r lanes : Nat) : Bool :=
  decide (m.rd R.CMP_PCLK * 3 * bpcBits (m.rd R.CMP_DP_CTRL_BPC) * 10 ≤ linkRate r * 1000 * lanes * 8)

/-- A rate and lane count that training may end with. -/
def Mach.linkAllowed (m : Mach) (r lanes : Nat) : Bool :=
  decide (r ≤ min 2 (m.rd R.CMP_DP_CTRL_RATE) ∧ (lanes = 1 ∨ lanes = 2 ∨ lanes = 4) ∧
    lanes ≤ laneLimit (m.rd R.CMP_DP_CTRL_LANES))

/-- Link training ends with a rate and lanes, or fails. -/
def Mach.linkTrained (m : Mach) (result : Option (Fin 3 × BitVec 3)) : Mach :=
  if !m.cmp.training then m
  else
    match result with
    | none => m.linkOff.raise 142 1 0 0
    | some (r, l) =>
      if m.linkAllowed r l.toNat then
        let ok := m.linkCarries r l.toNat
        let m := (m.setCmp { m.cmp with training := false }).wrs
          [(R.CMP_DP_STATUS_TRAINED, bool01 ok), (R.CMP_DP_STATUS_RATE, r), (R.CMP_DP_STATUS_LANES, l.toNat)]
        if ok then m else m.raise 142 1 0 0
      else m

/-- A write of CMP_DP_AUX_CMD: GO starts a transaction; while one runs the write is ignored. -/
def Mach.auxGo (m : Mach) (v : Word) : Mach :=
  if m.on R.CMP_DP_AUX_CMD_GO then m
  else
    let m := m.applyWrite R.CMP_DP_AUX_CMD_GO.a v
    if m.on R.CMP_DP_AUX_CMD_GO then m.emit (.aux v) else m

/-- The AUX transaction ends; an ACK brings its data. -/
def Mach.auxReply (m : Mach) (reply : BitVec 2) (data : List Byte) : Mach :=
  if !m.on R.CMP_DP_AUX_CMD_GO then m
  else
    let old := (List.range 4).flatMap fun i => leBytes 4 (m.rd (R.CMP_DP_AUX_DATA i))
    let bs := (data ++ old.drop data.length).take 16
    let m := m.wrs [(R.CMP_DP_AUX_CMD_GO, 0), (R.CMP_DP_AUX_STAT, reply.toNat)]
    if reply = 0 then
      m.wrs ((List.range 4).map fun i => (R.CMP_DP_AUX_DATA i, ofLe ((bs.drop (4 * i)).take 4)))
    else m

/-- The timing registers, which may be written only while EN is 0. -/
def cmpTiming (a : Nat) : Bool := decide (0x1400100 ≤ a ∧ a ≤ 0x1400110)

end Sys2Proof.Machine
end

