-- ==== Sys2Proof/Machine/Hs.lean ====
section
/-! DEFINITION. The host stream: doorbells, descriptors, blocks and their CRC, SYNC, pushed transfers, the
link, and MSI-X (13). -/
namespace Sys2Proof.Machine

def Mach.setHs (m : Mach) (i : Fin 64) (q : HsQueue) : Mach := { m with hs := m.hs.set i q }

/-- Queue states: 0 OFF, 1 RUN, 2 WAITRS, 3 ERROR. -/
def Mach.hsState (m : Mach) (i : Fin 64) : Nat := m.rd (R.HSQ_STATUS_STATE i)

/-- H2D queue q. -/
def h2d (q : Fin 32) : Fin 64 := ⟨q, by omega⟩

/-- D2H queue q. -/
def d2h (q : Fin 32) : Fin 64 := ⟨32 + q, by omega⟩

/-- The queue moves data to the host. -/
def isD2h (i : Fin 64) : Bool := decide (32 ≤ i.val)

/-! ## Signals (R405, R406) -/

/-- A vector is signalled. -/
def Mach.signal (m : Mach) (v : Nat) : Mach :=
  let r := signalVec m.regs m.out m.fnMask v
  { m with regs := r.1, out := r.2 }

/-- A queue signals its vector. -/
def Mach.signalQueue (m : Mach) (i : Fin 64) : Mach := m.signal (m.rd (R.HSQ_CTRL_VEC i))

/-- The message held for a vector goes out once neither the vector nor the function is masked. -/
def Mach.msixRelease (m : Mach) (v : Nat) : Mach :=
  let p : RF := ⟨(R.HSQ_PBA (v / 32)).a, v % 32, v % 32⟩
  if m.on p && !m.fnMask && !m.on (R.HSQ_MSIX_CTRL v) then (m.wr p 0).emit (.msix (BitVec.ofNat 6 v)) else m

/-- The host unmasks a vector, or the function (R405). -/
def Mach.msixUnmask (m : Mach) (vec : Option (BitVec 6)) : Mach :=
  match vec with
  | some v => (m.wr (R.HSQ_MSIX_CTRL v.toNat) 0).msixRelease v.toNat
  | none => (List.range 64).foldl (fun (m : Mach) v => m.msixRelease v) { m with fnMask := false }

/-! ## Completions (R390) -/

/-- What a completion says beside its descriptor. -/
structure HsCompl where
  status : Nat
  attempt : Nat
  first : Bool
  last : Bool
  daddr : Nat
  len : Nat
  crc : Nat
  ctx : Nat
  blk : Nat
  deriving DecidableEq, Repr

/-- The 32 bytes of a completion. -/
def HsCompl.encode (c : HsCompl) (tag idx phase : Nat) : List Byte :=
  leBytes 4 tag ++ leBytes 1 c.status ++
  leBytes 1 (c.attempt + 16 * bool01 c.first + 32 * bool01 c.last + 128 * phase) ++
  leBytes 2 idx ++ leBytes 8 c.daddr ++ leBytes 4 c.len ++ leBytes 4 c.crc ++
  leBytes 4 (c.ctx + 256 * c.blk) ++ leBytes 4 0

/-- A completion without data moved. -/
def Desc.plain (d : Desc) (status : Nat) : HsCompl :=
  { status := status, attempt := d.attempt, first := false, last := false
    daddr := d.d.daddr.toNat % 2 ^ 36, len := 0, crc := 0, ctx := 0, blk := 0 }

/-- A completion is written, and the vector signalled as IRQ, IRQALL and the status say (R406). -/
def Mach.writeCompl (m : Mach) (i : Fin 64) (d : Desc) (c : HsCompl) : Mach :=
  let size := m.rd (R.HSQ_CTRL_SIZE i)
  let phase := 1 - d.idx.toNat / 2 ^ size % 2
  let m := m.emit (.completion i d.idx (c.encode d.d.tag.toNat d.idx.toNat phase))
  if d.d.flags.getLsbD 0 || m.on (R.HSQ_CTRL_IRQALL i) || c.status != 0 then m.signalQueue i else m

/-- HEAD and CPLIDX move past a completed descriptor, whose queue has nothing in progress. -/
def Mach.advanceHead (m : Mach) (i : Fin 64) : Mach :=
  (m.setHs i { m.hs[i] with cur := none, retry := 0 }).wrs
    [(R.HSQ_HEAD i, m.rd (R.HSQ_HEAD i) + 1), (R.HSQ_CPLIDX i, m.rd (R.HSQ_CPLIDX i) + 1)]

/-- The transfer open on a queue is abandoned (R400). -/
def Mach.pushAbandon (m : Mach) (i : Fin 64) (link : Bool) : Mach :=
  match m.hs[i].push with
  | none => m
  | some p =>
    let m := match m.hs[i].cur with
      | some d =>
        if d.d.op = 2 ∧ !link then
          (m.writeCompl i d { d.plain 6 with ctx := p.ctx, blk := p.blk }).advanceHead i
        else m
      | none => m
    let m := (m.setHs i { m.hs[i] with push := none }).wrs [(R.HSQ_PUSHSRC_CTX i, 0), (R.HSQ_PUSHSRC_OPEN i, 0)]
    m.raise 54 0 p.ctx p.len

/-- Nothing is in progress on a disabled queue: it is OFF (R402). -/
def Mach.hsOff (m : Mach) (i : Fin 64) : Mach :=
  ((m.wr (R.HSQ_STATUS_STATE i) 0).pushAbandon i false).setHs i { cur := none, retry := 0, push := none }

/-- After a completion: a disabled queue that was running becomes OFF. -/
def Mach.hsSettle (m : Mach) (i : Fin 64) : Mach :=
  if !m.on (R.HSQ_CTRL_EN i) && m.hsState i != 3 then m.hsOff i else m

/-- A descriptor completes for good. -/
def Mach.complete (m : Mach) (i : Fin 64) (d : Desc) (c : HsCompl) : Mach :=
  let m := (m.writeCompl i d c).advanceHead i
  let m := if c.status = 0 ∧ 0 < c.len then m.inc (R.HSQ_BLOCKS i) else m
  m.hsSettle i

/-- A queue enters ERROR; `quiet` when its completion has signalled already. -/
def Mach.hsError (m : Mach) (i : Fin 64) (err : Nat) (quiet : Bool) : Mach :=
  let m := m.wrs [(R.HSQ_STATUS_STATE i, 3), (R.HSQ_STATUS_ERR i, err)]
  let m := if quiet then m else m.signalQueue i
  (m.pushAbandon i (err == 5)).raise 49 0 i 0

/-- A descriptor completes with an error that stops its queue. -/
def Mach.completeError (m : Mach) (i : Fin 64) (d : Desc) (c : HsCompl) (err : Nat) : Mach :=
  ((m.writeCompl i d c).advanceHead i).hsError i err true

/-! ## Doorbells (R388, R394) -/

/-- A doorbell write. -/
def Mach.doorbell (m : Mach) (i : Fin 64) (tail : Nat) (retry : Bool) : Mach :=
  let st := m.hsState i
  let m := m.wr (R.HSQ_TAIL i) tail
  if st = 1 ∨ st = 2 then
    if 2 ^ m.rd (R.HSQ_CTRL_SIZE i) < (tail % 65536 + 65536 - m.rd (R.HSQ_CPLIDX i)) % 65536 then m.hsError i 4 false
    else if st = 2 && retry then m.wr (R.HSQ_STATUS_STATE i) 1
    else m
  else m

/-! ## Descriptors (R389 to R391) -/

/-- A descriptor breaks a rule of R390. -/
def badDescriptor (d : Descriptor) (out : Bool) : Bool :=
  let op := d.op.toNat
  decide (2 < op) || (op == 2 && !out) ||
  decide (1 < d.flags.toNat) || decide (2 ^ 36 ≤ d.daddr.toNat) || decide (4096 < d.len.toNat) ||
  decide (d.len.toNat % 4 ≠ 0 ∨ d.haddr.toNat % 4 ≠ 0 ∨ d.daddr.toNat % 4 ≠ 0) ||
  ((op != 0 || out) && d.crc != 0) ||
  (op == 2 && decide (d.len.toNat ≠ 0 ∧ d.len.toNat ≠ 4096)) ||
  (op == 1 && (d.haddr != 0 || d.daddr != 0 || d.len != 0))

/-- The descriptor at HEAD is started: the queue runs, has one posted, and has none in progress. -/
def Mach.descStart (m : Mach) (i : Fin 64) (d : Descriptor) : Mach :=
  let head := m.rd (R.HSQ_HEAD i)
  let q := m.hs[i]
  if m.hsState i ≠ 1 ∨ !m.on (R.HSQ_CTRL_EN i) ∨ q.cur.isSome ∨ head = m.rd (R.HSQ_TAIL i) then m
  else
    let x : Desc := { d := d, idx := BitVec.ofNat 16 head, attempt := q.retry + 1, data := [], crc := 0
                      wrote := false, memErr := false }
    if badDescriptor d (isD2h i) then m.completeError i x (x.plain 4) 2
    else if d.op ≠ 1 ∧ d.len = 0 then m.complete i x (x.plain 0)
    else m.setHs i { q with cur := some x }

/-- The descriptor in progress on a queue, of an operation. -/
def Mach.curOf (m : Mach) (i : Fin 64) (op : Byte) : Option Desc :=
  m.hs[i].cur.filter fun d => d.d.op == op

/-! ## WRITE (R393, R396) -/

/-- HS reads the block of a WRITE from host memory. -/
def Mach.descWrite (m : Mach) (q : Fin 32) : Mach :=
  match m.curOf (h2d q) 0 with
  | none => m
  | some d => m.emit (.hostRead (h2d q) d.d.haddr d.d.len.toNat)

/-- A write of bytes meets an unbacked line, or part of a poisoned one. -/
def Mach.writeMeets (m : Mach) (a : Nat) (bs : List Byte) : Bool :=
  (linesOf a bs.length).any fun l =>
    m.unbacked (128 * l) || (m.mem.poison.contains l && decide ((lineSlice a bs l).2.length < 128))

/-- The block of a WRITE did not carry its CRC. -/
def Mach.resend (m : Mach) (i : Fin 64) (d : Desc) (crc : Nat) : Mach :=
  if d.attempt < 3 then
    let m := (m.writeCompl i d { d.plain 1 with crc := crc }).setHs i { m.hs[i] with cur := none, retry := d.attempt }
    let m := m.wr (R.HSQ_STATUS_STATE i) 2
    (m.incRaiseOnce (R.HSQ_RESENDN i) 48 0 i).hsSettle i
  else m.completeError i d { d.plain 2 with crc := crc } 1

/-- The data of a WRITE has arrived. -/
def Mach.h2dData (m : Mach) (q : Fin 32) (data : List Byte) : Mach :=
  let i := h2d q
  match m.curOf i 0 with
  | none => m
  | some d =>
    if data.length ≠ d.d.len.toNat ∨ d.wrote then m
    else
      let crc := crc32c data
      if crc = d.d.crc.toNat then
        let bad := m.writeMeets d.d.daddr.toNat data
        let m := m.dmaWrite 0 q d.d.daddr.toNat data
        m.setHs i { m.hs[i] with
          cur := some { d with data := data, crc := BitVec.ofNat 32 crc, wrote := true, memErr := bad } }
      else m.resend i d crc

/-- A descriptor completes with MEMERR; the queue goes on (R396). -/
def Mach.memErrCompl (m : Mach) (i : Fin 64) (d : Desc) (c : HsCompl) : Mach :=
  (m.complete i d { c with status := 3 }).raiseOnce 50 0 i 0

/-- The block of a WRITE is in DRAM. -/
def Mach.writeDone (m : Mach) (q : Fin 32) : Mach :=
  let i := h2d q
  match m.curOf i 0 with
  | none => m
  | some d =>
    let c := { d.plain 0 with len := d.d.len.toNat, crc := d.crc.toNat }
    if !d.wrote then m else if d.memErr then m.memErrCompl i d c else m.complete i d c

/-! ## READ (R395) and SYNC (R398) -/

/-- DRAM bytes go to host memory; the CRC of bytes that memory did not give is open. -/
def Mach.sendBlock (m : Mach) (i : Fin 64) (d : Desc) (a n : Nat) (c : HsCompl) : Mach :=
  if m.poisoned a n then
    let m := m.dmaReadErr 1 a n
    { m with free := m.free + 1 }.memErrCompl i d { c with len := n, crc := (Config.freeWord m.free).toNat }
  else
    let bs := m.bytes a n
    (m.emit (.hostWrite d.d.haddr bs)).complete i d { c with len := n, crc := crc32c bs }

/-- A READ at HEAD. -/
def Mach.descRead (m : Mach) (q : Fin 32) : Mach :=
  match m.curOf (d2h q) 0 with
  | none => m
  | some d => m.sendBlock (d2h q) d d.d.daddr.toNat d.d.len.toNat (d.plain 0)

/-- A SYNC at HEAD is presented to MEM. -/
def Mach.descSync (m : Mach) (i : Fin 64) : Mach :=
  match m.curOf i 1 with
  | none => m
  | some d => m.setHs i { m.hs[i] with cur := some { d with wrote := true } }

/-- Every write accepted before the SYNC is complete. -/
def Mach.syncDone (m : Mach) (i : Fin 64) : Mach :=
  match m.curOf i 1 with
  | none => m
  | some d => if d.wrote then m.complete i d (d.plain 0) else m

/-! ## Pushed transfers (R399) -/

/-- The queue has room for an EXPORT. -/
def Mach.pushRoom (m : Mach) (i : Fin 64) : Bool := m.hsState i == 1 && m.hs[i].push.isNone

/-- A transfer opens. -/
def Mach.pushOpen (m : Mach) (i : Fin 64) (c : Fin 8) (len addr : Nat) : Mach :=
  (m.setHs i { m.hs[i] with push := some { ctx := c, len := len, addr := BitVec.ofNat 36 addr, blk := 0 } }).wrs
    [(R.HSQ_PUSHSRC_CTX i, c), (R.HSQ_PUSHSRC_OPEN i, 1)]

/-- The transfer has sent a block: it goes on, or closes. -/
def Mach.pushNext (m : Mach) (i : Fin 64) (p : Push) : Mach :=
  if p.blk + 1 < p.len then m.setHs i { m.hs[i] with push := some { p with blk := p.blk + 1 } }
  else (m.setHs i { m.hs[i] with push := none }).wrs [(R.HSQ_PUSHSRC_CTX i, 0), (R.HSQ_PUSHSRC_OPEN i, 0)]

/-- A PUSH at HEAD takes the next block of the open transfer. -/
def Mach.descPush (m : Mach) (q : Fin 32) : Mach :=
  let i := d2h q
  match m.curOf i 2, m.hs[i].push with
  | some d, some p =>
    let a := p.addr.toNat + 4096 * p.blk
    let c := { d.plain 0 with first := p.blk == 0, last := decide (p.len ≤ p.blk + 1), daddr := a
                              ctx := p.ctx, blk := p.blk }
    let m := m.pushNext i p
    if p.len = 0 then m.complete i d { c with daddr := p.addr.toNat }
    else m.sendBlock i d a 4096 c
  | _, _ => m

/-! ## Queue control (R401, R402) -/

/-- A write of CTRL of a queue. -/
def Mach.hsCtrl (m : Mach) (i : Fin 64) (v : Word) : Mach :=
  let st := m.hsState i
  let w := v.toNat
  let fields : List (RF × Nat) :=
    [(R.HSQ_CTRL_SIZE i, bits w 4 1), (R.HSQ_CTRL_VEC i, bits w 13 8), (R.HSQ_CTRL_IRQALL i, bits w 14 14)]
  let m := if st = 0 then m.wrs fields
    else if fields.any (fun p => m.rd p.1 != p.2) then m.wr (R.HSQ_STATUS_CFGERR i) 1 else m
  let en := m.on (R.HSQ_CTRL_EN i)
  if bits w 0 0 = 1 then
    if st ≠ 0 then m
    else if 2 ≤ m.rd R.HS_BOOT_STAGE ∧ 4 ≤ bits w 4 1 ∧ bits w 4 1 ≤ 12 then
      (m.setHs i { cur := none, retry := 0, push := none }).wrs
        [(R.HSQ_CTRL_EN i, 1), (R.HSQ_STATUS_STATE i, 1), (R.HSQ_STATUS_ERR i, 0), (R.HSQ_HEAD i, 0),
         (R.HSQ_TAIL i, 0), (R.HSQ_CPLIDX i, 0)]
    else m.wr (R.HSQ_STATUS_CFGERR i) 1
  else if !en then m
  else
    let m := m.wr (R.HSQ_CTRL_EN i) 0
    let waits := match m.hs[i].cur with | some d => d.d.op == 2 | none => true
    if waits || st != 1 then m.hsOff i else m

/-! ## Errors and the link (R384, R397, R403) -/

/-- A host-memory access fails on the link. -/
def Mach.hostError (m : Mach) (i : Fin 64) (_e : HostErr) : Mach :=
  match m.hs[i].cur with
  | none => if m.hsState i = 1 ∨ m.hsState i = 2 then m.hsError i 3 false else m
  | some d => m.completeError i d (d.plain 5) 3

/-- Every queue not OFF enters ERROR with LINKDOWN, its access abandoned. -/
def Mach.queuesDown (m : Mach) : Mach :=
  (List.finRange 64).foldl (fun (m : Mach) (i : Fin 64) =>
    if m.hsState i = 0 then m
    else (m.setHs i { m.hs[i] with cur := none, retry := 0 }).hsError i 5 false) m

/-- The PCIe function at its reset state: MSI-X table, pending bits and mask. -/
def Mach.functionReset (m : Mach) : Mach :=
  { m with regs := m.regs.filter fun p => !decide (0x100200000 ≤ p.1 ∧ p.1 < 0x100201008), fnMask := false }

/-- The link is up. -/
def Mach.linkUp (m : Mach) (speed : BitVec 3) (width : BitVec 4) : Mach :=
  if m.pstate = 3 then m
  else
    let deg := decide (speed.toNat < 4 ∨ width.toNat < 8)
    let m := m.wrs [(R.HS_LINK_UP, 1), (R.HS_LINK_SPEED, speed.toNat), (R.HS_LINK_WIDTH, width.toNat),
      (R.HS_LINK_DEGRADED, bool01 deg)]
    if deg then m.raise 51 1 0 0 else m

/-- The link is down without a hot reset. -/
def Mach.linkDown (m : Mach) : Mach :=
  (m.queuesDown.functionReset.wrs [(R.HS_LINK_UP, 0), (R.HS_LINK_SPEED, 0), (R.HS_LINK_WIDTH, 0),
    (R.HS_LINK_DEGRADED, 0)]).raise 51 0 0 0

/-- The function goes to D3hot. -/
def Mach.d3hot (m : Mach) : Mach := m.queuesDown.raise 51 2 0 0

/-- AER logs an error. -/
def Mach.aerLogged (m : Mach) (uncorrectable : Bool) : Mach := m.raise (if uncorrectable then 53 else 52) 0 0 0

end Sys2Proof.Machine
end

