-- ==== Sys2Proof/Machine/Rng.lean ====
section
/-! DEFINITION. The ring: frames, cyclic frames, ring signals, ring arbitration, relays, peer delays and
PTP (14, 08). -/
namespace Sys2Proof.Machine

/-! ## Ports and modes (R411 to R417) -/

/-- Ring mode; 3 acts as 0. -/
def Mach.ringMode (m : Mach) : Nat := m.rd R.RNG_CTRL_MODE % 3

/-- The PHYs are on the ring and the mode forwards. -/
def Mach.ringUp (m : Mach) : Bool := m.ringMode != 0 && m.rd R.RNG_STATUS_BYPST == 0

/-- Own MAC address, byte 0 lowest. -/
def Mach.ownMac (m : Mach) : Nat := m.rd R.RNG_MAC_LO + m.rd R.RNG_MAC_HI * 2 ^ 32

/-- A write of MODE, accepted while the relays are closed (R412). -/
def Mach.ringModeWrite (m : Mach) (v : Nat) : Mach :=
  if m.on R.RNG_STATUS_BYPST then m.wr R.RNG_CTRL_MODE v else m.wr R.RNG_CTRL_CFGERR 1

/-- The port opposite. -/
def otherPort (p : Fin 2) : Fin 2 := if p = 0 then 1 else 0

/-- Addresses of peer-delay messages and of supervision frames, byte 0 lowest. -/
def pdelayMac : Nat := 0x0E0000C28001

/-- A pair of source and sequence number is forgotten after 400 ms. -/
def dupTicks : Nat := 320000000

/-- Ticks since power-up at the loss of RNG's memory of a pair. -/
def Mach.dup (m : Mach) (src : BitVec 48) (seq : BitVec 16) : Option DupEntry :=
  m.rng.dups.find? fun d => d.src == src && d.seq == seq && decide (m.now < d.at_ + dupTicks)

/-- A pair is seen. -/
def Mach.noteDup (m : Mach) (d : DupEntry) : Mach :=
  let keep := m.rng.dups.filter fun x => !(x.src == d.src && x.seq == d.seq) && decide (m.now < x.at_ + dupTicks)
  { m with rng := { m.rng with dups := d :: keep } }

/-! ## PTP (R428, R431, R432) -/

/-- A latency in 2^−16 ns. -/
def Mach.lat (m : Mach) (r : RF) : Int := m.rdS r * 4096

/-- Ingress timestamp of a frame that arrives now: 2^−16 ns with the epoch above. -/
def Mach.ingress (m : Mach) (p : Fin 2) : Int :=
  (m.tim.stamp m.now / 2 ^ 16 % 2 ^ 64 : Nat) - m.lat (R.RNG_P_ILAT p)

/-- What a Sync gains on its way from a port: `res` is the time between the two captures (R431). -/
def Mach.syncGain (m : Mach) (p : Fin 2) (res : Int) : Int :=
  let r := res + m.lat (R.RNG_P_ELAT (otherPort p)) + m.lat (R.RNG_P_ILAT p)
  if m.on (R.RNG_P_PSTAT_PDOK p) then r + m.rd (R.RNG_P_PDELAY p) + m.rdS (R.RNG_P_ASYM p) else r

/-- A message with a new correctionField, bytes 8 to 15, most significant first. -/
def ptpCorrect (x : PtpMsg) (c : BitVec 64) : PtpMsg :=
  { x with correction := c, bytes := x.bytes.take 8 ++ (leBytes 8 c.toNat).reverse ++ x.bytes.drop 16 }

/-- The frame as it is forwarded: a Sync is corrected while PTPEN is 1. -/
def Mach.forwarded (m : Mach) (p : Fin 2) (f : EthFrame) (res : Int) : EthFrame :=
  match f.ptp with
  | none => f
  | some x =>
    if x.kind = .sync ∧ m.on R.RNG_CTRL_PTPEN then
      { f with ptp := some (ptpCorrect x (x.correction + BitVec.ofInt 64 (m.syncGain p res))) }
    else f

/-- The 128 bytes of a PTP receive record. -/
def Mach.ptpRecord (m : Mach) (p : Fin 2) (x : PtpMsg) : List Byte :=
  let ts := unsigned 64 (m.ingress p)
  let msg := x.bytes.take 92
  leBytes 4 (ts / 2 ^ 16) ++ leBytes 2 ts ++ leBytes 2 (ts / 2 ^ 48) ++
  leBytes 1 (p + 2 * m.rd (R.RNG_P_PSTAT_PATH_STEP p)) ++ leBytes 1 msg.length ++ leBytes 2 0 ++
  leBytes 4 (m.rd (R.RNG_P_PDELAY p)) ++ leBytes 4 (m.rd (R.RNG_P_ASYM p)) ++ leBytes 16 0 ++
  msg ++ List.replicate (92 - msg.length) 0

/-- A PTP message is delivered: its record goes to the receive ring (R432). -/
def Mach.ptpDeliver (m : Mach) (p : Fin 2) (x : PtpMsg) : Mach :=
  let wanted := x.kind == .sync || x.kind == .followUp || x.kind == .announce
  if !m.on R.RNG_CTRL_PTPEN || !wanted || decide (x.domain.toNat ≠ m.rd R.RNG_PTP_CTRL_DOMAIN) then m
  else
    let size := 2 ^ (4 + m.rd R.RNG_PTPRX_SIZE)
    let w := m.rd R.RNG_PTPRX_WPTR
    if ringFull size w (m.rd R.RNG_PTPRX_RPTR) then m.incRaiseOnce R.RNG_PTPRX_LOST 27 0 0
    else (m.dmaWrite 10 0 (m.addr R.RNG_PTPRX_BASE_LO R.RNG_PTPRX_BASE_HI + 128 * w) (m.ptpRecord p x)).wr
      R.RNG_PTPRX_WPTR (ringNext size w)

/-! ## Frames (R411, R415, R417) -/

/-- The frame is for this module: its address, or a group address. -/
def Mach.addressed (m : Mach) (f : EthFrame) : Bool := f.dst.toNat == m.ownMac || f.dst.getLsbD 0

/-- A frame is delivered to the module. -/
def Mach.deliver (m : Mach) (p : Fin 2) (f : EthFrame) : Mach :=
  match f.ptp with
  | some x => m.ptpDeliver p x
  | none => m

/-- A frame is sent on a port. -/
def Mach.sendEth (m : Mach) (p : Fin 2) (f : EthFrame) : Mach := (m.inc (R.RNG_P_TXFRAMES p)).emit (.eth p f)

/-- A frame with an HSR tag: forwarded and delivered once. -/
def Mach.hsrFrame (m : Mach) (p : Fin 2) (f : EthFrame) (seq : BitVec 16) (res : Int) : Mach :=
  let q := otherPort p
  let old := m.dup f.src seq
  let sentOn := match old with | some d => d.sent | none => []
  let had := match old with | some d => d.delivered | none => false
  let fwd := !sentOn.contains q
  let del := m.addressed f && !had
  let m := m.noteDup { src := f.src, seq := seq, port := p, at_ := m.now, delivered := had || del
                       sent := if fwd then q :: sentOn else sentOn }
  let m := if fwd then m.sendEth q (m.forwarded p f res) else m
  let m := if del then m.deliver p f else m
  if !fwd || (m.addressed f && had) then m.inc (R.RNG_P_DUPDROP p) else m

/-- The module's own frame comes back in LINE mode (R417). -/
def Mach.lineLoop (m : Mach) : Mach := (m.wr R.RNG_STATUS_LOOP 1).raiseOnce 28 1 0 0

/-- A frame arrives at a port. -/
def Mach.ringFrame (m : Mach) (p : Fin 2) (f : EthFrame) (res : Int) : Mach :=
  if !m.ringUp then m
  else
    let m := m.inc (R.RNG_P_RXFRAMES p)
    if f.fcsBad || decide (1528 < f.len) then m.inc (R.RNG_P_RXERR p)
    else if f.dst.toNat = pdelayMac then m
    else if f.src.toNat = m.ownMac then (if m.ringMode = 2 then m.lineLoop else m)
    else if m.ringMode = 2 then
      let m := m.sendEth (otherPort p) (m.forwarded p f res)
      if m.addressed f then m.deliver p f else m
    else
      match f.tag with
      | none => m.inc (R.RNG_P_NOTAG p)
      | some seq => m.hsrFrame p f seq res

/-- Every 2 s the module sends a supervision frame (R413). -/
def Mach.supervision (m : Mach) : Mach :=
  if m.ringMode ≠ 1 ∨ !m.ringUp ∨ m.now < m.rng.supAt + 1600000000 then m
  else
    let q := m.rng.hsrSeq
    let m := { m with rng := { m.rng with hsrSeq := q + 1, supAt := m.now } }
    (((m.inc (R.RNG_P_TXFRAMES 0)).inc (R.RNG_P_TXFRAMES 1)).emit (.supervision 0 q)).emit (.supervision 1 q)

/-! ## Relays and watchdog (R418, R419) -/

/-- Something holds the relays closed. -/
def Mach.relaysHeld (m : Mach) : Bool :=
  !m.env.powered || !m.saf.msRun || m.rng.wdExp || m.on R.RNG_CTRL_BYPASS

/-- A write of BYPASS (R418, R419, R433). -/
def Mach.bypassWrite (m : Mach) (v : Bool) : Mach :=
  if v then { m with regs := rwr m.regs R.RNG_CTRL_BYPASS 1, rng := { m.rng with wdAck := m.rng.wdExp } }
  else if m.rng.wdExp ∧ !m.rng.wdAck then m
  else { m with regs := rwr m.regs R.RNG_CTRL_BYPASS 0, rng := { m.rng with wdExp := false, wdAck := false } }

/-- The relays have moved to where they are held. -/
def Mach.relayMove (m : Mach) : Mach :=
  if m.on R.RNG_STATUS_BYPST = m.relaysHeld then m
  else (m.wr R.RNG_STATUS_BYPST (bool01 m.relaysHeld)).raise 23 (bool01 (!m.relaysHeld)) 0 0

/-- MS refreshes the watchdog; an expiry is recorded once MS runs again. -/
def Mach.watchdogRefresh (m : Mach) : Mach :=
  if !m.saf.msRun then m
  else
    let owed := m.rng.wdOwed
    let m := { m with rng := { m.rng with wdAt := m.now, wdOwed := false } }
    if owed then m.raise 29 0 0 0 else m

/-- WDT ms have passed without a refresh. -/
def Mach.watchdogExpire (m : Mach) : Mach :=
  if m.rng.wdExp ∨ m.now < m.rng.wdAt + max 1 (m.rd R.RNG_WDT) * msTicks then m
  else { m with regs := rwr m.regs R.RNG_STATUS_WDEXP 1
                rng := { m.rng with wdExp := true, wdAck := false, wdOwed := true } }

/-- Link bit of a port. -/
def linkBit (p : Fin 2) : RF := if p = 0 then R.RNG_STATUS_LINKA else R.RNG_STATUS_LINKB

/-- The link of a port goes up or down. -/
def Mach.phyLink (m : Mach) (p : Fin 2) (up : Bool) : Mach :=
  if m.on (linkBit p) = up then m
  else (m.wr (linkBit p) (bool01 up)).raise 21 (bool01 (!up)) p 0

/-! ## Peer delay (R429, R430) -/

/-- LOGPDI, −3 to 3; others act as 0. -/
def Mach.logPdi (m : Mach) : Int :=
  let v := m.rdS R.RNG_PTP_CTRL_LOGPDI
  if v < -3 ∨ 3 < v then 0 else v

/-- Ticks of 2^LOGPDI s. -/
def Mach.pdiTicks (m : Mach) : Nat := 100000000 * 2 ^ (m.logPdi + 3).toNat

/-- The port takes part in peer-delay exchanges. -/
def Mach.portRuns (m : Mach) (p : Fin 2) : Bool :=
  m.on R.RNG_CTRL_PTPEN && m.ringUp && m.on (linkBit p) && m.pstate != 3

def Mach.setPd (m : Mach) (p : Fin 2) (x : PdPort) : Mach := { m with rng := { m.rng with pd := m.rng.pd.set p x } }

/-- A port sends a Pdelay_Req. -/
def Mach.pdelayReq (m : Mach) (p : Fin 2) : Mach :=
  let x := m.rng.pd[p]
  if m.portRuns p && (x.lastSent == 0 || decide (x.lastSent + m.pdiTicks ≤ m.now)) then
    ((m.setPd p { x with lastSent := m.now }).inc (R.RNG_P_TXFRAMES p)).emit (.pdelayReq p)
  else m

/-- A port answers a Pdelay_Req. -/
def Mach.pdelayAnswer (m : Mach) (p : Fin 2) (turnaround : Nat) : Mach :=
  if m.portRuns p then
    ((m.inc (R.RNG_P_RXFRAMES p)).inc (R.RNG_P_TXFRAMES p)).emit (.pdelayResp p turnaround)
  else m

/-- The mean of some measurements. -/
def meanPd (l : List Int) : Int := openRound 7 (l.foldl (· + ·) 0) (max 1 l.length)

/-- A delay in its register: unsigned, 32 bits. -/
def pdWord (d : Int) : Nat := (clampI 0 (2 ^ 32 - 1) d).toNat

/-- A measurement of a port, 2^−16 ns. -/
def Mach.pdTake (m : Mach) (p : Fin 2) (d : Int) : Mach :=
  let x := m.rng.pd[p]
  let m := m.wr (R.RNG_P_PDLAST p) (pdWord d)
  let join (m : Mach) (l : List Int) : Mach :=
    (m.setPd p { x with last4 := l, outliers := 0 }).wr (R.RNG_P_PDELAY p) (pdWord (meanPd l))
  if !m.on (R.RNG_P_PSTAT_PDOK p) then (join m [d]).wr (R.RNG_P_PSTAT_PDOK p) 1
  else if (d - m.rd (R.RNG_P_PDELAY p)).natAbs ≤ m.rd R.RNG_PTP_CTRL_PSLIM * 65536 then join m ((d :: x.last4).take 4)
  else if m.on (R.RNG_P_PSTAT_PATH_STEP p) then m.wr (R.RNG_P_PSVAL p) (pdWord d)
  else if x.outliers < 2 then (m.setPd p { x with outliers := x.outliers + 1 }).inc (R.RNG_P_OUTLIER p)
  else
    ((m.setPd p { x with outliers := 0 }).wrs [(R.RNG_P_PSTAT_PATH_STEP p, 1), (R.RNG_P_PSVAL p, pdWord d)]).raise 24 0 p 0

/-- A completed exchange: d = ((t4 − t1) − (t3 − t2)) / 2. -/
def Mach.pdMeasure (m : Mach) (p : Fin 2) (t1 t2 t3 t4 : Int) : Mach :=
  if m.portRuns p ∧ m.now ≤ m.rng.pd[p].lastSent + m.pdiTicks then
    m.pdTake p (openRound 6 ((t4 - t1) - (t3 - t2)) 2)
  else m

/-- A write of PSACK. -/
def Mach.psack (m : Mach) (p : Fin 2) : Mach :=
  let v := m.rd (R.RNG_P_PSVAL p)
  (m.setPd p { m.rng.pd[p] with last4 := [(v : Int)], outliers := 0 }).wrs
    [(R.RNG_P_PDELAY p, v), (R.RNG_P_PSTAT_PATH_STEP p, 0)]

/-! ## Cycles (R422, R258) -/

/-- T_c in ns. -/
def Mach.cycNs (m : Mach) : Nat := max 1 (m.rd R.RNG_CYC_PER) * 1000

/-- The launch instant of a cycle, PT without wrap, nearest to now. -/
def Mach.launchPt (m : Mach) (cycle : Nat) : Int := nearPt (m.ptOf m.mt) cycle

/-- The first MT instant at or after a PT instant (R258). -/
def Mach.mtOf (m : Mach) (pt : Int) : Nat :=
  let cap : Int := m.rd R.TIM_MTK_SEQ * mgmtTick
  (cap - (-((pt - m.rd R.TIM_MTK_PT) * 4)) / 5).toNat

/-- The cycle whose launch is the next: PT modulo 2^32 at or after this instant. -/
def Mach.nextCycle (m : Mach) : Nat :=
  let l := ceilTo m.cycNs (unsigned 32 (m.ptOf m.mt))
  if 2 ^ 32 ≤ l then 0 else l

/-- The cycle before or after one on the grid, `k` cycles back. -/
def Mach.cycleBack (m : Mach) (l k : Nat) : Nat :=
  -- the grid starts again at PT 0
  let last := (2 ^ 32 - 1) / m.cycNs * m.cycNs
  if k * m.cycNs ≤ l then l - k * m.cycNs else last + m.cycNs - (k * m.cycNs - l)

/-- Ticks from L − 20 µs to L. -/
def cutTicks : Nat := 16000

/-! ## The module's cyclic frame (R424) -/

/-- The command record of a ring axis for cycle L. -/
def Mach.axCmdRec (m : Mach) (a : Fin 8) (l : Int) : AxCmdRec :=
  let x := m.axis[a]
  let lead := m.rd (R.AXE_AX_SPLEAD a)
  let t := m.mtOf (l + 1000 * ((if lead = 0 then aper (m.rd (R.AXE_AX_CFG_APER a)) else lead : Nat) : Int))
  { pos := BitVec.ofInt 32 (roundPos (x.posAt t)), vel := BitVec.ofInt 32 (x.velAt t)
    enable := m.on (R.AXE_AX_CTRL a), qstop := x.qstop, clrf := x.clrf, axis := a
    modid := BitVec.ofNat 3 (m.rd R.TRL_CTRL_MODID), seq := x.cmdSeq }

/-- Ring axes whose period begins at cycle L. -/
def Mach.dueAxes (m : Mach) (l : Nat) : List (Fin 8) :=
  (List.finRange 8).filter fun (a : Fin 8) =>
    m.rd (R.AXE_AX_CFG_KIND a) == 1 && l % (aper (m.rd (R.AXE_AX_CFG_APER a)) * 1000) == 0

/-- A period begins for an axis: the record is counted, and a period without feedback is a miss (R340). -/
def Mach.axPeriod (m : Mach) (a : Fin 8) : Mach :=
  let x := m.axis[a]
  m.setAxis a { x with cmdSeq := x.cmdSeq + 1, clrf := false, fbSeen := false
                       fbMiss := if x.fbSeen || !m.on (R.AXE_AX_CTRL a) then 0 else x.fbMiss + 1 }

/-- The window of cycle L: PT from and to, without wrap (R259, R422). -/
def Mach.window (m : Mach) (cycle : Nat) : Int × Int :=
  let a := m.launchPt cycle + 1000 * m.rd R.TRL_RDEPTH
  let last := decide (2 ^ 32 < cycle + m.cycNs)
  (a, a + if last then 2 ^ 32 - cycle else m.cycNs)

/-- PT slices, without wrap, whose start lies in an interval. -/
def slicesIn (a e : Int) : List Int := intRange ((a + sliceNs - 1) / sliceNs) ((e - 1) / sliceNs)

/-- The summary of a slice as it stood at an instant, as laser-on. -/
def Mach.summOn (m : Mach) (n : Fin 16) (t : Nat) (k : Nat) : Option Summary :=
  (m.fe[n].summaryAt k t).filter (·.lon)

/-- The request of a field for a PT slice, from the summaries published by an instant. -/
def Mach.ringReq (m : Mach) (n : Fin 16) (t : Nat) (s : Int) : Option RingReq :=
  let g : Int := m.rd R.TRL_GUARD
  let ks := (intRange (m.mtOf (s * sliceNs - g) / sliceTicks : Nat) (m.mtOf ((s + 1) * sliceNs + g) / sliceTicks : Nat)).map (·.toNat)
  let l := ks.filterMap (m.summOn n t)
  if l.any (·.ringm) then
    (boxOf (l.map (·.box))).map fun b =>
      { sigma := BitVec.ofNat 18 (unsigned 18 s), gfield := BitVec.ofNat 7 (m.gfield n)
        tprio := BitVec.ofNat 4 (m.rd (R.TRL_FPRIO n)), age := BitVec.ofNat 8 (m.rd (R.FE_TRL_AGE_AGE n))
        xmin := b.xmin, ymin := b.ymin, xmax := b.xmax, ymax := b.ymax }
  else none

/-- All requests of the module for a cycle, by falling eff and then rising field number. -/
def Mach.ringReqs (m : Mach) (cycle t : Nat) : List RingReq :=
  if !m.on R.TRL_CTRL_RINGEN then []
  else
    let w := m.window cycle
    m.grantOrder.flatMap fun (n : Fin 16) => (slicesIn w.1 w.2).filterMap (m.ringReq n t)

/-- The net changes of own ring signals up to an instant as masks. -/
def netMasks (l : List (Nat × Nat × Bool)) : BitVec 64 × BitVec 64 :=
  l.foldl (fun (s : BitVec 64 × BitVec 64) c =>
    let b := BitVec.ofNat 64 (2 ^ (c.2.1 - 64))
    if c.2.2 then (s.1 ||| b, s.2 &&& ~~~b) else (s.1 &&& ~~~b, s.2 ||| b)) (0, 0)

/-- The module's record of a cycle, held or empty. -/
def Mach.ownSig (m : Mach) (cycle : Nat) : SigRec :=
  match m.rng.own.find? fun f => f.cycle.toNat == cycle with
  | some f => (f.frame.sections.findSome? fun s => match s with
      | .sig (r :: _) => some r
      | _ => none).getD ⟨BitVec.ofNat 32 cycle, 0, 0⟩
  | none => ⟨BitVec.ofNat 32 cycle, 0, 0⟩

/-- The sections of the frame of cycle L. -/
def Mach.cycSections (m : Mach) (cycle : Nat) (new : SigRec) (reqs : List RingReq) : List CycSect :=
  let ax := (m.dueAxes cycle).map fun a => m.axCmdRec a (m.launchPt cycle)
  (if ax.isEmpty then [] else [.axCmd ax]) ++ (if reqs.isEmpty then [] else [.req reqs]) ++
  [.sig (new :: (List.range 3).map fun k => m.ownSig (m.cycleBack cycle (k + 1)))]

/-- The edges of a frame enter the ring stages; late ones are not launched (R58, class 5). -/
def Mach.cycEdges (m : Mach) (due : Nat) : Mach :=
  (List.finRange 2).foldl (fun (m : Mach) (p : Fin 2) =>
    if m.isLate due then m.noteLate 5 p false else m.pushEdge (.cyc p) due .pulse) m

/-- The frame of the next cycle is formed and handed to the ring stages, once, in the 20 µs before its
launch (R422 to R426). -/
def Mach.cycLaunch (m : Mach) : Mach :=
  let cycle := m.nextCycle
  let pt := m.launchPt cycle
  let due := m.mtOf pt
  let cut := due - cutTicks
  if !m.on R.RNG_CTRL_CYCEN ∨ m.ringMode = 0 ∨ m.pstate = 3 ∨ m.mt < cut ∨
      (m.rng.own.head?.map (·.cycle.toNat)) = some cycle then m
  else
    let inc := m.rng.chg.filter fun c => decide (c.1 ≤ cut)
    let k := netMasks inc
    let new : SigRec := ⟨BitVec.ofNat 32 cycle, k.1, k.2⟩
    let all := m.ringReqs cycle cut
    let f : CycFrame :=
      { ver := 1, kind := 0, num := BitVec.ofNat 8 (m.rd R.TRL_CTRL_MODID), ptv := m.on R.TRL_CTRL_PTVALID
        cycle := BitVec.ofNat 32 cycle, seq := m.rng.cycSeq, sections := m.cycSections cycle new (all.take 48)
        fits := true }
    let axes := m.dueAxes cycle
    let r := m.rng
    let own : OwnFrame := ⟨BitVec.ofNat 32 cycle, due, f, if m.ringMode = 1 then some r.hsrSeq else none⟩
    let m := { m with rng := { r with
      own := (own :: r.own).take 8
      chg := r.chg.filter fun c => !decide (c.1 ≤ cut)
      cycSeq := r.cycSeq + 1
      hsrSeq := if m.ringMode = 1 then r.hsrSeq + 1 else r.hsrSeq
      sigRecs := r.sigRecs ++ [(m.rd R.TRL_CTRL_MODID, new)] } }
    let m := axes.foldl (fun (m : Mach) a => m.axPeriod a) m
    let m := (List.range (all.length - 48)).foldl (fun (m : Mach) _ => m.inc R.TRL_RQDROP) m
    m.cycEdges due

/-- The frame whose edges are due is sent on a port. -/
def Mach.cycSend (m : Mach) (p : Fin 2) (due : Nat) : Mach :=
  match m.rng.own.find? fun f => f.due == due with
  | none => m
  | some f => if m.ringUp then (m.inc (R.RNG_P_TXFRAMES p)).emit (.cyc p f.frame f.tag) else m

/-! ## Received cyclic frames (R425) -/

/-- A section is allowed for the kind of frame, and its COUNT is in range. -/
def sectOk (kind : Nat) : CycSect → Bool
  | .axCmd l => kind == 0 && decide (l.length ≤ 8)
  | .axFb l => kind == 1 && decide (1 ≤ l.length ∧ l.length ≤ 16)
  | .req l => kind == 0 && decide (l.length ≤ 48)
  | .sig l => kind == 0 && l.length == 4
  | .bad _ => false

/-- The frame is well formed. -/
def cycOk (f : CycFrame) : Bool :=
  f.ver == 1 && f.fits && decide (f.sections.length ≤ 4) && f.sections.all (sectOk f.kind.toNat)

def cycReqs (f : CycFrame) : List RingReq :=
  f.sections.flatMap fun s => match s with | .req l => l | _ => []

def cycSigs (f : CycFrame) : List SigRec :=
  f.sections.flatMap fun s => match s with | .sig l => l | _ => []

def cycFbs (f : CycFrame) : List AxFbRec :=
  f.sections.flatMap fun s => match s with | .axFb l => l | _ => []

/-- The modules of RMASK. -/
def Mach.rmask (m : Mach) : List Nat := (List.range 8).filter fun k => bits (m.rd R.TRL_CTRL_RMASK) k k == 1

/-- The instant of the decision of a cycle. -/
def Mach.decideAt (m : Mach) (cycle : Nat) : Nat := m.mtOf (m.launchPt cycle + 1000 * m.rd R.TRL_RDLY)

/-- Signal records not yet held, of cycles not yet applied, join those held. -/
def Mach.holdSigs (m : Mach) (id : Nat) (l : List SigRec) : Mach :=
  let new := l.filter fun s =>
    !m.rng.applied.contains s.cycle && !(m.rng.sigRecs.any fun q => q.1 == id && q.2.cycle == s.cycle)
  { m with rng := { m.rng with sigRecs := m.rng.sigRecs ++ new.map fun s => (id, s) } }

/-- A module frame in time. -/
def Mach.cycModule (m : Mach) (p : Fin 2) (f : CycFrame) : Mach :=
  let id := f.num.toNat
  match m.rng.rx.find? fun q => q.cycle == f.cycle && q.modid == id with
  | some q =>
    let q' := { q with ports := if q.ports.contains p then q.ports else p :: q.ports }
    ({ m with rng := { m.rng with rx := m.rng.rx.map fun (x : CycRx) => if x.cycle == f.cycle && x.modid == id then q' else x } }).inc
      (R.RNG_P_DUPDROP p)
  | none =>
    let q : CycRx := { cycle := f.cycle, modid := id, at_ := m.mt, ports := [p], reqs := cycReqs f, sigs := cycSigs f }
    ({ m with rng := { m.rng with rx := (q :: m.rng.rx).take 128 } }).holdSigs id (cycSigs f)

/-- The feedback records of a drive frame go to the axes that name them. -/
def Mach.cycDrive (m : Mach) (f : CycFrame) : Mach :=
  (indexed (cycFbs f)).foldl (fun (m : Mach) r =>
    (List.finRange 8).foldl (fun (m : Mach) (a : Fin 8) =>
      if m.rd (R.AXE_AX_CFG_KIND a) = 1 ∧ m.rd (R.RNG_AX_DRV_DRV a) = f.num.toNat ∧ m.rd (R.RNG_AX_DRV_IDX a) = r.1 then
        m.axFeedback a r.2 else m) m) m

/-- A cyclic frame is used (R425). -/
def Mach.cycUse (m : Mach) (p : Fin 2) (f : CycFrame) : Mach :=
  if !cycOk f then m.incRaiseOnce R.RNG_CYCBAD 28 0 0
  else if f.kind = 1 then m.cycDrive f
  else if !m.rmask.contains f.num.toNat then m
  else if m.decideAt f.cycle.toNat < m.mt then m.inc R.TRL_LATEFRM
  else m.cycModule p f

/-- A cyclic frame arrives at a port: it is forwarded as other frames are, unless it is the module's own. -/
def Mach.cycReceive (m : Mach) (p : Fin 2) (f : CycFrame) : Mach :=
  if !m.ringUp then m
  else
    let m := m.inc (R.RNG_P_RXFRAMES p)
    let own := f.kind == 0 && f.num.toNat == m.rd R.TRL_CTRL_MODID
    if own then (if m.ringMode = 2 then m.lineLoop else m)
    else
      let seen := m.ringMode == 1 && f.kind == 0 &&
        (m.rng.rx.any fun q => q.cycle == f.cycle && q.modid == f.num.toNat && !q.ports.contains p)
      let m := if seen then m else (m.inc (R.RNG_P_TXFRAMES (otherPort p))).emit (.cyc (otherPort p) f none)
      m.cycUse p f

/-! ## The decision instant (R260, R261, R416, R425, R426) -/

/-- The cycle's frame of a module has arrived, or is the module's own. -/
def Mach.hasFrame (m : Mach) (cycle : Word) (id : Nat) : Bool :=
  if id = m.rd R.TRL_CTRL_MODID then m.rng.own.any fun f => f.cycle == cycle
  else m.rng.rx.any fun q => q.cycle == cycle && q.modid == id

/-- Frames missing at the decision are counted. -/
def Mach.countMissing (m : Mach) (cycle : Word) : Mach :=
  (m.rmask.filter fun id => !m.hasFrame cycle id).foldl (fun (m : Mach) _ => m.incRaiseOnce R.RNG_CYCMISS 25 0 0) m

/-- Loss bit of a port. -/
def lossBit (p : Fin 2) : RF := if p = 0 then R.RNG_STATUS_LOSSA else R.RNG_STATUS_LOSSB

/-- Path loss of a port, judged at the decision of a cycle (R416). -/
def Mach.pathLoss (m : Mach) (cycle : Word) (p : Fin 2) : Mach :=
  let own := m.rd R.TRL_CTRL_MODID
  let rs := m.rng.rx.filter fun q => q.cycle == cycle && m.rmask.contains q.modid
  let lossy := rs.any fun q => !q.ports.contains p
  let whole := m.rmask.all fun id => id == own || rs.any fun q => q.modid == id && q.ports.contains p
  let k := m.rng.missRun.getD p 0
  let n := if lossy then k + 1 else 0
  let m := { m with rng := { m.rng with missRun := modify m.rng.missRun p fun _ => n } }
  let loss := m.on (lossBit p)
  if !loss && decide (max 1 (m.rd R.RNG_PLWIN) ≤ n) then (m.wr (lossBit p) 1).raise 22 0 p 0
  else if loss && whole then (m.wr (lossBit p) 0).raise 22 1 p 0
  else m

/-- Effective priority that a request names. -/
def Mach.reqEff (m : Mach) (r : RingReq) : Nat :=
  min (r.tprio.toNat + r.age.toNat / max 1 (m.rd R.TRL_AGESTEP)) 31

/-- A request as a grant. -/
def reqGrant (t : Nat) (r : RingReq) : RingGrant :=
  ⟨r.gfield.toNat, r.sigma.toNat, ⟨r.xmin, r.ymin, r.xmax, r.ymax⟩, t⟩

/-- A request goes before another: falling priority, rising field, rising slice. -/
def Mach.reqBefore (m : Mach) (near : Int) (a b : RingReq) : Bool :=
  let k (r : RingReq) : Int := nearPt near (r.sigma.toNat * sliceNs)
  decide (m.reqEff b < m.reqEff a) ||
  (m.reqEff a == m.reqEff b && (decide (a.gfield.toNat < b.gfield.toNat) ||
    (a.gfield == b.gfield && decide (k a ≤ k b))))

/-- A request in its place among sorted ones. -/
def Mach.reqInsert (m : Mach) (near : Int) (r : RingReq) : List RingReq → List RingReq
  | [] => [r]
  | h :: t => if m.reqBefore near h r then h :: Mach.reqInsert m near r t else r :: h :: t

/-- The requests for the window of a cycle, the module's own among them, in the order of the decision. -/
def Mach.windowReqs (m : Mach) (cycle : Word) (own : Bool) : List RingReq :=
  let w := m.window cycle.toNat
  let mine := match m.rng.own.find? fun f => f.cycle == cycle with
    | some f => if own then cycReqs f.frame else []
    | none => []
  let all := mine ++ (m.rng.rx.filter fun q => q.cycle == cycle && m.rmask.contains q.modid).flatMap (·.reqs)
  let inside := all.filter fun r =>
    let a := nearPt w.1 (r.sigma.toNat * sliceNs)
    decide (w.1 ≤ a ∧ a < w.2)
  inside.foldl (fun l r => m.reqInsert w.1 r l) []

/-- The grants of a window: each request unless it conflicts, and none of a field after its first denial. -/
def Mach.windowGrants (m : Mach) (near : Int) (l : List RingReq) : List RingGrant :=
  (l.foldl (fun (s : List RingGrant × List (BitVec 7)) r =>
    let c := ringClaim near (reqGrant m.mt r)
    let clash := (m.rng.hist ++ s.1).any fun g => g.g != r.gfield.toNat && m.conflict c (ringClaim near g)
    if s.2.contains r.gfield then s
    else if clash then (s.1, r.gfield :: s.2)
    else (s.1 ++ [reqGrant m.mt r], s.2)) ([], [])).1

/-- Grants that can still conflict. -/
def Mach.histKeep (m : Mach) : List RingGrant :=
  let now := m.ptOf m.mt
  m.rng.hist.filter fun g => decide (now ≤ (ringClaim now g).e + m.tail + 2 * m.rd R.TRL_GUARD + 40000)

/-- The module abstains from a window (R261). -/
def Mach.abstain (m : Mach) (w : Int × Int) : Mach :=
  let til := w.2 + m.tail + 2 * m.rd R.TRL_GUARD
  (({ m with rng := { m.rng with abstainTil := some (unsigned 32 til) } }).inc R.TRL_ABSTAIN).raiseOnce 154 0 0
    (m.rd R.TRL_ABSTAIN + 1)

/-- The window of a cycle is decided (R260 to R262). -/
def Mach.windowDecide (m : Mach) (cycle : Word) : Mach :=
  let w := m.window cycle.toNat
  let m := { m with rng := { m.rng with hist := m.histKeep } }
  if !m.on R.TRL_CTRL_RINGEN then m
  else if !m.on R.TRL_CTRL_PTVALID || m.rmask.any fun id => !m.hasFrame cycle id then m.abstain w
  else
    let free : Bool := match m.rng.abstainTil with
      | none => true
      | some t => decide (nearPt w.1 t ≤ w.1)
    let m := if free then { m with rng := { m.rng with abstainTil := none } } else m
    let l := m.windowReqs cycle free
    { m with rng := { m.rng with hist := m.rng.hist ++ m.windowGrants w.1 l } }

/-! ## Ring signals (R426) -/

/-- The records held of a cycle, in rising MODID. -/
def Mach.recsOf (m : Mach) (cycle : Word) : List (Nat × SigRec) :=
  (List.range 8).flatMap fun id => m.rng.sigRecs.filter fun r => r.1 == id && r.2.cycle == cycle

/-- A cycle's records are applied. -/
def Mach.applyCycle (m : Mach) (cycle : Word) : Mach :=
  let sig : BitVec 128 := (m.recsOf cycle).foldl (fun (s : BitVec 128) (r : Nat × SigRec) =>
    (s ||| (r.2.setm.setWidth 128 <<< 64)) &&& ~~~(r.2.clrm.setWidth 128 <<< 64)) m.signals
  { m with
    signals := sig
    rng := { m.rng with sigRecs := m.rng.sigRecs.filter fun r => r.2.cycle != cycle
                        applied := (cycle :: m.rng.applied).take 16 } }

/-- Cycles from one to another along the grid, as a signed difference of PT. -/
def cycleAge (l c : Word) : Int := (l - c).toInt

/-- The cycles held, oldest first. -/
def Mach.heldCycles (m : Mach) (l : Word) : List Word :=
  let cs := (m.rng.sigRecs.map (·.2.cycle)).eraseDups.filter fun c => decide (0 ≤ cycleAge l c)
  cs.foldl (fun r c => (r.takeWhile fun d => decide (cycleAge l c < cycleAge l d)) ++ c ::
    (r.dropWhile fun d => decide (cycleAge l c < cycleAge l d))) []

/-- Complete cycles are applied, and the one three cycles back with what is held. -/
def Mach.applySignals (m : Mach) (l : Word) : Mach :=
  (m.heldCycles l).foldl (fun (m : Mach) c =>
    let whole := m.rmask.all fun id => (m.recsOf c).any fun r => r.1 == id
    if whole then m.applyCycle c
    else if cycleAge l (BitVec.ofNat 32 (m.cycleBack l.toNat 3)) ≤ cycleAge l c then
      (m.applyCycle c).incRaise R.RNG_SIGLOST 26 0 0
    else m) m

/-- The decision instant of a cycle. -/
def Mach.ringDecision (m : Mach) (cycle : Word) : Mach :=
  if m.mt < m.decideAt cycle.toNat ∨ !m.on R.RNG_CTRL_CYCEN ∨ m.ringMode = 0 ∨ m.rng.decided.contains cycle ∨
      cycle.toNat % m.cycNs ≠ 0 then m
  else
    let m := { m with rng := { m.rng with decided := (cycle :: m.rng.decided).take 16 } }
    let m := m.countMissing cycle
    let m := (m.pathLoss cycle 0).pathLoss cycle 1
    (m.windowDecide cycle).applySignals cycle

/-! ## Registers (R422) -/

/-- A write of RNG_CYC: PER only while CYCEN is 0 and within 50 to 1,000. -/
def Mach.cycWrite (m : Mach) (v : Word) : Mach :=
  let p := bits v.toNat 9 0
  let m := m.wr R.RNG_CYC_ETYPE (bits v.toNat 31 16)
  if p = m.rd R.RNG_CYC_PER then m
  else if m.on R.RNG_CTRL_CYCEN ∨ p < 50 ∨ 1000 < p then m.wr R.RNG_CTRL_CFGERR 1
  else m.wr R.RNG_CYC_PER p

end Sys2Proof.Machine
end

