-- ==== Sys2Proof/Machine/Tim.lean ====
section
/-! DEFINITION. The time bases: trim and compensation, PT, OT, the deadline watch, lock (02). -/
namespace Sys2Proof.Machine

def Mach.setTim (m : Mach) (t : Tim) : Mach := { m with tim := t }

/-- MT runs and stands at a management tick boundary (R7). -/
def Mach.atTick (m : Mach) : Bool := m.tim.mtRun && m.mt % mgmtTick == 0

/-! ## Compensation and trim (R40 to R46) -/

/-- Point k of the compensation table. -/
def Mach.compPoint (m : Mach) (k : Nat) : Int := m.rdS (R.TIM_COMP k)

/-- The table's value for a reading in 1/16 °C (R44). -/
def Mach.compValue (m : Mach) (t : Int) : Int :=
  if t < -160 then m.compPoint 0
  else if 1856 ≤ t then m.compPoint 63
  else
    let k := ((t + 160) / 32).toNat
    m.compPoint k + (m.compPoint (k + 1) - m.compPoint k) * (t + 160 - 32 * k) / 32

/-- The term moves towards the table's value by at most 2^20 (R44). -/
def slewTerm (old want : Int) : Int := old + clampI (-1048576) 1048576 (want - old)

/-- THM supplies no value for board sensor 0 (R45). -/
def Mach.compBlind (m : Mach) : Bool := m.on (R.THM_S_NOSUB 80)

/-- The compensation term after a management tick (R44 to R46). -/
def Mach.compTerm (m : Mach) : Int :=
  if !m.on R.TIM_COMP_CTRL then 0
  else if m.compBlind then m.tim.term
  else slewTerm m.tim.term (m.compValue (m.rdS (R.THM_S_TEMP 80)))

/-- A 40-bit register pair as a two's complement number. -/
def Mach.pair40 (m : Mach) (lo hi : RF) : Int := signed 40 (m.rd lo + m.rd hi * 2 ^ 32)

/-- The compensation update of a management tick, with the trim written since (R40, R41, R44). -/
def Mach.oscUpdate (m : Mach) : Mach :=
  if !m.atTick then m
  else
    let trim := m.pair40 R.TIM_MT_TRIM_LO R.TIM_MT_TRIM_HI
    let term := m.compTerm
    let eff := clampI (-268435456) 268435456 (trim + term)
    let blind := m.compBlind
    let fresh := blind && !m.on R.TIM_STATUS_COMPHOLD
    let t := if blind then m.rd R.TIM_COMP_TEMP else m.rd (R.THM_S_TEMP 80)
    let m := (m.setTim { m.tim with trim := trim, term := term, eff := eff }).wrs
      [(R.TIM_MT_TRIM_EFF_LO, unsigned 40 eff), (R.TIM_MT_TRIM_EFF_HI, unsigned 40 eff / 2 ^ 32),
       (R.TIM_COMP_TERM, unsigned 32 term), (R.TIM_COMP_TEMP, t), (R.TIM_STATUS_COMPHOLD, bool01 blind),
       (R.TIM_STATUS_TRIMCLAMP, if eff = trim + term then m.rd R.TIM_STATUS_TRIMCLAMP else 1)]
    if fresh then m.raise 19 0 0 0 else m

/-! ## PT (R47 to R51) -/

/-- Bounds of TIM_PT_INC, 2^−32 ns: 1.248 75 and 1.251 25 ns (R49). -/
def incMin : Nat := 5363340411

def incMax : Nat := 5374077829

/-- The increment that the registers hold. -/
def Mach.ptIncReg (m : Mach) : Nat := m.rd R.TIM_PT_INC_LO + m.rd R.TIM_PT_INC_HI * 2 ^ 32

/-- The increment taken before, as it was committed (R8). -/
def Mach.ptIncTaken (m : Mach) : Nat := m.rdf R.TIM_PT_INC_LO + m.rdf R.TIM_PT_INC_HI * 2 ^ 32

/-- A committed increment takes effect (R49). -/
def Mach.takeInc (m : Mach) : Mach :=
  let v := m.ptIncReg
  if v = m.ptIncTaken ∧ !m.tim.incNew then m
  else
    { m with
      tim := { m.tim with ptInc := clampN incMin incMax v, incNew := false }
      force := rwrs m.force [(R.TIM_PT_INC_LO, v), (R.TIM_PT_INC_HI, v / 2 ^ 32)]
      regs := if clampN incMin incMax v = v then m.regs else rwr m.regs R.TIM_STATUS_INCCLAMP 1 }

/-- PT is captured at a management tick boundary (R47). -/
def Mach.mtkCapture (m : Mach) : Mach :=
  if !m.atTick then m
  else
    (m.wrs [(R.TIM_MTK_SEQ, m.mt / mgmtTick), (R.TIM_MTK_PT, m.tim.pt),
      (R.TIM_MTK_EPOCH, m.tim.ptEpoch.toNat)]).takeInc

/-- The word that a read of a block answers: all ones while its domain is closed (R386). -/
def Mach.readOpen (m : Mach) (a : Nat) (v : Word) (f : Mach → Mach) : Mach :=
  if m.open? a then (f m).answer a v else m.answer a 0xFFFFFFFF

/-- A read of TIM_MTK_SEQ (R47). -/
def Mach.mtkSeqRead (m : Mach) : Mach :=
  m.readOpen (R.TIM_MTK_SEQ).a (m.word (R.TIM_MTK_SEQ).a) fun m =>
    m.setTim { m.tim with latchMtkPt := m.word (R.TIM_MTK_PT).a
                          latchMtkEpoch := BitVec.ofNat 16 (m.rd R.TIM_MTK_EPOCH) }

/-- PT's nanosecond count passes from 0xFFFF_FFFF to 0 (R50). -/
def Mach.ptWrap (m : Mach) : Mach :=
  if m.tim.ptAcc < 2 ^ 64 then m
  else (m.setTim { m.tim with ptAcc := m.tim.ptAcc - 2 ^ 64, ptEpoch := m.tim.ptEpoch + 1 }).raise
    16 0 0 (m.tim.ptEpoch + 1).toNat

/-- PT is carried back across zero by a negative step (R50). -/
def Mach.ptBack (m : Mach) (d : Nat) : Mach :=
  (m.setTim { m.tim with ptAcc := m.tim.ptAcc + 2 ^ 64 - d, ptEpoch := m.tim.ptEpoch - 1 }).raise
    16 1 0 (m.tim.ptEpoch - 1).toNat

/-- The module remembers PT as it stood before the first step of the present cycle. -/
def Tim.noteStep (t : Tim) (now : Nat) : Tim := { t with preStep := some (now, t.stamp now) }

/-- A write to TIM_PT_STEP (R51). -/
def Mach.ptStep (m : Mach) (v : Word) : Mach :=
  let mag := bits v.toNat 29 0
  if m.rd R.TIM_PT_JUMP_LIMIT < mag ∧ bits v.toNat 31 31 = 0 then
    (m.wr R.TIM_STATUS_JUMPREF 1).raise 17 0 0 0
  else
    let d := mag * 2 ^ 32
    let m := m.setTim (m.tim.noteStep m.now)
    if bits v.toNat 30 30 = 0 then (m.setTim { m.tim with ptAcc := m.tim.ptAcc + d }).ptWrap
    else if d ≤ m.tim.ptAcc then m.setTim { m.tim with ptAcc := m.tim.ptAcc - d }
    else m.ptBack d

/-- A read of TIM_PT latches TIM_PT_EPOCH (R50). -/
def Mach.ptRead (m : Mach) : Mach :=
  m.readOpen (R.TIM_PT).a (BitVec.ofNat 32 m.tim.pt) fun m =>
    m.setTim { m.tim with latchEpoch := m.tim.ptEpoch }

/-! ## OT (R52, R53) -/

/-- A read of TIM_OT_SEC latches TIM_OT_FRAC (R64). -/
def Mach.otRead (m : Mach) : Mach :=
  m.readOpen (R.TIM_OT_SEC).a (BitVec.ofNat 32 m.tim.otSec) fun m =>
    m.setTim { m.tim with latchOt := BitVec.ofNat 32 m.tim.otFrac }

/-- OT in units of 1/65,536 s, as a save holds it. -/
def Tim.otUnits (t : Tim) : Nat := t.otSec * 65536 + t.otFrac

/-- Reference cycles of an OT in units of 1/65,536 s. -/
def otCycles (u : Nat) : Nat := (u * 800000000 + 65535) / 65536

/-- The CRC-32C of a slot: over OT in six bytes and the power-cycle count in three (DESIGN CHOICE, log
entry 110). -/
def slotCrc (v : Nat × Nat) : Nat := crc32c (leBytes 6 v.1 ++ leBytes 3 v.2)

/-- OT and the power-cycle count are saved with their CRC to the slot whose turn it is (R52). -/
def Tim.save (t : Tim) : Tim :=
  let v := (t.otUnits, t.pcc.toNat)
  { t with slot0 := if t.nextSlot then t.slot0 else v
           slot1 := if t.nextSlot then v else t.slot1
           crc0 := if t.nextSlot then t.crc0 else slotCrc v
           crc1 := if t.nextSlot then slotCrc v else t.crc1
           nextSlot := !t.nextSlot, otSaved := t.ot }

/-- OT_SAVE: every 60 s of OT, and after feed loss (R52). -/
def Mach.otSave (m : Mach) : Mach :=
  if m.env.holdup ∨ m.tim.otSaved + 60 * 800000000 ≤ m.tim.ot then m.setTim m.tim.save else m

/-- The newer of two saved values: the greater power-cycle count, and then the greater OT (DESIGN CHOICE,
log entry 108). -/
def newerSlot (a b : Nat × Nat) : Nat × Nat :=
  if b.2 < a.2 ∨ (b.2 = a.2 ∧ b.1 ≤ a.1) then a else b

/-- Where OT was restored from: 0 newer slot, 1 older slot, 2 factory record (R53, R514). -/
def Tim.otSource (t : Tim) (v : OtSlots) : Nat :=
  if v.slot0 ∧ v.slot1 then 0
  else if v.slot0 then (if newerSlot t.slot0 t.slot1 = t.slot0 then 0 else 1)
  else if v.slot1 then (if newerSlot t.slot1 t.slot0 = t.slot1 then 0 else 1)
  else 2

/-- The value restored at power-up. -/
def Tim.otValue (t : Tim) (v : OtSlots) : Nat × Nat :=
  if v.slot0 ∧ v.slot1 then newerSlot t.slot0 t.slot1
  else if v.slot0 then t.slot0 else if v.slot1 then t.slot1 else (0, 0)

/-- The slots whose CRC is valid: what MRAM holds of them reads back whole (`v`) and its CRC fits (R53). -/
def Tim.validSlots (t : Tim) (v : OtSlots) : OtSlots :=
  { slot0 := v.slot0 && t.crc0 == slotCrc t.slot0, slot1 := v.slot1 && t.crc1 == slotCrc t.slot1 }

/-- OT after power-up: restored, the power-cycle count incremented, and saved (R53).  `t` is TIM
before the loss of power; TIM_OT_FRAC shows the restored fraction until a read latches another (R64). -/
def Tim.restoreOt (t : Tim) (v : OtSlots) : Tim :=
  let v := t.validSlots v
  let r := t.otValue v
  Tim.save { Tim.reset with ot := otCycles r.1, pcc := BitVec.ofNat 24 (r.2 + 1), slot0 := t.slot0
                            slot1 := t.slot1, crc0 := t.crc0, crc1 := t.crc1, nextSlot := t.nextSlot
                            otSrc := t.otSource v, latchOt := BitVec.ofNat 32 (r.1 % 65536) }

/-! ## Deadline watch (R62) -/

/-- The worst slack of all cores: slack, miss on any core, lowest core. -/
def worstOf (l : List (Nat × Bool)) : Nat × Bool × Nat :=
  (indexed l).foldl (fun (w : Nat × Bool × Nat) (p : Nat × (Nat × Bool)) =>
    (min w.1 p.2.1, w.2.1 || p.2.2, if p.2.1 < w.1 then p.1 else w.2.2)) (1023, false, 0)

/-- The watch's values of the ending management tick are shown, and a new measurement starts. -/
def Mach.dlwRollover (m : Mach) : Mach :=
  if !m.atTick then m
  else
    let w := worstOf m.tim.worst
    let m := (indexed m.tim.worst).foldl (fun (m : Mach) (p : Nat × (Nat × Bool)) =>
      m.wrs [(R.TIM_DLW_CORE_SLACK p.1, p.2.1), (R.TIM_DLW_CORE_MISS p.1, bool01 p.2.2)]) m
    (m.setTim { m.tim with worst := List.replicate 8 (1023, false) }).wrs
      [(R.TIM_DLW_WORST_SLACK, w.1), (R.TIM_DLW_WORST_MISS, bool01 w.2.1), (R.TIM_DLW_WORST_CORE, w.2.2)]

/-! ## Lock (R63) -/

/-- A field is in use (R63). -/
def Mach.fieldInUse (m : Mach) (n : Fin 16) : Bool :=
  bits (m.rd R.SAF_FIELDS) n n == 1 || ((List.finRange 8).any fun c => !ctxIdle m.fe[n].ctx[c].st) ||
  ((List.finRange 160).any fun s => m.runs s && m.slotField s == n.val)

/-- The synthesizer loses lock. -/
def Mach.lockLost (m : Mach) : Mach :=
  if !m.on R.TIM_STATUS_LOCK then m
  else
    let m := (m.wrs [(R.TIM_STATUS_LOCK, 0), (R.TIM_STATUS_LOCKLOST, 1)]).raise 18 0 0 0
    (List.finRange 16).foldl (fun (m : Mach) (n : Fin 16) =>
      if m.fieldInUse n then m.fieldFault n cLocklost false true else m) m

/-- The synthesizer regains lock. -/
def Mach.lockBack (m : Mach) : Mach := if m.tim.mtRun then m.wr R.TIM_STATUS_LOCK 1 else m

/-! ## The slack governor (R22, R24) -/

/-- Lower bound of VCORE, mV. -/
def Mach.vcoreFloor (m : Mach) : Nat := if m.mode = modeArmed then 720 else 650

/-- Ticks above 40 % before the next lowering. -/
def govTicks : Nat := 16

/-- The governor at a management tick. -/
def Mach.governVcore (m : Mach) : Mach :=
  let w := m.rd R.TIM_DLW_WORST_SLACK
  let v := m.rd R.PWR_VCORE_SET
  let n := if w < 410 then 0 else min govTicks (m.env.govCount + 1)
  let low := decide (n = govTicks ∧ m.vcoreFloor < v)
  let v' := if w ≤ 204 then min 850 (v + 10) else if low then max m.vcoreFloor (v - 5) else v
  { (m.setVcore v') with env := { (m.setVcore v').env with govCount := if low then 0 else n } }

/-- Source 5, once per occurrence (R24). -/
def Mach.slackWarn (m : Mach) : Mach :=
  let occ := decide (m.rd R.TIM_DLW_WORST_SLACK ≤ 204 ∧ m.rd R.PWR_VCORE_SET = 850)
  let was := m.env.slackOcc
  let m := { m with env := { m.env with slackOcc := occ } }
  if occ && !was then m.raise 5 0 0 0 else m

/-- SLACK_GOVERNOR_TICK (R22, R24). -/
def Mach.slackTick (m : Mach) : Mach :=
  if m.atTick ∧ m.saf.msRun ∧ m.pstate ≤ 2 then m.slackWarn.governVcore else m

end Sys2Proof.Machine
end

