-- ==== Sys2Proof/Machine/Book.lean ====
section
/-! DEFINITION. The cellar book: placement, writing and reading of records, summaries (17). -/
namespace Sys2Proof.Machine

def Mach.setCbk (m : Mach) (c : Cbk) : Mach := { m with cbk := c }

/-- Slots of the book (R493). -/
def bookSlots : Nat := 131072

/-! ## The bytes of a slot (R493) -/

/-- Bytes 0 to 59 of a record. -/
def Rec.head (r : Rec) (seq : Nat) : List Byte :=
  leBytes 6 seq ++ leBytes 4 r.otsec.toNat ++ leBytes 2 r.otfrac.toNat ++ leBytes 3 r.pcc.toNat ++
  leBytes 1 r.sev ++ leBytes 1 r.src ++ leBytes 1 (bool01 r.sum + 2 * bool01 r.boot) ++
  leBytes 2 r.code.toNat ++ leBytes 8 r.mt ++ r.payload.take 32 ++ List.replicate (32 - r.payload.length) 0

/-- The 64 bytes of a record. -/
def Rec.bytes64 (r : Rec) (seq : Nat) : List Byte := r.head seq ++ leBytes 4 (crc32c (r.head seq))

/-- A word of the read window: slot k / 64, zero where the slot is empty (R504, R505). -/
def Mach.bookWord (m : Mach) (k : Nat) : Word :=
  match m.cbk.book.lookup (k / 64) with
  | some p => BitVec.ofNat 32 (ofLe ((p.2.bytes64 p.1).drop (k % 64) |>.take 4))
  | none => if m.cbk.torn.contains (k / 64) then Config.tornWord k else 0

/-! ## Placement (R502) -/

/-- The slot holds a valid record or is retired. -/
def Cbk.used (c : Cbk) (s : Nat) : Bool := (c.book.lookup s).isSome || c.bad.contains s

/-- The lowest-numbered empty or torn slot: slot 0 or the one after a used slot. -/
def Cbk.firstFree (c : Cbk) : Option Nat :=
  ((0 :: (c.book.map (·.1 + 1) ++ c.bad.map (· + 1))).filter fun s => decide (s < bookSlots) && !c.used s).min?

/-- The slot of the record of lowest SEQ among those of severity at most `v`. -/
def Cbk.oldest (c : Cbk) (v : Nat) : Option Nat :=
  (c.book.foldl (fun (o : Option (Nat × Nat)) (p : Nat × (Nat × Rec)) =>
    if v < p.2.2.sev then o
    else match o with
      | none => some (p.2.1, p.1)
      | some q => if p.2.1 < q.1 then some (p.2.1, p.1) else o) none).map (·.2)

/-- The slot that a record of a severity takes (R502). -/
def Cbk.place (c : Cbk) (sev : Nat) : Option Nat :=
  match c.firstFree with
  | some s => some s
  | none => c.oldest sev

/-! ## Writing (R499, R503) -/

/-- SEQ of the next record (R496). -/
def Mach.nextSeq (m : Mach) : Nat := m.rd R.CBK_NEXTSEQ_LO + m.rd R.CBK_NEXTSEQ_HI * 2 ^ 32

/-- The registers that show the book (R517). -/
def Mach.bookRegs (m : Mach) : Mach :=
  let c := m.cbk
  (List.range 7).foldl (fun (m : Mach) v =>
    m.wrs [(R.CBK_OLDEST_SLOT v, (c.oldest v).getD 0), (R.CBK_OLDEST_NONE v, bool01 (c.oldest v).isNone)])
    (m.wrs [(R.CBK_COUNT, c.book.length),
      (R.CBK_STATUS_FULL, if c.firstFree.isNone then 1 else m.rd R.CBK_STATUS_FULL)])

/-- A record stands in a slot; the CODE 0 boot report gives GLB_BOOTSEQ (R514). -/
def Mach.putRecord (m : Mach) (s : Nat) (r : Rec) (rest : List Rec) : Mach :=
  let q := m.nextSeq
  let m := m.setCbk { m.cbk with queue := rest, book := sput m.cbk.book s (q, r)
                                 torn := m.cbk.torn.filter (· ≠ s) }
  let m := m.wrs [(R.CBK_NEXTSEQ_LO, q + 1), (R.CBK_NEXTSEQ_HI, (q + 1) / 2 ^ 32), (R.CBK_LASTSLOT, s)]
  let m := if r.boot ∧ r.code = 0 then m.wrs [(R.GLB_BOOTSEQ_LO, q), (R.GLB_BOOTSEQ_HI, q / 2 ^ 32)] else m
  m.bookRegs

/-- Both read-backs fail: the slot is retired, and the record waits for the next slot (R503). -/
def Mach.retireSlot (m : Mach) (s : Nat) : Mach :=
  let m := m.setCbk { m.cbk with book := serase m.cbk.book s, bad := m.cbk.bad ++ [s]
                                 torn := m.cbk.torn.filter (· ≠ s) }
  m.bookRegs.incRaise R.CBK_BADSLOT 171 1 s

/-- No slot will take the record: it is dropped (R502). -/
def Mach.dropRecord (m : Mach) (rest : List Rec) : Mach :=
  (m.setCbk { m.cbk with queue := rest }).incRaiseOnce R.CBK_DROPPED 170 0 0

/-- MS writes the first record of the queue (R499 to R503). -/
def Mach.writeRecord (m : Mach) (rb1 rb2 : Bool) : Mach :=
  match m.cbk.queue with
  | [] => m
  | r :: rest =>
    match m.cbk.place r.sev with
    | none => m.dropRecord rest
    | some s => if rb1 || rb2 then m.putRecord s r rest else m.retireSlot s

/-- RECORD_WRITE: only while MS runs. -/
def Mach.recordWrite (m : Mach) (rb1 rb2 : Bool) : Mach := if m.saf.msRun then m.writeRecord rb1 rb2 else m

/-- `n` records are written, every read-back good (R501). -/
def Mach.writeRecords (m : Mach) : Nat → Mach
  | 0 => m
  | n + 1 => (m.writeRecord true true).writeRecords n

/-! ## Summaries (R500) -/

/-- Queue level at which summaries are entered. -/
def summaryLevel : Nat := 256

/-- PAYLOAD of a summary record. -/
def lostPayload (l : Lost) (angel : Nat) : List Byte :=
  leBytes 4 l.n ++ leBytes 8 l.first ++ leBytes 8 l.last ++ leBytes 4 angel ++ List.replicate 8 0

/-- The summary record of a source. -/
def Mach.summaryRec (m : Mach) (src : Nat) (l : Lost) : Rec :=
  { m.mkRec 169 src (lostPayload l (m.rd (R.CBK_ANGEL src))) with sum := true, sev := l.sev }

/-- The highest queue level is kept (R517). -/
def Mach.noteLevel (m : Mach) : Mach :=
  if m.rd R.CBK_QLEVEL_QMAX < m.cbk.queue.length then m.wr R.CBK_QLEVEL_QMAX m.cbk.queue.length else m

/-- SUMMARY_ENTRY: one summary for each source with losses, in rising number. -/
def Mach.summaryEntry (m : Mach) : Mach :=
  if !m.cbk.owed ∨ summaryLevel < m.cbk.queue.length then m
  else
    (m.setCbk { m.cbk with
      queue := m.cbk.queue ++ m.cbk.lost.map fun p => m.summaryRec p.1 p.2
      lost := [], owed := false }).noteLevel

/-! ## Boot scan and report (R512, R514) -/

/-- Highest SEQ of a valid record. -/
def Cbk.maxSeq (c : Cbk) : Nat := c.book.foldl (fun n p => max n p.2.1) 0

/-- CBK scans every slot (R504, R512). -/
def Mach.bookScan (m : Mach) : Mach :=
  let q := m.cbk.maxSeq + 1
  let n := m.cbk.torn.length
  let m := m.bookRegs.wrs [(R.CBK_TORN, n), (R.CBK_STATUS_READY, 1), (R.CBK_NEXTSEQ_LO, q),
    (R.CBK_NEXTSEQ_HI, q / 2 ^ 32)]
  if n = 0 then m else m.raise 171 0 0 n

/-- A record of the boot report: SRC 168, BOOT = 1, a payload, and the severity of the whole set. -/
def Mach.reportRec (m : Mach) (bad : Bool) (code : Nat) (p : List Byte) : Mach :=
  let po := pend m.regs m.out m.fnMask 168
  let r : Rec := { m.mkRec 168 code (p ++ List.replicate (32 - p.length) 0) with
                   boot := true, sev := if bad then 4 else 2 }
  { m with regs := enqueueRegs m.cbk po.1 168, out := po.2, cbk := enqueue m.cbk r }

end Sys2Proof.Machine
end

