-- ==== Sys2Proof/Machine/Reset.lean ====
section
/-! DEFINITION. Resets, what they keep, and boot (17, 16). -/
namespace Sys2Proof.Machine

/-! ## Retention (R510) -/

/-- The whole word. -/
def allBits : Nat := 0xFFFFFFFF

/-- Reset kinds (R507); 6 stands for STANDBY here and for the wake in GLB_RSTCAUSE. -/
def kPower : Nat := 0
def kResetL : Nat := 1
def kHost : Nat := 2
def kPcie : Nat := 3
def kMs : Nat := 4
def kRail : Nat := 5
def kStandby : Nat := 6

/-- Bits of CBK's registers that lie in the always-on domain and in MRAM (R517). -/
def keptCbk (a : Nat) : Nat :=
  if a = 0x50000 then 2
  else if (0x50004 ≤ a ∧ a ≤ 0x50010) ∨ a = 0x50018 ∨ a = 0x50020 ∨ (0x50040 ≤ a ∧ a < 0x5005C) ∨
    (0x52000 ≤ a ∧ a < 0x52300) then allBits else 0

/-- Bits of AFE's registers: the slice map and the FAILED marks, and at a PCIe hot reset the
calibration values (R462, R464). -/
def keptAfe (kind a : Nat) : Nat :=
  if 0x60100 ≤ a ∧ a < 0x60300 then allBits
  else if 0x61000 ≤ a ∧ a % 16 = 8 then (if kind = kPcie then 15 else 12)
  else if kind = kPcie ∧ 0x61000 ≤ a then allBits else 0

/-- Bits of registers that show a level of a pin or of a feed, which no reset but power-on changes. -/
def keptLevels (a : Nat) : Nat :=
  if a = 0x10000 then 7
  else if a = 0x10004 ∨ a = 0x10008 then allBits
  else if a = 0x40004 then 3
  else if a = R.CMP_DP_STATUS_HPD.a then 2 ^ R.CMP_DP_STATUS_HPD.lsb
  else if 0x800000 ≤ a ∧ a < 0xC00000 ∧ a % 0x40000 = 0x4040 then 12 else 0

/-- Bits kept in STANDBY alone: PWR, RNG, the mode, the last reset, TRIPLATCH (R449, R455, R510). -/
def keptStandby (a : Nat) : Nat :=
  if (0x10000 ≤ a ∧ a < 0x20000) ∨ (0x1500000 ≤ a ∧ a < 0x1600000) then allBits
  else if a = 0x10 then 7
  else if a = 0x28 then 15
  else if a = 0x20004 then 2 else 0

/-- The bits of a register that a reset of a kind keeps. -/
def keptMask (kind a : Nat) : Nat :=
  let lv := if kind = kPower then 0 else keptLevels a
  if 0x50000 ≤ a ∧ a < 0x60000 then keptCbk a
  else if 0x60000 ≤ a ∧ a < 0x70000 then keptAfe kind a
  else if a = 0x201000 ∨ a = 0x202000 then allBits
  else if a = 0x200074 then 1
  else if a = 0x100000 then (if kind = kPcie ∨ kind = kMs ∨ kind = kStandby then 1 else 0)
  else if kind = kStandby then lv ||| keptStandby a else lv

/-- UNLOCKED of each block stays through a change of power state (R33; log entry 111). -/
def keptUnlock (kind a : Nat) : Nat := if kind = kStandby ∧ a - blockBase a = 0xF4 then 1 else 0

/-- The word of a register after a reset. -/
def keptWord (kind a : Nat) (w : Word) : Word :=
  let k := BitVec.ofNat 32 (keptMask kind a ||| keptUnlock kind a)
  (w &&& k) ||| (resetWord a &&& ~~~ k)

/-- The register store after a reset. -/
def keepRegs (kind : Nat) (g : Sparse Word) : Sparse Word :=
  g.filterMap fun p => if keptWord kind p.1 p.2 = resetWord p.1 then none else some (p.1, keptWord kind p.1 p.2)

/-- OT and its saves through a reset (R510). -/
def Tim.kept (t : Tim) : Tim :=
  { Tim.reset with ot := t.ot, otSaved := t.otSaved, pcc := t.pcc, slot0 := t.slot0, slot1 := t.slot1
                   crc0 := t.crc0, crc1 := t.crc1, nextSlot := t.nextSlot, latchOt := BitVec.ofNat 32 t.otFrac }

/-- The book, and except at power-on the ingress queue with its losses (R510). -/
def Cbk.kept (c : Cbk) (kind : Nat) : Cbk :=
  if kind = kPower then { c with queue := [], lost := [], owed := false } else c

/-- DRAM through a reset: zeroed, but kept at a PCIe hot reset (R511); the stored map stays (R355). -/
def Mem.kept (x : Mem) (kind : Nat) : Mem :=
  { Mem.reset with out := x.out, bytes := if kind = kPcie then x.bytes else []
                   poison := if kind = kPcie then x.poison else [] }

/-- A field: the levels of its laser's inputs. -/
def Field.kept (f : Field) : Field :=
  { Field.reset with lch := { Lch.reset with rdy := f.lch.rdy, alm := f.lch.alm } }

/-- The module after a reset that reaches everything but the always-on domain, except for `tim`.
Every output stands in fail-safe, the galvos in doubt (R508). -/
def Mach.resetCore (m : Mach) (kind : Nat) : Mach :=
  let g := rwr (keepRegs kind m.regs) R.GLB_RSTCAUSE_KIND kind
  { Mach.reset with
    now := m.now, regs := g, regs0 := g, tim := m.tim.kept
    saf := { Saf.reset with ilkA := m.saf.ilkA, ilkB := m.saf.ilkB, hbAt := m.now }
    cbk := m.cbk.kept kind
    env := { Env.reset with holdup := m.env.holdup, switchAt := m.env.switchAt }
    mem := m.mem.kept kind, fe := m.fe.map Field.kept
    rng := { Rng.reset with wdAt := m.now, supAt := m.now }
    enc := m.enc, free := m.free, rdata := m.rdata, out := m.out }

/-- A reset of KIND 1 to 5. -/
def Mach.resetAs (m : Mach) (kind : Nat) : Mach := m.resetCore kind

/-- The always-on domain powers up (R507, R53). -/
def Mach.powerOn (m : Mach) (v : OtSlots) : Mach :=
  let z := m.resetCore kPower
  { z with now := 0, tim := m.tim.restoreOt v, saf := Saf.reset, enc := Mach.reset.enc, fe := Mach.reset.fe
           rng := Rng.reset, env := Env.reset
           regs := if m.tim.otSource (m.tim.validSlots v) = 1 then rwr z.regs R.TIM_STATUS_OTOLD 1 else z.regs }

/-- The power stage has removed every rail: what is not in MRAM is lost (R441). -/
def Mach.powerOff (m : Mach) : Mach :=
  { m.resetCore kPower with saf := Saf.reset, fe := Mach.reset.fe, env := { Env.reset with powered := false }
                            tim := { m.tim.kept with ot := m.tim.ot } }

/-- Ticks for which RESET_L must stay low: 10 µs (R534). -/
def resetLowTicks : Nat := 8000

/-- RESET_L has been low for `low` ticks. -/
def Mach.resetL (m : Mach) (low : Nat) : Mach := if low < resetLowTicks then m else m.resetAs kResetL

/-- A write of GLB_RESET (R507). -/
def Mach.hostReset (m : Mach) (v : Word) : Mach := if v = 0x1D57B007 then m.resetAs kHost else m

/-- A hot reset, or PERST_L asserted (R404). -/
def Mach.hotReset (m : Mach) : Mach := if m.on R.HS_CTRL then m.linkDown else m.resetAs kPcie

/-! ## Field reset (R509) -/

/-- The misses of a field's slots that raised LOOPMISS are done with. -/
def Mach.missesDone (m : Mach) (n : Fin 16) : Mach :=
  { m with slot := Vector.ofFn fun (s : Fin 160) =>
      if m.slotField s = n.val then { m.slot[s] with missed := false } else m.slot[s] }

/-- The field leaves fail-safe; FTIME takes the time spent there (R471). -/
def Mach.leaveFs (m : Mach) (n : Fin 16) : Mach :=
  if !m.inFs n then m
  else
    let t := m.rd (R.SAF_FS_FTIME_LO n) + m.rd (R.SAF_FS_FTIME_HI n) * 2 ^ 32 + (m.mt - m.fe[n].fs.ftFrom)
    (((m.missesDone n).setField n { m.fe[n] with fs := FsRec.reset }).wr64 (R.SAF_FS_FTIME_LO n) (R.SAF_FS_FTIME_HI n) t).wrs
      [(R.SAF_FS_STATUS_FS n, 0), (R.SAF_FS_STATUS_CAUSE n, 0), (R.SAF_FS_STATUS_RECOV n, 0),
       (R.SAF_FS_STATUS_WINEXP n, 0)]

/-- Registers of FEn below 0x2000, or the latches of their NAME_HI (R5), return to their reset values. -/
def dropFeRegs (n : Nat) (g : Sparse Word) : Sparse Word :=
  g.filter fun p => !decide (0x800000 + n * 0x40000 ≤ p.1 ∧ p.1 < 0x800000 + n * 0x40000 + 0x2000)

/-- A field after its reset: contexts, plan and checkpoints are empty, the spot stays. -/
def Field.afterReset (f : Field) (t : Nat) : Field :=
  { Field.reset with
    spotX := f.spotX, spotY := f.spotY, spotZ := f.spotZ, past := f.past, ramp := f.ramp
    planFrom := f.planFrom, restX := f.restX, restY := f.restY, restZ := f.restZ
    lastProf := f.lastProf, lastMat := f.lastMat, lch := f.lch, spl := f.spl, trail := f.trail
    cor := f.cor, corPrev := f.corPrev, corSince := f.corSince
    summ := ((f.squash.republish t).release t).summ, ver := ((f.squash.republish t).release t).ver
    resv := ((f.squash.republish t).release t).resv }

/-- The correction of a field is lost with its local store. -/
def Mach.corLost (m : Mach) (n : Fin 16) : Mach :=
  (m.modField n fun f =>
    { f with cor := none, corPrev := f.cor, corSince := m.mt }).wr (R.FE_COR_STATUS_VALID n) 0

/-- The correction of a field is lost with its local store, and is loaded again (R154, R509, R510). -/
def Mach.corReload (m : Mach) (n : Fin 16) : Mach :=
  (m.corLost n).corTake n

/-- An accepted field reset.  A first unlock word pending in FEn survives it (DESIGN CHOICE, log entry 104). -/
def Mach.fieldResetNow (m : Mach) (n : Fin 16) : Mach :=
  let m := (List.finRange 8).foldl (fun (m : Mach) (c : Fin 8) => m.dropTokens (.fe n c)) m
  let m := m.leaveFs n
  let m := { m.setField n (m.fe[n].afterReset m.mt) with
    regs := dropFeRegs n m.regs, force := dropFeRegs n m.force, hiLatch := dropFeRegs n m.hiLatch }
  ((m.unstick n).corReload n).raise (80 + n) 0x100 n 0

/-- A write of 0x1D57_F000 + n to GLB_FRESET. -/
def Mach.fieldReset (m : Mach) (n : Fin 16) : Mach :=
  if m.fe[n].busy then m.wr R.GLB_RSTCAUSE_FRERR 1 else m.fieldResetNow n

/-! ## Boot (R512, R513) -/

def Mach.stage_ (m : Mach) : Nat := m.rd R.HS_BOOT_STAGE

/-- Rail bits in the order of R443. -/
def railBit : Rail → Nat
  | .vaon => 0 | .vring => 1 | .vcore => 2 | .vsram => 3 | .vio => 4 | .vddq => 5 | .vpp => 6 | .vafe => 7

/-- The boot fails; a report states the cause where the book can be written: MS runs, and the MRAM answers
(DESIGN CHOICE, log entry 105). -/
def Mach.bootFail (m : Mach) (cause detail : Nat) : Mach :=
  let m := m.wrs [(R.HS_BOOT_STAGE, 15), (R.GLB_STATUS_BOOTERR, 1)]
  if m.saf.msRun ∧ cause ≠ 5 then m.reportRec true 4 [BitVec.ofNat 8 cause, BitVec.ofNat 8 detail] else m

/-- MS runs (stage 1). -/
def Mach.msStart (m : Mach) : Mach :=
  { m with saf := { m.saf with msRun := true, hbAt := m.now }
           rng := { m.rng with wdAt := m.now }
           regs := rwr m.regs R.HS_BOOT_STAGE 1 }.updateSafeOut

/-- The synthesizer has its first lock: MT starts at 0. -/
def Mach.mtStart (m : Mach) : Mach :=
  { m with mt := 0, tim := { m.tim with mtRun := true }, regs := rwr m.regs R.TIM_STATUS_LOCK 1 }

/-- The factory rank map where CLR was written (R355). -/
def Mach.rankMap (m : Mach) : Mach :=
  if m.on R.MEM_RMAP_CLR then
    { (m.wrs [(R.MEM_CH_RMAP_L0 0, 0), (R.MEM_CH_RMAP_L1 0, 1), (R.MEM_CH_RMAP_SPARE 0, 2),
      (R.MEM_CH_RMAP_L0 1, 0), (R.MEM_CH_RMAP_L1 1, 1), (R.MEM_CH_RMAP_SPARE 1, 2),
      (R.MEM_RMAP_CLR, 0)]) with mem := { m.mem with out := [] } }
  else m

/-- A rank of the stored map trained. -/
def trainedOk (bad : List (Fin 2 × Fin 3)) (c r : Nat) : Bool :=
  decide (r < 3) && !(bad.any fun p => p.1.val == c && p.2.val == r)

/-- The map of a channel after training: L0, L1 and the spare, which takes the place of an excluded
rank (R371). -/
def mapAfter (bad : List (Fin 2 × Fin 3)) (c l0 l1 sp : Nat) : Nat × Nat × Nat :=
  let sp := if trainedOk bad c sp then sp else 3
  if trainedOk bad c l0 then
    if trainedOk bad c l1 ∨ l1 = 3 then (l0, l1, sp) else (l0, sp, 3)
  else if l0 = 3 then (if trainedOk bad c l1 ∨ l1 = 3 then (3, l1, sp) else (3, sp, 3))
  else if trainedOk bad c l1 ∨ l1 = 3 then (sp, l1, 3)
  else (sp, 3, 3)

/-- State of a physical rank under a map (R381). -/
def Mach.rankState (m : Mach) (bad : List (Fin 2 × Fin 3)) (c r : Nat) : Nat :=
  if m.mem.out.contains (rankIx c r) then 4
  else if !trainedOk bad c r then 5
  else if m.rd (R.MEM_CH_RMAP_SPARE c) = r then 0 else 1

/-- A channel is trained. -/
def Mach.trainChan (m : Mach) (bad : List (Fin 2 × Fin 3)) (temps : List Int) (c : Nat) : Mach :=
  let w := mapAfter bad c (m.rd (R.MEM_CH_RMAP_L0 c)) (m.rd (R.MEM_CH_RMAP_L1 c)) (m.rd (R.MEM_CH_RMAP_SPARE c))
  let m := m.wrs [(R.MEM_CH_RMAP_L0 c, w.1), (R.MEM_CH_RMAP_L1 c, w.2.1), (R.MEM_CH_RMAP_SPARE c, w.2.2)]
  (List.range 3).foldl (fun (m : Mach) r =>
    let st := m.rankState bad c r
    let m := m.wr (R.MEM_CH_RK_STATE_STATE c r) st
    if st = 5 then m.raise 40 0 (rankIx c r) 0
    else if st = 4 then m
    else m.bootTrained c r (temps.getD (rankIx c r) 0)) m

/-- Ranks in service, and spares, in units of a rank. -/
def Mach.backedRanks (m : Mach) : Nat :=
  ([0, 1].map fun c => [0, 1].countP fun l => m.backing c l ≠ 3).sum

def Mach.spareRanks (m : Mach) : Nat := [0, 1].countP fun c => m.rd (R.MEM_CH_RMAP_SPARE c) ≠ 3

/-- MEM trains every rank (R371); an excluded rank that backed a logical rank stays out (R355). -/
def Mach.memTrain (m : Mach) (bad : List (Fin 2 × Fin 3)) (temps : List Int) : Mach :=
  let m := m.rankMap
  let bad := bad.filter fun p => !m.mem.out.contains (rankIx p.1 p.2)
  let left := (bad.filter fun p => m.rd (R.MEM_CH_RMAP_SPARE p.1) ≠ p.2.val).map fun p => rankIx p.1 p.2
  let m := (m.trainChan bad temps 0).trainChan bad temps 1
  let b := m.backedRanks
  { m.wrs [(R.MEM_CAP_GIB, 8 * b), (R.MEM_CAP_SPARE, 8 * m.spareRanks), (R.MEM_STATUS_CAPRED, bool01 (b != 4))]
    with mem := { m.mem with out := left.foldl addLine m.mem.out
                             temps := (List.range 6).map fun k => temps.getD k 0 } }

/-- Memory is trained (stage 2). -/
def Mach.memReady (m : Mach) : Mach := m.wrs [(R.MEM_STATUS_TRAINED, 1), (R.HS_BOOT_STAGE, 2)]

/-- Factory calibration is loaded, except after a PCIe hot reset (R464, R510). -/
def Mach.afeLoad (m : Mach) : Mach := if m.rd R.GLB_RSTCAUSE_KIND = kPcie then m else m.raise 174 0 0 0

/-- The domains open (stage 3), or one of them does not within 1 s. -/
def Mach.openDomains (m : Mach) (bad : Option (Fin 8)) : Mach :=
  match bad with
  | none => m.wrs [(R.HS_BOOT_DOMOPEN, 255), (R.HS_BOOT_STAGE, 3)]
  | some d => (m.wr R.HS_BOOT_DOMOPEN (255 - 2 ^ d.val)).bootFail 6 d

/-- Stages from training on. -/
def Mach.bootMem (m : Mach) (o : BootOutcome) : Mach :=
  let m := m.memTrain o.untrained o.temps
  if m.backedRanks = 0 then m.bootFail 4 0 else m.memReady.afeLoad.openDomains o.domainBad

/-- Stages from the rail check on. -/
def Mach.bootRails (m : Mach) (o : BootOutcome) : Mach :=
  match o.railBad with
  | some r => m.bootFail 3 (railBit r)
  | none =>
    if !o.synthLocks then m.bootFail 2 0
    else if !o.mramAnswers then m.mtStart.bootFail 5 0
    else m.mtStart.bookScan.bootMem o

/-- A boot can begin: after a reset, or in a wake (R449). -/
def Mach.bootDue (m : Mach) : Bool :=
  m.env.powered && ((m.mode == modeBoot && m.stage_ == 0) || (m.env.waking && decide (m.stage_ ≤ 1)))

/-- BOOT: from the release of a reset, or from a wake, to stage 3 or to a failure. -/
def Mach.boot (m : Mach) (o : BootOutcome) : Mach :=
  if !m.bootDue then m
  else if m.env.waking then m.msStart.bootRails o
  else if !o.fwValid then m.bootFail 1 0
  else m.msStart.bootRails o

/-! ## The boot report (R514) -/

/-- SEV is 4. -/
def Mach.reportBad (m : Mach) : Bool :=
  m.on R.MEM_STATUS_CAPRED || m.on R.HS_LINK_DEGRADED || m.on R.TIM_STATUS_OTOLD || m.tim.otSrc == 2 ||
  m.rd R.CBK_TORN != 0

/-- Mask of the ranks in a state. -/
def Mach.rankMask (m : Mach) (st : Nat) : Nat :=
  (List.range 6).foldl (fun v k => if m.rkState (k / 3) (k % 3) = st then v + 2 ^ k else v) 0

def Mach.report0 (m : Mach) (ms : Nat) : List Byte :=
  let kept := bool01 (m.rd R.GLB_RSTCAUSE_KIND == kPcie)
  leBytes 1 (m.rd R.GLB_RSTCAUSE_KIND) ++ leBytes 1 4 ++ leBytes 1 m.tim.otSrc ++ leBytes 1 (3 * kept) ++
  leBytes 4 m.tim.pcc.toNat ++ leBytes 4 (m.rd R.GLB_FWVER) ++ leBytes 1 (m.rd R.GLB_STEPPING) ++
  List.replicate 3 0 ++ leBytes 4 ms

def Mach.report1 (m : Mach) : List Byte :=
  let ch (c : Nat) : List Byte := leBytes 1 (m.rd (R.MEM_CH_RMAP_L0 c)) ++ leBytes 1 (m.rd (R.MEM_CH_RMAP_L1 c)) ++
    leBytes 1 (m.rd (R.MEM_CH_RMAP_SPARE c)) ++ leBytes 1 (bool01 ([0, 1].any fun l => m.backing c l == 3))
  ch 0 ++ ch 1 ++ leBytes 1 (m.rd R.MEM_CAP_GIB) ++ leBytes 1 (m.rd R.MEM_CAP_SPARE) ++
  leBytes 1 (m.rankMask 5) ++ leBytes 1 (m.rankMask 4) ++
  leBytes 1 (m.mem.out.foldl (fun v k => v ||| 2 ^ k) 0)

def Mach.report2 (m : Mach) : List Byte :=
  leBytes 1 (m.rd R.HS_LINK_SPEED) ++ leBytes 1 (m.rd R.HS_LINK_WIDTH) ++
  leBytes 1 (m.rd R.HS_LINK_UP + 2 * m.rd R.HS_LINK_DEGRADED)

def Mach.report3 (m : Mach) : List Byte :=
  let c := m.cbk
  leBytes 4 c.book.length ++ leBytes 4 (bookSlots - c.book.length - c.torn.length - c.bad.length) ++
  leBytes 4 c.torn.length ++ leBytes 4 c.bad.length ++ leBytes 6 c.maxSeq

/-- The four records of the report, in CODE order. -/
def Mach.bootReport (m : Mach) (ms : Nat) : Mach :=
  let b := m.reportBad
  (((m.reportRec b 0 (m.report0 ms)).reportRec b 1 m.report1).reportRec b 2 m.report2).reportRec b 3 m.report3

/-- The module reaches stage 4, in SAFE; after a wake it is ACTIVE. -/
def Mach.stage4 (m : Mach) : Mach :=
  let m := (m.wr R.HS_BOOT_STAGE 4).setMode modeSafe
  if m.env.waking then
    ({ m with env := { m.env with waking := false } }.setPstate 0).raise 4 0 0 0
  else m

/-- BOOT_COMPLETE, `ms` after the release. -/
def Mach.bootComplete (m : Mach) (ms : Nat) : Mach :=
  if m.stage_ ≠ 3 then m else (m.bootReport ms).stage4.updateSafeOut

end Sys2Proof.Machine
end

