-- ==== Sys2Proof/Machine/Power.lean ====
section
/-! DEFINITION. Feeds, rails, power states, thermal management and calibration (15). -/
namespace Sys2Proof.Machine

def Mach.setEnv (m : Mach) (e : Env) : Mach := { m with env := e }

/-- A fresh free number below a bound (Config.freeWord). -/
def Mach.freeNat (m : Mach) (k : Nat) : Mach × Nat :=
  ({ m with free := m.free + 1 }, (Config.freeWord m.free).toNat % k)

/-! ## Feeds (R436 to R442) -/

/-- Number of a feed. -/
def feedNo : Feed → Nat
  | .a => 0
  | .b => 1

/-- Present bit and measured voltage of a feed. -/
def feedOk (f : Nat) : RF := if f = 0 then R.PWR_FEED_AOK else R.PWR_FEED_BOK

def feedMv (f : Nat) : RF := if f = 0 then R.PWR_VIN_A else R.PWR_VIN_B

/-- The voltage of a feed is measured anew: a free value. -/
def Mach.measureFeed (m : Mach) (f : Nat) : Mach := (m.freeNat 65536).1.wr (feedMv f) (m.freeNat 65536).2

/-- A feed has been at 10.8 V or more for 100 ms (R436); with no feed taken it is taken. -/
def Mach.feedPresent (m : Mach) (f : Feed) : Mach :=
  let k := feedNo f
  if m.on (feedOk k) then m
  else
    let none' := !m.on R.PWR_FEED_AOK && !m.on R.PWR_FEED_BOK
    let m := (m.measureFeed k).wr (feedOk k) 1
    let m := if none' then m.wr R.PWR_FEED_ACT k else m
    (m.setEnv { m.env with holdup := false }).raise 2 0 k 0

/-- A feed that is not the active feed ceases to be present (R436). -/
def Mach.feedCeases (m : Mach) (f : Feed) : Mach :=
  let k := feedNo f
  if !m.on (feedOk k) ∨ m.rd R.PWR_FEED_ACT = k then m
  else ((m.measureFeed k).wr (feedOk k) 0).raise 2 0 k 0

/-- The module is switched to the standby feed (R437). -/
def Mach.switchOver (m : Mach) : Mach :=
  let m := m.setEnv { m.env with switchAt := some m.now }
  (m.wr R.PWR_FEED_ACT (1 - m.rd R.PWR_FEED_ACT)).incRaise R.PWR_FEED_SWN 1 0 0

/-- The standby feed is present. -/
def Mach.standbyOk (m : Mach) : Bool := m.on (feedOk (1 - m.rd R.PWR_FEED_ACT))

/-- Ticks of 100 ms. -/
def feedTicks : Nat := 80000000

/-- A switch-over lies less than 100 ms back (R441). -/
def Mach.justSwitched (m : Mach) : Bool :=
  match m.env.switchAt with
  | some t => decide (m.now < t + feedTicks)
  | none => false

/-- Feed loss (R441). -/
def Mach.feedLoss (m : Mach) : Mach :=
  let m := m.wr (feedOk (m.rd R.PWR_FEED_ACT)) 0
  ((m.setEnv { m.env with holdup := true }).globalFault gFeedloss).raise 2 1 0 0

/-- The active feed falls below 10.2 V (R437, R441). -/
def Mach.feedFail (m : Mach) : Mach :=
  let k := m.rd R.PWR_FEED_ACT
  let m := m.measureFeed k
  if m.standbyOk && !m.justSwitched then (m.switchOver.wr (feedOk k) 0).raise 2 0 k 0 else m.feedLoss

/-- A write of SWITCH (R439). -/
def Mach.feedSwitch (m : Mach) : Mach := if m.standbyOk then m.switchOver else m.wr R.PWR_FEED_CMD_CMDERR 1

/-- The hold-up falls below its floor: the queue is in the book and OT is saved by then (R441, R501). -/
def Mach.holdupOut (m : Mach) : Mach :=
  if !m.env.holdup then m
  else
    let m := m.setTim m.tim.save
    (m.writeRecords m.cbk.queue.length).powerOff

/-! ## Rails (R444, R545) -/

/-- A rail has been outside its window for more than 10 µs. -/
def Mach.railOut (m : Mach) (r : Rail) : Mach :=
  (m.wr ⟨R.PWR_RAILERR.a, railBit r, railBit r⟩ 1).raise 3 0 (railBit r) 0

/-- A rail outside for 1 ms, or beyond ±10 %: the module restarts. -/
def Mach.railRestart (m : Mach) (r : Rail) : Mach :=
  (if m.on ⟨R.PWR_RAILERR.a, railBit r, railBit r⟩ then m else m.railOut r).resetAs kRail

/-- VCORE has reached its set-point: 4 mV/µs or faster (R545). -/
def Mach.vcoreSettled (m : Mach) : Bool :=
  let o := m.env.vslew.1
  let v := m.rd R.PWR_VCORE_SET
  decide (m.env.vslew.2 + (max o v - min o v) * 200 ≤ m.now)

/-- VCORE is measured at the die: within 35 mV of the set-point, or while the rail slews between the
old and the new set-point, each widened by 35 mV. -/
def Mach.vcoreMeas (m : Mach) (mv : Nat) : Mach :=
  let v := m.rd R.PWR_VCORE_SET
  let o := if m.vcoreSettled then v else m.env.vslew.1
  if min o v ≤ mv + 35 ∧ mv ≤ max o v + 35 then m.wr R.PWR_VCORE_MEAS mv else m

/-! ## Dwell and waits through a power state (R141, R447) -/

/-- Fronts that wait at a laser-off point wait in class 3 in HOLD (R447, R466). -/
def Mach.frontsHold (m : Mach) : Mach :=
  (List.finRange 16).foldl (fun (m : Mach) (n : Fin 16) => if m.fe[n].dwell.isSome then m.dwellIn n 3 else m) m

/-- A wait that lasted through HOLD since `h`: that time does not count towards its timeout. -/
def CtxRec.skipHold (r : CtxRec) (h t : Nat) : CtxRec :=
  match r.wait with
  | none => r
  | some w => { r with wait := some { w with held := w.held + (t - max h w.reached) } }

/-- The time spent in HOLD is taken out of every timeout (R447). -/
def Mach.skipHold (m : Mach) : Mach :=
  match m.saf.holdAt with
  | none => m
  | some h =>
    { m with
      saf := { m.saf with holdAt := none }
      fe := m.fe.map fun f => { f with ctx := f.ctx.map fun (r : CtxRec) => r.skipHold h m.mt }
      coo := m.coo.map fun r => r.skipHold h m.mt
      axis := m.axis.map fun x => { x with ctx := x.ctx.skipHold h m.mt } }

/-! ## Power states (R445 to R450) -/

/-- A refused request (R446). -/
def Mach.pstateRefuse (m : Mach) (reason : Nat) : Mach :=
  m.wrs [(R.PWR_PSTATE_REFUSED, 1), (R.PWR_PSTATE_REASON, reason)]

/-- Some context is ACTIVE, READY or WAITING. -/
def Mach.someBusy (m : Mach) : Bool := allCtx.any fun x => ctxBusy (m.ctx x).st

/-- A power state is entered; source 4. -/
def Mach.enterPstate (m : Mach) (v : Nat) : Mach := (m.setPstate v).raise 4 0 0 0

/-- The disarm is complete: MODE becomes READY (R489). -/
def Mach.disarmed (m : Mach) : Mach :=
  ({ m with saf := { m.saf with disarming := false } }.setMode modeReady).raise 12 1 0 0

/-- A disarm begins; it is complete at once where no field is inside a laser-on run (R489). -/
def Mach.disarm (m : Mach) : Mach :=
  let m := { m with saf := { m.saf with disarming := true } }
  if m.someRun then m else m.disarmed

/-- ARMED is left before IDLE or STANDBY (R28). -/
def Mach.disarmFor (m : Mach) : Mach := if m.mode = modeArmed then m.disarm else m

/-- HOLD is accepted (R447). -/
def Mach.enterHold (m : Mach) : Mach :=
  (({ m with saf := { m.saf with holdAt := some m.mt } }.frontsHold).axesHold).enterPstate 1

/-- The module leaves HOLD (R447). -/
def Mach.leaveHold (m : Mach) : Mach := (m.skipHold.axesActive).enterPstate 0

/-- GEN_n of every field goes low (R448). -/
def Mach.allGenLow (m : Mach) : Mach :=
  (List.finRange 16).foldl (fun (m : Mach) (n : Fin 16) =>
    { m with pins := m.pins.set n { m.pins[n] with gen := false }
             regs := rwr m.regs (R.SAF_FS_STATUS_GEN n) 0 }) m

/-- Every slot in RUN is stopped (R448). -/
def Mach.stopSlots (m : Mach) : Mach :=
  (List.finRange 160).foldl (fun (m : Mach) (s : Fin 160) => if m.runs s then m.slotHalt s else m) m

/-- The local store of every field is lost (R510). -/
def Mach.localStoreOff (m : Mach) : Mach :=
  (List.finRange 16).foldl (fun (m : Mach) (n : Fin 16) =>
    (m.corLost n).modField n fun f => { f with prefetch := [], lastProf := 0, lastMat := 0 }) m

/-- MS's port. -/
def msPort : Fin 12 := 10

/-- MEM's error events of the save: writes to unbacked lines (R207, R356). -/
def Mach.saveErrs (m : Mach) : Mach :=
  m.saveLines.1.foldl (fun (m : Mach) _ => m.incRaise R.MEM_UNBACKED 43 0 msPort) m

/-- MEM's error events of the restore: reads of unbacked and of poisoned lines (R207, R356, R361). -/
def Mach.restoreErrs (m : Mach) : Mach :=
  (m.saveLines.1 ++ m.saveLines.2).foldl (fun (m : Mach) l => m.dmaReadErr msPort (128 * l) 128) m

/-- IDLE is accepted (R448). -/
def Mach.enterIdle (m : Mach) : Mach :=
  ((((m.skipHold.stopSlots.allGenLow).saveErrs.ceSave).localStoreOff.axesHold).rackPause true).enterPstate 2

/-- The module leaves IDLE (R448, R207, R372); every field loads its correction from COR_BASE (R154). -/
def Mach.leaveIdle (m : Mach) : Mach :=
  let m := (m.trainAll.restoreErrs.ceRestore).rackPause false
  let m := (List.finRange 16).foldl (fun (m : Mach) (n : Fin 16) => m.corTake n) m
  m.axesActive.enterPstate 0

/-- State of the ring block through STANDBY: no cyclic frames (R421, R510). -/
def Rng.standby (r : Rng) : Rng :=
  { r with rx := [], own := [], chg := [], sigRecs := [], applied := [], decided := [], hist := [] }

/-- STANDBY is entered (R449): MS and the ring switch go on; source 4, and the link goes down. -/
def Mach.enterStandby (m : Mach) : Mach :=
  let m := m.linkDown.raise 4 0 0 0
  let z := m.resetCore kStandby
  let z := { z with saf := { z.saf with msRun := true }
                    unlock := m.unlock
                    rng := m.rng.standby
                    env := { Env.reset with holdup := m.env.holdup, switchAt := m.env.switchAt }
                    regs := rwr z.regs R.GLB_RSTCAUSE_KIND (m.rd R.GLB_RSTCAUSE_KIND) }
  z.setPstate 3

/-- The conditions of IDLE and STANDBY after R28 (R446): the first reason that applies. -/
def Mach.sleepReason (m : Mach) (idle : Bool) : Nat :=
  if m.someBusy then 1
  else if idle ∧ m.saveBase = 0 then 4 else 0

/-- A request for a deeper state, disarmed first. -/
def Mach.sleepReq (m : Mach) (idle : Bool) (go : Mach → Mach) : Mach :=
  let m := m.disarmFor
  if m.sleepReason idle ≠ 0 then m.pstateRefuse (m.sleepReason idle) else go m

/-- TRIP is latched. -/
def Mach.tripped (m : Mach) : Bool := m.on R.THM_STATUS_TRIPLATCH

/-- REQ 0. -/
def Mach.reqActive (m : Mach) : Mach :=
  if m.tripped then m.pstateRefuse 3
  else if m.pstate = 1 then m.leaveHold
  else if m.pstate = 2 then m.leaveIdle
  else m.pstateRefuse 2

/-- REQ 1. -/
def Mach.reqHold (m : Mach) : Mach :=
  if m.tripped then m.pstateRefuse 3 else if m.pstate = 0 then m.enterHold else m.pstateRefuse 2

/-- REQ 2. -/
def Mach.reqIdle (m : Mach) : Mach :=
  if m.tripped then m.pstateRefuse 3
  else if m.pstate ≤ 1 then m.sleepReq true Mach.enterIdle
  else m.pstateRefuse 2

/-- REQ 3. -/
def Mach.reqStandby (m : Mach) : Mach :=
  if m.tripped then m.pstateRefuse 3
  else if m.pstate ≤ 2 then m.sleepReq true Mach.enterStandby
  else m.pstateRefuse 2

/-- A wake is taken (R449, R450): the mode is SAFE from here, KIND 6 is recorded, TRIP is released. -/
def Mach.takeWake (m : Mach) : Mach :=
  { m.wrs [(R.GLB_MODE_MODE, modeSafe), (R.GLB_RSTCAUSE_KIND, 6), (R.THM_STATUS_TRIPLATCH, 0),
      (R.HS_BOOT_STAGE, 1)] with env := { m.env with waking := true, wakePend := false } }

/-- Every board sensor reads 60 °C or below. -/
def Mach.boardCool (m : Mach) : Bool := (List.range 8).all fun k => decide (m.rdS (R.THM_S_TEMP (80 + k)) ≤ 960)

/-- A wake: refused while TRIP is latched and the board is hot, and then taken (R450). -/
def Mach.wake (m : Mach) : Mach :=
  if m.pstate ≠ 3 ∨ m.env.waking then m
  else if m.tripped ∧ !m.boardCool then m.setEnv { m.env with wakePend := true }
  else m.takeWake

/-- OT reaches PWR_WAKE_OT. -/
def Mach.wakeOt (m : Mach) : Mach :=
  let s := m.rd R.PWR_WAKE_OT
  if s ≠ 0 ∧ s ≤ m.tim.otSec then m.wake else m

/-- A wake frame with a key. -/
def Mach.wakeFrame (m : Mach) (key : Word) : Mach :=
  if m.rd R.PWR_WAKEKEY ≠ 0 ∧ m.rd R.PWR_WAKEKEY = key.toNat then m.wake else m

/-! ## Thermal sensing (R451 to R456) -/

/-- Neighbours of a cell of a square grid. -/
def gridNear (w base k : Nat) : List Nat :=
  ((List.range (w * w)).filter fun j =>
    let dx : Int := (j % w : Nat) - ((k - base) % w : Nat)
    let dy : Int := (j / w : Nat) - ((k - base) / w : Nat)
    j ≠ k - base && decide (dx.natAbs ≤ 1 ∧ dy.natAbs ≤ 1)).map (base + ·)

/-- Neighbours of a sensor (R453). -/
def neighbours (k : Nat) : List Nat :=
  if k < 64 then gridNear 8 0 k
  else if k < 80 then gridNear 4 64 k
  else ((List.range 8).map (80 + ·)).filter (· ≠ k)

/-- Limit of the difference from the median, 1/16 °C. -/
def nearLimit (k : Nat) : Int := if k < 64 then 128 else if k < 80 then 96 else 240

/-- A list in rising order. -/
def sortedI (l : List Int) : List Int :=
  l.foldl (fun s x => (s.takeWhile (decide <| · ≤ x)) ++ x :: s.dropWhile (decide <| · ≤ x)) []

/-- Twice the median. -/
def median2 (l : List Int) : Int :=
  let s := sortedI l
  let n := l.length
  s.getD ((n - 1) / 2) 0 + s.getD (n / 2) 0

/-- Readings of the healthy neighbours of a sensor. -/
def Mach.healthy (m : Mach) (r : List Int) (k : Nat) : List Int :=
  ((neighbours k).filter fun j => !m.on (R.THM_S_BROKEN j)).map fun j => r.getD j 0

/-- A reading deviates (R453). -/
def Mach.deviates (m : Mach) (r : List Int) (k : Nat) : Bool :=
  let x := r.getD k 0
  let l := m.healthy r k
  decide (x < -640 ∨ 2400 < x) || (!l.isEmpty && decide (2 * nearLimit k < (2 * x - median2 l).natAbs))

/-- Reads that mark a sensor BROKEN. -/
def brokenReads : Nat := 10

/-- One sensor is judged. -/
def Mach.judgeSensor (r : List Int) (dev : List Bool) (m : Mach) (k : Nat) : Mach :=
  if m.on (R.THM_S_BROKEN k) then m
  else
    let n := if dev.getD k false then min brokenReads (m.env.dev.getD k 0 + 1) else 0
    let m := m.setEnv { m.env with dev := modify m.env.dev k fun _ => n }
    if n = brokenReads then (m.wr (R.THM_S_BROKEN k) 1).raise 9 0 k 0
    else m.wr (R.THM_S_TEMP k) (unsigned 16 (r.getD k 0))

/-- The value in use of a BROKEN sensor: the median of its healthy neighbours, or none. -/
def Mach.substitute (r : List Int) (m : Mach) (k : Nat) : Mach :=
  if !m.on (R.THM_S_BROKEN k) then m
  else
    let l := m.healthy r k
    if l.length < 2 then m.wr (R.THM_S_NOSUB k) 1
    else m.wrs [(R.THM_S_NOSUB k, 0),
      (R.THM_S_TEMP k, unsigned 16 (openRound 8 (median2 l) 2))]

/-- BROKEN sensors of a list. -/
def Mach.broken (m : Mach) (l : List Nat) : Nat := l.countP fun k => m.on (R.THM_S_BROKEN k)

/-- The sensors are read and judged. -/
def Mach.readSensors (m : Mach) (l : List Nat) (r : List Int) : Mach :=
  let dev := (List.range 88).map fun k => l.contains k && m.deviates r k
  let m := l.foldl (Mach.judgeSensor r dev) m
  let m := l.foldl (Mach.substitute r) m
  m.wr R.THM_STATUS_NBROKEN (m.broken (List.range 88))

/-- Tj: the greatest die value in use (R452). -/
def Mach.tjNow (m : Mach) : Int :=
  maxTemp (((List.range 64).filter fun k => !m.on (R.THM_S_NOSUB k)).map fun k => m.rdS (R.THM_S_TEMP k))

/-- The rate of racking in effect (R377, R456). -/
def Mach.rackEff (m : Mach) : Mach :=
  let v := clampN 1 40 (m.rd R.MEM_RACKRATE_RATE)
  m.wr R.MEM_RACKRATE_EFF (if m.on R.THM_STATUS_SHED then min v 5 else v)

/-- A temperature has stayed below a clear value since. -/
def coolSince (o : Option Nat) (below : Bool) (t : Nat) : Option Nat := if below then some (o.getD t) else none

/-- WARN and LIMIT are set (R455). -/
def Mach.setLevels (m : Mach) (tj : Int) : Mach :=
  let l := m.rd R.THM_TJ_LEVEL
  let m := m.setEnv { m.env with cool := [coolSince (m.env.cool.getD 0 none) (decide (tj < 1520)) m.now,
                                          coolSince (m.env.cool.getD 1 none) (decide (tj < 1680)) m.now] }
  let m := if 1600 ≤ tj ∧ l = 0 then (m.wr R.THM_TJ_LEVEL 1).raise 6 0 0 0 else m
  if 1760 ≤ tj ∧ l ≤ 1 then ((m.wrs [(R.THM_TJ_LEVEL, 2), (R.THM_STATUS_SHED, 1)]).rackEff).raise 7 0 0 0 else m

/-- TRIP: a global fault, then STANDBY (R455). -/
def Mach.trip (m : Mach) : Mach :=
  let m := m.wrs [(R.THM_TJ_LEVEL, 3), (R.THM_STATUS_TRIPLATCH, 1)]
  ((m.globalFault gTrip).raise 8 0 0 0).enterStandby

/-- Thresholds after a read (R454, R455). -/
def Mach.thresholds (m : Mach) : Mach :=
  let tj := m.tjNow
  let m := (m.wr R.THM_TJ_TJ (unsigned 16 tj)).setLevels tj
  if (2000 ≤ tj ∨ 16 < m.broken (List.range 64)) ∧ !m.tripped then m.trip else m

/-- THERMAL_READ: all sensors, or in STANDBY the board sensors (R451), where a wake may wait for
them (R450). -/
def Mach.thermalRead (m : Mach) (r : List Int) : Mach :=
  if m.pstate ≤ 2 then (m.readSensors (List.range 88) r).thresholds
  else
    let m := m.readSensors ((List.range 8).map (80 + ·)) r
    if m.env.wakePend then m.wake else m

/-- Ticks of 1 s. -/
def secTicks : Nat := 800000000

/-- A threshold has been clear for 1 s. -/
def Mach.cooled (m : Mach) (k : Nat) : Bool :=
  match m.env.cool.getD k none with
  | some t => decide (t + secTicks ≤ m.now)
  | none => false

/-- THRESHOLD_CLEAR (R455). -/
def Mach.thresholdClear (m : Mach) : Mach :=
  let m := if m.rd R.THM_TJ_LEVEL = 2 ∧ m.cooled 1 then
      (m.wrs [(R.THM_TJ_LEVEL, 1), (R.THM_STATUS_SHED, 0)]).rackEff else m
  if m.rd R.THM_TJ_LEVEL = 1 ∧ m.cooled 0 then m.wr R.THM_TJ_LEVEL 0 else m

/-- A write of CLR judges a sensor afresh (R453). -/
def Mach.sensorClr (m : Mach) (k : Fin 88) : Mach :=
  let m := m.setEnv { m.env with dev := modify m.env.dev k fun _ => 0 }
  let m := m.wrs [(R.THM_S_BROKEN k, 0), (R.THM_S_NOSUB k, 0)]
  m.wr R.THM_STATUS_NBROKEN (m.broken (List.range 88))

/-! ## Reference compensation (R458) -/

/-- The correction of a group, 1/16 parts per 10^9, from AFE sensor 64 + g. -/
def Mach.refCorr (m : Mach) (g : Nat) (old : Int) : Int :=
  if m.on (R.THM_S_NOSUB (64 + g)) then old else m.rdS (R.AFE_TC g) * (m.rdS (R.THM_S_TEMP (64 + g)) - 400)

/-- REFERENCE_COMPENSATION. -/
def Mach.refComp (m : Mach) : Mach :=
  if 2 < m.pstate then m
  else m.setEnv { m.env with refcorr := (indexed m.env.refcorr).map fun (p : Nat × Int) => m.refCorr p.1 p.2 }

/-! ## Calibration (R459 to R465) -/

/-- Registers of a slice: DAC or ADC. -/
def calOffs (dac : Bool) (k : Nat) : RF := if dac then R.AFE_DAC_OFFS k else R.AFE_ADC_OFFS k
def calGain (dac : Bool) (k : Nat) : RF := if dac then R.AFE_DAC_GAIN k else R.AFE_ADC_GAIN k
def calSrc (dac : Bool) (k : Nat) : RF := if dac then R.AFE_DAC_STAT_CAL_SRC k else R.AFE_ADC_STAT_CAL_SRC k
def calFailed (dac : Bool) (k : Nat) : RF := if dac then R.AFE_DAC_STAT_FAILED k else R.AFE_ADC_STAT_FAILED k
def calSpare (dac : Bool) (k : Nat) : RF := if dac then R.AFE_DAC_STAT_SPARE k else R.AFE_ADC_STAT_SPARE k
def calFailn (dac : Bool) (k : Nat) : RF := if dac then R.AFE_DAC_STAT_FAILN k else R.AFE_ADC_STAT_FAILN k
def calWrerr (dac : Bool) (k : Nat) : RF := if dac then R.AFE_DAC_STAT_WRERR k else R.AFE_ADC_STAT_WRERR k
def calSlice (dac : Bool) (c : Nat) : RF := if dac then R.AFE_DAC_SLICE c else R.AFE_ADC_SLICE c

/-- Offset within ±2,097 codes, in 1/16 code (R461). -/
def offsOk (v : Int) : Bool := decide (v.natAbs ≤ 2097 * 16)

/-- Gain within ±0.5 % of nominal (R461). -/
def gainOk (v : Nat) : Bool := decide ((((v : Int) - 4194304).natAbs) * 200 ≤ 4194304)

/-- Gain within 0.05 % of the previous gain (R461). -/
def gainNear (v old : Nat) : Bool := decide ((((v : Int) - (old : Int)).natAbs) * 2000 < old)

/-- The spare of a group, unless it is FAILED (R459, R462). -/
def Mach.spareOf (m : Mach) (dac : Bool) (g : Nat) : Option Nat :=
  ((List.range 9).map (9 * g + ·)).find? fun k => m.on (calSpare dac k) && !m.on (calFailed dac k)

/-- Management ticks between the steps of a group, and between two groups (R460). -/
def Mach.stepDue (m : Mach) (g : Nat) : Bool :=
  m.atTick && m.mt / mgmtTick % 200 == 25 * (g % 8)

/-- A host write to the slice is held: the measured values are discarded (R465). -/
def Mach.calBusy (m : Mach) (dac : Bool) (k : Nat) : Bool :=
  m.env.calHeld.any fun c => c.dac == dac && c.k.val == k && decide (m.mt < c.due)

/-- Values measured in a step are adopted. -/
def Mach.calAdopt (m : Mach) (dac : Bool) (k : Nat) (offs : Int) (gain : Nat) : Mach :=
  if m.calBusy dac k then m.wr (calFailn dac k) 0
  else m.wrs [(calOffs dac k, unsigned 24 offs), (calGain dac k, gain), (calSrc dac k, 1), (calFailn dac k, 0)]

/-- Failures in a row that mark a slice FAILED (R462). -/
def failLimit : Nat := 3

/-- A step has failed (R461, R462). -/
def Mach.calFail (m : Mach) (dac : Bool) (k : Nat) : Mach :=
  let m := (m.inc R.AFE_CALFAIL).incRaise (calFailn dac k) 172 0 k
  if m.rd (calFailn dac k) < failLimit then m
  else (m.wrs [(calFailed dac k, 1), (calSpare dac k, 0)]).raise 173 0 k 0

/-- TOPPING_STEP: steps 1 to 4 of a group, with what they measured (R460). -/
def Mach.toppingStep (m : Mach) (g : Fin 16) (w : TopMeas) : Mach :=
  let dac := decide (8 ≤ g.val)
  match m.spareOf dac (g % 8) with
  | none => m
  | some k =>
    if !m.stepDue g ∨ !m.on R.AFE_CTRL ∨ 1 < m.pstate then m
    else
      let agreed := decide (w.track ≤ 64)
      let good := offsOk w.offs && gainOk w.gain && gainNear w.gain (m.rd (calGain dac k)) && agreed
      let m := if good then m.calAdopt dac k w.offs w.gain else m.calFail dac k
      let swap := agreed && !m.on (calFailed dac k)
      let st : TopStep := { spare := k, channel := 8 * (g % 8) + m.env.nextCh.getD g 0 }
      m.setEnv { m.env with top := modify m.env.top g fun _ => if swap then some st else none }

/-- TOPPING_SWAP: at an ST boundary the spare takes the channel (R460). -/
def Mach.toppingSwap (m : Mach) (g : Fin 16) : Mach :=
  let dac := decide (8 ≤ g.val)
  match m.env.top.getD g none with
  | none => m
  | some t =>
    if m.mt % servoTick ≠ 0 ∨ 1 < m.pstate then m
    else
      let old := m.rd (calSlice dac t.channel)
      (m.setEnv { m.env with top := modify m.env.top g fun _ => none
                             nextCh := modify m.env.nextCh g fun c => (c + 1) % 8 }).wrs
        [(calSlice dac t.channel, t.spare), (calSpare dac t.spare, 0), (calSpare dac old, 1)]

/-- A slice serves some channel. -/
def Mach.sliceServes (m : Mach) (dac : Bool) (k : Nat) : Bool :=
  (List.range 64).any fun c => m.rd (calSlice dac c) == k

/-- A write of CLR: FAILED and FAILN clear; a slice that serves no channel is the spare again (R462). -/
def Mach.sliceClr (m : Mach) (dac : Bool) (k : Fin 72) : Mach :=
  m.wrs [(calFailed dac k, 0), (calFailn dac k, 0), (calSpare dac k, bool01 (!m.sliceServes dac k))]

/-- Limits of a host write (R465). -/
def calWriteOk (gain : Bool) (v : BitVec 24) : Bool := if gain then gainOk v.toNat else offsOk v.toInt

/-- The next ST boundary. -/
def nextSt (t : Nat) : Nat := (t / servoTick + 1) * servoTick

/-- CALIBRATION_WRITE: the value is read back at once, and the slice uses it from the next ST boundary
on (R465). -/
def Mach.calWrite (m : Mach) (dac : Bool) (k : Fin 72) (gain : Bool) (v : BitVec 24) : Mach :=
  if !calWriteOk gain v then m.wr (calWrerr dac k) 1
  else
    let r := if gain then calGain dac k else calOffs dac k
    let old := m.calWord dac gain k r
    let held := m.env.calHeld.filter fun c =>
      decide (m.mt < c.due) && !(c.dac == dac && c.gain == gain && c.k == k)
    (m.setEnv { m.env with calHeld := held ++ [⟨dac, k, gain, BitVec.ofNat 24 old, nextSt m.mt⟩] }).wrs
      [(r, v.toNat), (calSrc dac k, 2)]

end Sys2Proof.Machine
end

