-- ==== Sys2Proof/Machine/Edge.lean ====
section
/-! DEFINITION. Edge stages: arrival, lateness and presentation (02). -/
namespace Sys2Proof.Machine

/-! ## Late entries (R55, R57, R58) -/

/-- The RUN slot that writes a port of a field. -/
def Mach.slotAt (m : Mach) (n port : Nat) : Option (Fin 160) :=
  (List.finRange 160).find? fun s => m.runs s && m.slotField s == n && (m.slotOuts s).contains port

/-- A late DAC update: the miss of the slot, or of the direct path, that writes it. -/
def Mach.lateDac (m : Mach) (e : Edge) (n : Fin 16) (port : Nat) (order : Bool) : Mach :=
  match m.slotAt n port with
  | some s => m.slotMiss s order
  | none =>
    let m := m.noteLate 1 (edgeInst e) order
    if port = 515 ∧ m.rdf (R.FE_LCH_CTRL_PMODE n) = 0 then m.directMiss n else m

/-- Late gate edges: both outputs low, the channel's entries discarded, GATELATE. -/
def Mach.lateGate (m : Mach) (n : Fin 16) : Mach :=
  ({ m.gateLow n with stages := dropStage m.stages (.gate n) }).fieldFault n cGatelate false false

/-- The consequence of a late entry (R58). -/
def Mach.lateEdge (m : Mach) (e : Edge) (order : Bool) : Mach :=
  match e with
  | .gate n => (m.noteLate 0 n order).lateGate n
  | .lpwr n => m.lateDac e n 515 order
  | .gxc n => m.lateDac e n 512 order
  | .gyc n => m.lateDac e n 513 order
  | .gzc n => m.lateDac e n 514 order
  | .fdl n => (m.noteLate 2 n order).fdlLate n
  | .step a => ({ m.noteLate 3 a order with stages := dropStage m.stages (.step a) }).axisFault a aSteplate false
  | .trig p => m.noteLate 4 p order
  | .cyc p => m.noteLate 5 p order

/-- A due instant is one at which an output has entries: triggers of a pool camera are due at TPHASE + k × TPER
while EN is 1 and TMODE is 0 (R227). -/
def Mach.dueFits (m : Mach) (e : Edge) (due : Nat) : Bool :=
  match e with
  | .trig p =>
    if h : p.val < 16 then
      let n : Fin 16 := ⟨p.val, h⟩
      let per := m.tper n
      m.on (R.IMG_PP_CTRL_EN n) && m.rd (R.IMG_PP_CTRL_TMODE n) == 0 &&
        (due + (per - m.rd (R.IMG_PP_TPHASE n) % per)) % per == 0
    else true
  | _ => true

/-- EDGE_ENTRY_ARRIVAL: an entry is judged at its arrival instant (R57).  One due with a queued entry that
is not the last violates the order (DESIGN CHOICE, log entry 109). -/
def Mach.edgeArrival (m : Mach) (e : Edge) (due : Nat) (v : EdgeVal) : Mach :=
  if !m.dueFits e due then m
  else if m.isLate due then m.lateEdge e false
  else if (m.stage e).violates due then m.lateEdge e true
  else m.pushEdge e due v

/-! ## Presentation (R54) -/

/-- Motion of one step edge: +1, or −1 where DIR_a shows negative motion (R341). -/
def Mach.stepSign (m : Mach) (a : Fin 8) (dir : Bool) : Int :=
  if dir != m.on (R.AXE_AX_CFG_DIRINV a) then 1 else -1

/-- The levels of STEP_a and DIR_a; a rising STEP_a is one microstep. -/
def Mach.stepEdge (m : Mach) (a : Fin 8) (step dir : Bool) : Mach :=
  let x := m.axis[a]
  let rise := step && !m.axpins[a].step
  { m with
    axpins := m.axpins.set a { m.axpins[a] with step := step, dir := dir }
    axis := m.axis.set a { x with dirAt := if dir = x.dir then x.dirAt else m.mt
                                  dir := dir
                                  steps := if rise then x.steps + m.stepSign a dir else x.steps } }

/-- Earliest instant of a step edge after a change of DIR_a. -/
def Mach.stepFrom (m : Mach) (a : Fin 8) : Nat := m.axis[a].dirAt + m.rd (R.AXE_AX_STEPT_DSU a)

/-- A step edge less than DSU after a change of DIR_a is presented at that change plus DSU (R341); in
fail-safe the pulses have stopped (R350). -/
def Mach.presentStep (m : Mach) (a : Fin 8) (step dir : Bool) : Mach :=
  if !m.axesRun then m
  else if step && decide (m.mt < m.stepFrom a) then
    let s := m.stage (.step a)
    (m.setStage (.step a) { s with q := ⟨m.stepFrom a, .step step dir⟩ :: s.q }).inc (R.AXE_AX_DSUCLIP a)
  else m.stepEdge a step dir

/-- A galvo current code: 0 while GEN_n is low, and then up to the ST boundary after (R469, R482). -/
def Mach.galvoCode (m : Mach) (n : Fin 16) (c : Code) : Code := if m.pins[n].gen && decide (m.pins[n].genAt ≤ m.mt) then c else 0

/-- The value of an entry is presented. -/
def Mach.present (m : Mach) (e : Edge) (due : Nat) (v : EdgeVal) : Mach :=
  match e, v with
  | .gate n, .gate g l => m.presentGate n g l
  | .lpwr n, .dac c => m.presentPower n c.toInt
  | .gxc n, .dac c => { m with pins := m.pins.set n { m.pins[n] with gxc := m.galvoCode n c } }
  | .gyc n, .dac c => { m with pins := m.pins.set n { m.pins[n] with gyc := m.galvoCode n c } }
  | .gzc n, .dac c => { m with pins := m.pins.set n { m.pins[n] with gzc := m.galvoCode n c } }
  | .fdl n, .defl x y => m.fdlPut n x y
  | .step a, .step s d => m.presentStep a s d
  | .trig p, .pulse => m.trigPresented p
  | .cyc p, .pulse => m.cycSend p due
  | _, _ => m

/-- A place has become free: the writer held longest enters, judged at this instant (R56). -/
def Mach.enterHeld (m : Mach) (e : Edge) : Mach :=
  let s := m.stage e
  match s.held with
  | [] => m
  | x :: t => (m.setStage e { s with held := t }).edgeArrival e x.due x.val

/-- EDGE_PRESENT: the entry due at this MT leaves the queue and is presented. -/
def Mach.edgePresent (m : Mach) (e : Edge) : Mach :=
  let s := m.stage e
  match s.q.find? (·.due == m.mt) with
  | none => m
  | some x => ((m.setStage e { s with q := s.q.filter fun y => decide (m.mt < y.due) }).present e x.due x.val).enterHeld e

end Sys2Proof.Machine
end

