-- ==== Sys2Proof/Machine/Recovery.lean ====
section
/-! DEFINITION. Modes, the interlock, global causes, arming, RESUME (01, 16). -/
namespace Sys2Proof.Machine

def Mach.setSaf (m : Mach) (x : Saf) : Mach := { m with saf := x }

/-! ## Interlock (R476, R477) -/

/-- Number of a channel. -/
def ilkNo : Ilk → Nat
  | .a => 0
  | .b => 1

def Saf.level (x : Saf) : Ilk → Bool
  | .a => x.ilkA
  | .b => x.ilkB

/-- A channel takes a level; `t` is the present instant.  A discrepancy counts from the instant at
which just one channel is open; with DISC latched, both channels open and then closed together are
noted (R477). -/
def Saf.setIlk (x : Saf) (c : Ilk) (v : Bool) (t : Nat) : Saf :=
  let y := match c with
    | .a => { x with ilkA := v }
    | .b => { x with ilkB := v }
  let y := { y with discAt := if y.ilkA = y.ilkB then none else some (y.discAt.getD t) }
  { y with bothOpen := y.bothOpen || (!y.ilkA && !y.ilkB)
           bothClosed := y.bothClosed || (y.bothOpen && y.ilkA && y.ilkB) }

/-- Closed bit of a channel in SAF_ILK. -/
def ilkBit : Ilk → RF
  | .a => R.SAF_ILK_ILKA
  | .b => R.SAF_ILK_ILKB

/-- A cause is declared when it becomes present, and when its bit is not set. -/
def Mach.declare (m : Mach) (k : Nat) (was : Bool) : Mach :=
  if was && m.on ⟨R.SAF_GSTAT_CAUSE.a, k, k⟩ then m else m.globalFault k

/-- A channel opens: the gate terms of every field go, and ILK is declared. -/
def Mach.ilkOpen (m : Mach) (c : Ilk) : Mach :=
  if !m.saf.level c then m
  else
    let was := !m.ilkClosed
    let m := ((m.setSaf (m.saf.setIlk c false m.now)).wr (ilkBit c) 0).allGatesLow
    (m.declare gIlk was).raise 10 0 (ilkNo c) 0

/-- A channel closes. -/
def Mach.ilkClose (m : Mach) (c : Ilk) : Mach :=
  if m.saf.level c then m
  else ((m.setSaf (m.saf.setIlk c true m.now)).wr (ilkBit c) 1).raise 10 1 (ilkNo c) 0

/-- One channel has been open and the other closed for longer than ILKDISC. -/
def Mach.discDue (m : Mach) : Bool :=
  match m.saf.discAt with
  | some t => decide (t + max 1 (m.rd R.SAF_ILKDISC) * msTicks < m.now)
  | none => false

/-- DISC latches (R477). -/
def Mach.ilkDisc (m : Mach) : Mach :=
  if m.on R.SAF_ILK_DISC ∨ !m.discDue then m
  else
    let was := !m.ilkClosed
    let m := (m.setSaf { m.saf with bothOpen := false, bothClosed := false }).wr R.SAF_ILK_DISC 1
    (m.declare gIlk was).raise 11 0 0 0

/-- A host write of 1 to DISC. -/
def Mach.discClear (m : Mach) : Mach :=
  if m.saf.bothOpen && m.saf.bothClosed then m.wr R.SAF_ILK_DISC 0 else m

/-! ## Global causes (R473) -/

/-- A poisoned line lies in a shared window (R474). -/
def Mach.sharedPoison (m : Mach) : Bool := m.mem.poison.any fun l => m.sharedLine (128 * l)

/-- Causes that are present: the interlock open or DISC, TRIP latched, a feed not present after feed
loss, MS not running, a poisoned line in a shared window. -/
def Mach.causesPresent (m : Mach) : BitVec 5 :=
  BitVec.ofNat 5 (bool01 (!m.ilkClosed) + 2 * bool01 m.tripped +
    4 * bool01 (!(m.on R.PWR_FEED_AOK && m.on R.PWR_FEED_BOK)) + 8 * bool01 (!m.saf.msRun) +
    16 * bool01 m.sharedPoison)

/-- GSTAT_CLEAR: bits written 1 whose cause is absent clear. -/
def Mach.gstatClear (m : Mach) (v : BitVec 5) : Mach :=
  let keep := m.rd R.SAF_GSTAT_CAUSE &&& (31 - (v &&& ~~~ m.causesPresent).toNat)
  (m.wrs [(R.SAF_GSTAT_CAUSE, keep), (R.SAF_GSTAT_ANY, bool01 (keep != 0))]).updateSafeOut

/-- MS has not refreshed the heartbeat for MSWDT ms (R473, R475). -/
def Mach.msLost (m : Mach) : Mach :=
  if !m.saf.msRun ∨ m.now < m.saf.hbAt + max 1 (m.rd R.SAF_MSWDT) * msTicks then m
  else ((m.setSaf { m.saf with msRun := false, msfAt := some m.now }).globalFault gMsf).raise 15 0 0 0

/-- The MS watchdog reset (R475). -/
def Mach.msReset (m : Mach) : Mach := if m.saf.msfAt.isSome then m.resetAs kMs else m

/-! ## Modes (R26 to R30, R489) -/

/-- A field stops where its front stands, without a fault; it goes on from there by re-entry. -/
def Mach.freeze (m : Mach) (n : Fin 16) : Mach :=
  let f := m.fe[n]
  if f.emit.isNone then m
  else
    let r : FsRec := { f.stopRec m.mt 0 with causes := [] }
    let b := f.brake (m.stopSeg n m.mt)
    let e := (b.ramp.getD (m.stopSeg n m.mt)).seg
    m.setField n { (b.squash.republish m.mt) with
      reentry := some r, spotX := e.x1, spotY := e.y1, spotZ := e.z1, lastOwner := r.ctx
      lch := { (f.lch.dark m.mt).setGint m.mt false with rampAt := none } }

/-- A request for SAFE: every field stops, every output takes its fail-safe state, the axes too (R25,
R350). -/
def Mach.goSafe (m : Mach) : Mach :=
  let m := (List.finRange 16).foldl (fun (m : Mach) (n : Fin 16) => m.freeze n) m
  ((m.allOutputsSafe false).axesFailSafe).toSafe

/-- GLB_MODE_REQ = 1. -/
def Mach.requestSafe (m : Mach) : Mach :=
  if m.mode = modeReady ∨ m.mode = modeArmed then m.goSafe else m.modeRefuse 3

/-- GLB_MODE_REQ = 2: READY, or disarm when ARMED.  During a wake the mode stays SAFE (R26).  An open interlock refuses READY with REASON 2
(DEDUCED from R30, log entry 35). -/
def Mach.requestReady (m : Mach) : Mach :=
  if m.mode = modeArmed then (if m.saf.disarming then m else m.disarm)
  else if m.mode ≠ modeSafe ∨ m.env.waking then m.modeRefuse 3
  else if m.rd R.SAF_GSTAT_CAUSE ≠ 0 then m.modeRefuse 1
  else if !(m.saf.ilkA && m.saf.ilkB) then m.modeRefuse 2
  else m.setMode modeReady

/-- Any write of GLB_MODE_REQ. -/
def Mach.modeReq (m : Mach) (v : Nat) : Mach :=
  if v = 1 then m.requestSafe else if v = 2 then m.requestReady else m.modeRefuse 4

/-- DISARM_COMPLETE: every field has reached a laser-off point (R489). -/
def Mach.disarmComplete (m : Mach) : Mach :=
  if m.saf.disarming ∧ m.mode = modeArmed ∧ !m.someRun then m.disarmed else m

/-! ## Status outputs (R523) -/

/-- A status output: off, on, or blinking at a rate in Hz. -/
inductive Led where
  | off | on
  | blink (hz : Nat)
  deriving DecidableEq, Repr

def Led.of (b : Bool) : Led := if b then .on else .off

/-- The four status outputs. -/
structure Leds where
  pwr : Led
  run : Led
  arm : Led
  fault : Led
  deriving DecidableEq, Repr

/-- LED_FAULT_L. -/
def Mach.faultLed (m : Mach) : Led :=
  if m.rd R.SAF_GSTAT_CAUSE ≠ 0 ∨ m.on R.GLB_STATUS_BOOTERR then .on
  else if (List.finRange 16).any fun n => m.inFs n then .blink 2 else .off

/-- LED_PWR_L, LED_RUN_L, LED_ARM_L and LED_FAULT_L; VAON is present while a feed powers the module. -/
def Mach.leds (m : Mach) : Leds :=
  if !m.env.powered then ⟨.off, .off, .off, .off⟩
  else
    { pwr := .on
      run := if m.mode = modeBoot then .blink 1 else .of m.saf.msRun
      arm := .of (m.mode == modeArmed), fault := m.faultLed }

/-! ## Arming (R488) -/

/-- Ticks of 10 ms. -/
def armTicks : Nat := 8000000

def Mach.armKeyErr (m : Mach) : Mach :=
  (m.setSaf { m.saf with armFirst := none }).wr R.SAF_ARM_STAT_KEYERR 1

/-- The first word. -/
def Mach.armFirst (m : Mach) : Mach :=
  if m.saf.armFirst.isSome then m.armKeyErr else m.setSaf { m.saf with armFirst := some m.now }

/-- Fields named in SAF_FIELDS satisfy a condition. -/
def Mach.namedFields (m : Mach) (p : Fin 16 → Bool) : Bool :=
  (List.finRange 16).all fun n => bits (m.rd R.SAF_FIELDS) n n == 0 || p n

/-- The first condition that fails; 0 with none. -/
def Mach.armReason (m : Mach) : Nat :=
  if m.rd R.SAF_GSTAT_CAUSE ≠ 0 then 1
  else if !m.ilkClosed then 2
  else if m.mode ≠ modeReady then 3
  else if 1 < m.pstate then 4
  else if !m.namedFields fun n => !m.inFs n then 5
  else if !m.namedFields fun n => m.locked n then 6
  else if m.rd R.SAF_FIELDS = 0 then 7 else 0

/-- REASON of GLB_MODE for an AREASON. -/
def armModeReason (a : Nat) : Nat := if a = 1 ∨ a = 5 then 1 else if a = 2 then 2 else 3

/-- VCORE is raised to 0.72 V at least (R22). -/
def Mach.armVcore (m : Mach) : Mach :=
  if m.rd R.PWR_VCORE_SET < 720 then
    { m.setVcore 720 with env := { (m.setVcore 720).env with govCount := 0 } }
  else m

/-- The conditions are tested at the second word. -/
def Mach.armTest (m : Mach) : Mach :=
  let r := m.armReason
  let m := (m.setSaf { m.saf with armFirst := none }).wr R.SAF_ARM_STAT_AREASON r
  if r ≠ 0 then m.modeRefuse (armModeReason r)
  else (m.setSaf { m.saf with arming := some m.now }).armVcore

/-- A second word. -/
def Mach.armSecond (m : Mach) (v : Word) : Mach :=
  match m.saf.armFirst with
  | none => m
  | some t => if v ≠ 0xFFFF5B1E ∨ t + armTicks < m.now then m.armKeyErr else m.armTest

/-- Any write of SAF_ARM. -/
def Mach.armWrite (m : Mach) (v : Word) : Mach :=
  if m.saf.armFirst.isNone ∧ v = 0x0000A4E1 then m.armFirst else m.armSecond v

/-- No second word within 10 ms. -/
def Mach.armTimeout (m : Mach) : Mach :=
  match m.saf.armFirst with
  | none => m
  | some t => if t + armTicks < m.now then m.armKeyErr else m

/-- ARM_COMPLETE: MODE becomes ARMED once VCORE is at 0.72 V or above. -/
def Mach.armComplete (m : Mach) : Mach :=
  if m.saf.arming.isNone ∨ m.mode ≠ modeReady ∨ 1 < m.pstate ∨ m.rd R.PWR_VCORE_SET < 720 ∨
    !m.vcoreSettled then m
  else ((m.setSaf { m.saf with arming := none }).setMode modeArmed).raise 12 0 0 0

/-! ## Resume (R479 to R487) -/

/-- The axis that carries a field's frame is not faulted. -/
def Mach.frameAxisOk (m : Mach) (n : Fin 16) : Bool :=
  let s := m.frmSrc n
  if h : 8 ≤ s ∧ s < 16 then !m.axis[(⟨s - 8, by omega⟩ : Fin 8)].faulty else true

/-- CONSEC is 0 in the slots whose misses raised LOOPMISS of the field. -/
def Mach.loopsOk (m : Mach) (n : Fin 16) : Bool :=
  (List.finRange 160).all fun (s : Fin 160) => m.slotField s != n.val || !m.slot[s].missed || m.rd (R.CE_SLOT_STATUS_CONSEC s) == 0

/-- A cause has gone away (R479). -/
def Mach.causeAbsent (m : Mach) (n : Fin 16) (c : Nat) : Bool :=
  if c = cGmeas then m.locked n
  else if c = cFdllink then m.on (R.FE_FDL_STATUS_LINK n) && m.on (R.FE_FDL_STATUS_READY n)
  else if c = cNocor then m.on (R.FE_COR_STATUS_VALID n)
  else if c = cFrame then m.frameAxisOk n
  else if c = cLoopmiss then m.loopsOk n
  else if c = cLalm then !m.fe[n].lch.alm
  else if c = cLrdy then m.fe[n].lch.rdy
  else if c = cGlobal then m.rd R.SAF_GSTAT_CAUSE == 0
  else if c = fAxfault then (List.finRange 8).all fun a => !m.axis[a].faulty
  else true

/-- The resume window has expired (R481). -/
def Mach.winOver (m : Mach) (n : Fin 16) : Bool :=
  m.rd R.SAF_RWIN != 0 && decide (m.fe[n].fs.td + m.rd R.SAF_RWIN * msTicks ≤ m.mt)

/-- The first condition of R480 that fails; 0 with none. -/
def Mach.resumeReason (m : Mach) (n : Fin 16) (force : Bool) : Nat :=
  if m.inFs n ∧ !m.on (R.SAF_FS_STATUS_RECOV n) then 1
  else if !(m.fe[n].fs.causes.all fun c => m.causeAbsent n c) then 2
  else if m.rd R.SAF_GSTAT_CAUSE ≠ 0 then 3
  else if !m.on (R.SAF_FS_STATUS_CKOK n) ∨ !m.on (R.SAF_FS_STATUS_LEDOK n) then 4
  else if m.inFs n ∧ m.winOver n ∧ !force then 5
  else if m.on (R.SAF_FS_STATUS_DOUBT n) ∧ !(m.pins[n].gen && m.locked n) then 6
  else if m.mode ≠ modeReady ∧ m.mode ≠ modeArmed then 7
  else if !m.inFs n then 8 else 0

/-- Payload of a RESUME record: field, FORCE, GUAR, the instant, the time from t_d (R487). -/
def resumePayload (n : Nat) (force guar : Bool) (t el : Nat) : List Byte :=
  leBytes 1 n ++ leBytes 1 (bool01 force) ++ leBytes 1 (bool01 guar) ++ leBytes 1 0 ++ leBytes 8 t ++
  leBytes 8 el ++ List.replicate 12 0

/-- FAULTED and SUSPENDED contexts become READY (R115, R484). -/
def CtxRec.resumed (r : CtxRec) (t : Nat) : CtxRec :=
  if r.st = .faulted ∨ r.st = .suspended then { r with st := .ready, readyAt := t, wait := none, stopReq := false }
  else r

/-- The field after an accepted RESUME: the plan is to be rebuilt from the stop point (R484, R485). -/
def Field.resumed (f : Field) (t : Nat) : Field :=
  { f with ctx := f.ctx.map fun r => r.resumed t
           reentry := some f.fs, plan := [], emit := none, inRun := false }

/-- An accepted RESUME (R484). -/
def Mach.resumeNow (m : Mach) (n : Fin 16) (force : Bool) : Mach :=
  let fs := m.fe[n].fs
  let p := resumePayload n force (!m.winOver n) m.mt (m.mt - fs.td)
  let lserr := fs.causes.contains cLserr
  let m := (m.setField n (m.fe[n].resumed m.mt)).leaveFs n
  let m := m.wrs [(R.FE_FAULT_CAUSE n, 0), (R.FE_FAULT_CTX n, 0), (R.FE_FAULT_BYCTX n, 0),
    (R.FE_FAULT_PC_LO n, 0), (R.FE_FAULT_PC_HI n, 0), (R.SAF_FS_STATUS_DOUBT n, 0)]
  let m := (m.inc (R.SAF_FS_RESUMES n)).raiseP 13 0 p
  if lserr then m.corReload n else m

/-- A write of RESUME in SAF_FS_n (R480). -/
def Mach.resume (m : Mach) (n : Fin 16) (force : Bool) : Mach :=
  let r := m.resumeReason n force
  if r = 0 then m.resumeNow n force
  else (m.wrs [(R.SAF_FS_STATUS_REFUSED n, 1), (R.SAF_FS_STATUS_RREASON n, r)]).raise 13 1 n 0

/-- RESUME_WINDOW_EXPIRE (R481). -/
def Mach.windowExpire (m : Mach) (n : Fin 16) : Mach :=
  if m.inFs n ∧ m.winOver n ∧ !m.on (R.SAF_FS_STATUS_WINEXP n) then
    (m.wr (R.SAF_FS_STATUS_WINEXP n) 1).raise 14 0 n 0
  else m

/-- GENREL: GEN_n rises; the override ends at the next ST boundary (R482). -/
def Mach.genrel (m : Mach) (n : Fin 16) : Mach :=
  { m with pins := m.pins.set n { m.pins[n] with gen := true
                                                 genAt := if m.pins[n].gen then m.pins[n].genAt else nextSt m.mt }
           regs := rwr m.regs (R.SAF_FS_STATUS_GEN n) 1 }

/-- A write of SAF_FS_n_CMD. -/
def Mach.fsCmd (m : Mach) (n : Fin 16) (v : Nat) : Mach :=
  let m := if bits v 2 2 = 1 then m.genrel n else m
  if bits v 0 0 = 1 then m.resume n (bits v 1 1 == 1) else m

end Sys2Proof.Machine
end

