-- ==== Sys2Proof/Machine/PWrite.lean ====
section
/-! DEFINITION. Writes to the registers marked P, from the host and from SETREG (01, 05, 06, 11). -/
namespace Sys2Proof.Machine

/-! ## Pushes to an axis queue (R333) -/

/-- Speed in QSPD. -/
def Mach.qspd (m : Mach) (a : Fin 8) : Nat := m.rd (R.AXE_AX_QSPD a)

/-- A move, or a relative move, from QTGT and QSPD. -/
def Mach.pushMove (m : Mach) (a : Fin 8) (rel : Bool) : Mach :=
  m.axPush a (m.qspd a == 0) fun x => x.appendMove rel (m.rdS (R.AXE_AX_QTGT a)) (m.qspd a)

/-- A raw segment from QTGT, SEGDUR and SEGVEL. -/
def Mach.pushRaw (m : Mach) (a : Fin 8) : Mach :=
  m.axPush a (m.rd (R.AXE_AX_SEGDUR a) == 0) fun x =>
    x.appendRaw (m.rd (R.AXE_AX_SEGDUR a)) (m.rdS (R.AXE_AX_QTGT a)) (m.rdS (R.AXE_AX_SEGVEL a))

/-- A write of QPUSH. -/
def Mach.qpush (m : Mach) (a : Fin 8) (v : Nat) : Mach :=
  match v % 4 with
  | 1 => m.pushMove a false
  | 2 => m.pushMove a true
  | 3 => m.pushRaw a
  | _ => m

/-- A write of CMD of an axis. -/
def Mach.axCmd (m : Mach) (a : Fin 8) (v : Nat) : Mach :=
  match v % 8 with
  | 1 => m.axHome a
  | 2 => m.axStopCmd a
  | 3 => m.axFlush a
  | 4 => m.axClrf a
  | 5 => m.axSetpos a
  | _ => m

/-- The offset of an axis register within its axis, for the axis registers with P. -/
def Mach.axisWrite (m : Mach) (a : Fin 8) (o : Nat) (addr : Nat) (v : Word) : Mach :=
  match o with
  | 0x04 => m.axEnable a (v.getLsbD 0)
  | 0x08 => m.axCmd a v.toNat
  | 0x14 => m.qpush a v.toNat
  | 0x2C => m.writeSdec a v
  | _ => m.applyWrite addr v

/-- Field index of an address in the FE blocks. -/
def feIx (a : Nat) : Fin 16 := ⟨(a - 0x800000) / 0x40000 % 16, Nat.mod_lt _ (by decide)⟩

/-- Offset of an address within its field engine. -/
def feOff (a : Nat) : Nat := (a - 0x800000) % 0x40000

/-- Slot index of an address in the slot registers. -/
def slotIx (a : Nat) : Fin 160 := ⟨(a - 0x401000) / 0x40 % 160, Nat.mod_lt _ (by decide)⟩

/-- Axis index of an address in the axis registers. -/
def axIx (a : Nat) : Fin 8 := ⟨(a - 0xF01000) / 0x100 % 8, Nat.mod_lt _ (by decide)⟩

/-- A write of the value `v` to a register with a field marked P (R9, R103). -/
def Mach.pWrite (m : Mach) (a : Nat) (v : Word) : Mach :=
  if 0x401000 ≤ a ∧ a < 0x403800 then
    if (a - 0x401000) % 0x40 = 0x14 ∧ v.getLsbD 0 then m.swapRequest (slotIx a) else m.applyWrite a v
  else if 0x800000 ≤ a ∧ a < 0xC00000 then
    if feOff a = 0x280C then m.frameHold (feIx a) (some v)
    else if feOff a = 0x2810 then (if v.getLsbD 0 then m.frameLatch (feIx a) else m)
    else m.applyWrite a v
  else if 0xF01000 ≤ a ∧ a < 0xF01800 then
    m.axisWrite (axIx a) ((a - 0xF01000) % 0x100) a v
  else m.applyWrite a v

/-- SETREG: the bits under the mask take the value (R103). -/
def Mach.setreg (m : Mach) (a : Nat) (v mask : Word) : Mach :=
  if mask = 0 then m else m.pWrite a ((m.word a &&& ~~~ mask) ||| (v &&& mask))

end Sys2Proof.Machine
end

