-- ==== Sys2Proof/Machine/Front.lean ====
section
/-! DEFINITION. Reach and retire: the effects of instructions, waits, the emission front (03, 04). -/
namespace Sys2Proof.Machine

/-! ## Retire (R76, R133 to R136) -/

/-- Records of a field's trace ring. -/
def Mach.traceCap (m : Mach) (n : Fin 16) : Nat := 2 ^ (10 + min 14 (m.rd (R.FE_TRC_CTRL_SIZE n)))

/-- The 32 bytes of a retire trace record (R135). -/
def Mach.traceRec (m : Mach) (n : Fin 16) (c : Fin 8) (pc : Addr) (i : TInstr) (taken : Bool) : List Byte :=
  let f := m.fe[n]
  leBytes 8 m.mt ++ leBytes 8 (pc.toNat + c * 2 ^ 36 + bool01 taken * 2 ^ 39 + opc i * 2 ^ 40) ++
  leBytes 4 (unsigned 32 (f.spot m.mt).1) ++ leBytes 4 (unsigned 32 (f.spot m.mt).2.1) ++
  leBytes 4 (m.rd (R.FE_CTX_LAYER n c)) ++ leBytes 4 f.traceSeq.toNat

/-- A retire is traced, or its record is dropped (R135, R136). -/
def Mach.trace (m : Mach) (n : Fin 16) (c : Fin 8) (pc : Addr) (i : TInstr) (taken : Bool) : Mach :=
  let w := m.rd (R.FE_TRC_WPTR n)
  if !m.on (R.FE_TRC_CTRL_EN n) || !m.on (R.FE_CTX_CTRL_TRACE n c) then m
  else if m.on R.THM_STATUS_SHED || ringFull (m.traceCap n) w (m.rd (R.FE_TRC_RPTR n)) then
    m.inc (R.FE_TRC_LOST n)
  else
    ((m.dmaWrite 3 n (m.addr (R.FE_TRC_BASE_LO n) (R.FE_TRC_BASE_HI n) + 32 * w) (m.traceRec n c pc i taken)).wr
      (R.FE_TRC_WPTR n) (ringNext (m.traceCap n) w)).modField n fun f => { f with traceSeq := f.traceSeq + 1 }

/-- Snapshots of the front, newest first, without what no statistics can reach (R231). -/
def keepSnaps (t : Nat) : List Snap → List Snap
  | [] => []
  | s :: l => if s.at_ + histTicks < t then [s] else s :: keepSnaps t l

/-- What stands at the front is kept for the statistics (R231). -/
def Mach.noteFront (m : Mach) (n : Fin 16) : Mach :=
  let f := m.fe[n]
  let c := f.owner.getD f.lastOwner
  let s : Snap :=
    { at_ := m.mt, pc := f.ctx[c].ret.pc, owner := f.owner
      layer := BitVec.ofNat 32 (m.rd (R.FE_CTX_LAYER n c)), mode := f.lch.poolMode, nopool := f.lch.nopool
      knopool := f.lch.knopool, khold := f.lch.khold, stat := f.lch.poolStat, target := f.lch.poolTarget }
  m.setField n { f with hist := s :: keepSnaps m.mt f.hist }

/-- An instruction is counted and its state becomes the retired state (R73, R76). -/
def Mach.retired (m : Mach) (x : Ctx) (i : TInstr) (after : PState) (taken : Bool) : Mach :=
  let r := m.ctx x
  let m := m.setCtx x { r with ret := after, wait := none, retired := r.retired + 1 }
  match x with
  | .fe n c => (m.trace n c r.ret.pc i taken).noteFront n
  | _ => m

/-! ## Context faults (R80, R81) -/

/-- A fault of an FE context: a field fault, of which another context may be the owner (R115). -/
def Mach.feFault (m : Mach) (n : Fin 16) (c : Fin 8) (code : Nat) : Mach :=
  let own := m.fe[n].owner.getD m.fe[n].lastOwner == c
  let m := m.fieldFault n code own false
  if own then m
  else m.setCtx (.fe n c) { m.fe[n].ctx[c] with st := .faulted, fcode := BitVec.ofNat 8 code, wait := none }

/-- A context raises a fault. -/
def Mach.ctxFault (m : Mach) (x : Ctx) (code : Nat) : Mach :=
  match x with
  | .fe n c => m.feFault n c code
  | .coo c => (m.setCtx x { m.ctx x with st := .faulted, fcode := BitVec.ofNat 8 code, wait := none }).raise
      (160 + c) code c 0
  | .axe a => (m.setCtx x { m.ctx x with st := .faulted, fcode := BitVec.ofNat 8 code, wait := none }).axisFault
      a code true

/-! ## Signals (R97 to R99) -/

def Mach.sigOn (m : Mach) (s : BitVec 7) : Bool := m.signals.getLsbD s.toNat

/-- The signal table with one signal changed. -/
def setBit (t : BitVec 128) (k : Nat) (v : Bool) : BitVec 128 :=
  if v then t ||| BitVec.ofNat 128 (2 ^ k) else t &&& ~~~ BitVec.ofNat 128 (2 ^ k)

/-- A change of the local copy. -/
def Mach.putSig (m : Mach) (s : BitVec 7) (v : Bool) : Mach := { m with signals := setBit m.signals s.toNat v }

/-- SIG sets or clears a signal; a change of a ring signal goes to the ring (R426). -/
def Mach.sigSet (m : Mach) (s : BitVec 7) (v : Bool) : Mach :=
  let m := m.putSig s v
  if 64 ≤ s.toNat then { m with rng := { m.rng with chg := m.rng.chg ++ [(m.mt, s.toNat, v)] } } else m

/-- The program event of a context (R98). -/
def Mach.progEvent (m : Mach) (x : Ctx) (s : BitVec 7) : Mach :=
  match x with
  | .fe n _ => m.raise (96 + n) (0x8000 + s.toNat) n 0
  | .coo c => m.raise (160 + c) (0x8000 + s.toNat) c 0
  | .axe a => m.raise (144 + a) (0x8000 + s.toNat) a 0

/-- A SIG retires. -/
def Mach.sigEffect (m : Mach) (x : Ctx) (clr evt : Bool) (s : BitVec 7) : Mach :=
  let m := m.sigSet s (!clr)
  if evt then m.progEvent x s else m

/-- The port and stream of a context's own memory writes. -/
def ctxPort : Ctx → Fin 12 × Nat
  | .fe n _ => (3, n)
  | .coo _ => (2, 16)
  | .axe _ => (2, 17)

/-- The fence word is written (R98). -/
def Mach.fenceWrite (m : Mach) (x : Ctx) (fval : Word) (a : Addr) : Mach :=
  m.dmaWrite (ctxPort x).1 (ctxPort x).2 a.toNat (leBytes 4 fval.toNat)

/-! ## Starting and stopping contexts (R106, R114 to R116) -/

/-- A context started at an address (R73). -/
def CtxRec.started (r : CtxRec) (st : CtxSt) (pc : Addr) (t : Nat) : CtxRec :=
  { r with st := st, ret := .init pc, wait := none, stopReq := false, readyAt := t, khold := 0x4000 }

/-- An idle context is started, with no tokens: READY in a field, running at once elsewhere (R73). -/
def Mach.startCtx (m : Mach) (x : Ctx) (pc : Addr) : Mach :=
  (m.dropTokens x).setCtx x ((m.ctx x).started (match x with | .fe .. => .ready | _ => .active) pc m.mt)

/-- Fields named in a mask. -/
def fieldsOf (mask : BitVec 16) : List (Fin 16) := (List.finRange 16).filter fun n => mask.getLsbD n

/-- Every selected context is idle (R106, R107). -/
def Mach.allIdle (m : Mach) (mask : BitVec 16) (c : BitVec 3) : Bool :=
  (fieldsOf mask).all fun n => ctxIdle (m.ctx (.fe n c.toFin)).st

/-- The start PC of an entry of a start table: one of more than 36 bits is out of service as it stands, and
its low bits are taken with bit 35 set, which is out of service too (R70, log entry 114). -/
def entryPc (v : Nat) : Addr := if v < 2 ^ 36 then BitVec.ofNat 36 v else BitVec.ofNat 36 v ||| 0x800000000#36

/-- The start PC of a field in a start table: a free value where the entry cannot be read. -/
def Mach.startPc (m : Mach) (a : Addr) (n : Fin 16) : Addr :=
  if m.poisoned (a.toNat + 8 * n) 8 then BitVec.setWidth 36 (Config.freeWord (m.free + n))
  else entryPc (m.le (a.toNat + 8 * n) 8)

/-- FSTART starts the contexts it names. -/
def Mach.fstart (m : Mach) (mask : BitVec 16) (c : BitVec 3) (a : Addr) : Mach :=
  let m := (fieldsOf mask).foldl (fun (m : Mach) (n : Fin 16) => m.startCtx (.fe n c.toFin) (m.startPc a n)) m
  { m with free := m.free + 16 }

/-- With no context ACTIVE or READY the galvo comes to rest along the stop ramp of the point (R121). -/
def Mach.parkGalvo (m : Mach) (n : Fin 16) : Mach :=
  if (List.finRange 8).any fun c => m.fe[n].ctx[c].st == .active || m.fe[n].ctx[c].st == .ready then m
  else
    let ramp := m.stopSeg n m.mt
    m.modField n fun f => f.brake ramp

/-- A context of a field no longer owns emission or waits for it: its kept plan goes, the galvo parks. -/
def Mach.leftEmission (m : Mach) (x : Ctx) : Mach :=
  match x with
  | .fe n c => ((m.modField n fun f => { f with keptPlans := f.keptPlans.filter fun k => k.ctx ≠ c }).parkGalvo n).noteFront n
  | _ => m

/-- A context ends: HALTED, its tokens free (R86, R116). -/
def Mach.haltCtx (m : Mach) (x : Ctx) : Mach :=
  ((m.setCtx x { m.ctx x with st := .halted, wait := none, stopReq := false }).dropTokens x).leftEmission x

/-! ## Effects at retire -/

/-- The SETPOOL of a context comes into force (R216, R217). -/
def Mach.setPool' (m : Mach) (n : Fin 16) (c : Fin 8) (target : BitVec 16) (stat : BitVec 4) (mode : BitVec 2) : Mach :=
  let f := m.fe[n]
  let k := BitVec.ofNat 16 (f.lch.keff m.mt)
  let kh := if mode = 2 then k else f.ctx[c].khold
  let m := m.setField n { (f.setCtx c { f.ctx[c] with khold := kh }) with
    lch := f.lch.setPool mode stat target kh }
  m.noteFront n

/-- LAYEREND (R86). -/
def Mach.layerEnd (m : Mach) (x : Ctx) : Mach :=
  match x with
  | .fe n c => ((m.inc (R.FE_CTX_LAYER n c)).setCtx x { m.ctx x with st := .layerDone, wait := none, stopReq := false }).leftEmission x
  | .coo c =>
    let k := m.cooLayer + 1
    { m with cooLayer := k }.raise (160 + c) 0x4000 k.toNat 0
  | .axe _ => m

/-- The operations of LEDGER that act on the ledger (R104, R272, R273). -/
def Mach.ledgerOp (m : Mach) (x : Ctx) (op : BitVec 4) (factor : BitVec 16) (a : Addr) : Mach :=
  match op.toNat with
  | 0 => m.ledgerClear
  | 1 => m.ledgerCarry factor.toNat
  | 2 => m.ledgerExport x a
  | _ => m

/-- Triggers of SNAP (R110). -/
def Mach.snap (m : Mach) (cmask : BitVec 4) (delay : Word) : Mach :=
  (List.finRange 4).foldl (fun (m : Mach) (i : Fin 4) =>
    if cmask.getLsbD i then m.trigPush ⟨16 + i, by omega⟩ (m.mt + max delay.toNat 2000) else m) m

/-- AXMOVE appends its move (R108). -/
def Mach.axAppend (m : Mach) (rel : Bool) (a : BitVec 3) (target speed : Word) : Mach :=
  m.setAxis a.toFin (m.axis[a.toFin].appendMove rel target.toInt speed.toNat)

/-- What an instruction does outside the planner when it retires (R74). -/
def Mach.effect (m : Mach) (x : Ctx) : TInstr → Mach
  | .halt => m.haltCtx x
  | .layerend => m.layerEnd x
  | .setpool t stat mode => match x with
    | .fe n c => m.setPool' n c t stat mode
    | _ => m
  | .sig clr evt fence s fval a =>
    (if fence then m.fenceWrite x fval a else m).sigEffect x clr evt s
  | .waitsig clr wclr s _ => if clr && !wclr then m.putSig s false else m
  | .claim t _ => m.take x t.toNat
  | .release t => m.freeTok t.toNat
  | .setreg off v mask => m.setreg (4 * off.toNat) v mask
  | .ledger op _ factor a => m.ledgerOp x op factor a
  | .fstart mask c a => m.fstart mask c a
  | .axmove rel a target speed => m.axAppend rel a target speed
  | .snap cmask delay => m.snap cmask delay
  | .flip lmask => m.flipRequest lmask
  | .exportImage q len a => match x with
    | .coo c => m.pushOpen (d2h q.toFin) c len.toNat a.toNat
    | _ => m
  | _ => m

/-! ## Conditions (R84, R98 to R101, R107 to R111) -/

/-- The energy index that BRC class 3 tests (R271). -/
def Mach.spotEnergy (m : Mach) (n : Fin 16) : Nat :=
  let b := m.bedAt n m.mt
  match m.cellOf b.1 b.2 with
  | some k => m.energy k m.mt
  | none => 0

/-- The condition of a BRC at this instant, before TEST. -/
def Mach.brcCond (m : Mach) (x : Ctx) (cls : BitVec 4) (idx : Byte) (value : Word) : Bool :=
  match cls.toNat with
  | 1 => m.sigOn (idx.setWidth 7)
  | 2 => m.pool[ctxField x % 16]'(Nat.mod_lt _ (by decide)) |>.flags.getLsbD idx.toNat
  | 3 => decide (value.toNat % 65536 ≤ m.spotEnergy ⟨ctxField x % 16, Nat.mod_lt _ (by decide)⟩)
  | _ => axCode (m.axis[idx.toNat % 8]'(Nat.mod_lt _ (by decide))).st == value.toNat % 16

/-- The outcome of a BRC. -/
def Mach.brcTaken (m : Mach) (x : Ctx) (cls : BitVec 4) (idx : Byte) (test : BitVec 4) (value : Word) : Bool :=
  m.brcCond x cls idx value != (test == 1)

/-- The outcome of an instruction: of a BRC, its branch. -/
def Mach.outcome (m : Mach) (x : Ctx) : TInstr → Bool
  | .brc _ cls idx test _ value => m.brcTaken x cls idx test value
  | _ => false

/-- Axes named in a mask. -/
def axesOf (mask : Byte) : List (Fin 8) := (List.finRange 8).filter fun a => mask.getLsbD a

/-- A fault that the instruction meets as it is reached or as it waits (R101, R106, R108, R109). -/
def Mach.reachFault (m : Mach) (x : Ctx) : TInstr → Option Nat
  | .release t => if m.holds x t.toNat then none else some fToken
  | .fstart mask c _ => if m.allIdle mask c then none else some fCtxbusy
  | .axmove _ a _ _ => if m.axis[a.toFin].faulty then some fAxfault else none
  | .axwait mask _ => if (axesOf mask).any fun a => m.axis[a].faulty then some fAxfault else none
  | _ => none

/-- The wait that an instruction begins when it is reached, with its timeout in ms. -/
def Mach.waitOf (m : Mach) : TInstr → Option (WaitK × Nat)
  | .waitt abs t => if t = 0 then none else some (.waitt (if abs then nearest32 m.mt t.toNat else m.mt + t.toNat), 0)
  | .waitsig clr wclr s lim => some (.waitsig s clr wclr, lim.toNat)
  | .claim t lim => some (.claim t, lim.toNat)
  | .fwait mask c lim => some (.fwait mask c, lim.toNat)
  | .axwait mask lim => some (.axwait mask, lim.toNat)
  | .sig clr evt true s fval a => some (.fence s clr evt fval a, 0)
  | .axmove rel a target speed => some (.axroom rel a target speed, 0)
  | .exportImage q len a => some (.exportWrites q len a, 0)
  | _ => none

/-- What a context waits for has come. -/
def Mach.waitMet (m : Mach) (x : Ctx) : WaitK → Bool
  | .waitt til => decide (til ≤ m.mt)
  | .waitsig s _ wclr => m.sigOn s != wclr
  | .claim t => m.holder t.toNat == none || m.holds x t.toNat
  | .fence .. => (m.ctx x).writes == 0
  | .fwait mask c => m.allIdle mask c
  | .axwait mask => (axesOf mask).all fun a => m.axis[a].queue.isEmpty && axResting m.axis[a].st
  | .axroom _ a _ _ => decide (m.axis[a.toFin].queue.length < axDepth)
  | .exportWrites q _ _ => (m.ctx x).writes == 0 && m.pushRoom (d2h q.toFin)
  | .exportRoom q _ _ => m.pushRoom (d2h q.toFin)

/-! ## The front of a field (R126, R130, R133) -/

/-- The front leaves the point where it stands. -/
def Field.leavePoint (f : Field) : Field := { f with atCk := none }

/-- The front arrives at the point after an entry, whose checkpoint, if there is one, is the next. -/
def Field.arrive (f : Field) (t : Nat) (ck : Bool) : Field :=
  if ck then { f with atCk := f.ckpts.head?.map fun c => (t, c), ckpts := f.ckpts.drop 1 }
  else { f with atCk := none }

/-- An entry with no segments. -/
def bareEntry (st : PState) (i : TInstr) (fault : Option Byte) (after : PState) (taken : Bool) : PlanEntry :=
  { pc := st.pc, ins := i, fault := fault, segs := [], before := st, after := after, taken := taken
    first := true, last := true, ck := false, idx := 0, stopdec := 0 }

/-- The plan up to its entry number `j`, which turns out to be a fault; planning stops there. -/
def Field.faultAt (f : Field) (j : Nat) (code : Nat) : Field :=
  match f.plan.drop j with
  | [] => f
  | e :: _ =>
    let keep := f.plan.take j
    let cks := keep.countP fun e => e.ck || (match e.ins with | .brc h .. => h != 2 | _ => false)
    { f with
      plan := keep ++ [{ bareEntry e.before e.ins (some (BitVec.ofNat 8 code)) e.before false with first := e.first }]
      ckpts := f.ckpts.take cks, pl := e.before, legs := [], barrier := false
      planEnd := (e.segs.head?.map (·.t0)).getD f.planEnd }

/-- With a moving frame, segments whose instants have shifted are checked for ownership again (R243). -/
def Mach.recheck (m : Mach) (n : Fin 16) : Mach :=
  if !m.on R.TRL_CTRL_EN || m.frmSrc n == 0 then m
  else match m.fe[n].plan.findIdx? fun e => !m.segsOwned n e.segs with
    | some j => m.modField n fun f => f.faultAt j cNotowner
    | none => m

/-- The planned instants slip: summaries are replaced, and ownership is checked again (R243, R249). -/
def Mach.slip (m : Mach) (n : Fin 16) (t : Nat) : Mach :=
  let f := m.fe[n]
  match f.planStart with
  | some s => if s < t then (m.setField n ((f.slipTo t).republish m.mt)).recheck n else m
  | none => m

/-- The entry at the front of the plan is done with. -/
def Field.popEntry (f : Field) : Field := { f with plan := f.plan.drop 1, emit := none }

/-- Ticks of path that the galvo kernel can look back on, with a margin. -/
def pastTicks : Nat := 3300000

/-- Emitted segments join the past of the plan; what the kernel cannot reach is dropped. -/
def Field.toPast (f : Field) (t : Nat) (l : List PSeg) : Field :=
  let all := l.reverse ++ f.past
  let keep := all.filter fun s => decide (t ≤ s.t0 + s.seg.dur + pastTicks)
  match keep.getLast?, decide (keep.length < all.length) with
  | some s, true => { f with past := keep, restX := s.x0, restY := s.y0, restZ := s.z0 }
  | _, _ => { f with past := keep }

/-- The galvo leaves its stop ramp for a new plan, which starts where the ramp ended (R138). -/
def Field.offRamp (f : Field) (t0 : Nat) : Field :=
  match f.planFrom with
  | some _ => f
  | none =>
    let e : Int × Int × Int := match f.ramp with
      | some r => (r.seg.x1, r.seg.y1, r.seg.z1)
      | none => (f.spotX, f.spotY, f.spotZ)
    { f with ramp := none, planFrom := some t0, restX := e.1, restY := e.2.1, restZ := e.2.2 }

/-- What the spot ran along, without what nothing looks back to. -/
def keepTrail (t : Nat) : List (PSeg × Nat) → List (PSeg × Nat)
  | [] => []
  | p :: l => if p.2 + histTicks < t then [p] else p :: keepTrail t l

/-- Emission of an entry's segments begins at `t0` (R133). -/
def Field.begin' (f : Field) (t0 now : Nat) (e : PlanEntry) (on : Bool) : Field :=
  let f := f.leavePoint.offRamp t0
  let l := f.lch
  let l := if e.first then { l with knopool := BitVec.ofNat 16 (l.keff now), nopool := hasNopool e.ins } else l
  let l := l.setGint t0 on
  let l := if on && e.last && !e.after.laserOn then l.setGint (t0 + segsDur e.segs) false else l
  let l := match f.reentry with
    | some r => if on && r.inRun then { l with rampAt := some t0, rampLen := 800 * e.after.ramp.toNat } else l
    | none => l
  let keep : Bool := match f.reentry with
    | some r => !on && r.inRun
    | none => false
  { f with
    fresh := false, keptPlans := [], stopdec := e.stopdec
    trail := (e.segs.reverse.map fun s => (s, s.t0 + s.seg.dur)) ++ keepTrail now f.trail
    emit := some t0, inRun := on, runAt := if on then none else f.runAt
    emitted := if on && f.inRun then f.emitted else []
    reentry := if keep then f.reentry else none
    lastProf := (e.segs.head?.map (·.seg.mprof)).getD f.lastProf
    lastMat := (e.segs.head?.map (·.seg.mat)).getD f.lastMat
    lch := l }

/-- The segments of the entry at the front have been emitted: the spot stands at their end. -/
def Field.finish (f : Field) (t : Nat) (e : PlanEntry) : Field :=
  let f := f.toPast t e.segs
  match e.segs.getLast? with
  | some s =>
    { f with
      spotX := s.seg.x1, spotY := s.seg.y1, spotZ := s.seg.z1, lastProf := s.seg.mprof, lastMat := s.seg.mat
      emitted := if s.seg.laser then f.emitted ++ e.segs else []
      inRun := s.seg.laser && (!e.last || e.after.laserOn)
      lch := if e.last then { f.lch with nopool := false } else f.lch }
  | none => { f with inRun := f.inRun && e.after.laserOn }

/-- Priority of a context. -/
def Mach.prio (m : Mach) (n : Fin 16) (c : Fin 8) : Nat := m.rd (R.FE_CTX_CTRL_PRIO n c)

/-- The READY context of highest priority, the lower number first (R117). -/
def Mach.bestReady (m : Mach) (n : Fin 16) : Option (Fin 8) :=
  (List.finRange 8).foldl (fun (b : Option (Fin 8)) (c : Fin 8) =>
    if m.fe[n].ctx[c].st = .ready then
      match b with
      | none => some c
      | some d => if m.prio n d < m.prio n c then some c else b
    else b) none

/-- A READY context of strictly higher priority became READY before the front reached the switch point
at which it stands (R118). -/
def Mach.switchDue (m : Mach) (n : Fin 16) (c : Fin 8) : Bool :=
  match m.fe[n].atCk with
  | none => false
  | some (t, _) => (List.finRange 8).any fun d =>
      m.fe[n].ctx[d].st == .ready && decide (m.prio n c < m.prio n d) && decide (m.fe[n].ctx[d].readyAt ≤ t)

/-- The front stands at a laser-off point that it must not pass: HOLD, a STOP, or a switch. -/
def Mach.frontHeld (m : Mach) (n : Fin 16) (c : Fin 8) : Bool :=
  !m.fe[n].ctx[c].ret.laserOn && (m.pstate == 1 || m.fe[n].ctx[c].stopReq || m.switchDue n c)

/-- Emission of the entry at the front begins. -/
def Mach.beginEntry (m : Mach) (n : Fin 16) (t0 : Nat) (e : PlanEntry) (on : Bool) : Mach :=
  (m.modField n fun f => f.begin' t0 m.mt e on).noteFront n

/-- The laser-off path at the front begins: at its planned instant, or now after a dwell (R124, R126). -/
def Mach.beginOff (m : Mach) (n : Fin 16) (e : PlanEntry) : Mach × Bool :=
  let m := if m.fe[n].dwell.isSome then (m.dwellEnd n).slip n m.mt else m
  match m.fe[n].planStart with
  | some t0 => if t0 ≤ m.mt then (m.beginEntry n t0 ((m.fe[n].plan.head?).getD e) false, true) else (m, false)
  | none => (m, false)

/-! ## Reaching an instruction -/

/-- A barrier is reached: planning past it restarts, and the plan is ready again later (R79, R139). -/
def Field.reachBarrier (f : Field) (t : Nat) (i : TInstr) : Field :=
  match isBarrier i, i with
  | true, .halt => { f with barrier := false }
  | true, .layerend => { f with barrier := false }
  | true, _ => { f with barrier := false, replan := some ⟨.barrier, t, t, none⟩ }
  | false, _ => f

/-- The planner's frontier moves with a front that stands at it. -/
def Field.follow (f : Field) (st : PState) : Field := if f.plan.isEmpty then { f with pl := st } else f

/-- An instruction of a field's owner retires at the front: `e` is its entry. -/
def Mach.retireEntry (m : Mach) (n : Fin 16) (c : Fin 8) (e : PlanEntry) : Mach :=
  let m := (m.effect (.fe n c) e.ins).retired (.fe n c) e.ins e.after e.taken
  let m := m.modField n fun f =>
    ((f.popEntry.arrive m.mt e.ck).reachBarrier m.mt e.ins).follow e.after
  if isBarrier e.ins && m.fe[n].replan.isSome then m.dwellIn n 0 else m

/-- A BRC resolves against its hint: the plan is squashed, and the other path is planned (R137). -/
def Mach.mispredict (m : Mach) (n : Fin 16) (ck : Ckpt) : Mach :=
  let ramp := m.stopSeg n m.mt
  let m := (m.modField n fun f =>
    let b := f.brake ramp
    { (b.squash.republish m.mt) with
      atCk := f.atCk, pl := ck.alt, prefetch := ck.prefetch, ckAt := m.mt
      replan := some ⟨.squash, m.mt, b.rampEnd m.mt, none⟩ }).inc (R.FE_SQUASH n)
  m.dwellIn n 0

/-- A BRC of a field is reached: its outcome, and the squash where the hint was wrong (R84, R137). -/
def Mach.resolve (m : Mach) (n : Fin 16) (c : Fin 8) (e : PlanEntry) : Mach :=
  let taken := m.outcome (.fe n c) e.ins
  let after := m.after m.fe[n].ctx[c].ret e.ins taken
  if isBarrier e.ins then
    (m.retireEntry n c { e with after := after, taken := taken }).modField n fun f => { f with pl := after }
  else
    let ck := m.fe[n].ckpts.head?
    let m1 := m.retireEntry n c { e with after := after, taken := taken, ck := true }
    match ck with
    | some k => if taken = e.taken then m1 else m1.mispredict n k
    | none => m1

/-- The code of a wait in WAITK. -/
def waitCode : WaitK → Nat
  | .waitt _ => 1
  | .waitsig .. => 2
  | .claim _ => 3
  | _ => 0

/-- A wait begins (R98 to R101): a field's context gives up emission where YIELD says so, at a wait of
R113 (R119). -/
def Mach.beginWait (m : Mach) (x : Ctx) (i : TInstr) (k : WaitK) (timeout : Nat) : Mach :=
  let r := m.ctx x
  let w : Wait := { k := k, reached := m.mt, timeout := timeout, held := 0, ins := i }
  match x with
  | .fe n c =>
    let gives := m.on (R.FE_CTX_CTRL_YIELD n c) && waitCode k != 0
    let m := m.setCtx x { r with wait := some w, st := if gives then .waiting else .active }
    let m := m.modField n fun f =>
      let g := f.reachBarrier m.mt i
      { g with yielded := if gives then some c else none, lastOwner := c
               replan := if gives then none else g.replan }
    if gives then (m.parkGalvo n).noteFront n else m
  | _ => m.setCtx x { r with wait := some w }

/-- The wait at the head of a kept plan is over. -/
def Kept.pass (k : Kept) (t : Nat) (ck : Bool) (after : PState) : Kept :=
  let k := { k with plan := k.plan.drop 1, atCk := none }
  let k := if ck then { k with atCk := k.ckpts.head?.map fun c => (t, c), ckpts := k.ckpts.drop 1 } else k
  if k.plan.isEmpty then { k with pl := after } else k

/-- The instruction at which a field's context waits retires (R119, R124). -/
def Mach.retireWaitFe (m : Mach) (n : Fin 16) (c : Fin 8) (w : Wait) : Mach :=
  let r := m.fe[n].ctx[c]
  let f := m.fe[n]
  let own : Bool := r.st == .active || f.yielded == some c
  let e := if own then f.plan.head? else (f.keptPlans.find? fun k => k.ctx == c).bind (·.plan.head?)
  let after := (e.map (·.after)).getD (m.after r.ret w.ins false)
  let ck := (e.map (·.ck)).getD false
  let m := (m.effect (.fe n c) w.ins).retired (.fe n c) w.ins after false
  if r.st = .waiting then
    m.modField n fun f =>
      let f := f.setCtx c { f.ctx[c] with st := .ready, readyAt := m.mt }
      if f.yielded = some c then (f.popEntry.arrive m.mt ck).follow after
      else { f with keptPlans := f.keptPlans.map fun k => if k.ctx = c then k.pass m.mt ck after else k }
  else
    let m := m.modField n fun f => (f.popEntry.arrive m.mt ck).follow after
    let m := m.slip n m.mt
    if m.fe[n].replan.isSome then m.dwellIn n 0 else m

/-- The wait of a context ends: its instruction retires. -/
def Mach.retireWait (m : Mach) (x : Ctx) (w : Wait) : Mach :=
  match x with
  | .fe n c => m.retireWaitFe n c w
  | _ => (m.effect x w.ins).retired x w.ins (m.after (m.ctx x).ret w.ins false) false

/-- Waits that other happenings end at once: signals, tokens, fields, axes, queues. -/
def wakes : WaitK → Bool
  | .waitt _ | .fence .. => false
  | _ => true

/-- The context's wait ends now, or a fault meets it. -/
def Mach.wakeable (m : Mach) (x : Ctx) : Bool :=
  match (m.ctx x).wait with
  | none => false
  | some w => wakes w.k && (m.waitMet x w.k || (m.reachFault x w.ins).isSome)

/-- The wakeable context that was reached first (R99, R101). -/
def Mach.firstWake (m : Mach) : Option Ctx :=
  (allCtx.foldl (fun (b : Option (Nat × Ctx)) (x : Ctx) =>
    if m.wakeable x then
      let t := ((m.ctx x).wait.map (·.reached)).getD 0
      match b with
      | some (u, _) => if t < u then some (t, x) else b
      | none => some (t, x)
    else b) none).map (·.2)

/-- A wakeable context goes on. -/
def Mach.wakeCtx (m : Mach) (x : Ctx) : Mach :=
  match (m.ctx x).wait with
  | none => m
  | some w =>
    match m.reachFault x w.ins with
    | some code => m.ctxFault x code
    | none => m.retireWait x w

/-- Wakes contexts in order. -/
def Mach.wakeLoop : Nat → Mach → Mach
  | 0, m => m
  | fuel + 1, m =>
    match m.firstWake with
    | none => m
    | some x => Mach.wakeLoop fuel (m.wakeCtx x)

/-- Some context waits. -/
def Mach.someWaits (m : Mach) : Bool := allCtx.any fun x => (m.ctx x).wait.isSome

/-- Waits whose condition has come end, in order (R99, R101). -/
def Mach.wakeAll (m : Mach) : Mach := if m.someWaits then Mach.wakeLoop 144 m else m

/-- An instruction that is not a motion is reached at the front of a field. -/
def Mach.reachFe (m : Mach) (n : Fin 16) (c : Fin 8) (e : PlanEntry) : Mach :=
  match m.reachFault (.fe n c) e.ins with
  | some code => m.feFault n c code
  | none =>
    match e.ins, m.waitOf e.ins with
    | .brc .., _ => m.resolve n c e
    | _, some (k, lim) =>
      if m.waitMet (.fe n c) k then m.retireEntry n c e else m.beginWait (.fe n c) e.ins k lim
    | _, none => m.retireEntry n c e

/-- The fault that the planner found is raised when the front reaches it (R80). -/
def Mach.raiseFound (m : Mach) (n : Fin 16) (c : Fin 8) (code : Nat) : Mach :=
  if code = cNocor then m.fieldFault n cNocor false false
  else if code = cNotowner then m.notOwner n
  else m.feFault n c code

/-- Segments at the front whose emission has ended leave the plan; the instruction retires with its last
ones (R133). -/
def Mach.finishEntry (m : Mach) (n : Fin 16) (c : Fin 8) (e : PlanEntry) : Mach :=
  let m := m.modField n fun f => f.finish m.mt e
  if e.last then m.retireEntry n c e else m.modField n fun f => f.popEntry

/-- The front may go on: no wait, no fail-safe, no replan that is not over. -/
def Mach.frontRuns (m : Mach) (n : Fin 16) (c : Fin 8) : Bool :=
  decide (modeReady ≤ m.mode) && m.fe[n].ctx[c].st == .active && m.fe[n].ctx[c].wait.isNone && !m.inFs n &&
  (match m.fe[n].replan with
   | none => true
   | some r => match r.go with
     | some g => decide (g ≤ m.mt)
     | none => false)

/-- A replan whose instant has come is over: the plan starts there (R138). -/
def Mach.passReplan (m : Mach) (n : Fin 16) : Mach :=
  match m.fe[n].replan with
  | some r => match r.go with
    | some g =>
      let m := (m.modField n fun f => { f with replan := none }).slip n g
      if (m.fe[n].dwell.map (·.2)) = some 0 then m.dwellClose n g else m
    | none => m
  | none => m

/-- Laser-on segments stand at the front, and the front is not in the run. -/
def Mach.atRunStart (m : Mach) (n : Fin 16) : Bool :=
  match m.fe[n].plan with
  | e :: _ => (e.segs.head?.map (·.seg.laser)) == some true && m.fe[n].emit.isNone && !m.fe[n].inRun
  | [] => false

/-- The front may stop at the instruction: a wait, a barrier, or a SIG with a fence (R133). -/
def stopsFront (i : TInstr) : Bool :=
  isBarrier i || isWait i || (match i with | .sig _ _ fence .. => fence | _ => false)

/-- With no segment emitted since the grant, the front reaches a point when the first segment after it begins,
or when a wait, a barrier or a fault stands there (R133, R138). -/
def openFront (t : Nat) : List PlanEntry → Bool
  | [] => false
  | e :: l =>
    match e.segs with
    | s :: _ => !s.seg.laser && decide (s.t0 ≤ t)
    | [] => e.fault.isSome || stopsFront e.ins || openFront t l

/-- The front may reach the point at which it stands. -/
def Mach.reaches (m : Mach) (n : Fin 16) : Bool :=
  !m.fe[n].fresh || openFront m.mt (m.fe[n].live m.mt).plan

/-- One move of the front of a field; `false` when it can go no further now. -/
def Mach.frontStep (m : Mach) (n : Fin 16) (c : Fin 8) : Mach × Bool :=
  let f := m.fe[n]
  match f.plan with
  | [] => (m, false)
  | e :: _ =>
    if f.emit.isSome then
      (if (f.motionEnd.getD 0) ≤ m.mt then (m.finishEntry n c e, true) else (m, false))
    else if e.first && m.frontHeld n c then (if m.pstate = 1 then m.dwellIn n 3 else m, false)
    else
      match e.fault with
      | some code => (m.raiseFound n c code.toNat, false)
      | none =>
        match e.segs with
        | [] =>
          if !m.reaches n then (m, false)
          else if isMotion e.ins then ((m.modField n fun f => f.finish m.mt e).retireEntry n c e, true)
          else (m.reachFe n c e, true)
        | s :: _ =>
          if s.seg.laser then
            if f.inRun then (m.beginEntry n s.t0 e true, true)
            else match f.runAt with
              | some t0 => if t0 ≤ m.mt then (m.beginEntry n s.t0 e true, true) else (m, false)
              | none => (m, false)
          else m.beginOff n e

/-- The front of a field goes as far as it can at this instant. -/
def Mach.frontGo (n : Fin 16) (c : Fin 8) : Nat → Mach → Mach
  | 0, m => m
  | fuel + 1, m =>
    if !m.frontRuns n c then m
    else
      let r := (m.passReplan n).frontStep n c
      if r.2 then Mach.frontGo n c fuel r.1.wakeAll else r.1

/-- The front of a field is moved on. -/
def Mach.front (m : Mach) (n : Fin 16) : Mach :=
  match m.fe[n].owner with
  | some c => Mach.frontGo n c (3 * m.fe[n].plan.length + 3) m
  | none => m

/-! ## Coordinator and axis contexts (R143) -/

/-- A COO or AXE context reaches its next instruction. -/
def Mach.ctxRuns (m : Mach) (x : Ctx) : Bool :=
  decide (modeReady ≤ m.mode) && (m.ctx x).st == .active && (m.ctx x).wait.isNone && m.pstate == 0 &&
  m.rd R.SAF_GSTAT_CAUSE == 0

/-- The state after an instruction of a COO or AXE context: the coordinator goes on after LAYEREND (R86). -/
def Mach.afterSeq (m : Mach) (x : Ctx) (st : PState) (i : TInstr) (taken : Bool) : PState :=
  match i with
  | .layerend => if ctxEng x = .coo then PState.fall { st with spin := 0 } i else m.after st i taken
  | _ => m.after st i taken

/-- An instruction of a COO or AXE context is reached, having passed the checks on its words. -/
def Mach.reachSeq (m : Mach) (x : Ctx) (i : TInstr) : Mach :=
  match m.reachFault x i with
  | some code => m.ctxFault x code
  | none =>
    let taken := m.outcome x i
    let after := m.afterSeq x (m.ctx x).ret i taken
    match m.waitOf i with
    | some (k, lim) => if m.waitMet x k then (m.effect x i).retired x i after taken else m.beginWait x i k lim
    | none => (m.effect x i).retired x i after taken

/-- An instruction at the PC of a COO or AXE context. -/
def Mach.seqIns (m : Mach) (x : Ctx) (i : TInstr) : Mach :=
  match m.wordFault x (m.ctx x).ret i with
  | some code => m.ctxFault x code
  | none => m.reachSeq x i

/-- A COO or AXE context goes through its program until it waits. -/
def Mach.seqGo (x : Ctx) : Nat → Mach → Mach
  | 0, m => m
  | fuel + 1, m =>
    if !m.ctxRuns x then m
    else
      match m.fetch (ctxEng x) [] (m.ctx x).ret.pc with
      | .error code => m.ctxFault x code
      | .ok i => Mach.seqGo x fuel (m.seqIns x i).wakeAll

/-! ## Ends of waits -/

/-- WAITT_EXPIRE: the hold of a WAITT ends (R100). -/
def Mach.waittExpire (m : Mach) (x : Ctx) : Mach :=
  match (m.ctx x).wait with
  | some w => match w.k with
    | .waitt til => if til ≤ m.mt then m.retireWait x w else m
    | _ => m
  | none => m

/-- SIG_FENCE_COMPLETE: the context's earlier writes are complete (R98). -/
def Mach.fenceComplete (m : Mach) (x : Ctx) : Mach :=
  match (m.ctx x).wait with
  | some w => match w.k with
    | .fence .. => if m.waitMet x w.k then m.retireWait x w else m
    | _ => m
  | none => m

/-- The writes before an EXPORT are complete: it is handed over, or waits for room (R111). -/
def Mach.exportWrites (m : Mach) (c : Fin 8) : Mach :=
  let x := Ctx.coo c
  match (m.ctx x).wait with
  | some w => match w.k with
    | .exportWrites q len a =>
      if (m.ctx x).writes ≠ 0 then m
      else if m.waitMet x w.k then m.retireWait x w
      else m.setCtx x { m.ctx x with wait := some { w with k := .exportRoom q len a } }
    | _ => m
  | none => m

/-- WAIT_TIMEOUT: a wait's TIMEOUT has passed at a management tick boundary (R99). -/
def Mach.waitTimeout (m : Mach) (x : Ctx) : Mach :=
  match (m.ctx x).wait with
  | some w =>
    if w.timeout ≠ 0 ∧ m.mt % mgmtTick = 0 ∧ w.reached + w.timeout * msTicks + w.held ≤ m.mt ∧ m.pstate ≠ 1 then
      m.ctxFault x fTimeout
    else m
  | none => m

end Sys2Proof.Machine
end

