-- ==== Sys2Proof/Machine/Course.lean ====
section
/-! DEFINITION. The courses of planned motions: legs, speed and joint limits, the splitting of curves, and the
checks of the galvo and deflector paths (05). -/
namespace Sys2Proof.Machine

/-! ## Vectors; velocities in 2^−24 BU per tick -/

def norm2 (v : Int × Int) : Int := v.1 * v.1 + v.2 * v.2
def dot (u v : Int × Int) : Int := u.1 * v.1 + u.2 * v.2
def cross (u v : Int × Int) : Int := u.1 * v.2 - u.2 * v.1

/-- Length of a vector, 2^−20 of its unit, rounded down. -/
def len20 (v : Int × Int) : Nat := isqrt (norm2 v * 2 ^ 40).toNat

/-- Length of a vector in its unit, rounded down. -/
def vlen (v : Int × Int) : Nat := isqrt (norm2 v).toNat

/-- Component of a vector along a direction, rounded. -/
def alongDir (d v : Int × Int) : Int := roundAway (dot d v * 2 ^ 20) (max 1 (len20 d))

/-- `v` points along `d`, to within the rounding of its components. -/
def parallel (d v : Int × Int) : Bool := decide (cross d v * cross d v ≤ norm2 d ∧ 0 ≤ dot d v)

/-- A speed of 16.8 mm/s. -/
def speedUnits (v : Nat) : Nat := v * 2 ^ 24 / 3200000

/-! ## Limits of a motion profile (R149, R152) -/

/-- AMAX in m/s², JMAX in km/s³, DVMAX in 16.8 mm/s. -/
structure Limits where
  acc : Nat
  jerk : Nat
  dv : Nat
  deriving DecidableEq, Repr

def Mach.limits (m : Mach) (n : Fin 16) (k : Nat) : Limits :=
  ⟨m.rd (R.FE_PROF_AMAX n k), m.rd (R.FE_PROF_JMAX n k), m.rd (R.FE_PROF_DVMAX n k)⟩

/-- What the rounding of a segment's end points to the BU and of its duration by half a tick can add to three
times the way made (R148). -/
def roundSlack (v0 v1 : Int) : Int := 3 * 2 ^ 24 + 3 * (v0.natAbs + v1.natAbs)

/-- A phase of `d` ticks over a way `s` (2^−24 BU), with speeds `v0` and `v1` at its ends: its cubic keeps
speed, acceleration and jerk within their limits, but for rounding (R148, R149). -/
def phaseOk (lim : Limits) (cap d : Nat) (s v0 v1 : Int) : Bool :=
  let e := roundSlack v0 v1
  let D : Int := d
  -- the middle control speed of the quadratic speed, times the duration
  let c := 3 * s - (v0 + v1) * D
  let a : Int := lim.acc * 2 ^ 24 * (D + 1) ^ 2 + 2 * e * 10 ^ 10
  let j : Int := lim.jerk * 2 ^ 24 * (D + 1) ^ 3 + 4 * e * (8 * 10 ^ 15)
  decide (0 ≤ v0 + 1 ∧ 0 ≤ v1 + 1 ∧ v0 ≤ cap + 1 ∧ v1 ≤ cap + 1 ∧ -e ≤ c ∧ c ≤ cap * D + e) &&
  decide (2 * (c - v0 * D).natAbs * 10 ^ 10 ≤ a ∧ 2 * (v1 * D - c).natAbs * 10 ^ 10 ≤ a) &&
  decide (2 * (v0 * D - 2 * c + v1 * D).natAbs * (8 * 10 ^ 15) ≤ j)

/-- A piece of a curve of `d` ticks with chord `s`, its arc at most a hundredth longer: the speeds at its ends,
the mean speed and the change of speed keep their limits, but for rounding (R148, R149). -/
def pieceOk (lim : Limits) (cap d : Nat) (s v0 v1 : Int) : Bool :=
  let e := roundSlack v0 v1
  let D : Int := d
  let a : Int := lim.acc * 2 ^ 24
  decide (v0 ≤ cap + 2 ∧ v1 ≤ cap + 2 ∧ s ≤ cap * D + e) &&
  decide ((v1 - v0).natAbs * 10 ^ 10 ≤ a * (D + 1) + 2 * 10 ^ 10) &&
  decide (2 * (s - v0 * D) * 10 ^ 10 ≤ a * (D + 1) ^ 2 + 2 * e * 10 ^ 10) &&
  decide (2 * (v0 * D - s * 101 / 100) * 10 ^ 10 ≤ a * (D + 1) ^ 2 + 2 * e * 10 ^ 10)

/-! ## Curves (R90, R91, R148) -/

/-- r·θ⁴ / 384 ≤ ARCTOL for a radius of 2^−40 BU and an angle of 2^−48 turns. -/
def chordOk (tol r a : Nat) : Bool :=
  decide (r * (4 * halfPi * a) ^ 4 ≤ 384 * tol * 2 ^ 40 * 2 ^ 576)

/-- Segments of an ARC: the smallest number whose angle is at most 1/16 turn and keeps the tolerance. -/
def arcPieces (tol r : Nat) (sweep : Int) : Nat :=
  let a := sweep.natAbs * 2 ^ 32
  ((List.range 1024).find? fun n => n ≠ 0 && decide (a ≤ n * 2 ^ 44) && chordOk (n ^ 4 * tol) r a).getD 1024

/-- The start vector of an ARC turned by k of n parts of its sweep, 2^−96 BU. -/
def arcVec (vx vy sweep : Int) (n k : Nat) : Int × Int :=
  let cs := trig (sweep.natAbs * k) (65536 * max 1 n)
  let s := if sweep < 0 then -cs.2 else cs.2
  (vx * cs.1 - vy * s, vx * s + vy * cs.1)

/-- A quarter turn in the sense of a sweep. -/
def quarter (sweep : Int) (v : Int × Int) : Int × Int := if sweep < 0 then (v.2, -v.1) else (-v.2, v.1)

/-- Radius of a SPIRAL after an angle, 2^−40 BU: linear in the angle. -/
def spiralR (r0 r1 : Nat) (sweep : Int) (a : Nat) : Nat :=
  ((r0 : Int) + ((r1 : Int) - r0) * a / (max 1 (sweep.natAbs * 2 ^ 32) : Nat)).toNat

/-- The angle of a SPIRAL's next segment: the largest that keeps the tolerance over the larger radius of the
segment, 1/16 turn and the sweep. -/
def spiralPiece (tol r0 r1 : Nat) (sweep : Int) (done : Nat) : Nat :=
  let top := min (2 ^ 44) (sweep.natAbs * 2 ^ 32 - done)
  let ok (x : Nat) : Bool := chordOk tol (max (spiralR r0 r1 sweep done) (spiralR r0 r1 sweep (done + x))) x
  max 1 ((List.range 45).foldl (fun x i => let y := x + 2 ^ (44 - i); if y ≤ top ∧ ok y then y else x) 0)

/-- The direction of a SPIRAL at an angle. -/
def spiralDir (u : Int × Int) (r0 r1 : Nat) (sweep : Int) (a : Nat) : Int × Int :=
  let e := turn48 u (if sweep < 0 then -(a : Int) else a)
  let q := quarter sweep e
  let r : Int := spiralR r0 r1 sweep a
  -- dr/dφ per radian
  let g : Int := ((r1 : Int) - r0) * 2 ^ 112 / (max 1 (sweep.natAbs * 4 * halfPi) : Nat)
  (g * e.1 + r * q.1, g * e.2 + r * q.2)

/-! ## Legs (R87 to R92, R149) -/

/-- A straight leg, none where it has no length. -/
def lineLeg (on : Bool) (v : Nat) (p q : Int × Int) : List Leg :=
  if p = q then [] else [⟨on, .line p.1 p.2 0, q.1, q.2, q.1 - p.1, q.2 - p.2, v, false⟩]

/-- Straight legs through points. -/
def lineLegs (on : Bool) (v : Nat) : Int × Int → List (Int × Int) → List Leg
  | _, [] => []
  | p, q :: t => lineLeg on v p q ++ lineLegs on v q t

/-- A leg at rest. -/
def restLeg (on : Bool) (p : Int × Int) (ticks : Option Nat) : Leg := ⟨on, .rest ticks, p.1, p.2, 0, 0, 0, false⟩

/-- The points of a POLY in bed coordinates, with the closing one; up to a poisoned entry (R92). -/
def Mach.polyPath (m : Mach) (st : PState) (rel close : Bool) (n : Nat) (a : Nat) : List (Int × Int) :=
  let k := ((List.range n).find? fun i => m.poisoned (a + 8 * i) 8).getD n
  let pts := (m.polyPts a k).foldl (fun (l : List (Word × Word)) q =>
    let p := l.headD (st.px, st.py)
    (if rel then (p.1 + q.1, p.2 + q.2) else q) :: l) []
  let l := (if close && k == n then (st.px, st.py) :: pts else pts).reverse
  l.map fun q => (q.1.toInt, q.2.toInt)

/-- The laser-on legs of an emitting instruction from a point. -/
def Mach.bodyLegs (m : Mach) (n : Fin 16) (st : PState) (i : TInstr) (p : Int × Int) : List Leg :=
  let k := st.mprof.toNat
  let v := min st.mspeed.toNat (m.rd (R.FE_PROF_VMARK n k))
  let e := m.endPoint st i
  let fin : Int × Int := (e.1.toInt, e.2.toInt)
  let tol := max 1 (m.rd (R.FE_PROF_ARCTOL n k))
  match i with
  | .arc _ rel _ sw cx cy =>
    let c : Int × Int := ((relPt rel st.px cx).toInt, (relPt rel st.py cy).toInt)
    let u := (p.1 - c.1, p.2 - c.2)
    let d := quarter sw.toInt u
    [⟨true, .arc c.1 c.2 u.1 u.2 sw.toInt (arcPieces tol (isqrt (norm2 u * 2 ^ 80).toNat) sw.toInt) 0, fin.1, fin.2,
      d.1, d.2, v, false⟩]
  | .spiral _ rel _ sw cx cy rend =>
    let c : Int × Int := ((relPt rel st.px cx).toInt, (relPt rel st.py cy).toInt)
    let u := (p.1 - c.1, p.2 - c.2)
    let w := unitOf u.1 u.2
    let r0 := isqrt (norm2 u * 2 ^ 80).toNat
    let d := spiralDir w r0 (rend.toNat * 2 ^ 40) sw.toInt 0
    [⟨true, .spiral c.1 c.2 w.1 w.2 r0 (rend.toNat * 2 ^ 40) sw.toInt 0, fin.1, fin.2, d.1, d.2, v, false⟩]
  | .poly _ rel _ close cnt a => lineLegs true v p (m.polyPath st rel close cnt.toNat a.toNat)
  | _ => lineLeg true v p fin

/-- The dwell of an instruction executed as a DOT (R88, R89). -/
def dotDwell (st : PState) : TInstr → Nat
  | .dot _ _ curd d _ _ => if curd then st.dwell.toNat else d.toNat
  | _ => st.dwell.toNat

/-- The instruction is a DOT or is executed as one. -/
def isDot (st : PState) : TInstr → Bool
  | .dot .. => true
  | i => asDot st i

/-- The legs of a motion instruction from where the spot stands: a straight laser-off move where one is
needed, a settle hold where the run needs one, then the instruction's own course.  A re-entry begins at
`re` and runs along the path already emitted (R88 to R92, R120, R161, R485). -/
def Mach.legsOf (m : Mach) (n : Fin 16) (st : PState) (i : TInstr) (p : Int × Int) (re : Option (Int × Int)) : List Leg :=
  let k := st.mprof.toNat
  let voff := min st.jspeed.toNat (m.rd (R.FE_PROF_VJUMP n k))
  let von := min st.mspeed.toNat (m.rd (R.FE_PROF_VMARK n k))
  let e := m.endPoint st i
  let fin : Int × Int := (e.1.toInt, e.2.toInt)
  match i with
  | .jump .. => lineLeg false voff p fin
  | _ =>
    let start : Int × Int := re.getD (if isDot st i then fin else (st.px.toInt, st.py.toInt))
    let body :=
      match re with
      | some _ => [⟨true, .along, fin.1, fin.2, 0, 0, von, false⟩]
      | none =>
        if isDot st i then (if dotDwell st i = 0 then [] else [restLeg true fin (some (dotDwell st i))])
        else m.bodyLegs n st i start
    lineLeg false voff p start ++ (if body.isEmpty then [] else if st.laserOn then body else restLeg false start none :: body)

/-! ## Segments of a leg (R146 to R150) -/

/-- Where a segment planned next starts, and the motion profile of the one before it. -/
structure SegFrom where
  t0 : Nat
  x : Int
  y : Int
  vx : Int
  vy : Int
  z : Int
  pow : BitVec 16
  prof : Option Nat
  deriving DecidableEq, Repr

/-- The velocity with which a leg of direction `d` begins, at the speed of what comes before it (R150). -/
def jointVel (d v : Int × Int) : Int × Int :=
  if d = (0, 0) then (0, 0)
  else if parallel d v then v
  else
    let s : Int := vlen v
    (roundAway (d.1 * s * 2 ^ 20) (max 1 (len20 d)), roundAway (d.2 * s * 2 ^ 20) (max 1 (len20 d)))

/-- Where a leg that has not begun starts. -/
def SegFrom.enter (a : SegFrom) (l : Leg) : SegFrom :=
  if l.begun then a
  else
    match l.course with
    | .along => { a with vx := 0, vy := 0 }
    | _ => let v := jointVel (l.dx, l.dy) (a.vx, a.vy); { a with vx := v.1, vy := v.2 }

/-- The joint into a leg: the velocity changes in one step of at most DVMAX, of both profiles, at no more
than the speed of the leg; into rest it may step to 0 (R150). -/
def jointOk (dv : Nat) (a : SegFrom) (l : Leg) : Bool :=
  let b := a.enter l
  let d := (b.vx - a.vx, b.vy - a.vy)
  l.begun || (decide (norm2 d ≤ ((speedUnits dv + 2 : Nat) : Int) ^ 2) &&
    decide (vlen (b.vx, b.vy) ≤ speedUnits l.v + 2))

/-- A leg after a segment of it: `none` is not a segment of it; `some none` completes it.  A segment that
ends where the leg ends may be its last, or the last but phases without a way.  `most` is the number of
phases that a straight line may have: seven, and two more for each lowered joint (R148, R159). -/
def Leg.after (lim : Limits) (tol most : Nat) (l : Leg) (a : SegFrom) (s : Seg) : List (Option Leg) :=
  let v0 := (a.vx, a.vy)
  let v1 := (s.vx1, s.vy1)
  let w := (s.x1 - a.x, s.y1 - a.y)
  let cap := speedUnits l.v
  let atEnd := s.x1 == l.x1 && s.y1 == l.y1
  let go (c : Course) : Option Leg := some { l with course := c, begun := true }
  if s.laser != l.on then []
  else
    match l.course with
    | .rest (some d) =>
      if atEnd && v1 == (0, 0) && w == (0, 0) && decide (s.dur ≤ d) then [if s.dur = d then none else go (.rest (some (d - s.dur)))]
      else []
    | .rest none => if v1 == (0, 0) && w == (0, 0) && s.dur % fineTick == 0 then [none] else []
    | .line x0 y0 k =>
      let d := (l.x1 - x0, l.y1 - y0)
      let q := (s.x1 - x0, s.y1 - y0)
      if decide (k < most) && parallel d v1 && decide (cross d q * cross d q ≤ norm2 d) &&
          phaseOk lim cap s.dur (alongDir d w * 2 ^ 24) (alongDir d v0) (alongDir d v1) then
        (if atEnd then [none, go (.line x0 y0 (k + 1))] else [go (.line x0 y0 (k + 1))])
      else []
    | .arc cx cy vx vy sweep n k =>
      let u := arcVec vx vy sweep n (k + 1)
      let p := (cx + roundAway u.1 (2 ^ 96), cy + roundAway u.2 (2 ^ 96))
      if (if k + 1 = n then atEnd else s.x1 == p.1 && s.y1 == p.2) && parallel (quarter sweep u) v1 &&
          pieceOk lim cap s.dur (len20 w * 2 ^ 4) (vlen v0) (vlen v1) then
        [if k + 1 = n then none else go (.arc cx cy vx vy sweep n (k + 1))]
      else []
    | .spiral cx cy ux uy r0 r1 sweep done =>
      let next := done + spiralPiece tol r0 r1 sweep done
      let last := decide (sweep.natAbs * 2 ^ 32 ≤ next)
      let p := polarPt cx cy (ux, uy) (if sweep < 0 then -(next : Int) else next) (spiralR r0 r1 sweep next)
      if (if last then atEnd else s.x1 == p.1 && s.y1 == p.2) &&
          parallel (spiralDir (ux, uy) r0 r1 sweep next) v1 && pieceOk lim cap s.dur (len20 w * 2 ^ 4) (vlen v0) (vlen v1) then
        [if last then none else go (.spiral cx cy ux uy r0 r1 sweep next)]
      else []
    | .along => if atEnd then [none, go .along] else [go .along]

/-- The legs with which a segment may begin: a settle hold may be left out. -/
def openLegs : List Leg → List (Leg × List Leg)
  | [] => []
  | l :: t =>
    if l.course = .rest none then (l, t) :: (match t with | q :: u => [(q, u)] | [] => [])
    else [(l, t)]

/-- A segment of the plan with what it starts from. -/
def SegFrom.seg (a : SegFrom) (pc : Addr) (c : Fin 8) (frm : FrmPred) (wamp : Nat) (s : Seg) : PSeg :=
  { t0 := a.t0, x0 := a.x, y0 := a.y, vx0 := a.vx, vy0 := a.vy, z0 := a.z, pow0 := a.pow
    seg := { s with ckpt := false }, pc := pc, ctx := c, frm := frm, wamp := if s.laser && s.wobble then wamp else 0 }

/-- Where the segment after `s` starts. -/
def SegFrom.next (a : SegFrom) (s : Seg) : SegFrom :=
  ⟨a.t0 + s.dur, s.x1, s.y1, s.vx1, s.vy1, s.z1, s.pow1, some s.mprof⟩

/-- The segments run along the legs from a start: the segments with their starts, and the legs left. -/
def Mach.runLegs (m : Mach) (n : Fin 16) (lim : Limits) (tol most : Nat) (mk : SegFrom → Seg → PSeg) :
    List Seg → List Leg → SegFrom → Option (List PSeg × List Leg)
  | [], legs, _ => some ([], legs)
  | s :: t, legs, a =>
    (openLegs legs).findSome? fun p =>
      let b := a.enter p.1
      let dv := match a.prof with
        | some k => min lim.dv (m.rd (R.FE_PROF_DVMAX n k))
        | none => lim.dv
      if !jointOk dv a p.1 then none
      else (p.1.after lim tol most b s).findSome? fun q =>
        (Mach.runLegs m n lim tol most mk t (match q with | some l => l :: p.2 | none => p.2) (b.next s)).map fun r =>
          (mk b s :: r.1, r.2)

/-- Only a settle hold, which may be left out, is left. -/
def legsDone (l : List Leg) : Bool := l.all fun q => q.course == .rest none

/-! ## What the path beyond lets through (R151) -/

/-- The legs of the program beyond a point, with their profiles, and whether the path then rests: at a
wait, a barrier, a fault or the end of the look. -/
def Mach.beyond (m : Mach) (n : Fin 16) (c : Fin 8) : Nat → PState → List (Leg × Nat) × Bool
  | 0, _ => ([], false)
  | fuel + 1, st =>
    match m.fetch .fe m.fe[n].prefetch st.pc with
    | .error _ => ([], true)
    | .ok i =>
      if (m.wordFault (.fe n c) st i).isSome then ([], true)
      else if isMotion i then
        let l := m.legsOf n st i (st.px.toInt, st.py.toInt) none
        let r := Mach.beyond m n c fuel (m.after st i false)
        (l.map (fun q => (q, st.mprof.toNat)) ++ r.1, r.2)
      else if isBarrier i || (m.waitOf i).isSome then ([], true)
      else Mach.beyond m n c fuel (m.after st i (match i with | .brc h .. => h == 1 | _ => false))

/-- DVMAX into rest, squared. -/
def restMax (dv : Nat) : Int := ((speedUnits dv + 2 : Nat) : Int) ^ 2

/-- The largest speed, squared, from one straight leg into the next: the step is at most DVMAX. -/
def turnMax (dv : Nat) (p q : Leg) : Option Int :=
  let d := (p.dx, p.dy)
  let e := (q.dx, q.dy)
  let l : Int := len20 d * len20 e
  let den := 2 * l - 2 * dot d e * 2 ^ 40
  match p.course, q.course with
  | .line .., .line .. => if den ≤ 0 then none else some (restMax dv * (l + 1) / den + 1)
  | _, _ => none

def minO (a b : Option Int) : Option Int :=
  match a, b with
  | some x, some y => some (min x y)
  | none, y => y
  | x, none => x

/-- The backward pass: the largest speed, squared, with which the legs can be entered so that every joint
beyond keeps its speed within AMAX (R150, R151); none where nothing bounds it. -/
def Mach.entryMax (m : Mach) (n : Fin 16) (rest : Bool) (dv0 : Nat) : List (Leg × Nat) → Option Int
  | [] => if rest then some (restMax dv0) else none
  | (l, k) :: t =>
    let lim := m.limits n k
    match l.course with
    | .rest none => Mach.entryMax m n rest dv0 t
    | .rest (some _) => some (restMax lim.dv)
    | _ =>
      let out := minO (Mach.entryMax m n rest lim.dv t) (match t with | q :: _ => turnMax lim.dv l q.1 | [] => none)
      let way : Int := (len20 (l.x1 - (match l.course with | .line x _ _ => x | _ => l.x1),
        l.y1 - (match l.course with | .line _ y _ => y | _ => l.y1)) * 2 ^ 4 : Nat)
      let cap : Int := ((speedUnits l.v + 2 : Nat) : Int) ^ 2
      match l.course with
      | .line .. => minO (some cap) (out.map fun w => w + 2 * (lim.acc * 2 ^ 24 * way / 10 ^ 10) + 2 ^ 24)
      | _ => some cap

/-- The end velocity of a motion can be continued along what the program holds beyond it (R150, R151). -/
def Mach.exitOk (m : Mach) (n : Fin 16) (dv : Nat) (v : Int × Int) (b : List (Leg × Nat) × Bool) : Bool :=
  (match m.entryMax n b.2 dv b.1 with
   | some w => decide (norm2 v ≤ w)
   | none => true) &&
  (match b.1.find? fun l => l.1.course != .rest none with
   | some l =>
     let u := jointVel (l.1.dx, l.1.dy) v
     decide (norm2 (u.1 - v.1, u.2 - v.2) ≤ restMax (min dv (m.rd (R.FE_PROF_DVMAX n l.2))))
   | none => true)

/-! ## The galvo and deflector checks (R159 to R161) -/

/-- J⁻¹ of a galvo-unit difference at a bed point, BU; none where J has no inverse (R156). -/
def CorTable.toBed (c : CorTable) (x y : Int) (g : Rat × Rat) : Option (Rat × Rat) :=
  let j := c.jacobian x y
  let k : Rat := 2 ^ 82 * c.pitch
  let a : Rat := j.1.1 / k
  let b : Rat := j.1.2 / k
  let cc : Rat := j.2.1 / k
  let d : Rat := j.2.2 / k
  let det := a * d - b * cc
  if det = 0 then none else some ((d * g.1 - b * g.2) / det, (a * g.2 - cc * g.1) / det)

/-- Both axes of a vector lie within a bound. -/
def within2 (w : Rat) : Option (Rat × Rat) → Bool
  | some e => decide (rabs e.1 ≤ w) && decide (rabs e.2 ≤ w)
  | none => true

/-- The galvo path at a fine tick of a plan keeps GVMAX, GAMAX and GJMAX, bed-equivalent (R159). -/
def Mach.galvoOk (m : Mach) (n : Fin 16) (f : Field) (c : CorTable) (t : Nat) : Bool :=
  let k := f.profileAt t
  let b := m.bedOf n f t
  let g0 := m.smoothed n f (t - fineTick)
  let g1 := m.smoothed n f t
  let g2 := m.smoothed n f (t + fineTick)
  let g3 := m.smoothed n f (t + 2 * fineTick)
  let v : Rat × Rat := ((g2.1 - g0.1) / 2, (g2.2.1 - g0.2.1) / 2)
  let a : Rat × Rat := (g2.1 - 2 * g1.1 + g0.1, g2.2.1 - 2 * g1.2.1 + g0.2.1)
  let j : Rat × Rat := (g3.1 - 3 * g2.1 + 3 * g1.1 - g0.1, g3.2.1 - 3 * g2.2.1 + 3 * g1.2.1 - g0.2.1)
  within2 ((m.rd (R.FE_PROF_GVMAX n k) : Rat) / 40000) (c.toBed b.1 b.2.1 v) &&
  within2 ((m.rd (R.FE_PROF_GAMAX n k) : Rat) * 6400 / 10 ^ 10) (c.toBed b.1 b.2.1 a) &&
  within2 ((m.rd (R.FE_PROF_GJMAX n k) : Rat) * 512000 / (8 * 10 ^ 15)) (c.toBed b.1 b.2.1 j)

/-- The planned deflection at a laser-on fine tick keeps DRANGE − FEMARGIN on each bed axis (R160). -/
def Mach.deflOk (m : Mach) (n : Fin 16) (f : Field) (c : CorTable) (t : Nat) : Bool :=
  match f.segOn t with
  | some (s, _) =>
    if !s.seg.laser then true
    else
      let k := f.profileAt t
      let b := m.bedOf n f t
      let q := m.kernelQ n f t
      let g := m.smoothed n f t
      let w := (m.setField n f).wobble n t
      let room : Int := (clampN 1 4096 (m.rd (R.FE_PROF_RANGE_DRANGE n k)) : Int) - m.rd (R.FE_PROF_RANGE_FEMARGIN n k)
      match c.toBed b.1 b.2.1 ((q.1 : Rat) - g.1, (q.2.1 : Rat) - g.2.1) with
      | some e => within2 room (some (e.1 / 64 + w.1, e.2 / 64 + w.2))
      | none => true
  | none => true

/-- Fine ticks of [a, b). -/
def fineTicks (a b : Nat) : List Nat :=
  let k := (a + fineTick - 1) / fineTick
  (List.range ((b + fineTick - 1) / fineTick - k)).map fun i => (k + i) * fineTick

/-- Every fine tick of [a, b) of a plan passes the checks of the split (R159, R160). -/
def Mach.splitOk (m : Mach) (n : Fin 16) (f : Field) (a b : Nat) : Bool :=
  match f.cor with
  | some c => (fineTicks a b).all fun t => m.galvoOk n f c t && m.deflOk n f c t
  | none => true

/-- The first laser-on fine tick of a plan at or after `a` passes R160. -/
def Mach.runTickOk (m : Mach) (n : Fin 16) (f : Field) (a : Nat) : Bool :=
  match f.cor with
  | some c => m.deflOk n f c (ceilTo fineTick a)
  | none => true

/-- The stretch of a plan that can be judged: from where the kernel first reached beyond the old plan to where
it reaches the end of the new one, or to that end where the path rests there (R151). -/
def Mach.judged (m : Mach) (n : Fin 16) (f : Field) (old : Nat) (rest : Bool) : Nat × Nat :=
  let e := f.pathEnd
  let s := (f.pathSegs.head?.map (·.t0)).getD e
  let w := 80 * (m.kernelN n f old - 1)
  (max s (old - w), if rest then e else e - 80 * (m.kernelN n f e - 1))

end Sys2Proof.Machine
end

