-- ==== Sys2Proof/Machine/Planner.lean ====
section
/-! DEFINITION. The planner, the run start, ownership of emission, commands to contexts (04, 05). -/
namespace Sys2Proof.Machine

/-! ## Plan buffer and planning (R112, R122, R123) -/

/-- Segments in the plan buffer that have not been emitted. -/
def Field.segsLeft (f : Field) (t : Nat) : Nat :=
  (f.plan.flatMap (·.segs)).countP fun s => decide (t < s.t0 + s.seg.dur)

def planCap : Nat := 32768
def ckptCap : Nat := 256

/-- Checkpoints in use. -/
def Field.ckUsed (f : Field) : Nat := f.ckpts.length + bool01 f.atCk.isSome

/-- The last chunk planned is not the last of its instruction (R123). -/
def Field.openIns (f : Field) : Option PlanEntry :=
  match f.plan.getLast? with
  | some e => if e.last then none else some e
  | none => none

/-- The laser is on where the planner stands: it is inside a run (R126). -/
def Field.onPlanned (f : Field) : Bool := (f.openIns.map (·.after.laserOn)).getD f.pl.laserOn

/-- The instruction that the planner decodes next. -/
def Mach.nextIns (m : Mach) (n : Fin 16) : Except Nat TInstr :=
  match m.fe[n].openIns with
  | some e => .ok e.ins
  | none => m.fetch .fe m.fe[n].prefetch m.fe[n].pl.pc

/-- The instruction is a BRC that needs a speculation checkpoint. -/
def needsSpec : TInstr → Bool
  | .brc h .. => h != 2
  | _ => false

/-- The next instruction needs a speculation checkpoint. -/
def Mach.nextSpec (m : Mach) (n : Fin 16) : Bool :=
  match m.nextIns n with
  | .ok i => needsSpec i
  | .error _ => false

/-- Ticks of the horizon (R122). -/
def Mach.horizon (m : Mach) (n : Fin 16) : Nat := 800 * clampN 500 8000 (m.rd (R.FE_HORIZON n))

/-- Lead of the plan, ticks; while the front waits, the planned instants move on with it (R122, R124). -/
def Mach.lead (m : Mach) (n : Fin 16) : Nat := (m.fe[n].live m.mt).planEnd - m.mt

/-- The last point planned needs a switch checkpoint: 50 µs of planned emission lie behind it (R128). -/
def Field.needCk (f : Field) : Bool :=
  match f.plan.getLast? with
  | some e => e.last && !e.after.laserOn && !e.ck && e.fault.isNone && decide (f.ckAt + 40000 ≤ f.planEnd)
  | none => false

/-- Why planning stops, by the codes of PSTOP; 0 while the planner plans (R122, R123, R144). -/
def Mach.pstop (m : Mach) (n : Fin 16) : Nat :=
  let f := m.fe[n]
  if f.owner.isNone then 6
  else if (f.plan.getLast?.map (·.fault.isSome)) = some true then 5
  else if f.barrier then 4
  else if planCap ≤ f.segsLeft m.mt then 2
  else if decide (ckptCap ≤ f.ckUsed) && (f.needCk || m.nextSpec n) then 3
  else if m.horizon n ≤ m.lead n ∧ !f.onPlanned then 1
  else 0

/-- The planner's frontier as the start of a segment. -/
def Mach.frontier (m : Mach) (n : Fin 16) : SegFrom :=
  let f := m.fe[n]
  match (f.plan.flatMap (·.segs)).getLast? with
  | some s => ⟨f.planEnd, s.seg.x1, s.seg.y1, s.seg.vx1, s.seg.vy1, s.seg.z1, s.seg.pow1, some s.seg.mprof⟩
  | none => ⟨max f.planEnd m.mt, f.spotX, f.spotY, 0, 0, f.spotZ, (f.past.head?.map (·.seg.pow1)).getD 0, none⟩

/-! ## Checkpoints (R128 to R131) -/

/-- Acceleration at the end of a segment, 2^−24 BU per tick squared, floor division. -/
def PSeg.endAcc (s : PSeg) : Int × Int :=
  let d : Int := s.seg.dur
  let g (p0 v0 p1 v1 : Int) : Int := (6 * 2 ^ 24 * (p0 - p1) + (2 * v0 + 4 * v1) * d) / (d * d)
  if s.seg.dur = 0 then (0, 0) else (g s.x0 s.vx0 s.seg.x1 s.seg.vx1, g s.y0 s.vy0 s.seg.y1 s.seg.vy1)

/-- The planned path at the frontier (R129). -/
def Mach.pathState (m : Mach) (n : Fin 16) : PathState :=
  let a := m.frontier n
  let q := (((m.fe[n].plan.flatMap (·.segs)).getLast?).map PSeg.endAcc).getD (0, 0)
  let g := m.galvoAt n a.t0
  ⟨a.x, a.y, a.z, a.vx, a.vy, q.1, q.2, g.1, g.2.1, g.2.2⟩

/-- A checkpoint at the frontier: the state after the point, that of the path not predicted, and what a
speculation checkpoint adds (R129). -/
def Mach.ckptAt (m : Mach) (n : Fin 16) (c : Fin 8) (st alt : PState) (branch : Option CkBranch)
    (prefetch : List (Nat × Option Nat)) : Ckpt :=
  let a := m.frontier n
  { ctx := c, spec := branch.isSome, pc := st.pc, st := st, at_ := a.t0, prefetch := prefetch, alt := alt
    path := m.pathState n, index := m.fe[n].segCount
    ramp := rampFrom a.t0 (a.x, a.y, a.z) (a.vx, a.vy) (m.rd (R.FE_PROF_STOPDEC n st.mprof.toNat))
      (BitVec.setWidth 4 st.mprof).toFin (BitVec.setWidth 2 st.mat).toFin c
    slice := a.t0 / sliceTicks, branch := branch }

/-- FLAGS[3] of the last segment of a list (R146). -/
def flagLast (l : List PSeg) : List PSeg :=
  match l.getLast? with
  | some s => l.dropLast ++ [{ s with seg := { s.seg with ckpt := true } }]
  | none => l

/-- A checkpoint follows the last planned segment; entries newest first. -/
def flagCk : List PlanEntry → List PlanEntry
  | [] => []
  | e :: t => if e.segs.isEmpty then e :: flagCk t else { e with segs := flagLast e.segs } :: t

/-- The checkpoint of the last point planned is written. -/
def Mach.putCk (m : Mach) (n : Fin 16) (c : Fin 8) : Mach :=
  let f := m.fe[n]
  match f.plan.getLast? with
  | some e =>
    m.setField n { f with
      plan := (flagCk (f.plan.dropLast ++ [{ e with ck := true }]).reverse).reverse, ckAt := f.planEnd
      ckpts := f.ckpts ++ [m.ckptAt n c e.after e.after none []] }
  | none => m

/-- The needed checkpoint is written where the store has room. -/
def Mach.tryCk (m : Mach) (n : Fin 16) (c : Fin 8) : Mach :=
  if m.fe[n].needCk && decide (m.fe[n].ckUsed < ckptCap) then m.putCk n c else m

/-- The eight words at an address as they read now, and which of them are poisoned (R131). -/
def Mach.prefetchAt (m : Mach) (a : Addr) : List (Nat × Option Nat) :=
  (List.range 8).map fun k =>
    (a.toNat + 8 * k, if m.poisoned (a.toNat + 8 * k) 8 then none else some (m.le (a.toNat + 8 * k) 8))

/-- Prefetched words serve the one pass that the planner makes over them; a word read again is read afresh
(R131, R142). -/
def usedWords (pc : Addr) (i : TInstr) (l : List (Nat × Option Nat)) : List (Nat × Option Nat) :=
  l.filter fun w => !(decide (pc.toNat ≤ w.1) && decide (w.1 < pc.toNat + tBytes i))

/-! ## Segments of an instruction (R146 to R152) -/

def fits32 (v : Int) : Bool := decide (-2 ^ 31 ≤ v ∧ v < 2 ^ 31)

/-- The end focus offset of a segment: it slews toward the target, held to ZMIN…ZMAX, at ZVMAX until it is there
(R96, R152; log entry 115). -/
def Mach.focusOk (m : Mach) (n : Fin 16) (st : PState) (p : PSeg) : Bool :=
  let k := st.mprof.toNat
  let zt := clampI (m.rdS (R.FE_PROF_ZMIN n k)) (m.rdS (R.FE_PROF_ZMAX n k)) st.focus.toInt
  let lim := m.rd (R.FE_PROF_ZVMAX n k) * p.seg.dur / 3200000
  let d := (p.seg.z1 - p.z0).natAbs
  decide (min p.z0 zt ≤ p.seg.z1 ∧ p.seg.z1 ≤ max p.z0 zt ∧ d ≤ lim + 1) && (p.seg.z1 == zt || decide (lim ≤ d + 1))

/-- A segment is one that a plan may hold: duration, widths, profiles, focus, flags and power (R146).  `along`
says that a re-entry runs along the emitted path, with the power planned there. -/
def Mach.segFits (m : Mach) (n : Fin 16) (st : PState) (np along : Bool) (p : PSeg) : Bool :=
  let s := p.seg
  decide (1 ≤ s.dur ∧ s.dur ≤ 2 ^ 31) && fits32 s.x1 && fits32 s.y1 && fits32 s.vx1 && fits32 s.vy1 && fits32 s.z1 &&
  s.mprof.val == st.mprof.toNat && s.mat.val == st.mat.toNat && m.focusOk n st p &&
  (if s.laser then s.wobble == (st.wshape != 0) && s.nopool == np && (along || s.pow1 == st.power)
   else !s.wobble && !s.nopool)

/-- Arc length along a segment from tick 0 to tick `k`, 2^−24 BU, by ticks (R485). -/
def PSeg.fine (s : PSeg) (k : Nat) : Int × Int :=
  let D : Int := s.seg.dur
  let K : Int := k
  let g (p0 v0 p1 v1 : Int) : Int :=
    if s.seg.dur = 0 then p1 * 2 ^ 24
    else (2 ^ 24 * ((2 * K ^ 3 - 3 * K ^ 2 * D + D ^ 3) * p0 + (3 * K ^ 2 * D - 2 * K ^ 3) * p1) +
      D * ((K ^ 3 - 2 * K ^ 2 * D + K * D ^ 2) * v0 + (K ^ 3 - K ^ 2 * D) * v1)) / D ^ 3
  (g s.x0 s.vx0 s.seg.x1 s.seg.vx1, g s.y0 s.vy0 s.seg.y1 s.seg.vy1)

/-- Walks `k` ticks of a segment back from its tick `k`; the length left over, or the tick reached. -/
def backIn (s : PSeg) : Nat → Nat → Nat ⊕ Nat
  | 0, left => .inl left
  | k + 1, left =>
    let a := s.fine (k + 1)
    let b := s.fine k
    let d := isqrt ((a.1 - b.1) * (a.1 - b.1) + (a.2 - b.2) * (a.2 - b.2)).toNat
    if left ≤ d then .inr k else backIn s k (left - d)

/-- The point `left` back along segments, the newest first; the start of the path at most. -/
def backAlong : List PSeg → Nat → Option (Int × Int)
  | [], _ => none
  | s :: t, left =>
    match backIn s s.seg.dur left with
    | .inr k => some ((s.pos k).1, (s.pos k).2.1)
    | .inl rest => if t.isEmpty then some (s.x0, s.y0) else backAlong t rest

/-- The re-entry point of a stop inside a run: OVERLAP back along the emitted path (R485). -/
def reentryPoint (r : FsRec) (overlap : Nat) : Int × Int :=
  let path := match r.path.getLast? with
    | none => []
    | some s =>
      -- the last segment up to the stop point only
      let p := s.pos r.ticks
      let v := s.vel r.ticks
      r.path.dropLast ++ [{ s with seg := { s.seg with dur := r.ticks, x1 := p.1, y1 := p.2.1, vx1 := v.1, vy1 := v.2 } }]
  if overlap = 0 then (r.x, r.y) else (backAlong path.reverse (overlap * 2 ^ 24)).getD (r.x, r.y)

/-- The re-entry of the field is to be planned with its first motion (R485). -/
def Field.rejoin (f : Field) (st : PState) : Option (Int × Int) :=
  match f.reentry with
  | some r => if r.inRun && f.plan.all (·.segs.isEmpty) then some (reentryPoint r st.overlap.toNat) else none
  | none => none

/-- The legs of a motion that are still to be planned. -/
def Mach.legsLeft (m : Mach) (n : Fin 16) (i : TInstr) : List Leg :=
  let f := m.fe[n]
  let a := m.frontier n
  if f.openIns.isSome then f.legs else m.legsOf n f.pl i (a.x, a.y) (f.rejoin f.pl)

/-- The segments given run along the legs still to be planned: the planned segments, and the legs then left. -/
def Mach.alongLegs (m : Mach) (n : Fin 16) (c : Fin 8) (i : TInstr) (l : List Seg) (slowed : List (BitVec 8)) :
    Option (List PSeg × List Leg) :=
  let st := m.fe[n].pl
  let k := st.mprof.toNat
  let frm := m.framePred n
  let w := if st.wshape = 0 then 0 else 16 * st.wamp.toNat
  m.runLegs n (m.limits n k) (max 1 (m.rd (R.FE_PROF_ARCTOL n k))) (7 + 2 * slowed.length)
    (fun a s => a.seg st.pc c frm w s) l (m.legsLeft n i) (m.frontier n)

/-- First poisoned entry of a POLY's list (R92, R81). -/
def Mach.polyPoison (m : Mach) : TInstr → Bool
  | .poly _ _ _ _ n a => m.poisoned a.toNat (8 * n.toNat)
  | _ => false

/-- The ticks into a segment at which its bed points are judged: its ends and the fine ticks between. -/
def PSeg.judgedTicks (s : PSeg) : List Nat :=
  0 :: (fineTicks (s.t0 + 1) (s.t0 + s.seg.dur)).map (· - s.t0) ++ [s.seg.dur]

/-- Where a segment's planned bed point first leaves the table area (R157). -/
def Mach.leavesAt (m : Mach) (n : Fin 16) (s : PSeg) : Option Nat :=
  match m.fe[n].cor with
  | none => none
  | some c => s.judgedTicks.find? fun k => let b := m.segBed n s k; !c.inside b.1 b.2

/-- Where a laser-on segment first leaves the field's tiles (R243). -/
def Mach.unownedAt (m : Mach) (n : Fin 16) (s : PSeg) : Option Nat :=
  if !m.on R.TRL_CTRL_EN || !s.seg.laser || m.segOwned n s s.wamp then none
  else (List.range (s.seg.dur + 1)).find? fun k =>
    let b := m.segBed n s k
    !m.ownsBox n (Box.grow ⟨b.1, b.2, b.1, b.2⟩ s.wamp)

/-- The first fault along the planned path, in path order; at one point OPERAND comes first (R544, 9). -/
def Mach.pathFault (m : Mach) (n : Fin 16) : List PSeg → Option Nat
  | [] => none
  | s :: t =>
    match m.leavesAt n s, m.unownedAt n s with
    | none, none => Mach.pathFault m n t
    | some _, none => some fOperand
    | none, some _ => some cNotowner
    | some a, some b => some (if a ≤ b then fOperand else cNotowner)

/-- Entries of a motion's segments: the laser-off part, then the laser-on part. -/
def chunks (st after : PState) (i : TInstr) (part whole : Bool) (idx stopdec : Nat) (l : List PSeg) : List PlanEntry :=
  let off := l.takeWhile (!·.seg.laser)
  let on := l.dropWhile (!·.seg.laser)
  let mk (s : List PSeg) (first last on : Bool) (k : Nat) : PlanEntry :=
    { pc := st.pc, ins := i, fault := none, segs := s, before := st
      after := if last then after else { after with laserOn := on }, taken := false, first := first, last := last, ck := false
      idx := idx + k, stopdec := stopdec }
  if on.isEmpty then [mk off (!part) whole false 0]
  else if off.isEmpty then [mk on (!part) whole true 0]
  else [mk off (!part) false false 0, mk on false whole true off.length]

/-- The wobble's start is the first emitting segment after the WOBBLE (R162). -/
def PState.noteWobble (st : PState) (l : List PSeg) : PState :=
  match st.wstart, l.find? fun s => s.seg.laser with
  | none, some s => if st.wshape = 0 then st else { st with wstart := some s.t0 }
  | _, _ => st

/-- The plan with the segments of a motion; the planner goes on after it, or with the legs left (R123, R128). -/
def Mach.withSegs (m : Mach) (n : Fin 16) (i : TInstr) (segs : List PSeg) (left : List Leg) : Field :=
  let f := m.fe[n]
  let a := m.frontier n
  let st := f.pl.noteWobble segs
  let whole := legsDone left
  let after := if whole then m.after st i false else st
  let idx := (f.openIns.map fun e => e.idx + e.segs.length).getD 0
  { f with
    plan := f.plan ++ chunks st after i f.openIns.isSome whole idx (m.rd (R.FE_PROF_STOPDEC n st.mprof.toNat)) segs
    legs := if whole then [] else left, pl := after, planEnd := a.t0 + segsDur segs
    ckAt := if f.plan.all (·.segs.isEmpty) then a.t0 - (f.planEnd - f.ckAt) else f.ckAt }

/-- A plan as its galvo path runs: from the end of a stop ramp that the galvo is on. -/
def Field.asRun (f : Field) (t : Nat) : Field :=
  let g := f.live t
  match g.planStart with
  | some t0 => g.offRamp t0
  | none => g

/-! ## Lowered joints and settle holds (R159, R161) -/

/-- Each factor m of a lowered joint belongs to a segment that starts at no more than its speed. -/
def Mach.slowedOk (m : Mach) (n : Fin 16) (st : PState) (l : List PSeg) (slowed : List (BitVec 8)) : Bool :=
  let k := st.mprof.toNat
  decide (slowed.length ≤ l.length) && slowed.all fun q =>
    q != 0 && l.any fun p =>
      let v := if p.seg.laser then min st.mspeed.toNat (m.rd (R.FE_PROF_VMARK n k))
        else min st.jspeed.toNat (m.rd (R.FE_PROF_VJUMP n k))
      decide (vlen (p.vx0, p.vy0) ≤ speedUnits v * q.toNat / 256 + 2)

/-- The settle hold of planned segments: the spot rests, laser off, before the laser-on part (R161). -/
def settleSeg (l : List PSeg) : Option PSeg :=
  if (l.dropWhile (!·.seg.laser)).isEmpty then none
  else match (l.takeWhile (!·.seg.laser)).getLast? with
    | none => none
    | some s => if s.seg.x1 = s.x0 ∧ s.seg.y1 = s.y0 ∧ s.vx0 = 0 ∧ s.vy0 = 0 ∧ s.seg.vx1 = 0 ∧ s.seg.vy1 = 0 then some s else none

/-- The segments with a hold made one fine tick shorter. -/
def shorten (h : PSeg) (l : List PSeg) : List PSeg :=
  (l.map fun s =>
    if s.t0 = h.t0 then { s with seg := { s.seg with dur := s.seg.dur - fineTick } }
    else if h.t0 < s.t0 then { s with t0 := s.t0 - fineTick } else s).filter fun s => s.seg.dur ≠ 0

/-- A settle hold is the fewest whole fine ticks after which the run passes: with one less, its first fine tick
fails (R161). -/
def Mach.settleOk (m : Mach) (n : Fin 16) (i : TInstr) (segs : List PSeg) (left : List Leg) (rest : Bool) : Bool :=
  match settleSeg segs with
  | none => true
  | some h =>
    let g := (m.withSegs n i (shorten h segs) left).asRun m.mt
    match (g.plan.flatMap (·.segs)).find? fun s => s.seg.laser && decide (h.t0 ≤ s.t0) with
    | some s => decide ((m.judged n g m.fe[n].planEnd rest).2 ≤ ceilTo fineTick s.t0) || !m.runTickOk n g s.t0
    | none => true

/-- The split counters change at plan time (R74, R159, R161). -/
def Mach.noteSplit (m : Mach) (n : Fin 16) (settle : Nat) (slowed : List (BitVec 8)) : Mach :=
  let m := if settle = 0 then m
    else (m.inc (R.FE_SPL_SETTLE_N n)).wr (R.FE_SPL_SETTLE_T n) (min (2 ^ 32 - 1) (m.rd (R.FE_SPL_SETTLE_T n) + settle))
  slowed.foldl (fun (m : Mach) (k : BitVec 8) =>
    (m.inc (R.FE_SPL_SLOWED n)).wr (R.FE_SPL_MINM n) (min (m.rd (R.FE_SPL_MINM n)) k.toNat)) m

/-- The plan with the segments of a motion keeps every limit: what a segment may hold, the joint beyond the
motion, the galvo and deflector checks as far as they are decided, lowered joints and settle holds (R149 to
R152, R159 to R161). -/
def Mach.planOk (m : Mach) (n : Fin 16) (c : Fin 8) (i : TInstr) (segs : List PSeg) (left : List Leg)
    (slowed : List (BitVec 8)) : Bool :=
  let f := m.fe[n]
  let g := m.withSegs n i segs left
  let along := (m.legsLeft n i).any fun l => l.course == .along
  let e := segs.getLast?.map fun s => (s.seg.vx1, s.seg.vy1)
  let b := if legsDone left then m.beyond n c 8 g.pl else (left.map fun l => (l, f.pl.mprof.toNat), false)
  let rest := e.getD (0, 0) == (0, 0) && b.2 && b.1.all fun l => l.1.course == .rest none
  let h := g.asRun m.mt
  let w := m.judged n h f.planEnd rest
  segs.all (m.segFits n f.pl (hasNopool i) along) &&
  (match e with
   | some v => !legsDone left || m.exitOk n (m.limits n f.pl.mprof.toNat).dv v b
   | none => true) &&
  m.splitOk n h (max w.1 m.mt) w.2 && m.slowedOk n f.pl segs slowed && m.settleOk n i segs left rest

/-! ## Decoding an instruction (R80, R122, R128) -/

/-- The planner finds a fault and stops. -/
def Field.foundFault (f : Field) (i : TInstr) (code : Nat) : Field :=
  { f with plan := f.plan ++ [{ bareEntry f.pl i (some (BitVec.ofNat 8 code)) f.pl false with first := f.openIns.isNone }]
           legs := [] }

/-- What a speculation checkpoint holds of its BRC. -/
def branchOf : TInstr → Option CkBranch
  | .brc h cls idx test _ value => some ⟨cls, idx, test, value, h⟩
  | _ => none

/-- A BRC planned past under its hint (R128, R131). -/
def Mach.decodeBrc (m : Mach) (n : Fin 16) (c : Fin 8) (i : TInstr) (likely : Bool) : Mach :=
  let f := m.fe[n]
  let a := m.after f.pl i likely
  let b := m.after f.pl i (!likely)
  m.setField n { f with plan := (flagCk f.plan.reverse).reverse ++ [bareEntry f.pl i none a likely], pl := a
                        ckpts := f.ckpts ++ [m.ckptAt n c a b (branchOf i) (m.prefetchAt b.pc)], ckAt := f.planEnd
                        prefetch := usedWords f.pl.pc i f.prefetch }

/-- An instruction without a path. -/
def Mach.decodeBare (m : Mach) (n : Fin 16) (c : Fin 8) (i : TInstr) : Mach :=
  let f := m.fe[n]
  match i with
  | .brc h .. =>
    if h = 2 then m.setField n { f with plan := f.plan ++ [bareEntry f.pl i none f.pl false], barrier := true }
    else m.decodeBrc n c i (h == 1)
  | _ =>
    let a := m.after f.pl i false
    m.setField n { f with plan := f.plan ++ [bareEntry f.pl i none a false], pl := a, barrier := isBarrier i
                          prefetch := usedWords f.pl.pc i f.prefetch }

/-- The planner takes the segments that it has made of a motion instruction, as the command hands them over;
segments that are no plan of it are not what the planner makes, and nothing happens. -/
def Mach.decodeMotion (m : Mach) (n : Fin 16) (c : Fin 8) (i : TInstr) (l : List Seg) (slowed : List (BitVec 8)) : Mach :=
  let f := m.fe[n]
  let room := planCap - f.segsLeft m.mt
  if m.profileStuck n f.pl.mprof.toNat then m.setField n (f.foundFault i fOperand)
  else if f.cor.isNone then m.setField n (f.foundFault i cNocor)
  else
    match m.alongLegs n c i l slowed with
    | none => m
    | some (segs, left) =>
      match m.pathFault n segs, legsDone left && m.polyPoison i with
      | some code, _ => m.setField n (f.foundFault i code)
      | none, true => m.setField n (f.foundFault i fPoison)
      | none, false =>
        if room < l.length ∨ (!legsDone left ∧ l.length ≠ room) ∨ !m.planOk n c i segs left slowed then m
        else
          let g := m.withSegs n i segs left
          (m.setField n { g with prefetch := usedWords f.pl.pc i g.prefetch }).noteSplit n
            (((settleSeg segs).map (·.seg.dur)).getD 0) slowed

/-! ## The gate edges of a run (R210 to R212) -/

/-- End of the laser-on run at the front of a plan, where the plan holds it; a fault ends it. -/
def runEnd : List PlanEntry → Nat → Option Nat
  | [], _ => none
  | e :: t, te =>
    if e.fault.isSome then some te
    else match e.segs with
      | [] => if isMotion e.ins && !e.after.laserOn then some te else runEnd t te
      | s :: _ =>
        if !s.seg.laser then some te
        else
          let u := s.t0 + segsDur e.segs
          if e.last && !e.after.laserOn then some u else runEnd t u

/-- The plan from the run on: past the laser-off path under way and what retires at its end. -/
def Field.runPlan (f : Field) : List PlanEntry :=
  match f.emit, f.plan with
  | some _, e :: t =>
    if (e.segs.head?.map (·.seg.laser)) = some true then f.plan
    else t.dropWhile fun e => e.segs.isEmpty && e.fault.isNone && !isWait e.ins && !isMotion e.ins &&
      (match e.ins with | .brc .. | .halt | .layerend => false | _ => true)
  | _, p => p

def Mach.noteClip (m : Mach) (n : Fin 16) (b : Bool) : Mach := cond b (m.inc (R.FE_LCH_GCLIP n)) m

def Mach.modLch (m : Mach) (n : Fin 16) (g : Lch → Lch) : Mach := m.modField n fun f => { f with lch := g f.lch }

/-- The edges of a run that starts at `t0` enter the gate stage: both, or the rising one alone while
the end of the run is not planned. -/
def Mach.gateRun (m : Mach) (n : Fin 16) (t0 : Nat) (te : Option Nat) : Mach :=
  match te with
  | some u =>
    let g := m.gateEdges n t0 u
    let m := (m.noteClip n g.2).modLch n fun l => { l with fallSet := true }
    match g.1 with
    | some (r, d) =>
      ((m.pushEdge (.gate n) r (.gate true true)).pushEdge (.gate n) d (.gate false false)).modLch n
        fun l => { l with lastFall := some d }
    | none => m
  | none =>
    let r := t0 - min 800 (m.rd (R.FE_LCH_GADV_GONADV n))
    let low := max 1 (m.rd (R.FE_LCH_MINLOW n))
    let r' := match m.fe[n].lch.lastFall with
      | some d => max r (d + low)
      | none => r
    ((m.noteClip n (decide (r < r'))).pushEdge (.gate n) r' (.gate true true)).modLch n
      fun l => { l with fallSet := false }

/-- The falling edge of a run whose end has been planned while it is emitted; it is judged as it arrives (R57). -/
def Mach.closeRun (m : Mach) (n : Fin 16) : Mach :=
  let f := m.fe[n]
  if (f.inRun || f.runAt.isSome) && !f.lch.fallSet then
    match runEnd f.runPlan 0 with
    | some u =>
      let d := u - min 800 (m.rd (R.FE_LCH_GADV_GOFFADV n))
      (m.modLch n fun l => { l with fallSet := true, lastFall := some d }).edgeArrival (.gate n) d (.gate false false)
    | none => m
  else m

/-- PLANNER_DECODE: the planner decodes the next instruction of its context; `l` are the segments that it plans
for a motion and `slowed` the factors m of the joints that it lowers (R159). -/
def Mach.plannerDecode (m : Mach) (n : Fin 16) (l : List Seg) (slowed : List (BitVec 8)) : Mach :=
  match m.fe[n].owner with
  | none => m
  | some c =>
    if m.pstop n ≠ 0 ∨ m.mode < modeReady then m
    else
      let m := m.tryCk n c
      match m.nextIns n with
      | .error code => m.setField n (m.fe[n].foundFault .nop code)
      | .ok i =>
        let m :=
          match (if m.fe[n].openIns.isSome then none else m.wordFault (.fe n c) m.fe[n].pl i) with
          | some code => m.setField n (m.fe[n].foundFault i code)
          | none => if isMotion i then m.decodeMotion n c i l slowed else m.decodeBare n c i
        (m.tryCk n c).closeRun n

/-! ## Instructions given by a command (log entry 7) -/

/-- FETCH and POISON of an instruction at its own PC (R544, 1). -/
def Mach.fetchFault (m : Mach) (pc : Addr) (i : TInstr) : Option Nat :=
  if !addrOk 8 pc.toNat || !addrOk 8 (pc.toNat + 8 * extWords (opc i)) then some fFetch
  else if m.poisoned pc.toNat (tBytes i) then some fPoison
  else none

/-- A motion that plans no segment from where the spot stands (R88, R89, R92). -/
def Mach.nullMotion (m : Mach) (n : Fin 16) (st : PState) (i : TInstr) : Bool :=
  let f := m.fe[n]
  (m.legsOf n st i (f.spotX, f.spotY) (f.rejoin st)).isEmpty

/-- An instruction that the planner has not decoded yet is decoded as it is reached. -/
def Mach.decodeRow (m : Mach) (n : Fin 16) (c : Fin 8) (i : TInstr) : Mach :=
  let f := m.fe[n]
  let st := f.ctx[c].ret
  let put (fault : Option Byte) (after : PState) (taken : Bool) : Mach :=
    m.setField n { f with plan := [bareEntry st i fault after taken], pl := after
                          prefetch := usedWords st.pc i f.prefetch }
  match m.fetchFault st.pc i, m.wordFault (.fe n c) st i with
  | some code, _ => put (some (BitVec.ofNat 8 code)) st false
  | none, some code => put (some (BitVec.ofNat 8 code)) st false
  | none, none =>
    if !isMotion i then
      let t := m.outcome (.fe n c) i
      put none (m.after st i t) t
    else if m.profileStuck n st.mprof.toNat then put (some (BitVec.ofNat 8 fOperand)) st false
    else if f.cor.isNone then put (some (BitVec.ofNat 8 cNocor)) st false
    else if m.polyPoison i then put (some (BitVec.ofNat 8 fPoison)) st false
    else if m.nullMotion n st i then put none (m.after st i false) false
    else m

/-- The front moves until the instruction at it has retired, or can go no further. -/
def Mach.rowGo (n : Fin 16) (c : Fin 8) (k : Nat) : Nat → Mach → Mach
  | 0, m => m
  | fuel + 1, m =>
    if !m.frontRuns n c ∨ m.fe[n].ctx[c].retired ≠ k then m
    else
      let r := (m.passReplan n).frontStep n c
      if r.2 then Mach.rowGo n c k fuel r.1 else r.1

/-- The instruction `i` of a field's owner is reached, and retires once its action is complete. -/
def Mach.rowFe (m : Mach) (n : Fin 16) (c : Fin 8) (i : TInstr) : Mach :=
  if !m.frontRuns n c then m
  else
    let m := m.passReplan n
    let m := if m.fe[n].plan.isEmpty && !m.frontHeld n c then m.decodeRow n c i else m
    match m.fe[n].plan with
    | e :: _ => if e.ins = i then Mach.rowGo n c m.fe[n].ctx[c].retired 8 m else m
    | [] => m

/-- The instruction `i` of a COO or AXE context is reached. -/
def Mach.rowSeq (m : Mach) (x : Ctx) (i : TInstr) : Mach :=
  if !m.ctxRuns x then m
  else
    match m.fetchFault (m.ctx x).ret.pc i with
    | some code => m.ctxFault x code
    | none => m.seqIns x i

/-- A context reaches an instruction. -/
def Mach.execT (m : Mach) (x : Ctx) (i : TInstr) : Mach :=
  (match x with
   | .fe n c => m.rowFe n c i
   | _ => m.rowSeq x i).wakeAll

/-- EMISSION_FRONT_REACH: the front of a context goes as far as its program lets it (R133, R143). -/
def Mach.frontReach (m : Mach) (x : Ctx) : Mach :=
  (match x with
   | .fe n c => if m.fe[n].owner = some c then m.front n else m
   | _ => Mach.seqGo x 8192 m).wakeAll

/-! ## Into a laser-on run (R126, R211, R250, R263) -/

/-- GONADV, at most 800 ticks. -/
def Mach.gonadv (m : Mach) (n : Fin 16) : Nat := min 800 (m.rd (R.FE_LCH_GADV_GONADV n))

/-- The earliest start of a run that is let in now: its rising edge, GONADV ahead, must reach the gate stage by
its deadline.  A pass of the trellis lets a run in at its boundary exactly (R57, R211, R250, R263). -/
def Mach.soonest (m : Mach) (n : Fin 16) : Nat :=
  m.mt + m.gonadv n + (if m.on R.TRL_CTRL_EN ∧ m.mt % sliceTicks = 0 then 0 else 40)

/-- Emission is not permitted: not ARMED, on the way out of it, HOLD, the laser not ready under RDYREQ, or no
lock of the synthesizer (R126, R224, R63). -/
def Mach.runDenied (m : Mach) (n : Fin 16) : Bool :=
  m.mode != modeArmed || m.saf.disarming || m.pstate == 1 || (m.on (R.FE_LCH_CTRL_RDYREQ n) && !m.fe[n].lch.rdy) ||
  !m.on R.TIM_STATUS_LOCK

/-- The lowest dwell class for which the front has to wait before the run, if any (R126, R141). -/
def Mach.runBlocked (m : Mach) (n : Fin 16) : Option (Fin 4) :=
  let f := m.fe[n]
  let te := runEnd f.runPlan 0
  if te.isNone && decide (f.segsLeft m.mt < planCap) then some 1
  else if m.clearance n < te.getD f.planEnd then some 2
  else if m.runDenied n then some 3
  else none

/-- The first slice that is not granted is ring-marked (R263). -/
def Mach.ringWait (m : Mach) (n : Fin 16) : Bool :=
  match m.fe[n].summary (m.clearance n / sliceTicks) with
  | some s => s.ringm
  | none => false

/-- The next instant at which a run that waits for its clearance is to start; a run that was booked is booked
again (R250, R263). -/
def Mach.nextRun (m : Mach) (n : Fin 16) : Nat × Bool :=
  if m.ringWait n || m.rd64 (R.FE_TRL_BOOK_LO n) (R.FE_TRL_BOOK_HI n) != 0 then
    let wait := 800 * m.rd R.TRL_RDEPTH + (m.cycNs * 4 + 4) / 5 + (m.rd R.TRL_GUARD * 4 + 4) / 5 + 32000
    (ceilTo sliceTicks (m.mt + wait), true)
  else (ceilTo sliceTicks (m.mt + 8000), false)

/-- The run is planned anew for the next boundary, or booked (R250, R263). -/
def Mach.slipRun (m : Mach) (n : Fin 16) : Mach :=
  match m.fe[n].planStart with
  | some t0 =>
    if m.mt + m.gonadv n < t0 then m
    else
      let b := m.nextRun n
      let m := m.slip n (b.1 + m.gonadv n)
      if b.2 then m.wr64 (R.FE_TRL_BOOK_LO n) (R.FE_TRL_BOOK_HI n) b.1 else m
  | none => m

/-- The front waits before a run. -/
def Mach.waitRun (m : Mach) (n : Fin 16) (k : Fin 4) : Mach :=
  let was := m.fe[n].dwell.map (·.2)
  let m := if k = 1 ∧ was ≠ some 1 then m.inc (R.FE_STARVE n) else m
  let m := m.dwellIn n k
  if k = 2 then m.slipRun n else m

/-- The run starts at `t0`: its edges are queued and its emission begins. -/
def Mach.startRun (m : Mach) (n : Fin 16) (t0 : Nat) : Mach :=
  let m := (m.dwellClose n t0).gateRun n t0 (runEnd m.fe[n].runPlan 0)
  match m.fe[n].plan with
  | e :: _ => m.beginEntry n t0 e true
  | [] => m

/-- The run at the front: it starts at its planned instant, or, after a wait and with no trellis, as soon as
its gate edge can be presented. -/
def Mach.runHere (m : Mach) (n : Fin 16) : Mach :=
  let t0 := (m.fe[n].planStart).getD m.mt
  let u := m.soonest n
  match m.runBlocked n with
  | some k => m.waitRun n k
  | none =>
    if u ≤ t0 then (if t0 ≤ u + 40 then m.startRun n t0 else m)
    else if m.on R.TRL_CTRL_EN then m.waitRun n 2
    else (m.slip n u).startRun n u

/-- A run that follows a laser-off path under way: it is let in from 40 ticks before its edge. -/
def Mach.runAhead (m : Mach) (n : Fin 16) (c : Fin 8) : Mach :=
  let f := m.fe[n]
  let u := m.soonest n
  match f.runPlan with
  | e :: _ =>
    match e.segs with
    | s :: _ =>
      if s.seg.laser && decide (u ≤ s.t0 ∧ s.t0 ≤ u + 40) && (m.runBlocked n).isNone && f.runAt.isNone &&
          !f.ctx[c].stopReq && !((List.finRange 8).any fun d => f.ctx[d].st == .ready && decide (m.prio n c < m.prio n d)) then
        (m.modField n fun f => { f with runAt := some s.t0 }).gateRun n s.t0 (runEnd f.runPlan 0)
      else m
    | [] => m
  | [] => m

/-- A run from where the front stands still. -/
def Mach.runStand (m : Mach) (n : Fin 16) (c : Fin 8) : Mach :=
  match m.fe[n].plan with
  | e :: _ =>
    if !m.atRunStart n then m
    else if e.first && m.frontHeld n c then (if m.pstate = 1 then m.dwellIn n 3 else m)
    else m.runHere n
  | [] => m

/-- The first motion since the grant is a run: with it the front reaches the instructions before it (R133). -/
def Mach.runFresh (m : Mach) (n : Fin 16) (c : Fin 8) : Mach :=
  if m.atRunStart n then m.runStand n c
  else
    let m' := (m.modField n fun f => { f with fresh := false }).front n
    let t0 := (m'.fe[n].planStart).getD m'.mt
    match m'.atRunStart n, m'.runBlocked n with
    | true, none =>
      if m'.soonest n + 40 < t0 then m
      else if t0 < m'.soonest n ∧ m'.on R.TRL_CTRL_EN then m.waitRun n 2
      else m'.runStand n c
    | true, some k => m.waitRun n k
    | false, _ => m

/-- LASER_ON_RUN_START (R126). -/
def Mach.runStart (m : Mach) (n : Fin 16) : Mach :=
  match m.fe[n].owner with
  | none => m
  | some c =>
    if !m.frontRuns n c ∨ m.fe[n].inRun then m
    else
      let m := m.passReplan n
      if m.fe[n].emit.isSome then m.runAhead n c
      else if m.fe[n].fresh then m.runFresh n c
      else m.runStand n c

/-- BOOKED_RESUME: at the booked instant the run starts when it is cleared, or is booked again (R263). -/
def Mach.bookedResume (m : Mach) (n : Fin 16) : Mach :=
  let b := m.rd64 (R.FE_TRL_BOOK_LO n) (R.FE_TRL_BOOK_HI n)
  if b ≠ 0 ∧ b = m.mt then m.runStart n else m

/-- PLAN_UNDERRUN: the front is at the end of the plan inside a run (R127). -/
def Mach.underrun (m : Mach) (n : Fin 16) : Mach :=
  let m := m.front n
  if m.fe[n].inRun && m.fe[n].plan.isEmpty then m.fieldFault n cUnderrun false false else m

/-! ## Ownership of emission (R117 to R121, R138 to R140) -/

/-- A yielded context's plan, set aside while another context owns emission (R119). -/
def Field.keep (f : Field) (c : Fin 8) : Kept :=
  { ctx := c, plan := f.plan, ckpts := f.ckpts, atCk := f.atCk, pl := f.pl, planEnd := f.planEnd, ckAt := f.ckAt
    barrier := f.barrier, prefetch := f.prefetch, legs := f.legs }

/-- A plan set aside is the field's plan again (R119). -/
def Field.takeBack (f : Field) (k : Kept) : Field :=
  { f with plan := k.plan, ckpts := k.ckpts, atCk := k.atCk, pl := k.pl, planEnd := k.planEnd, ckAt := k.ckAt
           barrier := k.barrier, prefetch := k.prefetch, legs := k.legs
           keptPlans := f.keptPlans.filter fun q => q.ctx ≠ k.ctx }

/-- A context starts to plan from its retired state; the galvo follows the stop ramp (R120, R139). -/
def Field.planFresh (f : Field) (t : Nat) (d : Fin 8) (ramp : PSeg) : Field :=
  let b := f.brake ramp
  { (b.squash.republish t) with pl := f.ctx[d].ret, ckAt := t }

/-- The plan of a context that is granted emission: its own, intact, or a new one (R119). -/
def Field.planFor (f : Field) (t : Nat) (d : Fin 8) (ramp : PSeg) : Field :=
  if f.yielded = some d then { f with yielded := none }
  else
    let f := match f.yielded with
      | some c => { f with keptPlans := f.keep c :: f.keptPlans }
      | none => f
    match f.keptPlans.find? fun k => k.ctx == d with
    | some k => (f.planFresh t d ramp).takeBack k
    | none => f.planFresh t d ramp

/-- The new plan holds something to emit first, or a point at which the front stops (R138). -/
def Field.planReady (f : Field) : Bool :=
  let waits : Bool := match f.owner with
    | some c => f.ctx[c].wait.isSome
    | none => false
  (if waits then f.plan.drop 1 else f.plan).any fun e => !e.segs.isEmpty || isWait e.ins || isBarrier e.ins || e.fault.isSome

/-- The replan after a grant: none where the plan is there and the galvo on it; an end at once where the plan is
there and the galvo has to come to rest first (R138, R139). -/
def Field.replanAt (f : Field) (t : Nat) (why : ReplanWhy) : Option Replan :=
  let e := f.rampEnd t
  if !f.planReady then some ⟨why, t, e, none⟩
  else if f.planFrom.isNone && decide (t < e) then some ⟨why, t, e, some (ceilTo fineTick e)⟩
  else none

/-- A context is granted emission, with the pool settings of its parked state (R117, R119, R217). -/
def Mach.grantTo (m : Mach) (n : Fin 16) (d : Fin 8) (why : ReplanWhy) : Mach :=
  let ramp := m.stopSeg n m.mt
  let m := m.modField n fun f =>
    let r := f.ctx[d]
    let g := (f.planFor m.mt d ramp).setCtx d { r with st := .active }
    { g with
      lastOwner := d, fresh := true, replan := g.replanAt m.mt why
      lch := g.lch.setPool r.ret.poolMode r.ret.poolStat r.ret.poolTarget r.khold }
  let m := m.slip n m.mt
  (if m.fe[n].replan.isSome then m.dwellIn n 0 else m).noteFront n

/-- EMISSION_GRANT (R117); none while the synthesizer has no lock (R63). -/
def Mach.emissionGrant (m : Mach) (n : Fin 16) : Mach :=
  if m.fe[n].active || m.inFs n || decide (1 < m.pstate) || !m.on R.TIM_STATUS_LOCK then m
  else match m.bestReady n with
    | some d => m.grantTo n d .grant
    | none => m

/-- CONTEXT_SWITCH (R118, R120). -/
def Mach.contextSwitch (m : Mach) (n : Fin 16) : Mach :=
  match m.fe[n].owner, m.bestReady n with
  | some c, some d =>
    let f := m.fe[n]
    if f.emit.isNone ∧ f.ctx[c].wait.isNone ∧ !f.ctx[c].ret.laserOn ∧ m.switchDue n c then
      let m := (m.dwellEnd n).modField n fun f => f.setCtx c { f.ctx[c] with st := .ready, readyAt := m.mt }
      (m.grantTo n d .switch).inc (R.FE_SWITCH n)
    else m
  | _, _ => m

/-- REPLAN_READY: the new plan is ready at t_r; emission goes on at the first fine tick at or after both
t_r and the end of the stop ramp (R138 to R140). -/
def Mach.replanReady (m : Mach) (n : Fin 16) : Mach :=
  match m.fe[n].replan with
  | some r =>
    if r.go.isSome ∨ !m.fe[n].planReady then m
    else
      let d := m.mt - r.since
      let m := m.modField n fun f => { f with replan := some { r with go := some (ceilTo fineTick (max m.mt r.rampEnd)) } }
      let m := m.wr (R.FE_REPLAN_MAX n) (max (m.rd (R.FE_REPLAN_MAX n)) (min d 65535))
      if 16000 < d then m.inc (R.FE_REPLAN_LATE n) else m
  | none => m

/-! ## Commands to contexts (R116, R348) -/

/-- A command that is not accepted. -/
def Mach.cmdErr (m : Mach) (n : Fin 16) (c : Fin 8) : Mach := m.wr (R.FE_CTX_STATE_CMDERR n c) 1

/-- START of an FE context. -/
def Mach.ctxStart (m : Mach) (n : Fin 16) (c : Fin 8) : Mach :=
  if ctxIdle m.fe[n].ctx[c].st then
    m.startCtx (.fe n c) (BitVec.ofNat 36 (m.addr (R.FE_CTX_START_LO n c) (R.FE_CTX_START_HI n c)))
  else m.cmdErr n c

/-- The plan of a field is given up, the galvo follows the stop ramp (R116, R121). -/
def Mach.dropPlan (m : Mach) (n : Fin 16) : Mach :=
  let ramp := m.stopSeg n m.mt
  (m.dwellEnd n).modField n fun f =>
    let b := f.brake ramp
    { (b.squash.republish m.mt) with replan := none }

/-- STOP of an FE context. -/
def Mach.ctxStop (m : Mach) (n : Fin 16) (c : Fin 8) : Mach :=
  match m.fe[n].ctx[c].st with
  | .active => m.setCtx (.fe n c) { m.fe[n].ctx[c] with stopReq := true }
  | .ready => (m.haltCtx (.fe n c)).modField n fun f => if f.yielded = some c then f.squash.republish m.mt else f
  | .waiting => (m.haltCtx (.fe n c)).modField n fun f => if f.yielded = some c then f.squash.republish m.mt else f
  | _ => m.cmdErr n c

/-- CTX_STOP_COMPLETE: the front stands at a laser-off point (R116). -/
def Mach.ctxStopComplete (m : Mach) (n : Fin 16) (c : Fin 8) : Mach :=
  let m := if m.fe[n].owner = some c ∧ m.fe[n].ctx[c].stopReq then m.front n else m
  let f := m.fe[n]
  if f.ctx[c].st = .active ∧ f.ctx[c].stopReq ∧ f.emit.isNone ∧ !f.ctx[c].ret.laserOn ∧
      (f.plan.head?.map (·.first)).getD true then
    (m.dropPlan n).haltCtx (.fe n c)
  else m

/-- A context after RESET: stacks empty, no tokens, IDLE. -/
def CtxRec.wiped (r : CtxRec) : CtxRec :=
  { r with st := .idle, wait := none, stopReq := false, ret := { r.ret with calls := [], loops := [] } }

/-- RESET of an FE context. -/
def Mach.ctxReset (m : Mach) (n : Fin 16) (c : Fin 8) : Mach :=
  if ctxBusy m.fe[n].ctx[c].st then m.cmdErr n c
  else (m.setCtx (.fe n c) m.fe[n].ctx[c].wiped).dropTokens (.fe n c)

/-- START of an axis context. -/
def Mach.axeStart (m : Mach) (a : Fin 8) : Mach :=
  if ctxIdle m.axis[a].ctx.st then
    m.startCtx (.axe a) (BitVec.ofNat 36 (m.addr (R.AXE_AX_CSTART_LO a) (R.AXE_AX_CSTART_HI a)))
  else m

/-- STOP of an axis context: every point of it is a laser-off point (R77). -/
def Mach.axeStop (m : Mach) (a : Fin 8) : Mach := if ctxBusy m.axis[a].ctx.st then m.haltCtx (.axe a) else m

/-- RESET of an axis context. -/
def Mach.axeReset (m : Mach) (a : Fin 8) : Mach :=
  if ctxBusy m.axis[a].ctx.st then m else m.setCtx (.axe a) m.axis[a].ctx.wiped

/-- A coordinator context is started at an address. -/
def Mach.cooStart (m : Mach) (c : Fin 8) (pc : Addr) : Mach :=
  if ctxIdle m.coo[c].st then m.startCtx (.coo c) pc else m

end Sys2Proof.Machine
end

