-- ==== Sys2Proof/Machine/View.lean ====
section
/-! DEFINITION. What a BAR0 or BAR2 read returns: stored registers, registers that show what a block
holds, windows, and the latch of 64-bit pairs (00, 01, 13). -/
namespace Sys2Proof.Machine

/-- A bit as a number in a field's place. -/
def bitAt (b : Bool) (k : Nat) : Nat := if b then 2 ^ k else 0

/-- Some fields of a register's word: value and lowest bit. -/
def fieldsWord (l : List (Nat × Nat)) : Nat := l.foldl (fun n p => n + p.1 * 2 ^ p.2) 0

/-! ## Field engines (R144, R145) -/

/-- Why the front waits, by the codes of WAIT. -/
def Mach.waitWhy (m : Mach) (n : Fin 16) : Nat :=
  let f := m.fe[n]
  match f.owner with
  | none => 6
  | some c =>
    if f.ctx[c].wait.isSome then 1
    else if f.replan.isSome then 2
    else match f.dwell with
      | some (_, k) => k.val + 2
      | none => 0

/-- STATUS of a field. -/
def Mach.feStatus (m : Mach) (n : Fin 16) : Nat :=
  fieldsWord [(((m.fe[n].owner.getD 0) : Fin 8).val, 0), (bool01 m.fe[n].active, 3), (bool01 (m.inFs n), 4),
    (m.waitWhy n, 8), (m.pstop n, 12)]

/-- LEAD: the lead in µs. -/
def Mach.leadUs (m : Mach) (n : Fin 16) : Nat := min 65535 (m.lead n / 800)

/-- State, wait and fault code of a context. -/
def CtxRec.stateWord (r : CtxRec) : Nat :=
  fieldsWord [(ctxCode r.st, 0), ((r.wait.map fun w => waitCode w.k).getD 0, 4), (r.fcode.toNat, 8)]

/-- The registers of a context that show its retired state, by offset; the stored word elsewhere. -/
def Mach.ctxReg (m : Mach) (x : Ctx) (o : Nat) (w : Nat) : Nat :=
  let r := m.ctx x
  let p := r.ret
  match o with
  | 0x00 => r.stateWord + bits w 3 3 * 8
  | 0x14 => p.pc.toNat % 2 ^ 32
  | 0x18 => p.pc.toNat / 2 ^ 32
  | 0x20 => r.retired % 2 ^ 32
  | 0x24 => r.retired / 2 ^ 32 % 2 ^ 32
  | 0x28 => p.px.toNat
  | 0x2C => p.py.toNat
  | 0x30 => p.mspeed.toNat
  | 0x34 => p.jspeed.toNat
  | 0x38 => p.power.toNat
  | 0x3C => p.dwell.toNat
  | 0x40 => fieldsWord [(p.poolTarget.toNat, 0), (p.poolStat.toNat, 16), (p.poolMode.toNat, 20)]
  | 0x44 => p.focus.toNat
  | 0x48 => p.overlap.toNat
  | 0x4C => p.ramp.toNat
  | 0x50 => fieldsWord [(p.mprof.toNat, 0), (p.mat.toNat, 8), (p.wshape.toNat, 16), (bool01 p.dep, 20),
      (bool01 p.k3, 21)]
  | 0x54 => fieldsWord [(p.wfreq.toNat, 0), (p.wamp.toNat, 16)]
  | 0x58 => m.tokenMask x
  | 0x5C => fieldsWord [(p.calls.length, 0), (p.loops.length, 4)]
  | _ => w

/-- LCH_STATUS: pin, G_int and pool mode beside the stored bits (R235). -/
def Mach.lchStatus (m : Mach) (n : Fin 16) (w : Nat) : Nat :=
  let w := putBits w 0 0 (bool01 m.pins[n].lgate)
  let w := putBits w 1 1 (bool01 (m.fe[n].lch.gintAt' m.mt))
  putBits w 7 6 m.fe[n].lch.kmode

/-- A displacement in BU; how it is rounded is open (log entry 42). -/
def frmBU (f : Int) : Nat := unsigned 32 (openRound 9 f 65536)

/-- A register of a field engine. -/
def Mach.feReg (m : Mach) (n : Fin 16) (o : Nat) (w : Nat) : Nat :=
  if 0x1000 ≤ o ∧ o < 0x1800 then m.ctxReg (.fe n (Fin.ofNat 8 ((o - 0x1000) / 0x100))) (o % 0x100) w
  else match o with
    | 0x0 => m.feStatus n
    | 0x14 => fieldsWord [(m.fe[n].segsLeft m.mt, 0), (m.fe[n].ckUsed, 16)]
    | 0x18 => m.leadUs n
    | 0x280C => match m.fe[n].spl.heldRef with
      | some v => v.toNat
      | none => w
    | 0x5000 => if m.on R.TRL_CTRL_EN then w else 0xFFFFFFFF
    | 0x5004 => if m.on R.TRL_CTRL_EN then w else 0xFFFFFFFF
    | 0x5008 => putBits w 12 8 (m.eff n)
    | 0x2818 => frmBU (m.frameF n).1
    | 0x281C => frmBU (m.frameF n).2
    | 0x4040 => m.lchStatus n w
    | 0x404C => fieldsWord [(m.fe[n].lch.keff m.mt, 0), (m.fe[n].lch.kpoolAt m.mt, 16)]
    | _ => w

/-! ## Axes (R351) -/

/-- STATUS of an axis. -/
def Axis.statusWord (x : Axis) : Nat :=
  fieldsWord [(axCode x.st, 0), (bool01 x.ref, 4), (bool01 x.limp.level, 5), (bool01 x.limn.level, 6),
    (bool01 x.home.level, 7), (bool01 x.qstop, 8), (x.queue.length, 9)]

/-- A register of an axis; the commanded position is its integer part and a fraction. -/
def Mach.axReg (m : Mach) (a : Fin 8) (o : Nat) (w : Nat) : Nat :=
  let x := m.axis[a]
  match o with
  | 0x60 => x.statusWord
  | 0x68 => unsigned 32 (x.posAt m.mt / 65536)
  | 0x6C => unsigned 16 (x.posAt m.mt)
  | 0x70 => if m.rd (R.AXE_AX_CFG_KIND a) = 2 then unsigned 32 x.steps else x.apos.toNat
  | 0x74 => unsigned 32 (x.latch / 65536)
  | 0x80 => fieldsWord [(ctxCode x.ctx.st, 0), (x.ctx.fcode.toNat, 8)]
  | 0x90 => x.ctx.ret.pc.toNat % 2 ^ 32
  | 0x94 => x.ctx.ret.pc.toNat / 2 ^ 32
  | _ => w

/-! ## The other blocks -/

/-- A register of TIM: the time bases, and the values latched with them (R47, R50, R64). -/
def Mach.timReg (m : Mach) (o : Nat) (w : Nat) : Nat :=
  match o with
  | 0x00 => m.mt % 2 ^ 32
  | 0x04 => m.mt / 2 ^ 32 % 2 ^ 32
  | 0x20 => m.tim.pt
  | 0x24 => m.tim.latchEpoch.toNat
  | 0x44 => m.tim.latchMtkPt.toNat
  | 0x48 => m.tim.latchMtkEpoch.toNat
  | 0x50 => m.tim.otSec
  | 0x54 => m.tim.latchOt.toNat
  | 0x58 => m.tim.pcc.toNat
  | _ => w

/-- Fail-safe time of a field: the total, and what the present one adds (R471). -/
def Mach.ftime (m : Mach) (n : Fin 16) : Nat :=
  m.rd64 (R.SAF_FS_FTIME_LO n) (R.SAF_FS_FTIME_HI n) + (if m.inFs n then m.mt - m.fe[n].fs.ftFrom else 0)

/-- A register of SAF: the lock of a field and its fail-safe time (R482, R471). -/
def Mach.safReg (m : Mach) (o : Nat) (w : Nat) : Nat :=
  if 0x1000 ≤ o ∧ o < 0x1400 then
    let n : Fin 16 := Fin.ofNat 16 ((o - 0x1000) / 0x40)
    match o % 0x40 with
    | 0x00 => putBits w 2 2 (bool01 (m.locked n))
    | 0x10 => m.ftime n % 2 ^ 32
    | 0x14 => m.ftime n / 2 ^ 32 % 2 ^ 32
    | _ => w
  else w

/-- The value that a slot presents on MON_i, signed Q8.24 (R206). -/
def Mach.slotMon (m : Mach) (s : Fin 160) (i : Nat) : Nat :=
  match m.slot[s].nout.find? fun o => o.port == 544 + i && decide (o.due ≤ m.mt) with
  | some o => unsigned 32 o.val.num
  | none => 0

/-- A register or window word of CE (R206). -/
def Mach.ceReg (m : Mach) (o : Nat) (w : Word) : Word :=
  if 0x4000 ≤ o ∧ o < 0x4A00 then
    BitVec.ofNat 32 (m.slotMon (Fin.ofNat 160 ((o - 0x4000) / 0x10)) (o % 0x10 / 4))
  else windowView o w

/-- The word at an address as its block shows it (R8, R10). -/
def Mach.view (m : Mach) (a : Nat) : Word :=
  let w := m.storedRead a
  if 0x2000000 ≤ a ∧ a < 0x2800000 then m.bookWord (a - 0x2000000)
  else if 0x2800000 ≤ a ∧ a < 0x3800000 then m.ledgerView ((a - 0x2800000) / 4)
  else if 0x30000 ≤ a ∧ a < 0x40000 then BitVec.ofNat 32 (m.timReg (a - 0x30000) w.toNat)
  else if 0x40000 ≤ a ∧ a < 0x50000 then BitVec.ofNat 32 (m.safReg (a - 0x40000) w.toNat)
  else if a = 0x50014 then BitVec.ofNat 32 (putBits w.toNat 10 0 m.cbk.queue.length)
  else if 0x400000 ≤ a ∧ a < 0x800000 then m.ceReg (a - 0x400000) w
  else if 0x800000 ≤ a ∧ a < 0xC00000 then BitVec.ofNat 32 (m.feReg (feIx a) (feOff a) w.toNat)
  else if 0xF01000 ≤ a ∧ a < 0xF01800 then
    BitVec.ofNat 32 (m.axReg (axIx a) ((a - 0xF01000) % 0x100) w.toNat)
  else w

/-- What a read of an address returns: a closed block answers ones, NAME_HI the latched value (R5,
R386). -/
def Mach.busRead (m : Mach) (a : Nat) : Word :=
  if !m.open? a then 0xFFFFFFFF
  else if pairOf a = 2 then m.latched (a - 4)
  else m.view a

/-- A read of NAME_LO answers and latches NAME_HI (R5). -/
def Mach.loRead (m : Mach) (a : Nat) : Mach :=
  if pairOf a ≠ 1 then m
  else
    let m1 := m.answer a (m.busRead a)
    if m.open? a then { m1 with hiLatch := sput m1.hiLatch a (m.view (a + 4)) } else m1

end Sys2Proof.Machine
end

