-- ==== Sys2Proof/Machine/Hook.lean ====
section
/-! DEFINITION. A host write of 32 bits: the access codes, and the effect that a register's own rule gives
the write (00, 01, and the register tables of the chapters). -/
namespace Sys2Proof.Machine

/-- A bit of a written word. -/
def vbit (v : Word) (i : Nat) : Bool := v.getLsbD i

/-- The written word with bits that are left as they stand. -/
def keepBits (old v : Word) (mask : Nat) : Word :=
  (v &&& ~~~ BitVec.ofNat 32 mask) ||| (old &&& BitVec.ofNat 32 mask)

/-! ## Management blocks -/

/-- GLB (R26, R507, R509). -/
def Mach.hookGlb (m : Mach) (o a : Nat) (v : Word) : Mach :=
  match o with
  | 0x14 => m.modeReq (bits v.toNat 2 0)
  | 0x20 => m.hostReset v
  | 0x24 => if v.toNat / 16 = 0x1D57F00 then m.fieldReset (Fin.ofNat 16 (v.toNat % 16)) else m
  | _ => m.plainWrite a v

/-- THM (R453). -/
def Mach.hookThm (m : Mach) (o a : Nat) (v : Word) : Mach :=
  if 0x1000 ≤ o ∧ o < 0x1160 then (if vbit v 18 then m.sensorClr (Fin.ofNat 88 ((o - 0x1000) / 4)) else m)
  else m.plainWrite a v

/-- TIM (R49, R51). -/
def Mach.hookTim (m : Mach) (o a : Nat) (v : Word) : Mach :=
  match o with
  | 0x30 => m.ptStep v
  | 0x2C => let m := m.plainWrite a v; m.setTim { m.tim with incNew := true }
  | _ => m.plainWrite a v

/-- SAF (R473, R477, R488, R481, R482). -/
def Mach.hookSaf (m : Mach) (o a : Nat) (v : Word) : Mach :=
  if 0x1000 ≤ o ∧ o < 0x1400 then
    let n : Fin 16 := Fin.ofNat 16 ((o - 0x1000) / 0x40)
    match o % 0x40 with
    | 0x04 => m.fsCmd n v.toNat
    | 0x14 => (m.plainWrite a v).modField n fun f => { f with fs := { f.fs with ftFrom := m.mt } }
    | _ => m.plainWrite a v
  else match o with
    | 0x0 => m.gstatClear (BitVec.ofNat 5 v.toNat)
    | 0x4 => if vbit v 2 then m.discClear else m
    | 0x20 => m.armWrite v
    | _ => m.plainWrite a v

/-- AFE (R462, R465). -/
def Mach.hookAfe (m : Mach) (o a : Nat) (v : Word) : Mach :=
  if 0x1000 ≤ o ∧ o % 0x1000 < 0x480 ∧ o < 0x3000 then
    let dac : Bool := decide (0x2000 ≤ o)
    let k : Fin 72 := Fin.ofNat 72 (o % 0x1000 / 16)
    match o % 16 with
    | 0x0 => m.calWrite dac k false (BitVec.ofNat 24 v.toNat)
    | 0x4 => m.calWrite dac k true (BitVec.ofNat 24 v.toNat)
    | 0x8 =>
      let m := m.applyWrite a (keepBits 0 v 0x20)
      if vbit v 5 then m.sliceClr dac k else m
    | _ => m
  else m.plainWrite a v

/-! ## HS and MEM -/

/-- BAR2 (R388, R401, R405). -/
def Mach.hookHsq (m : Mach) (o a : Nat) (v : Word) : Mach :=
  if o < 0x40000 then
    if o % 0x1000 = 0 then
      m.doorbell (Fin.ofNat 64 (o / 0x1000)) (v.toNat % 65536) (o < 0x20000 && vbit v 31)
    else m
  else if 0x100000 ≤ o ∧ o < 0x101000 then
    let i : Fin 64 := Fin.ofNat 64 ((o - 0x100000) / 0x40)
    if o % 0x40 < 0x10 then (if m.hsState i = 0 then m.plainWrite a v else m.wr (R.HSQ_STATUS_CFGERR i) 1)
    else if o % 0x40 = 0x10 then m.hsCtrl i v
    else m.plainWrite a v
  else if 0x200000 ≤ o ∧ o < 0x200400 ∧ o % 16 = 0xC then
    (m.plainWrite a v).msixRelease ((o - 0x200000) / 16)
  else m.plainWrite a v

/-- MEM (R355, R364, R375, R377). -/
def Mach.hookMem (m : Mach) (o a : Nat) (v : Word) : Mach :=
  if 0x4000 ≤ o ∧ o < 0x4300 ∧ o % 0x40 = 0 ∧ rtPort ((o - 0x4000) / 0x40) then
    (m.noteX a v).plainWrite a (keepBits (m.word a) v 3)
  else match o with
    | 0x20 => (m.plainWrite a v).rackEff
    | 0x24 => m.rackCmd v
    | _ => m.plainWrite a v

/-! ## CE -/

/-- A command to a slot (R182, R204). -/
def Mach.slotCmd (m : Mach) (s : Fin 160) (v : Nat) : Mach :=
  match v with
  | 1 => m.slotStart s
  | 2 => m.slotStop s
  | 3 => m.loadLib s
  | _ => m

/-- CE: CFG, LAT and the bindings are refused while the slot is RUN (R178, R198). -/
def Mach.hookCe (m : Mach) (o a : Nat) (v : Word) : Mach :=
  if 0x1000 ≤ o ∧ o < 0x3800 then
    let s : Fin 160 := Fin.ofNat 160 ((o - 0x1000) / 0x40)
    let k := o % 0x40
    if k = 0x8 then m.slotCmd s (bits v.toNat 1 0)
    else if k = 0x14 then
      let m := if vbit v 0 then m.swapRequest s else m
      if vbit v 1 then m.tuneApply s else m
    else if (k = 0x0 ∨ k = 0x4 ∨ k = 0x18 ∨ k = 0x1C) ∧ m.runs s then (m.noteX a v).slotRefuse s
    else m.plainWrite a v
  else if 0x100000 ≤ o then m.ceWindow o v
  else m.plainWrite a v

/-! ## Field engines -/

/-- A command to a context of a field (R116). -/
def Mach.ctxCmd (m : Mach) (n : Fin 16) (c : Fin 8) (v : Nat) : Mach :=
  match v with
  | 1 => m.ctxStart n c
  | 2 => m.ctxStop n c
  | 3 => m.ctxReset n c
  | _ => m

/-- FE (R116, R154, R167, R169, R220). -/
def Mach.hookFe (m : Mach) (n : Fin 16) (o a : Nat) (v : Word) : Mach :=
  if 0x1000 ≤ o ∧ o < 0x1800 ∧ o % 0x100 = 8 then
    m.ctxCmd n (Fin.ofNat 8 ((o - 0x1000) / 0x100)) (bits v.toNat 1 0)
  else match o with
    | 0x2408 => if vbit v 0 then m.corRequest n else m
    | 0x2800 =>
      let m' := m.plainWrite a v
      if m'.rd (R.FE_FRM_CTRL_SRC n) = m.rd (R.FE_FRM_CTRL_SRC n) then m' else m'.frameHold n none
    | 0x280C => m.pWrite a v
    | 0x2810 => m.pWrite a v
    | 0x4000 => (m.plainWrite a v).lchHold n
    | 0x4004 => (m.plainWrite a v).lchHold n
    | 0x4008 => if m.unlocked a then (m.plainWrite a v).lchHold n else m.plainWrite a v
    | _ => m.plainWrite a v

/-! ## IDLE (R18) -/

/-- The address lies in an island that IDLE switches off: CE or a field engine (R445). -/
def gatedAddr (a : Nat) : Bool := decide (0x400000 ≤ a ∧ a < 0xC00000)

/-- A register of CE or of a field engine whose write is a command and holds no value. -/
def isCommand (a : Nat) : Bool :=
  if a < 0x800000 then decide (0x401000 ≤ a ∧ a < 0x403800) && [0x8, 0x14].contains ((a - 0x401000) % 0x40)
  else (decide (0x1000 ≤ feOff a ∧ feOff a < 0x1800) && feOff a % 0x100 == 8) ||
    [0x2408, 0x2810].contains (feOff a)

/-- A write that does more than hold a value in its register: a command, a window of CE, a register whose
write is held for the field (R18). -/
def actsLater (a : Nat) : Bool :=
  isCommand a || decide (0x500000 ≤ a ∧ a < 0x800000) ||
  (decide (0x800000 ≤ a) && [0x2800, 0x280C, 0x4000, 0x4004, 0x4008].contains (feOff a))

/-- A write to a gated block in IDLE: it is recorded at once, and it acts when the block leaves IDLE (R18). -/
def Mach.idleWrite (m : Mach) (a : Nat) (v : Word) : Mach :=
  let m := if isCommand a then m else m.plainWrite a v
  if actsLater a then { m with idleWrites := m.idleWrites ++ [(a, v)] } else m

/-- The effect of a write to a gated block. -/
def Mach.gatedHook (m : Mach) (a : Nat) (v : Word) : Mach :=
  if a < 0x800000 then m.hookCe (a - 0x400000) a v else m.hookFe (feIx a) (feOff a) a v

/-- What was written in IDLE acts, oldest first (R18). -/
def Mach.idleActs (m : Mach) : Mach :=
  m.idleWrites.foldl (fun (m : Mach) p => m.gatedHook p.1 p.2) { m with idleWrites := [] }

/-- REQ 0; out of IDLE, what was written there acts then. -/
def Mach.hostActive (m : Mach) : Mach := if m.pstate = 2 ∧ m.reqActive.pstate = 0 then m.reqActive.idleActs else m.reqActive

/-- A power-state request (R446). -/
def Mach.pstateReq (m : Mach) (v : Nat) : Mach :=
  match v with
  | 0 => m.hostActive
  | 1 => m.reqHold
  | 2 => m.reqIdle
  | _ => m.reqStandby

/-- PWR (R439, R446). -/
def Mach.hookPwr (m : Mach) (o a : Nat) (v : Word) : Mach :=
  match o with
  | 0xC =>
    let m := m.applyWrite a (keepBits 0 v 1)
    if vbit v 0 then m.feedSwitch else m
  | 0x20 => m.pstateReq (bits v.toNat 1 0)
  | _ => m.plainWrite a v

/-! ## TRL and HLD -/

/-- A keep-out register is written and the extents follow (R245). -/
def Mach.koWrite (m : Mach) (r : KoReg) (v : Word) : Mach := (m.applyWrite (koAddr r) v).koCompute

/-- TRL (R245, R262). -/
def Mach.hookTrl (m : Mach) (o a : Nat) (v : Word) : Mach :=
  match o with
  | 0x20 => m.koWrite .dir v
  | 0x24 => m.koWrite .down v
  | 0x28 => m.koWrite .up v
  | 0x2C => m.koWrite .half v
  | 0x50 => (m.plainWrite a v).ringCfg
  | 0x54 => (m.plainWrite a v).ringCfg
  | 0x58 => (m.plainWrite a v).ringCfg
  | _ => m.plainWrite a v

/-- HLD: geometry and decay are refused while a context is ACTIVE (R277); what is written falls LEDOK
(R483). -/
def Mach.hookHld (m : Mach) (o a : Nat) (v : Word) : Mach :=
  if 0x4 ≤ o ∧ o ≤ 0x14 then
    if (List.finRange 16).any fun n => m.fe[n].active then m.wr R.HLD_STATUS_CFGERR 1
    else (m.plainWrite a v).ledBad
  else if o = 0 then (m.plainWrite a v).ledBad
  else m.plainWrite a v

/-! ## AXE -/

/-- A command to an axis context. -/
def Mach.axeCmd (m : Mach) (x : Fin 8) (v : Nat) : Mach :=
  match v with
  | 1 => m.axeStart x
  | 2 => m.axeStop x
  | 3 => m.axeReset x
  | _ => m

/-- AXE: CFG is written only while the axis is OFF (R330). -/
def Mach.hookAxe (m : Mach) (o a : Nat) (v : Word) : Mach :=
  if 0x1000 ≤ o ∧ o < 0x1800 then
    let x : Fin 8 := axIx a
    match o % 0x100 with
    | 0x00 => if m.axis[x].st = .off then m.plainWrite a v else m.wr (R.AXE_AX_CFG_CFGERR x) 1
    | 0x04 => m.pWrite a v
    | 0x08 => m.pWrite a v
    | 0x14 => m.pWrite a v
    | 0x2C => m.pWrite a v
    | 0x84 => m.axeCmd x (bits v.toNat 1 0)
    | _ => m.plainWrite a v
  else m.plainWrite a v

/-! ## IMG, CMP, RNG -/

/-- The camera ports (R283, R291). -/
def Mach.hookCam (m : Mach) (o a : Nat) (v : Word) : Mach :=
  let p : Fin 20 := Fin.ofNat 20 ((o - 0x1000) / 0x100)
  match o % 0x100 with
  | 0x00 => m.camWrite p v
  | 0x04 => m.camGeom p v
  | 0x18 => if vbit v 0 then m.camTrig p else m
  | _ => m.plainWrite a v

/-- The bed image processors: COMMIT of a set (R301). -/
def Mach.hookBi (m : Mach) (o a : Nat) (v : Word) : Mach :=
  let b : Fin 2 := Fin.ofNat 2 ((o - 0x20000) / 0x10000)
  let r := (o - 0x20000) % 0x10000
  if 0x400 ≤ r ∧ r < 0x800 ∧ r % 0x100 = 0x28 then
    (if vbit v 0 then m.shadowCommit (.stream b (Fin.ofNat 4 ((r - 0x400) / 0x100))) else m)
  else if 0x4000 ≤ r ∧ r % 0x4000 = 0x58 then
    (if vbit v 0 then m.shadowCommit (.bank b (Fin.ofNat 3 (r / 0x4000 - 1))) else m)
  else m.plainWrite a v

/-- IMG; EN of a pool pipeline begins its numbers anew (R227). -/
def Mach.hookImg (m : Mach) (o a : Nat) (v : Word) : Mach :=
  if 0x1000 ≤ o ∧ o < 0x2400 then m.hookCam o a v
  else if 0x10000 ≤ o ∧ o < 0x11000 ∧ o % 0x100 = 0 then
    let n : Fin 16 := Fin.ofNat 16 ((o - 0x10000) / 0x100)
    let m' := m.plainWrite a v
    if m.on (R.IMG_PP_CTRL_EN n) then m' else if vbit v 0 then m'.poolEnable n else m'
  else if 0x20000 ≤ o ∧ o < 0x40000 then m.hookBi o a v
  else m.plainWrite a v

/-- CTRL of the compositor (R322). -/
def Mach.cmpCtrl (m : Mach) (a : Nat) (v : Word) : Mach :=
  let m := m.applyWrite a (keepBits (m.word a) v 1)
  if vbit v 0 then m.timingEnable else m.wr R.CMP_CTRL_EN 0

/-- DP_CTRL (R323). -/
def Mach.dpCtrl (m : Mach) (a : Nat) (v : Word) : Mach :=
  let m := m.applyWrite a (keepBits (m.word a) (keepBits 0 v 0x100) 1)
  let m := if vbit v 0 then m.dpEnable
    else if m.on R.CMP_DP_CTRL_EN then (m.wr R.CMP_DP_CTRL_EN 0).linkOff else m
  if vbit v 8 then m.trainLink else m

/-- CMP (R317, R318, R322, R323, R328). -/
def Mach.hookCmp (m : Mach) (o a : Nat) (v : Word) : Mach :=
  if 0x1000 ≤ o ∧ o < 0x1800 ∧ o % 0x100 = 0x3C then
    (if vbit v 0 then m.dirtyWrite ((o - 0x1000) / 0x100) else m)
  else if cmpTiming a ∧ m.on R.CMP_CTRL_EN then m.wr R.CMP_CTRL_CFGERR 1
  else match o with
    | 0x0 => m.cmpCtrl a v
    | 0x8 => m.flipRequest (BitVec.ofNat 8 v.toNat)
    | 0x200 => m.dpCtrl a v
    | 0x210 => m.auxGo v
    | _ => m.plainWrite a v

/-- CTRL of the ring (R412, R418): a written MODE is judged where it differs. -/
def Mach.rngCtrl (m : Mach) (a : Nat) (v : Word) : Mach :=
  let old := m.word a
  let m := m.applyWrite a (keepBits old v 0x103)
  let m := if bits v.toNat 1 0 = bits old.toNat 1 0 then m else m.ringModeWrite (bits v.toNat 1 0)
  m.bypassWrite (vbit v 8)

/-- RNG (R412, R418, R422, R430). -/
def Mach.hookRng (m : Mach) (o a : Nat) (v : Word) : Mach :=
  match o with
  | 0x0 => m.rngCtrl a v
  | 0x8 => m.cycWrite v
  | 0x418 => if vbit v 2 then m.psack 0 else m
  | 0x498 => if vbit v 2 then m.psack 1 else m
  | _ => m.plainWrite a v

/-! ## The whole map -/

/-- The address is a BLK_UNLOCK (R31, R36). -/
def unlockAddr (a : Nat) : Bool := decide (a < 0x1600000) && a - blockBase a == 0xF0 && (findRow a).isSome

/-- The effect of a write on a block that answers. -/
def Mach.hook (m : Mach) (a : Nat) (v : Word) : Mach :=
  if unlockAddr a then m.unlockWrite (blockBase a) v
  else if 2 ^ 32 ≤ a then m.hookHsq (a - 2 ^ 32) a v
  else if a < 0x10000 then m.hookGlb a a v
  else if a < 0x20000 then m.hookPwr (a - 0x10000) a v
  else if a < 0x30000 then m.hookThm (a - 0x20000) a v
  else if a < 0x40000 then m.hookTim (a - 0x30000) a v
  else if a < 0x50000 then m.hookSaf (a - 0x40000) a v
  else if a < 0x60000 then m.plainWrite a v
  else if a < 0x70000 then m.hookAfe (a - 0x60000) a v
  else if a < 0x200000 then m.plainWrite a v
  else if a < 0x400000 then m.hookMem (a - 0x200000) a v
  else if a < 0x800000 then m.hookCe (a - 0x400000) a v
  else if a < 0xC00000 then m.hookFe (feIx a) (feOff a) a v
  else if a < 0xD00000 then m.hookTrl (a - 0xC00000) a v
  else if a < 0xE00000 then m.hookHld (a - 0xD00000) a v
  else if a < 0xF00000 then m.plainWrite a v
  else if a < 0x1000000 then m.hookAxe (a - 0xF00000) a v
  else if a < 0x1400000 then m.hookImg (a - 0x1000000) a v
  else if a < 0x1500000 then m.hookCmp (a - 0x1400000) a v
  else if a < 0x1600000 then m.hookRng (a - 0x1500000) a v
  else if 0x2800000 ≤ a ∧ a < 0x3800000 then m.ledgerWrite ((a - 0x2800000) / 4) v
  else m

/-- The effect of a write on a block that answers: in IDLE a gated block only records it (R18). -/
def Mach.accept (m : Mach) (a : Nat) (v : Word) : Mach :=
  if m.pstate = 2 ∧ gatedAddr a ∧ !unlockAddr a then m.idleWrite a v else m.hook a v

/-- A host write of 32 bits at a byte address (R13, R386). -/
def Mach.busWrite (m : Mach) (a : Nat) (v : Word) : Mach := m.ifOpen a (·.accept a v)

/-- A command to a block, or in IDLE its record (R18): `f` is what the command does, `a` and `v` the write
that gives it. -/
def Mach.command (m : Mach) (a : Nat) (v : Word) (f : Mach → Mach) : Mach :=
  m.ifOpen a fun m => if m.pstate = 2 ∧ gatedAddr a then m.idleWrite a v else f m

/-- A host read of 32 bits, with what it latches (R5, R47, R50, R64). -/
def Mach.read32 (m : Mach) (a : Nat) : Mach :=
  if a = R.TIM_MTK_SEQ.a then m.mtkSeqRead
  else if a = R.TIM_PT.a then m.ptRead
  else if a = R.TIM_OT_SEC.a then m.otRead
  else if pairOf a = 1 then m.loRead a
  else m.answer a (m.busRead a)

/-- A read narrower than 32 bits returns the addressed bytes of the register (R17). -/
def Mach.narrowRead (m : Mach) (a n : Nat) : List Byte :=
  ((leBytes 4 (m.busRead (a / 4 * 4)).toNat).drop (a % 4)).take n

/-- An access of 64 bits or more is carried out as aligned accesses of 32 bits in rising order (R17). -/
def Mach.wideRead (m : Mach) (a k : Nat) : Mach :=
  (List.range k).foldl (fun (m : Mach) i => m.read32 (a + 4 * i)) m

def Mach.wideWrite (m : Mach) (a : Nat) (vs : List Word) : Mach :=
  (indexed vs).foldl (fun (m : Mach) p => m.busWrite (a + 4 * p.1) p.2) m

/-- A narrow write: ignored, and BADACC is set; to a closed block it is counted as well (R17, R386). -/
def Mach.narrowWrite (m : Mach) (a : Nat) : Mach :=
  (if m.open? a then m else m.early).wr R.GLB_STATUS_BADACC 1

/-- Base of a field engine's registers (R36). -/
def feBase (n : Fin 16) : Nat := 0x800000 + n * 0x40000

/-! ## Held work of a field (R154, R169, R220) -/

/-- The front stands at a speculation barrier. -/
def Field.atBarrier (f : Field) : Bool :=
  (match f.replan with | some r => r.why == .barrier | none => false) ||
  (match f.owner with | some c => f.ctx[c].wait.isSome | none => false)

/-- COR_LOAD_EXECUTE: a pending load is taken at a barrier, or with no ACTIVE context (R154). -/
def Mach.corExecute (m : Mach) (n : Fin 16) : Mach :=
  if m.fe[n].corPending && (!m.fe[n].active || m.fe[n].atBarrier) then m.corTake n else m

/-- FRAME_PENDING_APPLY: held SRC, REF and LATCH writes act with no ACTIVE context (R169). -/
def Mach.framePending (m : Mach) (n : Fin 16) : Mach :=
  if m.on (R.FE_FRM_CTRL_PEND n) && !m.fe[n].active then m.frameApply n else m

/-- LCH_PENDING_APPLY: held laser writes act with no ACTIVE context (R220). -/
def Mach.lchPending (m : Mach) (n : Fin 16) : Mach :=
  if m.on (R.FE_LCH_STATUS_PEND n) && !m.fe[n].active then m.lchApply n else m

/-! ## Odd writes -/

/-- The byte address that a narrow write names: bit 26 set for BAR2. -/
def narrowAddr (a : BitVec 27) : Nat := if a.toNat < 2 ^ 26 then a.toNat else a.toNat - 2 ^ 26 + 2 ^ 32

/-- A write to NAME_LO of a pair, or to NAME_HI (R14); an address that is not that half has no such write. -/
def Mach.pairWrite (m : Mach) (half a : Nat) (v : Word) : Mach := if pairOf a = half then m.busWrite a v else m

/-- A configuration request is answered with the configuration word, which the spec leaves to PCIe. -/
def Mach.configRequest (m : Mach) (a : BitVec 10) : Mach :=
  if !m.on R.HS_LINK_UP then m
  else
    let v := if a = 0 then BitVec.ofNat 32 (m.rd R.HS_PCI_ID_VID + m.rd R.HS_PCI_ID_DID * 65536) else Config.cfgWord a
    { m with out := .cfgReply a v :: m.out }

end Sys2Proof.Machine
end

