-- ==== Sys2Proof/Machine/RowsAxis.lean ====
section
/-! DEFINITION. The commands of the axis engine (11). -/
namespace Sys2Proof.Machine

/-- AXIS_HOME (R344). -/
def execAxisHome (dt : Nat) (a : Fin 8) (s : State) :
    Host.Outcome State Fault Refusal :=
  s.done (((s.at dt).ifOpen 0xF00000 (·.axHome a)).wakeAll)

/-- AXIS_STOP (R336). -/
def execAxisStop (dt : Nat) (a : Fin 8) (s : State) :
    Host.Outcome State Fault Refusal :=
  s.done (((s.at dt).ifOpen 0xF00000 (·.axStopCmd a)).wakeAll)

/-- AXIS_FLUSH (R353). -/
def execAxisFlush (dt : Nat) (a : Fin 8) (s : State) :
    Host.Outcome State Fault Refusal :=
  s.done (((s.at dt).ifOpen 0xF00000 (·.axFlush a)).wakeAll)

/-- AXIS_CLRF (R349). -/
def execAxisClrf (dt : Nat) (a : Fin 8) (s : State) :
    Host.Outcome State Fault Refusal :=
  s.done (((s.at dt).ifOpen 0xF00000 (·.axClrf a)).wakeAll)

/-- AXIS_SETPOS (R342). -/
def execAxisSetpos (dt : Nat) (a : Fin 8) (s : State) :
    Host.Outcome State Fault Refusal :=
  s.done (((s.at dt).ifOpen 0xF00000 (·.axSetpos a)).wakeAll)

/-- PUSH_MOVE (R333). -/
def execPushMove (dt : Nat) (a : Fin 8) (s : State) :
    Host.Outcome State Fault Refusal :=
  s.done (((s.at dt).ifOpen 0xF00000 (·.pushMove a false)).wakeAll)

/-- PUSH_RELATIVE_MOVE (R333). -/
def execPushRelativeMove (dt : Nat) (a : Fin 8) (s : State) :
    Host.Outcome State Fault Refusal :=
  s.done (((s.at dt).ifOpen 0xF00000 (·.pushMove a true)).wakeAll)

/-- PUSH_RAW_SEGMENT (R333). -/
def execPushRawSegment (dt : Nat) (a : Fin 8) (s : State) :
    Host.Outcome State Fault Refusal :=
  s.done (((s.at dt).ifOpen 0xF00000 (·.pushRaw a)).wakeAll)

/-- AXIS_ENABLE (R330). -/
def execAxisEnable (dt : Nat) (a : Fin 8) (enable : Bool) (s : State) :
    Host.Outcome State Fault Refusal :=
  s.done (((s.at dt).ifOpen 0xF00000 (·.axEnable a enable)).wakeAll)

/-- PROFILER_COMMIT (R334). -/
def execProfilerCommit (dt : Nat) (a : Fin 8) (segs : List AxSeg) (s : State) :
    Host.Outcome State Fault Refusal :=
  s.done (((s.at dt).axProfile a segs).wakeAll)

/-- AXIS_INPUT_SAMPLE (R343). -/
def execAxisInputSample (dt : Nat) (a : Fin 8) (home limp limn : Bool) (s : State) :
    Host.Outcome State Fault Refusal :=
  s.done (((s.at dt).axInputs a home limp limn).wakeAll)

/-- FEEDBACK_TIMEOUT (R340). -/
def execFeedbackTimeout (dt : Nat) (a : Fin 8) (s : State) :
    Host.Outcome State Fault Refusal :=
  s.done (((s.at dt).axFbTimeout a).wakeAll)

/-- AXE_CTX_START (R348). -/
def execAxeCtxStart (dt : Nat) (a : Fin 8) (s : State) :
    Host.Outcome State Fault Refusal :=
  s.done (((s.at dt).ifOpen 0xF00000 (·.axeStart a)).wakeAll)

/-- AXE_CTX_STOP (R348). -/
def execAxeCtxStop (dt : Nat) (a : Fin 8) (s : State) :
    Host.Outcome State Fault Refusal :=
  s.done (((s.at dt).ifOpen 0xF00000 (·.axeStop a)).wakeAll)

/-- AXE_CTX_RESET (R348). -/
def execAxeCtxReset (dt : Nat) (a : Fin 8) (s : State) :
    Host.Outcome State Fault Refusal :=
  s.done (((s.at dt).ifOpen 0xF00000 (·.axeReset a)).wakeAll)

/-- AXIS_AT_REST (R338). -/
def execAxisAtRest (dt : Nat) (a : Fin 8) (s : State) :
    Host.Outcome State Fault Refusal :=
  s.done (((s.at dt).axRest a).wakeAll)

end Sys2Proof.Machine
end

