-- ==== Sys2Proof/Machine/RowsCe.lean ====
section
/-! DEFINITION. The commands of the control engine (06). -/
namespace Sys2Proof.Machine

/-- SLOT_SAMPLE (R179). -/
def execSlotSample (dt : Nat) (k : Fin 160) (s : State) :
    Host.Outcome State Fault Refusal :=
  s.done ((s.at dt).slotSample k)

/-- EXECUTION_COMPLETE (R195). -/
def execExecutionComplete (dt : Nat) (k : Fin 160) (s : State) :
    Host.Outcome State Fault Refusal :=
  s.done ((s.at dt).execComplete k)

/-- EXECUTION_DROP (R181). -/
def execExecutionDrop (dt : Nat) (k : Fin 160) (s : State) :
    Host.Outcome State Fault Refusal :=
  s.done ((s.at dt).execDrop k)

/-- SLOT_START (R183). -/
def execSlotStart (dt : Nat) (k : Fin 160) (s : State) :
    Host.Outcome State Fault Refusal :=
  s.done ((s.at dt).command (R.CE_SLOT_CMD k).a 1 (·.slotStart k))

/-- SLOT_STOP (R182). -/
def execSlotStop (dt : Nat) (k : Fin 160) (s : State) :
    Host.Outcome State Fault Refusal :=
  s.done ((s.at dt).command (R.CE_SLOT_CMD k).a 2 (·.slotStop k))

/-- LOADLIB (R204). -/
def execLoadlib (dt : Nat) (k : Fin 160) (s : State) :
    Host.Outcome State Fault Refusal :=
  s.done ((s.at dt).command (R.CE_SLOT_CMD k).a 3 (·.loadLib k))

/-- SWAP_REQUEST (R202). -/
def execSwapRequest (dt : Nat) (k : Fin 160) (s : State) :
    Host.Outcome State Fault Refusal :=
  s.done ((s.at dt).command (R.CE_SLOT_SWAP_REQ k).a 1 (·.swapRequest k))

/-- TUNE_APPLY (R204). -/
def execTuneApply (dt : Nat) (k : Fin 160) (s : State) :
    Host.Outcome State Fault Refusal :=
  s.done ((s.at dt).command (R.CE_SLOT_SWAP_APPLY k).a 2 (·.tuneApply k))

/-- CE_WINDOW_WRITE (R206). -/
def execCeWindowWrite (dt : Nat) (a : BitVec 24) (v : Word) (s : State) :
    Host.Outcome State Fault Refusal :=
  s.done ((s.at dt).command (0x400000 + a.toNat) v (·.ceWindow a.toNat v))

/-- TUNING_COMPLETE (R204). -/
def execTuningComplete (dt : Nat) (k : Fin 160) (s : State) :
    Host.Outcome State Fault Refusal :=
  s.done ((s.at dt).tuneDone k)

end Sys2Proof.Machine
end

