-- ==== Sys2Proof/Machine/RowsCmp.lean ====
section
/-! DEFINITION. The commands of composition (10). -/
namespace Sys2Proof.Machine

/-- CMP_FLIP_REQUEST (R318). -/
def execCmpFlipRequest (dt : Nat) (lmask : Byte) (s : State) :
    Host.Outcome State Fault Refusal :=
  s.done ((s.at dt).ifOpen 0x1400000 (·.flipRequest lmask))

/-- FENCE_READ (R319). -/
def execFenceRead (dt : Nat) (s : State) :
    Host.Outcome State Fault Refusal :=
  s.done ((s.at dt).fenceRead)

/-- FRAME_BOUNDARY (R320). -/
def execFrameBoundary (dt : Nat) (s : State) :
    Host.Outcome State Fault Refusal :=
  s.done ((s.at dt).frameBoundary)

/-- LINE_OUTPUT (R325). -/
def execLineOutput (dt : Nat) (line : BitVec 14) (late : Byte) (s : State) :
    Host.Outcome State Fault Refusal :=
  s.done ((s.at dt).lineOutput line.toNat late)

/-- DIRTY_WRITE (R317). -/
def execDirtyWrite (dt : Nat) (l : Fin 8) (s : State) :
    Host.Outcome State Fault Refusal :=
  s.done ((s.at dt).ifOpen 0x1400000 (·.dirtyWrite l))

/-- FLATTEN_COMPLETE (R317). -/
def execFlattenComplete (dt : Nat) (s : State) :
    Host.Outcome State Fault Refusal :=
  s.done ((s.at dt).flattenDone)

/-- TIMING_ENABLE (R322). -/
def execTimingEnable (dt : Nat) (s : State) :
    Host.Outcome State Fault Refusal :=
  s.done ((s.at dt).ifOpen 0x1400000 (·.timingEnable))

/-- HPD_CHANGE (R323). -/
def execHpdChange (dt : Nat) (level : Bool) (s : State) :
    Host.Outcome State Fault Refusal :=
  s.done ((s.at dt).hpdChange level)

/-- DP_ENABLE (R323). -/
def execDpEnable (dt : Nat) (s : State) :
    Host.Outcome State Fault Refusal :=
  s.done ((s.at dt).ifOpen 0x1400000 (·.dpEnable))

/-- DP_RETRAIN (R323). -/
def execDpRetrain (dt : Nat) (s : State) :
    Host.Outcome State Fault Refusal :=
  s.done ((s.at dt).ifOpen 0x1400000 (·.trainLink))

/-- LINK_TRAINING_COMPLETE (R323). -/
def execLinkTrainingComplete (dt : Nat) (result : Option (Fin 3 × BitVec 3)) (s : State) :
    Host.Outcome State Fault Refusal :=
  s.done ((s.at dt).linkTrained result)

/-- AUX_GO (R328). -/
def execAuxGo (dt : Nat) (v : Word) (s : State) :
    Host.Outcome State Fault Refusal :=
  s.done ((s.at dt).ifOpen 0x1400000 (·.auxGo v))

/-- AUX_REPLY (R328). -/
def execAuxReply (dt : Nat) (reply : BitVec 2) (data : List Byte) (s : State) :
    Host.Outcome State Fault Refusal :=
  s.done ((s.at dt).auxReply reply data)

end Sys2Proof.Machine
end

