-- ==== Sys2Proof/Machine/RowsFe.lean ====
section
/-! DEFINITION. The commands of the field engines (04). -/
namespace Sys2Proof.Machine

/-- EMISSION_FRONT_REACH (R133). -/
def execEmissionFrontReach (dt : Nat) (x : Ctx) (s : State) :
    Host.Outcome State Fault Refusal :=
  s.done (((s.at dt).frontReach x).wakeAll)

/-- PLANNER_DECODE (R122). -/
def execPlannerDecode (dt : Nat) (n : Fin 16) (segs : List Seg) (slowed : List (BitVec 8)) (s : State) :
    Host.Outcome State Fault Refusal :=
  s.done (((s.at dt).plannerDecode n segs slowed).wakeAll)

/-- SUMMARY_PUBLISH (R248). -/
def execSummaryPublish (dt : Nat) (n : Fin 16) (slice : Nat) (s : State) :
    Host.Outcome State Fault Refusal :=
  s.done ((s.at dt).publish n slice)

/-- REPLAN_READY (R138). -/
def execReplanReady (dt : Nat) (n : Fin 16) (s : State) :
    Host.Outcome State Fault Refusal :=
  s.done (((s.at dt).replanReady n).wakeAll)

/-- CTX_START (R116). -/
def execCtxStart (dt : Nat) (n : Fin 16) (c : Fin 8) (s : State) :
    Host.Outcome State Fault Refusal :=
  s.done (((s.at dt).command (R.FE_CTX_CMD n c).a 1 (·.ctxStart n c)).wakeAll)

/-- CTX_STOP (R116). -/
def execCtxStop (dt : Nat) (n : Fin 16) (c : Fin 8) (s : State) :
    Host.Outcome State Fault Refusal :=
  s.done (((s.at dt).command (R.FE_CTX_CMD n c).a 2 (·.ctxStop n c)).wakeAll)

/-- CTX_STOP_COMPLETE (R116). -/
def execCtxStopComplete (dt : Nat) (n : Fin 16) (c : Fin 8) (s : State) :
    Host.Outcome State Fault Refusal :=
  s.done (((s.at dt).ctxStopComplete n c).wakeAll)

/-- CTX_RESET (R116). -/
def execCtxReset (dt : Nat) (n : Fin 16) (c : Fin 8) (s : State) :
    Host.Outcome State Fault Refusal :=
  s.done (((s.at dt).command (R.FE_CTX_CMD n c).a 3 (·.ctxReset n c)).wakeAll)

/-- EMISSION_GRANT (R117). -/
def execEmissionGrant (dt : Nat) (n : Fin 16) (s : State) :
    Host.Outcome State Fault Refusal :=
  s.done ((s.at dt).emissionGrant n)

/-- CONTEXT_SWITCH (R120). -/
def execContextSwitch (dt : Nat) (n : Fin 16) (s : State) :
    Host.Outcome State Fault Refusal :=
  s.done ((s.at dt).contextSwitch n)

/-- LASER_ON_RUN_START (R126). -/
def execLaserOnRunStart (dt : Nat) (n : Fin 16) (s : State) :
    Host.Outcome State Fault Refusal :=
  s.done ((s.at dt).runStart n)

/-- PLAN_UNDERRUN (R127). -/
def execPlanUnderrun (dt : Nat) (n : Fin 16) (s : State) :
    Host.Outcome State Fault Refusal :=
  s.done ((s.at dt).underrun n)

end Sys2Proof.Machine
end

