-- ==== Sys2Proof/Machine/RowsHs.lean ====
section
/-! DEFINITION. The commands of the host stream (13). -/
namespace Sys2Proof.Machine

/-- H2D_DOORBELL (R388). -/
def execH2dDoorbell (dt : Nat) (q : Fin 32) (v : Word) (s : State) :
    Host.Outcome State Fault Refusal :=
  s.done (((s.at dt).doorbell (h2d q) (v.toNat % 65536) (vbit v 31)).wakeAll)

/-- DOORBELL_RETRY (R394). -/
def execDoorbellRetry (dt : Nat) (q : Fin 32) (tail : BitVec 16) (s : State) :
    Host.Outcome State Fault Refusal :=
  s.done (((s.at dt).doorbell (h2d q) tail.toNat true).wakeAll)

/-- D2H_DOORBELL (R388). -/
def execD2hDoorbell (dt : Nat) (q : Fin 32) (v : Word) (s : State) :
    Host.Outcome State Fault Refusal :=
  s.done (((s.at dt).doorbell (d2h q) (v.toNat % 65536) false).wakeAll)

/-- DESCRIPTOR_START (R390). -/
def execDescriptorStart (dt : Nat) (q : Fin 64) (d : Descriptor) (s : State) :
    Host.Outcome State Fault Refusal :=
  s.done (((s.at dt).descStart q d).wakeAll)

/-- DESC_WRITE (R393). -/
def execDescWrite (dt : Nat) (q : Fin 32) (s : State) :
    Host.Outcome State Fault Refusal :=
  s.done ((s.at dt).descWrite q)

/-- H2D_DATA_RECEIVED (R393). -/
def execH2dDataReceived (dt : Nat) (q : Fin 32) (data : List Byte) (s : State) :
    Host.Outcome State Fault Refusal :=
  s.done (((s.at dt).h2dData q data).wakeAll)

/-- DESC_WRITE_COMPLETE (R393). -/
def execDescWriteComplete (dt : Nat) (q : Fin 32) (s : State) :
    Host.Outcome State Fault Refusal :=
  s.done (((s.at dt).writeDone q).wakeAll)

/-- DESC_READ (R395). -/
def execDescRead (dt : Nat) (q : Fin 32) (s : State) :
    Host.Outcome State Fault Refusal :=
  s.done (((s.at dt).descRead q).wakeAll)

/-- DESC_SYNC (R398). -/
def execDescSync (dt : Nat) (q : Fin 64) (s : State) :
    Host.Outcome State Fault Refusal :=
  s.done (((s.at dt).descSync q).wakeAll)

/-- SYNC_FENCE_COMPLETE (R369). -/
def execSyncFenceComplete (dt : Nat) (q : Fin 64) (s : State) :
    Host.Outcome State Fault Refusal :=
  s.done (((s.at dt).syncDone q).wakeAll)

/-- DESC_PUSH (R399). -/
def execDescPush (dt : Nat) (q : Fin 32) (s : State) :
    Host.Outcome State Fault Refusal :=
  s.done (((s.at dt).descPush q).wakeAll)

/-- QUEUE_ENABLE (R401). -/
def execQueueEnable (dt : Nat) (q : Fin 64) (v : Word) (s : State) :
    Host.Outcome State Fault Refusal :=
  s.done (((s.at dt).hsCtrl q (v ||| 1)).wakeAll)

/-- QUEUE_DISABLE (R402). -/
def execQueueDisable (dt : Nat) (q : Fin 64) (v : Word) (s : State) :
    Host.Outcome State Fault Refusal :=
  s.done (((s.at dt).hsCtrl q (v &&& ~~~1)).wakeAll)

/-- HOST_ACCESS_ERROR (R397). -/
def execHostAccessError (dt : Nat) (q : Fin 64) (e : HostErr) (s : State) :
    Host.Outcome State Fault Refusal :=
  s.done (((s.at dt).hostError q e).wakeAll)

/-- PCIE_LINK_UP (R384). -/
def execPcieLinkUp (dt : Nat) (speed : BitVec 3) (width : BitVec 4) (s : State) :
    Host.Outcome State Fault Refusal :=
  s.done ((s.at dt).linkUp speed width)

/-- PCIE_LINK_DOWN (R403). -/
def execPcieLinkDown (dt : Nat) (s : State) :
    Host.Outcome State Fault Refusal :=
  s.done ((s.at dt).linkDown.wakeAll)

/-- D3HOT_ENTRY (R403). -/
def execD3hotEntry (dt : Nat) (s : State) :
    Host.Outcome State Fault Refusal :=
  s.done ((s.at dt).d3hot.wakeAll)

/-- HOT_RESET (R404). -/
def execHotReset (dt : Nat) (s : State) :
    Host.Outcome State Fault Refusal :=
  s.done ((s.at dt).hotReset)

/-- AER_ERROR_LOGGED (R407). -/
def execAerErrorLogged (dt : Nat) (uncorrectable : Bool) (s : State) :
    Host.Outcome State Fault Refusal :=
  s.done ((s.at dt).aerLogged uncorrectable)

/-- MSIX_UNMASK (R405). -/
def execMsixUnmask (dt : Nat) (vec : Option (BitVec 6)) (s : State) :
    Host.Outcome State Fault Refusal :=
  s.done ((s.at dt).msixUnmask vec)

end Sys2Proof.Machine
end

