-- ==== Sys2Proof/Machine/RowsImg.lean ====
section
/-! DEFINITION. The commands of imaging (09, 07). -/
namespace Sys2Proof.Machine

/-- POOL_RECORD_DELIVER (R232). -/
def execPoolRecordDeliver (dt : Nat) (n : Fin 16) (s : State) :
    Host.Outcome State Fault Refusal :=
  s.done ((s.at dt).poolDeliver n)

/-- CAMERA_ENABLE (R283): a write of CTRL. -/
def execCameraEnable (dt : Nat) (p : Fin 20) (v : Word) (s : State) :
    Host.Outcome State Fault Refusal :=
  s.done ((s.at dt).ifOpen 0x1000000 (·.camWrite p v))

/-- CAMERA_DISABLE (R284). -/
def execCameraDisable (dt : Nat) (p : Fin 20) (s : State) :
    Host.Outcome State Fault Refusal :=
  s.done ((s.at dt).ifOpen 0x1000000 (·.camDisable p))

/-- CSI_PACKET_RECEIVE (R281, R282). -/
def execCsiPacketReceive (dt : Nat) (p : Fin 20) (pkt : CsiPacket) (s : State) :
    Host.Outcome State Fault Refusal :=
  s.done ((s.at dt).csiPacket p pkt)

/-- CAMERA_FRAME_START (R285). -/
def execCameraFrameStart (dt : Nat) (p : Fin 20) (s : State) :
    Host.Outcome State Fault Refusal :=
  s.done ((s.at dt).frameStart p)

/-- CAMERA_FRAME_END (R285). -/
def execCameraFrameEnd (dt : Nat) (p : Fin 20) (s : State) :
    Host.Outcome State Fault Refusal :=
  s.done ((s.at dt).frameEnd p)

/-- FRAME_TIMEOUT (R285). -/
def execFrameTimeout (dt : Nat) (p : Fin 20) (s : State) :
    Host.Outcome State Fault Refusal :=
  s.done ((s.at dt).frameTimeout p)

/-- TRIGGER_DISCARD (R291, R227). -/
def execTriggerDiscard (dt : Nat) (p : Fin 20) (s : State) :
    Host.Outcome State Fault Refusal :=
  s.done ((s.at dt).trigDiscard p)

/-- CAMERA_TRIG (R291). -/
def execCameraTrig (dt : Nat) (p : Fin 20) (s : State) :
    Host.Outcome State Fault Refusal :=
  s.done ((s.at dt).ifOpen 0x1000000 (·.camTrig p))

/-- BI_TAKE_FRAME (R295). -/
def execBiTakeFrame (dt : Nat) (b : Fin 2) (s : State) :
    Host.Outcome State Fault Refusal :=
  s.done ((s.at dt).biTake b)

/-- BI_FRAME_COMPLETE (R297). -/
def execBiFrameComplete (dt : Nat) (b : Fin 2) (s : State) :
    Host.Outcome State Fault Refusal :=
  s.done ((s.at dt).biComplete b)

/-- SHADOW_COMMIT (R301). -/
def execShadowCommit (dt : Nat) (set : ShadowSet) (s : State) :
    Host.Outcome State Fault Refusal :=
  s.done ((s.at dt).ifOpen 0x1000000 (·.shadowCommit set))

/-- DPHY_SYNC_ERROR (R310). -/
def execDphySyncError (dt : Nat) (p : Fin 20) (s : State) :
    Host.Outcome State Fault Refusal :=
  s.done ((s.at dt).dphyError p)

end Sys2Proof.Machine
end

