-- ==== Sys2Proof/Machine/RowsLaser.lean ====
section
/-! DEFINITION. The commands of the laser channels (07). -/
namespace Sys2Proof.Machine

/-- DIRECT_POWER_UPDATE (R218). -/
def execDirectPowerUpdate (dt : Nat) (n : Fin 16) (s : State) :
    Host.Outcome State Fault Refusal :=
  s.done ((s.at dt).directPower n)

/-- LCH_PENDING_APPLY (R220). -/
def execLchPendingApply (dt : Nat) (n : Fin 16) (s : State) :
    Host.Outcome State Fault Refusal :=
  s.done ((s.at dt).lchPending n)

/-- LASER_ALARM (R223). -/
def execLaserAlarm (dt : Nat) (n : Fin 16) (s : State) :
    Host.Outcome State Fault Refusal :=
  s.done ((s.at dt).laserAlarm n)

/-- LASER_READY_CHANGE (R224). -/
def execLaserReadyChange (dt : Nat) (n : Fin 16) (active : Bool) (s : State) :
    Host.Outcome State Fault Refusal :=
  s.done ((s.at dt).laserReady n active)

/-- PD_CHECK (R225). -/
def execPdCheck (dt : Nat) (n : Fin 16) (s : State) :
    Host.Outcome State Fault Refusal :=
  s.done ((s.at dt).pdCheck n)

/-- LASER_ALARM_INACTIVE (R223). -/
def execLaserAlarmInactive (dt : Nat) (n : Fin 16) (s : State) :
    Host.Outcome State Fault Refusal :=
  s.done ((s.at dt).laserAlarmOff n)

end Sys2Proof.Machine
end

