-- ==== Sys2Proof/Machine/RowsMem.lean ====
section
/-! DEFINITION. The commands of the memory subsystem (12). -/
namespace Sys2Proof.Machine

/-- MEM_READ (R357 to R361). -/
def execMemRead (dt : Nat) (port : Fin 12) (stream : Byte) (addr : BitVec 40) (find : EccFind) (level : BitVec 4)
   (s : State) :
    Host.Outcome State Fault Refusal :=
  s.done ((s.at dt).memRead port stream addr.toNat find level.toNat)

/-- MEM_WRITE (R361). -/
def execMemWrite (dt : Nat) (port : Fin 12) (stream : Byte) (addr : BitVec 40) (data : List Byte) (find : EccFind)
   (level : BitVec 4) (s : State) :
    Host.Outcome State Fault Refusal :=
  s.done ((s.at dt).memWrite port stream addr.toNat data find level.toNat)

/-- AGE_PROMOTION (R365). -/
def execAgePromotion (dt : Nat) (port : Fin 12) (s : State) :
    Host.Outcome State Fault Refusal :=
  s.done ((s.at dt).agePromote port)

/-- ROW_IDLE_CLOSE (R367). -/
def execRowIdleClose (dt : Nat) (ch : Fin 2) (rank : Fin 3) (bank : BitVec 5) (s : State) :
    Host.Outcome State Fault Refusal :=
  s.done ((s.at dt).rowClose ch rank bank)

/-- SCRUB_READ (R362). -/
def execScrubRead (dt : Nat) (ch : Fin 2) (rank : Fin 3) (find : EccFind) (s : State) :
    Host.Outcome State Fault Refusal :=
  s.done ((s.at dt).scrubRead ch rank find)

/-- CA_PARITY_ALERT (R363). -/
def execCaParityAlert (dt : Nat) (ch : Fin 2) (rank : Fin 3) (s : State) :
    Host.Outcome State Fault Refusal :=
  s.done ((s.at dt).caParity ch rank)

/-- REFRESH (R370). -/
def execRefresh (dt : Nat) (ch : Fin 2) (rank : Fin 3) (s : State) :
    Host.Outcome State Fault Refusal :=
  s.done ((s.at dt).refreshRank ch rank)

/-- DRAM_TEMP_READ (R370). -/
def execDramTempRead (dt : Nat) (temps : List Int) (s : State) :
    Host.Outcome State Fault Refusal :=
  s.done ((s.at dt).dramTemps temps)

/-- RETRAIN_WINDOW (R372, R373). -/
def execRetrainWindow (dt : Nat) (ch : Fin 2) (rank : Fin 3) (last ok : Bool) (temp : Int) (s : State) :
    Host.Outcome State Fault Refusal :=
  s.done ((s.at dt).trainWindow ch rank last ok temp)

/-- RACK_CMD (R375). -/
def execRackCmd (dt : Nat) (v : Word) (s : State) :
    Host.Outcome State Fault Refusal :=
  s.done ((s.at dt).ifOpen 0x200000 (·.rackCmd v))

/-- RACK_COPY_LINE (R376, R377). -/
def execRackCopyLine (dt : Nat) (ch : Fin 2) (find : EccFind) (s : State) :
    Host.Outcome State Fault Refusal :=
  s.done ((s.at dt).rackCopy ch find)

/-- RACK_COMPLETE (R378). -/
def execRackComplete (dt : Nat) (ch : Fin 2) (s : State) :
    Host.Outcome State Fault Refusal :=
  s.done ((s.at dt).rackDone ch)

/-- RMAP_CLR (R355): CLR acts at the next boot. -/
def execRmapClr (dt : Nat) (s : State) :
    Host.Outcome State Fault Refusal :=
  s.done ((s.at dt).ifOpen 0x200000 (·.applyWrite R.MEM_RMAP_CLR.a 1))

end Sys2Proof.Machine
end

