-- ==== Sys2Proof/Machine/RowsPath.lean ====
section
/-! DEFINITION. The commands of the corrector, the splitter and the program frame (05). -/
namespace Sys2Proof.Machine

/-- COR_LOAD (R154). -/
def execCorLoad (dt : Nat) (n : Fin 16) (s : State) :
    Host.Outcome State Fault Refusal :=
  s.done ((s.at dt).command (R.FE_COR_CTRL n).a 1 (·.corRequest n))

/-- COR_LOAD_EXECUTE (R154). -/
def execCorLoadExecute (dt : Nat) (n : Fin 16) (s : State) :
    Host.Outcome State Fault Refusal :=
  s.done ((s.at dt).corExecute n)

/-- GALVO_SAMPLE (R164). -/
def execGalvoSample (dt : Nat) (n : Fin 16) (gx gy gz lpd : Code) (avail : Nat) (s : State) :
    Host.Outcome State Fault Refusal :=
  s.done ((s.at dt).galvoSample n gx gy gz lpd avail)

/-- FDL_FRAME_SEND (R163). -/
def execFdlFrameSend (dt : Nat) (n : Fin 16) (s : State) :
    Host.Outcome State Fault Refusal :=
  s.done ((s.at dt).fdlFrame n)

/-- FDL_RETURN_FRAME (R173). -/
def execFdlReturnFrame (dt : Nat) (n : Fin 16) (ack stat : Byte) (crcOk : Bool) (s : State) :
    Host.Outcome State Fault Refusal :=
  s.done ((s.at dt).fdlReturn n ack stat crcOk)

/-- FDL_RETURN_TIMEOUT (R173). -/
def execFdlReturnTimeout (dt : Nat) (n : Fin 16) (s : State) :
    Host.Outcome State Fault Refusal :=
  s.done ((s.at dt).fdlTimeout n)

/-- FRAME_LATCH (R169). -/
def execFrameLatch (dt : Nat) (n : Fin 16) (s : State) :
    Host.Outcome State Fault Refusal :=
  s.done ((s.at dt).command (R.FE_FRM_LATCH n).a 1 (·.frameLatch n))

/-- FRAME_PENDING_APPLY (R169). -/
def execFramePendingApply (dt : Nat) (n : Fin 16) (s : State) :
    Host.Outcome State Fault Refusal :=
  s.done ((s.at dt).framePending n)

/-- ENCODER_TRANSITION (R171). -/
def execEncoderTransition (dt : Nat) (k : Fin 4) (a b : Bool) (s : State) :
    Host.Outcome State Fault Refusal :=
  s.done ((s.at dt).encoder k a b)

end Sys2Proof.Machine
end

