-- ==== Sys2Proof/Machine/RowsPower.lean ====
section
/-! DEFINITION. The commands of power, thermal sensing and calibration (15). -/
namespace Sys2Proof.Machine

/-- FEED_PRESENT (R436). -/
def execFeedPresent (dt : Nat) (f : Feed) (s : State) :
    Host.Outcome State Fault Refusal :=
  s.done ((s.at dt).feedPresent f)

/-- FEED_CEASES_PRESENT (R436). -/
def execFeedCeasesPresent (dt : Nat) (f : Feed) (s : State) :
    Host.Outcome State Fault Refusal :=
  s.done ((s.at dt).feedCeases f)

/-- FEED_FAIL (R437). -/
def execFeedFail (dt : Nat) (s : State) :
    Host.Outcome State Fault Refusal :=
  s.done ((s.at dt).feedFail)

/-- FEED_SWITCH (R439). -/
def execFeedSwitch (dt : Nat) (s : State) :
    Host.Outcome State Fault Refusal :=
  s.done ((s.at dt).ifOpen 0x10000 (·.feedSwitch))

/-- HOLDUP_EXHAUSTED (R441). -/
def execHoldupExhausted (dt : Nat) (s : State) :
    Host.Outcome State Fault Refusal :=
  s.done ((s.at dt).holdupOut)

/-- RAIL_EXCURSION (R444). -/
def execRailExcursion (dt : Nat) (r : Rail) (s : State) :
    Host.Outcome State Fault Refusal :=
  s.done ((s.at dt).railOut r)

/-- RAIL_RESTART (R444). -/
def execRailRestart (dt : Nat) (r : Rail) (s : State) :
    Host.Outcome State Fault Refusal :=
  s.done ((s.at dt).railRestart r)

/-- VCORE_MEASUREMENT (R545). -/
def execVcoreMeasurement (dt : Nat) (mv : BitVec 10) (s : State) :
    Host.Outcome State Fault Refusal :=
  s.done ((s.at dt).vcoreMeas mv.toNat)

/-- PSTATE_ACTIVE (R446). -/
def execPstateActive (dt : Nat) (s : State) :
    Host.Outcome State Fault Refusal :=
  s.done (((s.at dt).ifOpen 0x10000 (·.hostActive)).wakeAll)

/-- PSTATE_HOLD (R447). -/
def execPstateHold (dt : Nat) (s : State) :
    Host.Outcome State Fault Refusal :=
  s.done ((s.at dt).ifOpen 0x10000 (·.reqHold))

/-- PSTATE_IDLE (R448). -/
def execPstateIdle (dt : Nat) (s : State) :
    Host.Outcome State Fault Refusal :=
  s.done ((s.at dt).ifOpen 0x10000 (·.reqIdle))

/-- PSTATE_STANDBY (R449). -/
def execPstateStandby (dt : Nat) (s : State) :
    Host.Outcome State Fault Refusal :=
  s.done ((s.at dt).ifOpen 0x10000 (·.reqStandby))

/-- WAKE_OT (R450). -/
def execWakeOt (dt : Nat) (s : State) :
    Host.Outcome State Fault Refusal :=
  s.done ((s.at dt).wakeOt)

/-- WAKE_FRAME (R450). -/
def execWakeFrame (dt : Nat) (key : Word) (s : State) :
    Host.Outcome State Fault Refusal :=
  s.done ((s.at dt).wakeFrame key)

/-- THERMAL_READ (R451). -/
def execThermalRead (dt : Nat) (readings : List Int) (s : State) :
    Host.Outcome State Fault Refusal :=
  s.done ((s.at dt).thermalRead readings)

/-- THRESHOLD_CLEAR (R455). -/
def execThresholdClear (dt : Nat) (s : State) :
    Host.Outcome State Fault Refusal :=
  s.done ((s.at dt).thresholdClear)

/-- SENSOR_CLR (R453). -/
def execSensorClr (dt : Nat) (k : Fin 88) (s : State) :
    Host.Outcome State Fault Refusal :=
  s.done ((s.at dt).ifOpen 0x20000 (·.sensorClr k))

/-- REFERENCE_COMPENSATION (R458). -/
def execReferenceCompensation (dt : Nat) (s : State) :
    Host.Outcome State Fault Refusal :=
  s.done ((s.at dt).refComp)

/-- TOPPING_STEP (R460). -/
def execToppingStep (dt : Nat) (g : Fin 16) (m : TopMeas) (s : State) :
    Host.Outcome State Fault Refusal :=
  s.done (((s.at dt)).toppingStep g m)

/-- TOPPING_SWAP (R460). -/
def execToppingSwap (dt : Nat) (g : Fin 16) (s : State) :
    Host.Outcome State Fault Refusal :=
  s.done ((s.at dt).toppingSwap g)

/-- SLICE_CLR (R462). -/
def execSliceClr (dt : Nat) (dac : Bool) (k : Fin 72) (s : State) :
    Host.Outcome State Fault Refusal :=
  s.done ((s.at dt).ifOpen 0x60000 (·.sliceClr dac k))

/-- CALIBRATION_WRITE (R465). -/
def execCalibrationWrite (dt : Nat) (dac : Bool) (k : Fin 72) (gain : Bool) (v : BitVec 24) (s : State) :
    Host.Outcome State Fault Refusal :=
  s.done ((s.at dt).ifOpen 0x60000 (·.calWrite dac k gain v))

end Sys2Proof.Machine
end

