-- ==== Sys2Proof/Machine/RowsReg.lean ====
section
/-! DEFINITION. The commands of registers, unlock and modes (01). -/
namespace Sys2Proof.Machine

/-- HOST_REGISTER_WRITE (R13). -/
def execHostRegisterWrite (dt : Nat) (a : BitVec 25) (v : Word) (s : State) :
    Host.Outcome State Fault Refusal :=
  s.done (((s.at dt).busWrite (regAddr a) v).wakeAll)

/-- NARROW_WRITE (R17). -/
def execNarrowWrite (dt : Nat) (a : BitVec 27) (_v : BitVec 16) (s : State) :
    Host.Outcome State Fault Refusal :=
  s.done ((s.at dt).narrowWrite (narrowAddr a))

/-- LO_READ_LATCH (R5). -/
def execLoReadLatch (dt : Nat) (a : BitVec 25) (s : State) :
    Host.Outcome State Fault Refusal :=
  s.done ((s.at dt).loRead (regAddr a))

/-- LO_WRITE_HOLD (R14). -/
def execLoWriteHold (dt : Nat) (a : BitVec 25) (v : Word) (s : State) :
    Host.Outcome State Fault Refusal :=
  s.done ((s.at dt).pairWrite 1 (regAddr a) v)

/-- HI_WRITE_COMMIT (R14). -/
def execHiWriteCommit (dt : Nat) (a : BitVec 25) (v : Word) (s : State) :
    Host.Outcome State Fault Refusal :=
  s.done ((s.at dt).pairWrite 2 (regAddr a) v)

/-- CONFIG_REQUEST (R385). -/
def execConfigRequest (dt : Nat) (a : BitVec 10) (s : State) :
    Host.Outcome State Fault Refusal :=
  s.done ((s.at dt).configRequest a)

/-- UNLOCK_KEY_WRITE (R32). -/
def execUnlockKeyWrite (dt : Nat) (b : Block) (v : Word) (s : State) :
    Host.Outcome State Fault Refusal :=
  s.done ((s.at dt).ifOpen (blockAddr b) (·.unlockWrite (blockAddr b) v))

/-- UNLOCK_SEQUENCE_TIMEOUT (R32). -/
def execUnlockSequenceTimeout (dt : Nat) (b : Block) (s : State) :
    Host.Outcome State Fault Refusal :=
  s.done ((s.at dt).unlockExpire (blockAddr b))

/-- REQUEST_SAFE (R26). -/
def execRequestSafe (dt : Nat) (s : State) :
    Host.Outcome State Fault Refusal :=
  s.done ((s.at dt).requestSafe)

/-- REQUEST_READY (R26, R489). -/
def execRequestReady (dt : Nat) (s : State) :
    Host.Outcome State Fault Refusal :=
  s.done ((s.at dt).requestReady.wakeAll)

/-- DISARM_COMPLETE (R489). -/
def execDisarmComplete (dt : Nat) (s : State) :
    Host.Outcome State Fault Refusal :=
  s.done ((s.at dt).disarmComplete)

/-- SLACK_GOVERNOR_TICK (R22 to R24). -/
def execSlackGovernorTick (dt : Nat) (s : State) :
    Host.Outcome State Fault Refusal :=
  s.done ((s.at dt).slackTick)

end Sys2Proof.Machine
end

