-- ==== Sys2Proof/Machine/RowsReset.lean ====
section
/-! DEFINITION. The commands of the cellar book, the resets and the boot (17). -/
namespace Sys2Proof.Machine

/-- RECORD_WRITE (R499). -/
def execRecordWrite (dt : Nat) (readback1 readback2 : Bool) (s : State) :
    Host.Outcome State Fault Refusal :=
  s.done ((s.at dt).recordWrite readback1 readback2)

/-- SUMMARY_ENTRY (R500). -/
def execSummaryEntry (dt : Nat) (s : State) :
    Host.Outcome State Fault Refusal :=
  s.done ((s.at dt).summaryEntry)

/-- POWER_ON_RESET (R507). -/
def execPowerOnReset (dt : Nat) (ot : OtSlots) (s : State) :
    Host.Outcome State Fault Refusal :=
  s.done ((s.at dt).powerOn ot)

/-- RESET_L (R534). -/
def execResetL (dt : Nat) (low : Nat) (s : State) :
    Host.Outcome State Fault Refusal :=
  s.done ((s.at dt).resetL low)

/-- HOST_SOFT_RESET (R507). -/
def execHostSoftReset (dt : Nat) (v : Word) (s : State) :
    Host.Outcome State Fault Refusal :=
  s.done ((s.at dt).hostReset v)

/-- FIELD_RESET (R509). -/
def execFieldReset (dt : Nat) (n : Fin 16) (s : State) :
    Host.Outcome State Fault Refusal :=
  s.done (((s.at dt).fieldReset n).wakeAll)

/-- BOOT (R512). -/
def execBoot (dt : Nat) (o : BootOutcome) (s : State) :
    Host.Outcome State Fault Refusal :=
  s.done ((s.at dt).boot o)

/-- BOOT_COMPLETE (R512). -/
def execBootComplete (dt : Nat) (ms : Nat) (s : State) :
    Host.Outcome State Fault Refusal :=
  s.done ((s.at dt).bootComplete ms)

end Sys2Proof.Machine
end

