-- ==== Sys2Proof/Machine/RowsRng.lean ====
section
/-! DEFINITION. The commands of the ring (14). -/
namespace Sys2Proof.Machine

/-- RING_MODE_WRITE (R412). -/
def execRingModeWrite (dt : Nat) (mode : BitVec 2) (s : State) :
    Host.Outcome State Fault Refusal :=
  s.done ((s.at dt).ifOpen 0x1500000 (·.ringModeWrite mode.toNat))

/-- RING_FRAME_RECEIVE (R415). -/
def execRingFrameReceive (dt : Nat) (p : Fin 2) (f : EthFrame) (egress : Int) (s : State) :
    Host.Outcome State Fault Refusal :=
  s.done ((s.at dt).ringFrame p f egress)

/-- SUPERVISION_SEND (R413). -/
def execSupervisionSend (dt : Nat) (s : State) :
    Host.Outcome State Fault Refusal :=
  s.done ((s.at dt).supervision)

/-- CYCLIC_FRAME_LAUNCH (R422). -/
def execCyclicFrameLaunch (dt : Nat) (s : State) :
    Host.Outcome State Fault Refusal :=
  s.done ((s.at dt).cycLaunch)

/-- CYCLIC_FRAME_RECEIVE (R425). -/
def execCyclicFrameReceive (dt : Nat) (p : Fin 2) (f : CycFrame) (s : State) :
    Host.Outcome State Fault Refusal :=
  s.done (((s.at dt).cycReceive p f).wakeAll)

/-- BYPASS_WRITE (R418). -/
def execBypassWrite (dt : Nat) (v : Bool) (s : State) :
    Host.Outcome State Fault Refusal :=
  s.done ((s.at dt).ifOpen 0x1500000 (·.bypassWrite v))

/-- RELAY_CHANGE (R418). -/
def execRelayChange (dt : Nat) (s : State) :
    Host.Outcome State Fault Refusal :=
  s.done ((s.at dt).relayMove)

/-- WATCHDOG_REFRESH (R419). -/
def execWatchdogRefresh (dt : Nat) (s : State) :
    Host.Outcome State Fault Refusal :=
  s.done ((s.at dt).watchdogRefresh)

/-- RING_WATCHDOG_EXPIRE (R419). -/
def execRingWatchdogExpire (dt : Nat) (s : State) :
    Host.Outcome State Fault Refusal :=
  s.done ((s.at dt).watchdogExpire)

/-- PHY_LINK_CHANGE (R435). -/
def execPhyLinkChange (dt : Nat) (p : Fin 2) (up : Bool) (s : State) :
    Host.Outcome State Fault Refusal :=
  s.done ((s.at dt).phyLink p up)

/-- PDELAY_REQ_SEND (R429). -/
def execPdelayReqSend (dt : Nat) (p : Fin 2) (s : State) :
    Host.Outcome State Fault Refusal :=
  s.done ((s.at dt).pdelayReq p)

/-- PDELAY_REQ_RECEIVE (R429). -/
def execPdelayReqReceive (dt : Nat) (p : Fin 2) (turnaround : Nat) (s : State) :
    Host.Outcome State Fault Refusal :=
  s.done ((s.at dt).pdelayAnswer p turnaround)

/-- PDELAY_MEASUREMENT (R430). -/
def execPdelayMeasurement (dt : Nat) (p : Fin 2) (t1 t2 t3 t4 : Int) (s : State) :
    Host.Outcome State Fault Refusal :=
  s.done ((s.at dt).pdMeasure p t1 t2 t3 t4)

/-- PSACK (R430). -/
def execPsack (dt : Nat) (p : Fin 2) (s : State) :
    Host.Outcome State Fault Refusal :=
  s.done ((s.at dt).ifOpen 0x1500000 (·.psack p))

end Sys2Proof.Machine
end

