-- ==== Sys2Proof/Machine/RowsSaf.lean ====
section
/-! DEFINITION. The commands of fail-safe, recovery and arming (16). -/
namespace Sys2Proof.Machine

/-- INTERLOCK_OPEN (R476). -/
def execInterlockOpen (dt : Nat) (ch : Ilk) (s : State) :
    Host.Outcome State Fault Refusal :=
  s.done ((s.at dt).ilkOpen ch)

/-- INTERLOCK_CLOSE (R476). -/
def execInterlockClose (dt : Nat) (ch : Ilk) (s : State) :
    Host.Outcome State Fault Refusal :=
  s.done ((s.at dt).ilkClose ch)

/-- ILK_DISCREPANCY (R477). -/
def execIlkDiscrepancy (dt : Nat) (s : State) :
    Host.Outcome State Fault Refusal :=
  s.done ((s.at dt).ilkDisc)

/-- MS_HEARTBEAT_TIMEOUT (R473). -/
def execMsHeartbeatTimeout (dt : Nat) (s : State) :
    Host.Outcome State Fault Refusal :=
  s.done ((s.at dt).msLost)

/-- MS_WATCHDOG_RESET (R475). -/
def execMsWatchdogReset (dt : Nat) (s : State) :
    Host.Outcome State Fault Refusal :=
  s.done ((s.at dt).msReset)

/-- GSTAT_CLEAR (R473). -/
def execGstatClear (dt : Nat) (v : BitVec 5) (s : State) :
    Host.Outcome State Fault Refusal :=
  s.done ((s.at dt).ifOpen 0x40000 (·.gstatClear v))

/-- DISC_CLEAR (R477). -/
def execDiscClear (dt : Nat) (s : State) :
    Host.Outcome State Fault Refusal :=
  s.done ((s.at dt).ifOpen 0x40000 (·.discClear))

/-- RESUME (R484). -/
def execResume (dt : Nat) (n : Fin 16) (force : Bool) (s : State) :
    Host.Outcome State Fault Refusal :=
  s.done (((s.at dt).ifOpen 0x40000 (·.resume n force)).wakeAll)

/-- RESUME_WINDOW_EXPIRE (R481). -/
def execResumeWindowExpire (dt : Nat) (n : Fin 16) (s : State) :
    Host.Outcome State Fault Refusal :=
  s.done ((s.at dt).windowExpire n)

/-- GENREL (R482). -/
def execGenrel (dt : Nat) (n : Fin 16) (s : State) :
    Host.Outcome State Fault Refusal :=
  s.done ((s.at dt).ifOpen 0x40000 (·.genrel n))

/-- ARM_KEY_FIRST (R488). -/
def execArmKeyFirst (dt : Nat) (s : State) :
    Host.Outcome State Fault Refusal :=
  s.done ((s.at dt).ifOpen 0x40000 (·.armFirst))

/-- ARM_KEY_SECOND (R488). -/
def execArmKeySecond (dt : Nat) (v : Word) (s : State) :
    Host.Outcome State Fault Refusal :=
  s.done ((s.at dt).ifOpen 0x40000 (·.armSecond v))

/-- ARM_KEY_TIMEOUT (R488). -/
def execArmKeyTimeout (dt : Nat) (s : State) :
    Host.Outcome State Fault Refusal :=
  s.done ((s.at dt).armTimeout)

/-- ARM_COMPLETE (R488). -/
def execArmComplete (dt : Nat) (s : State) :
    Host.Outcome State Fault Refusal :=
  s.done ((s.at dt).armComplete)

end Sys2Proof.Machine
end

