-- ==== Sys2Proof/Machine/RowsScan.lean ====
section
/-! DEFINITION. The instructions of Tykai-S, and the ends of their waits (03). -/
namespace Sys2Proof.Machine

/-- NOP: the tag has no effect (R82). -/
def execNop (dt : Nat) (x : Ctx) (_tag : BitVec 48) (s : State) :
    Host.Outcome State Fault Refusal :=
  s.done (((s.at dt).execT x (.nop)).wakeAll)

/-- BR (R83). -/
def execBr (dt : Nat) (x : Ctx) (off : Word) (s : State) :
    Host.Outcome State Fault Refusal :=
  s.done (((s.at dt).execT x (.br off)).wakeAll)

/-- BRC (R84). -/
def execBrc (dt : Nat) (x : Ctx) (hint : BitVec 4) (cls : BitVec 4) (idx : Byte) (test : BitVec 4) (off : Word)
   (value : Word) (s : State) :
    Host.Outcome State Fault Refusal :=
  s.done (((s.at dt).execT x (.brc hint cls idx test off value)).wakeAll)

/-- CALL (R83). -/
def execCall (dt : Nat) (x : Ctx) (off : Word) (s : State) :
    Host.Outcome State Fault Refusal :=
  s.done (((s.at dt).execT x (.call off)).wakeAll)

/-- RET (R83). -/
def execRet (dt : Nat) (x : Ctx) (s : State) :
    Host.Outcome State Fault Refusal :=
  s.done (((s.at dt).execT x .ret).wakeAll)

/-- LOOP (R85). -/
def execLoop (dt : Nat) (x : Ctx) (body : BitVec 16) (count : Word) (s : State) :
    Host.Outcome State Fault Refusal :=
  s.done (((s.at dt).execT x (.loop body count)).wakeAll)

/-- HALT (R86). -/
def execHalt (dt : Nat) (x : Ctx) (s : State) :
    Host.Outcome State Fault Refusal :=
  s.done (((s.at dt).execT x .halt).wakeAll)

/-- LAYEREND (R86). -/
def execLayerend (dt : Nat) (x : Ctx) (s : State) :
    Host.Outcome State Fault Refusal :=
  s.done (((s.at dt).execT x .layerend).wakeAll)

/-- JUMP (R88). -/
def execJump (dt : Nat) (x : Ctx) (rel : Bool) (px py : Word) (s : State) :
    Host.Outcome State Fault Refusal :=
  s.done (((s.at dt).execT x (.jump rel px py)).wakeAll)

/-- MARK (R88). -/
def execMark (dt : Nat) (x : Ctx) (cont rel nopool : Bool) (px py : Word) (s : State) :
    Host.Outcome State Fault Refusal :=
  s.done (((s.at dt).execT x (.mark cont rel nopool px py)).wakeAll)

/-- ARC (R90). -/
def execArc (dt : Nat) (x : Ctx) (cont rel nopool : Bool) (sweep : Word) (cx cy : Word) (s : State) :
    Host.Outcome State Fault Refusal :=
  s.done (((s.at dt).execT x (.arc cont rel nopool sweep cx cy)).wakeAll)

/-- POLY (R92). -/
def execPoly (dt : Nat) (x : Ctx) (cont rel nopool close : Bool) (npts : BitVec 16) (addr : Addr) (s : State)
   :
    Host.Outcome State Fault Refusal :=
  s.done (((s.at dt).execT x (.poly cont rel nopool close npts addr)).wakeAll)

/-- DOT (R89). -/
def execDot (dt : Nat) (x : Ctx) (rel nopool curd : Bool) (dwell : Word) (px py : Word) (s : State) :
    Host.Outcome State Fault Refusal :=
  s.done (((s.at dt).execT x (.dot rel nopool curd dwell px py)).wakeAll)

/-- SPIRAL (R91). -/
def execSpiral (dt : Nat) (x : Ctx) (cont rel nopool : Bool) (sweep : Word) (cx cy : Word) (rend : Word) (s : State)
   :
    Host.Outcome State Fault Refusal :=
  s.done (((s.at dt).execT x (.spiral cont rel nopool sweep cx cy rend)).wakeAll)

/-- WOBBLE (R93). -/
def execWobble (dt : Nat) (x : Ctx) (freq amp : BitVec 16) (shape : BitVec 4) (s : State) :
    Host.Outcome State Fault Refusal :=
  s.done (((s.at dt).execT x (.wobble freq amp shape)).wakeAll)

/-- SETV (R94). -/
def execSetv (dt : Nat) (x : Ctx) (jmp : Bool) (speed : BitVec 24) (s : State) :
    Host.Outcome State Fault Refusal :=
  s.done (((s.at dt).execT x (.setv jmp speed)).wakeAll)

/-- SETP (R94). -/
def execSetp (dt : Nat) (x : Ctx) (keepp keepd : Bool) (power : BitVec 16) (dwell : Word) (s : State) :
    Host.Outcome State Fault Refusal :=
  s.done (((s.at dt).execT x (.setp keepp keepd power dwell)).wakeAll)

/-- SETPOOL (R94). -/
def execSetpool (dt : Nat) (x : Ctx) (target : BitVec 16) (stat : BitVec 4) (mode : BitVec 2) (s : State) :
    Host.Outcome State Fault Refusal :=
  s.done (((s.at dt).execT x (.setpool target stat mode)).wakeAll)

/-- SETFOCUS (R96). -/
def execSetfocus (dt : Nat) (x : Ctx) (focus : Word) (s : State) :
    Host.Outcome State Fault Refusal :=
  s.done (((s.at dt).execT x (.setfocus focus)).wakeAll)

/-- SETREENTRY (R94). -/
def execSetreentry (dt : Nat) (x : Ctx) (overlap : Word) (ramp : BitVec 16) (s : State) :
    Host.Outcome State Fault Refusal :=
  s.done (((s.at dt).execT x (.setreentry overlap ramp)).wakeAll)

/-- SETPROFILE (R94). -/
def execSetprofile (dt : Nat) (x : Ctx) (keepm keepmat : Bool) (mprof : BitVec 4) (mat : BitVec 2) (s : State)
   :
    Host.Outcome State Fault Refusal :=
  s.done (((s.at dt).execT x (.setprofile keepm keepmat mprof mat)).wakeAll)

/-- SIG (R98). -/
def execSig (dt : Nat) (x : Ctx) (clr evt fence : Bool) (signum : BitVec 7) (fval : Word) (addr : Addr) (s : State)
   :
    Host.Outcome State Fault Refusal :=
  s.done (((s.at dt).execT x (.sig clr evt fence signum fval addr)).wakeAll)

/-- SIG_FENCE_COMPLETE (R98). -/
def execSigFenceComplete (dt : Nat) (x : Ctx) (s : State) :
    Host.Outcome State Fault Refusal :=
  s.done (((s.at dt).fenceComplete x).wakeAll)

/-- WAITSIG (R99). -/
def execWaitsig (dt : Nat) (x : Ctx) (clr wclr : Bool) (signum : BitVec 7) (timeout : BitVec 16) (s : State)
   :
    Host.Outcome State Fault Refusal :=
  s.done (((s.at dt).execT x (.waitsig clr wclr signum timeout)).wakeAll)

/-- WAITT (R100). -/
def execWaitt (dt : Nat) (x : Ctx) (abs : Bool) (t : Word) (s : State) :
    Host.Outcome State Fault Refusal :=
  s.done (((s.at dt).execT x (.waitt abs t)).wakeAll)

/-- WAITT_EXPIRE (R100). -/
def execWaittExpire (dt : Nat) (x : Ctx) (s : State) :
    Host.Outcome State Fault Refusal :=
  s.done (((s.at dt).waittExpire x).wakeAll)

/-- WAIT_TIMEOUT (R99). -/
def execWaitTimeout (dt : Nat) (x : Ctx) (s : State) :
    Host.Outcome State Fault Refusal :=
  s.done (((s.at dt).waitTimeout x).wakeAll)

/-- CLAIM (R101). -/
def execClaim (dt : Nat) (x : Ctx) (token : BitVec 5) (timeout : BitVec 16) (s : State) :
    Host.Outcome State Fault Refusal :=
  s.done (((s.at dt).execT x (.claim token timeout)).wakeAll)

/-- RELEASE (R101). -/
def execRelease (dt : Nat) (x : Ctx) (token : BitVec 5) (s : State) :
    Host.Outcome State Fault Refusal :=
  s.done (((s.at dt).execT x (.release token)).wakeAll)

/-- SETREG (R103). -/
def execSetreg (dt : Nat) (x : Ctx) (offset : BitVec 24) (value mask : Word) (s : State) :
    Host.Outcome State Fault Refusal :=
  s.done (((s.at dt).execT x (.setreg offset value mask)).wakeAll)

/-- LEDGER_CLEAR (R272). -/
def execLedgerClear (dt : Nat) (x : Ctx) (s : State) :
    Host.Outcome State Fault Refusal :=
  s.done (((s.at dt).execT x (.ledger 0 false 0 0)).wakeAll)

/-- LEDGER_CARRY (R272). -/
def execLedgerCarry (dt : Nat) (x : Ctx) (factor : BitVec 16) (s : State) :
    Host.Outcome State Fault Refusal :=
  s.done (((s.at dt).execT x (.ledger 1 false factor 0)).wakeAll)

/-- LEDGER_EXPORT (R273). -/
def execLedgerExport (dt : Nat) (x : Ctx) (addr : Addr) (s : State) :
    Host.Outcome State Fault Refusal :=
  s.done (((s.at dt).execT x (.ledger 2 false 0 addr)).wakeAll)

/-- LEDGER_EXPORT_DONE (R273). -/
def execLedgerExportDone (dt : Nat) (s : State) :
    Host.Outcome State Fault Refusal :=
  s.done ((s.at dt).exportDone.wakeAll)

/-- LEDGER_DEPOFF (R104). -/
def execLedgerDepoff (dt : Nat) (x : Ctx) (s : State) :
    Host.Outcome State Fault Refusal :=
  s.done (((s.at dt).execT x (.ledger 3 false 0 0)).wakeAll)

/-- LEDGER_DEPON (R104). -/
def execLedgerDepon (dt : Nat) (x : Ctx) (s : State) :
    Host.Outcome State Fault Refusal :=
  s.done (((s.at dt).execT x (.ledger 4 false 0 0)).wakeAll)

/-- LEDGER_KERNEL (R104). -/
def execLedgerKernel (dt : Nat) (x : Ctx) (k3 : Bool) (s : State) :
    Host.Outcome State Fault Refusal :=
  s.done (((s.at dt).execT x (.ledger 5 k3 0 0)).wakeAll)

/-- FSTART (R106). -/
def execFstart (dt : Nat) (x : Ctx) (fmask : BitVec 16) (ctx : BitVec 3) (addr : Addr) (s : State) :
    Host.Outcome State Fault Refusal :=
  s.done (((s.at dt).execT x (.fstart fmask ctx addr)).wakeAll)

/-- FWAIT (R107). -/
def execFwait (dt : Nat) (x : Ctx) (fmask : BitVec 16) (ctx : BitVec 3) (timeout : BitVec 16) (s : State) :
    Host.Outcome State Fault Refusal :=
  s.done (((s.at dt).execT x (.fwait fmask ctx timeout)).wakeAll)

/-- AXMOVE (R108). -/
def execAxmove (dt : Nat) (x : Ctx) (rel : Bool) (axis : BitVec 3) (target speed : Word) (s : State) :
    Host.Outcome State Fault Refusal :=
  s.done (((s.at dt).execT x (.axmove rel axis target speed)).wakeAll)

/-- AXWAIT (R109). -/
def execAxwait (dt : Nat) (x : Ctx) (axmask : Byte) (timeout : BitVec 16) (s : State) :
    Host.Outcome State Fault Refusal :=
  s.done (((s.at dt).execT x (.axwait axmask timeout)).wakeAll)

/-- SNAP (R110). -/
def execSnap (dt : Nat) (x : Ctx) (cmask : BitVec 4) (delay : Word) (s : State) :
    Host.Outcome State Fault Refusal :=
  s.done (((s.at dt).execT x (.snap cmask delay)).wakeAll)

/-- FLIP (R110). -/
def execFlip (dt : Nat) (x : Ctx) (lmask : Byte) (s : State) :
    Host.Outcome State Fault Refusal :=
  s.done (((s.at dt).execT x (.flip lmask)).wakeAll)

/-- EXPORT (R111). -/
def execExportImage (dt : Nat) (x : Ctx) (queue : BitVec 5) (len : Word) (addr : Addr) (s : State) :
    Host.Outcome State Fault Refusal :=
  s.done (((s.at dt).execT x (.exportImage queue len addr)).wakeAll)

/-- EXPORT_WRITES_COMPLETE (R111). -/
def execExportWritesComplete (dt : Nat) (c : Fin 8) (s : State) :
    Host.Outcome State Fault Refusal :=
  s.done (((s.at dt).exportWrites c).wakeAll)

/-- COO_CONTEXT_START (R73). -/
def execCooContextStart (dt : Nat) (c : Fin 8) (pc : Addr) (s : State) :
    Host.Outcome State Fault Refusal :=
  s.done (((s.at dt).cooStart c pc).wakeAll)

end Sys2Proof.Machine
end

