-- ==== Sys2Proof/Machine/RowsTim.lean ====
section
/-! DEFINITION. The commands of the time bases (02). -/
namespace Sys2Proof.Machine

/-- OSC_COMPENSATION_UPDATE (R44). -/
def execOscCompensationUpdate (dt : Nat) (s : State) :
    Host.Outcome State Fault Refusal :=
  s.done ((s.at dt).oscUpdate)

/-- MTK_CAPTURE (R47). -/
def execMtkCapture (dt : Nat) (s : State) :
    Host.Outcome State Fault Refusal :=
  s.done ((s.at dt).mtkCapture)

/-- MTK_SEQ_READ_LATCH (R47). -/
def execMtkSeqReadLatch (dt : Nat) (s : State) :
    Host.Outcome State Fault Refusal :=
  s.done ((s.at dt).mtkSeqRead)

/-- DEADLINE_WATCH_ROLLOVER (R62). -/
def execDeadlineWatchRollover (dt : Nat) (s : State) :
    Host.Outcome State Fault Refusal :=
  s.done ((s.at dt).dlwRollover)

/-- PT_WRAP (R50). -/
def execPtWrap (dt : Nat) (s : State) :
    Host.Outcome State Fault Refusal :=
  s.done ((s.at dt).ptWrap)

/-- PT_STEP (R51). -/
def execPtStep (dt : Nat) (v : Word) (s : State) :
    Host.Outcome State Fault Refusal :=
  s.done ((s.at dt).ifOpen 0x30000 (·.ptStep v))

/-- PT_READ_LATCH (R50). -/
def execPtReadLatch (dt : Nat) (s : State) :
    Host.Outcome State Fault Refusal :=
  s.done ((s.at dt).ptRead)

/-- OT_READ_LATCH (R64). -/
def execOtReadLatch (dt : Nat) (s : State) :
    Host.Outcome State Fault Refusal :=
  s.done ((s.at dt).otRead)

/-- OT_SAVE (R52). -/
def execOtSave (dt : Nat) (s : State) :
    Host.Outcome State Fault Refusal :=
  s.done ((s.at dt).otSave)

/-- EDGE_ENTRY_ARRIVAL (R57). -/
def execEdgeEntryArrival (dt : Nat) (e : Edge) (due : Nat) (val : EdgeVal) (s : State) :
    Host.Outcome State Fault Refusal :=
  s.done (((s.at dt).edgeArrival e due val).wakeAll)

/-- EDGE_PRESENT (R54). -/
def execEdgePresent (dt : Nat) (e : Edge) (s : State) :
    Host.Outcome State Fault Refusal :=
  s.done (((s.at dt).edgePresent e).wakeAll)

/-- SYNTH_LOCK_LOST (R63). -/
def execSynthLockLost (dt : Nat) (s : State) :
    Host.Outcome State Fault Refusal :=
  s.done ((s.at dt).lockLost)

/-- SYNTH_LOCK_REGAINED (R63). -/
def execSynthLockRegained (dt : Nat) (s : State) :
    Host.Outcome State Fault Refusal :=
  s.done ((s.at dt).lockBack)

end Sys2Proof.Machine
end

