-- ==== Sys2Proof/Machine/RowsTrellis.lean ====
section
/-! DEFINITION. The commands of the trellis and the heat ledger (08). -/
namespace Sys2Proof.Machine

/-- LEDGER_FACTOR_DELIVER (R270). -/
def execLedgerFactorDeliver (dt : Nat) (n : Fin 16) (late : Bool) (s : State) :
    Host.Outcome State Fault Refusal :=
  s.done ((s.at dt).deliverFactor n late)

/-- HLD_DEPOSIT (R268). -/
def execHldDeposit (dt : Nat) (n : Fin 16) (s : State) :
    Host.Outcome State Fault Refusal :=
  s.done ((s.at dt).deposit n)

/-- SWEEP_VISIT (R267). -/
def execSweepVisit (dt : Nat) (m : Nat) (k : BitVec 22) (s : State) :
    Host.Outcome State Fault Refusal :=
  s.done (((s.at dt)).sweepVisit m k.toNat)

/-- LEDGER_WINDOW_WRITE (R274). -/
def execLedgerWindowWrite (dt : Nat) (cell : BitVec 22) (v : Word) (s : State) :
    Host.Outcome State Fault Refusal :=
  s.done ((s.at dt).ledgerWrite cell.toNat v)

/-- GRANT_PASS (R252). -/
def execGrantPass (dt : Nat) (s : State) :
    Host.Outcome State Fault Refusal :=
  s.done ((s.at dt).grantPass)

/-- GRANT_TIMEOUT (R255). -/
def execGrantTimeout (dt : Nat) (n : Fin 16) (s : State) :
    Host.Outcome State Fault Refusal :=
  s.done ((s.at dt).grantTimeout n)

/-- KEEPOUT_WRITE (R245). -/
def execKeepoutWrite (dt : Nat) (r : KoReg) (v : Word) (s : State) :
    Host.Outcome State Fault Refusal :=
  s.done ((s.at dt).ifOpen 0xC00000 (·.koWrite r v))

/-- RING_DECISION (R260). -/
def execRingDecision (dt : Nat) (cycle : Word) (s : State) :
    Host.Outcome State Fault Refusal :=
  s.done (((s.at dt).ringDecision cycle).wakeAll)

/-- BOOKED_RESUME (R263). -/
def execBookedResume (dt : Nat) (n : Fin 16) (s : State) :
    Host.Outcome State Fault Refusal :=
  s.done ((s.at dt).bookedResume n)

end Sys2Proof.Machine
end

