-- ==== Sys2Proof/Machine/Dispatch.lean ====
section
/-! DEFINITION. One arm per command: a direct call of its meaning. -/
namespace Sys2Proof.Machine

def exec (i : Instr) (s : State) : Host.Outcome State Fault Refusal :=
  match i with
  | .hostRegisterWrite dt a v => Sys2Proof.Machine.execHostRegisterWrite dt a v s
  | .narrowWrite dt a v => Sys2Proof.Machine.execNarrowWrite dt a v s
  | .loReadLatch dt a => Sys2Proof.Machine.execLoReadLatch dt a s
  | .loWriteHold dt a v => Sys2Proof.Machine.execLoWriteHold dt a v s
  | .hiWriteCommit dt a v => Sys2Proof.Machine.execHiWriteCommit dt a v s
  | .configRequest dt a => Sys2Proof.Machine.execConfigRequest dt a s
  | .unlockKeyWrite dt b v => Sys2Proof.Machine.execUnlockKeyWrite dt b v s
  | .unlockSequenceTimeout dt b => Sys2Proof.Machine.execUnlockSequenceTimeout dt b s
  | .requestSafe dt => Sys2Proof.Machine.execRequestSafe dt s
  | .requestReady dt => Sys2Proof.Machine.execRequestReady dt s
  | .disarmComplete dt => Sys2Proof.Machine.execDisarmComplete dt s
  | .slackGovernorTick dt => Sys2Proof.Machine.execSlackGovernorTick dt s
  | .oscCompensationUpdate dt => Sys2Proof.Machine.execOscCompensationUpdate dt s
  | .mtkCapture dt => Sys2Proof.Machine.execMtkCapture dt s
  | .mtkSeqReadLatch dt => Sys2Proof.Machine.execMtkSeqReadLatch dt s
  | .deadlineWatchRollover dt => Sys2Proof.Machine.execDeadlineWatchRollover dt s
  | .ptWrap dt => Sys2Proof.Machine.execPtWrap dt s
  | .ptStep dt v => Sys2Proof.Machine.execPtStep dt v s
  | .ptReadLatch dt => Sys2Proof.Machine.execPtReadLatch dt s
  | .otReadLatch dt => Sys2Proof.Machine.execOtReadLatch dt s
  | .otSave dt => Sys2Proof.Machine.execOtSave dt s
  | .edgeEntryArrival dt e due val => Sys2Proof.Machine.execEdgeEntryArrival dt e due val s
  | .edgePresent dt e => Sys2Proof.Machine.execEdgePresent dt e s
  | .synthLockLost dt => Sys2Proof.Machine.execSynthLockLost dt s
  | .nop dt x tag => Sys2Proof.Machine.execNop dt x tag s
  | .br dt x off => Sys2Proof.Machine.execBr dt x off s
  | .brc dt x hint cls idx test off value => Sys2Proof.Machine.execBrc dt x hint cls idx test off value s
  | .call dt x off => Sys2Proof.Machine.execCall dt x off s
  | .ret dt x => Sys2Proof.Machine.execRet dt x s
  | .loop dt x body count => Sys2Proof.Machine.execLoop dt x body count s
  | .halt dt x => Sys2Proof.Machine.execHalt dt x s
  | .layerend dt x => Sys2Proof.Machine.execLayerend dt x s
  | .jump dt x rel px py => Sys2Proof.Machine.execJump dt x rel px py s
  | .mark dt x cont rel nopool px py => Sys2Proof.Machine.execMark dt x cont rel nopool px py s
  | .arc dt x cont rel nopool sweep cx cy => Sys2Proof.Machine.execArc dt x cont rel nopool sweep cx cy s
  | .poly dt x cont rel nopool close npts addr => Sys2Proof.Machine.execPoly dt x cont rel nopool close npts addr s
  | .dot dt x rel nopool curd dwell px py => Sys2Proof.Machine.execDot dt x rel nopool curd dwell px py s
  | .spiral dt x cont rel nopool sweep cx cy rend => Sys2Proof.Machine.execSpiral dt x cont rel nopool sweep cx cy rend s
  | .wobble dt x freq amp shape => Sys2Proof.Machine.execWobble dt x freq amp shape s
  | .setv dt x jmp speed => Sys2Proof.Machine.execSetv dt x jmp speed s
  | .setp dt x keepp keepd power dwell => Sys2Proof.Machine.execSetp dt x keepp keepd power dwell s
  | .setpool dt x target stat mode => Sys2Proof.Machine.execSetpool dt x target stat mode s
  | .setfocus dt x focus => Sys2Proof.Machine.execSetfocus dt x focus s
  | .setreentry dt x overlap ramp => Sys2Proof.Machine.execSetreentry dt x overlap ramp s
  | .setprofile dt x keepm keepmat mprof mat => Sys2Proof.Machine.execSetprofile dt x keepm keepmat mprof mat s
  | .sig dt x clr evt fence signum fval addr => Sys2Proof.Machine.execSig dt x clr evt fence signum fval addr s
  | .sigFenceComplete dt x => Sys2Proof.Machine.execSigFenceComplete dt x s
  | .waitsig dt x clr wclr signum timeout => Sys2Proof.Machine.execWaitsig dt x clr wclr signum timeout s
  | .waitt dt x abs t => Sys2Proof.Machine.execWaitt dt x abs t s
  | .waittExpire dt x => Sys2Proof.Machine.execWaittExpire dt x s
  | .waitTimeout dt x => Sys2Proof.Machine.execWaitTimeout dt x s
  | .claim dt x token timeout => Sys2Proof.Machine.execClaim dt x token timeout s
  | .release dt x token => Sys2Proof.Machine.execRelease dt x token s
  | .setreg dt x offset value mask => Sys2Proof.Machine.execSetreg dt x offset value mask s
  | .ledgerClear dt x => Sys2Proof.Machine.execLedgerClear dt x s
  | .ledgerCarry dt x factor => Sys2Proof.Machine.execLedgerCarry dt x factor s
  | .ledgerExport dt x addr => Sys2Proof.Machine.execLedgerExport dt x addr s
  | .ledgerExportDone dt => Sys2Proof.Machine.execLedgerExportDone dt s
  | .ledgerDepoff dt x => Sys2Proof.Machine.execLedgerDepoff dt x s
  | .ledgerDepon dt x => Sys2Proof.Machine.execLedgerDepon dt x s
  | .ledgerKernel dt x k3 => Sys2Proof.Machine.execLedgerKernel dt x k3 s
  | .fstart dt x fmask ctx addr => Sys2Proof.Machine.execFstart dt x fmask ctx addr s
  | .fwait dt x fmask ctx timeout => Sys2Proof.Machine.execFwait dt x fmask ctx timeout s
  | .axmove dt x rel axis target speed => Sys2Proof.Machine.execAxmove dt x rel axis target speed s
  | .axwait dt x axmask timeout => Sys2Proof.Machine.execAxwait dt x axmask timeout s
  | .snap dt x cmask delay => Sys2Proof.Machine.execSnap dt x cmask delay s
  | .flip dt x lmask => Sys2Proof.Machine.execFlip dt x lmask s
  | .exportImage dt x queue len addr => Sys2Proof.Machine.execExportImage dt x queue len addr s
  | .emissionFrontReach dt x => Sys2Proof.Machine.execEmissionFrontReach dt x s
  | .plannerDecode dt n segs slowed => Sys2Proof.Machine.execPlannerDecode dt n segs slowed s
  | .summaryPublish dt n slice => Sys2Proof.Machine.execSummaryPublish dt n slice s
  | .replanReady dt n => Sys2Proof.Machine.execReplanReady dt n s
  | .ctxStart dt n c => Sys2Proof.Machine.execCtxStart dt n c s
  | .ctxStop dt n c => Sys2Proof.Machine.execCtxStop dt n c s
  | .ctxStopComplete dt n c => Sys2Proof.Machine.execCtxStopComplete dt n c s
  | .ctxReset dt n c => Sys2Proof.Machine.execCtxReset dt n c s
  | .emissionGrant dt n => Sys2Proof.Machine.execEmissionGrant dt n s
  | .contextSwitch dt n => Sys2Proof.Machine.execContextSwitch dt n s
  | .laserOnRunStart dt n => Sys2Proof.Machine.execLaserOnRunStart dt n s
  | .planUnderrun dt n => Sys2Proof.Machine.execPlanUnderrun dt n s
  | .corLoad dt n => Sys2Proof.Machine.execCorLoad dt n s
  | .corLoadExecute dt n => Sys2Proof.Machine.execCorLoadExecute dt n s
  | .galvoSample dt n gx gy gz lpd avail => Sys2Proof.Machine.execGalvoSample dt n gx gy gz lpd avail s
  | .fdlFrameSend dt n => Sys2Proof.Machine.execFdlFrameSend dt n s
  | .fdlReturnFrame dt n ack stat crcOk => Sys2Proof.Machine.execFdlReturnFrame dt n ack stat crcOk s
  | .fdlReturnTimeout dt n => Sys2Proof.Machine.execFdlReturnTimeout dt n s
  | .frameLatch dt n => Sys2Proof.Machine.execFrameLatch dt n s
  | .framePendingApply dt n => Sys2Proof.Machine.execFramePendingApply dt n s
  | .encoderTransition dt k a b => Sys2Proof.Machine.execEncoderTransition dt k a b s
  | .slotSample dt k => Sys2Proof.Machine.execSlotSample dt k s
  | .poolRecordDeliver dt n => Sys2Proof.Machine.execPoolRecordDeliver dt n s
  | .executionComplete dt k => Sys2Proof.Machine.execExecutionComplete dt k s
  | .executionDrop dt k => Sys2Proof.Machine.execExecutionDrop dt k s
  | .slotStart dt k => Sys2Proof.Machine.execSlotStart dt k s
  | .slotStop dt k => Sys2Proof.Machine.execSlotStop dt k s
  | .loadlib dt k => Sys2Proof.Machine.execLoadlib dt k s
  | .swapRequest dt k => Sys2Proof.Machine.execSwapRequest dt k s
  | .tuneApply dt k => Sys2Proof.Machine.execTuneApply dt k s
  | .ceWindowWrite dt a v => Sys2Proof.Machine.execCeWindowWrite dt a v s
  | .directPowerUpdate dt n => Sys2Proof.Machine.execDirectPowerUpdate dt n s
  | .lchPendingApply dt n => Sys2Proof.Machine.execLchPendingApply dt n s
  | .laserAlarm dt n => Sys2Proof.Machine.execLaserAlarm dt n s
  | .laserReadyChange dt n active => Sys2Proof.Machine.execLaserReadyChange dt n active s
  | .pdCheck dt n => Sys2Proof.Machine.execPdCheck dt n s
  | .ledgerFactorDeliver dt n late => Sys2Proof.Machine.execLedgerFactorDeliver dt n late s
  | .hldDeposit dt n => Sys2Proof.Machine.execHldDeposit dt n s
  | .sweepVisit dt m k => Sys2Proof.Machine.execSweepVisit dt m k s
  | .ledgerWindowWrite dt cell v => Sys2Proof.Machine.execLedgerWindowWrite dt cell v s
  | .grantPass dt => Sys2Proof.Machine.execGrantPass dt s
  | .grantTimeout dt n => Sys2Proof.Machine.execGrantTimeout dt n s
  | .keepoutWrite dt r v => Sys2Proof.Machine.execKeepoutWrite dt r v s
  | .ringDecision dt cycle => Sys2Proof.Machine.execRingDecision dt cycle s
  | .bookedResume dt n => Sys2Proof.Machine.execBookedResume dt n s
  | .cameraEnable dt p v => Sys2Proof.Machine.execCameraEnable dt p v s
  | .cameraDisable dt p => Sys2Proof.Machine.execCameraDisable dt p s
  | .csiPacketReceive dt p pkt => Sys2Proof.Machine.execCsiPacketReceive dt p pkt s
  | .cameraFrameStart dt p => Sys2Proof.Machine.execCameraFrameStart dt p s
  | .cameraFrameEnd dt p => Sys2Proof.Machine.execCameraFrameEnd dt p s
  | .frameTimeout dt p => Sys2Proof.Machine.execFrameTimeout dt p s
  | .triggerDiscard dt p => Sys2Proof.Machine.execTriggerDiscard dt p s
  | .cameraTrig dt p => Sys2Proof.Machine.execCameraTrig dt p s
  | .biTakeFrame dt b => Sys2Proof.Machine.execBiTakeFrame dt b s
  | .biFrameComplete dt b => Sys2Proof.Machine.execBiFrameComplete dt b s
  | .shadowCommit dt set => Sys2Proof.Machine.execShadowCommit dt set s
  | .cmpFlipRequest dt lmask => Sys2Proof.Machine.execCmpFlipRequest dt lmask s
  | .fenceRead dt => Sys2Proof.Machine.execFenceRead dt s
  | .frameBoundary dt => Sys2Proof.Machine.execFrameBoundary dt s
  | .lineOutput dt line late => Sys2Proof.Machine.execLineOutput dt line late s
  | .dirtyWrite dt l => Sys2Proof.Machine.execDirtyWrite dt l s
  | .flattenComplete dt => Sys2Proof.Machine.execFlattenComplete dt s
  | .timingEnable dt => Sys2Proof.Machine.execTimingEnable dt s
  | .hpdChange dt level => Sys2Proof.Machine.execHpdChange dt level s
  | .dpEnable dt => Sys2Proof.Machine.execDpEnable dt s
  | .dpRetrain dt => Sys2Proof.Machine.execDpRetrain dt s
  | .linkTrainingComplete dt result => Sys2Proof.Machine.execLinkTrainingComplete dt result s
  | .auxGo dt v => Sys2Proof.Machine.execAuxGo dt v s
  | .auxReply dt reply data => Sys2Proof.Machine.execAuxReply dt reply data s
  | .axisHome dt a => Sys2Proof.Machine.execAxisHome dt a s
  | .axisStop dt a => Sys2Proof.Machine.execAxisStop dt a s
  | .axisFlush dt a => Sys2Proof.Machine.execAxisFlush dt a s
  | .axisClrf dt a => Sys2Proof.Machine.execAxisClrf dt a s
  | .axisSetpos dt a => Sys2Proof.Machine.execAxisSetpos dt a s
  | .pushMove dt a => Sys2Proof.Machine.execPushMove dt a s
  | .pushRelativeMove dt a => Sys2Proof.Machine.execPushRelativeMove dt a s
  | .pushRawSegment dt a => Sys2Proof.Machine.execPushRawSegment dt a s
  | .axisEnable dt a enable => Sys2Proof.Machine.execAxisEnable dt a enable s
  | .profilerCommit dt a segs => Sys2Proof.Machine.execProfilerCommit dt a segs s
  | .axisInputSample dt a home limp limn => Sys2Proof.Machine.execAxisInputSample dt a home limp limn s
  | .feedbackTimeout dt a => Sys2Proof.Machine.execFeedbackTimeout dt a s
  | .axeCtxStart dt a => Sys2Proof.Machine.execAxeCtxStart dt a s
  | .axeCtxStop dt a => Sys2Proof.Machine.execAxeCtxStop dt a s
  | .axeCtxReset dt a => Sys2Proof.Machine.execAxeCtxReset dt a s
  | .memRead dt port stream addr find level => Sys2Proof.Machine.execMemRead dt port stream addr find level s
  | .memWrite dt port stream addr data find level => Sys2Proof.Machine.execMemWrite dt port stream addr data find level s
  | .agePromotion dt port => Sys2Proof.Machine.execAgePromotion dt port s
  | .rowIdleClose dt ch rank bank => Sys2Proof.Machine.execRowIdleClose dt ch rank bank s
  | .scrubRead dt ch rank find => Sys2Proof.Machine.execScrubRead dt ch rank find s
  | .caParityAlert dt ch rank => Sys2Proof.Machine.execCaParityAlert dt ch rank s
  | .refresh dt ch rank => Sys2Proof.Machine.execRefresh dt ch rank s
  | .dramTempRead dt temps => Sys2Proof.Machine.execDramTempRead dt temps s
  | .retrainWindow dt ch rank last ok temp => Sys2Proof.Machine.execRetrainWindow dt ch rank last ok temp s
  | .rackCmd dt v => Sys2Proof.Machine.execRackCmd dt v s
  | .rackCopyLine dt ch find => Sys2Proof.Machine.execRackCopyLine dt ch find s
  | .rackComplete dt ch => Sys2Proof.Machine.execRackComplete dt ch s
  | .rmapClr dt => Sys2Proof.Machine.execRmapClr dt s
  | .h2dDoorbell dt q v => Sys2Proof.Machine.execH2dDoorbell dt q v s
  | .doorbellRetry dt q tail => Sys2Proof.Machine.execDoorbellRetry dt q tail s
  | .d2hDoorbell dt q v => Sys2Proof.Machine.execD2hDoorbell dt q v s
  | .descriptorStart dt q d => Sys2Proof.Machine.execDescriptorStart dt q d s
  | .descWrite dt q => Sys2Proof.Machine.execDescWrite dt q s
  | .h2dDataReceived dt q data => Sys2Proof.Machine.execH2dDataReceived dt q data s
  | .descWriteComplete dt q => Sys2Proof.Machine.execDescWriteComplete dt q s
  | .descRead dt q => Sys2Proof.Machine.execDescRead dt q s
  | .descSync dt q => Sys2Proof.Machine.execDescSync dt q s
  | .syncFenceComplete dt q => Sys2Proof.Machine.execSyncFenceComplete dt q s
  | .descPush dt q => Sys2Proof.Machine.execDescPush dt q s
  | .queueEnable dt q v => Sys2Proof.Machine.execQueueEnable dt q v s
  | .queueDisable dt q v => Sys2Proof.Machine.execQueueDisable dt q v s
  | .hostAccessError dt q e => Sys2Proof.Machine.execHostAccessError dt q e s
  | .pcieLinkUp dt speed width => Sys2Proof.Machine.execPcieLinkUp dt speed width s
  | .pcieLinkDown dt => Sys2Proof.Machine.execPcieLinkDown dt s
  | .d3hotEntry dt => Sys2Proof.Machine.execD3hotEntry dt s
  | .hotReset dt => Sys2Proof.Machine.execHotReset dt s
  | .ringModeWrite dt mode => Sys2Proof.Machine.execRingModeWrite dt mode s
  | .ringFrameReceive dt p f egress => Sys2Proof.Machine.execRingFrameReceive dt p f egress s
  | .supervisionSend dt => Sys2Proof.Machine.execSupervisionSend dt s
  | .cyclicFrameLaunch dt => Sys2Proof.Machine.execCyclicFrameLaunch dt s
  | .cyclicFrameReceive dt p f => Sys2Proof.Machine.execCyclicFrameReceive dt p f s
  | .bypassWrite dt v => Sys2Proof.Machine.execBypassWrite dt v s
  | .relayChange dt => Sys2Proof.Machine.execRelayChange dt s
  | .watchdogRefresh dt => Sys2Proof.Machine.execWatchdogRefresh dt s
  | .ringWatchdogExpire dt => Sys2Proof.Machine.execRingWatchdogExpire dt s
  | .phyLinkChange dt p up => Sys2Proof.Machine.execPhyLinkChange dt p up s
  | .pdelayReqSend dt p => Sys2Proof.Machine.execPdelayReqSend dt p s
  | .pdelayReqReceive dt p turnaround => Sys2Proof.Machine.execPdelayReqReceive dt p turnaround s
  | .pdelayMeasurement dt p t1 t2 t3 t4 => Sys2Proof.Machine.execPdelayMeasurement dt p t1 t2 t3 t4 s
  | .psack dt p => Sys2Proof.Machine.execPsack dt p s
  | .feedPresent dt f => Sys2Proof.Machine.execFeedPresent dt f s
  | .feedFail dt => Sys2Proof.Machine.execFeedFail dt s
  | .feedSwitch dt => Sys2Proof.Machine.execFeedSwitch dt s
  | .holdupExhausted dt => Sys2Proof.Machine.execHoldupExhausted dt s
  | .railExcursion dt r => Sys2Proof.Machine.execRailExcursion dt r s
  | .railRestart dt r => Sys2Proof.Machine.execRailRestart dt r s
  | .pstateActive dt => Sys2Proof.Machine.execPstateActive dt s
  | .pstateHold dt => Sys2Proof.Machine.execPstateHold dt s
  | .pstateIdle dt => Sys2Proof.Machine.execPstateIdle dt s
  | .pstateStandby dt => Sys2Proof.Machine.execPstateStandby dt s
  | .wakeOt dt => Sys2Proof.Machine.execWakeOt dt s
  | .wakeFrame dt key => Sys2Proof.Machine.execWakeFrame dt key s
  | .thermalRead dt readings => Sys2Proof.Machine.execThermalRead dt readings s
  | .thresholdClear dt => Sys2Proof.Machine.execThresholdClear dt s
  | .sensorClr dt k => Sys2Proof.Machine.execSensorClr dt k s
  | .referenceCompensation dt => Sys2Proof.Machine.execReferenceCompensation dt s
  | .toppingStep dt g m => Sys2Proof.Machine.execToppingStep dt g m s
  | .toppingSwap dt g => Sys2Proof.Machine.execToppingSwap dt g s
  | .sliceClr dt dac k => Sys2Proof.Machine.execSliceClr dt dac k s
  | .calibrationWrite dt dac k gain v => Sys2Proof.Machine.execCalibrationWrite dt dac k gain v s
  | .interlockOpen dt ch => Sys2Proof.Machine.execInterlockOpen dt ch s
  | .interlockClose dt ch => Sys2Proof.Machine.execInterlockClose dt ch s
  | .ilkDiscrepancy dt => Sys2Proof.Machine.execIlkDiscrepancy dt s
  | .msHeartbeatTimeout dt => Sys2Proof.Machine.execMsHeartbeatTimeout dt s
  | .msWatchdogReset dt => Sys2Proof.Machine.execMsWatchdogReset dt s
  | .gstatClear dt v => Sys2Proof.Machine.execGstatClear dt v s
  | .discClear dt => Sys2Proof.Machine.execDiscClear dt s
  | .resume dt n force => Sys2Proof.Machine.execResume dt n force s
  | .resumeWindowExpire dt n => Sys2Proof.Machine.execResumeWindowExpire dt n s
  | .genrel dt n => Sys2Proof.Machine.execGenrel dt n s
  | .armKeyFirst dt => Sys2Proof.Machine.execArmKeyFirst dt s
  | .armKeySecond dt v => Sys2Proof.Machine.execArmKeySecond dt v s
  | .armKeyTimeout dt => Sys2Proof.Machine.execArmKeyTimeout dt s
  | .armComplete dt => Sys2Proof.Machine.execArmComplete dt s
  | .recordWrite dt readback1 readback2 => Sys2Proof.Machine.execRecordWrite dt readback1 readback2 s
  | .summaryEntry dt => Sys2Proof.Machine.execSummaryEntry dt s
  | .powerOnReset dt ot => Sys2Proof.Machine.execPowerOnReset dt ot s
  | .resetL dt low => Sys2Proof.Machine.execResetL dt low s
  | .hostSoftReset dt v => Sys2Proof.Machine.execHostSoftReset dt v s
  | .fieldReset dt n => Sys2Proof.Machine.execFieldReset dt n s
  | .boot dt o => Sys2Proof.Machine.execBoot dt o s
  | .bootComplete dt ms => Sys2Proof.Machine.execBootComplete dt ms s
  | .synthLockRegained dt => Sys2Proof.Machine.execSynthLockRegained dt s
  | .feedCeasesPresent dt f => Sys2Proof.Machine.execFeedCeasesPresent dt f s
  | .laserAlarmInactive dt n => Sys2Proof.Machine.execLaserAlarmInactive dt n s
  | .dphySyncError dt p => Sys2Proof.Machine.execDphySyncError dt p s
  | .aerErrorLogged dt uncorrectable => Sys2Proof.Machine.execAerErrorLogged dt uncorrectable s
  | .msixUnmask dt vec => Sys2Proof.Machine.execMsixUnmask dt vec s
  | .cooContextStart dt c pc => Sys2Proof.Machine.execCooContextStart dt c pc s
  | .tuningComplete dt k => Sys2Proof.Machine.execTuningComplete dt k s
  | .exportWritesComplete dt c => Sys2Proof.Machine.execExportWritesComplete dt c s
  | .axisAtRest dt a => Sys2Proof.Machine.execAxisAtRest dt a s
  | .vcoreMeasurement dt mv => Sys2Proof.Machine.execVcoreMeasurement dt mv s

end Sys2Proof.Machine
end

