-- ==== Sys2Proof/Safety.lean ====
section
/-! DEFINITION. The terms in which the claims are stated: what a command answers, what it leaves, what an
event source shows once raised, and the invariants that every step keeps. -/
namespace Sys2Proof.Machine

/-- The command answers a next state: the queue stays as it is, and the module after it satisfies `P`. -/
def Answers (c : Instr) (s : State) (P : Mach → Prop) : Prop :=
  ∃ t : Mach, exec c s = .next { s with m := t } ∧ P t

/-- No context waits at its front, so no command ends a wait as a side effect. -/
def Mach.Quiet (m : Mach) : Prop := m.someWaits = false

/-- Every register but those listed reads as before. -/
def Mach.Keeps (m t : Mach) (l : List Nat) : Prop := ∀ a, a ∉ l → t.word a = m.word a

/-- Nothing but registers has changed, and of these none but the ones listed. -/
def Mach.OnlyRegs (m t : Mach) (l : List Nat) : Prop := m.Keeps t l ∧ t = { m with regs := t.regs }

/-- The pending bit of an event source (R405). -/
def Mach.evt (m : Mach) (src : Nat) : Nat := m.rd ⟨(R.HS_EVT_PEND (src / 32)).a, src % 32, src % 32⟩

/-- Registers that a raise of a source may write: its pending bit, the pending-bit array of the vectors,
the highest queue level and the source's angel's share (R405, R498). -/
def raiseRegs (src : Nat) : List Nat :=
  [(R.HS_EVT_PEND (src / 32)).a, (R.HSQ_PBA 0).a, (R.HSQ_PBA 1).a, R.CBK_QLEVEL_QMAX.a, (R.CBK_ANGEL src).a]

/-- The source has been raised once, with a record where the queue takes one, and nothing else has
changed but the registers listed. -/
def Mach.OnlyRaised (m t : Mach) (src : Nat) (l : List Nat) : Prop :=
  t.evt src = 1 ∧ m.Keeps t (raiseRegs src ++ l) ∧
  t = { m with regs := t.regs, out := t.out, cbk := t.cbk }

/-- The laser outputs of a field are dark: gate and modulation low, power code 0 (R469). -/
def Mach.Dark (m : Mach) (n : Fin 16) : Prop :=
  m.pins[n].lgate = false ∧ m.pins[n].lmod = false ∧ m.pins[n].lpwr = 0

/-- A global fault has been declared (R473): its bit and ANY stand, source 0 is raised, READY and ARMED have become
SAFE, SAFE_OUT is inactive, every laser output is dark, and every field that was at work, or in fail-safe already, is
in fail-safe with CAUSE GLOBAL. -/
def Mach.GlobalFault (m t : Mach) (k : Nat) : Prop :=
  t.rd ⟨R.SAF_GSTAT_CAUSE.a, k, k⟩ = 1 ∧ t.rd R.SAF_GSTAT_ANY = 1 ∧ t.evt 0 = 1 ∧ t.safeOut = false ∧
  t.mode = (if m.mode = modeReady ∨ m.mode = modeArmed then modeSafe else m.mode) ∧ (∀ n : Fin 16, t.Dark n) ∧
  ∀ n : Fin 16, m.fe[n].busy = true ∨ m.inFs n = true → t.inFs n = true ∧ t.rd (R.SAF_FS_STATUS_CAUSE n) = cGlobal

/-- The module after a reset of a kind that is no power-on (R508, R510): in BOOT, its laser outputs dark, every
context idle, tokens and signals gone, axes unreferenced, DRAM zero unless the reset keeps it; the book, the
records on their way to it, and OT are kept. -/
def Mach.AfterReset (m t : Mach) (kind : Nat) : Prop :=
  t.mode = modeBoot ∧ t.rd R.GLB_RSTCAUSE_KIND = kind ∧ t.rd R.HS_BOOT_STAGE = 0 ∧ t.pstate = 0 ∧
  (∀ n : Fin 16, t.Dark n ∧ t.inFs n = false) ∧ t.safeOut = false ∧ (∀ x, (t.ctx x).st = .idle) ∧
  (∀ a : Fin 8, t.axis[a].ref = false) ∧ t.tokens = [] ∧ t.signals = 0 ∧
  t.mem.bytes = (if kind = kPcie then m.mem.bytes else []) ∧
  t.cbk.book = m.cbk.book ∧ t.cbk.queue = m.cbk.queue ∧ t.tim.ot = m.tim.ot

/-- The bytes of memory and the cells of the heat ledger are in canonical form. -/
def State.wf (s : State) : Bool :=
  Memory.wf s.m.mem.bytes && swf (fun _ => s.m.ledger.base) s.m.ledger.cells

/-! ## Tykai-S at the front (03, 04) -/

/-- The state after an instruction of `n` bytes that goes on with the next one (R82, R85). -/
def PState.next (st : PState) (n : Addr) : PState := { st.goTo (st.pc + n) with spin := st.spin + 1 }

/-- The instruction `i` stands at the PC of the context, which may go on now; no check of R544 stops it.  In a
field, the front is at the planner's frontier, at a point which it reaches and may leave, and the trace is off. -/
def Mach.AtFront (m : Mach) (x : Ctx) (i : TInstr) : Prop :=
  m.Quiet ∧ m.fetchFault (m.ctx x).ret.pc i = none ∧ m.wordFault x (m.ctx x).ret i = none ∧
  m.reachFault x i = none ∧
  match x with
  | .fe n c => m.fe[n].owner = some c ∧ m.frontRuns n c = true ∧ m.frontHeld n c = false ∧ m.fe[n].plan = [] ∧
      m.fe[n].emit = none ∧ m.fe[n].replan = none ∧ m.fe[n].ckpts = [] ∧ m.on (R.FE_TRC_CTRL_EN n) = false ∧
      (m.fe[n].fresh = false ∨ stopsFront i = true)
  | _ => m.ctxRuns x = true

/-- Planning starts again after the instruction: a barrier after which the context goes on (R79). -/
def replans : TInstr → Bool
  | .halt | .layerend => false
  | i => isBarrier i

/-- The context has retired `i` and stands in `st`: its state and its count of retired instructions have
changed, in a field also the planner's frontier and what the statistics keep of the front; after a barrier
planning starts again, and the front waits in dwell class 0 (R79, R141). -/
def Mach.retireTo (m : Mach) (x : Ctx) (i : TInstr) (st : PState) : Mach :=
  let r := m.ctx x
  let m := m.setCtx x { r with ret := st, wait := none, retired := r.retired + 1 }
  match x with
  | .fe n c =>
    let w := usedWords r.ret.pc i m.fe[n].prefetch
    let m := (m.noteFront n).modField n fun f =>
      { f with
        plan := [], emit := none, atCk := none, pl := st, barrier := f.barrier && !isBarrier i, prefetch := w
        replan := if replans i then some ⟨.barrier, m.mt, m.mt, none⟩ else none }
    if replans i then m.dwellIn n 0 else m
  | _ => m

/-- The context waits at `i` for `k` since now, with a timeout in ms, and nothing else has changed but, in a
field, what YIELD and a barrier change of the field (R79, R119). -/
def Mach.WaitsAt (m : Mach) (x : Ctx) (i : TInstr) (k : WaitK) (tmo : Nat) (t : Mach) : Prop :=
  (t.ctx x).wait = some ⟨k, m.mt, tmo, 0, i⟩ ∧ (t.ctx x).ret = (m.ctx x).ret ∧ (t.ctx x).retired = (m.ctx x).retired ∧
  (∀ y, y ≠ x → t.ctx y = m.ctx y) ∧ t = { m with fe := t.fe, coo := t.coo, axis := t.axis }

/-- The context alone waits, and nothing is traced. -/
def Mach.OnlyWaits (m : Mach) (x : Ctx) (w : Wait) : Prop :=
  (m.ctx x).wait = some w ∧ (∀ y, y ≠ x → (m.ctx y).wait = none) ∧ ∀ n : Fin 16, m.on (R.FE_TRC_CTRL_EN n) = false

/-- The wait of the context has ended and its instruction has retired; other contexts are as they were. -/
def Mach.WaitOver (m : Mach) (x : Ctx) (t : Mach) : Prop :=
  (t.ctx x).wait = none ∧ (t.ctx x).retired = (m.ctx x).retired + 1 ∧ ∀ y, y ≠ x → t.ctx y = m.ctx y

/-- The segments of the motion `i` at the front have been emitted: its entry is the plan's first and holds the
instruction's last segments, of which `l` is the last one. -/
def Mach.MotionEnds (m : Mach) (n : Fin 16) (c : Fin 8) (i : TInstr) (e : PlanEntry) (l : PSeg) : Prop :=
  m.Quiet ∧ m.fe[n].owner = some c ∧ m.frontRuns n c = true ∧ m.fe[n].replan = none ∧
  m.on (R.FE_TRC_CTRL_EN n) = false ∧ m.fe[n].plan.head? = some e ∧ e.ins = i ∧ isMotion i = true ∧ e.last = true ∧
  e.segs.getLast? = some l ∧ m.fe[n].emit.isSome = true ∧ (m.fe[n].motionEnd).getD 0 ≤ m.mt

/-- The motion has retired: the spot stands at the end of its last segment, the plan goes on with the next
entry, and nothing outside the field has changed. -/
def Mach.MotionDone (m : Mach) (n : Fin 16) (c : Fin 8) (e : PlanEntry) (l : PSeg) (t : Mach) : Prop :=
  t.fe[n].ctx[c].ret = e.after ∧ t.fe[n].ctx[c].retired = m.fe[n].ctx[c].retired + 1 ∧
  t.fe[n].ctx[c].st = .active ∧ t.fe[n].plan = m.fe[n].plan.drop 1 ∧ t.fe[n].emit = none ∧
  (t.fe[n].spotX, t.fe[n].spotY, t.fe[n].spotZ) = (l.seg.x1, l.seg.y1, l.seg.z1) ∧
  t.fe[n].inRun = (l.seg.laser && e.after.laserOn) ∧
  (∀ k : Fin 16, k ≠ n → t.fe[k] = m.fe[k]) ∧ t = { m with fe := t.fe }

/-! ## What each command does -/

/-- Ticks since the command before. -/
def ticksOf : Instr → Nat
  | .hostRegisterWrite dt _ _ => dt
  | .narrowWrite dt _ _ => dt
  | .loReadLatch dt _ => dt
  | .loWriteHold dt _ _ => dt
  | .hiWriteCommit dt _ _ => dt
  | .configRequest dt _ => dt
  | .unlockKeyWrite dt _ _ => dt
  | .unlockSequenceTimeout dt _ => dt
  | .requestSafe dt => dt
  | .requestReady dt => dt
  | .disarmComplete dt => dt
  | .slackGovernorTick dt => dt
  | .oscCompensationUpdate dt => dt
  | .mtkCapture dt => dt
  | .mtkSeqReadLatch dt => dt
  | .deadlineWatchRollover dt => dt
  | .ptWrap dt => dt
  | .ptStep dt _ => dt
  | .ptReadLatch dt => dt
  | .otReadLatch dt => dt
  | .otSave dt => dt
  | .edgeEntryArrival dt _ _ _ => dt
  | .edgePresent dt _ => dt
  | .synthLockLost dt => dt
  | .nop dt _ _ => dt
  | .br dt _ _ => dt
  | .brc dt _ _ _ _ _ _ _ => dt
  | .call dt _ _ => dt
  | .ret dt _ => dt
  | .loop dt _ _ _ => dt
  | .halt dt _ => dt
  | .layerend dt _ => dt
  | .jump dt _ _ _ _ => dt
  | .mark dt _ _ _ _ _ _ => dt
  | .arc dt _ _ _ _ _ _ _ => dt
  | .poly dt _ _ _ _ _ _ _ => dt
  | .dot dt _ _ _ _ _ _ _ => dt
  | .spiral dt _ _ _ _ _ _ _ _ => dt
  | .wobble dt _ _ _ _ => dt
  | .setv dt _ _ _ => dt
  | .setp dt _ _ _ _ _ => dt
  | .setpool dt _ _ _ _ => dt
  | .setfocus dt _ _ => dt
  | .setreentry dt _ _ _ => dt
  | .setprofile dt _ _ _ _ _ => dt
  | .sig dt _ _ _ _ _ _ _ => dt
  | .sigFenceComplete dt _ => dt
  | .waitsig dt _ _ _ _ _ => dt
  | .waitt dt _ _ _ => dt
  | .waittExpire dt _ => dt
  | .waitTimeout dt _ => dt
  | .claim dt _ _ _ => dt
  | .release dt _ _ => dt
  | .setreg dt _ _ _ _ => dt
  | .ledgerClear dt _ => dt
  | .ledgerCarry dt _ _ => dt
  | .ledgerExport dt _ _ => dt
  | .ledgerExportDone dt => dt
  | .ledgerDepoff dt _ => dt
  | .ledgerDepon dt _ => dt
  | .ledgerKernel dt _ _ => dt
  | .fstart dt _ _ _ _ => dt
  | .fwait dt _ _ _ _ => dt
  | .axmove dt _ _ _ _ _ => dt
  | .axwait dt _ _ _ => dt
  | .snap dt _ _ _ => dt
  | .flip dt _ _ => dt
  | .exportImage dt _ _ _ _ => dt
  | .emissionFrontReach dt _ => dt
  | .plannerDecode dt _ _ _ => dt
  | .summaryPublish dt _ _ => dt
  | .replanReady dt _ => dt
  | .ctxStart dt _ _ => dt
  | .ctxStop dt _ _ => dt
  | .ctxStopComplete dt _ _ => dt
  | .ctxReset dt _ _ => dt
  | .emissionGrant dt _ => dt
  | .contextSwitch dt _ => dt
  | .laserOnRunStart dt _ => dt
  | .planUnderrun dt _ => dt
  | .corLoad dt _ => dt
  | .corLoadExecute dt _ => dt
  | .galvoSample dt _ _ _ _ _ _ => dt
  | .fdlFrameSend dt _ => dt
  | .fdlReturnFrame dt _ _ _ _ => dt
  | .fdlReturnTimeout dt _ => dt
  | .frameLatch dt _ => dt
  | .framePendingApply dt _ => dt
  | .encoderTransition dt _ _ _ => dt
  | .slotSample dt _ => dt
  | .poolRecordDeliver dt _ => dt
  | .executionComplete dt _ => dt
  | .executionDrop dt _ => dt
  | .slotStart dt _ => dt
  | .slotStop dt _ => dt
  | .loadlib dt _ => dt
  | .swapRequest dt _ => dt
  | .tuneApply dt _ => dt
  | .ceWindowWrite dt _ _ => dt
  | .directPowerUpdate dt _ => dt
  | .lchPendingApply dt _ => dt
  | .laserAlarm dt _ => dt
  | .laserReadyChange dt _ _ => dt
  | .pdCheck dt _ => dt
  | .ledgerFactorDeliver dt _ _ => dt
  | .hldDeposit dt _ => dt
  | .sweepVisit dt _ _ => dt
  | .ledgerWindowWrite dt _ _ => dt
  | .grantPass dt => dt
  | .grantTimeout dt _ => dt
  | .keepoutWrite dt _ _ => dt
  | .ringDecision dt _ => dt
  | .bookedResume dt _ => dt
  | .cameraEnable dt _ _ => dt
  | .cameraDisable dt _ => dt
  | .csiPacketReceive dt _ _ => dt
  | .cameraFrameStart dt _ => dt
  | .cameraFrameEnd dt _ => dt
  | .frameTimeout dt _ => dt
  | .triggerDiscard dt _ => dt
  | .cameraTrig dt _ => dt
  | .biTakeFrame dt _ => dt
  | .biFrameComplete dt _ => dt
  | .shadowCommit dt _ => dt
  | .cmpFlipRequest dt _ => dt
  | .fenceRead dt => dt
  | .frameBoundary dt => dt
  | .lineOutput dt _ _ => dt
  | .dirtyWrite dt _ => dt
  | .flattenComplete dt => dt
  | .timingEnable dt => dt
  | .hpdChange dt _ => dt
  | .dpEnable dt => dt
  | .dpRetrain dt => dt
  | .linkTrainingComplete dt _ => dt
  | .auxGo dt _ => dt
  | .auxReply dt _ _ => dt
  | .axisHome dt _ => dt
  | .axisStop dt _ => dt
  | .axisFlush dt _ => dt
  | .axisClrf dt _ => dt
  | .axisSetpos dt _ => dt
  | .pushMove dt _ => dt
  | .pushRelativeMove dt _ => dt
  | .pushRawSegment dt _ => dt
  | .axisEnable dt _ _ => dt
  | .profilerCommit dt _ _ => dt
  | .axisInputSample dt _ _ _ _ => dt
  | .feedbackTimeout dt _ => dt
  | .axeCtxStart dt _ => dt
  | .axeCtxStop dt _ => dt
  | .axeCtxReset dt _ => dt
  | .memRead dt _ _ _ _ _ => dt
  | .memWrite dt _ _ _ _ _ _ => dt
  | .agePromotion dt _ => dt
  | .rowIdleClose dt _ _ _ => dt
  | .scrubRead dt _ _ _ => dt
  | .caParityAlert dt _ _ => dt
  | .refresh dt _ _ => dt
  | .dramTempRead dt _ => dt
  | .retrainWindow dt _ _ _ _ _ => dt
  | .rackCmd dt _ => dt
  | .rackCopyLine dt _ _ => dt
  | .rackComplete dt _ => dt
  | .rmapClr dt => dt
  | .h2dDoorbell dt _ _ => dt
  | .doorbellRetry dt _ _ => dt
  | .d2hDoorbell dt _ _ => dt
  | .descriptorStart dt _ _ => dt
  | .descWrite dt _ => dt
  | .h2dDataReceived dt _ _ => dt
  | .descWriteComplete dt _ => dt
  | .descRead dt _ => dt
  | .descSync dt _ => dt
  | .syncFenceComplete dt _ => dt
  | .descPush dt _ => dt
  | .queueEnable dt _ _ => dt
  | .queueDisable dt _ _ => dt
  | .hostAccessError dt _ _ => dt
  | .pcieLinkUp dt _ _ => dt
  | .pcieLinkDown dt => dt
  | .d3hotEntry dt => dt
  | .hotReset dt => dt
  | .ringModeWrite dt _ => dt
  | .ringFrameReceive dt _ _ _ => dt
  | .supervisionSend dt => dt
  | .cyclicFrameLaunch dt => dt
  | .cyclicFrameReceive dt _ _ => dt
  | .bypassWrite dt _ => dt
  | .relayChange dt => dt
  | .watchdogRefresh dt => dt
  | .ringWatchdogExpire dt => dt
  | .phyLinkChange dt _ _ => dt
  | .pdelayReqSend dt _ => dt
  | .pdelayReqReceive dt _ _ => dt
  | .pdelayMeasurement dt _ _ _ _ _ => dt
  | .psack dt _ => dt
  | .feedPresent dt _ => dt
  | .feedFail dt => dt
  | .feedSwitch dt => dt
  | .holdupExhausted dt => dt
  | .railExcursion dt _ => dt
  | .railRestart dt _ => dt
  | .pstateActive dt => dt
  | .pstateHold dt => dt
  | .pstateIdle dt => dt
  | .pstateStandby dt => dt
  | .wakeOt dt => dt
  | .wakeFrame dt _ => dt
  | .thermalRead dt _ => dt
  | .thresholdClear dt => dt
  | .sensorClr dt _ => dt
  | .referenceCompensation dt => dt
  | .toppingStep dt _ _ => dt
  | .toppingSwap dt _ => dt
  | .sliceClr dt _ _ => dt
  | .calibrationWrite dt _ _ _ _ => dt
  | .interlockOpen dt _ => dt
  | .interlockClose dt _ => dt
  | .ilkDiscrepancy dt => dt
  | .msHeartbeatTimeout dt => dt
  | .msWatchdogReset dt => dt
  | .gstatClear dt _ => dt
  | .discClear dt => dt
  | .resume dt _ _ => dt
  | .resumeWindowExpire dt _ => dt
  | .genrel dt _ => dt
  | .armKeyFirst dt => dt
  | .armKeySecond dt _ => dt
  | .armKeyTimeout dt => dt
  | .armComplete dt => dt
  | .recordWrite dt _ _ => dt
  | .summaryEntry dt => dt
  | .powerOnReset dt _ => dt
  | .resetL dt _ => dt
  | .hostSoftReset dt _ => dt
  | .fieldReset dt _ => dt
  | .boot dt _ => dt
  | .bootComplete dt _ => dt
  | .synthLockRegained dt => dt
  | .feedCeasesPresent dt _ => dt
  | .laserAlarmInactive dt _ => dt
  | .dphySyncError dt _ => dt
  | .aerErrorLogged dt _ => dt
  | .msixUnmask dt _ => dt
  | .cooContextStart dt _ _ => dt
  | .tuningComplete dt _ => dt
  | .exportWritesComplete dt _ => dt
  | .axisAtRest dt _ => dt
  | .vcoreMeasurement dt _ => dt

/-- The operation of each command on the module at its instant, as the rule of its row gives it; a rule's conditions
are the operation's own. -/
def effectOf (c : Instr) (mm : Mach) : Mach :=
  match c with
  | .hostRegisterWrite _ a v => (mm.busWrite (regAddr a) v).wakeAll
  | .narrowWrite _ a _ => mm.narrowWrite (narrowAddr a)
  | .loReadLatch _ a => mm.loRead (regAddr a)
  | .loWriteHold _ a v => mm.pairWrite 1 (regAddr a) v
  | .hiWriteCommit _ a v => mm.pairWrite 2 (regAddr a) v
  | .configRequest _ a => mm.configRequest a
  | .unlockKeyWrite _ b v => mm.ifOpen (blockAddr b) (·.unlockWrite (blockAddr b) v)
  | .unlockSequenceTimeout _ b => mm.unlockExpire (blockAddr b)
  | .requestSafe _ => mm.requestSafe
  | .requestReady _ => mm.requestReady.wakeAll
  | .disarmComplete _ => mm.disarmComplete
  | .slackGovernorTick _ => mm.slackTick
  | .oscCompensationUpdate _ => mm.oscUpdate
  | .mtkCapture _ => mm.mtkCapture
  | .mtkSeqReadLatch _ => mm.mtkSeqRead
  | .deadlineWatchRollover _ => mm.dlwRollover
  | .ptWrap _ => mm.ptWrap
  | .ptStep _ v => mm.ifOpen 0x30000 (·.ptStep v)
  | .ptReadLatch _ => mm.ptRead
  | .otReadLatch _ => mm.otRead
  | .otSave _ => mm.otSave
  | .edgeEntryArrival _ e due val => (mm.edgeArrival e due val).wakeAll
  | .edgePresent _ e => (mm.edgePresent e).wakeAll
  | .synthLockLost _ => mm.lockLost
  | .nop _ x _ => (mm.execT x (.nop)).wakeAll
  | .br _ x off => (mm.execT x (.br off)).wakeAll
  | .brc _ x hint cls idx test off value => (mm.execT x (.brc hint cls idx test off value)).wakeAll
  | .call _ x off => (mm.execT x (.call off)).wakeAll
  | .ret _ x => (mm.execT x .ret).wakeAll
  | .loop _ x body count => (mm.execT x (.loop body count)).wakeAll
  | .halt _ x => (mm.execT x .halt).wakeAll
  | .layerend _ x => (mm.execT x .layerend).wakeAll
  | .jump _ x rel px py => (mm.execT x (.jump rel px py)).wakeAll
  | .mark _ x cont rel nopool px py => (mm.execT x (.mark cont rel nopool px py)).wakeAll
  | .arc _ x cont rel nopool sweep cx cy => (mm.execT x (.arc cont rel nopool sweep cx cy)).wakeAll
  | .poly _ x cont rel nopool close npts addr => (mm.execT x (.poly cont rel nopool close npts addr)).wakeAll
  | .dot _ x rel nopool curd dwell px py => (mm.execT x (.dot rel nopool curd dwell px py)).wakeAll
  | .spiral _ x cont rel nopool sweep cx cy rend => (mm.execT x (.spiral cont rel nopool sweep cx cy rend)).wakeAll
  | .wobble _ x freq amp shape => (mm.execT x (.wobble freq amp shape)).wakeAll
  | .setv _ x jmp speed => (mm.execT x (.setv jmp speed)).wakeAll
  | .setp _ x keepp keepd power dwell => (mm.execT x (.setp keepp keepd power dwell)).wakeAll
  | .setpool _ x target stat mode => (mm.execT x (.setpool target stat mode)).wakeAll
  | .setfocus _ x focus => (mm.execT x (.setfocus focus)).wakeAll
  | .setreentry _ x overlap ramp => (mm.execT x (.setreentry overlap ramp)).wakeAll
  | .setprofile _ x keepm keepmat mprof mat => (mm.execT x (.setprofile keepm keepmat mprof mat)).wakeAll
  | .sig _ x clr evt fence signum fval addr => (mm.execT x (.sig clr evt fence signum fval addr)).wakeAll
  | .sigFenceComplete _ x => (mm.fenceComplete x).wakeAll
  | .waitsig _ x clr wclr signum timeout => (mm.execT x (.waitsig clr wclr signum timeout)).wakeAll
  | .waitt _ x abs t => (mm.execT x (.waitt abs t)).wakeAll
  | .waittExpire _ x => (mm.waittExpire x).wakeAll
  | .waitTimeout _ x => (mm.waitTimeout x).wakeAll
  | .claim _ x token timeout => (mm.execT x (.claim token timeout)).wakeAll
  | .release _ x token => (mm.execT x (.release token)).wakeAll
  | .setreg _ x offset value mask => (mm.execT x (.setreg offset value mask)).wakeAll
  | .ledgerClear _ x => (mm.execT x (.ledger 0 false 0 0)).wakeAll
  | .ledgerCarry _ x factor => (mm.execT x (.ledger 1 false factor 0)).wakeAll
  | .ledgerExport _ x addr => (mm.execT x (.ledger 2 false 0 addr)).wakeAll
  | .ledgerExportDone _ => mm.exportDone.wakeAll
  | .ledgerDepoff _ x => (mm.execT x (.ledger 3 false 0 0)).wakeAll
  | .ledgerDepon _ x => (mm.execT x (.ledger 4 false 0 0)).wakeAll
  | .ledgerKernel _ x k3 => (mm.execT x (.ledger 5 k3 0 0)).wakeAll
  | .fstart _ x fmask ctx addr => (mm.execT x (.fstart fmask ctx addr)).wakeAll
  | .fwait _ x fmask ctx timeout => (mm.execT x (.fwait fmask ctx timeout)).wakeAll
  | .axmove _ x rel axis target speed => (mm.execT x (.axmove rel axis target speed)).wakeAll
  | .axwait _ x axmask timeout => (mm.execT x (.axwait axmask timeout)).wakeAll
  | .snap _ x cmask delay => (mm.execT x (.snap cmask delay)).wakeAll
  | .flip _ x lmask => (mm.execT x (.flip lmask)).wakeAll
  | .exportImage _ x queue len addr => (mm.execT x (.exportImage queue len addr)).wakeAll
  | .emissionFrontReach _ x => (mm.frontReach x).wakeAll
  | .plannerDecode _ n segs slowed => (mm.plannerDecode n segs slowed).wakeAll
  | .summaryPublish _ n slice => mm.publish n slice
  | .replanReady _ n => (mm.replanReady n).wakeAll
  | .ctxStart _ n c => (mm.command (R.FE_CTX_CMD n c).a 1 (·.ctxStart n c)).wakeAll
  | .ctxStop _ n c => (mm.command (R.FE_CTX_CMD n c).a 2 (·.ctxStop n c)).wakeAll
  | .ctxStopComplete _ n c => (mm.ctxStopComplete n c).wakeAll
  | .ctxReset _ n c => (mm.command (R.FE_CTX_CMD n c).a 3 (·.ctxReset n c)).wakeAll
  | .emissionGrant _ n => mm.emissionGrant n
  | .contextSwitch _ n => mm.contextSwitch n
  | .laserOnRunStart _ n => mm.runStart n
  | .planUnderrun _ n => mm.underrun n
  | .corLoad _ n => mm.command (R.FE_COR_CTRL n).a 1 (·.corRequest n)
  | .corLoadExecute _ n => mm.corExecute n
  | .galvoSample _ n gx gy gz lpd avail => mm.galvoSample n gx gy gz lpd avail
  | .fdlFrameSend _ n => mm.fdlFrame n
  | .fdlReturnFrame _ n ack stat crcOk => mm.fdlReturn n ack stat crcOk
  | .fdlReturnTimeout _ n => mm.fdlTimeout n
  | .frameLatch _ n => mm.command (R.FE_FRM_LATCH n).a 1 (·.frameLatch n)
  | .framePendingApply _ n => mm.framePending n
  | .encoderTransition _ k a b => mm.encoder k a b
  | .slotSample _ k => mm.slotSample k
  | .poolRecordDeliver _ n => mm.poolDeliver n
  | .executionComplete _ k => mm.execComplete k
  | .executionDrop _ k => mm.execDrop k
  | .slotStart _ k => mm.command (R.CE_SLOT_CMD k).a 1 (·.slotStart k)
  | .slotStop _ k => mm.command (R.CE_SLOT_CMD k).a 2 (·.slotStop k)
  | .loadlib _ k => mm.command (R.CE_SLOT_CMD k).a 3 (·.loadLib k)
  | .swapRequest _ k => mm.command (R.CE_SLOT_SWAP_REQ k).a 1 (·.swapRequest k)
  | .tuneApply _ k => mm.command (R.CE_SLOT_SWAP_APPLY k).a 2 (·.tuneApply k)
  | .ceWindowWrite _ a v => mm.command (0x400000 + a.toNat) v (·.ceWindow a.toNat v)
  | .directPowerUpdate _ n => mm.directPower n
  | .lchPendingApply _ n => mm.lchPending n
  | .laserAlarm _ n => mm.laserAlarm n
  | .laserReadyChange _ n active => mm.laserReady n active
  | .pdCheck _ n => mm.pdCheck n
  | .ledgerFactorDeliver _ n late => mm.deliverFactor n late
  | .hldDeposit _ n => mm.deposit n
  | .sweepVisit _ m k => (mm).sweepVisit m k.toNat
  | .ledgerWindowWrite _ cell v => mm.ledgerWrite cell.toNat v
  | .grantPass _ => mm.grantPass
  | .grantTimeout _ n => mm.grantTimeout n
  | .keepoutWrite _ r v => mm.ifOpen 0xC00000 (·.koWrite r v)
  | .ringDecision _ cycle => (mm.ringDecision cycle).wakeAll
  | .bookedResume _ n => mm.bookedResume n
  | .cameraEnable _ p v => mm.ifOpen 0x1000000 (·.camWrite p v)
  | .cameraDisable _ p => mm.ifOpen 0x1000000 (·.camDisable p)
  | .csiPacketReceive _ p pkt => mm.csiPacket p pkt
  | .cameraFrameStart _ p => mm.frameStart p
  | .cameraFrameEnd _ p => mm.frameEnd p
  | .frameTimeout _ p => mm.frameTimeout p
  | .triggerDiscard _ p => mm.trigDiscard p
  | .cameraTrig _ p => mm.ifOpen 0x1000000 (·.camTrig p)
  | .biTakeFrame _ b => mm.biTake b
  | .biFrameComplete _ b => mm.biComplete b
  | .shadowCommit _ set => mm.ifOpen 0x1000000 (·.shadowCommit set)
  | .cmpFlipRequest _ lmask => mm.ifOpen 0x1400000 (·.flipRequest lmask)
  | .fenceRead _ => mm.fenceRead
  | .frameBoundary _ => mm.frameBoundary
  | .lineOutput _ line late => mm.lineOutput line.toNat late
  | .dirtyWrite _ l => mm.ifOpen 0x1400000 (·.dirtyWrite l)
  | .flattenComplete _ => mm.flattenDone
  | .timingEnable _ => mm.ifOpen 0x1400000 (·.timingEnable)
  | .hpdChange _ level => mm.hpdChange level
  | .dpEnable _ => mm.ifOpen 0x1400000 (·.dpEnable)
  | .dpRetrain _ => mm.ifOpen 0x1400000 (·.trainLink)
  | .linkTrainingComplete _ result => mm.linkTrained result
  | .auxGo _ v => mm.ifOpen 0x1400000 (·.auxGo v)
  | .auxReply _ reply data => mm.auxReply reply data
  | .axisHome _ a => (mm.ifOpen 0xF00000 (·.axHome a)).wakeAll
  | .axisStop _ a => (mm.ifOpen 0xF00000 (·.axStopCmd a)).wakeAll
  | .axisFlush _ a => (mm.ifOpen 0xF00000 (·.axFlush a)).wakeAll
  | .axisClrf _ a => (mm.ifOpen 0xF00000 (·.axClrf a)).wakeAll
  | .axisSetpos _ a => (mm.ifOpen 0xF00000 (·.axSetpos a)).wakeAll
  | .pushMove _ a => (mm.ifOpen 0xF00000 (·.pushMove a false)).wakeAll
  | .pushRelativeMove _ a => (mm.ifOpen 0xF00000 (·.pushMove a true)).wakeAll
  | .pushRawSegment _ a => (mm.ifOpen 0xF00000 (·.pushRaw a)).wakeAll
  | .axisEnable _ a enable => (mm.ifOpen 0xF00000 (·.axEnable a enable)).wakeAll
  | .profilerCommit _ a segs => (mm.axProfile a segs).wakeAll
  | .axisInputSample _ a home limp limn => (mm.axInputs a home limp limn).wakeAll
  | .feedbackTimeout _ a => (mm.axFbTimeout a).wakeAll
  | .axeCtxStart _ a => (mm.ifOpen 0xF00000 (·.axeStart a)).wakeAll
  | .axeCtxStop _ a => (mm.ifOpen 0xF00000 (·.axeStop a)).wakeAll
  | .axeCtxReset _ a => (mm.ifOpen 0xF00000 (·.axeReset a)).wakeAll
  | .memRead _ port stream addr find level => mm.memRead port stream addr.toNat find level.toNat
  | .memWrite _ port stream addr data find level => mm.memWrite port stream addr.toNat data find level.toNat
  | .agePromotion _ port => mm.agePromote port
  | .rowIdleClose _ ch rank bank => mm.rowClose ch rank bank
  | .scrubRead _ ch rank find => mm.scrubRead ch rank find
  | .caParityAlert _ ch rank => mm.caParity ch rank
  | .refresh _ ch rank => mm.refreshRank ch rank
  | .dramTempRead _ temps => mm.dramTemps temps
  | .retrainWindow _ ch rank last ok temp => mm.trainWindow ch rank last ok temp
  | .rackCmd _ v => mm.ifOpen 0x200000 (·.rackCmd v)
  | .rackCopyLine _ ch find => mm.rackCopy ch find
  | .rackComplete _ ch => mm.rackDone ch
  | .rmapClr _ => mm.ifOpen 0x200000 (·.applyWrite R.MEM_RMAP_CLR.a 1)
  | .h2dDoorbell _ q v => (mm.doorbell (h2d q) (v.toNat % 65536) (vbit v 31)).wakeAll
  | .doorbellRetry _ q tail => (mm.doorbell (h2d q) tail.toNat true).wakeAll
  | .d2hDoorbell _ q v => (mm.doorbell (d2h q) (v.toNat % 65536) false).wakeAll
  | .descriptorStart _ q d => (mm.descStart q d).wakeAll
  | .descWrite _ q => mm.descWrite q
  | .h2dDataReceived _ q data => (mm.h2dData q data).wakeAll
  | .descWriteComplete _ q => (mm.writeDone q).wakeAll
  | .descRead _ q => (mm.descRead q).wakeAll
  | .descSync _ q => (mm.descSync q).wakeAll
  | .syncFenceComplete _ q => (mm.syncDone q).wakeAll
  | .descPush _ q => (mm.descPush q).wakeAll
  | .queueEnable _ q v => (mm.hsCtrl q (v ||| 1)).wakeAll
  | .queueDisable _ q v => (mm.hsCtrl q (v &&& ~~~1)).wakeAll
  | .hostAccessError _ q e => (mm.hostError q e).wakeAll
  | .pcieLinkUp _ speed width => mm.linkUp speed width
  | .pcieLinkDown _ => mm.linkDown.wakeAll
  | .d3hotEntry _ => mm.d3hot.wakeAll
  | .hotReset _ => mm.hotReset
  | .ringModeWrite _ mode => mm.ifOpen 0x1500000 (·.ringModeWrite mode.toNat)
  | .ringFrameReceive _ p f egress => mm.ringFrame p f egress
  | .supervisionSend _ => mm.supervision
  | .cyclicFrameLaunch _ => mm.cycLaunch
  | .cyclicFrameReceive _ p f => (mm.cycReceive p f).wakeAll
  | .bypassWrite _ v => mm.ifOpen 0x1500000 (·.bypassWrite v)
  | .relayChange _ => mm.relayMove
  | .watchdogRefresh _ => mm.watchdogRefresh
  | .ringWatchdogExpire _ => mm.watchdogExpire
  | .phyLinkChange _ p up => mm.phyLink p up
  | .pdelayReqSend _ p => mm.pdelayReq p
  | .pdelayReqReceive _ p turnaround => mm.pdelayAnswer p turnaround
  | .pdelayMeasurement _ p t1 t2 t3 t4 => mm.pdMeasure p t1 t2 t3 t4
  | .psack _ p => mm.ifOpen 0x1500000 (·.psack p)
  | .feedPresent _ f => mm.feedPresent f
  | .feedFail _ => mm.feedFail
  | .feedSwitch _ => mm.ifOpen 0x10000 (·.feedSwitch)
  | .holdupExhausted _ => mm.holdupOut
  | .railExcursion _ r => mm.railOut r
  | .railRestart _ r => mm.railRestart r
  | .pstateActive _ => (mm.ifOpen 0x10000 (·.hostActive)).wakeAll
  | .pstateHold _ => mm.ifOpen 0x10000 (·.reqHold)
  | .pstateIdle _ => mm.ifOpen 0x10000 (·.reqIdle)
  | .pstateStandby _ => mm.ifOpen 0x10000 (·.reqStandby)
  | .wakeOt _ => mm.wakeOt
  | .wakeFrame _ key => mm.wakeFrame key
  | .thermalRead _ readings => mm.thermalRead readings
  | .thresholdClear _ => mm.thresholdClear
  | .sensorClr _ k => mm.ifOpen 0x20000 (·.sensorClr k)
  | .referenceCompensation _ => mm.refComp
  | .toppingStep _ g m => (mm).toppingStep g m
  | .toppingSwap _ g => mm.toppingSwap g
  | .sliceClr _ dac k => mm.ifOpen 0x60000 (·.sliceClr dac k)
  | .calibrationWrite _ dac k gain v => mm.ifOpen 0x60000 (·.calWrite dac k gain v)
  | .interlockOpen _ ch => mm.ilkOpen ch
  | .interlockClose _ ch => mm.ilkClose ch
  | .ilkDiscrepancy _ => mm.ilkDisc
  | .msHeartbeatTimeout _ => mm.msLost
  | .msWatchdogReset _ => mm.msReset
  | .gstatClear _ v => mm.ifOpen 0x40000 (·.gstatClear v)
  | .discClear _ => mm.ifOpen 0x40000 (·.discClear)
  | .resume _ n force => (mm.ifOpen 0x40000 (·.resume n force)).wakeAll
  | .resumeWindowExpire _ n => mm.windowExpire n
  | .genrel _ n => mm.ifOpen 0x40000 (·.genrel n)
  | .armKeyFirst _ => mm.ifOpen 0x40000 (·.armFirst)
  | .armKeySecond _ v => mm.ifOpen 0x40000 (·.armSecond v)
  | .armKeyTimeout _ => mm.armTimeout
  | .armComplete _ => mm.armComplete
  | .recordWrite _ readback1 readback2 => mm.recordWrite readback1 readback2
  | .summaryEntry _ => mm.summaryEntry
  | .powerOnReset _ ot => mm.powerOn ot
  | .resetL _ low => mm.resetL low
  | .hostSoftReset _ v => mm.hostReset v
  | .fieldReset _ n => (mm.fieldReset n).wakeAll
  | .boot _ o => mm.boot o
  | .bootComplete _ ms => mm.bootComplete ms
  | .synthLockRegained _ => mm.lockBack
  | .feedCeasesPresent _ f => mm.feedCeases f
  | .laserAlarmInactive _ n => mm.laserAlarmOff n
  | .dphySyncError _ p => mm.dphyError p
  | .aerErrorLogged _ uncorrectable => mm.aerLogged uncorrectable
  | .msixUnmask _ vec => mm.msixUnmask vec
  | .cooContextStart _ c pc => (mm.cooStart c pc).wakeAll
  | .tuningComplete _ k => mm.tuneDone k
  | .exportWritesComplete _ c => (mm.exportWrites c).wakeAll
  | .axisAtRest _ a => (mm.axRest a).wakeAll
  | .vcoreMeasurement _ mv => mm.vcoreMeas mv.toNat

end Sys2Proof.Machine
end

