-- ==== Sys2Proof/Certificates/Slice0/Obligations.lean ====
section
/-! DEFINITION. The obligations: what the commands of each chapter do, stated from the numbered rules. -/
open Sys2Proof Sys2Proof.Machine

/-- A step at a state whose queue begins with a command is that command's execution on the state with the
rest of the queue. -/
def Obligations.StepRunsFrontCommand : Prop :=
  ∀ (c : Instr) (rest : List Instr) (s : State), s.pending = c :: rest →
    step s = exec c { s with pending := rest }

/-- Every command completes in every state: its execution is the next state in which its operation has been
applied to the module at its instant.  Whatever the state, a step answers a next state, whose queue is the queue
without its first command.  An empty queue stays empty: the model's choice of log entry 2. -/
def Obligations.EveryStepAnswersAndDequeuesOne : Prop :=
  (∀ (c : Instr) (s : State), exec c s = .next { s with m := effectOf c (s.at (ticksOf c)) }) ∧
  ∀ s : State, ∃ t : State, step s = .next t ∧ t.pending = s.pending.drop 1

/-- R8, R9, R10, R13, R17, R34, R386: writes of registers whose only effect is the register's own value. -/
def Obligations.RegisterWriteFollowsAccessCodes : Prop :=
  (∀ (s : State) (dt : Nat) (a : BitVec 25) (v : Word) (m : Mach) (x : Nat),
    m = s.at dt → x = regAddr a → m.Quiet → unlockAddr x = false → pairOf x = 0 →
    (0x50000 ≤ x ∧ x < 0x60000 ∨ 0x100000 ≤ x ∧ x < 0x200000 ∨ 0xE00000 ≤ x ∧ x < 0xF00000) →
    (m.open? x = true → ∀ r ix, findRow x = some (r, ix) →
      Answers (.hostRegisterWrite dt a v) s fun t =>
        (∀ f ∈ r.fields, (f.x = true → m.unlocked x = true) →
          bits (t.word x).toNat f.msb f.lsb =
            f.after (isPeak x) (bits (m.word0 x).toNat f.msb f.lsb) (bits (m.word x).toNat f.msb f.lsb)
              (bits v.toNat f.msb f.lsb)) ∧
        (m.word0 x = m.word x → ∀ f ∈ r.fields, (f.x = true → m.unlocked x = true) →
          bits (t.word x).toNat f.msb f.lsb =
            f.acc.after (f.msb + 1 - f.lsb) (bits (m.word x).toNat f.msb f.lsb) (bits v.toNat f.msb f.lsb)) ∧
        (∀ f ∈ r.fields, f.acc = .w1c → f.x = false → ∀ i, f.lsb ≤ i → i ≤ f.msb →
          (m.word x).getLsbD i = true → (m.word0 x).getLsbD i = false → (t.word x).getLsbD i = true) ∧
        (∀ f ∈ r.fields, f.x = true → m.unlocked x = false →
          bits (t.word x).toNat f.msb f.lsb = bits (m.word x).toNat f.msb f.lsb ∧
          (bits v.toNat f.msb f.lsb ≠ bits (m.word x).toNat f.msb f.lsb →
            t.rd ⟨blockBase x + 0xF4, 1, 1⟩ = 1)) ∧
        ({ m with regs0 := t.regs0 } : Mach).OnlyRegs t [x, blockBase x + 0xF4]) ∧
    (m.open? x = true → findRow x = none → Answers (.hostRegisterWrite dt a v) s (· = m)) ∧
    (m.open? x = false → Answers (.hostRegisterWrite dt a v) s fun t =>
      m.OnlyRegs t [R.HS_EARLY.a] ∧
      t.rd R.HS_EARLY = min (m.rd R.HS_EARLY + 1) (2 ^ 32 - 1))) ∧
  (∀ (s : State) (dt : Nat) (a : BitVec 27) (v : BitVec 16),
    Answers (.narrowWrite dt a v) s fun t =>
      t.rd R.GLB_STATUS_BADACC = 1 ∧ t.rd R.GLB_STATUS_BOOTERR = (s.at dt).rd R.GLB_STATUS_BOOTERR ∧
      (s.at dt).OnlyRegs t (R.GLB_STATUS_BADACC.a ::
        if (s.at dt).open? (narrowAddr a) then [] else [R.HS_EARLY.a]))

/-- R14, R5: the two halves of a 64-bit pair, on CTX_START of each context of each field. -/
def Obligations.PairsCommitAndLatch : Prop :=
  ∀ (s : State) (dt : Nat) (n : Fin 16) (c : Fin 8) (m : Mach) (lo hi : BitVec 25), m = s.at dt →
    regAddr lo = (R.FE_CTX_START_LO n c).a → regAddr hi = (R.FE_CTX_START_HI n c).a →
    m.open? (regAddr lo) = true →
    (∀ v : Word, Answers (.loWriteHold dt lo v) s fun t =>
      t.loHeld.lookup (regAddr lo) = some v ∧ t.regs = m.regs ∧ t = { m with loHeld := t.loHeld }) ∧
    (∀ v w : Word, m.loHeld.lookup (regAddr lo) = some w → Answers (.hiWriteCommit dt hi v) s fun t =>
      t.rd (R.FE_CTX_START_LO n c) = bits w.toNat 31 3 ∧ t.rd (R.FE_CTX_START_HI n c) = bits v.toNat 3 0 ∧
      t.loHeld = serase m.loHeld (regAddr lo) ∧
      t = { m with regs := t.regs, regs0 := t.regs0, loHeld := t.loHeld } ∧ m.Keeps t [regAddr lo, regAddr hi]) ∧
    (∀ v : Word, m.loHeld.lookup (regAddr lo) = none → Answers (.hiWriteCommit dt hi v) s fun t =>
      t.rd (R.FE_CTX_START_HI n c) = bits v.toNat 3 0 ∧ ({ m with regs0 := t.regs0 } : Mach).OnlyRegs t [regAddr hi]) ∧
    Answers (.loReadLatch dt lo) s fun t =>
      t.rdata = m.view (regAddr lo) ∧ t.busRead (regAddr hi) = m.view (regAddr hi) ∧ t.regs = m.regs ∧
      t = { m with hiLatch := t.hiLatch, rdata := t.rdata, out := t.out }

/-- R31 to R33, R385, R386: unlock sequences and configuration requests. -/
def Obligations.UnlockSequence : Prop :=
  (∀ (s : State) (dt : Nat) (b : Block) (m : Mach) (x : Nat), m = s.at dt → x = blockAddr b → b ≠ .saf →
    (m.open? x = true → m.unlockPending x = 0 →
      (∀ v : Word, v.toNat = unlockFirst x → Answers (.unlockKeyWrite dt b v) s fun t =>
        t.unlockPending x = m.now + 1 ∧ t = { m with unlock := t.unlock }) ∧
      (∀ v : Word, v.toNat ≠ unlockFirst x → Answers (.unlockKeyWrite dt b v) s fun t =>
        t.rd ⟨x + 0xF4, 0, 0⟩ = 0 ∧
        t.rd ⟨x + 0xF4, 2, 2⟩ = (if v.toNat / 256 = 0x1D5700 then 1 else m.rd ⟨x + 0xF4, 2, 2⟩) ∧
        t.unlockPending x = 0 ∧ ({ m with unlock := t.unlock } : Mach).OnlyRegs t [x + 0xF4])) ∧
    (m.open? x = false → ∀ v : Word, Answers (.unlockKeyWrite dt b v) s fun t =>
      m.OnlyRegs t [R.HS_EARLY.a] ∧ t.rd R.HS_EARLY = min (m.rd R.HS_EARLY + 1) (2 ^ 32 - 1)) ∧
    ((m.unlockPending x = 0 ∨ m.now ≤ m.unlockPending x - 1 + unlockTicks) →
      Answers (.unlockSequenceTimeout dt b) s (· = m)) ∧
    (m.open? x = true → m.unlockPending x ≠ 0 → m.now ≤ m.unlockPending x - 1 + unlockTicks →
      (∀ v : Word, v.toNat = 0xFFFFFFFF - unlockFirst x → Answers (.unlockKeyWrite dt b v) s fun t =>
        t.rd ⟨x + 0xF4, 0, 0⟩ = 1 ∧ t.unlockPending x = 0 ∧ ({ m with unlock := t.unlock } : Mach).OnlyRegs t [x + 0xF4]) ∧
      (∀ v : Word, v.toNat ≠ 0xFFFFFFFF - unlockFirst x → Answers (.unlockKeyWrite dt b v) s fun t =>
        t.rd ⟨x + 0xF4, 0, 0⟩ = 0 ∧ t.rd ⟨x + 0xF4, 2, 2⟩ = 1 ∧
        t.unlockPending x = (if v.toNat = unlockFirst x then m.now + 1 else 0) ∧
        ({ m with unlock := t.unlock } : Mach).OnlyRegs t [x + 0xF4])) ∧
    (m.unlockPending x ≠ 0 → m.unlockPending x - 1 + unlockTicks < m.now →
      (∀ v : Word, m.open? x = true → Answers (.unlockKeyWrite dt b v) s fun t =>
        t.rd ⟨x + 0xF4, 0, 0⟩ = 0 ∧ t.rd ⟨x + 0xF4, 2, 2⟩ = 1 ∧
        t.unlockPending x = (if v.toNat = unlockFirst x then m.now + 1 else 0) ∧
        ({ m with unlock := t.unlock } : Mach).OnlyRegs t [x + 0xF4]) ∧
      Answers (.unlockSequenceTimeout dt b) s fun t =>
        t.rd ⟨x + 0xF4, 0, 0⟩ = 0 ∧ t.rd ⟨x + 0xF4, 2, 2⟩ = 1 ∧ t.unlockPending x = 0 ∧
        ({ m with unlock := t.unlock } : Mach).OnlyRegs t [x + 0xF4])) ∧
  (∀ (s : State) (dt : Nat) (v : Word) (m : Mach), m = s.at dt → m.open? 0x40000 = true →
    m.unlockPending 0x40000 ≠ 0 → m.now ≤ m.unlockPending 0x40000 - 1 + unlockTicks →
    v.toNat = 0xFFFFFFFF - unlockFirst 0x40000 →
    Answers (.unlockKeyWrite dt .saf v) s fun t =>
      t.rd R.SAF_BLK_XSTAT_UNLOCKED = 0 ∧ t.rd R.SAF_BLK_XSTAT_SEQERR = 1 ∧ t.unlockPending 0x40000 = 0) ∧
  (∀ (s : State) (dt : Nat) (a : BitVec 10) (m : Mach), m = s.at dt →
    (m.on R.HS_LINK_UP = true → Answers (.configRequest dt a) s fun t =>
      t = { m with out := .cfgReply a (if a = 0 then BitVec.ofNat 16 (m.rd R.HS_PCI_ID_DID) ++ BitVec.ofNat 16 (m.rd R.HS_PCI_ID_VID)
        else Config.cfgWord a) :: m.out }) ∧
    (m.on R.HS_LINK_UP = false → Answers (.configRequest dt a) s (· = m)))

/-- R25, R26, R30, R489: mode requests.  REASON 2 refusing READY is DEDUCED (log entry 35). -/
def Obligations.ModeRequests : Prop :=
  (∀ (s : State) (dt : Nat) (m : Mach), m = s.at dt →
    (m.mode = modeReady ∨ m.mode = modeArmed →
      Answers (.requestSafe dt) s fun t => t.mode = modeSafe ∧ (∀ n, t.Dark n) ∧ t.mem = m.mem ∧ t.ledger = m.ledger) ∧
    (m.mode ≠ modeReady → m.mode ≠ modeArmed →
      Answers (.requestSafe dt) s fun t =>
        t.rd R.GLB_MODE_REFUSED = 1 ∧ t.rd R.GLB_MODE_REASON = 3 ∧ t.mode = m.mode ∧ m.OnlyRegs t [R.GLB_MODE_MODE.a])) ∧
  (∀ (s : State) (dt : Nat) (m : Mach), m = s.at dt → m.Quiet →
    (m.mode = modeSafe → m.env.waking = true →
      Answers (.requestReady dt) s fun t => t.mode = modeSafe ∧ t.rd R.GLB_MODE_REFUSED = 1 ∧
        t.rd R.GLB_MODE_REASON = 3 ∧ m.OnlyRegs t [R.GLB_MODE_MODE.a]) ∧
    (m.mode = modeSafe → m.env.waking = false → m.rd R.SAF_GSTAT_CAUSE = 0 → (m.saf.ilkA && m.saf.ilkB) = false →
      Answers (.requestReady dt) s fun t => t.mode = modeSafe ∧ t.rd R.GLB_MODE_REFUSED = 1 ∧
        t.rd R.GLB_MODE_REASON = 2 ∧ m.OnlyRegs t [R.GLB_MODE_MODE.a]) ∧
    (m.mode = modeSafe → m.env.waking = false → m.rd R.SAF_GSTAT_CAUSE = 0 → (m.saf.ilkA && m.saf.ilkB) = true →
      Answers (.requestReady dt) s fun t => t.mode = modeReady ∧ m.OnlyRegs t [R.GLB_MODE_MODE.a]) ∧
    (m.mode = modeSafe → m.env.waking = false → m.rd R.SAF_GSTAT_CAUSE ≠ 0 →
      Answers (.requestReady dt) s fun t => t.mode = modeSafe ∧ t.rd R.GLB_MODE_REFUSED = 1 ∧
        t.rd R.GLB_MODE_REASON = 1 ∧ m.OnlyRegs t [R.GLB_MODE_MODE.a]) ∧
    (m.mode = modeBoot ∨ m.mode = modeReady →
      Answers (.requestReady dt) s fun t => t.mode = m.mode ∧ t.rd R.GLB_MODE_REFUSED = 1 ∧
        t.rd R.GLB_MODE_REASON = 3 ∧ m.OnlyRegs t [R.GLB_MODE_MODE.a]) ∧
    (m.mode = modeArmed → m.saf.disarming = true → Answers (.requestReady dt) s (· = m)) ∧
    (m.mode = modeArmed → m.saf.disarming = false → m.someRun = true →
      Answers (.requestReady dt) s fun t => t.saf.disarming = true ∧ t = { m with saf := t.saf }) ∧
    (m.mode = modeArmed → m.saf.disarming = false → m.someRun = false →
      Answers (.requestReady dt) s fun t =>
        t.mode = modeReady ∧ t.saf.disarming = false ∧ ({ m with saf := t.saf } : Mach).OnlyRaised t 12 [R.GLB_MODE_MODE.a])) ∧
  (∀ (s : State) (dt : Nat) (m : Mach), m = s.at dt →
    (m.saf.disarming = true → m.mode = modeArmed → m.someRun = false → Answers (.disarmComplete dt) s fun t =>
      t.mode = modeReady ∧ t.saf.disarming = false ∧ ({ m with saf := t.saf } : Mach).OnlyRaised t 12 [R.GLB_MODE_MODE.a]) ∧
    (m.saf.disarming = false ∨ m.mode ≠ modeArmed ∨ m.someRun = true → Answers (.disarmComplete dt) s (· = m)))

/-- R22, R24: SLACK_GOVERNOR_TICK. -/
def Obligations.SlackGovernor : Prop :=
  ∀ (s : State) (dt : Nat) (m : Mach) (w v : Nat), m = s.at dt → m.atTick = true → m.saf.msRun = true → m.pstate ≤ 2 →
    w = m.rd R.TIM_DLW_WORST_SLACK → v = m.rd R.PWR_VCORE_SET → v ≤ 850 →
    Answers (.slackGovernorTick dt) s fun t =>
      (w ≤ 204 → t.rd R.PWR_VCORE_SET = min 850 (v + 10)) ∧
      (204 < w → w < 410 → t.rd R.PWR_VCORE_SET = v) ∧
      (410 ≤ w → m.env.govCount < 15 → t.rd R.PWR_VCORE_SET = v ∧ t.env.govCount = m.env.govCount + 1) ∧
      (410 ≤ w → 15 ≤ m.env.govCount →
        t.rd R.PWR_VCORE_SET =
          if (if m.mode = modeArmed then 720 else 650) < v then max (if m.mode = modeArmed then 720 else 650) (v - 5) else v) ∧
      (w ≤ 204 → v = 850 → m.env.slackOcc = false → t.evt 5 = 1) ∧
      m.Keeps t (R.PWR_VCORE_SET.a :: raiseRegs 5) ∧ t = { m with regs := t.regs, env := t.env, out := t.out, cbk := t.cbk }

/-- R40, R41, R44 to R46: OSC_COMPENSATION_UPDATE. -/
def Obligations.CompensationUpdate : Prop :=
  (∀ (s : State) (dt : Nat), (s.at dt).atTick = false → Answers (.oscCompensationUpdate dt) s (· = s.at dt)) ∧
  ∀ (s : State) (dt : Nat) (m : Mach) (trim want : Int), m = s.at dt → m.atTick = true →
    trim = m.pair40 R.TIM_MT_TRIM_LO R.TIM_MT_TRIM_HI → want = m.compValue (m.rdS (R.THM_S_TEMP 80)) →
    Answers (.oscCompensationUpdate dt) s fun t =>
      t.tim.trim = trim ∧
      (m.rd R.TIM_COMP_CTRL = 0 → t.tim.term = 0) ∧
      (m.rd R.TIM_COMP_CTRL = 1 → m.compBlind = true → t.tim.term = m.tim.term ∧
        t.rd R.TIM_STATUS_COMPHOLD = 1) ∧
      (m.rd R.TIM_COMP_CTRL = 1 → m.compBlind = false →
        (m.tim.term + 1048576 < want → t.tim.term = m.tim.term + 1048576) ∧
        (want < m.tim.term - 1048576 → t.tim.term = m.tim.term - 1048576) ∧
        (m.tim.term - 1048576 ≤ want → want ≤ m.tim.term + 1048576 → t.tim.term = want) ∧
        t.rd R.TIM_STATUS_COMPHOLD = 0) ∧
      (m.compBlind = true → m.rd R.TIM_STATUS_COMPHOLD = 0 → t.evt 19 = 1) ∧
      t.tim.eff = max (-268435456) (min 268435456 (trim + t.tim.term)) ∧
      (t.tim.eff ≠ trim + t.tim.term → t.rd R.TIM_STATUS_TRIMCLAMP = 1) ∧
      (t.tim.eff = trim + t.tim.term → t.rd R.TIM_STATUS_TRIMCLAMP = m.rd R.TIM_STATUS_TRIMCLAMP) ∧
      m.Keeps t ([R.TIM_MT_TRIM_EFF_LO.a, R.TIM_MT_TRIM_EFF_HI.a, R.TIM_COMP_TERM.a, R.TIM_COMP_TEMP.a,
        R.TIM_STATUS_COMPHOLD.a] ++ raiseRegs 19) ∧
      t = { m with regs := t.regs, out := t.out, cbk := t.cbk
                   tim := { m.tim with trim := trim, term := t.tim.term, eff := t.tim.eff } }

/-- R47, R49, R50, R62, R64. -/
def Obligations.TimeCapturesAndLatches : Prop :=
  ∀ (s : State) (dt : Nat) (m : Mach), m = s.at dt →
    (m.atTick = true → Answers (.mtkCapture dt) s fun t =>
      t.rd R.TIM_MTK_SEQ = m.mt / 800000 % 2 ^ 32 ∧ t.rd R.TIM_MTK_PT = m.tim.pt ∧
      t.rd R.TIM_MTK_EPOCH = m.tim.ptEpoch.toNat ∧
      (m.ptIncReg ≠ m.ptIncTaken ∨ m.tim.incNew = true →
        t.tim.ptInc = max incMin (min incMax m.ptIncReg) ∧ t.tim.incNew = false ∧
        (t.tim.ptInc ≠ m.ptIncReg → t.rd R.TIM_STATUS_INCCLAMP = 1)) ∧
      (m.ptIncReg = m.ptIncTaken → m.tim.incNew = false → t.tim = m.tim ∧ t.force = m.force) ∧
      t = { m with regs := t.regs, force := t.force
                   tim := { m.tim with ptInc := t.tim.ptInc, incNew := t.tim.incNew } } ∧
      m.Keeps t [R.TIM_MTK_SEQ.a, R.TIM_MTK_PT.a, R.TIM_MTK_EPOCH.a, R.TIM_STATUS_INCCLAMP.a]) ∧
    (m.atTick = false → Answers (.mtkCapture dt) s (· = m) ∧ Answers (.deadlineWatchRollover dt) s (· = m)) ∧
    (∀ a, a = R.TIM_MTK_SEQ.a ∨ a = R.TIM_PT.a ∨ a = R.TIM_OT_SEC.a → m.open? a = false →
      Answers (if a = R.TIM_MTK_SEQ.a then .mtkSeqReadLatch dt else if a = R.TIM_PT.a then .ptReadLatch dt
        else .otReadLatch dt) s fun t =>
        t.rdata = 0xFFFFFFFF ∧ t = { m with rdata := t.rdata, out := t.out }) ∧
    (m.open? R.TIM_MTK_SEQ.a = true → Answers (.mtkSeqReadLatch dt) s fun t =>
      t.rdata = m.word R.TIM_MTK_SEQ.a ∧ t.tim.latchMtkPt = m.word R.TIM_MTK_PT.a ∧
      t.tim.latchMtkEpoch.toNat = m.rd R.TIM_MTK_EPOCH ∧
      t = { m with rdata := t.rdata, out := t.out
                   tim := { m.tim with latchMtkPt := t.tim.latchMtkPt, latchMtkEpoch := t.tim.latchMtkEpoch } }) ∧
    (m.open? R.TIM_PT.a = true → Answers (.ptReadLatch dt) s fun t =>
      t.rdata.toNat = m.tim.pt ∧ t.tim.latchEpoch = m.tim.ptEpoch ∧
      t = { m with rdata := t.rdata, out := t.out, tim := { m.tim with latchEpoch := t.tim.latchEpoch } }) ∧
    (m.open? R.TIM_OT_SEC.a = true → Answers (.otReadLatch dt) s fun t =>
      t.rdata = BitVec.ofNat 32 m.tim.otSec ∧ t.tim.latchOt.toNat = m.tim.otFrac ∧
      t = { m with rdata := t.rdata, out := t.out, tim := { m.tim with latchOt := t.tim.latchOt } }) ∧
    (m.atTick = true → m.tim.worst.length = 8 → (∀ p ∈ m.tim.worst, p.1 ≤ 1023) →
      Answers (.deadlineWatchRollover dt) s fun t =>
        (∀ p ∈ m.tim.worst, t.rd R.TIM_DLW_WORST_SLACK ≤ p.1) ∧
        (∃ p ∈ m.tim.worst, t.rd R.TIM_DLW_WORST_SLACK = p.1) ∧
        (t.rd R.TIM_DLW_WORST_MISS = 1 ↔ ∃ p ∈ m.tim.worst, p.2 = true) ∧
        t.tim.worst = List.replicate 8 (1023, false) ∧
        (∀ k : Fin 8, t.rd (R.TIM_DLW_CORE_SLACK k) = (m.tim.worst.getD k (0, false)).1) ∧
        t = { m with regs := t.regs, tim := { m.tim with worst := t.tim.worst } })

/-- R50 to R52, R63. -/
def Obligations.TimeBasesMove : Prop :=
  ∀ (s : State) (dt : Nat) (m : Mach), m = s.at dt →
    (∀ (v : Word) (mag : Nat), mag = v.toNat % 2 ^ 30 → m.open? 0x30030 = true →
      (m.rd R.TIM_PT_JUMP_LIMIT < mag → v.getLsbD 31 = false → Answers (.ptStep dt v) s fun t =>
        t.rd R.TIM_STATUS_JUMPREF = 1 ∧ t.tim = m.tim ∧ m.OnlyRaised t 17 [R.TIM_STATUS_JUMPREF.a]) ∧
      (mag ≤ m.rd R.TIM_PT_JUMP_LIMIT ∨ v.getLsbD 31 = true →
        (v.getLsbD 30 = false → m.tim.ptAcc + mag * 2 ^ 32 < 2 ^ 64 → Answers (.ptStep dt v) s fun t =>
          t = { m with tim := { m.tim.noteStep m.now with ptAcc := m.tim.ptAcc + mag * 2 ^ 32 } } ∧
          t.tim.stamp m.now = m.tim.stamp m.now) ∧
        (v.getLsbD 30 = false → 2 ^ 64 ≤ m.tim.ptAcc + mag * 2 ^ 32 → Answers (.ptStep dt v) s fun t =>
          t.tim = { m.tim.noteStep m.now with
            ptAcc := m.tim.ptAcc + mag * 2 ^ 32 - 2 ^ 64, ptEpoch := m.tim.ptEpoch + 1 } ∧
          t.tim.stamp m.now = m.tim.stamp m.now ∧
          ({ m with tim := t.tim } : Mach).OnlyRaised t 16 []) ∧
        (v.getLsbD 30 = true → mag * 2 ^ 32 ≤ m.tim.ptAcc → Answers (.ptStep dt v) s fun t =>
          t = { m with tim := { m.tim.noteStep m.now with ptAcc := m.tim.ptAcc - mag * 2 ^ 32 } } ∧
          t.tim.stamp m.now = m.tim.stamp m.now) ∧
        (v.getLsbD 30 = true → m.tim.ptAcc < mag * 2 ^ 32 → Answers (.ptStep dt v) s fun t =>
          t.tim = { m.tim.noteStep m.now with
            ptAcc := m.tim.ptAcc + 2 ^ 64 - mag * 2 ^ 32, ptEpoch := m.tim.ptEpoch - 1 } ∧
          t.tim.stamp m.now = m.tim.stamp m.now ∧
          ({ m with tim := t.tim } : Mach).OnlyRaised t 16 []))) ∧
    (∀ v : Word, m.open? 0x30030 = false → Answers (.ptStep dt v) s fun t => m.OnlyRegs t [R.HS_EARLY.a]) ∧
    (m.tim.ptAcc < 2 ^ 64 → Answers (.ptWrap dt) s (· = m)) ∧
    (m.env.holdup = false → m.tim.ot < m.tim.otSaved + 60 * 800000000 → Answers (.otSave dt) s (· = m)) ∧
    (m.on R.TIM_STATUS_LOCK = false → Answers (.synthLockLost dt) s (· = m)) ∧
    (m.tim.mtRun = false → Answers (.synthLockRegained dt) s (· = m)) ∧
    (2 ^ 64 ≤ m.tim.ptAcc → Answers (.ptWrap dt) s fun t =>
      t.tim = { m.tim with ptAcc := m.tim.ptAcc - 2 ^ 64, ptEpoch := m.tim.ptEpoch + 1 } ∧
      ({ m with tim := t.tim } : Mach).OnlyRaised t 16 []) ∧
    (m.env.holdup = true ∨ m.tim.otSaved + 60 * 800000000 ≤ m.tim.ot → Answers (.otSave dt) s fun t =>
      (if m.tim.nextSlot then t.tim.slot1 else t.tim.slot0) = (m.tim.otUnits, m.tim.pcc.toNat) ∧
      (if m.tim.nextSlot then t.tim.crc1 else t.tim.crc0) = slotCrc (m.tim.otUnits, m.tim.pcc.toNat) ∧
      (if m.tim.nextSlot then t.tim.slot0 = m.tim.slot0 ∧ t.tim.crc0 = m.tim.crc0
        else t.tim.slot1 = m.tim.slot1 ∧ t.tim.crc1 = m.tim.crc1) ∧
      t.tim.nextSlot = !m.tim.nextSlot ∧ t.tim.otSaved = m.tim.ot ∧ t = { m with tim := t.tim } ∧
      t.tim.ot = m.tim.ot ∧ t.tim.pcc = m.tim.pcc) ∧
    (m.on R.TIM_STATUS_LOCK = true → Answers (.synthLockLost dt) s fun t =>
      t.rd R.TIM_STATUS_LOCK = 0 ∧ t.rd R.TIM_STATUS_LOCKLOST = 1 ∧ t.evt 18 = 1 ∧ t.mode = m.mode ∧
      ∀ n : Fin 16, m.fieldInUse n = true → t.inFs n = true ∧ t.Dark n ∧ t.pins[n].gen = false) ∧
    (m.tim.mtRun = true → Answers (.synthLockRegained dt) s fun t =>
      t.rd R.TIM_STATUS_LOCK = 1 ∧ m.OnlyRegs t [R.TIM_STATUS_LOCK.a])

/-- R55, for every output: replacement, and the order violation, which is discarded and handled as a late
entry (its counter, its class and its event source). -/
def Obligations.EdgeQueueOrder : Prop :=
  ∀ (s : State) (dt : Nat) (e : Edge) (due : Nat) (val : EdgeVal) (m : Mach), m = s.at dt → m.Quiet →
    m.dueFits e due = true →
    (due < m.mt + 40 → Answers (.edgeEntryArrival dt e due val) s (· = m.lateEdge e false)) ∧
    (m.mt + 40 ≤ due → (m.stage e).violates due = false → (m.stage e).q.any (·.due == due) = true →
      Answers (.edgeEntryArrival dt e due val) s fun t =>
        (t.stage e).q = (m.stage e).q.map (fun x => if x.due = due then ⟨due, val⟩ else x) ∧
        (t.stage e).held = (m.stage e).held ∧ (t.stage e).lastDue = (m.stage e).lastDue ∧
        (∀ e', e' ≠ e → t.stage e' = m.stage e') ∧ t = { m with stages := t.stages }) ∧
    (m.mt + 40 ≤ due → (∃ d, (m.stage e).lastDue = some d ∧ due < d) →
      Answers (.edgeEntryArrival dt e due val) s fun t =>
        t = m.lateEdge e true ∧ (∀ x ∈ (t.stage e).q, x ∈ (m.stage e).q) ∧
        (∀ p : Fin 20, e = .trig p →
          (m.rd (R.TIM_LATE 4) + 1 < 2 ^ 16 → t.rd (R.TIM_LATE 4) = m.rd (R.TIM_LATE 4) + 1) ∧ t.rd R.TIM_LATE_LAST_CLASS = 4 ∧
          t.rd R.TIM_LATE_LAST_ORDER = 1 ∧ t.rd R.TIM_LATE_LAST_INST = p ∧ t.evt 20 = 1 ∧
          m.OnlyRaised t 20 [(R.TIM_LATE 4).a, R.TIM_LATE_LAST_CLASS.a]))

/-- R54, R56, R57, R213, R215, R469. -/
def Obligations.EdgeStagesPresent : Prop :=
  ∀ (s : State) (dt : Nat) (e : Edge) (m : Mach), m = s.at dt → m.Quiet →
    ((m.stage e).q.find? (·.due == m.mt) = none → Answers (.edgePresent dt e) s (· = m)) ∧
    (∀ (due : Nat) (val : EdgeVal), m.dueFits e due = true → m.mt + 40 ≤ due → (m.stage e).violates due = false →
      (m.stage e).q.any (·.due == due) = false →
      Answers (.edgeEntryArrival dt e due val) s fun t =>
        ((m.stage e).q.length < stageDepth e →
          t.stage e = { m.stage e with q := (m.stage e).q ++ [⟨due, val⟩], lastDue := some due }) ∧
        (stageDepth e ≤ (m.stage e).q.length →
          t.stage e = { m.stage e with held := (m.stage e).held ++ [⟨due, val⟩] }) ∧
        (∀ e', e' ≠ e → t.stage e' = m.stage e') ∧ t = { m with stages := t.stages }) ∧
    (∀ (x : EdgeEntry), (m.stage e).q.find? (·.due == m.mt) = some x → (m.stage e).held = [] →
      Answers (.edgePresent dt e) s (· =
        (m.setStage e { m.stage e with q := (m.stage e).q.filter fun y => decide (m.mt < y.due) }).present e x.due x.val) ∧
      (∀ (n : Fin 16) (c : Code), e = .gyc n ∨ e = .gzc n → x.val = .dac c → Answers (.edgePresent dt e) s fun t =>
        (if e = .gyc n then t.pins[n].gyc else t.pins[n].gzc) =
          (if m.pins[n].gen = true ∧ m.pins[n].genAt ≤ m.mt then c else 0) ∧
        t = { m with stages := t.stages, pins := (m.pins.set n
          { m.pins[n] with gyc := t.pins[n].gyc, gzc := t.pins[n].gzc }) }) ∧
      (∀ (n : Fin 16) (c : Code), e = .gxc n → x.val = .dac c → Answers (.edgePresent dt e) s fun t =>
        t.pins[n].gxc = (if m.pins[n].gen = true ∧ m.pins[n].genAt ≤ m.mt then c else 0) ∧
        (t.stage e).q = (m.stage e).q.filter (fun y => decide (m.mt < y.due)) ∧
        t = { m with stages := t.stages, pins := m.pins.set n { m.pins[n] with gxc := t.pins[n].gxc } }) ∧
      (∀ (n : Fin 16) (g l : Bool), e = .gate n → x.val = .gate g l → Answers (.edgePresent dt e) s fun t =>
        t.pins[n].lgate = (g && m.gatePermit n) ∧ t.pins[n].lmod = (l && m.gatePermit n) ∧
        (t.stage e).q = (m.stage e).q.filter (fun y => decide (m.mt < y.due)) ∧ t.regs = m.regs ∧
        ∀ k : Fin 16, k ≠ n → t.pins[k] = m.pins[k]) ∧
      (∀ (n : Fin 16) (c : Code), e = .lpwr n → x.val = .dac c → Answers (.edgePresent dt e) s fun t =>
        t.pins[n].lpwr = BitVec.ofInt 20 (if m.outSafe n then 0 else min (max c.toInt 0) (m.rdf (R.FE_LCH_LIMIT n))) ∧
        m.Keeps t [(R.FE_LCH_CLAMPN n).a, (R.FE_LCH_COUT n).a] ∧ ∀ k : Fin 16, k ≠ n → t.pins[k] = m.pins[k]))

/-- R76, R82 to R85, R133: NOP, BR, BRC, CALL, RET, LOOP. -/
def Obligations.FlowInstructionsRetire : Prop :=
  ∀ (s : State) (dt : Nat) (x : Ctx) (m : Mach) (r : PState), m = s.at dt → r = (m.ctx x).ret →
    (∀ tag, m.AtFront x .nop → Answers (.nop dt x tag) s (· = m.retireTo x .nop (r.next 8))) ∧
    (∀ off, m.AtFront x (.br off) → Answers (.br dt x off) s
      (· = m.retireTo x (.br off)
        { r with pc := target r.pc off, loops := leaveLoops (target r.pc off) r.loops, spin := r.spin + 1 })) ∧
    (∀ off, m.AtFront x (.call off) → Answers (.call dt x off) s
      (· = m.retireTo x (.call off)
        { r with pc := target r.pc off, calls := ⟨r.pc + 8, r.loops.length⟩ :: r.calls, spin := r.spin + 1 })) ∧
    (∀ c rest, m.AtFront x .ret → r.calls = c :: rest → Answers (.ret dt x) s
      (· = m.retireTo x .ret
        (PState.goTo { r with calls := rest, loops := r.loops.drop (r.loops.length - c.depth), spin := r.spin + 1 } c.ret))) ∧
    (∀ body count, m.AtFront x (.loop body count) → Answers (.loop dt x body count) s fun t =>
      (count = 0 → t = m.retireTo x (.loop body count) (r.next (8 + (body.setWidth 36 <<< (3 : Nat))))) ∧
      (count ≠ 0 → t = m.retireTo x (.loop body count)
        { r with pc := r.pc + 8, loops := ⟨r.pc + 8, r.pc + 8 + (body.setWidth 36 <<< (3 : Nat)), count.toNat⟩ :: r.loops
                 spin := r.spin + 1 })) ∧
    (∀ hint cls idx test off value, m.AtFront x (.brc hint cls idx test off value) →
      ∀ cond : Bool,
        (cls = 1 → cond = m.signals.getLsbD idx.toNat) →
        (∀ n c, cls = 2 → x = .fe n c → cond = m.pool[n].flags.getLsbD idx.toNat) →
        (∀ n c, cls = 3 → x = .fe n c → cond = decide (value.toNat ≤ m.spotEnergy n)) →
        (∀ a : Fin 8, cls = 4 → idx.toNat = a → cond = decide (axCode m.axis[a].st = value.toNat)) →
        Answers (.brc dt x hint cls idx test off value) s fun t =>
          t = m.retireTo x (.brc hint cls idx test off value)
            (if cond = decide (test = 0) then
               { r with pc := target r.pc off, loops := leaveLoops (target r.pc off) r.loops, spin := r.spin + 1 }
             else r.next 16))

/-- R86, R101, R114: HALT and LAYEREND. -/
def Obligations.HaltAndLayerEnd : Prop :=
  ∀ (s : State) (dt : Nat) (m : Mach), m = s.at dt →
    (∀ x : Ctx, m.AtFront x .halt → Answers (.halt dt x) s fun t =>
      t.ctx x = { m.ctx x with st := .halted, ret := { (m.ctx x).ret with spin := 0 }, wait := none, stopReq := false
                               retired := (m.ctx x).retired + 1 } ∧
      (∀ y, y ≠ x → t.ctx y = m.ctx y) ∧ (∀ k, t.holds x k = false) ∧ t.tokens = m.tokens.filter (fun p => p.2 ≠ x) ∧
      t = { m with fe := t.fe, coo := t.coo, axis := t.axis, tokens := t.tokens }) ∧
    (∀ (n : Fin 16) (c : Fin 8), m.AtFront (.fe n c) .layerend → m.rd (R.FE_CTX_LAYER n c) + 1 < 2 ^ 32 →
      Answers (.layerend dt (.fe n c)) s fun t =>
        t.fe[n].ctx[c] = { m.fe[n].ctx[c] with
          st := .layerDone, ret := { m.fe[n].ctx[c].ret with spin := 0 }, wait := none, stopReq := false
          retired := m.fe[n].ctx[c].retired + 1 } ∧
        t.rd (R.FE_CTX_LAYER n c) = m.rd (R.FE_CTX_LAYER n c) + 1 ∧ m.Keeps t [(R.FE_CTX_LAYER n c).a] ∧
        (∀ y, y ≠ .fe n c → t.ctx y = m.ctx y) ∧ t = { m with fe := t.fe, regs := t.regs }) ∧
    (∀ c : Fin 8, m.AtFront (.coo c) .layerend → Answers (.layerend dt (.coo c)) s fun t =>
      t.cooLayer = m.cooLayer + 1 ∧
      ({ (m.retireTo (.coo c) .layerend { m.coo[c].ret.next 8 with spin := 0 }) with cooLayer := m.cooLayer + 1 } : Mach).OnlyRaised
        t (160 + c) [])

/-- R74, R93, R94, R96, R104, R216, R217. -/
def Obligations.ParametersAreSet : Prop :=
  ∀ (s : State) (dt : Nat) (n : Fin 16) (c : Fin 8) (m : Mach) (x : Ctx) (r : PState), m = s.at dt → x = .fe n c →
    r = m.fe[n].ctx[c].ret.next 8 →
    (∀ freq amp shape, m.AtFront x (.wobble freq amp shape) → Answers (.wobble dt x freq amp shape) s
      (· = m.retireTo x (.wobble freq amp shape)
        { r with wfreq := freq, wamp := amp, wstart := none, wshape := if amp = 0 ∨ freq = 0 then 0 else shape })) ∧
    (∀ v, m.AtFront x (.setv false v) → Answers (.setv dt x false v) s
      (· = m.retireTo x (.setv false v) { r with mspeed := v })) ∧
    (∀ v, m.AtFront x (.setv true v) → Answers (.setv dt x true v) s
      (· = m.retireTo x (.setv true v) { r with jspeed := v })) ∧
    (∀ keepp keepd p d, m.AtFront x (.setp keepp keepd p d) → Answers (.setp dt x keepp keepd p d) s
      (· = m.retireTo x (.setp keepp keepd p d)
        { r with power := if keepp then r.power else p, dwell := if keepd then r.dwell else d })) ∧
    (∀ tgt stat mode, m.AtFront x (.setpool tgt stat mode) → Answers (.setpool dt x tgt stat mode) s fun t =>
      t.fe[n].ctx[c].ret =
        { r with poolTarget := tgt, poolStat := stat, poolMode := if mode = 1 ∧ tgt = 0 then 0 else mode } ∧
      t.fe[n].ctx[c].retired = m.fe[n].ctx[c].retired + 1 ∧
      t.fe[n].lch.poolMode = (if mode = 1 ∧ tgt = 0 then 0 else mode) ∧ t.fe[n].lch.poolStat = stat ∧
      t.fe[n].lch.poolTarget = tgt ∧ (mode = 2 → t.fe[n].lch.khold.toNat = m.fe[n].lch.keff m.mt % 65536) ∧
      t.fe[n].spl = m.fe[n].spl ∧ (∀ y, y ≠ x → t.ctx y = m.ctx y) ∧ (∀ k : Fin 16, k ≠ n → t.fe[k] = m.fe[k]) ∧
      t = { m with fe := t.fe }) ∧
    (∀ z, m.AtFront x (.setfocus z) → Answers (.setfocus dt x z) s
      (· = m.retireTo x (.setfocus z) { r with focus := z })) ∧
    (∀ o rp, m.AtFront x (.setreentry o rp) → Answers (.setreentry dt x o rp) s
      (· = m.retireTo x (.setreentry o rp) { r with overlap := o, ramp := rp })) ∧
    (∀ km kmat p mat, m.AtFront x (.setprofile km kmat p mat) → Answers (.setprofile dt x km kmat p mat) s
      (· = m.retireTo x (.setprofile km kmat p mat)
        { r with mprof := if km then r.mprof else p, mat := if kmat then r.mat else mat })) ∧
    (m.AtFront x (.ledger 3 false 0 0) → Answers (.ledgerDepoff dt x) s
      (· = m.retireTo x (.ledger 3 false 0 0) { m.fe[n].ctx[c].ret.next 16 with dep := false })) ∧
    (m.AtFront x (.ledger 4 false 0 0) → Answers (.ledgerDepon dt x) s
      (· = m.retireTo x (.ledger 4 false 0 0) { m.fe[n].ctx[c].ret.next 16 with dep := true })) ∧
    (∀ k3, m.AtFront x (.ledger 5 k3 0 0) → Answers (.ledgerKernel dt x k3) s
      (· = m.retireTo x (.ledger 5 k3 0 0) { m.fe[n].ctx[c].ret.next 16 with k3 := k3 }))

/-- R76, R77, R88 to R92, R133. -/
def Obligations.MotionsRetireAtTheirEnd : Prop :=
  ∀ (s : State) (dt : Nat) (n : Fin 16) (c : Fin 8) (m : Mach) (x : Ctx) (e : PlanEntry) (l : PSeg), m = s.at dt →
    x = .fe n c →
    (∀ rel px py, m.MotionEnds n c (.jump rel px py) e l →
      Answers (.jump dt x rel px py) s (m.MotionDone n c e l)) ∧
    (∀ cont rel np px py, m.MotionEnds n c (.mark cont rel np px py) e l →
      Answers (.mark dt x cont rel np px py) s (m.MotionDone n c e l)) ∧
    (∀ cont rel np sw cx cy, m.MotionEnds n c (.arc cont rel np sw cx cy) e l →
      Answers (.arc dt x cont rel np sw cx cy) s (m.MotionDone n c e l)) ∧
    (∀ cont rel np close k a, m.MotionEnds n c (.poly cont rel np close k a) e l →
      Answers (.poly dt x cont rel np close k a) s (m.MotionDone n c e l)) ∧
    (∀ rel np curd d px py, m.MotionEnds n c (.dot rel np curd d px py) e l →
      Answers (.dot dt x rel np curd d px py) s (m.MotionDone n c e l)) ∧
    (∀ cont rel np sw cx cy rend, m.MotionEnds n c (.spiral cont rel np sw cx cy rend) e l →
      Answers (.spiral dt x cont rel np sw cx cy rend) s (m.MotionDone n c e l)) ∧
    (∀ cont rel np close a, m.AtFront x (.poly cont rel np close 0 a) →
      Answers (.poly dt x cont rel np close 0 a) s
        (· = m.retireTo x (.poly cont rel np close 0 a) (m.fe[n].ctx[c].ret.next 16)))

/-- R81, R97 to R101, R113. -/
def Obligations.SignalsTokensAndWaits : Prop :=
  ∀ (s : State) (dt : Nat) (x : Ctx) (m : Mach) (r : PState) (src : Nat), m = s.at dt → r = (m.ctx x).ret →
    (∀ n c, x = .fe n c → src = 96 + n.val) → (∀ c, x = .coo c → src = 160 + c.val) → (∀ a, x = .axe a → src = 144 + a.val) →
    (∀ clr evt g, m.AtFront x (.sig clr evt false g 0 0) → Answers (.sig dt x clr evt false g 0 0) s fun t =>
      t.sigOn g = !clr ∧ (∀ h, h ≠ g → t.sigOn h = m.sigOn h) ∧
      t.rng.chg = (if 64 ≤ g.toNat then m.rng.chg ++ [(m.mt, g.toNat, !clr)] else m.rng.chg) ∧
      (evt = true → t.evt src = 1) ∧ m.Keeps t (if evt then raiseRegs src else []) ∧
      t = { (m.retireTo x (.sig clr evt false g 0 0) (r.next 16)) with
            signals := t.signals, rng := { m.rng with chg := t.rng.chg }, regs := t.regs, out := t.out, cbk := t.cbk }) ∧
    (∀ clr evt g v a, m.AtFront x (.sig clr evt true g v a) →
      ((m.ctx x).writes = 0 → Answers (.sig dt x clr evt true g v a) s fun t =>
        t.sigOn g = !clr ∧ (t.ctx x).ret = { r.next 16 with spin := r.spin + 1 } ∧ (t.ctx x).retired = (m.ctx x).retired + 1) ∧
      ((m.ctx x).writes ≠ 0 → Answers (.sig dt x clr evt true g v a) s
        (m.WaitsAt x (.sig clr evt true g v a) (.fence g clr evt v a) 0))) ∧
    (∀ w clr evt g v a, m.OnlyWaits x w → w.k = .fence g clr evt v a → w.ins = .sig clr evt true g v a →
      (m.ctx x).writes = 0 → Answers (.sigFenceComplete dt x) s fun t => t.sigOn g = !clr ∧ m.WaitOver x t) ∧
    (∀ clr wclr g tmo, m.AtFront x (.waitsig clr wclr g tmo) →
      (m.sigOn g = !wclr → Answers (.waitsig dt x clr wclr g tmo) s fun t =>
        (∀ h, t.sigOn h = if h = g ∧ clr = true ∧ wclr = false then false else m.sigOn h) ∧
        t = { (m.retireTo x (.waitsig clr wclr g tmo) { r.next 8 with spin := 0 }) with signals := t.signals }) ∧
      (m.sigOn g = wclr → Answers (.waitsig dt x clr wclr g tmo) s
        (m.WaitsAt x (.waitsig clr wclr g tmo) (.waitsig g clr wclr) tmo.toNat))) ∧
    (∀ (tok : BitVec 5) tmo, m.AtFront x (.claim tok tmo) →
      (m.holder tok.toNat = none → Answers (.claim dt x tok tmo) s fun t =>
        t.holder tok.toNat = some x ∧ (∀ k, k ≠ tok.toNat → t.holder k = m.holder k) ∧
        t = { (m.retireTo x (.claim tok tmo) { r.next 8 with spin := 0 }) with tokens := t.tokens }) ∧
      (∀ y, m.holder tok.toNat = some y → y ≠ x → Answers (.claim dt x tok tmo) s
        (m.WaitsAt x (.claim tok tmo) (.claim tok) tmo.toNat))) ∧
    (∀ tok : BitVec 5, m.AtFront x (.release tok) → Answers (.release dt x tok) s fun t =>
      t.holder tok.toNat = none ∧ (∀ k, k ≠ tok.toNat → t.holder k = m.holder k) ∧
      t = { (m.retireTo x (.release tok) (r.next 8)) with tokens := t.tokens }) ∧
    (∀ (tok : BitVec 5) c, x = .coo c → m.Quiet → m.ctxRuns x = true → m.fetchFault r.pc (.release tok) = none →
      m.wordFault x r (.release tok) = none → m.holds x tok.toNat = false →
      Answers (.release dt x tok) s fun t =>
        t.coo[c] = { m.coo[c] with st := .faulted, fcode := 9, wait := none } ∧
        ({ m with coo := t.coo } : Mach).OnlyRaised t (160 + c) []) ∧
    (∀ abs (v : Word) til, til = (if abs then nearest32 m.mt v.toNat else m.mt + v.toNat) → m.AtFront x (.waitt abs v) →
      (v = 0 ∨ til ≤ m.mt → Answers (.waitt dt x abs v) s
        (· = m.retireTo x (.waitt abs v) { r.next 8 with spin := 0 })) ∧
      (v ≠ 0 → m.mt < til → Answers (.waitt dt x abs v) s (m.WaitsAt x (.waitt abs v) (.waitt til) 0))) ∧
    (∀ w til, m.OnlyWaits x w → w.k = .waitt til → (∃ abs v, w.ins = .waitt abs v) →
      (til ≤ m.mt → Answers (.waittExpire dt x) s fun t => m.WaitOver x t ∧
        (ctxEng x ≠ .fe → t = { m with coo := t.coo, axis := t.axis }) ∧ t.mem = m.mem ∧ t.tokens = m.tokens) ∧
      (m.mt < til → Answers (.waittExpire dt x) s (· = m))) ∧
    (∀ w c, x = .coo c → m.OnlyWaits x w → w.timeout ≠ 0 → m.mt % 800000 = 0 →
      w.reached + w.timeout * 800000 + w.held ≤ m.mt → m.pstate ≠ 1 → Answers (.waitTimeout dt x) s fun t =>
        t.coo[c] = { m.coo[c] with st := .faulted, fcode := 8, wait := none } ∧
        ({ m with coo := t.coo } : Mach).OnlyRaised t (160 + c) []) ∧
    (∀ w n c, x = .fe n c → m.OnlyWaits x w → w.timeout ≠ 0 → m.mt % 800000 = 0 →
      w.reached + w.timeout * 800000 + w.held ≤ m.mt → m.pstate ≠ 1 → m.inFs n = false → m.fe[n].owner = some c →
      Answers (.waitTimeout dt x) s fun t => t.inFs n = true ∧ t.rd (R.FE_FAULT_CAUSE n) = 8 ∧ t.Dark n)

/-- R73, R103, R106 to R110, R322. -/
def Obligations.CoordinatorInstructions : Prop :=
  (∀ (s : State) (dt : Nat) (c : Fin 8) (m : Mach) (x : Ctx) (r : PState), m = s.at dt → x = .coo c → r = m.coo[c].ret →
    (∀ (mask : BitVec 16) (k : BitVec 3) a, m.AtFront x (.fstart mask k a) → m.poisoned a.toNat 128 = false →
      Answers (.fstart dt x mask k a) s fun t =>
        (∀ n : Fin 16, mask.getLsbD n = true → t.fe[n].ctx[k.toFin].st = .ready ∧
          t.fe[n].ctx[k.toFin].ret = .init (BitVec.ofNat 36 (m.le (a.toNat + 8 * n) 8)) ∧
          t.fe[n].ctx[k.toFin].readyAt = m.mt ∧ ∀ j, j ≠ k.toFin → t.fe[n].ctx[j] = m.fe[n].ctx[j]) ∧
        (∀ n : Fin 16, mask.getLsbD n = false → t.fe[n] = m.fe[n]) ∧
        t = { (m.retireTo x (.fstart mask k a) (r.next 16)) with fe := t.fe, free := m.free + 16 }) ∧
    (∀ mask k tmo, m.AtFront x (.fwait mask k tmo) →
      (m.allIdle mask k = true → Answers (.fwait dt x mask k tmo) s
        (· = m.retireTo x (.fwait mask k tmo) { r.next 8 with spin := 0 })) ∧
      (m.allIdle mask k = false → Answers (.fwait dt x mask k tmo) s
        (m.WaitsAt x (.fwait mask k tmo) (.fwait mask k) tmo.toNat))) ∧
    (∀ rel (a : BitVec 3) (tgt spd : Word), m.AtFront x (.axmove rel a tgt spd) →
      (m.axis[a.toFin].queue.length < 256 → Answers (.axmove dt x rel a tgt spd) s fun t =>
        t.axis[a.toFin] = m.axis[a.toFin].appendMove rel tgt.toInt spd.toNat ∧
        (∀ b, b ≠ a.toFin → t.axis[b] = m.axis[b]) ∧
        t = { (m.retireTo x (.axmove rel a tgt spd) (r.next 16)) with axis := t.axis }) ∧
      (256 ≤ m.axis[a.toFin].queue.length → Answers (.axmove dt x rel a tgt spd) s
        (m.WaitsAt x (.axmove rel a tgt spd) (.axroom rel a tgt spd) 0))) ∧
    (∀ (mask : Byte) tmo, m.AtFront x (.axwait mask tmo) →
      ((∀ b : Fin 8, mask.getLsbD b = true → m.axis[b].queue = [] ∧ axResting m.axis[b].st = true) →
        Answers (.axwait dt x mask tmo) s (· = m.retireTo x (.axwait mask tmo) { r.next 8 with spin := 0 })) ∧
      ((∃ b : Fin 8, mask.getLsbD b = true ∧ (m.axis[b].queue ≠ [] ∨ axResting m.axis[b].st = false)) →
        Answers (.axwait dt x mask tmo) s (m.WaitsAt x (.axwait mask tmo) (.axwait mask) tmo.toNat))) ∧
    (∀ (mask : BitVec 4) (delay : Word), m.AtFront x (.snap mask delay) →
      (∀ i : Fin 4, mask.getLsbD i = true →
        (m.stage (.trig ⟨16 + i, by omega⟩)).violates (m.mt + max delay.toNat 2000) = false) →
      Answers (.snap dt x mask delay) s fun t =>
      (∀ i : Fin 4, t.stage (.trig ⟨16 + i, by omega⟩) =
        if mask.getLsbD i then
          (m.stage (.trig ⟨16 + i, by omega⟩)).push 4 ⟨m.mt + max delay.toNat 2000, .pulse⟩
        else m.stage (.trig ⟨16 + i, by omega⟩)) ∧
      (∀ e, (∀ i : Fin 4, e ≠ .trig ⟨16 + i, by omega⟩) → t.stage e = m.stage e) ∧
      t = { (m.retireTo x (.snap mask delay) (r.next 8)) with stages := t.stages }) ∧
    (∀ (i : Fin 4) (delay : Word) (mask : BitVec 4), mask = 1#4 <<< i.val → m.AtFront x (.snap mask delay) →
      (m.stage (.trig ⟨16 + i, by omega⟩)).violates (m.mt + max delay.toNat 2000) = true →
      Answers (.snap dt x mask delay) s fun t =>
        t.stages = m.stages ∧ t.rd (R.TIM_LATE 4) = min (m.rd (R.TIM_LATE 4) + 1) (2 ^ 16 - 1) ∧
        t.rd R.TIM_LATE_LAST_CLASS = 4 ∧ t.rd R.TIM_LATE_LAST_ORDER = 1 ∧ t.rd R.TIM_LATE_LAST_INST = 16 + i ∧ t.evt 20 = 1 ∧
        t.coo[c].ret = r.next 8 ∧ t.coo[c].retired = m.coo[c].retired + 1) ∧
    (∀ lmask : Byte, m.AtFront x (.flip lmask) → m.cmp.pendAt.length = 8 → Answers (.flip dt x lmask) s fun t =>
      (∀ l : Fin 8, t.rd (R.CMP_LY_STATUS_PENDING l) =
        if lmask.getLsbD l then 1 else m.rd (R.CMP_LY_STATUS_PENDING l)) ∧
      (∀ l : Fin 8, t.cmp.pendAt.getD l none =
        if lmask.getLsbD l then some ((m.cmp.pendAt.getD l none).getD m.mt) else m.cmp.pendAt.getD l none) ∧
      (∀ a, (∀ l : Fin 8, a ≠ (R.CMP_LY_STATUS_PENDING l).a) → a ≠ R.CMP_FLIP.a → t.word a = m.word a) ∧
      t = { (m.retireTo x (.flip lmask) (r.next 8)) with cmp := { m.cmp with pendAt := t.cmp.pendAt }, regs := t.regs })) ∧
  (∀ (s : State) (dt : Nat) (c : Fin 8) (pc : Addr) (m : Mach), m = s.at dt → m.Quiet →
    (ctxIdle m.coo[c].st = true → Answers (.cooContextStart dt c pc) s fun t =>
      t.coo[c].st = .active ∧ t.coo[c].ret = .init pc ∧ (∀ k, k ≠ c → t.coo[k] = m.coo[k]) ∧ t = { m with coo := t.coo }) ∧
    (ctxIdle m.coo[c].st = false → Answers (.cooContextStart dt c pc) s (· = m))) ∧
  (∀ (s : State) (dt : Nat) (x : Ctx) (off : BitVec 24) (v mask : Word) (m : Mach), m = s.at dt →
    m.AtFront x (.setreg off v mask) →
    (mask = 0 → Answers (.setreg dt x off v mask) s (· = m.retireTo x (.setreg off v mask) ((m.ctx x).ret.next 16))) ∧
    ((∃ (k : Fin 160) (j : Fin 4), 4 * off.toNat = (R.CE_SLOT_PARAM k j).a) ∨
      (∃ a : Fin 8, 4 * off.toNat ∈ [(R.AXE_AX_QTGT a).a, (R.AXE_AX_QSPD a).a, (R.AXE_AX_SEGDUR a).a,
        (R.AXE_AX_SEGVEL a).a, (R.AXE_AX_AMAX a).a, (R.AXE_AX_DMAX a).a, (R.AXE_AX_JMAX a).a]) →
      Answers (.setreg dt x off v mask) s fun t =>
        t.word (4 * off.toNat) = (m.word (4 * off.toNat) &&& ~~~ mask) ||| (v &&& mask) ∧ m.Keeps t [4 * off.toNat] ∧
        t = { (m.retireTo x (.setreg off v mask) ((m.ctx x).ret.next 16)) with regs := t.regs, regs0 := t.regs0 }))

/-- R104, R111, R272, R273, R400. -/
def Obligations.LedgerOperationsAndExports : Prop :=
  ∀ (s : State) (dt : Nat) (m : Mach), m = s.at dt →
    (∀ x : Ctx, m.AtFront x (.ledger 0 false 0 0) → Answers (.ledgerClear dt x) s fun t =>
      (∀ k, t.ledger.cell k = cellWord 0 (coarse m.mt)) ∧
      t = { (m.retireTo x (.ledger 0 false 0 0) ((m.ctx x).ret.next 16)) with ledger := t.ledger }) ∧
    (∀ (x : Ctx) (f : BitVec 16), m.AtFront x (.ledger 1 false f 0) → swf (fun _ => m.ledger.base) m.ledger.cells = true → Answers (.ledgerCarry dt x f) s fun t =>
      (∀ k, t.ledger.cell k = carryWord (m.rd R.HLD_DECAY) f.toNat (coarse m.mt) (m.ledger.cell k)) ∧
      t = { (m.retireTo x (.ledger 1 false f 0) ((m.ctx x).ret.next 16)) with ledger := t.ledger }) ∧
    (∀ (c : Fin 8) (a : Addr), m.AtFront (.coo c) (.ledger 2 false 0 a) → Answers (.ledgerExport dt (.coo c) a) s fun t =>
      t.exports = m.exports ++ [⟨.coo c, a, m.mt, m.ledger, m.rd R.HLD_DECAY, m.hldNx, m.hldNy⟩] ∧ t.coo[c].writes = m.coo[c].writes + 1 ∧
      t.coo[c].ret = m.coo[c].ret.next 16 ∧ (∀ k, k ≠ c → t.coo[k] = m.coo[k]) ∧ t.rd R.HLD_STATUS_EXBUSY = 1 ∧
      m.Keeps t [R.HLD_STATUS_EXBUSY.a] ∧ t = { m with coo := t.coo, exports := t.exports, regs := t.regs }) ∧
    (∀ (e : LedgerExp) (rest : List LedgerExp), m.Quiet → m.exports = e :: rest → Answers (.ledgerExportDone dt) s fun t =>
      t.exports = rest ∧ (t.ctx e.ctx).writes = (m.ctx e.ctx).writes - 1 ∧ (∀ y, y ≠ e.ctx → t.ctx y = m.ctx y) ∧
      (t.rd R.HLD_STATUS_EXBUSY = 1 ↔ rest ≠ []) ∧ m.Keeps t [R.HLD_STATUS_EXBUSY.a] ∧
      (∀ b, b < e.addr.toNat ∨ e.addr.toNat + 2 ^ 23 ≤ b → t.byte b = m.byte b) ∧
      (∀ k j, k < 2 ^ 22 → j < 2 → (t.byte (e.addr.toNat + 2 * k + j)).toNat =
        (if k % 2048 < e.nx ∧ k / 2048 < e.ny then
          decayE e.decay (e.snapshot.cell k) (coarse e.at_) else 0) / 256 ^ j % 256) ∧
      t.ledger = m.ledger) ∧
    (∀ (c : Fin 8) (q : BitVec 5) (len : Word) (a : Addr) (i : TInstr), i = .exportImage q len a → m.AtFront (.coo c) i →
      (m.coo[c].writes = 0 → m.pushRoom (d2h q.toFin) = true → Answers (.exportImage dt (.coo c) q len a) s fun t =>
        t.hs[d2h q.toFin].push = some { ctx := c, len := len.toNat, addr := BitVec.ofNat 36 a.toNat, blk := 0 } ∧
        t.rd (R.HSQ_PUSHSRC_OPEN (d2h q.toFin)) = 1 ∧ t.rd (R.HSQ_PUSHSRC_CTX (d2h q.toFin)) = c ∧
        (∀ k, k ≠ d2h q.toFin → t.hs[k] = m.hs[k]) ∧ m.Keeps t [(R.HSQ_PUSHSRC_OPEN (d2h q.toFin)).a] ∧
        t = { (m.retireTo (.coo c) i (m.coo[c].ret.next 16)) with hs := t.hs, regs := t.regs }) ∧
      (m.coo[c].writes ≠ 0 ∨ m.pushRoom (d2h q.toFin) = false → Answers (.exportImage dt (.coo c) q len a) s
        (m.WaitsAt (.coo c) i (.exportWrites q len a) 0))) ∧
    (∀ (c : Fin 8) (w : Wait) (q : BitVec 5) (len : Word) (a : Addr), m.OnlyWaits (.coo c) w →
      w.k = .exportWrites q len a → w.ins = .exportImage q len a → m.coo[c].writes = 0 →
      (m.pushRoom (d2h q.toFin) = true → Answers (.exportWritesComplete dt c) s fun t =>
        m.WaitOver (.coo c) t ∧ t.hs[d2h q.toFin].push = some { ctx := c, len := len.toNat, addr := BitVec.ofNat 36 a.toNat, blk := 0 }) ∧
      (m.pushRoom (d2h q.toFin) = false → Answers (.exportWritesComplete dt c) s fun t =>
        t.coo[c].wait = some { w with k := .exportRoom q len a } ∧ t = { m with coo := t.coo }))

/-- R80, R122, R128, R131, R138, R146, R248. -/
def Obligations.PlannerDecodesAndPublishes : Prop :=
  ∀ (s : State) (dt : Nat) (n : Fin 16) (m : Mach) (f : Field), m = s.at dt → f = m.fe[n] →
    (∀ (c : Fin 8) (segs : List Seg) (slowed : List (BitVec 8)), m.Quiet → f.owner = some c → m.pstop n = 0 →
      modeReady ≤ m.mode → f.openIns = none → f.planEnd < f.ckAt + 40000 → f.inRun = false → f.runAt = none → f.legs = [] → f.prefetch = [] →
      (∀ code, m.fetch .fe f.prefetch f.pl.pc = .error code → Answers (.plannerDecode dt n segs slowed) s
        (· = m.setField n { f with plan := f.plan ++ [bareEntry f.pl .nop (some (BitVec.ofNat 8 code)) f.pl false] })) ∧
      (∀ i, m.fetch .fe f.prefetch f.pl.pc = .ok i →
        (∀ code, m.wordFault (.fe n c) f.pl i = some code → Answers (.plannerDecode dt n segs slowed) s
          (· = m.setField n { f with plan := f.plan ++ [bareEntry f.pl i (some (BitVec.ofNat 8 code)) f.pl false] })) ∧
        (m.wordFault (.fe n c) f.pl i = none →
          (isMotion i = false → opc i ≠ 3 → Answers (.plannerDecode dt n segs slowed) s
            (· = m.setField n { f with
              plan := f.plan ++ [bareEntry f.pl i none (m.after f.pl i false) false], pl := m.after f.pl i false
              barrier := isBarrier i })) ∧
          (∀ hint cls idx test off value, i = .brc hint cls idx test off value → hint.toNat < 2 →
            Answers (.plannerDecode dt n segs slowed) s fun t =>
              t.fe[n].pl = m.after f.pl i (hint == 1) ∧
              t.fe[n].plan = (flagCk f.plan.reverse).reverse ++ [bareEntry f.pl i none (m.after f.pl i (hint == 1)) (hint == 1)] ∧
              (t.fe[n].ckpts.getLast?.map fun k => (k.spec, k.st, k.alt, k.at_, k.index)) =
                some (true, m.after f.pl i (hint == 1), m.after f.pl i (hint != 1), (m.frontier n).t0, f.segCount) ∧
              (t.fe[n].ckpts.getLast?.map fun k => (k.branch, k.prefetch, k.slice)) =
                some (some ⟨cls, idx, test, value, hint⟩, m.prefetchAt (m.after f.pl i (hint != 1)).pc, (m.frontier n).t0 / 16000) ∧ t.fe[n].ckpts.length = f.ckpts.length + 1 ∧
              (∀ k : Fin 16, k ≠ n → t.fe[k] = m.fe[k]) ∧ t = { m with fe := t.fe }) ∧
          (isMotion i = true → m.profileStuck n f.pl.mprof.toNat = false → f.cor.isSome = true →
            ∀ ps, m.alongLegs n c i segs slowed = some (ps, []) → m.pathFault n ps = none → m.polyPoison i = false →
            m.planOk n c i ps [] slowed = true → segs.length + f.segsLeft m.mt ≤ 32768 → (m.withSegs n i ps []).needCk = false →
            Answers (.plannerDecode dt n segs slowed) s fun t =>
              (t.fe[n].plan.flatMap fun e => e.segs) = (f.plan.flatMap fun e => e.segs) ++ ps ∧
              ps.map (fun p => { p.seg with ckpt := false }) = segs.map (fun p => { p with ckpt := false }) ∧
              (∀ p, ps.head? = some p → p.t0 = (m.frontier n).t0 ∧ (p.x0, p.y0, p.z0) = ((m.frontier n).x, (m.frontier n).y, (m.frontier n).z)) ∧
              (t.fe[n].pl.px, t.fe[n].pl.py) = m.endPoint f.pl i ∧ t.fe[n].pl.laserOn = contOf f.pl i ∧
              t.fe[n].pl.moved = true ∧
              t.fe[n].planEnd = (m.frontier n).t0 + segsDur ps ∧
              (∀ k : Fin 16, k ≠ n → t.fe[k] = m.fe[k]) ∧ t = { m with fe := t.fe, regs := t.regs }) ∧
          (isMotion i = true → m.profileStuck n f.pl.mprof.toNat = false → f.cor.isSome = true →
            m.alongLegs n c i segs slowed = none → Answers (.plannerDecode dt n segs slowed) s (· = m))))) ∧
    (∀ k : Nat, f.covers k = true → f.summary k = none → m.mt / 16000 ≤ k → (f.published m.mt).length < 2048 →
      Answers (.summaryPublish dt n k) s fun t =>
        (∃ x ∈ t.fe[n].summ, x = m.summaryOf n k ∧ x.slice = k ∧ x.ver = f.ver ∧ x.pubAt = m.mt) ∧
        (∀ x ∈ t.fe[n].summ, x ∈ f.summ ∨ x = m.summaryOf n k) ∧
        t = m.setField n { f with summ := t.fe[n].summ }) ∧
    (∀ r : Replan, m.Quiet → f.replan = some r → r.go = none → f.planReady = true →
      Answers (.replanReady dt n) s fun t =>
        (∃ g, t.fe[n].replan = some { r with go := some g } ∧ m.mt ≤ g ∧ r.rampEnd ≤ g ∧ g % 80 = 0 ∧
          g < max m.mt r.rampEnd + 80) ∧
        t.rd (R.FE_REPLAN_MAX n) = max (m.rd (R.FE_REPLAN_MAX n)) (min (m.mt - r.since) 65535) ∧
        t.rd (R.FE_REPLAN_LATE n) =
          (if 16000 < m.mt - r.since then min (m.rd (R.FE_REPLAN_LATE n) + 1) (2 ^ 32 - 1) else m.rd (R.FE_REPLAN_LATE n)) ∧
        m.Keeps t [(R.FE_REPLAN_MAX n).a, (R.FE_REPLAN_LATE n).a] ∧
        t = { m with fe := m.fe.set n { f with replan := t.fe[n].replan }, regs := t.regs })

/-- R18, R63, R73, R114, R116 to R118, R120, R217. -/
def Obligations.ContextCommandsAndGrants : Prop :=
  ∀ (s : State) (dt : Nat) (n : Fin 16) (c : Fin 8) (m : Mach) (r : CtxRec), m = s.at dt → r = m.fe[n].ctx[c] →
    (m.Quiet → ∀ (i : Instr) (k : Word), (i = .ctxStart dt n c ∧ k = 1) ∨ (i = .ctxStop dt n c ∧ k = 2) ∨
        (i = .ctxReset dt n c ∧ k = 3) →
      (m.open? (0x800000 + n * 0x40000) = true → m.pstate = 2 → Answers i s
        (· = { m with idleWrites := m.idleWrites ++ [((R.FE_CTX_CMD n c).a, k)] })) ∧
      (m.open? (0x800000 + n * 0x40000) = false → Answers i s fun t => m.OnlyRegs t [R.HS_EARLY.a])) ∧
    (m.Quiet → m.open? (0x800000 + n * 0x40000) = true → m.pstate ≠ 2 →
      (ctxIdle r.st = true → Answers (.ctxStart dt n c) s
        (· = { (m.setCtx (.fe n c) { r with
          st := .ready, wait := none, stopReq := false, readyAt := m.mt, khold := 0x4000
          ret := .init (BitVec.ofNat 36 (m.rd (R.FE_CTX_START_LO n c) * 8 + m.rd (R.FE_CTX_START_HI n c) * 2 ^ 32)) }) with
          tokens := m.tokens.filter fun p => p.2 ≠ .fe n c })) ∧
      (ctxIdle r.st = false → Answers (.ctxStart dt n c) s fun t =>
        t.rd (R.FE_CTX_STATE_CMDERR n c) = 1 ∧ m.OnlyRegs t [(R.FE_CTX_STATE_CMDERR n c).a]) ∧
      (r.st = .active → Answers (.ctxStop dt n c) s (· = m.setCtx (.fe n c) { r with stopReq := true })) ∧
      (r.st = .ready ∨ r.st = .waiting → Answers (.ctxStop dt n c) s fun t =>
        t.fe[n].ctx[c] = { r with st := .halted, wait := none, stopReq := false } ∧
        (∀ y, y ≠ .fe n c → t.ctx y = m.ctx y) ∧ t.tokens = m.tokens.filter (fun p => p.2 ≠ .fe n c) ∧
        (∀ k : Fin 16, k ≠ n → t.fe[k] = m.fe[k]) ∧ t = { m with fe := t.fe, tokens := t.tokens }) ∧
      (ctxBusy r.st = false → Answers (.ctxStop dt n c) s fun t =>
        t.rd (R.FE_CTX_STATE_CMDERR n c) = 1 ∧ m.OnlyRegs t [(R.FE_CTX_STATE_CMDERR n c).a]) ∧
      (ctxBusy r.st = false → Answers (.ctxReset dt n c) s
        (· = { (m.setCtx (.fe n c) { r with
                 st := .idle, wait := none, stopReq := false, ret := { r.ret with calls := [], loops := [] } }) with
               tokens := m.tokens.filter (fun p => p.2 ≠ .fe n c) })) ∧
      (ctxBusy r.st = true → Answers (.ctxReset dt n c) s fun t =>
        t.rd (R.FE_CTX_STATE_CMDERR n c) = 1 ∧ m.OnlyRegs t [(R.FE_CTX_STATE_CMDERR n c).a])) ∧
    (m.Quiet → (r.stopReq = false → Answers (.ctxStopComplete dt n c) s (· = m)) ∧
      (m.fe[n].owner = some c → r.stopReq = true → r.ret.laserOn = false → m.fe[n].plan = [] → m.fe[n].emit = none →
        m.fe[n].replan = none → Answers (.ctxStopComplete dt n c) s fun t =>
          t.fe[n].ctx[c] = { r with st := .halted, wait := none, stopReq := false } ∧
          t.tokens = m.tokens.filter (fun p => p.2 ≠ .fe n c) ∧ (∀ k : Fin 16, k ≠ n → t.fe[k] = m.fe[k]) ∧
          t = { m with fe := t.fe, tokens := t.tokens, regs := t.regs })) ∧
    (r.st = .ready → (∀ d : Fin 8, m.fe[n].ctx[d].st = .ready → m.prio n d < m.prio n c ∨ (m.prio n d = m.prio n c ∧ c ≤ d)) →
      (m.fe[n].active = true ∨ m.inFs n = true ∨ 1 < m.pstate ∨ m.rd R.TIM_STATUS_LOCK = 0 →
        Answers (.emissionGrant dt n) s (· = m)) ∧
      (m.fe[n].active = false → m.inFs n = false → m.pstate ≤ 1 → m.rd R.TIM_STATUS_LOCK = 1 → Answers (.emissionGrant dt n) s fun t =>
        t.fe[n].ctx[c] = { r with st := .active } ∧ t.fe[n].lastOwner = c ∧
        (t.fe[n].lch.poolMode = poolModeOf r.ret.poolMode r.ret.poolTarget ∧ t.fe[n].lch.poolStat = r.ret.poolStat ∧
          t.fe[n].lch.poolTarget = r.ret.poolTarget ∧ t.fe[n].lch.khold = r.khold) ∧
        (m.fe[n].yielded ≠ some c → m.fe[n].keptPlans = [] → t.fe[n].pl = r.ret ∧ t.fe[n].plan = [] ∧
          t.fe[n].replan.map (fun p => (p.why, p.since, p.go)) = some (.grant, m.mt, none)) ∧
        t.fe[n].fresh = true ∧ (∀ o, m.fe[n].yielded = some o → o ≠ c →
          ∃ q ∈ t.fe[n].keptPlans, q.ctx = o ∧ q.plan = m.fe[n].plan ∧ q.pl = m.fe[n].pl) ∧
        (∀ y, y ≠ .fe n c → t.ctx y = m.ctx y) ∧ (∀ k : Fin 16, k ≠ n → t.fe[k] = m.fe[k]) ∧
        t = { m with fe := t.fe, regs := t.regs }) ∧
      (∀ o : Fin 8, m.fe[n].owner = some o → m.fe[n].emit = none → m.fe[n].ctx[o].wait = none →
        m.fe[n].ctx[o].ret.laserOn = false → m.prio n o < m.prio n c →
        (∃ ta k, m.fe[n].atCk = some (ta, k) ∧ r.readyAt ≤ ta) → m.rd (R.FE_SWITCH n) + 1 < 2 ^ 32 →
        m.fe[n].dwell = none → Answers (.contextSwitch dt n) s fun t =>
          t.fe[n].ctx[c].st = .active ∧ t.fe[n].ctx[o] = { m.fe[n].ctx[o] with st := .ready, readyAt := m.mt } ∧
          t.rd (R.FE_SWITCH n) = m.rd (R.FE_SWITCH n) + 1 ∧ t.fe[n].lastOwner = c ∧
          (m.fe[n].yielded ≠ some c → m.fe[n].keptPlans = [] → t.fe[n].pl = r.ret ∧ t.fe[n].plan = []) ∧
          m.Keeps t [(R.FE_SWITCH n).a] ∧ (∀ k : Fin 16, k ≠ n → t.fe[k] = m.fe[k]) ∧
          t = { m with fe := t.fe, regs := t.regs }))

/-- R57, R63, R126, R127, R133, R143, R210, R211, R224, R471. -/
def Obligations.FrontMovesAndRunsStart : Prop :=
  ∀ (s : State) (dt : Nat) (n : Fin 16) (c : Fin 8) (m : Mach), m = s.at dt →
    (∀ i e l, m.MotionEnds n c i e l → m.fe[n].plan = [e] →
      Answers (.emissionFrontReach dt (.fe n c)) s (m.MotionDone n c e l)) ∧
    (m.Quiet → m.ctxRuns (.coo c) = true → m.fetch .coo [] m.coo[c].ret.pc = .ok .halt →
      m.wordFault (.coo c) m.coo[c].ret .halt = none → Answers (.emissionFrontReach dt (.coo c)) s fun t =>
        t.coo[c].st = .halted ∧ t.coo[c].retired = m.coo[c].retired + 1 ∧ (∀ k, k ≠ c → t.coo[k] = m.coo[k]) ∧
        t = { m with coo := t.coo, tokens := m.tokens.filter (fun p => p.2 ≠ .coo c) }) ∧
    (∀ (e : PlanEntry) (p : PSeg) (u on off : Nat), m.fe[n].owner = some c → m.frontRuns n c = true →
      m.fe[n].inRun = false → m.fe[n].fresh = false → m.fe[n].replan = none → m.fe[n].emit = none → m.fe[n].dwell = none →
      m.fe[n].plan.head? = some e → e.segs.head? = some p → p.seg.laser = true → m.frontHeld n c = false →
      on = min 800 (m.rd (R.FE_LCH_GADV_GONADV n)) → off = min 800 (m.rd (R.FE_LCH_GADV_GOFFADV n)) →
      runEnd m.fe[n].plan 0 = some u → u ≤ m.clearance n →
      (m.runDenied n = true → Answers (.laserOnRunStart dt n) s
        (· = m.setField n { m.fe[n] with dwell := some (m.mt, 3) })) ∧
      (m.mode = modeArmed → m.saf.disarming = false → m.pstate = 0 → m.rd R.TIM_STATUS_LOCK = 1 →
      (m.rd (R.FE_LCH_CTRL_RDYREQ n) = 1 → m.fe[n].lch.rdy = true) →
      m.soonest n ≤ p.t0 → p.t0 ≤ m.soonest n + 40 → p.t0 < u → off < u - p.t0 + on →
      (∀ d, m.fe[n].lch.lastFall = some d → d + max 1 (m.rd (R.FE_LCH_MINLOW n)) ≤ p.t0 - on) →
      Answers (.laserOnRunStart dt n) s fun t =>
        t.fe[n].inRun = true ∧ t.fe[n].emit = some p.t0 ∧ t.fe[n].lch.lastFall = some (u - off) ∧
        t.stage (.gate n) = ((m.stage (.gate n)).push 32 ⟨p.t0 - on, .gate true true⟩).push 32 ⟨u - off, .gate false false⟩ ∧
        (∀ e', e' ≠ .gate n → t.stage e' = m.stage e') ∧ t.fe[n].ctx = m.fe[n].ctx ∧ t.fe[n].plan = m.fe[n].plan ∧
        (∀ k : Fin 16, k ≠ n → t.fe[k] = m.fe[k]) ∧ t = { m with fe := t.fe, stages := t.stages })) ∧
    (m.fe[n].owner = some c → m.fe[n].plan = [] → m.fe[n].inRun = true → m.fe[n].replan = none → m.inFs n = false →
      Answers (.planUnderrun dt n) s fun t =>
        t.inFs n = true ∧ t.rd (R.FE_FAULT_CAUSE n) = 0x20 ∧ t.evt (80 + n) = 1 ∧ t.Dark n ∧
        (∀ d : Fin 8, ctxBusy m.fe[n].ctx[d].st = true → t.fe[n].ctx[d].st = .suspended) ∧
        (∀ k : Fin 16, k ≠ n → t.fe[k] = m.fe[k]) ∧ t.mem = m.mem ∧ t.mode = m.mode)

/-- R8, R18, R153, R154, R157, R167, R169, R171. -/
def Obligations.CorrectionFrameAndEncoders : Prop :=
  (∀ (s : State) (dt : Nat) (n : Fin 16) (m : Mach) (a : Nat) (load : Instr), m = s.at dt →
    a = m.rd (R.FE_COR_BASE_LO n) * 2 ^ (R.FE_COR_BASE_LO n).lsb + m.rd (R.FE_COR_BASE_HI n) * 2 ^ 32 →
    ((load = .corLoad dt n ∧ m.open? (0x800000 + n * 0x40000) = true ∧ m.pstate ≠ 2) ∨
      (load = .corLoadExecute dt n ∧ m.fe[n].corPending = true)) → m.fe[n].active = false →
    (m.corErr a = 0 → Answers load s fun t =>
      t.fe[n].cor = some (m.corAt a) ∧ t.fe[n].corPending = false ∧ t.fe[n].corSince = m.mt ∧
      t.rd (R.FE_COR_STATUS_VALID n) = 1 ∧ t.rd (R.FE_COR_STATUS_ERR n) = 0 ∧ t.rd (R.FE_COR_STATUS_PENDING n) = 0 ∧
      (∀ k : Fin 16, k ≠ n → t.fe[k] = m.fe[k]) ∧
      m.Keeps t [(R.FE_COR_STATUS_VALID n).a, (R.FE_COR_X0 n).a, (R.FE_COR_Y0 n).a, (R.FE_COR_PITCH n).a] ∧
      t = { m with fe := t.fe, regs := t.regs }) ∧
    (∀ e, (m.poisoned a 594505 = true → e = 4) →
      (m.poisoned a 594505 = false → a + 594504 < 0x800000000 → m.le a 4 ≠ 0x1D570C05 → e = 1) →
      m.poisoned a 594505 = true ∨ (a + 594504 < 0x800000000 ∧ m.le a 4 ≠ 0x1D570C05) →
      Answers load s fun t =>
        t.fe[n].cor = m.fe[n].cor ∧ t.rd (R.FE_COR_STATUS_ERR n) = e ∧ t.rd (R.FE_COR_STATUS_ERRF n) = 1 ∧
        t.rd (R.FE_COR_STATUS_VALID n) = m.rd (R.FE_COR_STATUS_VALID n) ∧ t.rd (R.FE_COR_STATUS_PENDING n) = 0 ∧
        m.Keeps t [(R.FE_COR_STATUS_VALID n).a])) ∧
  (∀ (s : State) (dt : Nat) (n : Fin 16) (m : Mach), m = s.at dt →
    (m.fe[n].corPending = false ∨ (m.fe[n].active = true ∧ m.fe[n].atBarrier = false) →
      Answers (.corLoadExecute dt n) s (· = m)) ∧
    (m.on (R.FE_FRM_CTRL_PEND n) = false ∨ m.fe[n].active = true → Answers (.framePendingApply dt n) s (· = m)) ∧
    (m.open? (0x800000 + n * 0x40000) = false → ∀ i, i = .corLoad dt n ∨ i = .frameLatch dt n →
      Answers i s fun t => m.OnlyRegs t [R.HS_EARLY.a]) ∧
    (m.open? (0x800000 + n * 0x40000) = true → m.pstate = 2 →
      Answers (.corLoad dt n) s (· = { m with idleWrites := m.idleWrites ++ [((R.FE_COR_CTRL n).a, 1)] }) ∧
      Answers (.frameLatch dt n) s (· = { m with idleWrites := m.idleWrites ++ [((R.FE_FRM_LATCH n).a, 1)] }))) ∧
  (∀ (s : State) (dt : Nat) (n : Fin 16) (m : Mach), m = s.at dt → m.open? (0x800000 + n * 0x40000) = true →
    m.pstate ≠ 2 →
    (m.fe[n].active = true → Answers (.corLoad dt n) s fun t =>
      t.fe[n] = { m.fe[n] with corPending := true } ∧ t.rd (R.FE_COR_STATUS_PENDING n) = 1 ∧
      m.Keeps t [(R.FE_COR_STATUS_PENDING n).a] ∧ t = { m with fe := t.fe, regs := t.regs }) ∧
    (m.fe[n].active = true → Answers (.frameLatch dt n) s fun t =>
      t.fe[n].spl.heldRef = some (m.srcCount (m.frmSrc n)) ∧
      t.view (R.FE_FRM_REF n).a = m.srcCount (m.frmSrc n) ∧ t.rd (R.FE_FRM_CTRL_PEND n) = 1 ∧
      t.rd (R.FE_FRM_LATCH n) = 1 ∧ m.Keeps t [(R.FE_FRM_CTRL_PEND n).a, (R.FE_FRM_LATCH n).a] ∧
      t.force = m.force ∧ t = { m with fe := t.fe, regs := t.regs }) ∧
    (m.fe[n].active = false → Answers (.frameLatch dt n) s fun t =>
      t.rd (R.FE_FRM_REF n) = (m.srcCount (m.frmSrc n)).toNat ∧ t.rdf (R.FE_FRM_REF n) = (m.srcCount (m.frmSrc n)).toNat ∧
      t.rd (R.FE_FRM_CTRL_PEND n) = 0 ∧ t.rd (R.FE_FRM_LATCH n) = 0 ∧
      m.Keeps t [(R.FE_FRM_REF n).a, (R.FE_FRM_CTRL_PEND n).a, (R.FE_FRM_LATCH n).a] ∧
      t = { m with fe := t.fe, regs := t.regs, force := t.force }) ∧
    (∀ v, m.on (R.FE_FRM_CTRL_PEND n) = true → m.fe[n].active = false → m.fe[n].spl.heldRef = some v →
      Answers (.framePendingApply dt n) s fun t =>
        t.rd (R.FE_FRM_REF n) = v.toNat ∧ t.rdf (R.FE_FRM_REF n) = v.toNat ∧
        t.rdf (R.FE_FRM_CTRL_SRC n) = m.rd (R.FE_FRM_CTRL_SRC n) ∧ t.rd (R.FE_FRM_CTRL_PEND n) = 0 ∧
        t.fe[n].spl.heldRef = none ∧
        m.Keeps t [(R.FE_FRM_REF n).a, (R.FE_FRM_CTRL_PEND n).a, (R.FE_FRM_LATCH n).a] ∧
        t = { m with fe := t.fe, regs := t.regs, force := t.force })) ∧
  (∀ (s : State) (dt : Nat) (k : Fin 4) (m : Mach) (old : Bool × Bool), m = s.at dt → m.enc.length = 4 → m.enc.getD k (false, false) = old →
    (∀ a b, m.encQualified k a b = false → Answers (.encoderTransition dt k a b) s (· = m)) ∧
    (m.rd (R.AXE_ENC_CTRL_MODE k) = 2 → old.1 = false → ∀ b, m.encQualified k true b = true →
      Answers (.encoderTransition dt k true b) s fun t =>
        t.rd (R.AXE_ENC_CNT k) = unsigned 32 ((m.rd (R.AXE_ENC_CNT k) : Int) +
          (if b = m.on (R.AXE_ENC_CTRL_INV k) then -1 else 1)) ∧ t.enc.getD k old = (true, b) ∧
        m.Keeps t [(R.AXE_ENC_CNT k).a] ∧ t = { m with regs := t.regs, enc := t.enc, encAt := t.encAt, encLog := t.encLog }) ∧
    (m.rd (R.AXE_ENC_CTRL_MODE k) = 1 →
      (∀ fwd : Bool, m.encQualified k (if fwd then !old.2 else old.2) (if fwd then old.1 else !old.1) = true → Answers (.encoderTransition dt k (if fwd then !old.2 else old.2) (if fwd then old.1 else !old.1)) s fun t =>
        t.rd (R.AXE_ENC_CNT k) = unsigned 32 ((m.rd (R.AXE_ENC_CNT k) : Int) +
          (if fwd = m.on (R.AXE_ENC_CTRL_INV k) then -1 else 1)) ∧
        t.enc.getD k old = (if fwd then !old.2 else old.2, if fwd then old.1 else !old.1) ∧
        (∀ j, j ≠ k.val → t.enc.getD j old = m.enc.getD j old) ∧
        m.Keeps t [(R.AXE_ENC_CNT k).a] ∧ t = { m with regs := t.regs, enc := t.enc, encAt := t.encAt, encLog := t.encLog }) ∧
      ((∀ n : Fin 16, m.fe[n].lasing m.mt = false) → m.encQualified k (!old.1) (!old.2) = true → m.rd (R.AXE_ENC_ERR k) + 1 < 2 ^ 32 →
        Answers (.encoderTransition dt k (!old.1) (!old.2)) s fun t =>
          t.rd (R.AXE_ENC_ERR k) = m.rd (R.AXE_ENC_ERR k) + 1 ∧ t.enc.getD k old = (!old.1, !old.2) ∧
          m.Keeps t [(R.AXE_ENC_ERR k).a] ∧ t = { m with regs := t.regs, enc := t.enc, encAt := t.encAt })) ∧
    (m.rd (R.AXE_ENC_CTRL_MODE k) = 0 → ∀ a b, m.encQualified k a b = true → Answers (.encoderTransition dt k a b) s fun t =>
      t.enc.getD k old = (a, b) ∧ t = { m with enc := t.enc, encAt := t.encAt }))

/-- R163, R164, R172 to R174, R469. -/
def Obligations.DeflectorLinkAndSamples : Prop :=
  ∀ (s : State) (dt : Nat) (n : Fin 16) (m : Mach), m = s.at dt →
    (∀ (gx gy gz lpd : Code) (avail : Nat), m.mt % 400 = 0 →
      Answers (.galvoSample dt n gx gy gz lpd avail) s fun t =>
        (t.pins[n].gx, t.pins[n].gy, t.pins[n].gz, t.pins[n].lpd) =
          (m.adcCorrect n 0 gx, m.adcCorrect n 1 gy, m.adcCorrect n 2 gz, m.adcCorrect n 3 lpd) ∧
        (800 < avail ∨ clipped gx = true ∨ clipped gy = true →
          (t.fe[n].spl.sampleAt, t.fe[n].spl.gmx, t.fe[n].spl.gmy) =
            (m.fe[n].spl.sampleAt, m.fe[n].spl.gmx, m.fe[n].spl.gmy)) ∧
        t.rd (R.FE_SPL_GLATE n) =
          (if 800 < avail then min (m.rd (R.FE_SPL_GLATE n) + 1) (2 ^ 32 - 1) else m.rd (R.FE_SPL_GLATE n)) ∧
        (clipped gx = true ∨ clipped gy = true →
          t.rd (R.FE_SPL_GBAD n) = min (m.rd (R.FE_SPL_GBAD n) + 1) (2 ^ 32 - 1)) ∧
        m.Keeps t [(R.FE_SPL_GLATE n).a, (R.FE_SPL_GBAD n).a] ∧
        (avail ≤ 800 → clipped gx = false → clipped gy = false → m.fe[n].spl.sampleAt = none →
          t.fe[n].spl.sampleAt = some m.mt ∧ t.fe[n].spl.gmx = codeGu t.pins[n].gx ∧
          t.fe[n].spl.gmy = codeGu t.pins[n].gy ∧ t.regs = m.regs) ∧
        (∀ k : Fin 16, k ≠ n → t.fe[k] = m.fe[k] ∧ t.pins[k] = m.pins[k]) ∧
        t = { m with fe := t.fe, pins := t.pins, regs := t.regs }) ∧
    (m.mt % 400 ≠ 0 → ∀ gx gy gz lpd avail, Answers (.galvoSample dt n gx gy gz lpd avail) s (· = m)) ∧
    (m.mt % 80 = 0 → m.rd (R.FE_FDL_CTRL_EN n) = 1 → m.mode ≠ modeBoot →
      (m.outSafe n = true → Answers (.fdlFrameSend dt n) s fun t =>
        ∃ x y, x.toNat = m.rd (R.FE_FDL_ZERO_ZX n) ∧ y.toNat = m.rd (R.FE_FDL_ZERO_ZY n) ∧
          t.out = .fdl n x y m.fe[n].spl.seq (fdlCrc x y m.fe[n].spl.seq) :: m.out ∧
          t.fe[n].spl.seq = m.fe[n].spl.seq + 1 ∧ (t.pins[n].fdlX, t.pins[n].fdlY) = (x, y) ∧
          (∀ k : Fin 16, k ≠ n → t.fe[k] = m.fe[k] ∧ t.pins[k] = m.pins[k]) ∧
          t = { m with fe := t.fe, pins := t.pins, out := t.out }) ∧
      (∀ te w, te = m.mt + min (m.rd (R.FE_FDL_DLAT n)) 8000 → w = m.fdlWords n te → m.mt % 2000 ≠ 0 →
        m.outSafe n = false → m.fe[n].lasing m.mt = false → m.sampleOld n = false → (m.fe[n].live m.mt).segOn m.mt = none →
        (∀ c, m.fe[n].cor = some c → c.inside (m.frameBed n te).1 (m.frameBed n te).2 = true) →
        Answers (.fdlFrameSend dt n) s fun t =>
          t.out = .fdl n w.x w.y m.fe[n].spl.seq (fdlCrc w.x w.y m.fe[n].spl.seq) :: m.out ∧
          t.fe[n].spl.seq = m.fe[n].spl.seq + 1 ∧ t.fe[n].spl.lateRun = 0 ∧ (t.pins[n].fdlX, t.pins[n].fdlY) = (w.x, w.y) ∧
          (∀ k : Fin 16, k ≠ n → t.fe[k] = m.fe[k] ∧ t.pins[k] = m.pins[k]) ∧
          t = { m with fe := t.fe, pins := t.pins, out := t.out, free := t.free })) ∧
    (m.mt % 80 ≠ 0 ∨ m.rd (R.FE_FDL_CTRL_EN n) = 0 ∨ m.mode = modeBoot → Answers (.fdlFrameSend dt n) s fun t => t.out = m.out ∧ t.pins = m.pins) ∧
    (∀ ack stat, Answers (.fdlReturnFrame dt n ack stat false) s fun t =>
      t.rd (R.FE_FDL_BADRET n) = min (m.rd (R.FE_FDL_BADRET n) + 1) (2 ^ 32 - 1) ∧
      m.OnlyRegs t [(R.FE_FDL_BADRET n).a]) ∧
    (∀ ack stat : Byte, (m.rd (R.FE_FDL_CTRL_RETEN n) = 0 ∨ (stat.toNat % 16 ≤ 4 ∧ (stat.getLsbD 4 = true ∨ m.mode ≠ modeArmed))) →
      Answers (.fdlReturnFrame dt n ack stat true) s fun t =>
        t.rd (R.FE_FDL_STATUS_LINK n) = 1 ∧ t.rd (R.FE_FDL_STATUS_BADRUN n) = stat.toNat % 16 ∧
        t.rd (R.FE_FDL_STATUS_ACK n) = ack.toNat ∧ (t.rd (R.FE_FDL_STATUS_READY n) = 1 ↔ stat.getLsbD 4 = true) ∧
        t.rd (R.FE_FDL_BADFWD n) =
          min (m.rd (R.FE_FDL_BADFWD n) + (stat.toNat % 16 - m.rd (R.FE_FDL_STATUS_BADRUN n))) (2 ^ 32 - 1) ∧
        t.fe[n].spl.lastReturn = some m.mt ∧ (∀ k : Fin 16, k ≠ n → t.fe[k] = m.fe[k]) ∧
        m.Keeps t [(R.FE_FDL_STATUS_LINK n).a, (R.FE_FDL_BADFWD n).a] ∧ t = { m with fe := t.fe, regs := t.regs }) ∧
    (∀ ack stat : Byte, m.rd (R.FE_FDL_CTRL_RETEN n) = 1 → m.inFs n = false →
      4 < stat.toNat % 16 ∨ (stat.getLsbD 4 = false ∧ m.mode = modeArmed) →
      Answers (.fdlReturnFrame dt n ack stat true) s fun t =>
        t.rd (R.FE_FDL_STATUS_LINK n) = 1 ∧ t.fe[n].spl.lastReturn = some m.mt ∧ t.inFs n = true ∧
        t.rd (R.FE_FAULT_CAUSE n) = 0x23 ∧ t.Dark n) ∧
    ((∃ t0, m.fe[n].spl.lastReturn = some t0 ∧ m.mt < t0 + 1280) → Answers (.fdlReturnTimeout dt n) s (· = m)) ∧
    ((∀ t0, m.fe[n].spl.lastReturn = some t0 → t0 + 1280 ≤ m.mt) →
      (m.rd (R.FE_FDL_CTRL_EN n) = 0 ∨ m.rd (R.FE_FDL_CTRL_RETEN n) = 0 → Answers (.fdlReturnTimeout dt n) s fun t =>
        t.rd (R.FE_FDL_STATUS_LINK n) = 0 ∧ m.OnlyRegs t [(R.FE_FDL_STATUS_LINK n).a]) ∧
      (m.rd (R.FE_FDL_CTRL_EN n) = 1 → m.rd (R.FE_FDL_CTRL_RETEN n) = 1 → m.inFs n = false →
        Answers (.fdlReturnTimeout dt n) s fun t =>
          t.rd (R.FE_FDL_STATUS_LINK n) = 0 ∧ t.inFs n = true ∧ t.rd (R.FE_FAULT_CAUSE n) = 0x23 ∧ t.Dark n))

/-- R18, R178, R182, R183, R202, R204, R206. -/
def Obligations.SlotCommands : Prop :=
  ∀ (s : State) (dt : Nat) (k : Fin 160) (m : Mach) (x : Slot), m = s.at dt → x = m.slot[k] → m.open? 0x400000 = true →
    (∀ (i : Instr) (a : Nat) (v : Word), (i = .slotStart dt k ∧ a = (R.CE_SLOT_CMD k).a ∧ v = 1) ∨
        (i = .slotStop dt k ∧ a = (R.CE_SLOT_CMD k).a ∧ v = 2) ∨ (i = .loadlib dt k ∧ a = (R.CE_SLOT_CMD k).a ∧ v = 3) ∨
        (i = .swapRequest dt k ∧ a = (R.CE_SLOT_SWAP_REQ k).a ∧ v = 1) ∨
        (i = .tuneApply dt k ∧ a = (R.CE_SLOT_SWAP_APPLY k).a ∧ v = 2) →
      m.pstate = 2 → Answers i s (· = { m with idleWrites := m.idleWrites ++ [(a, v)] })) ∧
    (x.tuneVals = none ∨ m.rd (R.CE_SLOT_STATUS_SWPEND k) = 1 → Answers (.tuningComplete dt k) s (· = m)) ∧
    (m.pstate ≠ 2 → m.rd (R.CE_SLOT_STATUS_STATE k) = 0 →
      (m.startErr k = 0 → Answers (.slotStart dt k) s fun t =>
        t.rd (R.CE_SLOT_STATUS_STATE k) = 1 ∧ t.rd (R.CE_SLOT_STATUS_LOADERR k) = 0 ∧
        t.rd (R.CE_SLOT_COST k) = m.slotCost k % 2 ^ ((R.CE_SLOT_COST k).msb + 1 - (R.CE_SLOT_COST k).lsb) ∧
        t.slot[k].firstTk = m.mt + 4000 ∧ t.slot[k].lastTk = none ∧ t.slot[k].stopAt = none ∧ t.slot[k].exec = x.exec ∧
        (∀ j, j ≠ k → t.slot[j] = m.slot[j]) ∧
        m.Keeps t [(R.CE_SLOT_STATUS_STATE k).a, (R.CE_SLOT_COST k).a, (R.CE_CORE_LOAD (m.rd (R.CE_SLOT_CFG_CORE k))).a] ∧
        t = { m with slot := t.slot, regs := t.regs }) ∧
      (m.startErr k ≠ 0 → Answers (.slotStart dt k) s fun t =>
        t.rd (R.CE_SLOT_STATUS_LOADERR k) = m.startErr k ∧ t.rd (R.CE_SLOT_STATUS_STATE k) = 0 ∧
        m.OnlyRaised t 72 [(R.CE_SLOT_STATUS_STATE k).a]) ∧
      Answers (.slotStop dt k) s (fun t => t.rd (R.CE_SLOT_STATUS_CFGERR k) = 1 ∧ m.OnlyRegs t [(R.CE_SLOT_STATUS_CFGERR k).a]) ∧
      (∀ l, l = m.rd (R.CE_SLOT_LIB k) → 1 ≤ l → l ≤ 4 → Answers (.loadlib dt k) s fun t =>
        t.slot[k] = { x with lib := some l } ∧ (∀ i, i < 256 → t.rd (R.CE_PROG k i) = (Config.libWord l i).toNat) ∧
        (l = 4 → t.rd (R.CE_SLOT_CFG_FRM k) = 1 ∧ t.rd (R.CE_SLOT_CFG_ALIGN k) = 1 ∧ t.rd (R.CE_SLOT_LAT_L k) = 400) ∧
        (l = 3 → t.rd (R.CE_SLOT_CFG_FRM k) = 0 ∧ t.rd (R.CE_SLOT_CFG_PER k) = 1 ∧ t.rd (R.CE_SLOT_LAT_L k) = 500) ∧
        (l = 2 → t.rd (R.CE_SLOT_CFG_PER k) = 4) ∧ (∀ j, j ≠ k → t.slot[j] = m.slot[j]) ∧
        m.Keeps t ((List.range 256).map (fun i => (R.CE_PROG k i).a) ++ [(R.CE_SLOT_CFG_PER k).a, (R.CE_SLOT_LAT_L k).a]) ∧
        t = { m with slot := t.slot, regs := t.regs }) ∧
      (m.rd (R.CE_SLOT_STATUS_SWPEND k) = 0 → Answers (.swapRequest dt k) s fun t =>
        t.rd (R.CE_SLOT_STATUS_ACTBANK k) = 1 - m.rd (R.CE_SLOT_STATUS_ACTBANK k) ∧
        t.rd (R.CE_SLOT_STATUS_SWPEND k) = 0 ∧ t.slot[k].swapReq = none ∧ (∀ j, j ≠ k → t.slot[j] = m.slot[j]) ∧
        t = { m with slot := t.slot, regs := t.regs }) ∧
      (∀ (a : BitVec 24) (v : Word), a.toNat % 4 = 0 → 0x100000 + k * 0x400 ≤ a.toNat → a.toNat < 0x100400 + k * 0x400 →
        (m.unlocked 0x400000 = true → Answers (.ceWindowWrite dt a v) s fun t =>
          t.word (0x400000 + a.toNat) = v ∧ m.Keeps t [0x400000 + a.toNat] ∧
          (v ≠ m.word (0x400000 + a.toNat) → t.slot[k] = { x with lib := none }) ∧
          (∀ j, j ≠ k → t.slot[j] = m.slot[j]) ∧ t = { m with slot := t.slot, regs := t.regs, regs0 := t.regs0 }) ∧
        (m.unlocked 0x400000 = false → v ≠ m.word (0x400000 + a.toNat) → Answers (.ceWindowWrite dt a v) s fun t =>
          t.rd R.CE_BLK_XSTAT_XLOCK = 1 ∧ ({ m with regs0 := t.regs0 } : Mach).OnlyRegs t [R.CE_BLK_XSTAT_XLOCK.a]))) ∧
    (m.pstate ≠ 2 → m.rd (R.CE_SLOT_STATUS_STATE k) = 1 →
      Answers (.slotStart dt k) s (fun t => t.rd (R.CE_SLOT_STATUS_CFGERR k) = 1 ∧ m.OnlyRegs t [(R.CE_SLOT_STATUS_CFGERR k).a]) ∧
      Answers (.loadlib dt k) s (fun t => t.rd (R.CE_SLOT_STATUS_CFGERR k) = 1 ∧ m.OnlyRegs t [(R.CE_SLOT_STATUS_CFGERR k).a]) ∧
      Answers (.slotStop dt k) s (· = m.setSlot k { x with stopAt := some m.mt }) ∧
      (m.rd (R.CE_SLOT_STATUS_SWPEND k) = 0 → Answers (.swapRequest dt k) s fun t =>
        t.rd (R.CE_SLOT_STATUS_SWPEND k) = 1 ∧ t.rd (R.CE_SLOT_STATUS_ACTBANK k) = m.rd (R.CE_SLOT_STATUS_ACTBANK k) ∧
        m.Keeps t [(R.CE_SLOT_STATUS_SWPEND k).a, (R.CE_SLOT_SWAP_REQ k).a] ∧
        t = { (m.setSlot k { x with swapReq := some m.mt }) with regs := t.regs }) ∧
      (∀ (a : BitVec 24) (v : Word), 0x100000 + k * 0x400 ≤ a.toNat → a.toNat < 0x100400 + k * 0x400 →
        Answers (.ceWindowWrite dt a v) s fun t =>
          t.rd (R.CE_SLOT_STATUS_WRERR k) = 1 ∧
          m.OnlyRegs t [(R.CE_SLOT_STATUS_WRERR k).a, R.CE_BLK_XSTAT_XLOCK.a] ∧
          (m.unlocked 0x400000 = true → m.OnlyRegs t [(R.CE_SLOT_STATUS_WRERR k).a]))) ∧
    (m.pstate ≠ 2 → m.rd (R.CE_SLOT_STATUS_SWPEND k) = 1 → Answers (.swapRequest dt k) s (· = m)) ∧
    (m.pstate ≠ 2 → ∀ v, v = (List.range 8).map (fun i => m.rd (R.CE_SLOT_TUNE k i)) →
      (tuneOk (m.rd (R.CE_SLOT_LIB k)) v = true → Answers (.tuneApply dt k) s fun t =>
        t.rd (R.CE_SLOT_STATUS_TUNEBUSY k) = 1 ∧ m.Keeps t [(R.CE_SLOT_STATUS_TUNEBUSY k).a] ∧
        t = { (m.setSlot k { x with tuneVals := some v }) with regs := t.regs }) ∧
      (tuneOk (m.rd (R.CE_SLOT_LIB k)) v = false → Answers (.tuneApply dt k) s fun t =>
        t.rd (R.CE_SLOT_STATUS_TUNEERR k) = 1 ∧ m.OnlyRaised t 73 [(R.CE_SLOT_STATUS_TUNEERR k).a])) ∧
    (∀ (v : List Nat) (b : Nat), x.tuneVals = some v → m.rd (R.CE_SLOT_STATUS_SWPEND k) = 0 → x.tune.length = 2 →
      b = 1 - m.rd (R.CE_SLOT_STATUS_ACTBANK k) → m.rd (R.CE_SLOT_STATUS_STATE k) = 1 →
      Answers (.tuningComplete dt k) s fun t =>
        t.rd (R.CE_SLOT_STATUS_TUNEBUSY k) = 0 ∧ t.rd (R.CE_SLOT_STATUS_SWPEND k) = 1 ∧
        t.slot[k] = { x with tuneVals := none, swapReq := some m.mt, tune := modify x.tune b (fun _ => some v) } ∧
        (∀ i j, i < 8 → j < 8 → t.rd (R.CE_BANKM k b i j) =
          (Config.tuneWord (m.rd (R.CE_SLOT_LIB k)) v (9 * i + j)).toNat % 2 ^ 24) ∧
        (∀ j, j ≠ k → t.slot[j] = m.slot[j]) ∧ t = { m with slot := t.slot, regs := t.regs })

/-- R23, R55, R60, R179, R181, R182, R194 to R196, R202, R218. -/
def Obligations.SlotSamplesAndExecutions : Prop :=
  ∀ (s : State) (dt : Nat) (k : Fin 160) (m : Mach) (x : Slot), m = s.at dt → x = m.slot[k] →
    (m.sampleDue k = false → Answers (.slotSample dt k) s (· = m)) ∧
    (m.sampleDue k = true →
      (x.stopAt = none → x.swapReq = none → Answers (.slotSample dt k) s fun t =>
        t.slot[k] = { x with
          exec := x.exec ++ [⟨m.mt, m.mt + 240, m.mt + m.rd (R.CE_SLOT_LAT_L k), m.sampleIns k none⟩], lastTk := some m.mt } ∧
        (∀ j, j ≠ k → t.slot[j] = m.slot[j]) ∧ t = { m with slot := t.slot, free := m.free + 4 }) ∧
      (∀ q, x.swapReq = some q → q + 400 ≤ m.mt → Answers (.slotSample dt k) s fun t =>
        t.rd (R.CE_SLOT_STATUS_ACTBANK k) = 1 - m.rd (R.CE_SLOT_STATUS_ACTBANK k) ∧
        t.rd (R.CE_SLOT_STATUS_SWPEND k) = 0 ∧ t.slot[k].swapReq = none ∧
        t.rd (R.CE_SLOT_STATUS_STATE k) = (if x.stopAt.isSome then 0 else 1)) ∧
      (∀ n : Fin 16, x.stopAt.isSome = true → x.swapReq = none → m.slotField k = n → Answers (.slotSample dt k) s fun t =>
        t.rd (R.CE_SLOT_STATUS_STATE k) = 0 ∧ t.slot[k] = { x with stopAt := none } ∧
        (t.stage (.gxc n) = if (m.slotOuts k).contains 512 then
          (m.stage (.gxc n)).push 4 ⟨m.mt + m.rd (R.CE_SLOT_LAT_L k), .dac 0⟩ else m.stage (.gxc n)) ∧
        (t.stage (.lpwr n) = if (m.slotOuts k).contains 515 ∧ m.rdf (R.FE_LCH_CTRL_PMODE n) = 1 then
          (m.stage (.lpwr n)).push 4 ⟨m.mt + m.rd (R.CE_SLOT_LAT_L k), .dac 0⟩ else m.stage (.lpwr n)) ∧
        (∀ j, j ≠ k → t.slot[j] = m.slot[j]) ∧ (∀ g : Fin 16, t.stage (.gate g) = m.stage (.gate g)) ∧
        t = { m with slot := t.slot, regs := t.regs, stages := t.stages, out := t.out, cbk := t.cbk })) ∧
    (x.exec = [] ∨ m.coreRuns (m.rd (R.CE_SLOT_CFG_CORE k)) ≠ some k → Answers (.executionComplete dt k) s (· = m)) ∧
    (x.exec = [] ∨ m.coreRuns (m.rd (R.CE_SLOT_CFG_CORE k)) = some k ∨ (∃ e, x.exec.head? = some e ∧ m.mt + 40 < e.due) →
      Answers (.executionDrop dt k) s (· = m)) ∧
    (∀ (e : ExecRec) (rest : List ExecRec), x.exec = e :: rest → m.coreRuns (m.rd (R.CE_SLOT_CFG_CORE k)) = some k →
      (m.mt + 40 ≤ e.due → m.outViolates k e.due = false →
        Answers (.executionComplete dt k) s fun t =>
          t.slot[k].exec = rest ∧ t.slot[k].doneAt = m.mt ∧ t.rd (R.CE_SLOT_STATUS_CONSEC k) = 0 ∧
          t.rd (R.CE_SLOT_MISS_MISS k) = m.rd (R.CE_SLOT_MISS_MISS k) ∧
          t.rd R.PWR_VCORE_SET = (if slackOf e m.mt ≤ 102 then 850 else m.rd R.PWR_VCORE_SET) ∧
          (∀ (n : Fin 16) (v : Rat), m.slotField k = n → (m.runExec k e).outs = [(512, v)] →
            t.stage (.gxc n) = (m.stage (.gxc n)).push 4 ⟨e.due, .dac (BitVec.ofInt 20 (outConv 512 v).1.num)⟩ ∧
            ∀ e', e' ≠ .gxc n → t.stage e' = m.stage e') ∧
          (∀ j, j ≠ k → t.slot[j] = m.slot[j]) ∧ t.mem = m.mem ∧ t.axis = m.axis) ∧
      (e.due < m.mt + 40 ∨ m.outViolates k e.due = true → m.rd (R.CE_SLOT_STATUS_CONSEC k) + 1 < max 1 (m.rd (R.CE_SLOT_CFG_K k)) →
        Answers (.executionComplete dt k) s fun t =>
          t.slot[k].exec = rest ∧ t.slot[k].doneAt = m.mt ∧ t.rd (R.CE_SLOT_STATUS_OVR k) = 1 ∧
          t.rd (R.CE_SLOT_MISS_MISS k) = min (m.rd (R.CE_SLOT_MISS_MISS k) + 1)
            (2 ^ ((R.CE_SLOT_MISS_MISS k).msb + 1 - (R.CE_SLOT_MISS_MISS k).lsb) - 1) ∧
          t.rd (R.CE_SLOT_STATUS_CONSEC k) = min 15 (m.rd (R.CE_SLOT_STATUS_CONSEC k) + 1) ∧
          t.rd (R.TIM_LATE 1) = min (m.rd (R.TIM_LATE 1) + 1) (2 ^ 16 - 1) ∧
          t.rd R.TIM_LATE_LAST_ORDER = (if e.due < m.mt + 40 then 0 else 1) ∧ t.evt 20 = 1 ∧
          t.stages = m.stages ∧ t.fe = m.fe ∧ (∀ j, j ≠ k → t.slot[j] = m.slot[j]) ∧ t.mem = m.mem ∧ t.axis = m.axis)) ∧
    (∀ (e : ExecRec) (rest : List ExecRec), x.exec = e :: rest → e.due ≤ m.mt + 40 →
      m.coreRuns (m.rd (R.CE_SLOT_CFG_CORE k)) ≠ some k →
      (m.rd (R.CE_SLOT_STATUS_CONSEC k) + 1 < max 1 (m.rd (R.CE_SLOT_CFG_K k)) → Answers (.executionDrop dt k) s fun t =>
        t.slot = m.slot.set k { x with exec := rest } ∧ t.rd (R.CE_SLOT_STATUS_OVR k) = 1 ∧
        t.rd (R.CE_SLOT_STATUS_CONSEC k) = min 15 (m.rd (R.CE_SLOT_STATUS_CONSEC k) + 1) ∧ t.sregs k = m.sregs k ∧
        t.stages = m.stages ∧ t.fe = m.fe ∧ t.pins = m.pins ∧ t.mem = m.mem ∧ t.axis = m.axis) ∧
      (∀ n : Fin 16, m.slotField k = n → m.inFs n = false →
        m.rd (R.CE_SLOT_STATUS_CONSEC k) + 1 = max 1 (m.rd (R.CE_SLOT_CFG_K k)) → Answers (.executionDrop dt k) s fun t =>
          t.inFs n = true ∧ t.rd (R.FE_FAULT_CAUSE n) = 0x28 ∧ t.Dark n ∧ t.slot = m.slot.set k { x with exec := rest, missed := true }))

/-- R215, R218, R220, R222 to R225, R469. -/
def Obligations.LaserChannelCommands : Prop :=
  ∀ (s : State) (dt : Nat) (n : Fin 16) (m : Mach) (l : Lch), m = s.at dt → l = m.fe[n].lch →
    (m.mt % 400 ≠ 0 ∨ m.rdf (R.FE_LCH_CTRL_PMODE n) = 1 → Answers (.directPowerUpdate dt n) s (· = m)) ∧
    (∀ (u : Nat) (c o : Int), m.mt % 400 = 0 → m.rdf (R.FE_LCH_CTRL_PMODE n) = 0 → u = m.mt - 400 →
      c = m.chainOf n (m.planPower n (m.mt + m.plead n)) (l.factAt u) (l.keffAt (m.fe[n].snapAt u) u) (l.rho u) →
      o = (if m.outSafe n then 0 else min (max c 0) (m.rdf (R.FE_LCH_LIMIT n))) →
      Answers (.directPowerUpdate dt n) s fun t =>
        t.pins[n] = { m.pins[n] with lpwr := BitVec.ofInt 20 o } ∧ t.rd (R.FE_LCH_COUT n) = o.toNat ∧
        t.rd (R.FE_LCH_PWRMISS n) = 0 ∧
        t.rd (R.FE_LCH_CLAMPN n) = (if m.outSafe n = false ∧ o ≠ c ∧ l.gintAt' m.mt = true then
          min (m.rd (R.FE_LCH_CLAMPN n) + 1) (2 ^ 32 - 1) else m.rd (R.FE_LCH_CLAMPN n)) ∧
        t.fe[n].lch.coutHist.head? = some (m.mt, o.toNat) ∧
        (∀ j : Fin 16, j ≠ n → t.fe[j] = m.fe[j] ∧ t.pins[j] = m.pins[j]) ∧
        m.Keeps t [(R.FE_LCH_COUT n).a, (R.FE_LCH_CLAMPN n).a, (R.FE_LCH_PWRMISS n).a] ∧
        t = { m with fe := t.fe, pins := t.pins, regs := t.regs }) ∧
    (m.on (R.FE_LCH_STATUS_PEND n) = true → m.fe[n].active = false → Answers (.lchPendingApply dt n) s fun t =>
      t.rdf (R.FE_LCH_CTRL_PMODE n) = m.rd (R.FE_LCH_CTRL_PMODE n) ∧ t.rdf (R.FE_LCH_CTRL_LFEN n) = m.rd (R.FE_LCH_CTRL_LFEN n) ∧
      t.rdf (R.FE_LCH_FS n) = m.rd (R.FE_LCH_FS n) ∧ t.rdf (R.FE_LCH_LIMIT n) = m.rd (R.FE_LCH_LIMIT n) ∧
      t.rd (R.FE_LCH_STATUS_PEND n) = 0 ∧ m.Keeps t [(R.FE_LCH_STATUS_PEND n).a, (R.FE_LCH_COUT n).a] ∧
      (∀ a, a ∉ [(R.FE_LCH_CTRL_PMODE n).a, (R.FE_LCH_FS n).a, (R.FE_LCH_LIMIT n).a] → rget t.force a = rget m.force a) ∧
      t.fe[n].lch.factAt m.mt = (if m.rd (R.FE_LCH_CTRL_LFEN n) = 1 then m.rd (R.FE_LCH_LFAC n) else 32768) ∧
      (∀ j : Fin 16, j ≠ n → t.fe[j] = m.fe[j]) ∧
      (m.rdf (R.FE_LCH_CTRL_PMODE n) = 0 → m.rd (R.FE_LCH_CTRL_PMODE n) = 1 →
        t.pins = m.pins.set n { m.pins[n] with lpwr := 0 } ∧ t.rd (R.FE_LCH_COUT n) = 0) ∧
      (m.rdf (R.FE_LCH_CTRL_PMODE n) = 1 ∨ m.rd (R.FE_LCH_CTRL_PMODE n) = 0 → t.pins = m.pins) ∧
      t = { m with regs := t.regs, force := t.force, fe := t.fe, pins := t.pins }) ∧
    (m.on (R.FE_LCH_STATUS_PEND n) = false ∨ m.fe[n].active = true → Answers (.lchPendingApply dt n) s (· = m)) ∧
    (m.almQualified n = false → Answers (.laserAlarm dt n) s (· = m) ∧ Answers (.laserAlarmInactive dt n) s (· = m)) ∧
    (m.rdyQualified n = false → ∀ a, Answers (.laserReadyChange dt n a) s (· = m)) ∧
    (m.almQualified n = true → Answers (.laserAlarm dt n) s (fun t =>
      t.fe[n].lch.alm = true ∧ t.rd (R.FE_LCH_STATUS_ALM n) = 1 ∧ t.Dark n ∧ t.inFs n = true ∧
      (m.inFs n = false → t.rd (R.FE_FAULT_CAUSE n) = 0x30 ∧ t.evt (80 + n) = 1) ∧
      (∀ j : Fin 16, j ≠ n → t.fe[j] = m.fe[j] ∧ t.pins[j] = m.pins[j]) ∧ t.mem = m.mem ∧ t.axis = m.axis) ∧
    Answers (.laserAlarmInactive dt n) s (fun t =>
      t.fe[n] = { m.fe[n] with lch := { l with alm := false, almAt := some m.mt } } ∧ t.rd (R.FE_LCH_STATUS_ALM n) = 0 ∧
      (∀ j : Fin 16, j ≠ n → t.fe[j] = m.fe[j]) ∧ m.Keeps t [(R.FE_LCH_STATUS_ALM n).a] ∧
      t = { m with fe := t.fe, regs := t.regs })) ∧
    (∀ a : Bool, m.rdyQualified n = true → (l.rdy = false ∨ a = true ∨ l.gintAt' m.mt = false) → Answers (.laserReadyChange dt n a) s fun t =>
      t.fe[n] = { m.fe[n] with lch := { l with rdy := a, rdyAt := some m.mt } } ∧ t.rd (R.FE_LCH_STATUS_RDY n) = bool01 a ∧
      (∀ j : Fin 16, j ≠ n → t.fe[j] = m.fe[j]) ∧ m.Keeps t [(R.FE_LCH_STATUS_RDY n).a] ∧
      t = { m with fe := t.fe, regs := t.regs }) ∧
    (m.rdyQualified n = true → l.rdy = true → l.gintAt' m.mt = true → m.inFs n = false → Answers (.laserReadyChange dt n false) s fun t =>
      t.rd (R.FE_LCH_STATUS_RDY n) = 0 ∧ t.inFs n = true ∧ t.rd (R.FE_FAULT_CAUSE n) = 0x31 ∧ t.Dark n ∧
      (∀ j : Fin 16, j ≠ n → t.fe[j] = m.fe[j])) ∧
    (m.pdChecked n = false → Answers (.pdCheck dt n) s (· = m)) ∧
    (m.pdChecked n = true →
      (m.pdFails n = false → Answers (.pdCheck dt n) s fun t =>
        t.rd (R.FE_LCH_STATUS_PDCNT n) = 0 ∧ m.OnlyRegs t [(R.FE_LCH_STATUS_PDCNT n).a]) ∧
      (m.pdFails n = true → m.rd (R.FE_LCH_STATUS_PDCNT n) + 1 ≠ m.rd (R.FE_LCH_PDCHK_PDN n) →
        Answers (.pdCheck dt n) s fun t =>
          t.rd (R.FE_LCH_STATUS_PDCNT n) = min (m.rd (R.FE_LCH_STATUS_PDCNT n) + 1) 255 ∧
          m.OnlyRegs t [(R.FE_LCH_STATUS_PDCNT n).a]) ∧
      (m.pdFails n = true → m.rd (R.FE_LCH_STATUS_PDCNT n) + 1 = m.rd (R.FE_LCH_PDCHK_PDN n) → m.inFs n = false →
        Answers (.pdCheck dt n) s fun t =>
          t.rd (R.FE_LCH_STATUS_PDCNT n) = m.rd (R.FE_LCH_PDCHK_PDN n) ∧ t.inFs n = true ∧
          t.rd (R.FE_FAULT_CAUSE n) = 0x32 ∧ t.Dark n))

/-- R221, R265 to R270, R274. -/
def Obligations.LedgerDepositsSweepAndFactors : Prop :=
  ∀ (s : State) (dt : Nat) (m : Mach), m = s.at dt →
    (∀ (n : Fin 16) (st : PState) (a : Nat) (b c : Int × Int), st = (m.fe[n].ctx[m.fe[n].owner.getD m.fe[n].lastOwner]).ret →
      a = m.depositAmount n → b = m.bedAt n (m.mt - 1000) → c = m.cellXY b.1 b.2 →
      (m.mt % 2000 ≠ 0 ∨ m.mt < 2000 ∨ st.dep = false ∨ m.rd R.HLD_CTRL = 0 ∨ a = 0 → Answers (.hldDeposit dt n) s (· = m)) ∧
      (m.mt % 2000 = 0 → 2000 ≤ m.mt → st.dep = true → m.rd R.HLD_CTRL = 1 → a ≠ 0 →
        (∀ k, m.cellIx c.1 c.2 = some k → st.k3 = false → Answers (.hldDeposit dt n) s fun t =>
          t.ledger.cell k = cellWord (min (m.energy k m.mt + a) 65535) (coarse m.mt) ∧
          (∀ j, j ≠ k → t.ledger.cell j = m.ledger.cell j) ∧
          (m.energy k m.mt + a ≤ 65535 → t = { m with ledger := t.ledger }) ∧
          (65535 < m.energy k m.mt + a → t.rd R.HLD_SAT = min (m.rd R.HLD_SAT + 1) (2 ^ 32 - 1) ∧ t.rd R.HLD_STATUS_SATF = 1 ∧
            (m.raisedThisTick 158 = false → t.evt 158 = 1) ∧ m.Keeps t ([R.HLD_SAT.a, R.HLD_STATUS_SATF.a] ++ raiseRegs 158))) ∧
        (∀ k side, m.cellIx c.1 c.2 = some k → st.k3 = true → 0 < c.1 → c.1 + 1 < m.hldNx → 0 < c.2 → c.2 + 1 < m.hldNy →
          (∀ j, m.energy j m.mt + a ≤ 65535) → side = 4 * (a / 16) + 4 * (a * 2 / 16) → Answers (.hldDeposit dt n) s fun t =>
          t.ledger.cell k = cellWord (m.energy k m.mt + (a - side)) (coarse m.mt) ∧
          (∀ w ∈ kernel3, ∀ j, m.cellIx (c.1 + w.1) (c.2 + w.2.1) = some j →
            t.ledger.cell j = cellWord (m.energy j m.mt + a * w.2.2 / 16) (coarse m.mt)) ∧
          (∀ j, j ≠ k → (∀ w ∈ kernel3, m.cellIx (c.1 + w.1) (c.2 + w.2.1) ≠ some j) → t.ledger.cell j = m.ledger.cell j) ∧
          t = { m with ledger := t.ledger }) ∧
        (m.cellIx c.1 c.2 = none → m.raisedThisTick 156 = false → Answers (.hldDeposit dt n) s fun t =>
          t.rd R.HLD_DEPOUT = min (m.rd R.HLD_DEPOUT + 1) (2 ^ 32 - 1) ∧ t.evt 156 = 1 ∧ t.ledger = m.ledger ∧
          m.Keeps t (R.HLD_DEPOUT.a :: raiseRegs 156))) ∧
      (m.mt % 2000 ≠ 0 → ∀ late, Answers (.ledgerFactorDeliver dt n late) s (· = m)) ∧
      (m.mt % 2000 = 0 →
        Answers (.ledgerFactorDeliver dt n false) s (fun t =>
          (m.rd R.HLD_CTRL = 0 ∨ m.cellOf (m.planBed n m.mt).1 (m.planBed n m.mt).2 = none → t.rd (R.FE_LCH_LFAC n) = 0x8000) ∧
          (∀ k, m.rd R.HLD_CTRL = 1 → m.cellOf (m.planBed n m.mt).1 (m.planBed n m.mt).2 = some k → m.ledger.depAt ≠ m.mt →
            t.rd (R.FE_LCH_LFAC n) = m.factorOf (m.fe[n].matAt m.mt) (m.energy k m.mt)) ∧
          (∀ k w, m.rd R.HLD_CTRL = 1 → m.cellOf (m.planBed n m.mt).1 (m.planBed n m.mt).2 = some k → m.ledger.depAt = m.mt →
            m.ledger.before.lookup k = some w → t.rd (R.FE_LCH_LFAC n) =
              m.factorOf (m.fe[n].matAt m.mt) (decayE (m.rd R.HLD_DECAY) w (coarse m.mt))) ∧
          t.fe[n].lch.factAt m.mt = (if m.rdf (R.FE_LCH_CTRL_LFEN n) = 1 then t.rd (R.FE_LCH_LFAC n) else 32768) ∧
          (∀ j : Fin 16, j ≠ n → t.fe[j] = m.fe[j]) ∧ t.fe[n].ctx = m.fe[n].ctx ∧ t.fe[n].plan = m.fe[n].plan ∧
          ({ m with fe := t.fe } : Mach).OnlyRegs t [(R.FE_LCH_LFAC n).a]) ∧
        Answers (.ledgerFactorDeliver dt n true) s (fun t =>
          t.rd (R.FE_LCH_LFLATE n) = min (m.rd (R.FE_LCH_LFLATE n) + 1) (2 ^ 32 - 1) ∧ m.OnlyRegs t [(R.FE_LCH_LFLATE n).a]))) ∧
    (∀ (j : Nat) (k : BitVec 22) (c : Nat), c = 2048 * (k.toNat / m.hldNx) + k.toNat % m.hldNx → k.toNat < m.hldNx * m.hldNy →
      (m.mt < m.sweepDueAt j k.toNat → Answers (.sweepVisit dt j k) s (· = m)) ∧
      (m.sweepDueAt j k.toNat ≤ m.mt → Answers (.sweepVisit dt j k) s fun t =>
        t.ledger.cell c = m.cellRead c m.mt ∧ (∀ i, i ≠ c → t.ledger.cell i = m.ledger.cell i) ∧
        (m.mt ≤ m.sweepDueAt j k.toNat + 800000000 → t = { m with ledger := t.ledger }) ∧
        (m.sweepDueAt j k.toNat + 800000000 < m.mt → t.evt 157 = 1 ∧
          ∀ n : Fin 16, t.rd (R.SAF_FS_STATUS_LEDOK n) = if m.inFs n then 0 else m.rd (R.SAF_FS_STATUS_LEDOK n)))) ∧
    (∀ (cell : BitVec 22) (v : Word), m.open? 0x2800000 = false →
      Answers (.ledgerWindowWrite dt cell v) s fun t => m.OnlyRegs t [R.HS_EARLY.a]) ∧
    (∀ (cell : BitVec 22) (v : Word), m.open? 0x2800000 = true →
      (m.rd R.HLD_BLK_XSTAT_UNLOCKED = 1 → m.hldNx ≤ cell.toNat % 2048 ∨ m.hldNy ≤ cell.toNat / 2048 →
        Answers (.ledgerWindowWrite dt cell v) s (· = m)) ∧
      (m.rd R.HLD_BLK_XSTAT_UNLOCKED = 1 → cell.toNat % 2048 < m.hldNx → cell.toNat / 2048 < m.hldNy →
        Answers (.ledgerWindowWrite dt cell v) s fun t =>
          t.ledger.cell cell.toNat = v ∧ (∀ j, j ≠ cell.toNat → t.ledger.cell j = m.ledger.cell j) ∧ t = { m with ledger := t.ledger }) ∧
      (m.rd R.HLD_BLK_XSTAT_UNLOCKED = 0 → Answers (.ledgerWindowWrite dt cell v) s fun t =>
        t.rd R.HLD_BLK_XSTAT_XLOCK = 1 ∧ m.OnlyRegs t [R.HLD_BLK_XSTAT_XLOCK.a]))

/-- R246, R251 to R253, R260 to R262. -/
def Obligations.GrantsNeverConflict : Prop :=
  ∀ (s : State) (dt : Nat) (m : Mach), m = s.at dt →
    (m.mt % 16000 ≠ 0 → Answers (.grantPass dt) s (· = m)) ∧
    (m.mt % 16000 = 0 → Answers (.grantPass dt) s fun t =>
      ((∀ i j : Fin 16, i ≠ j → ∀ r ∈ m.fe[i].resv, ∀ q ∈ m.fe[j].resv,
          m.conflict (sliceClaim r.slice r.box) (sliceClaim q.slice q.box) = false) →
        ∀ i j : Fin 16, i ≠ j → ∀ r ∈ t.fe[i].resv, ∀ q ∈ t.fe[j].resv,
          t.conflict (sliceClaim r.slice r.box) (sliceClaim q.slice q.box) = false) ∧
      (m.rd R.TRL_CTRL_EN = 0 → ∀ n : Fin 16, t.rd (R.FE_TRL_CLEAR_LO n) = 2 ^ 32 - 1 ∧ t.rd (R.FE_TRL_CLEAR_HI n) = 2 ^ 32 - 1) ∧
      (∀ n : Fin 16, t.fe[n] = { m.fe[n] with resv := t.fe[n].resv }) ∧
      m.Keeps t ((List.range 16).flatMap fun n =>
        [(R.FE_TRL_CLEAR_LO n).a, (R.FE_TRL_CLEAR_HI n).a, (R.FE_TRL_AGE_AGE n).a, (R.FE_TRL_DENY n).a]) ∧
      t = { m with fe := t.fe, regs := t.regs }) ∧
    (∀ (n : Fin 16) (x : Summary), m.mt % 16000 = 0 → 8000 ≤ m.mt → m.mt < 2 ^ 63 → m.rd R.TRL_CTRL_EN = 1 →
      (∀ h : Fin 16, h ≠ n → m.fe[h].summ = []) → m.fe[n].summ = [x] → m.fe[n].resv = [] → x.slice = m.mt / 16000 →
      x.pubAt + 8000 ≤ m.mt → x.goneAt = none → x.lon = true → x.ringm = false → m.rng.hist = [] →
      ((∀ h : Fin 16, h ≠ n → ∀ r ∈ m.fe[h].resv,
          m.conflict (sliceClaim x.slice (some x.box)) (sliceClaim r.slice r.box) = false) → Answers (.grantPass dt) s fun t =>
        t.fe[n].resv = [⟨x.slice, some x.box⟩] ∧ t.rd64 (R.FE_TRL_CLEAR_LO n) (R.FE_TRL_CLEAR_HI n) = m.mt + 16000 ∧
        t.rd (R.FE_TRL_AGE_AGE n) = 0 ∧ t.rd (R.FE_TRL_DENY n) = m.rd (R.FE_TRL_DENY n)) ∧
      (∀ (h : Fin 16) (r : Resv), h ≠ n → r ∈ m.fe[h].resv →
        m.conflict (sliceClaim x.slice (some x.box)) (sliceClaim r.slice r.box) = true → Answers (.grantPass dt) s fun t =>
        t.fe[n].resv = [] ∧ t.rd64 (R.FE_TRL_CLEAR_LO n) (R.FE_TRL_CLEAR_HI n) = m.mt ∧
        t.rd (R.FE_TRL_AGE_AGE n) = min (m.rd (R.FE_TRL_AGE_AGE n) + 1) 255 ∧
        t.rd (R.FE_TRL_DENY n) = min (m.rd (R.FE_TRL_DENY n) + 1) (2 ^ 32 - 1))) ∧
    (∀ (cycle : Word) (near : Int) (k : Mach), m.Quiet → near = (m.window cycle.toNat).1 →
      k = { m with rng := { m.rng with hist := m.histKeep } } →
      m.decideAt cycle.toNat ≤ m.mt → m.rd R.RNG_CTRL_CYCEN = 1 → m.ringMode ≠ 0 → cycle ∉ m.rng.decided →
      cycle.toNat % m.cycNs = 0 → m.rng.sigRecs = [] → m.rd R.TRL_CTRL_RINGEN = 1 →
      ((∀ id ∈ m.rmask, m.hasFrame cycle id = true) → m.rd R.TRL_CTRL_PTVALID = 1 → m.rng.abstainTil = none →
        Answers (.ringDecision dt cycle) s fun t =>
          t.rng.hist = k.rng.hist ++ k.windowGrants near (m.windowReqs cycle true) ∧
          ((∀ g ∈ k.rng.hist, ∀ h ∈ k.rng.hist, g.g ≠ h.g → m.conflict (ringClaim near g) (ringClaim near h) = false) →
            ∀ g ∈ t.rng.hist, ∀ h ∈ t.rng.hist, g.g ≠ h.g → t.conflict (ringClaim near g) (ringClaim near h) = false) ∧
          t.rng.decided = (cycle :: m.rng.decided).take 16 ∧ t.rd R.TRL_ABSTAIN = m.rd R.TRL_ABSTAIN ∧
          t.rd R.RNG_CYCMISS = m.rd R.RNG_CYCMISS ∧ t.signals = m.signals ∧ t.fe = m.fe ∧ t.mem = m.mem ∧ t.axis = m.axis) ∧
      ((∀ q ∈ m.rng.rx, q.cycle ≠ cycle) → (∃ id ∈ m.rmask, id ≠ m.rd R.TRL_CTRL_MODID) → m.raisedThisTick 154 = false →
        Answers (.ringDecision dt cycle) s fun t =>
          t.rng.hist = k.rng.hist ∧ t.rng.abstainTil.isSome = true ∧
          t.rd R.TRL_ABSTAIN = min (m.rd R.TRL_ABSTAIN + 1) (2 ^ 32 - 1) ∧ t.evt 154 = 1 ∧
          t.rd R.RNG_CYCMISS = min (m.rd R.RNG_CYCMISS + (m.rmask.filter fun id => !m.hasFrame cycle id).length) (2 ^ 32 - 1) ∧
          t.signals = m.signals ∧ t.fe = m.fe ∧ t.mem = m.mem ∧ t.axis = m.axis)) ∧
    (∀ cycle : Word, m.Quiet → m.mt < m.decideAt cycle.toNat ∨ m.rd R.RNG_CTRL_CYCEN = 0 ∨ m.ringMode = 0 ∨ cycle ∈ m.rng.decided ∨
        cycle.toNat % m.cycNs ≠ 0 → Answers (.ringDecision dt cycle) s (· = m))

/-- R245, R255, R263. -/
def Obligations.KeepoutTimeoutAndBooking : Prop :=
  ∀ (s : State) (dt : Nat) (m : Mach), m = s.at dt →
    (∀ (r : KoReg) (v : Word), m.open? 0xC00000 = true → Answers (.keepoutWrite dt r v) s fun t =>
      (∀ h, h = (if r = .dir then 15 else 30) → t.rd ⟨koAddr r, h, 0⟩ = bits v.toNat h 0) ∧
      t.rd R.TRL_KO_XLO = unsigned 32 (minI (t.koCorners.map (·.1)) / 2 ^ 24) ∧
      t.rd R.TRL_KO_XHI = unsigned 32 (-(-maxI (t.koCorners.map (·.1)) / 2 ^ 24)) ∧
      t.rd R.TRL_KO_YLO = unsigned 32 (minI (t.koCorners.map (·.2)) / 2 ^ 24) ∧
      t.rd R.TRL_KO_YHI = unsigned 32 (-(-maxI (t.koCorners.map (·.2)) / 2 ^ 24)) ∧
      ({ m with regs0 := t.regs0 } : Mach).OnlyRegs t
        [koAddr r, R.TRL_KO_XLO.a, R.TRL_KO_XHI.a, R.TRL_KO_YLO.a, R.TRL_KO_YHI.a]) ∧
    (∀ (r : KoReg) (v : Word), m.open? 0xC00000 = false → Answers (.keepoutWrite dt r v) s fun t => m.OnlyRegs t [R.HS_EARLY.a]) ∧
    (∀ n : Fin 16, (∀ t0, m.fe[n].dwell ≠ some (t0, 2)) → Answers (.grantTimeout dt n) s (· = m)) ∧
    (∀ (n : Fin 16) (t0 : Nat), m.fe[n].dwell = some (t0, 2) →
      (m.rd R.TRL_GTO ≠ 0 → t0 + m.rd R.TRL_GTO * 800000 ≤ m.mt → m.fe[n].gtoDone = false → Answers (.grantTimeout dt n) s fun t =>
        t.rd ⟨R.TRL_STUCK.a, n, n⟩ = 1 ∧ t.evt 152 = 1 ∧ t.fe[n] = { m.fe[n] with gtoDone := true } ∧
        (∀ j : Fin 16, j ≠ n → t.fe[j] = m.fe[j] ∧ t.rd ⟨R.TRL_STUCK.a, j, j⟩ = m.rd ⟨R.TRL_STUCK.a, j, j⟩) ∧
        m.Keeps t (R.TRL_STUCK.a :: raiseRegs 152) ∧ t = { m with fe := t.fe, regs := t.regs, out := t.out, cbk := t.cbk }) ∧
      (m.rd R.TRL_GTO = 0 ∨ m.mt < t0 + m.rd R.TRL_GTO * 800000 ∨ m.fe[n].gtoDone = true → Answers (.grantTimeout dt n) s (· = m))) ∧
    (∀ (n : Fin 16) (b : Nat), b = m.rd64 (R.FE_TRL_BOOK_LO n) (R.FE_TRL_BOOK_HI n) →
      (b ≠ 0 → b = m.mt → Answers (.bookedResume dt n) s fun t => Answers (.laserOnRunStart dt n) s (· = t)) ∧
      (b = 0 ∨ b ≠ m.mt → Answers (.bookedResume dt n) s (· = m)))

/-- R227, R280, R283, R284, R291, R292, R310. -/
def Obligations.CameraPortCommands : Prop :=
  ∀ (s : State) (dt : Nat) (p : Fin 20) (m : Mach) (c : Cam), m = s.at dt → c = m.cam[p] →
    (m.open? 0x1000000 = true →
      (∀ v : Word, bits v.toNat 0 0 = 1 →
        (m.camOn p = false → m.camLimits p v.toNat = true → Answers (.cameraEnable dt p v) s fun t =>
          t.rd (R.IMG_CAM_CTRL_EN p) = 1 ∧ t.rd (R.IMG_CAM_CTRL_LANES p) = bits v.toNat 3 1 ∧
          t.rd (R.IMG_CAM_CTRL_DT p) = bits v.toNat 5 4 ∧ t.rd (R.IMG_CAM_CTRL_VC p) = bits v.toNat 11 8 ∧
          t.rd (R.IMG_CAM_CTRL_TRIGM p) = bits v.toNat 12 12 ∧ t.rd (R.IMG_CAM_WAIT_SLOT p) = t.slotSize p ∧
          t.cam[p].open_ = none ∧ t.cam[p].trigs = c.trigs ∧ (16 ≤ p.val → t.cam[p].next = 0) ∧ t.cam[p].ring = c.ring ∧
          (∀ j : Fin 20, j ≠ p → t.cam[j] = m.cam[j]) ∧
          m.Keeps t [(R.IMG_CAM_CTRL_EN p).a, (R.IMG_CAM_WAIT_SLOT p).a] ∧
          t = { m with cam := t.cam, regs := t.regs, regs0 := t.regs0 }) ∧
        (m.camOn p = false → m.camLimits p v.toNat = false → Answers (.cameraEnable dt p v) s fun t =>
          t.rd (R.IMG_CAM_CTRL_EN p) = 0 ∧ t.rd (R.IMG_CAM_CTRL_CFGERR p) = 1 ∧
          ({ m with regs0 := t.regs0 } : Mach).OnlyRegs t [(R.IMG_CAM_CTRL_EN p).a]) ∧
        (m.camOn p = true → Answers (.cameraEnable dt p v) s fun t =>
          t.rd (R.IMG_CAM_CTRL_EN p) = 1 ∧ t.rd (R.IMG_CAM_CTRL_CFGERR p) = 1 ∧
          t.rd (R.IMG_CAM_CTRL_DT p) = m.rd (R.IMG_CAM_CTRL_DT p) ∧ m.OnlyRegs t [(R.IMG_CAM_CTRL_EN p).a])) ∧
      (m.camOn p = true → inlineBi p = none → Answers (.cameraDisable dt p) s fun t =>
        t.rd (R.IMG_CAM_CTRL_EN p) = 0 ∧ t.cam[p] = { c with open_ := none } ∧ (∀ j : Fin 20, j ≠ p → t.cam[j] = m.cam[j]) ∧
        m.Keeps t [(R.IMG_CAM_CTRL_EN p).a] ∧ t = { m with cam := t.cam, regs := t.regs }) ∧
      (16 ≤ p.val → (m.stage (.trig p)).violates (m.mt + 2000) = true → Answers (.cameraTrig dt p) s fun t =>
        t.rd (R.TIM_LATE 4) = min (m.rd (R.TIM_LATE 4) + 1) (2 ^ 16 - 1) ∧ t.rd R.TIM_LATE_LAST_ORDER = 1 ∧
        m.OnlyRaised t 20 [(R.TIM_LATE 4).a, R.TIM_LATE_LAST_CLASS.a]) ∧
      (16 ≤ p.val → (m.stage (.trig p)).violates (m.mt + 2000) = false → Answers (.cameraTrig dt p) s fun t =>
        t.stage (.trig p) = (m.stage (.trig p)).push 4 ⟨m.mt + 2000, .pulse⟩ ∧ (∀ e, e ≠ .trig p → t.stage e = m.stage e) ∧
        t = { m with stages := t.stages }) ∧
      (p.val < 16 → Answers (.cameraTrig dt p) s (· = m))) ∧
    (∀ d rest, c.trigs = d :: rest →
      (m.mt ≤ d + m.twin p → Answers (.triggerDiscard dt p) s (· = m)) ∧
      (d + m.twin p < m.mt → p.val < 16 → Answers (.triggerDiscard dt p) s fun t =>
        t.cam[p] = { c with trigs := rest, lost := true } ∧ (∀ j : Fin 20, j ≠ p → t.cam[j] = m.cam[j]) ∧ t = { m with cam := t.cam }) ∧
      (d + m.twin p < m.mt → 16 ≤ p.val → m.raisedThisTick 130 = false → Answers (.triggerDiscard dt p) s fun t =>
        t.cam[p] = { c with trigs := rest } ∧ (∀ j : Fin 20, j ≠ p → t.cam[j] = m.cam[j]) ∧
        t.rd (R.IMG_CAM_TRIGLOST p) = min (m.rd (R.IMG_CAM_TRIGLOST p) + 1) (2 ^ 32 - 1) ∧ t.evt 130 = 1 ∧
        m.Keeps t ((R.IMG_CAM_TRIGLOST p).a :: raiseRegs 130))) ∧
    (m.raisedThisTick 135 = false → Answers (.dphySyncError dt p) s fun t =>
      t.evt 135 = 1 ∧ m.Keeps t (raiseRegs 135) ∧ t.cam = m.cam ∧ t.mem = m.mem)

/-- R281, R282, R285 to R287, R290, R292, R293. -/
def Obligations.CameraFrames : Prop :=
  ∀ (s : State) (dt : Nat) (p : Fin 20) (m : Mach) (c : Cam), m = s.at dt → c = m.cam[p] →
    (m.camOn p = false →
      Answers (.cameraFrameStart dt p) s (· = m) ∧ Answers (.cameraFrameEnd dt p) s (· = m) ∧
      ∀ k, Answers (.csiPacketReceive dt p k) s (· = m)) ∧
    (m.camOn p = true → c.open_ = none →
      (inlineBi p = none → Answers (.cameraFrameStart dt p) s fun t =>
        (∃ f, t.cam[p].open_ = some f ∧ f.mtFs = m.mt ∧ f.lines = [] ∧ f.closed = false ∧
          f.width = m.rd (R.IMG_CAM_GEOM_WIDTH p) ∧ f.height = m.rd (R.IMG_CAM_GEOM_HEIGHT p) ∧ f.fmt = m.rd (R.IMG_CAM_CTRL_DT p) ∧
          (16 ≤ p.val → f.num = c.next)) ∧
        t.cam[p].next = c.next + 1 ∧ t.cam[p].ring = c.ring ∧ (∀ j : Fin 20, j ≠ p → t.cam[j] = m.cam[j]) ∧
        t = { m with cam := t.cam, free := m.free + 1 }) ∧
      (∀ b : Fin 2, inlineBi p = some b → m.bi[b].cur = none → (∀ k, m.setDue b k = false) →
        Answers (.cameraFrameStart dt p) s fun t =>
          (∃ f j, t.cam[p].open_ = some f ∧ f.num = c.next ∧ t.bi[b].cur = some j ∧ j.frame = f ∧ j.bank = 0) ∧
          t.rd (R.IMG_BI_STATUS_BUSY b) = 1 ∧ t.rd (R.IMG_BI_STATUS_PORT b) = p ∧
          (∀ k : Fin 2, k ≠ b → t.bi[k] = m.bi[k]) ∧ m.Keeps t [(R.IMG_BI_STATUS_BUSY b).a] ∧ t.mem = m.mem)) ∧
    (∀ (f g : Frame) (miss : Bool) (k : Instr), c.open_ = some f → 18 ≤ p.val → m.camOn p = true →
      (k = .cameraFrameEnd dt p ∧ miss = false) ∨
        (k = .frameTimeout dt p ∧ miss = true ∧ m.rd (R.IMG_CAM_FTO p) ≠ 0 ∧ f.lastPkt + m.rd (R.IMG_CAM_FTO p) * 800 ≤ m.mt) →
      g = f.close m.mt miss → f.linesRx < 65536 → f.lmin < 65536 → f.lmax < 65536 → Answers k s fun t =>
        t.cam[p].open_ = none ∧ t.rd (R.IMG_CAM_FRAMES p) = min (m.rd (R.IMG_CAM_FRAMES p) + 1) (2 ^ 32 - 1) ∧
        t.rd (R.IMG_CAM_LAST p) = f.num.toNat ∧ t.rd (R.IMG_CAM_LASTG_GEOMF p) = g.flags.code ∧
        t.rd (R.IMG_CAM_LASTG_LINESRX p) = f.linesRx ∧ t.rd (R.IMG_CAM_LASTL_LMIN p) = f.lmin ∧ t.rd (R.IMG_CAM_LASTL_LMAX p) = f.lmax ∧
        (g.flags.frameShort = true ↔ f.linesRx < f.height) ∧ (miss = true → g.flags.femiss = true) ∧
        t.rd (R.IMG_CAM_MISMATCH p) = (if g.flags.code = 0 then m.rd (R.IMG_CAM_MISMATCH p) else
          min (m.rd (R.IMG_CAM_MISMATCH p) + 1) (2 ^ 32 - 1)) ∧
        (g.flags.code ≠ 0 → m.raisedThisTick 128 = false → t.evt 128 = 1) ∧
        (c.ring.length < 4 → t.cam[p].ring = c.ring ++ [{ g.stored with slot := freeSlot c.ring c.ringSlot }] ∧
          t.rd (R.IMG_CAM_DROP p) = m.rd (R.IMG_CAM_DROP p) ∧
          ∀ a, a < m.addr (R.IMG_CAM_WAIT_BASE_LO p) (R.IMG_CAM_WAIT_BASE_HI p) +
              m.rd (R.IMG_CAM_WAIT_SLOT p) * freeSlot c.ring c.ringSlot ∨
            m.addr (R.IMG_CAM_WAIT_BASE_LO p) (R.IMG_CAM_WAIT_BASE_HI p) +
              m.rd (R.IMG_CAM_WAIT_SLOT p) * freeSlot c.ring c.ringSlot + g.encode.length ≤ a → t.byte a = m.byte a) ∧
        (4 ≤ c.ring.length → t.cam[p].ring = c.ring ∧ t.rd (R.IMG_CAM_DROP p) = min (m.rd (R.IMG_CAM_DROP p) + 1) (2 ^ 32 - 1) ∧
          (m.raisedThisTick 129 = false → t.evt 129 = 1) ∧ t.mem = m.mem) ∧
        (∀ j : Fin 20, j ≠ p → t.cam[j] = m.cam[j]) ∧ t.bi = m.bi ∧ t.pool = m.pool) ∧
    (∀ f, c.open_ = some f → m.rd (R.IMG_CAM_FTO p) = 0 ∨ m.mt < f.lastPkt + m.rd (R.IMG_CAM_FTO p) * 800 →
      Answers (.frameTimeout dt p) s (· = m)) ∧
    (∀ (f : Frame) (k : CsiPacket), m.camOn p = true → c.open_ = some f →
      (k.headerBad = true → Answers (.csiPacketReceive dt p k) s fun t =>
        t.rd (R.IMG_CAM_PKTDROP p) = min (m.rd (R.IMG_CAM_PKTDROP p) + 1) (2 ^ 32 - 1) ∧
        t.cam[p] = { c with open_ := some { f with flags := { f.flags with pktLost := true } } } ∧
        (∀ j : Fin 20, j ≠ p → t.cam[j] = m.cam[j]) ∧ m.Keeps t [(R.IMG_CAM_PKTDROP p).a] ∧ t = { m with cam := t.cam, regs := t.regs }) ∧
      (k.headerBad = false → k.headerFixed = false →
        (k.vc.toNat ≠ m.rd (R.IMG_CAM_CTRL_VC p) → Answers (.csiPacketReceive dt p k) s fun t =>
          t.rd (R.IMG_CAM_VCOTHER p) = min (m.rd (R.IMG_CAM_VCOTHER p) + 1) (2 ^ 32 - 1) ∧ m.OnlyRegs t [(R.IMG_CAM_VCOTHER p).a]) ∧
        (k.vc.toNat = m.rd (R.IMG_CAM_CTRL_VC p) →
          (k.dtype.toNat = 0x2A + m.camFmt p → Answers (.csiPacketReceive dt p k) s fun t =>
            t.cam[p] = { c with open_ := some (Frame.addLine { f with lastPkt := m.mt }
              (unpackLine f.fmt (k.payload.length + 1) k.payload) (m.padCode p) k.crcBad) } ∧
            (∀ j : Fin 20, j ≠ p → t.cam[j] = m.cam[j]) ∧ t = { m with cam := t.cam }) ∧
          (2 ≤ k.dtype.toNat → k.dtype.toNat < 0x10 ∨ k.dtype.toNat = 0x12 → Answers (.csiPacketReceive dt p k) s fun t =>
            t.cam[p] = { c with open_ := some { f with lastPkt := m.mt } } ∧ (∀ j : Fin 20, j ≠ p → t.cam[j] = m.cam[j]) ∧
            t = { m with cam := t.cam }) ∧
          (0x10 ≤ k.dtype.toNat → k.dtype.toNat ≠ 0x12 → k.dtype.toNat ≠ 0x2A + m.camFmt p →
            Answers (.csiPacketReceive dt p k) s fun t =>
              t.rd (R.IMG_CAM_PKTDROP p) = min (m.rd (R.IMG_CAM_PKTDROP p) + 1) (2 ^ 32 - 1) ∧
              t.cam[p] = { c with open_ := some { f with lastPkt := m.mt } } ∧ m.Keeps t [(R.IMG_CAM_PKTDROP p).a]))))

/-- R180, R230 to R232, R295, R297, R300, R301. -/
def Obligations.PoolRecordsAndImageProcessors : Prop :=
  (∀ (s : State) (dt : Nat) (n : Fin 16) (m : Mach), m = s.at dt →
    (m.pool[n].pend = [] → Answers (.poolRecordDeliver dt n) s (· = m)) ∧
    (∀ r rest, m.pool[n].pend = r :: rest → m.raisedThisTick (112 + n) = false → (∀ k : Fin 160, m.runs k = false) → r.encode.length = 256 →
      Answers (.poolRecordDeliver dt n) s fun t =>
        t.pool[n] = { m.pool[n] with pend := rest, flags := if r.inv = 0 then r.pflag else m.pool[n].flags } ∧
        t.rd (R.IMG_PP_LAST_FRAME n) = r.frame.toNat ∧
        t.rd (R.IMG_PP_LAST_VALID n) = (if r.inv = 0 then r.frame.toNat else m.rd (R.IMG_PP_LAST_VALID n)) ∧
        (r.inv.getLsbD 2 = true → t.evt (112 + n) = 1) ∧
        (∀ A z, z = 2 ^ (8 + m.rd (R.IMG_PP_REC_SIZE n)) →
          A = m.addr (R.IMG_PP_REC_BASE_LO n) (R.IMG_PP_REC_BASE_HI n) + 256 * m.rd (R.IMG_PP_REC_WPTR n) → m.rd (R.IMG_PP_CTRL_RECEN n) = 1 →
          (ringFull z (m.rd (R.IMG_PP_REC_WPTR n)) (m.rd (R.IMG_PP_REC_RPTR n)) = false →
            t.rd (R.IMG_PP_REC_WPTR n) = (m.rd (R.IMG_PP_REC_WPTR n) + 1) % z ∧
            (m.unbacked A = false → m.unbacked (A + 128) = false → t.bytes A 256 = r.encode) ∧
            ∀ a, a < A ∨ A + 256 ≤ a → t.byte a = m.byte a) ∧
          (ringFull z (m.rd (R.IMG_PP_REC_WPTR n)) (m.rd (R.IMG_PP_REC_RPTR n)) = true →
            t.rd (R.IMG_PP_REC_LOST n) = min (m.rd (R.IMG_PP_REC_LOST n) + 1) (2 ^ 32 - 1) ∧ t.evt (112 + n) = 1 ∧ t.mem = m.mem)) ∧
        (m.rd (R.IMG_PP_CTRL_RECEN n) = 0 → t.mem = m.mem ∧
          m.Keeps t ([(R.IMG_PP_LAST_FRAME n).a, (R.IMG_PP_LAST_VALID n).a] ++ raiseRegs (112 + n))) ∧
        (∀ j : Fin 16, j ≠ n → t.pool[j] = m.pool[j]) ∧ t.slot = m.slot ∧ t.fe = m.fe) ∧
    (∀ (r : PoolRec) (rest : List PoolRec) (k : Fin 160), m.pool[n].pend = r :: rest → m.runs k = true → m.frameSlot k = true →
      m.slotField k = n → m.slot[k].firstTk ≤ m.mt → m.slot[k].exec = [] → m.slot[k].stopAt = none → m.slot[k].swapReq = none →
      (∀ j : Fin 160, j ≠ k → m.runs j = false) → Answers (.poolRecordDeliver dt n) s fun t =>
        (∃ e, t.slot[k] = { m.slot[k] with exec := [e], lastTk := some m.mt } ∧ e.tk = m.mt ∧ e.ready = m.mt) ∧
        (∀ j : Fin 160, j ≠ k → t.slot[j] = m.slot[j]))) ∧
  (∀ (s : State) (dt : Nat) (b : Fin 2) (m : Mach), m = s.at dt →
    (m.bi[b].cur.isSome = true ∨ m.biPick b = none ∨ (b = 1 ∧ m.bi0Takes = true) → Answers (.biTakeFrame dt b) s (· = m)) ∧
    (∀ f bank, m.bi[b].cur = none → (b = 1 → m.bi0Takes = false) → m.biPick b = some (f, bank) → (∀ k, m.setDue b k = false) →
      Answers (.biTakeFrame dt b) s fun t =>
        (∃ j, t.bi[b] = { m.bi[b] with cur := some j } ∧ j.frame = { f with taken := true } ∧ j.bank = bank) ∧
        t.rd (R.IMG_BI_STATUS_BUSY b) = 1 ∧ t.rd (R.IMG_BI_STATUS_PORT b) = f.port ∧
        t.cam[f.port].ring = m.cam[f.port].ring.map (fun q => if q.slot = f.slot then { f with taken := true } else q) ∧
        (∀ j : Fin 20, j ≠ f.port → t.cam[j] = m.cam[j]) ∧ (∀ k : Fin 2, k ≠ b → t.bi[k] = m.bi[k]) ∧
        m.Keeps t [(R.IMG_BI_STATUS_BUSY b).a] ∧ t = { m with cam := t.cam, bi := t.bi, regs := t.regs }) ∧
    ((∀ j, m.bi[b].cur = some j → j.frame.closed = false) → Answers (.biFrameComplete dt b) s (· = m)) ∧
    (∀ j z, m.bi[b].cur = some j → j.frame.closed = true → (∀ k, k < 4 → j.streams b k = false) → z = 2 ^ (2 + m.rd (R.IMG_BI_STSIZE b)) →
      Answers (.biFrameComplete dt b) s fun t =>
        t.rd (R.IMG_BI_FRAMES b) = min (m.rd (R.IMG_BI_FRAMES b) + 1) (2 ^ 32 - 1) ∧
        t.bi[b] = { m.bi[b] with cur := m.bi[b].susp, susp := none } ∧
        t.rd (R.IMG_BI_STATUS_BUSY b) = bool01 m.bi[b].susp.isSome ∧
        (j.frame.taken = true → t.cam[j.frame.port].ring = m.cam[j.frame.port].ring.filter fun q => !(q.slot == j.frame.slot && q.taken)) ∧
        (ringFull z (m.rd (R.IMG_BI_STWPTR b)) (m.rd (R.IMG_BI_STRPTR b)) = true →
          t.rd (R.IMG_BI_STLOST b) = min (m.rd (R.IMG_BI_STLOST b) + 1) (2 ^ 32 - 1) ∧ t.mem = m.mem) ∧
        (ringFull z (m.rd (R.IMG_BI_STWPTR b)) (m.rd (R.IMG_BI_STRPTR b)) = false →
          t.rd (R.IMG_BI_STWPTR b) = (m.rd (R.IMG_BI_STWPTR b) + 1) % z ∧ (m.raisedThisTick (133 + b) = false → t.evt (133 + b) = 1)) ∧
        (∀ k : Fin 2, k ≠ b → t.bi[k] = m.bi[k])) ∧
    (∀ x, m.open? 0x1000000 = true → (setIx x).1 = b → m.bi[b].commits.length = 7 → Answers (.shadowCommit dt x) s fun t =>
      t.rd (commitBit b (setIx x).2) = 1 ∧ (t.bi[b].commits).getD (setIx x).2 none = some m.mt ∧
      (∀ k, k ≠ (setIx x).2 → (t.bi[b].commits).getD k none = (m.bi[b].commits).getD k none) ∧ t.force = m.force ∧
      (∀ k : Fin 2, k ≠ b → t.bi[k] = m.bi[k]) ∧ m.Keeps t [(commitBit b (setIx x).2).a] ∧ t = { m with bi := t.bi, regs := t.regs }))

/-- R316 to R321, R326. -/
def Obligations.FlipsFencesAndBoundaries : Prop :=
  ∀ (s : State) (dt : Nat) (m : Mach), m = s.at dt → m.cmp.pendAt.length = 8 → m.cmp.fence.length = 8 →
    (∀ mask : Byte, m.open? 0x1400000 = true → Answers (.cmpFlipRequest dt mask) s fun t =>
      (∀ l, l < 8 → t.cmp.pendAt.getD l none =
        if mask.getLsbD l then some ((m.cmp.pendAt.getD l none).getD m.mt) else m.cmp.pendAt.getD l none) ∧
      (∀ l, l < 8 → t.rd (R.CMP_LY_STATUS_PENDING l) = if mask.getLsbD l then 1 else m.rd (R.CMP_LY_STATUS_PENDING l)) ∧
      t.rd R.CMP_FLIP = m.rd R.CMP_FLIP ||| mask.toNat ∧
      m.Keeps t (R.CMP_FLIP.a :: (List.range 8).map fun l => (R.CMP_LY_STATUS_PENDING l).a) ∧ t = { m with cmp := t.cmp, regs := t.regs }) ∧
    (m.rd R.CMP_CTRL_EN = 0 → Answers (.fenceRead dt) s (· = m) ∧ Answers (.frameBoundary dt) s (· = m)) ∧
    (m.rd R.CMP_CTRL_EN = 1 →
      (m.pstate ≠ 2 → (∀ l, l < 8 → m.poisoned (m.rd (R.CMP_LY_FENCE_LO l) * 4 + m.rd (R.CMP_LY_FENCE_HI l) * 2 ^ 32) 4 = false) →
        Answers (.fenceRead dt) s fun t =>
          (∀ l, l < 8 → t.cmp.fence.getD l none =
            if (m.cmp.pendAt.getD l none).isSome ∧ m.cmp.fence.getD l none = none then
              some (fenceOk (m.rd (R.CMP_LY_CTRL_FMODE l))
                (m.le (m.rd (R.CMP_LY_FENCE_LO l) * 4 + m.rd (R.CMP_LY_FENCE_HI l) * 2 ^ 32) 4) (m.rd (R.CMP_LY_FVAL l)))
            else m.cmp.fence.getD l none) ∧
          t = { m with cmp := t.cmp }) ∧
      (m.rd R.CMP_WB_CTRL_EN = 0 →
        ((∀ l, m.cmp.pendAt.getD l none = none) → Answers (.frameBoundary dt) s fun t =>
          t.rd R.CMP_FRAME = (m.rd R.CMP_FRAME + 1) % 2 ^ 32 ∧ t.rd64 R.CMP_FRAME_MT_LO R.CMP_FRAME_MT_HI = m.mt % 2 ^ 64 ∧
          (∀ fl, m.cmp.flatNew = some fl → t.cmp.flat = some fl ∧ t.rd R.CMP_STATUS_FLATUSE = 1) ∧
          (m.cmp.flatNew = none → t.cmp.flat = m.cmp.flat) ∧ t.force = m.force ∧
          m.Keeps t [R.CMP_FRAME.a, R.CMP_FRAME_MT_LO.a, R.CMP_FRAME_MT_HI.a, R.CMP_STATUS_FLATUSE.a] ∧
          t = { m with cmp := t.cmp, regs := t.regs }) ∧
        (∀ l t0 e, l < 8 → (∀ k, k ≠ l → m.cmp.pendAt.getD k none = none) → m.cmp.pendAt.getD l none = some t0 → t0 < m.mt →
          e = (layerCfg m.regs l).refuse (m.zposUsed l) →
          ((m.cmp.fence.getD l none).getD (m.rd (R.CMP_LY_CTRL_FMODE l) == 0) = true → Answers (.frameBoundary dt) s fun t =>
            t.rd R.CMP_FRAME = (m.rd R.CMP_FRAME + 1) % 2 ^ 32 ∧ t.cmp.pendAt.getD l (some 0) = none ∧
            t.rd (R.CMP_LY_STATUS_PENDING l) = 0 ∧ (∀ k, k < 8 → k ≠ l → t.layer k = m.layer k) ∧
            (e = 0 → t.layer l = layerCfg m.regs l ∧ t.rd (R.CMP_LY_STATUS_SHOWN l) = bool01 (layerCfg m.regs l).en ∧ t.evt 136 = 1) ∧
            (e ≠ 0 → t.layer l = m.layer l ∧ t.rd (R.CMP_LY_STATUS_REFUSED l) = 1 ∧ t.rd (R.CMP_LY_STATUS_REFCODE l) = e ∧
              t.evt 138 = 1) ∧ t.mem = m.mem ∧ t.fe = m.fe) ∧
          ((m.cmp.fence.getD l none).getD (m.rd (R.CMP_LY_CTRL_FMODE l) == 0) = false → m.raisedThisTick 137 = false →
            Answers (.frameBoundary dt) s fun t =>
              t.rd R.CMP_FRAME = (m.rd R.CMP_FRAME + 1) % 2 ^ 32 ∧ t.cmp.pendAt = m.cmp.pendAt ∧ t.force = m.force ∧
              t.rd (R.CMP_LATE l) = min (m.rd (R.CMP_LATE l) + 1) (2 ^ 32 - 1) ∧ t.evt 137 = 1 ∧ t.mem = m.mem)))) ∧
    (∀ l : Fin 8, m.open? 0x1400000 = true →
      (m.cmp.run.contains l.val = true → m.rd R.CMP_STATUS_FLATERR = 0 → Answers (.dirtyWrite dt l) s fun t =>
        t.rd (R.CMP_LY_DIRTY l) = 1 ∧ t.rd R.CMP_STATUS_FLATUSE = 0 ∧ t.cmp.flat = none ∧ t.cmp.flattening = true ∧
        m.Keeps t [(R.CMP_LY_DIRTY l).a, R.CMP_STATUS_FLATUSE.a] ∧ t = { m with cmp := t.cmp, regs := t.regs }) ∧
      (m.cmp.run.contains l.val = false ∨ m.rd R.CMP_STATUS_FLATERR ≠ 0 → Answers (.dirtyWrite dt l) s (· = m))) ∧
    (m.cmp.flattening = false → Answers (.flattenComplete dt) s (· = m)) ∧
    (m.cmp.flattening = true → Answers (.flattenComplete dt) s fun t =>
      t.cmp.flattening = false ∧ (∃ fl, t.cmp.flatNew = some fl ∧ fl.map (·.layer) = m.cmp.run) ∧ t.cmp.flat = m.cmp.flat ∧
      (∀ l ∈ m.cmp.run, t.rd (R.CMP_LY_DIRTY l) = 0) ∧ m.Keeps t (m.cmp.run.map fun l => (R.CMP_LY_DIRTY l).a) ∧
      t = { m with cmp := t.cmp, regs := t.regs })

/-- R311, R315, R325, R448. -/
def Obligations.OutputLines : Prop :=
  ∀ (s : State) (dt : Nat) (y : BitVec 14) (m : Mach) (late : Byte), m = s.at dt →
    (m.rd R.CMP_CTRL_EN = 0 ∨ m.rd R.CMP_V_VACT ≤ y.toNat → Answers (.lineOutput dt y late) s (· = m)) ∧
    (m.rd R.CMP_CTRL_EN = 1 → y.toNat < m.rd R.CMP_V_VACT →
      (m.pstate = 2 → Answers (.lineOutput dt y late) s fun t =>
        t.out = (if m.rd R.CMP_DP_STATUS_TRAINED = 1 then
          [.line y.toNat (List.replicate (m.rd R.CMP_H_HACT) (sendPx (m.rd R.CMP_DP_CTRL_BPC) m.background))] else []) ++ m.out ∧
        t = { m with out := t.out }) ∧
      (∀ l r, m.pstate ≠ 2 → m.stack = [l] → m.cmp.flat = none → m.layerLine l y.toNat = some r → (m.frameTiles y.toNat).tilesBad l y.toNat = 0 →
        late.getLsbD l = false → Answers (.lineOutput dt y late) s fun t =>
          t = { m with out := (if m.rd R.CMP_DP_STATUS_TRAINED = 1 then
            [.line y.toNat ((List.range (m.rd R.CMP_H_HACT)).map fun x => sendPx (m.rd R.CMP_DP_CTRL_BPC)
              (if r.1 ≤ x ∧ x < r.1 + r.2.2.length then blendPx r.2.1 (r.2.2.getD (x - r.1) ⟨0, 0, 0, 0⟩) m.background
               else m.background))] else []) ++ m.out, cmp := { m.cmp with itcNext := t.cmp.itcNext } }) ∧
      (∀ l, m.pstate ≠ 2 → m.stack = [l] → m.cmp.flat = none → (m.layerLine l y.toNat).isSome = true → late.getLsbD l = true →
        m.raisedThisTick 139 = false → Answers (.lineOutput dt y late) s fun t =>
          t.rd R.CMP_UNDERRUN = min (m.rd R.CMP_UNDERRUN + 1) (2 ^ 32 - 1) ∧ t.evt 139 = 1 ∧
          (m.rd R.CMP_DP_STATUS_TRAINED = 1 → t.out.head? =
            some (.line y.toNat (List.replicate (m.rd R.CMP_H_HACT) (sendPx (m.rd R.CMP_DP_CTRL_BPC) m.background)))) ∧
          m.Keeps t (R.CMP_UNDERRUN.a :: raiseRegs 139) ∧ t.cmp = { m.cmp with itcNext := t.cmp.itcNext } ∧ t.mem = m.mem))

/-- R322, R323, R328. -/
def Obligations.DisplayLinkCommands : Prop :=
  ∀ (s : State) (dt : Nat) (m : Mach), m = s.at dt →
    (m.open? 0x1400000 = true →
      (m.rd R.CMP_CTRL_EN = 1 → Answers (.timingEnable dt) s (· = m)) ∧
      (m.rd R.CMP_CTRL_EN = 0 → m.timingOk = true → Answers (.timingEnable dt) s fun t =>
        t.rd R.CMP_CTRL_EN = 1 ∧ m.OnlyRegs t [R.CMP_CTRL_EN.a]) ∧
      (m.rd R.CMP_CTRL_EN = 0 → m.timingOk = false → Answers (.timingEnable dt) s fun t =>
        t.rd R.CMP_CTRL_EN = 0 ∧ t.rd R.CMP_CTRL_CFGERR = 1 ∧ m.OnlyRegs t [R.CMP_CTRL_EN.a]) ∧
      (m.rd R.CMP_DP_CTRL_EN = 1 → Answers (.dpEnable dt) s (· = m)) ∧
      (m.rd R.CMP_DP_CTRL_EN = 0 → Answers (.dpEnable dt) s fun t =>
        t.rd R.CMP_DP_CTRL_EN = 1 ∧ t.rd R.CMP_DP_STATUS_TRAINED = 0 ∧ m.Keeps t [R.CMP_DP_CTRL_EN.a, R.CMP_DP_STATUS_HPD.a] ∧
        t = { m with cmp := { m.cmp with training := true }, regs := t.regs }) ∧
      Answers (.dpRetrain dt) s (fun t =>
        t.rd R.CMP_DP_STATUS_TRAINED = 0 ∧ t.rd R.CMP_DP_STATUS_HPD = m.rd R.CMP_DP_STATUS_HPD ∧
        m.Keeps t [R.CMP_DP_STATUS_HPD.a] ∧ t = { m with cmp := { m.cmp with training := true }, regs := t.regs }) ∧
      (∀ v : Word, m.rd R.CMP_DP_AUX_CMD_GO = 1 → Answers (.auxGo dt v) s (· = m)) ∧
      (∀ v : Word, m.rd R.CMP_DP_AUX_CMD_GO = 0 → bits v.toNat 31 31 = 1 → Answers (.auxGo dt v) s fun t =>
        t.rd R.CMP_DP_AUX_CMD_GO = 1 ∧ t.rd R.CMP_DP_AUX_CMD_REQ = bits v.toNat 3 0 ∧
        t.rd R.CMP_DP_AUX_CMD_ADDR = bits v.toNat 23 4 ∧ t.rd R.CMP_DP_AUX_CMD_LEN = bits v.toNat 27 24 ∧
        t.out = .aux v :: m.out ∧ m.Keeps t [R.CMP_DP_AUX_CMD_GO.a] ∧ t = { m with regs := t.regs, regs0 := t.regs0, out := t.out })) ∧
    (m.rd R.CMP_DP_AUX_CMD_GO = 0 → ∀ r d, Answers (.auxReply dt r d) s (· = m)) ∧
    (∀ (r : BitVec 2) (d : List Byte), m.rd R.CMP_DP_AUX_CMD_GO = 1 → d.length ≤ 16 → Answers (.auxReply dt r d) s fun t =>
      t.rd R.CMP_DP_AUX_CMD_GO = 0 ∧ t.rd R.CMP_DP_AUX_STAT = r.toNat ∧
      (r = 0 → ((List.range 4).flatMap fun i => leBytes 4 (t.rd (R.CMP_DP_AUX_DATA i))).take d.length = d) ∧
      (r ≠ 0 → ∀ i, t.rd (R.CMP_DP_AUX_DATA i) = m.rd (R.CMP_DP_AUX_DATA i)) ∧
      m.OnlyRegs t ([R.CMP_DP_AUX_CMD_GO.a, R.CMP_DP_AUX_STAT.a] ++ (List.range 4).map fun i => (R.CMP_DP_AUX_DATA i).a)) ∧
    (∀ v : Bool, m.on R.CMP_DP_STATUS_HPD = v → Answers (.hpdChange dt v) s (· = m)) ∧
    (∀ v : Bool, m.on R.CMP_DP_STATUS_HPD = !v → Answers (.hpdChange dt v) s fun t =>
      t.rd R.CMP_DP_STATUS_HPD = bool01 v ∧ t.rd R.CMP_DP_STATUS_TRAINED = 0 ∧ t.cmp = { m.cmp with training := v } ∧
      (v = false → t.rd R.CMP_DP_STATUS_RATE = 0 ∧ t.rd R.CMP_DP_STATUS_LANES = 0) ∧
      ({ m with cmp := t.cmp } : Mach).OnlyRaised t 142 [R.CMP_DP_STATUS_HPD.a]) ∧
    (m.cmp.training = false → ∀ r, Answers (.linkTrainingComplete dt r) s (· = m)) ∧
    (m.cmp.training = true →
      Answers (.linkTrainingComplete dt none) s (fun t =>
        t.cmp = { m.cmp with training := false } ∧ t.rd R.CMP_DP_STATUS_TRAINED = 0 ∧ t.rd R.CMP_DP_STATUS_LANES = 0 ∧
        ({ m with cmp := t.cmp } : Mach).OnlyRaised t 142 [R.CMP_DP_STATUS_HPD.a]) ∧
      ∀ (r : Fin 3) (l : BitVec 3),
        (m.linkAllowed r l.toNat = true → m.linkCarries r l.toNat = true → Answers (.linkTrainingComplete dt (some (r, l))) s fun t =>
          t.cmp = { m.cmp with training := false } ∧ t.rd R.CMP_DP_STATUS_TRAINED = 1 ∧ t.rd R.CMP_DP_STATUS_RATE = r ∧
          t.rd R.CMP_DP_STATUS_LANES = l.toNat ∧ m.Keeps t [R.CMP_DP_STATUS_HPD.a] ∧ t = { m with cmp := t.cmp, regs := t.regs }) ∧
        (m.linkAllowed r l.toNat = true → m.linkCarries r l.toNat = false → Answers (.linkTrainingComplete dt (some (r, l))) s fun t =>
          t.cmp = { m.cmp with training := false } ∧ t.rd R.CMP_DP_STATUS_TRAINED = 0 ∧
          ({ m with cmp := t.cmp } : Mach).OnlyRaised t 142 [R.CMP_DP_STATUS_HPD.a]) ∧
        (m.linkAllowed r l.toNat = false → Answers (.linkTrainingComplete dt (some (r, l))) s (· = m)))

/-- R330, R336, R338, R339, R342, R344, R349, R353. -/
def Obligations.AxisCommands : Prop :=
  ∀ (s : State) (dt : Nat) (a : Fin 8) (m : Mach) (x : Axis), m = s.at dt → x = m.axis[a] → m.Quiet →
    (m.open? 0xF00000 = false → ∀ i ∈ [.axisStop dt a, .axisFlush dt a, .axisHome dt a, .axisSetpos dt a, .axisClrf dt a,
        .axisEnable dt a true, .axisEnable dt a false], Answers i s fun t => m.OnlyRegs t [R.HS_EARLY.a]) ∧
    (m.open? 0xF00000 = true →
      (x.stop = none → x.moves m.mt = false → Answers (.axisStop dt a) s (· = m.setAxis a x.flushed)) ∧
      (x.stop.isSome = true → Answers (.axisStop dt a) s (· = m.setAxis a
        { x with queue := [], homing := none, st := if x.st = .homing then .stopping else x.st })) ∧
      (x.moves m.mt = true → x.stop = none → Answers (.axisStop dt a) s fun t =>
        t.axis[a].st = .stopping ∧ t.axis[a].queue = [] ∧ t.axis[a].homing = none ∧ t.axis[a].endVel = 0 ∧
        t.axis[a].stop = some (m.rd (R.AXE_AX_SDEC a)) ∧ m.mt ≤ t.axis[a].endAt ∧ t.axis[a].ref = x.ref ∧ t.axis[a].ctx = x.ctx ∧
        (∀ j : Fin 8, j ≠ a → t.axis[j] = m.axis[j]) ∧ t = { m with axis := t.axis }) ∧
      Answers (.axisFlush dt a) s (· = m.setAxis a { x with queue := [], lastTarget := roundPos x.endPos }) ∧
      (x.st = .unref ∨ x.st = .ready ∨ x.st = .limit →
        (m.axesRun = false → Answers (.axisHome dt a) s (· = m)) ∧
        (m.axesRun = true → Answers (.axisHome dt a) s (fun t =>
          t.axis[a].st = .homing ∧ t.axis[a].ref = false ∧ t.axis[a].queue = [] ∧
          t.axis[a].homing = some (if x.home.level then 3 else 1, false) ∧ t.axis[a].homeFrom = x.posAt m.mt ∧
          t.axis[a].endVel = (if x.home.level then -m.hdir a * (m.rd (R.AXE_AX_HLSPD a) * 65536 : Nat)
            else m.hdir a * (m.rd (R.AXE_AX_HSPD a) * 65536 : Nat)) ∧
          (∀ j : Fin 8, j ≠ a → t.axis[j] = m.axis[j]) ∧ t = { m with axis := t.axis })) ∧
        Answers (.axisSetpos dt a) s (fun t =>
          t.axis[a].endPos = m.rdS (R.AXE_AX_QTGT a) * 65536 ∧ t.axis[a].steps = m.rdS (R.AXE_AX_QTGT a) ∧
          t.axis[a].lastTarget = m.rdS (R.AXE_AX_QTGT a) ∧ t.axis[a].ref = true ∧ t.axis[a].endVel = 0 ∧ t.axis[a].plan = [] ∧
          t.axis[a].queue = x.queue ∧ (∀ j : Fin 8, j ≠ a → t.axis[j] = m.axis[j]) ∧ t = { m with axis := t.axis })) ∧
      (x.st = .moving ∨ x.st = .off ∨ x.st = .homing ∨ x.st = .faulted ∨ x.st = .stopping ∨ x.st = .held →
        Answers (.axisHome dt a) s (· = m) ∧ Answers (.axisSetpos dt a) s (· = m)) ∧
      (x.st = .faulted → x.chatter = false ∨ m.axQuiet a x = true → Answers (.axisClrf dt a) s fun t =>
        t.rd (R.AXE_AX_FAULT_CAUSE a) = 0 ∧ t.rd (R.AXE_AX_FAULT_BYCTX a) = 0 ∧ t.axis[a].st = m.restSt a x ∧ t.axis[a].clrf = true ∧
        (x.ctx.st = .faulted → t.axis[a].ctx.st = .idle) ∧ t.axis[a].queue = x.queue ∧ t.axis[a].ref = x.ref ∧
        (∀ j : Fin 8, j ≠ a → t.axis[j] = m.axis[j]) ∧ m.Keeps t [(R.AXE_AX_FAULT_CAUSE a).a] ∧
        t = { m with axis := t.axis, regs := t.regs }) ∧
      (x.st ≠ .faulted ∨ (x.chatter = true ∧ m.axQuiet a x = false) → Answers (.axisClrf dt a) s (· = m)) ∧
      (m.enableBad a = true → Answers (.axisEnable dt a true) s fun t =>
        t.rd (R.AXE_AX_CFG_CFGERR a) = 1 ∧ m.OnlyRegs t [(R.AXE_AX_CFG_CFGERR a).a]) ∧
      (m.enableBad a = false → Answers (.axisEnable dt a true) s fun t =>
        t.rd (R.AXE_AX_CTRL a) = 1 ∧ (x.st = .off → m.rd (R.AXE_AX_CFG_KIND a) ≠ 0 → x.limited = false →
          t.axis[a].st = if x.ref then .ready else .unref) ∧ (x.st ≠ .off → t.axis[a] = x) ∧
        (t.axpins[a].axen = true ↔ m.rd (R.AXE_AX_CFG_KIND a) = 2) ∧ (∀ j : Fin 8, j ≠ a → t.axis[j] = m.axis[j]) ∧
        m.Keeps t [(R.AXE_AX_CTRL a).a] ∧ t = { m with axis := t.axis, axpins := t.axpins, regs := t.regs }) ∧
      (x.moves m.mt = true → Answers (.axisEnable dt a false) s fun t =>
        t.rd (R.AXE_AX_CTRL a) = 0 ∧ t.axis[a].queue = [] ∧ t.axis[a].endVel = (if x.stop.isSome then x.endVel else 0) ∧
        (∀ j : Fin 8, j ≠ a → t.axis[j] = m.axis[j]) ∧ m.Keeps t [(R.AXE_AX_CTRL a).a] ∧
        t = { m with axis := t.axis, regs := t.regs }) ∧
      (x.moves m.mt = false → x.qstop = true ∨ x.st = .faulted → Answers (.axisEnable dt a false) s fun t =>
        t.rd (R.AXE_AX_CTRL a) = 0 ∧ m.OnlyRegs t [(R.AXE_AX_CTRL a).a]) ∧
      (x.moves m.mt = false → x.qstop = false → x.st ≠ .faulted → Answers (.axisEnable dt a false) s fun t =>
        t.rd (R.AXE_AX_CTRL a) = 0 ∧ t.axis[a] = { x.flushed with st := .off } ∧ t.axpins[a].axen = false ∧
        (∀ j : Fin 8, j ≠ a → t.axis[j] = m.axis[j]) ∧ m.Keeps t [(R.AXE_AX_CTRL a).a] ∧
        t = { m with axis := t.axis, axpins := t.axpins, regs := t.regs })) ∧
    (x.moves m.mt = true → Answers (.axisAtRest dt a) s (· = m)) ∧
    (x.moves m.mt = false → x.endVel = 0 → x.homing = none → x.st = .moving → x.queue = [] → Answers (.axisAtRest dt a) s
      (· = m.setAxis a { x with stop := none, st := m.restSt a { x with stop := none } })) ∧
    (x.moves m.mt = false → x.endVel = 0 → x.homing = none → x.st = .stopping → x.qstop = false →
      Answers (.axisAtRest dt a) s fun t =>
        t.axis[a].stop = none ∧ t.axis[a].faultPend = false ∧ t.axis[a].queue = x.queue ∧
        (x.faultPend = true → t.axis[a].st = .faulted) ∧
        (x.faultPend = false → m.rd (R.AXE_AX_CTRL a) = 0 → t.axis[a].st = .off ∧ t.axpins[a].axen = false) ∧
        (x.faultPend = false → m.rd (R.AXE_AX_CTRL a) = 1 → m.rd (R.AXE_AX_CFG_KIND a) ≠ 0 → m.pstate = 0 → x.limited = false →
          t.axis[a].st = if x.ref then .ready else .unref) ∧
        (x.faultPend = false → m.rd (R.AXE_AX_CTRL a) = 1 → m.pstate = 1 → x.queue ≠ [] → t.axis[a].st = .held) ∧
        (∀ j : Fin 8, j ≠ a → t.axis[j] = m.axis[j]) ∧ t = { m with axis := t.axis, axpins := t.axpins }) ∧
    (x.moves m.mt = false → x.endVel = 0 → x.homing = some (5, false) → Answers (.axisAtRest dt a) s fun t =>
      t.axis[a].ref = true ∧ t.axis[a].homing = none ∧
      t.axis[a].endPos = m.rdS (R.AXE_AX_HOFFS a) * 65536 + (x.endPos - x.latch) ∧ t = { m with axis := t.axis })

/-- R108, R333, R334, R346, R347. -/
def Obligations.AxisQueueAndProfiler : Prop :=
  ∀ (s : State) (dt : Nat) (a : Fin 8) (m : Mach) (x : Axis), m = s.at dt → x = m.axis[a] → m.Quiet →
    (m.open? 0xF00000 = false → ∀ i ∈ [.pushMove dt a, .pushRelativeMove dt a, .pushRawSegment dt a],
      Answers i s fun t => m.OnlyRegs t [R.HS_EARLY.a]) ∧
    (m.open? 0xF00000 = true →
      ((m.rd (R.AXE_AX_CFG_REFREQ a) = 0 ∨ x.ref = true) → x.queue.length < 256 →
        (∀ (rel : Bool) (g : Int), m.rd (R.AXE_AX_QSPD a) ≠ 0 →
          g = signed 32 (unsigned 32 (if rel then x.lastTarget + m.rdS (R.AXE_AX_QTGT a) else m.rdS (R.AXE_AX_QTGT a))) →
          Answers (if rel then .pushRelativeMove dt a else .pushMove dt a) s
            (· = m.setAxis a (if g = x.lastTarget then x else
              { x with queue := x.queue ++ [.move g (m.rd (R.AXE_AX_QSPD a))], lastTarget := g }))) ∧
        (m.rd (R.AXE_AX_SEGDUR a) ≠ 0 → Answers (.pushRawSegment dt a) s
          (· = m.setAxis a { x with
            queue := x.queue ++ [.raw (m.rd (R.AXE_AX_SEGDUR a)) (m.rdS (R.AXE_AX_QTGT a) * 65536) (m.rdS (R.AXE_AX_SEGVEL a))]
            lastTarget := m.rdS (R.AXE_AX_QTGT a) }))) ∧
      (∀ push, ((push = .pushMove dt a ∨ push = .pushRelativeMove dt a) ∧ m.rd (R.AXE_AX_QSPD a) = 0) ∨ (push = .pushRawSegment dt a ∧ m.rd (R.AXE_AX_SEGDUR a) = 0) ∨
          ((push = .pushMove dt a ∨ push = .pushRelativeMove dt a ∨ push = .pushRawSegment dt a) ∧
            m.rd (R.AXE_AX_CFG_REFREQ a) = 1 ∧ x.ref = false) →
        Answers push s fun t =>
          t.rd (R.AXE_AX_QREFUSE a) = min (m.rd (R.AXE_AX_QREFUSE a) + 1) (2 ^ 32 - 1) ∧ m.OnlyRegs t [(R.AXE_AX_QREFUSE a).a]) ∧
      (∀ push, ((push = .pushMove dt a ∨ push = .pushRelativeMove dt a) ∧ m.rd (R.AXE_AX_QSPD a) ≠ 0) ∨
          (push = .pushRawSegment dt a ∧ m.rd (R.AXE_AX_SEGDUR a) ≠ 0) →
        (m.rd (R.AXE_AX_CFG_REFREQ a) = 0 ∨ x.ref = true) → 256 ≤ x.queue.length →
        m.rd (R.AXE_AX_FAULT_CAUSE a) = 0 → Answers push s fun t =>
          t.rd (R.AXE_AX_FAULT_CAUSE a) = 0x48 ∧ t.axis[a].queue = [] ∧
          ((∀ n : Fin 16, m.fe[n].lasing m.mt = false) → t.evt (144 + a) = 1 ∧ t.fe = m.fe) ∧
          (∀ j : Fin 8, j ≠ a → t.axis[j] = m.axis[j]))) ∧
    (∀ segs : List AxSeg, m.axCommits a x = true → x.queue = [] →
      (x.endVel = 0 → Answers (.profilerCommit dt a segs) s (· = m)) ∧
      (x.endVel ≠ 0 → (segs.getLastD ⟨0, 0, 1⟩).vel = 0 →
        (chain (x.nextStart m.mt) x.endPos x.endVel segs).all (m.axSegOk a (m.axVmax a)) = true →
        Answers (.profilerCommit dt a segs) s fun t =>
          t.axis[a].endVel = 0 ∧ t.axis[a].endPos = (segs.getLastD ⟨0, 0, 1⟩).pos ∧ t.axis[a].st = .moving ∧
          t.axis[a].lastTarget = roundPos (segs.getLastD ⟨0, 0, 1⟩).pos ∧ t.axis[a].queue = [] ∧
          (∀ j : Fin 8, j ≠ a → t.axis[j] = m.axis[j]) ∧ t = { m with axis := t.axis })) ∧
    (∀ segs, m.Quiet → m.axCommits a x = false → Answers (.profilerCommit dt a segs) s (· = m)) ∧
    (∀ (segs : List AxSeg) (d : Nat) (p v : Int) (rest : List QEntry), m.Quiet → m.axCommits a x = true → x.queue = .raw d p v :: rest →
      (x.moves m.mt = true ∨ (x.limp.level = false ∧ x.limn.level = false) → Answers (.profilerCommit dt a segs) s fun t =>
        t.axis[a].plan.getLast? = some ⟨max m.mt x.endAt, x.endPos, x.endVel, ⟨d, p, v⟩, some (.raw d p v)⟩ ∧
        t.axis[a].queue = rest ∧ t.axis[a].st = .moving ∧ t.axis[a].endAt = max m.mt x.endAt + d ∧
        t.axis[a].endPos = p ∧ t.axis[a].endVel = v ∧ (∀ j : Fin 8, j ≠ a → t.axis[j] = m.axis[j]) ∧ t = { m with axis := t.axis }) ∧
      (x.moves m.mt = false → x.limp.level = true → x.limn.level = false → x.endPos < p → m.rd (R.AXE_AX_FAULT_CAUSE a) = 0 →
        (∀ n : Fin 16, m.fe[n].lasing m.mt = false) → Answers (.profilerCommit dt a segs) s fun t =>
          t.rd (R.AXE_AX_FAULT_CAUSE a) = 0x40 ∧ t.evt (144 + a) = 1 ∧ t.axis[a].plan = x.plan ∧ t.axis[a].st = .faulted ∧
          t.rd (R.AXE_AX_QREFUSE a) = min (m.rd (R.AXE_AX_QREFUSE a) + 1) (2 ^ 32 - 1) ∧ t.fe = m.fe ∧
          (∀ j : Fin 8, j ≠ a → t.axis[j] = m.axis[j]))) ∧
    (∀ (segs : List AxSeg) (g : Int) (sp : Nat) (rest : List QEntry), m.Quiet → m.axCommits a x = true → x.queue = .move g sp :: rest →
      x.limp.level = false → x.limn.level = false →
      (m.axMoveOk a x g sp rest segs = true → (segs.getLastD ⟨0, 0, 0⟩).pos = g * 65536 → Answers (.profilerCommit dt a segs) s fun t =>
        t.axis[a].endPos = g * 65536 ∧ t.axis[a].queue = rest ∧ t.axis[a].st = .moving ∧
        (t.axis[a].plan.getLast?.bind (·.entry)) = some (.move g sp) ∧ (∀ j : Fin 8, j ≠ a → t.axis[j] = m.axis[j]) ∧
        t = { m with axis := t.axis }) ∧
      (m.axMoveOk a x g sp rest segs = false → Answers (.profilerCommit dt a segs) s (· = m)))

/-- R77, R340, R343, R346 to R348. -/
def Obligations.AxisInputsFeedbackAndContexts : Prop :=
  ∀ (s : State) (dt : Nat) (a : Fin 8) (m : Mach) (x : Axis), m = s.at dt → x = m.axis[a] → m.Quiet →
    (∀ h p q, m.mt % 800 ≠ 0 → Answers (.axisInputSample dt a h p q) s (· = m)) ∧
    (∀ p : Bool, m.mt % 800 = 0 → x.home.level = (x.home.raw != m.on (R.AXE_AX_CFG_HOMEPOL a)) → x.limn.level = false →
      (x.limn.raw != m.on (R.AXE_AX_CFG_LIMPOL a)) = false → m.axChatters a (m.axSample a x.home.raw p x.limn.raw) = false →
      x.limp.level = false → (p != m.on (R.AXE_AX_CFG_LIMPOL a)) = true → x.homing = none →
      (x.limp.count + 1 < max (m.rd (R.AXE_AX_QUAL_N a)) 1 → Answers (.axisInputSample dt a x.home.raw p x.limn.raw) s fun t =>
        t.axis[a].limp.level = false ∧ t.axis[a].limp.count = x.limp.count + 1 ∧ t.axis[a].plan = x.plan ∧
        (∀ j : Fin 8, j ≠ a → t.axis[j] = m.axis[j]) ∧ t = { m with axis := t.axis }) ∧
      (max (m.rd (R.AXE_AX_QUAL_N a)) 1 ≤ x.limp.count + 1 → x.moves m.mt = false → x.st = .ready →
        m.rd (R.AXE_AX_CTRL a) = 1 → m.rd (R.AXE_AX_CFG_KIND a) ≠ 0 → Answers (.axisInputSample dt a x.home.raw p x.limn.raw) s fun t =>
          t.axis[a].limp.level = true ∧ t.axis[a].limp.edgeAt = (if x.limp.count = 0 then m.mt else x.limp.candAt) ∧
          t.axis[a].st = .limit ∧ t.rd (R.AXE_AX_FAULT_CAUSE a) = m.rd (R.AXE_AX_FAULT_CAUSE a) ∧
          (∀ j : Fin 8, j ≠ a → t.axis[j] = m.axis[j]) ∧ t = { m with axis := t.axis }) ∧
      (max (m.rd (R.AXE_AX_QUAL_N a)) 1 ≤ x.limp.count + 1 → x.moves m.mt = true → 0 < x.velAt m.mt → x.stop = none → x.st = .moving →
        m.rd (R.AXE_AX_FAULT_CAUSE a) = 0 → (∀ n : Fin 16, m.fe[n].lasing m.mt = false) →
        Answers (.axisInputSample dt a x.home.raw p x.limn.raw) s fun t =>
          t.rd (R.AXE_AX_FAULT_CAUSE a) = 0x40 ∧ t.evt (144 + a) = 1 ∧ t.axis[a].st = .stopping ∧ t.axis[a].faultPend = true ∧
          t.axis[a].queue = [] ∧ t.axis[a].endVel = 0 ∧ t.fe = m.fe ∧ (∀ j : Fin 8, j ≠ a → t.axis[j] = m.axis[j]))) ∧
    (m.rd (R.AXE_AX_CFG_KIND a) = 1 → m.rd (R.AXE_AX_CTRL a) = 1 → max (m.rd (R.AXE_AX_RFMISS a)) 1 ≤ x.fbMiss →
      m.rd (R.AXE_AX_FAULT_CAUSE a) = 0 → (∀ n : Fin 16, m.fe[n].lasing m.mt = false) → Answers (.feedbackTimeout dt a) s fun t =>
        t.rd (R.AXE_AX_FAULT_CAUSE a) = 0x46 ∧ t.evt (144 + a) = 1 ∧ t.axis[a].qstop = true ∧ t.axis[a].queue = [] ∧
        t.fe = m.fe ∧ (∀ j : Fin 8, j ≠ a → t.axis[j] = m.axis[j])) ∧
    (m.rd (R.AXE_AX_CFG_KIND a) ≠ 1 ∨ m.rd (R.AXE_AX_CTRL a) = 0 ∨ x.fbMiss < max (m.rd (R.AXE_AX_RFMISS a)) 1 →
      Answers (.feedbackTimeout dt a) s (· = m)) ∧
    (m.open? 0xF00000 = false → ∀ i ∈ [.axeCtxStart dt a, .axeCtxStop dt a, .axeCtxReset dt a],
      Answers i s fun t => m.OnlyRegs t [R.HS_EARLY.a]) ∧
    (m.open? 0xF00000 = true →
      (ctxIdle x.ctx.st = true → Answers (.axeCtxStart dt a) s (· = (m.setAxis a { x with ctx := { x.ctx with
        st := .active, wait := none, stopReq := false, readyAt := m.mt, khold := 0x4000
        ret := .init (BitVec.ofNat 36 (m.addr (R.AXE_AX_CSTART_LO a) (R.AXE_AX_CSTART_HI a))) } }).dropTokens (.axe a))) ∧
      (ctxIdle x.ctx.st = false → Answers (.axeCtxStart dt a) s (· = m)) ∧
      (ctxBusy x.ctx.st = true → Answers (.axeCtxStop dt a) s fun t =>
        t.axis[a] = { x with ctx := { x.ctx with st := .halted, wait := none, stopReq := false } } ∧
        (∀ j : Fin 8, j ≠ a → t.axis[j] = m.axis[j]) ∧ t.regs = m.regs ∧ t.fe = m.fe ∧ t.mem = m.mem) ∧
      (ctxBusy x.ctx.st = false →
        Answers (.axeCtxStop dt a) s (· = m) ∧
        Answers (.axeCtxReset dt a) s (fun t => t.axis[a].ctx.st = .idle ∧ t.axis[a].ctx.ret.calls = [] ∧
          t.axis[a].ctx.ret.loops = [] ∧ t.axis[a].ctx.ret.pc = x.ctx.ret.pc ∧ t.axis[a].queue = x.queue ∧ t.axis[a].plan = x.plan ∧
          (∀ j : Fin 8, j ≠ a → t.axis[j] = m.axis[j]) ∧ t = { m with axis := t.axis })) ∧
      (ctxBusy x.ctx.st = true → Answers (.axeCtxReset dt a) s (· = m)))

/-- R354, R356, R358 to R361, R474. -/
def Obligations.MemoryReadsAndWrites : Prop :=
  ∀ (s : State) (dt : Nat) (p : Fin 12) (k : Byte) (a : BitVec 40) (lv : BitVec 4) (m : Mach) (A c r : Nat), m = s.at dt →
    rtPort p = false → A = a.toNat → c = chanOf A → r = m.physOf A →
    (∀ f, Answers (.memRead dt p k a f lv) s fun t => t.mem.bytes = m.mem.bytes) ∧
    (m.unbacked A = true → m.raisedThisTick 39 = false → ∀ f, Answers (.memRead dt p k a f lv) s fun t =>
      t.rd R.MEM_UNBACKED = min (m.rd R.MEM_UNBACKED + 1) (2 ^ 32 - 1) ∧ t.evt 39 = 1 ∧ t.out.head? = some (.memReply p k A none) ∧
      t.rd (R.MEM_PORT_ERRN p) = min (m.rd (R.MEM_PORT_ERRN p) + 1) (2 ^ 32 - 1) ∧ t.mem = m.mem ∧
      m.Keeps t ([R.MEM_UNBACKED.a, (R.MEM_PORT_ERRN p).a] ++ raiseRegs 39)) ∧
    (m.unbacked A = false →
      (m.mem.poison.contains (A / 128) = true → m.raisedThisTick 39 = false → ∀ f, Answers (.memRead dt p k a f lv) s fun t =>
        t.evt 39 = 1 ∧ t.out.head? = some (.memReply p k A none) ∧
        t.rd (R.MEM_PORT_ERRN p) = min (m.rd (R.MEM_PORT_ERRN p) + 1) (2 ^ 32 - 1) ∧ t.mem.poison = m.mem.poison ∧
        m.Keeps t ((R.MEM_PORT_ERRN p).a :: raiseRegs 39)) ∧
      (m.mem.poison.contains (A / 128) = false →
        (∀ f, f = .clean ∨ f = .retryClean → Answers (.memRead dt p k a f lv) s fun t =>
          t.rdata = BitVec.ofNat 32 (m.le (A / 4 * 4) 4) ∧ t.out = .memReply p k A (some (m.bytes (A / 128 * 128) 128)) :: m.out ∧
          t.mem.poison = m.mem.poison ∧ t = { m with mem := t.mem, out := t.out, rdata := t.rdata }) ∧
        (∀ f, f = .correctable ∨ f = .retryCorrectable → m.raisedThisTick 32 = false → Answers (.memRead dt p k a f lv) s fun t =>
          t.rdata = BitVec.ofNat 32 (m.le (A / 4 * 4) 4) ∧ t.out.head? = some (.memReply p k A (some (m.bytes (A / 128 * 128) 128))) ∧
          t.rd (R.MEM_CH_RK_CE c r) = min (m.rd (R.MEM_CH_RK_CE c r) + 1) (2 ^ 32 - 1) ∧ t.evt 32 = 1 ∧
          t.mem.poison = m.mem.poison ∧ m.Keeps t ((R.MEM_CH_RK_CE c r).a :: raiseRegs 32)) ∧
        Answers (.memRead dt p k a .confirmed lv) s (fun t =>
          t.mem.poison = addLine m.mem.poison (A / 128) ∧ .memReply p k A none ∈ t.out ∧
          t.rd (R.MEM_CH_RK_UE c r) = min (m.rd (R.MEM_CH_RK_UE c r) + 1) (2 ^ 32 - 1) ∧ t.evt 33 = 1 ∧
          t.rd64 R.MEM_ERR_ADDR_LO R.MEM_ERR_ADDR_HI = A / 128 * 128 ∧ t.rd R.MEM_ERR_SRC_PORT = p ∧
          t.rd R.MEM_ERR_SRC_STREAM = k.toNat ∧ t.rd R.MEM_ERR_SRC_SCRUB = 0 ∧
          (m.sharedLine A = true → t.rd ⟨R.SAF_GSTAT_CAUSE.a, 4, 4⟩ = 1)))) ∧
    (∀ (bs : List Byte) (f : EccFind), Answers (.memWrite dt p k a bs f lv) s fun t =>
      ∀ x, x < A ∨ A + bs.length ≤ x → t.byte x = m.byte x) ∧
    (∀ bs : List Byte, (∀ l ∈ linesOf A bs.length, m.unbacked (128 * l) = false ∧ m.mem.poison.contains l = false) →
      Answers (.memWrite dt p k a bs .clean lv) s fun t =>
        t.bytes A bs.length = bs ∧ t.mem.poison = m.mem.poison ∧ t = { m with mem := t.mem }) ∧
    (∀ (bs : List Byte) (f : EccFind), bs.length = 128 → A % 128 = 0 → m.unbacked A = false → Answers (.memWrite dt p k a bs f lv) s fun t =>
      t.bytes A 128 = bs ∧ t.mem.poison = m.mem.poison.filter (· != A / 128) ∧ t = { m with mem := t.mem }) ∧
    (∀ (bs : List Byte) (f : EccFind), 0 < bs.length → A % 128 + bs.length ≤ 128 →
      (m.unbacked A = true → Answers (.memWrite dt p k a bs f lv) s fun t =>
        t.rd R.MEM_UNBACKED = min (m.rd R.MEM_UNBACKED + 1) (2 ^ 32 - 1) ∧ m.OnlyRaised t 43 [R.MEM_UNBACKED.a]) ∧
      (m.unbacked A = false → bs.length < 128 → m.mem.poison.contains (A / 128) = true → m.raisedThisTick 43 = false →
        Answers (.memWrite dt p k a bs f lv) s fun t =>
          t.mem.bytes = m.mem.bytes ∧ t.mem.poison = m.mem.poison ∧ t.evt 43 = 1 ∧ t.out.head? = some (.memReply p k A none) ∧
          t.rd R.MEM_WPOISON = min (m.rd R.MEM_WPOISON + 1) (2 ^ 32 - 1) ∧
          t.rd (R.MEM_PORT_ERRN p) = min (m.rd (R.MEM_PORT_ERRN p) + 1) (2 ^ 32 - 1) ∧
          m.Keeps t ([R.MEM_WPOISON.a, (R.MEM_PORT_ERRN p).a] ++ raiseRegs 43)) ∧
      (m.unbacked A = false → bs.length < 128 → m.mem.poison.contains (A / 128) = false → f = .confirmed →
        Answers (.memWrite dt p k a bs f lv) s fun t =>
          t.mem.bytes = m.mem.bytes ∧ t.mem.poison = addLine m.mem.poison (A / 128) ∧ t.evt 33 = 1 ∧
          t.rd R.MEM_WPOISON = min (m.rd R.MEM_WPOISON + 1) (2 ^ 32 - 1)))

/-- R362, R363, R365 to R367, R370. -/
def Obligations.MemoryHousekeeping : Prop :=
  ∀ (s : State) (dt : Nat) (m : Mach), m = s.at dt →
    (∀ (p : Fin 12) (k : Byte) (a : BitVec 40) (lv : BitVec 4) (q : Nat), p = 2 ∨ p = 7 → q = p.val * 256 + k.toNat →
      m.unbacked a.toNat = false → m.mem.poison.contains (a.toNat / 128) = false →
      (q ∉ m.mem.panic → lv.toNat ≤ m.rd (R.MEM_PORT_CFG_PON p) → m.raisedThisTick 42 = false → Answers (.memRead dt p k a .clean lv) s fun t =>
        t.mem.panic = m.mem.panic ++ [q] ∧ t.rd (R.MEM_PORT_STAT p) = 1 ∧
        t.rd (R.MEM_PORT_PANICN p) = min (m.rd (R.MEM_PORT_PANICN p) + 1) (2 ^ 32 - 1) ∧ t.evt 42 = 1 ∧ t.mem.bytes = m.mem.bytes) ∧
      (q ∈ m.mem.panic → m.rd (R.MEM_PORT_CFG_POFF p) ≤ lv.toNat → Answers (.memRead dt p k a .clean lv) s fun t =>
        q ∉ t.mem.panic ∧ (∀ x, x ≠ q → (x ∈ t.mem.panic ↔ x ∈ m.mem.panic)) ∧
        t.rd (R.MEM_PORT_PANICN p) = m.rd (R.MEM_PORT_PANICN p) ∧ t.mem.bytes = m.mem.bytes)) ∧
    (∀ p : Fin 12,
      (m.portClassNow p = 2 → m.rd R.MEM_AGE_BE ≠ 0 → Answers (.agePromotion dt p) s fun t =>
        t.rd (R.MEM_PORT_PROMO p) = min (m.rd (R.MEM_PORT_PROMO p) + 1) (2 ^ 32 - 1) ∧ m.OnlyRegs t [(R.MEM_PORT_PROMO p).a]) ∧
      (m.portClassNow p = 0 ∨ m.portClassNow p = 1 → Answers (.agePromotion dt p) s (· = m))) ∧
    (∀ (c : Fin 2) (r : Fin 3) (b : BitVec 5) (row t0 : Nat), m.mem.rows.lookup (rowKey c r b.toNat) = some (row, t0) →
      (m.rd R.MEM_PAGE * 4 ≤ (m.mt - t0) * 5 → Answers (.rowIdleClose dt c r b) s fun t =>
        t.mem.rows.lookup (rowKey c r b.toNat) = none ∧ (∀ j, j ≠ rowKey c r b.toNat → t.mem.rows.lookup j = m.mem.rows.lookup j) ∧
        t = { m with mem := { m.mem with rows := t.mem.rows } }) ∧
      ((m.mt - t0) * 5 < m.rd R.MEM_PAGE * 4 → Answers (.rowIdleClose dt c r b) s (· = m))) ∧
    (∀ (c : Fin 2) (r : Fin 3) (l n A : Nat), m.logicalOf c r = some l → m.rd R.MEM_CTRL = 1 → m.rkState c r = 1 →
      n = m.scrubbed c r → n + 1 < 2 ^ 26 → A = lineAddr c l (128 * n) → m.mem.poison.contains (A / 128) = false →
      Answers (.scrubRead dt c r .clean) s (· = { m with mem := { m.mem with scrubAt := sput m.mem.scrubAt (rankIx c r) (n + 1) } }) ∧
      (m.raisedThisTick 32 = false → Answers (.scrubRead dt c r .correctable) s fun t =>
        t.scrubbed c r = n + 1 ∧ t.rd (R.MEM_CH_RK_CE c r) = min (m.rd (R.MEM_CH_RK_CE c r) + 1) (2 ^ 32 - 1) ∧ t.evt 32 = 1 ∧
        t.mem.bytes = m.mem.bytes) ∧
      Answers (.scrubRead dt c r .confirmed) s (fun t =>
        t.scrubbed c r = n + 1 ∧ t.mem.poison = addLine m.mem.poison (A / 128) ∧ t.evt 33 = 1 ∧ t.rd R.MEM_ERR_SRC_SCRUB = 1 ∧
        t.mem.bytes = m.mem.bytes)) ∧
    (∀ (c : Fin 2) (r : Fin 3), m.rd R.MEM_CTRL = 0 ∨ m.logicalOf c r = none → ∀ f, Answers (.scrubRead dt c r f) s (· = m)) ∧
    (∀ (c : Fin 2) (r : Fin 3), m.mem.parity = [] → m.raisedThisTick 34 = false → m.rkState c r = 1 → m.spareReady c = true →
      Answers (.caParityAlert dt c r) s fun t =>
        t.rd (R.MEM_CH_RK_CAPAR c r) = min (m.rd (R.MEM_CH_RK_CAPAR c r) + 1) (2 ^ 32 - 1) ∧ t.evt 34 = 1 ∧
        t.mem.parity = [(rankIx c r, m.mt)] ∧ t.mem.bytes = m.mem.bytes ∧
        (m.rd R.MEM_CAPTH_N ≤ 1 → t.rkState c r = 2 ∧ t.rd (R.MEM_RACK_STAT_STATE c) = 1 ∧ t.rd (R.MEM_RACK_STAT_CAUSE c) = 1 ∧
          t.evt 35 = 1) ∧
        (2 ≤ m.rd R.MEM_CAPTH_N → t.rkState c r = 1 ∧ t.rd (R.MEM_RACK_STAT_STATE c) = m.rd (R.MEM_RACK_STAT_STATE c))) ∧
    (∀ (c : Fin 2) (r : Fin 3),
      (m.rkState c r ≤ 3 → Answers (.refresh dt c r) s
        (· = { m with mem := { m.mem with refreshed := sput m.mem.refreshed (rankIx c r) m.mt } })) ∧
      (3 < m.rkState c r → Answers (.refresh dt c r) s (· = m))) ∧
    (∀ (l : List Int) (c : Fin 2) (d : List Int), l.length = 30 → d = (l.drop (15 * c.val)).take 15 → Answers (.dramTempRead dt l) s fun t =>
      t.rd (R.MEM_CH_TEMP_TEMP c) = unsigned 8 (maxTemp d) ∧
      ((∃ x ∈ d, 85 < x) → t.rd (R.MEM_CH_TEMP_HOT c) = 1 ∧ (m.rd (R.MEM_CH_TEMP_HOT c) = 0 → t.evt 41 = 1)) ∧
      ((∀ x ∈ d, x ≤ 80) → t.rd (R.MEM_CH_TEMP_HOT c) = 0 ∧ (m.rd (R.MEM_CH_TEMP_HOT c) = 1 → t.evt 41 = 1)) ∧
      ((∀ x ∈ d, x ≤ 85) → (∃ x ∈ d, 80 < x) → t.rd (R.MEM_CH_TEMP_HOT c) = m.rd (R.MEM_CH_TEMP_HOT c)) ∧
      (∀ b, b ∉ raiseRegs 41 → b ≠ (R.MEM_CH_TEMP_TEMP 0).a → b ≠ (R.MEM_CH_TEMP_TEMP 1).a → t.word b = m.word b) ∧
      t.mem.bytes = m.mem.bytes)

/-- R355, R372 to R376, R378. -/
def Obligations.RetrainingAndRacking : Prop :=
  ∀ (s : State) (dt : Nat) (c : Fin 2) (m : Mach), m = s.at dt →
    (∀ (r : Fin 3) (last ok : Bool) (temp : Int), 1 < m.rkState c r ∨ m.trainDue c r = false ∨ m.windowFree c r = false →
      Answers (.retrainWindow dt c r last ok temp) s (· = m)) ∧
    (∀ (r : Fin 3) (ok : Bool) (temp : Int), m.rkState c r ≤ 1 → m.trainDue c r = true → m.windowFree c r = true →
      Answers (.retrainWindow dt c r false ok temp) s (fun t =>
        rankIx c r ∈ t.mem.training ∧ (ok = false → rankIx c r ∈ t.mem.winBad) ∧ t.windowFree c r = false ∧ t.mem.bytes = m.mem.bytes ∧
        t = { m with mem := t.mem }) ∧
      (rankIx c r ∉ m.mem.winBad → Answers (.retrainWindow dt c r true ok temp) s fun t =>
        rankIx c r ∉ t.mem.training ∧ rankIx c r ∉ t.mem.oweTrain ∧ t.rd (R.MEM_CH_RK_TRAIN_LASTT c r) = unsigned 8 temp ∧
        (ok = true → t.rd (R.MEM_CH_RK_TRAIN_RETRAINS c r) = min (m.rd (R.MEM_CH_RK_TRAIN_RETRAINS c r) + 1) (2 ^ 16 - 1) ∧
          m.Keeps t [(R.MEM_CH_RK_TRAIN_LASTT c r).a]) ∧
        (ok = false → t.rd (R.MEM_CH_RK_STATE_SUSPECT c r) = 1 ∧ t.evt 38 = 1 ∧
          t.rd (R.MEM_CH_RK_TRFAIL c r) = min (m.rd (R.MEM_CH_RK_TRFAIL c r) + 1) (2 ^ 32 - 1)) ∧ t.mem.bytes = m.mem.bytes)) ∧
    (∀ (v : Word) (r : Nat), m.open? 0x200000 = true → c.val = bits v.toNat 0 0 → r = m.backing c (bits v.toNat 1 1) →
      (bits v.toNat 31 31 = 0 → Answers (.rackCmd dt v) s (· = m)) ∧
      (bits v.toNat 31 31 = 1 → m.spareReady c = true → m.rkState c r = 1 → Answers (.rackCmd dt v) s fun t =>
        t.rkState c r = 2 ∧ t.rkState c (m.rd (R.MEM_CH_RMAP_SPARE c)) = 3 ∧ t.rd (R.MEM_RACK_STAT_STATE c) = 1 ∧
        t.rd (R.MEM_RACK_STAT_SRC c) = r ∧ (m.backing c 0 ≠ m.backing c 1 → t.rd (R.MEM_RACK_STAT_LRANK c) = bits v.toNat 1 1) ∧
        t.rd (R.MEM_RACK_STAT_CAUSE c) = 2 ∧ t.rd64 (R.MEM_RACK_WMARK_LO c) (R.MEM_RACK_WMARK_HI c) = 0 ∧ t.evt 35 = 1 ∧
        t.mem.bytes = m.mem.bytes ∧ t.rd (R.MEM_CH_RMAP_L0 c) = m.rd (R.MEM_CH_RMAP_L0 c)) ∧
      (bits v.toNat 31 31 = 1 → m.spareReady c = false ∨ m.rkState c r ≠ 1 → Answers (.rackCmd dt v) s fun t =>
        t.rd (R.MEM_RACK_STAT_REFUSED c) = 1 ∧ m.OnlyRaised t 37 [(R.MEM_RACK_STAT_STATE c).a])) ∧
    (∀ (w A : Nat) (f : EccFind), w = m.mem.wmark.getD c 0 → m.mem.wmark.length = 2 → m.rd (R.MEM_RACK_STAT_STATE c) = 1 → w + 128 < 2 ^ 33 →
      m.paceOk c = true → A = lineAddr c (m.rd (R.MEM_RACK_STAT_LRANK c)) w → Answers (.rackCopyLine dt c f) s fun t =>
        t.mem.wmark.getD c 0 = w + 128 ∧ t.rd64 (R.MEM_RACK_WMARK_LO c) (R.MEM_RACK_WMARK_HI c) = w + 128 ∧
        (m.mem.poison.contains (A / 128) = false → f ≠ .confirmed → t.mem.poison = m.mem.poison ∧
          t.rd (R.MEM_RACK_POISCOPY c) = m.rd (R.MEM_RACK_POISCOPY c)) ∧
        (m.mem.poison.contains (A / 128) = true ∨ f = .confirmed → t.mem.poison = addLine m.mem.poison (A / 128) ∧
          t.rd (R.MEM_RACK_POISCOPY c) = min (m.rd (R.MEM_RACK_POISCOPY c) + 1) (2 ^ 32 - 1)) ∧ t.mem.bytes = m.mem.bytes ∧
        m.Keeps t [(R.MEM_RACK_WMARK_LO c).a, (R.MEM_RACK_WMARK_HI c).a, (R.MEM_RACK_POISCOPY c).a] ∧
        t = { m with mem := t.mem, regs := t.regs }) ∧
    (m.rd (R.MEM_RACK_STAT_STATE c) ≠ 1 →
      (∀ f, Answers (.rackCopyLine dt c f) s (· = m)) ∧ Answers (.rackComplete dt c) s (· = m)) ∧
    (∀ z o l : Nat, m.rd (R.MEM_RACK_STAT_STATE c) = 1 → 2 ^ 33 ≤ m.mem.wmark.getD c 0 → z = m.rd (R.MEM_CH_RMAP_SPARE c) →
      o = m.rd (R.MEM_RACK_STAT_SRC c) → l = m.rd (R.MEM_RACK_STAT_LRANK c) → z ≠ o → Answers (.rackComplete dt c) s fun t =>
        t.backing c l = z ∧ t.backing c (1 - l) = m.backing c (1 - l) ∧ t.rd (R.MEM_CH_RMAP_SPARE c) = 3 ∧ t.rkState c o = 4 ∧
        t.rkState c z = 1 ∧ t.rd (R.MEM_RACK_STAT_STATE c) = 3 ∧ t.rd R.MEM_CAP_SPARE = m.rd R.MEM_CAP_SPARE - 8 ∧ t.evt 36 = 1 ∧
        rankIx c o ∈ t.mem.out ∧ t.mem.bytes = m.mem.bytes) ∧
    (m.open? 0x200000 = true → m.unlocked 0x200000 = true → Answers (.rmapClr dt) s fun t =>
      t.rd R.MEM_RMAP_CLR = 1 ∧ m.OnlyRegs { t with regs0 := m.regs0 } [R.MEM_RMAP_CLR.a])

/-- R388, R394, R408.  That a doorbell of an OFF or ERROR queue only sets TAIL is DEDUCED (log entry 60). -/
def Obligations.Doorbells : Prop :=
  ∀ (s : State) (dt : Nat) (q : Fin 32) (v : Word) (tail : BitVec 16) (m : Mach), m = s.at dt → m.Quiet →
    ∀ (c : Instr) (i : Fin 64) (tl st : Nat) (re : Bool),
      (c, i, tl, re) ∈ [(Instr.h2dDoorbell dt q v, h2d q, v.toNat % 65536, vbit v 31),
        (.doorbellRetry dt q tail, h2d q, tail.toNat, true), (.d2hDoorbell dt q v, d2h q, v.toNat % 65536, false)] →
      st = m.hsState i →
      (st = 0 ∨ st = 3 → Answers c s fun t => t.rd (R.HSQ_TAIL i) = tl ∧ m.OnlyRegs t [(R.HSQ_TAIL i).a]) ∧
      (st = 1 ∨ st = 2 → (tl + 65536 - m.rd (R.HSQ_CPLIDX i)) % 65536 ≤ 2 ^ m.rd (R.HSQ_CTRL_SIZE i) → Answers c s fun t =>
        t.rd (R.HSQ_TAIL i) = tl ∧ t.hsState i = (if st = 2 ∧ re = false then 2 else 1) ∧
        t.rd (R.HSQ_STATUS_ERR i) = m.rd (R.HSQ_STATUS_ERR i) ∧
        m.OnlyRegs t [(R.HSQ_TAIL i).a, (R.HSQ_STATUS_STATE i).a]) ∧
      (st = 1 ∨ st = 2 → 2 ^ m.rd (R.HSQ_CTRL_SIZE i) < (tl + 65536 - m.rd (R.HSQ_CPLIDX i)) % 65536 → Answers c s fun t =>
        t.rd (R.HSQ_TAIL i) = tl ∧ t.hsState i = 3 ∧ t.rd (R.HSQ_STATUS_ERR i) = 4 ∧ t.evt 49 = 1 ∧ t.hs[i].push = none ∧
        (∀ j : Fin 64, j ≠ i → t.hs[j] = m.hs[j]) ∧ t.mem = m.mem ∧ t.fe = m.fe ∧
        (m.hs[i].push = none → m.OnlyRaised t 49 [(R.HSQ_TAIL i).a, (R.HSQ_STATUS_STATE i).a]) ∧
        (m.fnMask = false → m.rd (R.HSQ_MSIX_CTRL (m.rd (R.HSQ_CTRL_VEC i))) = 0 →
          .msix (BitVec.ofNat 6 (m.rd (R.HSQ_CTRL_VEC i))) ∈ t.out))

/-- R389 to R397, R406.  HEAD and CPLIDX move at final completions (log entry 61). -/
def Obligations.DescriptorsAndBlocks : Prop :=
  ∀ (s : State) (dt : Nat) (m : Mach), m = s.at dt → m.Quiet →
    (∀ (i : Fin 64) (d : Descriptor) (x : Desc) (hd ph : Nat), hd = m.rd (R.HSQ_HEAD i) → ph = 1 - hd / 2 ^ m.rd (R.HSQ_CTRL_SIZE i) % 2 →
      x = { d := d, idx := BitVec.ofNat 16 hd, attempt := m.hs[i].retry + 1, data := [], crc := 0, wrote := false, memErr := false } →
      (m.hsState i ≠ 1 ∨ m.on (R.HSQ_CTRL_EN i) = false ∨ m.hs[i].cur.isSome = true ∨ hd = m.rd (R.HSQ_TAIL i) →
        Answers (.descriptorStart dt i d) s (· = m)) ∧
      (m.hsState i = 1 → m.on (R.HSQ_CTRL_EN i) = true → m.hs[i].cur = none → hd ≠ m.rd (R.HSQ_TAIL i) →
        (badDescriptor d (isD2h i) = false → d.op = 1 ∨ d.len ≠ 0 → Answers (.descriptorStart dt i d) s
          (· = m.setHs i { m.hs[i] with cur := some x })) ∧
        (badDescriptor d (isD2h i) = false → d.op ≠ 1 → d.len = 0 → Answers (.descriptorStart dt i d) s fun t =>
          t.rd (R.HSQ_HEAD i) = (hd + 1) % 65536 ∧ t.rd (R.HSQ_CPLIDX i) = (m.rd (R.HSQ_CPLIDX i) + 1) % 65536 ∧ t.hs[i].cur = none ∧
          .completion i x.idx ((x.plain 0).encode d.tag.toNat x.idx.toNat ph) ∈ t.out ∧
          (d.flags.getLsbD 0 = false → m.on (R.HSQ_CTRL_IRQALL i) = false →
            t.out = .completion i x.idx ((x.plain 0).encode d.tag.toNat x.idx.toNat ph) :: m.out ∧
            m.Keeps t [(R.HSQ_HEAD i).a, (R.HSQ_CPLIDX i).a]) ∧
          (∀ j : Fin 64, j ≠ i → t.hs[j] = m.hs[j]) ∧ t = { m with hs := t.hs, regs := t.regs, out := t.out }) ∧
        (badDescriptor d (isD2h i) = true → Answers (.descriptorStart dt i d) s fun t =>
          t.hsState i = 3 ∧ t.rd (R.HSQ_STATUS_ERR i) = 2 ∧ t.rd (R.HSQ_HEAD i) = (hd + 1) % 65536 ∧ t.evt 49 = 1 ∧
          .completion i x.idx ((x.plain 4).encode d.tag.toNat x.idx.toNat ph) ∈ t.out ∧ t.hs[i].cur = none ∧ t.mem = m.mem ∧
          (∀ j : Fin 64, j ≠ i → t.hs[j] = m.hs[j])))) ∧
    (∀ (q : Fin 32) (i : Fin 64) (d : Desc), i = h2d q → m.hs[i].cur = some d → d.d.op = 0 →
      Answers (.descWrite dt q) s (· = m.emit (.hostRead i d.d.haddr d.d.len.toNat)) ∧
      (∀ data : List Byte, data.length = d.d.len.toNat → d.wrote = false →
        (crc32c data = d.d.crc.toNat →
          (∀ l ∈ linesOf d.d.daddr.toNat data.length, m.unbacked (128 * l) = false ∧ m.mem.poison.contains l = false) →
          Answers (.h2dDataReceived dt q data) s fun t =>
            t.bytes d.d.daddr.toNat data.length = data ∧
            (∀ a, a < d.d.daddr.toNat ∨ d.d.daddr.toNat + data.length ≤ a → t.byte a = m.byte a) ∧
            t.hs[i].cur = some { d with data := data, crc := BitVec.ofNat 32 (crc32c data), wrote := true, memErr := false } ∧
            t = { m with mem := t.mem, hs := t.hs }) ∧
        (crc32c data ≠ d.d.crc.toNat → d.attempt < 3 → m.on (R.HSQ_CTRL_EN i) = true → m.raisedThisTick 48 = false →
          Answers (.h2dDataReceived dt q data) s fun t =>
            t.mem = m.mem ∧ t.hsState i = 2 ∧ t.rd (R.HSQ_HEAD i) = m.rd (R.HSQ_HEAD i) ∧ t.evt 48 = 1 ∧
            t.rd (R.HSQ_RESENDN i) = min (m.rd (R.HSQ_RESENDN i) + 1) (2 ^ 32 - 1) ∧ t.hs[i].retry = d.attempt ∧ t.hs[i].cur = none ∧
            .completion i d.idx ((({ d.plain 1 with crc := crc32c data } : HsCompl)).encode d.d.tag.toNat d.idx.toNat
              (1 - d.idx.toNat / 2 ^ m.rd (R.HSQ_CTRL_SIZE i) % 2)) ∈ t.out) ∧
        (crc32c data ≠ d.d.crc.toNat → 3 ≤ d.attempt → Answers (.h2dDataReceived dt q data) s fun t =>
          t.mem = m.mem ∧ t.hsState i = 3 ∧ t.rd (R.HSQ_STATUS_ERR i) = 1 ∧ t.evt 49 = 1 ∧ t.hs[i].cur = none ∧
          t.rd (R.HSQ_HEAD i) = (m.rd (R.HSQ_HEAD i) + 1) % 65536)) ∧
      (d.wrote = true → m.on (R.HSQ_CTRL_EN i) = true →
        (d.memErr = false → Answers (.descWriteComplete dt q) s fun t =>
          .completion i d.idx ((({ d.plain 0 with len := d.d.len.toNat, crc := d.crc.toNat } : HsCompl)).encode d.d.tag.toNat d.idx.toNat
            (1 - d.idx.toNat / 2 ^ m.rd (R.HSQ_CTRL_SIZE i) % 2)) ∈ t.out ∧
          t.rd (R.HSQ_HEAD i) = (m.rd (R.HSQ_HEAD i) + 1) % 65536 ∧ t.hs[i].cur = none ∧ t.hsState i = m.hsState i ∧
          (d.d.len ≠ 0 → t.rd (R.HSQ_BLOCKS i) = min (m.rd (R.HSQ_BLOCKS i) + 1) (2 ^ 32 - 1)) ∧
          t = { m with hs := t.hs, regs := t.regs, out := t.out }) ∧
        (d.memErr = true → m.raisedThisTick 50 = false → Answers (.descWriteComplete dt q) s fun t =>
          t.evt 50 = 1 ∧ t.rd (R.HSQ_HEAD i) = (m.rd (R.HSQ_HEAD i) + 1) % 65536 ∧ t.hsState i = m.hsState i ∧
          t.rd (R.HSQ_BLOCKS i) = m.rd (R.HSQ_BLOCKS i) ∧ t.mem = m.mem)) ∧
      (d.wrote = false → Answers (.descWriteComplete dt q) s (· = m))) ∧
    (∀ (q : Fin 32) (i : Fin 64) (d : Desc) (a n : Nat), i = d2h q → m.hs[i].cur = some d → d.d.op = 0 → m.on (R.HSQ_CTRL_EN i) = true →
      a = d.d.daddr.toNat → n = d.d.len.toNat →
      (m.poisoned a n = false → Answers (.descRead dt q) s fun t =>
        .hostWrite d.d.haddr (m.bytes a n) ∈ t.out ∧
        .completion i d.idx ((({ d.plain 0 with len := n, crc := crc32c (m.bytes a n) } : HsCompl)).encode d.d.tag.toNat d.idx.toNat
          (1 - d.idx.toNat / 2 ^ m.rd (R.HSQ_CTRL_SIZE i) % 2)) ∈ t.out ∧
        t.rd (R.HSQ_HEAD i) = (m.rd (R.HSQ_HEAD i) + 1) % 65536 ∧ t.hs[i].cur = none ∧
        t = { m with hs := t.hs, regs := t.regs, out := t.out }) ∧
      (m.poisoned a n = true → m.raisedThisTick 50 = false → Answers (.descRead dt q) s fun t =>
        t.evt 50 = 1 ∧ t.rd (R.HSQ_HEAD i) = (m.rd (R.HSQ_HEAD i) + 1) % 65536 ∧ t.hs[i].cur = none ∧ t.hsState i = m.hsState i ∧
        t.mem.bytes = m.mem.bytes ∧ t.mem.poison = m.mem.poison)) ∧
    (∀ (i : Fin 64) (e : HostErr),
      (∀ d, m.hs[i].cur = some d → Answers (.hostAccessError dt i e) s fun t =>
        t.hsState i = 3 ∧ t.rd (R.HSQ_STATUS_ERR i) = 3 ∧ t.evt 49 = 1 ∧ t.hs[i].cur = none ∧ t.mem = m.mem ∧
        .completion i d.idx ((d.plain 5).encode d.d.tag.toNat d.idx.toNat (1 - d.idx.toNat / 2 ^ m.rd (R.HSQ_CTRL_SIZE i) % 2)) ∈ t.out ∧
        ∀ j : Fin 64, j ≠ i → t.hs[j] = m.hs[j]) ∧
      (m.hs[i].cur = none → m.hsState i = 1 ∨ m.hsState i = 2 → Answers (.hostAccessError dt i e) s fun t =>
        t.hsState i = 3 ∧ t.rd (R.HSQ_STATUS_ERR i) = 3 ∧ t.evt 49 = 1 ∧ t.mem = m.mem) ∧
      (m.hs[i].cur = none → m.hsState i = 0 ∨ m.hsState i = 3 → Answers (.hostAccessError dt i e) s (· = m)))

/-- R369, R398, R399, R401, R402, R408. -/
def Obligations.SyncPushAndQueueControl : Prop :=
  ∀ (s : State) (dt : Nat) (m : Mach), m = s.at dt → m.Quiet →
    (∀ (i : Fin 64) (d : Desc), m.hs[i].cur = some d → d.d.op = 1 →
      Answers (.descSync dt i) s (· = m.setHs i { m.hs[i] with cur := some { d with wrote := true } }) ∧
      (d.wrote = false → Answers (.syncFenceComplete dt i) s (· = m)) ∧
      (d.wrote = true → m.on (R.HSQ_CTRL_EN i) = true → Answers (.syncFenceComplete dt i) s fun t =>
        .completion i d.idx ((d.plain 0).encode d.d.tag.toNat d.idx.toNat (1 - d.idx.toNat / 2 ^ m.rd (R.HSQ_CTRL_SIZE i) % 2)) ∈ t.out ∧
        t.rd (R.HSQ_HEAD i) = (m.rd (R.HSQ_HEAD i) + 1) % 65536 ∧ t.hs[i].cur = none ∧ t.hsState i = m.hsState i ∧
        (∀ j : Fin 64, j ≠ i → t.hs[j] = m.hs[j]) ∧ t = { m with hs := t.hs, regs := t.regs, out := t.out })) ∧
    (∀ (q : Fin 32) (i : Fin 64) (d : Desc), i = d2h q → m.hs[i].cur = some d → d.d.op = 2 →
      (m.hs[i].push = none → Answers (.descPush dt q) s (· = m)) ∧
      (∀ (p : Push) (a : Nat), m.hs[i].push = some p → m.on (R.HSQ_CTRL_EN i) = true → p.blk < p.len → a = p.addr.toNat + 4096 * p.blk →
        m.poisoned a 4096 = false → Answers (.descPush dt q) s fun t =>
          .hostWrite d.d.haddr (m.bytes a 4096) ∈ t.out ∧
          .completion i d.idx ((HsCompl.mk 0 d.attempt (p.blk == 0) (decide (p.blk + 1 = p.len)) a 4096
              (crc32c (m.bytes a 4096)) p.ctx p.blk).encode d.d.tag.toNat d.idx.toNat
            (1 - d.idx.toNat / 2 ^ m.rd (R.HSQ_CTRL_SIZE i) % 2)) ∈ t.out ∧
          (p.blk + 1 < p.len → t.hs[i].push = some { p with blk := p.blk + 1 } ∧
            t.rd (R.HSQ_PUSHSRC_OPEN i) = m.rd (R.HSQ_PUSHSRC_OPEN i)) ∧
          (p.blk + 1 = p.len → t.hs[i].push = none ∧ t.rd (R.HSQ_PUSHSRC_OPEN i) = 0) ∧
          t.rd (R.HSQ_HEAD i) = (m.rd (R.HSQ_HEAD i) + 1) % 65536 ∧ t.hs[i].cur = none ∧
          (∀ j : Fin 64, j ≠ i → t.hs[j] = m.hs[j]) ∧ t = { m with hs := t.hs, regs := t.regs, out := t.out })) ∧
    (∀ (i : Fin 64) (v : Word) (w : Nat), w = v.toNat →
      (m.hsState i = 0 → 2 ≤ m.rd R.HS_BOOT_STAGE → 4 ≤ bits w 4 1 → bits w 4 1 ≤ 12 → Answers (.queueEnable dt i v) s fun t =>
        t.hsState i = 1 ∧ t.rd (R.HSQ_CTRL_EN i) = 1 ∧ t.rd (R.HSQ_STATUS_ERR i) = 0 ∧ t.rd (R.HSQ_HEAD i) = 0 ∧
        t.rd (R.HSQ_TAIL i) = 0 ∧ t.rd (R.HSQ_CPLIDX i) = 0 ∧ t.rd (R.HSQ_CTRL_SIZE i) = bits w 4 1 ∧
        t.rd (R.HSQ_CTRL_VEC i) = bits w 13 8 ∧ t.rd (R.HSQ_CTRL_IRQALL i) = bits w 14 14 ∧
        (∀ j : Fin 64, j ≠ i → t.hs[j] = m.hs[j]) ∧
        m.Keeps t [(R.HSQ_CTRL_EN i).a, (R.HSQ_STATUS_STATE i).a, (R.HSQ_HEAD i).a, (R.HSQ_TAIL i).a, (R.HSQ_CPLIDX i).a] ∧
        t = { m with hs := t.hs, regs := t.regs }) ∧
      (m.hsState i = 0 → m.rd R.HS_BOOT_STAGE < 2 ∨ bits w 4 1 < 4 ∨ 12 < bits w 4 1 → Answers (.queueEnable dt i v) s fun t =>
        t.rd (R.HSQ_STATUS_CFGERR i) = 1 ∧ t.hsState i = 0 ∧ t.rd (R.HSQ_CTRL_EN i) = m.rd (R.HSQ_CTRL_EN i) ∧
        m.OnlyRegs t [(R.HSQ_CTRL_EN i).a, (R.HSQ_STATUS_STATE i).a]) ∧
      (m.hsState i ≠ 0 → Answers (.queueEnable dt i v) s fun t =>
        t.hsState i = m.hsState i ∧ t.word (R.HSQ_CTRL_EN i).a = m.word (R.HSQ_CTRL_EN i).a ∧
        (m.rd (R.HSQ_CTRL_SIZE i) ≠ bits w 4 1 ∨ m.rd (R.HSQ_CTRL_VEC i) ≠ bits w 13 8 ∨ m.rd (R.HSQ_CTRL_IRQALL i) ≠ bits w 14 14 →
          t.rd (R.HSQ_STATUS_CFGERR i) = 1) ∧ m.OnlyRegs t [(R.HSQ_STATUS_STATE i).a]) ∧
      (m.on (R.HSQ_CTRL_EN i) = true → m.hsState i ≠ 0 → m.hs[i].push = none →
        (∀ d, m.hsState i = 1 → m.hs[i].cur = some d → d.d.op ≠ 2 → Answers (.queueDisable dt i v) s fun t =>
          t.rd (R.HSQ_CTRL_EN i) = 0 ∧ t.hsState i = 1 ∧ t.hs = m.hs ∧ m.OnlyRegs t [(R.HSQ_CTRL_EN i).a, (R.HSQ_STATUS_STATE i).a]) ∧
        (m.hs[i].cur = none ∨ m.hsState i ≠ 1 → Answers (.queueDisable dt i v) s fun t =>
          t.rd (R.HSQ_CTRL_EN i) = 0 ∧ t.hsState i = 0 ∧ t.hs[i] = ⟨none, 0, none⟩ ∧ (∀ j : Fin 64, j ≠ i → t.hs[j] = m.hs[j]) ∧
          m.Keeps t [(R.HSQ_CTRL_EN i).a, (R.HSQ_STATUS_STATE i).a] ∧ t = { m with hs := t.hs, regs := t.regs })))

/-- R384, R403 to R405, R407. -/
def Obligations.LinkAndVectors : Prop :=
  ∀ (s : State) (dt : Nat) (m : Mach), m = s.at dt →
    (∀ (sp : BitVec 3) (wd : BitVec 4),
      (m.pstate = 3 → Answers (.pcieLinkUp dt sp wd) s (· = m)) ∧
      (m.pstate ≠ 3 → Answers (.pcieLinkUp dt sp wd) s fun t =>
        t.rd R.HS_LINK_UP = 1 ∧ t.rd R.HS_LINK_SPEED = sp.toNat ∧ t.rd R.HS_LINK_WIDTH = wd.toNat ∧
        (sp.toNat = 4 → wd.toNat = 8 → t.rd R.HS_LINK_DEGRADED = 0 ∧ m.OnlyRegs t [R.HS_LINK_UP.a]) ∧
        (sp.toNat < 4 ∨ wd.toNat < 8 → t.rd R.HS_LINK_DEGRADED = 1 ∧ m.OnlyRaised t 51 [R.HS_LINK_UP.a]))) ∧
    (m.Quiet →
      (∀ c : Instr, c = .pcieLinkDown dt ∨ c = .d3hotEntry dt ∨ (c = .hotReset dt ∧ m.rd R.HS_CTRL = 1) → Answers c s fun t =>
        t.evt 51 = 1 ∧
        (∀ i : Fin 64, m.hsState i ≠ 0 → t.hsState i = 3 ∧ t.rd (R.HSQ_STATUS_ERR i) = 5 ∧ t.hs[i].cur = none ∧ t.hs[i].push = none) ∧
        (∀ i : Fin 64, m.hsState i = 0 → t.hsState i = 0 ∧ t.hs[i] = m.hs[i]) ∧
        (∀ i : Fin 64, t.rd (R.HSQ_HEAD i) = m.rd (R.HSQ_HEAD i) ∧ t.rd (R.HSQ_CPLIDX i) = m.rd (R.HSQ_CPLIDX i)) ∧
        (∀ i d bs, .completion i d bs ∈ t.out → .completion i d bs ∈ m.out) ∧
        (c ≠ .d3hotEntry dt → t.rd R.HS_LINK_UP = 0 ∧ t.fnMask = false ∧ ∀ v < 64, t.rd (R.HSQ_MSIX_CTRL v) = 1) ∧
        t = { m with hs := t.hs, regs := t.regs, out := t.out, cbk := t.cbk, fnMask := t.fnMask })) ∧
    (∀ u : Bool, Answers (.aerErrorLogged dt u) s fun t => m.OnlyRaised t (if u then 53 else 52) []) ∧
    (∀ v : BitVec 6, Answers (.msixUnmask dt (some v)) s fun t =>
      t.rd (R.HSQ_MSIX_CTRL v.toNat) = 0 ∧
      (m.fnMask = false → m.rd ⟨(R.HSQ_PBA (v.toNat / 32)).a, v.toNat % 32, v.toNat % 32⟩ = 1 →
        t.rd ⟨(R.HSQ_PBA (v.toNat / 32)).a, v.toNat % 32, v.toNat % 32⟩ = 0 ∧ t.out = .msix v :: m.out) ∧
      (m.fnMask = true ∨ m.rd ⟨(R.HSQ_PBA (v.toNat / 32)).a, v.toNat % 32, v.toNat % 32⟩ = 0 → t.out = m.out) ∧
      m.Keeps t [(R.HSQ_MSIX_CTRL v.toNat).a, (R.HSQ_PBA (v.toNat / 32)).a] ∧ t = { m with regs := t.regs, out := t.out }) ∧
    Answers (.msixUnmask dt none) s (fun t =>
      t.fnMask = false ∧
      (∀ v : BitVec 6, m.rd (R.HSQ_MSIX_CTRL v.toNat) = 0 → m.rd ⟨(R.HSQ_PBA (v.toNat / 32)).a, v.toNat % 32, v.toNat % 32⟩ = 1 →
        t.rd ⟨(R.HSQ_PBA (v.toNat / 32)).a, v.toNat % 32, v.toNat % 32⟩ = 0 ∧ .msix v ∈ t.out) ∧
      (∀ v : BitVec 6, m.rd (R.HSQ_MSIX_CTRL v.toNat) = 1 → t.rd ⟨(R.HSQ_PBA (v.toNat / 32)).a, v.toNat % 32, v.toNat % 32⟩ =
        m.rd ⟨(R.HSQ_PBA (v.toNat / 32)).a, v.toNat % 32, v.toNat % 32⟩) ∧
      m.Keeps t [(R.HSQ_PBA 0).a, (R.HSQ_PBA 1).a] ∧ t = { m with regs := t.regs, out := t.out, fnMask := t.fnMask })

/-- R411 to R417, R431, R432. -/
def Obligations.RingFrames : Prop :=
  ∀ (s : State) (dt : Nat) (m : Mach), m = s.at dt →
    (∀ v : BitVec 2, m.open? 0x1500000 = true →
      (m.rd R.RNG_STATUS_BYPST = 1 → Answers (.ringModeWrite dt v) s fun t =>
        t.rd R.RNG_CTRL_MODE = v.toNat ∧ t.rd R.RNG_CTRL_CFGERR = m.rd R.RNG_CTRL_CFGERR ∧ m.OnlyRegs t [R.RNG_CTRL_MODE.a]) ∧
      (m.rd R.RNG_STATUS_BYPST = 0 → Answers (.ringModeWrite dt v) s fun t =>
        t.rd R.RNG_CTRL_MODE = m.rd R.RNG_CTRL_MODE ∧ t.rd R.RNG_CTRL_CFGERR = 1 ∧ m.OnlyRegs t [R.RNG_CTRL_MODE.a])) ∧
    (∀ (p : Fin 2) (f : EthFrame) (res : Int) (q : Fin 2) (rx : Nat), q = otherPort p →
      rx = min (m.rd (R.RNG_P_RXFRAMES p) + 1) (2 ^ 32 - 1) →
      (m.ringUp = false → Answers (.ringFrameReceive dt p f res) s (· = m)) ∧
      (m.ringUp = true →
        (f.fcsBad = true ∨ 1528 < f.len → Answers (.ringFrameReceive dt p f res) s fun t =>
          t.rd (R.RNG_P_RXFRAMES p) = rx ∧ t.rd (R.RNG_P_RXERR p) = min (m.rd (R.RNG_P_RXERR p) + 1) (2 ^ 32 - 1) ∧
          m.OnlyRegs t [(R.RNG_P_RXFRAMES p).a, (R.RNG_P_RXERR p).a]) ∧
        (f.fcsBad = false → f.len ≤ 1528 →
          (f.dst.toNat = pdelayMac ∨ (f.src.toNat = m.ownMac ∧ m.ringMode = 1) → Answers (.ringFrameReceive dt p f res) s fun t =>
            t.rd (R.RNG_P_RXFRAMES p) = rx ∧ m.OnlyRegs t [(R.RNG_P_RXFRAMES p).a]) ∧
          (f.dst.toNat ≠ pdelayMac → f.src.toNat = m.ownMac → m.ringMode = 2 → m.raisedThisTick 28 = false →
            Answers (.ringFrameReceive dt p f res) s fun t => t.rd R.RNG_STATUS_LOOP = 1 ∧ t.evt 28 = 1 ∧ t.rng = m.rng) ∧
          (f.dst.toNat ≠ pdelayMac → f.src.toNat ≠ m.ownMac →
            (m.ringMode = 2 → f.ptp = none → Answers (.ringFrameReceive dt p f res) s fun t =>
              t.out = .eth q f :: m.out ∧ t.rd (R.RNG_P_TXFRAMES q) = min (m.rd (R.RNG_P_TXFRAMES q) + 1) (2 ^ 32 - 1) ∧
              m.Keeps t [(R.RNG_P_RXFRAMES p).a, (R.RNG_P_TXFRAMES q).a] ∧ t = { m with regs := t.regs, out := t.out }) ∧
            (m.ringMode = 1 → f.tag = none → Answers (.ringFrameReceive dt p f res) s fun t =>
              t.rd (R.RNG_P_NOTAG p) = min (m.rd (R.RNG_P_NOTAG p) + 1) (2 ^ 32 - 1) ∧
              m.OnlyRegs t [(R.RNG_P_RXFRAMES p).a, (R.RNG_P_NOTAG p).a]) ∧
            (∀ sq, m.ringMode = 1 → f.tag = some sq → f.ptp = none →
              (m.dup f.src sq = none → Answers (.ringFrameReceive dt p f res) s fun t =>
                t.out = .eth q f :: m.out ∧ t.rd (R.RNG_P_DUPDROP p) = m.rd (R.RNG_P_DUPDROP p) ∧
                (∃ d, t.dup f.src sq = some d ∧ d.sent = [q] ∧ d.delivered = m.addressed f) ∧
                t = { m with rng := t.rng, regs := t.regs, out := t.out }) ∧
              (∀ d, m.dup f.src sq = some d → q ∈ d.sent → Answers (.ringFrameReceive dt p f res) s fun t =>
                t.out = m.out ∧ t.rd (R.RNG_P_DUPDROP p) = min (m.rd (R.RNG_P_DUPDROP p) + 1) (2 ^ 32 - 1) ∧
                t = { m with rng := t.rng, regs := t.regs })) ∧
            (∀ (x : PtpMsg) (sq : BitVec 16), f.ptp = some x → m.ringMode = 2 ∨ (f.tag = some sq ∧ m.dup f.src sq = none) →
              m.rd R.RNG_CTRL_PTPEN = 1 →
              (∀ g : Int, x.kind = .sync → g = res + m.lat (R.RNG_P_ELAT q) + m.lat (R.RNG_P_ILAT p) + (if m.rd (R.RNG_P_PSTAT_PDOK p) = 1
                  then m.rd (R.RNG_P_PDELAY p) + m.rdS (R.RNG_P_ASYM p) else 0) → Answers (.ringFrameReceive dt p f res) s fun t =>
                .eth q { f with ptp := some (ptpCorrect x (x.correction + BitVec.ofInt 64 g)) } ∈ t.out) ∧
              (∀ w A : Nat, x.kind = .sync ∨ x.kind = .followUp ∨ x.kind = .announce → x.domain.toNat = m.rd R.RNG_PTP_CTRL_DOMAIN →
                m.addressed f = true → w = m.rd R.RNG_PTPRX_WPTR → A = m.addr R.RNG_PTPRX_BASE_LO R.RNG_PTPRX_BASE_HI + 128 * w →
                (ringFull (2 ^ (4 + m.rd R.RNG_PTPRX_SIZE)) w (m.rd R.RNG_PTPRX_RPTR) = false →
                  (∀ l ∈ linesOf A 128, m.unbacked (128 * l) = false ∧ m.mem.poison.contains l = false) →
                  Answers (.ringFrameReceive dt p f res) s fun t =>
                    t.bytes A 128 = m.ptpRecord p x ∧ (∀ a, a < A ∨ A + 128 ≤ a → t.byte a = m.byte a) ∧
                    t.rd R.RNG_PTPRX_WPTR = (w + 1) % 2 ^ (4 + m.rd R.RNG_PTPRX_SIZE) % 2 ^ 24) ∧
                (ringFull (2 ^ (4 + m.rd R.RNG_PTPRX_SIZE)) w (m.rd R.RNG_PTPRX_RPTR) = true → m.raisedThisTick 27 = false →
                  Answers (.ringFrameReceive dt p f res) s fun t =>
                    t.mem = m.mem ∧ t.evt 27 = 1 ∧ t.rd R.RNG_PTPRX_WPTR = w ∧
                    t.rd R.RNG_PTPRX_LOST = min (m.rd R.RNG_PTPRX_LOST + 1) (2 ^ 32 - 1)))))))) ∧
    (m.ringMode = 1 → m.ringUp = true → m.rng.supAt + 1600000000 ≤ m.now → Answers (.supervisionSend dt) s fun t =>
      t.out = .supervision 1 m.rng.hsrSeq :: .supervision 0 m.rng.hsrSeq :: m.out ∧ t.rng = { m.rng with hsrSeq := m.rng.hsrSeq + 1, supAt := m.now } ∧
      (∀ p : Fin 2, t.rd (R.RNG_P_TXFRAMES p) = min (m.rd (R.RNG_P_TXFRAMES p) + 1) (2 ^ 32 - 1)) ∧
      m.Keeps t [(R.RNG_P_TXFRAMES 0).a, (R.RNG_P_TXFRAMES 1).a] ∧ t = { m with rng := t.rng, regs := t.regs, out := t.out }) ∧
    (m.ringMode ≠ 1 ∨ m.ringUp = false ∨ m.now < m.rng.supAt + 1600000000 → Answers (.supervisionSend dt) s (· = m))

/-- R418, R419, R429, R430, R433, R435.  The rounding of a half of 2^−16 ns and of the mean is left free (log entry 75). -/
def Obligations.RelaysAndPeerDelay : Prop :=
  ∀ (s : State) (dt : Nat) (m : Mach), m = s.at dt →
    (m.open? 0x1500000 = true →
      Answers (.bypassWrite dt true) s (fun t => t.rd R.RNG_CTRL_BYPASS = 1 ∧ t.rng = { m.rng with wdAck := m.rng.wdExp } ∧
        m.Keeps t [R.RNG_CTRL_BYPASS.a] ∧ t = { m with rng := t.rng, regs := t.regs }) ∧
      (m.rng.wdExp = true → m.rng.wdAck = false → Answers (.bypassWrite dt false) s (· = m)) ∧
      (m.rng.wdExp = false ∨ m.rng.wdAck = true → Answers (.bypassWrite dt false) s fun t =>
        t.rd R.RNG_CTRL_BYPASS = 0 ∧ t.rng = { m.rng with wdExp := false, wdAck := false } ∧ m.Keeps t [R.RNG_CTRL_BYPASS.a] ∧
        t = { m with rng := t.rng, regs := t.regs }) ∧
      (∀ p : Fin 2, Answers (.psack dt p) s fun t =>
        t.rd (R.RNG_P_PDELAY p) = m.rd (R.RNG_P_PSVAL p) ∧ t.rd (R.RNG_P_PSTAT_PATH_STEP p) = 0 ∧
        t.rng.pd[p].last4 = [(m.rd (R.RNG_P_PSVAL p) : Int)] ∧ m.Keeps t [(R.RNG_P_PDELAY p).a, (R.RNG_P_PSTAT_PATH_STEP p).a] ∧
        t = { m with rng := t.rng, regs := t.regs })) ∧
    (∀ h : Nat, (h = 1 ↔ m.env.powered = false ∨ m.saf.msRun = false ∨ m.rng.wdExp = true ∨ m.rd R.RNG_CTRL_BYPASS = 1) → h < 2 →
      (m.rd R.RNG_STATUS_BYPST = h → Answers (.relayChange dt) s (· = m)) ∧
      (m.rd R.RNG_STATUS_BYPST ≠ h → Answers (.relayChange dt) s fun t =>
        t.rd R.RNG_STATUS_BYPST = h ∧ m.OnlyRaised t 23 [R.RNG_STATUS_BYPST.a])) ∧
    (m.saf.msRun = false → Answers (.watchdogRefresh dt) s (· = m)) ∧
    (m.saf.msRun = true → Answers (.watchdogRefresh dt) s fun t =>
      t.rng = { m.rng with wdAt := m.now, wdOwed := false } ∧ (m.rng.wdOwed = true → t.evt 29 = 1) ∧
      (m.rng.wdOwed = false → t = { m with rng := t.rng }) ∧ m.Keeps t (raiseRegs 29) ∧
      t = { m with rng := t.rng, regs := t.regs, out := t.out, cbk := t.cbk }) ∧
    (m.rng.wdExp = false → m.rng.wdAt + max 1 (m.rd R.RNG_WDT) * 800000 ≤ m.now → Answers (.ringWatchdogExpire dt) s fun t =>
      t.rd R.RNG_STATUS_WDEXP = 1 ∧ t.rng = { m.rng with wdExp := true, wdAck := false, wdOwed := true } ∧
      m.Keeps t [R.RNG_STATUS_WDEXP.a] ∧ t = { m with rng := t.rng, regs := t.regs }) ∧
    (m.rng.wdExp = true ∨ m.now < m.rng.wdAt + max 1 (m.rd R.RNG_WDT) * 800000 → Answers (.ringWatchdogExpire dt) s (· = m)) ∧
    (∀ (p : Fin 2) (up : Bool), (m.rd (linkBit p) = bool01 up → Answers (.phyLinkChange dt p up) s (· = m)) ∧
      (m.rd (linkBit p) ≠ bool01 up → Answers (.phyLinkChange dt p up) s fun t =>
        t.rd (linkBit p) = bool01 up ∧ m.OnlyRaised t 21 [(linkBit p).a])) ∧
    (∀ (p : Fin 2) (x : PdPort), x = m.rng.pd[p] →
      (m.portRuns p = true → x.lastSent = 0 ∨ x.lastSent + m.pdiTicks ≤ m.now → Answers (.pdelayReqSend dt p) s fun t =>
        t.out = .pdelayReq p :: m.out ∧ t.rng.pd[p] = { x with lastSent := m.now } ∧
        t.rd (R.RNG_P_TXFRAMES p) = min (m.rd (R.RNG_P_TXFRAMES p) + 1) (2 ^ 32 - 1) ∧ m.Keeps t [(R.RNG_P_TXFRAMES p).a] ∧
        t = { m with rng := t.rng, regs := t.regs, out := t.out }) ∧
      (m.portRuns p = false → Answers (.pdelayReqSend dt p) s (· = m)) ∧
      (∀ n : Nat, (m.portRuns p = true → Answers (.pdelayReqReceive dt p n) s fun t => t.out = .pdelayResp p n :: m.out ∧
          t.rd (R.RNG_P_RXFRAMES p) = min (m.rd (R.RNG_P_RXFRAMES p) + 1) (2 ^ 32 - 1) ∧
          t.rd (R.RNG_P_TXFRAMES p) = min (m.rd (R.RNG_P_TXFRAMES p) + 1) (2 ^ 32 - 1) ∧
          m.Keeps t [(R.RNG_P_RXFRAMES p).a, (R.RNG_P_TXFRAMES p).a] ∧ t = { m with regs := t.regs, out := t.out }) ∧
        (m.portRuns p = false → Answers (.pdelayReqReceive dt p n) s (· = m))) ∧
      (∀ (t1 t2 t3 t4 d : Int), (m.portRuns p = false ∨ x.lastSent + m.pdiTicks < m.now → Answers (.pdelayMeasurement dt p t1 t2 t3 t4) s (· = m)) ∧
        (m.portRuns p = true → m.now ≤ x.lastSent + m.pdiTicks → 2 * d = (t4 - t1) - (t3 - t2) → 0 ≤ d → d < 2 ^ 32 →
          (m.rd (R.RNG_P_PSTAT_PDOK p) = 0 → Answers (.pdelayMeasurement dt p t1 t2 t3 t4) s fun t =>
            (t.rd (R.RNG_P_PDELAY p) : Int) = d ∧ t.rd (R.RNG_P_PSTAT_PDOK p) = 1 ∧ (t.rd (R.RNG_P_PDLAST p) : Int) = d ∧
            t.rng.pd[p].last4 = [d] ∧ m.Keeps t [(R.RNG_P_PDELAY p).a, (R.RNG_P_PSTAT_PDOK p).a, (R.RNG_P_PDLAST p).a] ∧
            t = { m with rng := t.rng, regs := t.regs }) ∧
          (m.rd (R.RNG_P_PSTAT_PDOK p) = 1 → (d - m.rd (R.RNG_P_PDELAY p)).natAbs ≤ m.rd R.RNG_PTP_CTRL_PSLIM * 65536 →
            Answers (.pdelayMeasurement dt p t1 t2 t3 t4) s fun t =>
              t.rng.pd[p].last4 = (d :: x.last4).take 4 ∧ t.rng.pd[p].outliers = 0 ∧
              t.rd (R.RNG_P_PDELAY p) = pdWord (meanPd ((d :: x.last4).take 4)) ∧
              m.Keeps t [(R.RNG_P_PDELAY p).a, (R.RNG_P_PDLAST p).a] ∧ t = { m with rng := t.rng, regs := t.regs }) ∧
          (m.rd (R.RNG_P_PSTAT_PDOK p) = 1 → m.rd R.RNG_PTP_CTRL_PSLIM * 65536 < (d - m.rd (R.RNG_P_PDELAY p)).natAbs →
            (m.rd (R.RNG_P_PSTAT_PATH_STEP p) = 1 → Answers (.pdelayMeasurement dt p t1 t2 t3 t4) s fun t =>
              (t.rd (R.RNG_P_PSVAL p) : Int) = d ∧ m.OnlyRegs t [(R.RNG_P_PSVAL p).a, (R.RNG_P_PDLAST p).a]) ∧
            (m.rd (R.RNG_P_PSTAT_PATH_STEP p) = 0 → x.outliers < 2 → Answers (.pdelayMeasurement dt p t1 t2 t3 t4) s fun t =>
              t.rd (R.RNG_P_OUTLIER p) = min (m.rd (R.RNG_P_OUTLIER p) + 1) (2 ^ 32 - 1) ∧ t.rng.pd[p] = { x with outliers := x.outliers + 1 } ∧
              m.Keeps t [(R.RNG_P_OUTLIER p).a, (R.RNG_P_PDLAST p).a] ∧ t = { m with rng := t.rng, regs := t.regs }) ∧
            (m.rd (R.RNG_P_PSTAT_PATH_STEP p) = 0 → 2 ≤ x.outliers → Answers (.pdelayMeasurement dt p t1 t2 t3 t4) s fun t =>
              t.rd (R.RNG_P_PSTAT_PATH_STEP p) = 1 ∧ (t.rd (R.RNG_P_PSVAL p) : Int) = d ∧ t.evt 24 = 1 ∧
              t.rd (R.RNG_P_PDELAY p) = m.rd (R.RNG_P_PDELAY p) ∧
              m.Keeps t ([(R.RNG_P_PSTAT_PATH_STEP p).a, (R.RNG_P_PSVAL p).a, (R.RNG_P_PDLAST p).a] ++ raiseRegs 24))))))

/-- R422, R424 to R426.  That a late module frame counts LATEFRM is DEDUCED (log entry 77). -/
def Obligations.CyclicFrames : Prop :=
  ∀ (s : State) (dt : Nat) (m : Mach), m = s.at dt →
    (∀ cy due : Nat, cy = m.nextCycle → due = m.mtOf (m.launchPt cy) →
      (m.rd R.RNG_CTRL_CYCEN = 0 ∨ m.ringMode = 0 ∨ m.mt < due - 16000 ∨ m.rng.own.head?.map (·.cycle.toNat) = some cy →
        Answers (.cyclicFrameLaunch dt) s (· = m)) ∧
      (m.rd R.RNG_CTRL_CYCEN = 1 → m.ringMode ≠ 0 → m.pstate ≠ 3 → due - 16000 ≤ m.mt →
        m.rng.own.head?.map (·.cycle.toNat) ≠ some cy → Answers (.cyclicFrameLaunch dt) s fun t =>
          (∃ o rs sg, t.rng.own.head? = some o ∧ o.cycle = BitVec.ofNat 32 cy ∧ o.due = due ∧
            o.tag = (if m.ringMode = 1 then some m.rng.hsrSeq else none) ∧
            o.frame = { ver := 1, kind := 0, num := BitVec.ofNat 8 (m.rd R.TRL_CTRL_MODID), ptv := m.rd R.TRL_CTRL_PTVALID == 1,
                        cycle := BitVec.ofNat 32 cy, seq := m.rng.cycSeq, sections := rs ++ [.sig sg], fits := true } ∧
            sg.length = 4 ∧
            sg.head?.map (fun r => (r.cycle, r.setm, r.clrm)) = some (BitVec.ofNat 32 cy,
              netMasks (m.rng.chg.filter fun c => decide (c.1 ≤ due - 16000))) ∧
            (∀ l, .axCmd l ∈ rs → l.map (·.axis) = (m.dueAxes cy).map fun a => BitVec.ofNat 3 a.val) ∧
            (∀ l, .req l ∈ rs → l = (m.ringReqs cy (due - 16000)).take 48) ∧
            ((m.dueAxes cy) ≠ [] → ∃ l, .axCmd l ∈ rs)) ∧
          t.rng.cycSeq = m.rng.cycSeq + 1 ∧ t.rng.chg = m.rng.chg.filter (fun c => decide (due - 16000 < c.1)) ∧
          (∀ a ∈ m.dueAxes cy, t.axis[a].cmdSeq = m.axis[a].cmdSeq + 1) ∧ (∀ a ∉ m.dueAxes cy, t.axis[a] = m.axis[a]) ∧
          t.rd R.TRL_RQDROP = min (m.rd R.TRL_RQDROP + ((m.ringReqs cy (due - 16000)).length - 48)) (2 ^ 32 - 1) ∧
          (due < m.mt + 40 → t.evt 20 = 1) ∧ t.mem = m.mem ∧ t.fe = m.fe)) ∧
    (∀ (p : Fin 2) (f : CycFrame) (id : Nat), m.Quiet → id = f.num.toNat →
      (m.ringUp = false → Answers (.cyclicFrameReceive dt p f) s (· = m)) ∧
      (m.ringUp = true → f.kind = 0 → id = m.rd R.TRL_CTRL_MODID → m.ringMode = 1 → Answers (.cyclicFrameReceive dt p f) s fun t =>
        t.rd (R.RNG_P_RXFRAMES p) = min (m.rd (R.RNG_P_RXFRAMES p) + 1) (2 ^ 32 - 1) ∧ m.OnlyRegs t [(R.RNG_P_RXFRAMES p).a]) ∧
      (m.ringUp = true → f.kind ≠ 0 ∨ id ≠ m.rd R.TRL_CTRL_MODID →
        (cycOk f = false → m.raisedThisTick 28 = false → Answers (.cyclicFrameReceive dt p f) s fun t =>
          t.rd R.RNG_CYCBAD = min (m.rd R.RNG_CYCBAD + 1) (2 ^ 32 - 1) ∧ t.evt 28 = 1 ∧ t.rng = m.rng ∧ t.axis = m.axis) ∧
        (cycOk f = true → f.kind = 0 →
          (id ∉ m.rmask → Answers (.cyclicFrameReceive dt p f) s fun t => t.rng = m.rng ∧ t.axis = m.axis ∧ t.signals = m.signals ∧
            m.Keeps t [(R.RNG_P_RXFRAMES p).a, (R.RNG_P_TXFRAMES (otherPort p)).a] ∧ t = { m with regs := t.regs, out := t.out }) ∧
          (id ∈ m.rmask → m.decideAt f.cycle.toNat < m.mt → Answers (.cyclicFrameReceive dt p f) s fun t =>
            t.rd R.TRL_LATEFRM = min (m.rd R.TRL_LATEFRM + 1) (2 ^ 32 - 1) ∧ t.rng = m.rng ∧ t = { m with regs := t.regs, out := t.out }) ∧
          (id ∈ m.rmask → m.mt ≤ m.decideAt f.cycle.toNat → (∀ q ∈ m.rng.rx, ¬(q.cycle = f.cycle ∧ q.modid = id)) →
            Answers (.cyclicFrameReceive dt p f) s fun t =>
              t.rng.rx.head? = some { cycle := f.cycle, modid := id, at_ := m.mt, ports := [p], reqs := cycReqs f, sigs := cycSigs f } ∧
              (∀ r ∈ cycSigs f, r.cycle ∉ m.rng.applied → ∃ r', (id, r') ∈ t.rng.sigRecs ∧ r'.cycle = r.cycle) ∧
              .cyc (otherPort p) f none ∈ t.out ∧ t.signals = m.signals ∧ t = { m with rng := t.rng, regs := t.regs, out := t.out }) ∧
          (∀ q, id ∈ m.rmask → m.mt ≤ m.decideAt f.cycle.toNat → m.rng.rx.find? (fun q => q.cycle == f.cycle && q.modid == id) = some q →
            Answers (.cyclicFrameReceive dt p f) s fun t =>
              t.rd (R.RNG_P_DUPDROP p) = min (m.rd (R.RNG_P_DUPDROP p) + 1) (2 ^ 32 - 1) ∧ t.rng.sigRecs = m.rng.sigRecs ∧
              t.rng.rx.length = m.rng.rx.length ∧ t = { m with rng := t.rng, regs := t.regs, out := t.out })) ∧
        (cycOk f = true → f.kind = 1 →
          (∀ a : Fin 8, m.rd (R.AXE_AX_CFG_KIND a) ≠ 1 ∨ m.rd (R.RNG_AX_DRV_DRV a) ≠ id ∨ (cycFbs f).length ≤ m.rd (R.RNG_AX_DRV_IDX a) →
            Answers (.cyclicFrameReceive dt p f) s fun t => t.axis[a] = m.axis[a]) ∧
          (∀ (a : Fin 8) (r : AxFbRec), m.rd (R.AXE_AX_CFG_KIND a) = 1 → m.rd (R.RNG_AX_DRV_DRV a) = id →
            (cycFbs f)[m.rd (R.RNG_AX_DRV_IDX a)]? = some r → m.axis[a].qstop = false → m.axis[a].homing = none → r.fault = false →
            r.ready = true → Answers (.cyclicFrameReceive dt p f) s fun t =>
              t.axis[a] = { m.axis[a] with apos := r.apos, fbSeen := true, fbMiss := 0, lastIdx := r.idx }))))

/-- R436, R437, R439, R441, R444, R545.  The measured feed voltages are free values (log entry 81). -/
def Obligations.FeedsAndRails : Prop :=
  ∀ (s : State) (dt : Nat) (m : Mach), m = s.at dt →
    (∀ (f : Feed) (k : Nat), k = feedNo f →
      (m.rd (feedOk k) = 1 → Answers (.feedPresent dt f) s (· = m)) ∧
      (m.rd (feedOk k) = 0 → Answers (.feedPresent dt f) s fun t =>
        t.rd (feedOk k) = 1 ∧ t.env = { m.env with holdup := false } ∧ t.evt 2 = 1 ∧
        t.rd R.PWR_FEED_ACT = (if m.rd R.PWR_FEED_AOK = 0 ∧ m.rd R.PWR_FEED_BOK = 0 then k else m.rd R.PWR_FEED_ACT) ∧
        m.Keeps t ([R.PWR_FEED_ACT.a, (feedMv k).a] ++ raiseRegs 2) ∧
        t = { m with regs := t.regs, out := t.out, cbk := t.cbk, env := t.env, free := t.free }) ∧
      (m.rd (feedOk k) = 0 ∨ m.rd R.PWR_FEED_ACT = k → Answers (.feedCeasesPresent dt f) s (· = m)) ∧
      (m.rd (feedOk k) = 1 → m.rd R.PWR_FEED_ACT ≠ k → Answers (.feedCeasesPresent dt f) s fun t =>
        t.rd (feedOk k) = 0 ∧ t.rd R.PWR_FEED_ACT = m.rd R.PWR_FEED_ACT ∧ t.evt 2 = 1 ∧
        m.Keeps t ([R.PWR_FEED_ACT.a, (feedMv k).a] ++ raiseRegs 2) ∧
        t = { m with regs := t.regs, out := t.out, cbk := t.cbk, free := t.free })) ∧
    (∀ k : Nat, k = m.rd R.PWR_FEED_ACT →
      (m.rd (feedOk (1 - k)) = 1 → m.env.switchAt = none ∨ (∃ u, m.env.switchAt = some u ∧ u + 80000000 ≤ m.now) →
        Answers (.feedFail dt) s fun t =>
          t.rd R.PWR_FEED_ACT = 1 - k ∧ t.rd (feedOk k) = 0 ∧ t.rd R.PWR_FEED_SWN = min (m.rd R.PWR_FEED_SWN + 1) (2 ^ 16 - 1) ∧
          t.evt 1 = 1 ∧ t.evt 2 = 1 ∧ t.env = { m.env with switchAt := some m.now } ∧
          m.Keeps t ([R.PWR_FEED_ACT.a, (feedMv k).a] ++ raiseRegs 1 ++ raiseRegs 2) ∧
          t = { m with regs := t.regs, out := t.out, cbk := t.cbk, env := t.env, free := t.free }) ∧
      (m.rd (feedOk (1 - k)) = 0 ∨ (∃ u, m.env.switchAt = some u ∧ m.now < u + 80000000) →
        Answers (.feedFail dt) s fun t =>
          m.GlobalFault t 2 ∧ t.evt 2 = 1 ∧ t.env.holdup = true)) ∧
    (m.open? 0x10000 = true →
      (m.rd (feedOk (1 - m.rd R.PWR_FEED_ACT)) = 1 → Answers (.feedSwitch dt) s fun t =>
        t.rd R.PWR_FEED_ACT = 1 - m.rd R.PWR_FEED_ACT ∧ t.rd R.PWR_FEED_SWN = min (m.rd R.PWR_FEED_SWN + 1) (2 ^ 16 - 1) ∧ t.evt 1 = 1 ∧
        m.Keeps t (R.PWR_FEED_ACT.a :: raiseRegs 1) ∧ t = { m with regs := t.regs, out := t.out, cbk := t.cbk, env := t.env }) ∧
      (m.rd (feedOk (1 - m.rd R.PWR_FEED_ACT)) = 0 → Answers (.feedSwitch dt) s fun t =>
        t.rd R.PWR_FEED_CMD_CMDERR = 1 ∧ t.rd R.PWR_FEED_ACT = m.rd R.PWR_FEED_ACT ∧ m.OnlyRegs t [R.PWR_FEED_CMD_CMDERR.a])) ∧
    (m.env.holdup = false → Answers (.holdupExhausted dt) s (· = m)) ∧
    (m.env.holdup = true → Answers (.holdupExhausted dt) s fun t =>
      t.env.powered = false ∧ (∀ n : Fin 16, t.Dark n) ∧ t.safeOut = false ∧ t.mem.bytes = [] ∧ t.tim.ot = m.tim.ot ∧ t.tim.otSaved = m.tim.ot ∧
      t.cbk.queue = [] ∧ (m.cbk.queue = [] → t.cbk.book = m.cbk.book)) ∧
    (∀ r : Rail,
      Answers (.railExcursion dt r) s (fun t => t.rd ⟨R.PWR_RAILERR.a, railBit r, railBit r⟩ = 1 ∧ m.OnlyRaised t 3 [R.PWR_RAILERR.a]) ∧
      (m.rd ⟨R.PWR_RAILERR.a, railBit r, railBit r⟩ = 1 → Answers (.railRestart dt r) s (fun t => m.AfterReset t kRail)) ∧
      (m.rd ⟨R.PWR_RAILERR.a, railBit r, railBit r⟩ = 0 → Answers (.railRestart dt r) s fun t =>
        ∃ l, ({ m with cbk := { m.cbk with queue := m.cbk.queue ++ l } } : Mach).AfterReset t kRail)) ∧
    (∀ (mv : BitVec 10) (v o : Nat), v = m.rd R.PWR_VCORE_SET →
      o = (if m.env.vslew.2 + (max m.env.vslew.1 v - min m.env.vslew.1 v) * 200 ≤ m.now then v else m.env.vslew.1) →
      (min o v ≤ mv.toNat + 35 → mv.toNat ≤ max o v + 35 → Answers (.vcoreMeasurement dt mv) s fun t =>
        t.rd R.PWR_VCORE_MEAS = mv.toNat ∧ t.rd R.PWR_VCORE_SET = v ∧ m.OnlyRegs t [R.PWR_VCORE_MEAS.a]) ∧
      (mv.toNat + 35 < min o v ∨ max o v + 35 < mv.toNat → Answers (.vcoreMeasurement dt mv) s (· = m)))

/-- R446 to R450. -/
def Obligations.PowerStates : Prop :=
  ∀ (s : State) (dt : Nat) (m : Mach), m = s.at dt →
    (m.open? 0x10000 = true →
      (∀ c : Instr, c = .pstateActive dt ∨ c = .pstateHold dt ∨ c = .pstateIdle dt ∨ c = .pstateStandby dt → m.Quiet →
        (m.rd R.THM_STATUS_TRIPLATCH = 1 → Answers c s fun t =>
          t.rd R.PWR_PSTATE_REFUSED = 1 ∧ t.rd R.PWR_PSTATE_REASON = 3 ∧ t.pstate = m.pstate ∧ m.OnlyRegs t [R.PWR_PSTATE_STATE.a]) ∧
        (m.rd R.THM_STATUS_TRIPLATCH = 0 →
          (c = .pstateActive dt ∧ (m.pstate = 0 ∨ m.pstate = 3)) ∨ (c = .pstateHold dt ∧ m.pstate ≠ 0) ∨
            (c = .pstateIdle dt ∧ 2 ≤ m.pstate) ∨ (c = .pstateStandby dt ∧ m.pstate = 3) → Answers c s fun t =>
          t.rd R.PWR_PSTATE_REFUSED = 1 ∧ t.rd R.PWR_PSTATE_REASON = 2 ∧ t.pstate = m.pstate ∧ m.OnlyRegs t [R.PWR_PSTATE_STATE.a])) ∧
      (m.rd R.THM_STATUS_TRIPLATCH = 0 →
        (m.pstate = 0 → Answers (.pstateHold dt) s fun t =>
          t.pstate = 1 ∧ t.evt 4 = 1 ∧ t.mode = m.mode ∧ t.saf.holdAt = some m.mt ∧ (∀ x, t.ctx x = m.ctx x) ∧
          (∀ a : Fin 8, m.axis[a].moves m.mt = false → m.axis[a].queue = [] → t.axis[a] = m.axis[a]) ∧
          (∀ a : Fin 8, m.axis[a].moves m.mt = true → m.axis[a].stop = none → t.axis[a].st = .stopping ∧ t.axis[a].endVel = 0) ∧
          ((∀ n : Fin 16, m.fe[n].dwell = none) → m.Keeps t ([R.PWR_PSTATE_STATE.a, R.GLB_MODE_PSTATE.a] ++ raiseRegs 4)) ∧
          t = { m with fe := t.fe, axis := t.axis, saf := t.saf, regs := t.regs, out := t.out, cbk := t.cbk }) ∧
        (m.pstate = 1 → m.Quiet → Answers (.pstateActive dt) s fun t =>
          t.pstate = 0 ∧ t.evt 4 = 1 ∧ t.mode = m.mode ∧ t.saf.holdAt = none ∧ (∀ x, t.ctx x = m.ctx x) ∧
          (∀ a : Fin 8, m.axis[a].st ≠ .held → t.axis[a] = m.axis[a]) ∧
          (∀ a : Fin 8, m.axis[a].st = .held → t.axis[a].st ≠ .held ∧ t.axis[a].queue = m.axis[a].queue) ∧
          m.Keeps t ([R.PWR_PSTATE_STATE.a, R.GLB_MODE_PSTATE.a] ++ raiseRegs 4) ∧
          t = { m with fe := t.fe, coo := t.coo, axis := t.axis, saf := t.saf, regs := t.regs, out := t.out, cbk := t.cbk }) ∧
        (m.pstate = 2 → m.Quiet → Answers (.pstateActive dt) s fun t => t.pstate = 0 ∧ t.evt 4 = 1 ∧ t.mode = m.mode) ∧
        (m.mode ≠ modeArmed →
          (m.pstate ≤ 1 → (∀ x, ctxBusy (m.ctx x).st = false) → m.saveBase ≠ 0 → Answers (.pstateIdle dt) s fun t =>
            t.pstate = 2 ∧ t.evt 4 = 1 ∧ t.mode = m.mode ∧ (∀ j < 160, t.runs j = false) ∧
            (∀ n : Fin 16, t.pins[n].gen = false ∧ t.rd (R.SAF_FS_STATUS_GEN n) = 0 ∧ t.fe[n].cor = none) ∧
            t.hs = m.hs ∧ t.rng = m.rng ∧ t.tim = m.tim) ∧
          (m.pstate ≤ 2 → (∀ x, ctxBusy (m.ctx x).st = false) → m.saveBase ≠ 0 → Answers (.pstateStandby dt) s fun t =>
            t.pstate = 3 ∧ t.mode = m.mode ∧ t.mem.bytes = [] ∧ (∀ n : Fin 16, t.Dark n) ∧ t.saf.msRun = true ∧
            (∀ a : Fin 8, t.axis[a].ref = false) ∧ (∀ i : Fin 64, t.hsState i = 0) ∧ t.rd R.GLB_RSTCAUSE_KIND = m.rd R.GLB_RSTCAUSE_KIND ∧
            t.rd R.RNG_CTRL_MODE = m.rd R.RNG_CTRL_MODE ∧ t.cbk.book = m.cbk.book ∧ t.tim.ot = m.tim.ot) ∧
          (m.pstate ≤ 1 → (∃ x, ctxBusy (m.ctx x).st = true) → ∀ c, c = Instr.pstateIdle dt ∨ c = .pstateStandby dt → Answers c s fun t =>
            t.rd R.PWR_PSTATE_REFUSED = 1 ∧ t.rd R.PWR_PSTATE_REASON = 1 ∧ t.pstate = m.pstate ∧ m.OnlyRegs t [R.PWR_PSTATE_STATE.a]) ∧
          (m.pstate ≤ 1 → (∀ x, ctxBusy (m.ctx x).st = false) → m.saveBase = 0 → ∀ c, c = Instr.pstateIdle dt ∨ c = .pstateStandby dt →
            Answers c s fun t =>
              t.rd R.PWR_PSTATE_REFUSED = 1 ∧ t.rd R.PWR_PSTATE_REASON = 4 ∧ t.pstate = m.pstate ∧ m.OnlyRegs t [R.PWR_PSTATE_STATE.a])) ∧
        (m.mode = modeArmed → m.pstate ≤ 1 → m.someRun = false → (∃ x, ctxBusy (m.ctx x).st = true) →
          ∀ c, c = Instr.pstateIdle dt ∨ c = .pstateStandby dt → Answers c s fun t =>
            t.mode = modeReady ∧ t.evt 12 = 1 ∧ t.rd R.PWR_PSTATE_REASON = 1 ∧ t.pstate = m.pstate))) ∧
    (∀ (key : Word) (c : Instr), (c = .wakeOt dt ∧ m.rd R.PWR_WAKE_OT ≠ 0 ∧ m.rd R.PWR_WAKE_OT ≤ m.tim.otSec) ∨
        (c = .wakeFrame dt key ∧ key ≠ 0 ∧ m.rd R.PWR_WAKEKEY = key.toNat) → m.pstate = 3 → m.env.waking = false →
      (m.rd R.THM_STATUS_TRIPLATCH = 0 ∨ m.boardCool = true → Answers c s fun t =>
        t.mode = modeSafe ∧ t.rd R.GLB_RSTCAUSE_KIND = 6 ∧ t.rd R.THM_STATUS_TRIPLATCH = 0 ∧ t.rd R.HS_BOOT_STAGE = 1 ∧ t.pstate = 3 ∧
        t.env = { m.env with waking := true, wakePend := false } ∧
        m.Keeps t [R.GLB_MODE_MODE.a, R.GLB_RSTCAUSE_KIND.a, R.THM_STATUS_TRIPLATCH.a, R.HS_BOOT_STAGE.a] ∧
        t = { m with env := t.env, regs := t.regs }) ∧
      (m.rd R.THM_STATUS_TRIPLATCH = 1 → m.boardCool = false → Answers c s (· = m.setEnv { m.env with wakePend := true }))) ∧
    (∀ (key : Word) (c : Instr), (c = .wakeOt dt ∧ (m.rd R.PWR_WAKE_OT = 0 ∨ m.tim.otSec < m.rd R.PWR_WAKE_OT ∨ m.pstate ≠ 3)) ∨
        (c = .wakeFrame dt key ∧ (m.rd R.PWR_WAKEKEY = 0 ∨ m.rd R.PWR_WAKEKEY ≠ key.toNat ∨ m.pstate ≠ 3)) → Answers c s (· = m))

/-- R451 to R455, R458, R460 to R462, R465. -/
def Obligations.ThermalAndCalibration : Prop :=
  ∀ (s : State) (dt : Nat) (m : Mach), m = s.at dt →
    (∀ (r : List Int) (tj : Int), r.length = 88 → m.pstate ≤ 2 → (∀ k < 88, m.rd (R.THM_S_BROKEN k) = 0 ∧ m.rd (R.THM_S_NOSUB k) = 0) →
      m.env.dev.length = 88 →
      ((∀ k < 88, m.deviates r k = false) → tj = maxTemp (r.take 64) →
        (tj < 1600 → Answers (.thermalRead dt r) s fun t =>
          t.rd R.THM_TJ_TJ = unsigned 16 tj ∧ t.rd R.THM_TJ_LEVEL = m.rd R.THM_TJ_LEVEL ∧ t.rd R.THM_STATUS_NBROKEN = 0 ∧
          (∀ k < 88, t.rd (R.THM_S_TEMP k) = unsigned 16 (r.getD k 0) ∧ t.env.dev.getD k 0 = 0) ∧ t.out = m.out ∧
          t = { m with regs := t.regs, env := t.env }) ∧
        (1600 ≤ tj → tj < 1760 → m.rd R.THM_TJ_LEVEL = 0 → Answers (.thermalRead dt r) s fun t =>
          t.rd R.THM_TJ_TJ = unsigned 16 tj ∧ t.rd R.THM_TJ_LEVEL = 1 ∧ t.evt 6 = 1 ∧ t.mode = m.mode ∧ t.mem = m.mem) ∧
        (1760 ≤ tj → tj < 2000 → m.rd R.THM_TJ_LEVEL ≤ 1 → Answers (.thermalRead dt r) s fun t =>
          t.rd R.THM_TJ_LEVEL = 2 ∧ t.rd R.THM_STATUS_SHED = 1 ∧ t.evt 7 = 1 ∧ t.rd R.MEM_RACKRATE_EFF ≤ 5 ∧ t.mode = m.mode) ∧
        (2000 ≤ tj → m.rd R.THM_STATUS_TRIPLATCH = 0 → Answers (.thermalRead dt r) s fun t =>
          t.rd R.THM_STATUS_TRIPLATCH = 1 ∧ t.pstate = 3 ∧ t.mode ≠ modeReady ∧ t.mode ≠ modeArmed ∧ ∀ n : Fin 16, t.Dark n)) ∧
      (∀ k < 88, m.deviates r k = true → (∀ j < 88, j ≠ k → m.deviates r j = false) → (∀ i : Int, i ∈ r → i < 1600) →
        (m.env.dev.getD k 0 < 9 → Answers (.thermalRead dt r) s fun t =>
          t.rd (R.THM_S_BROKEN k) = 0 ∧ t.env.dev.getD k 0 = m.env.dev.getD k 0 + 1 ∧ t.rd R.THM_STATUS_NBROKEN = 0 ∧ t.out = m.out) ∧
        (m.env.dev.getD k 0 = 9 → Answers (.thermalRead dt r) s fun t =>
          t.rd (R.THM_S_BROKEN k) = 1 ∧ t.rd R.THM_STATUS_NBROKEN = 1 ∧ t.evt 9 = 1 ∧ t.rd (R.THM_S_NOSUB k) = 0 ∧
          (∀ j < 88, j ≠ k → t.rd (R.THM_S_BROKEN j) = 0)))) ∧
    ((∀ t0, m.rd R.THM_TJ_LEVEL = 2 → m.env.cool.getD 1 none = some t0 → t0 + 800000000 ≤ m.now → m.env.cool.getD 0 none = none →
        Answers (.thresholdClear dt) s fun t =>
          t.rd R.THM_TJ_LEVEL = 1 ∧ t.rd R.THM_STATUS_SHED = 0 ∧ t.rd R.MEM_RACKRATE_EFF = clampN 1 40 (m.rd R.MEM_RACKRATE_RATE) ∧
          m.OnlyRegs t [R.THM_TJ_LEVEL.a, R.THM_STATUS_SHED.a, R.MEM_RACKRATE_EFF.a]) ∧
      (∀ t0, m.rd R.THM_TJ_LEVEL = 1 → m.env.cool.getD 0 none = some t0 → t0 + 800000000 ≤ m.now → Answers (.thresholdClear dt) s fun t =>
        t.rd R.THM_TJ_LEVEL = 0 ∧ m.OnlyRegs t [R.THM_TJ_LEVEL.a]) ∧
      (m.rd R.THM_TJ_LEVEL = 0 ∨ m.rd R.THM_TJ_LEVEL = 3 ∨ m.env.cool = [none, none] → Answers (.thresholdClear dt) s (· = m))) ∧
    (∀ k : Fin 88, m.open? 0x20000 = true → Answers (.sensorClr dt k) s fun t =>
      t.rd (R.THM_S_BROKEN k) = 0 ∧ t.rd (R.THM_S_NOSUB k) = 0 ∧ t.env.dev.getD k 0 = 0 ∧
      m.Keeps t [(R.THM_S_BROKEN k).a, R.THM_STATUS_NBROKEN.a] ∧ t = { m with regs := t.regs, env := t.env }) ∧
    (m.pstate = 3 → Answers (.referenceCompensation dt) s (· = m)) ∧
    (m.pstate ≤ 2 → Answers (.referenceCompensation dt) s fun t =>
      t.env.refcorr.length = m.env.refcorr.length ∧ t = m.setEnv { m.env with refcorr := t.env.refcorr } ∧
      ∀ g < m.env.refcorr.length, t.env.refcorr.getD g 0 =
        if m.rd (R.THM_S_NOSUB (64 + g)) = 1 then m.env.refcorr.getD g 0 else m.rdS (R.AFE_TC g) * (m.rdS (R.THM_S_TEMP (64 + g)) - 400)) ∧
    (∀ (g : Fin 16) (w : TopMeas) (dac : Bool) (k : Nat), dac = decide (8 ≤ g.val) →
      (m.spareOf dac (g % 8) = none ∨ m.stepDue g = false ∨ m.rd R.AFE_CTRL = 0 ∨ 1 < m.pstate → Answers (.toppingStep dt g w) s (· = m)) ∧
      (m.spareOf dac (g % 8) = some k → m.stepDue g = true → m.rd R.AFE_CTRL = 1 → m.pstate ≤ 1 → m.env.top.length = 16 →
        (offsOk w.offs = true → gainOk w.gain = true → gainNear w.gain (m.rd (calGain dac k)) = true → w.track ≤ 64 → m.calBusy dac k = false →
          Answers (.toppingStep dt g w) s fun t =>
            t.rd (calOffs dac k) = unsigned 24 w.offs ∧ t.rd (calGain dac k) = w.gain ∧ t.rd (calSrc dac k) = 1 ∧ t.rd (calFailn dac k) = 0 ∧
            t.env.top.getD g none = some ⟨k, 8 * (g % 8) + m.env.nextCh.getD g 0⟩ ∧
            m.Keeps t [(calOffs dac k).a, (calGain dac k).a, (calSrc dac k).a] ∧ t = { m with regs := t.regs, env := t.env }) ∧
        (offsOk w.offs = false ∨ gainOk w.gain = false ∨ gainNear w.gain (m.rd (calGain dac k)) = false ∨ 64 < w.track →
          Answers (.toppingStep dt g w) s fun t =>
            t.rd R.AFE_CALFAIL = min (m.rd R.AFE_CALFAIL + 1) (2 ^ 32 - 1) ∧ t.evt 172 = 1 ∧
            t.rd (calFailn dac k) = min (m.rd (calFailn dac k) + 1) 3 ∧ t.rd (calOffs dac k) = m.rd (calOffs dac k) ∧
            t.rd (calGain dac k) = m.rd (calGain dac k) ∧
            (2 ≤ m.rd (calFailn dac k) → t.rd (calFailed dac k) = 1 ∧ t.rd (calSpare dac k) = 0 ∧ t.evt 173 = 1 ∧ t.env.top.getD g none = none) ∧
            (m.rd (calFailn dac k) < 2 → t.rd (calFailed dac k) = m.rd (calFailed dac k))))) ∧
    (∀ (g : Fin 16) (dac : Bool) (st : TopStep), dac = decide (8 ≤ g.val) →
      (m.env.top.getD g none = none ∨ m.mt % 2000 ≠ 0 ∨ 1 < m.pstate → Answers (.toppingSwap dt g) s (· = m)) ∧
      (m.env.top.getD g none = some st → m.mt % 2000 = 0 → m.pstate ≤ 1 → st.spare < 72 → st.channel < 64 →
        m.rd (calSlice dac st.channel) < 72 → m.rd (calSlice dac st.channel) ≠ st.spare → Answers (.toppingSwap dt g) s fun t =>
          t.rd (calSlice dac st.channel) = st.spare ∧ t.rd (calSpare dac st.spare) = 0 ∧
          t.rd (calSpare dac (m.rd (calSlice dac st.channel))) = 1 ∧ t.env.top.getD g none = none ∧
          m.Keeps t [(calSlice dac st.channel).a, (calSpare dac st.spare).a, (calSpare dac (m.rd (calSlice dac st.channel))).a] ∧
          t = { m with regs := t.regs, env := t.env })) ∧
    (∀ (dac : Bool) (k : Fin 72), m.open? 0x60000 = true →
      Answers (.sliceClr dt dac k) s (fun t =>
        t.rd (calFailed dac k) = 0 ∧ t.rd (calFailn dac k) = 0 ∧ t.rd (calSpare dac k) = bool01 (!m.sliceServes dac k) ∧
        m.OnlyRegs t [(calFailed dac k).a]) ∧
      ∀ (gain : Bool) (v : BitVec 24),
        (calWriteOk gain v = false → Answers (.calibrationWrite dt dac k gain v) s fun t =>
          t.rd (calWrerr dac k) = 1 ∧ m.OnlyRegs t [(calWrerr dac k).a]) ∧
        (calWriteOk gain v = true → Answers (.calibrationWrite dt dac k gain v) s fun t =>
          t.rd (if gain then calGain dac k else calOffs dac k) = v.toNat ∧ t.rd (calSrc dac k) = 2 ∧
          t.calWord dac gain k (if gain then calGain dac k else calOffs dac k) =
            BitVec.toNat (BitVec.ofNat 24 (m.calWord dac gain k (if gain then calGain dac k else calOffs dac k))) ∧
          (∃ c ∈ t.env.calHeld, c.dac = dac ∧ c.k = k ∧ c.gain = gain ∧ c.due = (m.mt / 2000 + 1) * 2000) ∧
          m.Keeps t [(calOffs dac k).a, (calGain dac k).a, (calSrc dac k).a] ∧ t = { m with regs := t.regs, env := t.env }))

/-- R26, R473, R475 to R478.  That ILK already standing is not declared again is DEDUCED (log entry 90). -/
def Obligations.InterlockAndGlobalFaults : Prop :=
  ∀ (s : State) (dt : Nat) (m : Mach), m = s.at dt →
    (∀ c : Ilk,
      (m.saf.level c = false → Answers (.interlockOpen dt c) s (· = m)) ∧
      (m.saf.level c = true → m.ilkClosed = true → Answers (.interlockOpen dt c) s fun t =>
        m.GlobalFault t 0 ∧ t.rd (ilkBit c) = 0 ∧ t.saf.level c = false ∧ t.evt 10 = 1 ∧
        ∀ n : Fin 16, t.pins[n].lgate = false ∧ t.pins[n].lmod = false) ∧
      (m.saf.level c = true → m.ilkClosed = false → m.rd ⟨R.SAF_GSTAT_CAUSE.a, 0, 0⟩ = 1 → Answers (.interlockOpen dt c) s fun t =>
        t.rd (ilkBit c) = 0 ∧ t.saf.level c = false ∧ t.evt 10 = 1 ∧ t.mode = m.mode ∧
        ∀ n : Fin 16, t.pins[n].lgate = false ∧ t.pins[n].lmod = false) ∧
      (m.saf.level c = true → Answers (.interlockClose dt c) s (· = m)) ∧
      (m.saf.level c = false → Answers (.interlockClose dt c) s fun t =>
        t.rd (ilkBit c) = 1 ∧ t.saf.level c = true ∧ t.evt 10 = 1 ∧ t.mode = m.mode ∧
        m.Keeps t (R.SAF_ILK_ILKA.a :: raiseRegs 10) ∧ t = { m with saf := t.saf, regs := t.regs, out := t.out, cbk := t.cbk })) ∧
    (∀ t0 : Nat, m.rd R.SAF_ILK_DISC = 0 → m.saf.discAt = some t0 → t0 + max 1 (m.rd R.SAF_ILKDISC) * 800000 < m.now → m.ilkClosed = false →
      (m.rd ⟨R.SAF_GSTAT_CAUSE.a, 0, 0⟩ = 1 → Answers (.ilkDiscrepancy dt) s fun t =>
        t.rd R.SAF_ILK_DISC = 1 ∧ t.evt 11 = 1 ∧ m.Keeps t (R.SAF_ILK_DISC.a :: raiseRegs 11) ∧
        t = { m with saf := t.saf, regs := t.regs, out := t.out, cbk := t.cbk }) ∧
      (m.rd ⟨R.SAF_GSTAT_CAUSE.a, 0, 0⟩ = 0 → Answers (.ilkDiscrepancy dt) s fun t =>
        m.GlobalFault t 0 ∧ t.rd R.SAF_ILK_DISC = 1 ∧ t.evt 11 = 1)) ∧
    (m.rd R.SAF_ILK_DISC = 1 ∨ m.saf.discAt = none → Answers (.ilkDiscrepancy dt) s (· = m)) ∧
    (m.open? 0x40000 = true →
      (m.saf.bothOpen = true → m.saf.bothClosed = true → Answers (.discClear dt) s fun t =>
        t.rd R.SAF_ILK_DISC = 0 ∧ m.OnlyRegs t [R.SAF_ILK_DISC.a]) ∧
      (m.saf.bothOpen = false ∨ m.saf.bothClosed = false → Answers (.discClear dt) s (· = m)) ∧
      (∀ (v p : BitVec 5),
        (p.getLsbD 0 = true ↔ m.ilkClosed = false) → (p.getLsbD 1 = true ↔ m.rd R.THM_STATUS_TRIPLATCH = 1) →
        (p.getLsbD 2 = true ↔ m.rd R.PWR_FEED_AOK = 0 ∨ m.rd R.PWR_FEED_BOK = 0) → (p.getLsbD 3 = true ↔ m.saf.msRun = false) →
        (p.getLsbD 4 = true ↔ ∃ l ∈ m.mem.poison, m.sharedLine (128 * l) = true) →
        Answers (.gstatClear dt v) s fun t =>
          (∀ k < 5, t.rd ⟨R.SAF_GSTAT_CAUSE.a, k, k⟩ =
            if v.getLsbD k = true ∧ p.getLsbD k = false then 0 else m.rd ⟨R.SAF_GSTAT_CAUSE.a, k, k⟩) ∧
          (t.rd R.SAF_GSTAT_ANY = 0 ↔ t.rd R.SAF_GSTAT_CAUSE = 0) ∧
          (t.safeOut = true ↔ m.saf.msRun = true ∧ t.rd R.SAF_GSTAT_CAUSE = 0) ∧ t.mode = m.mode ∧
          m.Keeps t [R.SAF_GSTAT_CAUSE.a, R.SAF_ILK_SAFEOUT.a] ∧ t = { m with regs := t.regs, safeOut := t.safeOut })) ∧
    (m.saf.msRun = false ∨ m.now < m.saf.hbAt + max 1 (m.rd R.SAF_MSWDT) * 800000 → Answers (.msHeartbeatTimeout dt) s (· = m)) ∧
    (m.saf.msRun = true → m.saf.hbAt + max 1 (m.rd R.SAF_MSWDT) * 800000 ≤ m.now → Answers (.msHeartbeatTimeout dt) s fun t =>
      m.GlobalFault t 3 ∧ t.saf.msRun = false ∧ t.saf.msfAt = some m.now ∧ t.evt 15 = 1) ∧
    (m.saf.msfAt = none → Answers (.msWatchdogReset dt) s (· = m)) ∧
    (m.saf.msfAt.isSome = true → Answers (.msWatchdogReset dt) s (m.AfterReset · 4))

/-- R26, R480 to R482, R484, R488. -/
def Obligations.ArmingAndResume : Prop :=
  ∀ (s : State) (dt : Nat) (m : Mach), m = s.at dt →
    (m.open? 0x40000 = true →
      (m.saf.armFirst = none → Answers (.armKeyFirst dt) s (· = m.setSaf { m.saf with armFirst := some m.now })) ∧
      (m.saf.armFirst.isSome = true → Answers (.armKeyFirst dt) s fun t =>
        t.rd R.SAF_ARM_STAT_KEYERR = 1 ∧ t.saf = { m.saf with armFirst := none } ∧ t.mode = m.mode) ∧
      (∀ v : Word, m.saf.armFirst = none → Answers (.armKeySecond dt v) s (· = m)) ∧
      (∀ (v : Word) (t0 : Nat), m.saf.armFirst = some t0 → v ≠ 0xFFFF5B1E ∨ t0 + 8000000 < m.now → Answers (.armKeySecond dt v) s fun t =>
        t.rd R.SAF_ARM_STAT_KEYERR = 1 ∧ t.rd R.SAF_ARM_STAT_AREASON = m.rd R.SAF_ARM_STAT_AREASON ∧
        t.saf = { m.saf with armFirst := none } ∧ m.Keeps t [R.SAF_ARM_STAT_KEYERR.a] ∧ t = { m with saf := t.saf, regs := t.regs }) ∧
      (∀ (t0 r : Nat) (c1 c2 c3 c4 c5 c6 c7 : Prop), m.saf.armFirst = some t0 → m.now ≤ t0 + 8000000 →
        (c1 ↔ m.rd R.SAF_GSTAT_CAUSE = 0) → (c2 ↔ m.ilkClosed = true) → (c3 ↔ m.mode = modeReady) → (c4 ↔ m.pstate ≤ 1) →
        (c5 ↔ ∀ n : Fin 16, bits (m.rd R.SAF_FIELDS) n n = 1 → m.inFs n = false) →
        (c6 ↔ ∀ n : Fin 16, bits (m.rd R.SAF_FIELDS) n n = 1 → m.locked n = true) → (c7 ↔ m.rd R.SAF_FIELDS ≠ 0) →
        ((r = 1 ∧ ¬c1) ∨ (r = 2 ∧ c1 ∧ ¬c2) ∨ (r = 3 ∧ c1 ∧ c2 ∧ ¬c3) ∨ (r = 4 ∧ c1 ∧ c2 ∧ c3 ∧ ¬c4) ∨ (r = 5 ∧ c1 ∧ c2 ∧ c3 ∧ c4 ∧ ¬c5) ∨
            (r = 6 ∧ c1 ∧ c2 ∧ c3 ∧ c4 ∧ c5 ∧ ¬c6) ∨ (r = 7 ∧ c1 ∧ c2 ∧ c3 ∧ c4 ∧ c5 ∧ c6 ∧ ¬c7) →
          Answers (.armKeySecond dt 0xFFFF5B1E) s fun t =>
            t.rd R.SAF_ARM_STAT_AREASON = r ∧ t.rd R.GLB_MODE_REFUSED = 1 ∧
            t.rd R.GLB_MODE_REASON = (if r = 1 ∨ r = 5 then 1 else if r = 2 then 2 else 3) ∧ t.mode = m.mode ∧
            t.saf = { m.saf with armFirst := none } ∧ m.Keeps t [R.SAF_ARM_STAT_AREASON.a, R.GLB_MODE_REFUSED.a] ∧
            t = { m with saf := t.saf, regs := t.regs }) ∧
        (c1 → c2 → c3 → c4 → c5 → c6 → c7 → Answers (.armKeySecond dt 0xFFFF5B1E) s fun t =>
          t.rd R.SAF_ARM_STAT_AREASON = 0 ∧ t.saf = { m.saf with armFirst := none, arming := some m.now } ∧ t.mode = modeReady ∧
          t.rd R.PWR_VCORE_SET = max 720 (m.rd R.PWR_VCORE_SET) ∧
          m.Keeps t [R.SAF_ARM_STAT_AREASON.a, R.PWR_VCORE_SET.a] ∧ t = { m with saf := t.saf, regs := t.regs, env := t.env })) ∧
      (∀ n : Fin 16, Answers (.genrel dt n) s fun t =>
        t.pins[n].gen = true ∧ t.rd (R.SAF_FS_STATUS_GEN n) = 1 ∧
        (m.pins[n].gen = false → t.pins[n].genAt = (m.mt / 2000 + 1) * 2000) ∧ (∀ k : Fin 16, k ≠ n → t.pins[k] = m.pins[k]) ∧
        m.Keeps t [(R.SAF_FS_STATUS_GEN n).a] ∧ t = { m with pins := t.pins, regs := t.regs }) ∧
      (∀ (n : Fin 16) (force : Bool) (r : Nat) (c1 c2 c3 c4 c5 c6 c7 c8 : Prop), m.Quiet →
        (c1 ↔ (m.inFs n = true → m.rd (R.SAF_FS_STATUS_RECOV n) = 1)) → (c2 ↔ ∀ c ∈ m.fe[n].fs.causes, m.causeAbsent n c = true) →
        (c3 ↔ m.rd R.SAF_GSTAT_CAUSE = 0) → (c4 ↔ m.rd (R.SAF_FS_STATUS_CKOK n) = 1 ∧ m.rd (R.SAF_FS_STATUS_LEDOK n) = 1) →
        (c5 ↔ (m.inFs n = true → m.rd R.SAF_RWIN = 0 ∨ m.mt < m.fe[n].fs.td + m.rd R.SAF_RWIN * 800000 ∨ force = true)) →
        (c6 ↔ (m.rd (R.SAF_FS_STATUS_DOUBT n) = 1 → m.pins[n].gen = true ∧ m.locked n = true)) →
        (c7 ↔ m.mode = modeReady ∨ m.mode = modeArmed) → (c8 ↔ m.inFs n = true) →
        ((r = 1 ∧ ¬c1) ∨ (r = 2 ∧ c1 ∧ ¬c2) ∨ (r = 3 ∧ c1 ∧ c2 ∧ ¬c3) ∨ (r = 4 ∧ c1 ∧ c2 ∧ c3 ∧ ¬c4) ∨ (r = 5 ∧ c1 ∧ c2 ∧ c3 ∧ c4 ∧ ¬c5) ∨
            (r = 6 ∧ c1 ∧ c2 ∧ c3 ∧ c4 ∧ c5 ∧ ¬c6) ∨ (r = 7 ∧ c1 ∧ c2 ∧ c3 ∧ c4 ∧ c5 ∧ c6 ∧ ¬c7) ∨
            (r = 8 ∧ c1 ∧ c2 ∧ c3 ∧ c4 ∧ c5 ∧ c6 ∧ c7 ∧ ¬c8) → Answers (.resume dt n force) s fun t =>
          t.rd (R.SAF_FS_STATUS_REFUSED n) = 1 ∧ t.rd (R.SAF_FS_STATUS_RREASON n) = r ∧ m.OnlyRaised t 13 [(R.SAF_FS_STATUS_REFUSED n).a]) ∧
        (c1 → c2 → c3 → c4 → c5 → c6 → c7 → c8 → 0x29 ∉ m.fe[n].fs.causes → Answers (.resume dt n force) s fun t =>
          t.inFs n = false ∧ t.rd (R.FE_FAULT_CAUSE n) = 0 ∧ t.evt 13 = 1 ∧ t.fe[n].reentry = some m.fe[n].fs ∧ t.fe[n].plan = [] ∧
          t.rd (R.SAF_FS_RESUMES n) = min (m.rd (R.SAF_FS_RESUMES n) + 1) (2 ^ 32 - 1) ∧
          (∀ c : Fin 8, (m.fe[n].ctx[c].st = .faulted ∨ m.fe[n].ctx[c].st = .suspended → t.fe[n].ctx[c].st = .ready ∧
              t.fe[n].ctx[c].ret = m.fe[n].ctx[c].ret ∧ t.fe[n].ctx[c].retired = m.fe[n].ctx[c].retired) ∧
            (m.fe[n].ctx[c].st ≠ .faulted → m.fe[n].ctx[c].st ≠ .suspended → t.fe[n].ctx[c] = m.fe[n].ctx[c])) ∧
          (t.fe[n].spotX, t.fe[n].spotY, t.fe[n].spotZ) = (m.fe[n].spotX, m.fe[n].spotY, m.fe[n].spotZ) ∧
          (∀ k : Fin 16, k ≠ n → t.fe[k] = m.fe[k]) ∧
          t = { m with fe := t.fe, slot := t.slot, regs := t.regs, out := t.out, cbk := t.cbk }))) ∧
    (∀ t0 : Nat, m.saf.armFirst = some t0 → t0 + 8000000 < m.now → Answers (.armKeyTimeout dt) s fun t =>
      t.rd R.SAF_ARM_STAT_KEYERR = 1 ∧ t.saf = { m.saf with armFirst := none } ∧ m.Keeps t [R.SAF_ARM_STAT_KEYERR.a] ∧
      t = { m with saf := t.saf, regs := t.regs }) ∧
    (m.saf.armFirst = none → Answers (.armKeyTimeout dt) s (· = m)) ∧
    (m.saf.arming.isSome = true → m.mode = modeReady → m.pstate ≤ 1 → 720 ≤ m.rd R.PWR_VCORE_SET → m.vcoreSettled = true →
      Answers (.armComplete dt) s fun t =>
        t.mode = modeArmed ∧ t.evt 12 = 1 ∧ t.saf = { m.saf with arming := none } ∧ m.Keeps t (R.GLB_MODE_MODE.a :: raiseRegs 12) ∧
        t = { m with saf := t.saf, regs := t.regs, out := t.out, cbk := t.cbk }) ∧
    (m.saf.arming = none ∨ m.mode ≠ modeReady ∨ 1 < m.pstate ∨ m.rd R.PWR_VCORE_SET < 720 → Answers (.armComplete dt) s (· = m)) ∧
    (∀ n : Fin 16,
      (m.inFs n = true → m.rd R.SAF_RWIN ≠ 0 → m.fe[n].fs.td + m.rd R.SAF_RWIN * 800000 ≤ m.mt → m.rd (R.SAF_FS_STATUS_WINEXP n) = 0 →
        Answers (.resumeWindowExpire dt n) s fun t =>
          t.rd (R.SAF_FS_STATUS_WINEXP n) = 1 ∧ m.OnlyRaised t 14 [(R.SAF_FS_STATUS_WINEXP n).a]) ∧
      (m.inFs n = false ∨ m.rd R.SAF_RWIN = 0 ∨ m.mt < m.fe[n].fs.td + m.rd R.SAF_RWIN * 800000 ∨ m.rd (R.SAF_FS_STATUS_WINEXP n) = 1 →
        Answers (.resumeWindowExpire dt n) s (· = m)))

/-- R496, R499, R500, R502, R503. -/
def Obligations.BookRecordsAndSummaries : Prop :=
  ∀ (s : State) (dt : Nat) (m : Mach), m = s.at dt →
    (∀ b1 b2 : Bool, m.saf.msRun = false ∨ m.cbk.queue = [] → Answers (.recordWrite dt b1 b2) s (· = m)) ∧
    (∀ (r : Rec) (rest : List Rec), m.saf.msRun = true → m.cbk.queue = r :: rest →
      (∀ (b1 b2 : Bool) (k : Nat), m.cbk.place r.sev = some k → b1 = true ∨ b2 = true → k < 131072 → Answers (.recordWrite dt b1 b2) s fun t =>
        t.cbk.queue = rest ∧ t.cbk.book.lookup k = some (m.nextSeq, r) ∧ (∀ j, j ≠ k → t.cbk.book.lookup j = m.cbk.book.lookup j) ∧
        (m.nextSeq + 1 < 2 ^ 48 → t.nextSeq = m.nextSeq + 1) ∧ t.rd R.CBK_LASTSLOT = k ∧ k ∉ t.cbk.torn ∧ t.cbk.bad = m.cbk.bad ∧
        (r.boot = true → r.code = 0 → m.nextSeq < 2 ^ 48 → t.rd R.GLB_BOOTSEQ_LO + t.rd R.GLB_BOOTSEQ_HI * 2 ^ 32 = m.nextSeq) ∧
        t = { m with cbk := t.cbk, regs := t.regs }) ∧
      (∀ k : Nat, m.cbk.place r.sev = some k → Answers (.recordWrite dt false false) s fun t =>
        t.cbk.queue.head? = some r ∧ k ∈ t.cbk.bad ∧ (∀ j, j ≠ k → t.cbk.book.lookup j = m.cbk.book.lookup j) ∧ t.nextSeq = m.nextSeq ∧
        t.rd R.CBK_BADSLOT = min (m.rd R.CBK_BADSLOT + 1) (2 ^ 32 - 1) ∧ t.evt 171 = 1) ∧
      (∀ b1 b2 : Bool, m.cbk.place r.sev = none → m.raisedThisTick 170 = false → Answers (.recordWrite dt b1 b2) s fun t =>
        t.cbk.book = m.cbk.book ∧ t.nextSeq = m.nextSeq ∧ t.rd R.CBK_DROPPED = min (m.rd R.CBK_DROPPED + 1) (2 ^ 32 - 1) ∧ t.evt 170 = 1 ∧
        ∃ l, t.cbk.queue = rest ++ l)) ∧
    (∀ v j : Nat, j < 131072 → m.cbk.used j = false → ∃ k ≤ j, m.cbk.place v = some k ∧ m.cbk.used k = false) ∧
    (∀ v k : Nat, (∀ j < 131072, m.cbk.used j = true) → m.cbk.place v = some k → ∃ q r, (k, q, r) ∈ m.cbk.book ∧ r.sev ≤ v ∧
      ∀ p ∈ m.cbk.book, p.2.2.sev ≤ v → q ≤ p.2.1) ∧
    (∀ v : Nat, (∀ j < 131072, m.cbk.used j = true) → m.cbk.place v = none → ∀ p ∈ m.cbk.book, v < p.2.2.sev) ∧
    (m.cbk.owed = false ∨ 256 < m.cbk.queue.length → Answers (.summaryEntry dt) s (· = m)) ∧
    (m.cbk.owed = true → m.cbk.queue.length ≤ 256 → Answers (.summaryEntry dt) s fun t =>
      t.cbk = { m.cbk with lost := [], owed := false, queue := m.cbk.queue ++ m.cbk.lost.map fun p =>
        { m.mkRec 169 p.1 (leBytes 4 p.2.n ++ leBytes 8 p.2.first ++ leBytes 8 p.2.last ++ leBytes 4 (m.rd (R.CBK_ANGEL p.1)) ++
          List.replicate 8 0) with sum := true, sev := p.2.sev } } ∧
      m.Keeps t [R.CBK_QLEVEL_QMAX.a] ∧ t = { m with cbk := t.cbk, regs := t.regs })

/-- R26, R27, R53, R404, R507 to R510, R512 to R514, R534. -/
def Obligations.ResetsAndBoot : Prop :=
  ∀ (s : State) (dt : Nat) (m : Mach), m = s.at dt →
    (∀ low : Nat, (low < 8000 → Answers (.resetL dt low) s (· = m)) ∧ (8000 ≤ low → Answers (.resetL dt low) s (m.AfterReset · 1))) ∧
    (∀ v : Word, (v ≠ 0x1D57B007 → Answers (.hostSoftReset dt v) s (· = m)) ∧
      (v = 0x1D57B007 → Answers (.hostSoftReset dt v) s (m.AfterReset · 2))) ∧
    (m.rd R.HS_CTRL = 0 → Answers (.hotReset dt) s fun t => m.AfterReset t 3 ∧ t.mem.poison = m.mem.poison) ∧
    (∀ (v : OtSlots) (a b : Bool), a = (v.slot0 && m.tim.crc0 == slotCrc m.tim.slot0) → b = (v.slot1 && m.tim.crc1 == slotCrc m.tim.slot1) →
      Answers (.powerOnReset dt v) s fun t =>
      t.mode = modeBoot ∧ t.rd R.GLB_RSTCAUSE_KIND = 0 ∧ (∀ n : Fin 16, t.Dark n ∧ t.inFs n = false) ∧ t.safeOut = false ∧
      (∀ x, (t.ctx x).st = .idle) ∧ t.mem.bytes = [] ∧ t.cbk.book = m.cbk.book ∧ t.cbk.queue = [] ∧ t.mt = 0 ∧ t.tim.mtRun = false ∧
      (a = true → b = false → t.tim.ot = otCycles m.tim.slot0.1 ∧ t.tim.pcc = BitVec.ofNat 24 (m.tim.slot0.2 + 1)) ∧
      (a = false → b = true → t.tim.ot = otCycles m.tim.slot1.1 ∧ t.tim.pcc = BitVec.ofNat 24 (m.tim.slot1.2 + 1)) ∧
      (a = true → b = true → m.tim.slot1.2 < m.tim.slot0.2 → t.tim.pcc = BitVec.ofNat 24 (m.tim.slot0.2 + 1)) ∧
      (a = false → b = false → t.tim.ot = 0 ∧ t.tim.pcc = 1)) ∧
    (∀ n : Fin 16, m.Quiet →
      (m.fe[n].busy = true → Answers (.fieldReset dt n) s fun t => t.rd R.GLB_RSTCAUSE_FRERR = 1 ∧ m.OnlyRegs t [R.GLB_RSTCAUSE_FRERR.a]) ∧
      (m.fe[n].busy = false → Answers (.fieldReset dt n) s fun t =>
        (∀ c : Fin 8, t.fe[n].ctx[c] = CtxRec.reset) ∧ t.fe[n].plan = [] ∧ t.fe[n].ckpts = [] ∧ t.inFs n = false ∧ t.evt (80 + n) = 1 ∧
        (t.fe[n].spotX, t.fe[n].spotY, t.fe[n].spotZ) = (m.fe[n].spotX, m.fe[n].spotY, m.fe[n].spotZ) ∧
        (∀ a, 0x800000 + n.val * 0x40000 ≤ a → a < 0x800000 + n.val * 0x40000 + 0x2000 → t.word a = resetWord a) ∧
        (∀ (c : Fin 8) (k : Nat), t.tokens.lookup k ≠ some (.fe n c)) ∧ (∀ k : Fin 16, k ≠ n → t.fe[k] = m.fe[k]) ∧
        t.mem.bytes = m.mem.bytes ∧ t.axis = m.axis ∧ t.coo = m.coo ∧ t.signals = m.signals)) ∧
    (∀ o : BootOutcome, (m.bootDue = false → Answers (.boot dt o) s (· = m)) ∧
      (m.bootDue = true → m.env.waking = false →
        (o.fwValid = false → Answers (.boot dt o) s fun t =>
          t.rd R.HS_BOOT_STAGE = 15 ∧ t.rd R.GLB_STATUS_BOOTERR = 1 ∧ t.mode = modeBoot) ∧
        (∀ (c d : Byte), o.fwValid = true → m.cbk.queue.length < 800 →
          (c = 3 ∧ (∃ r, o.railBad = some r ∧ d = BitVec.ofNat 8 (railBit r))) ∨ (c = 2 ∧ o.railBad = none ∧ o.synthLocks = false ∧ d = 0) →
          Answers (.boot dt o) s fun t =>
            t.rd R.HS_BOOT_STAGE = 15 ∧ t.rd R.GLB_STATUS_BOOTERR = 1 ∧ t.mode = modeBoot ∧
            ∃ r ∈ t.cbk.queue, r.src = 168 ∧ r.boot = true ∧ r.code = 4 ∧ r.payload.take 2 = [c, d]) ∧
        (o.fwValid = true → o.railBad = none → o.synthLocks = true → o.mramAnswers = false → Answers (.boot dt o) s fun t =>
          t.rd R.HS_BOOT_STAGE = 15 ∧ t.rd R.GLB_STATUS_BOOTERR = 1 ∧ t.mode = modeBoot ∧ t.tim.mtRun = true ∧ t.mt = 0) ∧
        (o.fwValid = true → o.railBad = none → o.synthLocks = true → o.mramAnswers = true → o.untrained = [] → o.domainBad = none →
          m.mem.out = [] → m.rd R.MEM_RMAP_CLR = 0 →
          (∀ c < 2, m.rd (R.MEM_CH_RMAP_L0 c) = 0 ∧ m.rd (R.MEM_CH_RMAP_L1 c) = 1 ∧ m.rd (R.MEM_CH_RMAP_SPARE c) = 2) →
          Answers (.boot dt o) s fun t =>
            t.rd R.HS_BOOT_STAGE = 3 ∧ t.rd R.HS_BOOT_DOMOPEN = 255 ∧ t.rd R.MEM_STATUS_TRAINED = 1 ∧ t.rd R.CBK_STATUS_READY = 1 ∧
            t.rd R.MEM_CAP_GIB = 32 ∧ t.rd R.MEM_CAP_SPARE = 16 ∧ t.tim.mtRun = true ∧ t.mt = 0 ∧ t.saf.msRun = true ∧ t.mode = modeBoot ∧
            (m.cbk.maxSeq + 1 < 2 ^ 48 → t.nextSeq = m.cbk.maxSeq + 1)))) ∧
    (∀ ms : Nat, (m.rd R.HS_BOOT_STAGE ≠ 3 → Answers (.bootComplete dt ms) s (· = m)) ∧
      (m.rd R.HS_BOOT_STAGE = 3 → Answers (.bootComplete dt ms) s fun t =>
        t.rd R.HS_BOOT_STAGE = 4 ∧ t.mode = modeSafe ∧ t.evt 168 = 1 ∧ (t.safeOut = true ↔ m.saf.msRun = true ∧ m.rd R.SAF_GSTAT_CAUSE = 0) ∧
        (m.env.waking = true → t.pstate = 0 ∧ t.evt 4 = 1 ∧ t.env.waking = false) ∧
        (m.env.waking = false → t.pstate = m.pstate ∧ (m.cbk.queue.length + 4 ≤ 832 →
          (t.cbk.queue.take m.cbk.queue.length = m.cbk.queue ∧
            (t.cbk.queue.drop m.cbk.queue.length).map (fun r => (r.src, r.boot, r.code)) =
              [(168, true, 0), (168, true, 1), (168, true, 2), (168, true, 3)]))) ∧ t.mem = m.mem ∧ t.fe = m.fe))

/-- R60. -/
def Obligations.OnTimeEndsARunOfMisses : Prop :=
  ∀ (s : State) (dt : Nat) (k : Fin 160) (m : Mach) (e : ExecRec) (rest : List ExecRec) (r : Option (Fin 160)), m = s.at dt → m.slot[k].exec = e :: rest →
    r = m.coreRuns (m.rd (R.CE_SLOT_CFG_CORE k)) →
    (r = some k → m.mt + 40 ≤ e.due → m.outViolates k e.due = false → Answers (.executionComplete dt k) s fun t =>
      t.rd (R.CE_SLOT_STATUS_CONSEC k) = 0 ∧ t.rd (R.CE_SLOT_STATUS_OVR k) = m.rd (R.CE_SLOT_STATUS_OVR k) ∧
      t.rd (R.CE_SLOT_MISS_MISS k) = m.rd (R.CE_SLOT_MISS_MISS k)) ∧
    (r = some k → e.due < m.mt + 40 → Answers (.executionComplete dt k) s fun t =>
      t.rd (R.CE_SLOT_STATUS_CONSEC k) = min 15 (m.rd (R.CE_SLOT_STATUS_CONSEC k) + 1) ∧ t.rd (R.CE_SLOT_STATUS_OVR k) = 1) ∧
    (r ≠ some k → e.due ≤ m.mt + 40 → Answers (.executionDrop dt k) s fun t =>
      t.rd (R.CE_SLOT_STATUS_CONSEC k) = min 15 (m.rd (R.CE_SLOT_STATUS_CONSEC k) + 1) ∧ t.rd (R.CE_SLOT_STATUS_OVR k) = 1)

/-- R391. -/
def Obligations.EmptyDescriptorCompletesAtHead : Prop :=
  ∀ (s : State) (dt : Nat) (m : Mach) (i : Fin 64) (d : Descriptor) (hd : Nat), m = s.at dt → m.Quiet → hd = m.rd (R.HSQ_HEAD i) →
    m.hsState i = 1 → m.on (R.HSQ_CTRL_EN i) = true → m.hs[i].cur = none → hd ≠ m.rd (R.HSQ_TAIL i) →
    badDescriptor d (isD2h i) = false → d.op ≠ 1 → d.len = 0 → Answers (.descriptorStart dt i d) s fun t =>
      (∃ bs : List Byte, .completion i (BitVec.ofNat 16 hd) bs ∈ t.out ∧ bs.length = 32 ∧ bs.take 4 = leBytes 4 d.tag.toNat ∧
        (bs.drop 4).take 1 = [0] ∧ (bs.drop 16).take 8 = List.replicate 8 0) ∧
      t.rd (R.HSQ_HEAD i) = (hd + 1) % 65536 ∧ t.hs[i].push = m.hs[i].push ∧ t.hs[i].cur = none ∧ t.hsState i = 1 ∧
      t.rd (R.HSQ_BLOCKS i) = m.rd (R.HSQ_BLOCKS i) ∧ (∀ j : Fin 64, j ≠ i → t.hs[j] = m.hs[j]) ∧
      (∀ j a n, .hostRead j a n ∈ t.out → .hostRead j a n ∈ m.out) ∧ (∀ a bs, .hostWrite a bs ∈ t.out → .hostWrite a bs ∈ m.out) ∧
      m.Keeps t [(R.HSQ_HEAD i).a, (R.HSQ_CPLIDX i).a, (R.HSQ_PBA 0).a, (R.HSQ_PBA 1).a] ∧
      t = { m with hs := t.hs, regs := t.regs, out := t.out }

/-- R26, R351, R410, R418, R507, R508, R510. -/
def Obligations.ResetLeaves : Prop :=
  State.reset.wf = true ∧ State.reset.pending = [] ∧
  ∀ m : Mach, m = State.reset.m →
    m.mode = modeBoot ∧ m.rd R.HS_BOOT_STAGE = 0 ∧ m.rd R.GLB_RSTCAUSE_KIND = 0 ∧ m.pstate = 0 ∧ m.mt = 0 ∧ m.tim.mtRun = false ∧
    (∀ a, m.byte a = 0) ∧ m.signals = 0 ∧ m.tokens = [] ∧ m.saf.msRun = false ∧ m.safeOut = false ∧ m.rd R.RNG_CTRL_BYPASS = 1 ∧
    m.rd R.PWR_VCORE_SET = 850 ∧ (∀ x, (m.ctx x).st = .idle ∧ (m.ctx x).ret.calls = [] ∧ (m.ctx x).ret.loops = []) ∧
    (∀ a : Fin 8, m.axis[a].st = .off ∧ m.axis[a].ref = false ∧ m.axis[a].endPos = 0) ∧ (∀ n : Fin 16, m.Dark n ∧ m.inFs n = false) ∧
    (∀ i : Fin 64, m.hsState i = 0 ∧ m.rd (R.HSQ_CTRL_SIZE i) = 8) ∧ (∀ v < 192, m.evt v = 0)

/-- The canonical form of memory (R354, R361, R511) and of the heat ledger (R265), through every command. -/
def Obligations.EveryStepKeepsMemoryCanonical : Prop :=
  ∀ s t : State, s.wf = true → step s = .next t → t.wf = true
end

