-- ==== Sys2Proof/Laws/State.lean ====
section
/-! SUPPORT. One lemma per field and shared update: what an update writes, and what it leaves. -/
namespace Sys2Proof.Machine

variable (m : Mach)

/-! `Mach.advance` -/

@[simp] theorem Mach.advance_now (dt : Nat) : (m.advance dt).now = m.now + dt := rfl
@[simp] theorem Mach.advance_regs0 (dt : Nat) : (m.advance dt).regs0 = if dt = 0 then m.regs0 else m.regs := rfl
@[simp] theorem Mach.advance_mt (dt : Nat) : (m.advance dt).mt = if m.tim.mtRun then m.mt + dt else m.mt := rfl
@[simp] theorem Mach.advance_tim (dt : Nat) : (m.advance dt).tim = m.tim.advance dt := rfl
@[simp] theorem Mach.advance_tim_mtRun (dt : Nat) : (m.advance dt).tim.mtRun = m.tim.mtRun := rfl
@[simp] theorem Mach.advance_regs (dt : Nat) : (m.advance dt).regs = m.regs := rfl
@[simp] theorem Mach.advance_force (dt : Nat) : (m.advance dt).force = m.force := rfl
@[simp] theorem Mach.advance_loHeld (dt : Nat) : (m.advance dt).loHeld = m.loHeld := rfl
@[simp] theorem Mach.advance_hiLatch (dt : Nat) : (m.advance dt).hiLatch = m.hiLatch := rfl
@[simp] theorem Mach.advance_unlock (dt : Nat) : (m.advance dt).unlock = m.unlock := rfl
@[simp] theorem Mach.advance_idleWrites (dt : Nat) : (m.advance dt).idleWrites = m.idleWrites := rfl
@[simp] theorem Mach.advance_saf (dt : Nat) : (m.advance dt).saf = m.saf := rfl
@[simp] theorem Mach.advance_cbk (dt : Nat) : (m.advance dt).cbk = m.cbk := rfl
@[simp] theorem Mach.advance_env (dt : Nat) : (m.advance dt).env = m.env := rfl
@[simp] theorem Mach.advance_mem (dt : Nat) : (m.advance dt).mem = m.mem := rfl
@[simp] theorem Mach.advance_ledger (dt : Nat) : (m.advance dt).ledger = m.ledger := rfl
@[simp] theorem Mach.advance_exports (dt : Nat) : (m.advance dt).exports = m.exports := rfl
@[simp] theorem Mach.advance_fe (dt : Nat) : (m.advance dt).fe = m.fe := rfl
@[simp] theorem Mach.advance_coo (dt : Nat) : (m.advance dt).coo = m.coo := rfl
@[simp] theorem Mach.advance_cooLayer (dt : Nat) : (m.advance dt).cooLayer = m.cooLayer := rfl
@[simp] theorem Mach.advance_axis (dt : Nat) : (m.advance dt).axis = m.axis := rfl
@[simp] theorem Mach.advance_slot (dt : Nat) : (m.advance dt).slot = m.slot := rfl
@[simp] theorem Mach.advance_cam (dt : Nat) : (m.advance dt).cam = m.cam := rfl
@[simp] theorem Mach.advance_pool (dt : Nat) : (m.advance dt).pool = m.pool := rfl
@[simp] theorem Mach.advance_bi (dt : Nat) : (m.advance dt).bi = m.bi := rfl
@[simp] theorem Mach.advance_cmp (dt : Nat) : (m.advance dt).cmp = m.cmp := rfl
@[simp] theorem Mach.advance_hs (dt : Nat) : (m.advance dt).hs = m.hs := rfl
@[simp] theorem Mach.advance_rng (dt : Nat) : (m.advance dt).rng = m.rng := rfl
@[simp] theorem Mach.advance_signals (dt : Nat) : (m.advance dt).signals = m.signals := rfl
@[simp] theorem Mach.advance_tokens (dt : Nat) : (m.advance dt).tokens = m.tokens := rfl
@[simp] theorem Mach.advance_stages (dt : Nat) : (m.advance dt).stages = m.stages := rfl
@[simp] theorem Mach.advance_pins (dt : Nat) : (m.advance dt).pins = m.pins := rfl
@[simp] theorem Mach.advance_axpins (dt : Nat) : (m.advance dt).axpins = m.axpins := rfl
@[simp] theorem Mach.advance_enc (dt : Nat) : (m.advance dt).enc = m.enc := rfl
@[simp] theorem Mach.advance_encAt (dt : Nat) : (m.advance dt).encAt = m.encAt := rfl
@[simp] theorem Mach.advance_encLog (dt : Nat) : (m.advance dt).encLog = m.encLog := rfl
@[simp] theorem Mach.advance_safeOut (dt : Nat) : (m.advance dt).safeOut = m.safeOut := rfl
@[simp] theorem Mach.advance_fnMask (dt : Nat) : (m.advance dt).fnMask = m.fnMask := rfl
@[simp] theorem Mach.advance_free (dt : Nat) : (m.advance dt).free = m.free := rfl
@[simp] theorem Mach.advance_rdata (dt : Nat) : (m.advance dt).rdata = m.rdata := rfl
@[simp] theorem Mach.advance_out (dt : Nat) : (m.advance dt).out = m.out := rfl

/-! `Mach.wr` -/

@[simp] theorem Mach.wr_regs (r : RF) (v : Nat) : (m.wr r v).regs = rwr m.regs r v := rfl
@[simp] theorem Mach.wr_now (r : RF) (v : Nat) : (m.wr r v).now = m.now := rfl
@[simp] theorem Mach.wr_mt (r : RF) (v : Nat) : (m.wr r v).mt = m.mt := rfl
@[simp] theorem Mach.wr_regs0 (r : RF) (v : Nat) : (m.wr r v).regs0 = m.regs0 := rfl
@[simp] theorem Mach.wr_force (r : RF) (v : Nat) : (m.wr r v).force = m.force := rfl
@[simp] theorem Mach.wr_loHeld (r : RF) (v : Nat) : (m.wr r v).loHeld = m.loHeld := rfl
@[simp] theorem Mach.wr_hiLatch (r : RF) (v : Nat) : (m.wr r v).hiLatch = m.hiLatch := rfl
@[simp] theorem Mach.wr_unlock (r : RF) (v : Nat) : (m.wr r v).unlock = m.unlock := rfl
@[simp] theorem Mach.wr_idleWrites (r : RF) (v : Nat) : (m.wr r v).idleWrites = m.idleWrites := rfl
@[simp] theorem Mach.wr_tim (r : RF) (v : Nat) : (m.wr r v).tim = m.tim := rfl
@[simp] theorem Mach.wr_saf (r : RF) (v : Nat) : (m.wr r v).saf = m.saf := rfl
@[simp] theorem Mach.wr_cbk (r : RF) (v : Nat) : (m.wr r v).cbk = m.cbk := rfl
@[simp] theorem Mach.wr_env (r : RF) (v : Nat) : (m.wr r v).env = m.env := rfl
@[simp] theorem Mach.wr_mem (r : RF) (v : Nat) : (m.wr r v).mem = m.mem := rfl
@[simp] theorem Mach.wr_ledger (r : RF) (v : Nat) : (m.wr r v).ledger = m.ledger := rfl
@[simp] theorem Mach.wr_exports (r : RF) (v : Nat) : (m.wr r v).exports = m.exports := rfl
@[simp] theorem Mach.wr_fe (r : RF) (v : Nat) : (m.wr r v).fe = m.fe := rfl
@[simp] theorem Mach.wr_coo (r : RF) (v : Nat) : (m.wr r v).coo = m.coo := rfl
@[simp] theorem Mach.wr_cooLayer (r : RF) (v : Nat) : (m.wr r v).cooLayer = m.cooLayer := rfl
@[simp] theorem Mach.wr_axis (r : RF) (v : Nat) : (m.wr r v).axis = m.axis := rfl
@[simp] theorem Mach.wr_slot (r : RF) (v : Nat) : (m.wr r v).slot = m.slot := rfl
@[simp] theorem Mach.wr_cam (r : RF) (v : Nat) : (m.wr r v).cam = m.cam := rfl
@[simp] theorem Mach.wr_pool (r : RF) (v : Nat) : (m.wr r v).pool = m.pool := rfl
@[simp] theorem Mach.wr_bi (r : RF) (v : Nat) : (m.wr r v).bi = m.bi := rfl
@[simp] theorem Mach.wr_cmp (r : RF) (v : Nat) : (m.wr r v).cmp = m.cmp := rfl
@[simp] theorem Mach.wr_hs (r : RF) (v : Nat) : (m.wr r v).hs = m.hs := rfl
@[simp] theorem Mach.wr_rng (r : RF) (v : Nat) : (m.wr r v).rng = m.rng := rfl
@[simp] theorem Mach.wr_signals (r : RF) (v : Nat) : (m.wr r v).signals = m.signals := rfl
@[simp] theorem Mach.wr_tokens (r : RF) (v : Nat) : (m.wr r v).tokens = m.tokens := rfl
@[simp] theorem Mach.wr_stages (r : RF) (v : Nat) : (m.wr r v).stages = m.stages := rfl
@[simp] theorem Mach.wr_pins (r : RF) (v : Nat) : (m.wr r v).pins = m.pins := rfl
@[simp] theorem Mach.wr_axpins (r : RF) (v : Nat) : (m.wr r v).axpins = m.axpins := rfl
@[simp] theorem Mach.wr_enc (r : RF) (v : Nat) : (m.wr r v).enc = m.enc := rfl
@[simp] theorem Mach.wr_encAt (r : RF) (v : Nat) : (m.wr r v).encAt = m.encAt := rfl
@[simp] theorem Mach.wr_encLog (r : RF) (v : Nat) : (m.wr r v).encLog = m.encLog := rfl
@[simp] theorem Mach.wr_safeOut (r : RF) (v : Nat) : (m.wr r v).safeOut = m.safeOut := rfl
@[simp] theorem Mach.wr_fnMask (r : RF) (v : Nat) : (m.wr r v).fnMask = m.fnMask := rfl
@[simp] theorem Mach.wr_free (r : RF) (v : Nat) : (m.wr r v).free = m.free := rfl
@[simp] theorem Mach.wr_rdata (r : RF) (v : Nat) : (m.wr r v).rdata = m.rdata := rfl
@[simp] theorem Mach.wr_out (r : RF) (v : Nat) : (m.wr r v).out = m.out := rfl

/-! `Mach.inc` -/

@[simp] theorem Mach.inc_regs (r : RF) : (m.inc r).regs = rinc m.regs r := rfl
@[simp] theorem Mach.inc_now (r : RF) : (m.inc r).now = m.now := rfl
@[simp] theorem Mach.inc_mt (r : RF) : (m.inc r).mt = m.mt := rfl
@[simp] theorem Mach.inc_regs0 (r : RF) : (m.inc r).regs0 = m.regs0 := rfl
@[simp] theorem Mach.inc_force (r : RF) : (m.inc r).force = m.force := rfl
@[simp] theorem Mach.inc_loHeld (r : RF) : (m.inc r).loHeld = m.loHeld := rfl
@[simp] theorem Mach.inc_hiLatch (r : RF) : (m.inc r).hiLatch = m.hiLatch := rfl
@[simp] theorem Mach.inc_unlock (r : RF) : (m.inc r).unlock = m.unlock := rfl
@[simp] theorem Mach.inc_idleWrites (r : RF) : (m.inc r).idleWrites = m.idleWrites := rfl
@[simp] theorem Mach.inc_tim (r : RF) : (m.inc r).tim = m.tim := rfl
@[simp] theorem Mach.inc_saf (r : RF) : (m.inc r).saf = m.saf := rfl
@[simp] theorem Mach.inc_cbk (r : RF) : (m.inc r).cbk = m.cbk := rfl
@[simp] theorem Mach.inc_env (r : RF) : (m.inc r).env = m.env := rfl
@[simp] theorem Mach.inc_mem (r : RF) : (m.inc r).mem = m.mem := rfl
@[simp] theorem Mach.inc_ledger (r : RF) : (m.inc r).ledger = m.ledger := rfl
@[simp] theorem Mach.inc_exports (r : RF) : (m.inc r).exports = m.exports := rfl
@[simp] theorem Mach.inc_fe (r : RF) : (m.inc r).fe = m.fe := rfl
@[simp] theorem Mach.inc_coo (r : RF) : (m.inc r).coo = m.coo := rfl
@[simp] theorem Mach.inc_cooLayer (r : RF) : (m.inc r).cooLayer = m.cooLayer := rfl
@[simp] theorem Mach.inc_axis (r : RF) : (m.inc r).axis = m.axis := rfl
@[simp] theorem Mach.inc_slot (r : RF) : (m.inc r).slot = m.slot := rfl
@[simp] theorem Mach.inc_cam (r : RF) : (m.inc r).cam = m.cam := rfl
@[simp] theorem Mach.inc_pool (r : RF) : (m.inc r).pool = m.pool := rfl
@[simp] theorem Mach.inc_bi (r : RF) : (m.inc r).bi = m.bi := rfl
@[simp] theorem Mach.inc_cmp (r : RF) : (m.inc r).cmp = m.cmp := rfl
@[simp] theorem Mach.inc_hs (r : RF) : (m.inc r).hs = m.hs := rfl
@[simp] theorem Mach.inc_rng (r : RF) : (m.inc r).rng = m.rng := rfl
@[simp] theorem Mach.inc_signals (r : RF) : (m.inc r).signals = m.signals := rfl
@[simp] theorem Mach.inc_tokens (r : RF) : (m.inc r).tokens = m.tokens := rfl
@[simp] theorem Mach.inc_stages (r : RF) : (m.inc r).stages = m.stages := rfl
@[simp] theorem Mach.inc_pins (r : RF) : (m.inc r).pins = m.pins := rfl
@[simp] theorem Mach.inc_axpins (r : RF) : (m.inc r).axpins = m.axpins := rfl
@[simp] theorem Mach.inc_enc (r : RF) : (m.inc r).enc = m.enc := rfl
@[simp] theorem Mach.inc_encAt (r : RF) : (m.inc r).encAt = m.encAt := rfl
@[simp] theorem Mach.inc_encLog (r : RF) : (m.inc r).encLog = m.encLog := rfl
@[simp] theorem Mach.inc_safeOut (r : RF) : (m.inc r).safeOut = m.safeOut := rfl
@[simp] theorem Mach.inc_fnMask (r : RF) : (m.inc r).fnMask = m.fnMask := rfl
@[simp] theorem Mach.inc_free (r : RF) : (m.inc r).free = m.free := rfl
@[simp] theorem Mach.inc_rdata (r : RF) : (m.inc r).rdata = m.rdata := rfl
@[simp] theorem Mach.inc_out (r : RF) : (m.inc r).out = m.out := rfl

/-! `Mach.wrs` -/

@[simp] theorem Mach.wrs_regs (l : List (RF × Nat)) : (m.wrs l).regs = rwrs m.regs l := rfl
@[simp] theorem Mach.wrs_now (l : List (RF × Nat)) : (m.wrs l).now = m.now := rfl
@[simp] theorem Mach.wrs_mt (l : List (RF × Nat)) : (m.wrs l).mt = m.mt := rfl
@[simp] theorem Mach.wrs_regs0 (l : List (RF × Nat)) : (m.wrs l).regs0 = m.regs0 := rfl
@[simp] theorem Mach.wrs_force (l : List (RF × Nat)) : (m.wrs l).force = m.force := rfl
@[simp] theorem Mach.wrs_loHeld (l : List (RF × Nat)) : (m.wrs l).loHeld = m.loHeld := rfl
@[simp] theorem Mach.wrs_hiLatch (l : List (RF × Nat)) : (m.wrs l).hiLatch = m.hiLatch := rfl
@[simp] theorem Mach.wrs_unlock (l : List (RF × Nat)) : (m.wrs l).unlock = m.unlock := rfl
@[simp] theorem Mach.wrs_idleWrites (l : List (RF × Nat)) : (m.wrs l).idleWrites = m.idleWrites := rfl
@[simp] theorem Mach.wrs_tim (l : List (RF × Nat)) : (m.wrs l).tim = m.tim := rfl
@[simp] theorem Mach.wrs_saf (l : List (RF × Nat)) : (m.wrs l).saf = m.saf := rfl
@[simp] theorem Mach.wrs_cbk (l : List (RF × Nat)) : (m.wrs l).cbk = m.cbk := rfl
@[simp] theorem Mach.wrs_env (l : List (RF × Nat)) : (m.wrs l).env = m.env := rfl
@[simp] theorem Mach.wrs_mem (l : List (RF × Nat)) : (m.wrs l).mem = m.mem := rfl
@[simp] theorem Mach.wrs_ledger (l : List (RF × Nat)) : (m.wrs l).ledger = m.ledger := rfl
@[simp] theorem Mach.wrs_exports (l : List (RF × Nat)) : (m.wrs l).exports = m.exports := rfl
@[simp] theorem Mach.wrs_fe (l : List (RF × Nat)) : (m.wrs l).fe = m.fe := rfl
@[simp] theorem Mach.wrs_coo (l : List (RF × Nat)) : (m.wrs l).coo = m.coo := rfl
@[simp] theorem Mach.wrs_cooLayer (l : List (RF × Nat)) : (m.wrs l).cooLayer = m.cooLayer := rfl
@[simp] theorem Mach.wrs_axis (l : List (RF × Nat)) : (m.wrs l).axis = m.axis := rfl
@[simp] theorem Mach.wrs_slot (l : List (RF × Nat)) : (m.wrs l).slot = m.slot := rfl
@[simp] theorem Mach.wrs_cam (l : List (RF × Nat)) : (m.wrs l).cam = m.cam := rfl
@[simp] theorem Mach.wrs_pool (l : List (RF × Nat)) : (m.wrs l).pool = m.pool := rfl
@[simp] theorem Mach.wrs_bi (l : List (RF × Nat)) : (m.wrs l).bi = m.bi := rfl
@[simp] theorem Mach.wrs_cmp (l : List (RF × Nat)) : (m.wrs l).cmp = m.cmp := rfl
@[simp] theorem Mach.wrs_hs (l : List (RF × Nat)) : (m.wrs l).hs = m.hs := rfl
@[simp] theorem Mach.wrs_rng (l : List (RF × Nat)) : (m.wrs l).rng = m.rng := rfl
@[simp] theorem Mach.wrs_signals (l : List (RF × Nat)) : (m.wrs l).signals = m.signals := rfl
@[simp] theorem Mach.wrs_tokens (l : List (RF × Nat)) : (m.wrs l).tokens = m.tokens := rfl
@[simp] theorem Mach.wrs_stages (l : List (RF × Nat)) : (m.wrs l).stages = m.stages := rfl
@[simp] theorem Mach.wrs_pins (l : List (RF × Nat)) : (m.wrs l).pins = m.pins := rfl
@[simp] theorem Mach.wrs_axpins (l : List (RF × Nat)) : (m.wrs l).axpins = m.axpins := rfl
@[simp] theorem Mach.wrs_enc (l : List (RF × Nat)) : (m.wrs l).enc = m.enc := rfl
@[simp] theorem Mach.wrs_encAt (l : List (RF × Nat)) : (m.wrs l).encAt = m.encAt := rfl
@[simp] theorem Mach.wrs_encLog (l : List (RF × Nat)) : (m.wrs l).encLog = m.encLog := rfl
@[simp] theorem Mach.wrs_safeOut (l : List (RF × Nat)) : (m.wrs l).safeOut = m.safeOut := rfl
@[simp] theorem Mach.wrs_fnMask (l : List (RF × Nat)) : (m.wrs l).fnMask = m.fnMask := rfl
@[simp] theorem Mach.wrs_free (l : List (RF × Nat)) : (m.wrs l).free = m.free := rfl
@[simp] theorem Mach.wrs_rdata (l : List (RF × Nat)) : (m.wrs l).rdata = m.rdata := rfl
@[simp] theorem Mach.wrs_out (l : List (RF × Nat)) : (m.wrs l).out = m.out := rfl

/-! `Mach.setWord` -/

@[simp] theorem Mach.setWord_regs (a : Nat) (v : Word) : (m.setWord a v).regs = rput m.regs a v := rfl
@[simp] theorem Mach.setWord_now (a : Nat) (v : Word) : (m.setWord a v).now = m.now := rfl
@[simp] theorem Mach.setWord_mt (a : Nat) (v : Word) : (m.setWord a v).mt = m.mt := rfl
@[simp] theorem Mach.setWord_regs0 (a : Nat) (v : Word) : (m.setWord a v).regs0 = m.regs0 := rfl
@[simp] theorem Mach.setWord_force (a : Nat) (v : Word) : (m.setWord a v).force = m.force := rfl
@[simp] theorem Mach.setWord_loHeld (a : Nat) (v : Word) : (m.setWord a v).loHeld = m.loHeld := rfl
@[simp] theorem Mach.setWord_hiLatch (a : Nat) (v : Word) : (m.setWord a v).hiLatch = m.hiLatch := rfl
@[simp] theorem Mach.setWord_unlock (a : Nat) (v : Word) : (m.setWord a v).unlock = m.unlock := rfl
@[simp] theorem Mach.setWord_idleWrites (a : Nat) (v : Word) : (m.setWord a v).idleWrites = m.idleWrites := rfl
@[simp] theorem Mach.setWord_tim (a : Nat) (v : Word) : (m.setWord a v).tim = m.tim := rfl
@[simp] theorem Mach.setWord_saf (a : Nat) (v : Word) : (m.setWord a v).saf = m.saf := rfl
@[simp] theorem Mach.setWord_cbk (a : Nat) (v : Word) : (m.setWord a v).cbk = m.cbk := rfl
@[simp] theorem Mach.setWord_env (a : Nat) (v : Word) : (m.setWord a v).env = m.env := rfl
@[simp] theorem Mach.setWord_mem (a : Nat) (v : Word) : (m.setWord a v).mem = m.mem := rfl
@[simp] theorem Mach.setWord_ledger (a : Nat) (v : Word) : (m.setWord a v).ledger = m.ledger := rfl
@[simp] theorem Mach.setWord_exports (a : Nat) (v : Word) : (m.setWord a v).exports = m.exports := rfl
@[simp] theorem Mach.setWord_fe (a : Nat) (v : Word) : (m.setWord a v).fe = m.fe := rfl
@[simp] theorem Mach.setWord_coo (a : Nat) (v : Word) : (m.setWord a v).coo = m.coo := rfl
@[simp] theorem Mach.setWord_cooLayer (a : Nat) (v : Word) : (m.setWord a v).cooLayer = m.cooLayer := rfl
@[simp] theorem Mach.setWord_axis (a : Nat) (v : Word) : (m.setWord a v).axis = m.axis := rfl
@[simp] theorem Mach.setWord_slot (a : Nat) (v : Word) : (m.setWord a v).slot = m.slot := rfl
@[simp] theorem Mach.setWord_cam (a : Nat) (v : Word) : (m.setWord a v).cam = m.cam := rfl
@[simp] theorem Mach.setWord_pool (a : Nat) (v : Word) : (m.setWord a v).pool = m.pool := rfl
@[simp] theorem Mach.setWord_bi (a : Nat) (v : Word) : (m.setWord a v).bi = m.bi := rfl
@[simp] theorem Mach.setWord_cmp (a : Nat) (v : Word) : (m.setWord a v).cmp = m.cmp := rfl
@[simp] theorem Mach.setWord_hs (a : Nat) (v : Word) : (m.setWord a v).hs = m.hs := rfl
@[simp] theorem Mach.setWord_rng (a : Nat) (v : Word) : (m.setWord a v).rng = m.rng := rfl
@[simp] theorem Mach.setWord_signals (a : Nat) (v : Word) : (m.setWord a v).signals = m.signals := rfl
@[simp] theorem Mach.setWord_tokens (a : Nat) (v : Word) : (m.setWord a v).tokens = m.tokens := rfl
@[simp] theorem Mach.setWord_stages (a : Nat) (v : Word) : (m.setWord a v).stages = m.stages := rfl
@[simp] theorem Mach.setWord_pins (a : Nat) (v : Word) : (m.setWord a v).pins = m.pins := rfl
@[simp] theorem Mach.setWord_axpins (a : Nat) (v : Word) : (m.setWord a v).axpins = m.axpins := rfl
@[simp] theorem Mach.setWord_enc (a : Nat) (v : Word) : (m.setWord a v).enc = m.enc := rfl
@[simp] theorem Mach.setWord_encAt (a : Nat) (v : Word) : (m.setWord a v).encAt = m.encAt := rfl
@[simp] theorem Mach.setWord_encLog (a : Nat) (v : Word) : (m.setWord a v).encLog = m.encLog := rfl
@[simp] theorem Mach.setWord_safeOut (a : Nat) (v : Word) : (m.setWord a v).safeOut = m.safeOut := rfl
@[simp] theorem Mach.setWord_fnMask (a : Nat) (v : Word) : (m.setWord a v).fnMask = m.fnMask := rfl
@[simp] theorem Mach.setWord_free (a : Nat) (v : Word) : (m.setWord a v).free = m.free := rfl
@[simp] theorem Mach.setWord_rdata (a : Nat) (v : Word) : (m.setWord a v).rdata = m.rdata := rfl
@[simp] theorem Mach.setWord_out (a : Nat) (v : Word) : (m.setWord a v).out = m.out := rfl

/-! `Mach.wr64` -/

@[simp] theorem Mach.wr64_regs (lo hi : RF) (v : Nat) : (m.wr64 lo hi v).regs = rwr (rwr m.regs lo v) hi (v / 2 ^ 32) := rfl
@[simp] theorem Mach.wr64_now (lo hi : RF) (v : Nat) : (m.wr64 lo hi v).now = m.now := rfl
@[simp] theorem Mach.wr64_mt (lo hi : RF) (v : Nat) : (m.wr64 lo hi v).mt = m.mt := rfl
@[simp] theorem Mach.wr64_regs0 (lo hi : RF) (v : Nat) : (m.wr64 lo hi v).regs0 = m.regs0 := rfl
@[simp] theorem Mach.wr64_force (lo hi : RF) (v : Nat) : (m.wr64 lo hi v).force = m.force := rfl
@[simp] theorem Mach.wr64_loHeld (lo hi : RF) (v : Nat) : (m.wr64 lo hi v).loHeld = m.loHeld := rfl
@[simp] theorem Mach.wr64_hiLatch (lo hi : RF) (v : Nat) : (m.wr64 lo hi v).hiLatch = m.hiLatch := rfl
@[simp] theorem Mach.wr64_unlock (lo hi : RF) (v : Nat) : (m.wr64 lo hi v).unlock = m.unlock := rfl
@[simp] theorem Mach.wr64_idleWrites (lo hi : RF) (v : Nat) : (m.wr64 lo hi v).idleWrites = m.idleWrites := rfl
@[simp] theorem Mach.wr64_tim (lo hi : RF) (v : Nat) : (m.wr64 lo hi v).tim = m.tim := rfl
@[simp] theorem Mach.wr64_saf (lo hi : RF) (v : Nat) : (m.wr64 lo hi v).saf = m.saf := rfl
@[simp] theorem Mach.wr64_cbk (lo hi : RF) (v : Nat) : (m.wr64 lo hi v).cbk = m.cbk := rfl
@[simp] theorem Mach.wr64_env (lo hi : RF) (v : Nat) : (m.wr64 lo hi v).env = m.env := rfl
@[simp] theorem Mach.wr64_mem (lo hi : RF) (v : Nat) : (m.wr64 lo hi v).mem = m.mem := rfl
@[simp] theorem Mach.wr64_ledger (lo hi : RF) (v : Nat) : (m.wr64 lo hi v).ledger = m.ledger := rfl
@[simp] theorem Mach.wr64_exports (lo hi : RF) (v : Nat) : (m.wr64 lo hi v).exports = m.exports := rfl
@[simp] theorem Mach.wr64_fe (lo hi : RF) (v : Nat) : (m.wr64 lo hi v).fe = m.fe := rfl
@[simp] theorem Mach.wr64_coo (lo hi : RF) (v : Nat) : (m.wr64 lo hi v).coo = m.coo := rfl
@[simp] theorem Mach.wr64_cooLayer (lo hi : RF) (v : Nat) : (m.wr64 lo hi v).cooLayer = m.cooLayer := rfl
@[simp] theorem Mach.wr64_axis (lo hi : RF) (v : Nat) : (m.wr64 lo hi v).axis = m.axis := rfl
@[simp] theorem Mach.wr64_slot (lo hi : RF) (v : Nat) : (m.wr64 lo hi v).slot = m.slot := rfl
@[simp] theorem Mach.wr64_cam (lo hi : RF) (v : Nat) : (m.wr64 lo hi v).cam = m.cam := rfl
@[simp] theorem Mach.wr64_pool (lo hi : RF) (v : Nat) : (m.wr64 lo hi v).pool = m.pool := rfl
@[simp] theorem Mach.wr64_bi (lo hi : RF) (v : Nat) : (m.wr64 lo hi v).bi = m.bi := rfl
@[simp] theorem Mach.wr64_cmp (lo hi : RF) (v : Nat) : (m.wr64 lo hi v).cmp = m.cmp := rfl
@[simp] theorem Mach.wr64_hs (lo hi : RF) (v : Nat) : (m.wr64 lo hi v).hs = m.hs := rfl
@[simp] theorem Mach.wr64_rng (lo hi : RF) (v : Nat) : (m.wr64 lo hi v).rng = m.rng := rfl
@[simp] theorem Mach.wr64_signals (lo hi : RF) (v : Nat) : (m.wr64 lo hi v).signals = m.signals := rfl
@[simp] theorem Mach.wr64_tokens (lo hi : RF) (v : Nat) : (m.wr64 lo hi v).tokens = m.tokens := rfl
@[simp] theorem Mach.wr64_stages (lo hi : RF) (v : Nat) : (m.wr64 lo hi v).stages = m.stages := rfl
@[simp] theorem Mach.wr64_pins (lo hi : RF) (v : Nat) : (m.wr64 lo hi v).pins = m.pins := rfl
@[simp] theorem Mach.wr64_axpins (lo hi : RF) (v : Nat) : (m.wr64 lo hi v).axpins = m.axpins := rfl
@[simp] theorem Mach.wr64_enc (lo hi : RF) (v : Nat) : (m.wr64 lo hi v).enc = m.enc := rfl
@[simp] theorem Mach.wr64_encAt (lo hi : RF) (v : Nat) : (m.wr64 lo hi v).encAt = m.encAt := rfl
@[simp] theorem Mach.wr64_encLog (lo hi : RF) (v : Nat) : (m.wr64 lo hi v).encLog = m.encLog := rfl
@[simp] theorem Mach.wr64_safeOut (lo hi : RF) (v : Nat) : (m.wr64 lo hi v).safeOut = m.safeOut := rfl
@[simp] theorem Mach.wr64_fnMask (lo hi : RF) (v : Nat) : (m.wr64 lo hi v).fnMask = m.fnMask := rfl
@[simp] theorem Mach.wr64_free (lo hi : RF) (v : Nat) : (m.wr64 lo hi v).free = m.free := rfl
@[simp] theorem Mach.wr64_rdata (lo hi : RF) (v : Nat) : (m.wr64 lo hi v).rdata = m.rdata := rfl
@[simp] theorem Mach.wr64_out (lo hi : RF) (v : Nat) : (m.wr64 lo hi v).out = m.out := rfl

/-! `Mach.commit` -/

@[simp] theorem Mach.commit_now (l : List Nat) : (m.commit l).now = m.now := rfl
@[simp] theorem Mach.commit_mt (l : List Nat) : (m.commit l).mt = m.mt := rfl
@[simp] theorem Mach.commit_regs (l : List Nat) : (m.commit l).regs = m.regs := rfl
@[simp] theorem Mach.commit_regs0 (l : List Nat) : (m.commit l).regs0 = m.regs0 := rfl
@[simp] theorem Mach.commit_loHeld (l : List Nat) : (m.commit l).loHeld = m.loHeld := rfl
@[simp] theorem Mach.commit_hiLatch (l : List Nat) : (m.commit l).hiLatch = m.hiLatch := rfl
@[simp] theorem Mach.commit_unlock (l : List Nat) : (m.commit l).unlock = m.unlock := rfl
@[simp] theorem Mach.commit_idleWrites (l : List Nat) : (m.commit l).idleWrites = m.idleWrites := rfl
@[simp] theorem Mach.commit_tim (l : List Nat) : (m.commit l).tim = m.tim := rfl
@[simp] theorem Mach.commit_saf (l : List Nat) : (m.commit l).saf = m.saf := rfl
@[simp] theorem Mach.commit_cbk (l : List Nat) : (m.commit l).cbk = m.cbk := rfl
@[simp] theorem Mach.commit_env (l : List Nat) : (m.commit l).env = m.env := rfl
@[simp] theorem Mach.commit_mem (l : List Nat) : (m.commit l).mem = m.mem := rfl
@[simp] theorem Mach.commit_ledger (l : List Nat) : (m.commit l).ledger = m.ledger := rfl
@[simp] theorem Mach.commit_exports (l : List Nat) : (m.commit l).exports = m.exports := rfl
@[simp] theorem Mach.commit_fe (l : List Nat) : (m.commit l).fe = m.fe := rfl
@[simp] theorem Mach.commit_coo (l : List Nat) : (m.commit l).coo = m.coo := rfl
@[simp] theorem Mach.commit_cooLayer (l : List Nat) : (m.commit l).cooLayer = m.cooLayer := rfl
@[simp] theorem Mach.commit_axis (l : List Nat) : (m.commit l).axis = m.axis := rfl
@[simp] theorem Mach.commit_slot (l : List Nat) : (m.commit l).slot = m.slot := rfl
@[simp] theorem Mach.commit_cam (l : List Nat) : (m.commit l).cam = m.cam := rfl
@[simp] theorem Mach.commit_pool (l : List Nat) : (m.commit l).pool = m.pool := rfl
@[simp] theorem Mach.commit_bi (l : List Nat) : (m.commit l).bi = m.bi := rfl
@[simp] theorem Mach.commit_cmp (l : List Nat) : (m.commit l).cmp = m.cmp := rfl
@[simp] theorem Mach.commit_hs (l : List Nat) : (m.commit l).hs = m.hs := rfl
@[simp] theorem Mach.commit_rng (l : List Nat) : (m.commit l).rng = m.rng := rfl
@[simp] theorem Mach.commit_signals (l : List Nat) : (m.commit l).signals = m.signals := rfl
@[simp] theorem Mach.commit_tokens (l : List Nat) : (m.commit l).tokens = m.tokens := rfl
@[simp] theorem Mach.commit_stages (l : List Nat) : (m.commit l).stages = m.stages := rfl
@[simp] theorem Mach.commit_pins (l : List Nat) : (m.commit l).pins = m.pins := rfl
@[simp] theorem Mach.commit_axpins (l : List Nat) : (m.commit l).axpins = m.axpins := rfl
@[simp] theorem Mach.commit_enc (l : List Nat) : (m.commit l).enc = m.enc := rfl
@[simp] theorem Mach.commit_encAt (l : List Nat) : (m.commit l).encAt = m.encAt := rfl
@[simp] theorem Mach.commit_encLog (l : List Nat) : (m.commit l).encLog = m.encLog := rfl
@[simp] theorem Mach.commit_safeOut (l : List Nat) : (m.commit l).safeOut = m.safeOut := rfl
@[simp] theorem Mach.commit_fnMask (l : List Nat) : (m.commit l).fnMask = m.fnMask := rfl
@[simp] theorem Mach.commit_free (l : List Nat) : (m.commit l).free = m.free := rfl
@[simp] theorem Mach.commit_rdata (l : List Nat) : (m.commit l).rdata = m.rdata := rfl
@[simp] theorem Mach.commit_out (l : List Nat) : (m.commit l).out = m.out := rfl

/-! `Mach.raiseP` -/

@[simp] theorem Mach.raiseP_now (src code : Nat) (p : List Byte) : (m.raiseP src code p).now = m.now := rfl
@[simp] theorem Mach.raiseP_mt (src code : Nat) (p : List Byte) : (m.raiseP src code p).mt = m.mt := rfl
@[simp] theorem Mach.raiseP_regs0 (src code : Nat) (p : List Byte) : (m.raiseP src code p).regs0 = m.regs0 := rfl
@[simp] theorem Mach.raiseP_force (src code : Nat) (p : List Byte) : (m.raiseP src code p).force = m.force := rfl
@[simp] theorem Mach.raiseP_loHeld (src code : Nat) (p : List Byte) : (m.raiseP src code p).loHeld = m.loHeld := rfl
@[simp] theorem Mach.raiseP_hiLatch (src code : Nat) (p : List Byte) : (m.raiseP src code p).hiLatch = m.hiLatch := rfl
@[simp] theorem Mach.raiseP_unlock (src code : Nat) (p : List Byte) : (m.raiseP src code p).unlock = m.unlock := rfl
@[simp] theorem Mach.raiseP_idleWrites (src code : Nat) (p : List Byte) : (m.raiseP src code p).idleWrites = m.idleWrites := rfl
@[simp] theorem Mach.raiseP_tim (src code : Nat) (p : List Byte) : (m.raiseP src code p).tim = m.tim := rfl
@[simp] theorem Mach.raiseP_saf (src code : Nat) (p : List Byte) : (m.raiseP src code p).saf = m.saf := rfl
@[simp] theorem Mach.raiseP_env (src code : Nat) (p : List Byte) : (m.raiseP src code p).env = m.env := rfl
@[simp] theorem Mach.raiseP_mem (src code : Nat) (p : List Byte) : (m.raiseP src code p).mem = m.mem := rfl
@[simp] theorem Mach.raiseP_ledger (src code : Nat) (p : List Byte) : (m.raiseP src code p).ledger = m.ledger := rfl
@[simp] theorem Mach.raiseP_exports (src code : Nat) (p : List Byte) : (m.raiseP src code p).exports = m.exports := rfl
@[simp] theorem Mach.raiseP_fe (src code : Nat) (p : List Byte) : (m.raiseP src code p).fe = m.fe := rfl
@[simp] theorem Mach.raiseP_coo (src code : Nat) (p : List Byte) : (m.raiseP src code p).coo = m.coo := rfl
@[simp] theorem Mach.raiseP_cooLayer (src code : Nat) (p : List Byte) : (m.raiseP src code p).cooLayer = m.cooLayer := rfl
@[simp] theorem Mach.raiseP_axis (src code : Nat) (p : List Byte) : (m.raiseP src code p).axis = m.axis := rfl
@[simp] theorem Mach.raiseP_slot (src code : Nat) (p : List Byte) : (m.raiseP src code p).slot = m.slot := rfl
@[simp] theorem Mach.raiseP_cam (src code : Nat) (p : List Byte) : (m.raiseP src code p).cam = m.cam := rfl
@[simp] theorem Mach.raiseP_pool (src code : Nat) (p : List Byte) : (m.raiseP src code p).pool = m.pool := rfl
@[simp] theorem Mach.raiseP_bi (src code : Nat) (p : List Byte) : (m.raiseP src code p).bi = m.bi := rfl
@[simp] theorem Mach.raiseP_cmp (src code : Nat) (p : List Byte) : (m.raiseP src code p).cmp = m.cmp := rfl
@[simp] theorem Mach.raiseP_hs (src code : Nat) (p : List Byte) : (m.raiseP src code p).hs = m.hs := rfl
@[simp] theorem Mach.raiseP_rng (src code : Nat) (p : List Byte) : (m.raiseP src code p).rng = m.rng := rfl
@[simp] theorem Mach.raiseP_signals (src code : Nat) (p : List Byte) : (m.raiseP src code p).signals = m.signals := rfl
@[simp] theorem Mach.raiseP_tokens (src code : Nat) (p : List Byte) : (m.raiseP src code p).tokens = m.tokens := rfl
@[simp] theorem Mach.raiseP_stages (src code : Nat) (p : List Byte) : (m.raiseP src code p).stages = m.stages := rfl
@[simp] theorem Mach.raiseP_pins (src code : Nat) (p : List Byte) : (m.raiseP src code p).pins = m.pins := rfl
@[simp] theorem Mach.raiseP_axpins (src code : Nat) (p : List Byte) : (m.raiseP src code p).axpins = m.axpins := rfl
@[simp] theorem Mach.raiseP_enc (src code : Nat) (p : List Byte) : (m.raiseP src code p).enc = m.enc := rfl
@[simp] theorem Mach.raiseP_encAt (src code : Nat) (p : List Byte) : (m.raiseP src code p).encAt = m.encAt := rfl
@[simp] theorem Mach.raiseP_encLog (src code : Nat) (p : List Byte) : (m.raiseP src code p).encLog = m.encLog := rfl
@[simp] theorem Mach.raiseP_safeOut (src code : Nat) (p : List Byte) : (m.raiseP src code p).safeOut = m.safeOut := rfl
@[simp] theorem Mach.raiseP_fnMask (src code : Nat) (p : List Byte) : (m.raiseP src code p).fnMask = m.fnMask := rfl
@[simp] theorem Mach.raiseP_free (src code : Nat) (p : List Byte) : (m.raiseP src code p).free = m.free := rfl
@[simp] theorem Mach.raiseP_rdata (src code : Nat) (p : List Byte) : (m.raiseP src code p).rdata = m.rdata := rfl

/-! `Mach.raise` -/

@[simp] theorem Mach.raise_now (src code inst value : Nat) : (m.raise src code inst value).now = m.now := rfl
@[simp] theorem Mach.raise_mt (src code inst value : Nat) : (m.raise src code inst value).mt = m.mt := rfl
@[simp] theorem Mach.raise_regs0 (src code inst value : Nat) : (m.raise src code inst value).regs0 = m.regs0 := rfl
@[simp] theorem Mach.raise_force (src code inst value : Nat) : (m.raise src code inst value).force = m.force := rfl
@[simp] theorem Mach.raise_loHeld (src code inst value : Nat) : (m.raise src code inst value).loHeld = m.loHeld := rfl
@[simp] theorem Mach.raise_hiLatch (src code inst value : Nat) : (m.raise src code inst value).hiLatch = m.hiLatch := rfl
@[simp] theorem Mach.raise_unlock (src code inst value : Nat) : (m.raise src code inst value).unlock = m.unlock := rfl
@[simp] theorem Mach.raise_idleWrites (src code inst value : Nat) : (m.raise src code inst value).idleWrites = m.idleWrites := rfl
@[simp] theorem Mach.raise_tim (src code inst value : Nat) : (m.raise src code inst value).tim = m.tim := rfl
@[simp] theorem Mach.raise_saf (src code inst value : Nat) : (m.raise src code inst value).saf = m.saf := rfl
@[simp] theorem Mach.raise_env (src code inst value : Nat) : (m.raise src code inst value).env = m.env := rfl
@[simp] theorem Mach.raise_mem (src code inst value : Nat) : (m.raise src code inst value).mem = m.mem := rfl
@[simp] theorem Mach.raise_ledger (src code inst value : Nat) : (m.raise src code inst value).ledger = m.ledger := rfl
@[simp] theorem Mach.raise_exports (src code inst value : Nat) : (m.raise src code inst value).exports = m.exports := rfl
@[simp] theorem Mach.raise_fe (src code inst value : Nat) : (m.raise src code inst value).fe = m.fe := rfl
@[simp] theorem Mach.raise_coo (src code inst value : Nat) : (m.raise src code inst value).coo = m.coo := rfl
@[simp] theorem Mach.raise_cooLayer (src code inst value : Nat) : (m.raise src code inst value).cooLayer = m.cooLayer := rfl
@[simp] theorem Mach.raise_axis (src code inst value : Nat) : (m.raise src code inst value).axis = m.axis := rfl
@[simp] theorem Mach.raise_slot (src code inst value : Nat) : (m.raise src code inst value).slot = m.slot := rfl
@[simp] theorem Mach.raise_cam (src code inst value : Nat) : (m.raise src code inst value).cam = m.cam := rfl
@[simp] theorem Mach.raise_pool (src code inst value : Nat) : (m.raise src code inst value).pool = m.pool := rfl
@[simp] theorem Mach.raise_bi (src code inst value : Nat) : (m.raise src code inst value).bi = m.bi := rfl
@[simp] theorem Mach.raise_cmp (src code inst value : Nat) : (m.raise src code inst value).cmp = m.cmp := rfl
@[simp] theorem Mach.raise_hs (src code inst value : Nat) : (m.raise src code inst value).hs = m.hs := rfl
@[simp] theorem Mach.raise_rng (src code inst value : Nat) : (m.raise src code inst value).rng = m.rng := rfl
@[simp] theorem Mach.raise_signals (src code inst value : Nat) : (m.raise src code inst value).signals = m.signals := rfl
@[simp] theorem Mach.raise_tokens (src code inst value : Nat) : (m.raise src code inst value).tokens = m.tokens := rfl
@[simp] theorem Mach.raise_stages (src code inst value : Nat) : (m.raise src code inst value).stages = m.stages := rfl
@[simp] theorem Mach.raise_pins (src code inst value : Nat) : (m.raise src code inst value).pins = m.pins := rfl
@[simp] theorem Mach.raise_axpins (src code inst value : Nat) : (m.raise src code inst value).axpins = m.axpins := rfl
@[simp] theorem Mach.raise_enc (src code inst value : Nat) : (m.raise src code inst value).enc = m.enc := rfl
@[simp] theorem Mach.raise_encAt (src code inst value : Nat) : (m.raise src code inst value).encAt = m.encAt := rfl
@[simp] theorem Mach.raise_encLog (src code inst value : Nat) : (m.raise src code inst value).encLog = m.encLog := rfl
@[simp] theorem Mach.raise_safeOut (src code inst value : Nat) : (m.raise src code inst value).safeOut = m.safeOut := rfl
@[simp] theorem Mach.raise_fnMask (src code inst value : Nat) : (m.raise src code inst value).fnMask = m.fnMask := rfl
@[simp] theorem Mach.raise_free (src code inst value : Nat) : (m.raise src code inst value).free = m.free := rfl
@[simp] theorem Mach.raise_rdata (src code inst value : Nat) : (m.raise src code inst value).rdata = m.rdata := rfl

/-! `Mach.emit` -/

@[simp] theorem Mach.emit_out (o : Out) : (m.emit o).out = o :: m.out := rfl
@[simp] theorem Mach.emit_now (o : Out) : (m.emit o).now = m.now := rfl
@[simp] theorem Mach.emit_mt (o : Out) : (m.emit o).mt = m.mt := rfl
@[simp] theorem Mach.emit_regs (o : Out) : (m.emit o).regs = m.regs := rfl
@[simp] theorem Mach.emit_regs0 (o : Out) : (m.emit o).regs0 = m.regs0 := rfl
@[simp] theorem Mach.emit_force (o : Out) : (m.emit o).force = m.force := rfl
@[simp] theorem Mach.emit_loHeld (o : Out) : (m.emit o).loHeld = m.loHeld := rfl
@[simp] theorem Mach.emit_hiLatch (o : Out) : (m.emit o).hiLatch = m.hiLatch := rfl
@[simp] theorem Mach.emit_unlock (o : Out) : (m.emit o).unlock = m.unlock := rfl
@[simp] theorem Mach.emit_idleWrites (o : Out) : (m.emit o).idleWrites = m.idleWrites := rfl
@[simp] theorem Mach.emit_tim (o : Out) : (m.emit o).tim = m.tim := rfl
@[simp] theorem Mach.emit_saf (o : Out) : (m.emit o).saf = m.saf := rfl
@[simp] theorem Mach.emit_cbk (o : Out) : (m.emit o).cbk = m.cbk := rfl
@[simp] theorem Mach.emit_env (o : Out) : (m.emit o).env = m.env := rfl
@[simp] theorem Mach.emit_mem (o : Out) : (m.emit o).mem = m.mem := rfl
@[simp] theorem Mach.emit_ledger (o : Out) : (m.emit o).ledger = m.ledger := rfl
@[simp] theorem Mach.emit_exports (o : Out) : (m.emit o).exports = m.exports := rfl
@[simp] theorem Mach.emit_fe (o : Out) : (m.emit o).fe = m.fe := rfl
@[simp] theorem Mach.emit_coo (o : Out) : (m.emit o).coo = m.coo := rfl
@[simp] theorem Mach.emit_cooLayer (o : Out) : (m.emit o).cooLayer = m.cooLayer := rfl
@[simp] theorem Mach.emit_axis (o : Out) : (m.emit o).axis = m.axis := rfl
@[simp] theorem Mach.emit_slot (o : Out) : (m.emit o).slot = m.slot := rfl
@[simp] theorem Mach.emit_cam (o : Out) : (m.emit o).cam = m.cam := rfl
@[simp] theorem Mach.emit_pool (o : Out) : (m.emit o).pool = m.pool := rfl
@[simp] theorem Mach.emit_bi (o : Out) : (m.emit o).bi = m.bi := rfl
@[simp] theorem Mach.emit_cmp (o : Out) : (m.emit o).cmp = m.cmp := rfl
@[simp] theorem Mach.emit_hs (o : Out) : (m.emit o).hs = m.hs := rfl
@[simp] theorem Mach.emit_rng (o : Out) : (m.emit o).rng = m.rng := rfl
@[simp] theorem Mach.emit_signals (o : Out) : (m.emit o).signals = m.signals := rfl
@[simp] theorem Mach.emit_tokens (o : Out) : (m.emit o).tokens = m.tokens := rfl
@[simp] theorem Mach.emit_stages (o : Out) : (m.emit o).stages = m.stages := rfl
@[simp] theorem Mach.emit_pins (o : Out) : (m.emit o).pins = m.pins := rfl
@[simp] theorem Mach.emit_axpins (o : Out) : (m.emit o).axpins = m.axpins := rfl
@[simp] theorem Mach.emit_enc (o : Out) : (m.emit o).enc = m.enc := rfl
@[simp] theorem Mach.emit_encAt (o : Out) : (m.emit o).encAt = m.encAt := rfl
@[simp] theorem Mach.emit_encLog (o : Out) : (m.emit o).encLog = m.encLog := rfl
@[simp] theorem Mach.emit_safeOut (o : Out) : (m.emit o).safeOut = m.safeOut := rfl
@[simp] theorem Mach.emit_fnMask (o : Out) : (m.emit o).fnMask = m.fnMask := rfl
@[simp] theorem Mach.emit_free (o : Out) : (m.emit o).free = m.free := rfl
@[simp] theorem Mach.emit_rdata (o : Out) : (m.emit o).rdata = m.rdata := rfl

/-! `Mach.answer` -/

@[simp] theorem Mach.answer_rdata (a : Nat) (v : Word) : (m.answer a v).rdata = v := rfl
@[simp] theorem Mach.answer_out (a : Nat) (v : Word) : (m.answer a v).out = .readReply a v :: m.out := rfl
@[simp] theorem Mach.answer_now (a : Nat) (v : Word) : (m.answer a v).now = m.now := rfl
@[simp] theorem Mach.answer_mt (a : Nat) (v : Word) : (m.answer a v).mt = m.mt := rfl
@[simp] theorem Mach.answer_regs (a : Nat) (v : Word) : (m.answer a v).regs = m.regs := rfl
@[simp] theorem Mach.answer_regs0 (a : Nat) (v : Word) : (m.answer a v).regs0 = m.regs0 := rfl
@[simp] theorem Mach.answer_force (a : Nat) (v : Word) : (m.answer a v).force = m.force := rfl
@[simp] theorem Mach.answer_loHeld (a : Nat) (v : Word) : (m.answer a v).loHeld = m.loHeld := rfl
@[simp] theorem Mach.answer_hiLatch (a : Nat) (v : Word) : (m.answer a v).hiLatch = m.hiLatch := rfl
@[simp] theorem Mach.answer_unlock (a : Nat) (v : Word) : (m.answer a v).unlock = m.unlock := rfl
@[simp] theorem Mach.answer_idleWrites (a : Nat) (v : Word) : (m.answer a v).idleWrites = m.idleWrites := rfl
@[simp] theorem Mach.answer_tim (a : Nat) (v : Word) : (m.answer a v).tim = m.tim := rfl
@[simp] theorem Mach.answer_saf (a : Nat) (v : Word) : (m.answer a v).saf = m.saf := rfl
@[simp] theorem Mach.answer_cbk (a : Nat) (v : Word) : (m.answer a v).cbk = m.cbk := rfl
@[simp] theorem Mach.answer_env (a : Nat) (v : Word) : (m.answer a v).env = m.env := rfl
@[simp] theorem Mach.answer_mem (a : Nat) (v : Word) : (m.answer a v).mem = m.mem := rfl
@[simp] theorem Mach.answer_ledger (a : Nat) (v : Word) : (m.answer a v).ledger = m.ledger := rfl
@[simp] theorem Mach.answer_exports (a : Nat) (v : Word) : (m.answer a v).exports = m.exports := rfl
@[simp] theorem Mach.answer_fe (a : Nat) (v : Word) : (m.answer a v).fe = m.fe := rfl
@[simp] theorem Mach.answer_coo (a : Nat) (v : Word) : (m.answer a v).coo = m.coo := rfl
@[simp] theorem Mach.answer_cooLayer (a : Nat) (v : Word) : (m.answer a v).cooLayer = m.cooLayer := rfl
@[simp] theorem Mach.answer_axis (a : Nat) (v : Word) : (m.answer a v).axis = m.axis := rfl
@[simp] theorem Mach.answer_slot (a : Nat) (v : Word) : (m.answer a v).slot = m.slot := rfl
@[simp] theorem Mach.answer_cam (a : Nat) (v : Word) : (m.answer a v).cam = m.cam := rfl
@[simp] theorem Mach.answer_pool (a : Nat) (v : Word) : (m.answer a v).pool = m.pool := rfl
@[simp] theorem Mach.answer_bi (a : Nat) (v : Word) : (m.answer a v).bi = m.bi := rfl
@[simp] theorem Mach.answer_cmp (a : Nat) (v : Word) : (m.answer a v).cmp = m.cmp := rfl
@[simp] theorem Mach.answer_hs (a : Nat) (v : Word) : (m.answer a v).hs = m.hs := rfl
@[simp] theorem Mach.answer_rng (a : Nat) (v : Word) : (m.answer a v).rng = m.rng := rfl
@[simp] theorem Mach.answer_signals (a : Nat) (v : Word) : (m.answer a v).signals = m.signals := rfl
@[simp] theorem Mach.answer_tokens (a : Nat) (v : Word) : (m.answer a v).tokens = m.tokens := rfl
@[simp] theorem Mach.answer_stages (a : Nat) (v : Word) : (m.answer a v).stages = m.stages := rfl
@[simp] theorem Mach.answer_pins (a : Nat) (v : Word) : (m.answer a v).pins = m.pins := rfl
@[simp] theorem Mach.answer_axpins (a : Nat) (v : Word) : (m.answer a v).axpins = m.axpins := rfl
@[simp] theorem Mach.answer_enc (a : Nat) (v : Word) : (m.answer a v).enc = m.enc := rfl
@[simp] theorem Mach.answer_encAt (a : Nat) (v : Word) : (m.answer a v).encAt = m.encAt := rfl
@[simp] theorem Mach.answer_encLog (a : Nat) (v : Word) : (m.answer a v).encLog = m.encLog := rfl
@[simp] theorem Mach.answer_safeOut (a : Nat) (v : Word) : (m.answer a v).safeOut = m.safeOut := rfl
@[simp] theorem Mach.answer_fnMask (a : Nat) (v : Word) : (m.answer a v).fnMask = m.fnMask := rfl
@[simp] theorem Mach.answer_free (a : Nat) (v : Word) : (m.answer a v).free = m.free := rfl

/-! `Mach.setGatePins` -/

@[simp] theorem Mach.setGatePins_now (n : Fin 16) (g l : Bool) (rise : Nat) : (m.setGatePins n g l rise).now = m.now := rfl
@[simp] theorem Mach.setGatePins_mt (n : Fin 16) (g l : Bool) (rise : Nat) : (m.setGatePins n g l rise).mt = m.mt := rfl
@[simp] theorem Mach.setGatePins_regs (n : Fin 16) (g l : Bool) (rise : Nat) : (m.setGatePins n g l rise).regs = m.regs := rfl
@[simp] theorem Mach.setGatePins_regs0 (n : Fin 16) (g l : Bool) (rise : Nat) : (m.setGatePins n g l rise).regs0 = m.regs0 := rfl
@[simp] theorem Mach.setGatePins_force (n : Fin 16) (g l : Bool) (rise : Nat) : (m.setGatePins n g l rise).force = m.force := rfl
@[simp] theorem Mach.setGatePins_loHeld (n : Fin 16) (g l : Bool) (rise : Nat) : (m.setGatePins n g l rise).loHeld = m.loHeld := rfl
@[simp] theorem Mach.setGatePins_hiLatch (n : Fin 16) (g l : Bool) (rise : Nat) : (m.setGatePins n g l rise).hiLatch = m.hiLatch := rfl
@[simp] theorem Mach.setGatePins_unlock (n : Fin 16) (g l : Bool) (rise : Nat) : (m.setGatePins n g l rise).unlock = m.unlock := rfl
@[simp] theorem Mach.setGatePins_idleWrites (n : Fin 16) (g l : Bool) (rise : Nat) : (m.setGatePins n g l rise).idleWrites = m.idleWrites := rfl
@[simp] theorem Mach.setGatePins_tim (n : Fin 16) (g l : Bool) (rise : Nat) : (m.setGatePins n g l rise).tim = m.tim := rfl
@[simp] theorem Mach.setGatePins_saf (n : Fin 16) (g l : Bool) (rise : Nat) : (m.setGatePins n g l rise).saf = m.saf := rfl
@[simp] theorem Mach.setGatePins_cbk (n : Fin 16) (g l : Bool) (rise : Nat) : (m.setGatePins n g l rise).cbk = m.cbk := rfl
@[simp] theorem Mach.setGatePins_env (n : Fin 16) (g l : Bool) (rise : Nat) : (m.setGatePins n g l rise).env = m.env := rfl
@[simp] theorem Mach.setGatePins_mem (n : Fin 16) (g l : Bool) (rise : Nat) : (m.setGatePins n g l rise).mem = m.mem := rfl
@[simp] theorem Mach.setGatePins_ledger (n : Fin 16) (g l : Bool) (rise : Nat) : (m.setGatePins n g l rise).ledger = m.ledger := rfl
@[simp] theorem Mach.setGatePins_exports (n : Fin 16) (g l : Bool) (rise : Nat) : (m.setGatePins n g l rise).exports = m.exports := rfl
@[simp] theorem Mach.setGatePins_coo (n : Fin 16) (g l : Bool) (rise : Nat) : (m.setGatePins n g l rise).coo = m.coo := rfl
@[simp] theorem Mach.setGatePins_cooLayer (n : Fin 16) (g l : Bool) (rise : Nat) : (m.setGatePins n g l rise).cooLayer = m.cooLayer := rfl
@[simp] theorem Mach.setGatePins_axis (n : Fin 16) (g l : Bool) (rise : Nat) : (m.setGatePins n g l rise).axis = m.axis := rfl
@[simp] theorem Mach.setGatePins_slot (n : Fin 16) (g l : Bool) (rise : Nat) : (m.setGatePins n g l rise).slot = m.slot := rfl
@[simp] theorem Mach.setGatePins_cam (n : Fin 16) (g l : Bool) (rise : Nat) : (m.setGatePins n g l rise).cam = m.cam := rfl
@[simp] theorem Mach.setGatePins_pool (n : Fin 16) (g l : Bool) (rise : Nat) : (m.setGatePins n g l rise).pool = m.pool := rfl
@[simp] theorem Mach.setGatePins_bi (n : Fin 16) (g l : Bool) (rise : Nat) : (m.setGatePins n g l rise).bi = m.bi := rfl
@[simp] theorem Mach.setGatePins_cmp (n : Fin 16) (g l : Bool) (rise : Nat) : (m.setGatePins n g l rise).cmp = m.cmp := rfl
@[simp] theorem Mach.setGatePins_hs (n : Fin 16) (g l : Bool) (rise : Nat) : (m.setGatePins n g l rise).hs = m.hs := rfl
@[simp] theorem Mach.setGatePins_rng (n : Fin 16) (g l : Bool) (rise : Nat) : (m.setGatePins n g l rise).rng = m.rng := rfl
@[simp] theorem Mach.setGatePins_signals (n : Fin 16) (g l : Bool) (rise : Nat) : (m.setGatePins n g l rise).signals = m.signals := rfl
@[simp] theorem Mach.setGatePins_tokens (n : Fin 16) (g l : Bool) (rise : Nat) : (m.setGatePins n g l rise).tokens = m.tokens := rfl
@[simp] theorem Mach.setGatePins_stages (n : Fin 16) (g l : Bool) (rise : Nat) : (m.setGatePins n g l rise).stages = m.stages := rfl
@[simp] theorem Mach.setGatePins_axpins (n : Fin 16) (g l : Bool) (rise : Nat) : (m.setGatePins n g l rise).axpins = m.axpins := rfl
@[simp] theorem Mach.setGatePins_enc (n : Fin 16) (g l : Bool) (rise : Nat) : (m.setGatePins n g l rise).enc = m.enc := rfl
@[simp] theorem Mach.setGatePins_encAt (n : Fin 16) (g l : Bool) (rise : Nat) : (m.setGatePins n g l rise).encAt = m.encAt := rfl
@[simp] theorem Mach.setGatePins_encLog (n : Fin 16) (g l : Bool) (rise : Nat) : (m.setGatePins n g l rise).encLog = m.encLog := rfl
@[simp] theorem Mach.setGatePins_safeOut (n : Fin 16) (g l : Bool) (rise : Nat) : (m.setGatePins n g l rise).safeOut = m.safeOut := rfl
@[simp] theorem Mach.setGatePins_fnMask (n : Fin 16) (g l : Bool) (rise : Nat) : (m.setGatePins n g l rise).fnMask = m.fnMask := rfl
@[simp] theorem Mach.setGatePins_free (n : Fin 16) (g l : Bool) (rise : Nat) : (m.setGatePins n g l rise).free = m.free := rfl
@[simp] theorem Mach.setGatePins_rdata (n : Fin 16) (g l : Bool) (rise : Nat) : (m.setGatePins n g l rise).rdata = m.rdata := rfl
@[simp] theorem Mach.setGatePins_out (n : Fin 16) (g l : Bool) (rise : Nat) : (m.setGatePins n g l rise).out = m.out := rfl

/-! `Mach.setPstate` -/

@[simp] theorem Mach.setPstate_now (v : Nat) : (m.setPstate v).now = m.now := rfl
@[simp] theorem Mach.setPstate_mt (v : Nat) : (m.setPstate v).mt = m.mt := rfl
@[simp] theorem Mach.setPstate_regs0 (v : Nat) : (m.setPstate v).regs0 = m.regs0 := rfl
@[simp] theorem Mach.setPstate_force (v : Nat) : (m.setPstate v).force = m.force := rfl
@[simp] theorem Mach.setPstate_loHeld (v : Nat) : (m.setPstate v).loHeld = m.loHeld := rfl
@[simp] theorem Mach.setPstate_hiLatch (v : Nat) : (m.setPstate v).hiLatch = m.hiLatch := rfl
@[simp] theorem Mach.setPstate_unlock (v : Nat) : (m.setPstate v).unlock = m.unlock := rfl
@[simp] theorem Mach.setPstate_idleWrites (v : Nat) : (m.setPstate v).idleWrites = m.idleWrites := rfl
@[simp] theorem Mach.setPstate_tim (v : Nat) : (m.setPstate v).tim = m.tim := rfl
@[simp] theorem Mach.setPstate_saf (v : Nat) : (m.setPstate v).saf = m.saf := rfl
@[simp] theorem Mach.setPstate_cbk (v : Nat) : (m.setPstate v).cbk = m.cbk := rfl
@[simp] theorem Mach.setPstate_env (v : Nat) : (m.setPstate v).env = m.env := rfl
@[simp] theorem Mach.setPstate_mem (v : Nat) : (m.setPstate v).mem = m.mem := rfl
@[simp] theorem Mach.setPstate_ledger (v : Nat) : (m.setPstate v).ledger = m.ledger := rfl
@[simp] theorem Mach.setPstate_exports (v : Nat) : (m.setPstate v).exports = m.exports := rfl
@[simp] theorem Mach.setPstate_fe (v : Nat) : (m.setPstate v).fe = m.fe := rfl
@[simp] theorem Mach.setPstate_coo (v : Nat) : (m.setPstate v).coo = m.coo := rfl
@[simp] theorem Mach.setPstate_cooLayer (v : Nat) : (m.setPstate v).cooLayer = m.cooLayer := rfl
@[simp] theorem Mach.setPstate_axis (v : Nat) : (m.setPstate v).axis = m.axis := rfl
@[simp] theorem Mach.setPstate_slot (v : Nat) : (m.setPstate v).slot = m.slot := rfl
@[simp] theorem Mach.setPstate_cam (v : Nat) : (m.setPstate v).cam = m.cam := rfl
@[simp] theorem Mach.setPstate_pool (v : Nat) : (m.setPstate v).pool = m.pool := rfl
@[simp] theorem Mach.setPstate_bi (v : Nat) : (m.setPstate v).bi = m.bi := rfl
@[simp] theorem Mach.setPstate_cmp (v : Nat) : (m.setPstate v).cmp = m.cmp := rfl
@[simp] theorem Mach.setPstate_hs (v : Nat) : (m.setPstate v).hs = m.hs := rfl
@[simp] theorem Mach.setPstate_rng (v : Nat) : (m.setPstate v).rng = m.rng := rfl
@[simp] theorem Mach.setPstate_signals (v : Nat) : (m.setPstate v).signals = m.signals := rfl
@[simp] theorem Mach.setPstate_tokens (v : Nat) : (m.setPstate v).tokens = m.tokens := rfl
@[simp] theorem Mach.setPstate_stages (v : Nat) : (m.setPstate v).stages = m.stages := rfl
@[simp] theorem Mach.setPstate_pins (v : Nat) : (m.setPstate v).pins = m.pins := rfl
@[simp] theorem Mach.setPstate_axpins (v : Nat) : (m.setPstate v).axpins = m.axpins := rfl
@[simp] theorem Mach.setPstate_enc (v : Nat) : (m.setPstate v).enc = m.enc := rfl
@[simp] theorem Mach.setPstate_encAt (v : Nat) : (m.setPstate v).encAt = m.encAt := rfl
@[simp] theorem Mach.setPstate_encLog (v : Nat) : (m.setPstate v).encLog = m.encLog := rfl
@[simp] theorem Mach.setPstate_safeOut (v : Nat) : (m.setPstate v).safeOut = m.safeOut := rfl
@[simp] theorem Mach.setPstate_fnMask (v : Nat) : (m.setPstate v).fnMask = m.fnMask := rfl
@[simp] theorem Mach.setPstate_free (v : Nat) : (m.setPstate v).free = m.free := rfl
@[simp] theorem Mach.setPstate_rdata (v : Nat) : (m.setPstate v).rdata = m.rdata := rfl
@[simp] theorem Mach.setPstate_out (v : Nat) : (m.setPstate v).out = m.out := rfl

/-! `Mach.raiseOnce` -/

@[simp] theorem Mach.raiseOnce_now (src code inst value : Nat) :
    (m.raiseOnce src code inst value).now = m.now := by
  unfold Mach.raiseOnce; split <;> rfl
@[simp] theorem Mach.raiseOnce_mt (src code inst value : Nat) :
    (m.raiseOnce src code inst value).mt = m.mt := by
  unfold Mach.raiseOnce; split <;> rfl
@[simp] theorem Mach.raiseOnce_regs0 (src code inst value : Nat) :
    (m.raiseOnce src code inst value).regs0 = m.regs0 := by
  unfold Mach.raiseOnce; split <;> rfl
@[simp] theorem Mach.raiseOnce_force (src code inst value : Nat) :
    (m.raiseOnce src code inst value).force = m.force := by
  unfold Mach.raiseOnce; split <;> rfl
@[simp] theorem Mach.raiseOnce_loHeld (src code inst value : Nat) :
    (m.raiseOnce src code inst value).loHeld = m.loHeld := by
  unfold Mach.raiseOnce; split <;> rfl
@[simp] theorem Mach.raiseOnce_hiLatch (src code inst value : Nat) :
    (m.raiseOnce src code inst value).hiLatch = m.hiLatch := by
  unfold Mach.raiseOnce; split <;> rfl
@[simp] theorem Mach.raiseOnce_unlock (src code inst value : Nat) :
    (m.raiseOnce src code inst value).unlock = m.unlock := by
  unfold Mach.raiseOnce; split <;> rfl
@[simp] theorem Mach.raiseOnce_idleWrites (src code inst value : Nat) :
    (m.raiseOnce src code inst value).idleWrites = m.idleWrites := by
  unfold Mach.raiseOnce; split <;> rfl
@[simp] theorem Mach.raiseOnce_tim (src code inst value : Nat) :
    (m.raiseOnce src code inst value).tim = m.tim := by
  unfold Mach.raiseOnce; split <;> rfl
@[simp] theorem Mach.raiseOnce_saf (src code inst value : Nat) :
    (m.raiseOnce src code inst value).saf = m.saf := by
  unfold Mach.raiseOnce; split <;> rfl
@[simp] theorem Mach.raiseOnce_mem (src code inst value : Nat) :
    (m.raiseOnce src code inst value).mem = m.mem := by
  unfold Mach.raiseOnce; split <;> rfl
@[simp] theorem Mach.raiseOnce_ledger (src code inst value : Nat) :
    (m.raiseOnce src code inst value).ledger = m.ledger := by
  unfold Mach.raiseOnce; split <;> rfl
@[simp] theorem Mach.raiseOnce_exports (src code inst value : Nat) :
    (m.raiseOnce src code inst value).exports = m.exports := by
  unfold Mach.raiseOnce; split <;> rfl
@[simp] theorem Mach.raiseOnce_fe (src code inst value : Nat) :
    (m.raiseOnce src code inst value).fe = m.fe := by
  unfold Mach.raiseOnce; split <;> rfl
@[simp] theorem Mach.raiseOnce_coo (src code inst value : Nat) :
    (m.raiseOnce src code inst value).coo = m.coo := by
  unfold Mach.raiseOnce; split <;> rfl
@[simp] theorem Mach.raiseOnce_cooLayer (src code inst value : Nat) :
    (m.raiseOnce src code inst value).cooLayer = m.cooLayer := by
  unfold Mach.raiseOnce; split <;> rfl
@[simp] theorem Mach.raiseOnce_axis (src code inst value : Nat) :
    (m.raiseOnce src code inst value).axis = m.axis := by
  unfold Mach.raiseOnce; split <;> rfl
@[simp] theorem Mach.raiseOnce_slot (src code inst value : Nat) :
    (m.raiseOnce src code inst value).slot = m.slot := by
  unfold Mach.raiseOnce; split <;> rfl
@[simp] theorem Mach.raiseOnce_cam (src code inst value : Nat) :
    (m.raiseOnce src code inst value).cam = m.cam := by
  unfold Mach.raiseOnce; split <;> rfl
@[simp] theorem Mach.raiseOnce_pool (src code inst value : Nat) :
    (m.raiseOnce src code inst value).pool = m.pool := by
  unfold Mach.raiseOnce; split <;> rfl
@[simp] theorem Mach.raiseOnce_bi (src code inst value : Nat) :
    (m.raiseOnce src code inst value).bi = m.bi := by
  unfold Mach.raiseOnce; split <;> rfl
@[simp] theorem Mach.raiseOnce_cmp (src code inst value : Nat) :
    (m.raiseOnce src code inst value).cmp = m.cmp := by
  unfold Mach.raiseOnce; split <;> rfl
@[simp] theorem Mach.raiseOnce_hs (src code inst value : Nat) :
    (m.raiseOnce src code inst value).hs = m.hs := by
  unfold Mach.raiseOnce; split <;> rfl
@[simp] theorem Mach.raiseOnce_rng (src code inst value : Nat) :
    (m.raiseOnce src code inst value).rng = m.rng := by
  unfold Mach.raiseOnce; split <;> rfl
@[simp] theorem Mach.raiseOnce_signals (src code inst value : Nat) :
    (m.raiseOnce src code inst value).signals = m.signals := by
  unfold Mach.raiseOnce; split <;> rfl
@[simp] theorem Mach.raiseOnce_tokens (src code inst value : Nat) :
    (m.raiseOnce src code inst value).tokens = m.tokens := by
  unfold Mach.raiseOnce; split <;> rfl
@[simp] theorem Mach.raiseOnce_stages (src code inst value : Nat) :
    (m.raiseOnce src code inst value).stages = m.stages := by
  unfold Mach.raiseOnce; split <;> rfl
@[simp] theorem Mach.raiseOnce_pins (src code inst value : Nat) :
    (m.raiseOnce src code inst value).pins = m.pins := by
  unfold Mach.raiseOnce; split <;> rfl
@[simp] theorem Mach.raiseOnce_axpins (src code inst value : Nat) :
    (m.raiseOnce src code inst value).axpins = m.axpins := by
  unfold Mach.raiseOnce; split <;> rfl
@[simp] theorem Mach.raiseOnce_enc (src code inst value : Nat) :
    (m.raiseOnce src code inst value).enc = m.enc := by
  unfold Mach.raiseOnce; split <;> rfl
@[simp] theorem Mach.raiseOnce_encAt (src code inst value : Nat) :
    (m.raiseOnce src code inst value).encAt = m.encAt := by
  unfold Mach.raiseOnce; split <;> rfl
@[simp] theorem Mach.raiseOnce_encLog (src code inst value : Nat) :
    (m.raiseOnce src code inst value).encLog = m.encLog := by
  unfold Mach.raiseOnce; split <;> rfl
@[simp] theorem Mach.raiseOnce_safeOut (src code inst value : Nat) :
    (m.raiseOnce src code inst value).safeOut = m.safeOut := by
  unfold Mach.raiseOnce; split <;> rfl
@[simp] theorem Mach.raiseOnce_fnMask (src code inst value : Nat) :
    (m.raiseOnce src code inst value).fnMask = m.fnMask := by
  unfold Mach.raiseOnce; split <;> rfl
@[simp] theorem Mach.raiseOnce_free (src code inst value : Nat) :
    (m.raiseOnce src code inst value).free = m.free := by
  unfold Mach.raiseOnce; split <;> rfl
@[simp] theorem Mach.raiseOnce_rdata (src code inst value : Nat) :
    (m.raiseOnce src code inst value).rdata = m.rdata := by
  unfold Mach.raiseOnce; split <;> rfl

/-! `Mach.incRaise` -/

@[simp] theorem Mach.incRaise_now (r : RF) (src code inst : Nat) :
    (m.incRaise r src code inst).now = m.now := rfl
@[simp] theorem Mach.incRaise_mt (r : RF) (src code inst : Nat) :
    (m.incRaise r src code inst).mt = m.mt := rfl
@[simp] theorem Mach.incRaise_regs0 (r : RF) (src code inst : Nat) :
    (m.incRaise r src code inst).regs0 = m.regs0 := rfl
@[simp] theorem Mach.incRaise_force (r : RF) (src code inst : Nat) :
    (m.incRaise r src code inst).force = m.force := rfl
@[simp] theorem Mach.incRaise_loHeld (r : RF) (src code inst : Nat) :
    (m.incRaise r src code inst).loHeld = m.loHeld := rfl
@[simp] theorem Mach.incRaise_hiLatch (r : RF) (src code inst : Nat) :
    (m.incRaise r src code inst).hiLatch = m.hiLatch := rfl
@[simp] theorem Mach.incRaise_unlock (r : RF) (src code inst : Nat) :
    (m.incRaise r src code inst).unlock = m.unlock := rfl
@[simp] theorem Mach.incRaise_idleWrites (r : RF) (src code inst : Nat) :
    (m.incRaise r src code inst).idleWrites = m.idleWrites := rfl
@[simp] theorem Mach.incRaise_tim (r : RF) (src code inst : Nat) :
    (m.incRaise r src code inst).tim = m.tim := rfl
@[simp] theorem Mach.incRaise_saf (r : RF) (src code inst : Nat) :
    (m.incRaise r src code inst).saf = m.saf := rfl
@[simp] theorem Mach.incRaise_env (r : RF) (src code inst : Nat) :
    (m.incRaise r src code inst).env = m.env := rfl
@[simp] theorem Mach.incRaise_mem (r : RF) (src code inst : Nat) :
    (m.incRaise r src code inst).mem = m.mem := rfl
@[simp] theorem Mach.incRaise_ledger (r : RF) (src code inst : Nat) :
    (m.incRaise r src code inst).ledger = m.ledger := rfl
@[simp] theorem Mach.incRaise_exports (r : RF) (src code inst : Nat) :
    (m.incRaise r src code inst).exports = m.exports := rfl
@[simp] theorem Mach.incRaise_fe (r : RF) (src code inst : Nat) :
    (m.incRaise r src code inst).fe = m.fe := rfl
@[simp] theorem Mach.incRaise_coo (r : RF) (src code inst : Nat) :
    (m.incRaise r src code inst).coo = m.coo := rfl
@[simp] theorem Mach.incRaise_cooLayer (r : RF) (src code inst : Nat) :
    (m.incRaise r src code inst).cooLayer = m.cooLayer := rfl
@[simp] theorem Mach.incRaise_axis (r : RF) (src code inst : Nat) :
    (m.incRaise r src code inst).axis = m.axis := rfl
@[simp] theorem Mach.incRaise_slot (r : RF) (src code inst : Nat) :
    (m.incRaise r src code inst).slot = m.slot := rfl
@[simp] theorem Mach.incRaise_cam (r : RF) (src code inst : Nat) :
    (m.incRaise r src code inst).cam = m.cam := rfl
@[simp] theorem Mach.incRaise_pool (r : RF) (src code inst : Nat) :
    (m.incRaise r src code inst).pool = m.pool := rfl
@[simp] theorem Mach.incRaise_bi (r : RF) (src code inst : Nat) :
    (m.incRaise r src code inst).bi = m.bi := rfl
@[simp] theorem Mach.incRaise_cmp (r : RF) (src code inst : Nat) :
    (m.incRaise r src code inst).cmp = m.cmp := rfl
@[simp] theorem Mach.incRaise_hs (r : RF) (src code inst : Nat) :
    (m.incRaise r src code inst).hs = m.hs := rfl
@[simp] theorem Mach.incRaise_rng (r : RF) (src code inst : Nat) :
    (m.incRaise r src code inst).rng = m.rng := rfl
@[simp] theorem Mach.incRaise_signals (r : RF) (src code inst : Nat) :
    (m.incRaise r src code inst).signals = m.signals := rfl
@[simp] theorem Mach.incRaise_tokens (r : RF) (src code inst : Nat) :
    (m.incRaise r src code inst).tokens = m.tokens := rfl
@[simp] theorem Mach.incRaise_stages (r : RF) (src code inst : Nat) :
    (m.incRaise r src code inst).stages = m.stages := rfl
@[simp] theorem Mach.incRaise_pins (r : RF) (src code inst : Nat) :
    (m.incRaise r src code inst).pins = m.pins := rfl
@[simp] theorem Mach.incRaise_axpins (r : RF) (src code inst : Nat) :
    (m.incRaise r src code inst).axpins = m.axpins := rfl
@[simp] theorem Mach.incRaise_enc (r : RF) (src code inst : Nat) :
    (m.incRaise r src code inst).enc = m.enc := rfl
@[simp] theorem Mach.incRaise_encAt (r : RF) (src code inst : Nat) :
    (m.incRaise r src code inst).encAt = m.encAt := rfl
@[simp] theorem Mach.incRaise_encLog (r : RF) (src code inst : Nat) :
    (m.incRaise r src code inst).encLog = m.encLog := rfl
@[simp] theorem Mach.incRaise_safeOut (r : RF) (src code inst : Nat) :
    (m.incRaise r src code inst).safeOut = m.safeOut := rfl
@[simp] theorem Mach.incRaise_fnMask (r : RF) (src code inst : Nat) :
    (m.incRaise r src code inst).fnMask = m.fnMask := rfl
@[simp] theorem Mach.incRaise_free (r : RF) (src code inst : Nat) :
    (m.incRaise r src code inst).free = m.free := rfl
@[simp] theorem Mach.incRaise_rdata (r : RF) (src code inst : Nat) :
    (m.incRaise r src code inst).rdata = m.rdata := rfl

/-! `Mach.incRaiseOnce` -/

@[simp] theorem Mach.incRaiseOnce_now (r : RF) (src code inst : Nat) :
    (m.incRaiseOnce r src code inst).now = m.now := (m.inc r).raiseOnce_now ..
@[simp] theorem Mach.incRaiseOnce_mt (r : RF) (src code inst : Nat) :
    (m.incRaiseOnce r src code inst).mt = m.mt := (m.inc r).raiseOnce_mt ..
@[simp] theorem Mach.incRaiseOnce_regs0 (r : RF) (src code inst : Nat) :
    (m.incRaiseOnce r src code inst).regs0 = m.regs0 := (m.inc r).raiseOnce_regs0 ..
@[simp] theorem Mach.incRaiseOnce_force (r : RF) (src code inst : Nat) :
    (m.incRaiseOnce r src code inst).force = m.force := (m.inc r).raiseOnce_force ..
@[simp] theorem Mach.incRaiseOnce_loHeld (r : RF) (src code inst : Nat) :
    (m.incRaiseOnce r src code inst).loHeld = m.loHeld := (m.inc r).raiseOnce_loHeld ..
@[simp] theorem Mach.incRaiseOnce_hiLatch (r : RF) (src code inst : Nat) :
    (m.incRaiseOnce r src code inst).hiLatch = m.hiLatch := (m.inc r).raiseOnce_hiLatch ..
@[simp] theorem Mach.incRaiseOnce_unlock (r : RF) (src code inst : Nat) :
    (m.incRaiseOnce r src code inst).unlock = m.unlock := (m.inc r).raiseOnce_unlock ..
@[simp] theorem Mach.incRaiseOnce_idleWrites (r : RF) (src code inst : Nat) :
    (m.incRaiseOnce r src code inst).idleWrites = m.idleWrites := (m.inc r).raiseOnce_idleWrites ..
@[simp] theorem Mach.incRaiseOnce_tim (r : RF) (src code inst : Nat) :
    (m.incRaiseOnce r src code inst).tim = m.tim := (m.inc r).raiseOnce_tim ..
@[simp] theorem Mach.incRaiseOnce_saf (r : RF) (src code inst : Nat) :
    (m.incRaiseOnce r src code inst).saf = m.saf := (m.inc r).raiseOnce_saf ..
@[simp] theorem Mach.incRaiseOnce_mem (r : RF) (src code inst : Nat) :
    (m.incRaiseOnce r src code inst).mem = m.mem := (m.inc r).raiseOnce_mem ..
@[simp] theorem Mach.incRaiseOnce_ledger (r : RF) (src code inst : Nat) :
    (m.incRaiseOnce r src code inst).ledger = m.ledger := (m.inc r).raiseOnce_ledger ..
@[simp] theorem Mach.incRaiseOnce_exports (r : RF) (src code inst : Nat) :
    (m.incRaiseOnce r src code inst).exports = m.exports := (m.inc r).raiseOnce_exports ..
@[simp] theorem Mach.incRaiseOnce_fe (r : RF) (src code inst : Nat) :
    (m.incRaiseOnce r src code inst).fe = m.fe := (m.inc r).raiseOnce_fe ..
@[simp] theorem Mach.incRaiseOnce_coo (r : RF) (src code inst : Nat) :
    (m.incRaiseOnce r src code inst).coo = m.coo := (m.inc r).raiseOnce_coo ..
@[simp] theorem Mach.incRaiseOnce_cooLayer (r : RF) (src code inst : Nat) :
    (m.incRaiseOnce r src code inst).cooLayer = m.cooLayer := (m.inc r).raiseOnce_cooLayer ..
@[simp] theorem Mach.incRaiseOnce_axis (r : RF) (src code inst : Nat) :
    (m.incRaiseOnce r src code inst).axis = m.axis := (m.inc r).raiseOnce_axis ..
@[simp] theorem Mach.incRaiseOnce_slot (r : RF) (src code inst : Nat) :
    (m.incRaiseOnce r src code inst).slot = m.slot := (m.inc r).raiseOnce_slot ..
@[simp] theorem Mach.incRaiseOnce_cam (r : RF) (src code inst : Nat) :
    (m.incRaiseOnce r src code inst).cam = m.cam := (m.inc r).raiseOnce_cam ..
@[simp] theorem Mach.incRaiseOnce_pool (r : RF) (src code inst : Nat) :
    (m.incRaiseOnce r src code inst).pool = m.pool := (m.inc r).raiseOnce_pool ..
@[simp] theorem Mach.incRaiseOnce_bi (r : RF) (src code inst : Nat) :
    (m.incRaiseOnce r src code inst).bi = m.bi := (m.inc r).raiseOnce_bi ..
@[simp] theorem Mach.incRaiseOnce_cmp (r : RF) (src code inst : Nat) :
    (m.incRaiseOnce r src code inst).cmp = m.cmp := (m.inc r).raiseOnce_cmp ..
@[simp] theorem Mach.incRaiseOnce_hs (r : RF) (src code inst : Nat) :
    (m.incRaiseOnce r src code inst).hs = m.hs := (m.inc r).raiseOnce_hs ..
@[simp] theorem Mach.incRaiseOnce_rng (r : RF) (src code inst : Nat) :
    (m.incRaiseOnce r src code inst).rng = m.rng := (m.inc r).raiseOnce_rng ..
@[simp] theorem Mach.incRaiseOnce_signals (r : RF) (src code inst : Nat) :
    (m.incRaiseOnce r src code inst).signals = m.signals := (m.inc r).raiseOnce_signals ..
@[simp] theorem Mach.incRaiseOnce_tokens (r : RF) (src code inst : Nat) :
    (m.incRaiseOnce r src code inst).tokens = m.tokens := (m.inc r).raiseOnce_tokens ..
@[simp] theorem Mach.incRaiseOnce_stages (r : RF) (src code inst : Nat) :
    (m.incRaiseOnce r src code inst).stages = m.stages := (m.inc r).raiseOnce_stages ..
@[simp] theorem Mach.incRaiseOnce_pins (r : RF) (src code inst : Nat) :
    (m.incRaiseOnce r src code inst).pins = m.pins := (m.inc r).raiseOnce_pins ..
@[simp] theorem Mach.incRaiseOnce_axpins (r : RF) (src code inst : Nat) :
    (m.incRaiseOnce r src code inst).axpins = m.axpins := (m.inc r).raiseOnce_axpins ..
@[simp] theorem Mach.incRaiseOnce_enc (r : RF) (src code inst : Nat) :
    (m.incRaiseOnce r src code inst).enc = m.enc := (m.inc r).raiseOnce_enc ..
@[simp] theorem Mach.incRaiseOnce_encAt (r : RF) (src code inst : Nat) :
    (m.incRaiseOnce r src code inst).encAt = m.encAt := (m.inc r).raiseOnce_encAt ..
@[simp] theorem Mach.incRaiseOnce_encLog (r : RF) (src code inst : Nat) :
    (m.incRaiseOnce r src code inst).encLog = m.encLog := (m.inc r).raiseOnce_encLog ..
@[simp] theorem Mach.incRaiseOnce_safeOut (r : RF) (src code inst : Nat) :
    (m.incRaiseOnce r src code inst).safeOut = m.safeOut := (m.inc r).raiseOnce_safeOut ..
@[simp] theorem Mach.incRaiseOnce_fnMask (r : RF) (src code inst : Nat) :
    (m.incRaiseOnce r src code inst).fnMask = m.fnMask := (m.inc r).raiseOnce_fnMask ..
@[simp] theorem Mach.incRaiseOnce_free (r : RF) (src code inst : Nat) :
    (m.incRaiseOnce r src code inst).free = m.free := (m.inc r).raiseOnce_free ..
@[simp] theorem Mach.incRaiseOnce_rdata (r : RF) (src code inst : Nat) :
    (m.incRaiseOnce r src code inst).rdata = m.rdata := (m.inc r).raiseOnce_rdata ..

/-! `Mach.setVcore` -/

@[simp] theorem Mach.setVcore_now (v : Nat) :
    (m.setVcore v).now = m.now := by
  unfold Mach.setVcore; split <;> rfl
@[simp] theorem Mach.setVcore_mt (v : Nat) :
    (m.setVcore v).mt = m.mt := by
  unfold Mach.setVcore; split <;> rfl
@[simp] theorem Mach.setVcore_regs0 (v : Nat) :
    (m.setVcore v).regs0 = m.regs0 := by
  unfold Mach.setVcore; split <;> rfl
@[simp] theorem Mach.setVcore_force (v : Nat) :
    (m.setVcore v).force = m.force := by
  unfold Mach.setVcore; split <;> rfl
@[simp] theorem Mach.setVcore_loHeld (v : Nat) :
    (m.setVcore v).loHeld = m.loHeld := by
  unfold Mach.setVcore; split <;> rfl
@[simp] theorem Mach.setVcore_hiLatch (v : Nat) :
    (m.setVcore v).hiLatch = m.hiLatch := by
  unfold Mach.setVcore; split <;> rfl
@[simp] theorem Mach.setVcore_unlock (v : Nat) :
    (m.setVcore v).unlock = m.unlock := by
  unfold Mach.setVcore; split <;> rfl
@[simp] theorem Mach.setVcore_idleWrites (v : Nat) :
    (m.setVcore v).idleWrites = m.idleWrites := by
  unfold Mach.setVcore; split <;> rfl
@[simp] theorem Mach.setVcore_tim (v : Nat) :
    (m.setVcore v).tim = m.tim := by
  unfold Mach.setVcore; split <;> rfl
@[simp] theorem Mach.setVcore_saf (v : Nat) :
    (m.setVcore v).saf = m.saf := by
  unfold Mach.setVcore; split <;> rfl
@[simp] theorem Mach.setVcore_cbk (v : Nat) :
    (m.setVcore v).cbk = m.cbk := by
  unfold Mach.setVcore; split <;> rfl
@[simp] theorem Mach.setVcore_mem (v : Nat) :
    (m.setVcore v).mem = m.mem := by
  unfold Mach.setVcore; split <;> rfl
@[simp] theorem Mach.setVcore_ledger (v : Nat) :
    (m.setVcore v).ledger = m.ledger := by
  unfold Mach.setVcore; split <;> rfl
@[simp] theorem Mach.setVcore_exports (v : Nat) :
    (m.setVcore v).exports = m.exports := by
  unfold Mach.setVcore; split <;> rfl
@[simp] theorem Mach.setVcore_fe (v : Nat) :
    (m.setVcore v).fe = m.fe := by
  unfold Mach.setVcore; split <;> rfl
@[simp] theorem Mach.setVcore_coo (v : Nat) :
    (m.setVcore v).coo = m.coo := by
  unfold Mach.setVcore; split <;> rfl
@[simp] theorem Mach.setVcore_cooLayer (v : Nat) :
    (m.setVcore v).cooLayer = m.cooLayer := by
  unfold Mach.setVcore; split <;> rfl
@[simp] theorem Mach.setVcore_axis (v : Nat) :
    (m.setVcore v).axis = m.axis := by
  unfold Mach.setVcore; split <;> rfl
@[simp] theorem Mach.setVcore_slot (v : Nat) :
    (m.setVcore v).slot = m.slot := by
  unfold Mach.setVcore; split <;> rfl
@[simp] theorem Mach.setVcore_cam (v : Nat) :
    (m.setVcore v).cam = m.cam := by
  unfold Mach.setVcore; split <;> rfl
@[simp] theorem Mach.setVcore_pool (v : Nat) :
    (m.setVcore v).pool = m.pool := by
  unfold Mach.setVcore; split <;> rfl
@[simp] theorem Mach.setVcore_bi (v : Nat) :
    (m.setVcore v).bi = m.bi := by
  unfold Mach.setVcore; split <;> rfl
@[simp] theorem Mach.setVcore_cmp (v : Nat) :
    (m.setVcore v).cmp = m.cmp := by
  unfold Mach.setVcore; split <;> rfl
@[simp] theorem Mach.setVcore_hs (v : Nat) :
    (m.setVcore v).hs = m.hs := by
  unfold Mach.setVcore; split <;> rfl
@[simp] theorem Mach.setVcore_rng (v : Nat) :
    (m.setVcore v).rng = m.rng := by
  unfold Mach.setVcore; split <;> rfl
@[simp] theorem Mach.setVcore_signals (v : Nat) :
    (m.setVcore v).signals = m.signals := by
  unfold Mach.setVcore; split <;> rfl
@[simp] theorem Mach.setVcore_tokens (v : Nat) :
    (m.setVcore v).tokens = m.tokens := by
  unfold Mach.setVcore; split <;> rfl
@[simp] theorem Mach.setVcore_stages (v : Nat) :
    (m.setVcore v).stages = m.stages := by
  unfold Mach.setVcore; split <;> rfl
@[simp] theorem Mach.setVcore_pins (v : Nat) :
    (m.setVcore v).pins = m.pins := by
  unfold Mach.setVcore; split <;> rfl
@[simp] theorem Mach.setVcore_axpins (v : Nat) :
    (m.setVcore v).axpins = m.axpins := by
  unfold Mach.setVcore; split <;> rfl
@[simp] theorem Mach.setVcore_enc (v : Nat) :
    (m.setVcore v).enc = m.enc := by
  unfold Mach.setVcore; split <;> rfl
@[simp] theorem Mach.setVcore_encAt (v : Nat) :
    (m.setVcore v).encAt = m.encAt := by
  unfold Mach.setVcore; split <;> rfl
@[simp] theorem Mach.setVcore_encLog (v : Nat) :
    (m.setVcore v).encLog = m.encLog := by
  unfold Mach.setVcore; split <;> rfl
@[simp] theorem Mach.setVcore_safeOut (v : Nat) :
    (m.setVcore v).safeOut = m.safeOut := by
  unfold Mach.setVcore; split <;> rfl
@[simp] theorem Mach.setVcore_fnMask (v : Nat) :
    (m.setVcore v).fnMask = m.fnMask := by
  unfold Mach.setVcore; split <;> rfl
@[simp] theorem Mach.setVcore_free (v : Nat) :
    (m.setVcore v).free = m.free := by
  unfold Mach.setVcore; split <;> rfl
@[simp] theorem Mach.setVcore_rdata (v : Nat) :
    (m.setVcore v).rdata = m.rdata := by
  unfold Mach.setVcore; split <;> rfl
@[simp] theorem Mach.setVcore_out (v : Nat) :
    (m.setVcore v).out = m.out := by
  unfold Mach.setVcore; split <;> rfl

end Sys2Proof.Machine
end

