-- ==== Sys2Proof/Laws/Sparse.lean ====
section
/-! SUPPORT. Laws of the sparse maps: read after write, and the canonical form. -/
namespace Sys2Proof.Machine

variable {α : Type} {d : Nat → α}

@[simp] theorem sget_nil (k : Nat) : sget d [] k = d k := rfl

theorem sget_serase_same (m : Sparse α) (k : Nat) : sget d (serase m k) k = d k := by
  induction m with
  | nil => rfl
  | cons p t ih =>
    obtain ⟨j, v⟩ := p
    by_cases h : j = k <;> simp [serase, sget, h, ih]

theorem sget_serase_ne {k k' : Nat} (h : k' ≠ k) (m : Sparse α) :
    sget d (serase m k) k' = sget d m k' := by
  induction m with
  | nil => rfl
  | cons p t ih =>
    obtain ⟨j, v⟩ := p
    by_cases hj : j = k
    · simp [serase, sget, hj, ih, Ne.symm h]
    · simp [serase, sget, hj, ih]

theorem sget_sput_same (m : Sparse α) (k : Nat) (v : α) : sget d (sput m k v) k = v := by
  induction m with
  | nil => simp [sput, sget]
  | cons p t ih =>
    obtain ⟨j, w⟩ := p
    rcases Nat.lt_trichotomy j k with h | h | h
    · simp [sput, sget, h, Nat.ne_of_lt h, ih]
    · simp [sput, sget, h]
    · simp [sput, sget, Nat.not_lt_of_gt h, Nat.ne_of_gt h]

theorem sget_sput_ne {k k' : Nat} (h : k' ≠ k) (m : Sparse α) (v : α) :
    sget d (sput m k v) k' = sget d m k' := by
  induction m with
  | nil => simp [sput, sget, Ne.symm h]
  | cons p t ih =>
    obtain ⟨j, w⟩ := p
    rcases Nat.lt_trichotomy j k with hj | hj | hj
    · simp [sput, sget, hj, ih]
    · subst hj; simp [sput, sget, Ne.symm h]
    · simp [sput, sget, Nat.not_lt_of_gt hj, Nat.ne_of_gt hj, Ne.symm h]

/-- A written key reads as the value written. -/
@[simp] theorem sget_sset_same [DecidableEq α] (m : Sparse α) (k : Nat) (v : α) :
    sget d (sset d m k v) k = v := by
  unfold sset
  split
  · next h => rw [sget_serase_same, h]
  · exact sget_sput_same m k v

/-- Every other key reads as before. -/
theorem sget_sset_ne [DecidableEq α] {k k' : Nat} (h : k' ≠ k) (m : Sparse α) (v : α) :
    sget d (sset d m k v) k' = sget d m k' := by
  unfold sset
  split
  · exact sget_serase_ne h m
  · exact sget_sput_ne h m v

variable [DecidableEq α]

theorem swfFrom_mono {lo lo' : Nat} (h : lo' ≤ lo) {m : Sparse α} (hm : swfFrom d lo m = true) :
    swfFrom d lo' m = true := by
  cases m with
  | nil => rfl
  | cons p t =>
    simp only [swfFrom, Bool.and_eq_true, decide_eq_true_eq] at hm ⊢
    exact ⟨⟨Nat.le_trans h hm.1.1, hm.1.2⟩, hm.2⟩

theorem swfFrom_serase {lo : Nat} (m : Sparse α) (k : Nat) (hm : swfFrom d lo m = true) :
    swfFrom d lo (serase m k) = true := by
  induction m generalizing lo with
  | nil => rfl
  | cons p t ih =>
    obtain ⟨j, v⟩ := p
    simp only [swfFrom, Bool.and_eq_true, decide_eq_true_eq] at hm
    by_cases h : j = k
    · simpa [serase, h] using swfFrom_mono (by omega) (ih hm.2)
    · simp [serase, h, swfFrom, hm.1.1, hm.1.2, ih hm.2]

theorem swfFrom_sput {lo k : Nat} {v : α} (hk : lo ≤ k) (hv : v ≠ d k) (m : Sparse α)
    (hm : swfFrom d lo m = true) : swfFrom d lo (sput m k v) = true := by
  induction m generalizing lo with
  | nil => simp [sput, swfFrom, hk, hv]
  | cons p t ih =>
    obtain ⟨j, w⟩ := p
    simp only [swfFrom, Bool.and_eq_true, decide_eq_true_eq] at hm
    rcases Nat.lt_trichotomy j k with h | h | h
    · simp [sput, h, swfFrom, hm.1.1, hm.1.2, ih h hm.2]
    · subst h; simp [sput, swfFrom, hk, hv, hm.2]
    · simp [sput, Nat.not_lt_of_gt h, Nat.ne_of_gt h, swfFrom, hk, hv, hm.1.2, hm.2,
        Nat.succ_le_of_lt h]

/-- A write keeps the canonical form. -/
theorem swf_sset (m : Sparse α) (k : Nat) (v : α) (hm : swf d m = true) :
    swf d (sset d m k v) = true := by
  unfold swf sset at *
  split
  · exact swfFrom_serase m k hm
  · next h => exact swfFrom_sput (Nat.zero_le k) h m hm

theorem sget_below {lo k : Nat} (m : Sparse α) (hm : swfFrom d lo m = true) (h : k < lo) :
    sget d m k = d k := by
  induction m generalizing lo with
  | nil => rfl
  | cons p t ih =>
    obtain ⟨j, v⟩ := p
    simp only [swfFrom, Bool.and_eq_true, decide_eq_true_eq] at hm
    have hj : j ≠ k := by omega
    simp [sget, hj, ih hm.2 (by omega)]

/-- Two maps in canonical form that read the same at every key are the same data. -/
theorem swf_ext {lo : Nat} (m m' : Sparse α) (hm : swfFrom d lo m = true)
    (hm' : swfFrom d lo m' = true) (h : ∀ k, sget d m k = sget d m' k) : m = m' := by
  induction m generalizing lo m' with
  | nil =>
    cases m' with
    | nil => rfl
    | cons p t =>
      obtain ⟨j, v⟩ := p
      simp only [swfFrom, Bool.and_eq_true, decide_eq_true_eq] at hm'
      have := h j
      simp [sget] at this
      exact absurd this.symm hm'.1.2
  | cons p t ih =>
    obtain ⟨j, v⟩ := p
    simp only [swfFrom, Bool.and_eq_true, decide_eq_true_eq] at hm
    cases m' with
    | nil =>
      have := h j
      simp [sget] at this
      exact absurd this hm.1.2
    | cons p' t' =>
      obtain ⟨j', v'⟩ := p'
      have hm'' := hm'
      simp only [swfFrom, Bool.and_eq_true, decide_eq_true_eq] at hm''
      have hjj : j = j' := by
        rcases Nat.lt_trichotomy j j' with hl | hl | hl
        · have h1 := h j
          rw [sget_below (lo := j') ((j', v') :: t') (by simp [swfFrom, hm''.1.2, hm''.2]) hl] at h1
          simp [sget] at h1
          exact absurd h1 hm.1.2
        · exact hl
        · have h1 := h j'
          rw [sget_below (lo := j) ((j, v) :: t) (by simp [swfFrom, hm.1.2, hm.2]) hl] at h1
          simp [sget] at h1
          exact absurd h1.symm hm''.1.2
      subst hjj
      have hv : v = v' := by simpa [sget] using h j
      subst hv
      have : t = t' := by
        refine ih t' hm.2 hm''.2 fun k => ?_
        by_cases hk : j = k
        · subst hk
          rw [sget_below t hm.2 (by omega), sget_below t' hm''.2 (by omega)]
        · simpa [sget, hk] using h k
      rw [this]

end Sys2Proof.Machine
end

