-- ==== Sys2Proof/Laws/Reg.lean ====
section
/-! SUPPORT. Laws of the register store: a field written is read back, every other register and every
other field of the same register reads as before. -/
namespace Sys2Proof.Machine

variable {g : Sparse Word}

@[simp] theorem rget_rput_same (a : Nat) (v : Word) : rget (rput g a v) a = v := sget_sset_same g a v

theorem rget_rput_ne {a b : Nat} (h : b ≠ a) (v : Word) : rget (rput g a v) b = rget g b :=
  sget_sset_ne h g v

theorem rget_rwr_ne {r : RF} {b : Nat} (h : b ≠ r.a) (v : Nat) : rget (rwr g r v) b = rget g b :=
  rget_rput_ne h _

theorem bits_mod {v k msb lsb : Nat} (h : msb < k) : bits (v % 2 ^ k) msb lsb = bits v msb lsb := by
  unfold bits
  by_cases hl : lsb ≤ msb
  · obtain ⟨w, rfl⟩ : ∃ w, k = lsb + w := ⟨k - lsb, by omega⟩
    rw [pow_add, Nat.mod_mul_right_div_self, Nat.mod_mod_of_dvd]
    exact pow_dvd_pow 2 (by omega)
  · rw [show msb + 1 - lsb = 0 by omega]; simp [Nat.mod_one]

theorem bits_putBits_same {v msb lsb x : Nat} (h : lsb ≤ msb) :
    bits (putBits v msb lsb x) msb lsb = x % 2 ^ (msb + 1 - lsb) := by
  unfold bits putBits
  obtain ⟨w, hw⟩ : ∃ w, msb + 1 = lsb + w := ⟨msb + 1 - lsb, by omega⟩
  have h1 : v % 2 ^ lsb < 2 ^ lsb := Nat.mod_lt _ (by positivity)
  rw [hw, show lsb + w - lsb = w by omega, pow_add,
    show v / (2 ^ lsb * 2 ^ w) * (2 ^ lsb * 2 ^ w) + x % 2 ^ w * 2 ^ lsb + v % 2 ^ lsb
      = v % 2 ^ lsb + 2 ^ lsb * (x % 2 ^ w + 2 ^ w * (v / (2 ^ lsb * 2 ^ w))) by ring,
    Nat.add_mul_div_left _ _ (by positivity), Nat.div_eq_of_lt h1, Nat.zero_add,
    Nat.add_mul_mod_self_left, Nat.mod_mod]

theorem putBits_low {v msb lsb x : Nat} (h : lsb ≤ msb) :
    putBits v msb lsb x % 2 ^ lsb = v % 2 ^ lsb := by
  unfold putBits
  obtain ⟨w, hw⟩ : ∃ w, msb + 1 = lsb + w := ⟨msb + 1 - lsb, by omega⟩
  rw [hw, show lsb + w - lsb = w by omega, pow_add,
    show v / (2 ^ lsb * 2 ^ w) * (2 ^ lsb * 2 ^ w) + x % 2 ^ w * 2 ^ lsb + v % 2 ^ lsb
      = v % 2 ^ lsb + 2 ^ lsb * (x % 2 ^ w + 2 ^ w * (v / (2 ^ lsb * 2 ^ w))) by ring,
    Nat.add_mul_mod_self_left, Nat.mod_mod]

theorem putBits_high {v msb lsb x : Nat} (h : lsb ≤ msb) :
    putBits v msb lsb x / 2 ^ (msb + 1) = v / 2 ^ (msb + 1) := by
  unfold putBits
  obtain ⟨w, hw⟩ : ∃ w, msb + 1 = lsb + w := ⟨msb + 1 - lsb, by omega⟩
  have h1 : v % 2 ^ lsb < 2 ^ lsb := Nat.mod_lt _ (by positivity)
  have h2 : x % 2 ^ w < 2 ^ w := Nat.mod_lt _ (by positivity)
  have h3 : x % 2 ^ w * 2 ^ lsb + v % 2 ^ lsb < 2 ^ (lsb + w) := by
    rw [pow_add]
    calc x % 2 ^ w * 2 ^ lsb + v % 2 ^ lsb < x % 2 ^ w * 2 ^ lsb + 1 * 2 ^ lsb := by omega
      _ = (x % 2 ^ w + 1) * 2 ^ lsb := by ring
      _ ≤ 2 ^ w * 2 ^ lsb := Nat.mul_le_mul_right _ h2
      _ = 2 ^ lsb * 2 ^ w := by ring
  rw [hw, show lsb + w - lsb = w by omega, Nat.add_assoc, Nat.add_comm, Nat.add_mul_div_right _ _ (by positivity),
    Nat.div_eq_of_lt h3, Nat.zero_add]

theorem bits_putBits_low {v msb lsb x m l : Nat} (hs : lsb ≤ msb) (h : m < lsb) :
    bits (putBits v msb lsb x) m l = bits v m l := by
  rw [← bits_mod (v := putBits v msb lsb x) h, putBits_low hs, bits_mod h]

theorem bits_putBits_high {v msb lsb x m l : Nat} (hs : lsb ≤ msb) (h : msb < l) :
    bits (putBits v msb lsb x) m l = bits v m l := by
  unfold bits
  obtain ⟨w, rfl⟩ : ∃ w, l = msb + 1 + w := ⟨l - (msb + 1), by omega⟩
  rw [pow_add, ← Nat.div_div_eq_div_mul, putBits_high hs, Nat.div_div_eq_div_mul]

/-- The word that a field write stores, in whose bits the others stand as before. -/
theorem rget_rwr_same (r : RF) (v : Nat) :
    rget (rwr g r v) r.a = BitVec.ofNat 32 (putBits (rget g r.a).toNat r.msb r.lsb v) :=
  rget_rput_same _ _

/-- A field written is read back. -/
theorem rrd_rwr_same (r : RF) (v : Nat) (h : r.lsb ≤ r.msb) (h' : r.msb < 32) :
    rrd (rwr g r v) r = v % 2 ^ (r.msb + 1 - r.lsb) := by
  unfold rrd
  rw [rget_rwr_same, BitVec.toNat_ofNat, bits_mod h', bits_putBits_same h]

/-- A field of another register reads as before. -/
theorem rrd_rwr_ne (r r' : RF) (v : Nat) (h : r'.a ≠ r.a) : rrd (rwr g r v) r' = rrd g r' := by
  unfold rrd
  rw [rget_rwr_ne h]

/-- A field of lower bits of the same register reads as before. -/
theorem rrd_rwr_below (r r' : RF) (v : Nat) (ha : r'.a = r.a) (h : r.lsb ≤ r.msb)
    (h' : r'.msb < r.lsb) (h32 : r'.msb < 32) : rrd (rwr g r v) r' = rrd g r' := by
  unfold rrd
  rw [ha, rget_rwr_same, BitVec.toNat_ofNat, bits_mod h32, bits_putBits_low h h']

/-- A field of higher bits of the same register reads as before. -/
theorem rrd_rwr_above (r r' : RF) (v : Nat) (ha : r'.a = r.a) (h : r.lsb ≤ r.msb)
    (h' : r.msb < r'.lsb) (h32 : r'.msb < 32) : rrd (rwr g r v) r' = rrd g r' := by
  unfold rrd
  rw [ha, rget_rwr_same, BitVec.toNat_ofNat, bits_mod h32, bits_putBits_high h h']

/-! The same on fields given by their numbers, for `simp (disch := omega)` after the names are unfolded. -/

theorem rrd_wr_same {a h l v : Nat} (h1 : l ≤ h) (h2 : h < 32) :
    rrd (rwr g ⟨a, h, l⟩ v) ⟨a, h, l⟩ = v % 2 ^ (h + 1 - l) := rrd_rwr_same _ _ h1 h2

theorem rrd_wr_ne {a h l v a' h' l' : Nat} (h1 : a' ≠ a) :
    rrd (rwr g ⟨a, h, l⟩ v) ⟨a', h', l'⟩ = rrd g ⟨a', h', l'⟩ := rrd_rwr_ne _ _ _ h1

theorem rrd_wr_below {a h l v h' l' : Nat} (h1 : l ≤ h) (h2 : h' < l) (h3 : h' < 32) :
    rrd (rwr g ⟨a, h, l⟩ v) ⟨a, h', l'⟩ = rrd g ⟨a, h', l'⟩ := rrd_rwr_below _ _ _ rfl h1 h2 h3

theorem rrd_wr_above {a h l v h' l' : Nat} (h1 : l ≤ h) (h2 : h < l') (h3 : h' < 32) :
    rrd (rwr g ⟨a, h, l⟩ v) ⟨a, h', l'⟩ = rrd g ⟨a, h', l'⟩ := rrd_rwr_above _ _ _ rfl h1 h2 h3

theorem rget_wr_ne {a h l v b : Nat} (h1 : b ≠ a) : rget (rwr g ⟨a, h, l⟩ v) b = rget g b :=
  rget_rwr_ne (r := ⟨a, h, l⟩) h1 v

theorem rrd_rput_same {a h l : Nat} {w : Word} : rrd (rput g a w) ⟨a, h, l⟩ = bits w.toNat h l := by
  unfold rrd
  rw [rget_rput_same]

theorem rrd_rput_ne {a b h l : Nat} {w : Word} (h1 : b ≠ a) :
    rrd (rput g a w) ⟨b, h, l⟩ = rrd g ⟨b, h, l⟩ := by
  unfold rrd
  rw [rget_rput_ne h1]

/-- A saturating counter counts. -/
theorem rrd_rinc {a h l : Nat} (h1 : l ≤ h) (h2 : h < 32)
    (h3 : rrd g ⟨a, h, l⟩ + 1 < 2 ^ (h + 1 - l)) :
    rrd (rinc g ⟨a, h, l⟩) ⟨a, h, l⟩ = rrd g ⟨a, h, l⟩ + 1 := by
  unfold rinc
  rw [if_pos h3, rrd_wr_same h1 h2, Nat.mod_eq_of_lt h3]

theorem rget_rinc_ne {a h l b : Nat} (h1 : b ≠ a) : rget (rinc g ⟨a, h, l⟩) b = rget g b := by
  unfold rinc
  split
  · exact rget_wr_ne h1
  · rfl

theorem rrd_rinc_ne {a h l a' h' l' : Nat} (h1 : a' ≠ a) :
    rrd (rinc g ⟨a, h, l⟩) ⟨a', h', l'⟩ = rrd g ⟨a', h', l'⟩ := by
  unfold rrd
  rw [rget_rinc_ne h1]

end Sys2Proof.Machine
end

