-- ==== Sys2Proof/Laws/Raise.lean ====
section
/-! SUPPORT. What a raise can do: it writes the pending bit of its source, and at most a pending vector
bit and the cellar book's counters; every other register reads as before. -/
namespace Sys2Proof.Machine

theorem signalVec_word_ne {g : Sparse Word} {out : List Out} {k : Bool} {v b : Nat}
    (h : b ≠ (R.HSQ_PBA (v / 32)).a) : rget (signalVec g out k v).1 b = rget g b := by
  unfold signalVec
  split
  · exact rget_rput_ne h _
  · rfl

theorem rrd_lt {g : Sparse Word} (a h l : Nat) : rrd g ⟨a, h, l⟩ < 2 ^ (h + 1 - l) :=
  Nat.mod_lt _ (by positivity)

theorem pend_word_ne {g : Sparse Word} {out : List Out} {k : Bool} {src b : Nat}
    (h1 : b ≠ (R.HS_EVT_PEND (src / 32)).a) (h2 : b ≠ (R.HSQ_PBA 0).a) (h3 : b ≠ (R.HSQ_PBA 1).a) :
    rget (pend g out k src).1 b = rget g b := by
  unfold pend; dsimp only
  split
  · have hv : rrd g (R.HS_EVT_ROUTE_VEC src) / 32 < 2 := by
      have h5 : rrd g (R.HS_EVT_ROUTE_VEC src) < 64 := rrd_lt (R.HS_EVT_ROUTE_VEC src).a 5 0
      omega
    rw [signalVec_word_ne]
    · exact rget_wr_ne h1
    · interval_cases rrd g (R.HS_EVT_ROUTE_VEC src) / 32 <;> assumption
  · exact rget_wr_ne h1

theorem enqueueRegs_word_ne {c : Cbk} {g : Sparse Word} {src b : Nat}
    (h1 : b ≠ R.CBK_QLEVEL_QMAX.a) (h2 : b ≠ (R.CBK_ANGEL src).a) :
    rget (enqueueRegs c g src) b = rget g b := by
  unfold enqueueRegs
  split
  · split
    · exact rget_wr_ne h1
    · rfl
  · exact rget_rinc_ne h2

/-- A register that no raise writes reads as before. -/
theorem Mach.raiseP_word_ne {m : Mach} {src code b : Nat} {p : List Byte} (h : b ∉ raiseRegs src) :
    rget (m.raiseP src code p).regs b = rget m.regs b := by
  simp only [raiseRegs, List.mem_cons, List.not_mem_nil, or_false, not_or] at h
  obtain ⟨h1, h2, h3, h4, h5⟩ := h
  unfold Mach.raiseP
  dsimp only
  split
  · rw [enqueueRegs_word_ne h4 h5, pend_word_ne h1 h2 h3]
  · exact pend_word_ne h1 h2 h3

theorem Mach.raise_word_ne {m : Mach} {src code inst value b : Nat} (h : b ∉ raiseRegs src) :
    rget (m.raise src code inst value).regs b = rget m.regs b := m.raiseP_word_ne h

/-- A field that no raise writes reads as before. -/
theorem Mach.raise_rrd_ne {m : Mach} {src code inst value : Nat} {a hb lb : Nat}
    (h : a ∉ raiseRegs src) :
    rrd (m.raise src code inst value).regs ⟨a, hb, lb⟩ = rrd m.regs ⟨a, hb, lb⟩ := by
  unfold rrd
  rw [Mach.raise_word_ne h]

theorem signalVec_pend {g : Sparse Word} {out : List Out} {k : Bool} {v a hb lb : Nat}
    (h : a < 0x100000000) : rrd (signalVec g out k v).1 ⟨a, hb, lb⟩ = rrd g ⟨a, hb, lb⟩ := by
  unfold rrd
  rw [signalVec_word_ne (by simp only [R.HSQ_PBA]; omega)]

/-- The pending bit of the source raised is set (R405). -/
theorem Mach.raiseP_pend {m : Mach} {src code : Nat} {p : List Byte} (h : src < 256) :
    rrd (m.raiseP src code p).regs ⟨(R.HS_EVT_PEND (src / 32)).a, src % 32, src % 32⟩ = 1 := by
  have hp : rrd (pend m.regs m.out m.fnMask src).1
      ⟨(R.HS_EVT_PEND (src / 32)).a, src % 32, src % 32⟩ = 1 := by
    have hw : rrd (rwr m.regs ⟨(R.HS_EVT_PEND (src / 32)).a, src % 32, src % 32⟩ 1)
        ⟨(R.HS_EVT_PEND (src / 32)).a, src % 32, src % 32⟩ = 1 := by
      rw [rrd_wr_same (Nat.le_refl _) (Nat.mod_lt _ (by omega))]
      simp
    unfold pend; dsimp only
    split
    · rw [signalVec_pend (by simp only [R.HS_EVT_PEND]; omega)]; exact hw
    · exact hw
  unfold Mach.raiseP
  dsimp only
  split
  · rw [← hp]
    unfold rrd
    rw [enqueueRegs_word_ne] <;> simp only [R.HS_EVT_PEND, R.CBK_QLEVEL_QMAX, R.CBK_ANGEL] <;> omega
  · exact hp

theorem Mach.raise_pend {m : Mach} {src code inst value : Nat} (h : src < 256) :
    rrd (m.raise src code inst value).regs
      ⟨(R.HS_EVT_PEND (src / 32)).a, src % 32, src % 32⟩ = 1 := m.raiseP_pend h

/-- What a raise does to the module (R405, R497). -/
theorem Mach.raise_only {m : Mach} {src code inst value : Nat} (h : src < 256) :
    m.OnlyRaised (m.raise src code inst value) src [] :=
  ⟨m.raise_pend h, fun _ ha => m.raise_word_ne (by simpa using ha), rfl⟩

end Sys2Proof.Machine
end

