-- ==== Sys2Proof/Laws/Wake.lean ====
section
/-! SUPPORT. With no context waiting, a command ends no wait. -/
namespace Sys2Proof.Machine

/-- The contexts of two modules agree where the records that hold them do. -/
theorem Mach.ctx_congr {m t : Mach} (h1 : t.fe = m.fe) (h2 : t.coo = m.coo) (h3 : t.axis = m.axis)
    (x : Ctx) : t.ctx x = m.ctx x := by
  cases x <;> simp [Mach.ctx, h1, h2, h3]

theorem Mach.someWaits_congr {m t : Mach} (h : ∀ x, t.ctx x = m.ctx x) : t.someWaits = m.someWaits := by
  unfold Mach.someWaits
  simp [h]

theorem Mach.Quiet.congr {m t : Mach} (h : m.Quiet) (h1 : t.fe = m.fe) (h2 : t.coo = m.coo)
    (h3 : t.axis = m.axis) : t.Quiet := by
  unfold Mach.Quiet
  rw [Mach.someWaits_congr (Mach.ctx_congr h1 h2 h3)]
  exact h

/-- With no context waiting, `wakeAll` does nothing. -/
theorem Mach.wakeAll_of_quiet {m : Mach} (h : m.Quiet) : m.wakeAll = m := by
  unfold Mach.wakeAll
  rw [show m.someWaits = false from h]
  rfl

theorem mem_allCtx (x : Ctx) : x ∈ allCtx := by
  cases x <;> simp [allCtx]

theorem Mach.quiet_iff {m : Mach} : m.Quiet ↔ ∀ x, (m.ctx x).wait = none := by
  unfold Mach.Quiet Mach.someWaits
  rw [List.any_eq_false]
  constructor
  · intro h x
    simpa using h x (mem_allCtx x)
  · intro h x _
    simp [h x]

end Sys2Proof.Machine
end

