-- ==== Sys2Proof/Laws/Front.lean ====
section
/-! SUPPORT. What the front does when it reaches an instruction. -/
namespace Sys2Proof.Machine

@[simp] theorem set_fin_self {α : Type} {k : Nat} (v : Vector α k) (n : Fin k) (f : α) : (v.set n f)[n] = f :=
  Vector.getElem_set_self ..

theorem set_fin_ne {α : Type} {k : Nat} (v : Vector α k) {n j : Fin k} (f : α) (h : j ≠ n) : (v.set n f)[j] = v[j] :=
  Vector.getElem_set_ne _ _ (fun e => h (Fin.ext e.symm))

@[simp] theorem Mach.modField_fe (m : Mach) (n : Fin 16) (g : Field → Field) :
    (m.modField n g).fe = m.fe.set n (g m.fe[n]) := rfl
@[simp] theorem Mach.setField_fe (m : Mach) (n : Fin 16) (f : Field) : (m.setField n f).fe = m.fe.set n f := rfl
@[simp] theorem Mach.setField_regs (m : Mach) (n : Fin 16) (f : Field) : (m.setField n f).regs = m.regs := rfl

/-- A row reaches a COO or AXE instruction that does not wait. -/
theorem rowSeq_retires {m : Mach} {x : Ctx} {i : TInstr} (hx : ctxEng x ≠ .fe) (h : m.AtFront x i)
    (hw : m.waitOf i = none) :
    m.rowSeq x i = (m.effect x i).retired x i (m.afterSeq x (m.ctx x).ret i (m.outcome x i)) (m.outcome x i) := by
  obtain ⟨_, hf, hwf, hr, hx'⟩ := h
  have hc : m.ctxRuns x = true := by cases x <;> simp_all [ctxEng]
  simp [Mach.rowSeq, hc, hf, Mach.seqIns, hwf, Mach.reachSeq, hr, hw]

/-- A row reaches a COO or AXE instruction whose wait is over at once. -/
theorem rowSeq_met {m : Mach} {x : Ctx} {i : TInstr} {k : WaitK} {tmo : Nat} (hx : ctxEng x ≠ .fe) (h : m.AtFront x i)
    (hw : m.waitOf i = some (k, tmo)) (hk : m.waitMet x k = true) :
    m.rowSeq x i = (m.effect x i).retired x i (m.afterSeq x (m.ctx x).ret i (m.outcome x i)) (m.outcome x i) := by
  obtain ⟨_, hf, hwf, hr, hx'⟩ := h
  have hc : m.ctxRuns x = true := by cases x <;> simp_all [ctxEng]
  simp [Mach.rowSeq, hc, hf, Mach.seqIns, hwf, Mach.reachSeq, hr, hw, hk]

/-- A row reaches a COO or AXE instruction that waits. -/
theorem rowSeq_waits {m : Mach} {x : Ctx} {i : TInstr} {k : WaitK} {tmo : Nat} (hx : ctxEng x ≠ .fe) (h : m.AtFront x i)
    (hw : m.waitOf i = some (k, tmo)) (hk : m.waitMet x k = false) :
    m.rowSeq x i = m.beginWait x i k tmo := by
  obtain ⟨_, hf, hwf, hr, hx'⟩ := h
  have hc : m.ctxRuns x = true := by cases x <;> simp_all [ctxEng]
  simp [Mach.rowSeq, hc, hf, Mach.seqIns, hwf, Mach.reachSeq, hr, hw, hk]

/-- The entry of an instruction decoded as it is reached. -/
def rowEntry (m : Mach) (n : Fin 16) (c : Fin 8) (i : TInstr) : PlanEntry :=
  bareEntry m.fe[n].ctx[c].ret i none (m.after m.fe[n].ctx[c].ret i (m.outcome (.fe n c) i)) (m.outcome (.fe n c) i)

/-- The field with that entry as its plan. -/
def rowMach (m : Mach) (n : Fin 16) (c : Fin 8) (i : TInstr) : Mach :=
  m.setField n { m.fe[n] with plan := [rowEntry m n c i], pl := (rowEntry m n c i).after
                              prefetch := usedWords m.fe[n].ctx[c].ret.pc i m.fe[n].prefetch }

theorem rowMach_fe (m : Mach) (n : Fin 16) (c : Fin 8) (i : TInstr) : (rowMach m n c i).fe[n] =
    { m.fe[n] with plan := [rowEntry m n c i], pl := (rowEntry m n c i).after
                   prefetch := usedWords m.fe[n].ctx[c].ret.pc i m.fe[n].prefetch } :=
  Vector.getElem_set_self ..

theorem Field.live_plan_bare {f : Field} {e : PlanEntry} (h : f.plan = [e]) (hs : e.segs = []) (t : Nat) :
    (f.live t).plan = [e] := by
  have hp : f.planStart = none := by simp [Field.planStart, h, hs]
  unfold Field.live Field.slipTo
  rw [hp]
  split <;> exact h

/-- The front reaches an instruction that stands alone in the plan. -/
theorem reaches_row {m : Mach} {n : Fin 16} {c : Fin 8} {i : TInstr} (h : m.fe[n].fresh = false ∨ stopsFront i = true) :
    (rowMach m n c i).reaches n = true := by
  unfold Mach.reaches
  rw [Field.live_plan_bare (e := rowEntry m n c i) (by rw [rowMach_fe]) rfl]
  have hf : (rowMach m n c i).fe[n].fresh = m.fe[n].fresh := by rw [rowMach_fe]
  rw [hf]
  rcases h with h | h
  · rw [h]; rfl
  · simp [openFront, rowEntry, bareEntry, h]

/-- A row whose instruction the planner has not decoded: the front reaches it. -/
theorem rowFe_reach {m : Mach} {n : Fin 16} {c : Fin 8} {i : TInstr} (h : m.AtFront (.fe n c) i)
    (hm : isMotion i = false) :
    m.rowFe n c i = Mach.rowGo n c m.fe[n].ctx[c].retired 7 ((rowMach m n c i).reachFe n c (rowEntry m n c i)) := by
  obtain ⟨_, hf, hwf, hr, hx⟩ := h
  simp only [Mach.ctx] at hf hwf
  obtain ⟨ho, hfr, hh, hp, he, hrp, hck, htr, hre⟩ := hx
  have hpass : ∀ m' : Mach, m'.fe[n].replan = none → m'.passReplan n = m' := by
    intro m' h; simp only [Mach.passReplan, h]
  have hdec : m.decodeRow n c i = rowMach m n c i := by
    unfold Mach.decodeRow
    dsimp only
    rw [hf, hwf]
    simp only [hm, Bool.not_false, if_true]
    rfl
  have hfr2 : (rowMach m n c i).frontRuns n c = true := by
    have : (rowMach m n c i).frontRuns n c = m.frontRuns n c := by
      unfold Mach.frontRuns; rw [rowMach_fe]; rfl
    rw [this, hfr]
  have hh2 : (rowMach m n c i).frontHeld n c = false := by
    have : (rowMach m n c i).frontHeld n c = m.frontHeld n c := by
      unfold Mach.frontHeld Mach.switchDue; rw [rowMach_fe]; rfl
    rw [this, hh]
  have e1 : (rowMach m n c i).fe[n].plan = [rowEntry m n c i] := by rw [rowMach_fe]
  have e2 : (rowMach m n c i).fe[n].replan = none := by rw [rowMach_fe]; exact hrp
  have e3 : (rowMach m n c i).fe[n].emit = none := by rw [rowMach_fe]; exact he
  have e4 : (rowMach m n c i).fe[n].ctx[c].retired = m.fe[n].ctx[c].retired := by rw [rowMach_fe]
  unfold Mach.rowFe
  simp only [hfr, Bool.not_true, Bool.false_eq_true, if_false, hpass m hrp, hp, List.isEmpty_nil, hh, Bool.not_false,
    Bool.and_true, if_true, hdec, e1]
  rw [if_pos (by rfl)]
  conv_lhs => unfold Mach.rowGo
  rw [e4]
  simp only [hfr2, Bool.not_true, Bool.false_eq_true, ne_eq, not_true_eq_false, or_self, if_false, hpass _ e2]
  have hs : (rowMach m n c i).frontStep n c = ((rowMach m n c i).reachFe n c (rowEntry m n c i), true) := by
    unfold Mach.frontStep
    simp only [e1, e3, Option.isSome_none, Bool.false_eq_true, if_false, hh2, Bool.and_false, reaches_row hre]
    simp [rowEntry, bareEntry, hm]
  rw [hs]
  simp

/-- Contexts after a change of a field that leaves its contexts. -/
theorem Mach.setField_ctx {m : Mach} {n : Fin 16} {f : Field} (hf : f.ctx = m.fe[n].ctx) (x : Ctx) :
    (m.setField n f).ctx x = m.ctx x := by
  cases x with
  | fe k c =>
    simp only [Mach.ctx, Mach.setField_fe]
    by_cases h : k = n
    · subst h; simp [hf]
    · have h2 : n.val ≠ k.val := fun e => h (Fin.ext e.symm)
      simp [Vector.getElem_set_ne _ _ h2]
  | coo c => rfl
  | axe a => rfl

theorem rowMach_ctx (m : Mach) (n : Fin 16) (c : Fin 8) (i : TInstr) (x : Ctx) : (rowMach m n c i).ctx x = m.ctx x :=
  by
  unfold rowMach
  refine Mach.setField_ctx (m := m) (n := n) ?_ x
  rfl

/-- The conditions of a reach read the contexts and nothing of the plans. -/
theorem reachFault_congr {m m' : Mach} (hc : ∀ x, m'.ctx x = m.ctx x) (ht : m'.tokens = m.tokens) (ha : m'.axis = m.axis)
    (x : Ctx) (i : TInstr) : m'.reachFault x i = m.reachFault x i := by
  unfold Mach.reachFault Mach.holds Mach.holder Mach.allIdle
  simp only [ht, ha, hc]

theorem waitMet_congr {m m' : Mach} (hc : ∀ x, m'.ctx x = m.ctx x) (ht : m'.tokens = m.tokens) (ha : m'.axis = m.axis)
    (hm : m'.mt = m.mt) (hs : m'.signals = m.signals) (hr : m'.regs = m.regs) (hh : m'.hs = m.hs)
    (x : Ctx) (k : WaitK) : m'.waitMet x k = m.waitMet x k := by
  cases k <;> simp only [Mach.waitMet, Mach.holds, Mach.holder, Mach.allIdle, Mach.sigOn, Mach.pushRoom, Mach.hsState,
    Mach.rd, ht, ha, hc, hm, hs, hr, hh]

theorem replans_false {i : TInstr} (h : isBarrier i = false) : replans i = false := by
  cases i <;> first | rfl | exact h

theorem replans_true {i : TInstr} (h : isBarrier i = true) (h1 : i ≠ .halt) (h2 : i ≠ .layerend) : replans i = true := by
  cases i <;> first | exact h | exact absurd rfl h1 | exact absurd rfl h2

/-- What a barrier changes of a field. -/
theorem Field.reachBarrier_eq (f : Field) (t : Nat) (i : TInstr) : f.reachBarrier t i =
    { f with barrier := f.barrier && !isBarrier i
             replan := if replans i then some ⟨.barrier, t, t, none⟩ else f.replan } := by
  unfold Field.reachBarrier
  cases hb : isBarrier i
  · rw [replans_false hb, Bool.not_false, Bool.and_true]; rfl
  · rw [Bool.not_true, Bool.and_false]
    split
    · rfl
    · rfl
    · rename_i h1 h2
      rw [replans_true hb h1 h2]
      rfl
    · contradiction

theorem Field.plain_pop (F : Field) (e : PlanEntry) (t : Nat) (i : TInstr) (st st' : PState) (h : F.replan = none) :
    ((({ F with plan := [e], pl := st' } : Field).popEntry.arrive t false).reachBarrier t i).follow st =
      { F with
        plan := [], emit := none, atCk := none, pl := st, barrier := F.barrier && !isBarrier i
        replan := if replans i then some ⟨.barrier, t, t, none⟩ else none } := by
  rw [Field.reachBarrier_eq, ← h]
  rfl

end Sys2Proof.Machine
end

