-- ==== Sys2Proof/Laws/Memory.lean ====
section
/-! SUPPORT. Laws of memory and of the heat ledger's cells: a byte read after a store, and the canonical form
through every operation that writes them. -/
namespace Sys2Proof.Machine

theorem swfFrom_filter {α : Type} [DecidableEq α] {d : Nat → α} (p : Nat × α → Bool) :
    ∀ {lo : Nat} (m : Sparse α), swfFrom d lo m = true → swfFrom d lo (m.filter p) = true
  | _, [], _ => rfl
  | lo, (j, v) :: t, h => by
    simp only [swfFrom, Bool.and_eq_true, decide_eq_true_eq] at h
    have ih := swfFrom_filter p t h.2
    rw [List.filter_cons]
    split
    · simp [swfFrom, h.1.1, h.1.2, ih]
    · exact swfFrom_mono (by omega) ih

theorem wf_filter {bs : List Host.Cell} (p : Host.Cell → Bool) (h : Memory.wf bs = true) : Memory.wf (bs.filter p) = true :=
  swfFrom_filter p bs h

theorem wf_nil : Memory.wf [] = true := rfl

theorem wf_storeBytes {bs : List Host.Cell} (a : Nat) (l : List Byte) (h : Memory.wf bs = true) :
    Memory.wf (storeBytes bs a l) = true := by
  induction l generalizing bs a with
  | nil => exact h
  | cons b t ih => exact ih (a + 1) (swf_sset bs a b h)

theorem wf_foldl_store {β : Type} (at_ : β → Nat) (l : β → List Byte) (xs : List β) {bs : List Host.Cell}
    (h : Memory.wf bs = true) : Memory.wf (xs.foldl (fun b x => storeBytes b (at_ x) (l x)) bs) = true := by
  induction xs generalizing bs with
  | nil => exact h
  | cons x t ih => exact ih (wf_storeBytes _ _ h)

/-- The same where some of the stores are left out. -/
theorem wf_foldl_storeIf {β : Type} (skip : β → Bool) (at_ : β → Nat) (l : β → List Byte) (xs : List β)
    {bs : List Host.Cell} (h : Memory.wf bs = true) :
    Memory.wf (xs.foldl (fun b x => if skip x then b else storeBytes b (at_ x) (l x)) bs) = true := by
  induction xs generalizing bs with
  | nil => exact h
  | cons x t ih =>
    apply ih
    show Memory.wf (if skip x then bs else storeBytes bs (at_ x) (l x)) = true
    split
    · exact h
    · exact wf_storeBytes _ _ h

/-- A byte below the first stored one reads as before. -/
theorem byte_storeBytes_below {k : Nat} (bs : List Host.Cell) (a : Nat) (l : List Byte) (h : k < a) :
    sget memDefault (storeBytes bs a l) k = sget memDefault bs k := by
  induction l generalizing bs a with
  | nil => rfl
  | cons b t ih => rw [storeBytes, ih _ _ (by omega), sget_sset_ne (by omega)]

/-- A byte past the last stored one reads as before. -/
theorem byte_storeBytes_above {k : Nat} (bs : List Host.Cell) (a : Nat) (l : List Byte) (h : a + l.length ≤ k) :
    sget memDefault (storeBytes bs a l) k = sget memDefault bs k := by
  induction l generalizing bs a with
  | nil => rfl
  | cons b t ih =>
    rw [List.length_cons] at h
    rw [storeBytes, ih _ _ (by omega), sget_sset_ne (by omega)]

/-- A stored byte reads back. -/
theorem byte_storeBytes {k : Nat} (bs : List Host.Cell) (a : Nat) (l : List Byte) (h : k < l.length) :
    sget memDefault (storeBytes bs a l) (a + k) = l[k] := by
  induction l generalizing bs a k with
  | nil => simp at h
  | cons b t ih =>
    rw [storeBytes]
    cases k with
    | zero => rw [byte_storeBytes_below _ _ _ (by omega), Nat.add_zero, sget_sset_same]; rfl
    | succ k =>
      rw [List.length_cons] at h
      rw [show a + (k + 1) = a + 1 + k by omega, ih _ _ (by omega)]
      rfl

/-- A line written holds its bytes, and no other byte changes (R361). -/
theorem Mach.storeLine_byte {m : Mach} {a k : Nat} {bs : List Byte} (h : k < bs.length) :
    (m.storeLine a bs).byte (a + k) = bs[k] := byte_storeBytes _ _ _ h

theorem Mach.storeLine_byte_ne {m : Mach} {a k : Nat} {bs : List Byte} (h : k < a ∨ a + bs.length ≤ k) :
    (m.storeLine a bs).byte k = m.byte k := by
  rcases h with h | h
  · exact byte_storeBytes_below _ _ _ h
  · exact byte_storeBytes_above _ _ _ h

theorem Mach.storeLine_wf {m : Mach} {a : Nat} {bs : List Byte} (h : Memory.wf m.mem.bytes = true) :
    Memory.wf (m.storeLine a bs).mem.bytes = true := wf_storeBytes _ _ h

/-- The write-out of a ledger leaves memory canonical (R273). -/
theorem Mach.exportDone_wf {m : Mach} (h : Memory.wf m.mem.bytes = true) : Memory.wf m.exportDone.mem.bytes = true := by
  unfold Mach.exportDone
  split
  · exact h
  · exact wf_foldl_store _ _ _ (wf_filter _ h)

/-- The save area's copy leaves memory canonical (R452). -/
theorem Mach.ceSave_wf {m : Mach} (h : Memory.wf m.mem.bytes = true) : Memory.wf m.ceSave.mem.bytes = true :=
  wf_foldl_storeIf _ _ _ _ (wf_filter _ h)

/-- A reset leaves memory canonical: empty, or as it was (R511). -/
theorem Mem.kept_wf {x : Mem} {kind : Nat} (h : Memory.wf x.bytes = true) : Memory.wf (x.kept kind).bytes = true := by
  unfold Mem.kept
  split
  · exact h
  · rfl

/-! ## The ledger's cells -/

/-- The cells of a ledger are in canonical form. -/
def Ledger.canon (l : Ledger) : Prop := swf (fun _ => l.base) l.cells = true

theorem Ledger.put_canon {l : Ledger} {k : Nat} {w : Word} (h : l.canon) : (l.put k w).canon := swf_sset _ _ _ h

theorem Ledger.open'_canon {l : Ledger} {t : Nat} (h : l.canon) : (l.open' t).canon := by
  unfold Ledger.open'
  split <;> exact h

theorem Mach.addShare_canon {m : Mach} {k a : Nat} (h : m.ledger.canon) : (m.addShare k a).1.ledger.canon :=
  Ledger.put_canon (l := m.ledger.open' m.mt) (Ledger.open'_canon h)

theorem Mach.ledgerClear_canon (m : Mach) : m.ledgerClear.ledger.canon := rfl

/-- CARRY rebuilds the listed cells over the new word of the unlisted ones (R272). -/
theorem Mach.ledgerCarry_canon (m : Mach) (factor : Nat) : (m.ledgerCarry factor).ledger.canon := by
  suffices h : ∀ (xs c : Sparse Word) (d : Nat → Word) (g : Word → Word), swf d c = true →
      swf d (xs.foldl (fun c p => sset d c p.1 (g p.2)) c) = true from h _ [] _ _ rfl
  intro xs
  induction xs with
  | nil => exact fun _ _ _ h => h
  | cons p t ih => exact fun c d g h => ih _ d g (swf_sset c _ _ h)

/-- A cell reads back what is put into it, and every other cell as before. -/
theorem Ledger.cell_put (l : Ledger) (k : Nat) (w : Word) : (l.put k w).cell k = w := sget_sset_same _ _ _

theorem Ledger.cell_put_ne (l : Ledger) {k j : Nat} (w : Word) (h : j ≠ k) : (l.put k w).cell j = l.cell j :=
  sget_sset_ne h _ _

end Sys2Proof.Machine
end

