-- ==== Sys2Proof/WellFormed.lean ====
section
/-! DEFINITION. Well-formed commands: the operands that their types do not bound already. -/
namespace Sys2Proof

/-- A temperature in whole degrees, as its register holds it. -/
def int8 (t : Int) : Bool := decide (-128 ≤ t ∧ t ≤ 127)

/-- A PTP message holds its correctionField, bytes 8 to 15 of its header of 34 (14, R431). -/
def ptpOk (f : EthFrame) : Bool :=
  match f.ptp with
  | none => true
  | some x => decide (34 ≤ x.bytes.length)

/-- The command is well formed: lists have the lengths that the spec gives them (R359, R367, R390, R451, R514),
segments last, and numbers fit where they go. -/
def Instr.wf (i : Instr) : Bool :=
  match i with
  | .hostRegisterWrite _ _ _ => true
  | .narrowWrite _ _ _ => true
  | .loReadLatch _ _ => true
  | .loWriteHold _ _ _ => true
  | .hiWriteCommit _ _ _ => true
  | .configRequest _ _ => true
  | .unlockKeyWrite _ _ _ => true
  | .unlockSequenceTimeout _ _ => true
  | .requestSafe _ => true
  | .requestReady _ => true
  | .disarmComplete _ => true
  | .slackGovernorTick _ => true
  | .oscCompensationUpdate _ => true
  | .mtkCapture _ => true
  | .mtkSeqReadLatch _ => true
  | .deadlineWatchRollover _ => true
  | .ptWrap _ => true
  | .ptStep _ _ => true
  | .ptReadLatch _ => true
  | .otReadLatch _ => true
  | .otSave _ => true
  | .edgeEntryArrival _ _ _ _ => true
  | .edgePresent _ _ => true
  | .synthLockLost _ => true
  | .nop _ _ _ => true
  | .br _ _ _ => true
  | .brc _ _ _ _ _ _ _ _ => true
  | .call _ _ _ => true
  | .ret _ _ => true
  | .loop _ _ _ _ => true
  | .halt _ _ => true
  | .layerend _ _ => true
  | .jump _ _ _ _ _ => true
  | .mark _ _ _ _ _ _ _ => true
  | .arc _ _ _ _ _ _ _ _ => true
  | .poly _ _ _ _ _ _ _ _ => true
  | .dot _ _ _ _ _ _ _ _ => true
  | .spiral _ _ _ _ _ _ _ _ _ => true
  | .wobble _ _ _ _ _ => true
  | .setv _ _ _ _ => true
  | .setp _ _ _ _ _ _ => true
  | .setpool _ _ _ _ _ => true
  | .setfocus _ _ _ => true
  | .setreentry _ _ _ _ => true
  | .setprofile _ _ _ _ _ _ => true
  | .sig _ _ _ _ _ _ _ _ => true
  | .sigFenceComplete _ _ => true
  | .waitsig _ _ _ _ _ _ => true
  | .waitt _ _ _ _ => true
  | .waittExpire _ _ => true
  | .waitTimeout _ _ => true
  | .claim _ _ _ _ => true
  | .release _ _ _ => true
  | .setreg _ _ _ _ _ => true
  | .ledgerClear _ _ => true
  | .ledgerCarry _ _ _ => true
  | .ledgerExport _ _ _ => true
  | .ledgerExportDone _ => true
  | .ledgerDepoff _ _ => true
  | .ledgerDepon _ _ => true
  | .ledgerKernel _ _ _ => true
  | .fstart _ _ _ _ _ => true
  | .fwait _ _ _ _ _ => true
  | .axmove _ _ _ _ _ _ => true
  | .axwait _ _ _ _ => true
  | .snap _ _ _ _ => true
  | .flip _ _ _ => true
  | .exportImage _ _ _ _ _ => true
  | .emissionFrontReach _ _ => true
  | .plannerDecode _ _ segs _ => segs.all fun s => decide (0 < s.dur)
  | .summaryPublish _ _ _ => true
  | .replanReady _ _ => true
  | .ctxStart _ _ _ => true
  | .ctxStop _ _ _ => true
  | .ctxStopComplete _ _ _ => true
  | .ctxReset _ _ _ => true
  | .emissionGrant _ _ => true
  | .contextSwitch _ _ => true
  | .laserOnRunStart _ _ => true
  | .planUnderrun _ _ => true
  | .corLoad _ _ => true
  | .corLoadExecute _ _ => true
  | .galvoSample _ _ _ _ _ _ _ => true
  | .fdlFrameSend _ _ => true
  | .fdlReturnFrame _ _ _ _ _ => true
  | .fdlReturnTimeout _ _ => true
  | .frameLatch _ _ => true
  | .framePendingApply _ _ => true
  | .encoderTransition _ _ _ _ => true
  | .slotSample _ _ => true
  | .poolRecordDeliver _ _ => true
  | .executionComplete _ _ => true
  | .executionDrop _ _ => true
  | .slotStart _ _ => true
  | .slotStop _ _ => true
  | .loadlib _ _ => true
  | .swapRequest _ _ => true
  | .tuneApply _ _ => true
  | .ceWindowWrite _ _ _ => true
  | .directPowerUpdate _ _ => true
  | .lchPendingApply _ _ => true
  | .laserAlarm _ _ => true
  | .laserReadyChange _ _ _ => true
  | .pdCheck _ _ => true
  | .ledgerFactorDeliver _ _ _ => true
  | .hldDeposit _ _ => true
  | .sweepVisit _ _ _ => true
  | .ledgerWindowWrite _ _ _ => true
  | .grantPass _ => true
  | .grantTimeout _ _ => true
  | .keepoutWrite _ _ _ => true
  | .ringDecision _ _ => true
  | .bookedResume _ _ => true
  | .cameraEnable _ _ _ => true
  | .cameraDisable _ _ => true
  | .csiPacketReceive _ _ pkt => decide (pkt.payload.length ≤ 65535)
  | .cameraFrameStart _ _ => true
  | .cameraFrameEnd _ _ => true
  | .frameTimeout _ _ => true
  | .triggerDiscard _ _ => true
  | .cameraTrig _ _ => true
  | .biTakeFrame _ _ => true
  | .biFrameComplete _ _ => true
  | .shadowCommit _ _ => true
  | .cmpFlipRequest _ _ => true
  | .fenceRead _ => true
  | .frameBoundary _ => true
  | .lineOutput _ _ _ => true
  | .dirtyWrite _ _ => true
  | .flattenComplete _ => true
  | .timingEnable _ => true
  | .hpdChange _ _ => true
  | .dpEnable _ => true
  | .dpRetrain _ => true
  | .linkTrainingComplete _ _ => true
  | .auxGo _ _ => true
  | .auxReply _ _ data => decide (data.length ≤ 16)
  | .axisHome _ _ => true
  | .axisStop _ _ => true
  | .axisFlush _ _ => true
  | .axisClrf _ _ => true
  | .axisSetpos _ _ => true
  | .pushMove _ _ => true
  | .pushRelativeMove _ _ => true
  | .pushRawSegment _ _ => true
  | .axisEnable _ _ _ => true
  | .profilerCommit _ _ segs => segs.all fun s => decide (0 < s.dur)
  | .axisInputSample _ _ _ _ _ => true
  | .feedbackTimeout _ _ => true
  | .axeCtxStart _ _ => true
  | .axeCtxStop _ _ => true
  | .axeCtxReset _ _ => true
  | .memRead _ _ _ _ _ _ => true
  | .memWrite _ _ _ addr data _ _ => decide (0 < data.length ∧ addr.toNat + data.length ≤ 2 ^ 40)
  | .agePromotion _ _ => true
  | .rowIdleClose _ _ _ _ => true
  | .scrubRead _ _ _ _ => true
  | .caParityAlert _ _ _ => true
  | .refresh _ _ _ => true
  | .dramTempRead _ temps => decide (temps.length = 30)
  | .retrainWindow _ _ _ _ _ temp => int8 temp
  | .rackCmd _ _ => true
  | .rackCopyLine _ _ _ => true
  | .rackComplete _ _ => true
  | .rmapClr _ => true
  | .h2dDoorbell _ _ _ => true
  | .doorbellRetry _ _ _ => true
  | .d2hDoorbell _ _ _ => true
  | .descriptorStart _ _ _ => true
  | .descWrite _ _ => true
  | .h2dDataReceived _ _ data => decide (data.length ≤ 4096)
  | .descWriteComplete _ _ => true
  | .descRead _ _ => true
  | .descSync _ _ => true
  | .syncFenceComplete _ _ => true
  | .descPush _ _ => true
  | .queueEnable _ _ _ => true
  | .queueDisable _ _ _ => true
  | .hostAccessError _ _ _ => true
  | .pcieLinkUp _ speed width => decide (1 ≤ speed.toNat ∧ speed.toNat ≤ 4) && [1, 4, 8].contains width.toNat
  | .pcieLinkDown _ => true
  | .d3hotEntry _ => true
  | .hotReset _ => true
  | .ringModeWrite _ _ => true
  | .ringFrameReceive _ _ f _ => ptpOk f
  | .supervisionSend _ => true
  | .cyclicFrameLaunch _ => true
  | .cyclicFrameReceive _ _ _ => true
  | .bypassWrite _ _ => true
  | .relayChange _ => true
  | .watchdogRefresh _ => true
  | .ringWatchdogExpire _ => true
  | .phyLinkChange _ _ _ => true
  | .pdelayReqSend _ _ => true
  | .pdelayReqReceive _ _ _ => true
  | .pdelayMeasurement _ _ _ _ _ _ => true
  | .psack _ _ => true
  | .feedPresent _ _ => true
  | .feedFail _ => true
  | .feedSwitch _ => true
  | .holdupExhausted _ => true
  | .railExcursion _ _ => true
  | .railRestart _ _ => true
  | .pstateActive _ => true
  | .pstateHold _ => true
  | .pstateIdle _ => true
  | .pstateStandby _ => true
  | .wakeOt _ => true
  | .wakeFrame _ _ => true
  | .thermalRead _ readings => decide (readings.length = 88)
  | .thresholdClear _ => true
  | .sensorClr _ _ => true
  | .referenceCompensation _ => true
  | .toppingStep _ _ m => decide (m.gain < 2 ^ 24 ∧ m.offs.natAbs < 2 ^ 23)
  | .toppingSwap _ _ => true
  | .sliceClr _ _ _ => true
  | .calibrationWrite _ _ _ _ _ => true
  | .interlockOpen _ _ => true
  | .interlockClose _ _ => true
  | .ilkDiscrepancy _ => true
  | .msHeartbeatTimeout _ => true
  | .msWatchdogReset _ => true
  | .gstatClear _ _ => true
  | .discClear _ => true
  | .resume _ _ _ => true
  | .resumeWindowExpire _ _ => true
  | .genrel _ _ => true
  | .armKeyFirst _ => true
  | .armKeySecond _ _ => true
  | .armKeyTimeout _ => true
  | .armComplete _ => true
  | .recordWrite _ _ _ => true
  | .summaryEntry _ => true
  | .powerOnReset _ _ => true
  | .resetL _ _ => true
  | .hostSoftReset _ _ => true
  | .fieldReset _ _ => true
  | .boot _ o => decide (o.temps.length = 6) && o.temps.all int8
  | .bootComplete _ _ => true
  | .synthLockRegained _ => true
  | .feedCeasesPresent _ _ => true
  | .laserAlarmInactive _ _ => true
  | .dphySyncError _ _ => true
  | .aerErrorLogged _ _ => true
  | .msixUnmask _ _ => true
  | .cooContextStart _ _ _ => true
  | .tuningComplete _ _ => true
  | .exportWritesComplete _ _ => true
  | .axisAtRest _ _ => true
  | .vcoreMeasurement _ _ => true

end Sys2Proof
end

