-- ==== Sys2Proof/Tests/Slice0.lean ====
section
/-!
SUPPORT. Tests of the model: an ill-formed command for each check of WellFormed, single steps whose results the
spec's examples and rules give, and, for the statements of Obligations.lean that have hypotheses, states and
operands that meet them, clause by clause.
-/
namespace Sys2Proof.Tests
open Sys2Proof.Machine
set_option maxRecDepth 8000
set_option Elab.async false
set_option linter.unusedVariables false

/-! ## Helpers -/

def mkS (f : Mach → Mach) : State := { State.reset with m := f State.reset.m }
/-- boot done, SAFE -/
def up : Mach := { State.reset.m.wrs [(R.HS_BOOT_STAGE, 4), (R.HS_BOOT_DOMOPEN, 255), (R.GLB_MODE_MODE, 1), (R.HS_LINK_UP, 1), (R.TIM_STATUS_LOCK, 1)] with
  mt := 800000 * 5, now := 900000 * 5, tim := { State.reset.m.tim with mtRun := true }, saf := { State.reset.m.saf with msRun := true } }
def st (m : Mach) : State := { State.reset with m := m }
def armed (m : Mach) : Mach := { m.wrs [(R.GLB_MODE_MODE, 3)] with saf := { m.saf with ilkA := true, ilkB := true } }
def genOn (m : Mach) (n : Fin 16) : Mach := { m with pins := m.pins.set n { m.pins[n] with gen := true } }
def ctxOn (x : Ctx) (s : CtxSt) (m : Mach) : Mach := m.setCtx x { m.ctx x with st := s }
/-- a context active at its front with a PC -/
def onFront (x : Ctx) (m : Mach) (f : PState → PState := id) : Mach :=
  let m := m.setCtx x { m.ctx x with st := .active, ret := f { (m.ctx x).ret with pc := 0x1000 } }
  match x with
  | .fe n _ => m.modField n fun g => { g with pl := (m.ctx x).ret, fresh := false }
  | _ => m
def rdy : Mach := up.wr R.GLB_MODE_MODE 2
def sg (dur : Nat) (x1 y1 : Int) (l : Bool) : Seg := ⟨dur, x1, y1, 0, 0, 7, 0xFFFF, l, false, false, true, 0, 0⟩
def psg (t0 : Nat) (s : Seg) (c : Fin 8 := 0) : PSeg := ⟨t0, 0, 0, 0, 0, 0, 0, s, 0x1000, c, ⟨t0, 0, 0, 0, 0, 0, [], 0⟩, 0⟩
def pe (i : TInstr) (segs : List PSeg) (p : PState) (on : Bool := false) : PlanEntry := ⟨p.pc, i, none, segs, p, { p with pc := p.pc + 16, moved := true, laserOn := on }, false, true, true, false, 0, 1000⟩
def poke (l : List (Nat × Nat)) (m : Mach) : Mach := { m with mem := { m.mem with bytes := l.foldl (fun b p => storeBytes b p.1 (leBytes 8 p.2)) m.mem.bytes } }

theorem getD_all {α : Type} {l : List (Option α)} {p : Nat → Option α → Prop} (h : ∀ k, k < l.length → p k (l.getD k none))
    (hd : ∀ k, p k none) (k : Nat) : p k (l.getD k none) := by
  by_cases hk : k < l.length
  · exact h k hk
  · rw [List.getD_eq_default _ _ (Nat.le_of_not_lt hk)]; exact hd k

theorem ctx_all {p : Ctx → Prop} (f : ∀ n c, p (.fe n c)) (g : ∀ c, p (.coo c)) (h : ∀ a, p (.axe a)) : ∀ x, p x
  | .fe n c => f n c
  | .coo c => g c
  | .axe a => h a

/-! ## Tests -/

namespace T0

/-! Ill-formed commands, one for each check of WellFormed, and a well-formed one. -/

def seg0 : Seg := ⟨0, 0, 0, 0, 0, 0, 0, false, false, false, true, 0, 0⟩
def mac : EthFrame := ⟨1, 2, none, 0x88F7, 100, false, some ⟨.sync, 0, 0, List.replicate 33 0⟩⟩

theorem test_wf_accepts : (Instr.plannerDecode 0 0 [{ seg0 with dur := 1 }] []).wf = true := by decide
theorem test_wf_segment_duration : (Instr.plannerDecode 0 0 [seg0] []).wf = false := by decide
theorem test_wf_payload : (Instr.csiPacketReceive 0 0 ⟨0, 0, false, false, false, List.replicate 65536 0⟩).wf = false := by decide +kernel
theorem test_wf_aux_reply : (Instr.auxReply 0 0 (List.replicate 17 0)).wf = false := by decide
theorem test_wf_axis_segment : (Instr.profilerCommit 0 0 [⟨0, 0, 0⟩]).wf = false := by decide
theorem test_wf_empty_write : (Instr.memWrite 0 0 0 0 [] .clean 0).wf = false := by decide
theorem test_wf_write_beyond : (Instr.memWrite 0 0 0 (-1) [0, 0] .clean 0).wf = false := by decide
theorem test_wf_dram_temps : (Instr.dramTempRead 0 []).wf = false := by decide
theorem test_wf_rank_temp : (Instr.retrainWindow 0 0 0 true true 200).wf = false := by decide
theorem test_wf_block : (Instr.h2dDataReceived 0 0 (List.replicate 4097 0)).wf = false := by decide +kernel
theorem test_wf_link_speed : (Instr.pcieLinkUp 0 0 8).wf = false := by decide
theorem test_wf_link_width : (Instr.pcieLinkUp 0 4 3).wf = false := by decide
theorem test_wf_ptp_bytes : (Instr.ringFrameReceive 0 0 mac 0).wf = false := by decide
theorem test_wf_readings : (Instr.thermalRead 0 []).wf = false := by decide
theorem test_wf_topping_gain : (Instr.toppingStep 0 0 ⟨0, 2 ^ 24, 0⟩).wf = false := by decide
theorem test_wf_boot_temps : (Instr.boot 0 ⟨true, true, none, true, [], [], none⟩).wf = false := by decide

/-! The queue. -/

theorem test_idle : step State.reset = .next State.reset := by rfl
theorem test_front_runs : step { st up with pending := [.requestReady 3, .requestSafe 5] } =
    exec (.requestReady 3) { st up with pending := [.requestSafe 5] } := by rfl
theorem reset_wf : State.reset.wf = true := by decide +kernel

/-! One step on a small state. Expected values are the spec's own examples, or its rules worked by hand. -/

def after (c : Instr) (m : Mach) : Mach :=
  match exec c (st m) with
  | .next t => t.m
  | _ => m

/-- 01, example after R35: the second word unlocks FE3, and FE_3_BLK_XSTAT reads 0x0000_8301. -/
theorem test_unlock : (after (.hostRegisterWrite 5 (0x8C00F0 / 4) 0xE2A8FF7C)
    (after (.hostRegisterWrite 0 (0x8C00F0 / 4) 0x1D570083) up)).view 0x8C00F4 = 0x8301 := by decide +kernel
/-- 01, example after R30: GLB_MODE_REQ = 3 leaves MODE at 1 and reads back REFUSED = 1, REASON = 4. -/
theorem test_mode_request_three : (after (.hostRegisterWrite 0 (0x14 / 4) 3) up).view 0x10 = 0x4101 := by decide +kernel
/-- R26: READY with no global fault and the interlock closed. -/
theorem test_mode_ready : (after (.hostRegisterWrite 0 (0x14 / 4) 2)
    { up with saf := { up.saf with ilkA := true, ilkB := true } }).mode = 2 := by decide +kernel
/-- R94, R95: SETV with JMP = 0 sets the mark speed and leaves the jump speed. -/
theorem test_setv : let r := (after (.setv 0 (.fe 2 3) false 300) (onFront (.fe 2 3) rdy)).fe[2].ctx[3].ret
    r.mspeed = 300 ∧ r.jspeed = 256000 := by decide +kernel
/-- R69: the coordinator knows no SETV, so its context faults and no speed changes. -/
theorem test_setv_coo : let r := (after (.setv 0 (.coo 0) false 300) (onFront (.coo 0) rdy)).coo[0]
    r.st = .faulted ∧ r.ret.mspeed = 25600 := by decide +kernel
/-- R97: SIG sets its signal and no other. -/
theorem test_sig : (after (.sig 0 (.coo 0) false false false 5 0 0) (onFront (.coo 0) rdy)).signals = 32 := by decide +kernel
/-- R272: LEDGER CLEAR leaves a listed cell without energy. -/
theorem test_ledger_clear : (after (.ledgerClear 0 (.coo 0))
    { onFront (.coo 0) rdy with ledger := { base := 0x00050007, cells := [(3, 9)], depAt := 0, before := [] } }).ledger.cell 3 &&& 0xFFFF = 0 := by
  decide +kernel
/-- R473: an opened channel declares ILK, and the module goes to SAFE. -/
theorem test_interlock : let t := after (.interlockOpen 0 .a) (armed rdy)
    t.mode = 1 ∧ t.rd R.SAF_GSTAT_CAUSE = 1 ∧ t.safeOut = false := by decide +kernel
/-- R354: a write of two bytes is read back, and its neighbour stays. -/
theorem test_mem_write : ((after (.memWrite 0 11 0 0x1FF [0xAB, 0xCD] .clean 0) rdy).bytes 0x1FE 4) = [0, 0xAB, 0xCD, 0] := by
  decide +kernel
/-- CRC-32C of "123456789" (13, R389 to R394; its check value is PRESUMED, from outside the spec). -/
theorem test_crc32c : crc32c [0x31, 0x32, 0x33, 0x34, 0x35, 0x36, 0x37, 0x38, 0x39] = 0xE3069283 := by decide +kernel
/-- R338: ENABLE of a step axis that wants a reference goes from OFF to UNREF, and AXEN rises. -/
theorem test_axis_enable : let t := after (.axisEnable 0 0 true) (rdy.wr (R.AXE_AX_CFG_KIND 0) 2)
    t.axis[0].st = .unref ∧ t.axpins[0].axen = true := by decide +kernel
/-- R339: a period of 125 µs is no whole multiple of the cycle of 100 µs, so the ENABLE of a ring axis sets CFGERR. -/
theorem test_axis_enable_refused : let t := after (.axisEnable 0 0 true) (rdy.wr (R.AXE_AX_CFG_KIND 0) 1)
    t.axis[0].st = .off ∧ t.rd (R.AXE_AX_CFG_CFGERR 0) = 1 := by decide +kernel
/-- R318: a flip request of two layers sets their pending bits. -/
theorem test_flip : let t := after (.cmpFlipRequest 0 0x81) (rdy.wr R.CMP_CTRL_EN 1)
    t.rd (R.CMP_LY_STATUS_PENDING 0) = 1 ∧ t.rd (R.CMP_LY_STATUS_PENDING 1) = 0 ∧ t.rd (R.CMP_LY_STATUS_PENDING 7) = 1 := by
  decide +kernel
/-- R171: one quadrature step of encoder 0 in mode 1 counts by one. -/
theorem test_encoder : ((after (.encoderTransition 0 0 true false) (rdy.wr (R.AXE_ENC_CTRL_MODE 0) 1)).rd (R.AXE_ENC_CNT 0)) = 1 := by
  decide +kernel
/-- R25: a request for SAFE with the galvos driven leaves every laser gate low. -/
theorem test_request_safe : ((after (.requestSafe 0) (armed rdy)).pins.toList.all fun p => !p.lgate && !p.lmod) = true := by
  decide +kernel
/-- R507: a write of another key to GLB_RESET has no effect. -/
theorem test_soft_reset_key : (after (.hostSoftReset 0 0x1D57B006) rdy).mode = 2 := by decide +kernel
/-- R5, R14: NAME_LO latches NAME_HI: MT above 2^32 ticks. -/
theorem test_lo_latch : let t := after (.loReadLatch 0 (0x30000 / 4)) { rdy with mt := 3 * 2 ^ 32 + 9 }
    t.rdata = 9 ∧ t.hiLatch.length = 1 := by decide +kernel

end T0

/-! ## Witnesses for the hypotheses of the statements -/

namespace W1
section
def regAddrs : List (BitVec 25) :=
  ((List.range 0x4000).map (fun k => (0x50000 + 4 * k) / 4) ++ (List.range 0x900).map (fun k => (0x100000 + 4*k)/4) ++ (List.range 0x100).map (fun k => (0xE00000+4*k)/4)).filterMap fun k =>
    if (findRow (4*k)).isSome ∨ k % 0x199 = 0 then some (BitVec.ofNat 25 k) else none
def sRegisterWriteFollowsAccessCodes (k : Nat) : State := ([st up, st (up.wrs [(⟨0xE000F4,0,0⟩, 1), (⟨0x1000F4,0,0⟩, 1), (R.HS_EVT_ROUTE_EN 3, 1)]), State.reset] : List State).getD k State.reset
theorem witness_RegisterWriteFollowsAccessCodes :
    (∃ (s : State) (dt : Nat) (m : Mach) (a : BitVec 25) (v : Word) (r : _) (ix : _), m = s.at dt ∧ findRow (regAddr a) = some (r, ix) ∧ m.Quiet ∧ unlockAddr (regAddr a) = false ∧ pairOf (regAddr a) = 0 ∧ (327680 ≤ regAddr a ∧ regAddr a < 393216 ∨ 1048576 ≤ regAddr a ∧ regAddr a < 2097152 ∨ 14680064 ≤ regAddr a ∧ regAddr a < 15728640) ∧ m.open? (regAddr a) = true) ∧
    (∃ (s : State) (dt : Nat) (m : Mach) (a : BitVec 25) (v : Word), m = s.at dt ∧ m.Quiet ∧ unlockAddr (regAddr a) = false ∧ pairOf (regAddr a) = 0 ∧ (327680 ≤ regAddr a ∧ regAddr a < 393216 ∨ 1048576 ≤ regAddr a ∧ regAddr a < 2097152 ∨ 14680064 ≤ regAddr a ∧ regAddr a < 15728640) ∧ m.open? (regAddr a) = true ∧ findRow (regAddr a) = none) ∧
    (∃ (s : State) (dt : Nat) (m : Mach) (a : BitVec 25) (v : Word), m = s.at dt ∧ m.Quiet ∧ unlockAddr (regAddr a) = false ∧ pairOf (regAddr a) = 0 ∧ (327680 ≤ regAddr a ∧ regAddr a < 393216 ∨ 1048576 ≤ regAddr a ∧ regAddr a < 2097152 ∨ 14680064 ≤ regAddr a ∧ regAddr a < 15728640) ∧ m.open? (regAddr a) = false) ∧
    (∃ (s : State) (dt : Nat) (m : Mach) (a : BitVec 27) (v : BitVec 16), m = s.at dt) :=
  ⟨⟨(sRegisterWriteFollowsAccessCodes 0), (0), _, (0x0014000#25), (0x00000000#32), _, _, rfl, rfl, by unfold Mach.Quiet; decide +kernel, by decide +kernel⟩,
    ⟨(sRegisterWriteFollowsAccessCodes 0), (0), _, (0x0014121#25), (0x00000000#32), rfl, by unfold Mach.Quiet; decide +kernel, by decide +kernel⟩,
    ⟨(sRegisterWriteFollowsAccessCodes 2), (0), _, (0x0014000#25), (0x00000000#32), rfl, by unfold Mach.Quiet; decide +kernel, by decide +kernel⟩,
    ⟨(sRegisterWriteFollowsAccessCodes 0), (0), _, (0x0000000#27), (0x0000#16), rfl⟩⟩
end
end W1

namespace W2
def am (m : Mach) : Mach := m
section
def sPairsCommitAndLatch (k : Nat) : State := ([st up, st { up with loHeld := [((R.FE_CTX_START_LO 0 0).a, 0x12345678), ((R.FE_CTX_START_LO 15 7).a, 0xFFFFFFF)] }] : List State).getD k State.reset
theorem witness_PairsCommitAndLatch :
    (∃ (s : State) (dt : Nat) (m : Mach) (n : Fin 16) (c : Fin 8) (lo : BitVec 25) (hi : BitVec 25) (v : Word), m = s.at dt ∧ regAddr lo = (R.FE_CTX_START_LO ↑n ↑c).a ∧ regAddr hi = (R.FE_CTX_START_HI ↑n ↑c).a ∧ m.open? (regAddr lo) = true) ∧
    (∃ (s : State) (dt : Nat) (m : Mach) (n : Fin 16) (c : Fin 8) (lo : BitVec 25) (hi : BitVec 25) (v : Word), m = s.at dt ∧ regAddr lo = (R.FE_CTX_START_LO ↑n ↑c).a ∧ regAddr hi = (R.FE_CTX_START_HI ↑n ↑c).a ∧ m.open? (regAddr lo) = true ∧ List.lookup (regAddr lo) m.loHeld = none) ∧
    (∃ (s : State) (dt : Nat) (m : Mach) (n : Fin 16) (c : Fin 8) (lo : BitVec 25) (hi : BitVec 25), m = s.at dt ∧ regAddr lo = (R.FE_CTX_START_LO ↑n ↑c).a ∧ regAddr hi = (R.FE_CTX_START_HI ↑n ↑c).a ∧ m.open? (regAddr lo) = true) ∧
    (∃ (s : State) (dt : Nat) (m : Mach) (n : Fin 16) (c : Fin 8) (lo : BitVec 25) (hi : BitVec 25) (v : Word) (w : _), m = s.at dt ∧ List.lookup (regAddr lo) m.loHeld = some w ∧ regAddr lo = (R.FE_CTX_START_LO ↑n ↑c).a ∧ regAddr hi = (R.FE_CTX_START_HI ↑n ↑c).a ∧ m.open? (regAddr lo) = true) :=
  ⟨⟨(sPairsCommitAndLatch 0), (0), _, (0), (0), (0x0200403#25), (0x0200404#25), (0x00000000#32), rfl, by decide +kernel⟩,
    ⟨(sPairsCommitAndLatch 0), (0), _, (0), (0), (0x0200403#25), (0x0200404#25), (0x00000000#32), rfl, by decide +kernel⟩,
    ⟨(sPairsCommitAndLatch 0), (0), _, (0), (0), (0x0200403#25), (0x0200404#25), rfl, by decide +kernel⟩,
    ⟨(sPairsCommitAndLatch 1), (0), _, (0), (0), (0x0200403#25), (0x0200404#25), (0x00000000#32), _, rfl, rfl, by decide +kernel⟩⟩
end
section
def allb : List Block := [.glb,.pwr,.thm,.tim,.saf,.cbk,.afe,.hs,.mem,.ce,.fe 15,.trl,.hld,.coo,.axe,.img,.cmp,.rng]
def sUnlockSequence (k : Nat) : State := ([st up, st State.reset.m, st { up with unlock := allb.map fun b => (blockAddr b, up.now + 1) }, st { up with unlock := allb.map fun b => (blockAddr b, up.now + 1 - 800001) },
  st { up with unlock := allb.map fun b => (blockAddr b, up.now + 1 - 800000) }] : List State).getD k State.reset
theorem witness_UnlockSequence_1 :
    (∃ (s : State) (dt : Nat) (m : Mach) (b : Block) (v : Word), m = s.at dt ∧ b ≠ Block.saf ∧ m.open? (blockAddr b) = true ∧ m.unlockPending (blockAddr b) = 0 ∧ BitVec.toNat v = unlockFirst (blockAddr b)) ∧
    (∃ (s : State) (dt : Nat) (m : Mach) (b : Block) (v : Word), m = s.at dt ∧ b ≠ Block.saf ∧ m.open? (blockAddr b) = true ∧ m.unlockPending (blockAddr b) = 0 ∧ BitVec.toNat v ≠ unlockFirst (blockAddr b)) ∧
    (∃ (s : State) (dt : Nat) (m : Mach) (b : Block), m = s.at dt ∧ b ≠ Block.saf ∧ (m.unlockPending (blockAddr b) = 0 ∨ m.now ≤ m.unlockPending (blockAddr b) - 1 + unlockTicks)) ∧
    (∃ (s : State) (dt : Nat) (m : Mach) (b : Block) (v : Word), m = s.at dt ∧ b ≠ Block.saf ∧ m.open? (blockAddr b) = false) ∧
    (∃ (s : State) (dt : Nat) (m : Mach) (b : Block) (v : Word), m = s.at dt ∧ b ≠ Block.saf ∧ m.open? (blockAddr b) = true ∧ m.unlockPending (blockAddr b) ≠ 0 ∧ m.now ≤ m.unlockPending (blockAddr b) - 1 + unlockTicks ∧ BitVec.toNat v = 4294967295 - unlockFirst (blockAddr b)) ∧
    (∃ (s : State) (dt : Nat) (m : Mach) (b : Block) (v : Word), m = s.at dt ∧ b ≠ Block.saf ∧ m.open? (blockAddr b) = true ∧ m.unlockPending (blockAddr b) ≠ 0 ∧ m.now ≤ m.unlockPending (blockAddr b) - 1 + unlockTicks ∧ BitVec.toNat v ≠ 4294967295 - unlockFirst (blockAddr b)) ∧
    (∃ (s : State) (dt : Nat) (m : Mach) (b : Block) (v : Word), m = s.at dt ∧ b ≠ Block.saf ∧ m.unlockPending (blockAddr b) ≠ 0 ∧ m.unlockPending (blockAddr b) - 1 + unlockTicks < m.now ∧ m.open? (blockAddr b) = true) ∧
    (∃ (s : State) (dt : Nat) (m : Mach) (b : Block), m = s.at dt ∧ b ≠ Block.saf ∧ m.unlockPending (blockAddr b) ≠ 0 ∧ m.unlockPending (blockAddr b) - 1 + unlockTicks < m.now) :=
  ⟨⟨(sUnlockSequence 0), (0), _, (Block.glb), (0x1d570000#32), rfl, by decide +kernel⟩,
    ⟨(sUnlockSequence 0), (0), _, (Block.glb), (0x00000000#32), rfl, by decide +kernel⟩,
    ⟨(sUnlockSequence 0), (0), _, (Block.glb), rfl, by decide +kernel⟩,
    ⟨(sUnlockSequence 1), (0), _, (Block.pwr), (0x00000000#32), rfl, by decide +kernel⟩,
    ⟨(sUnlockSequence 2), (0), _, (Block.glb), (0xe2a8ffff#32), rfl, by decide +kernel⟩,
    ⟨(sUnlockSequence 2), (0), _, (Block.glb), (0x00000000#32), rfl, by decide +kernel⟩,
    ⟨(sUnlockSequence 3), (0), _, (Block.glb), (0x00000000#32), rfl, by decide +kernel⟩,
    ⟨(sUnlockSequence 3), (0), _, (Block.glb), rfl, by decide +kernel⟩⟩
theorem witness_UnlockSequence_2 :
    (∃ (s : State) (dt : Nat) (m : Mach) (v : Word), m = s.at dt ∧ m.open? 262144 = true ∧ m.unlockPending 262144 ≠ 0 ∧ m.now ≤ m.unlockPending 262144 - 1 + unlockTicks ∧ BitVec.toNat v = 4294967295 - unlockFirst 262144) ∧
    (∃ (s : State) (dt : Nat) (m : Mach) (a : BitVec 10), m = s.at dt ∧ m.on R.HS_LINK_UP = true) ∧
    (∃ (s : State) (dt : Nat) (m : Mach) (a : BitVec 10), m = s.at dt ∧ m.on R.HS_LINK_UP = false) :=
  ⟨⟨(sUnlockSequence 2), (0), _, (0xe2a8fffb#32), rfl, by decide +kernel⟩,
    ⟨(sUnlockSequence 0), (0), _, (0x000#10), rfl, by decide +kernel⟩,
    ⟨(sUnlockSequence 1), (0), _, (0x000#10), rfl, by decide +kernel⟩⟩
end
section
def sModeRequests (k : Nat) : State := ([st up, st State.reset.m, st (up.wr R.GLB_MODE_MODE 2), st (up.wr R.GLB_MODE_MODE 3), st (up.wr R.SAF_GSTAT_CAUSE 4),
  st (ctxOn (.fe 3 2) .active (up.wr R.GLB_MODE_MODE 3)), st (ctxOn (.coo 2) .active (up.wr R.GLB_MODE_MODE 3)), st (ctxOn (.axe 2) .active (up.wr R.GLB_MODE_MODE 3)), st ((up.wr R.GLB_MODE_MODE 3).modField 3 fun f => { f with inRun := true }), 
  st {(up.wr R.GLB_MODE_MODE 3) with saf := {up.saf with disarming := true}}, st {up with saf := {up.saf with ilkA := true, ilkB := true}}, st {up with env := {up.env with waking := true}}] : List State).getD k State.reset
theorem witness_ModeRequests_1 :
    (∃ (s : State) (dt : Nat) (m : Mach), m = s.at dt ∧ m.mode ≠ modeReady ∧ m.mode ≠ modeArmed) ∧
    (∃ (s : State) (dt : Nat) (m : Mach), m = s.at dt ∧ (m.mode = modeReady ∨ m.mode = modeArmed)) ∧
    (∃ (s : State) (dt : Nat) (m : Mach), m = s.at dt ∧ m.Quiet ∧ m.mode = modeSafe ∧ m.env.waking = false ∧ m.rd R.SAF_GSTAT_CAUSE = 0 ∧ (m.saf.ilkA && m.saf.ilkB) = false) ∧
    (∃ (s : State) (dt : Nat) (m : Mach), m = s.at dt ∧ m.Quiet ∧ (m.mode = modeBoot ∨ m.mode = modeReady)) ∧
    (∃ (s : State) (dt : Nat) (m : Mach), m = s.at dt ∧ m.Quiet ∧ m.mode = modeArmed ∧ m.saf.disarming = false ∧ m.someRun = false) ∧
    (∃ (s : State) (dt : Nat) (m : Mach), m = s.at dt ∧ m.Quiet ∧ m.mode = modeSafe ∧ m.env.waking = false ∧ m.rd R.SAF_GSTAT_CAUSE ≠ 0) ∧
    (∃ (s : State) (dt : Nat) (m : Mach), m = s.at dt ∧ m.Quiet ∧ m.mode = modeArmed ∧ m.saf.disarming = false ∧ m.someRun = true) ∧
    (∃ (s : State) (dt : Nat) (m : Mach), m = s.at dt ∧ m.Quiet ∧ m.mode = modeArmed ∧ m.saf.disarming = true) :=
  ⟨⟨(sModeRequests 0), (0), _, rfl, by decide +kernel⟩,
    ⟨(sModeRequests 2), (0), _, rfl, by decide +kernel⟩,
    ⟨(sModeRequests 0), (0), _, rfl, by unfold Mach.Quiet; decide +kernel, by decide +kernel⟩,
    ⟨(sModeRequests 1), (0), _, rfl, by unfold Mach.Quiet; decide +kernel, by decide +kernel⟩,
    ⟨(sModeRequests 3), (0), _, rfl, by unfold Mach.Quiet; decide +kernel, by decide +kernel⟩,
    ⟨(sModeRequests 4), (0), _, rfl, by unfold Mach.Quiet; decide +kernel, by decide +kernel⟩,
    ⟨(sModeRequests 8), (0), _, rfl, by unfold Mach.Quiet; decide +kernel, by decide +kernel⟩,
    ⟨(sModeRequests 9), (0), _, rfl, by unfold Mach.Quiet; decide +kernel, by decide +kernel⟩⟩
theorem witness_ModeRequests_2 :
    (∃ (s : State) (dt : Nat) (m : Mach), m = s.at dt ∧ m.Quiet ∧ m.mode = modeSafe ∧ m.env.waking = false ∧ m.rd R.SAF_GSTAT_CAUSE = 0 ∧ (m.saf.ilkA && m.saf.ilkB) = true) ∧
    (∃ (s : State) (dt : Nat) (m : Mach), m = s.at dt ∧ m.Quiet ∧ m.mode = modeSafe ∧ m.env.waking = true) ∧
    (∃ (s : State) (dt : Nat) (m : Mach), m = s.at dt ∧ (m.saf.disarming = false ∨ m.mode ≠ modeArmed ∨ m.someRun = true)) ∧
    (∃ (s : State) (dt : Nat) (m : Mach), m = s.at dt ∧ m.saf.disarming = true ∧ m.mode = modeArmed ∧ m.someRun = false) :=
  ⟨⟨(sModeRequests 10), (0), _, rfl, by unfold Mach.Quiet; decide +kernel, by decide +kernel⟩,
    ⟨(sModeRequests 11), (0), _, rfl, by unfold Mach.Quiet; decide +kernel, by decide +kernel⟩,
    ⟨(sModeRequests 0), (0), _, rfl, by decide +kernel⟩,
    ⟨(sModeRequests 9), (0), _, rfl, by decide +kernel⟩⟩
end
section
def vs (w v g : Nat) (m : Mach) : Mach := { m.wrs [(R.TIM_DLW_WORST_SLACK, w), (R.PWR_VCORE_SET, v)] with env := { m.env with govCount := g } }
def sSlackGovernor (k : Nat) : State := ([0, 204,205,409,410,1023].flatMap fun w => [850, 849, 720, 722, 650, 652, 700].flatMap fun v => [0,14,15].flatMap fun g => [1,3].flatMap fun md => [true, false].map fun o => let m := vs w v g (up.wr R.GLB_MODE_MODE md); st { m with env := { m.env with slackOcc := o } } : List State).getD k State.reset
theorem witness_SlackGovernor :
    (∃ (s : State) (dt : Nat) (m : Mach), m = s.at dt ∧ m.atTick = true ∧ m.saf.msRun = true ∧ m.pstate ≤ 2 ∧ m.rd R.PWR_VCORE_SET ≤ 850) :=
  ⟨(sSlackGovernor 0), (0), _, rfl, by decide +kernel⟩
end
section
def sCompensationUpdate (k : Nat) : State := ([0,1].flatMap fun c => [0,1,255].flatMap fun th => [0, 1, 3, 700].flatMap fun i => [0, 5000000000, -5000000000].flatMap fun tm => [0, 268435455, 2^40-268435456, 2^39].flatMap fun tr => [0,1].map fun ch =>
  let m := up.wrs [(R.TIM_COMP_CTRL, c), (R.THM_S_TEMP 80, th), (R.TIM_MT_TRIM_LO, tr % 2^32), (R.TIM_MT_TRIM_HI, tr / 2^32), (R.TIM_STATUS_COMPHOLD, ch), (R.THM_S_NOSUB 80, if i = 1 then 1 else 0), (R.TIM_COMP 5, i * 10000), (R.TIM_COMP 0, i*1000000)]
  st { m with tim := { m.tim with term := tm } } : List State).getD k State.reset
theorem witness_CompensationUpdate :
    (∃ (s : State) (dt : Nat) (m : Mach), m = s.at dt ∧ m.atTick = false) ∧
    (∃ (s : State) (dt : Nat) (m : Mach), m = s.at dt ∧ m.atTick = true) :=
  ⟨⟨(sCompensationUpdate 0), (1), _, rfl, by decide +kernel⟩,
    ⟨(sCompensationUpdate 0), (0), _, rfl, by decide +kernel⟩⟩
end
end W2

namespace W3
section
def ts : List Tim := [up.tim, { up.tim with worst := [(1023,false),(17,false),(1023,true),(5,false),(6,false),(1023,false),(1023,false),(1023,false)] }, { up.tim with ptAcc := 2^64-1, ptEpoch := 0xFFFF }, { up.tim with ptAcc := 2^64 },
  { up.tim with ptAcc := 2^33, ot := 60*800000000 * 2^20, nextSlot := true}]
def sTimeCapturesAndLatches (k : Nat) : State := ((ts.flatMap fun t => [0, 5, 2^32-1].map fun i => st { up.wrs [(R.TIM_PT_INC_LO, i)] with tim := t }) ++ [st (up.wr R.TIM_PT_JUMP_LIMIT 0), st (up.wr R.TIM_PT_JUMP_LIMIT 0x3FFFFFFF), st {up with env := { up.env with holdup := true}},
  st (up.modField 3 fun f => f.setCtx 2 { f.ctx[2] with st := .active}), st State.reset.m, st (up.wr R.TIM_STATUS_LOCK 0), st {up with tim := {up.tim with mtRun := false}}, st (up.wr R.PWR_PSTATE_STATE 3)] : List State).getD k State.reset
theorem witness_TimeCapturesAndLatches :
    (∃ (s : State) (dt : Nat) (m : Mach), m = s.at dt ∧ m.atTick = true) ∧
    (∃ (s : State) (dt : Nat) (m : Mach), m = s.at dt ∧ m.open? R.TIM_MTK_SEQ.a = true) ∧
    (∃ (s : State) (dt : Nat) (m : Mach), m = s.at dt ∧ m.open? R.TIM_PT.a = true) ∧
    (∃ (s : State) (dt : Nat) (m : Mach), m = s.at dt ∧ m.open? R.TIM_OT_SEC.a = true) ∧
    (∃ (s : State) (dt : Nat) (m : Mach), m = s.at dt ∧ m.atTick = true ∧ m.tim.worst.length = 8 ∧ (∀ p ∈ m.tim.worst, p.1 ≤ 1023)) ∧
    (∃ (s : State) (dt : Nat) (m : Mach), m = s.at dt ∧ m.atTick = false) ∧
    (∃ (s : State) (dt : Nat) (m : Mach), m = s.at dt ∧ m.atTick = false) ∧
    (∃ (s : State) (dt : Nat) (m : Mach) (a : Nat), m = s.at dt ∧ (a = R.TIM_MTK_SEQ.a ∨ a = R.TIM_PT.a ∨ a = R.TIM_OT_SEC.a) ∧ m.open? a = false) :=
  ⟨⟨(sTimeCapturesAndLatches 0), (0), _, rfl, by decide +kernel⟩,
    ⟨(sTimeCapturesAndLatches 0), (0), _, rfl, by decide +kernel⟩,
    ⟨(sTimeCapturesAndLatches 0), (0), _, rfl, by decide +kernel⟩,
    ⟨(sTimeCapturesAndLatches 0), (0), _, rfl, by decide +kernel⟩,
    ⟨(sTimeCapturesAndLatches 0), (0), _, rfl, by decide +kernel⟩,
    ⟨(sTimeCapturesAndLatches 0), (196672), _, rfl, by decide +kernel⟩,
    ⟨(sTimeCapturesAndLatches 0), (196672), _, rfl, by decide +kernel⟩,
    ⟨(sTimeCapturesAndLatches 19), (0), _, (196672), rfl, by decide +kernel⟩⟩
def sTimeBasesMove (k : Nat) : State := ((ts.flatMap fun t => [0, 5, 2^32-1].map fun i => st { up.wrs [(R.TIM_PT_INC_LO, i)] with tim := t }) ++ [st (up.wr R.TIM_PT_JUMP_LIMIT 0), st (up.wr R.TIM_PT_JUMP_LIMIT 0x3FFFFFFF), st {up with env := { up.env with holdup := true}},
  st (up.modField 3 fun f => f.setCtx 2 { f.ctx[2] with st := .active}), st State.reset.m, st (up.wr R.TIM_STATUS_LOCK 0), st {up with tim := {up.tim with mtRun := false}}, st (up.wr R.PWR_PSTATE_STATE 3)] : List State).getD k State.reset
theorem witness_TimeBasesMove_1 :
    (∃ (s : State) (dt : Nat) (m : Mach) (v : Word), m = s.at dt ∧ m.open? 196656 = true ∧ (BitVec.toNat v % 2 ^ 30 ≤ m.rd R.TIM_PT_JUMP_LIMIT ∨ BitVec.getLsbD v 31 = true) ∧ BitVec.getLsbD v 30 = false ∧ m.tim.ptAcc + BitVec.toNat v % 2 ^ 30 * 2 ^ 32 < 2 ^ 64) ∧
    (∃ (s : State) (dt : Nat) (m : Mach) (v : Word), m = s.at dt ∧ m.open? 196656 = true ∧ (BitVec.toNat v % 2 ^ 30 ≤ m.rd R.TIM_PT_JUMP_LIMIT ∨ BitVec.getLsbD v 31 = true) ∧ BitVec.getLsbD v 30 = true ∧ m.tim.ptAcc < BitVec.toNat v % 2 ^ 30 * 2 ^ 32) ∧
    (∃ (s : State) (dt : Nat) (m : Mach) (v : Word), m = s.at dt ∧ m.open? 196656 = true ∧ m.rd R.TIM_PT_JUMP_LIMIT < BitVec.toNat v % 2 ^ 30 ∧ BitVec.getLsbD v 31 = false) ∧
    (∃ (s : State) (dt : Nat) (m : Mach), m = s.at dt ∧ m.tim.ptAcc < 2 ^ 64) ∧
    (∃ (s : State) (dt : Nat) (m : Mach), m = s.at dt ∧ m.env.holdup = false ∧ m.tim.ot < m.tim.otSaved + 60 * 800000000) ∧
    (∃ (s : State) (dt : Nat) (m : Mach), m = s.at dt ∧ m.on R.TIM_STATUS_LOCK = true) ∧
    (∃ (s : State) (dt : Nat) (m : Mach), m = s.at dt ∧ m.tim.mtRun = true) ∧
    (∃ (s : State) (dt : Nat) (m : Mach) (v : Word), m = s.at dt ∧ m.open? 196656 = true ∧ (BitVec.toNat v % 2 ^ 30 ≤ m.rd R.TIM_PT_JUMP_LIMIT ∨ BitVec.getLsbD v 31 = true) ∧ BitVec.getLsbD v 30 = true ∧ BitVec.toNat v % 2 ^ 30 * 2 ^ 32 ≤ m.tim.ptAcc) :=
  ⟨⟨(sTimeBasesMove 0), (0), _, (0x00000000#32), rfl, by decide +kernel⟩,
    ⟨(sTimeBasesMove 0), (0), _, (0x40000001#32), rfl, by decide +kernel⟩,
    ⟨(sTimeBasesMove 0), (0), _, (0x3fffffff#32), rfl, by decide +kernel⟩,
    ⟨(sTimeBasesMove 0), (0), _, rfl, by decide +kernel⟩,
    ⟨(sTimeBasesMove 0), (0), _, rfl, by decide +kernel⟩,
    ⟨(sTimeBasesMove 0), (0), _, rfl, by decide +kernel⟩,
    ⟨(sTimeBasesMove 0), (0), _, rfl, by decide +kernel⟩,
    ⟨(sTimeBasesMove 0), (196672), _, (0x40000001#32), rfl, by decide +kernel⟩⟩
theorem witness_TimeBasesMove_2 :
    (∃ (s : State) (dt : Nat) (m : Mach) (v : Word), m = s.at dt ∧ m.open? 196656 = true ∧ (BitVec.toNat v % 2 ^ 30 ≤ m.rd R.TIM_PT_JUMP_LIMIT ∨ BitVec.getLsbD v 31 = true) ∧ BitVec.getLsbD v 30 = false ∧ 2 ^ 64 ≤ m.tim.ptAcc + BitVec.toNat v % 2 ^ 30 * 2 ^ 32) ∧
    (∃ (s : State) (dt : Nat) (m : Mach), m = s.at dt ∧ 2 ^ 64 ≤ m.tim.ptAcc) ∧
    (∃ (s : State) (dt : Nat) (m : Mach), m = s.at dt ∧ (m.env.holdup = true ∨ m.tim.otSaved + 60 * 800000000 ≤ m.tim.ot)) ∧
    (∃ (s : State) (dt : Nat) (m : Mach) (v : Word), m = s.at dt ∧ m.open? 196656 = false) ∧
    (∃ (s : State) (dt : Nat) (m : Mach), m = s.at dt ∧ m.on R.TIM_STATUS_LOCK = false) ∧
    (∃ (s : State) (dt : Nat) (m : Mach), m = s.at dt ∧ m.tim.mtRun = false) :=
  ⟨⟨(sTimeBasesMove 6), (0), _, (0x00000001#32), rfl, by decide +kernel⟩,
    ⟨(sTimeBasesMove 6), (196672), _, rfl, by decide +kernel⟩,
    ⟨(sTimeBasesMove 12), (0), _, rfl, by decide +kernel⟩,
    ⟨(sTimeBasesMove 19), (0), _, (0x00000000#32), rfl, by decide +kernel⟩,
    ⟨(sTimeBasesMove 19), (0), _, rfl, by decide +kernel⟩,
    ⟨(sTimeBasesMove 19), (0), _, rfl, by decide +kernel⟩⟩
end
end W3

namespace W4
section
def es : List Edge := [.gate 0, .gyc 15, .gzc 0, .lpwr 0, .gxc 15, .fdl 1, .step 1, .trig 3, .cyc 1]
def wq (m : Mach) (s : Edge → Stage) : Mach := es.foldl (fun m e => m.setStage e (s e)) m
def vv : Edge → List EdgeVal | .gate _ => [.gate true true, .gate false true] | .lpwr _ => [.dac 100, .dac (-5)] | .gxc _ | .gyc _ | .gzc _ => [.dac 5, .dac (-5)] | .fdl _ => [.defl 1 2, .defl 3 4] | .step _ => [.step true false, .step false true] | _ => [.pulse, .pulse]
def sEdgeQueueOrder (k : Nat) : State := ([up, armed up, genOn (armed up) 15, (genOn (armed up) 0).wrs [(R.FE_LCH_LIMIT 0, 50)]].flatMap fun m =>
  [m, wq m fun e => ⟨[⟨m.mt+50, (vv e).getLastD .pulse⟩], [], some (m.mt+50)⟩, wq m fun e => ⟨[⟨m.mt, (vv e).getLastD .pulse⟩], [], some (m.mt+40)⟩, 
   wq m fun e => ⟨(List.range (stageDepth e)).map fun k => ⟨m.mt + k, (vv e).headD .pulse⟩, [], some m.mt⟩, wq m fun e => ⟨(List.range (stageDepth e)).map fun k => ⟨m.mt + 40, (vv e).headD .pulse⟩, [⟨m.mt+41,(vv e).headD .pulse⟩], some m.mt⟩].map st : List State).getD k State.reset
theorem witness_EdgeQueueOrder :
    (∃ (s : State) (dt : Nat) (m : Mach) (e : Edge) (due : Nat) (val : EdgeVal), m = s.at dt ∧ m.Quiet ∧ m.dueFits e due = true ∧ due < m.mt + 40) ∧
    (∃ (s : State) (dt : Nat) (m : Mach) (e : Edge) (due : Nat) (val : EdgeVal), m = s.at dt ∧ m.Quiet ∧ m.dueFits e due = true ∧ m.mt + 40 ≤ due ∧ (∃ d, (m.stage e).lastDue = some d ∧ due < d)) ∧
    (∃ (s : State) (dt : Nat) (m : Mach) (e : Edge) (due : Nat) (val : EdgeVal), m = s.at dt ∧ m.Quiet ∧ m.dueFits e due = true ∧ m.mt + 40 ≤ due ∧ (m.stage e).violates due = false ∧ ((m.stage e).q.any fun x => x.due == due) = true) :=
  ⟨⟨(sEdgeQueueOrder 0), (0), _, (Edge.gate 0), (0), (EdgeVal.pulse), rfl, by unfold Mach.Quiet; decide +kernel, by decide +kernel⟩,
    ⟨(sEdgeQueueOrder 1), (0), _, (Edge.gate 0), (4000040), (EdgeVal.pulse), rfl, by unfold Mach.Quiet; decide +kernel, by decide +kernel⟩,
    ⟨(sEdgeQueueOrder 1), (0), _, (Edge.gate 0), (4000050), (EdgeVal.pulse), rfl, by unfold Mach.Quiet; decide +kernel, by decide +kernel⟩⟩
def sEdgeStagesPresent (k : Nat) : State := ([up, armed up, genOn (armed up) 15, (genOn (armed up) 0).wrs [(R.FE_LCH_LIMIT 0, 50)]].flatMap fun m =>
  [m, wq m fun e => ⟨[⟨m.mt+50, (vv e).getLastD .pulse⟩], [], some (m.mt+50)⟩, wq m fun e => ⟨[⟨m.mt, (vv e).getLastD .pulse⟩], [], some (m.mt+40)⟩, 
   wq m fun e => ⟨(List.range (stageDepth e)).map fun k => ⟨m.mt + k, (vv e).headD .pulse⟩, [], some m.mt⟩, wq m fun e => ⟨(List.range (stageDepth e)).map fun k => ⟨m.mt + 40, (vv e).headD .pulse⟩, [⟨m.mt+41,(vv e).headD .pulse⟩], some m.mt⟩].map st : List State).getD k State.reset
theorem witness_EdgeStagesPresent :
    (∃ (s : State) (dt : Nat) (m : Mach) (e : Edge), m = s.at dt ∧ m.Quiet ∧ List.find? (fun x => x.due == m.mt) (m.stage e).q = none) ∧
    (∃ (s : State) (dt : Nat) (m : Mach) (e : Edge) (due : Nat) (val : EdgeVal), m = s.at dt ∧ m.Quiet ∧ m.dueFits e due = true ∧ m.mt + 40 ≤ due ∧ (m.stage e).violates due = false ∧ ((m.stage e).q.any fun x => x.due == due) = false) ∧
    (∃ (s : State) (dt : Nat) (m : Mach) (e : Edge) (x : _), m = s.at dt ∧ List.find? (fun x => x.due == m.mt) (m.stage e).q = some x ∧ m.Quiet ∧ (m.stage e).held = []) ∧
    (∃ (s : State) (dt : Nat) (m : Mach) (e : Edge) (x : _) (n : Fin 16) (g : Bool) (l : Bool), m = s.at dt ∧ List.find? (fun x => x.due == m.mt) (m.stage e).q = some x ∧ m.Quiet ∧ (m.stage e).held = [] ∧ e = Edge.gate n ∧ x.val = EdgeVal.gate g l) ∧
    (∃ (s : State) (dt : Nat) (m : Mach) (e : Edge) (x : _) (n : Fin 16) (c : Code), m = s.at dt ∧ List.find? (fun x => x.due == m.mt) (m.stage e).q = some x ∧ m.Quiet ∧ (m.stage e).held = [] ∧ (e = Edge.gyc n ∨ e = Edge.gzc n) ∧ x.val = EdgeVal.dac c) ∧
    (∃ (s : State) (dt : Nat) (m : Mach) (e : Edge) (x : _) (n : Fin 16) (c : Code), m = s.at dt ∧ List.find? (fun x => x.due == m.mt) (m.stage e).q = some x ∧ m.Quiet ∧ (m.stage e).held = [] ∧ e = Edge.lpwr n ∧ x.val = EdgeVal.dac c) ∧
    (∃ (s : State) (dt : Nat) (m : Mach) (e : Edge) (x : _) (n : Fin 16) (c : Code), m = s.at dt ∧ List.find? (fun x => x.due == m.mt) (m.stage e).q = some x ∧ m.Quiet ∧ (m.stage e).held = [] ∧ e = Edge.gxc n ∧ x.val = EdgeVal.dac c) :=
  ⟨⟨(sEdgeStagesPresent 0), (0), _, (Edge.gate 0), rfl, by unfold Mach.Quiet; decide +kernel, by decide +kernel⟩,
    ⟨(sEdgeStagesPresent 0), (0), _, (Edge.gate 0), (4000040), (EdgeVal.pulse), rfl, by unfold Mach.Quiet; decide +kernel, by decide +kernel⟩,
    ⟨(sEdgeStagesPresent 2), (0), _, (Edge.gate 0), _, rfl, rfl, by unfold Mach.Quiet; decide +kernel, by decide +kernel⟩,
    ⟨(sEdgeStagesPresent 2), (0), _, (Edge.gate 0), _, (0), (false), (true), rfl, rfl, by unfold Mach.Quiet; decide +kernel, by decide +kernel⟩,
    ⟨(sEdgeStagesPresent 2), (0), _, (Edge.gyc 15), _, (15), (0xffffb#20), rfl, rfl, by unfold Mach.Quiet; decide +kernel, by decide +kernel⟩,
    ⟨(sEdgeStagesPresent 2), (0), _, (Edge.lpwr 0), _, (0), (0xffffb#20), rfl, rfl, by unfold Mach.Quiet; decide +kernel, by decide +kernel⟩,
    ⟨(sEdgeStagesPresent 2), (0), _, (Edge.gxc 15), _, (15), (0xffffb#20), rfl, rfl, by unfold Mach.Quiet; decide +kernel, by decide +kernel⟩⟩
end
end W4

namespace W5
section
def xs : List Ctx := [.fe 0 0, .fe 15 7, .coo 2, .axe 3]
def c1 (p : PState) : PState := { p with calls := [⟨0x2000, 1⟩, ⟨0x3000, 0⟩], loops := [⟨0x1000,0x1008,3⟩, ⟨0x800, 0x1010, 1⟩], spin := 5 }
def sts : List State := [rdy, armed up].flatMap fun m => xs.flatMap fun x => [st (onFront x m), st (onFront x m c1), st (onFront x {m with signals := 3} fun p => { p with loops := [⟨0x800, 0x1008, 2⟩]}), st (onFront x m fun p => { p with loops := [⟨0x800, 0x1008, 1⟩, ⟨0x800, 0x1008, 4⟩]})]
def sHaltAndLayerEnd (k : Nat) : State := (sts : List State).getD k State.reset
theorem witness_HaltAndLayerEnd :
    (∃ (s : State) (dt : Nat) (m : Mach) (x : Ctx), m = s.at dt ∧ m.AtFront x TInstr.halt) ∧
    (∃ (s : State) (dt : Nat) (m : Mach) (n : Fin 16) (c : Fin 8), m = s.at dt ∧ m.AtFront (Ctx.fe n c) TInstr.layerend ∧ m.rd (R.FE_CTX_LAYER ↑n ↑c) + 1 < 2 ^ 32) ∧
    (∃ (s : State) (dt : Nat) (m : Mach) (c : Fin 8), m = s.at dt ∧ m.AtFront (Ctx.coo c) TInstr.layerend) :=
  ⟨⟨(sHaltAndLayerEnd 0), (0), _, (Ctx.fe 0 0), rfl, by dsimp only [Mach.AtFront, Mach.MotionEnds, Mach.WaitsAt, Mach.Quiet]; decide +kernel⟩,
    ⟨(sHaltAndLayerEnd 0), (0), _, (0), (0), rfl, by dsimp only [Mach.AtFront, Mach.MotionEnds, Mach.WaitsAt, Mach.Quiet]; decide +kernel, by decide +kernel⟩,
    ⟨(sHaltAndLayerEnd 8), (0), _, (2), rfl, by dsimp only [Mach.AtFront, Mach.MotionEnds, Mach.WaitsAt, Mach.Quiet]; decide +kernel⟩⟩
def sFlowInstructionsRetire (k : Nat) : State := (sts : List State).getD k State.reset
theorem witness_FlowInstructionsRetire :
    (∃ (s : State) (dt : Nat) (m : Mach) (x : Ctx) (tag : BitVec 48), m = s.at dt ∧ m.AtFront x TInstr.nop) ∧
    (∃ (s : State) (dt : Nat) (m : Mach) (x : Ctx) (off : Word), m = s.at dt ∧ m.AtFront x (TInstr.br off)) ∧
    (∃ (s : State) (dt : Nat) (m : Mach) (x : Ctx) (off : Word), m = s.at dt ∧ m.AtFront x (TInstr.call off)) ∧
    (∃ (s : State) (dt : Nat) (m : Mach) (x : Ctx) (body : BitVec 16) (count : Word), m = s.at dt ∧ m.AtFront x (TInstr.loop body count)) ∧
    (∃ (s : State) (dt : Nat) (m : Mach) (x : Ctx) (hint : BitVec 4) (cls : BitVec 4) (idx : Byte) (test : BitVec 4) (off : Word) (value : Word) (cond : Bool), m = s.at dt ∧ m.AtFront x (TInstr.brc hint cls idx test off value) ∧ (cls = 1 → cond = m.signals.getLsbD (BitVec.toNat idx)) ∧ (∀ (n : Fin 16) (c : Fin 8), cls = 2 → x = Ctx.fe n c → cond = BitVec.getLsbD m.pool[n].flags (BitVec.toNat idx)) ∧ (∀ (n : Fin 16) (c : Fin 8), cls = 3 → x = Ctx.fe n c → cond = decide (BitVec.toNat value ≤ m.spotEnergy n)) ∧ (∀ (a : Fin 8), cls = 4 → BitVec.toNat idx = ↑a → cond = decide (axCode m.axis[a].st = BitVec.toNat value))) ∧
    (∃ (s : State) (dt : Nat) (m : Mach) (x : Ctx) (c : _) (rest : _), m = s.at dt ∧ (m.ctx x).ret.calls = c :: rest ∧ m.AtFront x TInstr.ret) :=
  ⟨⟨(sFlowInstructionsRetire 0), (0), _, (Ctx.fe 0 0), (0x000000000000#48), rfl, by dsimp only [Mach.AtFront, Mach.MotionEnds, Mach.WaitsAt, Mach.Quiet]; decide +kernel⟩,
    ⟨(sFlowInstructionsRetire 0), (0), _, (Ctx.fe 0 0), (0x00000001#32), rfl, by dsimp only [Mach.AtFront, Mach.MotionEnds, Mach.WaitsAt, Mach.Quiet]; decide +kernel⟩,
    ⟨(sFlowInstructionsRetire 0), (0), _, (Ctx.fe 0 0), (0x00000001#32), rfl, by dsimp only [Mach.AtFront, Mach.MotionEnds, Mach.WaitsAt, Mach.Quiet]; decide +kernel⟩,
    ⟨(sFlowInstructionsRetire 0), (0), _, (Ctx.fe 0 0), (0x0001#16), (0x00000000#32), rfl, by dsimp only [Mach.AtFront, Mach.MotionEnds, Mach.WaitsAt, Mach.Quiet]; decide +kernel⟩,
    ⟨(sFlowInstructionsRetire 0), (0), _, (Ctx.fe 0 0), (0x0#4), (0x1#4), (0x00#8), (0x0#4), (0x00000001#32), (0x00000000#32), (false), rfl, by dsimp only [Mach.AtFront, Mach.MotionEnds, Mach.WaitsAt, Mach.Quiet]; decide +kernel, by decide +kernel⟩,
    ⟨(sFlowInstructionsRetire 1), (0), _, (Ctx.fe 0 0), _, _, rfl, rfl, by dsimp only [Mach.AtFront, Mach.MotionEnds, Mach.WaitsAt, Mach.Quiet]; decide +kernel⟩⟩
def sParametersAreSet (k : Nat) : State := (sts : List State).getD k State.reset
theorem witness_ParametersAreSet_1 :
    (∃ (s : State) (dt : Nat) (m : Mach) (n : Fin 16) (c : Fin 8) (freq : BitVec 16) (amp : BitVec 16) (shape : BitVec 4), m = s.at dt ∧ m.AtFront (Ctx.fe n c) (TInstr.wobble freq amp shape)) ∧
    (∃ (s : State) (dt : Nat) (m : Mach) (n : Fin 16) (c : Fin 8) (v : BitVec 24), m = s.at dt ∧ m.AtFront (Ctx.fe n c) (TInstr.setv false v)) ∧
    (∃ (s : State) (dt : Nat) (m : Mach) (n : Fin 16) (c : Fin 8) (v : BitVec 24), m = s.at dt ∧ m.AtFront (Ctx.fe n c) (TInstr.setv true v)) ∧
    (∃ (s : State) (dt : Nat) (m : Mach) (n : Fin 16) (c : Fin 8) (keepp : Bool) (keepd : Bool) (p : BitVec 16) (d : Word), m = s.at dt ∧ m.AtFront (Ctx.fe n c) (TInstr.setp keepp keepd p d)) ∧
    (∃ (s : State) (dt : Nat) (m : Mach) (n : Fin 16) (c : Fin 8) (tgt : BitVec 16) (stat : BitVec 4) (mode : BitVec 2), m = s.at dt ∧ m.AtFront (Ctx.fe n c) (TInstr.setpool tgt stat mode)) ∧
    (∃ (s : State) (dt : Nat) (m : Mach) (n : Fin 16) (c : Fin 8) (z : Word), m = s.at dt ∧ m.AtFront (Ctx.fe n c) (TInstr.setfocus z)) ∧
    (∃ (s : State) (dt : Nat) (m : Mach) (n : Fin 16) (c : Fin 8) (o : Word) (rp : BitVec 16), m = s.at dt ∧ m.AtFront (Ctx.fe n c) (TInstr.setreentry o rp)) ∧
    (∃ (s : State) (dt : Nat) (m : Mach) (n : Fin 16) (c : Fin 8) (km : Bool) (kmat : Bool) (p : BitVec 4) (mat : BitVec 2), m = s.at dt ∧ m.AtFront (Ctx.fe n c) (TInstr.setprofile km kmat p mat)) :=
  ⟨⟨(sParametersAreSet 0), (0), _, (0), (0), (0x0000#16), (0x0000#16), (0x0#4), rfl, by dsimp only [Mach.AtFront, Mach.MotionEnds, Mach.WaitsAt, Mach.Quiet]; decide +kernel⟩,
    ⟨(sParametersAreSet 0), (0), _, (0), (0), (0x000001#24), rfl, by dsimp only [Mach.AtFront, Mach.MotionEnds, Mach.WaitsAt, Mach.Quiet]; decide +kernel⟩,
    ⟨(sParametersAreSet 0), (0), _, (0), (0), (0x000001#24), rfl, by dsimp only [Mach.AtFront, Mach.MotionEnds, Mach.WaitsAt, Mach.Quiet]; decide +kernel⟩,
    ⟨(sParametersAreSet 0), (0), _, (0), (0), (false), (false), (0x0000#16), (0x00000000#32), rfl, by dsimp only [Mach.AtFront, Mach.MotionEnds, Mach.WaitsAt, Mach.Quiet]; decide +kernel⟩,
    ⟨(sParametersAreSet 0), (0), _, (0), (0), (0x0000#16), (0x0#4), (0x0#2), rfl, by dsimp only [Mach.AtFront, Mach.MotionEnds, Mach.WaitsAt, Mach.Quiet]; decide +kernel⟩,
    ⟨(sParametersAreSet 0), (0), _, (0), (0), (0x00000000#32), rfl, by dsimp only [Mach.AtFront, Mach.MotionEnds, Mach.WaitsAt, Mach.Quiet]; decide +kernel⟩,
    ⟨(sParametersAreSet 0), (0), _, (0), (0), (0x00000000#32), (0x0000#16), rfl, by dsimp only [Mach.AtFront, Mach.MotionEnds, Mach.WaitsAt, Mach.Quiet]; decide +kernel⟩,
    ⟨(sParametersAreSet 0), (0), _, (0), (0), (false), (false), (0x0#4), (0x0#2), rfl, by dsimp only [Mach.AtFront, Mach.MotionEnds, Mach.WaitsAt, Mach.Quiet]; decide +kernel⟩⟩
theorem witness_ParametersAreSet_2 :
    (∃ (s : State) (dt : Nat) (m : Mach) (n : Fin 16) (c : Fin 8), m = s.at dt ∧ m.AtFront (Ctx.fe n c) (TInstr.ledger 3 false 0 0)) ∧
    (∃ (s : State) (dt : Nat) (m : Mach) (n : Fin 16) (c : Fin 8), m = s.at dt ∧ m.AtFront (Ctx.fe n c) (TInstr.ledger 4 false 0 0)) ∧
    (∃ (s : State) (dt : Nat) (m : Mach) (n : Fin 16) (c : Fin 8) (k3 : Bool), m = s.at dt ∧ m.AtFront (Ctx.fe n c) (TInstr.ledger 5 k3 0 0)) :=
  ⟨⟨(sParametersAreSet 0), (0), _, (0), (0), rfl, by dsimp only [Mach.AtFront, Mach.MotionEnds, Mach.WaitsAt, Mach.Quiet]; decide +kernel⟩,
    ⟨(sParametersAreSet 0), (0), _, (0), (0), rfl, by dsimp only [Mach.AtFront, Mach.MotionEnds, Mach.WaitsAt, Mach.Quiet]; decide +kernel⟩,
    ⟨(sParametersAreSet 0), (0), _, (0), (0), (false), rfl, by dsimp only [Mach.AtFront, Mach.MotionEnds, Mach.WaitsAt, Mach.Quiet]; decide +kernel⟩⟩
end
end W5

namespace W6
section
def xs : List Ctx := [.fe 0 0, .fe 15 7, .coo 2, .axe 3]
def wt (x : Ctx) (w : Wait) (m : Mach) : Mach := m.setCtx x { m.ctx x with wait := some w }
def ks : List (WaitK × TInstr × Nat) := [(.waitt (up.mt+5), .waitt false 5, 0), (.waitt up.mt, .waitt true 5, 0), (.fence 5 true true 0 128, .sig true true true 5 0 128, 0), (.fence 64 false false 0 0, .sig false false true 64 0 0, 0), (.waitsig 3 true false, .waitsig true false 3 5, 5), (.claim 5, .claim 5 1, 1), (.claim 5, .claim 5 0, 0)]
def sts : List State := [rdy].flatMap fun m => xs.flatMap fun x => ([st (onFront x m), st (onFront x {m with signals := 2^5 + 2^127, tokens := [(5, x)]}), st (onFront x {m with tokens := [(5, .coo 0), (0, x)]}),
   st ((onFront x m).setCtx x {(onFront x m).ctx x with writes := 2})] ++ ks.flatMap fun k => [0, 5].map fun d => st (wt x ⟨k.1, up.mt - 800000 * d, k.2.2, 0, k.2.1⟩ (onFront x {m with tokens := [(31,x)]})))
def sSignalsTokensAndWaits (k : Nat) : State := (sts : List State).getD k State.reset
theorem witness_SignalsTokensAndWaits_1 :
    (∃ (s : State) (dt : Nat) (m : Mach) (x : Ctx) (src : Nat) (clr : Bool) (evt : Bool) (g : BitVec 7), m = s.at dt ∧ (∀ (n : Fin 16) (c : Fin 8), x = Ctx.fe n c → src = 96 + ↑n) ∧ (∀ (c : Fin 8), x = Ctx.coo c → src = 160 + ↑c) ∧ (∀ (a : Fin 8), x = Ctx.axe a → src = 144 + ↑a) ∧ m.AtFront x (TInstr.sig clr evt false g 0 0)) ∧
    (∃ (s : State) (dt : Nat) (m : Mach) (x : Ctx) (src : Nat) (clr : Bool) (evt : Bool) (g : BitVec 7) (v : Word) (a : Addr), m = s.at dt ∧ (∀ (n : Fin 16) (c : Fin 8), x = Ctx.fe n c → src = 96 + ↑n) ∧ (∀ (c : Fin 8), x = Ctx.coo c → src = 160 + ↑c) ∧ (∀ (a : Fin 8), x = Ctx.axe a → src = 144 + ↑a) ∧ m.AtFront x (TInstr.sig clr evt true g v a) ∧ (m.ctx x).writes = 0) ∧
    (∃ (s : State) (dt : Nat) (m : Mach) (x : Ctx) (src : Nat) (clr : Bool) (wclr : Bool) (g : BitVec 7) (tmo : BitVec 16), m = s.at dt ∧ (∀ (n : Fin 16) (c : Fin 8), x = Ctx.fe n c → src = 96 + ↑n) ∧ (∀ (c : Fin 8), x = Ctx.coo c → src = 160 + ↑c) ∧ (∀ (a : Fin 8), x = Ctx.axe a → src = 144 + ↑a) ∧ m.AtFront x (TInstr.waitsig clr wclr g tmo) ∧ m.sigOn g = wclr) ∧
    (∃ (s : State) (dt : Nat) (m : Mach) (x : Ctx) (src : Nat) (clr : Bool) (wclr : Bool) (g : BitVec 7) (tmo : BitVec 16), m = s.at dt ∧ (∀ (n : Fin 16) (c : Fin 8), x = Ctx.fe n c → src = 96 + ↑n) ∧ (∀ (c : Fin 8), x = Ctx.coo c → src = 160 + ↑c) ∧ (∀ (a : Fin 8), x = Ctx.axe a → src = 144 + ↑a) ∧ m.AtFront x (TInstr.waitsig clr wclr g tmo) ∧ m.sigOn g = !wclr) ∧
    (∃ (s : State) (dt : Nat) (m : Mach) (x : Ctx) (src : Nat) (tok : BitVec 5) (tmo : BitVec 16), m = s.at dt ∧ (∀ (n : Fin 16) (c : Fin 8), x = Ctx.fe n c → src = 96 + ↑n) ∧ (∀ (c : Fin 8), x = Ctx.coo c → src = 160 + ↑c) ∧ (∀ (a : Fin 8), x = Ctx.axe a → src = 144 + ↑a) ∧ m.AtFront x (TInstr.claim tok tmo) ∧ m.holder tok.toNat = none) ∧
    (∃ (s : State) (dt : Nat) (m : Mach) (x : Ctx) (src : Nat) (abs : Bool) (v : Word), m = s.at dt ∧ (∀ (n : Fin 16) (c : Fin 8), x = Ctx.fe n c → src = 96 + ↑n) ∧ (∀ (c : Fin 8), x = Ctx.coo c → src = 160 + ↑c) ∧ (∀ (a : Fin 8), x = Ctx.axe a → src = 144 + ↑a) ∧ m.AtFront x (TInstr.waitt abs v) ∧ (v = 0 ∨ (if abs = true then nearest32 m.mt (BitVec.toNat v) else m.mt + BitVec.toNat v) ≤ m.mt)) ∧
    (∃ (s : State) (dt : Nat) (m : Mach) (x : Ctx) (src : Nat) (abs : Bool) (v : Word), m = s.at dt ∧ (∀ (n : Fin 16) (c : Fin 8), x = Ctx.fe n c → src = 96 + ↑n) ∧ (∀ (c : Fin 8), x = Ctx.coo c → src = 160 + ↑c) ∧ (∀ (a : Fin 8), x = Ctx.axe a → src = 144 + ↑a) ∧ m.AtFront x (TInstr.waitt abs v) ∧ v ≠ 0 ∧ m.mt < if abs = true then nearest32 m.mt (BitVec.toNat v) else m.mt + BitVec.toNat v) ∧
    (∃ (s : State) (dt : Nat) (m : Mach) (x : Ctx) (src : Nat) (tok : BitVec 5), m = s.at dt ∧ (∀ (n : Fin 16) (c : Fin 8), x = Ctx.fe n c → src = 96 + ↑n) ∧ (∀ (c : Fin 8), x = Ctx.coo c → src = 160 + ↑c) ∧ (∀ (a : Fin 8), x = Ctx.axe a → src = 144 + ↑a) ∧ m.AtFront x (TInstr.release tok)) :=
  ⟨⟨(sSignalsTokensAndWaits 0), (0), _, (Ctx.fe 0 0), (96), (false), (false), (0x00#7), rfl, by decide +kernel, by decide +kernel, by decide +kernel, by dsimp only [Mach.AtFront, Mach.MotionEnds, Mach.WaitsAt, Mach.Quiet]; decide +kernel⟩,
    ⟨(sSignalsTokensAndWaits 0), (0), _, (Ctx.fe 0 0), (96), (false), (false), (0x00#7), (0x00000000#32), (0x000000000#36), rfl, by decide +kernel, by decide +kernel, by decide +kernel, by dsimp only [Mach.AtFront, Mach.MotionEnds, Mach.WaitsAt, Mach.Quiet]; decide +kernel, by decide +kernel⟩,
    ⟨(sSignalsTokensAndWaits 0), (0), _, (Ctx.fe 0 0), (96), (false), (false), (0x00#7), (0x0000#16), rfl, by decide +kernel, by decide +kernel, by decide +kernel, by dsimp only [Mach.AtFront, Mach.MotionEnds, Mach.WaitsAt, Mach.Quiet]; decide +kernel, by decide +kernel⟩,
    ⟨(sSignalsTokensAndWaits 0), (0), _, (Ctx.fe 0 0), (96), (false), (true), (0x00#7), (0x0000#16), rfl, by decide +kernel, by decide +kernel, by decide +kernel, by dsimp only [Mach.AtFront, Mach.MotionEnds, Mach.WaitsAt, Mach.Quiet]; decide +kernel, by decide +kernel⟩,
    ⟨(sSignalsTokensAndWaits 0), (0), _, (Ctx.fe 0 0), (96), (0x00#5), (0x0000#16), rfl, by decide +kernel, by decide +kernel, by decide +kernel, by dsimp only [Mach.AtFront, Mach.MotionEnds, Mach.WaitsAt, Mach.Quiet]; decide +kernel, by decide +kernel⟩,
    ⟨(sSignalsTokensAndWaits 0), (0), _, (Ctx.fe 0 0), (96), (false), (0x00000000#32), rfl, by decide +kernel, by decide +kernel, by decide +kernel, by dsimp only [Mach.AtFront, Mach.MotionEnds, Mach.WaitsAt, Mach.Quiet]; decide +kernel, by decide +kernel⟩,
    ⟨(sSignalsTokensAndWaits 0), (0), _, (Ctx.fe 0 0), (96), (false), (0x00000005#32), rfl, by decide +kernel, by decide +kernel, by decide +kernel, by dsimp only [Mach.AtFront, Mach.MotionEnds, Mach.WaitsAt, Mach.Quiet]; decide +kernel, by decide +kernel⟩,
    ⟨(sSignalsTokensAndWaits 1), (0), _, (Ctx.fe 0 0), (96), (0x05#5), rfl, by decide +kernel, by decide +kernel, by decide +kernel, by dsimp only [Mach.AtFront, Mach.MotionEnds, Mach.WaitsAt, Mach.Quiet]; decide +kernel⟩⟩
theorem witness_SignalsTokensAndWaits_2 :
    (∃ (s : State) (dt : Nat) (m : Mach) (x : Ctx) (src : Nat) (tok : BitVec 5) (tmo : BitVec 16) (y : _), m = s.at dt ∧ m.holder tok.toNat = some y ∧ (∀ (n : Fin 16) (c : Fin 8), x = Ctx.fe n c → src = 96 + ↑n) ∧ (∀ (c : Fin 8), x = Ctx.coo c → src = 160 + ↑c) ∧ (∀ (a : Fin 8), x = Ctx.axe a → src = 144 + ↑a) ∧ m.AtFront x (TInstr.claim tok tmo) ∧ y ≠ x) ∧
    (∃ (s : State) (dt : Nat) (m : Mach) (x : Ctx) (src : Nat) (clr : Bool) (evt : Bool) (g : BitVec 7) (v : Word) (a : Addr), m = s.at dt ∧ (∀ (n : Fin 16) (c : Fin 8), x = Ctx.fe n c → src = 96 + ↑n) ∧ (∀ (c : Fin 8), x = Ctx.coo c → src = 160 + ↑c) ∧ (∀ (a : Fin 8), x = Ctx.axe a → src = 144 + ↑a) ∧ m.AtFront x (TInstr.sig clr evt true g v a) ∧ (m.ctx x).writes ≠ 0) ∧
    (∃ (s : State) (dt : Nat) (m : Mach) (x : Ctx) (src : Nat) (w : Wait) (til : Nat), m = s.at dt ∧ (∀ (n : Fin 16) (c : Fin 8), x = Ctx.fe n c → src = 96 + ↑n) ∧ (∀ (c : Fin 8), x = Ctx.coo c → src = 160 + ↑c) ∧ (∀ (a : Fin 8), x = Ctx.axe a → src = 144 + ↑a) ∧ m.OnlyWaits x w ∧ w.k = WaitK.waitt til ∧ (∃ abs v, w.ins = TInstr.waitt abs v) ∧ m.mt < til) ∧
    (∃ (s : State) (dt : Nat) (m : Mach) (x : Ctx) (src : Nat) (w : Wait) (til : Nat), m = s.at dt ∧ (∀ (n : Fin 16) (c : Fin 8), x = Ctx.fe n c → src = 96 + ↑n) ∧ (∀ (c : Fin 8), x = Ctx.coo c → src = 160 + ↑c) ∧ (∀ (a : Fin 8), x = Ctx.axe a → src = 144 + ↑a) ∧ m.OnlyWaits x w ∧ w.k = WaitK.waitt til ∧ (∃ abs v, w.ins = TInstr.waitt abs v) ∧ til ≤ m.mt) ∧
    (∃ (s : State) (dt : Nat) (m : Mach) (x : Ctx) (src : Nat) (w : Wait) (clr : Bool) (evt : Bool) (g : BitVec 7) (v : Word) (a : Addr), m = s.at dt ∧ (∀ (n : Fin 16) (c : Fin 8), x = Ctx.fe n c → src = 96 + ↑n) ∧ (∀ (c : Fin 8), x = Ctx.coo c → src = 160 + ↑c) ∧ (∀ (a : Fin 8), x = Ctx.axe a → src = 144 + ↑a) ∧ m.OnlyWaits x w ∧ w.k = WaitK.fence g clr evt v a ∧ w.ins = TInstr.sig clr evt true g v a ∧ (m.ctx x).writes = 0) ∧
    (∃ (s : State) (dt : Nat) (m : Mach) (x : Ctx) (src : Nat) (w : Wait) (n : Fin 16) (c : _), m = s.at dt ∧ m.fe[n].owner = some c ∧ (∀ (n : Fin 16) (c : Fin 8), x = Ctx.fe n c → src = 96 + ↑n) ∧ (∀ (c : Fin 8), x = Ctx.coo c → src = 160 + ↑c) ∧ (∀ (a : Fin 8), x = Ctx.axe a → src = 144 + ↑a) ∧ m.OnlyWaits x w ∧ w.timeout ≠ 0 ∧ m.mt % 800000 = 0 ∧ w.reached + w.timeout * 800000 + w.held ≤ m.mt ∧ m.pstate ≠ 1 ∧ m.inFs ↑n = false ∧ x = Ctx.fe n c) ∧
    (∃ (s : State) (dt : Nat) (m : Mach) (x : Ctx) (src : Nat) (tok : BitVec 5) (c : Fin 8), m = s.at dt ∧ (∀ (n : Fin 16) (c : Fin 8), x = Ctx.fe n c → src = 96 + ↑n) ∧ (∀ (c : Fin 8), x = Ctx.coo c → src = 160 + ↑c) ∧ (∀ (a : Fin 8), x = Ctx.axe a → src = 144 + ↑a) ∧ x = Ctx.coo c ∧ m.Quiet ∧ m.ctxRuns x = true ∧ m.fetchFault (m.ctx x).ret.pc (TInstr.release tok) = none ∧ m.wordFault x (m.ctx x).ret (TInstr.release tok) = none ∧ m.holds x tok.toNat = false) ∧
    (∃ (s : State) (dt : Nat) (m : Mach) (x : Ctx) (src : Nat) (w : Wait) (c : Fin 8), m = s.at dt ∧ (∀ (n : Fin 16) (c : Fin 8), x = Ctx.fe n c → src = 96 + ↑n) ∧ (∀ (c : Fin 8), x = Ctx.coo c → src = 160 + ↑c) ∧ (∀ (a : Fin 8), x = Ctx.axe a → src = 144 + ↑a) ∧ x = Ctx.coo c ∧ m.OnlyWaits x w ∧ w.timeout ≠ 0 ∧ m.mt % 800000 = 0 ∧ w.reached + w.timeout * 800000 + w.held ≤ m.mt ∧ m.pstate ≠ 1) :=
  ⟨⟨(sSignalsTokensAndWaits 2), (0), _, (Ctx.fe 0 0), (96), (0x05#5), (0x0000#16), _, rfl, rfl, by decide +kernel, by decide +kernel, by decide +kernel, by dsimp only [Mach.AtFront, Mach.MotionEnds, Mach.WaitsAt, Mach.Quiet]; decide +kernel, by decide +kernel⟩,
    ⟨(sSignalsTokensAndWaits 3), (0), _, (Ctx.fe 0 0), (96), (false), (false), (0x00#7), (0x00000000#32), (0x000000000#36), rfl, by decide +kernel, by decide +kernel, by decide +kernel, by dsimp only [Mach.AtFront, Mach.MotionEnds, Mach.WaitsAt, Mach.Quiet]; decide +kernel, by decide +kernel⟩,
    ⟨(sSignalsTokensAndWaits 4), (0), _, (Ctx.fe 0 0), (96), ({ k := WaitK.waitt 4000005,   reached := 4000000,   timeout := 0,   held := 0,   ins := TInstr.waitt false 0x00000005#32 }), (4000005), rfl, by decide +kernel, by decide +kernel, by decide +kernel, ⟨by decide +kernel, (ctx_all (by decide +kernel) (by decide +kernel) (by decide +kernel)), by decide +kernel⟩, by decide +kernel, ⟨_, _, rfl⟩, by decide +kernel⟩,
    ⟨(sSignalsTokensAndWaits 4), (96), _, (Ctx.fe 0 0), (96), ({ k := WaitK.waitt 4000005,   reached := 4000000,   timeout := 0,   held := 0,   ins := TInstr.waitt false 0x00000005#32 }), (4000005), rfl, by decide +kernel, by decide +kernel, by decide +kernel, ⟨by decide +kernel, (ctx_all (by decide +kernel) (by decide +kernel) (by decide +kernel)), by decide +kernel⟩, by decide +kernel, ⟨_, _, rfl⟩, by decide +kernel⟩,
    ⟨(sSignalsTokensAndWaits 8), (0), _, (Ctx.fe 0 0), (96), ({ k := WaitK.fence 0x05#7 true true 0x00000000#32 0x000000080#36,   reached := 4000000,   timeout := 0,   held := 0,   ins := TInstr.sig true true true 0x05#7 0x00000000#32 0x000000080#36 }), (true), (true), (0x05#7), (0x00000000#32), (0x000000080#36), rfl, by decide +kernel, by decide +kernel, by decide +kernel, ⟨by decide +kernel, (ctx_all (by decide +kernel) (by decide +kernel) (by decide +kernel)), by decide +kernel⟩, by decide +kernel⟩,
    ⟨(sSignalsTokensAndWaits 12), (4000000), _, (Ctx.fe 0 0), (96), ({ k := WaitK.waitsig 0x03#7 true false,   reached := 4000000,   timeout := 5,   held := 0,   ins := TInstr.waitsig true false 0x03#7 0x0005#16 }), (0), _, rfl, rfl, by decide +kernel, by decide +kernel, by decide +kernel, ⟨by decide +kernel, (ctx_all (by decide +kernel) (by decide +kernel) (by decide +kernel)), by decide +kernel⟩, by decide +kernel⟩,
    ⟨(sSignalsTokensAndWaits 36), (0), _, (Ctx.coo 2), (162), (0x00#5), (2), rfl, by decide +kernel, by decide +kernel, by decide +kernel, by decide +kernel, by unfold Mach.Quiet; decide +kernel, by decide +kernel⟩,
    ⟨(sSignalsTokensAndWaits 48), (4000000), _, (Ctx.coo 2), (162), ({ k := WaitK.waitsig 0x03#7 true false,   reached := 4000000,   timeout := 5,   held := 0,   ins := TInstr.waitsig true false 0x03#7 0x0005#16 }), (2), rfl, by decide +kernel, by decide +kernel, by decide +kernel, by decide +kernel, ⟨by decide +kernel, (ctx_all (by decide +kernel) (by decide +kernel) (by decide +kernel)), by decide +kernel⟩, by decide +kernel⟩⟩
end
end W6

namespace W7
section
def mots : List TInstr := [.jump false 5 0, .mark false false false 5 5, .mark true true true 0 5, .arc true true false 5 0 5, .poly false false false true 2 128, .dot true false true 5 5 5, .spiral true true false 5 5 0 5]
def segs1 : List PSeg := [psg (up.mt-800) (sg 400 5 6 true), psg (up.mt - 400) (sg 400 7 8 true)]
def mk1 (x : Ctx) (n : Fin 16) (c : Fin 8) (i : TInstr) (sgs : List PSeg) (on : Bool) (tl : List PlanEntry) : Mach :=
  let m := onFront x (armed up)
  m.modField n fun f => { f with plan := pe i sgs (m.ctx x).ret on :: tl, emit := some (up.mt - 800), inRun := true }
def motSt : List Mach := [(Ctx.fe 0 0, (0:Fin 16), (0 : Fin 8)), (.fe 15 7, 15, 7)].flatMap fun (x, n, c) => mots.flatMap fun i => [segs1, [psg (up.mt-800) (sg 799 5 6 false)], [psg (up.mt-800) (sg 801 5 6 false)]].flatMap fun sgs => [true,false].map fun on =>
    mk1 x n c i sgs on (if on then [] else [pe .nop [] {(up.ctx x).ret with pc := 0x1010}])
def sMotionsRetireAtTheirEnd (k : Nat) : State := (motSt.map st ++ [st (onFront (.fe 0 0) rdy), st (onFront (.fe 15 7) rdy)] : List State).getD k State.reset
theorem witness_MotionsRetireAtTheirEnd :
    (∃ (s : State) (dt : Nat) (m : Mach) (n : Fin 16) (c : Fin 8) (e : PlanEntry) (l : PSeg) (rel : Bool) (px : Word) (py : Word), m = s.at dt ∧ m.MotionEnds n c (TInstr.jump rel px py) e l) ∧
    (∃ (s : State) (dt : Nat) (m : Mach) (n : Fin 16) (c : Fin 8) (e : PlanEntry) (l : PSeg) (cont : Bool) (rel : Bool) (np : Bool) (px : Word) (py : Word), m = s.at dt ∧ m.MotionEnds n c (TInstr.mark cont rel np px py) e l) ∧
    (∃ (s : State) (dt : Nat) (m : Mach) (n : Fin 16) (c : Fin 8) (e : PlanEntry) (l : PSeg) (cont : Bool) (rel : Bool) (np : Bool) (sw : Word) (cx : Word) (cy : Word), m = s.at dt ∧ m.MotionEnds n c (TInstr.arc cont rel np sw cx cy) e l) ∧
    (∃ (s : State) (dt : Nat) (m : Mach) (n : Fin 16) (c : Fin 8) (e : PlanEntry) (l : PSeg) (cont : Bool) (rel : Bool) (np : Bool) (close : Bool) (k : BitVec 16) (a : Addr), m = s.at dt ∧ m.MotionEnds n c (TInstr.poly cont rel np close k a) e l) ∧
    (∃ (s : State) (dt : Nat) (m : Mach) (n : Fin 16) (c : Fin 8) (e : PlanEntry) (l : PSeg) (rel : Bool) (np : Bool) (curd : Bool) (d : Word) (px : Word) (py : Word), m = s.at dt ∧ m.MotionEnds n c (TInstr.dot rel np curd d px py) e l) ∧
    (∃ (s : State) (dt : Nat) (m : Mach) (n : Fin 16) (c : Fin 8) (e : PlanEntry) (l : PSeg) (cont : Bool) (rel : Bool) (np : Bool) (sw : Word) (cx : Word) (cy : Word) (rend : Word), m = s.at dt ∧ m.MotionEnds n c (TInstr.spiral cont rel np sw cx cy rend) e l) ∧
    (∃ (s : State) (dt : Nat) (m : Mach) (n : Fin 16) (c : Fin 8) (e : PlanEntry) (l : PSeg) (cont : Bool) (rel : Bool) (np : Bool) (close : Bool) (a : Addr), m = s.at dt ∧ m.AtFront (Ctx.fe n c) (TInstr.poly cont rel np close 0 a)) :=
  ⟨⟨(sMotionsRetireAtTheirEnd 0), (0), _, (0), (0), ({ pc := 0x000001000#36,   ins := TInstr.jump false 0x00000005#32 0x00000000#32,   fault := none,   segs := [{ t0 := 3999200,              x0 := 0,              y0 := 0,              vx0 := 0,              vy0 := 0,              z0 := 0,              pow0 := 0x0000#16,              seg := { dur := 400,                       x1 := 5,                       y1 := 6,                       vx1 := 0,                       vy1 := 0,                       z1 := 7,                       pow1 := 0xffff#16,                       laser := true,                       wobble := false,                       nopool := false,                       ckpt := true,                       mprof := 0,                       mat := 0 },              pc := 0x000001000#36,              ctx := 0,              frm := { tn := 3999200, fx := 0, fy := 0, vx := 0, vy := 0, cover := 0, axq := [], axEnd := 0 },              wamp := 0 },            { t0 := 3999600,              x0 := 0,              y0 := 0,              vx0 := 0,              vy0 := 0,              z0 := 0,              pow0 := 0x0000#16,              seg := { dur := 400,                       x1 := 7,                       y1 := 8,                       vx1 := 0,                       vy1 := 0,                       z1 := 7,                       pow1 := 0xffff#16,                       laser := true,                       wobble := false,                       nopool := false,                       ckpt := true,                       mprof := 0,                       mat := 0 },              pc := 0x000001000#36,              ctx := 0,              frm := { tn := 3999600, fx := 0, fy := 0, vx := 0, vy := 0, cover := 0, axq := [], axEnd := 0 },              wamp := 0 }],   before := { pc := 0x000001000#36,               calls := [],               loops := [],               px := 0x00000000#32,               py := 0x00000000#32,               mspeed := 0x006400#24,               jspeed := 0x03e800#24,               power := 0x0000#16,               dwell := 0x00000000#32,               poolMode := 0x0#2,               poolStat := 0x0#4,               poolTarget := 0x0000#16,               focus := 0x00000000#32,               overlap := 0x00000000#32,               ramp := 0x0000#16,               mprof := 0x0#4,               mat := 0x0#2,               wshape := 0x0#4,               wfreq := 0x0000#16,               wamp := 0x0000#16,               dep := true,               k3 := false,               laserOn := false,               moved := false,               spin := 0,               wstart := none },   after := { pc := 0x000001010#36,              calls := [],              loops := [],              px := 0x00000000#32,              py := 0x00000000#32,              mspeed := 0x006400#24,              jspeed := 0x03e800#24,              power := 0x0000#16,              dwell := 0x00000000#32,              poolMode := 0x0#2,              poolStat := 0x0#4,              poolTarget := 0x0000#16,              focus := 0x00000000#32,              overlap := 0x00000000#32,              ramp := 0x0000#16,              mprof := 0x0#4,              mat := 0x0#2,              wshape := 0x0#4,              wfreq := 0x0000#16,              wamp := 0x0000#16,              dep := true,              k3 := false,              laserOn := true,              moved := true,              spin := 0,              wstart := none },   taken := false,   first := true,   last := true,   ck := false,   idx := 0,   stopdec := 1000 }), ({ t0 := 3999600,   x0 := 0,   y0 := 0,   vx0 := 0,   vy0 := 0,   z0 := 0,   pow0 := 0x0000#16,   seg := { dur := 400,            x1 := 7,            y1 := 8,            vx1 := 0,            vy1 := 0,            z1 := 7,            pow1 := 0xffff#16,            laser := true,            wobble := false,            nopool := false,            ckpt := true,            mprof := 0,            mat := 0 },   pc := 0x000001000#36,   ctx := 0,   frm := { tn := 3999600, fx := 0, fy := 0, vx := 0, vy := 0, cover := 0, axq := [], axEnd := 0 },   wamp := 0 }), (false), (0x00000005#32), (0x00000000#32), rfl, by dsimp only [Mach.AtFront, Mach.MotionEnds, Mach.WaitsAt, Mach.Quiet]; decide +kernel⟩,
    ⟨(sMotionsRetireAtTheirEnd 6), (0), _, (0), (0), ({ pc := 0x000001000#36,   ins := TInstr.mark false false false 0x00000005#32 0x00000005#32,   fault := none,   segs := [{ t0 := 3999200,              x0 := 0,              y0 := 0,              vx0 := 0,              vy0 := 0,              z0 := 0,              pow0 := 0x0000#16,              seg := { dur := 400,                       x1 := 5,                       y1 := 6,                       vx1 := 0,                       vy1 := 0,                       z1 := 7,                       pow1 := 0xffff#16,                       laser := true,                       wobble := false,                       nopool := false,                       ckpt := true,                       mprof := 0,                       mat := 0 },              pc := 0x000001000#36,              ctx := 0,              frm := { tn := 3999200, fx := 0, fy := 0, vx := 0, vy := 0, cover := 0, axq := [], axEnd := 0 },              wamp := 0 },            { t0 := 3999600,              x0 := 0,              y0 := 0,              vx0 := 0,              vy0 := 0,              z0 := 0,              pow0 := 0x0000#16,              seg := { dur := 400,                       x1 := 7,                       y1 := 8,                       vx1 := 0,                       vy1 := 0,                       z1 := 7,                       pow1 := 0xffff#16,                       laser := true,                       wobble := false,                       nopool := false,                       ckpt := true,                       mprof := 0,                       mat := 0 },              pc := 0x000001000#36,              ctx := 0,              frm := { tn := 3999600, fx := 0, fy := 0, vx := 0, vy := 0, cover := 0, axq := [], axEnd := 0 },              wamp := 0 }],   before := { pc := 0x000001000#36,               calls := [],               loops := [],               px := 0x00000000#32,               py := 0x00000000#32,               mspeed := 0x006400#24,               jspeed := 0x03e800#24,               power := 0x0000#16,               dwell := 0x00000000#32,               poolMode := 0x0#2,               poolStat := 0x0#4,               poolTarget := 0x0000#16,               focus := 0x00000000#32,               overlap := 0x00000000#32,               ramp := 0x0000#16,               mprof := 0x0#4,               mat := 0x0#2,               wshape := 0x0#4,               wfreq := 0x0000#16,               wamp := 0x0000#16,               dep := true,               k3 := false,               laserOn := false,               moved := false,               spin := 0,               wstart := none },   after := { pc := 0x000001010#36,              calls := [],              loops := [],              px := 0x00000000#32,              py := 0x00000000#32,              mspeed := 0x006400#24,              jspeed := 0x03e800#24,              power := 0x0000#16,              dwell := 0x00000000#32,              poolMode := 0x0#2,              poolStat := 0x0#4,              poolTarget := 0x0000#16,              focus := 0x00000000#32,              overlap := 0x00000000#32,              ramp := 0x0000#16,              mprof := 0x0#4,              mat := 0x0#2,              wshape := 0x0#4,              wfreq := 0x0000#16,              wamp := 0x0000#16,              dep := true,              k3 := false,              laserOn := true,              moved := true,              spin := 0,              wstart := none },   taken := false,   first := true,   last := true,   ck := false,   idx := 0,   stopdec := 1000 }), ({ t0 := 3999600,   x0 := 0,   y0 := 0,   vx0 := 0,   vy0 := 0,   z0 := 0,   pow0 := 0x0000#16,   seg := { dur := 400,            x1 := 7,            y1 := 8,            vx1 := 0,            vy1 := 0,            z1 := 7,            pow1 := 0xffff#16,            laser := true,            wobble := false,            nopool := false,            ckpt := true,            mprof := 0,            mat := 0 },   pc := 0x000001000#36,   ctx := 0,   frm := { tn := 3999600, fx := 0, fy := 0, vx := 0, vy := 0, cover := 0, axq := [], axEnd := 0 },   wamp := 0 }), (false), (false), (false), (0x00000005#32), (0x00000005#32), rfl, by dsimp only [Mach.AtFront, Mach.MotionEnds, Mach.WaitsAt, Mach.Quiet]; decide +kernel⟩,
    ⟨(sMotionsRetireAtTheirEnd 18), (0), _, (0), (0), ({ pc := 0x000001000#36,   ins := TInstr.arc true true false 0x00000005#32 0x00000000#32 0x00000005#32,   fault := none,   segs := [{ t0 := 3999200,              x0 := 0,              y0 := 0,              vx0 := 0,              vy0 := 0,              z0 := 0,              pow0 := 0x0000#16,              seg := { dur := 400,                       x1 := 5,                       y1 := 6,                       vx1 := 0,                       vy1 := 0,                       z1 := 7,                       pow1 := 0xffff#16,                       laser := true,                       wobble := false,                       nopool := false,                       ckpt := true,                       mprof := 0,                       mat := 0 },              pc := 0x000001000#36,              ctx := 0,              frm := { tn := 3999200, fx := 0, fy := 0, vx := 0, vy := 0, cover := 0, axq := [], axEnd := 0 },              wamp := 0 },            { t0 := 3999600,              x0 := 0,              y0 := 0,              vx0 := 0,              vy0 := 0,              z0 := 0,              pow0 := 0x0000#16,              seg := { dur := 400,                       x1 := 7,                       y1 := 8,                       vx1 := 0,                       vy1 := 0,                       z1 := 7,                       pow1 := 0xffff#16,                       laser := true,                       wobble := false,                       nopool := false,                       ckpt := true,                       mprof := 0,                       mat := 0 },              pc := 0x000001000#36,              ctx := 0,              frm := { tn := 3999600, fx := 0, fy := 0, vx := 0, vy := 0, cover := 0, axq := [], axEnd := 0 },              wamp := 0 }],   before := { pc := 0x000001000#36,               calls := [],               loops := [],               px := 0x00000000#32,               py := 0x00000000#32,               mspeed := 0x006400#24,               jspeed := 0x03e800#24,               power := 0x0000#16,               dwell := 0x00000000#32,               poolMode := 0x0#2,               poolStat := 0x0#4,               poolTarget := 0x0000#16,               focus := 0x00000000#32,               overlap := 0x00000000#32,               ramp := 0x0000#16,               mprof := 0x0#4,               mat := 0x0#2,               wshape := 0x0#4,               wfreq := 0x0000#16,               wamp := 0x0000#16,               dep := true,               k3 := false,               laserOn := false,               moved := false,               spin := 0,               wstart := none },   after := { pc := 0x000001010#36,              calls := [],              loops := [],              px := 0x00000000#32,              py := 0x00000000#32,              mspeed := 0x006400#24,              jspeed := 0x03e800#24,              power := 0x0000#16,              dwell := 0x00000000#32,              poolMode := 0x0#2,              poolStat := 0x0#4,              poolTarget := 0x0000#16,              focus := 0x00000000#32,              overlap := 0x00000000#32,              ramp := 0x0000#16,              mprof := 0x0#4,              mat := 0x0#2,              wshape := 0x0#4,              wfreq := 0x0000#16,              wamp := 0x0000#16,              dep := true,              k3 := false,              laserOn := true,              moved := true,              spin := 0,              wstart := none },   taken := false,   first := true,   last := true,   ck := false,   idx := 0,   stopdec := 1000 }), ({ t0 := 3999600,   x0 := 0,   y0 := 0,   vx0 := 0,   vy0 := 0,   z0 := 0,   pow0 := 0x0000#16,   seg := { dur := 400,            x1 := 7,            y1 := 8,            vx1 := 0,            vy1 := 0,            z1 := 7,            pow1 := 0xffff#16,            laser := true,            wobble := false,            nopool := false,            ckpt := true,            mprof := 0,            mat := 0 },   pc := 0x000001000#36,   ctx := 0,   frm := { tn := 3999600, fx := 0, fy := 0, vx := 0, vy := 0, cover := 0, axq := [], axEnd := 0 },   wamp := 0 }), (true), (true), (false), (0x00000005#32), (0x00000000#32), (0x00000005#32), rfl, by dsimp only [Mach.AtFront, Mach.MotionEnds, Mach.WaitsAt, Mach.Quiet]; decide +kernel⟩,
    ⟨(sMotionsRetireAtTheirEnd 24), (0), _, (0), (0), ({ pc := 0x000001000#36,   ins := TInstr.poly false false false true 0x0002#16 0x000000080#36,   fault := none,   segs := [{ t0 := 3999200,              x0 := 0,              y0 := 0,              vx0 := 0,              vy0 := 0,              z0 := 0,              pow0 := 0x0000#16,              seg := { dur := 400,                       x1 := 5,                       y1 := 6,                       vx1 := 0,                       vy1 := 0,                       z1 := 7,                       pow1 := 0xffff#16,                       laser := true,                       wobble := false,                       nopool := false,                       ckpt := true,                       mprof := 0,                       mat := 0 },              pc := 0x000001000#36,              ctx := 0,              frm := { tn := 3999200, fx := 0, fy := 0, vx := 0, vy := 0, cover := 0, axq := [], axEnd := 0 },              wamp := 0 },            { t0 := 3999600,              x0 := 0,              y0 := 0,              vx0 := 0,              vy0 := 0,              z0 := 0,              pow0 := 0x0000#16,              seg := { dur := 400,                       x1 := 7,                       y1 := 8,                       vx1 := 0,                       vy1 := 0,                       z1 := 7,                       pow1 := 0xffff#16,                       laser := true,                       wobble := false,                       nopool := false,                       ckpt := true,                       mprof := 0,                       mat := 0 },              pc := 0x000001000#36,              ctx := 0,              frm := { tn := 3999600, fx := 0, fy := 0, vx := 0, vy := 0, cover := 0, axq := [], axEnd := 0 },              wamp := 0 }],   before := { pc := 0x000001000#36,               calls := [],               loops := [],               px := 0x00000000#32,               py := 0x00000000#32,               mspeed := 0x006400#24,               jspeed := 0x03e800#24,               power := 0x0000#16,               dwell := 0x00000000#32,               poolMode := 0x0#2,               poolStat := 0x0#4,               poolTarget := 0x0000#16,               focus := 0x00000000#32,               overlap := 0x00000000#32,               ramp := 0x0000#16,               mprof := 0x0#4,               mat := 0x0#2,               wshape := 0x0#4,               wfreq := 0x0000#16,               wamp := 0x0000#16,               dep := true,               k3 := false,               laserOn := false,               moved := false,               spin := 0,               wstart := none },   after := { pc := 0x000001010#36,              calls := [],              loops := [],              px := 0x00000000#32,              py := 0x00000000#32,              mspeed := 0x006400#24,              jspeed := 0x03e800#24,              power := 0x0000#16,              dwell := 0x00000000#32,              poolMode := 0x0#2,              poolStat := 0x0#4,              poolTarget := 0x0000#16,              focus := 0x00000000#32,              overlap := 0x00000000#32,              ramp := 0x0000#16,              mprof := 0x0#4,              mat := 0x0#2,              wshape := 0x0#4,              wfreq := 0x0000#16,              wamp := 0x0000#16,              dep := true,              k3 := false,              laserOn := true,              moved := true,              spin := 0,              wstart := none },   taken := false,   first := true,   last := true,   ck := false,   idx := 0,   stopdec := 1000 }), ({ t0 := 3999600,   x0 := 0,   y0 := 0,   vx0 := 0,   vy0 := 0,   z0 := 0,   pow0 := 0x0000#16,   seg := { dur := 400,            x1 := 7,            y1 := 8,            vx1 := 0,            vy1 := 0,            z1 := 7,            pow1 := 0xffff#16,            laser := true,            wobble := false,            nopool := false,            ckpt := true,            mprof := 0,            mat := 0 },   pc := 0x000001000#36,   ctx := 0,   frm := { tn := 3999600, fx := 0, fy := 0, vx := 0, vy := 0, cover := 0, axq := [], axEnd := 0 },   wamp := 0 }), (false), (false), (false), (true), (0x0002#16), (0x000000080#36), rfl, by dsimp only [Mach.AtFront, Mach.MotionEnds, Mach.WaitsAt, Mach.Quiet]; decide +kernel⟩,
    ⟨(sMotionsRetireAtTheirEnd 30), (0), _, (0), (0), ({ pc := 0x000001000#36,   ins := TInstr.dot true false true 0x00000005#32 0x00000005#32 0x00000005#32,   fault := none,   segs := [{ t0 := 3999200,              x0 := 0,              y0 := 0,              vx0 := 0,              vy0 := 0,              z0 := 0,              pow0 := 0x0000#16,              seg := { dur := 400,                       x1 := 5,                       y1 := 6,                       vx1 := 0,                       vy1 := 0,                       z1 := 7,                       pow1 := 0xffff#16,                       laser := true,                       wobble := false,                       nopool := false,                       ckpt := true,                       mprof := 0,                       mat := 0 },              pc := 0x000001000#36,              ctx := 0,              frm := { tn := 3999200, fx := 0, fy := 0, vx := 0, vy := 0, cover := 0, axq := [], axEnd := 0 },              wamp := 0 },            { t0 := 3999600,              x0 := 0,              y0 := 0,              vx0 := 0,              vy0 := 0,              z0 := 0,              pow0 := 0x0000#16,              seg := { dur := 400,                       x1 := 7,                       y1 := 8,                       vx1 := 0,                       vy1 := 0,                       z1 := 7,                       pow1 := 0xffff#16,                       laser := true,                       wobble := false,                       nopool := false,                       ckpt := true,                       mprof := 0,                       mat := 0 },              pc := 0x000001000#36,              ctx := 0,              frm := { tn := 3999600, fx := 0, fy := 0, vx := 0, vy := 0, cover := 0, axq := [], axEnd := 0 },              wamp := 0 }],   before := { pc := 0x000001000#36,               calls := [],               loops := [],               px := 0x00000000#32,               py := 0x00000000#32,               mspeed := 0x006400#24,               jspeed := 0x03e800#24,               power := 0x0000#16,               dwell := 0x00000000#32,               poolMode := 0x0#2,               poolStat := 0x0#4,               poolTarget := 0x0000#16,               focus := 0x00000000#32,               overlap := 0x00000000#32,               ramp := 0x0000#16,               mprof := 0x0#4,               mat := 0x0#2,               wshape := 0x0#4,               wfreq := 0x0000#16,               wamp := 0x0000#16,               dep := true,               k3 := false,               laserOn := false,               moved := false,               spin := 0,               wstart := none },   after := { pc := 0x000001010#36,              calls := [],              loops := [],              px := 0x00000000#32,              py := 0x00000000#32,              mspeed := 0x006400#24,              jspeed := 0x03e800#24,              power := 0x0000#16,              dwell := 0x00000000#32,              poolMode := 0x0#2,              poolStat := 0x0#4,              poolTarget := 0x0000#16,              focus := 0x00000000#32,              overlap := 0x00000000#32,              ramp := 0x0000#16,              mprof := 0x0#4,              mat := 0x0#2,              wshape := 0x0#4,              wfreq := 0x0000#16,              wamp := 0x0000#16,              dep := true,              k3 := false,              laserOn := true,              moved := true,              spin := 0,              wstart := none },   taken := false,   first := true,   last := true,   ck := false,   idx := 0,   stopdec := 1000 }), ({ t0 := 3999600,   x0 := 0,   y0 := 0,   vx0 := 0,   vy0 := 0,   z0 := 0,   pow0 := 0x0000#16,   seg := { dur := 400,            x1 := 7,            y1 := 8,            vx1 := 0,            vy1 := 0,            z1 := 7,            pow1 := 0xffff#16,            laser := true,            wobble := false,            nopool := false,            ckpt := true,            mprof := 0,            mat := 0 },   pc := 0x000001000#36,   ctx := 0,   frm := { tn := 3999600, fx := 0, fy := 0, vx := 0, vy := 0, cover := 0, axq := [], axEnd := 0 },   wamp := 0 }), (true), (false), (true), (0x00000005#32), (0x00000005#32), (0x00000005#32), rfl, by dsimp only [Mach.AtFront, Mach.MotionEnds, Mach.WaitsAt, Mach.Quiet]; decide +kernel⟩,
    ⟨(sMotionsRetireAtTheirEnd 36), (0), _, (0), (0), ({ pc := 0x000001000#36,   ins := TInstr.spiral true true false 0x00000005#32 0x00000005#32 0x00000000#32 0x00000005#32,   fault := none,   segs := [{ t0 := 3999200,              x0 := 0,              y0 := 0,              vx0 := 0,              vy0 := 0,              z0 := 0,              pow0 := 0x0000#16,              seg := { dur := 400,                       x1 := 5,                       y1 := 6,                       vx1 := 0,                       vy1 := 0,                       z1 := 7,                       pow1 := 0xffff#16,                       laser := true,                       wobble := false,                       nopool := false,                       ckpt := true,                       mprof := 0,                       mat := 0 },              pc := 0x000001000#36,              ctx := 0,              frm := { tn := 3999200, fx := 0, fy := 0, vx := 0, vy := 0, cover := 0, axq := [], axEnd := 0 },              wamp := 0 },            { t0 := 3999600,              x0 := 0,              y0 := 0,              vx0 := 0,              vy0 := 0,              z0 := 0,              pow0 := 0x0000#16,              seg := { dur := 400,                       x1 := 7,                       y1 := 8,                       vx1 := 0,                       vy1 := 0,                       z1 := 7,                       pow1 := 0xffff#16,                       laser := true,                       wobble := false,                       nopool := false,                       ckpt := true,                       mprof := 0,                       mat := 0 },              pc := 0x000001000#36,              ctx := 0,              frm := { tn := 3999600, fx := 0, fy := 0, vx := 0, vy := 0, cover := 0, axq := [], axEnd := 0 },              wamp := 0 }],   before := { pc := 0x000001000#36,               calls := [],               loops := [],               px := 0x00000000#32,               py := 0x00000000#32,               mspeed := 0x006400#24,               jspeed := 0x03e800#24,               power := 0x0000#16,               dwell := 0x00000000#32,               poolMode := 0x0#2,               poolStat := 0x0#4,               poolTarget := 0x0000#16,               focus := 0x00000000#32,               overlap := 0x00000000#32,               ramp := 0x0000#16,               mprof := 0x0#4,               mat := 0x0#2,               wshape := 0x0#4,               wfreq := 0x0000#16,               wamp := 0x0000#16,               dep := true,               k3 := false,               laserOn := false,               moved := false,               spin := 0,               wstart := none },   after := { pc := 0x000001010#36,              calls := [],              loops := [],              px := 0x00000000#32,              py := 0x00000000#32,              mspeed := 0x006400#24,              jspeed := 0x03e800#24,              power := 0x0000#16,              dwell := 0x00000000#32,              poolMode := 0x0#2,              poolStat := 0x0#4,              poolTarget := 0x0000#16,              focus := 0x00000000#32,              overlap := 0x00000000#32,              ramp := 0x0000#16,              mprof := 0x0#4,              mat := 0x0#2,              wshape := 0x0#4,              wfreq := 0x0000#16,              wamp := 0x0000#16,              dep := true,              k3 := false,              laserOn := true,              moved := true,              spin := 0,              wstart := none },   taken := false,   first := true,   last := true,   ck := false,   idx := 0,   stopdec := 1000 }), ({ t0 := 3999600,   x0 := 0,   y0 := 0,   vx0 := 0,   vy0 := 0,   z0 := 0,   pow0 := 0x0000#16,   seg := { dur := 400,            x1 := 7,            y1 := 8,            vx1 := 0,            vy1 := 0,            z1 := 7,            pow1 := 0xffff#16,            laser := true,            wobble := false,            nopool := false,            ckpt := true,            mprof := 0,            mat := 0 },   pc := 0x000001000#36,   ctx := 0,   frm := { tn := 3999600, fx := 0, fy := 0, vx := 0, vy := 0, cover := 0, axq := [], axEnd := 0 },   wamp := 0 }), (true), (true), (false), (0x00000005#32), (0x00000005#32), (0x00000000#32), (0x00000005#32), rfl, by dsimp only [Mach.AtFront, Mach.MotionEnds, Mach.WaitsAt, Mach.Quiet]; decide +kernel⟩,
    ⟨(sMotionsRetireAtTheirEnd 84), (0), _, (0), (0), ({ pc := 0x000001000#36,   ins := TInstr.jump false 0x00000005#32 0x00000000#32,   fault := none,   segs := [{ t0 := 3999200,              x0 := 0,              y0 := 0,              vx0 := 0,              vy0 := 0,              z0 := 0,              pow0 := 0x0000#16,              seg := { dur := 400,                       x1 := 5,                       y1 := 6,                       vx1 := 0,                       vy1 := 0,                       z1 := 7,                       pow1 := 0xffff#16,                       laser := true,                       wobble := false,                       nopool := false,                       ckpt := true,                       mprof := 0,                       mat := 0 },              pc := 0x000001000#36,              ctx := 0,              frm := { tn := 3999200, fx := 0, fy := 0, vx := 0, vy := 0, cover := 0, axq := [], axEnd := 0 },              wamp := 0 },            { t0 := 3999600,              x0 := 0,              y0 := 0,              vx0 := 0,              vy0 := 0,              z0 := 0,              pow0 := 0x0000#16,              seg := { dur := 400,                       x1 := 7,                       y1 := 8,                       vx1 := 0,                       vy1 := 0,                       z1 := 7,                       pow1 := 0xffff#16,                       laser := true,                       wobble := false,                       nopool := false,                       ckpt := true,                       mprof := 0,                       mat := 0 },              pc := 0x000001000#36,              ctx := 0,              frm := { tn := 3999600, fx := 0, fy := 0, vx := 0, vy := 0, cover := 0, axq := [], axEnd := 0 },              wamp := 0 }],   before := { pc := 0x000001000#36,               calls := [],               loops := [],               px := 0x00000000#32,               py := 0x00000000#32,               mspeed := 0x006400#24,               jspeed := 0x03e800#24,               power := 0x0000#16,               dwell := 0x00000000#32,               poolMode := 0x0#2,               poolStat := 0x0#4,               poolTarget := 0x0000#16,               focus := 0x00000000#32,               overlap := 0x00000000#32,               ramp := 0x0000#16,               mprof := 0x0#4,               mat := 0x0#2,               wshape := 0x0#4,               wfreq := 0x0000#16,               wamp := 0x0000#16,               dep := true,               k3 := false,               laserOn := false,               moved := false,               spin := 0,               wstart := none },   after := { pc := 0x000001010#36,              calls := [],              loops := [],              px := 0x00000000#32,              py := 0x00000000#32,              mspeed := 0x006400#24,              jspeed := 0x03e800#24,              power := 0x0000#16,              dwell := 0x00000000#32,              poolMode := 0x0#2,              poolStat := 0x0#4,              poolTarget := 0x0000#16,              focus := 0x00000000#32,              overlap := 0x00000000#32,              ramp := 0x0000#16,              mprof := 0x0#4,              mat := 0x0#2,              wshape := 0x0#4,              wfreq := 0x0000#16,              wamp := 0x0000#16,              dep := true,              k3 := false,              laserOn := true,              moved := true,              spin := 0,              wstart := none },   taken := false,   first := true,   last := true,   ck := false,   idx := 0,   stopdec := 1000 }), ({ t0 := 3999200,   x0 := 0,   y0 := 0,   vx0 := 0,   vy0 := 0,   z0 := 0,   pow0 := 0x0000#16,   seg := { dur := 400,            x1 := 5,            y1 := 6,            vx1 := 0,            vy1 := 0,            z1 := 7,            pow1 := 0xffff#16,            laser := true,            wobble := false,            nopool := false,            ckpt := true,            mprof := 0,            mat := 0 },   pc := 0x000001000#36,   ctx := 0,   frm := { tn := 3999200, fx := 0, fy := 0, vx := 0, vy := 0, cover := 0, axq := [], axEnd := 0 },   wamp := 0 }), (false), (false), (false), (false), (0x000000000#36), rfl, by dsimp only [Mach.AtFront, Mach.MotionEnds, Mach.WaitsAt, Mach.Quiet]; decide +kernel⟩⟩
end
end W7

namespace W8
section
def s0 : List Mach := [onFront (.coo 0) rdy, onFront (.coo 7) (armed up), onFront (.coo 0) { rdy with fe := rdy.fe.set 0 { rdy.fe[0] with ctx := rdy.fe[0].ctx.set 0 { rdy.fe[0].ctx[0] with st := .ready} } },
  onFront (.coo 0) { rdy with axis := rdy.axis.set 7 { rdy.axis[7] with queue := List.replicate 256 (.move 5 6) } },
  onFront (.coo 0) { rdy with axis := (rdy.axis.set 7 { rdy.axis[7] with queue := List.replicate 255 (.move 5 6), st := .moving }) },
  onFront (.coo 7) { rdy with mem := {rdy.mem with bytes := [(128, 8), (130,5), (248,16)] }, cmp := { rdy.cmp with pendAt := [none, some 3, none,none,none,none,none,some 8] } },
  onFront (.fe 0 0) rdy, onFront (.axe 7) rdy]
def sCoordinatorInstructions (k : Nat) : State := ((s0 ++ [(onFront (.coo 0) rdy).setStage (.trig 16) ⟨[], [], some (2 * rdy.mt)⟩]).map st : List State).getD k State.reset
theorem witness_CoordinatorInstructions_1 :
    (∃ (s : State) (dt : Nat) (m : Mach) (c : Fin 8) (mask : BitVec 16) (k : BitVec 3) (a : Addr), m = s.at dt ∧ m.AtFront (Ctx.coo c) (TInstr.fstart mask k a) ∧ m.poisoned (BitVec.toNat a) 128 = false) ∧
    (∃ (s : State) (dt : Nat) (m : Mach) (c : Fin 8) (mask : BitVec 16) (k : BitVec 3) (tmo : BitVec 16), m = s.at dt ∧ m.AtFront (Ctx.coo c) (TInstr.fwait mask k tmo) ∧ m.allIdle mask k = true) ∧
    (∃ (s : State) (dt : Nat) (m : Mach) (c : Fin 8) (rel : Bool) (a : BitVec 3) (tgt : Word) (spd : Word), m = s.at dt ∧ m.AtFront (Ctx.coo c) (TInstr.axmove rel a tgt spd) ∧ m.axis[a.toFin].queue.length < 256) ∧
    (∃ (s : State) (dt : Nat) (m : Mach) (c : Fin 8) (mask : Byte) (tmo : BitVec 16), m = s.at dt ∧ m.AtFront (Ctx.coo c) (TInstr.axwait mask tmo) ∧ (∀ (b : Fin 8), BitVec.getLsbD mask ↑b = true → m.axis[b].queue = [] ∧ axResting m.axis[b].st = true)) ∧
    (∃ (s : State) (dt : Nat) (m : Mach) (c : Fin 8) (mask : BitVec 4) (delay : Word), m = s.at dt ∧ m.AtFront (Ctx.coo c) (TInstr.snap mask delay) ∧ (∀ (i : Fin 4), mask.getLsbD ↑i = true → (m.stage (Edge.trig ⟨16 + i.val, by omega⟩)).violates (m.mt + max (BitVec.toNat delay) 2000) = false)) ∧
    (∃ (s : State) (dt : Nat) (m : Mach) (c : Fin 8) (lmask : Byte), m = s.at dt ∧ m.AtFront (Ctx.coo c) (TInstr.flip lmask) ∧ m.cmp.pendAt.length = 8) ∧
    (∃ (s : State) (dt : Nat) (m : Mach) (c : Fin 8) (mask : BitVec 16) (k : BitVec 3) (tmo : BitVec 16), m = s.at dt ∧ m.AtFront (Ctx.coo c) (TInstr.fwait mask k tmo) ∧ m.allIdle mask k = false) ∧
    (∃ (s : State) (dt : Nat) (m : Mach) (c : Fin 8) (rel : Bool) (a : BitVec 3) (tgt : Word) (spd : Word), m = s.at dt ∧ m.AtFront (Ctx.coo c) (TInstr.axmove rel a tgt spd) ∧ 256 ≤ m.axis[a.toFin].queue.length) :=
  ⟨⟨(sCoordinatorInstructions 0), (0), _, (0), (0x0000#16), (0x0#3), (0x000000000#36), rfl, by dsimp only [Mach.AtFront, Mach.MotionEnds, Mach.WaitsAt, Mach.Quiet]; decide +kernel, by decide +kernel⟩,
    ⟨(sCoordinatorInstructions 0), (0), _, (0), (0x0000#16), (0x0#3), (0x0000#16), rfl, by dsimp only [Mach.AtFront, Mach.MotionEnds, Mach.WaitsAt, Mach.Quiet]; decide +kernel, by decide +kernel⟩,
    ⟨(sCoordinatorInstructions 0), (0), _, (0), (false), (0x0#3), (0x00000000#32), (0x00001388#32), rfl, by dsimp only [Mach.AtFront, Mach.MotionEnds, Mach.WaitsAt, Mach.Quiet]; decide +kernel, by decide +kernel⟩,
    ⟨(sCoordinatorInstructions 0), (0), _, (0), (0x00#8), (0x0000#16), rfl, by dsimp only [Mach.AtFront, Mach.MotionEnds, Mach.WaitsAt, Mach.Quiet]; decide +kernel, by decide +kernel⟩,
    ⟨(sCoordinatorInstructions 0), (0), _, (0), (0x0#4), (0x00000000#32), rfl, by dsimp only [Mach.AtFront, Mach.MotionEnds, Mach.WaitsAt, Mach.Quiet]; decide +kernel, by decide +kernel⟩,
    ⟨(sCoordinatorInstructions 0), (0), _, (0), (0x00#8), rfl, by dsimp only [Mach.AtFront, Mach.MotionEnds, Mach.WaitsAt, Mach.Quiet]; decide +kernel, by decide +kernel⟩,
    ⟨(sCoordinatorInstructions 2), (0), _, (0), (0x8001#16), (0x0#3), (0x0000#16), rfl, by dsimp only [Mach.AtFront, Mach.MotionEnds, Mach.WaitsAt, Mach.Quiet]; decide +kernel, by decide +kernel⟩,
    ⟨(sCoordinatorInstructions 3), (0), _, (0), (false), (0x7#3), (0x00000000#32), (0x00001388#32), rfl, by dsimp only [Mach.AtFront, Mach.MotionEnds, Mach.WaitsAt, Mach.Quiet]; decide +kernel, by decide +kernel⟩⟩
theorem witness_CoordinatorInstructions_2 :
    (∃ (s : State) (dt : Nat) (m : Mach) (c : Fin 8) (mask : Byte) (tmo : BitVec 16), m = s.at dt ∧ m.AtFront (Ctx.coo c) (TInstr.axwait mask tmo) ∧ (∃ b : Fin 8, BitVec.getLsbD mask ↑b = true ∧ (m.axis[b].queue ≠ [] ∨ axResting m.axis[b].st = false))) ∧
    (∃ (s : State) (dt : Nat) (m : Mach) (c : Fin 8) (i : Fin 4) (delay : Word), m = s.at dt ∧ m.AtFront (Ctx.coo c) (TInstr.snap (1#4 <<< i.val) delay) ∧ (m.stage (Edge.trig ⟨16 + i.val, by omega⟩)).violates (m.mt + max (BitVec.toNat delay) 2000) = true) ∧
    (∃ (s : State) (dt : Nat) (m : Mach) (c : Fin 8) (pc : Addr), m = s.at dt ∧ m.Quiet ∧ ctxIdle m.coo[c].st = false) ∧
    (∃ (s : State) (dt : Nat) (m : Mach) (c : Fin 8) (pc : Addr), m = s.at dt ∧ m.Quiet ∧ ctxIdle m.coo[c].st = true) ∧
    (∃ (s : State) (dt : Nat) (m : Mach) (x : Ctx) (off : BitVec 24) (v : Word) (mask : Word), m = s.at dt ∧ m.AtFront x (TInstr.setreg off v mask) ∧ mask = 0) ∧
    (∃ (s : State) (dt : Nat) (m : Mach) (x : Ctx) (off : BitVec 24) (v : Word) (mask : Word), m = s.at dt ∧ m.AtFront x (TInstr.setreg off v mask) ∧ ((∃ (k : Fin 160) (j : Fin 4), 4 * off.toNat = (R.CE_SLOT_PARAM ↑k ↑j).a) ∨ ∃ a : Fin 8, 4 * off.toNat ∈ [(R.AXE_AX_QTGT ↑a).a, (R.AXE_AX_QSPD ↑a).a, (R.AXE_AX_SEGDUR ↑a).a, (R.AXE_AX_SEGVEL ↑a).a, (R.AXE_AX_AMAX ↑a).a, (R.AXE_AX_DMAX ↑a).a, (R.AXE_AX_JMAX ↑a).a])) :=
  ⟨⟨(sCoordinatorInstructions 3), (0), _, (0), (0x81#8), (0x0000#16), rfl, by dsimp only [Mach.AtFront, Mach.MotionEnds, Mach.WaitsAt, Mach.Quiet]; decide +kernel, by decide +kernel⟩,
    ⟨(sCoordinatorInstructions 8), (0), _, (0), (0), (0x00000000#32), rfl, by dsimp only [Mach.AtFront, Mach.MotionEnds, Mach.WaitsAt, Mach.Quiet]; decide +kernel, by decide +kernel⟩,
    ⟨(sCoordinatorInstructions 0), (0), _, (0), (0x000000000#36), rfl, by unfold Mach.Quiet; decide +kernel, by decide +kernel⟩,
    ⟨(sCoordinatorInstructions 0), (0), _, (7), (0x000000000#36), rfl, by unfold Mach.Quiet; decide +kernel, by decide +kernel⟩,
    ⟨(sCoordinatorInstructions 0), (0), _, (Ctx.coo 0), (0x10040a#24), (0x00000000#32), (0x00000000#32), rfl, by dsimp only [Mach.AtFront, Mach.MotionEnds, Mach.WaitsAt, Mach.Quiet]; decide +kernel, by decide +kernel⟩,
    ⟨(sCoordinatorInstructions 0), (0), _, (Ctx.coo 0), (0x10040a#24), (0x00000000#32), (0x00000000#32), rfl, by dsimp only [Mach.AtFront, Mach.MotionEnds, Mach.WaitsAt, Mach.Quiet]; decide +kernel, Or.inl ⟨0, 0, by decide⟩⟩⟩
end
end W8

namespace W9
section
def w0 : List Wait := [⟨.exportWrites 31 4096 0x10000000, up.mt, 0, 0, .exportImage 31 4096 0x10000000⟩, ⟨.exportWrites 0 4096 0, up.mt, 0, 0, .exportImage 0 4096 0⟩]
def ld : Ledger := { base := 0, cells := [(1, 0x12345678), (2049, 0x1FFFF), (4096, 7)], depAt := 0, before := [] }
def s0 : List Mach := [onFront (.coo 0) rdy, onFront (.coo 7) (armed up), onFront (.fe 0 0) rdy, onFront (.axe 7) rdy, onFront (.coo 7) {rdy with ledger := {ld with base := 5}},
  { (rdy.wrs [(R.HLD_GEOM_NX, 8), (R.HLD_GEOM_NY, 8)]) with exports := [⟨.coo 7, 0x10000000, 5, ld, 3, 8, 8⟩], mem := { rdy.mem with bytes := [(0xFFFFFFF, 7), (0x10000003, 9), (0x10800000, 5)]}},
  { rdy with exports := [⟨.coo 7, 0x10000000, 5, {ld with base := 0, cells := []}, 0, 0, 0⟩, ⟨.axe 7, 0, 5, ld, 1, 3, 8⟩]}]
def s1 : List Mach := [(onFront (.coo 0) rdy).wrs [(R.HSQ_STATUS_STATE (d2h 0), 1), (R.HSQ_STATUS_STATE (d2h 31), 1), (R.HSQ_CTRL_EN (d2h 0), 1), (R.HSQ_CTRL_EN (d2h 31), 1)]]
def s2 := s1.flatMap fun m => [m, m.setCtx (.coo 0) {m.ctx (.coo 0) with writes := 1}] ++ w0.flatMap fun w => [0,1].map fun k => m.setCtx (.coo 0) {m.ctx (.coo 0) with wait := some w, writes := k}
def s3 := w0.map fun w => rdy.setCtx (.coo 0) {(onFront (.coo 0) rdy).ctx (.coo 0) with wait := some w}
def sLedgerOperationsAndExports (k : Nat) : State := ((s0 ++ s2 ++ s3).map st : List State).getD k State.reset
theorem witness_LedgerOperationsAndExports :
    (∃ (s : State) (dt : Nat) (m : Mach) (x : Ctx), m = s.at dt ∧ m.AtFront x (TInstr.ledger 0 false 0 0)) ∧
    (∃ (s : State) (dt : Nat) (m : Mach) (x : Ctx) (f : BitVec 16), m = s.at dt ∧ m.AtFront x (TInstr.ledger 1 false f 0) ∧ swf (fun x => m.ledger.base) m.ledger.cells = true) ∧
    (∃ (s : State) (dt : Nat) (m : Mach) (c : Fin 8) (a : Addr), m = s.at dt ∧ m.AtFront (Ctx.coo c) (TInstr.ledger 2 false 0 a)) ∧
    (∃ (s : State) (dt : Nat) (m : Mach) (c : Fin 8) (q : BitVec 5) (len : Word) (a : Addr), m = s.at dt ∧ m.AtFront (Ctx.coo c) (TInstr.exportImage q len a) ∧ (m.coo[c].writes ≠ 0 ∨ m.pushRoom (d2h q.toFin) = false)) ∧
    (∃ (s : State) (dt : Nat) (m : Mach) (e : _) (rest : _), m = s.at dt ∧ m.exports = e :: rest ∧ m.Quiet) ∧
    (∃ (s : State) (dt : Nat) (m : Mach) (c : Fin 8) (q : BitVec 5) (len : Word) (a : Addr), m = s.at dt ∧ m.AtFront (Ctx.coo c) (TInstr.exportImage q len a) ∧ m.coo[c].writes = 0 ∧ m.pushRoom (d2h q.toFin) = true) ∧
    (∃ (s : State) (dt : Nat) (m : Mach) (c : Fin 8) (w : Wait) (q : BitVec 5) (len : Word) (a : Addr), m = s.at dt ∧ m.OnlyWaits (Ctx.coo c) w ∧ w.k = WaitK.exportWrites q len a ∧ w.ins = TInstr.exportImage q len a ∧ m.coo[c].writes = 0 ∧ m.pushRoom (d2h q.toFin) = true) ∧
    (∃ (s : State) (dt : Nat) (m : Mach) (c : Fin 8) (w : Wait) (q : BitVec 5) (len : Word) (a : Addr), m = s.at dt ∧ m.OnlyWaits (Ctx.coo c) w ∧ w.k = WaitK.exportWrites q len a ∧ w.ins = TInstr.exportImage q len a ∧ m.coo[c].writes = 0 ∧ m.pushRoom (d2h q.toFin) = false) :=
  ⟨⟨(sLedgerOperationsAndExports 0), (0), _, (Ctx.coo 0), rfl, by dsimp only [Mach.AtFront, Mach.MotionEnds, Mach.WaitsAt, Mach.Quiet]; decide +kernel⟩,
    ⟨(sLedgerOperationsAndExports 0), (0), _, (Ctx.coo 0), (0x0000#16), rfl, by dsimp only [Mach.AtFront, Mach.MotionEnds, Mach.WaitsAt, Mach.Quiet]; decide +kernel, by decide +kernel⟩,
    ⟨(sLedgerOperationsAndExports 0), (0), _, (0), (0x000000000#36), rfl, by dsimp only [Mach.AtFront, Mach.MotionEnds, Mach.WaitsAt, Mach.Quiet]; decide +kernel⟩,
    ⟨(sLedgerOperationsAndExports 0), (0), _, (0), (0x00#5), (0x00000000#32), (0x000000000#36), rfl, by dsimp only [Mach.AtFront, Mach.MotionEnds, Mach.WaitsAt, Mach.Quiet]; decide +kernel, by decide +kernel⟩,
    ⟨(sLedgerOperationsAndExports 5), (0), _, _, _, rfl, rfl, by unfold Mach.Quiet; decide +kernel⟩,
    ⟨(sLedgerOperationsAndExports 7), (0), _, (0), (0x00#5), (0x00000000#32), (0x000000000#36), rfl, by dsimp only [Mach.AtFront, Mach.MotionEnds, Mach.WaitsAt, Mach.Quiet]; decide +kernel, by decide +kernel⟩,
    ⟨(sLedgerOperationsAndExports 9), (0), _, (0), ({ k := WaitK.exportWrites 0x1f#5 0x00001000#32 0x010000000#36,   reached := 4000000,   timeout := 0,   held := 0,   ins := TInstr.exportImage 0x1f#5 0x00001000#32 0x010000000#36 }), (0x1f#5), (0x00001000#32), (0x010000000#36), rfl, ⟨by decide +kernel, (ctx_all (by decide +kernel) (by decide +kernel) (by decide +kernel)), by decide +kernel⟩, by decide +kernel⟩,
    ⟨(sLedgerOperationsAndExports 13), (0), _, (0), ({ k := WaitK.exportWrites 0x1f#5 0x00001000#32 0x010000000#36,   reached := 4000000,   timeout := 0,   held := 0,   ins := TInstr.exportImage 0x1f#5 0x00001000#32 0x010000000#36 }), (0x1f#5), (0x00001000#32), (0x010000000#36), rfl, ⟨by decide +kernel, (ctx_all (by decide +kernel) (by decide +kernel) (by decide +kernel)), by decide +kernel⟩, by decide +kernel⟩⟩
end
end W9

namespace W10
section
def segsJ : List Seg := [⟨800, 5, 0, 0,0,0,0,false,false,false,false,0,0⟩]
def segsM : List Seg := [⟨800, 5, 0, 0,0,0,0xFFFF,true,false,false,false,0,0⟩]
def prof (n : Nat) (m : Mach) : Mach := m.wrs [(R.FE_PROF_VMARK n 0, 0x7FFFFFFF), (R.FE_PROF_VJUMP n 0, 0x7FFFFFFF), (R.FE_PROF_AMAX n 0, 0x7FFFFFFF), (R.FE_PROF_JMAX n 0, 0x7FFFFFFF), (R.FE_PROF_STOPDEC n 0, 0x7FFFFFFF),(R.FE_PROF_DVMAX n 0, 0x7FFFFFF), (R.FE_PROF_GVMAX n 0, 0x7FFFFFFF),(R.FE_PROF_GAMAX n 0, 0x7FFFFFFF),(R.FE_PROF_GJMAX n 0, 0x7FFFFFFF),(R.FE_PROF_GTW n 0, 1), (R.FE_PROF_ZVMAX n 0, 0x7FFFFFFF)]
def cor0 : CorTable := { x0 := -10000000, y0 := -10000000, pitch := 1000000, base := 0, bytes := [] }
def fpl (n : Fin 16) (c : Fin 8) (ws : List (Nat × Nat)) (g : Field → Field) : Mach :=
  ((poke ws (prof n (onFront (.fe n c) rdy))).modField n fun f => g { f with cor := some cor0, pl := { f.pl with pc := 0x1000, jspeed := 0x7FFFFFFF, mspeed := 0x7FFFFFFF }, planEnd := rdy.mt, ckAt := rdy.mt })
def progs : List (List (Nat × Nat)) := [[(0x1000, 0x01 * 2^56)], [(0x1000, 0xFF * 2^56)], [(0x1000, 0x20 * 2^56), (0x1008, 5)], [(0x1000, 0x21 * 2^56), (0x1008, 5)], [(0x1000, 0x03 * 2^56 + 1 * 2^44 + 8)], [(0x1000, 0x03 * 2^56 + 2^48 + 1 * 2^44 + 5 * 2^36 + 1 * 2^32 + 8)], [(0x1000, 0x03 * 2^56 + 2^48 + 1 * 2^44 + 5 * 2^36 + 9 * 2^32 + 8)]]
def s0 : List Mach := [(0,0),(15,7)].flatMap fun ((n, c) : Fin 16 × Fin 8) => progs.map fun p => fpl n c p id
def s1 : List Mach := [fpl 0 0 [] fun f => { f with planEnd := rdy.mt + 40000 }, fpl 15 0 [] (fun f => { f with planEnd := rdy.mt + 40000, plan := [pe (.jump false 5 0) [psg rdy.mt (sg 20000 5 6 true), psg (rdy.mt+20000) (sg 20000 5 6 true)] f.pl] }),
  fpl 0 0 [] fun f => { f with planEnd := rdy.mt + 40000, replan := some ⟨.grant, rdy.mt - 17000, rdy.mt + 81, none⟩, plan := [pe (.jump false 5 0) segs1' f.pl] },
  fpl 15 0 [] fun f => { f with planEnd := rdy.mt + 40000, replan := some ⟨.squash, rdy.mt - 16000, 0, none⟩, plan := [pe (.jump false 5 0) segs1' f.pl] }]
where segs1' : List PSeg := [psg up.mt (sg 800 5 6 false)]
def seglists : List (List PSeg) := (s0 ++ s1).flatMap fun m => [(0,0),(15,7)].flatMap fun ((n,c) : Fin 16 × Fin 8) => [segsJ, segsM].filterMap fun l => match m.fetch .fe [] m.fe[n].pl.pc with | .ok i => (m.alongLegs n c i l []).map (·.1) | _ => none
def sPlannerDecodesAndPublishes (k : Nat) : State := ((s0 ++ s1 ++ [fpl 0 0 [] fun f => { f with pl := { f.pl with pc := 0x1004 } }]).map st : List State).getD k State.reset
theorem witness_PlannerDecodesAndPublishes_1 :
    (∃ (s : State) (dt : Nat) (m : Mach) (n : Fin 16) (segs : List Seg) (slowed : List (BitVec 8)) (c : _) (i : TInstr), m = s.at dt ∧ m.fe[n].owner = some c ∧ m.Quiet ∧ m.pstop n = 0 ∧ modeReady ≤ m.mode ∧ m.fe[n].openIns = none ∧ m.fe[n].planEnd < m.fe[n].ckAt + 40000 ∧ m.fe[n].inRun = false ∧ m.fe[n].runAt = none ∧ m.fe[n].legs = [] ∧ m.fe[n].prefetch = [] ∧ m.fetch Eng.fe m.fe[n].prefetch m.fe[n].pl.pc = Except.ok i ∧ m.wordFault (Ctx.fe n c) m.fe[n].pl i = none ∧ isMotion i = false ∧ opc i ≠ 3) ∧
    (∃ (s : State) (dt : Nat) (m : Mach) (n : Fin 16) (k : Nat), m = s.at dt ∧ m.fe[n].covers k = true ∧ m.fe[n].summary k = none ∧ m.mt / 16000 ≤ k ∧ (m.fe[n].published m.mt).length < 2048) ∧
    (∃ (s : State) (dt : Nat) (m : Mach) (n : Fin 16) (segs : List Seg) (slowed : List (BitVec 8)) (c : _) (i : TInstr) (ps : List PSeg), m = s.at dt ∧ m.fe[n].owner = some c ∧ m.Quiet ∧ m.pstop n = 0 ∧ modeReady ≤ m.mode ∧ m.fe[n].openIns = none ∧ m.fe[n].planEnd < m.fe[n].ckAt + 40000 ∧ m.fe[n].inRun = false ∧ m.fe[n].runAt = none ∧ m.fe[n].legs = [] ∧ m.fe[n].prefetch = [] ∧ m.fetch Eng.fe m.fe[n].prefetch m.fe[n].pl.pc = Except.ok i ∧ m.wordFault (Ctx.fe n c) m.fe[n].pl i = none ∧ isMotion i = true ∧ m.profileStuck (↑n) m.fe[n].pl.mprof.toNat = false ∧ m.fe[n].cor.isSome = true ∧ m.alongLegs n c i segs slowed = some (ps, []) ∧ m.pathFault n ps = none ∧ m.polyPoison i = false ∧ m.planOk n c i ps [] slowed = true ∧ segs.length + m.fe[n].segsLeft m.mt ≤ 32768 ∧ (m.withSegs n i ps []).needCk = false) :=
  ⟨⟨(sPlannerDecodesAndPublishes 0), (0), _, (0), ([]), ([]), _, (TInstr.nop), rfl, rfl, by unfold Mach.Quiet; decide +kernel, by decide +kernel, by decide +kernel, by decide +kernel, by decide +kernel, by decide +kernel, by decide +kernel, by decide +kernel, by decide +kernel, rfl, by decide +kernel⟩,
    ⟨(sPlannerDecodesAndPublishes 0), (0), _, (0), (250), rfl, by decide +kernel⟩,
    ⟨(sPlannerDecodesAndPublishes 2), (0), _, (0), ([{ dur := 800,    x1 := 5,    y1 := 0,    vx1 := 0,    vy1 := 0,    z1 := 0,    pow1 := 0x0000#16,    laser := false,    wobble := false,    nopool := false,    ckpt := false,    mprof := 0,    mat := 0 }]), ([]), _, (TInstr.jump false 0x00000005#32 0x00000000#32), ([{ t0 := 4000000,    x0 := 0,    y0 := 0,    vx0 := 0,    vy0 := 0,    z0 := 0,    pow0 := 0x0000#16,    seg := { dur := 800,             x1 := 5,             y1 := 0,             vx1 := 0,             vy1 := 0,             z1 := 0,             pow1 := 0x0000#16,             laser := false,             wobble := false,             nopool := false,             ckpt := false,             mprof := 0,             mat := 0 },    pc := 0x000001000#36,    ctx := 0,    frm := { tn := 4000000, fx := 0, fy := 0, vx := 0, vy := 0, cover := 0, axq := [], axEnd := 0 },    wamp := 0 }]), rfl, rfl, by unfold Mach.Quiet; decide +kernel, by decide +kernel, by decide +kernel, by decide +kernel, by decide +kernel, by decide +kernel, by decide +kernel, by decide +kernel, by decide +kernel, rfl, by decide +kernel⟩⟩
theorem witness_PlannerDecodesAndPublishes_2 :
    (∃ (s : State) (dt : Nat) (m : Mach) (n : Fin 16) (segs : List Seg) (slowed : List (BitVec 8)) (c : _) (i : TInstr), m = s.at dt ∧ m.fe[n].owner = some c ∧ m.Quiet ∧ m.pstop n = 0 ∧ modeReady ≤ m.mode ∧ m.fe[n].openIns = none ∧ m.fe[n].planEnd < m.fe[n].ckAt + 40000 ∧ m.fe[n].inRun = false ∧ m.fe[n].runAt = none ∧ m.fe[n].legs = [] ∧ m.fe[n].prefetch = [] ∧ m.fetch Eng.fe m.fe[n].prefetch m.fe[n].pl.pc = Except.ok i ∧ m.wordFault (Ctx.fe n c) m.fe[n].pl i = none ∧ isMotion i = true ∧ m.profileStuck (↑n) m.fe[n].pl.mprof.toNat = false ∧ m.fe[n].cor.isSome = true ∧ m.alongLegs n c i segs slowed = none) ∧
    (∃ (s : State) (dt : Nat) (m : Mach) (n : Fin 16) (segs : List Seg) (slowed : List (BitVec 8)) (c : _) (i : TInstr) (hint : BitVec 4) (cls : BitVec 4) (idx : Byte) (test : BitVec 4) (off : Word) (value : Word), m = s.at dt ∧ m.fe[n].owner = some c ∧ m.Quiet ∧ m.pstop n = 0 ∧ modeReady ≤ m.mode ∧ m.fe[n].openIns = none ∧ m.fe[n].planEnd < m.fe[n].ckAt + 40000 ∧ m.fe[n].inRun = false ∧ m.fe[n].runAt = none ∧ m.fe[n].legs = [] ∧ m.fe[n].prefetch = [] ∧ m.fetch Eng.fe m.fe[n].prefetch m.fe[n].pl.pc = Except.ok i ∧ m.wordFault (Ctx.fe n c) m.fe[n].pl i = none ∧ i = TInstr.brc hint cls idx test off value ∧ hint.toNat < 2) ∧
    (∃ (s : State) (dt : Nat) (m : Mach) (n : Fin 16) (segs : List Seg) (slowed : List (BitVec 8)) (c : _) (i : TInstr) (code : _), m = s.at dt ∧ m.fe[n].owner = some c ∧ m.wordFault (Ctx.fe n c) m.fe[n].pl i = some code ∧ m.Quiet ∧ m.pstop n = 0 ∧ modeReady ≤ m.mode ∧ m.fe[n].openIns = none ∧ m.fe[n].planEnd < m.fe[n].ckAt + 40000 ∧ m.fe[n].inRun = false ∧ m.fe[n].runAt = none ∧ m.fe[n].legs = [] ∧ m.fe[n].prefetch = [] ∧ m.fetch Eng.fe m.fe[n].prefetch m.fe[n].pl.pc = Except.ok i) :=
  ⟨⟨(sPlannerDecodesAndPublishes 2), (0), _, (0), ([{ dur := 800,    x1 := 5,    y1 := 0,    vx1 := 0,    vy1 := 0,    z1 := 0,    pow1 := 0xffff#16,    laser := true,    wobble := false,    nopool := false,    ckpt := false,    mprof := 0,    mat := 0 }]), ([]), _, (TInstr.jump false 0x00000005#32 0x00000000#32), rfl, rfl, by unfold Mach.Quiet; decide +kernel, by decide +kernel, by decide +kernel, by decide +kernel, by decide +kernel, by decide +kernel, by decide +kernel, by decide +kernel, by decide +kernel, rfl, by decide +kernel⟩,
    ⟨(sPlannerDecodesAndPublishes 4), (0), _, (0), ([]), ([]), _, (TInstr.brc 0x0#4 0x1#4 0x00#8 0x0#4 0x00000008#32 0x00000000#32), (0x0#4), (0x1#4), (0x00#8), (0x0#4), (0x00000008#32), (0x00000000#32), rfl, rfl, by unfold Mach.Quiet; decide +kernel, by decide +kernel, by decide +kernel, by decide +kernel, by decide +kernel, by decide +kernel, by decide +kernel, by decide +kernel, by decide +kernel, rfl, by decide +kernel⟩,
    ⟨(sPlannerDecodesAndPublishes 6), (0), _, (0), ([]), ([]), _, (TInstr.brc 0x1#4 0x1#4 0x05#8 0x9#4 0x00000008#32 0x00000000#32), _, rfl, rfl, rfl, by unfold Mach.Quiet; decide +kernel, by decide +kernel, by decide +kernel, by decide +kernel, by decide +kernel, by decide +kernel, by decide +kernel, by decide +kernel, by decide +kernel, rfl⟩⟩
theorem witness_PlannerDecodesAndPublishes_3 :
    (∃ (s : State) (dt : Nat) (m : Mach) (n : Fin 16) (r : _), m = s.at dt ∧ m.fe[n].replan = some r ∧ m.Quiet ∧ m.fe[n].planReady = true ∧ r.go = none) ∧
    (∃ (s : State) (dt : Nat) (m : Mach) (n : Fin 16) (segs : List Seg) (slowed : List (BitVec 8)) (c : _) (code : Nat), m = s.at dt ∧ m.fe[n].owner = some c ∧ m.Quiet ∧ m.pstop n = 0 ∧ modeReady ≤ m.mode ∧ m.fe[n].openIns = none ∧ m.fe[n].planEnd < m.fe[n].ckAt + 40000 ∧ m.fe[n].inRun = false ∧ m.fe[n].runAt = none ∧ m.fe[n].legs = [] ∧ m.fe[n].prefetch = [] ∧ m.fetch Eng.fe m.fe[n].prefetch m.fe[n].pl.pc = Except.error code) :=
  ⟨⟨(sPlannerDecodesAndPublishes 16), (0), _, (0), _, rfl, rfl, by unfold Mach.Quiet; decide +kernel, by decide +kernel⟩,
    ⟨(sPlannerDecodesAndPublishes 18), (0), _, (0), ([]), ([]), _, (4), rfl, rfl, by unfold Mach.Quiet; decide +kernel, by decide +kernel⟩⟩
end
end W10

namespace W11
section
def fc (n : Fin 16) (l : List (Fin 8 × CtxSt)) (m : Mach) : Mach := m.modField n fun f => l.foldl (fun f p => { f with ctx := f.ctx.set p.1 { f.ctx[p.1] with st := p.2, readyAt := m.mt - 5 } }) f
def stop (n : Fin 16) (c : Fin 8) (m : Mach) : Mach := m.modField n fun f => { f with ctx := f.ctx.set c { f.ctx[c] with stopReq := true } }
def ck0 (c : Fin 8) : Ckpt := { ctx := c, spec := false, pc := 0x1000, st := (up.ctx (.fe 0 0)).ret, at_ := up.mt, prefetch := [], alt := (up.ctx (.fe 0 0)).ret, path := ⟨0,0,0,0,0,0,0,0,0,0⟩, index := 0, ramp := psg 0 (sg 0 0 0 false), slice := 0, branch := none }
def tok (m : Mach) : Mach := { m with tokens := [(3, .fe 0 0), (4, .fe 15 7), (5, .coo 1)] }
def s0 : List Mach := [rdy, up].flatMap fun m => ([(0,0),(15,7)] : List (Fin 16 × Fin 8)).flatMap fun (n, c) =>
  ([.ready, .active, .waiting, .suspended, .faulted, .halted, .layerDone] : List CtxSt).map (fun s => tok (fc n [(c, s)] m)) ++
  [stop n c (tok (fc n [(c, .active)] m)), fc n [(c, .ready), (3, .ready)] m, fc n [(c, .ready), (3, .active)] (m.wr (R.FE_CTX_CTRL_PRIO n c) 2), fc n [(c, .ready), (3, .active)] (m.wr (R.FE_CTX_CTRL_PRIO n c) 0),
    (fc n [(c, .ready), (3, .active)] (m.wr (R.FE_CTX_CTRL_PRIO n c) 5)).modField n fun f => { f with atCk := some (m.mt - 2, ck0 3) },
    (fc n [(c, .ready)] m).modField n fun f => { f with yielded := some c }]
def sContextCommandsAndGrants (k : Nat) : State := ((s0 ++ s0.map (·.wr R.PWR_PSTATE_STATE 2) ++ [State.reset.m]).map st : List State).getD k State.reset
theorem witness_ContextCommandsAndGrants_1 :
    (∃ (s : State) (dt : Nat) (m : Mach) (n : Fin 16) (c : Fin 8), m = s.at dt ∧ m.Quiet ∧ m.open? (8388608 + ↑n * 262144) = true ∧ m.pstate ≠ 2 ∧ ctxIdle m.fe[n].ctx[c].st = false) ∧
    (∃ (s : State) (dt : Nat) (m : Mach) (n : Fin 16) (c : Fin 8), m = s.at dt ∧ m.Quiet ∧ m.open? (8388608 + ↑n * 262144) = true ∧ m.pstate ≠ 2 ∧ (m.fe[n].ctx[c].st = CtxSt.ready ∨ m.fe[n].ctx[c].st = CtxSt.waiting)) ∧
    (∃ (s : State) (dt : Nat) (m : Mach) (n : Fin 16) (c : Fin 8), m = s.at dt ∧ m.Quiet ∧ m.open? (8388608 + ↑n * 262144) = true ∧ m.pstate ≠ 2 ∧ ctxBusy m.fe[n].ctx[c].st = true) ∧
    (∃ (s : State) (dt : Nat) (m : Mach) (n : Fin 16) (c : Fin 8), m = s.at dt ∧ m.Quiet ∧ m.fe[n].ctx[c].stopReq = false) ∧
    (∃ (s : State) (dt : Nat) (m : Mach) (n : Fin 16) (c : Fin 8), m = s.at dt ∧ m.fe[n].ctx[c].st = CtxSt.ready ∧ (∀ (d : Fin 8), m.fe[n].ctx[d].st = CtxSt.ready → m.prio n d < m.prio n c ∨ m.prio n d = m.prio n c ∧ c ≤ d) ∧ m.fe[n].active = false ∧ m.inFs ↑n = false ∧ m.pstate ≤ 1 ∧ m.rd R.TIM_STATUS_LOCK = 1) ∧
    (∃ (s : State) (dt : Nat) (m : Mach) (n : Fin 16) (c : Fin 8), m = s.at dt ∧ m.Quiet ∧ m.open? (8388608 + ↑n * 262144) = true ∧ m.pstate ≠ 2 ∧ ctxIdle m.fe[n].ctx[c].st = true) ∧
    (∃ (s : State) (dt : Nat) (m : Mach) (n : Fin 16) (c : Fin 8), m = s.at dt ∧ m.Quiet ∧ m.open? (8388608 + ↑n * 262144) = true ∧ m.pstate ≠ 2 ∧ ctxBusy m.fe[n].ctx[c].st = false) ∧
    (∃ (s : State) (dt : Nat) (m : Mach) (n : Fin 16) (c : Fin 8), m = s.at dt ∧ m.Quiet ∧ m.open? (8388608 + ↑n * 262144) = true ∧ m.pstate ≠ 2 ∧ ctxBusy m.fe[n].ctx[c].st = false) :=
  ⟨⟨(sContextCommandsAndGrants 0), (0), _, (0), (0), rfl, by unfold Mach.Quiet; decide +kernel, by decide +kernel⟩,
    ⟨(sContextCommandsAndGrants 0), (0), _, (0), (0), rfl, by unfold Mach.Quiet; decide +kernel, by decide +kernel⟩,
    ⟨(sContextCommandsAndGrants 0), (0), _, (0), (0), rfl, by unfold Mach.Quiet; decide +kernel, by decide +kernel⟩,
    ⟨(sContextCommandsAndGrants 0), (0), _, (0), (0), rfl, by unfold Mach.Quiet; decide +kernel, by decide +kernel⟩,
    ⟨(sContextCommandsAndGrants 0), (0), _, (0), (0), rfl, by decide +kernel⟩,
    ⟨(sContextCommandsAndGrants 0), (0), _, (0), (7), rfl, by unfold Mach.Quiet; decide +kernel, by decide +kernel⟩,
    ⟨(sContextCommandsAndGrants 0), (0), _, (0), (7), rfl, by unfold Mach.Quiet; decide +kernel, by decide +kernel⟩,
    ⟨(sContextCommandsAndGrants 0), (0), _, (0), (7), rfl, by unfold Mach.Quiet; decide +kernel, by decide +kernel⟩⟩
theorem witness_ContextCommandsAndGrants_2 :
    (∃ (s : State) (dt : Nat) (m : Mach) (n : Fin 16) (c : Fin 8), m = s.at dt ∧ m.Quiet ∧ m.open? (8388608 + ↑n * 262144) = true ∧ m.pstate ≠ 2 ∧ m.fe[n].ctx[c].st = CtxSt.active) ∧
    (∃ (s : State) (dt : Nat) (m : Mach) (n : Fin 16) (c : Fin 8), m = s.at dt ∧ m.Quiet ∧ m.fe[n].owner = some c ∧ m.fe[n].ctx[c].stopReq = true ∧ m.fe[n].ctx[c].ret.laserOn = false ∧ m.fe[n].plan = [] ∧ m.fe[n].emit = none ∧ m.fe[n].replan = none) ∧
    (∃ (s : State) (dt : Nat) (m : Mach) (n : Fin 16) (c : Fin 8), m = s.at dt ∧ m.fe[n].ctx[c].st = CtxSt.ready ∧ (∀ (d : Fin 8), m.fe[n].ctx[d].st = CtxSt.ready → m.prio n d < m.prio n c ∨ m.prio n d = m.prio n c ∧ c ≤ d) ∧ (m.fe[n].active = true ∨ m.inFs ↑n = true ∨ 1 < m.pstate ∨ m.rd R.TIM_STATUS_LOCK = 0)) ∧
    (∃ (s : State) (dt : Nat) (m : Mach) (n : Fin 16) (c : Fin 8) (o : _), m = s.at dt ∧ m.fe[n].owner = some o ∧ m.fe[n].ctx[c].st = CtxSt.ready ∧ (∀ (d : Fin 8), m.fe[n].ctx[d].st = CtxSt.ready → m.prio n d < m.prio n c ∨ m.prio n d = m.prio n c ∧ c ≤ d) ∧ m.fe[n].emit = none ∧ m.fe[n].ctx[o].wait = none ∧ m.fe[n].ctx[o].ret.laserOn = false ∧ m.prio n o < m.prio n c ∧ (∃ ta k, m.fe[n].atCk = some (ta, k) ∧ m.fe[n].ctx[c].readyAt ≤ ta) ∧ m.rd (R.FE_SWITCH ↑n) + 1 < 2 ^ 32 ∧ m.fe[n].dwell = none) ∧
    (∃ (s : State) (dt : Nat) (m : Mach) (n : Fin 16) (c : Fin 8) (i : Instr) (k : Word), m = s.at dt ∧ m.Quiet ∧ (i = Instr.ctxStart dt n c ∧ k = 1 ∨ i = Instr.ctxStop dt n c ∧ k = 2 ∨ i = Instr.ctxReset dt n c ∧ k = 3) ∧ m.open? (8388608 + ↑n * 262144) = true ∧ m.pstate = 2) ∧
    (∃ (s : State) (dt : Nat) (m : Mach) (n : Fin 16) (c : Fin 8) (i : Instr) (k : Word), m = s.at dt ∧ m.Quiet ∧ (i = Instr.ctxStart dt n c ∧ k = 1 ∨ i = Instr.ctxStop dt n c ∧ k = 2 ∨ i = Instr.ctxReset dt n c ∧ k = 3) ∧ m.open? (8388608 + ↑n * 262144) = false) :=
  ⟨⟨(sContextCommandsAndGrants 1), (0), _, (0), (0), rfl, by unfold Mach.Quiet; decide +kernel, by decide +kernel⟩,
    ⟨(sContextCommandsAndGrants 7), (0), _, (0), (0), rfl, by unfold Mach.Quiet; decide +kernel, by decide +kernel⟩,
    ⟨(sContextCommandsAndGrants 9), (0), _, (0), (0), rfl, by decide +kernel⟩,
    ⟨(sContextCommandsAndGrants 11), (0), _, (0), (0), _, rfl, rfl, by decide +kernel, by decide +kernel, by decide +kernel, by decide +kernel, by decide +kernel, by decide +kernel, ⟨_, _, rfl, by decide +kernel⟩, by decide +kernel⟩,
    ⟨(sContextCommandsAndGrants 52), (0), _, (0), (0), (Instr.ctxStart 0 0 0), (0x00000001#32), rfl, by unfold Mach.Quiet; decide +kernel, by decide +kernel⟩,
    ⟨(sContextCommandsAndGrants 104), (0), _, (0), (0), (Instr.ctxStart 0 0 0), (0x00000001#32), rfl, by unfold Mach.Quiet; decide +kernel, by decide +kernel⟩⟩
end
end W11

namespace W12
section
def m0 (x : Ctx) (n : Fin 16) (g : Field → Field) : Mach := ((onFront x (armed up)).modField n g)
def fc (n : Fin 16) (l : List (Fin 8 × CtxSt)) (m : Mach) : Mach := m.modField n fun f => l.foldl (fun f p => { f with ctx := f.ctx.set p.1 { f.ctx[p.1] with st := p.2, readyAt := m.mt - 5 } }) f
def l1 : List PSeg := [psg (up.mt-800) (sg 400 5 6 true), psg (up.mt - 400) (sg 400 7 8 true)]
def r1 (t : Nat) : List PSeg := [psg t (sg 400 5 6 true), psg (t + 400) (sg 1400 7 8 true)]
def s0 : List Mach := ([(0,0),(15,7)] : List (Fin 16 × Fin 8)).flatMap fun (n, c) => let x := Ctx.fe n c; let ps := (up.ctx x).ret
  [m0 x n fun f => { f with plan := [pe (.mark false false false 5 5) l1 ps true], emit := some (up.mt - 800), inRun := true },
   m0 x n fun f => { f with plan := [pe (.mark false false false 5 5) l1 ps true], emit := some (up.mt - 800), inRun := true, cor := none },
   m0 x n fun f => { f with plan := [], inRun := true },
   fc n [(1, .ready), (2, .waiting)] (m0 x n fun f => { f with plan := [], inRun := true })] ++
   [0, 40, 41, 840].flatMap fun d => [0, 800, 900].map fun on => (m0 x n fun f => { f with fresh := false, plan := [pe (.mark false false false 5 5) (r1 (up.mt + d)) ps, pe .nop [] ps] }).wrs [(R.FE_LCH_GADV_GONADV n, on), (R.FE_LCH_GADV_GOFFADV n, 5), (R.TRL_CTRL_EN, 0), (R.FE_LCH_CTRL_RDYREQ n, 0)]
def sFrontMovesAndRunsStart (k : Nat) : State := ((s0 ++ [onFront (.coo 0) (poke [(0x1000, 7 * 2^56)] rdy), { onFront (.coo 7) (poke [(0x1000, 7 * 2^56)] rdy) with tokens := [(3, .coo 7), (4, .axe 1)] }] ++ (s0.map fun m => m.wr R.GLB_MODE_MODE 2)).map st : List State).getD k State.reset
theorem witness_FrontMovesAndRunsStart :
    (∃ (s : State) (dt : Nat) (m : Mach) (n : Fin 16) (c : Fin 8) (i : TInstr) (e : PlanEntry) (l : PSeg), m = s.at dt ∧ m.MotionEnds n c i e l ∧ m.fe[n].plan = [e]) ∧
    (∃ (s : State) (dt : Nat) (m : Mach) (n : Fin 16) (c : Fin 8), m = s.at dt ∧ m.fe[n].owner = some c ∧ m.fe[n].plan = [] ∧ m.fe[n].inRun = true ∧ m.fe[n].replan = none ∧ m.inFs ↑n = false) ∧
    (∃ (s : State) (dt : Nat) (m : Mach) (n : Fin 16) (c : Fin 8) (e : _) (u : _) (p : _), m = s.at dt ∧ m.fe[n].plan.head? = some e ∧ runEnd m.fe[n].plan 0 = some u ∧ e.segs.head? = some p ∧ m.fe[n].owner = some c ∧ m.frontRuns n c = true ∧ m.fe[n].inRun = false ∧ m.fe[n].fresh = false ∧ m.fe[n].replan = none ∧ m.fe[n].emit = none ∧ m.fe[n].dwell = none ∧ m.frontHeld n c = false ∧ u ≤ m.clearance n ∧ p.seg.laser = true ∧ m.mode = modeArmed ∧ m.saf.disarming = false ∧ m.pstate = 0 ∧ m.rd R.TIM_STATUS_LOCK = 1 ∧ (m.rd (R.FE_LCH_CTRL_RDYREQ ↑n) = 1 → m.fe[n].lch.rdy = true) ∧ m.soonest n ≤ p.t0 ∧ p.t0 ≤ m.soonest n + 40 ∧ p.t0 < u ∧ min 800 (m.rd (R.FE_LCH_GADV_GOFFADV ↑n)) < u - p.t0 + min 800 (m.rd (R.FE_LCH_GADV_GONADV ↑n)) ∧ (∀ (d : Nat), m.fe[n].lch.lastFall = some d → d + max 1 (m.rd (R.FE_LCH_MINLOW ↑n)) ≤ p.t0 - min 800 (m.rd (R.FE_LCH_GADV_GONADV ↑n)))) ∧
    (∃ (s : State) (dt : Nat) (m : Mach) (n : Fin 16) (c : Fin 8), m = s.at dt ∧ m.Quiet ∧ m.ctxRuns (Ctx.coo c) = true ∧ m.fetch Eng.coo [] m.coo[c].ret.pc = Except.ok TInstr.halt ∧ m.wordFault (Ctx.coo c) m.coo[c].ret TInstr.halt = none) ∧
    (∃ (s : State) (dt : Nat) (m : Mach) (n : Fin 16) (c : Fin 8) (e : _) (u : _) (p : _), m = s.at dt ∧ m.fe[n].plan.head? = some e ∧ runEnd m.fe[n].plan 0 = some u ∧ e.segs.head? = some p ∧ m.fe[n].owner = some c ∧ m.frontRuns n c = true ∧ m.fe[n].inRun = false ∧ m.fe[n].fresh = false ∧ m.fe[n].replan = none ∧ m.fe[n].emit = none ∧ m.fe[n].dwell = none ∧ m.frontHeld n c = false ∧ u ≤ m.clearance n ∧ p.seg.laser = true ∧ m.runDenied n = true) :=
  ⟨⟨(sFrontMovesAndRunsStart 0), (0), _, (0), (0), (TInstr.mark false false false 0x00000005#32 0x00000005#32), ({ pc := 0x000000000#36,   ins := TInstr.mark false false false 0x00000005#32 0x00000005#32,   fault := none,   segs := [{ t0 := 3999200,              x0 := 0,              y0 := 0,              vx0 := 0,              vy0 := 0,              z0 := 0,              pow0 := 0x0000#16,              seg := { dur := 400,                       x1 := 5,                       y1 := 6,                       vx1 := 0,                       vy1 := 0,                       z1 := 7,                       pow1 := 0xffff#16,                       laser := true,                       wobble := false,                       nopool := false,                       ckpt := true,                       mprof := 0,                       mat := 0 },              pc := 0x000001000#36,              ctx := 0,              frm := { tn := 3999200, fx := 0, fy := 0, vx := 0, vy := 0, cover := 0, axq := [], axEnd := 0 },              wamp := 0 },            { t0 := 3999600,              x0 := 0,              y0 := 0,              vx0 := 0,              vy0 := 0,              z0 := 0,              pow0 := 0x0000#16,              seg := { dur := 400,                       x1 := 7,                       y1 := 8,                       vx1 := 0,                       vy1 := 0,                       z1 := 7,                       pow1 := 0xffff#16,                       laser := true,                       wobble := false,                       nopool := false,                       ckpt := true,                       mprof := 0,                       mat := 0 },              pc := 0x000001000#36,              ctx := 0,              frm := { tn := 3999600, fx := 0, fy := 0, vx := 0, vy := 0, cover := 0, axq := [], axEnd := 0 },              wamp := 0 }],   before := { pc := 0x000000000#36,               calls := [],               loops := [],               px := 0x00000000#32,               py := 0x00000000#32,               mspeed := 0x006400#24,               jspeed := 0x03e800#24,               power := 0x0000#16,               dwell := 0x00000000#32,               poolMode := 0x0#2,               poolStat := 0x0#4,               poolTarget := 0x0000#16,               focus := 0x00000000#32,               overlap := 0x00000000#32,               ramp := 0x0000#16,               mprof := 0x0#4,               mat := 0x0#2,               wshape := 0x0#4,               wfreq := 0x0000#16,               wamp := 0x0000#16,               dep := true,               k3 := false,               laserOn := false,               moved := false,               spin := 0,               wstart := none },   after := { pc := 0x000000010#36,              calls := [],              loops := [],              px := 0x00000000#32,              py := 0x00000000#32,              mspeed := 0x006400#24,              jspeed := 0x03e800#24,              power := 0x0000#16,              dwell := 0x00000000#32,              poolMode := 0x0#2,              poolStat := 0x0#4,              poolTarget := 0x0000#16,              focus := 0x00000000#32,              overlap := 0x00000000#32,              ramp := 0x0000#16,              mprof := 0x0#4,              mat := 0x0#2,              wshape := 0x0#4,              wfreq := 0x0000#16,              wamp := 0x0000#16,              dep := true,              k3 := false,              laserOn := true,              moved := true,              spin := 0,              wstart := none },   taken := false,   first := true,   last := true,   ck := false,   idx := 0,   stopdec := 1000 }), ({ t0 := 3999600,   x0 := 0,   y0 := 0,   vx0 := 0,   vy0 := 0,   z0 := 0,   pow0 := 0x0000#16,   seg := { dur := 400,            x1 := 7,            y1 := 8,            vx1 := 0,            vy1 := 0,            z1 := 7,            pow1 := 0xffff#16,            laser := true,            wobble := false,            nopool := false,            ckpt := true,            mprof := 0,            mat := 0 },   pc := 0x000001000#36,   ctx := 0,   frm := { tn := 3999600, fx := 0, fy := 0, vx := 0, vy := 0, cover := 0, axq := [], axEnd := 0 },   wamp := 0 }), rfl, by dsimp only [Mach.AtFront, Mach.MotionEnds, Mach.WaitsAt, Mach.Quiet]; decide +kernel, by decide +kernel⟩,
    ⟨(sFrontMovesAndRunsStart 2), (0), _, (0), (0), rfl, by decide +kernel⟩,
    ⟨(sFrontMovesAndRunsStart 7), (0), _, (0), (0), _, _, _, rfl, rfl, rfl, rfl, by decide +kernel⟩,
    ⟨(sFrontMovesAndRunsStart 32), (0), _, (0), (0), rfl, by unfold Mach.Quiet; decide +kernel, by decide +kernel, rfl, by decide +kernel⟩,
    ⟨(sFrontMovesAndRunsStart 38), (0), _, (0), (0), _, _, _, rfl, rfl, rfl, rfl, by decide +kernel⟩⟩
end
end W12

namespace W13
section
def crcv := crc32c (List.replicate 594441 0)
def img (b : Nat) (m : Mach) : Mach := { m with mem := { m.mem with bytes := storeBytes (storeBytes (storeBytes m.mem.bytes b (leBytes 4 0x1D570C05)) (b+12) (leBytes 4 100)) (b+16) (leBytes 4 crcv) } }
def act (n : Fin 16) (m : Mach) : Mach := onFront (.fe n 3) m
def s0 : List Mach := ([0, 15] : List (Fin 16)).flatMap fun n => [img 0 rdy, rdy, act n rdy, rdy.modField n (fun f => {f with corPending := true}), (act n rdy).modField n (fun f => {f with corPending := true}), { rdy.wr (R.FE_COR_BASE_LO n) 4 with mem := { rdy.mem with poison := [40,4000] } },
  { (rdy.wrs [(R.FE_FRM_CTRL_PEND n, 1), (R.FE_FRM_CTRL_SRC n, 2)]).modField n (fun f => {f with spl := { f.spl with heldRef := some 5 }}) with signals := 0}] 
  ++ [{rdy with enc := [(false,true),(true,true),(false,false),(true,false)]}, {rdy.wrs [(R.AXE_ENC_CTRL_MODE 0, 1), (R.AXE_ENC_CTRL_MODE 3, 1), (R.AXE_ENC_CTRL_INV 3, 1), (R.AXE_ENC_CNT 0, 0xFFFFFFFF)] with enc := [(false,true),(true,true),(false,false),(true,false)]}, {rdy.wrs [(R.AXE_ENC_CTRL_MODE 0, 2)] with enc := [(false,true),(true,true),(false,false),(true,false)]}]
def sCorrectionFrameAndEncoders (k : Nat) : State := ((s0 ++ [State.reset.m, rdy.wr R.PWR_PSTATE_STATE 2, {rdy.wrs [(R.AXE_ENC_CTRL_MODE 0, 1), (R.AXE_ENC_CTRL_FILT 0, 5)] with enc := List.replicate 4 (false, false), encAt := List.replicate 4 (some (rdy.mt - 1), none)}]).map st : List State).getD k State.reset
theorem witness_CorrectionFrameAndEncoders_1 :
    (∃ (s : State) (dt : Nat) (m : Mach) (n : Fin 16) (load : Instr) (e : Nat), m = s.at dt ∧ (load = Instr.corLoad dt n ∧ m.open? (8388608 + ↑n * 262144) = true ∧ m.pstate ≠ 2 ∨ load = Instr.corLoadExecute dt n ∧ m.fe[n].corPending = true) ∧ m.fe[n].active = false ∧ (m.poisoned (m.rd (R.FE_COR_BASE_LO ↑n) * 2 ^ (R.FE_COR_BASE_LO ↑n).lsb + m.rd (R.FE_COR_BASE_HI ↑n) * 2 ^ 32) 594505 = true → e = 4) ∧ (m.poisoned (m.rd (R.FE_COR_BASE_LO ↑n) * 2 ^ (R.FE_COR_BASE_LO ↑n).lsb + m.rd (R.FE_COR_BASE_HI ↑n) * 2 ^ 32) 594505 = false → m.rd (R.FE_COR_BASE_LO ↑n) * 2 ^ (R.FE_COR_BASE_LO ↑n).lsb + m.rd (R.FE_COR_BASE_HI ↑n) * 2 ^ 32 + 594504 < 34359738368 → m.le (m.rd (R.FE_COR_BASE_LO ↑n) * 2 ^ (R.FE_COR_BASE_LO ↑n).lsb + m.rd (R.FE_COR_BASE_HI ↑n) * 2 ^ 32) 4 ≠ 492243973 → e = 1) ∧ (m.poisoned (m.rd (R.FE_COR_BASE_LO ↑n) * 2 ^ (R.FE_COR_BASE_LO ↑n).lsb + m.rd (R.FE_COR_BASE_HI ↑n) * 2 ^ 32) 594505 = true ∨ m.rd (R.FE_COR_BASE_LO ↑n) * 2 ^ (R.FE_COR_BASE_LO ↑n).lsb + m.rd (R.FE_COR_BASE_HI ↑n) * 2 ^ 32 + 594504 < 34359738368 ∧ m.le (m.rd (R.FE_COR_BASE_LO ↑n) * 2 ^ (R.FE_COR_BASE_LO ↑n).lsb + m.rd (R.FE_COR_BASE_HI ↑n) * 2 ^ 32) 4 ≠ 492243973)) ∧
    (∃ (s : State) (dt : Nat) (m : Mach) (n : Fin 16), m = s.at dt ∧ (m.fe[n].corPending = false ∨ m.fe[n].active = true ∧ m.fe[n].atBarrier = false)) ∧
    (∃ (s : State) (dt : Nat) (m : Mach) (n : Fin 16), m = s.at dt ∧ (m.on (R.FE_FRM_CTRL_PEND ↑n) = false ∨ m.fe[n].active = true)) ∧
    (∃ (s : State) (dt : Nat) (m : Mach) (n : Fin 16) (i : Instr), m = s.at dt ∧ m.open? (8388608 + ↑n * 262144) = false ∧ (i = Instr.corLoad dt n ∨ i = Instr.frameLatch dt n)) ∧
    (∃ (s : State) (dt : Nat) (m : Mach) (n : Fin 16), m = s.at dt ∧ m.open? (8388608 + ↑n * 262144) = true ∧ m.pstate = 2) ∧
    (∃ (s : State) (dt : Nat) (m : Mach) (n : Fin 16), m = s.at dt ∧ m.open? (8388608 + ↑n * 262144) = true ∧ m.pstate = 2) ∧
    (∃ (s : State) (dt : Nat) (m : Mach) (n : Fin 16), m = s.at dt ∧ m.open? (8388608 + ↑n * 262144) = true ∧ m.pstate ≠ 2 ∧ m.fe[n].active = false) ∧
    (∃ (s : State) (dt : Nat) (m : Mach) (n : Fin 16), m = s.at dt ∧ m.open? (8388608 + ↑n * 262144) = true ∧ m.pstate ≠ 2 ∧ m.fe[n].active = true) :=
  ⟨⟨st { rdy with mem := { rdy.mem with poison := [0] } }, 0, _, 0, .corLoad 0 0, 4, rfl, by decide +kernel⟩,
    ⟨(sCorrectionFrameAndEncoders 0), (0), _, (0), rfl, by decide +kernel⟩,
    ⟨(sCorrectionFrameAndEncoders 0), (0), _, (0), rfl, by decide +kernel⟩,
    ⟨(sCorrectionFrameAndEncoders 20), (0), _, (0), (Instr.corLoad 0 0), rfl, by decide +kernel⟩,
    ⟨(sCorrectionFrameAndEncoders 21), (0), _, (0), rfl, by decide +kernel⟩,
    ⟨(sCorrectionFrameAndEncoders 21), (0), _, (0), rfl, by decide +kernel⟩,
    ⟨(sCorrectionFrameAndEncoders 0), (0), _, (0), rfl, by decide +kernel⟩,
    ⟨(sCorrectionFrameAndEncoders 2), (0), _, (0), rfl, by decide +kernel⟩⟩
theorem witness_CorrectionFrameAndEncoders_2 :
    (∃ (s : State) (dt : Nat) (m : Mach) (n : Fin 16), m = s.at dt ∧ m.open? (8388608 + ↑n * 262144) = true ∧ m.pstate ≠ 2 ∧ m.fe[n].active = true) ∧
    (∃ (s : State) (dt : Nat) (m : Mach) (n : Fin 16) (v : _), m = s.at dt ∧ m.fe[n].spl.heldRef = some v ∧ m.open? (8388608 + ↑n * 262144) = true ∧ m.pstate ≠ 2 ∧ m.on (R.FE_FRM_CTRL_PEND ↑n) = true ∧ m.fe[n].active = false) ∧
    (∃ (s : State) (dt : Nat) (m : Mach) (k : Fin 4) (old : Bool × Bool) (a : Bool) (b : Bool), m = s.at dt ∧ m.enc.length = 4 ∧ m.enc.getD ↑k (false, false) = old ∧ m.rd (R.AXE_ENC_CTRL_MODE ↑k) = 0 ∧ m.encQualified k a b = true) ∧
    (∃ (s : State) (dt : Nat) (m : Mach) (k : Fin 4) (old : Bool × Bool) (fwd : Bool), m = s.at dt ∧ m.enc.length = 4 ∧ m.enc.getD ↑k (false, false) = old ∧ m.rd (R.AXE_ENC_CTRL_MODE ↑k) = 1 ∧ m.encQualified k (if fwd = true then !old.2 else old.2) (if fwd = true then old.1 else !old.1) = true) ∧
    (∃ (s : State) (dt : Nat) (m : Mach) (k : Fin 4) (old : Bool × Bool), m = s.at dt ∧ m.enc.length = 4 ∧ m.enc.getD ↑k (false, false) = old ∧ m.rd (R.AXE_ENC_CTRL_MODE ↑k) = 1 ∧ (∀ (n : Fin 16), m.fe[n].lasing m.mt = false) ∧ (m.encQualified k (!old.1) !old.2) = true ∧ m.rd (R.AXE_ENC_ERR ↑k) + 1 < 2 ^ 32) ∧
    (∃ (s : State) (dt : Nat) (m : Mach) (k : Fin 4) (old : Bool × Bool) (b : Bool), m = s.at dt ∧ m.enc.length = 4 ∧ m.enc.getD ↑k (false, false) = old ∧ m.rd (R.AXE_ENC_CTRL_MODE ↑k) = 2 ∧ old.1 = false ∧ m.encQualified k true b = true) ∧
    (∃ (s : State) (dt : Nat) (m : Mach) (k : Fin 4) (old : Bool × Bool) (a : Bool) (b : Bool), m = s.at dt ∧ m.enc.length = 4 ∧ m.enc.getD ↑k (false, false) = old ∧ m.encQualified k a b = false) :=
  ⟨⟨(sCorrectionFrameAndEncoders 2), (0), _, (0), rfl, by decide +kernel⟩,
    ⟨(sCorrectionFrameAndEncoders 6), (0), _, (0), _, rfl, rfl, by decide +kernel⟩,
    ⟨(sCorrectionFrameAndEncoders 0), (0), _, (0), ((false, false)), (false), (false), rfl, by decide +kernel⟩,
    ⟨(sCorrectionFrameAndEncoders 8), (0), _, (0), ((false, true)), (false), rfl, by decide +kernel⟩,
    ⟨(sCorrectionFrameAndEncoders 8), (0), _, (0), ((false, true)), rfl, by decide +kernel⟩,
    ⟨(sCorrectionFrameAndEncoders 9), (0), _, (0), ((false, true)), (false), rfl, by decide +kernel⟩,
    ⟨(sCorrectionFrameAndEncoders 22), (0), _, (0), ((false, false)), (true), (false), rfl, by decide +kernel⟩⟩
end
end W13

namespace W14
section
def s0 : List Mach := ([0, 15] : List (Fin 16)).flatMap fun (n : Fin 16) => [rdy, up.wrs [(R.FE_FDL_CTRL_EN n, 1)], (armed up).wrs [(R.FE_FDL_CTRL_EN n, 1), (R.FE_FDL_CTRL_RETEN n, 1), (R.FE_FDL_ZERO_ZX n, 0x8000)], 
  { (armed up).wrs [(R.FE_FDL_CTRL_EN n, 1)] with mt := 4000080},
  { (armed up).wrs [(R.FE_FDL_CTRL_EN n, 1), (R.FE_FDL_CTRL_RETEN n, 1), (R.FE_FDL_STATUS_BADRUN n, 2)] with mt := 4000080, fe := (armed up).fe.set n { (armed up).fe[n] with spl := { (armed up).fe[n].spl with lastReturn := some (4000080 - 1280), sampleAt := some 4000000 } } }]
def gains (m : Mach) : Mach := m.wrs ((List.range 96).flatMap fun k => [(R.AFE_ADC_GAIN k, 0x400000), (R.AFE_ADC_OFFS k, 0)])
def sDeflectorLinkAndSamples (k : Nat) : State := ((rdy :: s0 ++ s0.map fun m => m.modField 0 fun f => {f with spl := {f.spl with lastReturn := some (m.mt - 5)}}).map st : List State).getD k State.reset
theorem witness_DeflectorLinkAndSamples_1 :
    (∃ (s : State) (dt : Nat) (m : Mach) (n : Fin 16) (gx : Code) (gy : Code) (gz : Code) (lpd : Code) (avail : Nat), m = s.at dt ∧ m.mt % 400 = 0) ∧
    (∃ (s : State) (dt : Nat) (m : Mach) (n : Fin 16), m = s.at dt ∧ (m.mt % 80 ≠ 0 ∨ m.rd (R.FE_FDL_CTRL_EN ↑n) = 0 ∨ m.mode = modeBoot)) ∧
    (∃ (s : State) (dt : Nat) (m : Mach) (n : Fin 16) (ack : Byte) (stat : Byte), m = s.at dt) ∧
    (∃ (s : State) (dt : Nat) (m : Mach) (n : Fin 16) (ack : Byte) (stat : Byte), m = s.at dt ∧ (m.rd (R.FE_FDL_CTRL_RETEN ↑n) = 0 ∨ BitVec.toNat stat % 16 ≤ 4 ∧ (BitVec.getLsbD stat 4 = true ∨ m.mode ≠ modeArmed))) ∧
    (∃ (s : State) (dt : Nat) (m : Mach) (n : Fin 16) (ack : Byte) (stat : Byte), m = s.at dt ∧ m.rd (R.FE_FDL_CTRL_RETEN ↑n) = 1 ∧ m.inFs ↑n = false ∧ (4 < BitVec.toNat stat % 16 ∨ BitVec.getLsbD stat 4 = false ∧ m.mode = modeArmed)) ∧
    (∃ (s : State) (dt : Nat) (m : Mach) (n : Fin 16), m = s.at dt ∧ (∀ (t0 : Nat), m.fe[n].spl.lastReturn = some t0 → t0 + 1280 ≤ m.mt) ∧ (m.rd (R.FE_FDL_CTRL_EN ↑n) = 0 ∨ m.rd (R.FE_FDL_CTRL_RETEN ↑n) = 0)) ∧
    (∃ (s : State) (dt : Nat) (m : Mach) (n : Fin 16) (gx : Code) (gy : Code) (gz : Code) (lpd : Code) (avail : Nat), m = s.at dt ∧ m.mt % 400 ≠ 0) ∧
    (∃ (s : State) (dt : Nat) (m : Mach) (n : Fin 16), m = s.at dt ∧ m.mt % 80 = 0 ∧ m.rd (R.FE_FDL_CTRL_EN ↑n) = 1 ∧ m.mode ≠ modeBoot ∧ m.outSafe ↑n = true) :=
  ⟨⟨(sDeflectorLinkAndSamples 0), (0), _, (0), (0x00000#20), (0x00000#20), (0x00000#20), (0x00000#20), (0), rfl, by decide +kernel⟩,
    ⟨(sDeflectorLinkAndSamples 0), (0), _, (0), rfl, by decide +kernel⟩,
    ⟨(sDeflectorLinkAndSamples 0), (0), _, (0), (0x00#8), (0x00#8), rfl⟩,
    ⟨(sDeflectorLinkAndSamples 0), (0), _, (0), (0x00#8), (0x00#8), rfl, by decide +kernel⟩,
    ⟨(sDeflectorLinkAndSamples 0), (0), _, (0), (0x00#8), (0x15#8), rfl, by decide +kernel⟩,
    ⟨(sDeflectorLinkAndSamples 0), (0), _, (0), rfl, by decide +kernel⟩,
    ⟨(sDeflectorLinkAndSamples 0), (401), _, (0), (0x00000#20), (0x00000#20), (0x00000#20), (0x00000#20), (0), rfl, by decide +kernel⟩,
    ⟨(sDeflectorLinkAndSamples 2), (0), _, (0), rfl, by decide +kernel⟩⟩
theorem witness_DeflectorLinkAndSamples_2 :
    (∃ (s : State) (dt : Nat) (m : Mach) (n : Fin 16), m = s.at dt ∧ (∀ (t0 : Nat), m.fe[n].spl.lastReturn = some t0 → t0 + 1280 ≤ m.mt) ∧ m.rd (R.FE_FDL_CTRL_EN ↑n) = 1 ∧ m.rd (R.FE_FDL_CTRL_RETEN ↑n) = 1 ∧ m.inFs ↑n = false) ∧
    (∃ (s : State) (dt : Nat) (m : Mach) (n : Fin 16), m = s.at dt ∧ m.mt % 80 = 0 ∧ m.rd (R.FE_FDL_CTRL_EN ↑n) = 1 ∧ m.mode ≠ modeBoot ∧ m.mt % 2000 ≠ 0 ∧ m.outSafe ↑n = false ∧ m.fe[n].lasing m.mt = false ∧ m.sampleOld n = false ∧ (m.fe[n].live m.mt).segOn m.mt = none ∧ (∀ (c : CorTable), m.fe[n].cor = some c → c.inside (m.frameBed n (m.mt + min (m.rd (R.FE_FDL_DLAT ↑n)) 8000)).1 (m.frameBed n (m.mt + min (m.rd (R.FE_FDL_DLAT ↑n)) 8000)).2 = true)) ∧
    (∃ (s : State) (dt : Nat) (m : Mach) (n : Fin 16), m = s.at dt ∧ (∃ t0, m.fe[n].spl.lastReturn = some t0 ∧ m.mt < t0 + 1280)) :=
  ⟨⟨(sDeflectorLinkAndSamples 2), (0), _, (0), rfl, by decide +kernel⟩,
    ⟨(sDeflectorLinkAndSamples 5), (0), _, (0), rfl, by decide +kernel⟩,
    ⟨(sDeflectorLinkAndSamples 11), (0), _, (0), rfl, by decide +kernel⟩⟩
end
end W14

namespace W15
section
def ks : List (Fin 160) := [0, 159]
def ps (k : Fin 160) (m : Mach) : Mach := m.wrs [(R.CE_PROG k 0, 3 * 2^26 + 16 * 2^16 + 1), (R.CE_PROG k 1, 2^26), (R.CE_SLOT_CFG_PER k, 1), (R.CE_SLOT_LAT_L k, 2000), (R.CE_SLOT_CFG_CORE k, 3), (R.CE_SLOT_CFG_K k, 2), (R.CE_SLOT_CFG_FIELD k, 0)]
def s0 : List Mach := ks.flatMap fun k => [(ps k rdy).wr R.CE_BLK_XSTAT_UNLOCKED 1, ps k rdy, rdy] ++ [ps k (rdy.wrs [(R.CE_SLOT_STATUS_STATE k, 1), (R.CE_SLOT_LIB k, 3), (R.CE_SLOT_TUNE k 0, 100)]), (ps k rdy).wrs [(R.CE_SLOT_STATUS_SWPEND k, 1), (R.CE_SLOT_LIB k, 1)], (ps k rdy).wrs [(R.CE_SLOT_LIB k, 3), (R.CE_SLOT_STATUS_ACTBANK k, 1)], (ps k rdy).wrs [(R.CE_SLOT_LIB k, 4)], (ps k rdy).wrs [(R.CE_SLOT_LIB k, 2)],
  (ps k (rdy.wrs [(R.CE_SLOT_STATUS_STATE k, 1)])).setSlot k { rdy.slot[k] with tuneVals := some [1,2,3] }]
def sSlotCommands (k : Nat) : State := ((s0 ++ (s0.take 4).map (·.wr R.PWR_PSTATE_STATE 2)).map st : List State).getD k State.reset
theorem witness_SlotCommands_1 :
    (∃ (s : State) (dt : Nat) (m : Mach) (k : Fin 160), m = s.at dt ∧ m.open? 4194304 = true ∧ (m.slot[k].tuneVals = none ∨ m.rd (R.CE_SLOT_STATUS_SWPEND ↑k) = 1)) ∧
    (∃ (s : State) (dt : Nat) (m : Mach) (k : Fin 160), m = s.at dt ∧ m.open? 4194304 = true ∧ m.pstate ≠ 2 ∧ m.rd (R.CE_SLOT_STATUS_STATE ↑k) = 0 ∧ m.startErr k = 0) ∧
    (∃ (s : State) (dt : Nat) (m : Mach) (k : Fin 160), m = s.at dt ∧ m.open? 4194304 = true ∧ m.pstate ≠ 2 ∧ m.rd (R.CE_SLOT_STATUS_STATE ↑k) = 0) ∧
    (∃ (s : State) (dt : Nat) (m : Mach) (k : Fin 160), m = s.at dt ∧ m.open? 4194304 = true ∧ m.pstate ≠ 2 ∧ m.rd (R.CE_SLOT_STATUS_STATE ↑k) = 0 ∧ m.rd (R.CE_SLOT_STATUS_SWPEND ↑k) = 0) ∧
    (∃ (s : State) (dt : Nat) (m : Mach) (k : Fin 160) (a : BitVec 24) (v : Word), m = s.at dt ∧ m.open? 4194304 = true ∧ m.pstate ≠ 2 ∧ m.rd (R.CE_SLOT_STATUS_STATE ↑k) = 0 ∧ a.toNat % 4 = 0 ∧ 1048576 + ↑k * 1024 ≤ a.toNat ∧ a.toNat < 1049600 + ↑k * 1024 ∧ m.unlocked 4194304 = true) ∧
    (∃ (s : State) (dt : Nat) (m : Mach) (k : Fin 160), m = s.at dt ∧ m.open? 4194304 = true ∧ m.pstate ≠ 2 ∧ tuneOk (m.rd (R.CE_SLOT_LIB ↑k)) (List.map (fun i => m.rd (R.CE_SLOT_TUNE (↑k) i)) (List.range 8)) = false) ∧
    (∃ (s : State) (dt : Nat) (m : Mach) (k : Fin 160), m = s.at dt ∧ m.open? 4194304 = true ∧ m.pstate ≠ 2 ∧ m.rd (R.CE_SLOT_STATUS_STATE ↑k) = 0 ∧ m.startErr k ≠ 0) ∧
    (∃ (s : State) (dt : Nat) (m : Mach) (k : Fin 160) (a : BitVec 24) (v : Word), m = s.at dt ∧ m.open? 4194304 = true ∧ m.pstate ≠ 2 ∧ m.rd (R.CE_SLOT_STATUS_STATE ↑k) = 0 ∧ a.toNat % 4 = 0 ∧ 1048576 + ↑k * 1024 ≤ a.toNat ∧ a.toNat < 1049600 + ↑k * 1024 ∧ m.unlocked 4194304 = false ∧ v ≠ m.word (4194304 + a.toNat)) :=
  ⟨⟨(sSlotCommands 0), (0), _, (0), rfl, by decide +kernel⟩,
    ⟨(sSlotCommands 0), (0), _, (0), rfl, by decide +kernel⟩,
    ⟨(sSlotCommands 0), (0), _, (0), rfl, by decide +kernel⟩,
    ⟨(sSlotCommands 0), (0), _, (0), rfl, by decide +kernel⟩,
    ⟨(sSlotCommands 0), (0), _, (0), (0x100000#24), (0x00000000#32), rfl, by decide +kernel⟩,
    ⟨(sSlotCommands 0), (0), _, (0), rfl, by decide +kernel⟩,
    ⟨(sSlotCommands 0), (0), _, (159), rfl, by decide +kernel⟩,
    ⟨(sSlotCommands 1), (0), _, (0), (0x100000#24), (0x00000000#32), rfl, by decide +kernel⟩⟩
theorem witness_SlotCommands_2 :
    (∃ (s : State) (dt : Nat) (m : Mach) (k : Fin 160), m = s.at dt ∧ m.open? 4194304 = true ∧ m.pstate ≠ 2 ∧ m.rd (R.CE_SLOT_STATUS_STATE ↑k) = 1) ∧
    (∃ (s : State) (dt : Nat) (m : Mach) (k : Fin 160), m = s.at dt ∧ m.open? 4194304 = true ∧ m.pstate ≠ 2 ∧ m.rd (R.CE_SLOT_STATUS_STATE ↑k) = 1) ∧
    (∃ (s : State) (dt : Nat) (m : Mach) (k : Fin 160), m = s.at dt ∧ m.open? 4194304 = true ∧ m.pstate ≠ 2 ∧ m.rd (R.CE_SLOT_STATUS_STATE ↑k) = 1) ∧
    (∃ (s : State) (dt : Nat) (m : Mach) (k : Fin 160), m = s.at dt ∧ m.open? 4194304 = true ∧ m.pstate ≠ 2 ∧ m.rd (R.CE_SLOT_STATUS_STATE ↑k) = 1 ∧ m.rd (R.CE_SLOT_STATUS_SWPEND ↑k) = 0) ∧
    (∃ (s : State) (dt : Nat) (m : Mach) (k : Fin 160) (a : BitVec 24) (v : Word), m = s.at dt ∧ m.open? 4194304 = true ∧ m.pstate ≠ 2 ∧ m.rd (R.CE_SLOT_STATUS_STATE ↑k) = 1 ∧ 1048576 + ↑k * 1024 ≤ a.toNat ∧ a.toNat < 1049600 + ↑k * 1024) ∧
    (∃ (s : State) (dt : Nat) (m : Mach) (k : Fin 160), m = s.at dt ∧ m.open? 4194304 = true ∧ m.pstate ≠ 2 ∧ tuneOk (m.rd (R.CE_SLOT_LIB ↑k)) (List.map (fun i => m.rd (R.CE_SLOT_TUNE (↑k) i)) (List.range 8)) = true) ∧
    (∃ (s : State) (dt : Nat) (m : Mach) (k : Fin 160), m = s.at dt ∧ m.open? 4194304 = true ∧ m.pstate ≠ 2 ∧ m.rd (R.CE_SLOT_STATUS_STATE ↑k) = 0 ∧ 1 ≤ m.rd (R.CE_SLOT_LIB ↑k) ∧ m.rd (R.CE_SLOT_LIB ↑k) ≤ 4) ∧
    (∃ (s : State) (dt : Nat) (m : Mach) (k : Fin 160), m = s.at dt ∧ m.open? 4194304 = true ∧ m.pstate ≠ 2 ∧ m.rd (R.CE_SLOT_STATUS_SWPEND ↑k) = 1) :=
  ⟨⟨(sSlotCommands 3), (0), _, (0), rfl, by decide +kernel⟩,
    ⟨(sSlotCommands 3), (0), _, (0), rfl, by decide +kernel⟩,
    ⟨(sSlotCommands 3), (0), _, (0), rfl, by decide +kernel⟩,
    ⟨(sSlotCommands 3), (0), _, (0), rfl, by decide +kernel⟩,
    ⟨(sSlotCommands 3), (0), _, (0), (0x100000#24), (0x00000000#32), rfl, by decide +kernel⟩,
    ⟨(sSlotCommands 3), (0), _, (0), rfl, by decide +kernel⟩,
    ⟨(sSlotCommands 4), (0), _, (0), rfl, by decide +kernel⟩,
    ⟨(sSlotCommands 4), (0), _, (0), rfl, by decide +kernel⟩⟩
theorem witness_SlotCommands_3 :
    (∃ (s : State) (dt : Nat) (m : Mach) (k : Fin 160) (v : _), m = s.at dt ∧ m.slot[k].tuneVals = some v ∧ m.open? 4194304 = true ∧ m.rd (R.CE_SLOT_STATUS_SWPEND ↑k) = 0 ∧ m.slot[k].tune.length = 2 ∧ m.rd (R.CE_SLOT_STATUS_STATE ↑k) = 1) ∧
    (∃ (s : State) (dt : Nat) (m : Mach) (k : Fin 160) (i : Instr) (a : Nat) (v : Word), m = s.at dt ∧ m.open? 4194304 = true ∧ (i = Instr.slotStart dt k ∧ a = (R.CE_SLOT_CMD ↑k).a ∧ v = 1 ∨ i = Instr.slotStop dt k ∧ a = (R.CE_SLOT_CMD ↑k).a ∧ v = 2 ∨ i = Instr.loadlib dt k ∧ a = (R.CE_SLOT_CMD ↑k).a ∧ v = 3 ∨ i = Instr.swapRequest dt k ∧ a = (R.CE_SLOT_SWAP_REQ ↑k).a ∧ v = 1 ∨ i = Instr.tuneApply dt k ∧ a = (R.CE_SLOT_SWAP_APPLY ↑k).a ∧ v = 2) ∧ m.pstate = 2) :=
  ⟨⟨(sSlotCommands 8), (0), _, (0), _, rfl, rfl, by decide +kernel⟩,
    ⟨(sSlotCommands 18), (0), _, (0), (Instr.slotStart 0 0), (4198408), (0x00000001#32), rfl, by decide +kernel⟩⟩
end
end W15

namespace W16
section
def ks : List (Fin 160) := [0, 159]
def ps (k : Fin 160) (m : Mach) : Mach := m.wrs [(R.CE_PROG k 0, 3 * 2^26 + 16 * 2^16 + 1), (R.CE_PROG k 1, 2^26), (R.CE_SLOT_CFG_PER k, 1), (R.CE_SLOT_LAT_L k, 2000), (R.CE_SLOT_CFG_CORE k, 3), (R.CE_SLOT_CFG_K k, 2), (R.CE_SLOT_CFG_FIELD k, if k.val = 0 then 0 else 15), (R.CE_SLOT_STATUS_STATE k, 1)]
def fsl (k : Fin 160) (m : Mach) (g : Slot → Slot) : Mach := m.setSlot k (g m.slot[k])
def ex (tk r d : Nat) : ExecRec := ⟨tk, r, d, []⟩
def s0 : List Mach := ks.flatMap fun k => let b := ps k (armed up); [b, fsl k b fun s => { s with stopAt := some 3}, fsl k b fun s => { s with lastTk := some b.mt }, fsl k b fun s => {s with exec := [ex b.mt (b.mt) (b.mt+40)], missed := true}, fsl k b fun s => {s with swapReq := some (b.mt - 400)}, fsl k b fun s => {s with exec := [ex (b.mt-200) (b.mt-100) (b.mt+30)]},
   fsl k b fun s => {s with exec := [ex (b.mt-100) (b.mt) (b.mt+39), ex b.mt b.mt (b.mt + 4000)]}, fsl k b fun s => {s with exec := [ex (b.mt-100) (b.mt) (b.mt+2000)]},
   fsl k (b.wr (R.CE_SLOT_STATUS_CONSEC k) 1) fun s => {s with exec := [ex (b.mt-100) (b.mt) (b.mt+30)]}, fsl k (b.wrs [(R.CE_SLOT_STATUS_CONSEC k, 7), (R.CE_SLOT_STATUS_OVR k, 1)]) fun s => {s with exec := [ex (b.mt-100) (b.mt) (b.mt+500)]}]
def sSlotSamplesAndExecutions (k : Nat) : State := (s0.map st : List State).getD k State.reset
theorem witness_SlotSamplesAndExecutions_1 :
    (∃ (s : State) (dt : Nat) (m : Mach) (k : Fin 160), m = s.at dt ∧ m.sampleDue k = true ∧ m.slot[k].stopAt = none ∧ m.slot[k].swapReq = none) ∧
    (∃ (s : State) (dt : Nat) (m : Mach) (k : Fin 160), m = s.at dt ∧ (m.slot[k].exec = [] ∨ m.coreRuns (m.rd (R.CE_SLOT_CFG_CORE ↑k)) ≠ some k)) ∧
    (∃ (s : State) (dt : Nat) (m : Mach) (k : Fin 160), m = s.at dt ∧ (m.slot[k].exec = [] ∨ m.coreRuns (m.rd (R.CE_SLOT_CFG_CORE ↑k)) = some k ∨ ∃ e, m.slot[k].exec.head? = some e ∧ m.mt + 40 < e.due)) ∧
    (∃ (s : State) (dt : Nat) (m : Mach) (k : Fin 160), m = s.at dt ∧ m.sampleDue k = false) ∧
    (∃ (s : State) (dt : Nat) (m : Mach) (k : Fin 160) (n : Fin 16), m = s.at dt ∧ m.sampleDue k = true ∧ m.slot[k].stopAt.isSome = true ∧ m.slot[k].swapReq = none ∧ m.slotField ↑k = ↑n) ∧
    (∃ (s : State) (dt : Nat) (m : Mach) (k : Fin 160) (e : _) (rest : _), m = s.at dt ∧ m.slot[k].exec = e :: rest ∧ m.coreRuns (m.rd (R.CE_SLOT_CFG_CORE ↑k)) = some k ∧ m.mt + 40 ≤ e.due ∧ m.outViolates k e.due = false) ∧
    (∃ (s : State) (dt : Nat) (m : Mach) (k : Fin 160) (q : _), m = s.at dt ∧ m.slot[k].swapReq = some q ∧ m.sampleDue k = true ∧ q + 400 ≤ m.mt) ∧
    (∃ (s : State) (dt : Nat) (m : Mach) (k : Fin 160) (e : _) (rest : _), m = s.at dt ∧ m.slot[k].exec = e :: rest ∧ m.coreRuns (m.rd (R.CE_SLOT_CFG_CORE ↑k)) = some k ∧ (e.due < m.mt + 40 ∨ m.outViolates k e.due = true) ∧ m.rd (R.CE_SLOT_STATUS_CONSEC ↑k) + 1 < max 1 (m.rd (R.CE_SLOT_CFG_K ↑k))) :=
  ⟨⟨(sSlotSamplesAndExecutions 0), (0), _, (0), rfl, by decide +kernel⟩,
    ⟨(sSlotSamplesAndExecutions 0), (0), _, (0), rfl, by decide +kernel⟩,
    ⟨(sSlotSamplesAndExecutions 0), (0), _, (0), rfl, by decide +kernel⟩,
    ⟨(sSlotSamplesAndExecutions 0), (0), _, (159), rfl, by decide +kernel⟩,
    ⟨(sSlotSamplesAndExecutions 1), (0), _, (0), (0), rfl, by decide +kernel⟩,
    ⟨(sSlotSamplesAndExecutions 3), (0), _, (0), _, _, rfl, rfl, by decide +kernel⟩,
    ⟨(sSlotSamplesAndExecutions 4), (0), _, (0), _, rfl, rfl, by decide +kernel⟩,
    ⟨(sSlotSamplesAndExecutions 5), (0), _, (0), _, _, rfl, rfl, by decide +kernel⟩⟩
theorem witness_SlotSamplesAndExecutions_2 :
    (∃ (s : State) (dt : Nat) (m : Mach) (k : Fin 160) (e : _) (rest : _), m = s.at dt ∧ m.slot[k].exec = e :: rest ∧ e.due ≤ m.mt + 40 ∧ m.coreRuns (m.rd (R.CE_SLOT_CFG_CORE ↑k)) ≠ some k ∧ m.rd (R.CE_SLOT_STATUS_CONSEC ↑k) + 1 < max 1 (m.rd (R.CE_SLOT_CFG_K ↑k))) ∧
    (∃ (s : State) (dt : Nat) (m : Mach) (k : Fin 160) (e : _) (rest : _) (n : Fin 16), m = s.at dt ∧ m.slot[k].exec = e :: rest ∧ e.due ≤ m.mt + 40 ∧ m.coreRuns (m.rd (R.CE_SLOT_CFG_CORE ↑k)) ≠ some k ∧ m.slotField ↑k = ↑n ∧ m.inFs ↑n = false ∧ m.rd (R.CE_SLOT_STATUS_CONSEC ↑k) + 1 = max 1 (m.rd (R.CE_SLOT_CFG_K ↑k))) :=
  ⟨⟨(sSlotSamplesAndExecutions 6), (0), _, (0), _, _, rfl, rfl, by decide +kernel⟩,
    ⟨(sSlotSamplesAndExecutions 8), (0), _, (0), _, _, (0), rfl, rfl, by decide +kernel⟩⟩
def sOnTimeEndsARunOfMisses (k : Nat) : State := (s0.map st : List State).getD k State.reset
theorem witness_OnTimeEndsARunOfMisses :
    (∃ (s : State) (dt : Nat) (m : Mach) (k : Fin 160) (e : _) (rest : _), m = s.at dt ∧ m.slot[k].exec = e :: rest ∧ m.coreRuns (m.rd (R.CE_SLOT_CFG_CORE ↑k)) = some k ∧ m.mt + 40 ≤ e.due ∧ m.outViolates k e.due = false) ∧
    (∃ (s : State) (dt : Nat) (m : Mach) (k : Fin 160) (e : _) (rest : _), m = s.at dt ∧ m.slot[k].exec = e :: rest ∧ m.coreRuns (m.rd (R.CE_SLOT_CFG_CORE ↑k)) = some k ∧ e.due < m.mt + 40) ∧
    (∃ (s : State) (dt : Nat) (m : Mach) (k : Fin 160) (e : _) (rest : _), m = s.at dt ∧ m.slot[k].exec = e :: rest ∧ m.coreRuns (m.rd (R.CE_SLOT_CFG_CORE ↑k)) ≠ some k ∧ e.due ≤ m.mt + 40) :=
  ⟨⟨(sOnTimeEndsARunOfMisses 3), (0), _, (0), _, _, rfl, rfl, by decide +kernel⟩,
    ⟨(sOnTimeEndsARunOfMisses 5), (0), _, (0), _, _, rfl, rfl, by decide +kernel⟩,
    ⟨(sOnTimeEndsARunOfMisses 6), (0), _, (0), _, _, rfl, rfl, by decide +kernel⟩⟩
end
end W16

namespace W17
section
def lc (n : Fin 16) (m : Mach) (g : Lch → Lch) : Mach := m.modField n fun f => { f with lch := g f.lch }
def s0 : List Mach := ([0,15] : List (Fin 16)).flatMap fun n => let b := armed up; [b, up, lc n b fun l => { l with facts := [(b.mt - 400, 32768), (b.mt - 4000, 16384)] }, onFront (.fe n 3) (b.wr (R.FE_LCH_STATUS_PEND n) 1), b.wrs [(R.FE_LCH_STATUS_PEND n, 1), (R.FE_LCH_FS n, 5), (R.FE_LCH_CTRL_LFEN n, 1)],
  b.wrs [(R.FE_LCH_CTRL_PMODE n, 1)], lc n b fun l => { l with rdy := true, gintHist := [(0, true)] }, lc n (b.wrs [(R.FE_LCH_PDCHK_PDN n, 1)]) fun l => { l with rdy := true, gintHist := [(0, true)] },
  lc n (b.wrs [(R.FE_LCH_PDCHK_PDN n, 1),(R.FE_LCH_PDCHK_PDMIN n, 0)]) (fun l => { l with rdy := true, gintHist := [(0, true)] }), { lc n (b.wrs [(R.FE_LCH_PDCHK_PDN n, 1),(R.FE_LCH_PDCHK_PDMIN n, 0)]) (fun l => { l with rdy := true, gintHist := [(0, true)] }) with pins := b.pins.set n { b.pins[n] with lpd := 5 } }, { lc n (b.wrs [(R.FE_LCH_PDCHK_PDN n, 3),(R.FE_LCH_PDCHK_PDMIN n, 0)]) (fun l => { l with rdy := true, gintHist := [(0, true)] }) with pins := b.pins.set n { b.pins[n] with lpd := 5 } }, { lc n b fun l => { l with facts := [(b.mt - 400, 32768), (b.mt - 4000, 16384)] } with mt := 4000001}]
def sLaserChannelCommands (k : Nat) : State := ((s0 ++ [lc 0 (rdy.wr (R.FE_LCH_QUAL 0) 100) fun l => {l with rdyAt := some (rdy.mt - 5), almAt := some (rdy.mt - 5)}]).map st : List State).getD k State.reset
theorem witness_LaserChannelCommands_1 :
    (∃ (s : State) (dt : Nat) (m : Mach) (n : Fin 16), m = s.at dt ∧ m.mt % 400 = 0 ∧ m.rdf (R.FE_LCH_CTRL_PMODE ↑n) = 0) ∧
    (∃ (s : State) (dt : Nat) (m : Mach) (n : Fin 16), m = s.at dt ∧ (m.on (R.FE_LCH_STATUS_PEND ↑n) = false ∨ m.fe[n].active = true)) ∧
    (∃ (s : State) (dt : Nat) (m : Mach) (n : Fin 16), m = s.at dt ∧ m.almQualified n = true) ∧
    (∃ (s : State) (dt : Nat) (m : Mach) (n : Fin 16), m = s.at dt ∧ m.almQualified n = true) ∧
    (∃ (s : State) (dt : Nat) (m : Mach) (n : Fin 16) (a : Bool), m = s.at dt ∧ m.rdyQualified n = true ∧ (m.fe[n].lch.rdy = false ∨ a = true ∨ m.fe[n].lch.gintAt' m.mt = false)) ∧
    (∃ (s : State) (dt : Nat) (m : Mach) (n : Fin 16), m = s.at dt ∧ m.pdChecked n = false) ∧
    (∃ (s : State) (dt : Nat) (m : Mach) (n : Fin 16), m = s.at dt ∧ (m.mt % 400 ≠ 0 ∨ m.rdf (R.FE_LCH_CTRL_PMODE ↑n) = 1)) ∧
    (∃ (s : State) (dt : Nat) (m : Mach) (n : Fin 16), m = s.at dt ∧ m.on (R.FE_LCH_STATUS_PEND ↑n) = true ∧ m.fe[n].active = false) :=
  ⟨⟨(sLaserChannelCommands 0), (0), _, (0), rfl, by decide +kernel⟩,
    ⟨(sLaserChannelCommands 0), (0), _, (0), rfl, by decide +kernel⟩,
    ⟨(sLaserChannelCommands 0), (0), _, (0), rfl, by decide +kernel⟩,
    ⟨(sLaserChannelCommands 0), (0), _, (0), rfl, by decide +kernel⟩,
    ⟨(sLaserChannelCommands 0), (0), _, (0), (false), rfl, by decide +kernel⟩,
    ⟨(sLaserChannelCommands 0), (0), _, (0), rfl, by decide +kernel⟩,
    ⟨(sLaserChannelCommands 0), (32768), _, (0), rfl, by decide +kernel⟩,
    ⟨(sLaserChannelCommands 4), (0), _, (0), rfl, by decide +kernel⟩⟩
theorem witness_LaserChannelCommands_2 :
    (∃ (s : State) (dt : Nat) (m : Mach) (n : Fin 16), m = s.at dt ∧ m.rdyQualified n = true ∧ m.fe[n].lch.rdy = true ∧ m.fe[n].lch.gintAt' m.mt = true ∧ m.inFs ↑n = false) ∧
    (∃ (s : State) (dt : Nat) (m : Mach) (n : Fin 16), m = s.at dt ∧ m.pdChecked n = true ∧ m.pdFails n = false) ∧
    (∃ (s : State) (dt : Nat) (m : Mach) (n : Fin 16), m = s.at dt ∧ m.pdChecked n = true ∧ m.pdFails n = true ∧ m.rd (R.FE_LCH_STATUS_PDCNT ↑n) + 1 = m.rd (R.FE_LCH_PDCHK_PDN ↑n) ∧ m.inFs ↑n = false) ∧
    (∃ (s : State) (dt : Nat) (m : Mach) (n : Fin 16), m = s.at dt ∧ m.pdChecked n = true ∧ m.pdFails n = true ∧ m.rd (R.FE_LCH_STATUS_PDCNT ↑n) + 1 ≠ m.rd (R.FE_LCH_PDCHK_PDN ↑n)) ∧
    (∃ (s : State) (dt : Nat) (m : Mach) (n : Fin 16), m = s.at dt ∧ m.almQualified n = false) ∧
    (∃ (s : State) (dt : Nat) (m : Mach) (n : Fin 16), m = s.at dt ∧ m.almQualified n = false) ∧
    (∃ (s : State) (dt : Nat) (m : Mach) (n : Fin 16) (a : Bool), m = s.at dt ∧ m.rdyQualified n = false) :=
  ⟨⟨(sLaserChannelCommands 6), (0), _, (0), rfl, by decide +kernel⟩,
    ⟨(sLaserChannelCommands 8), (0), _, (0), rfl, by decide +kernel⟩,
    ⟨(sLaserChannelCommands 9), (0), _, (0), rfl, by decide +kernel⟩,
    ⟨(sLaserChannelCommands 10), (0), _, (0), rfl, by decide +kernel⟩,
    ⟨(sLaserChannelCommands 24), (0), _, (0), rfl, by decide +kernel⟩,
    ⟨(sLaserChannelCommands 24), (0), _, (0), rfl, by decide +kernel⟩,
    ⟨(sLaserChannelCommands 24), (0), _, (0), (false), rfl, by decide +kernel⟩⟩
end
end W17

namespace W18
section
def h0 (n : Fin 16) (m : Mach) (k3 : Bool) (dep : Bool) : Mach := (m.wrs [(R.HLD_CTRL, 1), (R.HLD_GEOM_NX, 8), (R.HLD_GEOM_NY, 8), (R.HLD_CSHIFT, 8), (R.FE_HLD_DSCALE n, 0x8000), (R.HLD_DECAY, 0xF000)]).modField n fun f =>
  { f with lch := { f.lch with gintHist := [(0, true)], coutHist := [(0, 400000)], pinHist := [(0,true)] }, ctx := f.ctx.set f.lastOwner { f.ctx[f.lastOwner] with ret := { f.ctx[f.lastOwner].ret with k3 := k3, dep := dep } }, spotX := 700, spotY := 800, restX := 700, restY := 800 }
def ldg : Ledger := { base := 0, cells := [(2 + 2048*3, cellWord 65535 (coarse rdy.mt)), (4, 0x12345678), (2049, 0x1FFFF), (4096, 7)], depAt := 0, before := [] }
def org (x y : Int) (m : Mach) : Mach := m.wrs [(R.HLD_ORGX, unsigned 32 x), (R.HLD_ORGY, unsigned 32 y)]
def s0 : List Mach := ([0,15] : List (Fin 16)).flatMap fun n => [h0 n rdy false false, h0 n rdy false true, h0 n rdy true true, {h0 n rdy false true with ledger := ldg}, {h0 n rdy true true with ledger := ldg},{h0 n rdy true true with ledger := {ldg with cells := []}}].flatMap fun m => [m, org 10000 10000 m, org (-200) (-300) m, m.wrs [(R.HLD_BLK_XSTAT_UNLOCKED, 1)], {m with mt := 5 * 800000000, tim := m.tim}, { m with fe := m.fe.set n { m.fe[n] with fs := m.fe[n].fs }, mt := 3 * 800000000}]
def sLedgerDepositsSweepAndFactors (k : Nat) : State := ((s0 ++ [State.reset.m]).map st : List State).getD k State.reset
theorem witness_LedgerDepositsSweepAndFactors_1 :
    (∃ (s : State) (dt : Nat) (m : Mach) (n : Fin 16), m = s.at dt ∧ (m.mt % 2000 ≠ 0 ∨ m.mt < 2000 ∨ m.fe[n].ctx[m.fe[n].owner.getD m.fe[n].lastOwner].ret.dep = false ∨ m.rd R.HLD_CTRL = 0 ∨ m.depositAmount n = 0)) ∧
    (∃ (s : State) (dt : Nat) (m : Mach) (n : Fin 16), m = s.at dt ∧ m.mt % 2000 = 0) ∧
    (∃ (s : State) (dt : Nat) (m : Mach) (n : Fin 16), m = s.at dt ∧ m.mt % 2000 = 0) :=
  ⟨⟨(sLedgerDepositsSweepAndFactors 0), (0), _, (0), rfl, by decide +kernel⟩,
    ⟨(sLedgerDepositsSweepAndFactors 0), (0), _, (0), rfl, by decide +kernel⟩,
    ⟨(sLedgerDepositsSweepAndFactors 0), (0), _, (0), rfl, by decide +kernel⟩⟩
theorem witness_LedgerDepositsSweepAndFactors_2 :
    (∃ (s : State) (dt : Nat) (m : Mach) (j : Nat) (k : BitVec 22), m = s.at dt ∧ k.toNat < m.hldNx * m.hldNy ∧ m.sweepDueAt j k.toNat ≤ m.mt) ∧
    (∃ (s : State) (dt : Nat) (m : Mach) (j : Nat) (k : BitVec 22), m = s.at dt ∧ k.toNat < m.hldNx * m.hldNy ∧ m.mt < m.sweepDueAt j k.toNat) ∧
    (∃ (s : State) (dt : Nat) (m : Mach) (cell : BitVec 22) (v : Word), m = s.at dt ∧ m.open? 41943040 = true ∧ m.rd R.HLD_BLK_XSTAT_UNLOCKED = 0) :=
  ⟨⟨(sLedgerDepositsSweepAndFactors 0), (0), _, (0), (0x000000#22), rfl, by decide +kernel⟩,
    ⟨(sLedgerDepositsSweepAndFactors 0), (0), _, (0), (0x000001#22), rfl, by decide +kernel⟩,
    ⟨(sLedgerDepositsSweepAndFactors 0), (0), _, (0x000000#22), (0x00000000#32), rfl, by decide +kernel⟩⟩
theorem witness_LedgerDepositsSweepAndFactors_3 :
    (∃ (s : State) (dt : Nat) (m : Mach) (n : Fin 16) (late : Bool), m = s.at dt ∧ m.mt % 2000 ≠ 0) ∧
    (∃ (s : State) (dt : Nat) (m : Mach) (cell : BitVec 22) (v : Word), m = s.at dt ∧ m.open? 41943040 = true ∧ m.rd R.HLD_BLK_XSTAT_UNLOCKED = 1 ∧ cell.toNat % 2048 < m.hldNx ∧ cell.toNat / 2048 < m.hldNy) ∧
    (∃ (s : State) (dt : Nat) (m : Mach) (cell : BitVec 22) (v : Word), m = s.at dt ∧ m.open? 41943040 = true ∧ m.rd R.HLD_BLK_XSTAT_UNLOCKED = 1 ∧ (m.hldNx ≤ cell.toNat % 2048 ∨ m.hldNy ≤ cell.toNat / 2048)) :=
  ⟨⟨(sLedgerDepositsSweepAndFactors 0), (1), _, (0), (false), rfl, by decide +kernel⟩,
    ⟨(sLedgerDepositsSweepAndFactors 3), (0), _, (0x000000#22), (0x00000000#32), rfl, by decide +kernel⟩,
    ⟨(sLedgerDepositsSweepAndFactors 3), (0), _, (0x004000#22), (0x00000000#32), rfl, by decide +kernel⟩⟩
theorem witness_LedgerDepositsSweepAndFactors_4 :
    (∃ (s : State) (dt : Nat) (m : Mach) (n : Fin 16) (k : _), m = s.at dt ∧ m.cellIx (m.cellXY (m.bedAt n (m.mt - 1000)).1 (m.bedAt n (m.mt - 1000)).2).1 (m.cellXY (m.bedAt n (m.mt - 1000)).1 (m.bedAt n (m.mt - 1000)).2).2 = some k ∧ m.mt % 2000 = 0 ∧ 2000 ≤ m.mt ∧ m.fe[n].ctx[m.fe[n].owner.getD m.fe[n].lastOwner].ret.dep = true ∧ m.rd R.HLD_CTRL = 1 ∧ m.depositAmount n ≠ 0 ∧ m.fe[n].ctx[m.fe[n].owner.getD m.fe[n].lastOwner].ret.k3 = false) ∧
    (∃ (s : State) (dt : Nat) (m : Mach) (n : Fin 16), m = s.at dt ∧ m.mt % 2000 = 0 ∧ 2000 ≤ m.mt ∧ m.fe[n].ctx[m.fe[n].owner.getD m.fe[n].lastOwner].ret.dep = true ∧ m.rd R.HLD_CTRL = 1 ∧ m.depositAmount n ≠ 0 ∧ m.cellIx (m.cellXY (m.bedAt n (m.mt - 1000)).1 (m.bedAt n (m.mt - 1000)).2).1 (m.cellXY (m.bedAt n (m.mt - 1000)).1 (m.bedAt n (m.mt - 1000)).2).2 = none ∧ m.raisedThisTick 156 = false) ∧
    (∃ (s : State) (dt : Nat) (m : Mach) (n : Fin 16) (k : _), m = s.at dt ∧ m.cellIx (m.cellXY (m.bedAt n (m.mt - 1000)).1 (m.bedAt n (m.mt - 1000)).2).1 (m.cellXY (m.bedAt n (m.mt - 1000)).1 (m.bedAt n (m.mt - 1000)).2).2 = some k ∧ m.mt % 2000 = 0 ∧ 2000 ≤ m.mt ∧ m.fe[n].ctx[m.fe[n].owner.getD m.fe[n].lastOwner].ret.dep = true ∧ m.rd R.HLD_CTRL = 1 ∧ m.depositAmount n ≠ 0 ∧ m.fe[n].ctx[m.fe[n].owner.getD m.fe[n].lastOwner].ret.k3 = true ∧ 0 < (m.cellXY (m.bedAt n (m.mt - 1000)).1 (m.bedAt n (m.mt - 1000)).2).1 ∧ (m.cellXY (m.bedAt n (m.mt - 1000)).1 (m.bedAt n (m.mt - 1000)).2).1 + 1 < ↑m.hldNx ∧ 0 < (m.cellXY (m.bedAt n (m.mt - 1000)).1 (m.bedAt n (m.mt - 1000)).2).2 ∧ (m.cellXY (m.bedAt n (m.mt - 1000)).1 (m.bedAt n (m.mt - 1000)).2).2 + 1 < ↑m.hldNy ∧ (∀ (j : Nat), m.energy j m.mt + m.depositAmount n ≤ 65535)) :=
  ⟨⟨(sLedgerDepositsSweepAndFactors 6), (0), _, (0), _, rfl, rfl, by decide +kernel⟩,
    ⟨(sLedgerDepositsSweepAndFactors 7), (0), _, (0), rfl, by decide +kernel⟩,
    ⟨(sLedgerDepositsSweepAndFactors 12), (0), _, (0), _, rfl, rfl, by decide +kernel, by decide +kernel, by decide +kernel, by decide +kernel, by decide +kernel, by decide +kernel, by decide +kernel, by decide +kernel, by decide +kernel, by decide +kernel, fun j => (show decayE _ 0 _ + _ ≤ 65535 by decide +kernel)⟩⟩
theorem witness_LedgerDepositsSweepAndFactors_5 :
    (∃ (s : State) (dt : Nat) (m : Mach) (cell : BitVec 22) (v : Word), m = s.at dt ∧ m.open? 41943040 = false) :=
  ⟨(sLedgerDepositsSweepAndFactors 72), (0), _, (0x000000#22), (0x00000000#32), rfl, by decide +kernel⟩
end
end W18

namespace W19
def ksl : Nat := rdy.mt / 16000
def bx (a b c d : Int) : Box := ⟨a,b,c,d⟩
section
def sm (k : Nat) (lon : Bool) (b : Box) (pub : Nat := 0) : Summary := ⟨k, lon, false, 0, b, pub, none⟩
def wr1 (n : Fin 16) (sm : List Summary) (rs : List Resv) (m : Mach) : Mach := m.modField n fun f => { f with summ := sm, resv := rs }
def base : Mach := rdy.wrs [(R.TRL_CTRL_EN, 1)]
def s0 : List Mach := [rdy.wrs [(R.TRL_CTRL_EN, 0)], base, {base with mt := 4000001}, wr1 0 [sm ksl true (bx 0 0 10 10)] [] base, wr1 0 [sm ksl true (bx 0 0 10 10)] [] (wr1 1 [] [⟨ksl, some (bx 5 5 20 20)⟩] base), wr1 15 [sm ksl true (bx 0 0 10 10) (rdy.mt-8000)] [] (wr1 1 [] [⟨ksl, some (bx 5000000 5000000 6000000 6000000)⟩] base),
  wr1 0 [sm ksl true (bx 0 0 10 10), sm (ksl+1) true (bx 0 0 10 10), sm (ksl+2) false (bx 0 0 0 0)] [] (wr1 1 [sm ksl true (bx 5 5 20 20), sm (ksl+1) false (bx 0 0 0 0), sm (ksl+2) true (bx 0 0 10 10)] [] base),
  wr1 0 ((List.range 20).map fun k => sm (ksl+k) (k % 3 != 0) (bx (k * 100) 0 (k*100+50) 10)) [] (wr1 1 ((List.range 20).map fun k => sm (ksl+k) (k % 4 != 1) (bx (k * 100+30) 0 (k*100+60) 10)) [] (wr1 15 ((List.range 20).map fun k => sm (ksl+k) (k % 5 != 2) (bx (-1000) 0 10000 10)) [] base))]
def ring0 : Mach := (base.wrs [(R.RNG_CTRL_CYCEN, 1), (R.RNG_CTRL_MODE, 1), (R.TRL_CTRL_RINGEN, 1), (R.TRL_CTRL_PTVALID, 1), (R.TRL_CTRL_RMASK, 3), (R.TRL_CTRL_MODID, 0), (R.RNG_CYC_PER, 1000), (R.TRL_RDEPTH, 2000), (R.TRL_RDLY, 500)])
def ring1 : Mach := { ring0 with tim := { ring0.tim with ptAcc := 5000000 * 2^32 } }
def rq (sig g : Nat) (b : Box) : RingReq := ⟨BitVec.ofNat 18 sig, BitVec.ofNat 7 g, 3, 0, b.xmin, b.ymin, b.xmax, b.ymax⟩
def rqs (c : Nat) : List RingReq := (List.range 60).map fun k => rq ((c + 2000000) / 20000 + k) (16 + k % 3) (bx (k % 2) 0 (10 + k) 20)
def ring2 (c : Word) : Mach := { ring1.wr R.TRL_CTRL_RMASK 2 with rng := { ring1.rng with rx := [⟨c, 1, 5, [0], rqs c.toNat, []⟩] } }
def ring3 (c : Word) : Mach := { ring2 c with rng := { (ring2 c).rng with hist := [⟨5, (c.toNat + 2000000)/20000, bx 0 0 100 100, 0⟩, ⟨6, (c.toNat + 2000000)/20000 + 3, bx 0 0 100 100, 0⟩] } }
def sGrantsNeverConflict (k : Nat) : State := ((s0 ++ [ring0, ring1] ++ [0,1000000,4000000].flatMap fun c => [ring2 c, ring3 c]).map st : List State).getD k State.reset
theorem witness_GrantsNeverConflict :
    (∃ (s : State) (dt : Nat) (m : Mach), m = s.at dt ∧ m.mt % 16000 = 0) ∧
    (∃ (s : State) (dt : Nat) (m : Mach) (cycle : Word), m = s.at dt ∧ m.Quiet ∧ (m.mt < m.decideAt (BitVec.toNat cycle) ∨ m.rd R.RNG_CTRL_CYCEN = 0 ∨ m.ringMode = 0 ∨ cycle ∈ m.rng.decided ∨ BitVec.toNat cycle % m.cycNs ≠ 0)) ∧
    (∃ (s : State) (dt : Nat) (m : Mach), m = s.at dt ∧ m.mt % 16000 ≠ 0) ∧
    (∃ (s : State) (dt : Nat) (m : Mach) (n : Fin 16) (x : Summary), m = s.at dt ∧ m.mt % 16000 = 0 ∧ 8000 ≤ m.mt ∧ m.mt < 2 ^ 63 ∧ m.rd R.TRL_CTRL_EN = 1 ∧ (∀ (h : Fin 16), h ≠ n → m.fe[h].summ = []) ∧ m.fe[n].summ = [x] ∧ m.fe[n].resv = [] ∧ x.slice = m.mt / 16000 ∧ x.pubAt + 8000 ≤ m.mt ∧ x.goneAt = none ∧ x.lon = true ∧ x.ringm = false ∧ m.rng.hist = [] ∧ (∀ (h : Fin 16), h ≠ n → ∀ r ∈ m.fe[h].resv, m.conflict (sliceClaim x.slice (some x.box)) (sliceClaim r.slice r.box) = false)) ∧
    (∃ (s : State) (dt : Nat) (m : Mach) (n : Fin 16) (x : Summary) (h : Fin 16) (r : _), m = s.at dt ∧ r ∈ m.fe[h].resv ∧ m.mt % 16000 = 0 ∧ 8000 ≤ m.mt ∧ m.mt < 2 ^ 63 ∧ m.rd R.TRL_CTRL_EN = 1 ∧ (∀ (h : Fin 16), h ≠ n → m.fe[h].summ = []) ∧ m.fe[n].summ = [x] ∧ m.fe[n].resv = [] ∧ x.slice = m.mt / 16000 ∧ x.pubAt + 8000 ≤ m.mt ∧ x.goneAt = none ∧ x.lon = true ∧ x.ringm = false ∧ m.rng.hist = [] ∧ h ≠ n ∧ m.conflict (sliceClaim x.slice (some x.box)) (sliceClaim r.slice r.box) = true) ∧
    (∃ (s : State) (dt : Nat) (m : Mach) (cycle : Word), m = s.at dt ∧ m.Quiet ∧ m.decideAt (BitVec.toNat cycle) ≤ m.mt ∧ m.rd R.RNG_CTRL_CYCEN = 1 ∧ m.ringMode ≠ 0 ∧ cycle ∉ m.rng.decided ∧ BitVec.toNat cycle % m.cycNs = 0 ∧ m.rng.sigRecs = [] ∧ m.rd R.TRL_CTRL_RINGEN = 1 ∧ (∀ q ∈ m.rng.rx, q.cycle ≠ cycle) ∧ (∃ id ∈ m.rmask, id ≠ m.rd R.TRL_CTRL_MODID) ∧ m.raisedThisTick 154 = false) ∧
    (∃ (s : State) (dt : Nat) (m : Mach) (cycle : Word), m = s.at dt ∧ m.Quiet ∧ m.decideAt (BitVec.toNat cycle) ≤ m.mt ∧ m.rd R.RNG_CTRL_CYCEN = 1 ∧ m.ringMode ≠ 0 ∧ cycle ∉ m.rng.decided ∧ BitVec.toNat cycle % m.cycNs = 0 ∧ m.rng.sigRecs = [] ∧ m.rd R.TRL_CTRL_RINGEN = 1 ∧ (∀ id ∈ m.rmask, m.hasFrame cycle id = true) ∧ m.rd R.TRL_CTRL_PTVALID = 1 ∧ m.rng.abstainTil = none) :=
  ⟨⟨(sGrantsNeverConflict 0), (0), _, rfl, by decide +kernel⟩,
    ⟨(sGrantsNeverConflict 0), (0), _, (0x00000000#32), rfl, by unfold Mach.Quiet; decide +kernel, by decide +kernel⟩,
    ⟨(sGrantsNeverConflict 2), (0), _, rfl, by decide +kernel⟩,
    ⟨(sGrantsNeverConflict 3), (0), _, (0), ({ slice := 250,   lon := true,   ringm := false,   ver := 0x00#8,   box := { xmin := 0, ymin := 0, xmax := 10, ymax := 10 },   pubAt := 0,   goneAt := none }), rfl, by decide +kernel⟩,
    ⟨(sGrantsNeverConflict 4), (0), _, (0), ({ slice := 250,   lon := true,   ringm := false,   ver := 0x00#8,   box := { xmin := 0, ymin := 0, xmax := 10, ymax := 10 },   pubAt := 0,   goneAt := none }), (1), _, rfl, .head _, by decide +kernel⟩,
    ⟨(sGrantsNeverConflict 8), (0), _, (0x00000000#32), rfl, by unfold Mach.Quiet; decide +kernel, by decide +kernel⟩,
    ⟨(sGrantsNeverConflict 10), (0), _, (0x00000000#32), rfl, by unfold Mach.Quiet; decide +kernel, by decide +kernel⟩⟩
end
end W19

namespace W20
def g0 : GeomF := ⟨false,false,false,false,false,false,false⟩
def fr0 (p : Fin 20) (w h : Nat) : Frame := { port := p, num := 7, mtFs := rdy.mt - 5000, mtFe := 0, trig := none, width := w, height := h, fmt := 0, lines := [], linesRx := 0, lmin := 0, lmax := 0, flags := g0, lastPkt := rdy.mt - 8000, closed := false, slot := 0, taken := false }
section
def dw (n : Fin 16) (d : Nat) (k : Nat) (g : Bool) (m : Mach) : Mach := (m.wrs [(R.TRL_GTO, k), (R.FE_TRL_BOOK_LO n, rdy.mt % 2^32)]).modField n fun f => { f with dwell := some (rdy.mt - d, 2), gtoDone := g }
def cam (p : Fin 20) (g : Cam → Cam) (m : Mach) : Mach := { m with cam := m.cam.set p (g m.cam[p]) }
def camW (p : Fin 20) (m : Mach) : Mach := m.wrs [(R.IMG_CAM_GEOM_WIDTH p, 4), (R.IMG_CAM_GEOM_HEIGHT p, 2)]
def s0 : List Mach := [rdy] ++ ([0,15] : List (Fin 16)).flatMap (fun n => [dw n 800000 1 false rdy, dw n 799999 1 false rdy, dw n 800000 1 true rdy, dw n 5 0 false rdy])
def sKeepoutTimeoutAndBooking (k : Nat) : State := ((s0 ++ [State.reset.m]).map st : List State).getD k State.reset
theorem witness_KeepoutTimeoutAndBooking :
    (∃ (s : State) (dt : Nat) (m : Mach) (r : KoReg) (v : Word), m = s.at dt ∧ m.open? 12582912 = true) ∧
    (∃ (s : State) (dt : Nat) (m : Mach) (n : Fin 16), m = s.at dt ∧ (∀ (t0 : Nat), m.fe[n].dwell ≠ some (t0, 2))) ∧
    (∃ (s : State) (dt : Nat) (m : Mach) (n : Fin 16), m = s.at dt ∧ (m.rd64 (R.FE_TRL_BOOK_LO ↑n) (R.FE_TRL_BOOK_HI ↑n) = 0 ∨ m.rd64 (R.FE_TRL_BOOK_LO ↑n) (R.FE_TRL_BOOK_HI ↑n) ≠ m.mt)) ∧
    (∃ (s : State) (dt : Nat) (m : Mach) (n : Fin 16) (t0 : Nat), m = s.at dt ∧ m.fe[n].dwell = some (t0, 2) ∧ m.rd R.TRL_GTO ≠ 0 ∧ t0 + m.rd R.TRL_GTO * 800000 ≤ m.mt ∧ m.fe[n].gtoDone = false) ∧
    (∃ (s : State) (dt : Nat) (m : Mach) (n : Fin 16), m = s.at dt ∧ m.rd64 (R.FE_TRL_BOOK_LO ↑n) (R.FE_TRL_BOOK_HI ↑n) ≠ 0 ∧ m.rd64 (R.FE_TRL_BOOK_LO ↑n) (R.FE_TRL_BOOK_HI ↑n) = m.mt) ∧
    (∃ (s : State) (dt : Nat) (m : Mach) (n : Fin 16) (t0 : Nat), m = s.at dt ∧ m.fe[n].dwell = some (t0, 2) ∧ (m.rd R.TRL_GTO = 0 ∨ m.mt < t0 + m.rd R.TRL_GTO * 800000 ∨ m.fe[n].gtoDone = true)) ∧
    (∃ (s : State) (dt : Nat) (m : Mach) (r : KoReg) (v : Word), m = s.at dt ∧ m.open? 12582912 = false) :=
  ⟨⟨(sKeepoutTimeoutAndBooking 0), (0), _, (KoReg.dir), (0x00000000#32), rfl, by decide +kernel⟩,
    ⟨(sKeepoutTimeoutAndBooking 0), (0), _, (0), rfl, fun t0 h => nomatch (show (none : Option (Nat × Fin 4)) = some (t0, 2) from h)⟩,
    ⟨(sKeepoutTimeoutAndBooking 0), (0), _, (0), rfl, by decide +kernel⟩,
    ⟨(sKeepoutTimeoutAndBooking 1), (0), _, (0), (3200000), rfl, by decide +kernel⟩,
    ⟨(sKeepoutTimeoutAndBooking 1), (0), _, (0), rfl, by decide +kernel⟩,
    ⟨(sKeepoutTimeoutAndBooking 2), (0), _, (0), (3200001), rfl, by decide +kernel⟩,
    ⟨(sKeepoutTimeoutAndBooking 9), (0), _, (KoReg.dir), (0x00000000#32), rfl, by decide +kernel⟩⟩
def ps : List (Fin 20) := [0, 16, 19]
def sCameraPortCommands (k : Nat) : State := (([rdy, State.reset.m, rdy.setStage (.trig 16) ⟨[], [], some (2 * rdy.mt)⟩] ++ ps.flatMap fun p => [camW p rdy, camW p (rdy.wr (R.IMG_CAM_CTRL_EN p) 1), cam p (fun c => {c with trigs := [rdy.mt - 10, rdy.mt]}) rdy, cam p (fun c => {c with trigs := [0], open_ := some (fr0 p 4 2)}) (rdy.wrs [(R.IMG_CAM_CTRL_EN p, 1), (R.IMG_CAM_TWIN p, 100)])]).map st : List State).getD k State.reset
theorem witness_CameraPortCommands_1 :
    (∃ (s : State) (dt : Nat) (m : Mach) (p : Fin 20) (v : Word), m = s.at dt ∧ m.open? 16777216 = true ∧ bits (BitVec.toNat v) 0 0 = 1 ∧ m.camOn p = false ∧ m.camLimits (↑p) (BitVec.toNat v) = false) ∧
    (∃ (s : State) (dt : Nat) (m : Mach) (p : Fin 20) (v : Word), m = s.at dt ∧ m.open? 16777216 = true ∧ bits (BitVec.toNat v) 0 0 = 1 ∧ m.camOn p = false ∧ m.camLimits (↑p) (BitVec.toNat v) = true) ∧
    (∃ (s : State) (dt : Nat) (m : Mach) (p : Fin 20), m = s.at dt ∧ m.open? 16777216 = true ∧ ↑p < 16) ∧
    (∃ (s : State) (dt : Nat) (m : Mach) (p : Fin 20), m = s.at dt ∧ m.raisedThisTick 135 = false) ∧
    (∃ (s : State) (dt : Nat) (m : Mach) (p : Fin 20), m = s.at dt ∧ m.open? 16777216 = true ∧ 16 ≤ ↑p ∧ (m.stage (Edge.trig p)).violates (m.mt + 2000) = false) ∧
    (∃ (s : State) (dt : Nat) (m : Mach) (p : Fin 20), m = s.at dt ∧ m.open? 16777216 = true ∧ 16 ≤ ↑p ∧ (m.stage (Edge.trig p)).violates (m.mt + 2000) = true) ∧
    (∃ (s : State) (dt : Nat) (m : Mach) (p : Fin 20) (v : Word), m = s.at dt ∧ m.open? 16777216 = true ∧ bits (BitVec.toNat v) 0 0 = 1 ∧ m.camOn p = true) ∧
    (∃ (s : State) (dt : Nat) (m : Mach) (p : Fin 20), m = s.at dt ∧ m.open? 16777216 = true ∧ m.camOn p = true ∧ inlineBi p = none) :=
  ⟨⟨(sCameraPortCommands 0), (0), _, (0), (0xffffffff#32), rfl, by decide +kernel⟩,
    ⟨(sCameraPortCommands 0), (0), _, (0), (0x00001003#32), rfl, by decide +kernel⟩,
    ⟨(sCameraPortCommands 0), (0), _, (0), rfl, by decide +kernel⟩,
    ⟨(sCameraPortCommands 0), (0), _, (0), rfl, by decide +kernel⟩,
    ⟨(sCameraPortCommands 0), (0), _, (16), rfl, by decide +kernel⟩,
    ⟨(sCameraPortCommands 2), (0), _, (16), rfl, by decide +kernel⟩,
    ⟨(sCameraPortCommands 4), (0), _, (0), (0xffffffff#32), rfl, by decide +kernel⟩,
    ⟨(sCameraPortCommands 4), (0), _, (0), rfl, by decide +kernel⟩⟩
theorem witness_CameraPortCommands_2 :
    (∃ (s : State) (dt : Nat) (m : Mach) (p : Fin 20) (d : _) (rest : _), m = s.at dt ∧ m.cam[p].trigs = d :: rest ∧ m.mt ≤ d + m.twin ↑p) ∧
    (∃ (s : State) (dt : Nat) (m : Mach) (p : Fin 20) (d : _) (rest : _), m = s.at dt ∧ m.cam[p].trigs = d :: rest ∧ d + m.twin ↑p < m.mt ∧ ↑p < 16) ∧
    (∃ (s : State) (dt : Nat) (m : Mach) (p : Fin 20) (d : _) (rest : _), m = s.at dt ∧ m.cam[p].trigs = d :: rest ∧ d + m.twin ↑p < m.mt ∧ 16 ≤ ↑p ∧ m.raisedThisTick 130 = false) :=
  ⟨⟨(sCameraPortCommands 5), (0), _, (0), _, _, rfl, rfl, by decide +kernel⟩,
    ⟨(sCameraPortCommands 5), (3200000), _, (0), _, _, rfl, rfl, by decide +kernel⟩,
    ⟨(sCameraPortCommands 10), (0), _, (16), _, _, rfl, rfl, by decide +kernel⟩⟩
def pk (vc dt : Nat) (hb hf cb : Bool) : CsiPacket := ⟨BitVec.ofNat 4 vc, BitVec.ofNat 6 dt, hb, hf, cb, [1,2,3,4]⟩
def l4 (f : Frame) : Frame := (f.addLine [1,2,3,4] 0 false)
def sts : List Mach := [rdy] ++ ps.flatMap fun p => let b := camW p (rdy.wrs [(R.IMG_CAM_CTRL_EN p, 1), (R.IMG_CAM_FTO p, 10), (R.IMG_CAM_WAIT_SLOT p, 128), (R.IMG_CAM_WAIT_BASE_HI p, 1)]); [b, cam p (fun c => { c with open_ := some (fr0 p 4 2) }) b, cam p (fun c => { c with open_ := some (l4 (l4 (fr0 p 4 2))) }) b, cam p (fun c => { c with open_ := some (l4 (l4 (l4 (fr0 p 4 2)))), ring := [0,1,2,3].map fun k => {fr0 p 4 2 with slot := k} }) b,
  cam p (fun c => { c with open_ := some (fr0 p 4 2) }) (b.wr (R.IMG_CAM_FTO p) 0),  cam p (fun c => { c with open_ := some {fr0 p 4 2 with lastPkt := rdy.mt - 5} }) b]
def sCameraFrames (k : Nat) : State := (sts.map st : List State).getD k State.reset
theorem witness_CameraFrames_1 :
    (∃ (s : State) (dt : Nat) (m : Mach) (p : Fin 20), m = s.at dt ∧ m.camOn p = false) ∧
    (∃ (s : State) (dt : Nat) (m : Mach) (p : Fin 20), m = s.at dt ∧ m.camOn p = false) ∧
    (∃ (s : State) (dt : Nat) (m : Mach) (p : Fin 20) (k : CsiPacket), m = s.at dt ∧ m.camOn p = false) ∧
    (∃ (s : State) (dt : Nat) (m : Mach) (p : Fin 20), m = s.at dt ∧ m.camOn p = true ∧ m.cam[p].open_ = none ∧ inlineBi p = none) ∧
    (∃ (s : State) (dt : Nat) (m : Mach) (p : Fin 20) (k : CsiPacket) (f : _), m = s.at dt ∧ m.cam[p].open_ = some f ∧ m.camOn p = true ∧ k.headerBad = true) ∧
    (∃ (s : State) (dt : Nat) (m : Mach) (p : Fin 20) (k : CsiPacket) (f : _), m = s.at dt ∧ m.cam[p].open_ = some f ∧ m.camOn p = true ∧ k.headerBad = false ∧ k.headerFixed = false ∧ k.vc.toNat = m.rd (R.IMG_CAM_CTRL_VC ↑p) ∧ 16 ≤ k.dtype.toNat ∧ k.dtype.toNat ≠ 18 ∧ k.dtype.toNat ≠ 42 + m.camFmt ↑p) ∧
    (∃ (s : State) (dt : Nat) (m : Mach) (p : Fin 20) (k : CsiPacket) (f : _), m = s.at dt ∧ m.cam[p].open_ = some f ∧ m.camOn p = true ∧ k.headerBad = false ∧ k.headerFixed = false ∧ k.vc.toNat ≠ m.rd (R.IMG_CAM_CTRL_VC ↑p)) ∧
    (∃ (s : State) (dt : Nat) (m : Mach) (p : Fin 20) (k : CsiPacket) (f : _), m = s.at dt ∧ m.cam[p].open_ = some f ∧ m.camOn p = true ∧ k.headerBad = false ∧ k.headerFixed = false ∧ k.vc.toNat = m.rd (R.IMG_CAM_CTRL_VC ↑p) ∧ 2 ≤ k.dtype.toNat ∧ (k.dtype.toNat < 16 ∨ k.dtype.toNat = 18)) :=
  ⟨⟨(sCameraFrames 0), (0), _, (0), rfl, by decide +kernel⟩,
    ⟨(sCameraFrames 0), (0), _, (0), rfl, by decide +kernel⟩,
    ⟨(sCameraFrames 0), (0), _, (0), ({ vc := 0x0#4,   dtype := 0x2a#6,   headerBad := true,   headerFixed := false,   crcBad := false,   payload := [0x01#8, 0x02#8, 0x03#8, 0x04#8] }), rfl, by decide +kernel⟩,
    ⟨(sCameraFrames 1), (0), _, (0), rfl, by decide +kernel⟩,
    ⟨(sCameraFrames 2), (0), _, (0), ({ vc := 0x0#4,   dtype := 0x2a#6,   headerBad := true,   headerFixed := false,   crcBad := false,   payload := [0x01#8, 0x02#8, 0x03#8, 0x04#8] }), _, rfl, rfl, by decide +kernel⟩,
    ⟨(sCameraFrames 2), (0), _, (0), ({ vc := 0x0#4,   dtype := 0x2a#6,   headerBad := false,   headerFixed := false,   crcBad := false,   payload := [0x01#8, 0x02#8, 0x03#8, 0x04#8] }), _, rfl, rfl, by decide +kernel⟩,
    ⟨(sCameraFrames 2), (0), _, (0), ({ vc := 0x3#4,   dtype := 0x2a#6,   headerBad := false,   headerFixed := false,   crcBad := false,   payload := [0x01#8, 0x02#8, 0x03#8, 0x04#8] }), _, rfl, rfl, by decide +kernel⟩,
    ⟨(sCameraFrames 2), (0), _, (0), ({ vc := 0x0#4,   dtype := 0x12#6,   headerBad := false,   headerFixed := false,   crcBad := false,   payload := [0x01#8, 0x02#8, 0x03#8, 0x04#8] }), _, rfl, rfl, by decide +kernel⟩⟩
theorem witness_CameraFrames_2 :
    (∃ (s : State) (dt : Nat) (m : Mach) (p : Fin 20) (k : CsiPacket) (f : _), m = s.at dt ∧ m.cam[p].open_ = some f ∧ m.camOn p = true ∧ k.headerBad = false ∧ k.headerFixed = false ∧ k.vc.toNat = m.rd (R.IMG_CAM_CTRL_VC ↑p) ∧ k.dtype.toNat = 42 + m.camFmt ↑p) ∧
    (∃ (s : State) (dt : Nat) (m : Mach) (p : Fin 20) (f : _), m = s.at dt ∧ m.cam[p].open_ = some f ∧ (m.rd (R.IMG_CAM_FTO ↑p) = 0 ∨ m.mt < f.lastPkt + m.rd (R.IMG_CAM_FTO ↑p) * 800)) ∧
    (∃ (s : State) (dt : Nat) (m : Mach) (p : Fin 20) (b : _), m = s.at dt ∧ inlineBi p = some b ∧ m.camOn p = true ∧ m.cam[p].open_ = none ∧ m.bi[b].cur = none ∧ (∀ (k : Nat), m.setDue b k = false)) ∧
    (∃ (s : State) (dt : Nat) (m : Mach) (p : Fin 20) (miss : Bool) (k : Instr) (f : _), m = s.at dt ∧ m.cam[p].open_ = some f ∧ 18 ≤ ↑p ∧ m.camOn p = true ∧ (k = Instr.cameraFrameEnd dt p ∧ miss = false ∨ k = Instr.frameTimeout dt p ∧ miss = true ∧ m.rd (R.IMG_CAM_FTO ↑p) ≠ 0 ∧ f.lastPkt + m.rd (R.IMG_CAM_FTO ↑p) * 800 ≤ m.mt) ∧ f.linesRx < 65536 ∧ f.lmin < 65536 ∧ f.lmax < 65536) :=
  ⟨⟨(sCameraFrames 2), (0), _, (0), ({ vc := 0x0#4,   dtype := 0x2c#6,   headerBad := false,   headerFixed := false,   crcBad := false,   payload := [0x01#8, 0x02#8, 0x03#8, 0x04#8] }), _, rfl, rfl, by decide +kernel⟩,
    ⟨(sCameraFrames 5), (0), _, (0), _, rfl, rfl, by decide +kernel⟩,
    ⟨(sCameraFrames 7), (0), _, (16), _, rfl, rfl, by decide +kernel, by decide +kernel, by decide +kernel, by unfold Mach.setDue; exact getD_all (p := fun _ (o : Option Nat) => (match o with | some t => decide (t < _) | none => false) = false) (by decide +kernel) (fun _ => rfl)⟩,
    ⟨(sCameraFrames 14), (0), _, (19), (false), (Instr.cameraFrameEnd 0 19), _, rfl, rfl, by decide +kernel⟩⟩
end
end W20

namespace W21
def g0 : GeomF := ⟨false,false,false,false,false,false,false⟩
def fr0 (p : Fin 20) (w h : Nat) : Frame := { port := p, num := 7, mtFs := rdy.mt - 5000, mtFe := 0, trig := none, width := w, height := h, fmt := 0, lines := [], linesRx := 0, lmin := 0, lmax := 0, flags := g0, lastPkt := rdy.mt - 8000, closed := false, slot := 0, taken := false }
section
def pr0 (inv : Nat) : PoolRec := { frame := 9, inv := BitVec.ofNat 4 inv, pflag := 0x35, tmid := 1234, x := -5, y := 7, pc := 0x1000, owner := some 3, layer := 4, pplan := 5, keff := 6, stat := 1, target := 2, sum := 3, areaA := 4, areaB := 5, peak := 6, peakCol := 7, peakRow := 8, cx := 9, cy := 10, mxx := 11, myy := 12, mxy := -13, nsat := 14, hist := List.replicate 64 0, tfe := 77 }
def pl (n : Fin 16) (rs : List PoolRec) (m : Mach) : Mach := { m with pool := m.pool.set n { m.pool[n] with pend := rs } }
def cam (p : Fin 20) (g : Cam → Cam) (m : Mach) : Mach := { m with cam := m.cam.set p (g m.cam[p]) }
def bi (b : Fin 2) (g : Bi → Bi) (m : Mach) : Mach := { m with bi := m.bi.set b (g m.bi[b]) }
def ct (n : Nat) := (R.IMG_PP_REC_SIZE n, 0)
def ps : List Mach := ([0,15] : List (Fin 16)).flatMap fun n => [pl n [pr0 0] rdy, pl n [pr0 4, pr0 0] rdy, pl n [pr0 5] (rdy.wrs [(R.IMG_PP_CTRL_RECEN n, 1), (R.IMG_PP_REC_WPTR n, 254), (R.IMG_PP_REC_BASE_HI n, 1)]), pl n [pr0 0] (rdy.wrs [(R.IMG_PP_CTRL_RECEN n, 1), (R.IMG_PP_REC_WPTR n, 255)]),
   pl n [pr0 0] (rdy.wrs [(R.CE_SLOT_STATUS_STATE 159, 1), (R.CE_SLOT_CFG_FRM 159, 1), (R.CE_SLOT_CFG_FIELD 159, n), (R.CE_SLOT_LAT_L 159, 4000)])]
def cl (p : Fin 20) : Frame := { fr0 p 4 2 with closed := true, mtFe := 5, lines := [[1,2,3,4],[5,6,7,8]], linesRx := 2 }
def job (f : Frame) : BiJob := { frame := f, bank := 1, force := [], modes := [0,0,0,0] }
def bs : List Mach := ([0,1] : List (Fin 2)).flatMap fun b => [bi b (fun x => {x with cur := some (job {cl 17 with taken := true, port := 17})}) (cam 17 (fun c => {c with ring := [{cl 17 with taken := true}, {cl 17 with slot := 1}]}) rdy), bi b (fun x => {x with cur := some (job (cl 17))}) (rdy.wrs [(R.IMG_BI_STWPTR b, 3)]), bi b (fun x => {x with cur := some (job {cl 18 with closed := false}), susp := some (job (cl 16))}) rdy, bi b (fun x => {x with cur := some (job (cl 18)), susp := some (job (cl 16))}) rdy]
def pick : List Mach := ([0,1] : List Nat).flatMap fun b => [cam 18 (fun c => {c with ring := [cl 18]}) (rdy.wrs [(R.IMG_CAM_CTRL_EN 18, 1),(R.IMG_BI_MSRC_EN b 0, 1), (R.IMG_BI_MSRC_PORT b 0, 18), (R.IMG_CAM_WAIT_BASE_HI 18, 1), (R.IMG_CAM_WAIT_SLOT 18, 128)]), cam 0 (fun c => {c with ring := [cl 0]}) (rdy.wrs [(R.IMG_CAM_DECIM 0, 1),(R.IMG_BI_MSRC_EN b 0, 1), (R.IMG_BI_MSRC_PORT b 0, 0), (R.IMG_CAM_WAIT_BASE_HI 0, 1), (R.IMG_CAM_WAIT_SLOT 0, 128)])]
def sPoolRecordsAndImageProcessors (k : Nat) : State := ((ps ++ bs ++ [rdy] ++ pick).map st : List State).getD k State.reset
theorem witness_PoolRecordsAndImageProcessors :
    (∃ (s : State) (dt : Nat) (m : Mach) (n : Fin 16) (r : _) (rest : _), m = s.at dt ∧ m.pool[n].pend = r :: rest ∧ m.raisedThisTick (112 + ↑n) = false ∧ (∀ (k : Fin 160), m.runs ↑k = false) ∧ r.encode.length = 256) ∧
    (∃ (s : State) (dt : Nat) (m : Mach) (n : Fin 16), m = s.at dt ∧ m.pool[n].pend = []) ∧
    (∃ (s : State) (dt : Nat) (m : Mach) (n : Fin 16) (k : Fin 160) (r : _) (rest : _), m = s.at dt ∧ m.pool[n].pend = r :: rest ∧ m.runs ↑k = true ∧ m.frameSlot ↑k = true ∧ m.slotField ↑k = ↑n ∧ m.slot[k].firstTk ≤ m.mt ∧ m.slot[k].exec = [] ∧ m.slot[k].stopAt = none ∧ m.slot[k].swapReq = none ∧ (∀ (j : Fin 160), j ≠ k → m.runs ↑j = false)) ∧
    (∃ (s : State) (dt : Nat) (m : Mach) (b : Fin 2), m = s.at dt ∧ (m.bi[b].cur.isSome = true ∨ m.biPick ↑b = none ∨ b = 1 ∧ m.bi0Takes = true)) ∧
    (∃ (s : State) (dt : Nat) (m : Mach) (b : Fin 2), m = s.at dt ∧ (∀ (j : BiJob), m.bi[b].cur = some j → j.frame.closed = false)) ∧
    (∃ (s : State) (dt : Nat) (m : Mach) (b : Fin 2) (x : ShadowSet), m = s.at dt ∧ m.open? 16777216 = true ∧ (setIx x).1 = b ∧ m.bi[b].commits.length = 7) ∧
    (∃ (s : State) (dt : Nat) (m : Mach) (b : Fin 2) (j : _), m = s.at dt ∧ m.bi[b].cur = some j ∧ j.frame.closed = true ∧ (∀ k < 4, j.streams (↑b) k = false)) ∧
    (∃ (s : State) (dt : Nat) (m : Mach) (b : Fin 2) (f : _) (bank : _), m = s.at dt ∧ m.biPick ↑b = some (f, bank) ∧ m.bi[b].cur = none ∧ (b = 1 → m.bi0Takes = false) ∧ (∀ (k : Nat), m.setDue b k = false)) :=
  ⟨⟨(sPoolRecordsAndImageProcessors 0), (0), _, (0), _, _, rfl, rfl, by decide +kernel⟩,
    ⟨(sPoolRecordsAndImageProcessors 0), (0), _, (15), rfl, by decide +kernel⟩,
    ⟨(sPoolRecordsAndImageProcessors 4), (0), _, (0), (159), _, _, rfl, rfl, by decide +kernel⟩,
    ⟨(sPoolRecordsAndImageProcessors 0), (0), _, (0), rfl, by decide +kernel⟩,
    ⟨(sPoolRecordsAndImageProcessors 0), (0), _, (0), rfl, by decide +kernel⟩,
    ⟨(sPoolRecordsAndImageProcessors 0), (0), _, (0), (ShadowSet.bank 0 2), rfl, by decide +kernel⟩,
    ⟨(sPoolRecordsAndImageProcessors 10), (0), _, (0), _, rfl, rfl, by decide +kernel⟩,
    ⟨(sPoolRecordsAndImageProcessors 19), (0), _, (0), _, _, rfl, rfl, by decide +kernel, by decide +kernel, by unfold Mach.setDue; exact getD_all (p := fun _ (o : Option Nat) => (match o with | some t => decide (t < _) | none => false) = false) (by decide +kernel) (fun _ => rfl)⟩⟩
end
end W21

namespace W22
section
def both (l : List (RF × Nat)) (m : Mach) : Mach := let m := m.wrs l; { m with force := rwrs m.force l }
def lay (l : Nat) (x : List (RF × Nat) := []) := both ([(R.CMP_LY_CTRL_EN l, 1), (R.CMP_LY_CTRL_GA l, 128), (R.CMP_LY_SRC_SIZE_SW l, 2), (R.CMP_LY_SRC_SIZE_SH l, 2), (R.CMP_LY_SURF_W l, 2), (R.CMP_LY_SURF_H l, 2), (R.CMP_LY_STRIDE l, 64), (R.CMP_LY_DST_POS_DX l, 1), (R.CMP_LY_DST_SIZE_DW l, 3), (R.CMP_LY_DST_SIZE_DH l, 2), (R.CMP_LY_BASE_HI l, 1), (R.CMP_LY_CTRL_STATIC l, 1), (R.CMP_LY_CTRL_ZPOS l, l)] ++ x)
def cmpM (f : Cmp → Cmp) (m : Mach) : Mach := { m with cmp := f m.cmp }
def cm : Mach := (poke [(0x100000000, 0x44332211FF80FF00)] rdy).wrs [(R.CMP_CTRL_EN, 1), (R.CMP_H_HACT, 4), (R.CMP_V_VACT, 2), (R.CMP_BG, 0x102030)]
def pnd (l t : Nat) := cmpM fun c => { c with pendAt := modify c.pendAt l fun _ => some t }
def fnc (l : Nat) (b : Bool) := cmpM fun c => { c with fence := modify c.fence l fun _ => some b }
def fls : List Mach := [rdy, cm, lay 2 [] cm, pnd 2 (rdy.mt-1) (lay 2 [] cm), pnd 2 rdy.mt (lay 2 [] cm), pnd 2 0 (fnc 2 true (lay 2 [(R.CMP_LY_CTRL_FMODE 2, 1)] cm)), pnd 2 0 (fnc 2 false (lay 2 [(R.CMP_LY_CTRL_FMODE 2, 1)] cm)),
 pnd 2 0 ((lay 2 [(R.CMP_LY_CTRL_FMODE 2, 1)] cm)),pnd 2 0 ((lay 2 [(R.CMP_LY_CTRL_FMODE 2, 2), (R.CMP_LY_FENCE_HI 2, 1), (R.CMP_LY_FVAL 2, 0xFF80FF00)] cm)), pnd 2 0 ((lay 2 [(R.CMP_LY_CTRL_FMODE 2, 1), (R.CMP_LY_FENCE_HI 2, 1), (R.CMP_LY_FVAL 2, 0xFF80FF00)] cm)),
 pnd 0 0 (lay 0 [(R.CMP_LY_CTRL_FMT 0, 4)] cm), pnd 1 0 (lay 1 [(R.CMP_LY_SURF_W 1, 1)] cm), pnd 1 0 ((lay 2 [(R.CMP_LY_CTRL_ZPOS 2, 1)] (lay 1 [] cm))), pnd 7 0 (lay 7 [] (lay 6 [] cm)),
 cmpM (fun c => {c with flatNew := some [], flattening := true, run := [2]}) (lay 2 [] cm), cmpM (fun c => {c with flattening := true, run := [2, 3], flat := some []}) (lay 3 [] (lay 2 [] cm)), cmpM (fun c => {c with run := [2]}) ((lay 2 [] cm).wrs [(R.CMP_STATUS_FLATERR, 1)]), (pnd 2 0 (lay 2 [] cm)).wrs [(R.PWR_PSTATE_STATE, 2)]]
def sFlipsFencesAndBoundaries (k : Nat) : State := (fls.map st : List State).getD k State.reset
theorem witness_FlipsFencesAndBoundaries_1 :
    (∃ (s : State) (dt : Nat) (m : Mach) (mask : Byte), m = s.at dt ∧ m.cmp.pendAt.length = 8 ∧ m.cmp.fence.length = 8 ∧ m.open? 20971520 = true) ∧
    (∃ (s : State) (dt : Nat) (m : Mach), m = s.at dt ∧ m.cmp.pendAt.length = 8 ∧ m.cmp.fence.length = 8 ∧ m.rd R.CMP_CTRL_EN = 0) ∧
    (∃ (s : State) (dt : Nat) (m : Mach), m = s.at dt ∧ m.cmp.pendAt.length = 8 ∧ m.cmp.fence.length = 8 ∧ m.rd R.CMP_CTRL_EN = 0) ∧
    (∃ (s : State) (dt : Nat) (m : Mach) (l : Fin 8), m = s.at dt ∧ m.cmp.pendAt.length = 8 ∧ m.cmp.fence.length = 8 ∧ m.open? 20971520 = true ∧ (m.cmp.run.contains ↑l = false ∨ m.rd R.CMP_STATUS_FLATERR ≠ 0)) ∧
    (∃ (s : State) (dt : Nat) (m : Mach), m = s.at dt ∧ m.cmp.pendAt.length = 8 ∧ m.cmp.fence.length = 8 ∧ m.cmp.flattening = false) ∧
    (∃ (s : State) (dt : Nat) (m : Mach), m = s.at dt ∧ m.cmp.pendAt.length = 8 ∧ m.cmp.fence.length = 8 ∧ m.rd R.CMP_CTRL_EN = 1 ∧ m.pstate ≠ 2 ∧ (∀ l < 8, m.poisoned (m.rd (R.CMP_LY_FENCE_LO l) * 4 + m.rd (R.CMP_LY_FENCE_HI l) * 2 ^ 32) 4 = false)) ∧
    (∃ (s : State) (dt : Nat) (m : Mach), m = s.at dt ∧ m.cmp.pendAt.length = 8 ∧ m.cmp.fence.length = 8 ∧ m.rd R.CMP_CTRL_EN = 1 ∧ m.rd R.CMP_WB_CTRL_EN = 0 ∧ (∀ (l : Nat), m.cmp.pendAt.getD l none = none)) ∧
    (∃ (s : State) (dt : Nat) (m : Mach) (l : Nat) (t0 : _), m = s.at dt ∧ m.cmp.pendAt.getD l none = some t0 ∧ m.cmp.pendAt.length = 8 ∧ m.cmp.fence.length = 8 ∧ m.rd R.CMP_CTRL_EN = 1 ∧ m.rd R.CMP_WB_CTRL_EN = 0 ∧ l < 8 ∧ (∀ (k : Nat), k ≠ l → m.cmp.pendAt.getD k none = none) ∧ t0 < m.mt ∧ (m.cmp.fence.getD l none).getD (m.rd (R.CMP_LY_CTRL_FMODE l) == 0) = true) :=
  ⟨⟨(sFlipsFencesAndBoundaries 0), (0), _, (0x00#8), rfl, by decide +kernel⟩,
    ⟨(sFlipsFencesAndBoundaries 0), (0), _, rfl, by decide +kernel⟩,
    ⟨(sFlipsFencesAndBoundaries 0), (0), _, rfl, by decide +kernel⟩,
    ⟨(sFlipsFencesAndBoundaries 0), (0), _, (0), rfl, by decide +kernel⟩,
    ⟨(sFlipsFencesAndBoundaries 0), (0), _, rfl, by decide +kernel⟩,
    ⟨(sFlipsFencesAndBoundaries 1), (0), _, rfl, by decide +kernel⟩,
    ⟨(sFlipsFencesAndBoundaries 1), (0), _, rfl, by decide +kernel, by decide +kernel, by decide +kernel, by decide +kernel, getD_all (p := fun _ o => o = none) (by decide +kernel) (fun _ => rfl)⟩,
    ⟨(sFlipsFencesAndBoundaries 3), (0), _, (2), _, rfl, rfl, by decide +kernel, by decide +kernel, by decide +kernel, by decide +kernel, by decide +kernel, getD_all (p := fun k o => k ≠ _ → o = none) (by decide +kernel) (fun _ _ => rfl), by decide +kernel⟩⟩
theorem witness_FlipsFencesAndBoundaries_2 :
    (∃ (s : State) (dt : Nat) (m : Mach) (l : Nat) (t0 : _), m = s.at dt ∧ m.cmp.pendAt.getD l none = some t0 ∧ m.cmp.pendAt.length = 8 ∧ m.cmp.fence.length = 8 ∧ m.rd R.CMP_CTRL_EN = 1 ∧ m.rd R.CMP_WB_CTRL_EN = 0 ∧ l < 8 ∧ (∀ (k : Nat), k ≠ l → m.cmp.pendAt.getD k none = none) ∧ t0 < m.mt ∧ (m.cmp.fence.getD l none).getD (m.rd (R.CMP_LY_CTRL_FMODE l) == 0) = false ∧ m.raisedThisTick 137 = false) ∧
    (∃ (s : State) (dt : Nat) (m : Mach) (l : Fin 8), m = s.at dt ∧ m.cmp.pendAt.length = 8 ∧ m.cmp.fence.length = 8 ∧ m.open? 20971520 = true ∧ m.cmp.run.contains ↑l = true ∧ m.rd R.CMP_STATUS_FLATERR = 0) ∧
    (∃ (s : State) (dt : Nat) (m : Mach), m = s.at dt ∧ m.cmp.pendAt.length = 8 ∧ m.cmp.fence.length = 8 ∧ m.cmp.flattening = true) :=
  ⟨⟨(sFlipsFencesAndBoundaries 6), (0), _, (2), _, rfl, rfl, by decide +kernel, by decide +kernel, by decide +kernel, by decide +kernel, by decide +kernel, getD_all (p := fun k o => k ≠ _ → o = none) (by decide +kernel) (fun _ _ => rfl), by decide +kernel⟩,
    ⟨(sFlipsFencesAndBoundaries 14), (0), _, (2), rfl, by decide +kernel⟩,
    ⟨(sFlipsFencesAndBoundaries 14), (0), _, rfl, by decide +kernel⟩⟩
def sOutputLines (k : Nat) : State := (((fls.filter fun m => m.cmp.run == []) ++ [ (lay 2 [] cm).wrs [(R.CMP_DP_STATUS_TRAINED, 1), (R.CMP_DP_CTRL_BPC, 1)], (lay 0 [] cm).wrs [(R.CMP_DP_STATUS_TRAINED, 1), (R.CMP_DP_CTRL_BPC, 2)], (lay 2 [] cm).wrs [(R.CMP_DP_STATUS_TRAINED, 1), (R.PWR_PSTATE_STATE, 2)], (lay 0 [] cm)]).map st : List State).getD k State.reset
theorem witness_OutputLines :
    (∃ (s : State) (dt : Nat) (m : Mach) (y : BitVec 14) (late : Byte), m = s.at dt ∧ (m.rd R.CMP_CTRL_EN = 0 ∨ m.rd R.CMP_V_VACT ≤ y.toNat)) ∧
    (∃ (s : State) (dt : Nat) (m : Mach) (y : BitVec 14) (late : Byte) (l : Nat) (r : _), m = s.at dt ∧ m.layerLine l y.toNat = some r ∧ m.rd R.CMP_CTRL_EN = 1 ∧ y.toNat < m.rd R.CMP_V_VACT ∧ m.pstate ≠ 2 ∧ m.stack = [l] ∧ m.cmp.flat = none ∧ (m.frameTiles y.toNat).tilesBad l y.toNat = 0 ∧ BitVec.getLsbD late l = false) ∧
    (∃ (s : State) (dt : Nat) (m : Mach) (y : BitVec 14) (late : Byte) (l : Nat), m = s.at dt ∧ m.rd R.CMP_CTRL_EN = 1 ∧ y.toNat < m.rd R.CMP_V_VACT ∧ m.pstate ≠ 2 ∧ m.stack = [l] ∧ m.cmp.flat = none ∧ (m.layerLine l y.toNat).isSome = true ∧ BitVec.getLsbD late l = true ∧ m.raisedThisTick 139 = false) ∧
    (∃ (s : State) (dt : Nat) (m : Mach) (y : BitVec 14) (late : Byte), m = s.at dt ∧ m.rd R.CMP_CTRL_EN = 1 ∧ y.toNat < m.rd R.CMP_V_VACT ∧ m.pstate = 2) :=
  ⟨⟨(sOutputLines 0), (0), _, (0x0000#14), (0x00#8), rfl, by decide +kernel⟩,
    ⟨(sOutputLines 2), (0), _, (0x0000#14), (0x00#8), (2), _, rfl, rfl, by decide +kernel⟩,
    ⟨(sOutputLines 2), (0), _, (0x0000#14), (0x04#8), (2), rfl, by decide +kernel⟩,
    ⟨(sOutputLines 14), (0), _, (0x0000#14), (0x00#8), rfl, by decide +kernel⟩⟩
def tmg (m : Mach) : Mach := m.wrs [(R.CMP_PCLK, 148500), (R.CMP_H_HACT, 1920), (R.CMP_H_HTOT, 2200), (R.CMP_HS_HSS, 2008), (R.CMP_HS_HSE, 2052), (R.CMP_V_VACT, 1080), (R.CMP_V_VTOT, 1125), (R.CMP_VS_VSS, 1084), (R.CMP_VS_VSE, 1089)]
def sDisplayLinkCommands (k : Nat) : State := (([rdy, rdy.wr R.CMP_PCLK 24999, tmg rdy, (tmg rdy).wrs [(R.CMP_CTRL_EN, 1)], rdy.wrs [(R.CMP_DP_CTRL_EN, 1), (R.CMP_DP_AUX_CMD_GO, 1)], rdy.wrs [(R.CMP_DP_STATUS_HPD, 1)], cmpM (fun c => {c with training := true}) (tmg (rdy.wrs [(R.CMP_DP_CTRL_RATE, 2)])), cmpM (fun c => {c with training := true}) (tmg (rdy.wrs [(R.CMP_DP_CTRL_RATE, 1), (R.CMP_DP_CTRL_LANES, 2), (R.CMP_DP_CTRL_BPC, 2)]))]).map st : List State).getD k State.reset
theorem witness_DisplayLinkCommands_1 :
    (∃ (s : State) (dt : Nat) (m : Mach), m = s.at dt ∧ m.open? 20971520 = true ∧ m.rd R.CMP_CTRL_EN = 0 ∧ m.timingOk = true) ∧
    (∃ (s : State) (dt : Nat) (m : Mach), m = s.at dt ∧ m.open? 20971520 = true ∧ m.rd R.CMP_DP_CTRL_EN = 0) ∧
    (∃ (s : State) (dt : Nat) (m : Mach), m = s.at dt ∧ m.open? 20971520 = true) ∧
    (∃ (s : State) (dt : Nat) (m : Mach) (v : Word), m = s.at dt ∧ m.open? 20971520 = true ∧ m.rd R.CMP_DP_AUX_CMD_GO = 0 ∧ bits (BitVec.toNat v) 31 31 = 1) ∧
    (∃ (s : State) (dt : Nat) (m : Mach) (r : BitVec 2) (d : List Byte), m = s.at dt ∧ m.rd R.CMP_DP_AUX_CMD_GO = 0) ∧
    (∃ (s : State) (dt : Nat) (m : Mach) (v : Bool), m = s.at dt ∧ m.on R.CMP_DP_STATUS_HPD = v) ∧
    (∃ (s : State) (dt : Nat) (m : Mach) (v : Bool), m = s.at dt ∧ m.on R.CMP_DP_STATUS_HPD = !v) ∧
    (∃ (s : State) (dt : Nat) (m : Mach) (r : Option (Fin 3 × BitVec 3)), m = s.at dt ∧ m.cmp.training = false) :=
  ⟨⟨(sDisplayLinkCommands 0), (0), _, rfl, by decide +kernel⟩,
    ⟨(sDisplayLinkCommands 0), (0), _, rfl, by decide +kernel⟩,
    ⟨(sDisplayLinkCommands 0), (0), _, rfl, by decide +kernel⟩,
    ⟨(sDisplayLinkCommands 0), (0), _, (0x8000abc9#32), rfl, by decide +kernel⟩,
    ⟨(sDisplayLinkCommands 0), (0), _, (0x0#2), ([]), rfl, by decide +kernel⟩,
    ⟨(sDisplayLinkCommands 0), (0), _, (false), rfl, by decide +kernel⟩,
    ⟨(sDisplayLinkCommands 0), (0), _, (true), rfl, by decide +kernel⟩,
    ⟨(sDisplayLinkCommands 0), (0), _, (none), rfl, by decide +kernel⟩⟩
theorem witness_DisplayLinkCommands_2 :
    (∃ (s : State) (dt : Nat) (m : Mach), m = s.at dt ∧ m.open? 20971520 = true ∧ m.rd R.CMP_CTRL_EN = 0 ∧ m.timingOk = false) ∧
    (∃ (s : State) (dt : Nat) (m : Mach), m = s.at dt ∧ m.open? 20971520 = true ∧ m.rd R.CMP_CTRL_EN = 1) ∧
    (∃ (s : State) (dt : Nat) (m : Mach), m = s.at dt ∧ m.open? 20971520 = true ∧ m.rd R.CMP_DP_CTRL_EN = 1) ∧
    (∃ (s : State) (dt : Nat) (m : Mach) (v : Word), m = s.at dt ∧ m.open? 20971520 = true ∧ m.rd R.CMP_DP_AUX_CMD_GO = 1) ∧
    (∃ (s : State) (dt : Nat) (m : Mach) (r : BitVec 2) (d : List Byte), m = s.at dt ∧ m.rd R.CMP_DP_AUX_CMD_GO = 1 ∧ d.length ≤ 16) ∧
    (∃ (s : State) (dt : Nat) (m : Mach), m = s.at dt ∧ m.cmp.training = true) ∧
    (∃ (s : State) (dt : Nat) (m : Mach) (r : Fin 3) (l : BitVec 3), m = s.at dt ∧ m.cmp.training = true ∧ m.linkAllowed (↑r) l.toNat = false) ∧
    (∃ (s : State) (dt : Nat) (m : Mach) (r : Fin 3) (l : BitVec 3), m = s.at dt ∧ m.cmp.training = true ∧ m.linkAllowed (↑r) l.toNat = true ∧ m.linkCarries (↑r) l.toNat = false) :=
  ⟨⟨(sDisplayLinkCommands 1), (0), _, rfl, by decide +kernel⟩,
    ⟨(sDisplayLinkCommands 3), (0), _, rfl, by decide +kernel⟩,
    ⟨(sDisplayLinkCommands 4), (0), _, rfl, by decide +kernel⟩,
    ⟨(sDisplayLinkCommands 4), (0), _, (0x00000000#32), rfl, by decide +kernel⟩,
    ⟨(sDisplayLinkCommands 4), (0), _, (0x0#2), ([]), rfl, by decide +kernel⟩,
    ⟨(sDisplayLinkCommands 6), (0), _, rfl, by decide +kernel⟩,
    ⟨(sDisplayLinkCommands 6), (0), _, (0), (0x0#3), rfl, by decide +kernel⟩,
    ⟨(sDisplayLinkCommands 6), (0), _, (0), (0x1#3), rfl, by decide +kernel⟩⟩
theorem witness_DisplayLinkCommands_3 :
    (∃ (s : State) (dt : Nat) (m : Mach) (r : Fin 3) (l : BitVec 3), m = s.at dt ∧ m.cmp.training = true ∧ m.linkAllowed (↑r) l.toNat = true ∧ m.linkCarries (↑r) l.toNat = true) :=
  ⟨(sDisplayLinkCommands 6), (0), _, (0), (0x4#3), rfl, by decide +kernel⟩
end
end W22

namespace W23
section
def ax (a : Fin 8) (f : Axis → Axis) (m : Mach) : Mach := { m with axis := m.axis.set a (f m.axis[a]) }
def cfg (a : Fin 8) (k : Nat) (l : List (RF × Nat) := []) (m : Mach) : Mach := m.wrs ([(R.AXE_AX_CFG_KIND a, k), (R.AXE_AX_CTRL a, 1), (R.AXE_AX_AMAX a, 100000), (R.AXE_AX_DMAX a, 100000), (R.AXE_AX_SDEC a, 50000), (R.AXE_AX_VMAX a, 100), (R.AXE_AX_QSPD a, 5), (R.AXE_AX_QTGT a, 77), (R.AXE_AX_SEGDUR a, 1600), (R.AXE_AX_SEGVEL a, 0)] ++ l)
def as : List (Fin 8) := [0, 7]
def mv (x : Axis) : Axis := { x with st := .moving, plan := [⟨rdy.mt - 800000, 0, 0, ⟨1600000, 6553600, 0⟩, some (.move 100 50)⟩], endAt := rdy.mt + 800000, endPos := 6553600, endVel := 0, ref := true }
def stp (x : Axis) : Axis := { x with st := .stopping, stop := some 50000, plan := [], endAt := rdy.mt - 5, endPos := 65536 }
def lev (i : AxIn) (b : Bool) : AxIn := { i with level := b, raw := b, cand := b }
def s1 : List Mach := rdy :: as.flatMap fun a => [cfg a 2 [] rdy, cfg a 1 [] rdy, cfg a 1 [(R.RNG_CYC_PER, 300)] rdy, ax a mv (cfg a 2 [] rdy), ax a mv (cfg a 2 [(R.AXE_AX_JMAX a, 1000)] rdy),
  ax a (fun x => {x with st := .ready, ref := true, queue := [.move 3 4], endPos := 131072}) (cfg a 1 [] rdy), ax a (fun x => {x with st := .unref, home := lev x.home true}) (cfg a 2 [(R.AXE_AX_CFG_HDIR a, 1), (R.AXE_AX_HSPD a, 3), (R.AXE_AX_HLSPD a, 2)] rdy),
  ax a (fun x => {x with st := .limit, limp := lev x.limp true}) (cfg a 2 [(R.AXE_AX_HSPD a, 3), (R.AXE_AX_HLSPD a, 2)] rdy), ax a (fun x => {x with st := .faulted, ctx := {x.ctx with st := .faulted}}) (cfg a 2 [(R.AXE_AX_FAULT_CAUSE a, 0x47)] rdy), ax a (fun x => {x with st := .faulted, faultPend := true, qstop := true}) (cfg a 1 [] rdy), ax a (fun x => {x with st := .homing}) (cfg a 2 [] rdy),
  ax a stp (cfg a 2 [] rdy), ax a (fun x => {stp x with faultPend := true}) (cfg a 2 [] rdy), ax a stp ((cfg a 2 [] rdy).wr (R.AXE_AX_CTRL a) 0), ax a (fun x => {stp x with queue := [.raw 5 5 5]}) ((cfg a 2 [] rdy).wr R.PWR_PSTATE_STATE 1), ax a (fun x => {stp x with ref := true}) (cfg a 1 [] rdy),
  ax a (fun x => {stp x with homing := some (5, false), st := .homing, latch := 3000, endPos := 5000}) (cfg a 1 [(R.AXE_AX_HOFFS a, 2^32-3)] rdy)]
def sAxisCommands (k : Nat) : State := ((s1 ++ [ax 0 (fun x => {x with st := .moving, ref := true, endAt := 5}) (cfg 0 2 [] rdy), State.reset.m, ax 0 (fun x => {x with st := .ready}) up]).map st : List State).getD k State.reset
theorem witness_AxisCommands_1 :
    (∃ (s : State) (dt : Nat) (m : Mach) (a : Fin 8), m = s.at dt ∧ m.Quiet ∧ m.open? 15728640 = true ∧ m.axis[a].stop = none ∧ m.axis[a].moves m.mt = false) ∧
    (∃ (s : State) (dt : Nat) (m : Mach) (a : Fin 8), m = s.at dt ∧ m.Quiet ∧ m.open? 15728640 = true) ∧
    (∃ (s : State) (dt : Nat) (m : Mach) (a : Fin 8), m = s.at dt ∧ m.Quiet ∧ m.open? 15728640 = true ∧ (m.axis[a].st = AxSt.moving ∨ m.axis[a].st = AxSt.off ∨ m.axis[a].st = AxSt.homing ∨ m.axis[a].st = AxSt.faulted ∨ m.axis[a].st = AxSt.stopping ∨ m.axis[a].st = AxSt.held)) ∧
    (∃ (s : State) (dt : Nat) (m : Mach) (a : Fin 8), m = s.at dt ∧ m.Quiet ∧ m.open? 15728640 = true ∧ (m.axis[a].st = AxSt.moving ∨ m.axis[a].st = AxSt.off ∨ m.axis[a].st = AxSt.homing ∨ m.axis[a].st = AxSt.faulted ∨ m.axis[a].st = AxSt.stopping ∨ m.axis[a].st = AxSt.held)) ∧
    (∃ (s : State) (dt : Nat) (m : Mach) (a : Fin 8), m = s.at dt ∧ m.Quiet ∧ m.open? 15728640 = true ∧ (m.axis[a].st ≠ AxSt.faulted ∨ m.axis[a].chatter = true ∧ m.axQuiet a m.axis[a] = false)) ∧
    (∃ (s : State) (dt : Nat) (m : Mach) (a : Fin 8), m = s.at dt ∧ m.Quiet ∧ m.open? 15728640 = true ∧ m.enableBad a = false) ∧
    (∃ (s : State) (dt : Nat) (m : Mach) (a : Fin 8), m = s.at dt ∧ m.Quiet ∧ m.open? 15728640 = true ∧ m.axis[a].moves m.mt = false ∧ m.axis[a].qstop = false ∧ m.axis[a].st ≠ AxSt.faulted) ∧
    (∃ (s : State) (dt : Nat) (m : Mach) (a : Fin 8), m = s.at dt ∧ m.Quiet ∧ m.open? 15728640 = true ∧ m.enableBad a = true) :=
  ⟨⟨(sAxisCommands 0), (0), _, (0), rfl, by unfold Mach.Quiet; decide +kernel, by decide +kernel⟩,
    ⟨(sAxisCommands 0), (0), _, (0), rfl, by unfold Mach.Quiet; decide +kernel, by decide +kernel⟩,
    ⟨(sAxisCommands 0), (0), _, (0), rfl, by unfold Mach.Quiet; decide +kernel, by decide +kernel⟩,
    ⟨(sAxisCommands 0), (0), _, (0), rfl, by unfold Mach.Quiet; decide +kernel, by decide +kernel⟩,
    ⟨(sAxisCommands 0), (0), _, (0), rfl, by unfold Mach.Quiet; decide +kernel, by decide +kernel⟩,
    ⟨(sAxisCommands 0), (0), _, (0), rfl, by unfold Mach.Quiet; decide +kernel, by decide +kernel⟩,
    ⟨(sAxisCommands 0), (0), _, (0), rfl, by unfold Mach.Quiet; decide +kernel, by decide +kernel⟩,
    ⟨(sAxisCommands 2), (0), _, (0), rfl, by unfold Mach.Quiet; decide +kernel, by decide +kernel⟩⟩
theorem witness_AxisCommands_2 :
    (∃ (s : State) (dt : Nat) (m : Mach) (a : Fin 8), m = s.at dt ∧ m.Quiet ∧ m.open? 15728640 = true ∧ m.axis[a].moves m.mt = true ∧ m.axis[a].stop = none) ∧
    (∃ (s : State) (dt : Nat) (m : Mach) (a : Fin 8), m = s.at dt ∧ m.Quiet ∧ m.open? 15728640 = true ∧ m.axis[a].moves m.mt = true) ∧
    (∃ (s : State) (dt : Nat) (m : Mach) (a : Fin 8), m = s.at dt ∧ m.Quiet ∧ m.axis[a].moves m.mt = true) ∧
    (∃ (s : State) (dt : Nat) (m : Mach) (a : Fin 8), m = s.at dt ∧ m.Quiet ∧ m.open? 15728640 = true ∧ (m.axis[a].st = AxSt.unref ∨ m.axis[a].st = AxSt.ready ∨ m.axis[a].st = AxSt.limit) ∧ m.axesRun = true) ∧
    (∃ (s : State) (dt : Nat) (m : Mach) (a : Fin 8), m = s.at dt ∧ m.Quiet ∧ m.open? 15728640 = true ∧ (m.axis[a].st = AxSt.unref ∨ m.axis[a].st = AxSt.ready ∨ m.axis[a].st = AxSt.limit)) ∧
    (∃ (s : State) (dt : Nat) (m : Mach) (a : Fin 8), m = s.at dt ∧ m.Quiet ∧ m.open? 15728640 = true ∧ m.axis[a].st = AxSt.faulted ∧ (m.axis[a].chatter = false ∨ m.axQuiet a m.axis[a] = true)) ∧
    (∃ (s : State) (dt : Nat) (m : Mach) (a : Fin 8), m = s.at dt ∧ m.Quiet ∧ m.open? 15728640 = true ∧ m.axis[a].moves m.mt = false ∧ (m.axis[a].qstop = true ∨ m.axis[a].st = AxSt.faulted)) ∧
    (∃ (s : State) (dt : Nat) (m : Mach) (a : Fin 8), m = s.at dt ∧ m.Quiet ∧ m.open? 15728640 = true ∧ m.axis[a].stop.isSome = true) :=
  ⟨⟨(sAxisCommands 4), (0), _, (0), rfl, by unfold Mach.Quiet; decide +kernel, by decide +kernel⟩,
    ⟨(sAxisCommands 4), (0), _, (0), rfl, by unfold Mach.Quiet; decide +kernel, by decide +kernel⟩,
    ⟨(sAxisCommands 4), (0), _, (0), rfl, by unfold Mach.Quiet; decide +kernel, by decide +kernel⟩,
    ⟨(sAxisCommands 6), (0), _, (0), rfl, by unfold Mach.Quiet; decide +kernel, by decide +kernel⟩,
    ⟨(sAxisCommands 6), (0), _, (0), rfl, by unfold Mach.Quiet; decide +kernel, by decide +kernel⟩,
    ⟨(sAxisCommands 9), (0), _, (0), rfl, by unfold Mach.Quiet; decide +kernel, by decide +kernel⟩,
    ⟨(sAxisCommands 9), (0), _, (0), rfl, by unfold Mach.Quiet; decide +kernel, by decide +kernel⟩,
    ⟨(sAxisCommands 12), (0), _, (0), rfl, by unfold Mach.Quiet; decide +kernel, by decide +kernel⟩⟩
theorem witness_AxisCommands_3 :
    (∃ (s : State) (dt : Nat) (m : Mach) (a : Fin 8), m = s.at dt ∧ m.Quiet ∧ m.axis[a].moves m.mt = false ∧ m.axis[a].endVel = 0 ∧ m.axis[a].homing = none ∧ m.axis[a].st = AxSt.stopping ∧ m.axis[a].qstop = false) ∧
    (∃ (s : State) (dt : Nat) (m : Mach) (a : Fin 8), m = s.at dt ∧ m.Quiet ∧ m.axis[a].moves m.mt = false ∧ m.axis[a].endVel = 0 ∧ m.axis[a].homing = some (5, false)) ∧
    (∃ (s : State) (dt : Nat) (m : Mach) (a : Fin 8), m = s.at dt ∧ m.Quiet ∧ m.axis[a].moves m.mt = false ∧ m.axis[a].endVel = 0 ∧ m.axis[a].homing = none ∧ m.axis[a].st = AxSt.moving ∧ m.axis[a].queue = []) ∧
    (∃ (s : State) (dt : Nat) (m : Mach) (a : Fin 8) (i : _), m = s.at dt ∧ i ∈ [Instr.axisStop dt a, Instr.axisFlush dt a, Instr.axisHome dt a, Instr.axisSetpos dt a, Instr.axisClrf dt a, Instr.axisEnable dt a true, Instr.axisEnable dt a false] ∧ m.Quiet ∧ m.open? 15728640 = false) ∧
    (∃ (s : State) (dt : Nat) (m : Mach) (a : Fin 8), m = s.at dt ∧ m.Quiet ∧ m.open? 15728640 = true ∧ (m.axis[a].st = AxSt.unref ∨ m.axis[a].st = AxSt.ready ∨ m.axis[a].st = AxSt.limit) ∧ m.axesRun = false) :=
  ⟨⟨(sAxisCommands 12), (0), _, (0), rfl, by unfold Mach.Quiet; decide +kernel, by decide +kernel⟩,
    ⟨(sAxisCommands 17), (0), _, (0), rfl, by unfold Mach.Quiet; decide +kernel, by decide +kernel⟩,
    ⟨(sAxisCommands 35), (0), _, (0), rfl, by unfold Mach.Quiet; decide +kernel, by decide +kernel⟩,
    ⟨(sAxisCommands 36), (0), _, (0), _, rfl, .head _, by unfold Mach.Quiet; decide +kernel, by decide +kernel⟩,
    ⟨(sAxisCommands 37), (0), _, (0), rfl, by unfold Mach.Quiet; decide +kernel, by decide +kernel⟩⟩
def q256 : List QEntry := List.replicate 256 (.move 1 1)
def r3 (l : List QEntry) (x : Axis) : Axis := {x with st := .ready, ref := true, queue := l}
def s2 : List Mach := as.flatMap fun a => [rdy, cfg a 2 [] rdy, cfg a 2 [(R.AXE_AX_CFG_REFREQ a, 1)] rdy, ax a (r3 []) (cfg a 2 [(R.AXE_AX_CFG_REFREQ a, 1)] rdy), ax a (r3 []) (cfg a 2 [(R.AXE_AX_QTGT a, 2^32-1),(R.AXE_AX_QTGT a, 2^31), (R.AXE_AX_SEGDUR a, 0), (R.AXE_AX_QSPD a, 0)] rdy), ax a (fun x => {r3 [] x with lastTarget := 77}) (cfg a 2 [] rdy), ax a (fun x => {r3 [] x with lastTarget := 2^31-1}) (cfg a 2 [] rdy), ax a (r3 q256) (cfg a 2 [] rdy),
  ax a (r3 [.raw 1600 65536 0]) (cfg a 2 [] rdy), ax a (r3 [.raw 1600 (-65536) 5, .move 3 2]) (cfg a 2 [] rdy), ax a (fun x => {mv x with queue := [.raw 1600 65536 0]}) (cfg a 2 [] rdy), ax a (fun x => {r3 [.raw 1600 65536 0] x with limp := lev x.limp true, st := .limit}) (cfg a 2 [] rdy), ax a (fun x => {r3 [.raw 0 65536 9] x with limp := lev x.limp true, st := .limit}) (cfg a 2 [] rdy),
  ax a (r3 [.move 8 2]) (cfg a 2 [] rdy), ax a (r3 [.move 8 2, .move 9 1]) (cfg a 1 [] rdy), ax a (fun x => { r3 [.move 8 2, .move 9 1] x with st := .moving}) (cfg a 1 [] rdy)]
def sAxisQueueAndProfiler (k : Nat) : State := ((s2 ++ [State.reset.m, ax 0 (fun x => {mv x with endVel := 65536}) (cfg 0 1 [] rdy)]).map st : List State).getD k State.reset
theorem witness_AxisQueueAndProfiler_1 :
    (∃ (s : State) (dt : Nat) (m : Mach) (a : Fin 8) (push : Instr), m = s.at dt ∧ m.Quiet ∧ m.open? 15728640 = true ∧ ((push = Instr.pushMove dt a ∨ push = Instr.pushRelativeMove dt a) ∧ m.rd (R.AXE_AX_QSPD ↑a) = 0 ∨ push = Instr.pushRawSegment dt a ∧ m.rd (R.AXE_AX_SEGDUR ↑a) = 0 ∨ (push = Instr.pushMove dt a ∨ push = Instr.pushRelativeMove dt a ∨ push = Instr.pushRawSegment dt a) ∧ m.rd (R.AXE_AX_CFG_REFREQ ↑a) = 1 ∧ m.axis[a].ref = false)) ∧
    (∃ (s : State) (dt : Nat) (m : Mach) (a : Fin 8) (segs : List AxSeg), m = s.at dt ∧ m.Quiet ∧ m.Quiet ∧ m.axCommits a m.axis[a] = false) ∧
    (∃ (s : State) (dt : Nat) (m : Mach) (a : Fin 8) (rel : Bool), m = s.at dt ∧ m.Quiet ∧ m.open? 15728640 = true ∧ (m.rd (R.AXE_AX_CFG_REFREQ ↑a) = 0 ∨ m.axis[a].ref = true) ∧ m.axis[a].queue.length < 256 ∧ m.rd (R.AXE_AX_QSPD ↑a) ≠ 0) ∧
    (∃ (s : State) (dt : Nat) (m : Mach) (a : Fin 8), m = s.at dt ∧ m.Quiet ∧ m.open? 15728640 = true ∧ (m.rd (R.AXE_AX_CFG_REFREQ ↑a) = 0 ∨ m.axis[a].ref = true) ∧ m.axis[a].queue.length < 256 ∧ m.rd (R.AXE_AX_SEGDUR ↑a) ≠ 0) ∧
    (∃ (s : State) (dt : Nat) (m : Mach) (a : Fin 8) (segs : List AxSeg), m = s.at dt ∧ m.Quiet ∧ m.axCommits a m.axis[a] = true ∧ m.axis[a].queue = [] ∧ m.axis[a].endVel = 0) ∧
    (∃ (s : State) (dt : Nat) (m : Mach) (a : Fin 8) (push : Instr), m = s.at dt ∧ m.Quiet ∧ m.open? 15728640 = true ∧ ((push = Instr.pushMove dt a ∨ push = Instr.pushRelativeMove dt a) ∧ m.rd (R.AXE_AX_QSPD ↑a) ≠ 0 ∨ push = Instr.pushRawSegment dt a ∧ m.rd (R.AXE_AX_SEGDUR ↑a) ≠ 0) ∧ (m.rd (R.AXE_AX_CFG_REFREQ ↑a) = 0 ∨ m.axis[a].ref = true) ∧ 256 ≤ m.axis[a].queue.length ∧ m.rd (R.AXE_AX_FAULT_CAUSE ↑a) = 0) ∧
    (∃ (s : State) (dt : Nat) (m : Mach) (a : Fin 8) (segs : List AxSeg) (d : Nat) (p : Int) (v : Int) (rest : List QEntry), m = s.at dt ∧ m.Quiet ∧ m.Quiet ∧ m.axCommits a m.axis[a] = true ∧ m.axis[a].queue = QEntry.raw d p v :: rest ∧ (m.axis[a].moves m.mt = true ∨ m.axis[a].limp.level = false ∧ m.axis[a].limn.level = false)) ∧
    (∃ (s : State) (dt : Nat) (m : Mach) (a : Fin 8) (segs : List AxSeg) (d : Nat) (p : Int) (v : Int) (rest : List QEntry), m = s.at dt ∧ m.Quiet ∧ m.Quiet ∧ m.axCommits a m.axis[a] = true ∧ m.axis[a].queue = QEntry.raw d p v :: rest ∧ m.axis[a].moves m.mt = false ∧ m.axis[a].limp.level = true ∧ m.axis[a].limn.level = false ∧ m.axis[a].endPos < p ∧ m.rd (R.AXE_AX_FAULT_CAUSE ↑a) = 0 ∧ (∀ (n : Fin 16), m.fe[n].lasing m.mt = false)) :=
  ⟨⟨(sAxisQueueAndProfiler 0), (0), _, (0), (Instr.pushMove 0 0), rfl, by unfold Mach.Quiet; decide +kernel, by decide +kernel⟩,
    ⟨(sAxisQueueAndProfiler 0), (0), _, (0), ([]), rfl, by unfold Mach.Quiet; decide +kernel, by unfold Mach.Quiet; decide +kernel, by decide +kernel⟩,
    ⟨(sAxisQueueAndProfiler 3), (0), _, (0), (false), rfl, by unfold Mach.Quiet; decide +kernel, by decide +kernel⟩,
    ⟨(sAxisQueueAndProfiler 3), (0), _, (0), rfl, by unfold Mach.Quiet; decide +kernel, by decide +kernel⟩,
    ⟨(sAxisQueueAndProfiler 3), (0), _, (0), ([]), rfl, by unfold Mach.Quiet; decide +kernel, by decide +kernel⟩,
    ⟨(sAxisQueueAndProfiler 7), (0), _, (0), (Instr.pushMove 0 0), rfl, by unfold Mach.Quiet; decide +kernel, by decide +kernel⟩,
    ⟨(sAxisQueueAndProfiler 8), (0), _, (0), ([]), (1600), (65536), (0), ([]), rfl, by unfold Mach.Quiet; decide +kernel, by unfold Mach.Quiet; decide +kernel, by decide +kernel⟩,
    ⟨(sAxisQueueAndProfiler 11), (0), _, (0), ([]), (1600), (65536), (0), ([]), rfl, by unfold Mach.Quiet; decide +kernel, by unfold Mach.Quiet; decide +kernel, by decide +kernel⟩⟩
theorem witness_AxisQueueAndProfiler_2 :
    (∃ (s : State) (dt : Nat) (m : Mach) (a : Fin 8) (segs : List AxSeg) (g : Int) (sp : Nat) (rest : List QEntry), m = s.at dt ∧ m.Quiet ∧ m.Quiet ∧ m.axCommits a m.axis[a] = true ∧ m.axis[a].queue = QEntry.move g sp :: rest ∧ m.axis[a].limp.level = false ∧ m.axis[a].limn.level = false ∧ m.axMoveOk a m.axis[a] g sp rest segs = false) ∧
    (∃ (s : State) (dt : Nat) (m : Mach) (a : Fin 8) (segs : List AxSeg) (g : Int) (sp : Nat) (rest : List QEntry), m = s.at dt ∧ m.Quiet ∧ m.Quiet ∧ m.axCommits a m.axis[a] = true ∧ m.axis[a].queue = QEntry.move g sp :: rest ∧ m.axis[a].limp.level = false ∧ m.axis[a].limn.level = false ∧ m.axMoveOk a m.axis[a] g sp rest segs = true ∧ (segs.getLastD { dur := 0, pos := 0, vel := 0 }).pos = g * 65536) ∧
    (∃ (s : State) (dt : Nat) (m : Mach) (a : Fin 8) (i : _), m = s.at dt ∧ i ∈ [Instr.pushMove dt a, Instr.pushRelativeMove dt a, Instr.pushRawSegment dt a] ∧ m.Quiet ∧ m.open? 15728640 = false) ∧
    (∃ (s : State) (dt : Nat) (m : Mach) (a : Fin 8) (segs : List AxSeg), m = s.at dt ∧ m.Quiet ∧ m.axCommits a m.axis[a] = true ∧ m.axis[a].queue = [] ∧ m.axis[a].endVel ≠ 0 ∧ (segs.getLastD { dur := 0, pos := 0, vel := 1 }).vel = 0 ∧ (chain (↑(m.axis[a].nextStart m.mt)) m.axis[a].endPos m.axis[a].endVel segs).all (m.axSegOk a (m.axVmax a)) = true) :=
  ⟨⟨(sAxisQueueAndProfiler 13), (0), _, (0), ([]), (8), (2), ([]), rfl, by unfold Mach.Quiet; decide +kernel, by unfold Mach.Quiet; decide +kernel, by decide +kernel⟩,
    ⟨(sAxisQueueAndProfiler 13), (0), _, (0), ([{ dur := 80000000, pos := 524288, vel := 0 }]), (8), (2), ([]), rfl, by unfold Mach.Quiet; decide +kernel, by unfold Mach.Quiet; decide +kernel, by decide +kernel⟩,
    ⟨(sAxisQueueAndProfiler 32), (0), _, (0), _, rfl, .head _, by unfold Mach.Quiet; decide +kernel, by decide +kernel⟩,
    ⟨(sAxisQueueAndProfiler 33), (0), _, (0), ([{ dur := 80000000, pos := 524288, vel := 0 }]), rfl, by unfold Mach.Quiet; decide +kernel, by decide +kernel⟩⟩
def s3 : List Mach := as.flatMap fun a => s1 ++ [{rdy with mt := rdy.mt + 1}, ax a (r3 []) (cfg a 2 [(R.AXE_AX_QUAL_N a, 2)] rdy), ax a (r3 []) (cfg a 2 [(R.AXE_AX_QUAL_N a, 1)] rdy), ax a (fun x => {r3 [] x with limp := {x.limp with count := 1, candAt := 55}}) (cfg a 2 [(R.AXE_AX_QUAL_N a, 2)] rdy), ax a mv (cfg a 2 [(R.AXE_AX_QUAL_N a, 0)] rdy), ax a (fun x => {r3 [] x with fbMiss := 3, ctx := { x.ctx with st := .active}}) (cfg a 1 [(R.AXE_AX_RFMISS a, 3)] rdy), ax a (fun x => {r3 [] x with fbMiss := 3, ctx := { x.ctx with st := .faulted}}) (cfg a 1 [(R.AXE_AX_RFMISS a, 4)] rdy), ax a (fun x => {mv x with fbMiss := 3, ctx := { x.ctx with st := .halted}}) (cfg a 1 [(R.AXE_AX_RFMISS a, 3)] rdy)]
def sAxisInputsFeedbackAndContexts (k : Nat) : State := ((s3 ++ [State.reset.m]).map st : List State).getD k State.reset
theorem witness_AxisInputsFeedbackAndContexts_1 :
    (∃ (s : State) (dt : Nat) (m : Mach) (a : Fin 8) (p : Bool), m = s.at dt ∧ m.Quiet ∧ m.mt % 800 = 0 ∧ m.axis[a].home.level = (m.axis[a].home.raw != m.on (R.AXE_AX_CFG_HOMEPOL ↑a)) ∧ m.axis[a].limn.level = false ∧ (m.axis[a].limn.raw != m.on (R.AXE_AX_CFG_LIMPOL ↑a)) = false ∧ m.axChatters a (m.axSample a m.axis[a].home.raw p m.axis[a].limn.raw) = false ∧ m.axis[a].limp.level = false ∧ (p != m.on (R.AXE_AX_CFG_LIMPOL ↑a)) = true ∧ m.axis[a].homing = none ∧ m.axis[a].limp.count + 1 < max (m.rd (R.AXE_AX_QUAL_N ↑a)) 1) ∧
    (∃ (s : State) (dt : Nat) (m : Mach) (a : Fin 8), m = s.at dt ∧ m.Quiet ∧ (m.rd (R.AXE_AX_CFG_KIND ↑a) ≠ 1 ∨ m.rd (R.AXE_AX_CTRL ↑a) = 0 ∨ m.axis[a].fbMiss < max (m.rd (R.AXE_AX_RFMISS ↑a)) 1)) ∧
    (∃ (s : State) (dt : Nat) (m : Mach) (a : Fin 8), m = s.at dt ∧ m.Quiet ∧ m.open? 15728640 = true ∧ ctxIdle m.axis[a].ctx.st = true) ∧
    (∃ (s : State) (dt : Nat) (m : Mach) (a : Fin 8), m = s.at dt ∧ m.Quiet ∧ m.open? 15728640 = true ∧ ctxBusy m.axis[a].ctx.st = false) ∧
    (∃ (s : State) (dt : Nat) (m : Mach) (a : Fin 8), m = s.at dt ∧ m.Quiet ∧ m.open? 15728640 = true ∧ ctxBusy m.axis[a].ctx.st = false) ∧
    (∃ (s : State) (dt : Nat) (m : Mach) (a : Fin 8) (h : Bool) (p : Bool) (q : Bool), m = s.at dt ∧ m.Quiet ∧ m.mt % 800 ≠ 0) ∧
    (∃ (s : State) (dt : Nat) (m : Mach) (a : Fin 8), m = s.at dt ∧ m.Quiet ∧ m.open? 15728640 = true ∧ ctxIdle m.axis[a].ctx.st = false) ∧
    (∃ (s : State) (dt : Nat) (m : Mach) (a : Fin 8) (p : Bool), m = s.at dt ∧ m.Quiet ∧ m.mt % 800 = 0 ∧ m.axis[a].home.level = (m.axis[a].home.raw != m.on (R.AXE_AX_CFG_HOMEPOL ↑a)) ∧ m.axis[a].limn.level = false ∧ (m.axis[a].limn.raw != m.on (R.AXE_AX_CFG_LIMPOL ↑a)) = false ∧ m.axChatters a (m.axSample a m.axis[a].home.raw p m.axis[a].limn.raw) = false ∧ m.axis[a].limp.level = false ∧ (p != m.on (R.AXE_AX_CFG_LIMPOL ↑a)) = true ∧ m.axis[a].homing = none ∧ max (m.rd (R.AXE_AX_QUAL_N ↑a)) 1 ≤ m.axis[a].limp.count + 1 ∧ m.axis[a].moves m.mt = false ∧ m.axis[a].st = AxSt.ready ∧ m.rd (R.AXE_AX_CTRL ↑a) = 1 ∧ m.rd (R.AXE_AX_CFG_KIND ↑a) ≠ 0) :=
  ⟨⟨(sAxisInputsFeedbackAndContexts 0), (0), _, (0), (true), rfl, by unfold Mach.Quiet; decide +kernel, by decide +kernel⟩,
    ⟨(sAxisInputsFeedbackAndContexts 0), (0), _, (0), rfl, by unfold Mach.Quiet; decide +kernel, by decide +kernel⟩,
    ⟨(sAxisInputsFeedbackAndContexts 0), (0), _, (0), rfl, by unfold Mach.Quiet; decide +kernel, by decide +kernel⟩,
    ⟨(sAxisInputsFeedbackAndContexts 0), (0), _, (0), rfl, by unfold Mach.Quiet; decide +kernel, by decide +kernel⟩,
    ⟨(sAxisInputsFeedbackAndContexts 0), (0), _, (0), rfl, by unfold Mach.Quiet; decide +kernel, by decide +kernel⟩,
    ⟨(sAxisInputsFeedbackAndContexts 0), (1), _, (0), (false), (false), (false), rfl, by unfold Mach.Quiet; decide +kernel, by decide +kernel⟩,
    ⟨(sAxisInputsFeedbackAndContexts 9), (0), _, (0), rfl, by unfold Mach.Quiet; decide +kernel, by decide +kernel⟩,
    ⟨(sAxisInputsFeedbackAndContexts 37), (0), _, (0), (true), rfl, by unfold Mach.Quiet; decide +kernel, by decide +kernel⟩⟩
theorem witness_AxisInputsFeedbackAndContexts_2 :
    (∃ (s : State) (dt : Nat) (m : Mach) (a : Fin 8) (p : Bool), m = s.at dt ∧ m.Quiet ∧ m.mt % 800 = 0 ∧ m.axis[a].home.level = (m.axis[a].home.raw != m.on (R.AXE_AX_CFG_HOMEPOL ↑a)) ∧ m.axis[a].limn.level = false ∧ (m.axis[a].limn.raw != m.on (R.AXE_AX_CFG_LIMPOL ↑a)) = false ∧ m.axChatters a (m.axSample a m.axis[a].home.raw p m.axis[a].limn.raw) = false ∧ m.axis[a].limp.level = false ∧ (p != m.on (R.AXE_AX_CFG_LIMPOL ↑a)) = true ∧ m.axis[a].homing = none ∧ max (m.rd (R.AXE_AX_QUAL_N ↑a)) 1 ≤ m.axis[a].limp.count + 1 ∧ m.axis[a].moves m.mt = true ∧ 0 < m.axis[a].velAt m.mt ∧ m.axis[a].stop = none ∧ m.axis[a].st = AxSt.moving ∧ m.rd (R.AXE_AX_FAULT_CAUSE ↑a) = 0 ∧ (∀ (n : Fin 16), m.fe[n].lasing m.mt = false)) ∧
    (∃ (s : State) (dt : Nat) (m : Mach) (a : Fin 8), m = s.at dt ∧ m.Quiet ∧ m.rd (R.AXE_AX_CFG_KIND ↑a) = 1 ∧ m.rd (R.AXE_AX_CTRL ↑a) = 1 ∧ max (m.rd (R.AXE_AX_RFMISS ↑a)) 1 ≤ m.axis[a].fbMiss ∧ m.rd (R.AXE_AX_FAULT_CAUSE ↑a) = 0 ∧ (∀ (n : Fin 16), m.fe[n].lasing m.mt = false)) ∧
    (∃ (s : State) (dt : Nat) (m : Mach) (a : Fin 8), m = s.at dt ∧ m.Quiet ∧ m.open? 15728640 = true ∧ ctxBusy m.axis[a].ctx.st = true) ∧
    (∃ (s : State) (dt : Nat) (m : Mach) (a : Fin 8), m = s.at dt ∧ m.Quiet ∧ m.open? 15728640 = true ∧ ctxBusy m.axis[a].ctx.st = true) ∧
    (∃ (s : State) (dt : Nat) (m : Mach) (a : Fin 8) (i : _), m = s.at dt ∧ i ∈ [Instr.axeCtxStart dt a, Instr.axeCtxStop dt a, Instr.axeCtxReset dt a] ∧ m.Quiet ∧ m.open? 15728640 = false) :=
  ⟨⟨(sAxisInputsFeedbackAndContexts 39), (0), _, (0), (true), rfl, by unfold Mach.Quiet; decide +kernel, by decide +kernel⟩,
    ⟨(sAxisInputsFeedbackAndContexts 40), (0), _, (0), rfl, by unfold Mach.Quiet; decide +kernel, by decide +kernel⟩,
    ⟨(sAxisInputsFeedbackAndContexts 40), (0), _, (0), rfl, by unfold Mach.Quiet; decide +kernel, by decide +kernel⟩,
    ⟨(sAxisInputsFeedbackAndContexts 40), (0), _, (0), rfl, by unfold Mach.Quiet; decide +kernel, by decide +kernel⟩,
    ⟨(sAxisInputsFeedbackAndContexts 86), (0), _, (0), _, rfl, .head _, by unfold Mach.Quiet; decide +kernel, by decide +kernel⟩⟩
end
end W23

namespace W24
section
def me (f : Mem → Mem) (m : Mach) : Mach := { m with mem := f m.mem }
def A1 : Nat := 0x400000180
def mb : Mach := (poke [(0x400000180, 0x8877665544332211), (0x200, 5)] rdy).wrs [(R.MEM_CH_RMAP_SPARE 0, 2), (R.MEM_CH_RMAP_L1 0, 1), (R.MEM_CH_RMAP_L1 1, 1), (R.MEM_CH_RK_STATE_STATE 0 0, 1), (R.MEM_CH_RK_STATE_STATE 0 1, 1), (R.MEM_CH_RK_STATE_STATE 1 0, 1), (R.MEM_CH_RK_STATE_STATE 1 1, 1), (R.MEM_CH_RK_STATE_STATE 1 2, 0), (R.MEM_CH_RK_STATE_STATE 0 2, 0)]
def ms1 : List Mach := [mb, me (fun x => {x with poison := [A1/128]}) mb, mb.wrs [(R.MEM_CH_RMAP_L1 1, 3)], mb.wrs [(R.SAF_SHARED_LO 0, 0), (R.SAF_SHARED_HI 0, 4), (R.SAF_SHARED_SIZE 0, 1)],
   me (fun x => {x with wmark := [0, 256]}) (mb.wrs [(R.MEM_RACK_STAT_STATE 1, 1), (R.MEM_RACK_STAT_SRC 1, 1), (R.MEM_RACK_STAT_LRANK 1, 1), (R.MEM_CH_RK_STATE_STATE 1 2, 3), (R.MEM_CH_RK_STATE_STATE 1 1, 2)])]
def sMemoryReadsAndWrites (k : Nat) : State := (ms1.map st : List State).getD k State.reset
theorem witness_MemoryReadsAndWrites_1 :
    (∃ (s : State) (dt : Nat) (m : Mach) (p : Fin 12) (k : Byte) (a : BitVec 40) (lv : BitVec 4) (f : EccFind), m = s.at dt ∧ rtPort ↑p = false) ∧
    (∃ (s : State) (dt : Nat) (m : Mach) (p : Fin 12) (k : Byte) (a : BitVec 40) (lv : BitVec 4) (f : EccFind), m = s.at dt ∧ rtPort ↑p = false ∧ m.unbacked a.toNat = false ∧ m.mem.poison.contains (a.toNat / 128) = false ∧ (f = EccFind.clean ∨ f = EccFind.retryClean)) ∧
    (∃ (s : State) (dt : Nat) (m : Mach) (p : Fin 12) (k : Byte) (a : BitVec 40) (lv : BitVec 4) (f : EccFind), m = s.at dt ∧ rtPort ↑p = false ∧ m.unbacked a.toNat = false ∧ m.mem.poison.contains (a.toNat / 128) = false ∧ (f = EccFind.correctable ∨ f = EccFind.retryCorrectable) ∧ m.raisedThisTick 32 = false) ∧
    (∃ (s : State) (dt : Nat) (m : Mach) (p : Fin 12) (k : Byte) (a : BitVec 40) (lv : BitVec 4), m = s.at dt ∧ rtPort ↑p = false ∧ m.unbacked a.toNat = false ∧ m.mem.poison.contains (a.toNat / 128) = false) ∧
    (∃ (s : State) (dt : Nat) (m : Mach) (p : Fin 12) (k : Byte) (a : BitVec 40) (lv : BitVec 4) (bs : List Byte) (f : EccFind), m = s.at dt ∧ rtPort ↑p = false) ∧
    (∃ (s : State) (dt : Nat) (m : Mach) (p : Fin 12) (k : Byte) (a : BitVec 40) (lv : BitVec 4) (bs : List Byte), m = s.at dt ∧ rtPort ↑p = false ∧ (∀ l ∈ linesOf a.toNat bs.length, m.unbacked (128 * l) = false ∧ m.mem.poison.contains l = false)) ∧
    (∃ (s : State) (dt : Nat) (m : Mach) (p : Fin 12) (k : Byte) (a : BitVec 40) (lv : BitVec 4) (bs : List Byte) (f : EccFind), m = s.at dt ∧ rtPort ↑p = false ∧ bs.length = 128 ∧ a.toNat % 128 = 0 ∧ m.unbacked a.toNat = false) ∧
    (∃ (s : State) (dt : Nat) (m : Mach) (p : Fin 12) (k : Byte) (a : BitVec 40) (lv : BitVec 4) (bs : List Byte) (f : EccFind), m = s.at dt ∧ rtPort ↑p = false ∧ 0 < bs.length ∧ a.toNat % 128 + bs.length ≤ 128 ∧ m.unbacked a.toNat = false ∧ bs.length < 128 ∧ m.mem.poison.contains (a.toNat / 128) = false ∧ f = EccFind.confirmed) :=
  ⟨⟨(sMemoryReadsAndWrites 0), (0), _, (0), (0x00#8), (0x0400000180#40), (0x0#4), (EccFind.clean), rfl, by decide +kernel⟩,
    ⟨(sMemoryReadsAndWrites 0), (0), _, (0), (0x00#8), (0x0400000180#40), (0x0#4), (EccFind.clean), rfl, by decide +kernel⟩,
    ⟨(sMemoryReadsAndWrites 0), (0), _, (0), (0x00#8), (0x0400000180#40), (0x0#4), (EccFind.correctable), rfl, by decide +kernel⟩,
    ⟨(sMemoryReadsAndWrites 0), (0), _, (0), (0x00#8), (0x0400000180#40), (0x0#4), rfl, by decide +kernel⟩,
    ⟨(sMemoryReadsAndWrites 0), (0), _, (0), (0x00#8), (0x0400000180#40), (0x0#4), ([]), (EccFind.clean), rfl, by decide +kernel⟩,
    ⟨(sMemoryReadsAndWrites 0), (0), _, (0), (0x00#8), (0x0400000180#40), (0x0#4), ([]), rfl, by decide +kernel⟩,
    ⟨(sMemoryReadsAndWrites 0), (0), _, (0), (0x00#8), (0x0400000180#40), (0x0#4), ((List.replicate 128 0x09#8)), (EccFind.clean), rfl, by decide +kernel⟩,
    ⟨(sMemoryReadsAndWrites 0), (0), _, (0), (0x00#8), (0x0400000180#40), (0x0#4), ([0x01#8, 0x02#8, 0x03#8]), (EccFind.confirmed), rfl, by decide +kernel⟩⟩
theorem witness_MemoryReadsAndWrites_2 :
    (∃ (s : State) (dt : Nat) (m : Mach) (p : Fin 12) (k : Byte) (a : BitVec 40) (lv : BitVec 4) (f : EccFind), m = s.at dt ∧ rtPort ↑p = false ∧ m.unbacked a.toNat = true ∧ m.raisedThisTick 39 = false) ∧
    (∃ (s : State) (dt : Nat) (m : Mach) (p : Fin 12) (k : Byte) (a : BitVec 40) (lv : BitVec 4) (bs : List Byte) (f : EccFind), m = s.at dt ∧ rtPort ↑p = false ∧ 0 < bs.length ∧ a.toNat % 128 + bs.length ≤ 128 ∧ m.unbacked a.toNat = true) ∧
    (∃ (s : State) (dt : Nat) (m : Mach) (p : Fin 12) (k : Byte) (a : BitVec 40) (lv : BitVec 4) (f : EccFind), m = s.at dt ∧ rtPort ↑p = false ∧ m.unbacked a.toNat = false ∧ m.mem.poison.contains (a.toNat / 128) = true ∧ m.raisedThisTick 39 = false) ∧
    (∃ (s : State) (dt : Nat) (m : Mach) (p : Fin 12) (k : Byte) (a : BitVec 40) (lv : BitVec 4) (bs : List Byte) (f : EccFind), m = s.at dt ∧ rtPort ↑p = false ∧ 0 < bs.length ∧ a.toNat % 128 + bs.length ≤ 128 ∧ m.unbacked a.toNat = false ∧ bs.length < 128 ∧ m.mem.poison.contains (a.toNat / 128) = true ∧ m.raisedThisTick 43 = false) :=
  ⟨⟨(sMemoryReadsAndWrites 0), (0), _, (0), (0x00#8), (0x0800000000#40), (0x0#4), (EccFind.clean), rfl, by decide +kernel⟩,
    ⟨(sMemoryReadsAndWrites 0), (0), _, (0), (0x00#8), (0x0800000000#40), (0x0#4), ([0x01#8, 0x02#8, 0x03#8]), (EccFind.clean), rfl, by decide +kernel⟩,
    ⟨(sMemoryReadsAndWrites 1), (0), _, (0), (0x00#8), (0x0400000180#40), (0x0#4), (EccFind.clean), rfl, by decide +kernel⟩,
    ⟨(sMemoryReadsAndWrites 1), (0), _, (0), (0x00#8), (0x0400000180#40), (0x0#4), ([0x01#8, 0x02#8, 0x03#8]), (EccFind.clean), rfl, by decide +kernel⟩⟩
def ms2 : List Mach := [mb, me (fun x => {x with panic := [512, 7*256+255], rows := [(0, (5, 0)), (rowKey 1 2 31, (6, 0)), (rowKey 0 2 31, (6, rdy.mt - 100))]}) (mb.wrs [(R.MEM_PAGE, 200), (R.MEM_CAPTH_N, 1), (R.MEM_AGE_BE, 5), (R.MEM_CTRL, 1), (R.MEM_PORT_CFG_PON 2, 3), (R.MEM_PORT_CFG_POFF 2, 8), (R.MEM_PORT_CFG_PON 7, 3), (R.MEM_PORT_CFG_POFF 7, 8)]),
  me (fun x => {x with scrubAt := [(1, 2^26-2)]}) (mb.wrs [(R.MEM_CH_RMAP_SPARE 1, 2), (R.MEM_CAPTH_N, 2), (R.MEM_CTRL, 1), (R.MEM_CH_TEMP_HOT 0, 1), (R.MEM_CH_TEMP_HOT 1, 1)]), mb.wrs [(R.MEM_CTRL, 1), (R.MEM_CH_RK_STATE_STATE 1 2, 4), (R.MEM_PORT_CFG_CLASS 1, 2)]]
def sMemoryHousekeeping (k : Nat) : State := (ms2.map st : List State).getD k State.reset
theorem witness_MemoryHousekeeping_1 :
    (∃ (s : State) (dt : Nat) (m : Mach) (p : Fin 12) (k : Byte) (a : BitVec 40) (lv : BitVec 4), m = s.at dt ∧ (p = 2 ∨ p = 7) ∧ m.unbacked a.toNat = false ∧ m.mem.poison.contains (a.toNat / 128) = false ∧ ↑p * 256 + BitVec.toNat k ∉ m.mem.panic ∧ lv.toNat ≤ m.rd (R.MEM_PORT_CFG_PON ↑p) ∧ m.raisedThisTick 42 = false) ∧
    (∃ (s : State) (dt : Nat) (m : Mach) (p : Fin 12), m = s.at dt ∧ m.portClassNow p = 2 ∧ m.rd R.MEM_AGE_BE ≠ 0) ∧
    (∃ (s : State) (dt : Nat) (m : Mach) (p : Fin 12), m = s.at dt ∧ (m.portClassNow p = 0 ∨ m.portClassNow p = 1)) ∧
    (∃ (s : State) (dt : Nat) (m : Mach) (c : Fin 2) (r : Fin 3) (l : _), m = s.at dt ∧ m.logicalOf ↑c ↑r = some l ∧ m.rd R.MEM_CTRL = 1 ∧ m.rkState ↑c ↑r = 1 ∧ m.scrubbed ↑c ↑r + 1 < 2 ^ 26 ∧ m.mem.poison.contains (lineAddr (↑c) l (128 * m.scrubbed ↑c ↑r) / 128) = false) ∧
    (∃ (s : State) (dt : Nat) (m : Mach) (c : Fin 2) (r : Fin 3) (l : _), m = s.at dt ∧ m.logicalOf ↑c ↑r = some l ∧ m.rd R.MEM_CTRL = 1 ∧ m.rkState ↑c ↑r = 1 ∧ m.scrubbed ↑c ↑r + 1 < 2 ^ 26 ∧ m.mem.poison.contains (lineAddr (↑c) l (128 * m.scrubbed ↑c ↑r) / 128) = false ∧ m.raisedThisTick 32 = false) ∧
    (∃ (s : State) (dt : Nat) (m : Mach) (c : Fin 2) (r : Fin 3) (l : _), m = s.at dt ∧ m.logicalOf ↑c ↑r = some l ∧ m.rd R.MEM_CTRL = 1 ∧ m.rkState ↑c ↑r = 1 ∧ m.scrubbed ↑c ↑r + 1 < 2 ^ 26 ∧ m.mem.poison.contains (lineAddr (↑c) l (128 * m.scrubbed ↑c ↑r) / 128) = false) ∧
    (∃ (s : State) (dt : Nat) (m : Mach) (c : Fin 2) (r : Fin 3) (f : EccFind), m = s.at dt ∧ (m.rd R.MEM_CTRL = 0 ∨ m.logicalOf ↑c ↑r = none)) ∧
    (∃ (s : State) (dt : Nat) (m : Mach) (c : Fin 2) (r : Fin 3), m = s.at dt ∧ m.mem.parity = [] ∧ m.raisedThisTick 34 = false ∧ m.rkState ↑c ↑r = 1 ∧ m.spareReady ↑c = true) :=
  ⟨⟨(sMemoryHousekeeping 0), (0), _, (2), (0x00#8), (0x0400000180#40), (0x0#4), rfl, by decide +kernel⟩,
    ⟨(sMemoryHousekeeping 0), (0), _, (0), rfl, by decide +kernel⟩,
    ⟨(sMemoryHousekeeping 0), (0), _, (2), rfl, by decide +kernel⟩,
    ⟨(sMemoryHousekeeping 0), (0), _, (0), (0), _, rfl, rfl, by decide +kernel⟩,
    ⟨(sMemoryHousekeeping 0), (0), _, (0), (0), _, rfl, rfl, by decide +kernel⟩,
    ⟨(sMemoryHousekeeping 0), (0), _, (0), (0), _, rfl, rfl, by decide +kernel⟩,
    ⟨(sMemoryHousekeeping 0), (0), _, (0), (2), (EccFind.clean), rfl, by decide +kernel⟩,
    ⟨(sMemoryHousekeeping 0), (0), _, (0), (0), rfl, by decide +kernel⟩⟩
theorem witness_MemoryHousekeeping_2 :
    (∃ (s : State) (dt : Nat) (m : Mach) (c : Fin 2) (r : Fin 3), m = s.at dt ∧ m.rkState ↑c ↑r ≤ 3) ∧
    (∃ (s : State) (dt : Nat) (m : Mach) (l : List Int) (c : Fin 2), m = s.at dt ∧ l.length = 30) ∧
    (∃ (s : State) (dt : Nat) (m : Mach) (p : Fin 12) (k : Byte) (a : BitVec 40) (lv : BitVec 4), m = s.at dt ∧ (p = 2 ∨ p = 7) ∧ m.unbacked a.toNat = false ∧ m.mem.poison.contains (a.toNat / 128) = false ∧ ↑p * 256 + BitVec.toNat k ∈ m.mem.panic ∧ m.rd (R.MEM_PORT_CFG_POFF ↑p) ≤ lv.toNat) ∧
    (∃ (s : State) (dt : Nat) (m : Mach) (c : Fin 2) (r : Fin 3) (b : BitVec 5) (row : _) (t0 : _), m = s.at dt ∧ List.lookup (rowKey (↑c) (↑r) b.toNat) m.mem.rows = some (row, t0) ∧ m.rd R.MEM_PAGE * 4 ≤ (m.mt - t0) * 5) ∧
    (∃ (s : State) (dt : Nat) (m : Mach) (c : Fin 2) (r : Fin 3) (b : BitVec 5) (row : _) (t0 : _), m = s.at dt ∧ List.lookup (rowKey (↑c) (↑r) b.toNat) m.mem.rows = some (row, t0) ∧ (m.mt - t0) * 5 < m.rd R.MEM_PAGE * 4) ∧
    (∃ (s : State) (dt : Nat) (m : Mach) (c : Fin 2) (r : Fin 3), m = s.at dt ∧ 3 < m.rkState ↑c ↑r) :=
  ⟨⟨(sMemoryHousekeeping 0), (0), _, (0), (0), rfl, by decide +kernel⟩,
    ⟨(sMemoryHousekeeping 0), (0), _, ((List.replicate 30 20)), (0), rfl, by decide +kernel⟩,
    ⟨(sMemoryHousekeeping 1), (0), _, (2), (0x00#8), (0x0400000180#40), (0xf#4), rfl, by decide +kernel⟩,
    ⟨(sMemoryHousekeeping 1), (0), _, (0), (0), (0x00#5), _, _, rfl, rfl, by decide +kernel⟩,
    ⟨(sMemoryHousekeeping 1), (0), _, (0), (2), (0x1f#5), _, _, rfl, rfl, by decide +kernel⟩,
    ⟨(sMemoryHousekeeping 3), (0), _, (1), (2), rfl, by decide +kernel⟩⟩
def rk (c : Nat) (w : Nat) : Mach := me (fun x => {x with wmark := [w, w], rackFrom := [(0,0),(0,0)]}) (mb.wrs [(R.MEM_RACKRATE_EFF, 32), (R.MEM_RACK_STAT_STATE c, 1), (R.MEM_RACK_STAT_SRC c, 1), (R.MEM_RACK_STAT_LRANK c, 1), (R.MEM_CH_RMAP_SPARE c, 2), (R.MEM_CH_RK_STATE_STATE c 2, 3), (R.MEM_CH_RK_STATE_STATE c 1, 2), (R.MEM_CAP_SPARE, 8)])
def ms3 : List Mach := [mb, mb.wr (R.MEM_CH_RMAP_SPARE 1) 2, {mb with now := 480000000000}, me (fun x => {x with winBad := [3], training := [3, 4], winAt := [(0, rdy.now - 79999), (3, rdy.now - 80000)], oweTrain := [0,1,4]}) mb,
  rk 0 (2^33 - 128), rk 0 0, rk 1 256, rk 1 (2^33), rk 0 (2^33 - 256), me (fun x => {x with poison := [(lineAddr 1 1 256)/128]}) (rk 1 256), {mb with unlock := mb.unlock} ]
def sRetrainingAndRacking (k : Nat) : State := ((ms3 ++ [mb.wr R.MEM_BLK_XSTAT_UNLOCKED 1]).map st : List State).getD k State.reset
theorem witness_RetrainingAndRacking_1 :
    (∃ (s : State) (dt : Nat) (m : Mach) (c : Fin 2) (r : Fin 3) (last : Bool) (ok : Bool) (temp : Int), m = s.at dt ∧ (1 < m.rkState ↑c ↑r ∨ m.trainDue ↑c ↑r = false ∨ m.windowFree ↑c ↑r = false)) ∧
    (∃ (s : State) (dt : Nat) (m : Mach) (c : Fin 2) (v : Word), m = s.at dt ∧ m.open? 2097152 = true ∧ ↑c = bits (BitVec.toNat v) 0 0 ∧ bits (BitVec.toNat v) 31 31 = 0) ∧
    (∃ (s : State) (dt : Nat) (m : Mach) (c : Fin 2) (v : Word), m = s.at dt ∧ m.open? 2097152 = true ∧ ↑c = bits (BitVec.toNat v) 0 0 ∧ bits (BitVec.toNat v) 31 31 = 1 ∧ m.spareReady ↑c = true ∧ m.rkState (↑c) (m.backing (↑c) (bits (BitVec.toNat v) 1 1)) = 1) ∧
    (∃ (s : State) (dt : Nat) (m : Mach) (c : Fin 2) (f : EccFind), m = s.at dt ∧ m.rd (R.MEM_RACK_STAT_STATE ↑c) ≠ 1) ∧
    (∃ (s : State) (dt : Nat) (m : Mach) (c : Fin 2), m = s.at dt ∧ m.rd (R.MEM_RACK_STAT_STATE ↑c) ≠ 1) ∧
    (∃ (s : State) (dt : Nat) (m : Mach) (c : Fin 2) (r : Fin 3) (ok : Bool) (temp : Int), m = s.at dt ∧ m.rkState ↑c ↑r ≤ 1 ∧ m.trainDue ↑c ↑r = true ∧ m.windowFree ↑c ↑r = true) ∧
    (∃ (s : State) (dt : Nat) (m : Mach) (c : Fin 2) (r : Fin 3) (ok : Bool) (temp : Int), m = s.at dt ∧ m.rkState ↑c ↑r ≤ 1 ∧ m.trainDue ↑c ↑r = true ∧ m.windowFree ↑c ↑r = true ∧ rankIx ↑c ↑r ∉ m.mem.winBad) ∧
    (∃ (s : State) (dt : Nat) (m : Mach) (c : Fin 2) (v : Word), m = s.at dt ∧ m.open? 2097152 = true ∧ ↑c = bits (BitVec.toNat v) 0 0 ∧ bits (BitVec.toNat v) 31 31 = 1 ∧ (m.spareReady ↑c = false ∨ m.rkState (↑c) (m.backing (↑c) (bits (BitVec.toNat v) 1 1)) ≠ 1)) :=
  ⟨⟨(sRetrainingAndRacking 0), (0), _, (0), (0), (false), (false), (20), rfl, by decide +kernel⟩,
    ⟨(sRetrainingAndRacking 0), (0), _, (0), (0x00000000#32), rfl, by decide +kernel⟩,
    ⟨(sRetrainingAndRacking 0), (0), _, (0), (0x80000000#32), rfl, by decide +kernel⟩,
    ⟨(sRetrainingAndRacking 0), (0), _, (0), (EccFind.clean), rfl, by decide +kernel⟩,
    ⟨(sRetrainingAndRacking 0), (0), _, (0), rfl, by decide +kernel⟩,
    ⟨(sRetrainingAndRacking 2), (0), _, (0), (0), (false), (20), rfl, by decide +kernel⟩,
    ⟨(sRetrainingAndRacking 2), (0), _, (0), (0), (false), (20), rfl, by decide +kernel⟩,
    ⟨(sRetrainingAndRacking 4), (0), _, (0), (0x80000000#32), rfl, by decide +kernel⟩⟩
theorem witness_RetrainingAndRacking_2 :
    (∃ (s : State) (dt : Nat) (m : Mach) (c : Fin 2) (f : EccFind), m = s.at dt ∧ m.mem.wmark.length = 2 ∧ m.rd (R.MEM_RACK_STAT_STATE ↑c) = 1 ∧ m.mem.wmark.getD (↑c) 0 + 128 < 2 ^ 33 ∧ m.paceOk ↑c = true) ∧
    (∃ (s : State) (dt : Nat) (m : Mach) (c : Fin 2), m = s.at dt ∧ m.rd (R.MEM_RACK_STAT_STATE ↑c) = 1 ∧ 2 ^ 33 ≤ m.mem.wmark.getD (↑c) 0 ∧ m.rd (R.MEM_CH_RMAP_SPARE ↑c) ≠ m.rd (R.MEM_RACK_STAT_SRC ↑c)) ∧
    (∃ (s : State) (dt : Nat) (m : Mach) (c : Fin 2), m = s.at dt ∧ m.open? 2097152 = true ∧ m.unlocked 2097152 = true) :=
  ⟨⟨(sRetrainingAndRacking 5), (0), _, (0), (EccFind.clean), rfl, by decide +kernel⟩,
    ⟨(sRetrainingAndRacking 7), (0), _, (1), rfl, by decide +kernel⟩,
    ⟨(sRetrainingAndRacking 11), (0), _, (0), rfl, by decide +kernel⟩⟩
end
end W24

namespace W25
section
def hq (i : Fin 64) (f : HsQueue → HsQueue) (m : Mach) : Mach := { m with hs := m.hs.set i (f m.hs[i]) }
def qi : List (Fin 64) := [0, 31, 32, 63]
def run (i : Fin 64) (l : List (RF × Nat) := []) (m : Mach := rdy) : Mach := m.wrs ([(R.HSQ_STATUS_STATE i, 1), (R.HSQ_CTRL_EN i, 1), (R.HSQ_TAIL i, 3), (R.HSQ_HEAD i, 1), (R.HSQ_CPLIDX i, 1), (R.HSQ_CTRL_VEC i, 33)] ++ l)
def s1 : List Mach := [rdy] ++ qi.flatMap fun i => [run i, run i [(R.HSQ_STATUS_STATE i, 2)], run i [(R.HSQ_STATUS_STATE i, 3)], hq i (fun q => {q with push := some ⟨3, 5, 64, 1⟩}) (run i), run i [(R.HSQ_MSIX_CTRL 33, 0)]]
def ds (op len : Nat) (da : Nat := 0x1000) (crc : Nat := 0) (fl : Nat := 0) : Descriptor := { op := BitVec.ofNat 8 op, flags := BitVec.ofNat 24 fl, len := BitVec.ofNat _ len, haddr := 0x8000, daddr := BitVec.ofNat _ da, crc := BitVec.ofNat 32 crc, tag := 0x1234 }
def dd (d : Descriptor) (att : Nat := 1) (wr me : Bool := false) : Desc := { d := d, idx := 1, attempt := att, data := [], crc := 77, wrote := wr, memErr := me }
def dat : List Byte := [1,2,3,4,5,6,7,8]
def cu (i : Fin 64) (d : Desc) (m : Mach) := hq i (fun q => {q with cur := some d}) m
def s2 : List Mach := [rdy] ++ qi.flatMap fun i => [run i, run i [(R.HSQ_STATUS_STATE i, 2)],run i [(R.HSQ_STATUS_STATE i, 3)], run i [(R.HSQ_CTRL_IRQALL i, 1), (R.HSQ_HEAD i, 65535), (R.HSQ_CPLIDX i, 65535)], run i [(R.HSQ_HEAD i, 3)],
   cu i (dd (ds 0 8 0x1000 (crc32c dat))) (run i), cu i (dd (ds 0 8 0x1000 5) 3) (run i), cu i (dd (ds 0 8 0x1000 5) 2) (run i), cu i (dd (ds 0 8 0x1000 0) 2 true) (run i [(R.HSQ_CTRL_IRQALL i, 1)]), cu i (dd (ds 0 8 0x1000 0) 2 true true) (run i), cu i (dd (ds 0 8 0x1000 0) 2 true true) { run i with mem := { (run i).mem with poison := [32] }}]
def sDescriptorsAndBlocks (k : Nat) : State := (s2.map st : List State).getD k State.reset
theorem witness_DescriptorsAndBlocks_1 :
    (∃ (s : State) (dt : Nat) (m : Mach) (i : Fin 64) (d : Descriptor), m = s.at dt ∧ m.Quiet ∧ (m.hsState i ≠ 1 ∨ m.on (R.HSQ_CTRL_EN ↑i) = false ∨ m.hs[i].cur.isSome = true ∨ m.rd (R.HSQ_HEAD ↑i) = m.rd (R.HSQ_TAIL ↑i))) ∧
    (∃ (s : State) (dt : Nat) (m : Mach) (i : Fin 64) (e : HostErr), m = s.at dt ∧ m.Quiet ∧ m.hs[i].cur = none ∧ (m.hsState i = 0 ∨ m.hsState i = 3)) ∧
    (∃ (s : State) (dt : Nat) (m : Mach) (i : Fin 64) (d : Descriptor), m = s.at dt ∧ m.Quiet ∧ m.hsState i = 1 ∧ m.on (R.HSQ_CTRL_EN ↑i) = true ∧ m.hs[i].cur = none ∧ m.rd (R.HSQ_HEAD ↑i) ≠ m.rd (R.HSQ_TAIL ↑i) ∧ badDescriptor d (isD2h i) = false ∧ d.op ≠ 1 ∧ d.len = 0) ∧
    (∃ (s : State) (dt : Nat) (m : Mach) (i : Fin 64) (d : Descriptor), m = s.at dt ∧ m.Quiet ∧ m.hsState i = 1 ∧ m.on (R.HSQ_CTRL_EN ↑i) = true ∧ m.hs[i].cur = none ∧ m.rd (R.HSQ_HEAD ↑i) ≠ m.rd (R.HSQ_TAIL ↑i) ∧ badDescriptor d (isD2h i) = false ∧ (d.op = 1 ∨ d.len ≠ 0)) ∧
    (∃ (s : State) (dt : Nat) (m : Mach) (i : Fin 64) (d : Descriptor), m = s.at dt ∧ m.Quiet ∧ m.hsState i = 1 ∧ m.on (R.HSQ_CTRL_EN ↑i) = true ∧ m.hs[i].cur = none ∧ m.rd (R.HSQ_HEAD ↑i) ≠ m.rd (R.HSQ_TAIL ↑i) ∧ badDescriptor d (isD2h i) = true) ∧
    (∃ (s : State) (dt : Nat) (m : Mach) (i : Fin 64) (e : HostErr), m = s.at dt ∧ m.Quiet ∧ m.hs[i].cur = none ∧ (m.hsState i = 1 ∨ m.hsState i = 2)) ∧
    (∃ (s : State) (dt : Nat) (m : Mach) (q : Fin 32) (d : _), m = s.at dt ∧ m.hs[h2d q].cur = some d ∧ m.Quiet ∧ d.d.op = 0) ∧
    (∃ (s : State) (dt : Nat) (m : Mach) (q : Fin 32) (d : _) (data : List Byte), m = s.at dt ∧ m.hs[h2d q].cur = some d ∧ m.Quiet ∧ d.d.op = 0 ∧ data.length = BitVec.toNat d.d.len ∧ d.wrote = false ∧ crc32c data = BitVec.toNat d.d.crc ∧ (∀ l ∈ linesOf d.d.daddr.toNat data.length, m.unbacked (128 * l) = false ∧ m.mem.poison.contains l = false)) :=
  ⟨⟨(sDescriptorsAndBlocks 0), (0), _, (0), ({ haddr := 0x0000000000008000#64,   daddr := 0x0000000000001000#64,   len := 0x00000000#32,   crc := 0x00000000#32,   op := 0x00#8,   flags := 0x000001#24,   tag := 0x00001234#32 }), rfl, by unfold Mach.Quiet; decide +kernel, by decide +kernel⟩,
    ⟨(sDescriptorsAndBlocks 0), (0), _, (0), (HostErr.timeout), rfl, by unfold Mach.Quiet; decide +kernel, by decide +kernel⟩,
    ⟨(sDescriptorsAndBlocks 1), (0), _, (0), ({ haddr := 0x0000000000008000#64,   daddr := 0x0000000000001000#64,   len := 0x00000000#32,   crc := 0x00000000#32,   op := 0x00#8,   flags := 0x000001#24,   tag := 0x00001234#32 }), rfl, by unfold Mach.Quiet; decide +kernel, by decide +kernel⟩,
    ⟨(sDescriptorsAndBlocks 1), (0), _, (0), ({ haddr := 0x0000000000008000#64,   daddr := 0x0000000000001000#64,   len := 0x00000008#32,   crc := 0x00000000#32,   op := 0x00#8,   flags := 0x000000#24,   tag := 0x00001234#32 }), rfl, by unfold Mach.Quiet; decide +kernel, by decide +kernel⟩,
    ⟨(sDescriptorsAndBlocks 1), (0), _, (0), ({ haddr := 0x0000000000008000#64,   daddr := 0x0000000000001000#64,   len := 0x00001000#32,   crc := 0x00000000#32,   op := 0x02#8,   flags := 0x000000#24,   tag := 0x00001234#32 }), rfl, by unfold Mach.Quiet; decide +kernel, by decide +kernel⟩,
    ⟨(sDescriptorsAndBlocks 1), (0), _, (0), (HostErr.timeout), rfl, by unfold Mach.Quiet; decide +kernel, by decide +kernel⟩,
    ⟨(sDescriptorsAndBlocks 6), (0), _, (0), _, rfl, rfl, by unfold Mach.Quiet; decide +kernel, by decide +kernel⟩,
    ⟨(sDescriptorsAndBlocks 6), (0), _, (0), _, ([0x01#8, 0x02#8, 0x03#8, 0x04#8, 0x05#8, 0x06#8, 0x07#8, 0x08#8]), rfl, rfl, by unfold Mach.Quiet; decide +kernel, by decide +kernel⟩⟩
theorem witness_DescriptorsAndBlocks_2 :
    (∃ (s : State) (dt : Nat) (m : Mach) (q : Fin 32) (d : _) (data : List Byte), m = s.at dt ∧ m.hs[h2d q].cur = some d ∧ m.Quiet ∧ d.d.op = 0 ∧ data.length = BitVec.toNat d.d.len ∧ d.wrote = false ∧ crc32c data ≠ BitVec.toNat d.d.crc ∧ d.attempt < 3 ∧ m.on (R.HSQ_CTRL_EN ↑(h2d q)) = true ∧ m.raisedThisTick 48 = false) ∧
    (∃ (s : State) (dt : Nat) (m : Mach) (q : Fin 32) (d : _), m = s.at dt ∧ m.hs[h2d q].cur = some d ∧ m.Quiet ∧ d.d.op = 0 ∧ d.wrote = false) ∧
    (∃ (s : State) (dt : Nat) (m : Mach) (i : Fin 64) (e : HostErr) (d : _), m = s.at dt ∧ m.hs[i].cur = some d ∧ m.Quiet) ∧
    (∃ (s : State) (dt : Nat) (m : Mach) (q : Fin 32) (d : _) (data : List Byte), m = s.at dt ∧ m.hs[h2d q].cur = some d ∧ m.Quiet ∧ d.d.op = 0 ∧ data.length = BitVec.toNat d.d.len ∧ d.wrote = false ∧ crc32c data ≠ BitVec.toNat d.d.crc ∧ 3 ≤ d.attempt) ∧
    (∃ (s : State) (dt : Nat) (m : Mach) (q : Fin 32) (d : _), m = s.at dt ∧ m.hs[h2d q].cur = some d ∧ m.Quiet ∧ d.d.op = 0 ∧ d.wrote = true ∧ m.on (R.HSQ_CTRL_EN ↑(h2d q)) = true ∧ d.memErr = false) ∧
    (∃ (s : State) (dt : Nat) (m : Mach) (q : Fin 32) (d : _), m = s.at dt ∧ m.hs[h2d q].cur = some d ∧ m.Quiet ∧ d.d.op = 0 ∧ d.wrote = true ∧ m.on (R.HSQ_CTRL_EN ↑(h2d q)) = true ∧ d.memErr = true ∧ m.raisedThisTick 50 = false) ∧
    (∃ (s : State) (dt : Nat) (m : Mach) (q : Fin 32) (d : _), m = s.at dt ∧ m.hs[d2h q].cur = some d ∧ m.Quiet ∧ d.d.op = 0 ∧ m.on (R.HSQ_CTRL_EN ↑(d2h q)) = true ∧ m.poisoned d.d.daddr.toNat (BitVec.toNat d.d.len) = false) ∧
    (∃ (s : State) (dt : Nat) (m : Mach) (q : Fin 32) (d : _), m = s.at dt ∧ m.hs[d2h q].cur = some d ∧ m.Quiet ∧ d.d.op = 0 ∧ m.on (R.HSQ_CTRL_EN ↑(d2h q)) = true ∧ m.poisoned d.d.daddr.toNat (BitVec.toNat d.d.len) = true ∧ m.raisedThisTick 50 = false) :=
  ⟨⟨(sDescriptorsAndBlocks 6), (0), _, (0), _, ([0x08#8, 0x07#8, 0x06#8, 0x05#8, 0x04#8, 0x03#8, 0x02#8, 0x01#8]), rfl, rfl, by unfold Mach.Quiet; decide +kernel, by decide +kernel⟩,
    ⟨(sDescriptorsAndBlocks 6), (0), _, (0), _, rfl, rfl, by unfold Mach.Quiet; decide +kernel, by decide +kernel⟩,
    ⟨(sDescriptorsAndBlocks 6), (0), _, (0), (HostErr.timeout), _, rfl, rfl, by unfold Mach.Quiet; decide +kernel⟩,
    ⟨(sDescriptorsAndBlocks 7), (0), _, (0), _, ([0x01#8, 0x02#8, 0x03#8, 0x04#8, 0x05#8, 0x06#8, 0x07#8, 0x08#8]), rfl, rfl, by unfold Mach.Quiet; decide +kernel, by decide +kernel⟩,
    ⟨(sDescriptorsAndBlocks 9), (0), _, (0), _, rfl, rfl, by unfold Mach.Quiet; decide +kernel, by decide +kernel⟩,
    ⟨(sDescriptorsAndBlocks 10), (0), _, (0), _, rfl, rfl, by unfold Mach.Quiet; decide +kernel, by decide +kernel⟩,
    ⟨(sDescriptorsAndBlocks 28), (0), _, (0), _, rfl, rfl, by unfold Mach.Quiet; decide +kernel, by decide +kernel⟩,
    ⟨(sDescriptorsAndBlocks 33), (0), _, (0), _, rfl, rfl, by unfold Mach.Quiet; decide +kernel, by decide +kernel⟩⟩
def sEmptyDescriptorCompletesAtHead (k : Nat) : State := (s2.map st : List State).getD k State.reset
theorem witness_EmptyDescriptorCompletesAtHead :
    (∃ (s : State) (dt : Nat) (m : Mach) (i : Fin 64) (d : Descriptor), m = s.at dt ∧ m.Quiet ∧ m.hsState i = 1 ∧ m.on (R.HSQ_CTRL_EN ↑i) = true ∧ m.hs[i].cur = none ∧ m.rd (R.HSQ_HEAD ↑i) ≠ m.rd (R.HSQ_TAIL ↑i) ∧ badDescriptor d (isD2h i) = false ∧ d.op ≠ 1 ∧ d.len = 0) :=
  ⟨(sEmptyDescriptorCompletesAtHead 1), (0), _, (0), ({ haddr := 0x0000000000008000#64,   daddr := 0x0000000000001000#64,   len := 0x00000000#32,   crc := 0x00000000#32,   op := 0x00#8,   flags := 0x000001#24,   tag := 0x00001234#32 }), rfl, by unfold Mach.Quiet; decide +kernel, by decide +kernel⟩
def pu (i : Fin 64) (d : Desc) (p : Push) (m : Mach) := hq i (fun q => {q with cur := some d, push := some p}) m
def s3 : List Mach := [rdy, rdy.wr R.HS_BOOT_STAGE 1] ++ qi.flatMap fun i => [run i, run i [(R.HSQ_STATUS_STATE i, 2)], run i [(R.HSQ_STATUS_STATE i, 3)], cu i (dd { ds 1 0 0 with haddr := 0 }) (run i), cu i (dd { ds 1 0 0 with haddr := 0 } 1 true) (run i), cu i (dd (ds 2 4096)) (run i), cu i (dd (ds 2 4096)) (run i [(R.HSQ_STATUS_STATE i, 2)]), pu i (dd (ds 2 4096)) ⟨3, 5, 0x100000, 1⟩ (run i), pu i (dd (ds 2 4096)) ⟨3, 5, 0x100000, 4⟩ (run i [(R.HSQ_PUSHSRC_OPEN i, 1)]), pu i (dd (ds 2 4096)) ⟨3, 1, 0x100000, 0⟩ (run i)]
def sSyncPushAndQueueControl (k : Nat) : State := (s3.map st : List State).getD k State.reset
theorem witness_SyncPushAndQueueControl_1 :
    (∃ (s : State) (dt : Nat) (m : Mach) (i : Fin 64) (v : Word), m = s.at dt ∧ m.Quiet ∧ m.hsState i = 0 ∧ 2 ≤ m.rd R.HS_BOOT_STAGE ∧ 4 ≤ bits (BitVec.toNat v) 4 1 ∧ bits (BitVec.toNat v) 4 1 ≤ 12) ∧
    (∃ (s : State) (dt : Nat) (m : Mach) (i : Fin 64) (v : Word), m = s.at dt ∧ m.Quiet ∧ m.hsState i = 0 ∧ (m.rd R.HS_BOOT_STAGE < 2 ∨ bits (BitVec.toNat v) 4 1 < 4 ∨ 12 < bits (BitVec.toNat v) 4 1)) ∧
    (∃ (s : State) (dt : Nat) (m : Mach) (i : Fin 64) (v : Word), m = s.at dt ∧ m.Quiet ∧ m.hsState i ≠ 0) ∧
    (∃ (s : State) (dt : Nat) (m : Mach) (i : Fin 64) (v : Word), m = s.at dt ∧ m.Quiet ∧ m.on (R.HSQ_CTRL_EN ↑i) = true ∧ m.hsState i ≠ 0 ∧ m.hs[i].push = none ∧ (m.hs[i].cur = none ∨ m.hsState i ≠ 1)) ∧
    (∃ (s : State) (dt : Nat) (m : Mach) (i : Fin 64) (d : _), m = s.at dt ∧ m.hs[i].cur = some d ∧ m.Quiet ∧ d.d.op = 1) ∧
    (∃ (s : State) (dt : Nat) (m : Mach) (i : Fin 64) (d : _), m = s.at dt ∧ m.hs[i].cur = some d ∧ m.Quiet ∧ d.d.op = 1 ∧ d.wrote = false) ∧
    (∃ (s : State) (dt : Nat) (m : Mach) (i : Fin 64) (v : Word) (d : _), m = s.at dt ∧ m.hs[i].cur = some d ∧ m.Quiet ∧ m.on (R.HSQ_CTRL_EN ↑i) = true ∧ m.hsState i ≠ 0 ∧ m.hs[i].push = none ∧ m.hsState i = 1 ∧ d.d.op ≠ 2) ∧
    (∃ (s : State) (dt : Nat) (m : Mach) (i : Fin 64) (d : _), m = s.at dt ∧ m.hs[i].cur = some d ∧ m.Quiet ∧ d.d.op = 1 ∧ d.wrote = true ∧ m.on (R.HSQ_CTRL_EN ↑i) = true) :=
  ⟨⟨(sSyncPushAndQueueControl 0), (0), _, (0), (0x00000019#32), rfl, by unfold Mach.Quiet; decide +kernel, by decide +kernel⟩,
    ⟨(sSyncPushAndQueueControl 0), (0), _, (0), (0x00000007#32), rfl, by unfold Mach.Quiet; decide +kernel, by decide +kernel⟩,
    ⟨(sSyncPushAndQueueControl 2), (0), _, (0), (0x00000019#32), rfl, by unfold Mach.Quiet; decide +kernel, by decide +kernel⟩,
    ⟨(sSyncPushAndQueueControl 2), (0), _, (0), (0x00000019#32), rfl, by unfold Mach.Quiet; decide +kernel, by decide +kernel⟩,
    ⟨(sSyncPushAndQueueControl 5), (0), _, (0), _, rfl, rfl, by unfold Mach.Quiet; decide +kernel, by decide +kernel⟩,
    ⟨(sSyncPushAndQueueControl 5), (0), _, (0), _, rfl, rfl, by unfold Mach.Quiet; decide +kernel, by decide +kernel⟩,
    ⟨(sSyncPushAndQueueControl 5), (0), _, (0), (0x00000019#32), _, rfl, rfl, by unfold Mach.Quiet; decide +kernel, by decide +kernel⟩,
    ⟨(sSyncPushAndQueueControl 6), (0), _, (0), _, rfl, rfl, by unfold Mach.Quiet; decide +kernel, by decide +kernel⟩⟩
theorem witness_SyncPushAndQueueControl_2 :
    (∃ (s : State) (dt : Nat) (m : Mach) (q : Fin 32) (d : _), m = s.at dt ∧ m.hs[d2h q].cur = some d ∧ m.Quiet ∧ d.d.op = 2 ∧ m.hs[d2h q].push = none) ∧
    (∃ (s : State) (dt : Nat) (m : Mach) (q : Fin 32) (d : _) (p : _), m = s.at dt ∧ m.hs[d2h q].cur = some d ∧ m.hs[d2h q].push = some p ∧ m.Quiet ∧ d.d.op = 2 ∧ m.on (R.HSQ_CTRL_EN ↑(d2h q)) = true ∧ p.blk < p.len ∧ m.poisoned (BitVec.toNat p.addr + 4096 * p.blk) 4096 = false) :=
  ⟨⟨(sSyncPushAndQueueControl 27), (0), _, (0), _, rfl, rfl, by unfold Mach.Quiet; decide +kernel, by decide +kernel⟩,
    ⟨(sSyncPushAndQueueControl 29), (0), _, (0), _, _, rfl, rfl, rfl, by unfold Mach.Quiet; decide +kernel, by decide +kernel⟩⟩
def sLinkAndVectors (k : Nat) : State := ((s3 ++ [rdy.wr R.PWR_PSTATE_STATE 3, rdy.wr R.HS_CTRL 1, rdy.wrs [(R.HSQ_PBA 1, 2), (R.HSQ_PBA 0, 1)], {rdy.wrs [(R.HSQ_PBA 1, 2), (R.HSQ_PBA 0, 1), (R.HSQ_MSIX_CTRL 33, 0)] with fnMask := true}]).map st : List State).getD k State.reset
theorem witness_LinkAndVectors :
    (∃ (s : State) (dt : Nat) (m : Mach) (sp : BitVec 3) (wd : BitVec 4), m = s.at dt ∧ m.pstate ≠ 3) ∧
    (∃ (s : State) (dt : Nat) (m : Mach) (c : Instr), m = s.at dt ∧ m.Quiet ∧ (c = Instr.pcieLinkDown dt ∨ c = Instr.d3hotEntry dt ∨ c = Instr.hotReset dt ∧ m.rd R.HS_CTRL = 1)) ∧
    (∃ (s : State) (dt : Nat) (m : Mach) (u : Bool), m = s.at dt) ∧
    (∃ (s : State) (dt : Nat) (m : Mach) (v : BitVec 6), m = s.at dt) ∧
    (∃ (s : State) (dt : Nat) (m : Mach), m = s.at dt) ∧
    (∃ (s : State) (dt : Nat) (m : Mach) (sp : BitVec 3) (wd : BitVec 4), m = s.at dt ∧ m.pstate = 3) :=
  ⟨⟨(sLinkAndVectors 0), (0), _, (0x0#3), (0x0#4), rfl, by decide +kernel⟩,
    ⟨(sLinkAndVectors 0), (0), _, (Instr.pcieLinkDown 0), rfl, by unfold Mach.Quiet; decide +kernel, by decide +kernel⟩,
    ⟨(sLinkAndVectors 0), (0), _, (false), rfl⟩,
    ⟨(sLinkAndVectors 0), (0), _, (0x00#6), rfl⟩,
    ⟨(sLinkAndVectors 0), (0), _, rfl⟩,
    ⟨(sLinkAndVectors 42), (0), _, (0x0#3), (0x0#4), rfl, by decide +kernel⟩⟩
end
end W25

namespace W26
section
def rg (f : Rng → Rng) (m : Mach) : Mach := { m with rng := f m.rng }
def mac : Nat := 0x665544332211
def rawRegs (l : List (Nat × Word)) (m : Mach) : Mach := { m with regs := l.foldl (fun r p => sput r p.1 p.2) m.regs }
def rm (md : Nat) (l : List (RF × Nat) := []) : Mach := { (rawRegs [((R.RNG_MAC_LO).a, 0x44332211), ((R.RNG_MAC_HI).a, 0x6655), ((R.RNG_P_ILAT 0).a, 5), ((R.RNG_P_ILAT 1).a, 65529), ((R.RNG_P_ELAT 0).a, 3), ((R.RNG_P_ELAT 1).a, 9)] rdy).wrs ([(R.RNG_CTRL_MODE, md), (R.RNG_STATUS_BYPST, 0), (R.RNG_CTRL_PTPEN, 1), (R.RNG_PTPRX_BASE_HI, 1)] ++ l) with now := 2000000000 }
def ef (dst src : Nat) (tag : Option (BitVec 16)) (p : Option PtpMsg) : EthFrame := ⟨BitVec.ofNat 48 dst, BitVec.ofNat 48 src, tag, 0x88F7, 100, false, p⟩
def pt (k : PtpKind) : PtpMsg := ⟨k, 0, 0x100, (List.range 60).map (BitVec.ofNat 8)⟩
def dp (p : Fin 2) (dl : Bool) : DupEntry := ⟨5, 7, p, 2000000000 - 5, dl, [p]⟩
def s1 : List Mach := [rdy, rm 1, rm 2, rm 3, rm 1 [(R.RNG_P_PSTAT_PDOK 0, 1), (R.RNG_P_PDELAY 0, 77), (R.RNG_P_ASYM 0, 2^32-5)], rg (fun r => {r with dups := [dp 0 false]}) (rm 1), rg (fun r => {r with dups := [dp 1 true]}) (rm 1), rm 2 [(R.RNG_PTPRX_WPTR, 15)], rm 1 [(R.RNG_PTPRX_WPTR, 14)], rg (fun r => {r with supAt := 400000000}) (rm 1), rg (fun r => {r with supAt := 400000001}) (rm 1)]
def sRingFrames (k : Nat) : State := (s1.map st : List State).getD k State.reset
theorem witness_RingFrames_1 :
    (∃ (s : State) (dt : Nat) (m : Mach) (v : BitVec 2), m = s.at dt ∧ m.open? 22020096 = true ∧ m.rd R.RNG_STATUS_BYPST = 1) ∧
    (∃ (s : State) (dt : Nat) (m : Mach) (p : Fin 2) (f : EthFrame) (res : Int), m = s.at dt ∧ m.ringUp = false) ∧
    (∃ (s : State) (dt : Nat) (m : Mach), m = s.at dt ∧ (m.ringMode ≠ 1 ∨ m.ringUp = false ∨ m.now < m.rng.supAt + 1600000000)) ∧
    (∃ (s : State) (dt : Nat) (m : Mach) (v : BitVec 2), m = s.at dt ∧ m.open? 22020096 = true ∧ m.rd R.RNG_STATUS_BYPST = 0) ∧
    (∃ (s : State) (dt : Nat) (m : Mach) (p : Fin 2) (f : EthFrame) (res : Int), m = s.at dt ∧ m.ringUp = true ∧ (f.fcsBad = true ∨ 1528 < f.len)) ∧
    (∃ (s : State) (dt : Nat) (m : Mach) (p : Fin 2) (f : EthFrame) (res : Int), m = s.at dt ∧ m.ringUp = true ∧ f.fcsBad = false ∧ f.len ≤ 1528 ∧ (f.dst.toNat = pdelayMac ∨ f.src.toNat = m.ownMac ∧ m.ringMode = 1)) ∧
    (∃ (s : State) (dt : Nat) (m : Mach) (p : Fin 2) (f : EthFrame) (res : Int), m = s.at dt ∧ m.ringUp = true ∧ f.fcsBad = false ∧ f.len ≤ 1528 ∧ f.dst.toNat ≠ pdelayMac ∧ f.src.toNat ≠ m.ownMac ∧ m.ringMode = 1 ∧ f.tag = none) ∧
    (∃ (s : State) (dt : Nat) (m : Mach) (p : Fin 2) (f : EthFrame) (res : Int) (sq : _), m = s.at dt ∧ f.tag = some sq ∧ m.ringUp = true ∧ f.fcsBad = false ∧ f.len ≤ 1528 ∧ f.dst.toNat ≠ pdelayMac ∧ f.src.toNat ≠ m.ownMac ∧ m.ringMode = 1 ∧ f.ptp = none ∧ m.dup f.src sq = none) :=
  ⟨⟨(sRingFrames 0), (0), _, (0x0#2), rfl, by decide +kernel⟩,
    ⟨(sRingFrames 0), (0), _, (0), ({ dst := 0x665544332211#48,   src := 0x000000000005#48,   tag := none,   etype := 0x88f7#16,   len := 100,   fcsBad := true,   ptp := none }), (0), rfl, by decide +kernel⟩,
    ⟨(sRingFrames 0), (0), _, rfl, by decide +kernel⟩,
    ⟨(sRingFrames 1), (0), _, (0x0#2), rfl, by decide +kernel⟩,
    ⟨(sRingFrames 1), (0), _, (0), ({ dst := 0x665544332211#48,   src := 0x000000000005#48,   tag := none,   etype := 0x88f7#16,   len := 100,   fcsBad := true,   ptp := none }), (0), rfl, by decide +kernel⟩,
    ⟨(sRingFrames 1), (0), _, (0), ({ dst := 0x0e0000c28001#48,   src := 0x000000000005#48,   tag := none,   etype := 0x88f7#16,   len := 100,   fcsBad := false,   ptp := none }), (0), rfl, by decide +kernel⟩,
    ⟨(sRingFrames 1), (0), _, (0), ({ dst := 0x665544332211#48,   src := 0x000000000005#48,   tag := none,   etype := 0x88f7#16,   len := 100,   fcsBad := false,   ptp := none }), (0), rfl, by decide +kernel⟩,
    ⟨(sRingFrames 1), (0), _, (0), ({ dst := 0x665544332211#48,   src := 0x000000000005#48,   tag := some 0x0007#16,   etype := 0x88f7#16,   len := 100,   fcsBad := false,   ptp := none }), (0), _, rfl, rfl, by decide +kernel⟩⟩
theorem witness_RingFrames_2 :
    (∃ (s : State) (dt : Nat) (m : Mach) (p : Fin 2) (f : EthFrame) (res : Int) (sq : BitVec 16) (x : _), m = s.at dt ∧ f.ptp = some x ∧ m.ringUp = true ∧ f.fcsBad = false ∧ f.len ≤ 1528 ∧ f.dst.toNat ≠ pdelayMac ∧ f.src.toNat ≠ m.ownMac ∧ (m.ringMode = 2 ∨ f.tag = some sq ∧ m.dup f.src sq = none) ∧ m.rd R.RNG_CTRL_PTPEN = 1 ∧ x.kind = PtpKind.sync) ∧
    (∃ (s : State) (dt : Nat) (m : Mach) (p : Fin 2) (f : EthFrame) (res : Int) (sq : BitVec 16) (x : _), m = s.at dt ∧ f.ptp = some x ∧ m.ringUp = true ∧ f.fcsBad = false ∧ f.len ≤ 1528 ∧ f.dst.toNat ≠ pdelayMac ∧ f.src.toNat ≠ m.ownMac ∧ (m.ringMode = 2 ∨ f.tag = some sq ∧ m.dup f.src sq = none) ∧ m.rd R.RNG_CTRL_PTPEN = 1 ∧ (x.kind = PtpKind.sync ∨ x.kind = PtpKind.followUp ∨ x.kind = PtpKind.announce) ∧ BitVec.toNat x.domain = m.rd R.RNG_PTP_CTRL_DOMAIN ∧ m.addressed f = true ∧ ringFull (2 ^ (4 + m.rd R.RNG_PTPRX_SIZE)) (m.rd R.RNG_PTPRX_WPTR) (m.rd R.RNG_PTPRX_RPTR) = false ∧ (∀ l ∈ linesOf (m.addr R.RNG_PTPRX_BASE_LO R.RNG_PTPRX_BASE_HI + 128 * m.rd R.RNG_PTPRX_WPTR) 128, m.unbacked (128 * l) = false ∧ m.mem.poison.contains l = false)) ∧
    (∃ (s : State) (dt : Nat) (m : Mach), m = s.at dt ∧ m.ringMode = 1 ∧ m.ringUp = true ∧ m.rng.supAt + 1600000000 ≤ m.now) ∧
    (∃ (s : State) (dt : Nat) (m : Mach) (p : Fin 2) (f : EthFrame) (res : Int), m = s.at dt ∧ m.ringUp = true ∧ f.fcsBad = false ∧ f.len ≤ 1528 ∧ f.dst.toNat ≠ pdelayMac ∧ f.src.toNat = m.ownMac ∧ m.ringMode = 2 ∧ m.raisedThisTick 28 = false) ∧
    (∃ (s : State) (dt : Nat) (m : Mach) (p : Fin 2) (f : EthFrame) (res : Int), m = s.at dt ∧ m.ringUp = true ∧ f.fcsBad = false ∧ f.len ≤ 1528 ∧ f.dst.toNat ≠ pdelayMac ∧ f.src.toNat ≠ m.ownMac ∧ m.ringMode = 2 ∧ f.ptp = none) ∧
    (∃ (s : State) (dt : Nat) (m : Mach) (p : Fin 2) (f : EthFrame) (res : Int) (sq : _) (d : _), m = s.at dt ∧ f.tag = some sq ∧ m.dup f.src sq = some d ∧ m.ringUp = true ∧ f.fcsBad = false ∧ f.len ≤ 1528 ∧ f.dst.toNat ≠ pdelayMac ∧ f.src.toNat ≠ m.ownMac ∧ m.ringMode = 1 ∧ f.ptp = none ∧ otherPort p ∈ d.sent) ∧
    (∃ (s : State) (dt : Nat) (m : Mach) (p : Fin 2) (f : EthFrame) (res : Int) (sq : BitVec 16) (x : _), m = s.at dt ∧ f.ptp = some x ∧ m.ringUp = true ∧ f.fcsBad = false ∧ f.len ≤ 1528 ∧ f.dst.toNat ≠ pdelayMac ∧ f.src.toNat ≠ m.ownMac ∧ (m.ringMode = 2 ∨ f.tag = some sq ∧ m.dup f.src sq = none) ∧ m.rd R.RNG_CTRL_PTPEN = 1 ∧ (x.kind = PtpKind.sync ∨ x.kind = PtpKind.followUp ∨ x.kind = PtpKind.announce) ∧ BitVec.toNat x.domain = m.rd R.RNG_PTP_CTRL_DOMAIN ∧ m.addressed f = true ∧ ringFull (2 ^ (4 + m.rd R.RNG_PTPRX_SIZE)) (m.rd R.RNG_PTPRX_WPTR) (m.rd R.RNG_PTPRX_RPTR) = true ∧ m.raisedThisTick 27 = false) :=
  ⟨⟨(sRingFrames 1), (0), _, (0), ({ dst := 0x665544332211#48,   src := 0x000000000005#48,   tag := some 0x0007#16,   etype := 0x88f7#16,   len := 100,   fcsBad := false,   ptp := some { kind := PtpKind.sync,            domain := 0x00#8,            correction := 0x0000000000000100#64,            bytes := [0x00#8,                      0x01#8,                      0x02#8,                      0x03#8,                      0x04#8,                      0x05#8,                      0x06#8,                      0x07#8,                      0x08#8,                      0x09#8,                      0x0a#8,                      0x0b#8,                      0x0c#8,                      0x0d#8,                      0x0e#8,                      0x0f#8,                      0x10#8,                      0x11#8,                      0x12#8,                      0x13#8,                      0x14#8,                      0x15#8,                      0x16#8,                      0x17#8,                      0x18#8,                      0x19#8,                      0x1a#8,                      0x1b#8,                      0x1c#8,                      0x1d#8,                      0x1e#8,                      0x1f#8,                      0x20#8,                      0x21#8,                      0x22#8,                      0x23#8,                      0x24#8,                      0x25#8,                      0x26#8,                      0x27#8,                      0x28#8,                      0x29#8,                      0x2a#8,                      0x2b#8,                      0x2c#8,                      0x2d#8,                      0x2e#8,                      0x2f#8,                      0x30#8,                      0x31#8,                      0x32#8,                      0x33#8,                      0x34#8,                      0x35#8,                      0x36#8,                      0x37#8,                      0x38#8,                      0x39#8,                      0x3a#8,                      0x3b#8] } }), (0), (0x0007#16), _, rfl, rfl, by decide +kernel⟩,
    ⟨(sRingFrames 1), (0), _, (0), ({ dst := 0x665544332211#48,   src := 0x000000000005#48,   tag := some 0x0007#16,   etype := 0x88f7#16,   len := 100,   fcsBad := false,   ptp := some { kind := PtpKind.sync,            domain := 0x00#8,            correction := 0x0000000000000100#64,            bytes := [0x00#8,                      0x01#8,                      0x02#8,                      0x03#8,                      0x04#8,                      0x05#8,                      0x06#8,                      0x07#8,                      0x08#8,                      0x09#8,                      0x0a#8,                      0x0b#8,                      0x0c#8,                      0x0d#8,                      0x0e#8,                      0x0f#8,                      0x10#8,                      0x11#8,                      0x12#8,                      0x13#8,                      0x14#8,                      0x15#8,                      0x16#8,                      0x17#8,                      0x18#8,                      0x19#8,                      0x1a#8,                      0x1b#8,                      0x1c#8,                      0x1d#8,                      0x1e#8,                      0x1f#8,                      0x20#8,                      0x21#8,                      0x22#8,                      0x23#8,                      0x24#8,                      0x25#8,                      0x26#8,                      0x27#8,                      0x28#8,                      0x29#8,                      0x2a#8,                      0x2b#8,                      0x2c#8,                      0x2d#8,                      0x2e#8,                      0x2f#8,                      0x30#8,                      0x31#8,                      0x32#8,                      0x33#8,                      0x34#8,                      0x35#8,                      0x36#8,                      0x37#8,                      0x38#8,                      0x39#8,                      0x3a#8,                      0x3b#8] } }), (0), (0x0007#16), _, rfl, rfl, by decide +kernel⟩,
    ⟨(sRingFrames 1), (0), _, rfl, by decide +kernel⟩,
    ⟨(sRingFrames 2), (0), _, (0), ({ dst := 0x000000000009#48,   src := 0x665544332211#48,   tag := none,   etype := 0x88f7#16,   len := 100,   fcsBad := false,   ptp := none }), (0), rfl, by decide +kernel⟩,
    ⟨(sRingFrames 2), (0), _, (0), ({ dst := 0x665544332211#48,   src := 0x000000000005#48,   tag := none,   etype := 0x88f7#16,   len := 100,   fcsBad := false,   ptp := none }), (0), rfl, by decide +kernel⟩,
    ⟨(sRingFrames 5), (0), _, (1), ({ dst := 0x665544332211#48,   src := 0x000000000005#48,   tag := some 0x0007#16,   etype := 0x88f7#16,   len := 100,   fcsBad := false,   ptp := none }), (0), _, _, rfl, rfl, rfl, by decide +kernel⟩,
    ⟨(sRingFrames 7), (0), _, (0), ({ dst := 0x665544332211#48,   src := 0x000000000005#48,   tag := some 0x0007#16,   etype := 0x88f7#16,   len := 100,   fcsBad := false,   ptp := some { kind := PtpKind.sync,            domain := 0x00#8,            correction := 0x0000000000000100#64,            bytes := [0x00#8,                      0x01#8,                      0x02#8,                      0x03#8,                      0x04#8,                      0x05#8,                      0x06#8,                      0x07#8,                      0x08#8,                      0x09#8,                      0x0a#8,                      0x0b#8,                      0x0c#8,                      0x0d#8,                      0x0e#8,                      0x0f#8,                      0x10#8,                      0x11#8,                      0x12#8,                      0x13#8,                      0x14#8,                      0x15#8,                      0x16#8,                      0x17#8,                      0x18#8,                      0x19#8,                      0x1a#8,                      0x1b#8,                      0x1c#8,                      0x1d#8,                      0x1e#8,                      0x1f#8,                      0x20#8,                      0x21#8,                      0x22#8,                      0x23#8,                      0x24#8,                      0x25#8,                      0x26#8,                      0x27#8,                      0x28#8,                      0x29#8,                      0x2a#8,                      0x2b#8,                      0x2c#8,                      0x2d#8,                      0x2e#8,                      0x2f#8,                      0x30#8,                      0x31#8,                      0x32#8,                      0x33#8,                      0x34#8,                      0x35#8,                      0x36#8,                      0x37#8,                      0x38#8,                      0x39#8,                      0x3a#8,                      0x3b#8] } }), (0), (0x0007#16), _, rfl, rfl, by decide +kernel⟩⟩
def pdp (p : Fin 2) (f : PdPort → PdPort) (m : Mach) : Mach := rg (fun r => {r with pd := r.pd.set p (f r.pd[p])}) m
def s2 : List Mach := [rdy, rg (fun r => {r with wdExp := true}) rdy, rg (fun r => {r with wdExp := true, wdAck := true, wdOwed := true}) rdy, { rdy.wrs [(R.RNG_CTRL_BYPASS, 0), (R.RNG_STATUS_BYPST, 1)] with env := { rdy.env with powered := true } }, {rdy with saf := { rdy.saf with msRun := false }}] ++ ([0,1] : List (Fin 2)).flatMap fun p => [rm 1 [(linkBit p, 1)], rm 1 [(linkBit p, 1), (R.RNG_P_PSTAT_PDOK p, 1), (R.RNG_P_PDELAY p, 900), (R.RNG_PTP_CTRL_PSLIM, 1)], pdp p (fun x => {x with lastSent := 1999999999, outliers := 2}) (rm 1 [(linkBit p, 1), (R.RNG_P_PSTAT_PDOK p, 1), (R.RNG_P_PDELAY p, 900), (R.RNG_PTP_CTRL_PSLIM, 0)]), pdp p (fun x => {x with lastSent := 1999999999, outliers := 1, last4 := [1,2,3,4]}) (rm 1 [(linkBit p, 1), (R.RNG_P_PSTAT_PDOK p, 1), (R.RNG_P_PDELAY p, 900), (R.RNG_PTP_CTRL_PSLIM, 1)]), pdp p (fun x => {x with lastSent := 1999999999, outliers := 1, last4 := [1,2,3,4]}) (rm 1 [(linkBit p, 1), (R.RNG_P_PSTAT_PDOK p, 1), (R.RNG_P_PDELAY p, 900), (R.RNG_PTP_CTRL_PSLIM, 0)]),
 pdp p (fun x => {x with lastSent := 1999999999}) (rm 2 [(linkBit p, 1), (R.RNG_P_PSTAT_PDOK p, 1), (R.RNG_P_PSTAT_PATH_STEP p, 1), (R.RNG_PTP_CTRL_PSLIM, 0)]), pdp p (fun x => {x with lastSent := 1999999999}) (rm 2 [(linkBit p, 1)])]
def sRelaysAndPeerDelay (k : Nat) : State := (s2.map st : List State).getD k State.reset
theorem witness_RelaysAndPeerDelay_1 :
    (∃ (s : State) (dt : Nat) (m : Mach), m = s.at dt ∧ m.open? 22020096 = true) ∧
    (∃ (s : State) (dt : Nat) (m : Mach), m = s.at dt ∧ m.open? 22020096 = true ∧ (m.rng.wdExp = false ∨ m.rng.wdAck = true)) ∧
    (∃ (s : State) (dt : Nat) (m : Mach) (p : Fin 2), m = s.at dt ∧ m.open? 22020096 = true) ∧
    (∃ (s : State) (dt : Nat) (m : Mach) (h : Nat), m = s.at dt ∧ (h = 1 ↔ m.env.powered = false ∨ m.saf.msRun = false ∨ m.rng.wdExp = true ∨ m.rd R.RNG_CTRL_BYPASS = 1) ∧ h < 2 ∧ m.rd R.RNG_STATUS_BYPST = h) ∧
    (∃ (s : State) (dt : Nat) (m : Mach), m = s.at dt ∧ m.saf.msRun = true) ∧
    (∃ (s : State) (dt : Nat) (m : Mach), m = s.at dt ∧ (m.rng.wdExp = true ∨ m.now < m.rng.wdAt + max 1 (m.rd R.RNG_WDT) * 800000)) ∧
    (∃ (s : State) (dt : Nat) (m : Mach) (p : Fin 2) (up : Bool), m = s.at dt ∧ m.rd (linkBit p) = bool01 up) ∧
    (∃ (s : State) (dt : Nat) (m : Mach) (p : Fin 2) (up : Bool), m = s.at dt ∧ m.rd (linkBit p) ≠ bool01 up) :=
  ⟨⟨(sRelaysAndPeerDelay 0), (0), _, rfl, by decide +kernel⟩,
    ⟨(sRelaysAndPeerDelay 0), (0), _, rfl, by decide +kernel⟩,
    ⟨(sRelaysAndPeerDelay 0), (0), _, (0), rfl, by decide +kernel⟩,
    ⟨(sRelaysAndPeerDelay 0), (0), _, (1), rfl, by decide +kernel⟩,
    ⟨(sRelaysAndPeerDelay 0), (0), _, rfl, by decide +kernel⟩,
    ⟨(sRelaysAndPeerDelay 0), (0), _, rfl, by decide +kernel⟩,
    ⟨(sRelaysAndPeerDelay 0), (0), _, (0), (false), rfl, by decide +kernel⟩,
    ⟨(sRelaysAndPeerDelay 0), (0), _, (0), (true), rfl, by decide +kernel⟩⟩
theorem witness_RelaysAndPeerDelay_2 :
    (∃ (s : State) (dt : Nat) (m : Mach) (p : Fin 2), m = s.at dt ∧ m.portRuns p = false) ∧
    (∃ (s : State) (dt : Nat) (m : Mach) (p : Fin 2) (n : Nat), m = s.at dt ∧ m.portRuns p = false) ∧
    (∃ (s : State) (dt : Nat) (m : Mach) (p : Fin 2) (t1 : Int) (t2 : Int) (t3 : Int) (t4 : Int) (d : Int), m = s.at dt ∧ (m.portRuns p = false ∨ m.rng.pd[p].lastSent + m.pdiTicks < m.now)) ∧
    (∃ (s : State) (dt : Nat) (m : Mach), m = s.at dt ∧ m.open? 22020096 = true ∧ m.rng.wdExp = true ∧ m.rng.wdAck = false) ∧
    (∃ (s : State) (dt : Nat) (m : Mach) (h : Nat), m = s.at dt ∧ (h = 1 ↔ m.env.powered = false ∨ m.saf.msRun = false ∨ m.rng.wdExp = true ∨ m.rd R.RNG_CTRL_BYPASS = 1) ∧ h < 2 ∧ m.rd R.RNG_STATUS_BYPST ≠ h) ∧
    (∃ (s : State) (dt : Nat) (m : Mach), m = s.at dt ∧ m.saf.msRun = false) ∧
    (∃ (s : State) (dt : Nat) (m : Mach), m = s.at dt ∧ m.rng.wdExp = false ∧ m.rng.wdAt + max 1 (m.rd R.RNG_WDT) * 800000 ≤ m.now) ∧
    (∃ (s : State) (dt : Nat) (m : Mach) (p : Fin 2), m = s.at dt ∧ m.portRuns p = true ∧ (m.rng.pd[p].lastSent = 0 ∨ m.rng.pd[p].lastSent + m.pdiTicks ≤ m.now)) :=
  ⟨⟨(sRelaysAndPeerDelay 0), (0), _, (0), rfl, by decide +kernel⟩,
    ⟨(sRelaysAndPeerDelay 0), (0), _, (0), (0), rfl, by decide +kernel⟩,
    ⟨(sRelaysAndPeerDelay 0), (0), _, (0), (0), (0), (0), (0), (0), rfl, by decide +kernel⟩,
    ⟨(sRelaysAndPeerDelay 1), (0), _, rfl, by decide +kernel⟩,
    ⟨(sRelaysAndPeerDelay 3), (0), _, (0), rfl, by decide +kernel⟩,
    ⟨(sRelaysAndPeerDelay 4), (0), _, rfl, by decide +kernel⟩,
    ⟨(sRelaysAndPeerDelay 5), (0), _, rfl, by decide +kernel⟩,
    ⟨(sRelaysAndPeerDelay 5), (0), _, (0), rfl, by decide +kernel⟩⟩
theorem witness_RelaysAndPeerDelay_3 :
    (∃ (s : State) (dt : Nat) (m : Mach) (p : Fin 2) (n : Nat), m = s.at dt ∧ m.portRuns p = true) ∧
    (∃ (s : State) (dt : Nat) (m : Mach) (p : Fin 2) (t1 : Int) (t2 : Int) (t3 : Int) (t4 : Int) (d : Int), m = s.at dt ∧ m.portRuns p = true ∧ m.now ≤ m.rng.pd[p].lastSent + m.pdiTicks ∧ 2 * d = t4 - t1 - (t3 - t2) ∧ 0 ≤ d ∧ d < 2 ^ 32 ∧ m.rd (R.RNG_P_PSTAT_PDOK ↑p) = 1 ∧ m.rd R.RNG_PTP_CTRL_PSLIM * 65536 < (d - ↑(m.rd (R.RNG_P_PDELAY ↑p))).natAbs ∧ m.rd (R.RNG_P_PSTAT_PATH_STEP ↑p) = 0 ∧ 2 ≤ m.rng.pd[p].outliers) ∧
    (∃ (s : State) (dt : Nat) (m : Mach) (p : Fin 2) (t1 : Int) (t2 : Int) (t3 : Int) (t4 : Int) (d : Int), m = s.at dt ∧ m.portRuns p = true ∧ m.now ≤ m.rng.pd[p].lastSent + m.pdiTicks ∧ 2 * d = t4 - t1 - (t3 - t2) ∧ 0 ≤ d ∧ d < 2 ^ 32 ∧ m.rd (R.RNG_P_PSTAT_PDOK ↑p) = 1 ∧ (d - ↑(m.rd (R.RNG_P_PDELAY ↑p))).natAbs ≤ m.rd R.RNG_PTP_CTRL_PSLIM * 65536) ∧
    (∃ (s : State) (dt : Nat) (m : Mach) (p : Fin 2) (t1 : Int) (t2 : Int) (t3 : Int) (t4 : Int) (d : Int), m = s.at dt ∧ m.portRuns p = true ∧ m.now ≤ m.rng.pd[p].lastSent + m.pdiTicks ∧ 2 * d = t4 - t1 - (t3 - t2) ∧ 0 ≤ d ∧ d < 2 ^ 32 ∧ m.rd (R.RNG_P_PSTAT_PDOK ↑p) = 1 ∧ m.rd R.RNG_PTP_CTRL_PSLIM * 65536 < (d - ↑(m.rd (R.RNG_P_PDELAY ↑p))).natAbs ∧ m.rd (R.RNG_P_PSTAT_PATH_STEP ↑p) = 0 ∧ m.rng.pd[p].outliers < 2) ∧
    (∃ (s : State) (dt : Nat) (m : Mach) (p : Fin 2) (t1 : Int) (t2 : Int) (t3 : Int) (t4 : Int) (d : Int), m = s.at dt ∧ m.portRuns p = true ∧ m.now ≤ m.rng.pd[p].lastSent + m.pdiTicks ∧ 2 * d = t4 - t1 - (t3 - t2) ∧ 0 ≤ d ∧ d < 2 ^ 32 ∧ m.rd (R.RNG_P_PSTAT_PDOK ↑p) = 1 ∧ m.rd R.RNG_PTP_CTRL_PSLIM * 65536 < (d - ↑(m.rd (R.RNG_P_PDELAY ↑p))).natAbs ∧ m.rd (R.RNG_P_PSTAT_PATH_STEP ↑p) = 1) ∧
    (∃ (s : State) (dt : Nat) (m : Mach) (p : Fin 2) (t1 : Int) (t2 : Int) (t3 : Int) (t4 : Int) (d : Int), m = s.at dt ∧ m.portRuns p = true ∧ m.now ≤ m.rng.pd[p].lastSent + m.pdiTicks ∧ 2 * d = t4 - t1 - (t3 - t2) ∧ 0 ≤ d ∧ d < 2 ^ 32 ∧ m.rd (R.RNG_P_PSTAT_PDOK ↑p) = 0) :=
  ⟨⟨(sRelaysAndPeerDelay 5), (0), _, (0), (0), rfl, by decide +kernel⟩,
    ⟨(sRelaysAndPeerDelay 7), (0), _, (0), (0), (0), (0), (0), (0), rfl, by decide +kernel⟩,
    ⟨(sRelaysAndPeerDelay 8), (0), _, (0), (0), (0), (0), (0), (0), rfl, by decide +kernel⟩,
    ⟨(sRelaysAndPeerDelay 8), (0), _, (0), (0), (131072), (0), (131072), (131072), rfl, by decide +kernel⟩,
    ⟨(sRelaysAndPeerDelay 10), (0), _, (0), (0), (0), (0), (2000), (1000), rfl, by decide +kernel⟩,
    ⟨(sRelaysAndPeerDelay 11), (0), _, (0), (0), (0), (0), (0), (0), rfl, by decide +kernel⟩⟩
end
end W26

namespace W27
section
def rg (f : Rng → Rng) (m : Mach) : Mach := { m with rng := f m.rng }
def rm (md : Nat) (l : List (RF × Nat) := []) : Mach := { rdy.wrs ([(R.RNG_CTRL_MODE, md), (R.RNG_STATUS_BYPST, 0), (R.RNG_CTRL_CYCEN, 1), (R.TRL_CTRL_MODID, 3), (R.TRL_CTRL_RMASK, 0x0E), (R.TRL_RDLY, 100), (R.RNG_CYC_PER, 250)] ++ l) with now := 2000000000 }
def near (m : Mach) (d : Nat) : Mach := { m with mt := m.mtOf (m.launchPt m.nextCycle) - d }
def adv (m : Mach) (dt : Nat) : Mach := ((st m).at dt)
def dts (m : Mach) : Nat := (m.mtOf (m.launchPt m.nextCycle)) - m.mt
def base (md : Nat) (d : Nat) (l : List (RF × Nat) := []) : Mach := { rm md l with mt := 4000000 - d }
def rec1 (c : Nat) : SigRec := ⟨BitVec.ofNat 32 c, 1, 2⟩
def s1 : List Mach := [rdy, rm 1, base 1 16000, base 2 39, rg (fun r => {r with chg := [(5, 64, true), ((base 1 9000).mt - 5, 70, false)], hsrSeq := 9}) (base 1 9000 [(R.AXE_AX_CFG_KIND 0, 1), (R.AXE_AX_CFG_KIND 7, 1)]), (base 2 9000).wr R.PWR_PSTATE_STATE 3]
def cf (k : Nat) (id cyc : Nat) (ss : List CycSect) : CycFrame := ⟨1, BitVec.ofNat 4 k, BitVec.ofNat 8 id, true, BitVec.ofNat 32 cyc, 5, ss, true⟩
def fb (f r : Bool) : AxFbRec := ⟨77, 5, r, f, true, true, 9⟩
def q1 : CycRx := { cycle := BitVec.ofNat 32 (rm 1).nextCycle, modid := 1, at_ := 5, ports := [0], reqs := [], sigs := [] }
def s2 : List Mach := [rdy, rm 1, rm 2, rg (fun r => {r with rx := [q1]}) (rm 1), rm 1 [(R.AXE_AX_CFG_KIND 0, 1), (R.RNG_AX_DRV_DRV 0, 7), (R.AXE_AX_CFG_KIND 7, 1), (R.RNG_AX_DRV_DRV 7, 7), (R.RNG_AX_DRV_IDX 7, 1)]]
def sCyclicFrames (k : Nat) : State := ((s1 ++ s2).map st : List State).getD k State.reset
theorem witness_CyclicFrames_1 :
    (∃ (s : State) (dt : Nat) (m : Mach), m = s.at dt ∧ (m.rd R.RNG_CTRL_CYCEN = 0 ∨ m.ringMode = 0 ∨ m.mt < m.mtOf (m.launchPt m.nextCycle) - 16000 ∨ Option.map (fun x => BitVec.toNat x.cycle) m.rng.own.head? = some m.nextCycle)) ∧
    (∃ (s : State) (dt : Nat) (m : Mach) (p : Fin 2) (f : CycFrame), m = s.at dt ∧ m.Quiet ∧ m.ringUp = false) ∧
    (∃ (s : State) (dt : Nat) (m : Mach), m = s.at dt ∧ m.rd R.RNG_CTRL_CYCEN = 1 ∧ m.ringMode ≠ 0 ∧ m.pstate ≠ 3 ∧ m.mtOf (m.launchPt m.nextCycle) - 16000 ≤ m.mt ∧ Option.map (fun x => BitVec.toNat x.cycle) m.rng.own.head? ≠ some m.nextCycle) ∧
    (∃ (s : State) (dt : Nat) (m : Mach) (p : Fin 2) (f : CycFrame), m = s.at dt ∧ m.Quiet ∧ m.ringUp = true ∧ f.kind = 0 ∧ BitVec.toNat f.num = m.rd R.TRL_CTRL_MODID ∧ m.ringMode = 1) ∧
    (∃ (s : State) (dt : Nat) (m : Mach) (p : Fin 2) (f : CycFrame), m = s.at dt ∧ m.Quiet ∧ m.ringUp = true ∧ (f.kind ≠ 0 ∨ BitVec.toNat f.num ≠ m.rd R.TRL_CTRL_MODID) ∧ cycOk f = true ∧ f.kind = 0 ∧ BitVec.toNat f.num ∈ m.rmask ∧ m.mt ≤ m.decideAt (BitVec.toNat f.cycle) ∧ (∀ q ∈ m.rng.rx, ¬(q.cycle = f.cycle ∧ q.modid = BitVec.toNat f.num))) ∧
    (∃ (s : State) (dt : Nat) (m : Mach) (p : Fin 2) (f : CycFrame), m = s.at dt ∧ m.Quiet ∧ m.ringUp = true ∧ (f.kind ≠ 0 ∨ BitVec.toNat f.num ≠ m.rd R.TRL_CTRL_MODID) ∧ cycOk f = true ∧ f.kind = 0 ∧ BitVec.toNat f.num ∈ m.rmask ∧ m.decideAt (BitVec.toNat f.cycle) < m.mt) ∧
    (∃ (s : State) (dt : Nat) (m : Mach) (p : Fin 2) (f : CycFrame), m = s.at dt ∧ m.Quiet ∧ m.ringUp = true ∧ (f.kind ≠ 0 ∨ BitVec.toNat f.num ≠ m.rd R.TRL_CTRL_MODID) ∧ cycOk f = true ∧ f.kind = 0 ∧ BitVec.toNat f.num ∉ m.rmask) ∧
    (∃ (s : State) (dt : Nat) (m : Mach) (p : Fin 2) (f : CycFrame) (a : Fin 8), m = s.at dt ∧ m.Quiet ∧ m.ringUp = true ∧ (f.kind ≠ 0 ∨ BitVec.toNat f.num ≠ m.rd R.TRL_CTRL_MODID) ∧ cycOk f = true ∧ f.kind = 1 ∧ (m.rd (R.AXE_AX_CFG_KIND ↑a) ≠ 1 ∨ m.rd (R.RNG_AX_DRV_DRV ↑a) ≠ BitVec.toNat f.num ∨ (cycFbs f).length ≤ m.rd (R.RNG_AX_DRV_IDX ↑a))) :=
  ⟨⟨(sCyclicFrames 0), (0), _, rfl, by decide +kernel⟩,
    ⟨(sCyclicFrames 0), (0), _, (0), ({ ver := 0x1#4,   kind := 0x0#4,   num := 0x03#8,   ptv := true,   cycle := 0x00000000#32,   seq := 0x0005#16,   sections := [],   fits := true }), rfl, by unfold Mach.Quiet; decide +kernel, by decide +kernel⟩,
    ⟨(sCyclicFrames 1), (0), _, rfl, by decide +kernel⟩,
    ⟨(sCyclicFrames 1), (0), _, (0), ({ ver := 0x1#4,   kind := 0x0#4,   num := 0x03#8,   ptv := true,   cycle := 0x00000000#32,   seq := 0x0005#16,   sections := [],   fits := true }), rfl, by unfold Mach.Quiet; decide +kernel, by decide +kernel⟩,
    ⟨(sCyclicFrames 1), (0), _, (0), ({ ver := 0x1#4,   kind := 0x0#4,   num := 0x01#8,   ptv := true,   cycle := 0x004c4b40#32,   seq := 0x0005#16,   sections := [CycSect.sig                  [{ cycle := 0x00000004#32, setm := 0x0000000000000001#64, clrm := 0x0000000000000002#64 },                   { cycle := 0x00000005#32, setm := 0x0000000000000001#64, clrm := 0x0000000000000002#64 },                   { cycle := 0x00000006#32, setm := 0x0000000000000001#64, clrm := 0x0000000000000002#64 },                   { cycle := 0x00000007#32, setm := 0x0000000000000001#64, clrm := 0x0000000000000002#64 }]],   fits := true }), rfl, by unfold Mach.Quiet; decide +kernel, by decide +kernel⟩,
    ⟨(sCyclicFrames 1), (0), _, (0), ({ ver := 0x1#4,   kind := 0x0#4,   num := 0x01#8,   ptv := true,   cycle := 0x002625a0#32,   seq := 0x0005#16,   sections := [],   fits := true }), rfl, by unfold Mach.Quiet; decide +kernel, by decide +kernel⟩,
    ⟨(sCyclicFrames 1), (0), _, (0), ({ ver := 0x1#4,   kind := 0x0#4,   num := 0x05#8,   ptv := true,   cycle := 0x00000009#32,   seq := 0x0005#16,   sections := [],   fits := true }), rfl, by unfold Mach.Quiet; decide +kernel, by decide +kernel⟩,
    ⟨(sCyclicFrames 1), (0), _, (0), ({ ver := 0x1#4,   kind := 0x1#4,   num := 0x07#8,   ptv := true,   cycle := 0x00000000#32,   seq := 0x0005#16,   sections := [CycSect.axFb                  [{ apos := 0x0000004d#32,                     ipos := 0x00000005#32,                     ready := true,                     fault := false,                     standstill := true,                     idx := true,                     ack := 0x0009#16 },                   { apos := 0x0000004d#32,                     ipos := 0x00000005#32,                     ready := true,                     fault := true,                     standstill := true,                     idx := true,                     ack := 0x0009#16 }]],   fits := true }), (0), rfl, by unfold Mach.Quiet; decide +kernel, by decide +kernel⟩⟩
theorem witness_CyclicFrames_2 :
    (∃ (s : State) (dt : Nat) (m : Mach) (p : Fin 2) (f : CycFrame), m = s.at dt ∧ m.Quiet ∧ m.ringUp = true ∧ (f.kind ≠ 0 ∨ BitVec.toNat f.num ≠ m.rd R.TRL_CTRL_MODID) ∧ cycOk f = false ∧ m.raisedThisTick 28 = false) ∧
    (∃ (s : State) (dt : Nat) (m : Mach) (p : Fin 2) (f : CycFrame) (q : _), m = s.at dt ∧ List.find? (fun q => q.cycle == f.cycle && q.modid == BitVec.toNat f.num) m.rng.rx = some q ∧ m.Quiet ∧ m.ringUp = true ∧ (f.kind ≠ 0 ∨ BitVec.toNat f.num ≠ m.rd R.TRL_CTRL_MODID) ∧ cycOk f = true ∧ f.kind = 0 ∧ BitVec.toNat f.num ∈ m.rmask ∧ m.mt ≤ m.decideAt (BitVec.toNat f.cycle)) ∧
    (∃ (s : State) (dt : Nat) (m : Mach) (p : Fin 2) (f : CycFrame) (a : Fin 8) (r : _), m = s.at dt ∧ (cycFbs f)[m.rd (R.RNG_AX_DRV_IDX ↑a)]? = some r ∧ m.Quiet ∧ m.ringUp = true ∧ (f.kind ≠ 0 ∨ BitVec.toNat f.num ≠ m.rd R.TRL_CTRL_MODID) ∧ cycOk f = true ∧ f.kind = 1 ∧ m.rd (R.AXE_AX_CFG_KIND ↑a) = 1 ∧ m.rd (R.RNG_AX_DRV_DRV ↑a) = BitVec.toNat f.num ∧ m.axis[a].qstop = false ∧ m.axis[a].homing = none ∧ r.fault = false ∧ r.ready = true) :=
  ⟨⟨(sCyclicFrames 1), (0), _, (0), ({ ver := 0x1#4,   kind := 0x1#4,   num := 0x07#8,   ptv := true,   cycle := 0x00000000#32,   seq := 0x0005#16,   sections := [CycSect.bad 0x09#8],   fits := true }), rfl, by unfold Mach.Quiet; decide +kernel, by decide +kernel⟩,
    ⟨(sCyclicFrames 9), (0), _, (0), ({ ver := 0x1#4,   kind := 0x0#4,   num := 0x01#8,   ptv := true,   cycle := 0x004c4b40#32,   seq := 0x0005#16,   sections := [CycSect.sig                  [{ cycle := 0x00000004#32, setm := 0x0000000000000001#64, clrm := 0x0000000000000002#64 },                   { cycle := 0x00000005#32, setm := 0x0000000000000001#64, clrm := 0x0000000000000002#64 },                   { cycle := 0x00000006#32, setm := 0x0000000000000001#64, clrm := 0x0000000000000002#64 },                   { cycle := 0x00000007#32, setm := 0x0000000000000001#64, clrm := 0x0000000000000002#64 }]],   fits := true }), _, rfl, rfl, by unfold Mach.Quiet; decide +kernel, by decide +kernel⟩,
    ⟨(sCyclicFrames 10), (0), _, (0), ({ ver := 0x1#4,   kind := 0x1#4,   num := 0x07#8,   ptv := true,   cycle := 0x00000000#32,   seq := 0x0005#16,   sections := [CycSect.axFb                  [{ apos := 0x0000004d#32,                     ipos := 0x00000005#32,                     ready := true,                     fault := false,                     standstill := true,                     idx := true,                     ack := 0x0009#16 },                   { apos := 0x0000004d#32,                     ipos := 0x00000005#32,                     ready := true,                     fault := true,                     standstill := true,                     idx := true,                     ack := 0x0009#16 }]],   fits := true }), (0), _, rfl, rfl, by unfold Mach.Quiet; decide +kernel, by decide +kernel⟩⟩
end
end W27

namespace W28
section
def ev (f : Env → Env) (m : Mach) : Mach := { m with env := f m.env }
def bothF : Mach := rdy.wrs [(R.PWR_FEED_AOK, 1), (R.PWR_FEED_BOK, 1)]
def s1 : List Mach := [rdy.wr R.PWR_RAILERR 255, rdy, rdy.wrs [(R.PWR_FEED_AOK, 1)], bothF, bothF.wr R.PWR_FEED_ACT 1, ev (fun e => {e with switchAt := some rdy.now}) bothF, ev (fun e => {e with switchAt := some (rdy.now - 80000000 + 1), holdup := true}) bothF, { ev (fun e => {e with holdup := true}) bothF with cbk := { bothF.cbk with queue := [] } }, (ev (fun e => {e with vslew := (850, rdy.now - 5)}) rdy).wr R.PWR_VCORE_SET 720]
def sFeedsAndRails (k : Nat) : State := (s1.map st : List State).getD k State.reset
theorem witness_FeedsAndRails_1 :
    (∃ (s : State) (dt : Nat) (m : Mach) (f : Feed), m = s.at dt ∧ m.rd (feedOk (feedNo f)) = 0) ∧
    (∃ (s : State) (dt : Nat) (m : Mach) (f : Feed), m = s.at dt ∧ (m.rd (feedOk (feedNo f)) = 0 ∨ m.rd R.PWR_FEED_ACT = feedNo f)) ∧
    (∃ (s : State) (dt : Nat) (m : Mach), m = s.at dt ∧ (m.rd (feedOk (1 - m.rd R.PWR_FEED_ACT)) = 0 ∨ ∃ u, m.env.switchAt = some u ∧ m.now < u + 80000000)) ∧
    (∃ (s : State) (dt : Nat) (m : Mach), m = s.at dt ∧ m.open? 65536 = true ∧ m.rd (feedOk (1 - m.rd R.PWR_FEED_ACT)) = 0) ∧
    (∃ (s : State) (dt : Nat) (m : Mach), m = s.at dt ∧ m.env.holdup = false) ∧
    (∃ (s : State) (dt : Nat) (m : Mach) (r : Rail), m = s.at dt) ∧
    (∃ (s : State) (dt : Nat) (m : Mach) (r : Rail), m = s.at dt ∧ m.rd { a := R.PWR_RAILERR.a, msb := railBit r, lsb := railBit r } = 1) ∧
    (∃ (s : State) (dt : Nat) (m : Mach) (mv : BitVec 10), m = s.at dt ∧ min (if m.env.vslew.2 + (max m.env.vslew.1 (m.rd R.PWR_VCORE_SET) - min m.env.vslew.1 (m.rd R.PWR_VCORE_SET)) * 200 ≤ m.now then m.rd R.PWR_VCORE_SET else m.env.vslew.1) (m.rd R.PWR_VCORE_SET) ≤ mv.toNat + 35 ∧ mv.toNat ≤ max (if m.env.vslew.2 + (max m.env.vslew.1 (m.rd R.PWR_VCORE_SET) - min m.env.vslew.1 (m.rd R.PWR_VCORE_SET)) * 200 ≤ m.now then m.rd R.PWR_VCORE_SET else m.env.vslew.1) (m.rd R.PWR_VCORE_SET) + 35) :=
  ⟨⟨(sFeedsAndRails 0), (0), _, (Feed.a), rfl, by decide +kernel⟩,
    ⟨(sFeedsAndRails 0), (0), _, (Feed.a), rfl, by decide +kernel⟩,
    ⟨(sFeedsAndRails 0), (0), _, rfl, by decide +kernel⟩,
    ⟨(sFeedsAndRails 0), (0), _, rfl, by decide +kernel⟩,
    ⟨(sFeedsAndRails 0), (0), _, rfl, by decide +kernel⟩,
    ⟨(sFeedsAndRails 0), (0), _, (Rail.vaon), rfl⟩,
    ⟨(sFeedsAndRails 0), (0), _, (Rail.vaon), rfl, by decide +kernel⟩,
    ⟨(sFeedsAndRails 0), (0), _, (0x352#10), rfl, by decide +kernel⟩⟩
theorem witness_FeedsAndRails_2 :
    (∃ (s : State) (dt : Nat) (m : Mach) (mv : BitVec 10), m = s.at dt ∧ (mv.toNat + 35 < min (if m.env.vslew.2 + (max m.env.vslew.1 (m.rd R.PWR_VCORE_SET) - min m.env.vslew.1 (m.rd R.PWR_VCORE_SET)) * 200 ≤ m.now then m.rd R.PWR_VCORE_SET else m.env.vslew.1) (m.rd R.PWR_VCORE_SET) ∨ max (if m.env.vslew.2 + (max m.env.vslew.1 (m.rd R.PWR_VCORE_SET) - min m.env.vslew.1 (m.rd R.PWR_VCORE_SET)) * 200 ≤ m.now then m.rd R.PWR_VCORE_SET else m.env.vslew.1) (m.rd R.PWR_VCORE_SET) + 35 < mv.toNat)) ∧
    (∃ (s : State) (dt : Nat) (m : Mach) (r : Rail), m = s.at dt ∧ m.rd { a := R.PWR_RAILERR.a, msb := railBit r, lsb := railBit r } = 0) ∧
    (∃ (s : State) (dt : Nat) (m : Mach) (f : Feed), m = s.at dt ∧ m.rd (feedOk (feedNo f)) = 1) ∧
    (∃ (s : State) (dt : Nat) (m : Mach) (f : Feed), m = s.at dt ∧ m.rd (feedOk (feedNo f)) = 1 ∧ m.rd R.PWR_FEED_ACT ≠ feedNo f) ∧
    (∃ (s : State) (dt : Nat) (m : Mach), m = s.at dt ∧ m.rd (feedOk (1 - m.rd R.PWR_FEED_ACT)) = 1 ∧ (m.env.switchAt = none ∨ ∃ u, m.env.switchAt = some u ∧ u + 80000000 ≤ m.now)) ∧
    (∃ (s : State) (dt : Nat) (m : Mach), m = s.at dt ∧ m.open? 65536 = true ∧ m.rd (feedOk (1 - m.rd R.PWR_FEED_ACT)) = 1) ∧
    (∃ (s : State) (dt : Nat) (m : Mach), m = s.at dt ∧ m.env.holdup = true) :=
  ⟨⟨(sFeedsAndRails 0), (0), _, (0x376#10), rfl, by decide +kernel⟩,
    ⟨(sFeedsAndRails 1), (0), _, (Rail.vaon), rfl, by decide +kernel⟩,
    ⟨(sFeedsAndRails 2), (0), _, (Feed.a), rfl, by decide +kernel⟩,
    ⟨(sFeedsAndRails 3), (0), _, (Feed.b), rfl, by decide +kernel⟩,
    ⟨(sFeedsAndRails 3), (0), _, rfl, by decide +kernel⟩,
    ⟨(sFeedsAndRails 3), (0), _, rfl, by decide +kernel⟩,
    ⟨(sFeedsAndRails 6), (0), _, rfl, by decide +kernel⟩⟩
def pst (k : Nat) (m : Mach) := m.wr R.PWR_PSTATE_STATE k
def savb (m : Mach) := m.wr R.CE_SAVE_BASE_HI 1
def mvx (x : Axis) : Axis := { x with st := .moving, plan := [⟨rdy.mt - 800000, 0, 0, ⟨1600000, 6553600, 0⟩, some (.move 100 50)⟩], endAt := rdy.mt + 800000, endPos := 6553600, endVel := 0, ref := true }
def ax (a : Fin 8) (f : Axis → Axis) (m : Mach) : Mach := { m with axis := m.axis.set a (f m.axis[a]) }
def s2 : List Mach := [rdy, savb rdy, pst 1 rdy, pst 1 (savb rdy), pst 2 (savb rdy), pst 3 rdy, rdy.wr R.THM_STATUS_TRIPLATCH 1, pst 3 (rdy.wr R.THM_STATUS_TRIPLATCH 1), ctxOn (.fe 0 0) .active rdy, ctxOn (.fe 0 0) .waiting (armed rdy), savb (armed rdy), ax 0 mvx rdy, pst 1 (ax 0 (fun x => {x with st := .held, queue := [.raw 5 5 5]}) { rdy with saf := { rdy.saf with holdAt := some (rdy.mt - 50) } }), pst 3 (rdy.wrs [(R.PWR_WAKE_OT, 1), (R.PWR_WAKEKEY, 77)]), { pst 3 (rdy.wrs [(R.PWR_WAKE_OT, 1), (R.PWR_WAKEKEY, 77)]) with tim := { rdy.tim with ot := 10^18 } }, (pst 3 (rdy.wrs [(R.PWR_WAKE_OT, 1), (R.PWR_WAKEKEY, 77), (R.THM_STATUS_TRIPLATCH, 1), (R.THM_S_TEMP 80, 961)]))]
def sPowerStates (k : Nat) : State := (s2.map st : List State).getD k State.reset
theorem witness_PowerStates_1 :
    (∃ (s : State) (dt : Nat) (m : Mach) (c : Instr), m = s.at dt ∧ m.open? 65536 = true ∧ (c = Instr.pstateActive dt ∨ c = Instr.pstateHold dt ∨ c = Instr.pstateIdle dt ∨ c = Instr.pstateStandby dt) ∧ m.Quiet ∧ m.rd R.THM_STATUS_TRIPLATCH = 0 ∧ (c = Instr.pstateActive dt ∧ (m.pstate = 0 ∨ m.pstate = 3) ∨ c = Instr.pstateHold dt ∧ m.pstate ≠ 0 ∨ c = Instr.pstateIdle dt ∧ 2 ≤ m.pstate ∨ c = Instr.pstateStandby dt ∧ m.pstate = 3)) ∧
    (∃ (s : State) (dt : Nat) (m : Mach), m = s.at dt ∧ m.open? 65536 = true ∧ m.rd R.THM_STATUS_TRIPLATCH = 0 ∧ m.pstate = 0) ∧
    (∃ (s : State) (dt : Nat) (m : Mach) (c : Instr), m = s.at dt ∧ m.open? 65536 = true ∧ m.rd R.THM_STATUS_TRIPLATCH = 0 ∧ m.mode ≠ modeArmed ∧ m.pstate ≤ 1 ∧ (∀ (x : Ctx), ctxBusy (m.ctx x).st = false) ∧ m.saveBase = 0 ∧ (c = Instr.pstateIdle dt ∨ c = Instr.pstateStandby dt)) ∧
    (∃ (s : State) (dt : Nat) (m : Mach) (key : Word) (c : Instr), m = s.at dt ∧ (c = Instr.wakeOt dt ∧ (m.rd R.PWR_WAKE_OT = 0 ∨ m.tim.otSec < m.rd R.PWR_WAKE_OT ∨ m.pstate ≠ 3) ∨ c = Instr.wakeFrame dt key ∧ (m.rd R.PWR_WAKEKEY = 0 ∨ m.rd R.PWR_WAKEKEY ≠ BitVec.toNat key ∨ m.pstate ≠ 3))) ∧
    (∃ (s : State) (dt : Nat) (m : Mach), m = s.at dt ∧ m.open? 65536 = true ∧ m.rd R.THM_STATUS_TRIPLATCH = 0 ∧ m.mode ≠ modeArmed ∧ m.pstate ≤ 1 ∧ (∀ (x : Ctx), ctxBusy (m.ctx x).st = false) ∧ m.saveBase ≠ 0) ∧
    (∃ (s : State) (dt : Nat) (m : Mach), m = s.at dt ∧ m.open? 65536 = true ∧ m.rd R.THM_STATUS_TRIPLATCH = 0 ∧ m.mode ≠ modeArmed ∧ m.pstate ≤ 2 ∧ (∀ (x : Ctx), ctxBusy (m.ctx x).st = false) ∧ m.saveBase ≠ 0) ∧
    (∃ (s : State) (dt : Nat) (m : Mach), m = s.at dt ∧ m.open? 65536 = true ∧ m.rd R.THM_STATUS_TRIPLATCH = 0 ∧ m.pstate = 1 ∧ m.Quiet) ∧
    (∃ (s : State) (dt : Nat) (m : Mach), m = s.at dt ∧ m.open? 65536 = true ∧ m.rd R.THM_STATUS_TRIPLATCH = 0 ∧ m.pstate = 2 ∧ m.Quiet) :=
  ⟨⟨(sPowerStates 0), (0), _, (Instr.pstateActive 0), rfl, by decide +kernel, by decide +kernel, by unfold Mach.Quiet; decide +kernel, by decide +kernel⟩,
    ⟨(sPowerStates 0), (0), _, rfl, by decide +kernel⟩,
    ⟨(sPowerStates 0), (0), _, (Instr.pstateIdle 0), rfl, by decide +kernel, by decide +kernel, by decide +kernel, by decide +kernel, (ctx_all (by decide +kernel) (by decide +kernel) (by decide +kernel)), by decide +kernel⟩,
    ⟨(sPowerStates 0), (0), _, (0x00000000#32), (Instr.wakeOt 0), rfl, by decide +kernel⟩,
    ⟨(sPowerStates 1), (0), _, rfl, by decide +kernel, by decide +kernel, by decide +kernel, by decide +kernel, (ctx_all (by decide +kernel) (by decide +kernel) (by decide +kernel)), by decide +kernel⟩,
    ⟨(sPowerStates 1), (0), _, rfl, by decide +kernel, by decide +kernel, by decide +kernel, by decide +kernel, (ctx_all (by decide +kernel) (by decide +kernel) (by decide +kernel)), by decide +kernel⟩,
    ⟨(sPowerStates 2), (0), _, rfl, by decide +kernel, by decide +kernel, by decide +kernel, by unfold Mach.Quiet; decide +kernel⟩,
    ⟨(sPowerStates 4), (0), _, rfl, by decide +kernel, by decide +kernel, by decide +kernel, by unfold Mach.Quiet; decide +kernel⟩⟩
theorem witness_PowerStates_2 :
    (∃ (s : State) (dt : Nat) (m : Mach) (c : Instr), m = s.at dt ∧ m.open? 65536 = true ∧ (c = Instr.pstateActive dt ∨ c = Instr.pstateHold dt ∨ c = Instr.pstateIdle dt ∨ c = Instr.pstateStandby dt) ∧ m.Quiet ∧ m.rd R.THM_STATUS_TRIPLATCH = 1) ∧
    (∃ (s : State) (dt : Nat) (m : Mach) (c : Instr), m = s.at dt ∧ m.open? 65536 = true ∧ m.rd R.THM_STATUS_TRIPLATCH = 0 ∧ m.mode ≠ modeArmed ∧ m.pstate ≤ 1 ∧ (∃ x, ctxBusy (m.ctx x).st = true) ∧ (c = Instr.pstateIdle dt ∨ c = Instr.pstateStandby dt)) ∧
    (∃ (s : State) (dt : Nat) (m : Mach) (c : Instr), m = s.at dt ∧ m.open? 65536 = true ∧ m.rd R.THM_STATUS_TRIPLATCH = 0 ∧ m.mode = modeArmed ∧ m.pstate ≤ 1 ∧ m.someRun = false ∧ (∃ x, ctxBusy (m.ctx x).st = true) ∧ (c = Instr.pstateIdle dt ∨ c = Instr.pstateStandby dt)) ∧
    (∃ (s : State) (dt : Nat) (m : Mach) (key : Word) (c : Instr), m = s.at dt ∧ (c = Instr.wakeOt dt ∧ m.rd R.PWR_WAKE_OT ≠ 0 ∧ m.rd R.PWR_WAKE_OT ≤ m.tim.otSec ∨ c = Instr.wakeFrame dt key ∧ key ≠ 0 ∧ m.rd R.PWR_WAKEKEY = BitVec.toNat key) ∧ m.pstate = 3 ∧ m.env.waking = false ∧ (m.rd R.THM_STATUS_TRIPLATCH = 0 ∨ m.boardCool = true)) ∧
    (∃ (s : State) (dt : Nat) (m : Mach) (key : Word) (c : Instr), m = s.at dt ∧ (c = Instr.wakeOt dt ∧ m.rd R.PWR_WAKE_OT ≠ 0 ∧ m.rd R.PWR_WAKE_OT ≤ m.tim.otSec ∨ c = Instr.wakeFrame dt key ∧ key ≠ 0 ∧ m.rd R.PWR_WAKEKEY = BitVec.toNat key) ∧ m.pstate = 3 ∧ m.env.waking = false ∧ m.rd R.THM_STATUS_TRIPLATCH = 1 ∧ m.boardCool = false) :=
  ⟨⟨(sPowerStates 6), (0), _, (Instr.pstateActive 0), rfl, by decide +kernel, by decide +kernel, by unfold Mach.Quiet; decide +kernel, by decide +kernel⟩,
    ⟨(sPowerStates 8), (0), _, (Instr.pstateIdle 0), rfl, by decide +kernel, by decide +kernel, by decide +kernel, by decide +kernel, ⟨.fe 0 0, by decide +kernel⟩, by decide +kernel⟩,
    ⟨(sPowerStates 9), (0), _, (Instr.pstateIdle 0), rfl, by decide +kernel, by decide +kernel, by decide +kernel, by decide +kernel, by decide +kernel, ⟨.fe 0 0, by decide +kernel⟩, by decide +kernel⟩,
    ⟨(sPowerStates 13), (0), _, (0x0000004d#32), (Instr.wakeFrame 0 0x0000004d#32), rfl, by decide +kernel⟩,
    ⟨(sPowerStates 15), (0), _, (0x0000004d#32), (Instr.wakeFrame 0 0x0000004d#32), rfl, by decide +kernel⟩⟩
end
end W28

namespace W29
section
def ev (f : Env → Env) (m : Mach) : Mach := { m with env := f m.env }
def rd (a b c : Int) (k : Nat := 99) (v : Int := 0) : List Int := modify (List.replicate 64 a ++ List.replicate 16 b ++ List.replicate 8 c) k fun _ => v
def rawRegs (l : List (Nat × Word)) (m : Mach) : Mach := { m with regs := l.foldl (fun r p => sput r p.1 p.2) m.regs }
def s1 : List Mach := ({rdy with now := 800000000} :: ·) <| List.map (fun m : Mach => {m with now := m.now + 800000000 }) [rdy, rdy.wr R.THM_TJ_LEVEL 1, rdy.wrs [(R.THM_TJ_LEVEL, 2), (R.MEM_RACKRATE_RATE, 33)], ev (fun e => {e with dev := modify (modify (modify e.dev 0 fun _ => 9) 87 fun _ => 9) 64 fun _ => 8}) rdy, (ev (fun e => {e with cool := [none, some (0)]}) rdy).wr R.THM_TJ_LEVEL 2, (ev (fun e => {e with cool := [some (0), none]}) rdy).wr R.THM_TJ_LEVEL 1, rdy.wr R.PWR_PSTATE_STATE 3, (rdy.wrs [(R.THM_S_BROKEN 0, 1), (R.THM_S_NOSUB 64, 1), (R.THM_STATUS_NBROKEN, 2)]),
 { (rawRegs [((calGain false 8).a, 4194304), ((calGain true 8).a, 4194304)] rdy).wrs [(R.AFE_CTRL, 1)] with mt := 800000 * 200 }, { rdy.wrs [(R.AFE_CTRL, 1), (calFailn false 8, 2), (calFailn true 8, 3)] with mt := 800000 * 200 }, {rdy.wrs [(R.AFE_CTRL, 1)] with mt := 800000 * 225}, ev (fun e => {e with top := modify (modify e.top 0 fun _ => some ⟨8, 1⟩) 9 fun _ => some ⟨17, 15⟩}) rdy]
def sThermalAndCalibration (k : Nat) : State := (s1.map st : List State).getD k State.reset
theorem witness_ThermalAndCalibration_1 :
    (∃ (s : State) (dt : Nat) (m : Mach) (r : List Int) (tj : Int), m = s.at dt ∧ r.length = 88 ∧ m.pstate ≤ 2 ∧ (∀ k < 88, m.rd (R.THM_S_BROKEN k) = 0 ∧ m.rd (R.THM_S_NOSUB k) = 0) ∧ m.env.dev.length = 88 ∧ (∀ k < 88, m.deviates r k = false) ∧ tj = maxTemp (List.take 64 r) ∧ tj < 1600) ∧
    (∃ (s : State) (dt : Nat) (m : Mach) (r : List Int) (tj : Int), m = s.at dt ∧ r.length = 88 ∧ m.pstate ≤ 2 ∧ (∀ k < 88, m.rd (R.THM_S_BROKEN k) = 0 ∧ m.rd (R.THM_S_NOSUB k) = 0) ∧ m.env.dev.length = 88 ∧ (∀ k < 88, m.deviates r k = false) ∧ tj = maxTemp (List.take 64 r) ∧ 1600 ≤ tj ∧ tj < 1760 ∧ m.rd R.THM_TJ_LEVEL = 0) ∧
    (∃ (s : State) (dt : Nat) (m : Mach) (r : List Int) (tj : Int), m = s.at dt ∧ r.length = 88 ∧ m.pstate ≤ 2 ∧ (∀ k < 88, m.rd (R.THM_S_BROKEN k) = 0 ∧ m.rd (R.THM_S_NOSUB k) = 0) ∧ m.env.dev.length = 88 ∧ (∀ k < 88, m.deviates r k = false) ∧ tj = maxTemp (List.take 64 r) ∧ 1760 ≤ tj ∧ tj < 2000 ∧ m.rd R.THM_TJ_LEVEL ≤ 1) ∧
    (∃ (s : State) (dt : Nat) (m : Mach) (r : List Int) (tj : Int), m = s.at dt ∧ r.length = 88 ∧ m.pstate ≤ 2 ∧ (∀ k < 88, m.rd (R.THM_S_BROKEN k) = 0 ∧ m.rd (R.THM_S_NOSUB k) = 0) ∧ m.env.dev.length = 88 ∧ (∀ k < 88, m.deviates r k = false) ∧ tj = maxTemp (List.take 64 r) ∧ 2000 ≤ tj ∧ m.rd R.THM_STATUS_TRIPLATCH = 0) ∧
    (∃ (s : State) (dt : Nat) (m : Mach) (r : List Int) (tj : Int) (k : Nat), m = s.at dt ∧ r.length = 88 ∧ m.pstate ≤ 2 ∧ (∀ k < 88, m.rd (R.THM_S_BROKEN k) = 0 ∧ m.rd (R.THM_S_NOSUB k) = 0) ∧ m.env.dev.length = 88 ∧ k < 88 ∧ m.deviates r k = true ∧ (∀ j < 88, j ≠ k → m.deviates r j = false) ∧ (∀ i ∈ r, i < 1600) ∧ m.env.dev.getD k 0 < 9) ∧
    (∃ (s : State) (dt : Nat) (m : Mach), m = s.at dt ∧ (m.rd R.THM_TJ_LEVEL = 0 ∨ m.rd R.THM_TJ_LEVEL = 3 ∨ m.env.cool = [none, none])) ∧
    (∃ (s : State) (dt : Nat) (m : Mach) (k : Fin 88), m = s.at dt ∧ m.open? 131072 = true) ∧
    (∃ (s : State) (dt : Nat) (m : Mach), m = s.at dt ∧ m.pstate ≤ 2) :=
  ⟨⟨(sThermalAndCalibration 0), (0), _, ((List.replicate 88 400)), (400), rfl, by decide +kernel⟩,
    ⟨(sThermalAndCalibration 0), (0), _, ([1600, 1600, 1600, 1600, 1600, 1600, 1600, 1600, 1600, 1600, 1600, 1600, 1600, 1600, 1600, 1600, 1600, 1600, 1600, 1600,  1600, 1600, 1600, 1600, 1600, 1600, 1600, 1600, 1600, 1600, 1600, 1600, 1600, 1600, 1600, 1600, 1600, 1600, 1600, 1600,  1600, 1600, 1600, 1600, 1600, 1600, 1600, 1600, 1600, 1600, 1600, 1600, 1600, 1600, 1600, 1600, 1600, 1600, 1600, 1600,  1600, 1600, 1600, 1600, 5, 5, 5, 5, 5, 5, 5, 5, 5, 5, 5, 5, 5, 5, 5, 5, 5, 5, 5, 5, 5, 5, 5, 5]), (1600), rfl, by decide +kernel⟩,
    ⟨(sThermalAndCalibration 0), (0), _, ([1760, 1760, 1760, 1760, 1760, 1760, 1760, 1760, 1760, 1760, 1760, 1760, 1760, 1760, 1760, 1760, 1760, 1760, 1760, 1760,  1760, 1760, 1760, 1760, 1760, 1760, 1760, 1760, 1760, 1760, 1760, 1760, 1760, 1760, 1760, 1760, 1760, 1760, 1760, 1760,  1760, 1760, 1760, 1760, 1760, 1760, 1760, 1760, 1760, 1760, 1760, 1760, 1760, 1760, 1760, 1760, 1760, 1760, 1760, 1760,  1760, 1760, 1760, 1760, 5, 5, 5, 5, 5, 5, 5, 5, 5, 5, 5, 5, 5, 5, 5, 5, 5, 5, 5, 5, 5, 5, 5, 5]), (1760), rfl, by decide +kernel⟩,
    ⟨(sThermalAndCalibration 0), (0), _, ([2000, 2000, 2000, 2000, 2000, 2000, 2000, 2000, 2000, 2000, 2000, 2000, 2000, 2000, 2000, 2000, 2000, 2000, 2000, 2000,  2000, 2000, 2000, 2000, 2000, 2000, 2000, 2000, 2000, 2000, 2000, 2000, 2000, 2000, 2000, 2000, 2000, 2000, 2000, 2000,  2000, 2000, 2000, 2000, 2000, 2000, 2000, 2000, 2000, 2000, 2000, 2000, 2000, 2000, 2000, 2000, 2000, 2000, 2000, 2000,  2000, 2000, 2000, 2000, 5, 5, 5, 5, 5, 5, 5, 5, 5, 5, 5, 5, 5, 5, 5, 5, 5, 5, 5, 5, 5, 5, 5, 5]), (2000), rfl, by decide +kernel⟩,
    ⟨(sThermalAndCalibration 0), (0), _, ([600, 400, 400, 400, 400, 400, 400, 400, 400, 400, 400, 400, 400, 400, 400, 400, 400, 400, 400, 400, 400, 400, 400, 400,  400, 400, 400, 400, 400, 400, 400, 400, 400, 400, 400, 400, 400, 400, 400, 400, 400, 400, 400, 400, 400, 400, 400, 400,  400, 400, 400, 400, 400, 400, 400, 400, 400, 400, 400, 400, 400, 400, 400, 400, 400, 400, 400, 400, 400, 400, 400, 400,  400, 400, 400, 400, 400, 400, 400, 400, 400, 400, 400, 400, 400, 400, 400, 400]), (400), (0), rfl, by decide +kernel⟩,
    ⟨(sThermalAndCalibration 0), (0), _, rfl, by decide +kernel⟩,
    ⟨(sThermalAndCalibration 0), (0), _, (0), rfl, by decide +kernel⟩,
    ⟨(sThermalAndCalibration 0), (0), _, rfl, by decide +kernel⟩⟩
theorem witness_ThermalAndCalibration_2 :
    (∃ (s : State) (dt : Nat) (m : Mach) (g : Fin 16) (w : TopMeas) (k : Nat), m = s.at dt ∧ (m.spareOf (decide (8 ≤ ↑g)) (↑g % 8) = none ∨ m.stepDue ↑g = false ∨ m.rd R.AFE_CTRL = 0 ∨ 1 < m.pstate)) ∧
    (∃ (s : State) (dt : Nat) (m : Mach) (g : Fin 16) (st : TopStep), m = s.at dt ∧ (m.env.top.getD (↑g) none = none ∨ m.mt % 2000 ≠ 0 ∨ 1 < m.pstate)) ∧
    (∃ (s : State) (dt : Nat) (m : Mach) (dac : Bool) (k : Fin 72), m = s.at dt ∧ m.open? 393216 = true) ∧
    (∃ (s : State) (dt : Nat) (m : Mach) (dac : Bool) (k : Fin 72) (gain : Bool) (v : BitVec 24), m = s.at dt ∧ m.open? 393216 = true ∧ calWriteOk gain v = true) ∧
    (∃ (s : State) (dt : Nat) (m : Mach) (dac : Bool) (k : Fin 72) (gain : Bool) (v : BitVec 24), m = s.at dt ∧ m.open? 393216 = true ∧ calWriteOk gain v = false) ∧
    (∃ (s : State) (dt : Nat) (m : Mach) (r : List Int) (tj : Int) (k : Nat), m = s.at dt ∧ r.length = 88 ∧ m.pstate ≤ 2 ∧ (∀ k < 88, m.rd (R.THM_S_BROKEN k) = 0 ∧ m.rd (R.THM_S_NOSUB k) = 0) ∧ m.env.dev.length = 88 ∧ k < 88 ∧ m.deviates r k = true ∧ (∀ j < 88, j ≠ k → m.deviates r j = false) ∧ (∀ i ∈ r, i < 1600) ∧ m.env.dev.getD k 0 = 9) ∧
    (∃ (s : State) (dt : Nat) (m : Mach) (t0 : _), m = s.at dt ∧ m.env.cool.getD 1 none = some t0 ∧ m.rd R.THM_TJ_LEVEL = 2 ∧ m.env.cool.getD 0 none = none ∧ t0 + 800000000 ≤ m.now) ∧
    (∃ (s : State) (dt : Nat) (m : Mach) (t0 : _), m = s.at dt ∧ m.env.cool.getD 0 none = some t0 ∧ m.rd R.THM_TJ_LEVEL = 1 ∧ t0 + 800000000 ≤ m.now) :=
  ⟨⟨(sThermalAndCalibration 0), (0), _, (0), ({ offs := 0, gain := 4194304, track := 64 }), (0), rfl, by decide +kernel⟩,
    ⟨(sThermalAndCalibration 0), (0), _, (0), ({ spare := 8, channel := 1 }), rfl, by decide +kernel⟩,
    ⟨(sThermalAndCalibration 0), (0), _, (false), (8), rfl, by decide +kernel⟩,
    ⟨(sThermalAndCalibration 0), (0), _, (false), (8), (false), (0x000000#24), rfl, by decide +kernel⟩,
    ⟨(sThermalAndCalibration 0), (0), _, (false), (8), (false), (0x400000#24), rfl, by decide +kernel⟩,
    ⟨(sThermalAndCalibration 4), (0), _, ([600, 400, 400, 400, 400, 400, 400, 400, 400, 400, 400, 400, 400, 400, 400, 400, 400, 400, 400, 400, 400, 400, 400, 400,  400, 400, 400, 400, 400, 400, 400, 400, 400, 400, 400, 400, 400, 400, 400, 400, 400, 400, 400, 400, 400, 400, 400, 400,  400, 400, 400, 400, 400, 400, 400, 400, 400, 400, 400, 400, 400, 400, 400, 400, 400, 400, 400, 400, 400, 400, 400, 400,  400, 400, 400, 400, 400, 400, 400, 400, 400, 400, 400, 400, 400, 400, 400, 400]), (400), (0), rfl, by decide +kernel⟩,
    ⟨(sThermalAndCalibration 5), (0), _, _, rfl, rfl, by decide +kernel⟩,
    ⟨(sThermalAndCalibration 6), (0), _, _, rfl, rfl, by decide +kernel⟩⟩
theorem witness_ThermalAndCalibration_3 :
    (∃ (s : State) (dt : Nat) (m : Mach), m = s.at dt ∧ m.pstate = 3) ∧
    (∃ (s : State) (dt : Nat) (m : Mach) (g : Fin 16) (w : TopMeas) (k : Nat), m = s.at dt ∧ m.spareOf (decide (8 ≤ ↑g)) (↑g % 8) = some k ∧ m.stepDue ↑g = true ∧ m.rd R.AFE_CTRL = 1 ∧ m.pstate ≤ 1 ∧ m.env.top.length = 16 ∧ offsOk w.offs = true ∧ gainOk w.gain = true ∧ gainNear w.gain (m.rd (calGain (decide (8 ≤ ↑g)) k)) = true ∧ w.track ≤ 64 ∧ m.calBusy (decide (8 ≤ ↑g)) k = false) ∧
    (∃ (s : State) (dt : Nat) (m : Mach) (g : Fin 16) (w : TopMeas) (k : Nat), m = s.at dt ∧ m.spareOf (decide (8 ≤ ↑g)) (↑g % 8) = some k ∧ m.stepDue ↑g = true ∧ m.rd R.AFE_CTRL = 1 ∧ m.pstate ≤ 1 ∧ m.env.top.length = 16 ∧ (offsOk w.offs = false ∨ gainOk w.gain = false ∨ gainNear w.gain (m.rd (calGain (decide (8 ≤ ↑g)) k)) = false ∨ 64 < w.track)) ∧
    (∃ (s : State) (dt : Nat) (m : Mach) (g : Fin 16) (st : TopStep), m = s.at dt ∧ m.env.top.getD (↑g) none = some st ∧ m.mt % 2000 = 0 ∧ m.pstate ≤ 1 ∧ st.spare < 72 ∧ st.channel < 64 ∧ m.rd (calSlice (decide (8 ≤ ↑g)) st.channel) < 72 ∧ m.rd (calSlice (decide (8 ≤ ↑g)) st.channel) ≠ st.spare) :=
  ⟨⟨(sThermalAndCalibration 7), (0), _, rfl, by decide +kernel⟩,
    ⟨(sThermalAndCalibration 9), (0), _, (0), ({ offs := 0, gain := 4194304, track := 64 }), (8), rfl, by decide +kernel⟩,
    ⟨(sThermalAndCalibration 9), (0), _, (0), ({ offs := 33553, gain := 4194304, track := 0 }), (8), rfl, by decide +kernel⟩,
    ⟨(sThermalAndCalibration 12), (0), _, (0), ({ spare := 8, channel := 1 }), rfl, by decide +kernel⟩⟩
end
end W29

namespace W30
section
def sf (f : Saf → Saf) (m : Mach) : Mach := { m with saf := f m.saf }
def ilk (a b : Bool) (m : Mach) : Mach := sf (fun s => {s with ilkA := a, ilkB := b}) (m.wrs [(R.SAF_ILK_ILKA, bool01 a), (R.SAF_ILK_ILKB, bool01 b)])
def gen (n : Fin 16) (m : Mach) : Mach := { m with pins := m.pins.set n { m.pins[n] with gen := true, lgate := true, lmod := true } }
def s1 : List Mach := [rdy, ilk true true rdy, ilk true false rdy, ilk true false (rdy.wr R.SAF_GSTAT_CAUSE 1), gen 0 (ilk true true (armed rdy)), sf (fun s => {s with discAt := some 0, bothOpen := true, bothClosed := true}) (ilk false true (rdy.wr R.SAF_ILKDISC 1)), sf (fun s => {s with discAt := some 0, bothOpen := true}) (ilk false true (rdy.wrs [(R.SAF_GSTAT_CAUSE, 31), (R.SAF_ILKDISC, 1)])), sf (fun s => {s with discAt := some rdy.now}) (ilk true true (rdy.wr R.SAF_ILK_DISC 1)), sf (fun s => {s with msRun := false, msfAt := some 5}) (rdy.wr R.SAF_GSTAT_CAUSE 31), sf (fun s => {s with hbAt := rdy.now - 800000*4}) (rdy.wrs [(R.SAF_MSWDT, 4)]), (ilk true true rdy).wrs [(R.SAF_GSTAT_CAUSE, 31), (R.PWR_FEED_AOK, 1), (R.PWR_FEED_BOK, 1)]]
def sInterlockAndGlobalFaults (k : Nat) : State := (s1.map st : List State).getD k State.reset
theorem witness_InterlockAndGlobalFaults_1 :
    (∃ (s : State) (dt : Nat) (m : Mach) (c : Ilk), m = s.at dt ∧ m.saf.level c = false) ∧
    (∃ (s : State) (dt : Nat) (m : Mach) (c : Ilk), m = s.at dt ∧ m.saf.level c = false) ∧
    (∃ (s : State) (dt : Nat) (m : Mach), m = s.at dt ∧ (m.rd R.SAF_ILK_DISC = 1 ∨ m.saf.discAt = none)) ∧
    (∃ (s : State) (dt : Nat) (m : Mach), m = s.at dt ∧ m.open? 262144 = true ∧ (m.saf.bothOpen = false ∨ m.saf.bothClosed = false)) ∧
    (∃ (s : State) (dt : Nat) (m : Mach) (v : BitVec 5) (p : BitVec 5), m = s.at dt ∧ m.open? 262144 = true ∧ (p.getLsbD 0 = true ↔ m.ilkClosed = false) ∧ (p.getLsbD 1 = true ↔ m.rd R.THM_STATUS_TRIPLATCH = 1) ∧ (p.getLsbD 2 = true ↔ m.rd R.PWR_FEED_AOK = 0 ∨ m.rd R.PWR_FEED_BOK = 0) ∧ (p.getLsbD 3 = true ↔ m.saf.msRun = false) ∧ (p.getLsbD 4 = true ↔ ∃ l ∈ m.mem.poison, m.sharedLine (128 * l) = true)) ∧
    (∃ (s : State) (dt : Nat) (m : Mach), m = s.at dt ∧ (m.saf.msRun = false ∨ m.now < m.saf.hbAt + max 1 (m.rd R.SAF_MSWDT) * 800000)) ∧
    (∃ (s : State) (dt : Nat) (m : Mach), m = s.at dt ∧ m.saf.msfAt = none) ∧
    (∃ (s : State) (dt : Nat) (m : Mach) (c : Ilk), m = s.at dt ∧ m.saf.level c = true ∧ m.ilkClosed = true) :=
  ⟨⟨(sInterlockAndGlobalFaults 0), (0), _, (Ilk.a), rfl, by decide +kernel⟩,
    ⟨(sInterlockAndGlobalFaults 0), (0), _, (Ilk.a), rfl, by decide +kernel⟩,
    ⟨(sInterlockAndGlobalFaults 0), (0), _, rfl, by decide +kernel⟩,
    ⟨(sInterlockAndGlobalFaults 0), (0), _, rfl, by decide +kernel⟩,
    ⟨(sInterlockAndGlobalFaults 0), (0), _, (0x00#5), (0x05#5), rfl, by decide +kernel⟩,
    ⟨(sInterlockAndGlobalFaults 0), (0), _, rfl, by decide +kernel⟩,
    ⟨(sInterlockAndGlobalFaults 0), (0), _, rfl, by decide +kernel⟩,
    ⟨(sInterlockAndGlobalFaults 1), (0), _, (Ilk.a), rfl, by decide +kernel⟩⟩
theorem witness_InterlockAndGlobalFaults_2 :
    (∃ (s : State) (dt : Nat) (m : Mach) (c : Ilk), m = s.at dt ∧ m.saf.level c = true) ∧
    (∃ (s : State) (dt : Nat) (m : Mach) (c : Ilk), m = s.at dt ∧ m.saf.level c = true ∧ m.ilkClosed = false ∧ m.rd { a := R.SAF_GSTAT_CAUSE.a, msb := 0, lsb := 0 } = 1) ∧
    (∃ (s : State) (dt : Nat) (m : Mach) (t0 : _), m = s.at dt ∧ m.saf.discAt = some t0 ∧ m.rd R.SAF_ILK_DISC = 0 ∧ m.ilkClosed = false ∧ t0 + max 1 (m.rd R.SAF_ILKDISC) * 800000 < m.now ∧ m.rd { a := R.SAF_GSTAT_CAUSE.a, msb := 0, lsb := 0 } = 0) ∧
    (∃ (s : State) (dt : Nat) (m : Mach), m = s.at dt ∧ m.open? 262144 = true ∧ m.saf.bothOpen = true ∧ m.saf.bothClosed = true) ∧
    (∃ (s : State) (dt : Nat) (m : Mach) (t0 : _), m = s.at dt ∧ m.saf.discAt = some t0 ∧ m.rd R.SAF_ILK_DISC = 0 ∧ m.ilkClosed = false ∧ t0 + max 1 (m.rd R.SAF_ILKDISC) * 800000 < m.now ∧ m.rd { a := R.SAF_GSTAT_CAUSE.a, msb := 0, lsb := 0 } = 1) ∧
    (∃ (s : State) (dt : Nat) (m : Mach), m = s.at dt ∧ m.saf.msfAt.isSome = true) ∧
    (∃ (s : State) (dt : Nat) (m : Mach), m = s.at dt ∧ m.saf.msRun = true ∧ m.saf.hbAt + max 1 (m.rd R.SAF_MSWDT) * 800000 ≤ m.now) :=
  ⟨⟨(sInterlockAndGlobalFaults 1), (0), _, (Ilk.a), rfl, by decide +kernel⟩,
    ⟨(sInterlockAndGlobalFaults 3), (0), _, (Ilk.a), rfl, by decide +kernel⟩,
    ⟨(sInterlockAndGlobalFaults 5), (0), _, _, rfl, rfl, by decide +kernel⟩,
    ⟨(sInterlockAndGlobalFaults 5), (0), _, rfl, by decide +kernel⟩,
    ⟨(sInterlockAndGlobalFaults 6), (0), _, _, rfl, rfl, by decide +kernel⟩,
    ⟨(sInterlockAndGlobalFaults 8), (0), _, rfl, by decide +kernel⟩,
    ⟨(sInterlockAndGlobalFaults 9), (0), _, rfl, by decide +kernel⟩⟩
end
end W30

namespace W31
section
def sf (f : Saf → Saf) (m : Mach) : Mach := { m with saf := f m.saf }
def ilk (a b : Bool) (m : Mach) : Mach := sf (fun s => {s with ilkA := a, ilkB := b}) (m.wrs [(R.SAF_ILK_ILKA, bool01 a), (R.SAF_ILK_ILKB, bool01 b)])
def ok : Mach := sf (fun s => {s with armFirst := some (rdy.now - 8000000)}) (ilk true true ({rdy with now := rdy.now}.wrs [(R.SAF_FIELDS, 1)]))
def lockd (m : Mach) : Mach :=
  let m := ([0,1,2] : List (Fin 160)).foldl (fun (m : Mach) (k : Fin 160) => { m.wrs [(R.CE_SLOT_STATUS_STATE k, 1), (R.CE_SLOT_CFG_FIELD k, 0), (R.CE_SLOT_TUNE k 7, k)] with slot := m.slot.set k { m.slot[k] with lib := some 1 } }) m
  { m.modField 0 (fun f => { f with spl := { f.spl with lockFrom := some (m.mt - 800000) } }) with pins := m.pins.set 0 { m.pins[(0 : Fin 16)] with gen := true } }
def af (m : Mach) := sf (fun s => {s with armFirst := some m.now}) m
def infs (n : Fin 16) (cs : List Nat) (l : List (RF × Nat)) (m : Mach) : Mach := (m.wrs ([(R.FE_FAULT_CAUSE n, 0x21), (R.SAF_FS_STATUS_FS n, 1), (R.SAF_FS_STATUS_RECOV n, 1), (R.SAF_FS_STATUS_CKOK n, 1), (R.SAF_FS_STATUS_LEDOK n, 1)] ++ l)).modField n fun f => { f with fs := { f.fs with causes := cs, td := m.mt - 5 } }
def s1 : List Mach := [lockd (af ok), lockd (af (ok.wr R.PWR_VCORE_SET 700)), {ok with now := 16000001 }, rdy, ok, af ok, af (ok.wr R.SAF_GSTAT_CAUSE 1), af (ilk true false ok), af (ok.wr R.GLB_MODE_MODE 1), af (ok.wr R.PWR_PSTATE_STATE 2), af (infs 0 [] [] ok), af (ok.wr R.SAF_FIELDS 0), af (ok.wr R.PWR_VCORE_SET 700), sf (fun s => {s with arming := some 5}) ok, sf (fun s => {s with arming := some 5}) (ok.wr R.PWR_VCORE_SET 720)]
 ++ ([0,15] : List (Fin 16)).flatMap fun n => [infs n [0x21] [] ok, infs n [] [(R.SAF_FS_STATUS_RECOV n, 0)] ok, infs n [] [(R.SAF_GSTAT_CAUSE, 1)] ok, infs n [] [(R.SAF_FS_STATUS_LEDOK n, 0)] ok, infs n [] [(R.SAF_RWIN, 0)] ok,  { infs n [] [(R.SAF_RWIN, 1)] ok with mt := rdy.mt + 800000 }, infs n [] [(R.SAF_FS_STATUS_DOUBT n, 1)] ok, infs n [] [] (ok.wr R.GLB_MODE_MODE 1), ctxOn (.fe n 0) .faulted (ctxOn (.fe n 7) .suspended (infs n [] [] (armed ok))), infs n [0x10] [] ok, infs n [0x29] [] ok]
def sArmingAndResume (k : Nat) : State := (s1.map st : List State).getD k State.reset
theorem witness_ArmingAndResume_1 :
    (∃ (s : State) (dt : Nat) (m : Mach), m = s.at dt ∧ m.open? 262144 = true ∧ m.saf.armFirst.isSome = true) ∧
    (∃ (s : State) (dt : Nat) (m : Mach) (v : Word) (t0 : _), m = s.at dt ∧ m.saf.armFirst = some t0 ∧ m.open? 262144 = true ∧ (v ≠ 4294925086 ∨ t0 + 8000000 < m.now)) ∧
    (∃ (s : State) (dt : Nat) (m : Mach) (r : Nat) (t0 : _), m = s.at dt ∧ m.saf.armFirst = some t0 ∧ m.open? 262144 = true ∧ m.now ≤ t0 + 8000000 ∧ m.rd R.SAF_GSTAT_CAUSE = 0 ∧ m.ilkClosed = true ∧ m.mode = modeReady ∧ m.pstate ≤ 1 ∧ (∀ (n : Fin 16), bits (m.rd R.SAF_FIELDS) ↑n ↑n = 1 → m.inFs ↑n = false) ∧ (∀ (n : Fin 16), bits (m.rd R.SAF_FIELDS) ↑n ↑n = 1 → m.locked n = true) ∧ m.rd R.SAF_FIELDS ≠ 0) ∧
    (∃ (s : State) (dt : Nat) (m : Mach) (n : Fin 16), m = s.at dt ∧ m.open? 262144 = true) ∧
    (∃ (s : State) (dt : Nat) (m : Mach) (n : Fin 16) (force : Bool) (r : Nat), m = s.at dt ∧ m.open? 262144 = true ∧ m.Quiet ∧ (r = 1 ∧ ¬(m.inFs ↑n = true → m.rd (R.SAF_FS_STATUS_RECOV ↑n) = 1) ∨ (r = 2 ∧ (m.inFs ↑n = true → m.rd (R.SAF_FS_STATUS_RECOV ↑n) = 1) ∧ ¬∀ c ∈ m.fe[n].fs.causes, m.causeAbsent n c = true) ∨ r = 3 ∧ (m.inFs ↑n = true → m.rd (R.SAF_FS_STATUS_RECOV ↑n) = 1) ∧ (∀ c ∈ m.fe[n].fs.causes, m.causeAbsent n c = true) ∧ ¬m.rd R.SAF_GSTAT_CAUSE = 0 ∨ r = 4 ∧ (m.inFs ↑n = true → m.rd (R.SAF_FS_STATUS_RECOV ↑n) = 1) ∧ (∀ c ∈ m.fe[n].fs.causes, m.causeAbsent n c = true) ∧ m.rd R.SAF_GSTAT_CAUSE = 0 ∧ ¬(m.rd (R.SAF_FS_STATUS_CKOK ↑n) = 1 ∧ m.rd (R.SAF_FS_STATUS_LEDOK ↑n) = 1) ∨ r = 5 ∧ (m.inFs ↑n = true → m.rd (R.SAF_FS_STATUS_RECOV ↑n) = 1) ∧ (∀ c ∈ m.fe[n].fs.causes, m.causeAbsent n c = true) ∧ m.rd R.SAF_GSTAT_CAUSE = 0 ∧ (m.rd (R.SAF_FS_STATUS_CKOK ↑n) = 1 ∧ m.rd (R.SAF_FS_STATUS_LEDOK ↑n) = 1) ∧ ¬(m.inFs ↑n = true → m.rd R.SAF_RWIN = 0 ∨ m.mt < m.fe[n].fs.td + m.rd R.SAF_RWIN * 800000 ∨ force = true) ∨ r = 6 ∧ (m.inFs ↑n = true → m.rd (R.SAF_FS_STATUS_RECOV ↑n) = 1) ∧ (∀ c ∈ m.fe[n].fs.causes, m.causeAbsent n c = true) ∧ m.rd R.SAF_GSTAT_CAUSE = 0 ∧ (m.rd (R.SAF_FS_STATUS_CKOK ↑n) = 1 ∧ m.rd (R.SAF_FS_STATUS_LEDOK ↑n) = 1) ∧ (m.inFs ↑n = true → m.rd R.SAF_RWIN = 0 ∨ m.mt < m.fe[n].fs.td + m.rd R.SAF_RWIN * 800000 ∨ force = true) ∧ ¬(m.rd (R.SAF_FS_STATUS_DOUBT ↑n) = 1 → m.pins[n].gen = true ∧ m.locked n = true) ∨ r = 7 ∧ (m.inFs ↑n = true → m.rd (R.SAF_FS_STATUS_RECOV ↑n) = 1) ∧ (∀ c ∈ m.fe[n].fs.causes, m.causeAbsent n c = true) ∧ m.rd R.SAF_GSTAT_CAUSE = 0 ∧ (m.rd (R.SAF_FS_STATUS_CKOK ↑n) = 1 ∧ m.rd (R.SAF_FS_STATUS_LEDOK ↑n) = 1) ∧ (m.inFs ↑n = true → m.rd R.SAF_RWIN = 0 ∨ m.mt < m.fe[n].fs.td + m.rd R.SAF_RWIN * 800000 ∨ force = true) ∧ (m.rd (R.SAF_FS_STATUS_DOUBT ↑n) = 1 → m.pins[n].gen = true ∧ m.locked n = true) ∧ ¬(m.mode = modeReady ∨ m.mode = modeArmed) ∨ r = 8 ∧ (m.inFs ↑n = true → m.rd (R.SAF_FS_STATUS_RECOV ↑n) = 1) ∧ (∀ c ∈ m.fe[n].fs.causes, m.causeAbsent n c = true) ∧ m.rd R.SAF_GSTAT_CAUSE = 0 ∧ (m.rd (R.SAF_FS_STATUS_CKOK ↑n) = 1 ∧ m.rd (R.SAF_FS_STATUS_LEDOK ↑n) = 1) ∧ (m.inFs ↑n = true → m.rd R.SAF_RWIN = 0 ∨ m.mt < m.fe[n].fs.td + m.rd R.SAF_RWIN * 800000 ∨ force = true) ∧ (m.rd (R.SAF_FS_STATUS_DOUBT ↑n) = 1 → m.pins[n].gen = true ∧ m.locked n = true) ∧ (m.mode = modeReady ∨ m.mode = modeArmed) ∧ ¬m.inFs ↑n = true)) ∧
    (∃ (s : State) (dt : Nat) (m : Mach), m = s.at dt ∧ (m.saf.arming = none ∨ m.mode ≠ modeReady ∨ 1 < m.pstate ∨ m.rd R.PWR_VCORE_SET < 720)) ∧
    (∃ (s : State) (dt : Nat) (m : Mach) (n : Fin 16), m = s.at dt ∧ (m.inFs ↑n = false ∨ m.rd R.SAF_RWIN = 0 ∨ m.mt < m.fe[n].fs.td + m.rd R.SAF_RWIN * 800000 ∨ m.rd (R.SAF_FS_STATUS_WINEXP ↑n) = 1)) ∧
    (∃ (s : State) (dt : Nat) (m : Mach) (t0 : _), m = s.at dt ∧ m.saf.armFirst = some t0 ∧ t0 + 8000000 < m.now) :=
  ⟨⟨(sArmingAndResume 0), (0), _, rfl, by decide +kernel⟩,
    ⟨(sArmingAndResume 0), (0), _, (0x00000000#32), _, rfl, rfl, by decide +kernel⟩,
    ⟨(sArmingAndResume 0), (0), _, (0), _, rfl, rfl, by decide +kernel⟩,
    ⟨(sArmingAndResume 0), (0), _, (0), rfl, by decide +kernel⟩,
    ⟨(sArmingAndResume 16), (0), _, (0), (false), (1), rfl, by decide +kernel, by unfold Mach.Quiet; decide +kernel, Or.inl ⟨rfl, by decide +kernel⟩⟩,
    ⟨(sArmingAndResume 0), (0), _, rfl, by decide +kernel⟩,
    ⟨(sArmingAndResume 0), (0), _, (0), rfl, by decide +kernel⟩,
    ⟨(sArmingAndResume 2), (0), _, _, rfl, rfl, by decide +kernel⟩⟩
theorem witness_ArmingAndResume_2 :
    (∃ (s : State) (dt : Nat) (m : Mach), m = s.at dt ∧ m.open? 262144 = true ∧ m.saf.armFirst = none) ∧
    (∃ (s : State) (dt : Nat) (m : Mach) (v : Word), m = s.at dt ∧ m.open? 262144 = true ∧ m.saf.armFirst = none) ∧
    (∃ (s : State) (dt : Nat) (m : Mach), m = s.at dt ∧ m.saf.armFirst = none) ∧
    (∃ (s : State) (dt : Nat) (m : Mach) (r : Nat) (t0 : _), m = s.at dt ∧ m.saf.armFirst = some t0 ∧ m.open? 262144 = true ∧ m.now ≤ t0 + 8000000 ∧ (r = 1 ∧ ¬m.rd R.SAF_GSTAT_CAUSE = 0 ∨ r = 2 ∧ m.rd R.SAF_GSTAT_CAUSE = 0 ∧ ¬m.ilkClosed = true ∨ r = 3 ∧ m.rd R.SAF_GSTAT_CAUSE = 0 ∧ m.ilkClosed = true ∧ ¬m.mode = modeReady ∨ r = 4 ∧ m.rd R.SAF_GSTAT_CAUSE = 0 ∧ m.ilkClosed = true ∧ m.mode = modeReady ∧ ¬m.pstate ≤ 1 ∨ (r = 5 ∧ m.rd R.SAF_GSTAT_CAUSE = 0 ∧ m.ilkClosed = true ∧ m.mode = modeReady ∧ m.pstate ≤ 1 ∧ ¬∀ (n : Fin 16), bits (m.rd R.SAF_FIELDS) ↑n ↑n = 1 → m.inFs ↑n = false) ∨ (r = 6 ∧ m.rd R.SAF_GSTAT_CAUSE = 0 ∧ m.ilkClosed = true ∧ m.mode = modeReady ∧ m.pstate ≤ 1 ∧ (∀ (n : Fin 16), bits (m.rd R.SAF_FIELDS) ↑n ↑n = 1 → m.inFs ↑n = false) ∧ ¬∀ (n : Fin 16), bits (m.rd R.SAF_FIELDS) ↑n ↑n = 1 → m.locked n = true) ∨ r = 7 ∧ m.rd R.SAF_GSTAT_CAUSE = 0 ∧ m.ilkClosed = true ∧ m.mode = modeReady ∧ m.pstate ≤ 1 ∧ (∀ (n : Fin 16), bits (m.rd R.SAF_FIELDS) ↑n ↑n = 1 → m.inFs ↑n = false) ∧ (∀ (n : Fin 16), bits (m.rd R.SAF_FIELDS) ↑n ↑n = 1 → m.locked n = true) ∧ ¬m.rd R.SAF_FIELDS ≠ 0)) ∧
    (∃ (s : State) (dt : Nat) (m : Mach) (n : Fin 16) (force : Bool) (r : Nat), m = s.at dt ∧ m.open? 262144 = true ∧ m.Quiet ∧ (m.inFs ↑n = true → m.rd (R.SAF_FS_STATUS_RECOV ↑n) = 1) ∧ (∀ c ∈ m.fe[n].fs.causes, m.causeAbsent n c = true) ∧ m.rd R.SAF_GSTAT_CAUSE = 0 ∧ (m.rd (R.SAF_FS_STATUS_CKOK ↑n) = 1 ∧ m.rd (R.SAF_FS_STATUS_LEDOK ↑n) = 1) ∧ (m.inFs ↑n = true → m.rd R.SAF_RWIN = 0 ∨ m.mt < m.fe[n].fs.td + m.rd R.SAF_RWIN * 800000 ∨ force = true) ∧ (m.rd (R.SAF_FS_STATUS_DOUBT ↑n) = 1 → m.pins[n].gen = true ∧ m.locked n = true) ∧ (m.mode = modeReady ∨ m.mode = modeArmed) ∧ m.inFs ↑n = true ∧ 41 ∉ m.fe[n].fs.causes) ∧
    (∃ (s : State) (dt : Nat) (m : Mach), m = s.at dt ∧ m.saf.arming.isSome = true ∧ m.mode = modeReady ∧ m.pstate ≤ 1 ∧ 720 ≤ m.rd R.PWR_VCORE_SET ∧ m.vcoreSettled = true) ∧
    (∃ (s : State) (dt : Nat) (m : Mach) (n : Fin 16), m = s.at dt ∧ m.inFs ↑n = true ∧ m.rd R.SAF_RWIN ≠ 0 ∧ m.fe[n].fs.td + m.rd R.SAF_RWIN * 800000 ≤ m.mt ∧ m.rd (R.SAF_FS_STATUS_WINEXP ↑n) = 0) :=
  ⟨⟨(sArmingAndResume 3), (0), _, rfl, by decide +kernel⟩,
    ⟨(sArmingAndResume 3), (0), _, (0x00000000#32), rfl, by decide +kernel⟩,
    ⟨(sArmingAndResume 3), (0), _, rfl, by decide +kernel⟩,
    ⟨(sArmingAndResume 4), (0), _, (6), _, rfl, rfl, by decide +kernel⟩,
    ⟨(sArmingAndResume 10), (0), _, (0), (false), (0), rfl, by decide +kernel, by unfold Mach.Quiet; decide +kernel, by decide +kernel⟩,
    ⟨(sArmingAndResume 13), (0), _, rfl, by decide +kernel⟩,
    ⟨(sArmingAndResume 20), (0), _, (0), rfl, by decide +kernel⟩⟩
end
end W31

namespace W32
section
def cb (f : Cbk → Cbk) (m : Mach) : Mach := { m with cbk := f m.cbk }
def rec1 (src sev : Nat) (b : Bool) : Rec := { rdy.mkRec src 0 [1,2] with sev := sev, boot := b }
def s1 : List Mach := [rdy, cb (fun c => {c with queue := [rec1 5 0 false, rec1 6 1 true]}) rdy, cb (fun c => {c with queue := [rec1 168 3 true], book := [(0, (5, rec1 3 3 false)), (1, (6, rec1 3 0 false))], bad := [3,4]}) rdy, cb (fun c => {c with owed := true, lost := [(5, ⟨3, 2, 100, 200⟩), (9, ⟨1, 0, 5, 5⟩)]}) rdy, cb (fun c => {c with owed := true, queue := List.replicate 257 (rec1 4 2 false)}) rdy]
def sBookRecordsAndSummaries (k : Nat) : State := (s1.map st : List State).getD k State.reset
theorem witness_BookRecordsAndSummaries :
    (∃ (s : State) (dt : Nat) (m : Mach) (b1 : Bool) (b2 : Bool), m = s.at dt ∧ (m.saf.msRun = false ∨ m.cbk.queue = [])) ∧
    (∃ (s : State) (dt : Nat) (m : Mach) (v : Nat) (j : Nat), m = s.at dt ∧ j < 131072 ∧ m.cbk.used j = false) ∧
    (∃ (s : State) (dt : Nat) (m : Mach), m = s.at dt ∧ (m.cbk.owed = false ∨ 256 < m.cbk.queue.length)) ∧
    (∃ (s : State) (dt : Nat) (m : Mach) (r : _) (rest : _) (b1 : Bool) (b2 : Bool) (k : _), m = s.at dt ∧ m.cbk.queue = r :: rest ∧ m.cbk.place r.sev = some k ∧ m.saf.msRun = true ∧ (b1 = true ∨ b2 = true) ∧ k < 131072) ∧
    (∃ (s : State) (dt : Nat) (m : Mach) (r : _) (rest : _) (k : _), m = s.at dt ∧ m.cbk.queue = r :: rest ∧ m.cbk.place r.sev = some k ∧ m.saf.msRun = true) ∧
    (∃ (s : State) (dt : Nat) (m : Mach), m = s.at dt ∧ m.cbk.owed = true ∧ m.cbk.queue.length ≤ 256) :=
  ⟨⟨(sBookRecordsAndSummaries 0), (0), _, (false), (false), rfl, by decide +kernel⟩,
    ⟨(sBookRecordsAndSummaries 0), (0), _, (0), (0), rfl, by decide +kernel⟩,
    ⟨(sBookRecordsAndSummaries 0), (0), _, rfl, by decide +kernel⟩,
    ⟨(sBookRecordsAndSummaries 1), (0), _, _, _, (false), (true), _, rfl, rfl, rfl, by decide +kernel⟩,
    ⟨(sBookRecordsAndSummaries 1), (0), _, _, _, _, rfl, rfl, rfl, by decide +kernel⟩,
    ⟨(sBookRecordsAndSummaries 3), (0), _, rfl, by decide +kernel⟩⟩
end
end W32

namespace W33
section
def bo (fw sy mr : Bool) (r : Option Rail) : BootOutcome := ⟨fw, sy, r, mr, [], [20,20,20,20,20,20], none⟩
def tm (f : Tim → Tim) (m : Mach) : Mach := { m with tim := f m.tim }
def bs : Mach := State.reset.m
def s1 : List Mach := [rdy, bs, {bs with now := 10^9}, tm (fun x => {x with slot0 := (100, 5), slot1 := (200, 4), crc0 := slotCrc (100, 5), crc1 := slotCrc (200, 4), ot := 77}) rdy, (genOn rdy 0).wrs [(R.FE_CTX_START_LO 0 0, 5), (R.FE_CTX_START_LO 15 0, 5)], ctxOn (.fe 0 7) .active rdy, { rdy with tokens := [(5, .fe 15 2), (6, .coo 0)] }, rdy.wr R.HS_BOOT_STAGE 3, { rdy.wrs [(R.HS_BOOT_STAGE, 3), (R.PWR_PSTATE_STATE, 3)] with env := { rdy.env with waking := true } }, rdy.wr R.HS_CTRL 1]
def sResetsAndBoot (k : Nat) : State := (s1.map st : List State).getD k State.reset
theorem witness_ResetsAndBoot_1 :
    (∃ (s : State) (dt : Nat) (m : Mach) (low : Nat), m = s.at dt ∧ low < 8000) ∧
    (∃ (s : State) (dt : Nat) (m : Mach) (low : Nat), m = s.at dt ∧ 8000 ≤ low) ∧
    (∃ (s : State) (dt : Nat) (m : Mach) (v : Word), m = s.at dt ∧ v ≠ 492285959) ∧
    (∃ (s : State) (dt : Nat) (m : Mach) (v : Word), m = s.at dt ∧ v = 492285959) ∧
    (∃ (s : State) (dt : Nat) (m : Mach), m = s.at dt ∧ m.rd R.HS_CTRL = 0) ∧
    (∃ (s : State) (dt : Nat) (m : Mach) (v : OtSlots), m = s.at dt) ∧
    (∃ (s : State) (dt : Nat) (m : Mach) (n : Fin 16), m = s.at dt ∧ m.Quiet ∧ m.fe[n].busy = false) ∧
    (∃ (s : State) (dt : Nat) (m : Mach) (o : BootOutcome), m = s.at dt ∧ m.bootDue = false) :=
  ⟨⟨(sResetsAndBoot 0), (0), _, (0), rfl, by decide +kernel⟩,
    ⟨(sResetsAndBoot 0), (0), _, (8000), rfl, by decide +kernel⟩,
    ⟨(sResetsAndBoot 0), (0), _, (0x00000000#32), rfl, by decide +kernel⟩,
    ⟨(sResetsAndBoot 0), (0), _, (0x1d57b007#32), rfl, by decide +kernel⟩,
    ⟨(sResetsAndBoot 0), (0), _, rfl, by decide +kernel⟩,
    ⟨(sResetsAndBoot 0), (0), _, ({ slot0 := true, slot1 := false }), rfl⟩,
    ⟨(sResetsAndBoot 0), (0), _, (0), rfl, by unfold Mach.Quiet; decide +kernel, by decide +kernel⟩,
    ⟨(sResetsAndBoot 0), (0), _, ({ fwValid := false,   synthLocks := true,   railBad := none,   mramAnswers := true,   untrained := [],   temps := [20, 20, 20, 20, 20, 20],   domainBad := none }), rfl, by decide +kernel⟩⟩
theorem witness_ResetsAndBoot_2 :
    (∃ (s : State) (dt : Nat) (m : Mach) (ms : Nat), m = s.at dt ∧ m.rd R.HS_BOOT_STAGE ≠ 3) ∧
    (∃ (s : State) (dt : Nat) (m : Mach) (o : BootOutcome), m = s.at dt ∧ m.bootDue = true ∧ m.env.waking = false ∧ o.fwValid = false) ∧
    (∃ (s : State) (dt : Nat) (m : Mach) (o : BootOutcome) (c : Byte) (d : Byte), m = s.at dt ∧ m.bootDue = true ∧ m.env.waking = false ∧ o.fwValid = true ∧ m.cbk.queue.length < 800 ∧ ((c = 3 ∧ ∃ r, o.railBad = some r ∧ d = BitVec.ofNat 8 (railBit r)) ∨ c = 2 ∧ o.railBad = none ∧ o.synthLocks = false ∧ d = 0)) ∧
    (∃ (s : State) (dt : Nat) (m : Mach) (o : BootOutcome), m = s.at dt ∧ m.bootDue = true ∧ m.env.waking = false ∧ o.fwValid = true ∧ o.railBad = none ∧ o.synthLocks = true ∧ o.mramAnswers = false) ∧
    (∃ (s : State) (dt : Nat) (m : Mach) (o : BootOutcome), m = s.at dt ∧ m.bootDue = true ∧ m.env.waking = false ∧ o.fwValid = true ∧ o.railBad = none ∧ o.synthLocks = true ∧ o.mramAnswers = true ∧ o.untrained = [] ∧ o.domainBad = none ∧ m.mem.out = [] ∧ m.rd R.MEM_RMAP_CLR = 0 ∧ (∀ c < 2, m.rd (R.MEM_CH_RMAP_L0 c) = 0 ∧ m.rd (R.MEM_CH_RMAP_L1 c) = 1 ∧ m.rd (R.MEM_CH_RMAP_SPARE c) = 2)) ∧
    (∃ (s : State) (dt : Nat) (m : Mach) (n : Fin 16), m = s.at dt ∧ m.Quiet ∧ m.fe[n].busy = true) ∧
    (∃ (s : State) (dt : Nat) (m : Mach) (ms : Nat), m = s.at dt ∧ m.rd R.HS_BOOT_STAGE = 3) :=
  ⟨⟨(sResetsAndBoot 0), (0), _, (0), rfl, by decide +kernel⟩,
    ⟨(sResetsAndBoot 1), (0), _, ({ fwValid := false,   synthLocks := true,   railBad := none,   mramAnswers := true,   untrained := [],   temps := [20, 20, 20, 20, 20, 20],   domainBad := none }), rfl, by decide +kernel⟩,
    ⟨(sResetsAndBoot 1), (0), _, ({ fwValid := true,   synthLocks := false,   railBad := none,   mramAnswers := true,   untrained := [],   temps := [20, 20, 20, 20, 20, 20],   domainBad := none }), (0x02#8), (0x00#8), rfl, by decide +kernel⟩,
    ⟨(sResetsAndBoot 1), (0), _, ({ fwValid := true,   synthLocks := true,   railBad := none,   mramAnswers := false,   untrained := [],   temps := [20, 20, 20, 20, 20, 20],   domainBad := none }), rfl, by decide +kernel⟩,
    ⟨(sResetsAndBoot 1), (0), _, ({ fwValid := true,   synthLocks := true,   railBad := none,   mramAnswers := true,   untrained := [],   temps := [20, 20, 20, 20, 20, 20],   domainBad := none }), rfl, by decide +kernel⟩,
    ⟨(sResetsAndBoot 5), (0), _, (0), rfl, by unfold Mach.Quiet; decide +kernel, by decide +kernel⟩,
    ⟨(sResetsAndBoot 7), (0), _, (0), rfl, by decide +kernel⟩⟩
end
end W33

namespace W34
def hsq (st c size : Nat) (i : Fin 64) : State :=
  { State.reset with m := up.wrs [(R.HSQ_STATUS_STATE i, st), (R.HSQ_CPLIDX i, c), (R.HSQ_CTRL_SIZE i, size)] }
/-- A doorbell of each kind at a queue OFF, in RUN below its size, and in RUN beyond it. -/
theorem witness_Doorbells_1 :
    (∃ s : State, ∃ m : Mach, m = s.at 0 ∧ m.Quiet ∧ m.hsState (h2d 0) = 0) ∧
    (∃ s : State, ∃ m : Mach, m = s.at 0 ∧ m.Quiet ∧ m.hsState (d2h 31) = 3) ∧
    (∃ s : State, ∃ m : Mach, ∃ v : Word, m = s.at 0 ∧ m.Quiet ∧ m.hsState (h2d 31) = 1 ∧
      (v.toNat % 65536 + 65536 - m.rd (R.HSQ_CPLIDX (h2d 31))) % 65536 ≤ 2 ^ m.rd (R.HSQ_CTRL_SIZE (h2d 31))) ∧
    (∃ s : State, ∃ m : Mach, ∃ tail : BitVec 16, m = s.at 0 ∧ m.Quiet ∧ m.hsState (h2d 0) = 2 ∧
      2 ^ m.rd (R.HSQ_CTRL_SIZE (h2d 0)) < (tail.toNat + 65536 - m.rd (R.HSQ_CPLIDX (h2d 0))) % 65536 ∧
      m.hs[h2d 0].push = none ∧ m.fnMask = false) :=
  ⟨⟨hsq 0 0 8 (h2d 0), _, rfl, by unfold Mach.Quiet; decide +kernel, by decide +kernel⟩,
   ⟨hsq 3 0 8 (d2h 31), _, rfl, by unfold Mach.Quiet; decide +kernel, by decide +kernel⟩,
   ⟨hsq 1 65535 4 (h2d 31), _, 15, rfl, by unfold Mach.Quiet; decide +kernel, by decide +kernel⟩,
   ⟨hsq 2 0 4 (h2d 0), _, 17, rfl, by unfold Mach.Quiet; decide +kernel, by decide +kernel⟩⟩
/-- The list of the three doorbell commands is met by each of them. -/
theorem witness_Doorbells_2 : (Instr.d2hDoorbell 0 5 7, d2h 5, 7, false) ∈
    [(Instr.h2dDoorbell 0 5 7, h2d 5, (7 : Word).toNat % 65536, vbit (7 : Word) 31),
     (.doorbellRetry 0 5 7, h2d 5, (7 : BitVec 16).toNat, true), (.d2hDoorbell 0 5 7, d2h 5, (7 : Word).toNat % 65536, false)] := by
  decide +kernel
end W34

namespace W35
def rec0 (v : Nat) : Rec := ⟨v, 0, false, false, 0, 0, 0, 0, 0, []⟩
/-- A book with one record, of a severity, in slot 5, and the slots of `b` retired. -/
def full (b : List Nat) (v q : Nat) : State :=
  st { up with cbk := { up.cbk with book := [(5, 1, rec0 v)], bad := b, queue := [rec0 q] } }
def bookAt (b : List Nat) (v q : Nat) : Cbk := { up.cbk with book := [(5, 1, rec0 v)], bad := b, queue := [rec0 q] }
theorem full_cbk (b : List Nat) (v q : Nat) : ((full b v q).at 0).cbk = bookAt b v q := rfl
theorem full_used (b : List Nat) (h : ∀ j < 131072, j ∈ b) (v q : Nat) : ∀ j < 131072, (bookAt b v q).used j = true := by
  intro j hj
  simp [Cbk.used, bookAt, h j hj]
theorem full_place (b : List Nat) (h : ∀ j < 131072, j ∈ b) (v q k : Nat) : (bookAt b v q).place k = (bookAt b v q).oldest k := by
  have e : (0 :: ((bookAt b v q).book.map (·.1 + 1) ++ (bookAt b v q).bad.map (· + 1))).filter
      (fun s => decide (s < bookSlots) && !(bookAt b v q).used s) = [] := by
    rw [List.filter_eq_nil_iff]
    intro a _
    by_cases ha : a < 131072
    · rw [full_used b h v q a ha]; simp
    · simp [bookSlots, ha]
  unfold Cbk.place Cbk.firstFree
  rw [e]
  rfl
theorem full_all (b : List Nat) (h : ∀ j < 131072, j ∈ b) :
    (∃ s : State, ∃ m : Mach, ∃ r rest, m = s.at 0 ∧ m.cbk.queue = r :: rest ∧ m.saf.msRun = true ∧ m.cbk.place r.sev = none ∧
      m.raisedThisTick 170 = false) ∧
    (∃ s : State, ∃ m : Mach, ∃ v k : Nat, m = s.at 0 ∧ (∀ j < 131072, m.cbk.used j = true) ∧ m.cbk.place v = some k) ∧
    (∃ s : State, ∃ m : Mach, ∃ v : Nat, m = s.at 0 ∧ (∀ j < 131072, m.cbk.used j = true) ∧ m.cbk.place v = none ∧ m.cbk.book ≠ []) :=
  ⟨⟨full b 6 0, _, rec0 0, [], rfl, rfl, rfl, full_place b h 6 0 0, rfl⟩,
   ⟨full b 6 0, _, 6, 5, rfl, full_used b h 6 0, full_place b h 6 0 6⟩,
   ⟨full b 6 0, _, 0, rfl, full_used b h 6 0, full_place b h 6 0 0, List.cons_ne_nil _ _⟩⟩
/-- A full book: a record that no slot takes, a record that replaces one, and none of low severity. -/
theorem witness_BookRecordsAndSummaries_full :
    (∃ s : State, ∃ m : Mach, ∃ r rest, m = s.at 0 ∧ m.cbk.queue = r :: rest ∧ m.saf.msRun = true ∧ m.cbk.place r.sev = none ∧
      m.raisedThisTick 170 = false) ∧
    (∃ s : State, ∃ m : Mach, ∃ v k : Nat, m = s.at 0 ∧ (∀ j < 131072, m.cbk.used j = true) ∧ m.cbk.place v = some k) ∧
    (∃ s : State, ∃ m : Mach, ∃ v : Nat, m = s.at 0 ∧ (∀ j < 131072, m.cbk.used j = true) ∧ m.cbk.place v = none ∧ m.cbk.book ≠ []) :=
  full_all (List.range 131072) fun _ h => List.mem_range.mpr h
end W35

namespace W36
theorem sget_range {α : Type} (d B : Nat → α) (n k : Nat) :
    ∀ a, sget d ((List.range' a n).map fun j => (j, B j)) k = if a ≤ k ∧ k < a + n then B k else d k := by
  induction n with
  | zero => intro a; have : ¬(a ≤ k ∧ k < a + 0) := by omega
            simp only [List.range'_zero, List.map_nil, sget, if_neg this]
  | succ n ih =>
    intro a
    simp only [List.range'_succ, List.map_cons, sget, ih]
    by_cases h : a = k
    · subst h; simp
    · have : (a + 1 ≤ k ∧ k < a + 1 + n) ↔ (a ≤ k ∧ k < a + (n + 1)) := by omega
      simp only [h, if_false, this]
/-- Byte r of node q, of which the position is (1000 (q mod 257), 1000 (q / 257), 0). -/
def nodeByte (q r : Nat) : Byte :=
  BitVec.ofNat 8 ((if r < 3 then 1000 * (q % 257) else if r < 6 then 1000 * (q / 257) else 0) / 256 ^ (r % 3))
def body : List Byte := (List.range 594441).map fun k => nodeByte (k / 9) (k % 9)
/-- Byte k of an image with the check value `c`. -/
def img (c k : Nat) : Byte :=
  if k < 4 then BitVec.ofNat 8 (0x1D570C05 / 256 ^ k)
  else if k < 16 then (if k = 12 then 100 else 0)
  else if k < 20 then BitVec.ofNat 8 (c / 256 ^ (k - 16))
  else if 64 ≤ k then nodeByte ((k - 64) / 9) ((k - 64) % 9) else 0
def imgS (r : Mach) (c N : Nat) : State :=
  st { r with mem := { r.mem with bytes := (List.range' 0 N).map fun j => (j, img c j) } }
theorem img_byte (r : Mach) (c N k : Nat) (h : k < N) : ((imgS r c N).at 0).byte k = img c k := by
  show sget memDefault ((List.range' 0 N).map fun j => (j, img c j)) k = _
  rw [sget_range, if_pos (by omega)]
theorem crcByte_lt (c : Nat) (b : Byte) (h : c < 2 ^ 32) : crcByte c b < 2 ^ 32 := by
  unfold crcByte
  have hb : c ^^^ b.toNat < 2 ^ 32 := Nat.xor_lt_two_pow h (by have := b.isLt; omega)
  revert hb
  generalize c ^^^ b.toNat = x
  induction List.range 8 generalizing x with
  | nil => exact id
  | cons _ _ ih =>
    intro hx
    refine ih _ ?_
    have : x / 2 < 2 ^ 32 := by omega
    show (if x % 2 = 1 then (x / 2) ^^^ 0x82F63B78 else x / 2) < 2 ^ 32
    split
    · exact Nat.xor_lt_two_pow this (by decide)
    · exact this
theorem crc_lt (l : List Byte) : crc32c l < 2 ^ 32 := by
  unfold crc32c
  refine Nat.xor_lt_two_pow ?_ (by decide)
  have h : (0xFFFFFFFF : Nat) < 2 ^ 32 := by decide
  revert h
  generalize (0xFFFFFFFF : Nat) = x
  induction l generalizing x with
  | nil => exact id
  | cons b _ ih => exact fun hx => ih _ (crcByte_lt x b hx)
theorem three (v : Nat) (h : v < 2 ^ 23) :
    signed24 (ofLe [BitVec.ofNat 8 (v / 256 ^ 0), BitVec.ofNat 8 (v / 256 ^ 1), BitVec.ofNat 8 (v / 256 ^ 2)]) = v := by
  have : ofLe [BitVec.ofNat 8 (v / 256 ^ 0), BitVec.ofNat 8 (v / 256 ^ 1), BitVec.ofNat 8 (v / 256 ^ 2)] = v := by
    simp only [ofLe, BitVec.toNat_ofNat]; omega
  rw [this]
  unfold signed24 signed
  have h1 : v % 2 ^ 24 = v := by omega
  rw [h1, if_pos (by omega)]
theorem node_at (c : Nat) (t : CorTable) (ht : ∀ k, k < 594505 → sget memDefault t.bytes k = img c k) (hb : t.base = 0)
    (i j : Nat) (hi : i ≤ 256) (hj : j ≤ 256) : t.node i j = (((1000 * i : Nat) : Int), ((1000 * j : Nat) : Int), ((0 : Nat) : Int)) := by
  have ci : ∀ x : Nat, x ≤ 256 → (clampI 0 256 (x : Int)).toNat = x := by
    intro x hx; unfold clampI; split
    · omega
    · split <;> omega
  have hq : ∀ r, r < 9 → ((0 + 64 + 9 * (257 * j + i) + r - 64) / 9 = 257 * j + i ∧ (0 + 64 + 9 * (257 * j + i) + r - 64) % 9 = r) := by
    intro r hr; omega
  have hm : (257 * j + i) % 257 = i ∧ (257 * j + i) / 257 = j := by omega
  have hv : ∀ r, r < 9 → sget memDefault t.bytes (0 + 64 + 9 * (257 * j + i) + r) = nodeByte (257 * j + i) r := by
    intro r hr
    rw [ht _ (by omega)]
    unfold img
    rw [if_neg (by omega), if_neg (by omega), if_neg (by omega), if_pos (by omega), (hq r hr).1, (hq r hr).2]
  have h3 : ∀ k, k < 3 → ((List.range 3).map fun b => sget memDefault t.bytes (0 + 64 + 9 * (257 * j + i) + 3 * k + b)) =
      [nodeByte (257 * j + i) (3 * k), nodeByte (257 * j + i) (3 * k + 1), nodeByte (257 * j + i) (3 * k + 2)] := by
    intro k hk
    have e : List.range 3 = [0, 1, 2] := rfl
    rw [e]
    simp only [List.map_cons, List.map_nil, Nat.add_zero]
    rw [hv (3 * k) (by omega), show 0 + 64 + 9 * (257 * j + i) + 3 * k + 1 = 0 + 64 + 9 * (257 * j + i) + (3 * k + 1) by omega,
      hv _ (by omega), show 0 + 64 + 9 * (257 * j + i) + 3 * k + 2 = 0 + 64 + 9 * (257 * j + i) + (3 * k + 2) by omega, hv _ (by omega)]
  unfold CorTable.node
  simp only [ci i hi, ci j hj, hb]
  rw [h3 0 (by omega), h3 1 (by omega), h3 2 (by omega)]
  simp only [nodeByte, hm.1, hm.2]
  rw [Prod.mk.injEq, Prod.mk.injEq]
  exact ⟨three (1000 * i) (by omega), three (1000 * j) (by omega), three 0 (by decide)⟩
theorem det_at (c : Nat) (t : CorTable) (ht : ∀ k, k < 594505 → sget memDefault t.bytes k = img c k) (hb : t.base = 0)
    (i j : Nat) (hi : i ≤ 256) (hj : j ≤ 256) : t.det i j = 1000000 := by
  have n := node_at c t ht hb
  unfold CorTable.det
  by_cases h1 : i < 256 <;> by_cases h2 : j < 256 <;> simp only [h1, h2, if_true, if_false]
  · rw [show ((i : Int) + 1) = ((i + 1 : Nat) : Int) by omega, show ((j : Int) + 1) = ((j + 1 : Nat) : Int) by omega,
      n (i + 1) j (by omega) hj, n i j hi hj, n i (j + 1) hi (by omega)]
    simp only; push_cast; ring
  · rw [show ((i : Int) + 1) = ((i + 1 : Nat) : Int) by omega, show ((255 : Nat) : Int) + 1 = ((256 : Nat) : Int) by omega,
      n (i + 1) j (by omega) hj, n i j hi hj, n i 256 hi (by omega), n i 255 hi (by omega)]
    simp only; push_cast; ring
  · rw [show ((255 : Nat) : Int) + 1 = ((256 : Nat) : Int) by omega, show ((j : Int) + 1) = ((j + 1 : Nat) : Int) by omega,
      n 256 j (by omega) hj, n 255 j (by omega) hj, n i (j + 1) hi (by omega), n i j hi hj]
    simp only; push_cast; ring
  · rw [show ((255 : Nat) : Int) + 1 = ((256 : Nat) : Int) by omega, n 256 j (by omega) hj, n 255 j (by omega) hj,
      n i 256 hi (by omega), n i 255 hi (by omega)]
    simp only; push_cast; ring
theorem folds_at (c : Nat) (t : CorTable) (ht : ∀ k, k < 594505 → sget memDefault t.bytes k = img c k) (hb : t.base = 0) :
    t.folds = false := by
  unfold CorTable.folds
  rw [List.any_eq_false]
  intro j hj
  rw [Bool.not_eq_true, List.any_eq_false]
  intro i hi
  have hj := List.mem_range.mp hj
  have hi := List.mem_range.mp hi
  rw [det_at c t ht hb i j (by omega) (by omega), det_at c t ht hb 0 0 (by omega) (by omega)]
  decide
theorem ok_at (r : Mach) (hr : r.mem.poison = []) (hu : ∀ c < 2, ∀ l < 2, r.backing c l ≠ 3) (c N : Nat) (hN : N = 594505)
    (hc : c = crc32c body) : ((imgS r c N).at 0).corErr 0 = 0 := by
  have hb := img_byte r c N
  have l4 : ∀ a, ((imgS r c N).at 0).le a 4 = ofLe [((imgS r c N).at 0).byte a, ((imgS r c N).at 0).byte (a + 1),
      ((imgS r c N).at 0).byte (a + 2), ((imgS r c N).at 0).byte (a + 3)] := fun a => rfl
  have m0 : ((imgS r c N).at 0).le 0 4 = 0x1D570C05 := by
    rw [l4, hb _ (by omega), hb _ (by omega), hb _ (by omega), hb _ (by omega)]
    show ofLe [BitVec.ofNat 8 (0x1D570C05 / 256 ^ 0), BitVec.ofNat 8 (0x1D570C05 / 256 ^ 1), BitVec.ofNat 8 (0x1D570C05 / 256 ^ 2),
      BitVec.ofNat 8 (0x1D570C05 / 256 ^ 3)] = 0x1D570C05
    decide +kernel
  have m12 : ((imgS r c N).at 0).le 12 4 = 100 := by
    rw [l4, hb _ (by omega), hb _ (by omega), hb _ (by omega), hb _ (by omega)]; rfl
  have m16 : ((imgS r c N).at 0).le 16 4 = c := by
    rw [l4, hb _ (by omega), hb _ (by omega), hb _ (by omega), hb _ (by omega)]
    have := crc_lt body
    show ofLe [BitVec.ofNat 8 (c / 256 ^ 0), BitVec.ofNat 8 (c / 256 ^ 1), BitVec.ofNat 8 (c / 256 ^ 2), BitVec.ofNat 8 (c / 256 ^ 3)] = c
    simp only [ofLe, BitVec.toNat_ofNat]; omega
  have mb : ((imgS r c N).at 0).bytes (0 + 64) (corBytes - 64) = body := by
    unfold Mach.bytes body
    refine List.map_congr_left fun k hk => ?_
    have hk' : k < 594441 := List.mem_range.mp hk
    rw [hb _ (by omega)]
    unfold img
    rw [if_neg (by omega), if_neg (by omega), if_neg (by omega), if_pos (by omega), show 0 + 64 + k - 64 = k by omega]
  have mp : ((imgS r c N).at 0).poisoned 0 corBytes = false := by
    show ((linesOf 0 corBytes).any fun l => r.mem.poison.contains l || r.unbacked (128 * l)) = false
    rw [List.any_eq_false]
    intro l hl
    have : l < 4645 := by
      have := List.mem_map.mp hl
      obtain ⟨k, hk, rfl⟩ := this
      have := List.mem_range.mp hk
      unfold corBytes at this
      omega
    have h3 := hu (chanOf (128 * l)) (Nat.mod_lt _ (by decide)) (lrankOf (128 * l)) (Nat.mod_lt _ (by decide))
    rw [hr]
    simp only [Mach.unbacked, List.contains_nil, Bool.false_or, beq_eq_false_iff_ne.mpr h3, Bool.or_false, decide_eq_true_eq]
    omega
  have ht : ∀ k, k < 594505 → sget memDefault (((imgS r c N).at 0).corAt 0).bytes k = img c k := by
    intro k hk
    have e : (((imgS r c N).at 0).corAt 0).bytes = (List.range' 0 N).map fun j => (j, img c j) := by
      show List.filter _ ((List.range' 0 N).map fun j => (j, img c j)) = _
      rw [List.filter_eq_self]
      intro p hp
      obtain ⟨j, hj, rfl⟩ := List.mem_map.mp hp
      have := List.mem_range'_1.mp hj
      simp only [decide_eq_true_eq]
      unfold corBytes
      omega
    rw [e, sget_range, if_pos (by omega)]
  unfold Mach.corErr
  have hp : (((imgS r c N).at 0).corAt 0).pitch = 100 := m12
  have hf := folds_at c _ ht rfl
  revert hp hf
  generalize ((imgS r c N).at 0).corAt 0 = t
  intro hp hf
  rw [mp, m0, m16, mb, hc]
  simp [addrOk, corBytes, hf, hp]
theorem taken (r : Mach) (hr : r.mem.poison = []) (hu : ∀ c < 2, ∀ l < 2, r.backing c l ≠ 3) (n : Fin 16)
    (ho : r.open? (0x800000 + n * 0x40000) = true) (hp : r.pstate ≠ 2) (ha : r.fe[n].active = false)
    (hb : r.rd (R.FE_COR_BASE_LO n) * 2 ^ (R.FE_COR_BASE_LO n).lsb + r.rd (R.FE_COR_BASE_HI n) * 2 ^ 32 = 0)
    (c N : Nat) (hN : N = 594505) (hc : c = crc32c body) : ∃ s : State, ∃ m : Mach, ∃ n : Fin 16, m = s.at 0 ∧
    m.open? (0x800000 + n * 0x40000) = true ∧ m.pstate ≠ 2 ∧ m.fe[n].active = false ∧
    m.corErr (m.rd (R.FE_COR_BASE_LO n) * 2 ^ (R.FE_COR_BASE_LO n).lsb + m.rd (R.FE_COR_BASE_HI n) * 2 ^ 32) = 0 :=
  ⟨imgS r c N, _, n, rfl, ho, hp, ha, (congrArg ((imgS r c N).at 0).corErr hb).trans (ok_at r hr hu c N hN hc)⟩
/-- A correction image that is taken: nodes a thousand GU apart. -/
theorem witness_CorrectionFrameAndEncoders_taken :
    ∃ s : State, ∃ m : Mach, ∃ n : Fin 16, m = s.at 0 ∧ m.open? (0x800000 + n * 0x40000) = true ∧ m.pstate ≠ 2 ∧ m.fe[n].active = false ∧
      m.corErr (m.rd (R.FE_COR_BASE_LO n) * 2 ^ (R.FE_COR_BASE_LO n).lsb + m.rd (R.FE_COR_BASE_HI n) * 2 ^ 32) = 0 :=
  taken rdy (by decide +kernel) (by decide +kernel) 0 (by decide +kernel) (by decide +kernel) (by decide +kernel) (by decide +kernel)
    (crc32c body) 594505 rfl rfl
end W36

/-- The hypotheses of EveryStepKeepsMemoryCanonical are met: a step from a canonical state that answers next. -/
theorem witness_EveryStepKeepsMemoryCanonical : ∃ s t : State, s.wf = true ∧ s.pending ≠ [] ∧ step s = .next t :=
  ⟨{ State.reset with pending := [.requestSafe 1] }, _, by decide +kernel, by decide, rfl⟩

end Sys2Proof.Tests
end

section
/-! PROOF. What a command answers: the shape every statement about one command is reduced to, and the
statements about a step of the machine. -/
namespace Sys2Proof.Machine

/-! ## One command -/

/-- The arms of `exec` and of `effectOf` agree, command by command. -/
theorem exec_eq_effectOf (c : Instr) (s : State) :
    exec c s = .next { s with m := effectOf c (s.at (ticksOf c)) } := by
  cases c <;> rfl

/-- A command answers what its operation leaves of the module. -/
theorem answers_of {c : Instr} {s : State} {t u : Mach} {P : Mach → Prop} (he : exec c s = s.done t) (ht : t = u)
    (h : P u) : Answers c s P :=
  ⟨t, he, ht ▸ h⟩

/-! ## One step -/

theorem step_nil {s : State} (h : s.pending = []) : step s = .next s := by
  unfold step; rw [h]

theorem step_cons {c : Instr} {rest : List Instr} {s : State} (h : s.pending = c :: rest) :
    step s = exec c { s with pending := rest } := by
  unfold step; rw [h]

/-- Settles O1: it is how `step` treats a queue that is not empty. -/
theorem stepRunsFrontCommand : Obligations.StepRunsFrontCommand :=
  fun _ _ _ h => step_cons h

/-- Settles O2: every arm of `exec` is its operation, and a step on an empty queue idles. -/
theorem everyStepAnswersAndDequeuesOne : Obligations.EveryStepAnswersAndDequeuesOne := by
  refine ⟨exec_eq_effectOf, fun s => ?_⟩
  cases h : s.pending with
  | nil => exact ⟨s, step_nil h, h⟩
  | cons c rest => exact ⟨_, (step_cons h).trans (exec_eq_effectOf c _), rfl⟩

end Sys2Proof.Machine
end

section
/-! PROOF. Frames: rules for "nothing but these registers", and the registers a field write leaves. -/
namespace Sys2Proof.Machine

/-- A field reads what its register's word holds. -/
theorem Mach.rd_congr {m t : Mach} {r : RF} (h : t.word r.a = m.word r.a) : t.rd r = m.rd r :=
  congrArg (fun w : Word => bits w.toNat r.msb r.lsb) h

/-- A field write touches its own register only. -/
theorem Mach.wr_keeps (m : Mach) (r : RF) (v : Nat) {l : List Nat} (h : r.a ∈ l) : m.Keeps (m.wr r v) l :=
  fun _ ha => rget_rwr_ne (fun e => ha (by rwa [e])) v

theorem Mach.wr_only (m : Mach) (r : RF) (v : Nat) {l : List Nat} (h : r.a ∈ l) : m.OnlyRegs (m.wr r v) l :=
  ⟨m.wr_keeps r v h, rfl⟩

theorem rget_rwrs_ne (l : List (RF × Nat)) (g : Sparse Word) {a : Nat} (h : ∀ p ∈ l, a ≠ p.1.a) :
    rget (rwrs g l) a = rget g a := by
  induction l generalizing g with
  | nil => rfl
  | cons p l ih =>
    obtain ⟨hp, hl⟩ := List.forall_mem_cons.mp h
    exact (ih _ hl).trans (rget_rwr_ne hp p.2)

/-- Two field writes, one after the other. -/
theorem Mach.wrs_pair_regs (m : Mach) (r r' : RF) (v v' : Nat) :
    (m.wrs [(r, v), (r', v')]).regs = rwr (rwr m.regs r v) r' v' := rfl

/-- Field writes touch their own registers only. -/
theorem Mach.wrs_only (m : Mach) (ws : List (RF × Nat)) {l : List Nat} (h : ∀ p ∈ ws, p.1.a ∈ l) :
    m.OnlyRegs (m.wrs ws) l :=
  ⟨fun _ ha => rget_rwrs_ne ws m.regs fun p hp e => ha (e ▸ h p hp), rfl⟩

theorem Mach.inc_only (m : Mach) (r : RF) : m.OnlyRegs (m.inc r) [r.a] :=
  ⟨fun _ ha => rget_rinc_ne (by simpa using ha), rfl⟩

/-- A saturating counter of 32 bits counts up to its last value. -/
theorem rrd_rinc_word (g : Sparse Word) (a : Nat) :
    rrd (rinc g ⟨a, 31, 0⟩) ⟨a, 31, 0⟩ = min (rrd g ⟨a, 31, 0⟩ + 1) (2 ^ 32 - 1) := by
  have hlt : rrd g ⟨a, 31, 0⟩ < 2 ^ 32 := rrd_lt a 31 0
  by_cases h : rrd g ⟨a, 31, 0⟩ + 1 < 2 ^ 32
  · rw [rrd_rinc (by omega) (by omega) h]; omega
  · have hs : rinc g ⟨a, 31, 0⟩ = g := if_neg h
    rw [hs]; omega

end Sys2Proof.Machine
end

section
/-! PROOF. The unlock sequence (R31 to R35) and configuration requests (R385, R386). -/
namespace Sys2Proof.Machine

/-! ## Where a block does not answer -/

theorem Mach.ifOpen_open {m : Mach} {a : Nat} (f : Mach → Mach) (h : m.open? a = true) : m.ifOpen a f = f m := by
  unfold Mach.ifOpen; rw [if_pos h]

theorem Mach.ifOpen_closed {m : Mach} {a : Nat} (f : Mach → Mach) (h : m.open? a = false) : m.ifOpen a f = m.early := by
  unfold Mach.ifOpen; rw [if_neg (by simp [h])]

/-- R386: a write to a closed block is counted, and nothing else. -/
theorem Mach.early_counts (m : Mach) :
    m.OnlyRegs m.early [R.HS_EARLY.a] ∧ m.early.rd R.HS_EARLY = min (m.rd R.HS_EARLY + 1) (2 ^ 32 - 1) :=
  ⟨m.inc_only R.HS_EARLY, rrd_rinc_word m.regs R.HS_EARLY.a⟩

/-! ## Locking a block -/

/-- The module has the unlock sequence of the block at `b` as `p`, the block unlocked as `u` and SEQERR as `e`, and
nothing else has changed since `m`. -/
def Mach.UnlockState (m t : Mach) (b p u e : Nat) : Prop :=
  t.unlockPending b = p ∧ t.rd ⟨b + 0xF4, 0, 0⟩ = u ∧ t.rd ⟨b + 0xF4, 2, 2⟩ = e ∧
  ({ m with unlock := t.unlock } : Mach).OnlyRegs t [b + 0xF4]

/-- A pending first word noted for a block is found there. -/
theorem Mach.unlockPending_sset {t : Mach} {u : Sparse Nat} {b p : Nat} (h : t.unlock = sset (fun _ => 0) u b p) :
    t.unlockPending b = p := by
  unfold Mach.unlockPending
  rw [h, sget_sset_same]

/-- Changes of a block's unlock state compose. -/
theorem Mach.UnlockState.trans {m t w : Mach} {b p u e p' u' e' : Nat} (h1 : m.UnlockState t b p u e)
    (h2 : t.UnlockState w b p' u' e') : m.UnlockState w b p' u' e' := by
  obtain ⟨_, _, _, hk, ht⟩ := h1
  obtain ⟨hp, hu, he, hk', hw⟩ := h2
  refine ⟨hp, hu, he, fun a ha => (hk' a ha).trans (hk a ha), ?_⟩
  rw [hw, ht]

theorem Mach.lockBlock_unlock (m : Mach) (b : Nat) (err : Bool) (p : Nat) :
    (m.lockBlock b err p).unlock = sset (fun _ => 0) m.unlock b p := rfl

theorem Mach.lockBlock_now (m : Mach) (b : Nat) (err : Bool) (p : Nat) : (m.lockBlock b err p).now = m.now := by
  dsimp only [Mach.lockBlock]

theorem Mach.lockBlock_regs (m : Mach) (b : Nat) (err : Bool) (p : Nat) : (m.lockBlock b err p).regs =
    rwr (if err then rwr m.regs ⟨b + 0xF4, 2, 2⟩ 1 else m.regs) ⟨b + 0xF4, 0, 0⟩ 0 := rfl

theorem Mach.lockBlock_state (m : Mach) (b : Nat) (err : Bool) (p : Nat) :
    m.UnlockState (m.lockBlock b err p) b p 0 (if err then 1 else m.rd ⟨b + 0xF4, 2, 2⟩) := by
  refine ⟨Mach.unlockPending_sset (m.lockBlock_unlock b err p), ?_, ?_, fun a ha => ?_, rfl⟩
  · rw [Mach.rd, m.lockBlock_regs]
    exact rrd_wr_same (by omega) (by omega)
  · rw [Mach.rd, m.lockBlock_regs, rrd_wr_above (by omega) (by omega) (by omega)]
    cases err with
    | true => exact rrd_wr_same (by omega) (by omega)
    | false => rfl
  · have ha : a ≠ b + 0xF4 := by simpa using ha
    rw [Mach.word, m.lockBlock_regs, rget_wr_ne ha]
    cases err with
    | true => exact rget_wr_ne ha
    | false => rfl

theorem Mach.lockBlock_err (m : Mach) (b p : Nat) : m.UnlockState (m.lockBlock b true p) b p 0 1 := by
  simpa only [if_true] using m.lockBlock_state b true p

/-! ## One word of the sequence -/

section
variable {m : Mach} {b : Nat} {v : Word}

theorem Mach.unlockExpire_early (h : m.unlockPending b = 0 ∨ m.now ≤ m.unlockPending b - 1 + unlockTicks) :
    m.unlockExpire b = m := by
  unfold Mach.unlockExpire
  rw [if_neg (by omega)]

theorem Mach.unlockExpire_late (h : m.unlockPending b ≠ 0) (ht : m.unlockPending b - 1 + unlockTicks < m.now) :
    m.unlockExpire b = m.lockBlock b true 0 := by
  unfold Mach.unlockExpire
  rw [if_pos ⟨h, ht⟩]

/-- R31: the first word starts a sequence. -/
theorem Mach.unlockWrite_first (h : m.unlockPending b = 0) (hv : v.toNat = unlockFirst b) :
    m.unlockWrite b v = { m with unlock := sset (fun _ => 0) m.unlock b (m.now + 1) } := by
  unfold Mach.unlockWrite
  rw [Mach.unlockExpire_early (.inl h)]
  simp only [h, hv, if_true]

/-- R32: any other word outside a sequence locks the block. -/
theorem Mach.unlockWrite_stray (h : m.unlockPending b = 0) (hv : v.toNat ≠ unlockFirst b) :
    m.unlockWrite b v = m.lockBlock b (v.toNat / 256 == 0x1D5700) 0 := by
  unfold Mach.unlockWrite
  rw [Mach.unlockExpire_early (.inl h)]
  simp only [h, hv, if_true, if_false]

/-- R31: the complement within 1 ms unlocks; SAF never is (R35). -/
theorem Mach.unlockWrite_complement (h : m.unlockPending b ≠ 0) (ht : m.now ≤ m.unlockPending b - 1 + unlockTicks)
    (hv : v.toNat = 0xFFFFFFFF - unlockFirst b) :
    m.unlockWrite b v = if b = 0x40000 then m.lockBlock b true 0
      else { m with regs := rwr m.regs ⟨b + 0xF4, 0, 0⟩ 1, unlock := sset (fun _ => 0) m.unlock b 0 } := by
  unfold Mach.unlockWrite
  rw [Mach.unlockExpire_early (.inr ht)]
  simp only [h, hv, if_true, if_false]

/-- R32: any other word of a pending sequence locks the block; a first word starts the sequence anew. -/
theorem Mach.unlockWrite_broken (h : m.unlockPending b ≠ 0) (ht : m.now ≤ m.unlockPending b - 1 + unlockTicks)
    (hv : v.toNat ≠ 0xFFFFFFFF - unlockFirst b) :
    m.unlockWrite b v = m.lockBlock b true (if v.toNat = unlockFirst b then m.now + 1 else 0) := by
  unfold Mach.unlockWrite
  rw [Mach.unlockExpire_early (.inr ht)]
  simp only [h, hv, if_false]
  split <;> rfl

/-- R32: after 1 ms the sequence is abandoned before the word is looked at. -/
theorem Mach.unlockWrite_late (h : m.unlockPending b ≠ 0) (ht : m.unlockPending b - 1 + unlockTicks < m.now) :
    m.unlockWrite b v = (m.lockBlock b true 0).unlockWrite b v := by
  have hp := Mach.unlockPending_sset (m.lockBlock_unlock b true 0)
  unfold Mach.unlockWrite
  rw [Mach.unlockExpire_late h ht, Mach.unlockExpire_early (.inl hp)]

/-! What each word leaves. -/

theorem Mach.unlockWrite_first_state (h : m.unlockPending b = 0) (hv : v.toNat = unlockFirst b) :
    m.UnlockState (m.unlockWrite b v) b (m.now + 1) (m.rd ⟨b + 0xF4, 0, 0⟩) (m.rd ⟨b + 0xF4, 2, 2⟩) := by
  rw [Mach.unlockWrite_first h hv]
  exact ⟨Mach.unlockPending_sset rfl, rfl, rfl, fun _ _ => rfl, rfl⟩

theorem Mach.unlockWrite_stray_state (h : m.unlockPending b = 0) (hv : v.toNat ≠ unlockFirst b) :
    m.UnlockState (m.unlockWrite b v) b 0 0 (if v.toNat / 256 = 0x1D5700 then 1 else m.rd ⟨b + 0xF4, 2, 2⟩) := by
  rw [Mach.unlockWrite_stray h hv]
  simpa only [beq_iff_eq] using m.lockBlock_state b (v.toNat / 256 == 0x1D5700) 0

theorem Mach.unlockWrite_complement_state (hb : b ≠ 0x40000) (h : m.unlockPending b ≠ 0)
    (ht : m.now ≤ m.unlockPending b - 1 + unlockTicks) (hv : v.toNat = 0xFFFFFFFF - unlockFirst b) :
    m.UnlockState (m.unlockWrite b v) b 0 1 (m.rd ⟨b + 0xF4, 2, 2⟩) := by
  have hw := Mach.unlockWrite_complement h ht hv
  rw [if_neg hb] at hw
  have hr : (m.unlockWrite b v).regs = rwr m.regs ⟨b + 0xF4, 0, 0⟩ 1 := by rw [hw]
  refine ⟨Mach.unlockPending_sset (u := m.unlock) (by rw [hw]), ?_, ?_, fun a ha => ?_, by rw [hw]⟩
  · rw [Mach.rd, hr]
    exact rrd_wr_same (by omega) (by omega)
  · rw [Mach.rd, hr]
    exact rrd_wr_above (by omega) (by omega) (by omega)
  · rw [Mach.word, hr]
    exact rget_wr_ne (by simpa using ha)

theorem Mach.unlockWrite_broken_state (h : m.unlockPending b ≠ 0) (ht : m.now ≤ m.unlockPending b - 1 + unlockTicks)
    (hv : v.toNat ≠ 0xFFFFFFFF - unlockFirst b) :
    m.UnlockState (m.unlockWrite b v) b (if v.toNat = unlockFirst b then m.now + 1 else 0) 0 1 := by
  rw [Mach.unlockWrite_broken h ht hv]
  exact m.lockBlock_err b _

theorem Mach.unlockWrite_late_state (h : m.unlockPending b ≠ 0) (ht : m.unlockPending b - 1 + unlockTicks < m.now) :
    m.UnlockState (m.unlockWrite b v) b (if v.toNat = unlockFirst b then m.now + 1 else 0) 0 1 := by
  have hl := m.lockBlock_err b 0
  rw [Mach.unlockWrite_late h ht]
  have hn := m.lockBlock_now b true 0
  generalize m.lockBlock b true 0 = l at hl hn ⊢
  obtain ⟨hp, hu, he, -⟩ := id hl
  refine hl.trans ?_
  by_cases hv : v.toNat = unlockFirst b
  · have hs := Mach.unlockWrite_first_state hp hv
    rw [hn, hu, he] at hs
    rwa [if_pos hv]
  · have hs := Mach.unlockWrite_stray_state hp hv
    rw [he, ite_self] at hs
    rwa [if_neg hv]

end

/-- SAF alone stands at 0x40000 (R36). -/
theorem blockAddr_ne_saf {b : Block} (h : b ≠ .saf) : blockAddr b ≠ 0x40000 := by
  cases b with
  | saf => exact absurd rfl h
  | fe n => simp only [blockAddr]; omega
  | _ => simp only [blockAddr]; omega

/-! ## Configuration requests -/

/-- The two ids side by side are the first configuration word (R385). -/
theorem ids_append (vid did : Nat) (h : vid < 2 ^ 16) :
    BitVec.ofNat 32 (vid + did * 65536) = BitVec.ofNat 16 did ++ BitVec.ofNat 16 vid := by
  apply BitVec.eq_of_toNat_eq
  rw [BitVec.toNat_append, BitVec.toNat_ofNat, BitVec.toNat_ofNat, BitVec.toNat_ofNat,
    ← Nat.shiftLeft_add_eq_or_of_lt (Nat.mod_lt _ (by decide)), Nat.shiftLeft_eq]
  omega

theorem Mach.configRequest_up {m : Mach} (a : BitVec 10) (h : m.on R.HS_LINK_UP = true) :
    m.configRequest a = { m with
      out := .cfgReply a (if a = 0 then BitVec.ofNat 16 (m.rd R.HS_PCI_ID_DID) ++ BitVec.ofNat 16 (m.rd R.HS_PCI_ID_VID)
        else Config.cfgWord a) :: m.out } := by
  have hv : m.rd R.HS_PCI_ID_VID < 2 ^ 16 := rrd_lt R.HS_PCI_ID_VID.a 15 0
  unfold Mach.configRequest
  rw [h, ids_append _ _ hv]
  rfl

theorem Mach.configRequest_down {m : Mach} (a : BitVec 10) (h : m.on R.HS_LINK_UP = false) : m.configRequest a = m := by
  unfold Mach.configRequest
  rw [h]
  rfl

/-! ## The statement -/

/-- UNLOCK_KEY_WRITE to a block that answers. -/
theorem answers_unlockKeyWrite {s : State} {dt : Nat} {b : Block} {v : Word} {P : Mach → Prop}
    (ho : (s.at dt).open? (blockAddr b) = true) (h : P ((s.at dt).unlockWrite (blockAddr b) v)) :
    Answers (.unlockKeyWrite dt b v) s P :=
  answers_of rfl (Mach.ifOpen_open _ ho) h

/-- Settles O5: the cases of a word are the lemmas above, in the states that a sequence can be in. -/
theorem unlockSequence : Obligations.UnlockSequence := by
  refine ⟨?_, ?_, ?_⟩
  · rintro s dt b m x rfl rfl hb
    refine ⟨fun ho hp => ⟨fun v hv => ?_, fun v hv => ?_⟩, fun hc v => ?_, fun h => ?_,
      fun ho hp ht => ⟨fun v hv => ?_, fun v hv => ?_⟩, fun hp ht => ⟨fun v ho => ?_, ?_⟩⟩
    · refine answers_unlockKeyWrite ho ?_
      rw [Mach.unlockWrite_first hp hv]
      exact ⟨Mach.unlockPending_sset rfl, rfl⟩
    · obtain ⟨h1, h2, h3, h4⟩ := Mach.unlockWrite_stray_state hp hv
      exact answers_unlockKeyWrite ho ⟨h2, h3, h1, h4⟩
    · exact answers_of rfl (Mach.ifOpen_closed _ hc) (s.at dt).early_counts
    · exact answers_of rfl (Mach.unlockExpire_early h) rfl
    · obtain ⟨h1, h2, -, h4⟩ := Mach.unlockWrite_complement_state (blockAddr_ne_saf hb) hp ht hv
      exact answers_unlockKeyWrite ho ⟨h2, h1, h4⟩
    · obtain ⟨h1, h2, h3, h4⟩ := Mach.unlockWrite_broken_state hp ht hv
      exact answers_unlockKeyWrite ho ⟨h2, h3, h1, h4⟩
    · obtain ⟨h1, h2, h3, h4⟩ := Mach.unlockWrite_late_state (v := v) hp ht
      exact answers_unlockKeyWrite ho ⟨h2, h3, h1, h4⟩
    · obtain ⟨h1, h2, h3, h4⟩ := (s.at dt).lockBlock_err (blockAddr b) 0
      exact answers_of rfl (Mach.unlockExpire_late hp ht) ⟨h2, h3, h1, h4⟩
  · rintro s dt v m rfl ho hp ht hv
    obtain ⟨h1, h2, h3, -⟩ := (s.at dt).lockBlock_err 0x40000 0
    refine answers_unlockKeyWrite (b := .saf) ho ?_
    rw [show blockAddr .saf = 0x40000 from rfl, Mach.unlockWrite_complement hp ht hv, if_pos rfl]
    exact ⟨h2, h3, h1⟩
  · rintro s dt a m rfl
    exact ⟨fun h => answers_of rfl (Mach.configRequest_up a h) rfl,
      fun h => answers_of rfl (Mach.configRequest_down a h) rfl⟩

end Sys2Proof.Machine
end

section
/-! PROOF. Mode requests and the end of a disarm (R25, R26, R30, R489). -/
namespace Sys2Proof.Machine

/-- The mode is read from the registers alone. -/
theorem Mach.mode_congr {m t : Mach} (h : t.regs = m.regs) : t.mode = m.mode := by
  unfold Mach.mode Mach.rd
  rw [h]

/-! ## SAFE: what each part of it does -/

/-- What stays while the outputs of fields take their fail-safe state: the mode, memory and the ledger; and a field
once dark stays dark. -/
def Mach.SafeFrame (m t : Mach) : Prop :=
  t.mode = m.mode ∧ t.mem = m.mem ∧ t.ledger = m.ledger ∧ ∀ n : Fin 16, m.Dark n → t.Dark n

theorem Mach.SafeFrame.trans {m t u : Mach} (h1 : m.SafeFrame t) (h2 : t.SafeFrame u) : m.SafeFrame u := by
  obtain ⟨hm, hx, hl, hd⟩ := h1
  obtain ⟨hm', hx', hl', hd'⟩ := h2
  exact ⟨hm'.trans hm, hx'.trans hx, hl'.trans hl, fun n h => hd' n (hd n h)⟩

/-- The braking of a field changes the field alone. -/
theorem Mach.freeze_frame (m : Mach) (n : Fin 16) : m.freeze n = { m with fe := (m.freeze n).fe } := by
  unfold Mach.freeze
  dsimp only
  split <;> rfl

theorem Mach.setFe_frame (m : Mach) (f : Vector Field 16) : m.SafeFrame { m with fe := f } :=
  ⟨rfl, rfl, rfl, fun _ h => h⟩

theorem freezeAll_frame (l : List (Fin 16)) (m : Mach) : m.SafeFrame (l.foldl (fun (m : Mach) n => m.freeze n) m) := by
  induction l generalizing m with
  | nil => exact ⟨rfl, rfl, rfl, fun _ h => h⟩
  | cons n l ih =>
    have hn : m.SafeFrame (m.freeze n) := m.freeze_frame n ▸ m.setFe_frame _
    exact hn.trans (ih (m.freeze n))

/-- R469: the outputs of a field that goes to fail-safe are dark. -/
theorem Mach.outputsSafe_dark (m : Mach) (n : Fin 16) (doubt : Bool) : (m.outputsSafe n doubt).Dark n := by
  unfold Mach.Dark Mach.outputsSafe
  simp [FieldPins.failSafe]

/-- The parts that the outputs of a field are made of; of the registers its power code alone. -/
theorem Mach.outputsSafe_parts (m : Mach) (n : Fin 16) : ∃ (p : FieldPins) (l : List (Edge × Stage))
    (f : Vector Field 16), m.outputsSafe n false =
      { m with regs := rwr m.regs (R.FE_LCH_COUT n) 0, pins := m.pins.set n p, stages := l, fe := f } :=
  ⟨_, _, _, rfl⟩

theorem Mach.outputsSafe_pins_ne (m : Mach) {n k : Fin 16} (h : k ≠ n) :
    (m.outputsSafe n false).pins[k] = m.pins[k] := by
  obtain ⟨p, l, f, he⟩ := m.outputsSafe_parts n
  rw [he]
  exact set_fin_ne m.pins p h

theorem Mach.outputsSafe_mode (m : Mach) (n : Fin 16) : (m.outputsSafe n false).mode = m.mode := by
  have hglb : R.GLB_MODE_MODE.a ≠ (R.FE_LCH_COUT n).a := by
    simp only [R.GLB_MODE_MODE, R.FE_LCH_COUT]
    omega
  obtain ⟨p, l, f, he⟩ := m.outputsSafe_parts n
  rw [he]
  exact rrd_rwr_ne (R.FE_LCH_COUT n) R.GLB_MODE_MODE 0 hglb

theorem Mach.outputsSafe_frame (m : Mach) (n : Fin 16) : m.SafeFrame (m.outputsSafe n false) := by
  obtain ⟨p, l, f, he⟩ := m.outputsSafe_parts n
  refine ⟨m.outputsSafe_mode n, ?_, ?_, fun k hk => ?_⟩
  · rw [he]
  · rw [he]
  · by_cases h : k = n
    · subst h
      exact m.outputsSafe_dark k false
    · unfold Mach.Dark
      rwa [m.outputsSafe_pins_ne h]

/-- The outputs of some fields, one after the other. -/
theorem foldl_outputsSafe (l : List (Fin 16)) (m : Mach) :
    m.SafeFrame (l.foldl (fun (m : Mach) n => m.outputsSafe n false) m) ∧
    ∀ n ∈ l, (l.foldl (fun (m : Mach) n => m.outputsSafe n false) m).Dark n := by
  induction l generalizing m with
  | nil => exact ⟨⟨rfl, rfl, rfl, fun _ h => h⟩, fun _ h => absurd h (List.not_mem_nil)⟩
  | cons k l ih =>
    obtain ⟨hf, hd⟩ := ih (m.outputsSafe k false)
    obtain ⟨-, -, -, hdark⟩ := id hf
    refine ⟨(m.outputsSafe_frame k).trans hf, fun n hn => ?_⟩
    rcases List.mem_cons.mp hn with rfl | hn
    · exact hdark n (m.outputsSafe_dark n false)
    · exact hd n hn

theorem Mach.allOutputsSafe_frame (m : Mach) :
    m.SafeFrame (m.allOutputsSafe false) ∧ ∀ n : Fin 16, (m.allOutputsSafe false).Dark n := by
  obtain ⟨hf, hd⟩ := foldl_outputsSafe (List.finRange 16) m
  exact ⟨hf, fun n => hd n (List.mem_finRange n)⟩

/-- The mode once it has been set. -/
theorem Mach.setMode_mode (m : Mach) {v : Nat} (h : v < 8) : (m.setMode v).mode = v :=
  (rrd_wr_same (by omega) (by omega)).trans (Nat.mod_eq_of_lt h)

/-- R26: from READY or ARMED the module goes to SAFE. -/
theorem Mach.toSafe_mode {m : Mach} (h : m.mode = modeReady ∨ m.mode = modeArmed) : m.toSafe.mode = modeSafe := by
  rw [show m.toSafe = Mach.setMode _ modeSafe from if_pos h]
  exact Mach.setMode_mode _ (by decide)

theorem Mach.toSafe_frame (m : Mach) : m.toSafe.pins = m.pins ∧ m.toSafe.mem = m.mem ∧ m.toSafe.ledger = m.ledger := by
  unfold Mach.toSafe
  dsimp only
  split <;> exact ⟨rfl, rfl, rfl⟩

/-- Once the outputs of every field are dark, the axes and the mode follow. -/
theorem Mach.SafeFrame.toSafe {m t : Mach} (hf : m.SafeFrame t) (hd : ∀ n, t.Dark n)
    (h : m.mode = modeReady ∨ m.mode = modeArmed) (x : Vector Axis 8) :
    let u := Mach.toSafe { t with axis := x }
    u.mode = modeSafe ∧ (∀ n, u.Dark n) ∧ u.mem = m.mem ∧ u.ledger = m.ledger := by
  obtain ⟨hm, hx, hl, -⟩ := hf
  have hmode : Mach.mode { t with axis := x } = m.mode := (Mach.mode_congr rfl).trans hm
  obtain ⟨hp, hx', hl'⟩ := Mach.toSafe_frame { t with axis := x }
  refine ⟨Mach.toSafe_mode (by rwa [hmode]), fun n => ?_, hx'.trans hx, hl'.trans hl⟩
  unfold Mach.Dark
  rw [hp]
  exact hd n

/-- R25: SAFE, with every laser output dark, memory and the ledger as they were. -/
theorem Mach.goSafe_state {m : Mach} (h : m.mode = modeReady ∨ m.mode = modeArmed) :
    m.goSafe.mode = modeSafe ∧ (∀ n, m.goSafe.Dark n) ∧ m.goSafe.mem = m.mem ∧ m.goSafe.ledger = m.ledger := by
  have hf := freezeAll_frame (List.finRange 16) m
  unfold Mach.goSafe
  dsimp only
  generalize (List.finRange 16).foldl (fun (m : Mach) n => m.freeze n) m = f at hf ⊢
  obtain ⟨hs, hd⟩ := f.allOutputsSafe_frame
  exact (hf.trans hs).toSafe hd h _

/-! ## Refusals -/

/-- A refused request: REFUSED and the reason stand in GLB_MODE, and the mode is as it was. -/
def Mach.Refused (m t : Mach) (reason : Nat) : Prop :=
  t.rd R.GLB_MODE_REFUSED = 1 ∧ t.rd R.GLB_MODE_REASON = reason ∧ t.mode = m.mode ∧ m.OnlyRegs t [R.GLB_MODE_MODE.a]

theorem Mach.modeRefuse_regs (m : Mach) (reason : Nat) :
    (m.modeRefuse reason).regs = rwr (rwr m.regs R.GLB_MODE_REFUSED 1) R.GLB_MODE_REASON reason :=
  m.wrs_pair_regs ..

theorem Mach.modeRefuse_state (m : Mach) {reason : Nat} (h : reason < 16) : m.Refused (m.modeRefuse reason) reason := by
  have hb (g : Sparse Word) (r : RF) (ha : r.a = R.GLB_MODE_REASON.a) (hr : r.msb < R.GLB_MODE_REASON.lsb) :
      rrd (rwr g R.GLB_MODE_REASON reason) r = rrd g r :=
    rrd_rwr_below _ r _ ha (by decide) hr (hr.trans (by decide))
  unfold Mach.Refused Mach.mode Mach.rd
  rw [m.modeRefuse_regs, hb _ R.GLB_MODE_REFUSED rfl (by decide), hb _ R.GLB_MODE_MODE rfl (by decide)]
  refine ⟨rrd_rwr_same _ _ (by decide) (by decide), ?_, ?_, m.wrs_only _ ?_⟩
  · exact (rrd_rwr_same _ _ (by decide) (by decide)).trans (Nat.mod_eq_of_lt h)
  · exact rrd_rwr_below _ _ _ rfl (by decide) (by decide) (by decide)
  · simp [R.GLB_MODE_REFUSED, R.GLB_MODE_REASON, R.GLB_MODE_MODE]

/-! ## READY and the disarm -/

section
variable {m : Mach}

theorem Mach.requestReady_refused (ha : m.mode ≠ modeArmed) (h : m.mode ≠ modeSafe ∨ m.env.waking = true) :
    m.requestReady = m.modeRefuse 3 := by
  unfold Mach.requestReady
  rw [if_neg ha, if_pos h]

/-- The conditions that are left in SAFE outside a wake (R26, R30). -/
theorem Mach.requestReady_safe (hs : m.mode = modeSafe) (hw : m.env.waking = false) :
    m.requestReady = if m.rd R.SAF_GSTAT_CAUSE ≠ 0 then m.modeRefuse 1
      else if !(m.saf.ilkA && m.saf.ilkB) then m.modeRefuse 2 else m.setMode modeReady := by
  unfold Mach.requestReady
  rw [if_neg (by rw [hs]; decide), if_neg (by simp [hs, hw])]

theorem Mach.requestReady_armed (ha : m.mode = modeArmed) :
    m.requestReady = if m.saf.disarming then m else m.disarm := by
  unfold Mach.requestReady
  rw [if_pos ha]

/-- R489: the disarm is over: READY, with source 12. -/
theorem Mach.disarmed_state (m : Mach) :
    m.disarmed.mode = modeReady ∧ m.disarmed.saf.disarming = false ∧
    ({ m with saf := m.disarmed.saf } : Mach).OnlyRaised m.disarmed 12 [R.GLB_MODE_MODE.a] := by
  unfold Mach.disarmed
  generalize hl : ({ m with saf := { m.saf with disarming := false } } : Mach) = l
  have hmode : (l.setMode modeReady).mode = modeReady := l.setMode_mode (by decide)
  have hglb : R.GLB_MODE_MODE.a ∉ raiseRegs 12 := by decide
  refine ⟨(Mach.raise_rrd_ne hglb).trans hmode, by subst hl; rfl, Mach.raise_pend (by decide), fun a ha => ?_,
    by subst hl; rfl⟩
  rw [List.mem_append, not_or] at ha
  obtain ⟨hr, ha⟩ := ha
  refine (Mach.raise_word_ne hr).trans ?_
  subst hl
  exact rget_rwr_ne (by simpa using ha) _

end

/-- R489: without a field inside a laser-on run a disarm is over at once. -/
theorem Mach.disarm_atOnce {m : Mach} (h : m.someRun = false) :
    m.disarm.mode = modeReady ∧ m.disarm.saf.disarming = false ∧
    ({ m with saf := m.disarm.saf } : Mach).OnlyRaised m.disarm 12 [R.GLB_MODE_MODE.a] := by
  have hd : m.disarm = Mach.disarmed { m with saf := { m.saf with disarming := true } } := by
    unfold Mach.disarm
    exact if_neg fun e => absurd (h.symm.trans e) (by decide)
  rw [hd]
  exact Mach.disarmed_state _

theorem Mach.disarm_underway {m : Mach} (h : m.someRun = true) :
    m.disarm = { m with saf := { m.saf with disarming := true } } := by
  unfold Mach.disarm
  exact if_pos h

/-! ## The statement -/

/-- REQUEST_READY where no context waits: the request's own effect, which leaves the contexts. -/
theorem answers_requestReady {s : State} {dt : Nat} {t : Mach} {P : Mach → Prop} (hq : (s.at dt).Quiet)
    (ht : (s.at dt).requestReady = t) (hf : t.fe = (s.at dt).fe ∧ t.coo = (s.at dt).coo ∧ t.axis = (s.at dt).axis)
    (h : P t) : Answers (.requestReady dt) s P := by
  obtain ⟨h1, h2, h3⟩ := hf
  refine answers_of rfl ?_ h
  rw [ht]
  exact Mach.wakeAll_of_quiet (hq.congr h1 h2 h3)

theorem requestSafe_answers (s : State) (dt : Nat) :
    ((s.at dt).mode = modeReady ∨ (s.at dt).mode = modeArmed → Answers (.requestSafe dt) s fun t =>
      t.mode = modeSafe ∧ (∀ n, t.Dark n) ∧ t.mem = (s.at dt).mem ∧ t.ledger = (s.at dt).ledger) ∧
    ((s.at dt).mode ≠ modeReady → (s.at dt).mode ≠ modeArmed →
      Answers (.requestSafe dt) s fun t => (s.at dt).Refused t 3) := by
  refine ⟨fun h => answers_of rfl (if_pos h) (Mach.goSafe_state h), fun hr ha => ?_⟩
  exact answers_of rfl (if_neg (not_or.mpr ⟨hr, ha⟩)) ((s.at dt).modeRefuse_state (by decide))

theorem disarmComplete_answers (s : State) (dt : Nat) :
    ((s.at dt).saf.disarming = true → (s.at dt).mode = modeArmed → (s.at dt).someRun = false →
      Answers (.disarmComplete dt) s fun t => t.mode = modeReady ∧ t.saf.disarming = false ∧
        ({ s.at dt with saf := t.saf } : Mach).OnlyRaised t 12 [R.GLB_MODE_MODE.a]) ∧
    ((s.at dt).saf.disarming = false ∨ (s.at dt).mode ≠ modeArmed ∨ (s.at dt).someRun = true →
      Answers (.disarmComplete dt) s (· = s.at dt)) := by
  refine ⟨fun hd ha hr => ?_, fun h => ?_⟩
  · exact answers_of rfl (if_pos ⟨hd, ha, by rw [hr]; rfl⟩) (s.at dt).disarmed_state
  · refine answers_of rfl (if_neg ?_) rfl
    rintro ⟨hd, ha, hr⟩
    rcases h with h | h | h
    · simp [h] at hd
    · exact h ha
    · simp [h] at hr

/-- Settles O6: a request's conditions are looked at in the order of R26, R30 and R489. -/
theorem modeRequests : Obligations.ModeRequests := by
  refine ⟨?_, ?_, ?_⟩
  · rintro s dt m rfl
    exact requestSafe_answers s dt
  · rintro s dt m rfl hq
    have refuse {r : Nat} (hr : r < 16) {w : Nat} (hm : (s.at dt).mode = w)
        (h : (s.at dt).requestReady = (s.at dt).modeRefuse r) :
        Answers (.requestReady dt) s fun t => t.mode = w ∧ t.rd R.GLB_MODE_REFUSED = 1 ∧
          t.rd R.GLB_MODE_REASON = r ∧ (s.at dt).OnlyRegs t [R.GLB_MODE_MODE.a] := by
      obtain ⟨h1, h2, h3, h4⟩ := (s.at dt).modeRefuse_state hr
      exact answers_requestReady hq h ⟨rfl, rfl, rfl⟩ ⟨h3.trans hm, h1, h2, h4⟩
    refine ⟨fun hm hw => ?_, fun hm hw hc hi => ?_, fun hm hw hc hi => ?_, fun hm hw hc => ?_, fun hm => ?_,
      fun hm hd => ?_, fun hm hd hr => ?_, fun hm hd hr => ?_⟩
    · exact refuse (by decide) hm (Mach.requestReady_refused (by rw [hm]; decide) (.inr hw))
    · refine refuse (by decide) hm ?_
      rw [Mach.requestReady_safe hm hw, if_neg (not_not.mpr hc), if_pos (by rw [hi]; rfl)]
    · refine answers_requestReady hq (t := (s.at dt).setMode modeReady) ?_ ⟨rfl, rfl, rfl⟩
        ⟨Mach.setMode_mode _ (by decide), (s.at dt).wr_only _ _ (List.mem_singleton.mpr rfl)⟩
      rw [Mach.requestReady_safe hm hw, if_neg (not_not.mpr hc), if_neg (by rw [hi]; decide)]
    · refine refuse (by decide) hm ?_
      rw [Mach.requestReady_safe hm hw, if_pos hc]
    · refine refuse (by decide) rfl (Mach.requestReady_refused ?_ (.inl ?_)) <;>
        rcases hm with hm | hm <;> rw [hm] <;> decide
    · refine answers_requestReady hq (t := s.at dt) ?_ ⟨rfl, rfl, rfl⟩ rfl
      rw [Mach.requestReady_armed hm, if_pos hd]
    · refine answers_requestReady hq (t := { s.at dt with saf := { (s.at dt).saf with disarming := true } }) ?_
        ⟨rfl, rfl, rfl⟩ ⟨rfl, rfl⟩
      rw [Mach.requestReady_armed hm, if_neg (by rw [hd]; decide), Mach.disarm_underway hr]
    · have hs := Mach.disarm_atOnce hr
      obtain ⟨-, -, -, -, hf⟩ := id hs
      refine answers_requestReady hq (t := (s.at dt).disarm) ?_ ⟨?_, ?_, ?_⟩ hs
      · rw [Mach.requestReady_armed hm, if_neg (by rw [hd]; decide)]
      all_goals rw [hf]
  · rintro s dt m rfl
    exact disarmComplete_answers s dt

end Sys2Proof.Machine
end

section
/-! PROOF. The slack governor (R22, R24). -/
namespace Sys2Proof.Machine

/-! ## The set-point -/

theorem Mach.setVcore_rd (m : Mach) {v : Nat} (h : v ≤ 850) : (m.setVcore v).rd R.PWR_VCORE_SET = v := by
  unfold Mach.setVcore
  split
  · assumption
  · exact (rrd_rwr_same _ _ (by decide) (by decide)).trans (Nat.mod_eq_of_lt (Nat.lt_of_le_of_lt h (by decide)))

theorem Mach.setVcore_word_ne (m : Mach) (v : Nat) {a : Nat} (h : a ≠ R.PWR_VCORE_SET.a) :
    (m.setVcore v).word a = m.word a := by
  unfold Mach.setVcore
  split
  · rfl
  · exact rget_rwr_ne h _

theorem Mach.setVcore_frame (m : Mach) (v : Nat) : ∃ g e, m.setVcore v = { m with regs := g, env := e } := by
  unfold Mach.setVcore
  split <;> exact ⟨_, _, rfl⟩

/-! ## The governor -/

/-- The slack is above 40 % as it was at the fifteen ticks before, and VCORE stands above its floor. -/
def Mach.GovLow (m : Mach) : Prop :=
  410 ≤ m.rd R.TIM_DLW_WORST_SLACK ∧ 15 ≤ m.env.govCount ∧ m.vcoreFloor < m.rd R.PWR_VCORE_SET

/-- The set-point that the governor goes to (R22). -/
def Mach.GovTarget (m : Mach) (v : Nat) : Prop :=
  (m.rd R.TIM_DLW_WORST_SLACK ≤ 204 → v = min 850 (m.rd R.PWR_VCORE_SET + 10)) ∧
  (204 < m.rd R.TIM_DLW_WORST_SLACK → m.GovLow → v = max m.vcoreFloor (m.rd R.PWR_VCORE_SET - 5)) ∧
  (204 < m.rd R.TIM_DLW_WORST_SLACK → ¬ m.GovLow → v = m.rd R.PWR_VCORE_SET)

theorem Mach.vcoreFloor_le (m : Mach) : m.vcoreFloor ≤ 850 := by
  unfold Mach.vcoreFloor
  split <;> omega

/-- The set-point stays at 850 mV or below. -/
theorem Mach.GovTarget.le {m : Mach} {v : Nat} (h : m.GovTarget v) (hv : m.rd R.PWR_VCORE_SET ≤ 850) : v ≤ 850 := by
  obtain ⟨hup, hdown, hsame⟩ := h
  have hf := m.vcoreFloor_le
  by_cases hw : m.rd R.TIM_DLW_WORST_SLACK ≤ 204
  · have := hup hw
    omega
  · by_cases hl : m.GovLow
    · have := hdown (by omega) hl
      omega
    · have := hsame (by omega) hl
      omega

/-- The count of ticks above 40 % is full at the sixteenth of them. -/
theorem govCount_full (w c : Nat) : (if w < 410 then 0 else min govTicks (c + 1)) = govTicks ↔ 410 ≤ w ∧ 15 ≤ c := by
  unfold govTicks
  split <;> omega

/-- A tick of the governor: the set-point, and the count of ticks above 40 %. -/
theorem Mach.governVcore_spec (m : Mach) : ∃ v n, m.GovTarget v ∧
    (410 ≤ m.rd R.TIM_DLW_WORST_SLACK → m.env.govCount < 15 → n = m.env.govCount + 1) ∧
    m.governVcore = { m.setVcore v with env := { (m.setVcore v).env with govCount := n } } := by
  have hlow : ((if m.rd R.TIM_DLW_WORST_SLACK < 410 then 0 else min govTicks (m.env.govCount + 1)) = govTicks ∧
      m.vcoreFloor < m.rd R.PWR_VCORE_SET) ↔ m.GovLow := by
    rw [govCount_full, and_assoc]
    rfl
  refine ⟨_, _, ⟨fun hw => ?_, fun hw hl => ?_, fun hw hl => ?_⟩, fun hw hc => ?_, rfl⟩
  · exact if_pos hw
  · rw [if_neg (by omega), if_pos (decide_eq_true (hlow.mpr hl))]
  · rw [if_neg (by omega), if_neg (by rwa [decide_eq_true_eq, hlow])]
  · have hn : ¬ m.GovLow := fun h => absurd h.2.1 (by omega)
    rw [if_neg (by rwa [decide_eq_true_eq, hlow]), if_neg (by omega)]
    unfold govTicks
    omega

/-! ## The warning (R24) -/

theorem Mach.slackWarn_word_ne (m : Mach) {a : Nat} (h : a ∉ raiseRegs 5) : m.slackWarn.word a = m.word a := by
  unfold Mach.slackWarn
  dsimp only
  split
  · exact Mach.raise_word_ne h
  · rfl

theorem Mach.slackWarn_frame (m : Mach) :
    ∃ g o c e, m.slackWarn = { m with regs := g, out := o, cbk := c, env := e } := by
  unfold Mach.slackWarn
  dsimp only
  split <;> exact ⟨_, _, _, _, rfl⟩

theorem Mach.slackWarn_govCount (m : Mach) : m.slackWarn.env.govCount = m.env.govCount := by
  unfold Mach.slackWarn
  dsimp only
  split <;> rfl

/-- The source is raised as the slack is first at 20 % or less at 850 mV. -/
theorem Mach.slackWarn_evt {m : Mach} (hw : m.rd R.TIM_DLW_WORST_SLACK ≤ 204) (hv : m.rd R.PWR_VCORE_SET = 850)
    (ho : m.env.slackOcc = false) : m.slackWarn.evt 5 = 1 := by
  unfold Mach.slackWarn
  dsimp only
  rw [if_pos (by simp [hw, hv, ho])]
  exact Mach.raise_pend (by decide)

/-! ## The statement -/

theorem Mach.slackTick_runs {m : Mach} (ht : m.atTick = true) (hr : m.saf.msRun = true) (hp : m.pstate ≤ 2) :
    m.slackTick = m.slackWarn.governVcore := by
  unfold Mach.slackTick
  exact if_pos ⟨ht, hr, hp⟩

/-- What the governor reads is as it was before the warning: a raise writes none of those registers. -/
theorem Mach.slackWarn_reads (m : Mach) : m.slackWarn.rd R.TIM_DLW_WORST_SLACK = m.rd R.TIM_DLW_WORST_SLACK ∧
    m.slackWarn.rd R.PWR_VCORE_SET = m.rd R.PWR_VCORE_SET ∧ m.slackWarn.vcoreFloor = m.vcoreFloor := by
  have hmode : m.slackWarn.mode = m.mode := Mach.rd_congr (m.slackWarn_word_ne (by decide))
  refine ⟨Mach.rd_congr (m.slackWarn_word_ne (by decide)), Mach.rd_congr (m.slackWarn_word_ne (by decide)), ?_⟩
  unfold Mach.vcoreFloor
  rw [hmode]

theorem Mach.slackWarn_target {m : Mach} {v : Nat} : m.slackWarn.GovTarget v ↔ m.GovTarget v := by
  obtain ⟨hw, hv, hf⟩ := m.slackWarn_reads
  unfold Mach.GovTarget Mach.GovLow
  rw [hw, hv, hf, m.slackWarn_govCount]

/-- A tick of a running module: the set-point, the count, and the registers that the tick may write. -/
theorem Mach.slackTick_spec {m : Mach} (ht : m.atTick = true) (hr : m.saf.msRun = true) (hp : m.pstate ≤ 2)
    (hv : m.rd R.PWR_VCORE_SET ≤ 850) : m.GovTarget (m.slackTick.rd R.PWR_VCORE_SET) ∧
    (410 ≤ m.rd R.TIM_DLW_WORST_SLACK → m.env.govCount < 15 → m.slackTick.env.govCount = m.env.govCount + 1) ∧
    (∀ a, a ≠ R.PWR_VCORE_SET.a → m.slackTick.word a = m.slackWarn.word a) ∧
    m.slackTick =
      { m with regs := m.slackTick.regs, env := m.slackTick.env, out := m.slackTick.out, cbk := m.slackTick.cbk } := by
  obtain ⟨hw, hs, -⟩ := m.slackWarn_reads
  obtain ⟨v, n, hg, hn, he⟩ := m.slackWarn.governVcore_spec
  rw [hw, m.slackWarn_govCount] at hn
  have hle : v ≤ 850 := hg.le (by rwa [hs])
  have hrd := m.slackWarn.setVcore_rd hle
  have hword {a : Nat} (h : a ≠ R.PWR_VCORE_SET.a) := m.slackWarn.setVcore_word_ne v h
  rw [Mach.slackTick_runs ht hr hp, he]
  refine ⟨?_, hn, fun a ha => hword ha, ?_⟩
  · show m.GovTarget ((m.slackWarn.setVcore v).rd R.PWR_VCORE_SET)
    rw [hrd]
    exact Mach.slackWarn_target.mp hg
  · obtain ⟨g, e, hset⟩ := m.slackWarn.setVcore_frame v
    obtain ⟨g', o, c, e', hwarn⟩ := m.slackWarn_frame
    rw [hset, hwarn]

/-- Settles O7: the warning raises at most source 5, and the governor then sets VCORE by the slack. -/
theorem slackGovernor : Obligations.SlackGovernor := by
  rintro s dt m w v rfl ht hr hp rfl rfl hv
  refine answers_of rfl rfl ?_
  generalize s.at dt = m at ht hr hp hv ⊢
  obtain ⟨⟨hup, hdown, hsame⟩, hcount, hword, hframe⟩ := Mach.slackTick_spec ht hr hp hv
  have hlow : m.GovLow ↔ 410 ≤ m.rd R.TIM_DLW_WORST_SLACK ∧ 15 ≤ m.env.govCount ∧
    m.vcoreFloor < m.rd R.PWR_VCORE_SET := Iff.rfl
  refine ⟨hup, fun hw hw' => ?_, fun hw hc => ⟨?_, hcount hw hc⟩, fun hw hc => ?_, fun hw hs ho => ?_,
    fun a ha => ?_, hframe⟩
  · exact hsame hw (by rw [hlow]; omega)
  · exact hsame (by omega) (by rw [hlow]; omega)
  · show _ = if m.vcoreFloor < m.rd R.PWR_VCORE_SET then max m.vcoreFloor (m.rd R.PWR_VCORE_SET - 5)
      else m.rd R.PWR_VCORE_SET
    split
    · next hf => exact hdown (by omega) (hlow.mpr ⟨hw, hc, hf⟩)
    · next hf => exact hsame (by omega) fun h => hf (hlow.mp h).2.2
  · exact (Mach.rd_congr (hword _ (by decide))).trans (Mach.slackWarn_evt hw hs ho)
  · rw [List.mem_cons, not_or] at ha
    obtain ⟨hv, hraise⟩ := ha
    exact (hword a hv).trans (m.slackWarn_word_ne hraise)

end Sys2Proof.Machine
end

section
/-! PROOF. Two statements that do not hold of every state they speak of: what a write of NAME_HI leaves when a
block has changed the register in the same instant, and what a swap leaves when a coefficient saturates. -/
namespace Sys2Proof.Machine

/-- What is claimed of a command's answer holds of its operation on the module at its instant. -/
theorem Answers.effect {c : Instr} {s : State} {P : Mach → Prop} (h : Answers c s P) :
    P (effectOf c (s.at (ticksOf c))) := by
  obtain ⟨t, he, ht⟩ := h
  rw [exec_eq_effectOf, Host.Outcome.next.injEq] at he
  have hm : effectOf c (s.at (ticksOf c)) = t := congrArg State.m he
  exact hm ▸ ht

/-! ## 64-bit pairs -/

/-- Every domain answers, and CTX_START_HI of context 0 of field 0 has gone from 0 to 5 in the present instant. -/
def startUpdated : State :=
  { State.reset with m := State.reset.m.wrs [(R.HS_BOOT_DOMOPEN, 255), (R.FE_CTX_START_HI 0 0, 5)] }

/-- R9: the host's 0 clears what stood as the instant began, and the update of the instant stays. -/
theorem startUpdated_hiWrite :
    (effectOf (.hiWriteCommit 0 0x200404 0) (startUpdated.at 0)).rd (R.FE_CTX_START_HI 0 0) = 5 := by
  decide +kernel

/-- Refutes O4: a 0 written to CTX_START_HI at the instant of an update of it leaves the update (R9, `Fd.after`), and
not the written 0.  The statement lacks the premise that the words of the pair stand as the instant began. -/
theorem not_pairsCommitAndLatch : ¬ Obligations.PairsCommitAndLatch := by
  intro h
  obtain ⟨-, -, hnone, -⟩ := h startUpdated 0 0 0 _ 0x200403 0x200404 rfl (by decide) (by decide) (by decide +kernel)
  obtain ⟨hhi, -⟩ := (hnone 0 (by decide)).effect
  exact absurd (startUpdated_hiWrite.symm.trans hhi) (by decide)

/-! ## Swaps of coefficient banks -/

/-- A program for slot 0, an INT on its first state register and END (R189), with a gain in force that is 2^149 times
that of the shadow bank: the state rescaled at a swap leaves the range of a block (R187, R203). -/
def saturatingRegs : List (RF × Nat) :=
  [(R.HS_BOOT_DOMOPEN, 255), (R.CE_PROG 0 0, 0x11 * 2 ^ 26 + 24 * 2 ^ 21 + 16 * 2 ^ 11), (R.CE_PROG 0 1, 1 * 2 ^ 26),
   (R.CE_SREGM 0 0 0, 0x400000), (R.CE_SREGE 0 0, 127), (R.CE_BANKM 0 0 0 0, 0x400000), (R.CE_BANKE 0 0 0, 127),
   (R.CE_BANKM 0 1 0 0, 1)]

def swapSaturates : State := { State.reset with m := State.reset.m.wrs saturatingRegs }

/-- R203, R205: the saturation at the swap sets AOVF, and source 74 is raised with its record. -/
theorem swapSaturates_raises : let t := effectOf (.swapRequest 0 0) (swapSaturates.at 0)
    t.rd (R.CE_SLOT_STATUS_AOVF 0) = 1 ∧ t.evt 74 = 1 ∧ t.cbk.queue.length = 1 := by
  decide +kernel

/-- Refutes O25: a swap that acts at once in a slot that is OFF may saturate a rescaled state; it then raises source
74, whose record enters the cellar book's queue, and the statement's clause lets only slots and registers change. -/
theorem not_slotCommands : ¬ Obligations.SlotCommands := by
  intro h
  obtain ⟨-, -, hoff, -⟩ := h swapSaturates 0 0 _ _ rfl rfl (by decide +kernel)
  obtain ⟨-, -, -, -, hswap, -⟩ := hoff (by decide +kernel) (by decide +kernel)
  obtain ⟨-, -, -, -, hframe⟩ := (hswap (by decide +kernel)).effect
  have hqueue := congrArg (fun t : Mach => t.cbk.queue.length) hframe
  obtain ⟨-, -, hrec⟩ := swapSaturates_raises
  exact absurd (hrec.symm.trans hqueue) (by decide +kernel)

end Sys2Proof.Machine
end


section
/-! PROOF. Fields of registers that several writes share, and what the fault of a field may touch. -/
namespace Sys2Proof.Machine

/-! ## Fields of one register -/

/-- Two fields share no bit: they lie in different registers, or apart in one. -/
@[reducible] def RF.Apart (r r' : RF) : Prop := r'.a ≠ r.a ∨ r'.msb < r.lsb ∨ r.msb < r'.lsb

/-- A field write leaves every field that shares no bit with it. -/
theorem rrd_rwr_apart {g : Sparse Word} {r r' : RF} (v : Nat) (hr : r.lsb ≤ r.msb) (hr' : r'.msb < 32)
    (h : r.Apart r') : rrd (rwr g r v) r' = rrd g r' := by
  by_cases ha : r'.a = r.a
  · rcases h with h | h | h
    · exact absurd ha h
    · exact rrd_rwr_below r r' v ha hr h hr'
    · exact rrd_rwr_above r r' v ha hr h hr'
  · exact rrd_rwr_ne r r' v ha

theorem rrd_rwrs_apart {r' : RF} (hr' : r'.msb < 32) (ws : List (RF × Nat)) (g : Sparse Word)
    (h : ∀ p ∈ ws, p.1.lsb ≤ p.1.msb ∧ p.1.Apart r') : rrd (rwrs g ws) r' = rrd g r' := by
  induction ws generalizing g with
  | nil => rfl
  | cons p ws ih =>
    obtain ⟨⟨hp, ha⟩, hws⟩ := List.forall_mem_cons.mp h
    exact (ih _ hws).trans (rrd_rwr_apart p.2 hp hr' ha)

/-- Of several field writes, the one after which no other touches its bits is read back. -/
theorem rrd_rwrs_written {r : RF} {v : Nat} (ws ws' : List (RF × Nat)) (g : Sparse Word) (hr : r.lsb ≤ r.msb)
    (hr' : r.msb < 32) (h : ∀ p ∈ ws', p.1.lsb ≤ p.1.msb ∧ p.1.Apart r) :
    rrd (rwrs g (ws ++ (r, v) :: ws')) r = v % 2 ^ (r.msb + 1 - r.lsb) := by
  have happ : rwrs g (ws ++ (r, v) :: ws') = rwrs (rwr (rwrs g ws) r v) ws' := List.foldl_append ..
  rw [happ, rrd_rwrs_apart hr' ws' _ h, rrd_rwr_same r v hr hr']

/-! ## Contexts that wait, and entries queued -/

/-- No context of `t` waits that did not wait in `m`. -/
def Mach.NoNewWait (m t : Mach) : Prop := ∀ x, (m.ctx x).wait = none → (t.ctx x).wait = none

theorem Mach.NoNewWait.quiet {m t : Mach} (h : m.NoNewWait t) (hq : m.Quiet) : t.Quiet :=
  Mach.quiet_iff.mpr fun x => h x (Mach.quiet_iff.mp hq x)

/-- Contexts lie in the fields, in COO and in the axes. -/
theorem Mach.NoNewWait.of_parts {m t : Mach}
    (hf : ∀ (n : Fin 16) (c : Fin 8), m.fe[n].ctx[c].wait = none → t.fe[n].ctx[c].wait = none)
    (hc : t.coo = m.coo) (ha : ∀ a : Fin 8, t.axis[a].ctx = m.axis[a].ctx) : m.NoNewWait t := by
  intro x hx
  cases x with
  | fe n c => exact hf n c hx
  | coo c =>
    show t.coo[c].wait = none
    rw [hc]
    exact hx
  | axe a =>
    show t.axis[a].ctx.wait = none
    rw [ha]
    exact hx

/-- One field changes, whose contexts wait no more than before. -/
theorem Mach.NoNewWait.of_field {m t : Mach} {n : Fin 16} {f : Field} (hf : t.fe = m.fe.set n f)
    (h : ∀ c : Fin 8, m.fe[n].ctx[c].wait = none → f.ctx[c].wait = none) (hc : t.coo = m.coo)
    (ha : t.axis = m.axis) : m.NoNewWait t := by
  refine Mach.NoNewWait.of_parts (fun k c hx => ?_) hc fun a => by rw [ha]
  rw [hf]
  by_cases hk : k = n
  · subst hk
    rw [set_fin_self]
    exact h c hx
  · rwa [set_fin_ne _ _ hk]

/-- What a fault or a late entry leaves alone: no context begins to wait, and no stage has an entry it had not. -/
def Mach.Subsides (m t : Mach) : Prop := m.NoNewWait t ∧ ∀ e, (t.stage e).q ⊆ (m.stage e).q

theorem Mach.Subsides.trans {m t u : Mach} (h : m.Subsides t) (h' : t.Subsides u) : m.Subsides u :=
  ⟨fun x hx => h'.1 x (h.1 x hx), fun e => List.Subset.trans (h'.2 e) (h.2 e)⟩

theorem Mach.Subsides.refl (m : Mach) : m.Subsides m := ⟨fun _ => id, fun _ => List.Subset.refl _⟩

theorem stage_congr {m t : Mach} (h : t.stages = m.stages) (e : Edge) : t.stage e = m.stage e := by
  unfold Mach.stage
  rw [h]

theorem Mach.Subsides.of_stages {m t : Mach} (h : m.NoNewWait t) (hs : t.stages = m.stages) : m.Subsides t :=
  ⟨h, fun e => by rw [stage_congr hs]; exact List.Subset.refl _⟩

/-- Neither contexts nor stages change. -/
theorem Mach.Subsides.of_eq {m t : Mach} (hs : t.stages = m.stages) (hf : t.fe = m.fe) (hc : t.coo = m.coo)
    (ha : t.axis = m.axis) : m.Subsides t :=
  .of_stages (.of_parts (fun n c hx => by rwa [hf]) hc fun a => by rw [ha]) hs

/-- A stage whose entries are dropped is empty; the others stand. -/
theorem stageOf_dropStage (l : List (Edge × Stage)) (d e : Edge) :
    stageOf (dropStage l d) e = if e = d then ⟨[], [], none⟩ else stageOf l e := by
  unfold stageOf dropStage
  induction l with
  | nil => simp
  | cons p l ih =>
    obtain ⟨k, s⟩ := p
    by_cases hk : k = d
    · subst hk
      rw [List.filter_cons_of_neg (by simp), ih]
      split
      · rfl
      · next he => rw [List.lookup_cons, beq_false_of_ne he]
    · rw [List.filter_cons_of_pos (by simpa using hk), List.lookup_cons, List.lookup_cons]
      by_cases he : e = k
      · subst he
        simp [hk]
      · rw [beq_false_of_ne he]
        exact ih

theorem stage_dropStage_subset (m t : Mach) {d : Edge} (h : t.stages = dropStage m.stages d) (e : Edge) :
    (t.stage e).q ⊆ (m.stage e).q := by
  unfold Mach.stage
  rw [h, stageOf_dropStage]
  split
  · exact List.nil_subset _
  · exact List.Subset.refl _

/-! ## The fault of a field -/

/-- Registers that a fault of a field may write: the field's engine, its fail-safe state, TRL_STUCK, and what the raise
of its source writes. -/
def faultWrites (n : Fin 16) (a : Nat) : Prop :=
  0x800000 + n * 0x40000 ≤ a ∧ a < 0x840000 + n * 0x40000 ∨ 0x41000 + n * 0x40 ≤ a ∧ a < 0x41040 + n * 0x40 ∨
  a = R.TRL_STUCK.a ∨ a ∈ raiseRegs (80 + n)

/-- A fault of field `n` leaves the other fields, their pins, and the registers that no such fault writes. -/
def Mach.FaultsOnly (m t : Mach) (n : Fin 16) : Prop :=
  (∀ a, ¬ faultWrites n a → t.word a = m.word a) ∧ ∀ k : Fin 16, k ≠ n → t.fe[k] = m.fe[k] ∧ t.pins[k] = m.pins[k]

theorem Mach.FaultsOnly.trans {m t u : Mach} {n : Fin 16} (h : m.FaultsOnly t n) (h' : t.FaultsOnly u n) :
    m.FaultsOnly u n := by
  obtain ⟨hw, hk⟩ := h
  obtain ⟨hw', hk'⟩ := h'
  exact ⟨fun a ha => (hw' a ha).trans (hw a ha),
    fun k hn => ⟨(hk' k hn).1.trans (hk k hn).1, (hk' k hn).2.trans (hk k hn).2⟩⟩

theorem Mach.FaultsOnly.refl (m : Mach) (n : Fin 16) : m.FaultsOnly m n := ⟨fun _ _ => rfl, fun _ _ => ⟨rfl, rfl⟩⟩

/-- A field of the engine or of the fail-safe state stands in a register that a fault may write. -/
theorem rget_rwrs_fault {n : Fin 16} {a : Nat} (g : Sparse Word) (ws : List (RF × Nat)) (ha : ¬ faultWrites n a)
    (h : ∀ p ∈ ws, faultWrites n p.1.a) : rget (rwrs g ws) a = rget g a :=
  rget_rwrs_ne ws g fun p hp e => ha (e ▸ h p hp)

end Sys2Proof.Machine
end

section
/-! PROOF. The fault of a field: what it writes, and that it stops the field (R469 to R471, R490). -/
namespace Sys2Proof.Machine

/-! The outputs of the field -/

theorem Mach.outputsSafe_regs (m : Mach) (n : Fin 16) (doubt : Bool) : (m.outputsSafe n doubt).regs =
    rwr (if doubt then rwr m.regs (R.SAF_FS_STATUS_GEN n) 0 else m.regs) (R.FE_LCH_COUT n) 0 := rfl

theorem Mach.outputsSafe_word_ne (m : Mach) {n : Fin 16} (doubt : Bool) {a : Nat} (ha : ¬ faultWrites n a) :
    (m.outputsSafe n doubt).word a = m.word a := by
  unfold faultWrites at ha
  have hc : a ≠ (R.FE_LCH_COUT n).a := by
    simp only [R.FE_LCH_COUT]
    omega
  have hg : a ≠ (R.SAF_FS_STATUS_GEN n).a := by
    simp only [R.SAF_FS_STATUS_GEN]
    omega
  rw [Mach.word, m.outputsSafe_regs, rget_rwr_ne hc]
  cases doubt with
  | true => exact rget_rwr_ne hg 0
  | false => rfl

theorem Mach.outputsSafe_frame_of (m : Mach) (n : Fin 16) (doubt : Bool) : ∃ g p e,
    (p.lgate = false ∧ p.lmod = false ∧ p.lpwr = 0) ∧ (doubt = true → p.gen = false) ∧ m.outputsSafe n doubt =
      { m with regs := g, pins := m.pins.set n p, stages := dropStage m.stages (.gate n), fe := e } :=
  ⟨_, m.pins[n].failSafe _ _ doubt, _, ⟨rfl, rfl, rfl⟩, fun h => by simp [FieldPins.failSafe, h], rfl⟩

/-! A fault, joined or entered: the outputs, the field's record and the registers that report it -/

/-- The outputs of field `n` are in their fail-safe state, its record is `f`, and the writes `ws` have been made. -/
def Mach.faulted (m : Mach) (n : Fin 16) (doubt : Bool) (f : Field) (ws : List (RF × Nat)) : Mach :=
  { m.outputsSafe n doubt with fe := m.fe.set n f, regs := rwrs (m.outputsSafe n doubt).regs ws }

/-- The field is in fail-safe, its laser outputs dark and its galvo off (R469). -/
def Mach.Stopped (m : Mach) (n : Fin 16) : Prop := m.inFs n = true ∧ m.Dark n ∧ m.pins[n].gen = false

theorem Mach.inFs_iff {m : Mach} {n : Fin 16} : m.inFs n = true ↔ rrd m.regs (R.SAF_FS_STATUS_FS n) = 1 := beq_iff_eq

section
variable (m : Mach) (n : Fin 16) (doubt : Bool) (f : Field) (ws : List (RF × Nat))

theorem Mach.faulted_regs : (m.faulted n doubt f ws).regs = rwrs (m.outputsSafe n doubt).regs ws := rfl

theorem Mach.faulted_frame : ∃ g p, (p.lgate = false ∧ p.lmod = false ∧ p.lpwr = 0) ∧ (doubt = true → p.gen = false) ∧
    m.faulted n doubt f ws =
      { m with regs := g, pins := m.pins.set n p, stages := dropStage m.stages (.gate n), fe := m.fe.set n f } := by
  obtain ⟨g, p, e, hd, hg, he⟩ := m.outputsSafe_frame_of n doubt
  refine ⟨rwrs g ws, p, hd, hg, ?_⟩
  unfold Mach.faulted
  rw [he]

variable {f ws}

theorem Mach.faulted_only (h : ∀ p ∈ ws, faultWrites n p.1.a) : m.FaultsOnly (m.faulted n doubt f ws) n := by
  refine ⟨fun a ha => ?_, fun k hk => ?_⟩
  · rw [Mach.word, m.faulted_regs, rget_rwrs_fault _ _ ha h]
    exact m.outputsSafe_word_ne doubt ha
  · obtain ⟨g, p, -, -, he⟩ := m.faulted_frame n doubt f ws
    rw [he]
    exact ⟨set_fin_ne _ _ hk, set_fin_ne _ _ hk⟩

theorem Mach.faulted_subsides (h : ∀ c : Fin 8, m.fe[n].ctx[c].wait = none → f.ctx[c].wait = none) :
    m.Subsides (m.faulted n doubt f ws) := by
  obtain ⟨g, p, -, -, he⟩ := m.faulted_frame n doubt f ws
  rw [he]
  exact ⟨.of_field rfl h rfl rfl, stage_dropStage_subset m _ rfl⟩

theorem Mach.faulted_stopped (h : (m.faulted n true f ws).inFs n = true) : (m.faulted n true f ws).Stopped n := by
  refine ⟨h, ?_⟩
  obtain ⟨g, p, hp, hg, he⟩ := m.faulted_frame n true f ws
  have hself : (m.pins.set n p)[n] = p := set_fin_self m.pins n p
  unfold Mach.Dark
  rw [he, hself]
  exact ⟨hp, hg rfl⟩

end

theorem Mach.outputsSafe_ctx (m : Mach) (n : Fin 16) (doubt : Bool) :
    (m.outputsSafe n doubt).fe[n].ctx = m.fe[n].ctx := by
  show (m.fe.set n _)[n].ctx = _
  rw [set_fin_self]

theorem Mach.joinCause_eq (m : Mach) (n : Fin 16) (cause : Nat) (doubt : Bool) : ∃ f ws, f.ctx = m.fe[n].ctx ∧
    (∀ p ∈ ws, faultWrites n p.1.a ∧ p.1.lsb ≤ p.1.msb ∧ p.1.Apart (R.SAF_FS_STATUS_FS n)) ∧
    m.joinCause n cause doubt = m.faulted n doubt f ws := by
  refine ⟨_, _, ?_, ?_, rfl⟩
  · exact m.outputsSafe_ctx n doubt
  · simp only [List.forall_mem_cons, RF.Apart, faultWrites, R.SAF_FS_STATUS_CAUSE, R.FE_FAULT_CAUSE,
      R.SAF_FS_STATUS_RECOV, R.SAF_FS_STATUS_DOUBT, R.SAF_FS_STATUS_FS]
    refine ⟨?_, ?_, ?_, ?_, fun _ h => absurd h List.not_mem_nil⟩ <;> omega

/-- In a field in fail-safe the outputs are made safe again, and it stays there. -/
theorem Mach.joinCause_stopped {m : Mach} {n : Fin 16} (cause : Nat) (h : m.inFs n = true) :
    (m.joinCause n cause true).Stopped n := by
  obtain ⟨f, ws, -, hws, he⟩ := m.joinCause_eq n cause true
  have hcout : (R.SAF_FS_STATUS_FS n).a ≠ (R.FE_LCH_COUT n).a := by
    simp only [R.SAF_FS_STATUS_FS, R.FE_LCH_COUT]
    omega
  have hgen : rrd (rwr m.regs (R.SAF_FS_STATUS_GEN n) 0) (R.SAF_FS_STATUS_FS n) = rrd m.regs (R.SAF_FS_STATUS_FS n) :=
    rrd_wr_below (by omega) (by omega) (by omega)
  rw [he]
  refine m.faulted_stopped n (Mach.inFs_iff.mpr ?_)
  rw [m.faulted_regs, rrd_rwrs_apart (show 0 < 32 by decide) ws _ fun p hp => (hws p hp).2, m.outputsSafe_regs,
    rrd_rwr_ne _ _ _ hcout, if_pos rfl, hgen]
  exact Mach.inFs_iff.mp h

/-! The dwell that a fault ends -/


/-- A change of a field's record that leaves its contexts. -/
theorem Mach.setField_subsides {m : Mach} {n : Fin 16} {f : Field} (h : f.ctx = m.fe[n].ctx) : m.Subsides (m.setField n f) :=
  .of_stages (.of_field rfl (fun c hx => by rwa [h]) rfl rfl) rfl

/-- Registers are written, and nothing else changes that a late entry leaves alone. -/
theorem Mach.wr64_subsides (m : Mach) (lo hi : RF) (v : Nat) : m.Subsides (m.wr64 lo hi v) :=
  .of_eq (by simp) (by simp) (by simp) (by simp)

theorem Mach.wr_subsides (m : Mach) (r : RF) (v : Nat) : m.Subsides (m.wr r v) :=
  .of_eq (by simp) (by simp) (by simp) (by simp)

theorem Mach.setField_only (m : Mach) (n : Fin 16) (f : Field) : m.FaultsOnly (m.setField n f) n :=
  ⟨fun _ _ => rfl, fun _ hk => ⟨set_fin_ne _ _ hk, rfl⟩⟩

theorem Mach.wr_faultsOnly (m : Mach) {n : Fin 16} {r : RF} (v : Nat) (h : faultWrites n r.a) :
    m.FaultsOnly (m.wr r v) n :=
  ⟨fun a ha => rget_rwr_ne (fun e : a = r.a => ha (by rwa [e])) v, fun _ _ => ⟨rfl, rfl⟩⟩

theorem Mach.wr64_faultsOnly (m : Mach) {n : Fin 16} {lo hi : RF} (v : Nat) (h : faultWrites n lo.a)
    (h' : faultWrites n hi.a) : m.FaultsOnly (m.wr64 lo hi v) n :=
  (m.wr_faultsOnly v h).trans ((m.wr lo v).wr_faultsOnly (v / 2 ^ 32) h')

theorem Mach.unstick_spec (m : Mach) (n : Fin 16) : m.FaultsOnly (m.unstick n) n ∧ m.Subsides (m.unstick n) := by
  have hlo : faultWrites n (R.FE_TRL_BOOK_LO n).a := .inl (by simp only [R.FE_TRL_BOOK_LO]; omega)
  have hhi : faultWrites n (R.FE_TRL_BOOK_HI n).a := .inl (by simp only [R.FE_TRL_BOOK_HI]; omega)
  have hstuck : faultWrites n (⟨R.TRL_STUCK.a, n, n⟩ : RF).a := .inr (.inr (.inl rfl))
  obtain ⟨hset, hset'⟩ : m.FaultsOnly (m.setField n { m.fe[n] with gtoDone := false }) n ∧
      m.Subsides (m.setField n { m.fe[n] with gtoDone := false }) := ⟨m.setField_only n _, Mach.setField_subsides rfl⟩
  unfold Mach.unstick
  generalize m.setField n { m.fe[n] with gtoDone := false } = u at hset hset' ⊢
  exact ⟨hset.trans ((u.wr_faultsOnly 0 hstuck).trans (Mach.wr64_faultsOnly _ 0 hlo hhi)),
    hset'.trans ((u.wr_subsides _ 0).trans (Mach.wr64_subsides ..))⟩

/-- A dwell that ends: the class's count is written, and in class 2 the booking goes (R141). -/
theorem Mach.dwellEnd_spec (m : Mach) (n : Fin 16) : m.FaultsOnly (m.dwellEnd n) n ∧ m.Subsides (m.dwellEnd n) := by
  unfold Mach.dwellEnd Mach.dwellClose Mach.modField
  split
  · exact ⟨.refl m n, .refl m⟩
  · next t c _ =>
    have hlo : faultWrites n (R.FE_DWELL_LO n c).a := .inl (by simp only [R.FE_DWELL_LO]; omega)
    have hhi : faultWrites n (R.FE_DWELL_HI n c).a := .inl (by simp only [R.FE_DWELL_HI]; omega)
    have honly (v : Nat) := (m.setField_only n { m.fe[n] with dwell := none }).trans (Mach.wr64_faultsOnly _ v hlo hhi)
    have hsub (v : Nat) : m.Subsides (Mach.wr64 _ _ _ v) :=
      (Mach.setField_subsides (f := { m.fe[n] with dwell := none }) rfl).trans
        (Mach.wr64_subsides _ (R.FE_DWELL_LO n c) (R.FE_DWELL_HI n c) v)
    dsimp only
    split
    · exact ⟨(honly _).trans (Mach.unstick_spec _ n).1, (hsub _).trans (Mach.unstick_spec _ n).2⟩
    · exact ⟨honly _, hsub _⟩

/-! The entry into fail-safe -/

theorem CtxRec.held_wait {r : CtxRec} {b : Bool} {cause : Nat} (h : r.wait = none) : (r.held b cause).wait = none := by
  unfold CtxRec.held
  split
  · rfl
  · split
    · rfl
    · exact h

theorem Field.enterFs_wait {f : Field} {t cause : Nat} {b : Bool} {ramp : PSeg} {c : Fin 8} (h : f.ctx[c].wait = none) :
    (f.enterFs t cause b ramp).ctx[c].wait = none := by
  have hc : (f.enterFs t cause b ramp).ctx[c] = f.ctx[c].held (b && c == (f.stopRec t cause).ctx) cause := by
    unfold Field.enterFs
    simp
  rw [hc]
  exact CtxRec.held_wait h

/-- The entry: the dwell has ended, the field stands faulted, and source 80 + n is raised. -/
theorem Mach.enterFs_eq (m : Mach) (n : Fin 16) (cause : Nat) (byctx doubt : Bool) : ∃ f ws p,
    (∀ c : Fin 8, (m.dwellEnd n).fe[n].ctx[c].wait = none → f.ctx[c].wait = none) ∧
    (∀ p ∈ ws, faultWrites n p.1.a) ∧
    (∀ g, rrd (rwrs g ws) (R.SAF_FS_STATUS_FS n) = 1) ∧
    m.enterFs n cause byctx doubt = ((m.dwellEnd n).faulted n doubt f ws).raiseP (80 + n) cause p := by
  refine ⟨_, _, _, fun c hx => ?_, ?_, fun g => ?_, rfl⟩
  · exact Field.enterFs_wait hx
  · simp only [List.forall_mem_cons, faultWrites, R.FE_FAULT_CAUSE, R.FE_FAULT_CTX, R.FE_FAULT_BYCTX,
      R.FE_FAULT_PC_LO, R.FE_FAULT_PC_HI, R.SAF_FS_STATUS_FS, R.SAF_FS_STATUS_DOUBT, R.SAF_FS_STATUS_RECOV,
      R.SAF_FS_STATUS_WINEXP, R.SAF_FS_STATUS_LEDOK, R.SAF_FS_STATUS_CAUSE, R.SAF_FS_FAULT_MT_LO, R.SAF_FS_FAULT_MT_HI]
    refine ⟨?_, ?_, ?_, ?_, ?_, ?_, ?_, ?_, ?_, ?_, ?_, ?_, ?_, fun _ h => absurd h List.not_mem_nil⟩ <;> omega
  · refine rrd_rwrs_written [_, _, _, _, _] _ g (Nat.le_refl 0) (show 0 < 32 by decide) ?_
    simp only [List.forall_mem_cons, RF.Apart, R.SAF_FS_STATUS_FS, R.SAF_FS_STATUS_DOUBT, R.SAF_FS_STATUS_RECOV,
      R.SAF_FS_STATUS_WINEXP, R.SAF_FS_STATUS_LEDOK, R.SAF_FS_STATUS_CAUSE, R.SAF_FS_FAULT_MT_LO, R.SAF_FS_FAULT_MT_HI]
    refine ⟨?_, ?_, ?_, ?_, ?_, ?_, ?_, fun _ h => absurd h List.not_mem_nil⟩ <;> omega

/-! What a fault leaves -/

theorem Mach.raiseP_faultsOnly (m : Mach) (n : Fin 16) (code : Nat) (p : List Byte) :
    m.FaultsOnly (m.raiseP (80 + n) code p) n :=
  ⟨fun _ ha => m.raiseP_word_ne fun h => ha (.inr (.inr (.inr h))), fun _ _ => by simp⟩

theorem Mach.raiseP_subsides (m : Mach) (src code : Nat) (p : List Byte) : m.Subsides (m.raiseP src code p) :=
  .of_eq (by simp) (by simp) (by simp) (by simp)

theorem Mach.fieldFault_only (m : Mach) (n : Fin 16) (cause : Nat) (byctx doubt : Bool) :
    m.FaultsOnly (m.fieldFault n cause byctx doubt) n := by
  unfold Mach.fieldFault
  split
  · obtain ⟨f, ws, -, hws, he⟩ := m.joinCause_eq n cause doubt
    rw [he]
    exact m.faulted_only n doubt fun p hp => (hws p hp).1
  · obtain ⟨f, ws, p, -, hws, -, he⟩ := m.enterFs_eq n cause byctx doubt
    rw [he]
    exact (m.dwellEnd_spec n).1.trans ((Mach.faulted_only _ n doubt hws).trans (Mach.raiseP_faultsOnly _ n cause p))

theorem Mach.fieldFault_subsides (m : Mach) (n : Fin 16) (cause : Nat) (byctx doubt : Bool) :
    m.Subsides (m.fieldFault n cause byctx doubt) := by
  unfold Mach.fieldFault
  split
  · obtain ⟨f, ws, hf, -, he⟩ := m.joinCause_eq n cause doubt
    rw [he]
    exact m.faulted_subsides n doubt fun c hx => by rwa [hf]
  · obtain ⟨f, ws, p, hf, -, -, he⟩ := m.enterFs_eq n cause byctx doubt
    rw [he]
    exact (m.dwellEnd_spec n).2.trans ((Mach.faulted_subsides _ n doubt hf).trans (Mach.raiseP_subsides ..))

/-- A raise of a field's source leaves the field stopped. -/
theorem Mach.Stopped.raiseP {m : Mach} {n : Fin 16} (h : m.Stopped n) (code : Nat) (p : List Byte) :
    (m.raiseP (80 + n) code p).Stopped n := by
  obtain ⟨hfs, hdark, hgen⟩ := h
  have hword : (m.raiseP (80 + n) code p).word (R.SAF_FS_STATUS_FS n).a = m.word (R.SAF_FS_STATUS_FS n).a := by
    refine m.raiseP_word_ne ?_
    simp only [raiseRegs, R.SAF_FS_STATUS_FS, R.HS_EVT_PEND, R.HSQ_PBA, R.CBK_QLEVEL_QMAX, R.CBK_ANGEL, List.mem_cons,
      List.not_mem_nil, or_false]
    omega
  refine ⟨Mach.inFs_iff.mpr ((Mach.rd_congr hword).trans (Mach.inFs_iff.mp hfs)), ?_, ?_⟩
  · unfold Mach.Dark
    rw [Mach.raiseP_pins]
    exact hdark
  · rw [Mach.raiseP_pins]
    exact hgen

/-- R469, R471: a fault with doubt stops the field, whether it was in fail-safe or not. -/
theorem Mach.fieldFault_stopped (m : Mach) (n : Fin 16) (cause : Nat) (byctx : Bool) :
    (m.fieldFault n cause byctx true).Stopped n := by
  unfold Mach.fieldFault
  split
  · next h => exact Mach.joinCause_stopped cause h
  · obtain ⟨f, ws, p, -, -, hfs, he⟩ := m.enterFs_eq n cause byctx true
    rw [he]
    exact (Mach.faulted_stopped _ n (Mach.inFs_iff.mpr (hfs _))).raiseP cause p

end Sys2Proof.Machine
end

section
/-! PROOF. Executions of a slot and their misses (R60, R195, R196). -/
namespace Sys2Proof.Machine

/-! ## The registers of a slot -/

/-- An address among the registers of the slots. -/
def SlotReg (a : Nat) : Prop := 0x401000 ≤ a ∧ a < 0x403800

theorem SlotReg.notMem_raiseRegs {a src : Nat} (h : SlotReg a) (hs : src < 256) : a ∉ raiseRegs src := by
  obtain ⟨hlo, hhi⟩ := h
  simp only [raiseRegs, R.HS_EVT_PEND, R.HSQ_PBA, R.CBK_QLEVEL_QMAX, R.CBK_ANGEL, List.mem_cons, List.not_mem_nil,
    or_false]
  omega

theorem SlotReg.not_faultWrites {a : Nat} (h : SlotReg a) (n : Fin 16) : ¬ faultWrites n a := by
  have hr : a ∉ raiseRegs (80 + n) := h.notMem_raiseRegs (by omega)
  obtain ⟨hlo, hhi⟩ := h
  rintro (hf | hf | hf | hf)
  · omega
  · omega
  · exact absurd (hf ▸ hhi) (by decide)
  · exact hr hf

theorem Mach.wr_word_ne (m : Mach) {r : RF} (v : Nat) {a : Nat} (h : a ≠ r.a) : (m.wr r v).word a = m.word a :=
  rget_rwr_ne h v

theorem Mach.wrs_word_ne (m : Mach) {ws : List (RF × Nat)} {a : Nat} (h : ∀ p ∈ ws, a ≠ p.1.a) :
    (m.wrs ws).word a = m.word a :=
  rget_rwrs_ne ws m.regs h

/-! ## A miss -/

theorem Mach.raiseOnce_word_ne (m : Mach) {src code inst value a : Nat} (h : a ∉ raiseRegs src) :
    (m.raiseOnce src code inst value).word a = m.word a := by
  unfold Mach.raiseOnce
  split
  · rfl
  · exact m.raise_word_ne (inst := inst) (value := value) h

/-- The registers of a late entry: its class's count, what was late last, and the raise (R58). -/
theorem Mach.noteLate_word_ne (m : Mach) {cls inst a : Nat} {order : Bool} (hc : a ≠ (R.TIM_LATE cls).a)
    (hl : a ≠ R.TIM_LATE_LAST_CLASS.a) (hr : a ∉ raiseRegs 20) : (m.noteLate cls inst order).word a = m.word a := by
  unfold Mach.noteLate
  refine (Mach.raise_word_ne hr).trans ?_
  rw [Mach.wrs_regs, rget_rwrs_ne _ _ fun p hp => ?_]
  · exact rget_rinc_ne hc
  · simp only [List.mem_cons, List.not_mem_nil, or_false] at hp
    rcases hp with rfl | rfl | rfl <;> exact hl

/-- LOOPMISS, or source 75 and a stop, write no register of a slot (R196). -/
theorem Mach.loopMiss_word (m : Mach) (s : Fin 160) {a : Nat} (h : SlotReg a) : (m.loopMiss s).word a = m.word a := by
  unfold Mach.loopMiss
  split
  · next hn =>
    obtain ⟨hword, -⟩ := Mach.fieldFault_only (m.setSlot s { m.slot[s] with missed := true }) ⟨m.slotField s, hn⟩ cLoopmiss
      false (m.servoSlot s)
    exact hword a (h.not_faultWrites _)
  · exact Mach.raise_word_ne (h.notMem_raiseRegs (by decide))

/-- A miss writes OVR, CONSEC and the miss counter of its slot, and no other register of a slot (R195). -/
theorem Mach.slotMiss_word (m : Mach) (s : Fin 160) (order : Bool) {a : Nat} (h : SlotReg a) :
    (m.slotMiss s order).word a = ((m.inc (R.CE_SLOT_MISS_MISS s)).wrs
      [(R.CE_SLOT_STATUS_OVR s, 1), (R.CE_SLOT_STATUS_CONSEC s, min 15 (m.rd (R.CE_SLOT_STATUS_CONSEC s) + 1))]).word a := by
  have hcore : m.rd (R.CE_SLOT_CFG_CORE s) < 8 := rrd_lt (R.CE_SLOT_CFG_CORE s).a 18 16
  obtain ⟨hlo, hhi⟩ := id h
  have hlate : a ≠ (R.TIM_LATE 1).a ∧ a ≠ R.TIM_LATE_LAST_CLASS.a := by
    simp only [R.TIM_LATE, R.TIM_LATE_LAST_CLASS]
    omega
  unfold Mach.slotMiss
  dsimp only
  generalize Mach.wrs _ _ = t
  have hraise (inst value : Nat) : ((t.noteLate 1 (t.slotInst s) order).raiseOnce (64 + m.rd (R.CE_SLOT_CFG_CORE s)) 0 inst
      value).word a = t.word a := by
    rw [Mach.raiseOnce_word_ne _ (h.notMem_raiseRegs (by omega)),
      Mach.noteLate_word_ne _ hlate.1 hlate.2 (h.notMem_raiseRegs (by decide))]
  split
  · rw [Mach.loopMiss_word _ _ h, hraise]
  · exact hraise ..

/-- OVR and CONSEC are fields of one register. -/
theorem Mach.missFields_rd (m : Mach) (s v : Nat) :
    (m.wrs [(R.CE_SLOT_STATUS_OVR s, 1), (R.CE_SLOT_STATUS_CONSEC s, min 15 v)]).rd (R.CE_SLOT_STATUS_CONSEC s) = min 15 v ∧
    (m.wrs [(R.CE_SLOT_STATUS_OVR s, 1), (R.CE_SLOT_STATUS_CONSEC s, min 15 v)]).rd (R.CE_SLOT_STATUS_OVR s) = 1 := by
  unfold Mach.rd
  rw [Mach.wrs_pair_regs]
  refine ⟨(rrd_wr_same (by omega) (by omega)).trans (Nat.mod_eq_of_lt (by omega)), ?_⟩
  exact (rrd_wr_below (by omega) (by omega) (by omega)).trans (rrd_wr_same (by omega) (by omega))

/-- A miss: one more in CONSEC, up to 15, and OVR (R60, R195). -/
theorem Mach.slotMiss_consec (m : Mach) (s : Fin 160) (order : Bool) :
    (m.slotMiss s order).rd (R.CE_SLOT_STATUS_CONSEC s) = min 15 (m.rd (R.CE_SLOT_STATUS_CONSEC s) + 1) ∧
    (m.slotMiss s order).rd (R.CE_SLOT_STATUS_OVR s) = 1 := by
  have hconsec : SlotReg (R.CE_SLOT_STATUS_CONSEC s).a := by
    simp only [SlotReg, R.CE_SLOT_STATUS_CONSEC]
    omega
  have hovr : SlotReg (R.CE_SLOT_STATUS_OVR s).a := by
    simp only [SlotReg, R.CE_SLOT_STATUS_OVR]
    omega
  rw [Mach.rd_congr (m.slotMiss_word s order hconsec), Mach.rd_congr (m.slotMiss_word s order hovr)]
  exact Mach.missFields_rd ..

/-! ## An execution -/

/-- A field of a register of slot `s` that no execution writes: it shares no bit with SAT, AOVF and OSAT. -/
def RF.Spared (r : RF) (s : Nat) : Prop :=
  SlotReg r.a ∧ r.msb < 32 ∧ (R.CE_SLOT_STATUS_SAT s).Apart r ∧ (R.CE_SLOT_STATUS_AOVF s).Apart r ∧
  (R.CE_SLOT_STATUS_OSAT s).Apart r

theorem spared_consec (s : Fin 160) : (R.CE_SLOT_STATUS_CONSEC s).Spared s := by
  simp only [RF.Spared, SlotReg, RF.Apart, R.CE_SLOT_STATUS_CONSEC, R.CE_SLOT_STATUS_SAT, R.CE_SLOT_STATUS_AOVF,
    R.CE_SLOT_STATUS_OSAT]
  omega

theorem spared_ovr (s : Fin 160) : (R.CE_SLOT_STATUS_OVR s).Spared s := by
  simp only [RF.Spared, SlotReg, RF.Apart, R.CE_SLOT_STATUS_OVR, R.CE_SLOT_STATUS_SAT, R.CE_SLOT_STATUS_AOVF,
    R.CE_SLOT_STATUS_OSAT]
  omega

theorem spared_miss (s : Fin 160) : (R.CE_SLOT_MISS_MISS s).Spared s := by
  simp only [RF.Spared, SlotReg, RF.Apart, R.CE_SLOT_MISS_MISS, R.CE_SLOT_STATUS_SAT, R.CE_SLOT_STATUS_AOVF,
    R.CE_SLOT_STATUS_OSAT]
  omega

/-- The state registers of the slots lie beyond their other registers. -/
theorem Mach.putSreg_word (m : Mach) (s k : Nat) (b : Blk) {a : Nat} (h : SlotReg a) :
    (m.putSreg s k b).word a = m.word a := by
  obtain ⟨hlo, hhi⟩ := h
  refine m.wrs_word_ne fun p hp => ?_
  rcases List.mem_append.mp hp with hp | hp
  · obtain ⟨j, -, rfl⟩ := List.mem_map.mp hp
    simp only [R.CE_SREGM]
    omega
  · rw [List.mem_singleton.mp hp]
    simp only [R.CE_SREGE]
    omega

theorem Mach.putSregs_word (m : Mach) (s : Nat) (old new : List Blk) {a : Nat} (h : SlotReg a) :
    (m.putSregs s old new).word a = m.word a := by
  unfold Mach.putSregs
  generalize List.range 8 = l
  induction l generalizing m with
  | nil => rfl
  | cons k l ih =>
    refine (ih _).trans ?_
    dsimp only
    split
    · rfl
    · exact m.putSreg_word s k _ h

/-- SAT, AOVF and OSAT are written, and fields that share no bit with them stand. -/
theorem spared_rwrs {r : RF} {s : Nat} (h : r.Spared s) (g : Sparse Word) (sat aovf osat : Nat) :
    rrd (rwrs g [(R.CE_SLOT_STATUS_SAT s, sat), (R.CE_SLOT_STATUS_AOVF s, aovf), (R.CE_SLOT_STATUS_OSAT s, osat)]) r =
      rrd g r := by
  obtain ⟨-, h32, hsat, haovf, hosat⟩ := h
  refine rrd_rwrs_apart h32 _ _ ?_
  simp only [List.forall_mem_cons]
  refine ⟨⟨?_, hsat⟩, ⟨?_, haovf⟩, ⟨?_, hosat⟩, fun _ h => absurd h List.not_mem_nil⟩
  · simp only [R.CE_SLOT_STATUS_SAT]
    omega
  · simp only [R.CE_SLOT_STATUS_AOVF]
    omega
  · simp only [R.CE_SLOT_STATUS_OSAT]
    omega

theorem Mach.execState_rd (m : Mach) (s : Fin 160) (o : ExecOut) {r : RF} (h : r.Spared s) :
    (m.execState s o).rd r = m.rd r := by
  have hput (x : Slot) (old : List Blk) : rrd ((m.setSlot s x).putSregs s old o.s).regs r = rrd m.regs r :=
    (Mach.rd_congr ((m.setSlot s x).putSregs_word s old o.s h.1) : Mach.rd _ r = Mach.rd _ r)
  have hraise (t : Mach) (code : Nat) : (t.raiseOnce 74 code s 0).rd r = t.rd r :=
    Mach.rd_congr (t.raiseOnce_word_ne (h.1.notMem_raiseRegs (by decide)))
  unfold Mach.execState
  dsimp only
  split
  · rw [hraise]
    simp only [Mach.rd, Mach.wrs_regs]
    rw [spared_rwrs h, hput]
  · simp only [Mach.rd, Mach.wrs_regs]
    rw [spared_rwrs h, hput]

/-- An execution that has run to END: the watch has its slack, a low one raises VCORE, and its state is stored. -/
def Mach.executed (m : Mach) (s : Fin 160) (sl : Nat) (miss : Bool) (o : ExecOut) : Mach :=
  let t := m.noteSlack (m.rd (R.CE_SLOT_CFG_CORE s)) sl miss
  (if sl ≤ 102 then t.fastRaise else t).execState s o

theorem Mach.fastRaise_word (m : Mach) {a : Nat} (h : SlotReg a) : m.fastRaise.word a = m.word a :=
  m.setVcore_word_ne 850 fun e => absurd (e ▸ h.1) (by decide)

theorem Mach.executed_rd (m : Mach) (s : Fin 160) (sl : Nat) (miss : Bool) (o : ExecOut) {r : RF} (h : r.Spared s) :
    (m.executed s sl miss o).rd r = m.rd r := by
  refine (Mach.execState_rd _ s o h).trans ?_
  split
  · exact Mach.rd_congr (Mach.fastRaise_word _ h.1)
  · rfl

/-- An output writes at most PSRCERR of its field (R218). -/
theorem Mach.output_word (m : Mach) (s : Fin 160) (due port : Nat) (v : Rat) {a : Nat} (h : SlotReg a) :
    (m.output s due port v).word a = m.word a := by
  obtain ⟨-, hhi⟩ := h
  have hne (n : Fin 16) : a ≠ (R.FE_LCH_STATUS_PSRCERR n).a := by
    simp only [R.FE_LCH_STATUS_PSRCERR]
    omega
  unfold Mach.output
  split
  · rfl
  · split
    · next hn =>
      dsimp only
      split
      · rfl
      · rfl
      · rfl
      · split
        · rfl
        · exact Mach.wr_word_ne _ 1 (hne ⟨m.slotField s, hn⟩)
      · rfl
    · rfl

theorem Mach.outputs_word (m : Mach) (s : Fin 160) (due : Nat) (l : List (Nat × Rat)) {a : Nat} (h : SlotReg a) :
    (m.outputs s due l).word a = m.word a := by
  unfold Mach.outputs
  induction l generalizing m with
  | nil => rfl
  | cons o l ih => exact (ih _).trans (m.output_word s due _ _ h)

section
variable {m : Mach} {s : Fin 160} {e : ExecRec} {rest : List ExecRec}

theorem Mach.execComplete_runs (hexec : m.slot[s].exec = e :: rest) (hr : m.coreRuns (m.rd (R.CE_SLOT_CFG_CORE s)) = some s) :
    m.execComplete s =
      let late := decide (e.due < m.mt + 40)
      let order := m.outViolates s e.due
      let o := m.runExec s e
      let t := m.executed s (if late || order then 0 else slackOf e m.mt) (late || order) o
      if late || order then t.slotMiss s (order && !late)
      else (t.outputs s e.due o.outs).wr (R.CE_SLOT_STATUS_CONSEC s) 0 := by
  unfold Mach.execComplete
  rw [hexec]
  exact if_neg (not_not.mpr hr)

/-- R195: on time and in order, the outputs are handed over and the run of misses ends. -/
theorem Mach.execComplete_onTime (hexec : m.slot[s].exec = e :: rest)
    (hr : m.coreRuns (m.rd (R.CE_SLOT_CFG_CORE s)) = some s) (hd : m.mt + 40 ≤ e.due) (hv : m.outViolates s e.due = false) :
    m.execComplete s = ((m.executed s (slackOf e m.mt) false (m.runExec s e)).outputs s e.due (m.runExec s e).outs).wr
      (R.CE_SLOT_STATUS_CONSEC s) 0 := by
  rw [Mach.execComplete_runs hexec hr, hv, decide_eq_false (by omega)]
  rfl

theorem Mach.execComplete_late (hexec : m.slot[s].exec = e :: rest)
    (hr : m.coreRuns (m.rd (R.CE_SLOT_CFG_CORE s)) = some s) (hd : e.due < m.mt + 40) :
    m.execComplete s = (m.executed s 0 true (m.runExec s e)).slotMiss s false := by
  rw [Mach.execComplete_runs hexec hr, decide_eq_true hd]
  simp

theorem Mach.execDrop_misses (hexec : m.slot[s].exec = e :: rest)
    (hr : m.coreRuns (m.rd (R.CE_SLOT_CFG_CORE s)) ≠ some s) (hd : e.due ≤ m.mt + 40) : m.execDrop s =
      ((m.setSlot s { m.slot[s] with exec := rest }).noteSlack (m.rd (R.CE_SLOT_CFG_CORE s)) 0 true).slotMiss s false := by
  unfold Mach.execDrop
  rw [hexec]
  exact if_neg (by rintro (h | h); exacts [absurd h (by omega), hr h])

end

/-- The end of an execution on time: CONSEC is 0, and OVR and the miss counter are as the execution left them. -/
theorem Mach.consecCleared_rd (m : Mach) (s : Fin 160) :
    (m.wr (R.CE_SLOT_STATUS_CONSEC s) 0).rd (R.CE_SLOT_STATUS_CONSEC s) = 0 ∧
    (m.wr (R.CE_SLOT_STATUS_CONSEC s) 0).rd (R.CE_SLOT_STATUS_OVR s) = m.rd (R.CE_SLOT_STATUS_OVR s) ∧
    (m.wr (R.CE_SLOT_STATUS_CONSEC s) 0).rd (R.CE_SLOT_MISS_MISS s) = m.rd (R.CE_SLOT_MISS_MISS s) := by
  have hmiss : (R.CE_SLOT_MISS_MISS s).a ≠ (R.CE_SLOT_STATUS_CONSEC s).a := by
    simp only [R.CE_SLOT_MISS_MISS, R.CE_SLOT_STATUS_CONSEC]
    omega
  refine ⟨(rrd_wr_same (by omega) (by omega)).trans (Nat.zero_mod _), ?_, rrd_rwr_ne _ _ 0 hmiss⟩
  exact rrd_wr_below (by omega) (by omega) (by omega)

/-- Settles O57: an execution spares CONSEC, OVR and the miss counter; its completion then clears CONSEC, or a miss counts. -/
theorem onTimeEndsARunOfMisses : Obligations.OnTimeEndsARunOfMisses := by
  rintro s dt k m e rest r rfl hexec rfl
  have hdone {r : RF} (h : r.Spared k) (sl : Nat) (miss : Bool) (o : ExecOut) (l : List (Nat × Rat)) :
      (((s.at dt).executed k sl miss o).outputs k e.due l).rd r = (s.at dt).rd r :=
    (Mach.rd_congr (Mach.outputs_word _ k e.due l h.1)).trans ((s.at dt).executed_rd k sl miss o h)
  refine ⟨fun hr hd hv => answers_of rfl (Mach.execComplete_onTime hexec hr hd hv) ?_,
    fun hr hd => answers_of rfl (Mach.execComplete_late hexec hr hd) ?_,
    fun hr hd => answers_of rfl (Mach.execDrop_misses hexec hr hd) (Mach.slotMiss_consec ..)⟩
  · have hclear := Mach.consecCleared_rd (((s.at dt).executed k (slackOf e (s.at dt).mt) false
      ((s.at dt).runExec k e)).outputs k e.due ((s.at dt).runExec k e).outs) k
    rwa [hdone (spared_ovr k), hdone (spared_miss k)] at hclear
  · rw [← (s.at dt).executed_rd k 0 true _ (spared_consec k)]
    exact Mach.slotMiss_consec ..

end Sys2Proof.Machine
end

section
/-! PROOF. The compensation update (R40, R41, R44 to R46). -/
namespace Sys2Proof.Machine

/-! ## The term and its sum with the trim -/

theorem clampI_eq {lo hi : Int} (x : Int) (h : lo ≤ hi) : clampI lo hi x = max lo (min hi x) := by
  unfold clampI
  split
  · omega
  · split <;> omega

theorem Mach.on_of_rd {m : Mach} {r : RF} {v : Nat} (h : m.rd r = v) : m.on r = (v == 1) := by
  unfold Mach.on
  rw [h]

section
variable {m : Mach}

theorem Mach.compTerm_off (h : m.rd R.TIM_COMP_CTRL = 0) : m.compTerm = 0 := by
  unfold Mach.compTerm
  rw [Mach.on_of_rd h]
  rfl

/-- R45: with no reading the term is held. -/
theorem Mach.compTerm_blind (h : m.rd R.TIM_COMP_CTRL = 1) (hb : m.compBlind = true) : m.compTerm = m.tim.term := by
  unfold Mach.compTerm
  rw [Mach.on_of_rd h, hb]
  rfl

/-- R44: the term goes to the table's value, by at most 2^20 in a tick. -/
theorem Mach.compTerm_slews (h : m.rd R.TIM_COMP_CTRL = 1) (hb : m.compBlind = false) :
    m.compTerm = max (m.tim.term - 1048576) (min (m.tim.term + 1048576) (m.compValue (m.rdS (R.THM_S_TEMP 80)))) := by
  have hs : m.compTerm = slewTerm m.tim.term (m.compValue (m.rdS (R.THM_S_TEMP 80))) := by
    unfold Mach.compTerm
    rw [Mach.on_of_rd h, hb]
    rfl
  rw [hs, slewTerm, clampI_eq _ (by decide)]
  omega

end

/-! ## The update -/

/-- TRIM_EFF: the sum of trim and term, within its bounds (R41). -/
def Mach.effNext (m : Mach) : Int :=
  clampI (-268435456) 268435456 (m.pair40 R.TIM_MT_TRIM_LO R.TIM_MT_TRIM_HI + m.compTerm)

/-- The fields that the update writes. -/
def Mach.oscWrites (m : Mach) : List (RF × Nat) :=
  [(R.TIM_MT_TRIM_EFF_LO, unsigned 40 m.effNext), (R.TIM_MT_TRIM_EFF_HI, unsigned 40 m.effNext / 2 ^ 32),
   (R.TIM_COMP_TERM, unsigned 32 m.compTerm),
   (R.TIM_COMP_TEMP, if m.compBlind then m.rd R.TIM_COMP_TEMP else m.rd (R.THM_S_TEMP 80)),
   (R.TIM_STATUS_COMPHOLD, bool01 m.compBlind),
   (R.TIM_STATUS_TRIMCLAMP, if m.effNext = m.pair40 R.TIM_MT_TRIM_LO R.TIM_MT_TRIM_HI + m.compTerm then
     m.rd R.TIM_STATUS_TRIMCLAMP else 1)]

/-- The module once trim, term and their registers are updated. -/
def Mach.oscWritten (m : Mach) : Mach :=
  (m.setTim { m.tim with trim := m.pair40 R.TIM_MT_TRIM_LO R.TIM_MT_TRIM_HI, term := m.compTerm, eff := m.effNext }).wrs
    m.oscWrites

theorem Mach.setTim_wrs (m : Mach) (t : Tim) (ws : List (RF × Nat)) :
    (m.setTim t).wrs ws = { m with regs := rwrs m.regs ws, tim := t } := rfl

/-- Source 19 is raised as the readings go (R45). -/
theorem Mach.oscUpdate_tick {m : Mach} (h : m.atTick = true) : m.oscUpdate =
    if m.compBlind && !m.on R.TIM_STATUS_COMPHOLD then m.oscWritten.raise 19 0 0 0 else m.oscWritten := by
  unfold Mach.oscUpdate
  rw [h]
  rfl

theorem Mach.oscUpdate_away {m : Mach} (h : m.atTick = false) : m.oscUpdate = m := by
  unfold Mach.oscUpdate
  rw [h]
  rfl

/-- Registers apart from those of a raise read after the update as it wrote them. -/
theorem Mach.oscUpdate_word {m : Mach} (h : m.atTick = true) {a : Nat} (ha : a ∉ raiseRegs 19) :
    m.oscUpdate.word a = rget (rwrs m.regs m.oscWrites) a := by
  have hw : m.oscWritten.word a = rget (rwrs m.regs m.oscWrites) a := by
    rw [Mach.word, Mach.oscWritten, Mach.setTim_wrs]
  rw [Mach.oscUpdate_tick h, ← hw]
  generalize m.oscWritten = w
  split
  · exact Mach.raise_word_ne ha
  · rfl

theorem Mach.oscUpdate_frame {m : Mach} (h : m.atTick = true) : ∃ g o c,
    m.oscUpdate = { m with regs := g, out := o, cbk := c, tim := { m.tim with
      trim := m.pair40 R.TIM_MT_TRIM_LO R.TIM_MT_TRIM_HI, term := m.compTerm, eff := m.effNext } } := by
  have hraise (t : Mach) : ∃ g o c, t.raise 19 0 0 0 = { t with regs := g, out := o, cbk := c } := ⟨_, _, _, rfl⟩
  obtain ⟨g, o, c, hr⟩ := hraise m.oscWritten
  rw [Mach.oscUpdate_tick h, hr, Mach.oscWritten, Mach.setTim_wrs]
  split
  · exact ⟨g, o, c, rfl⟩
  · exact ⟨_, m.out, m.cbk, rfl⟩

/-- COMPHOLD shows whether there is a reading; TRIMCLAMP is set where the sum lies outside, and stays else. -/
theorem Mach.oscUpdate_status {m : Mach} (h : m.atTick = true) :
    m.oscUpdate.rd R.TIM_STATUS_COMPHOLD = bool01 m.compBlind ∧
    m.oscUpdate.rd R.TIM_STATUS_TRIMCLAMP =
      if m.effNext = m.pair40 R.TIM_MT_TRIM_LO R.TIM_MT_TRIM_HI + m.compTerm then m.rd R.TIM_STATUS_TRIMCLAMP else 1 := by
  have hread {r : RF} (ha : r.a ∉ raiseRegs 19) : m.oscUpdate.rd r = rrd (rwrs m.regs m.oscWrites) r :=
     congrArg (fun w : Word => bits w.toNat r.msb r.lsb) (Mach.oscUpdate_word h ha)
  have hclamp : m.rd R.TIM_STATUS_TRIMCLAMP < 2 := rrd_lt R.TIM_STATUS_TRIMCLAMP.a 2 2
  rw [hread (by decide), hread (by decide)]
  refine ⟨?_, ?_⟩
  · refine (rrd_rwrs_written [_, _, _, _] [_] m.regs (by decide) (by decide) ?_).trans (Nat.mod_eq_of_lt ?_)
    · simp [RF.Apart, R.TIM_STATUS_TRIMCLAMP, R.TIM_STATUS_COMPHOLD]
    · cases m.compBlind <;> decide
  · refine (rrd_rwrs_written [_, _, _, _, _] [] m.regs (by decide) (by decide) ?_).trans (Nat.mod_eq_of_lt ?_)
    · simp
    · show _ < 2
      split
      · exact hclamp
      · decide

/-- Settles O8: the update's writes are those of R44 to R46, and only source 19 is raised with them. -/
theorem compensationUpdate : Obligations.CompensationUpdate := by
  refine ⟨fun s dt h => answers_of rfl (Mach.oscUpdate_away h) rfl, ?_⟩
  rintro s dt m trim want rfl ht rfl rfl
  refine answers_of rfl rfl ?_
  generalize s.at dt = m at ht ⊢
  obtain ⟨hhold, hclamp⟩ := Mach.oscUpdate_status ht
  have hword {a : Nat} (ha : a ∉ raiseRegs 19) := Mach.oscUpdate_word ht ha
  have hraise : m.compBlind = true → m.rd R.TIM_STATUS_COMPHOLD = 0 → m.oscUpdate.evt 19 = 1 := by
    intro hb hh
    rw [Mach.oscUpdate_tick ht, hb, Mach.on_of_rd hh]
    exact Mach.raise_pend (by decide)
  obtain ⟨g, o, c, hframe⟩ := Mach.oscUpdate_frame ht
  have htrim : m.oscUpdate.tim.trim = m.pair40 R.TIM_MT_TRIM_LO R.TIM_MT_TRIM_HI := by rw [hframe]
  have hterm : m.oscUpdate.tim.term = m.compTerm := by rw [hframe]
  have heff : m.oscUpdate.tim.eff = m.effNext := by rw [hframe]
  refine ⟨?_, fun h => ?_, fun h hb => ⟨?_, ?_⟩, fun h hb => ⟨fun hw => ?_, fun hw => ?_, fun hw hw' => ?_, ?_⟩, hraise, ?_,
    fun h => ?_, fun h => ?_, fun a ha => ?_, ?_⟩
  · exact htrim
  · rw [hterm, Mach.compTerm_off h]
  · rw [hterm, Mach.compTerm_blind h hb]
  · rw [hhold, hb]
    rfl
  · rw [hterm, Mach.compTerm_slews h hb]
    omega
  · rw [hterm, Mach.compTerm_slews h hb]
    omega
  · rw [hterm, Mach.compTerm_slews h hb]
    omega
  · rw [hhold, hb]
    rfl
  · rw [heff, hterm]
    exact clampI_eq _ (by decide)
  · rw [heff, hterm] at h
    rw [hclamp, if_neg h]
  · rw [heff, hterm] at h
    rw [hclamp, if_pos h]
  · rw [List.mem_append, not_or] at ha
    obtain ⟨ha, hr⟩ := ha
    rw [hword hr]
    refine rget_rwrs_ne _ _ fun p hp e => ha ?_
    subst e
    simp only [Mach.oscWrites, List.mem_cons, List.not_mem_nil, or_false] at hp
    rcases hp with rfl | rfl | rfl | rfl | rfl | rfl <;> simp [R.TIM_STATUS_TRIMCLAMP, R.TIM_STATUS_COMPHOLD]
  · rw [hterm, heff]
    exact hframe.trans (by rw [hframe])

end Sys2Proof.Machine
end

section
/-! PROOF. PT and OT: steps, wraps and saves (R50 to R52), and the loss of lock (R63). -/
namespace Sys2Proof.Machine

/-! ## Registers written, and a source raised -/

/-- Registers are written and a source is raised: nothing else changes. -/
theorem Mach.regs_raise_only (m : Mach) {g : Sparse Word} {src code inst value : Nat} {l : List Nat} (h : src < 256)
    (hg : ∀ a, a ∉ l → rget g a = m.word a) :
    m.OnlyRaised (Mach.raise { m with regs := g } src code inst value) src l := by
  refine ⟨Mach.raise_pend h, fun a ha => ?_, rfl⟩
  rw [List.mem_append, not_or] at ha
  exact (Mach.raise_word_ne ha.1).trans (hg a ha.2)

/-- The time bases change and a source is raised. -/
theorem Mach.setTim_raise (m : Mach) (t : Tim) {src code inst value : Nat} (h : src < 256) :
    ((m.setTim t).raise src code inst value).tim = t ∧
    ({ m with tim := ((m.setTim t).raise src code inst value).tim } : Mach).OnlyRaised
      ((m.setTim t).raise src code inst value) src [] :=
  ⟨rfl, Mach.raise_only (m := m.setTim t) h⟩

/-! ## PT -/

/-- A single bit of a word, as a number. -/
theorem bits_bit (v : Word) (i : Nat) : bits v.toNat i i = 0 ↔ v.getLsbD i = false := by
  have hb : bits v.toNat i i = v.toNat / 2 ^ i % 2 := by
    unfold bits
    rw [show i + 1 - i = 1 by omega, pow_one]
  rw [hb, BitVec.getLsbD, Nat.testBit_eq_decide_div_mod_eq, decide_eq_false_iff_not]
  omega

theorem bits_mag (v : Word) : bits v.toNat 29 0 = v.toNat % 2 ^ 30 := by
  unfold bits
  rw [pow_zero, Nat.div_one]

/-- In the cycle of a step a timestamp carries PT as it stood before (R51). -/
theorem Tim.stamp_noteStep (t : Tim) (now acc : Nat) (epoch : BitVec 16) :
    ({ t.noteStep now with ptAcc := acc, ptEpoch := epoch } : Tim).stamp now = t.stamp now :=
  if_pos rfl

theorem Mach.ptWrap_below {m : Mach} (h : m.tim.ptAcc < 2 ^ 64) : m.ptWrap = m := by
  unfold Mach.ptWrap
  exact if_pos h

theorem Mach.setTim_ptWrap (m : Mach) {t : Tim} (h : 2 ^ 64 ≤ t.ptAcc) : (m.setTim t).ptWrap =
    (m.setTim { t with ptAcc := t.ptAcc - 2 ^ 64, ptEpoch := t.ptEpoch + 1 }).raise 16 0 0 (t.ptEpoch + 1).toNat := by
  unfold Mach.ptWrap
  exact if_neg (Nat.not_lt.mpr h)

theorem Mach.setTim_ptBack (m : Mach) (t : Tim) (d : Nat) : (m.setTim t).ptBack d =
    (m.setTim { t with ptAcc := t.ptAcc + 2 ^ 64 - d, ptEpoch := t.ptEpoch - 1 }).raise 16 1 0 (t.ptEpoch - 1).toNat :=
  rfl

section
variable {m : Mach} {v : Word}

theorem Mach.ptStep_refused (h : m.rd R.TIM_PT_JUMP_LIMIT < v.toNat % 2 ^ 30) (hf : v.getLsbD 31 = false) :
    m.ptStep v = (m.wr R.TIM_STATUS_JUMPREF 1).raise 17 0 0 0 := by
  unfold Mach.ptStep
  rw [bits_mag]
  exact if_pos ⟨h, (bits_bit v 31).mpr hf⟩

/-- A step that is taken notes PT, and moves it forwards or back (R51). -/
theorem Mach.ptStep_taken (h : v.toNat % 2 ^ 30 ≤ m.rd R.TIM_PT_JUMP_LIMIT ∨ v.getLsbD 31 = true) : m.ptStep v =
    if v.getLsbD 30 = false then
      (m.setTim { m.tim.noteStep m.now with ptAcc := m.tim.ptAcc + v.toNat % 2 ^ 30 * 2 ^ 32 }).ptWrap
    else if v.toNat % 2 ^ 30 * 2 ^ 32 ≤ m.tim.ptAcc then
      m.setTim { m.tim.noteStep m.now with ptAcc := m.tim.ptAcc - v.toNat % 2 ^ 30 * 2 ^ 32 }
    else (m.setTim (m.tim.noteStep m.now)).ptBack (v.toNat % 2 ^ 30 * 2 ^ 32) := by
  unfold Mach.ptStep
  rw [bits_mag]
  refine (if_neg ?_).trans ?_
  · rintro ⟨hl, hf⟩
    rw [bits_bit] at hf
    rcases h with h | h
    · omega
    · rw [hf] at h
      exact absurd h (by decide)
  · simp only [bits_bit]
    rfl

end

/-- PT_STEP where the block answers: the step's own effect. -/
theorem answers_ptStep {s : State} {dt : Nat} {v : Word} {t : Mach} {P : Mach → Prop}
    (ho : (s.at dt).open? 0x30030 = true) (ht : (s.at dt).ptStep v = t) (h : P t) : Answers (.ptStep dt v) s P :=
  answers_of rfl ((Mach.ifOpen_open (a := 0x30000) _ ho).trans ht) h

/-- What a step of `mag` ns leaves, in each direction, with a wrap and without (R50, R51). -/
theorem ptStep_answers (s : State) (dt : Nat) (m : Mach) (hm : m = s.at dt) (v : Word) (mag : Nat)
    (hmag : mag = v.toNat % 2 ^ 30) (ho : m.open? 0x30030 = true) (h : mag ≤ m.rd R.TIM_PT_JUMP_LIMIT ∨ v.getLsbD 31 = true) :
    (v.getLsbD 30 = false → m.tim.ptAcc + mag * 2 ^ 32 < 2 ^ 64 → Answers (.ptStep dt v) s fun t =>
      t = { m with tim := { m.tim.noteStep m.now with ptAcc := m.tim.ptAcc + mag * 2 ^ 32 } } ∧
      t.tim.stamp m.now = m.tim.stamp m.now) ∧
    (v.getLsbD 30 = false → 2 ^ 64 ≤ m.tim.ptAcc + mag * 2 ^ 32 → Answers (.ptStep dt v) s fun t =>
      t.tim = { m.tim.noteStep m.now with
        ptAcc := m.tim.ptAcc + mag * 2 ^ 32 - 2 ^ 64, ptEpoch := m.tim.ptEpoch + 1 } ∧
      t.tim.stamp m.now = m.tim.stamp m.now ∧
      ({ m with tim := t.tim } : Mach).OnlyRaised t 16 []) ∧
    (v.getLsbD 30 = true → mag * 2 ^ 32 ≤ m.tim.ptAcc → Answers (.ptStep dt v) s fun t =>
      t = { m with tim := { m.tim.noteStep m.now with ptAcc := m.tim.ptAcc - mag * 2 ^ 32 } } ∧
      t.tim.stamp m.now = m.tim.stamp m.now) ∧
    (v.getLsbD 30 = true → m.tim.ptAcc < mag * 2 ^ 32 → Answers (.ptStep dt v) s fun t =>
      t.tim = { m.tim.noteStep m.now with
        ptAcc := m.tim.ptAcc + 2 ^ 64 - mag * 2 ^ 32, ptEpoch := m.tim.ptEpoch - 1 } ∧
      t.tim.stamp m.now = m.tim.stamp m.now ∧
      ({ m with tim := t.tim } : Mach).OnlyRaised t 16 []) := by
  subst hm hmag
  have htaken := Mach.ptStep_taken h
  have hstamp (acc : Nat) (epoch : BitVec 16) := (s.at dt).tim.stamp_noteStep (s.at dt).now acc epoch
  have hraise (t : Tim) (code value : Nat) := (s.at dt).setTim_raise t (code := code) (inst := 0) (value := value)
    (show 16 < 256 by decide)
  refine ⟨fun h30 hw => ?_, fun h30 hw => ?_, fun h30 hw => ?_, fun h30 hw => ?_⟩
  · rw [if_pos h30, Mach.ptWrap_below hw] at htaken
    exact answers_ptStep ho htaken ⟨rfl, hstamp ..⟩
  · rw [if_pos h30, Mach.setTim_ptWrap _ hw] at htaken
    obtain ⟨ht, hr⟩ := hraise { (s.at dt).tim.noteStep (s.at dt).now with
      ptAcc := (s.at dt).tim.ptAcc + v.toNat % 2 ^ 30 * 2 ^ 32 - 2 ^ 64, ptEpoch := (s.at dt).tim.ptEpoch + 1 } 0
      ((s.at dt).tim.ptEpoch + 1).toNat
    exact answers_ptStep ho htaken ⟨ht, hstamp .., hr⟩
  · rw [if_neg (by simp [h30]), if_pos hw] at htaken
    exact answers_ptStep ho htaken ⟨rfl, hstamp ..⟩
  · rw [if_neg (by simp [h30]), if_neg (Nat.not_le.mpr hw), Mach.setTim_ptBack] at htaken
    obtain ⟨ht, hr⟩ := hraise { (s.at dt).tim.noteStep (s.at dt).now with
      ptAcc := (s.at dt).tim.ptAcc + 2 ^ 64 - v.toNat % 2 ^ 30 * 2 ^ 32, ptEpoch := (s.at dt).tim.ptEpoch - 1 } 1
      ((s.at dt).tim.ptEpoch - 1).toNat
    exact answers_ptStep ho htaken ⟨ht, hstamp .., hr⟩

theorem ptStep_refused_answers (s : State) (dt : Nat) (m : Mach) (hm : m = s.at dt) (v : Word)
    (ho : m.open? 0x30030 = true) (h : m.rd R.TIM_PT_JUMP_LIMIT < v.toNat % 2 ^ 30) (hf : v.getLsbD 31 = false) :
    Answers (.ptStep dt v) s fun t =>
      t.rd R.TIM_STATUS_JUMPREF = 1 ∧ t.tim = m.tim ∧ m.OnlyRaised t 17 [R.TIM_STATUS_JUMPREF.a] := by
  subst hm
  refine answers_ptStep ho (Mach.ptStep_refused h hf) ⟨?_, ?_, ?_⟩
  · have hword := Mach.raise_word_ne (m := (s.at dt).wr R.TIM_STATUS_JUMPREF 1) (src := 17) (code := 0) (inst := 0)
      (value := 0) (b := R.TIM_STATUS_JUMPREF.a) (by decide)
    exact (Mach.rd_congr hword).trans (rrd_rwr_same R.TIM_STATUS_JUMPREF 1 (by decide) (by decide))
  · simp
  · exact (s.at dt).regs_raise_only (by decide) fun a ha => rget_rwr_ne (by simpa using ha) 1

/-! ## OT -/

/-- OT_SAVE writes the slot whose turn it is, and leaves the other (R52). -/
theorem Tim.save_slots (t : Tim) :
    (if t.nextSlot then t.save.slot1 else t.save.slot0) = (t.otUnits, t.pcc.toNat) ∧
    (if t.nextSlot then t.save.crc1 else t.save.crc0) = slotCrc (t.otUnits, t.pcc.toNat) ∧
    (if t.nextSlot then t.save.slot0 = t.slot0 ∧ t.save.crc0 = t.crc0
      else t.save.slot1 = t.slot1 ∧ t.save.crc1 = t.crc1) := by
  unfold Tim.save
  cases t.nextSlot with
  | true => exact ⟨rfl, rfl, rfl, rfl⟩
  | false => exact ⟨rfl, rfl, rfl, rfl⟩

theorem Mach.otSave_due {m : Mach} (h : m.env.holdup = true ∨ m.tim.otSaved + 60 * 800000000 ≤ m.tim.ot) :
    m.otSave = m.setTim m.tim.save := by
  unfold Mach.otSave
  exact if_pos h

theorem Mach.otSave_early {m : Mach} (hh : m.env.holdup = false) (h : m.tim.ot < m.tim.otSaved + 60 * 800000000) :
    m.otSave = m := by
  unfold Mach.otSave
  refine if_neg ?_
  rintro (hu | hu)
  · rw [hh] at hu
    exact absurd hu (by decide)
  · omega

/-! ## The loss of lock -/

/-- A stopped field stays stopped whatever field faults. -/
theorem Mach.Stopped.fieldFault {m : Mach} {n : Fin 16} (h : m.Stopped n) (k : Fin 16) (cause : Nat) (byctx : Bool) :
    (m.fieldFault k cause byctx true).Stopped n := by
  by_cases hk : n = k
  · subst hk
    exact m.fieldFault_stopped n cause byctx
  · obtain ⟨hword, hrest⟩ := m.fieldFault_only k cause byctx true
    obtain ⟨-, hpins⟩ := hrest n hk
    have hsaf : ¬ faultWrites k (R.SAF_FS_STATUS_FS n).a := by
      have hne : (n : Nat) ≠ k := Fin.val_ne_of_ne hk
      simp only [faultWrites, raiseRegs, R.SAF_FS_STATUS_FS, R.TRL_STUCK, R.HS_EVT_PEND, R.HSQ_PBA,
        R.CBK_QLEVEL_QMAX, R.CBK_ANGEL, List.mem_cons, List.not_mem_nil, or_false]
      omega
    obtain ⟨hfs, hdark, hgen⟩ := h
    refine ⟨Mach.inFs_iff.mpr ((Mach.rd_congr (hword _ hsaf)).trans (Mach.inFs_iff.mp hfs)), ?_, ?_⟩
    · unfold Mach.Dark
      rw [hpins]
      exact hdark
    · rw [hpins]
      exact hgen

/-- Whether a field is in use rests on SAF_FIELDS, on its contexts and on the registers of the slots. -/
theorem Mach.fieldInUse_congr {m t : Mach} {n : Fin 16} (hf : t.word R.SAF_FIELDS.a = m.word R.SAF_FIELDS.a)
    (hs : ∀ a, SlotReg a → t.word a = m.word a) (hc : t.fe[n] = m.fe[n]) : t.fieldInUse n = m.fieldInUse n := by
  have hslot (s : Fin 160) : (t.runs s && t.slotField s == n.val) = (m.runs s && m.slotField s == n.val) := by
    have hst : t.word (R.CE_SLOT_STATUS_STATE s).a = m.word (R.CE_SLOT_STATUS_STATE s).a :=
      hs _ (by simp only [SlotReg, R.CE_SLOT_STATUS_STATE]; omega)
    have hfield : t.word (R.CE_SLOT_CFG_FIELD s).a = m.word (R.CE_SLOT_CFG_FIELD s).a :=
      hs _ (by simp only [SlotReg, R.CE_SLOT_CFG_FIELD]; omega)
    unfold Mach.runs Mach.slotField
    rw [Mach.rd_congr hst, Mach.rd_congr hfield]
  unfold Mach.fieldInUse
  simp only [Mach.rd_congr hf, hc, hslot]

/-- What the loss of lock does to one field (R63). -/
def Mach.loseLock (m : Mach) (n : Fin 16) : Mach :=
  if m.fieldInUse n then m.fieldFault n cLocklost false true else m

theorem Mach.loseLock_only (m : Mach) (n : Fin 16) : m.FaultsOnly (m.loseLock n) n := by
  unfold Mach.loseLock
  split
  · exact m.fieldFault_only ..
  · exact .refl m n

theorem Mach.Stopped.loseLock {m : Mach} {n : Fin 16} (h : m.Stopped n) (k : Fin 16) : (m.loseLock k).Stopped n := by
  unfold Mach.loseLock
  split
  · exact h.fieldFault ..
  · exact h

theorem Mach.loseLock_stopped {m : Mach} {n : Fin 16} (h : m.fieldInUse n = true) : (m.loseLock n).Stopped n := by
  unfold Mach.loseLock
  rw [if_pos h]
  exact m.fieldFault_stopped n _ _

theorem Mach.loseLock_fieldInUse (m : Mach) {n k : Fin 16} (h : n ≠ k) : (m.loseLock k).fieldInUse n = m.fieldInUse n := by
  obtain ⟨hword, hrest⟩ := m.loseLock_only k
  refine Mach.fieldInUse_congr (hword _ ?_) (fun a ha => hword a (ha.not_faultWrites k)) (hrest n h).1
  simp only [faultWrites, raiseRegs, R.SAF_FIELDS, R.TRL_STUCK, R.HS_EVT_PEND, R.HSQ_PBA, R.CBK_QLEVEL_QMAX,
    R.CBK_ANGEL, List.mem_cons, List.not_mem_nil, or_false]
  omega

/-- Over the fields: the registers that no fault writes stay. -/
theorem loseLock_fold_word {a : Nat} (ha : ∀ n, ¬ faultWrites n a) (l : List (Fin 16)) (m : Mach) :
    (l.foldl Mach.loseLock m).word a = m.word a := by
  induction l generalizing m with
  | nil => rfl
  | cons k l ih => exact (ih _).trans ((m.loseLock_only k).1 a (ha k))

theorem Mach.Stopped.loseLock_fold {n : Fin 16} (l : List (Fin 16)) {m : Mach} (h : m.Stopped n) :
    (l.foldl Mach.loseLock m).Stopped n := by
  induction l generalizing m with
  | nil => exact h
  | cons k l ih => exact ih (h.loseLock k)

/-- Over the fields: each field in use is stopped. -/
theorem loseLock_fold_stopped {n : Fin 16} (l : List (Fin 16)) {m : Mach} (hn : n ∈ l) (h : m.fieldInUse n = true) :
    (l.foldl Mach.loseLock m).Stopped n := by
  induction l generalizing m with
  | nil => exact absurd hn List.not_mem_nil
  | cons k l ih =>
    by_cases hk : n = k
    · subst hk
      exact (Mach.loseLock_stopped h).loseLock_fold l
    · exact ih ((List.mem_cons.mp hn).resolve_left hk) ((m.loseLock_fieldInUse hk).trans h)

/-- The machine in which the fields lose lock: LOCK clear, LOCKLOST set, source 18 raised. -/
def Mach.lockCleared (m : Mach) : Mach :=
  (m.wrs [(R.TIM_STATUS_LOCK, 0), (R.TIM_STATUS_LOCKLOST, 1)]).raise 18 0 0 0

theorem Mach.lockCleared_only (m : Mach) : m.OnlyRaised m.lockCleared 18 [R.TIM_STATUS_LOCK.a] :=
  m.regs_raise_only (by decide) fun a ha => rget_rwrs_ne _ _ fun p hp => by
    have hne : a ≠ R.TIM_STATUS_LOCK.a := by simpa using ha
    simp only [List.mem_cons, List.not_mem_nil, or_false] at hp
    rcases hp with rfl | rfl <;> exact hne

theorem Mach.lockCleared_status (m : Mach) :
    m.lockCleared.rd R.TIM_STATUS_LOCK = 0 ∧ m.lockCleared.rd R.TIM_STATUS_LOCKLOST = 1 := by
  have hword : m.lockCleared.word 0x30018 = rget (rwrs m.regs [(R.TIM_STATUS_LOCK, 0), (R.TIM_STATUS_LOCKLOST, 1)]) 0x30018 :=
    Mach.raise_word_ne (by decide)
  have hrd (r : RF) (hr : r.a = 0x30018) : m.lockCleared.rd r =
      rrd (rwrs m.regs [(R.TIM_STATUS_LOCK, 0), (R.TIM_STATUS_LOCKLOST, 1)]) r := by
    unfold Mach.rd rrd
    rw [hr]
    exact congrArg (fun w : Word => bits w.toNat r.msb r.lsb) hword
  rw [hrd _ rfl, hrd _ rfl]
  exact ⟨rrd_rwrs_written [] _ _ (by decide) (by decide) (by decide),
    rrd_rwrs_written [_] [] _ (by decide) (by decide) (by decide)⟩

theorem Mach.lockLost_fold {m : Mach} (h : m.on R.TIM_STATUS_LOCK = true) :
    m.lockLost = (List.finRange 16).foldl Mach.loseLock m.lockCleared := by
  unfold Mach.lockLost
  rw [h]
  rfl

theorem Mach.lockLost_unlocked {m : Mach} (h : m.on R.TIM_STATUS_LOCK = false) : m.lockLost = m := by
  unfold Mach.lockLost
  rw [h]
  rfl

/-- Registers of TIM_STATUS, of the mode and of the events below 32: the fault of a field writes none. -/
theorem not_faultWrites_low {a : Nat} (h : a ∈ [R.TIM_STATUS_LOCK.a, R.GLB_MODE_MODE.a, (R.HS_EVT_PEND 0).a])
    (n : Fin 16) : ¬ faultWrites n a := by
  simp only [List.mem_cons, List.not_mem_nil, or_false, R.TIM_STATUS_LOCK, R.GLB_MODE_MODE, R.HS_EVT_PEND] at h
  simp only [faultWrites, raiseRegs, R.TRL_STUCK, R.HS_EVT_PEND, R.HSQ_PBA, R.CBK_QLEVEL_QMAX, R.CBK_ANGEL,
    List.mem_cons, List.not_mem_nil, or_false]
  omega

/-- The loss of lock (R63). -/
theorem Mach.lockLost_locked {m : Mach} (h : m.on R.TIM_STATUS_LOCK = true) :
    m.lockLost.rd R.TIM_STATUS_LOCK = 0 ∧ m.lockLost.rd R.TIM_STATUS_LOCKLOST = 1 ∧ m.lockLost.evt 18 = 1 ∧
    m.lockLost.mode = m.mode ∧ ∀ n : Fin 16, m.fieldInUse n = true → m.lockLost.Stopped n := by
  rw [m.lockLost_fold h]
  obtain ⟨hevt, hkeep, hrest⟩ := m.lockCleared_only
  obtain ⟨hlock, hlost⟩ := m.lockCleared_status
  have hword {a : Nat} (ha : a ∈ [R.TIM_STATUS_LOCK.a, R.GLB_MODE_MODE.a, (R.HS_EVT_PEND 0).a]) :=
    loseLock_fold_word (not_faultWrites_low ha) (List.finRange 16) m.lockCleared
  have hfe : m.lockCleared.fe = m.fe := by rw [hrest]
  refine ⟨(Mach.rd_congr (hword ?_)).trans hlock, (Mach.rd_congr (hword ?_)).trans hlost,
    (Mach.rd_congr (hword ?_)).trans hevt, (Mach.rd_congr (hword ?_)).trans (Mach.rd_congr (hkeep _ (by decide))),
    fun n hn => ?_⟩
  · exact List.mem_cons_self
  · exact List.mem_cons_self
  · decide
  · decide
  · refine loseLock_fold_stopped _ (List.mem_finRange n) (Eq.trans ?_ hn)
    refine Mach.fieldInUse_congr (hkeep _ (by decide)) (fun a ha => hkeep a ?_) (by rw [hfe])
    rw [List.mem_append, not_or]
    refine ⟨ha.notMem_raiseRegs (by decide), fun hmem => ?_⟩
    rw [List.mem_singleton.mp hmem] at ha
    exact absurd ha.1 (by decide)

/-- Settles O10: each row's step, wrap, save or loss of lock in turn, and the rows whose condition does not hold. -/
theorem timeBasesMove : Obligations.TimeBasesMove := by
  unfold Obligations.TimeBasesMove
  intro s dt m hm
  refine ⟨fun v mag hmag ho => ⟨fun h hf => ?_, ptStep_answers s dt m hm v mag hmag ho⟩, ?_⟩
  · subst hmag
    exact ptStep_refused_answers s dt m hm v ho h hf
  subst hm
  refine ⟨fun v ho => ?_, fun h => ?_, fun hh h => ?_, fun h => ?_, fun h => ?_, fun h => ?_, fun h => ?_, fun h => ?_,
    fun h => ?_⟩
  · exact answers_of rfl (Mach.ifOpen_closed (a := 0x30000) _ ho) (Mach.early_counts _).1
  · exact answers_of rfl (Mach.ptWrap_below h) rfl
  · exact answers_of rfl (Mach.otSave_early hh h) rfl
  · exact answers_of rfl (Mach.lockLost_unlocked h) rfl
  · exact answers_of rfl (if_neg (by simp [h])) rfl
  · exact answers_of rfl ((s.at dt).setTim_ptWrap (t := (s.at dt).tim) h) ((s.at dt).setTim_raise _ (by decide))
  · obtain ⟨hslot, hcrc, hother⟩ := (s.at dt).tim.save_slots
    exact answers_of rfl (Mach.otSave_due h) ⟨hslot, hcrc, hother, rfl, rfl, rfl, rfl, rfl⟩
  · exact answers_of rfl rfl (Mach.lockLost_locked h)
  · refine answers_of rfl (if_pos h) ⟨?_, Mach.wr_only _ _ _ List.mem_cons_self⟩
    exact rrd_rwr_same R.TIM_STATUS_LOCK 1 (by decide) (by decide)

end Sys2Proof.Machine
end

section
/-! PROOF. Edge stages: what an entry that arrives does to its queue, and what a late one leaves (R54 to R58). -/
namespace Sys2Proof.Machine

/-! ## The stages -/

theorem stageOf_cons (p : Edge × Stage) (l : List (Edge × Stage)) (e : Edge) :
    stageOf (p :: l) e = if e = p.1 then p.2 else stageOf l e := by
  unfold stageOf
  rw [List.lookup_cons]
  by_cases h : e = p.1
  · rw [if_pos h, beq_iff_eq.mpr h]
    rfl
  · rw [if_neg h, beq_false_of_ne h]

theorem stageOf_stageSet (l : List (Edge × Stage)) (e e' : Edge) (s : Stage) :
    stageOf (stageSet l e s) e' = if e' = e then s else stageOf l e' := by
  induction l with
  | nil => exact stageOf_cons ..
  | cons p l ih =>
    unfold stageSet
    by_cases hp : p.1 = e
    · rw [if_pos hp, stageOf_cons, stageOf_cons, hp]
      split <;> rfl
    · rw [if_neg hp, stageOf_cons, stageOf_cons, ih]
      by_cases he : e' = p.1
      · rw [if_pos he, if_neg (he ▸ hp), if_pos he]
      · rw [if_neg he, if_neg he]

@[simp] theorem Mach.stage_setStage_same (m : Mach) (e : Edge) (s : Stage) : (m.setStage e s).stage e = s :=
  (stageOf_stageSet m.stages e e s).trans (if_pos rfl)

theorem Mach.stage_setStage_ne (m : Mach) {e e' : Edge} (s : Stage) (h : e' ≠ e) :
    (m.setStage e s).stage e' = m.stage e' :=
  (stageOf_stageSet m.stages e e' s).trans (if_neg h)

theorem Mach.setStage_quiet {m : Mach} (h : m.Quiet) (e : Edge) (s : Stage) : (m.setStage e s).Quiet :=
  h.congr rfl rfl rfl

section
variable {s : Stage} {depth : Nat} {x : EdgeEntry}

theorem Stage.push_replace (h : s.q.any (·.due == x.due) = true) :
    s.push depth x = { s with q := s.q.map fun y => if y.due = x.due then x else y } := if_pos h

theorem Stage.push_append (h : s.q.any (·.due == x.due) = false) (hl : s.q.length < depth) :
    s.push depth x = { s with q := s.q ++ [x], lastDue := some x.due } :=
  (if_neg (by simp [h])).trans (if_pos hl)

theorem Stage.push_held (h : s.q.any (·.due == x.due) = false) (hl : depth ≤ s.q.length) :
    s.push depth x = { s with held := s.held ++ [x] } :=
  (if_neg (by simp [h])).trans (if_neg (Nat.not_lt.mpr hl))

end

theorem Stage.violates_of_before {s : Stage} {due d : Nat} (h : s.lastDue = some d) (hd : due < d) :
    s.violates due = true := by
  unfold Stage.violates
  rw [h]
  exact decide_eq_true hd

/-! ## An entry that arrives -/

section
variable {m : Mach} {e : Edge} {due : Nat} (v : EdgeVal) (hfit : m.dueFits e due = true)
include hfit

theorem Mach.edgeArrival_late (h : due < m.mt + 40) : m.edgeArrival e due v = m.lateEdge e false := by
  unfold Mach.edgeArrival Mach.isLate
  rw [hfit, decide_eq_true h]
  rfl

theorem Mach.edgeArrival_violation (h : m.mt + 40 ≤ due) (hv : (m.stage e).violates due = true) :
    m.edgeArrival e due v = m.lateEdge e true := by
  unfold Mach.edgeArrival Mach.isLate
  rw [hfit, decide_eq_false (Nat.not_lt.mpr h), hv]
  rfl

theorem Mach.edgeArrival_pushed (h : m.mt + 40 ≤ due) (hv : (m.stage e).violates due = false) :
    m.edgeArrival e due v = m.setStage e ((m.stage e).push (stageDepth e) ⟨due, v⟩) := by
  unfold Mach.edgeArrival Mach.isLate
  rw [hfit, decide_eq_false (Nat.not_lt.mpr h), hv]
  rfl

end

/-- EDGE_ENTRY_ARRIVAL where no context waits after it: its own effect, and no wake. -/
theorem answers_edgeArrival {s : State} {dt : Nat} {e : Edge} {due : Nat} {v : EdgeVal} {t : Mach} {P : Mach → Prop}
    (ht : (s.at dt).edgeArrival e due v = t) (hq : t.Quiet) (h : P t) : Answers (.edgeEntryArrival dt e due v) s P :=
  answers_of rfl ((congrArg Mach.wakeAll ht).trans (Mach.wakeAll_of_quiet hq)) h

/-! ## A late entry: no context begins to wait, no stage has an entry it had not -/

theorem Mach.inc_subsides (m : Mach) (r : RF) : m.Subsides (m.inc r) := .of_eq (by simp) (by simp) (by simp) (by simp)

theorem Mach.wrs_subsides (m : Mach) (l : List (RF × Nat)) : m.Subsides (m.wrs l) :=
  .of_eq (by simp) (by simp) (by simp) (by simp)

theorem Mach.raise_subsides (m : Mach) (src code inst value : Nat) : m.Subsides (m.raise src code inst value) :=
  .of_eq (by simp) (by simp) (by simp) (by simp)

theorem Mach.raiseOnce_subsides (m : Mach) (src code inst value : Nat) : m.Subsides (m.raiseOnce src code inst value) :=
  .of_eq (by simp) (by simp) (by simp) (by simp)

theorem Mach.setSlot_subsides (m : Mach) (s : Fin 160) (x : Slot) : m.Subsides (m.setSlot s x) := .of_eq rfl rfl rfl rfl

theorem foldl_subsides {α : Type} {f : Mach → α → Mach} (hf : ∀ (t : Mach) (a : α), t.Subsides (f t a)) (l : List α)
    (m : Mach) : m.Subsides (l.foldl f m) := by
  induction l generalizing m with
  | nil => exact .refl m
  | cons a l ih => exact (hf m a).trans (ih _)

theorem Mach.noteLate_subsides (m : Mach) (cls inst : Nat) (order : Bool) : m.Subsides (m.noteLate cls inst order) := by
  unfold Mach.noteLate
  exact (m.inc_subsides _).trans ((Mach.wrs_subsides ..).trans (Mach.raise_subsides ..))

theorem Mach.Subsides.dropStage {m t : Mach} (h : m.Subsides t) (d : Edge) :
    m.Subsides { t with stages := dropStage m.stages d } :=
  ⟨h.1, stage_dropStage_subset m _ rfl⟩

/-- A late gate entry: the gate pins go low and the gate's stage is emptied, and the field faults. -/
theorem Mach.lateGate_subsides (m : Mach) (n : Fin 16) : m.Subsides (m.lateGate n) := by
  unfold Mach.lateGate
  have hlow : m.Subsides (m.gateLow n) := .of_stages (.of_field rfl (fun _ => id) rfl rfl) rfl
  exact (hlow.dropStage (.gate n)).trans (Mach.fieldFault_subsides ..)

theorem Mach.directMiss_subsides (m : Mach) (n : Fin 16) : m.Subsides (m.directMiss n) := by
  unfold Mach.directMiss
  dsimp only
  split
  · exact (m.wr_subsides _ _).trans (Mach.fieldFault_subsides ..)
  · exact m.wr_subsides _ _

theorem Mach.loopMiss_subsides (m : Mach) (s : Fin 160) : m.Subsides (m.loopMiss s) := by
  unfold Mach.loopMiss
  split
  · exact (m.setSlot_subsides s _).trans (Mach.fieldFault_subsides ..)
  · exact (m.setSlot_subsides s _).trans (Mach.raise_subsides ..)

theorem Mach.slotMiss_subsides (m : Mach) (s : Fin 160) (order : Bool) : m.Subsides (m.slotMiss s order) := by
  have hmiss : m.Subsides ((m.inc (R.CE_SLOT_MISS_MISS s)).wrs
      [(R.CE_SLOT_STATUS_OVR s, 1), (R.CE_SLOT_STATUS_CONSEC s, min 15 (m.rd (R.CE_SLOT_STATUS_CONSEC s) + 1))]) :=
    (m.inc_subsides _).trans (Mach.wrs_subsides ..)
  unfold Mach.slotMiss
  dsimp only
  generalize Mach.wrs _ _ = t at hmiss ⊢
  have hnote := hmiss.trans (t.noteLate_subsides 1 (t.slotInst s) order)
  generalize t.noteLate 1 _ order = u at hnote ⊢
  have hraise (src inst value : Nat) := hnote.trans (u.raiseOnce_subsides src 0 inst value)
  split
  · exact (hraise ..).trans (Mach.loopMiss_subsides ..)
  · exact hraise ..

theorem Mach.lateDac_subsides (m : Mach) (e : Edge) (n : Fin 16) (port : Nat) (order : Bool) :
    m.Subsides (m.lateDac e n port order) := by
  unfold Mach.lateDac
  split
  · exact m.slotMiss_subsides ..
  · have hnote := m.noteLate_subsides 1 (edgeInst e) order
    dsimp only
    split
    · exact hnote.trans (Mach.directMiss_subsides ..)
    · exact hnote

theorem Mach.fdlSend_subsides (m : Mach) (n : Fin 16) (x y : BitVec 16) : m.Subsides (m.fdlSend n x y) :=
  .of_stages (.of_field rfl (fun _ => id) rfl rfl) rfl

theorem Mach.fdlPut_subsides (m : Mach) (n : Fin 16) (x y : BitVec 16) : m.Subsides (m.fdlPut n x y) := by
  unfold Mach.fdlPut
  split
  · exact .refl m
  · split
    · exact m.fdlSend_subsides ..
    · exact m.fdlSend_subsides ..

/-- A late deflection: the last one is sent again, and more than four in a row fault the field. -/
theorem Mach.fdlLate_subsides (m : Mach) (n : Fin 16) : m.Subsides (m.fdlLate n) := by
  have hput := m.fdlPut_subsides n m.fe[n].spl.lastX m.fe[n].spl.lastY
  unfold Mach.fdlLate
  dsimp only
  generalize m.fdlPut n _ _ = t at hput ⊢
  have hset : m.Subsides (t.setField n { t.fe[n] with spl := { t.fe[n].spl with lateRun := m.fe[n].spl.lateRun + 1 } }) :=
    hput.trans (Mach.setField_subsides rfl)
  split
  · exact hset.trans (Mach.fieldFault_subsides ..)
  · exact hset

theorem Mach.setAxis_noNewWait {m : Mach} {a : Fin 8} {x : Axis} (h : x.ctx = m.axis[a].ctx) :
    m.NoNewWait (m.setAxis a x) := by
  refine .of_parts (fun _ _ => id) rfl fun k => ?_
  by_cases hk : k = a
  · subst hk
    exact (congrArg Axis.ctx (set_fin_self m.axis k x)).trans h
  · exact congrArg Axis.ctx (set_fin_ne m.axis x hk)

theorem Mach.frameFaults_subsides (m : Mach) (src : Nat) : m.Subsides (m.frameFaults src) := by
  unfold Mach.frameFaults
  refine foldl_subsides (fun t n => ?_) _ m
  split
  · exact t.fieldFault_subsides ..
  · exact .refl t

/-- STEPLATE stops the axis and leaves its context. -/
theorem Mach.axisFault_steplate_subsides (m : Mach) (a : Fin 8) : m.Subsides (m.axisFault a aSteplate false) := by
  have hset : m.Subsides (m.setAxis a (m.axFaultMotion a m.axis[a] aSteplate)) :=
    .of_stages (Mach.setAxis_noNewWait rfl) rfl
  unfold Mach.axisFault
  dsimp only
  generalize m.setAxis a _ = t at hset ⊢
  split
  · exact hset
  · exact hset.trans ((t.wrs_subsides _).trans ((Mach.raise_subsides ..).trans (Mach.frameFaults_subsides ..)))

theorem Mach.lateEdge_subsides (m : Mach) (e : Edge) (order : Bool) : m.Subsides (m.lateEdge e order) := by
  cases e with
  | gate n => exact (m.noteLate_subsides 0 n order).trans (Mach.lateGate_subsides ..)
  | lpwr n => exact m.lateDac_subsides ..
  | gxc n => exact m.lateDac_subsides ..
  | gyc n => exact m.lateDac_subsides ..
  | gzc n => exact m.lateDac_subsides ..
  | fdl n => exact (m.noteLate_subsides 2 n order).trans (Mach.fdlLate_subsides ..)
  | step a => exact ((m.noteLate_subsides 3 a order).dropStage (.step a)).trans (Mach.axisFault_steplate_subsides ..)
  | trig p => exact m.noteLate_subsides ..
  | cyc p => exact m.noteLate_subsides ..

/-! ## What is noted of a late entry -/

/-- What was late last: its class, whether it broke the order, and which output it was. -/
def lateLast (cls inst : Nat) (order : Bool) : List (RF × Nat) :=
  [(R.TIM_LATE_LAST_CLASS, cls), (R.TIM_LATE_LAST_ORDER, bool01 order), (R.TIM_LATE_LAST_INST, inst)]

/-- The count and TIM_LATE_LAST, and the raise of source 20 (R58). -/
theorem Mach.noteLate_eq (m : Mach) (cls inst : Nat) (order : Bool) : ∃ value, m.noteLate cls inst order =
    Mach.raise { m with regs := rwrs (rinc m.regs (R.TIM_LATE cls)) (lateLast cls inst order) } 20 0 inst value :=
  ⟨_, rfl⟩

theorem Mach.noteLate_only (m : Mach) (cls inst : Nat) (order : Bool) :
    m.OnlyRaised (m.noteLate cls inst order) 20 [(R.TIM_LATE cls).a, R.TIM_LATE_LAST_CLASS.a] := by
  obtain ⟨value, he⟩ := m.noteLate_eq cls inst order
  rw [he]
  refine m.regs_raise_only (by decide) fun a ha => ?_
  simp only [List.mem_cons, List.not_mem_nil, or_false, not_or] at ha
  obtain ⟨hc, hl⟩ := ha
  refine (rget_rwrs_ne _ _ fun p hp => ?_).trans (rget_rinc_ne hc)
  simp only [lateLast, List.mem_cons, List.not_mem_nil, or_false] at hp
  rcases hp with rfl | rfl | rfl <;> exact hl

theorem Mach.noteLate_rd (m : Mach) {cls inst : Nat} {order : Bool} {r : RF} (h : r.a ∉ raiseRegs 20) :
    (m.noteLate cls inst order).rd r = rrd (rwrs (rinc m.regs (R.TIM_LATE cls)) (lateLast cls inst order)) r := by
  obtain ⟨value, he⟩ := m.noteLate_eq cls inst order
  rw [he]
  generalize rwrs _ _ = g
  exact Mach.rd_congr (m := { m with regs := g }) (Mach.raise_word_ne h)

/-- A trigger entry out of order, as TIM_LATE and TIM_LATE_LAST show it. -/
theorem Mach.noteLate_trig (m : Mach) (p : Fin 20) :
    (m.rd (R.TIM_LATE 4) + 1 < 2 ^ 16 → (m.noteLate 4 p true).rd (R.TIM_LATE 4) = m.rd (R.TIM_LATE 4) + 1) ∧
    (m.noteLate 4 p true).rd R.TIM_LATE_LAST_CLASS = 4 ∧ (m.noteLate 4 p true).rd R.TIM_LATE_LAST_ORDER = 1 ∧
    (m.noteLate 4 p true).rd R.TIM_LATE_LAST_INST = p := by
  rw [m.noteLate_rd (by decide), m.noteLate_rd (by decide), m.noteLate_rd (by decide), m.noteLate_rd (by decide)]
  have hp : p.val % 2 ^ 8 = p := Nat.mod_eq_of_lt (by omega)
  refine ⟨fun h => ?_, ?_, ?_, ?_⟩
  · rw [rrd_rwrs_apart (by decide) _ _ ?_]
    · exact rrd_rinc (by decide) (by decide) h
    · simp only [lateLast, List.forall_mem_cons]
      decide
  · refine rrd_rwrs_written [] [_, _] _ (by decide) (by decide) ?_
    simp only [List.forall_mem_cons]
    decide
  · refine rrd_rwrs_written [_] [_] _ (by decide) (by decide) ?_
    simp only [List.forall_mem_cons]
    decide
  · exact (rrd_rwrs_written [_, _] [] _ (by decide) (by decide) (by decide)).trans hp

/-- Settles O11: each clause is one branch of the arrival; a late entry wakes nobody, so no context runs on. -/
theorem edgeQueueOrder : Obligations.EdgeQueueOrder := by
  unfold Obligations.EdgeQueueOrder
  rintro s dt e due val m rfl hq hfit
  have hlate (order : Bool) : ((s.at dt).lateEdge e order).Quiet := ((s.at dt).lateEdge_subsides e order).1.quiet hq
  refine ⟨fun h => ?_, fun h hv hany => ?_, fun h hbefore => ?_⟩
  · exact answers_edgeArrival (Mach.edgeArrival_late val hfit h) (hlate false) rfl
  · have ht := Mach.edgeArrival_pushed val hfit h hv
    rw [Stage.push_replace hany] at ht
    refine answers_edgeArrival ht (Mach.setStage_quiet hq e _) ?_
    rw [Mach.stage_setStage_same]
    exact ⟨rfl, rfl, rfl, fun e' he => Mach.stage_setStage_ne _ _ he, rfl⟩
  · obtain ⟨d, hd, hlt⟩ := hbefore
    have hv := Stage.violates_of_before hd hlt
    refine answers_edgeArrival (Mach.edgeArrival_violation val hfit h hv) (hlate true)
      ⟨rfl, ((s.at dt).lateEdge_subsides e true).2 e, ?_⟩
    rintro p rfl
    obtain ⟨hcount, hclass, horder, hinst⟩ := (s.at dt).noteLate_trig p
    have honly := (s.at dt).noteLate_only 4 p true
    exact ⟨hcount, hclass, horder, hinst, honly.1, honly⟩

end Sys2Proof.Machine
end

section
/-! PROOF. Edge stages: an entry presented at its due instant (R54, R56, R57, R213, R215, R469). -/
namespace Sys2Proof.Machine

/-! ## What presenting an entry leaves -/

/-- Presenting: no context begins to wait, and the writers that are held stay held. -/
def Mach.HeldAs (m t : Mach) : Prop := m.NoNewWait t ∧ ∀ e, (t.stage e).held = (m.stage e).held

theorem Mach.HeldAs.refl (m : Mach) : m.HeldAs m := ⟨fun _ => id, fun _ => rfl⟩

theorem Mach.HeldAs.trans {m t u : Mach} (h : m.HeldAs t) (h' : t.HeldAs u) : m.HeldAs u :=
  ⟨fun x hx => h'.1 x (h.1 x hx), fun e => (h'.2 e).trans (h.2 e)⟩

theorem Mach.HeldAs.of_stages {m t : Mach} (h : m.NoNewWait t) (hs : t.stages = m.stages) : m.HeldAs t :=
  ⟨h, fun e => by rw [stage_congr hs]⟩

theorem Mach.inc_heldAs (m : Mach) (r : RF) : m.HeldAs (m.inc r) := .of_stages (m.inc_subsides r).1 (by simp)

theorem Mach.setStage_heldAs (m : Mach) (e : Edge) {s : Stage} (h : s.held = (m.stage e).held) :
    m.HeldAs (m.setStage e s) := by
  refine ⟨fun _ => id, fun e' => ?_⟩
  by_cases he : e' = e
  · subst he
    rw [Mach.stage_setStage_same, h]
  · rw [m.stage_setStage_ne s he]

/-- A power code: the laser's record, the pin behind the clamp, and registers (R215, R469). -/
theorem Mach.presentPower_frame (m : Mach) (n : Fin 16) (c : Int) : ∃ l g, m.presentPower n c =
    { m.setField n { m.fe[n] with lch := l } with
      regs := g
      pins := m.pins.set n { m.pins[n] with lpwr := BitVec.ofInt 20 (if m.outSafe n then 0 else m.outCode n c) } } :=
  ⟨_, _, rfl⟩

theorem Mach.fdlPut_stages (m : Mach) (n : Fin 16) (x y : BitVec 16) : (m.fdlPut n x y).stages = m.stages := by
  unfold Mach.fdlPut
  split
  · rfl
  · split <;> rfl

theorem Mach.presentPower_heldAs (m : Mach) (n : Fin 16) (c : Int) : m.HeldAs (m.presentPower n c) := by
  obtain ⟨l, g, he⟩ := m.presentPower_frame n c
  rw [he]
  exact .of_stages (.of_field rfl (fun _ => id) rfl rfl) rfl

theorem Mach.stepEdge_heldAs (m : Mach) (a : Fin 8) (step dir : Bool) : m.HeldAs (m.stepEdge a step dir) := by
  refine .of_stages (.of_parts (fun _ _ => id) rfl fun k => ?_) rfl
  unfold Mach.stepEdge
  dsimp only
  by_cases hk : k = a
  · subst hk
    rw [set_fin_self]
  · rw [set_fin_ne _ _ hk]

/-- A step too soon after a change of direction is put back for the instant at which it may be made. -/
theorem Mach.presentStep_heldAs (m : Mach) (a : Fin 8) (step dir : Bool) : m.HeldAs (m.presentStep a step dir) := by
  unfold Mach.presentStep
  split
  · exact .refl m
  · split
    · refine Mach.HeldAs.trans ?_ (Mach.inc_heldAs ..)
      exact m.setStage_heldAs (.step a) rfl
    · exact m.stepEdge_heldAs a step dir

theorem Mach.trigPresented_heldAs (m : Mach) (p : Fin 20) : m.HeldAs (m.trigPresented p) := by
  unfold Mach.trigPresented
  dsimp only
  split
  · exact ⟨fun _ => id, fun _ => rfl⟩
  · exact ⟨fun _ => id, fun _ => rfl⟩

theorem Mach.cycSend_heldAs (m : Mach) (p : Fin 2) (due : Nat) : m.HeldAs (m.cycSend p due) := by
  unfold Mach.cycSend
  split
  · exact .refl m
  · split
    · exact (m.inc_heldAs (R.RNG_P_TXFRAMES p)).trans ⟨fun _ => id, fun _ => rfl⟩
    · exact .refl m

theorem Mach.present_heldAs (m : Mach) (e : Edge) (due : Nat) (v : EdgeVal) : m.HeldAs (m.present e due v) := by
  unfold Mach.present
  split
  case h_1 n g l => exact .of_stages (.of_field rfl (fun _ => id) rfl rfl) rfl
  case h_2 n c => exact m.presentPower_heldAs n _
  case h_3 n c => exact .of_stages (fun _ => id) rfl
  case h_4 n c => exact .of_stages (fun _ => id) rfl
  case h_5 n c => exact .of_stages (fun _ => id) rfl
  case h_6 n x y => exact .of_stages (m.fdlPut_subsides n x y).1 (m.fdlPut_stages n x y)
  case h_7 a s d => exact m.presentStep_heldAs a s d
  case h_8 p => exact m.trigPresented_heldAs p
  case h_9 p => exact m.cycSend_heldAs p due
  case h_10 => exact .refl m

/-! ## EDGE_PRESENT -/

theorem Mach.edgePresent_none {m : Mach} {e : Edge} (h : (m.stage e).q.find? (·.due == m.mt) = none) :
    m.edgePresent e = m := by
  unfold Mach.edgePresent
  dsimp only
  rw [h]

/-- The stage's queue after the entry that is due: what is due later. -/
def Mach.taken (m : Mach) (e : Edge) : Mach :=
  m.setStage e { m.stage e with q := (m.stage e).q.filter fun y => decide (m.mt < y.due) }

theorem Mach.taken_q (m : Mach) (e : Edge) :
    ((m.taken e).stage e).q = (m.stage e).q.filter fun y => decide (m.mt < y.due) := by
  unfold Mach.taken
  rw [Mach.stage_setStage_same]

theorem Mach.enterHeld_none {m : Mach} {e : Edge} (h : (m.stage e).held = []) : m.enterHeld e = m := by
  unfold Mach.enterHeld
  dsimp only
  rw [h]

theorem Mach.edgePresent_some {m : Mach} {e : Edge} {x : EdgeEntry}
    (h : (m.stage e).q.find? (·.due == m.mt) = some x) (hheld : (m.stage e).held = []) :
    m.edgePresent e = (m.taken e).present e x.due x.val := by
  have hpres : m.edgePresent e = ((m.taken e).present e x.due x.val).enterHeld e := by
    unfold Mach.edgePresent
    dsimp only
    rw [h]
    rfl
  have htaken : m.HeldAs (m.taken e) := m.setStage_heldAs e rfl
  have hstays := (htaken.trans ((m.taken e).present_heldAs e x.due x.val)).2 e
  exact hpres.trans (Mach.enterHeld_none (hstays.trans hheld))

/-- EDGE_PRESENT of an entry that is due, with no writer held: the entry is presented, and no context runs on. -/
theorem answers_edgePresent {s : State} {dt : Nat} {e : Edge} {x : EdgeEntry} {P : Mach → Prop} (hq : (s.at dt).Quiet)
    (hx : ((s.at dt).stage e).q.find? (·.due == (s.at dt).mt) = some x) (hheld : ((s.at dt).stage e).held = [])
    (h : P (((s.at dt).taken e).present e x.due x.val)) : Answers (.edgePresent dt e) s P := by
  have hquiet : (((s.at dt).taken e).present e x.due x.val).Quiet :=
    (((s.at dt).taken e).present_heldAs e x.due x.val).1.quiet (Mach.setStage_quiet hq ..)
  exact answers_of rfl ((congrArg Mach.wakeAll (Mach.edgePresent_some hx hheld)).trans (Mach.wakeAll_of_quiet hquiet)) h

/-! ## What each kind of entry drives -/

theorem Mach.galvoCode_eq (m : Mach) (n : Fin 16) (c : Code) :
    m.galvoCode n c = if m.pins[n].gen = true ∧ m.pins[n].genAt ≤ m.mt then c else 0 := by
  unfold Mach.galvoCode
  simp only [Bool.and_eq_true, decide_eq_true_eq]

/-- A change of stages and of the pins of one field. -/
def Mach.driven (m : Mach) (n : Fin 16) (p : FieldPins) (l : List (Edge × Stage)) : Mach :=
  { m with stages := l, pins := m.pins.set n p }

theorem Mach.driven_pins (m : Mach) (n : Fin 16) (p : FieldPins) (l : List (Edge × Stage)) :
    (m.driven n p l).pins[n] = p := set_fin_self m.pins n p

section
variable (m : Mach) (e : Edge) (n : Fin 16) (due : Nat) (c : Code)

theorem Mach.present_gxc : (m.taken e).present (.gxc n) due (.dac c) =
    m.driven n { m.pins[n] with gxc := m.galvoCode n c } (m.taken e).stages := rfl

theorem Mach.present_gyc : (m.taken e).present (.gyc n) due (.dac c) =
    m.driven n { m.pins[n] with gyc := m.galvoCode n c } (m.taken e).stages := rfl

theorem Mach.present_gzc : (m.taken e).present (.gzc n) due (.dac c) =
    m.driven n { m.pins[n] with gzc := m.galvoCode n c } (m.taken e).stages := rfl

/-- A gate entry: both gate pins, under the gate's permit (R213). -/
theorem Mach.present_gate (g l : Bool) : ∃ rise, ((m.taken e).present (.gate n) due (.gate g l)).pins =
    m.pins.set n { m.pins[n] with lgate := g && m.gatePermit n, lmod := l && m.gatePermit n, rise := rise } :=
  ⟨_, rfl⟩

end

theorem Mach.presentPower_regs (m : Mach) (n : Fin 16) (c : Int) : ∃ (clamps : Bool) (o : Nat), (m.presentPower n c).regs =
    rwr (if clamps then rinc m.regs (R.FE_LCH_CLAMPN n) else m.regs) (R.FE_LCH_COUT n) o :=
  ⟨_, _, rfl⟩

theorem Mach.presentPower_keeps (m : Mach) (n : Fin 16) (c : Int) :
    m.Keeps (m.presentPower n c) [(R.FE_LCH_CLAMPN n).a, (R.FE_LCH_COUT n).a] := by
  intro a ha
  simp only [List.mem_cons, List.not_mem_nil, or_false, not_or] at ha
  obtain ⟨hclamp, hcout⟩ := ha
  obtain ⟨clamps, o, hregs⟩ := m.presentPower_regs n c
  unfold Mach.word
  rw [hregs, rget_rwr_ne hcout]
  split
  · exact rget_rinc_ne hclamp
  · rfl

/-- Settles O12: the arrival's push, and of EDGE_PRESENT each kind of entry; neither lets a context wait. -/
theorem edgeStagesPresent : Obligations.EdgeStagesPresent := by
  unfold Obligations.EdgeStagesPresent
  rintro s dt e m rfl hq
  refine ⟨fun h => ?_, fun due val hfit h hv hany => ?_, fun x hx hheld => ⟨?_, ?_, ?_, ?_, ?_⟩⟩
  · exact answers_of rfl ((congrArg Mach.wakeAll (Mach.edgePresent_none h)).trans (Mach.wakeAll_of_quiet hq)) rfl
  · refine answers_edgeArrival (Mach.edgeArrival_pushed val hfit h hv) (Mach.setStage_quiet hq ..) ?_
    rw [Mach.stage_setStage_same]
    exact ⟨fun hl => Stage.push_append hany hl, fun hl => Stage.push_held hany hl,
      fun e' he => Mach.stage_setStage_ne _ _ he, rfl⟩
  · exact answers_edgePresent hq hx hheld rfl
  · rintro n c (rfl | rfl) hc
    · refine answers_edgePresent hq hx hheld ?_
      rw [hc, Mach.present_gyc, Mach.driven_pins, if_pos rfl]
      exact ⟨Mach.galvoCode_eq .., rfl⟩
    · refine answers_edgePresent hq hx hheld ?_
      rw [hc, Mach.present_gzc, Mach.driven_pins, if_neg (by simp)]
      exact ⟨Mach.galvoCode_eq .., rfl⟩
  · rintro n c rfl hc
    refine answers_edgePresent hq hx hheld ?_
    rw [hc, Mach.present_gxc, Mach.driven_pins]
    exact ⟨Mach.galvoCode_eq .., Mach.taken_q .., rfl⟩
  · rintro n g l rfl hc
    refine answers_edgePresent hq hx hheld ?_
    obtain ⟨rise, hpins⟩ := (s.at dt).present_gate (.gate n) n x.due g l
    rw [hc, hpins, set_fin_self]
    exact ⟨rfl, rfl, Mach.taken_q .., rfl, fun k hk => set_fin_ne _ _ hk⟩
  · rintro n c rfl hc
    refine answers_edgePresent hq hx hheld ?_
    rw [hc]
    have hkeep := ((s.at dt).taken (.lpwr n)).presentPower_keeps n c.toInt
    obtain ⟨l, g, he⟩ := ((s.at dt).taken (.lpwr n)).presentPower_frame n c.toInt
    refine ⟨?_, hkeep, fun k hk => ?_⟩
    · refine (congrArg (fun t : Mach => t.pins[n].lpwr) he).trans ?_
      exact congrArg FieldPins.lpwr (set_fin_self ..)
    · refine (congrArg (fun t : Mach => t.pins[k]) he).trans ?_
      exact set_fin_ne _ _ hk

end Sys2Proof.Machine
end

section
/-! PROOF. What retiring an instruction leaves of the contexts, of the field and of its waits (R73, R76, R79, R141). -/
namespace Sys2Proof.Machine

/-! ## The record of a context, written and read -/

@[simp] theorem Mach.ctx_setCtx_same (m : Mach) (x : Ctx) (r : CtxRec) : (m.setCtx x r).ctx x = r := by
  cases x <;> simp [Mach.setCtx, Mach.ctx, Field.setCtx]

theorem Mach.ctx_setCtx_ne (m : Mach) {x y : Ctx} (r : CtxRec) (h : y ≠ x) : (m.setCtx x r).ctx y = m.ctx y := by
  cases x with
  | fe n c =>
    cases y with
    | fe k d =>
      show (m.fe.set n (m.fe[n].setCtx c r))[k].ctx[d] = m.fe[k].ctx[d]
      by_cases hk : k = n
      · subst hk
        rw [set_fin_self]
        exact set_fin_ne _ _ fun hd => h (hd ▸ rfl)
      · rw [set_fin_ne _ _ hk]
    | coo d => rfl
    | axe a => rfl
  | coo c =>
    cases y with
    | fe k d => rfl
    | coo d => exact set_fin_ne _ _ fun hd => h (hd ▸ rfl)
    | axe a => rfl
  | axe a =>
    cases y with
    | fe k d => rfl
    | coo d => rfl
    | axe b => exact congrArg Axis.ctx (set_fin_ne _ _ fun hb => h (hb ▸ rfl))

@[simp] theorem Mach.noteFront_ctx (m : Mach) (n : Fin 16) (x : Ctx) : (m.noteFront n).ctx x = m.ctx x := by
  refine Mach.setField_ctx (m := m) (n := n) ?_ x
  rfl

/-! ## A wait in a dwell class -/

/-- Only the dwell of a field, the timeout of its clearance wait, and registers are not as before. -/
def Mach.DwellsOnly (m t : Mach) (n : Fin 16) : Prop :=
  (∃ d b, t.fe = m.fe.set n { m.fe[n] with dwell := d, gtoDone := b }) ∧ t = { m with fe := t.fe, regs := t.regs }

theorem Mach.DwellsOnly.of_regs {m t : Mach} (n : Fin 16) (h : t = { m with regs := t.regs }) : m.DwellsOnly t n := by
  refine ⟨⟨m.fe[n].dwell, m.fe[n].gtoDone, ?_⟩, h.trans ?_⟩
  · rw [h]
    exact (Vector.set_getElem_self n.isLt).symm
  · rw [h]

theorem Mach.DwellsOnly.trans {m t u : Mach} {n : Fin 16} (h : m.DwellsOnly t n) (h' : t.DwellsOnly u n) :
    m.DwellsOnly u n := by
  obtain ⟨⟨d, b, hf⟩, ht⟩ := h
  obtain ⟨⟨d', b', hf'⟩, hu⟩ := h'
  refine ⟨⟨d', b', ?_⟩, hu.trans ?_⟩
  · rw [hf', hf, set_fin_self, Vector.set_set]
  · rw [ht]

theorem Mach.wr_dwellsOnly (m : Mach) (n : Fin 16) (r : RF) (v : Nat) : m.DwellsOnly (m.wr r v) n := .of_regs n rfl

theorem Mach.wr64_dwellsOnly (m : Mach) (n : Fin 16) (lo hi : RF) (v : Nat) : m.DwellsOnly (m.wr64 lo hi v) n :=
  .of_regs n rfl

theorem Mach.dwell_dwellsOnly (m : Mach) (n : Fin 16) (d : Option (Nat × Fin 4)) :
    m.DwellsOnly (m.modField n fun f => { f with dwell := d }) n := ⟨⟨d, m.fe[n].gtoDone, rfl⟩, rfl⟩

theorem Mach.unstick_dwellsOnly (m : Mach) (n : Fin 16) : m.DwellsOnly (m.unstick n) n :=
  have h : m.DwellsOnly (m.setField n { m.fe[n] with gtoDone := false }) n := ⟨⟨m.fe[n].dwell, false, rfl⟩, rfl⟩
  (h.trans (Mach.wr_dwellsOnly _ n _ _)).trans (Mach.wr64_dwellsOnly _ n _ _ _)

theorem Mach.dwellEnd_dwellsOnly (m : Mach) (n : Fin 16) : m.DwellsOnly (m.dwellEnd n) n := by
  unfold Mach.dwellEnd Mach.dwellClose
  split
  · exact .of_regs n rfl
  · have h (v : Nat) (c : Fin 4) := (m.dwell_dwellsOnly n none).trans
      (Mach.wr64_dwellsOnly _ n (R.FE_DWELL_LO n c) (R.FE_DWELL_HI n c) v)
    dsimp only
    split
    · exact (h _ _).trans (Mach.unstick_dwellsOnly _ n)
    · exact h _ _

theorem Mach.dwellIn_dwellsOnly (m : Mach) (n : Fin 16) (k : Fin 4) : m.DwellsOnly (m.dwellIn n k) n := by
  unfold Mach.dwellIn
  split
  · split
    · exact .of_regs n rfl
    · exact (m.dwellEnd_dwellsOnly n).trans (Mach.dwell_dwellsOnly _ n _)
  · exact m.dwell_dwellsOnly n _

theorem Mach.DwellsOnly.field {m t : Mach} {n : Fin 16} (h : m.DwellsOnly t n) :
    ∃ d b, t.fe[n] = { m.fe[n] with dwell := d, gtoDone := b } := by
  obtain ⟨⟨d, b, hf⟩, -⟩ := h
  exact ⟨d, b, by rw [hf, set_fin_self]⟩

theorem Mach.DwellsOnly.ctx {m t : Mach} {n : Fin 16} (h : m.DwellsOnly t n) (x : Ctx) : t.ctx x = m.ctx x := by
  obtain ⟨⟨d, b, hf⟩, ht⟩ := h
  have hx := Mach.setField_ctx (m := m) (n := n) (f := { m.fe[n] with dwell := d, gtoDone := b }) rfl x
  rw [← hx]
  exact Mach.ctx_congr hf (by rw [ht]; rfl) (by rw [ht]; rfl) x

/-! ## What is left where an instruction has retired -/

@[simp] theorem Mach.setField_setField (m : Mach) (n : Fin 16) (f g : Field) :
    (m.setField n f).setField n g = m.setField n g := by
  unfold Mach.setField
  rw [Vector.set_set]

theorem Mach.setField_self (m : Mach) (n : Fin 16) : m.setField n m.fe[n] = m :=
  congrArg (fun v => { m with fe := v }) (Vector.set_getElem_self n.isLt)

theorem Mach.modField_ctx (m : Mach) {n : Fin 16} {g : Field → Field} (h : ∀ f, (g f).ctx = f.ctx) (x : Ctx) :
    (m.modField n g).ctx x = m.ctx x :=
  Mach.setField_ctx (h _) x

theorem Mach.trace_off {m : Mach} {n : Fin 16} (h : m.on (R.FE_TRC_CTRL_EN n) = false) (c : Fin 8) (pc : Addr) (i : TInstr)
    (b : Bool) : m.trace n c pc i b = m := by
  unfold Mach.trace
  rw [h]
  rfl

/-- What retiring changes of a context's record (R73, R76). -/
def CtxRec.retiredTo (r : CtxRec) (st : PState) : CtxRec := { r with ret := st, wait := none, retired := r.retired + 1 }

/-- With the trace off, a field's instruction is counted, and what stands at the front is kept. -/
theorem Mach.retired_fe {m : Mach} {n : Fin 16} (h : m.on (R.FE_TRC_CTRL_EN n) = false) (c : Fin 8) (i : TInstr)
    (st : PState) (b : Bool) :
    m.retired (.fe n c) i st b = (m.setCtx (.fe n c) ((m.ctx (.fe n c)).retiredTo st)).noteFront n := by
  unfold Mach.retired
  dsimp only
  rw [Mach.trace_off (show (m.setCtx (.fe n c) _).on (R.FE_TRC_CTRL_EN n) = false from h)]
  rfl

/-- What retiring the one instruction of a plan leaves of the field: no plan, its frontier at the front (R79). -/
def Field.emptied (f : Field) (t : Nat) (i : TInstr) (w : List (Nat × Option Nat)) (st : PState) : Field :=
  { f with
    plan := [], emit := none, atCk := none, pl := st, barrier := f.barrier && !isBarrier i, prefetch := w
    replan := if replans i then some ⟨.barrier, t, t, none⟩ else none }

/-- The words that are left when the instruction has been decoded. -/
def Mach.wordsLeft (m : Mach) (n : Fin 16) (c : Fin 8) (i : TInstr) : List (Nat × Option Nat) :=
  usedWords m.fe[n].ctx[c].ret.pc i m.fe[n].prefetch

/-- `retireTo` in a field, but for the wait in dwell class 0. -/
def Mach.retireFe (m : Mach) (n : Fin 16) (c : Fin 8) (i : TInstr) (st : PState) : Mach :=
  ((m.setCtx (.fe n c) ((m.ctx (.fe n c)).retiredTo st)).noteFront n).modField n fun f =>
    f.emptied m.mt i (m.wordsLeft n c i) st

theorem Mach.retireTo_fe (m : Mach) (n : Fin 16) (c : Fin 8) (i : TInstr) (st : PState) :
    m.retireTo (.fe n c) i st = if replans i then (m.retireFe n c i st).dwellIn n 0 else m.retireFe n c i st := by
  have hp : (m.setCtx (.fe n c) ((m.ctx (.fe n c)).retiredTo st)).fe[n].prefetch = m.fe[n].prefetch := by
    show (m.fe.set n _)[n].prefetch = _
    rw [set_fin_self]
    rfl
  unfold Mach.retireFe Mach.wordsLeft
  rw [← hp]
  rfl

theorem Mach.retireFe_ctx (m : Mach) (n : Fin 16) (c : Fin 8) (i : TInstr) (st : PState) (y : Ctx) :
    (m.retireFe n c i st).ctx y = (m.setCtx (.fe n c) ((m.ctx (.fe n c)).retiredTo st)).ctx y := by
  unfold Mach.retireFe
  rw [Mach.modField_ctx _ (by exact fun _ => rfl), Mach.noteFront_ctx]

theorem Mach.retireTo_ctx (m : Mach) (x : Ctx) (i : TInstr) (st : PState) (y : Ctx) :
    (m.retireTo x i st).ctx y = (m.setCtx x ((m.ctx x).retiredTo st)).ctx y := by
  cases x with
  | fe n c =>
    rw [Mach.retireTo_fe]
    split
    · exact ((Mach.dwellIn_dwellsOnly _ n 0).ctx y).trans (Mach.retireFe_ctx ..)
    · exact Mach.retireFe_ctx ..
  | coo c => rfl
  | axe a => rfl

theorem Mach.setCtx_quiet {m : Mach} (h : m.Quiet) (x : Ctx) {r : CtxRec} (hr : r.wait = none) : (m.setCtx x r).Quiet := by
  refine Mach.quiet_iff.mpr fun y => ?_
  by_cases hy : y = x
  · rw [hy, Mach.ctx_setCtx_same, hr]
  · rw [Mach.ctx_setCtx_ne _ _ hy, Mach.quiet_iff.mp h y]

theorem Mach.Quiet.of_ctx {m t : Mach} (h : m.Quiet) (hc : ∀ x, t.ctx x = m.ctx x) : t.Quiet :=
  (Mach.someWaits_congr hc).trans h

theorem Mach.retireTo_quiet {m : Mach} (h : m.Quiet) (x : Ctx) (i : TInstr) (st : PState) : (m.retireTo x i st).Quiet :=
  (Mach.setCtx_quiet h x rfl).of_ctx (Mach.retireTo_ctx m x i st)

/-! ## An instruction that stands alone in the plan retires -/

theorem Field.arrive_bare {f : Field} (h : f.ckpts = []) (t : Nat) (ck : Bool) : f.arrive t ck = f.arrive t false := by
  have he : f = { f with ckpts := [] } := by rw [← h]
  rw [he]
  cases ck <;> rfl

/-- What retiring an entry of the plan changes of the field, beside its contexts and what is kept for the statistics. -/
def Field.passed (f : Field) (t : Nat) (e : PlanEntry) : Field :=
  ((f.popEntry.arrive t e.ck).reachBarrier t e.ins).follow e.after

theorem Field.arrive_eq (f : Field) (t : Nat) (ck : Bool) : ∃ a k, f.arrive t ck = { f with atCk := a, ckpts := k } := by
  cases ck
  · exact ⟨none, f.ckpts, rfl⟩
  · exact ⟨_, _, rfl⟩

theorem Field.follow_eq (f : Field) (st : PState) : ∃ p, f.follow st = { f with pl := p } := by
  unfold Field.follow
  split
  · exact ⟨st, rfl⟩
  · exact ⟨f.pl, rfl⟩

theorem Field.passed_eq (f : Field) (t : Nat) (e : PlanEntry) : ∃ a k p, f.passed t e =
    { f with
      plan := f.plan.drop 1, emit := none, atCk := a, ckpts := k, pl := p, barrier := f.barrier && !isBarrier e.ins
      replan := if replans e.ins then some ⟨.barrier, t, t, none⟩ else f.replan } := by
  obtain ⟨a, k, ha⟩ := f.popEntry.arrive_eq t e.ck
  obtain ⟨p, hp⟩ := ((f.popEntry.arrive t e.ck).reachBarrier t e.ins).follow_eq e.after
  refine ⟨a, k, p, hp.trans ?_⟩
  rw [Field.reachBarrier_eq, ha]
  rfl

theorem Mach.retireEntry_of_effect {m t : Mach} {n : Fin 16} {c : Fin 8} {e : PlanEntry}
    (he : m.effect (.fe n c) e.ins = t) (h : t.on (R.FE_TRC_CTRL_EN n) = false) (u : Mach)
    (hu : u = ((t.setCtx (.fe n c) ((t.ctx (.fe n c)).retiredTo e.after)).noteFront n).modField n (·.passed t.mt e)) :
    m.retireEntry n c e = if isBarrier e.ins && u.fe[n].replan.isSome then u.dwellIn n 0 else u := by
  subst he hu
  unfold Mach.retireEntry
  rw [Mach.retired_fe h]
  rfl

theorem Mach.retireFe_replan (m : Mach) (n : Fin 16) (c : Fin 8) (i : TInstr) (st : PState) :
    (m.retireFe n c i st).fe[n].replan.isSome = replans i := by
  have h : (m.retireFe n c i st).fe[n].replan = if replans i then some ⟨.barrier, m.mt, m.mt, none⟩ else none :=
    congrArg Field.replan (set_fin_self ..)
  rw [h]
  cases replans i <;> rfl

/-- A field with the snapshot of its front that `noteFront` keeps. -/
def Field.noted (f : Field) (m : Mach) (n : Fin 16) : Field :=
  { f with
    hist :=
      { at_ := m.mt, pc := f.ctx[f.owner.getD f.lastOwner].ret.pc, owner := f.owner
        layer := BitVec.ofNat 32 (m.rd (R.FE_CTX_LAYER n (f.owner.getD f.lastOwner))), mode := f.lch.poolMode
        nopool := f.lch.nopool, knopool := f.lch.knopool, khold := f.lch.khold, stat := f.lch.poolStat
        target := f.lch.poolTarget } :: keepSnaps m.mt f.hist }

theorem Mach.noteFront_setField (m : Mach) (n : Fin 16) (f : Field) :
    (m.setField n f).noteFront n = m.setField n (f.noted m n) := by
  have h : (m.setField n f).noteFront n = (m.setField n f).setField n ((m.setField n f).fe[n].noted m n) := rfl
  rw [h, Mach.setField_setField, Mach.setField_fe, set_fin_self]

theorem Mach.modField_setField (m : Mach) (n : Fin 16) (f : Field) (g : Field → Field) :
    (m.setField n f).modField n g = m.setField n (g f) := by
  unfold Mach.modField
  rw [Mach.setField_setField, Mach.setField_fe, set_fin_self]

theorem Mach.retireFe_eq (m : Mach) (n : Fin 16) (c : Fin 8) (i : TInstr) (st : PState) :
    m.retireFe n c i st = m.setField n (((m.fe[n].setCtx c (m.fe[n].ctx[c].retiredTo st)).noted m n).emptied m.mt i
      (m.wordsLeft n c i) st) := by
  show Mach.modField (Mach.noteFront (m.setField n _) n) n _ = _
  rw [Mach.noteFront_setField, Mach.modField_setField]
  rfl

end Sys2Proof.Machine
end

section
/-! PROOF. Instructions that act on their context's own state only: any engine retires them with the planner's state
after them (R74, R76); flow instructions (R82 to R85). -/
namespace Sys2Proof.Machine

/-! ## Instructions that act on their context's own state only -/

/-- Neither a motion nor a wait, and without an effect outside the planner. -/
inductive OwnState : TInstr → Prop
  | nop : OwnState .nop
  | br (off) : OwnState (.br off)
  | brc (hint cls idx test off value) : OwnState (.brc hint cls idx test off value)
  | call (off) : OwnState (.call off)
  | ret : OwnState .ret
  | loop (body count) : OwnState (.loop body count)
  | poly (cont rel np close a) : OwnState (.poly cont rel np close 0 a)
  | wobble (freq amp shape) : OwnState (.wobble freq amp shape)
  | setv (jmp v) : OwnState (.setv jmp v)
  | setp (keepp keepd p d) : OwnState (.setp keepp keepd p d)
  | setfocus (z) : OwnState (.setfocus z)
  | setreentry (o r) : OwnState (.setreentry o r)
  | setprofile (km kmat p mat) : OwnState (.setprofile km kmat p mat)
  | depoff : OwnState (.ledger 3 false 0 0)
  | depon : OwnState (.ledger 4 false 0 0)
  | kernel (k3) : OwnState (.ledger 5 k3 0 0)

section
variable {i : TInstr} (h : OwnState i)
include h

theorem OwnState.effect (m : Mach) (x : Ctx) : m.effect x i = m := by cases h <;> rfl

theorem OwnState.waitOf (m : Mach) : m.waitOf i = none := by cases h <;> rfl

theorem OwnState.isMotion : isMotion i = false := by cases h <;> rfl

theorem OwnState.replans : replans i = isBarrier i := by cases h <;> rfl

/-- Where the planner goes on depends on the memory for motions only. -/
theorem OwnState.after (m t : Mach) (st : PState) (b : Bool) : t.after st i b = m.after st i b := by cases h <;> rfl

theorem OwnState.afterSeq (m : Mach) (x : Ctx) (st : PState) (b : Bool) : m.afterSeq x st i b = m.after st i b := by
  cases h <;> rfl

end

/-! ## Such an instruction at the front of a field -/

theorem rowMach_spotEnergy (m : Mach) (n : Fin 16) (c : Fin 8) (i : TInstr) (k : Fin 16) :
    (rowMach m n c i).spotEnergy k = m.spotEnergy k := by
  have hs (t : Nat) : (rowMach m n c i).fe[k].spotAt t = m.fe[k].spotAt t := by
    by_cases hk : k = n
    · rw [hk, rowMach_fe]
      rfl
    · exact congrArg (Field.spotAt · t) (set_fin_ne _ _ hk)
  have hb : (rowMach m n c i).bedAt k m.mt = m.bedAt k m.mt := by
    unfold Mach.bedAt
    rw [hs]
    rfl
  unfold Mach.spotEnergy
  rw [show (rowMach m n c i).mt = m.mt from rfl, hb]
  rfl

/-- The planner decodes an instruction alone: what a BRC tests stands as before (R84). -/
theorem rowMach_outcome (m : Mach) (n : Fin 16) (c : Fin 8) (i j : TInstr) (x : Ctx) :
    (rowMach m n c i).outcome x j = m.outcome x j := by
  cases j with
  | brc hint cls idx test off value =>
    show ((rowMach m n c i).brcCond x cls idx value != (test == 1)) = (m.brcCond x cls idx value != (test == 1))
    unfold Mach.brcCond
    rw [rowMach_spotEnergy]
    rfl
  | _ => rfl

/-- A field whose plan is one instruction, decoded as it is reached. -/
def Field.decoded (f : Field) (e : PlanEntry) (w : List (Nat × Option Nat)) : Field :=
  { f with plan := [e], pl := e.after, prefetch := w }

theorem Field.decoded_passed {f : Field} (hr : f.replan = none) (hk : f.ckpts = []) (t : Nat) (e₀ e : PlanEntry)
    (w : List (Nat × Option Nat)) : (f.decoded e₀ w).passed t e = f.emptied t e.ins w e.after := by
  unfold Field.passed
  rw [Field.arrive_bare (show (f.decoded e₀ w).popEntry.ckpts = [] from hk)]
  exact Field.plain_pop { f with prefetch := w } e₀ t e.ins e.after e₀.after hr

theorem rowMach_eq (m : Mach) (n : Fin 16) (c : Fin 8) (i : TInstr) :
    rowMach m n c i = m.setField n (m.fe[n].decoded (rowEntry m n c i) (m.wordsLeft n c i)) := rfl

theorem Mach.setField_setCtx (m : Mach) (n : Fin 16) (c : Fin 8) (f : Field) (r : CtxRec) :
    (m.setField n f).setCtx (.fe n c) r = m.setField n (f.setCtx c r) := by
  show (m.setField n f).setField n ((m.setField n f).fe[n].setCtx c r) = _
  rw [Mach.setField_setField, Mach.setField_fe, set_fin_self]

/-- The module once the instruction, decoded alone, has retired without an effect elsewhere. -/
theorem rowMach_retireFe {m : Mach} {n : Fin 16} (hr : m.fe[n].replan = none) (hk : m.fe[n].ckpts = []) (c : Fin 8)
    (e : PlanEntry) : m.retireFe n c e.ins e.after = (((rowMach m n c e.ins).setCtx (.fe n c)
      (((rowMach m n c e.ins).ctx (.fe n c)).retiredTo e.after)).noteFront n).modField n (·.passed m.mt e) := by
  rw [rowMach_ctx, rowMach_eq, Mach.setField_setCtx, Mach.noteFront_setField, Mach.modField_setField, Mach.retireFe_eq]
  exact congrArg (m.setField n) (Field.decoded_passed (f := (m.fe[n].setCtx c _).noted m n) hr hk m.mt _ e _).symm

section
variable {m : Mach} {n : Fin 16} {c : Fin 8} {i : TInstr} (h : m.AtFront (.fe n c) i)
include h

theorem Mach.AtFront.replan : m.fe[n].replan = none := by
  obtain ⟨-, -, -, -, -, -, -, -, -, hreplan, -⟩ := h
  exact hreplan

theorem Mach.AtFront.ckpts : m.fe[n].ckpts = [] := by
  obtain ⟨-, -, -, -, -, -, -, -, -, -, hckpts, -⟩ := h
  exact hckpts

theorem Mach.AtFront.traceOff : m.on (R.FE_TRC_CTRL_EN n) = false := by
  obtain ⟨-, -, -, -, -, -, -, -, -, -, -, htrace, -⟩ := h
  exact htrace

end

theorem rowMach_retireEntry {m : Mach} {n : Fin 16} {c : Fin 8} {e : PlanEntry} (h : m.AtFront (.fe n c) e.ins)
    (ho : OwnState e.ins) : (rowMach m n c e.ins).retireEntry n c e = m.retireTo (.fe n c) e.ins e.after := by
  have ht : (rowMach m n c e.ins).on (R.FE_TRC_CTRL_EN n) = false := h.traceOff
  rw [Mach.retireEntry_of_effect (ho.effect _ _) ht _ (rowMach_retireFe h.replan h.ckpts c e), Mach.retireTo_fe,
    Mach.retireFe_replan, ho.replans, Bool.and_self]

/-- The planner's frontier stands where the instruction leaves it. -/
theorem Mach.retireTo_pl (m : Mach) (n : Fin 16) (c : Fin 8) (i : TInstr) (st : PState) :
    (m.retireTo (.fe n c) i st).fe[n].pl = st := by
  have hf : (m.retireFe n c i st).fe[n].pl = st := congrArg Field.pl (set_fin_self ..)
  rw [Mach.retireTo_fe]
  split
  · obtain ⟨d, b, hd⟩ := (Mach.dwellIn_dwellsOnly (m.retireFe n c i st) n 0).field
    rw [hd, hf]
  · exact hf

theorem Mach.modField_pl {m : Mach} {n : Fin 16} {st : PState} (h : m.fe[n].pl = st) :
    m.modField n (fun f => { f with pl := st }) = m := by
  subst h
  exact m.setField_self n

section
variable {m : Mach} {n : Fin 16} {c : Fin 8} {i : TInstr} (h : m.AtFront (.fe n c) i)
include h

/-- A BRC at the planner's frontier is resolved by its outcome: nothing is squashed (R84, R137). -/
theorem rowMach_resolve (ho : OwnState i) : (rowMach m n c i).resolve n c (rowEntry m n c i) =
    m.retireTo (.fe n c) i (m.after m.fe[n].ctx[c].ret i (m.outcome (.fe n c) i)) := by
  have hckpts : (rowMach m n c i).fe[n].ckpts = [] := by
    rw [rowMach_fe]
    exact h.ckpts
  have hctx : (rowMach m n c i).fe[n].ctx[c] = m.fe[n].ctx[c] := rowMach_ctx m n c i (.fe n c)
  unfold Mach.resolve
  dsimp only
  rw [hckpts, hctx, show (rowEntry m n c i).ins = i from rfl, rowMach_outcome, ho.after m]
  split
  · exact (congrArg (Mach.modField · n _) (rowMach_retireEntry (e := rowEntry m n c i) h ho)).trans
      (Mach.modField_pl (Mach.retireTo_pl ..))
  · exact rowMach_retireEntry (e := { rowEntry m n c i with ck := true }) h ho

/-- Nothing but the context's state and the planner's have changed. -/
theorem rowMach_reachFe (ho : OwnState i) : (rowMach m n c i).reachFe n c (rowEntry m n c i) =
    m.retireTo (.fe n c) i (m.after m.fe[n].ctx[c].ret i (m.outcome (.fe n c) i)) := by
  have hr := rowMach_resolve h ho
  have he := rowMach_retireEntry (e := rowEntry m n c i) h ho
  cases ho with
  | brc => exact hr
  | _ => exact he

end

theorem rowGo_retired {n : Fin 16} {c : Fin 8} {k : Nat} {m : Mach} (h : m.fe[n].ctx[c].retired ≠ k) (fuel : Nat) :
    Mach.rowGo n c k fuel m = m := by
  cases fuel with
  | zero => rfl
  | succ fuel => exact if_pos (.inr h)

theorem rowFe_ownState {m : Mach} {n : Fin 16} {c : Fin 8} {i : TInstr} (h : m.AtFront (.fe n c) i) (ho : OwnState i) :
    m.rowFe n c i = m.retireTo (.fe n c) i (m.after m.fe[n].ctx[c].ret i (m.outcome (.fe n c) i)) := by
  rw [rowFe_reach h ho.isMotion, rowMach_reachFe h ho]
  refine rowGo_retired ?_ 7
  rw [show (m.retireTo (.fe n c) i _).fe[n].ctx[c] = _ from Mach.retireTo_ctx m (.fe n c) i _ (.fe n c),
    Mach.ctx_setCtx_same]
  exact Nat.succ_ne_self _

theorem rowSeq_ownState {m : Mach} {x : Ctx} {i : TInstr} (hx : ctxEng x ≠ .fe) (h : m.AtFront x i) (ho : OwnState i) :
    m.rowSeq x i = m.retireTo x i (m.after (m.ctx x).ret i (m.outcome x i)) := by
  rw [rowSeq_retires hx h (ho.waitOf m), ho.effect, ho.afterSeq]
  cases x with
  | fe n c => exact absurd rfl hx
  | coo c => rfl
  | axe a => rfl

theorem execT_fe {m t : Mach} {n : Fin 16} {c : Fin 8} {i : TInstr} (h : m.rowFe n c i = t) (hq : t.Quiet) :
    (m.execT (.fe n c) i).wakeAll = t := by
  show (m.rowFe n c i).wakeAll.wakeAll = t
  rw [h, Mach.wakeAll_of_quiet hq, Mach.wakeAll_of_quiet hq]

theorem execT_seq {m t : Mach} {x : Ctx} {i : TInstr} (hx : ctxEng x ≠ .fe) (h : m.rowSeq x i = t) (hq : t.Quiet) :
    (m.execT x i).wakeAll = t := by
  have he : m.execT x i = (m.rowSeq x i).wakeAll := by
    cases x with
    | fe n c => exact absurd rfl hx
    | coo c => rfl
    | axe a => rfl
  rw [he, h, Mach.wakeAll_of_quiet hq, Mach.wakeAll_of_quiet hq]

/-- Such an instruction at the front of any context retires with the planner's state after it (R74, R76). -/
theorem execT_ownState {m : Mach} {x : Ctx} {i : TInstr} (h : m.AtFront x i) (ho : OwnState i) :
    (m.execT x i).wakeAll = m.retireTo x i (m.after (m.ctx x).ret i (m.outcome x i)) := by
  have hq := Mach.retireTo_quiet h.1 x i (m.after (m.ctx x).ret i (m.outcome x i))
  cases x with
  | fe n c => exact execT_fe (rowFe_ownState h ho) hq
  | coo c => exact execT_seq (by nofun) (rowSeq_ownState (by nofun) h ho) hq
  | axe a => exact execT_seq (by nofun) (rowSeq_ownState (by nofun) h ho) hq

/-- A command that is the reach of such an instruction. -/
theorem answers_ownState {s : State} {dt : Nat} {m : Mach} {x : Ctx} {i : TInstr} {k : Instr} {st : PState}
    (he : exec k s = s.done (((s.at dt).execT x i).wakeAll)) (hm : m = s.at dt) (ho : OwnState i) (h : m.AtFront x i)
    (hst : m.after (m.ctx x).ret i (m.outcome x i) = st) : Answers k s (· = m.retireTo x i st) := by
  subst hm hst
  exact answers_of he (execT_ownState h ho) rfl

theorem Answers.imp {k : Instr} {s : State} {P Q : Mach → Prop} (h : Answers k s P) (hpq : ∀ t, P t → Q t) :
    Answers k s Q := by
  obtain ⟨t, he, hp⟩ := h
  exact ⟨t, he, hpq t hp⟩

/-! ## Calls, loops and branches (R83 to R85) -/

theorem after_ret (m : Mach) {st : PState} {c : CallEntry} {rest : List CallEntry} (h : st.calls = c :: rest) (b : Bool) :
    m.after st .ret b = PState.goTo
      { st with calls := rest, loops := st.loops.drop (st.loops.length - c.depth), spin := st.spin + 1 } c.ret := by
  have hst : st = { st with calls := c :: rest } := by rw [← h]
  rw [hst]
  rfl

theorem after_loop_none (m : Mach) (st : PState) (body : BitVec 16) (b : Bool) :
    m.after st (.loop body 0) b = st.next (8 + (body.setWidth 36 <<< (3 : Nat))) := by
  unfold PState.next
  rw [← BitVec.add_assoc]
  rfl

theorem after_loop (m : Mach) (st : PState) (body : BitVec 16) {count : Word} (h : count ≠ 0) (b : Bool) :
    m.after st (.loop body count) b =
      { st with
        pc := st.pc + 8, loops := ⟨st.pc + 8, st.pc + 8 + (body.setWidth 36 <<< (3 : Nat)), count.toNat⟩ :: st.loops
        spin := st.spin + 1 } := if_neg h

/-- No check on the words of an instruction at the front stops it: it is legal, and its operands are good (R544). -/
theorem wordFault_none {m : Mach} {x : Ctx} {st : PState} {i : TInstr} (h : m.wordFault x st i = none) :
    illegal (ctxEng x) i = false ∧ m.operandBad x st i = false := by
  unfold Mach.wordFault at h
  split at h
  · cases h
  · next hi =>
    split at h
    · cases h
    · next ho => exact ⟨eq_false_of_ne_true hi, eq_false_of_ne_true ho⟩

/-- What a BRC tests, by its class, as the statement of R84 has it. -/
structure BrcTests (m : Mach) (x : Ctx) (cls : BitVec 4) (idx : Byte) (value : Word) (cond : Bool) : Prop where
  signal : cls = 1 → cond = m.signals.getLsbD idx.toNat
  flag : ∀ n c, cls = 2 → x = .fe n c → cond = m.pool[n].flags.getLsbD idx.toNat
  energy : ∀ n c, cls = 3 → x = .fe n c → cond = decide (value.toNat ≤ m.spotEnergy n)
  axis : ∀ a : Fin 8, cls = 4 → idx.toNat = a → cond = decide (axCode m.axis[a].st = value.toNat)

section
variable {m : Mach} {x : Ctx} {st : PState} {hint cls test : BitVec 4} {idx : Byte} {off value : Word}
  (hi : illegal (ctxEng x) (.brc hint cls idx test off value) = false)
include hi

/-- A legal BRC is of class 1 to 4, and of class 2 or 3 in a field only (R84). -/
theorem brc_class : cls = 1 ∨ cls = 4 ∨ (cls = 2 ∨ cls = 3) ∧ ∃ n c, x = .fe n c := by
  simp only [illegal, Bool.or_eq_false_iff, Bool.and_eq_false_iff, decide_eq_false_iff_not, bne_eq_false_iff_eq,
    beq_eq_false_iff_ne] at hi
  obtain ⟨-, ⟨-, hcls⟩, heng⟩ := hi
  have hc : cls = 1 ∨ cls = 4 ∨ cls = 2 ∨ cls = 3 := by bv_omega
  rcases hc with h | h | h
  · exact .inl h
  · exact .inr (.inl h)
  · refine .inr (.inr ⟨h, ?_⟩)
    rcases heng with hne | hfe
    · exact absurd h (by tauto)
    · cases x with
      | fe n c => exact ⟨n, c, rfl⟩
      | coo c => cases hfe
      | axe a => cases hfe

variable (ho : m.operandBad x st (.brc hint cls idx test off value) = false)
include ho

theorem brcCond_eq {cond : Bool} (h : BrcTests m x cls idx value cond) : m.brcCond x cls idx value = cond := by
  have hb : brcBad cls idx test off value = false := ho
  simp only [brcBad, Bool.or_eq_false_iff] at hb
  obtain ⟨-, hb⟩ := hb
  rcases brc_class hi with rfl | rfl | ⟨rfl | rfl, n, c, rfl⟩
  · have hx : ¬ 127 < idx.toNat := of_decide_eq_false (Bool.or_eq_false_iff.mp hb).1
    rw [h.signal rfl]
    show m.signals.getLsbD (idx.setWidth 7).toNat = _
    rw [BitVec.toNat_setWidth, Nat.mod_eq_of_lt (by omega)]
  · obtain ⟨hx, hy⟩ := Bool.or_eq_false_iff.mp hb
    have ha : idx.toNat < 8 := Nat.lt_succ_of_le (Nat.not_lt.mp (of_decide_eq_false hx))
    have hv : value.toNat < 16 := by
      have := of_decide_eq_false hy
      omega
    rw [h.axis ⟨idx.toNat, ha⟩ rfl rfl]
    show (axCode m.axis[idx.toNat % 8].st == value.toNat % 16) = _
    simp only [Nat.mod_eq_of_lt ha, Nat.mod_eq_of_lt hv]
    rfl
  · rw [h.flag n c rfl rfl]
    show m.pool[n.val % 16].flags.getLsbD idx.toNat = _
    simp only [Nat.mod_eq_of_lt n.isLt]
    rfl
  · have hv : value.toNat < 65536 := Nat.lt_succ_of_le (Nat.not_lt.mp (of_decide_eq_false (Bool.or_eq_false_iff.mp hb).2))
    rw [h.energy n c rfl rfl]
    show decide (value.toNat % 65536 ≤ m.spotEnergy ⟨n.val % 16, _⟩) = _
    simp only [Nat.mod_eq_of_lt n.isLt, Nat.mod_eq_of_lt hv]

theorem brc_outcome {cond : Bool} (h : BrcTests m x cls idx value cond) :
    m.outcome x (.brc hint cls idx test off value) = decide (cond = decide (test = 0)) := by
  have hb : brcBad cls idx test off value = false := ho
  simp only [brcBad, Bool.or_eq_false_iff, decide_eq_false_iff_not, beq_eq_false_iff_ne] at hb
  obtain ⟨⟨-, htest⟩, -⟩ := hb
  show (m.brcCond x cls idx value != (test == 1)) = _
  rw [brcCond_eq hi ho h]
  have ht : test = 0 ∨ test = 1 := by bv_omega
  rcases ht with rfl | rfl <;> cases cond <;> rfl

end

/-! ## The statements -/

/-- Settles O13: each of these instructions acts on its context's own state only. -/
theorem flowInstructionsRetire : Obligations.FlowInstructionsRetire := by
  intro s dt x m r hm hr
  subst hr
  refine ⟨fun tag h => ?_, fun off h => ?_, fun off h => ?_, fun c rest h hc => ?_, fun body count h => ?_,
    fun hint cls idx test off value h cond hsig hflag hen hax => ?_⟩
  · exact answers_ownState rfl hm .nop h rfl
  · exact answers_ownState rfl hm (.br off) h rfl
  · exact answers_ownState rfl hm (.call off) h rfl
  · exact answers_ownState rfl hm .ret h (after_ret m hc _)
  · refine (answers_ownState rfl hm (.loop body count) h rfl).imp fun t ht => ⟨fun hc => ?_, fun hc => ?_⟩
    · subst hc
      rw [ht, after_loop_none]
    · rw [ht, after_loop m _ body hc]
  · obtain ⟨-, -, hw, -⟩ := id h
    obtain ⟨hi, ho⟩ := wordFault_none hw
    refine answers_ownState rfl hm (.brc hint cls idx test off value) h ?_
    rw [brc_outcome hi ho ⟨hsig, hflag, hen, hax⟩]
    by_cases hc : cond = decide (test = 0)
    · rw [if_pos hc, decide_eq_true hc]
      rfl
    · rw [if_neg hc, decide_eq_false hc]
      rfl

end Sys2Proof.Machine
end

section
/-! PROOF. HALT, LAYEREND and SETPOOL: instructions of a field whose effect is on the field itself (R86, R94, R101, R114). -/
namespace Sys2Proof.Machine

/-! ## One field changed, and one context of it -/

theorem Mach.setField_ctx_set {m : Mach} {n : Fin 16} {c : Fin 8} {f : Field} {r : CtxRec} (h : f.ctx = m.fe[n].ctx.set c r)
    (y : Ctx) : (m.setField n f).ctx y = (m.setCtx (.fe n c) r).ctx y := by
  have hf : f.ctx = (m.setCtx (.fe n c) r).fe[n].ctx :=
    h.trans (congrArg Field.ctx (set_fin_self m.fe n (m.fe[n].setCtx c r))).symm
  rw [← Mach.setField_ctx hf y]
  exact congrArg (Mach.ctx · y) (Mach.setField_setField ..).symm

theorem Field.brake_stands (f : Field) (p : PSeg) : (f.brake p).ctx = f.ctx ∧ (f.brake p).replan = f.replan := by
  unfold Field.brake
  split <;> exact ⟨rfl, rfl⟩

theorem Mach.parkGalvo_fe (m : Mach) (n : Fin 16) :
    ∃ f, m.parkGalvo n = m.setField n f ∧ f.ctx = m.fe[n].ctx ∧ f.replan = m.fe[n].replan := by
  unfold Mach.parkGalvo
  split
  · exact ⟨m.fe[n], (m.setField_self n).symm, rfl, rfl⟩
  · exact ⟨_, rfl, Field.brake_stands ..⟩

/-- The context's kept plan is dropped and the galvo parks: contexts, and what is being replanned, stand. -/
theorem Mach.leftEmission_fe (m : Mach) (n : Fin 16) (c : Fin 8) :
    ∃ f, m.leftEmission (.fe n c) = m.setField n f ∧ f.ctx = m.fe[n].ctx ∧ f.replan = m.fe[n].replan := by
  obtain ⟨f, he, hc, hr⟩ :=
    (m.modField n fun f => { f with keptPlans := f.keptPlans.filter fun k => k.ctx ≠ c }).parkGalvo_fe n
  rw [Mach.modField_fe, set_fin_self] at hc hr
  refine ⟨f.noted m n, ?_, hc, hr⟩
  show Mach.noteFront (Mach.parkGalvo _ n) n = _
  rw [he]
  show ((m.setField n _).setField n f).noteFront n = _
  rw [Mach.setField_setField, Mach.noteFront_setField]

theorem rowMach_setCtx (m : Mach) (n : Fin 16) (c : Fin 8) (i : TInstr) (r : CtxRec) : (rowMach m n c i).setCtx (.fe n c) r =
    m.setField n ((m.fe[n].decoded (rowEntry m n c i) (m.wordsLeft n c i)).setCtx c r) := by
  rw [rowMach_eq, Mach.setField_setCtx]

/-- A context leaves emission at an instruction that stands alone in the plan. -/
theorem Mach.leftEmission_decoded (m : Mach) (n : Fin 16) (c : Fin 8) (e : PlanEntry) (w : List (Nat × Option Nat))
    (r : CtxRec) : ∃ g, (m.setField n ((m.fe[n].decoded e w).setCtx c r)).leftEmission (.fe n c) = m.setField n g ∧
      g.ctx = m.fe[n].ctx.set c r ∧ g.replan = m.fe[n].replan := by
  obtain ⟨g, he, hc, hr⟩ := (m.setField n ((m.fe[n].decoded e w).setCtx c r)).leftEmission_fe n c
  rw [Mach.setField_fe, set_fin_self] at hc hr
  exact ⟨g, he.trans (Mach.setField_setField ..), hc, hr⟩

/-! ## An entry of the plan retires after an effect on the field -/

/-- The field `g` once the entry has retired there. -/
def Field.retires (g : Field) (t : Mach) (n : Fin 16) (c : Fin 8) (e : PlanEntry) : Field :=
  ((g.setCtx c (g.ctx[c].retiredTo e.after)).noted t n).passed t.mt e

theorem Field.retires_eq (g : Field) (t : Mach) (n : Fin 16) (c : Fin 8) (e : PlanEntry) : ∃ h a k p, g.retires t n c e =
    { g with
      ctx := g.ctx.set c (g.ctx[c].retiredTo e.after), hist := h, plan := g.plan.drop 1, emit := none, atCk := a, ckpts := k
      pl := p, barrier := g.barrier && !isBarrier e.ins
      replan := if replans e.ins then some ⟨.barrier, t.mt, t.mt, none⟩ else g.replan } := by
  obtain ⟨a, k, p, hp⟩ := ((g.setCtx c (g.ctx[c].retiredTo e.after)).noted t n).passed_eq t.mt e
  exact ⟨_, a, k, p, hp⟩

section
variable {m t : Mach} {n : Fin 16} {c : Fin 8} {g : Field}

/-- After an effect that is `t` beside the field and `g` in it, with nothing replanned. -/
theorem Mach.retireEntry_field {e : PlanEntry} (he : m.effect (.fe n c) e.ins = t.setField n g)
    (ht : t.on (R.FE_TRC_CTRL_EN n) = false) (hr : replans e.ins = false) (hg : g.replan = none) :
    m.retireEntry n c e = t.setField n (g.retires t n c e) := by
  have ht' : (t.setField n g).on (R.FE_TRC_CTRL_EN n) = false := ht
  have hc : (t.setField n g).ctx (.fe n c) = g.ctx[c] := congrArg (fun f : Field => f.ctx[c]) (set_fin_self ..)
  have hn : (g.retires t n c e).replan.isSome = false := by
    obtain ⟨h, a, k, p, hp⟩ := g.retires_eq t n c e
    rw [hp, hr, hg]
    rfl
  rw [Mach.retireEntry_of_effect he ht' (t.setField n (g.retires t n c e)), Mach.setField_fe, set_fin_self, hn,
    Bool.and_false]
  · rfl
  · rw [hc, Mach.setField_setCtx, Mach.noteFront_setField, Mach.modField_setField]
    rfl

/-- An instruction at the front of a field that leaves the record `r` to its context: it retires from there. -/
theorem rowFe_effect {i : TInstr} {r : CtxRec} (h : m.AtFront (.fe n c) i) (hm : isMotion i = false)
    (hreach : (rowMach m n c i).reachFe n c (rowEntry m n c i) = (rowMach m n c i).retireEntry n c (rowEntry m n c i))
    (he : (rowMach m n c i).effect (.fe n c) i = t.setField n g) (ht : t.on (R.FE_TRC_CTRL_EN n) = false)
    (hr : replans i = false) (hg : g.replan = none) (hc : g.ctx = m.fe[n].ctx.set c r)
    (hn : r.retired = m.fe[n].ctx[c].retired) :
    ∃ f, m.rowFe n c i = t.setField n f ∧ f.ctx = m.fe[n].ctx.set c (r.retiredTo (rowEntry m n c i).after) ∧
      f.lch = g.lch ∧ f.spl = g.spl := by
  have hrow : (rowMach m n c i).retireEntry n c (rowEntry m n c i) = t.setField n (g.retires t n c (rowEntry m n c i)) :=
    Mach.retireEntry_field he ht hr hg
  obtain ⟨_, a, k, p, hp⟩ := g.retires_eq t n c (rowEntry m n c i)
  have hctx : (g.retires t n c (rowEntry m n c i)).ctx = m.fe[n].ctx.set c (r.retiredTo (rowEntry m n c i).after) := by
    rw [hp]
    show g.ctx.set c (g.ctx[c].retiredTo _) = _
    rw [hc, set_fin_self, Vector.set_set]
  refine ⟨g.retires t n c (rowEntry m n c i), ?_, hctx, by rw [hp], by rw [hp]⟩
  rw [rowFe_reach h hm, hreach, hrow]
  refine rowGo_retired ?_ 7
  rw [Mach.setField_fe, set_fin_self, hctx, set_fin_self]
  exact fun e => Nat.succ_ne_self _ (e.trans hn.symm)

end

/-! ## HALT (R86, R101) -/

/-- The record of a context that leaves emission in a state. -/
def CtxRec.leaving (r : CtxRec) (st : CtxSt) : CtxRec := { r with st := st, wait := none, stopReq := false }

/-- The record of a context that has ended by an instruction of its own. -/
def CtxRec.endedAs (r : CtxRec) (st : CtxSt) : CtxRec := (r.leaving st).retiredTo { r.ret with spin := 0 }

theorem lookup_filter_ne {α β : Type} [BEq α] [DecidableEq β] (l : List (α × β)) (b : β) (a : α) :
    (l.filter fun p => p.2 ≠ b).lookup a ≠ some b := by
  induction l with
  | nil => nofun
  | cons p l ih =>
    by_cases hp : p.2 = b
    · rwa [List.filter_cons_of_neg (by simpa using hp)]
    · rw [List.filter_cons_of_pos (by simpa using hp), List.lookup_cons]
      split
      · exact fun h => hp (Option.some.inj h)
      · exact ih

theorem rowMach_haltCtx (m : Mach) (n : Fin 16) (c : Fin 8) (i : TInstr) :
    ∃ g, (rowMach m n c i).haltCtx (.fe n c) = (m.dropTokens (.fe n c)).setField n g ∧
      g.ctx = m.fe[n].ctx.set c (m.fe[n].ctx[c].leaving .halted) ∧ g.replan = m.fe[n].replan := by
  obtain ⟨g, he, hg⟩ := (m.dropTokens (.fe n c)).leftEmission_decoded n c (rowEntry m n c i) (m.wordsLeft n c i)
    (m.fe[n].ctx[c].leaving .halted)
  refine ⟨g, ?_, hg⟩
  rw [← he]
  show ((Mach.setCtx _ _ (((rowMach m n c i).ctx (.fe n c)).leaving .halted)).dropTokens (.fe n c)).leftEmission _ = _
  rw [rowMach_ctx, rowMach_setCtx]
  rfl

theorem Mach.ctx_setCtx_setCtx (m : Mach) (x : Ctx) (r r' : CtxRec) (y : Ctx) :
    ((m.setCtx x r).setCtx x r').ctx y = (m.setCtx x r').ctx y := by
  by_cases hy : y = x
  · rw [hy, Mach.ctx_setCtx_same, Mach.ctx_setCtx_same]
  · rw [Mach.ctx_setCtx_ne _ _ hy, Mach.ctx_setCtx_ne _ _ hy, Mach.ctx_setCtx_ne _ _ hy]

/-- HALT has retired in a context: its record, its tokens, and beside them what belongs to its engine have changed. -/
def Mach.Halts (m : Mach) (x : Ctx) (t : Mach) : Prop :=
  (∀ y, t.ctx y = (m.setCtx x ((m.ctx x).endedAs .halted)).ctx y) ∧ t.tokens = m.tokens.filter (fun p => p.2 ≠ x) ∧
  t = { m with fe := t.fe, coo := t.coo, axis := t.axis, tokens := t.tokens }

theorem rowFe_halt {m : Mach} {n : Fin 16} {c : Fin 8} (h : m.AtFront (.fe n c) .halt) :
    m.Halts (.fe n c) (m.rowFe n c .halt) := by
  obtain ⟨g, he, hc, hr⟩ := rowMach_haltCtx m n c .halt
  obtain ⟨f, hf, hctx, -⟩ := rowFe_effect h rfl rfl he h.traceOff rfl (hr.trans h.replan) hc rfl
  rw [hf]
  exact ⟨fun y => (Mach.setField_ctx_set (m := m.dropTokens (.fe n c)) hctx y).trans (Mach.ctx_congr rfl rfl rfl y),
    rfl, rfl⟩

section
variable {x : Ctx} (hx : ctxEng x ≠ .fe)
include hx

theorem Mach.retired_seq (m : Mach) (i : TInstr) (st : PState) (b : Bool) :
    m.retired x i st b = m.setCtx x ((m.ctx x).retiredTo st) := by
  cases x with
  | fe n c => exact absurd rfl hx
  | coo c => rfl
  | axe a => rfl

theorem Mach.leftEmission_seq (m : Mach) : m.leftEmission x = m := by
  cases x with
  | fe n c => exact absurd rfl hx
  | coo c => rfl
  | axe a => rfl

theorem rowSeq_halt {m : Mach} (h : m.AtFront x .halt) : m.Halts x (m.rowSeq x .halt) := by
  have hs : ((m.setCtx x ((m.ctx x).leaving .halted)).dropTokens x).ctx x = (m.ctx x).leaving .halted :=
    (Mach.ctx_congr rfl rfl rfl x).trans (m.ctx_setCtx_same x _)
  have ht : m.rowSeq x .halt =
      ((m.setCtx x ((m.ctx x).leaving .halted)).dropTokens x).setCtx x ((m.ctx x).endedAs .halted) := by
    rw [rowSeq_retires hx h rfl]
    show Mach.retired (Mach.leftEmission ((m.setCtx x ((m.ctx x).leaving .halted)).dropTokens x) x) x _ _ _ = _
    rw [Mach.leftEmission_seq hx, Mach.retired_seq hx, hs]
    rfl
  rw [ht]
  refine ⟨fun y => Eq.trans ?_ (m.ctx_setCtx_setCtx x ((m.ctx x).leaving .halted) _ y), ?_, ?_⟩
  · cases x <;> exact Mach.ctx_congr rfl rfl rfl y
  · cases x <;> rfl
  · cases x <;> rfl

end

theorem Mach.Halts.quiet {m t : Mach} {x : Ctx} (h : m.Halts x t) (hq : m.Quiet) : t.Quiet :=
  (Mach.setCtx_quiet hq x rfl).of_ctx h.1

/-- HALT at the front of any context. -/
theorem execT_halt {m : Mach} {x : Ctx} (h : m.AtFront x .halt) : m.Halts x (m.execT x .halt).wakeAll := by
  have hseq (hx : ctxEng x ≠ .fe) : m.Halts x (m.execT x .halt).wakeAll :=
    (execT_seq hx rfl ((rowSeq_halt hx h).quiet h.1)).symm ▸ rowSeq_halt hx h
  cases x with
  | fe n c => exact (execT_fe rfl ((rowFe_halt h).quiet h.1)).symm ▸ rowFe_halt h
  | coo c => exact hseq (by nofun)
  | axe a => exact hseq (by nofun)

/-! ## LAYEREND (R86, R114) -/

theorem rowMach_layerEnd (m : Mach) (n : Fin 16) (c : Fin 8) (i : TInstr) :
    ∃ g, (rowMach m n c i).layerEnd (.fe n c) = (m.inc (R.FE_CTX_LAYER n c)).setField n g ∧
      g.ctx = m.fe[n].ctx.set c (m.fe[n].ctx[c].leaving .layerDone) ∧
      g.replan = m.fe[n].replan := by
  obtain ⟨g, he, hg⟩ := (m.inc (R.FE_CTX_LAYER n c)).leftEmission_decoded n c (rowEntry m n c i) (m.wordsLeft n c i)
    (m.fe[n].ctx[c].leaving .layerDone)
  refine ⟨g, ?_, hg⟩
  rw [← he]
  show Mach.leftEmission (Mach.inc (Mach.setCtx (rowMach m n c i) (.fe n c)
    (((rowMach m n c i).ctx (.fe n c)).leaving .layerDone)) (R.FE_CTX_LAYER n c)) (.fe n c) = _
  rw [rowMach_ctx, rowMach_setCtx]
  rfl

theorem execT_layerend_fe {m : Mach} {n : Fin 16} {c : Fin 8} (h : m.AtFront (.fe n c) .layerend) :
    ∃ f, (m.execT (.fe n c) .layerend).wakeAll = (m.inc (R.FE_CTX_LAYER n c)).setField n f ∧
      f.ctx = m.fe[n].ctx.set c (m.fe[n].ctx[c].endedAs .layerDone) := by
  obtain ⟨g, he, hc, hr⟩ := rowMach_layerEnd m n c .layerend
  have ht : (m.inc (R.FE_CTX_LAYER n c)).on (R.FE_TRC_CTRL_EN n) = false := by
    rw [← h.traceOff]
    exact congrArg (· == 1) (rrd_rinc_ne (by omega))
  obtain ⟨f, hf, hctx, -⟩ := rowFe_effect h rfl rfl he ht rfl (hr.trans h.replan) hc rfl
  refine ⟨f, ?_, hctx⟩
  have hq : ((m.inc (R.FE_CTX_LAYER n c)).setField n f).Quiet := by
    refine (Mach.setCtx_quiet h.1 (.fe n c) (r := m.fe[n].ctx[c].endedAs .layerDone) rfl).of_ctx fun y => ?_
    exact (Mach.setField_ctx_set (m := m.inc (R.FE_CTX_LAYER n c)) hctx y).trans (Mach.ctx_congr rfl rfl rfl y)
  exact execT_fe hf hq

/-- The module once LAYEREND of a COO context has retired, but for the event: the layer counts, the context goes on. -/
def Mach.cooLayered (m : Mach) (c : Fin 8) : Mach :=
  { m.retireTo (.coo c) .layerend { m.coo[c].ret.next 8 with spin := 0 } with cooLayer := m.cooLayer + 1 }

theorem execT_layerend_coo {m : Mach} {c : Fin 8} (h : m.AtFront (.coo c) .layerend) :
    (m.execT (.coo c) .layerend).wakeAll = (m.cooLayered c).raise (160 + c) 0x4000 (m.cooLayer + 1).toNat 0 := by
  refine execT_seq (by nofun) ?_ ?_
  · rw [rowSeq_retires (by nofun) h rfl]
    rfl
  · exact (Mach.retireTo_quiet h.1 (.coo c) .layerend { m.coo[c].ret.next 8 with spin := 0 }).congr rfl rfl rfl

/-- Settles O14: a context that ends leaves emission and drops its tokens; a layer counts in its own register. -/
theorem haltAndLayerEnd : Obligations.HaltAndLayerEnd := by
  intro s dt m hm
  refine ⟨fun x h => ?_, fun n c h hl => ?_, fun c h => ?_⟩
  · obtain ⟨hctx, htok, ht⟩ := execT_halt h
    subst hm
    refine ⟨_, rfl, (hctx x).trans (Mach.ctx_setCtx_same ..), fun y hy => (hctx y).trans (Mach.ctx_setCtx_ne _ _ hy),
      fun k => ?_, htok, ht⟩
    unfold Mach.holds Mach.holder
    rw [htok]
    exact beq_eq_false_iff_ne.mpr (lookup_filter_ne (s.at dt).tokens x k)
  · obtain ⟨f, hf, hctx⟩ := execT_layerend_fe h
    subst hm
    refine answers_of rfl hf ⟨?_, rrd_rinc (by omega) (by omega) hl, (Mach.inc_only _ _).1, fun y hy => ?_, rfl⟩
    · rw [Mach.setField_fe, set_fin_self, hctx, set_fin_self]
      rfl
    · exact ((Mach.setField_ctx_set (m := (s.at dt).inc (R.FE_CTX_LAYER n c)) hctx y).trans
        (Mach.ctx_setCtx_ne _ _ hy)).trans (Mach.ctx_congr rfl rfl rfl y)
  · have hc : (160 + c.val) < 256 := by omega
    subst hm
    exact answers_of rfl (execT_layerend_coo h) ⟨rfl, Mach.raise_only hc⟩

/-! ## SETPOOL (R94, R216, R217) -/

/-- K_eff that a SETPOOL holds from where it retires: the factor in force for mode 2, the former one otherwise. -/
def Field.poolHold (f : Field) (c : Fin 8) (t : Nat) (mode : BitVec 2) : BitVec 16 :=
  if mode = 2 then BitVec.ofNat 16 (f.lch.keff t) else f.ctx[c].khold

theorem rowMach_setPool (m : Mach) (n : Fin 16) (c : Fin 8) (i : TInstr) (tgt : BitVec 16) (stat : BitVec 4)
    (mode : BitVec 2) : ∃ g, (rowMach m n c i).setPool' n c tgt stat mode = m.setField n g ∧
      g.ctx = m.fe[n].ctx.set c { m.fe[n].ctx[c] with khold := m.fe[n].poolHold c m.mt mode } ∧
      g.replan = m.fe[n].replan ∧ g.spl = m.fe[n].spl ∧
      g.lch = m.fe[n].lch.setPool mode stat tgt (m.fe[n].poolHold c m.mt mode) := by
  refine ⟨Field.noted { (m.fe[n].decoded (rowEntry m n c i) (m.wordsLeft n c i)).setCtx c
      { m.fe[n].ctx[c] with khold := m.fe[n].poolHold c m.mt mode } with
    lch := m.fe[n].lch.setPool mode stat tgt (m.fe[n].poolHold c m.mt mode) } m n, ?_, rfl, rfl, rfl, rfl⟩
  unfold Mach.setPool'
  rw [rowMach_fe]
  show Mach.noteFront (Mach.setField (m.setField n _) n _) n = _
  rw [Mach.setField_setField, Mach.noteFront_setField]
  rfl

theorem rowFe_setpool {m : Mach} {n : Fin 16} {c : Fin 8} {tgt : BitVec 16} {stat : BitVec 4} {mode : BitVec 2}
    (h : m.AtFront (.fe n c) (.setpool tgt stat mode)) : ∃ f, m.rowFe n c (.setpool tgt stat mode) = m.setField n f ∧
      f.ctx = m.fe[n].ctx.set c
        (CtxRec.retiredTo { m.fe[n].ctx[c] with khold := m.fe[n].poolHold c m.mt mode }
          ((m.fe[n].ctx[c].ret.next 8).setParams (.setpool tgt stat mode))) ∧
      f.lch = m.fe[n].lch.setPool mode stat tgt (m.fe[n].poolHold c m.mt mode) ∧ f.spl = m.fe[n].spl := by
  obtain ⟨g, he, hc, hr, hs, hl⟩ := rowMach_setPool m n c (.setpool tgt stat mode) tgt stat mode
  obtain ⟨f, hf, hctx, hlch, hspl⟩ := rowFe_effect h rfl rfl he h.traceOff rfl (hr.trans h.replan) hc rfl
  exact ⟨f, hf, hctx, hlch.trans hl, hspl.trans hs⟩

/-- Settles O15: all but SETPOOL act on the planner's state of their context only. -/
theorem parametersAreSet : Obligations.ParametersAreSet := by
  intro s dt n c m x r hm hx hr
  subst hx hr
  refine ⟨fun freq amp shape h => ?_, fun v h => ?_, fun v h => ?_, fun keepp keepd p d h => ?_, fun tgt stat mode h => ?_,
    fun z h => ?_, fun o rp h => ?_, fun km kmat p mat h => ?_, fun h => ?_, fun h => ?_, fun k3 h => ?_⟩
  · exact answers_ownState rfl hm (.wobble freq amp shape) h rfl
  · exact answers_ownState rfl hm (.setv false v) h rfl
  · exact answers_ownState rfl hm (.setv true v) h rfl
  · exact answers_ownState rfl hm (.setp keepp keepd p d) h rfl
  · obtain ⟨f, hf, hctx, hlch, hspl⟩ := rowFe_setpool h
    have hother (y : Ctx) := Mach.setField_ctx_set hctx y
    have hq : (m.setField n f).Quiet := (Mach.setCtx_quiet h.1 (.fe n c) rfl).of_ctx hother
    have hfe : (m.setField n f).fe[n] = f := set_fin_self ..
    subst hm
    refine answers_of rfl (execT_fe hf hq) ⟨?_, ?_, ?_, ?_, ?_, fun hmode => ?_, ?_, fun y hy => ?_, fun k hk => ?_, rfl⟩
    · rw [hfe, hctx, set_fin_self]
      rfl
    · rw [hfe, hctx, set_fin_self]
      rfl
    · rw [hfe, hlch]
      rfl
    · rw [hfe, hlch]
      rfl
    · rw [hfe, hlch]
      rfl
    · subst hmode
      rw [hfe, hlch]
      exact BitVec.toNat_ofNat ..
    · rw [hfe, hspl]
    · exact (hother y).trans (Mach.ctx_setCtx_ne _ _ hy)
    · exact set_fin_ne _ _ hk
  · exact answers_ownState rfl hm (.setfocus z) h rfl
  · exact answers_ownState rfl hm (.setreentry o rp) h rfl
  · exact answers_ownState rfl hm (.setprofile km kmat p mat) h rfl
  · exact answers_ownState rfl hm .depoff h rfl
  · exact answers_ownState rfl hm .depon h rfl
  · exact answers_ownState rfl hm (.kernel k3) h rfl

end Sys2Proof.Machine
end

section
/-! PROOF. Motions: the last segments of one have been emitted, and it retires (R76, R88 to R92, R133). -/
namespace Sys2Proof.Machine

/-! ## Motions -/

/-- The motion instructions of R76, and a POLY of any number of points. -/
inductive Motion : TInstr → Prop
  | jump (rel px py) : Motion (.jump rel px py)
  | mark (cont rel np px py) : Motion (.mark cont rel np px py)
  | arc (cont rel np sw cx cy) : Motion (.arc cont rel np sw cx cy)
  | poly (cont rel np close k a) : Motion (.poly cont rel np close k a)
  | dot (rel np curd d px py) : Motion (.dot rel np curd d px py)
  | spiral (cont rel np sw cx cy rend) : Motion (.spiral cont rel np sw cx cy rend)

theorem Motion.effect {i : TInstr} (h : Motion i) (m : Mach) (x : Ctx) : m.effect x i = m := by cases h <;> rfl

theorem Motion.replans {i : TInstr} (h : Motion i) : replans i = false := by cases h <;> rfl

/-! ## The end of an entry's segments -/

/-- Segments that join the past of the plan change nothing but it and the place of rest before it. -/
theorem Field.toPast_eq (f : Field) (t : Nat) (l : List PSeg) : ∃ p x y z, f.toPast t l =
    { f with past := p, restX := x, restY := y, restZ := z } := by
  unfold Field.toPast
  dsimp only
  split
  · exact ⟨_, _, _, _, rfl⟩
  · exact ⟨_, _, _, _, rfl⟩

/-- The spot stands at the end of the last segment, inside a run where that point is a laser-on point (R77). -/
theorem Field.finish_last {e : PlanEntry} {l : PSeg} (hl : e.segs.getLast? = some l) (he : e.last = true) (f : Field)
    (t : Nat) : ∃ p x y z em lc, f.finish t e =
      { f with
        past := p, restX := x, restY := y, restZ := z, spotX := l.seg.x1, spotY := l.seg.y1, spotZ := l.seg.z1
        lastProf := l.seg.mprof, lastMat := l.seg.mat, emitted := em, inRun := l.seg.laser && e.after.laserOn
        lch := lc } := by
  obtain ⟨p, x, y, z, h⟩ := f.toPast_eq t e.segs
  unfold Field.finish
  rw [h, hl, he]
  exact ⟨p, x, y, z, _, _, rfl⟩

theorem Mach.frontRuns_active {m : Mach} {n : Fin 16} {c : Fin 8} (h : m.frontRuns n c = true) :
    m.fe[n].ctx[c].st = .active := by
  unfold Mach.frontRuns at h
  simp only [Bool.and_eq_true, beq_iff_eq] at h
  obtain ⟨⟨⟨⟨-, hst⟩, -⟩, -⟩, -⟩ := h
  exact hst

section
variable {m : Mach} {n : Fin 16} {c : Fin 8} {i : TInstr} {e : PlanEntry} {l : PSeg} (h : m.MotionEnds n c i e l)
include h

/-- The entry at the front of the plan is done with, and its instruction retires. -/
theorem frontStep_motionEnds : m.frontStep n c = (Mach.retireEntry (m.modField n fun f => f.finish m.mt e) n c e, true) := by
  obtain ⟨-, -, -, -, -, hhead, -, -, hlast, -, hemit, hend⟩ := h
  obtain ⟨rest, hplan⟩ := List.head?_eq_some_iff.mp hhead
  unfold Mach.frontStep
  dsimp only
  rw [hplan]
  dsimp only
  rw [if_pos hemit, if_pos hend, Mach.finishEntry, if_pos hlast]

theorem rowFe_motionEnds {t : Mach} (ht : Mach.retireEntry (m.modField n fun f => f.finish m.mt e) n c e = t)
    (hr : t.fe[n].ctx[c].retired ≠ m.fe[n].ctx[c].retired) : m.rowFe n c i = t := by
  have hstep := frontStep_motionEnds h
  obtain ⟨-, -, hruns, hreplan, -, hhead, hins, -⟩ := h
  obtain ⟨rest, hplan⟩ := List.head?_eq_some_iff.mp hhead
  have hpass : m.passReplan n = m := by
    unfold Mach.passReplan
    rw [hreplan]
  have hgo : Mach.rowGo n c m.fe[n].ctx[c].retired 8 m = t := by
    unfold Mach.rowGo
    rw [if_neg (by simp [hruns]), hpass, hstep, ht]
    exact rowGo_retired hr 7
  have hdecode : (if m.fe[n].plan.isEmpty && !m.frontHeld n c then m.decodeRow n c i else m) = m := by
    rw [hplan]
    rfl
  unfold Mach.rowFe
  rw [if_neg (by simp [hruns]), hpass]
  dsimp only
  rw [hdecode, hplan]
  dsimp only
  rw [if_pos hins, hgo]

/-- What a motion at its end leaves of its field. -/
theorem motionEnds_retires (hm : Motion i) : ∃ f, m.rowFe n c i = m.setField n f ∧
    f.ctx = m.fe[n].ctx.set c (m.fe[n].ctx[c].retiredTo e.after) ∧ f.plan = m.fe[n].plan.drop 1 ∧ f.emit = none ∧
    (f.spotX, f.spotY, f.spotZ) = (l.seg.x1, l.seg.y1, l.seg.z1) ∧ f.inRun = (l.seg.laser && e.after.laserOn) := by
  have hrow {t : Mach} := rowFe_motionEnds h (t := t)
  obtain ⟨-, -, -, hreplan, htrace, -, rfl, -, hlast, hl, -⟩ := h
  obtain ⟨p, x, y, z, em, lc, hfin⟩ := Field.finish_last hl hlast m.fe[n] m.mt
  have hretire := Mach.retireEntry_field (hm.effect (m.setField n (m.fe[n].finish m.mt e)) (.fe n c)) htrace
    hm.replans (by rw [hfin]; exact hreplan)
  obtain ⟨_, a, k, q, hf⟩ := (m.fe[n].finish m.mt e).retires_eq m n c e
  generalize (m.fe[n].finish m.mt e).retires m n c e = f at hretire hf
  rw [hfin] at hf
  subst hf
  refine ⟨_, hrow hretire ?_, rfl, rfl, rfl, rfl, rfl⟩
  rw [Mach.setField_fe, set_fin_self]
  dsimp only
  rw [set_fin_self]
  exact Nat.succ_ne_self _

theorem execT_motionEnds (hm : Motion i) : m.MotionDone n c e l (m.execT (.fe n c) i).wakeAll := by
  obtain ⟨f, hf, hctx, hplan, hemit, hspot, hrun⟩ := motionEnds_retires h hm
  obtain ⟨hquiet, -, hruns, -⟩ := h
  have hq : (m.setField n f).Quiet := (Mach.setCtx_quiet hquiet (.fe n c) rfl).of_ctx (Mach.setField_ctx_set hctx)
  have hfe : (m.setField n f).fe[n] = f := set_fin_self ..
  rw [execT_fe hf hq]
  refine ⟨?_, ?_, ?_, ?_, ?_, ?_, ?_, fun k hk => set_fin_ne _ _ hk, rfl⟩
  · rw [hfe, hctx, set_fin_self]
    rfl
  · rw [hfe, hctx, set_fin_self]
    rfl
  · rw [hfe, hctx, set_fin_self]
    exact Mach.frontRuns_active hruns
  · rw [hfe, hplan]
  · rw [hfe, hemit]
  · rw [hfe, hspot]
  · rw [hfe, hrun]

end

theorem answers_motion {s : State} {dt : Nat} {m : Mach} {n : Fin 16} {c : Fin 8} {i : TInstr} {e : PlanEntry} {l : PSeg}
    {k : Instr} (he : exec k s = s.done (((s.at dt).execT (.fe n c) i).wakeAll)) (hm : m = s.at dt) (hi : Motion i)
    (h : m.MotionEnds n c i e l) : Answers k s (m.MotionDone n c e l) := by
  subst hm
  exact answers_of he rfl (execT_motionEnds h hi)

/-- Settles O16: each motion retires with its last segment, and a POLY of no points acts on its context's state only. -/
theorem motionsRetireAtTheirEnd : Obligations.MotionsRetireAtTheirEnd := by
  intro s dt n c m x e l hm hx
  subst hx
  exact ⟨fun rel px py => answers_motion rfl hm (.jump rel px py),
    fun cont rel np px py => answers_motion rfl hm (.mark cont rel np px py),
    fun cont rel np sw cx cy => answers_motion rfl hm (.arc cont rel np sw cx cy),
    fun cont rel np close k a => answers_motion rfl hm (.poly cont rel np close k a),
    fun rel np curd d px py => answers_motion rfl hm (.dot rel np curd d px py),
    fun cont rel np sw cx cy rend => answers_motion rfl hm (.spiral cont rel np sw cx cy rend),
    fun cont rel np close a h => answers_ownState rfl hm (.poly cont rel np close a) h rfl⟩

end Sys2Proof.Machine
end

section
/-! PROOF. Commands to the contexts of a field: where they act, START, STOP and RESET (R18, R73, R116). -/
namespace Sys2Proof.Machine

/-! ## The front at the end of the plan -/

theorem Mach.passReplan_none {m : Mach} {n : Fin 16} (h : m.fe[n].replan = none) : m.passReplan n = m := by
  unfold Mach.passReplan
  rw [h]

/-- With nothing planned and nothing replanned, the front of a field stays where it is. -/
theorem Mach.frontGo_planned {m : Mach} {n : Fin 16} (hp : m.fe[n].plan = []) (hr : m.fe[n].replan = none) (c : Fin 8)
    (fuel : Nat) : Mach.frontGo n c fuel m = m := by
  have hs : m.frontStep n c = (m, false) := by
    unfold Mach.frontStep
    dsimp only
    rw [hp]
  cases fuel with
  | zero => rfl
  | succ fuel =>
    unfold Mach.frontGo
    rw [Mach.passReplan_none hr, hs]
    split <;> rfl

theorem Mach.front_planned {m : Mach} {n : Fin 16} (hp : m.fe[n].plan = []) (hr : m.fe[n].replan = none) :
    m.front n = m := by
  unfold Mach.front
  split
  · exact Mach.frontGo_planned hp hr _ _
  · rfl

/-! ## Where a command acts (R18, R386) -/

section
variable {m : Mach} {n : Fin 16}

theorem Mach.open?_fe (m : Mach) (n : Fin 16) {a : Nat} (h : 0x800000 ≤ a) (h' : a < 0xC00000) :
    m.open? a = m.open? (0x800000 + n * 0x40000) := by
  have hd (b : Nat) (hb : 0x800000 ≤ b) (hb' : b < 0xC00000) : domainOf b = some 3 := by
    unfold domainOf
    simp (disch := omega) only [if_neg, if_pos]
  unfold Mach.open?
  rw [hd a h h', hd (0x800000 + n * 0x40000) (by omega) (by omega)]

variable {c : Fin 8} {v : Word} {f : Mach → Mach}

theorem Mach.open?_ctxCmd : m.open? (R.FE_CTX_CMD n c).a = m.open? (0x800000 + n * 0x40000) :=
  m.open?_fe n (by simp only [R.FE_CTX_CMD]; omega) (by simp only [R.FE_CTX_CMD]; omega)

theorem Mach.ctxCommand_closed (h : m.open? (0x800000 + n * 0x40000) = false) :
    m.command (R.FE_CTX_CMD n c).a v f = m.early :=
  Mach.ifOpen_closed _ (Mach.open?_ctxCmd.trans h)

theorem Mach.ctxCommand_acts (h : m.open? (0x800000 + n * 0x40000) = true) (hp : m.pstate ≠ 2) :
    m.command (R.FE_CTX_CMD n c).a v f = f m :=
  (Mach.ifOpen_open _ (Mach.open?_ctxCmd.trans h)).trans (if_neg fun hi => hp hi.1)

/-- R18: a command holds no value, and it is recorded to act later. -/
theorem Mach.ctxCommand_idle (h : m.open? (0x800000 + n * 0x40000) = true) (hp : m.pstate = 2) :
    m.command (R.FE_CTX_CMD n c).a v f = { m with idleWrites := m.idleWrites ++ [((R.FE_CTX_CMD n c).a, v)] } := by
  have hg : gatedAddr (R.FE_CTX_CMD n c).a = true := decide_eq_true (by simp only [R.FE_CTX_CMD]; omega)
  have hc : isCommand (R.FE_CTX_CMD n c).a = true := by
    have ho : feOff (R.FE_CTX_CMD n c).a = 0x1008 + c * 0x100 := by
      simp only [feOff, R.FE_CTX_CMD]
      omega
    unfold isCommand
    rw [if_neg (by simp only [R.FE_CTX_CMD]; omega), ho, decide_eq_true (by omega),
      beq_iff_eq.mpr (show (0x1008 + c.val * 0x100) % 0x100 = 8 by omega)]
    rfl
  have hl : actsLater (R.FE_CTX_CMD n c).a = true := by
    unfold actsLater
    rw [hc]
    rfl
  unfold Mach.command
  rw [Mach.ifOpen_open _ (Mach.open?_ctxCmd.trans h), if_pos ⟨hp, hg⟩, Mach.idleWrite, hc, if_pos rfl, if_pos hl]

end

/-- A command of a field to one of its contexts, with the value that the host writes to CMD for it (R116). -/
inductive CtxCommand (dt : Nat) (n : Fin 16) (c : Fin 8) : Instr → Word → (Mach → Mach) → Prop
  | start : CtxCommand dt n c (.ctxStart dt n c) 1 (·.ctxStart n c)
  | stop : CtxCommand dt n c (.ctxStop dt n c) 2 (·.ctxStop n c)
  | reset : CtxCommand dt n c (.ctxReset dt n c) 3 (·.ctxReset n c)

section
variable {s : State} {dt : Nat} {n : Fin 16} {c : Fin 8} {m : Mach} {i : Instr} {k : Word} {f : Mach → Mach}
  {P : Mach → Prop} (hc : CtxCommand dt n c i k f) (hm : m = s.at dt)
include hc hm

theorem answers_ctxCommand {t : Mach} (ht : m.command (R.FE_CTX_CMD n c).a k f = t) (hq : t.Quiet) (h : P t) :
    Answers i s P := by
  have he : exec i s = s.done (((s.at dt).command (R.FE_CTX_CMD n c).a k f).wakeAll) := by cases hc <;> rfl
  subst hm ht
  exact answers_of he (Mach.wakeAll_of_quiet hq) h

/-- In IDLE the command is recorded; a closed block counts it (R18, R386). -/
theorem ctxCommand_notNow (hq : m.Quiet) :
    (m.open? (0x800000 + n * 0x40000) = true → m.pstate = 2 → Answers i s
      (· = { m with idleWrites := m.idleWrites ++ [((R.FE_CTX_CMD n c).a, k)] })) ∧
    (m.open? (0x800000 + n * 0x40000) = false → Answers i s fun t => m.OnlyRegs t [R.HS_EARLY.a]) :=
  ⟨fun ho hp => answers_ctxCommand hc hm (Mach.ctxCommand_idle ho hp) (hq.congr rfl rfl rfl) rfl,
    fun ho => answers_ctxCommand hc hm (Mach.ctxCommand_closed ho) (hq.congr rfl rfl rfl) m.early_counts.1⟩

theorem answers_ctxCommand_acts {t : Mach} (ho : m.open? (0x800000 + n * 0x40000) = true) (hp : m.pstate ≠ 2)
    (ht : f m = t) (hq : t.Quiet) (h : P t) : Answers i s P :=
  answers_ctxCommand hc hm ((Mach.ctxCommand_acts ho hp).trans ht) hq h

/-- R116: a command that is refused sets CMDERR, and nothing else. -/
theorem answers_ctxCommand_refused (hq : m.Quiet) (ho : m.open? (0x800000 + n * 0x40000) = true) (hp : m.pstate ≠ 2)
    (ht : f m = m.cmdErr n c) : Answers i s fun t =>
      t.rd (R.FE_CTX_STATE_CMDERR n c) = 1 ∧ m.OnlyRegs t [(R.FE_CTX_STATE_CMDERR n c).a] :=
  answers_ctxCommand_acts hc hm ho hp ht (hq.congr rfl rfl rfl)
    ⟨rrd_wr_same (by omega) (by omega), m.wr_only _ 1 (List.mem_singleton.mpr rfl)⟩

end

/-! ## START and RESET (R73, R116) -/

theorem Mach.ctxStart_idle {m : Mach} {n : Fin 16} {c : Fin 8} (h : ctxIdle m.fe[n].ctx[c].st = true) :
    m.ctxStart n c = { (m.setCtx (.fe n c) (m.fe[n].ctx[c].started .ready
        (BitVec.ofNat 36 (m.rd (R.FE_CTX_START_LO n c) * 8 + m.rd (R.FE_CTX_START_HI n c) * 2 ^ 32)) m.mt)) with
      tokens := m.tokens.filter fun p => p.2 ≠ .fe n c } :=
  if_pos h

theorem Mach.ctxStart_refused {m : Mach} {n : Fin 16} {c : Fin 8} (h : ctxIdle m.fe[n].ctx[c].st = false) :
    m.ctxStart n c = m.cmdErr n c :=
  if_neg (Bool.eq_false_iff.mp h)

theorem Mach.ctxReset_idle {m : Mach} {n : Fin 16} {c : Fin 8} (h : ctxBusy m.fe[n].ctx[c].st = false) :
    m.ctxReset n c = { (m.setCtx (.fe n c) m.fe[n].ctx[c].wiped) with
      tokens := m.tokens.filter fun p => p.2 ≠ .fe n c } :=
  if_neg (Bool.eq_false_iff.mp h)

theorem Mach.ctxReset_refused {m : Mach} {n : Fin 16} {c : Fin 8} (h : ctxBusy m.fe[n].ctx[c].st = true) :
    m.ctxReset n c = m.cmdErr n c :=
  if_pos h

/-! ## STOP, and its completion (R116, R121) -/

/-- The context has ended: HALTED, its tokens free; beside them its field and registers may differ. -/
structure Mach.Ended (m : Mach) (n : Fin 16) (c : Fin 8) (t : Mach) : Prop where
  field : ∃ f, t.fe = m.fe.set n f ∧ f.ctx = m.fe[n].ctx.set c (m.fe[n].ctx[c].leaving .halted)
  tokens : t.tokens = m.tokens.filter (fun p => p.2 ≠ .fe n c)
  frame : t = { m with fe := t.fe, tokens := t.tokens, regs := t.regs }

section
variable {m t : Mach} {n : Fin 16} {c : Fin 8} (h : m.Ended n c t)
include h

theorem Mach.Ended.ctx_same : t.fe[n].ctx[c] = m.fe[n].ctx[c].leaving .halted := by
  obtain ⟨f, hf, hc⟩ := h.field
  rw [hf, set_fin_self, hc, set_fin_self]

theorem Mach.Ended.fe_ne {k : Fin 16} (hk : k ≠ n) : t.fe[k] = m.fe[k] := by
  obtain ⟨f, hf, -⟩ := h.field
  rw [hf, set_fin_ne _ _ hk]

theorem Mach.Ended.ctx_ne {y : Ctx} (hy : y ≠ .fe n c) : t.ctx y = m.ctx y := by
  obtain ⟨f, hf, hc⟩ := h.field
  have hfe : t.ctx y = (m.setField n f).ctx y := Mach.ctx_congr hf (by rw [h.frame]; rfl) (by rw [h.frame]; rfl) y
  rw [hfe, Mach.setField_ctx_set hc, Mach.ctx_setCtx_ne _ _ hy]

theorem Mach.Ended.quiet (hq : m.Quiet) : t.Quiet := by
  refine Mach.quiet_iff.mpr fun y => ?_
  by_cases hy : y = .fe n c
  · subst hy
    exact congrArg CtxRec.wait h.ctx_same
  · rw [h.ctx_ne hy]
    exact Mach.quiet_iff.mp hq y

theorem Mach.Ended.modField {g : Field → Field} (hg : ∀ f, (g f).ctx = f.ctx) : m.Ended n c (t.modField n g) := by
  obtain ⟨f, hf, hc⟩ := h.field
  refine ⟨⟨g f, ?_, (hg f).trans hc⟩, h.tokens, ?_⟩
  · rw [Mach.modField_fe, hf, set_fin_self, Vector.set_set]
  · unfold Mach.modField Mach.setField
    rw [h.frame]

end

/-- A context of a field is halted from where the field stands as `g`, with registers changed. -/
theorem Mach.haltCtx_ended (m : Mach) {n : Fin 16} {g : Field} (hg : g.ctx = m.fe[n].ctx) (r : Sparse Word)
    (c : Fin 8) :
    m.Ended n c (Mach.haltCtx { m with fe := m.fe.set n g, regs := r } (.fe n c)) ∧
      (Mach.haltCtx { m with fe := m.fe.set n g, regs := r } (.fe n c)).regs = r := by
  have hctx : (m.fe.set n g)[n].ctx[c] = m.fe[n].ctx[c] := by rw [set_fin_self, hg]
  obtain ⟨f, hf, hc, -⟩ := (Mach.dropTokens
    (Mach.setCtx { m with fe := m.fe.set n g, regs := r } (.fe n c) ((m.fe.set n g)[n].ctx[c].leaving .halted))
    (.fe n c)).leftEmission_fe n c
  have he : Mach.haltCtx { m with fe := m.fe.set n g, regs := r } (.fe n c) = _ := hf
  rw [he]
  refine ⟨⟨⟨f, ?_, ?_⟩, rfl, rfl⟩, rfl⟩
  · show ((m.fe.set n g).set n _).set n f = _
    rw [Vector.set_set, Vector.set_set]
  · rw [hc, hctx]
    show ((m.fe.set n g).set n ((m.fe.set n g)[n].setCtx c _))[n].ctx = _
    rw [set_fin_self, set_fin_self]
    exact congrArg (fun l => Vector.set l c _) hg

/-- What is left of a plan that its halted context had yielded with: nothing (R119). -/
def Field.stopped (c : Fin 8) (t : Nat) (f : Field) : Field := if f.yielded = some c then f.squash.republish t else f

theorem Field.stopped_ctx (f : Field) (c : Fin 8) (t : Nat) : (f.stopped c t).ctx = f.ctx := by
  unfold Field.stopped
  split <;> rfl

theorem Mach.ctxStop_active {m : Mach} {n : Fin 16} {c : Fin 8} (h : m.fe[n].ctx[c].st = .active) :
    m.ctxStop n c = m.setCtx (.fe n c) { m.fe[n].ctx[c] with stopReq := true } := by
  unfold Mach.ctxStop
  rw [h]

theorem Mach.ctxStop_waits {m : Mach} {n : Fin 16} {c : Fin 8}
    (h : m.fe[n].ctx[c].st = .ready ∨ m.fe[n].ctx[c].st = .waiting) :
    m.Ended n c (m.ctxStop n c) ∧ (m.ctxStop n c).regs = m.regs := by
  have he : m.ctxStop n c = (Mach.haltCtx (m.setField n m.fe[n]) (.fe n c)).modField n (Field.stopped c m.mt) := by
    rw [Mach.setField_self]
    unfold Mach.ctxStop
    rcases h with h | h <;> rw [h] <;> rfl
  obtain ⟨hend, hregs⟩ := m.haltCtx_ended (g := m.fe[n]) rfl m.regs c
  rw [he]
  exact ⟨hend.modField fun f => f.stopped_ctx c m.mt, hregs⟩

theorem Mach.ctxStop_refused {m : Mach} {n : Fin 16} {c : Fin 8} (h : ctxBusy m.fe[n].ctx[c].st = false) :
    m.ctxStop n c = m.cmdErr n c := by
  unfold Mach.ctxStop
  cases hs : m.fe[n].ctx[c].st with
  | active | ready | waiting =>
    rw [hs] at h
    cases h
  | _ => rfl

/-- The plan is given up, and the galvo follows the stop ramp. -/
def Field.dropped (f : Field) (t : Nat) (ramp : PSeg) : Field :=
  { ((f.brake ramp).squash.republish t) with replan := none }

theorem Mach.dropPlan_eq (m : Mach) (n : Fin 16) :
    m.dropPlan n = (m.dwellEnd n).modField n (·.dropped m.mt (m.stopSeg n m.mt)) := rfl

/-- Contexts stand, and registers count the dwell that ends. -/
theorem Mach.dropPlan_fe (m : Mach) (n : Fin 16) :
    ∃ g r, m.dropPlan n = { m with fe := m.fe.set n g, regs := r } ∧ g.ctx = m.fe[n].ctx := by
  obtain ⟨⟨d, b, hf⟩, ht⟩ := m.dwellEnd_dwellsOnly n
  refine ⟨Field.dropped { m.fe[n] with dwell := d, gtoDone := b } m.mt (m.stopSeg n m.mt), (m.dwellEnd n).regs, ?_,
    (Field.brake_stands ..).1⟩
  rw [Mach.dropPlan_eq]
  unfold Mach.modField Mach.setField
  rw [ht, hf, set_fin_self, Vector.set_set]

theorem Field.owner_active {f : Field} {c : Fin 8} (h : f.owner = some c) : f.ctx[c].st = .active :=
  of_decide_eq_true (List.find?_some (p := fun d : Fin 8 => decide (f.ctx[d].st = .active)) h)

theorem Mach.ctxStopComplete_unasked {m : Mach} {n : Fin 16} {c : Fin 8} (h : m.fe[n].ctx[c].stopReq = false) :
    m.ctxStopComplete n c = m := by
  have hs : ¬ m.fe[n].ctx[c].stopReq = true := Bool.eq_false_iff.mp h
  have ha : ¬ (m.fe[n].owner = some c ∧ m.fe[n].ctx[c].stopReq = true) := fun ha => hs ha.2
  unfold Mach.ctxStopComplete
  rw [if_neg ha]
  exact if_neg fun hc => hs hc.2.1

/-- R116: the front stands at a laser-off point with nothing planned past it. -/
theorem Mach.ctxStopComplete_asked {m : Mach} {n : Fin 16} {c : Fin 8} (ho : m.fe[n].owner = some c)
    (hs : m.fe[n].ctx[c].stopReq = true) (hl : m.fe[n].ctx[c].ret.laserOn = false) (hp : m.fe[n].plan = [])
    (he : m.fe[n].emit = none) (hr : m.fe[n].replan = none) :
    m.ctxStopComplete n c = (m.dropPlan n).haltCtx (.fe n c) := by
  have ha : m.fe[n].owner = some c ∧ m.fe[n].ctx[c].stopReq = true := ⟨ho, hs⟩
  unfold Mach.ctxStopComplete
  rw [if_pos ha, Mach.front_planned hp hr]
  exact if_pos ⟨Field.owner_active ho, hs, by rw [he]; rfl, by rw [hl]; rfl, by rw [hp]; rfl⟩

end Sys2Proof.Machine
end

section
/-! PROOF. Ownership of emission: the grant and the switch (R117 to R120, R138, R217). -/
namespace Sys2Proof.Machine

/-! ## The READY context of the highest priority (R117) -/

/-- One context is considered for emission. -/
def Mach.better (m : Mach) (n : Fin 16) (b : Option (Fin 8)) (c : Fin 8) : Option (Fin 8) :=
  if m.fe[n].ctx[c].st = .ready then
    match b with
    | none => some c
    | some d => if m.prio n d < m.prio n c then some c else b
  else b

theorem Mach.bestReady_foldl (m : Mach) (n : Fin 16) : m.bestReady n = (List.finRange 8).foldl (m.better n) none := rfl

section
variable {m : Mach} {n : Fin 16} {c : Fin 8}

/-- Contexts of a lower priority leave a choice of a lower priority. -/
theorem better_foldl_below {l : List (Fin 8)} (hl : ∀ d ∈ l, m.fe[n].ctx[d].st = .ready → m.prio n d < m.prio n c)
    {b : Option (Fin 8)} (hb : ∀ d ∈ b, m.prio n d < m.prio n c) :
    ∀ d ∈ l.foldl (m.better n) b, m.prio n d < m.prio n c := by
  induction l generalizing b with
  | nil => exact hb
  | cons e l ih =>
    obtain ⟨he, hl⟩ := List.forall_mem_cons.mp hl
    refine ih hl ?_
    unfold Mach.better
    split
    · next hr =>
      have hs : ∀ d ∈ some e, m.prio n d < m.prio n c := by
        rintro d ⟨⟩
        exact he hr
      split
      · exact hs
      · split
        · exact hs
        · exact hb
    · exact hb

/-- A choice stands against contexts of no higher priority. -/
theorem better_foldl_stands {l : List (Fin 8)} (hl : ∀ d ∈ l, m.fe[n].ctx[d].st = .ready → m.prio n d ≤ m.prio n c) :
    l.foldl (m.better n) (some c) = some c := by
  induction l with
  | nil => rfl
  | cons e l ih =>
    obtain ⟨he, hl⟩ := List.forall_mem_cons.mp hl
    have hs : m.better n (some c) e = some c := by
      unfold Mach.better
      split
      · next hr => exact if_neg (Nat.not_lt.mpr (he hr))
      · rfl
    rw [List.foldl_cons, hs]
    exact ih hl

/-- R117: of the READY contexts the highest priority, and of equals the lower number. -/
theorem Mach.bestReady_eq (hc : m.fe[n].ctx[c].st = .ready)
    (h : ∀ d : Fin 8, m.fe[n].ctx[d].st = .ready → m.prio n d < m.prio n c ∨ (m.prio n d = m.prio n c ∧ c ≤ d)) :
    m.bestReady n = some c := by
  obtain ⟨l, l', hl⟩ := List.append_of_mem (List.mem_finRange c)
  have hbefore : ∀ d ∈ l, d < c := by
    have hp := (List.sortedLT_finRange 8).pairwise
    rw [hl, List.pairwise_append] at hp
    exact fun d hd => hp.2.2 d hd c List.mem_cons_self
  have hfirst := better_foldl_below (m := m) (n := n) (c := c) (l := l) (b := none)
    (fun d hd hr => (h d hr).resolve_right fun he => absurd he.2 (Fin.not_le.mpr (hbefore d hd))) nofun
  have hchosen : m.better n (l.foldl (m.better n) none) c = some c := by
    unfold Mach.better
    rw [if_pos hc]
    split
    · rfl
    · next d hd => exact if_pos (hfirst d hd)
  rw [Mach.bestReady_foldl, hl, List.foldl_append, List.foldl_cons, hchosen]
  exact better_foldl_stands fun d _ hr => (h d hr).elim Nat.le_of_lt fun he => he.1.le

end

/-! ## What a slip of the plan leaves of its field (R124, R243, R249) -/

/-- The fields agree beside the plan and its checkpoints, what is published of it, what the statistics keep, and the
dwell of the front. -/
structure Field.SameGrant (f g : Field) : Prop where
  ctx : g.ctx = f.ctx
  lastOwner : g.lastOwner = f.lastOwner
  fresh : g.fresh = f.fresh
  lch : g.lch = f.lch
  keptPlans : g.keptPlans = f.keptPlans
  replan : g.replan = f.replan

theorem Field.SameGrant.trans {f g h : Field} (a : f.SameGrant g) (b : g.SameGrant h) : f.SameGrant h :=
  ⟨b.ctx.trans a.ctx, b.lastOwner.trans a.lastOwner, b.fresh.trans a.fresh, b.lch.trans a.lch,
    b.keptPlans.trans a.keptPlans, b.replan.trans a.replan⟩

theorem Field.SameGrant.refl (f : Field) : f.SameGrant f := ⟨rfl, rfl, rfl, rfl, rfl, rfl⟩

theorem Field.slipTo_same (f : Field) (t : Nat) : f.SameGrant (f.slipTo t) ∧ (f.slipTo t).dwell = f.dwell := by
  unfold Field.slipTo
  split
  · split
    · exact ⟨⟨rfl, rfl, rfl, rfl, rfl, rfl⟩, rfl⟩
    · exact ⟨.refl f, rfl⟩
  · exact ⟨.refl f, rfl⟩

theorem Field.faultAt_same (f : Field) (j code : Nat) :
    f.SameGrant (f.faultAt j code) ∧ (f.faultAt j code).dwell = f.dwell := by
  unfold Field.faultAt
  split
  · exact ⟨.refl f, rfl⟩
  · exact ⟨⟨rfl, rfl, rfl, rfl, rfl, rfl⟩, rfl⟩

theorem Mach.recheck_fe (m : Mach) (n : Fin 16) :
    ∃ f, m.recheck n = m.setField n f ∧ m.fe[n].SameGrant f ∧ f.dwell = m.fe[n].dwell := by
  unfold Mach.recheck
  split
  · exact ⟨m.fe[n], (m.setField_self n).symm, .refl _, rfl⟩
  · split
    · exact ⟨_, rfl, Field.faultAt_same ..⟩
    · exact ⟨m.fe[n], (m.setField_self n).symm, .refl _, rfl⟩

theorem Mach.slip_fe (m : Mach) (n : Fin 16) (t : Nat) :
    ∃ f, m.slip n t = m.setField n f ∧ m.fe[n].SameGrant f ∧ f.dwell = m.fe[n].dwell := by
  unfold Mach.slip
  dsimp only
  split
  · split
    · obtain ⟨hs, hd⟩ := m.fe[n].slipTo_same t
      have hrep : m.fe[n].SameGrant ((m.fe[n].slipTo t).republish m.mt) := hs.trans ⟨rfl, rfl, rfl, rfl, rfl, rfl⟩
      obtain ⟨f, hf, hsame, hdwell⟩ := (m.setField n ((m.fe[n].slipTo t).republish m.mt)).recheck_fe n
      rw [Mach.setField_fe, set_fin_self] at hsame hdwell
      exact ⟨f, hf.trans (Mach.setField_setField ..), hrep.trans hsame, hdwell.trans hd⟩
    · exact ⟨m.fe[n], (m.setField_self n).symm, .refl _, rfl⟩
  · exact ⟨m.fe[n], (m.setField_self n).symm, .refl _, rfl⟩

theorem Mach.slip_planned {m : Mach} {n : Fin 16} (h : m.fe[n].plan = []) (t : Nat) : m.slip n t = m := by
  have hs : m.fe[n].planStart = none := by
    unfold Field.planStart
    rw [h]
    rfl
  unfold Mach.slip
  dsimp only
  rw [hs]

/-! ## The plan of the context that is granted emission (R119, R120) -/

theorem Field.brake_frame (f : Field) (p : PSeg) : (f.brake p).ctx = f.ctx ∧ (f.brake p).lch = f.lch ∧
    (f.brake p).dwell = f.dwell ∧ (f.brake p).keptPlans = f.keptPlans := by
  unfold Field.brake
  split <;> exact ⟨rfl, rfl, rfl, rfl⟩

theorem Field.planFresh_frame (f : Field) (t : Nat) (d : Fin 8) (p : PSeg) : (f.planFresh t d p).ctx = f.ctx ∧
    (f.planFresh t d p).lch = f.lch ∧ (f.planFresh t d p).dwell = f.dwell ∧
    (f.planFresh t d p).keptPlans = f.keptPlans := f.brake_frame p

/-- The field with the plan that its yielded context leaves set aside (R119). -/
def Field.setAside (f : Field) : Field :=
  match f.yielded with
  | some c => { f with keptPlans := f.keep c :: f.keptPlans }
  | none => f

theorem Field.setAside_eq (f : Field) : ∃ l, f.setAside = { f with keptPlans := l } := by
  unfold Field.setAside
  split
  · exact ⟨_, rfl⟩
  · exact ⟨_, rfl⟩

section
variable {f : Field} {d : Fin 8} (h : f.yielded ≠ some d) (t : Nat) (p : PSeg)
include h

theorem Field.planFor_other : f.planFor t d p =
    match f.setAside.keptPlans.find? fun k => k.ctx == d with
    | some k => (f.setAside.planFresh t d p).takeBack k
    | none => f.setAside.planFresh t d p := if_neg h

/-- No plan of the context is set aside: it plans from its retired state. -/
theorem Field.planFor_new (hk : f.keptPlans = []) :
    (f.planFor t d p).pl = f.ctx[d].ret ∧ (f.planFor t d p).plan = [] := by
  have hnone : (f.setAside.keptPlans.find? fun k => k.ctx == d) = none := by
    unfold Field.setAside
    split
    · next o ho =>
      have hne : (o == d) = false := beq_false_of_ne fun e => h (e ▸ ho)
      rw [hk]
      exact (List.find?_cons_of_neg (by simpa [Field.keep] using hne)).trans rfl
    · rw [hk]
      rfl
  obtain ⟨l, hl⟩ := f.setAside_eq
  have hctx : (f.setAside.brake p).ctx = f.ctx := by rw [(Field.brake_frame ..).1, hl]
  rw [Field.planFor_other h, hnone]
  exact ⟨congrArg (fun v : Vector CtxRec 8 => v[d].ret) (show f.setAside.ctx = f.ctx by rw [hl]), rfl⟩

/-- The plan of a context that yielded is set aside for it. -/
theorem Field.planFor_keeps {o : Fin 8} (ho : f.yielded = some o) : f.keep o ∈ (f.planFor t d p).keptPlans := by
  have hne : o ≠ d := fun e => h (e ▸ ho)
  have hmem : f.keep o ∈ (f.setAside.planFresh t d p).keptPlans := by
    rw [(Field.planFresh_frame ..).2.2.2]
    unfold Field.setAside
    rw [ho]
    exact List.mem_cons_self
  rw [Field.planFor_other h]
  split
  · next k hk =>
    have hkd : k.ctx = d := beq_iff_eq.mp (List.find?_some (p := fun k : Kept => k.ctx == d) hk)
    exact List.mem_filter.mpr ⟨hmem, decide_eq_true fun e : o = k.ctx => hne (e.trans hkd)⟩
  · exact hmem

end

theorem Field.planFor_frame (f : Field) (t : Nat) (d : Fin 8) (p : PSeg) : (f.planFor t d p).ctx = f.ctx ∧
    (f.planFor t d p).lch = f.lch ∧ (f.planFor t d p).dwell = f.dwell := by
  by_cases h : f.yielded = some d
  · unfold Field.planFor
    rw [if_pos h]
    exact ⟨rfl, rfl, rfl⟩
  · obtain ⟨l, hl⟩ := f.setAside_eq
    obtain ⟨hc, hlch, hd, -⟩ := f.setAside.planFresh_frame t d p
    rw [hl] at hc hlch hd
    rw [Field.planFor_other h, hl]
    split <;> exact ⟨hc, hlch, hd⟩

theorem Field.planReady_nil {f : Field} (h : f.plan = []) : f.planReady = false := by
  unfold Field.planReady
  dsimp only
  rw [h, List.drop_nil, ite_self]
  rfl

/-- A plan with nothing to emit first is still to be made. -/
theorem Field.replanAt_unready {f : Field} (h : f.planReady = false) (t : Nat) (why : ReplanWhy) :
    f.replanAt t why = some ⟨why, t, f.rampEnd t, none⟩ := by
  unfold Field.replanAt
  rw [h]
  rfl

/-! ## The grant (R117, R138, R217) -/

/-- The field as a context is granted emission, before its plan slips. -/
def Field.granted (f : Field) (t : Nat) (d : Fin 8) (why : ReplanWhy) (ramp : PSeg) : Field :=
  let g := (f.planFor t d ramp).setCtx d { f.ctx[d] with st := .active }
  { g with
    lastOwner := d, fresh := true, replan := g.replanAt t why
    lch := g.lch.setPool f.ctx[d].ret.poolMode f.ctx[d].ret.poolStat f.ctx[d].ret.poolTarget f.ctx[d].khold }

theorem Field.granted_new {f : Field} {d : Fin 8} (h : f.yielded ≠ some d) (hk : f.keptPlans = []) (t : Nat)
    (why : ReplanWhy) (ramp : PSeg) : (f.granted t d why ramp).pl = f.ctx[d].ret ∧ (f.granted t d why ramp).plan = [] ∧
      ∃ e, (f.granted t d why ramp).replan = some ⟨why, t, e, none⟩ := by
  obtain ⟨hpl, hplan⟩ := Field.planFor_new h t ramp hk
  have hr : ((f.planFor t d ramp).setCtx d { f.ctx[d] with st := .active }).planReady = false :=
    Field.planReady_nil hplan
  exact ⟨hpl, hplan, _, Field.replanAt_unready hr t why⟩

theorem Field.granted_frame (f : Field) (t : Nat) (d : Fin 8) (why : ReplanWhy) (ramp : PSeg) :
    (f.granted t d why ramp).ctx = f.ctx.set d { f.ctx[d] with st := .active } ∧
    (f.granted t d why ramp).lch = f.lch.setPool f.ctx[d].ret.poolMode f.ctx[d].ret.poolStat f.ctx[d].ret.poolTarget
      f.ctx[d].khold ∧ (f.granted t d why ramp).dwell = f.dwell := by
  obtain ⟨hc, hl, hd⟩ := f.planFor_frame t d ramp
  exact ⟨congrArg (fun v => Vector.set v d _) hc, congrArg (fun l : Lch => l.setPool ..) hl, hd⟩

/-- Emission has been granted in a field: it is `g` but for its plan's slip, and registers count its dwell. -/
structure Mach.GrantedAs (m : Mach) (n : Fin 16) (g : Field) (t : Mach) : Prop where
  field : ∃ f, t.fe = m.fe.set n f ∧ g.SameGrant f ∧ (g.plan = [] → f.pl = g.pl ∧ f.plan = [])
  frame : t = { m with fe := t.fe, regs := t.regs }
  regs : g.dwell = none → t.regs = m.regs

section
variable {m t : Mach} {n : Fin 16} {g : Field} (h : m.GrantedAs n g t)
include h

theorem Mach.GrantedAs.fe_ne {k : Fin 16} (hk : k ≠ n) : t.fe[k] = m.fe[k] := by
  obtain ⟨f, hf, -⟩ := h.field
  rw [hf, set_fin_ne _ _ hk]

theorem Mach.GrantedAs.ctx {c : Fin 8} {r : CtxRec} (hg : g.ctx = m.fe[n].ctx.set c r) (y : Ctx) :
    t.ctx y = (m.setCtx (.fe n c) r).ctx y := by
  obtain ⟨f, hf, hsame, -⟩ := h.field
  rw [← Mach.setField_ctx_set (hsame.ctx.trans hg)]
  exact Mach.ctx_congr hf (by rw [h.frame]; rfl) (by rw [h.frame]; rfl) y

end

theorem Mach.dwellIn_regs {m : Mach} {n : Fin 16} (h : m.fe[n].dwell = none) (k : Fin 4) :
    (m.dwellIn n k).regs = m.regs := by
  unfold Mach.dwellIn
  rw [h]
  rfl

theorem Mach.grantTo_as (m : Mach) (n : Fin 16) (d : Fin 8) (why : ReplanWhy) :
    m.GrantedAs n (m.fe[n].granted m.mt d why (m.stopSeg n m.mt)) (m.grantTo n d why) := by
  generalize hg : m.fe[n].granted m.mt d why (m.stopSeg n m.mt) = g
  obtain ⟨f, hslip, hsame, hdwell, hplan⟩ : ∃ f, (m.setField n g).slip n m.mt = m.setField n f ∧ g.SameGrant f ∧
      f.dwell = g.dwell ∧ (g.plan = [] → f = g) := by
    by_cases hp : g.plan = []
    · exact ⟨g, Mach.slip_planned (by rw [Mach.setField_fe, set_fin_self, hp]) _, .refl g, rfl, fun _ => rfl⟩
    · obtain ⟨f, hf, hs, hd⟩ := (m.setField n g).slip_fe n m.mt
      rw [Mach.setField_fe, set_fin_self] at hs hd
      exact ⟨f, hf.trans (Mach.setField_setField ..), hs, hd, fun h => absurd h hp⟩
  obtain ⟨u, hu, ⟨d', b, hfe⟩, hframe, hregs⟩ : ∃ u : Mach, m.grantTo n d why = u.noteFront n ∧
      (∃ d b, u.fe = m.fe.set n { f with dwell := d, gtoDone := b }) ∧ u = { m with fe := u.fe, regs := u.regs } ∧
      (f.dwell = none → u.regs = m.regs) := by
    refine ⟨if (m.setField n f).fe[n].replan.isSome then (m.setField n f).dwellIn n 0 else m.setField n f, ?_, ?_⟩
    · rw [← hslip, ← hg]
      rfl
    · have hself : (m.setField n f).fe[n] = f := set_fin_self ..
      split
      · obtain ⟨⟨d, b, hd⟩, ht⟩ := (m.setField n f).dwellIn_dwellsOnly n 0
        rw [hself, Mach.setField_fe, Vector.set_set] at hd
        refine ⟨⟨d, b, hd⟩, by rw [ht]; rfl, fun h => Mach.dwellIn_regs (by rw [hself, h]) 0⟩
      · exact ⟨⟨f.dwell, f.gtoDone, rfl⟩, rfl, fun _ => rfl⟩
  rw [hu]
  refine ⟨⟨Field.noted { f with dwell := d', gtoDone := b } u n, ?_, hsame.trans ⟨rfl, rfl, rfl, rfl, rfl, rfl⟩,
    fun h => ?_⟩, ?_, fun h => hregs (hdwell.trans h)⟩
  · show u.fe.set n (u.fe[n].noted u n) = _
    rw [hfe, set_fin_self, Vector.set_set]
  · rw [hplan h]
    exact ⟨rfl, h⟩
  · unfold Mach.noteFront
    dsimp only
    unfold Mach.setField
    rw [hframe]

section
variable (m : Mach) (n : Fin 16) (d : Fin 8) (why : ReplanWhy)

theorem Mach.grantTo_ctx :
    (m.grantTo n d why).fe[n].ctx = m.fe[n].ctx.set d { m.fe[n].ctx[d] with st := .active } := by
  obtain ⟨f, hfe, hsame, -⟩ := (m.grantTo_as n d why).field
  rw [hfe, set_fin_self, hsame.ctx, (Field.granted_frame ..).1]

theorem Mach.grantTo_lastOwner : (m.grantTo n d why).fe[n].lastOwner = d ∧ (m.grantTo n d why).fe[n].fresh = true := by
  obtain ⟨f, hfe, hsame, -⟩ := (m.grantTo_as n d why).field
  rw [hfe, set_fin_self]
  exact ⟨hsame.lastOwner, hsame.fresh⟩

/-- R217: the pool loop of the field follows the context's state. -/
theorem Mach.grantTo_lch : (m.grantTo n d why).fe[n].lch = m.fe[n].lch.setPool m.fe[n].ctx[d].ret.poolMode
    m.fe[n].ctx[d].ret.poolStat m.fe[n].ctx[d].ret.poolTarget m.fe[n].ctx[d].khold := by
  obtain ⟨f, hfe, hsame, -⟩ := (m.grantTo_as n d why).field
  rw [hfe, set_fin_self, hsame.lch, (Field.granted_frame ..).2.1]

/-- A context of which no plan is kept plans from its retired state. -/
theorem Mach.grantTo_new (hy : m.fe[n].yielded ≠ some d) (hk : m.fe[n].keptPlans = []) :
    (m.grantTo n d why).fe[n].pl = m.fe[n].ctx[d].ret ∧ (m.grantTo n d why).fe[n].plan = [] ∧
      ∃ e, (m.grantTo n d why).fe[n].replan = some ⟨why, m.mt, e, none⟩ := by
  obtain ⟨f, hfe, hsame, hnew⟩ := (m.grantTo_as n d why).field
  obtain ⟨hpl, hplan, hrep⟩ := Field.granted_new hy hk m.mt why (m.stopSeg n m.mt)
  obtain ⟨hfpl, hfplan⟩ := hnew hplan
  rw [hfe, set_fin_self, hfpl, hsame.replan]
  exact ⟨hpl, hfplan, hrep⟩

/-- R119: the plan of a context that yielded is kept for it. -/
theorem Mach.grantTo_keeps {o : Fin 8} (ho : m.fe[n].yielded = some o) (hne : o ≠ d) :
    m.fe[n].keep o ∈ (m.grantTo n d why).fe[n].keptPlans := by
  obtain ⟨f, hfe, hsame, -⟩ := (m.grantTo_as n d why).field
  rw [hfe, set_fin_self, hsame.keptPlans]
  exact Field.planFor_keeps (fun e => hne (Option.some.inj (ho.symm.trans e))) _ _ ho

theorem Mach.grantTo_regs (hd : m.fe[n].dwell = none) : (m.grantTo n d why).regs = m.regs :=
  (m.grantTo_as n d why).regs ((Field.granted_frame ..).2.2.trans hd)

end

section
variable {m : Mach} {n : Fin 16}

/-- R63, R117: no grant where a context owns emission, in fail-safe, without lock or without power. -/
theorem Mach.emissionGrant_none
    (h : m.fe[n].active = true ∨ m.inFs n = true ∨ 1 < m.pstate ∨ m.rd R.TIM_STATUS_LOCK = 0) :
    m.emissionGrant n = m := by
  refine if_pos ?_
  simp only [Bool.or_eq_true, decide_eq_true_eq, Bool.not_eq_true']
  rcases h with h | h | h | h
  · exact .inl (.inl (.inl h))
  · exact .inl (.inl (.inr h))
  · exact .inl (.inr h)
  · exact .inr (Mach.on_of_rd h)

theorem Mach.emissionGrant_best {c : Fin 8} (ha : m.fe[n].active = false) (hf : m.inFs n = false) (hp : m.pstate ≤ 1)
    (hl : m.rd R.TIM_STATUS_LOCK = 1) (hb : m.bestReady n = some c) : m.emissionGrant n = m.grantTo n c .grant := by
  unfold Mach.emissionGrant
  rw [ha, hf, decide_eq_false (Nat.not_lt.mpr hp), Mach.on_of_rd hl, hb]
  rfl

/-- R118: a READY context of a higher priority was READY before the front reached the switch point. -/
theorem Mach.switchDue_ready {o c : Fin 8} {ta : Nat} {k : Ckpt} (hk : m.fe[n].atCk = some (ta, k))
    (hc : m.fe[n].ctx[c].st = .ready) (hp : m.prio n o < m.prio n c) (ht : m.fe[n].ctx[c].readyAt ≤ ta) :
    m.switchDue n o = true := by
  unfold Mach.switchDue
  rw [hk]
  exact List.any_eq_true.mpr ⟨c, List.mem_finRange c, by rw [hc, decide_eq_true hp, decide_eq_true ht]; rfl⟩

theorem Mach.dwellEnd_none (h : m.fe[n].dwell = none) : m.dwellEnd n = m := by
  unfold Mach.dwellEnd Mach.dwellClose
  rw [h]

/-- The owner is parked READY. -/
def Mach.parked (m : Mach) (n : Fin 16) (o : Fin 8) : Mach :=
  m.setField n (m.fe[n].setCtx o { m.fe[n].ctx[o] with st := .ready, readyAt := m.mt })

theorem Mach.parked_fe (m : Mach) (n : Fin 16) (o : Fin 8) :
    (m.parked n o).fe[n] = m.fe[n].setCtx o { m.fe[n].ctx[o] with st := .ready, readyAt := m.mt } := set_fin_self ..

/-- The owner is parked READY, and the other context is granted emission (R118, R120). -/
theorem Mach.contextSwitch_parks {o c : Fin 8} (ho : m.fe[n].owner = some o) (hb : m.bestReady n = some c)
    (he : m.fe[n].emit = none) (hw : m.fe[n].ctx[o].wait = none) (hl : m.fe[n].ctx[o].ret.laserOn = false)
    (hs : m.switchDue n o = true) (hd : m.fe[n].dwell = none) :
    m.contextSwitch n = Mach.inc ((m.parked n o).grantTo n c .switch) (R.FE_SWITCH n) := by
  unfold Mach.contextSwitch
  rw [ho, hb]
  dsimp only
  rw [if_pos ⟨by rw [he]; rfl, by rw [hw]; rfl, by rw [hl]; rfl, hs⟩, Mach.dwellEnd_none hd]
  rfl

end

end Sys2Proof.Machine
end

section
/-! PROOF. The statement on a field's contexts: their commands, the grant of emission and the switch. -/
namespace Sys2Proof.Machine

theorem answers_ctxStopComplete {s : State} {dt : Nat} {n : Fin 16} {c : Fin 8} {t : Mach} {P : Mach → Prop}
    (ht : (s.at dt).ctxStopComplete n c = t) (hq : t.Quiet) (h : P t) : Answers (.ctxStopComplete dt n c) s P :=
  answers_of rfl ((congrArg Mach.wakeAll ht).trans (Mach.wakeAll_of_quiet hq)) h

/-- Settles O21: a command acts by the state of its context; a grant and a switch choose by priority. -/
theorem contextCommandsAndGrants : Obligations.ContextCommandsAndGrants := by
  intro s dt n c m r hm hr
  subst hr
  refine ⟨fun hq i k hi => ?_, fun hq ho hp => ⟨fun hs => ?_, fun hs => ?_, fun hs => ?_, fun hs => ?_, fun hs => ?_,
    fun hs => ?_, fun hs => ?_⟩, fun hq => ⟨fun hs => ?_, fun ho hs hl hp he hrep => ?_⟩,
    fun hst hbest => ⟨fun h => ?_, fun ha hf hp hl => ?_, fun o ho he hw hl hp hk hcount hd => ?_⟩⟩
  · obtain ⟨f, hc⟩ : ∃ f, CtxCommand dt n c i k f := by
      rcases hi with ⟨rfl, rfl⟩ | ⟨rfl, rfl⟩ | ⟨rfl, rfl⟩
      · exact ⟨_, .start⟩
      · exact ⟨_, .stop⟩
      · exact ⟨_, .reset⟩
    exact ctxCommand_notNow hc hm hq
  · exact answers_ctxCommand_acts .start hm ho hp (Mach.ctxStart_idle hs)
      ((Mach.setCtx_quiet hq (.fe n c) rfl).congr rfl rfl rfl) rfl
  · exact answers_ctxCommand_refused .start hm hq ho hp (Mach.ctxStart_refused hs)
  · exact answers_ctxCommand_acts .stop hm ho hp (Mach.ctxStop_active hs)
      (Mach.setCtx_quiet hq (.fe n c) (Mach.quiet_iff.mp hq (.fe n c))) rfl
  · obtain ⟨hend, hregs⟩ := Mach.ctxStop_waits hs
    exact answers_ctxCommand_acts .stop hm ho hp rfl (hend.quiet hq)
      ⟨hend.ctx_same, fun y hy => hend.ctx_ne hy, hend.tokens, fun k hk => hend.fe_ne hk,
        hend.frame.trans (by rw [hregs])⟩
  · exact answers_ctxCommand_refused .stop hm hq ho hp (Mach.ctxStop_refused hs)
  · exact answers_ctxCommand_acts .reset hm ho hp (Mach.ctxReset_idle hs)
      ((Mach.setCtx_quiet hq (.fe n c) rfl).congr rfl rfl rfl) rfl
  · exact answers_ctxCommand_refused .reset hm hq ho hp (Mach.ctxReset_refused hs)
  · subst hm
    exact answers_ctxStopComplete (Mach.ctxStopComplete_unasked hs) hq rfl
  · obtain ⟨g, regs, hdrop, hctx⟩ := m.dropPlan_fe n
    obtain ⟨hend, -⟩ := m.haltCtx_ended hctx regs c
    have hstop := Mach.ctxStopComplete_asked ho hs hl hp he hrep
    rw [hdrop] at hstop
    subst hm
    exact answers_ctxStopComplete hstop (hend.quiet hq)
      ⟨hend.ctx_same, hend.tokens, fun k hk => hend.fe_ne hk, hend.frame⟩
  · subst hm
    exact answers_of rfl (Mach.emissionGrant_none h) rfl
  · have hgrant := Mach.emissionGrant_best ha hf hp hl (Mach.bestReady_eq hst hbest)
    have hgranted := m.grantTo_as n c .grant
    have hctx := m.grantTo_ctx n c .grant
    have hlch := m.grantTo_lch n c .grant
    obtain ⟨howner, hfresh⟩ := m.grantTo_lastOwner n c .grant
    have hnew := m.grantTo_new n c .grant
    have hkeeps := fun o => m.grantTo_keeps (o := o) n c .grant
    subst hm
    refine answers_of rfl hgrant ⟨?_, howner, ?_, fun hy hk => ?_, hfresh,
      fun o hy hne => ⟨_, hkeeps o hy hne, rfl, rfl, rfl⟩, fun y hy => ?_, fun k hk => hgranted.fe_ne hk,
      hgranted.frame⟩
    · rw [hctx]
      exact set_fin_self ..
    · rw [hlch]
      exact ⟨rfl, rfl, rfl, rfl⟩
    · obtain ⟨hpl, hplan, e, hrep⟩ := hnew hy hk
      rw [hrep]
      exact ⟨hpl, hplan, rfl⟩
    · exact (hgranted.ctx (Field.granted_frame ..).1 y).trans (Mach.ctx_setCtx_ne _ _ hy)
  · obtain ⟨ta, k, hk, hready⟩ := hk
    have hco : c ≠ o := fun e => by
      subst e
      exact absurd hp (Nat.lt_irrefl _)
    have hdue := Mach.switchDue_ready hk hst hp hready
    have hswitch := Mach.contextSwitch_parks ho (Mach.bestReady_eq hst hbest) he hw hl hdue hd
    have hpark := m.parked_fe n o
    have hgranted := (m.parked n o).grantTo_as n c .switch
    have hctx := (m.parked n o).grantTo_ctx n c .switch
    have howner := (m.parked n o).grantTo_lastOwner n c .switch
    have hnew := (m.parked n o).grantTo_new n c .switch
    have hregs := (m.parked n o).grantTo_regs n c .switch
    rw [hpark] at hctx hnew hregs
    have hret : (m.fe[n].setCtx o { m.fe[n].ctx[o] with st := .ready, readyAt := m.mt }).ctx[c] = m.fe[n].ctx[c] :=
      set_fin_ne _ _ hco
    subst hm
    refine answers_of rfl hswitch ?_
    rw [Mach.inc_fe, hctx]
    refine ⟨?_, ?_, ?_, howner.1, fun hy hk => ?_, fun a ha => ?_, fun k hk => ?_, ?_⟩
    · rw [set_fin_self]
    · rw [set_fin_ne _ _ hco.symm]
      exact set_fin_self ..
    · rw [Mach.rd, Mach.inc_regs, hregs hd]
      exact rrd_rinc (by omega) (by omega) hcount
    · obtain ⟨hpl, hplan, -⟩ := hnew hy hk
      exact ⟨hpl.trans (congrArg CtxRec.ret hret), hplan⟩
    · rw [Mach.word, Mach.inc_regs, hregs hd]
      exact rget_rinc_ne (List.ne_of_not_mem_cons ha)
    · exact (hgranted.fe_ne hk).trans (set_fin_ne _ _ hk)
    · unfold Mach.inc
      rw [hgranted.frame]
      rfl

end Sys2Proof.Machine
end

section
/-! PROOF. The emission front: a motion retires at its end, a coordinator context halts, and a field that has nothing
left to emit inside a run faults (R127, R133, R143, R471). -/
namespace Sys2Proof.Machine

/-! ## EMISSION_FRONT_REACH (R133, R143) -/

theorem Motion.of_isMotion {i : TInstr} (h : isMotion i = true) : Motion i := by
  cases i with
  | jump => exact .jump ..
  | mark => exact .mark ..
  | arc => exact .arc ..
  | poly => exact .poly ..
  | dot => exact .dot ..
  | spiral => exact .spiral ..
  | _ => cases h

/-- The front makes one move. -/
theorem Mach.frontGo_step {m t : Mach} {n : Fin 16} {c : Fin 8} (hr : m.frontRuns n c = true)
    (hp : m.fe[n].replan = none) (hs : m.frontStep n c = (t, true)) (fuel : Nat) :
    Mach.frontGo n c (fuel + 1) m = Mach.frontGo n c fuel t.wakeAll := by
  conv_lhs => unfold Mach.frontGo
  rw [hr, Mach.passReplan_none hp, hs]
  rfl

section
variable {m : Mach} {n : Fin 16} {c : Fin 8} {i : TInstr} {e : PlanEntry} {l : PSeg} (h : m.MotionEnds n c i e l)
include h

theorem motionEnds_retireEntry : ∃ f, Mach.retireEntry (m.modField n fun f => f.finish m.mt e) n c e = m.setField n f ∧
    f.ctx = m.fe[n].ctx.set c (m.fe[n].ctx[c].retiredTo e.after) ∧ f.plan = m.fe[n].plan.drop 1 ∧ f.replan = none := by
  obtain ⟨-, -, -, hreplan, htrace, -, rfl, hmotion, hlast, hl, -⟩ := h
  obtain ⟨p, x, y, z, em, lc, hfin⟩ := Field.finish_last hl hlast m.fe[n] m.mt
  have hm := Motion.of_isMotion hmotion
  have hretire := Mach.retireEntry_field (hm.effect (m.setField n (m.fe[n].finish m.mt e)) (.fe n c)) htrace
    hm.replans (by rw [hfin]; exact hreplan)
  obtain ⟨_, a, k, q, hf⟩ := (m.fe[n].finish m.mt e).retires_eq m n c e
  refine ⟨_, hretire, ?_, ?_, ?_⟩
  · rw [hf, hfin]
  · rw [hf, hfin]
  · rw [hf, hfin, hm.replans]
    exact hreplan

/-- With the plan at its end the front retires the motion, as a reach of its instruction does, and stops there. -/
theorem frontReach_motionEnds (hp : m.fe[n].plan = [e]) :
    m.MotionDone n c e l ((m.frontReach (.fe n c)).wakeAll) := by
  obtain ⟨f, hf, hctx, hplan, hreplan⟩ := motionEnds_retireEntry h
  have hfe : (m.setField n f).fe[n] = f := set_fin_self ..
  have hretired : (m.setField n f).fe[n].ctx[c].retired ≠ m.fe[n].ctx[c].retired := by
    rw [hfe, hctx, set_fin_self]
    exact Nat.succ_ne_self _
  have hstep := frontStep_motionEnds h
  have hrow := rowFe_motionEnds h hf hretired
  obtain ⟨hquiet, hown, hruns, hrep, -, -, -, hmotion, -⟩ := id h
  have hdone := execT_motionEnds h (Motion.of_isMotion hmotion)
  have hq : (m.setField n f).Quiet := (Mach.setCtx_quiet hquiet (.fe n c) rfl).of_ctx (Mach.setField_ctx_set hctx)
  have hfront : m.front n = m.setField n f := by
    unfold Mach.front
    rw [hown]
    dsimp only
    rw [hp, Mach.frontGo_step hruns hrep (hstep.trans (by rw [hf])), Mach.wakeAll_of_quiet hq]
    exact Mach.frontGo_planned (by rw [hfe, hplan, hp]; rfl) (by rw [hfe, hreplan]) c _
  rw [execT_fe hrow hq] at hdone
  unfold Mach.frontReach
  dsimp only
  rw [if_pos hown, hfront, Mach.wakeAll_of_quiet hq, Mach.wakeAll_of_quiet hq]
  exact hdone

end

/-- A sequence reaches one instruction. -/
theorem Mach.seqGo_step {m : Mach} {x : Ctx} {i : TInstr} (hr : m.ctxRuns x = true)
    (hf : m.fetch (ctxEng x) [] (m.ctx x).ret.pc = .ok i) (fuel : Nat) :
    Mach.seqGo x (fuel + 1) m = Mach.seqGo x fuel (m.seqIns x i).wakeAll := by
  conv_lhs => unfold Mach.seqGo
  rw [hr, hf]
  rfl

theorem Mach.seqGo_stands {m : Mach} {x : Ctx} (h : m.ctxRuns x = false) (fuel : Nat) : Mach.seqGo x fuel m = m := by
  cases fuel with
  | zero => rfl
  | succ fuel =>
    unfold Mach.seqGo
    rw [h]
    rfl

theorem Mach.seqIns_halt {m : Mach} {c : Fin 8} (hw : m.wordFault (.coo c) m.coo[c].ret .halt = none) :
    m.seqIns (.coo c) .halt = { (m.setCtx (.coo c) (m.coo[c].endedAs .halted)) with
      tokens := m.tokens.filter fun p => p.2 ≠ .coo c } := by
  have hset : (m.coo.set c (m.coo[c].leaving .halted)).set c
      (CtxRec.retiredTo (m.coo.set c (m.coo[c].leaving .halted))[c] { m.coo[c].ret with spin := 0 }) =
      m.coo.set c (m.coo[c].endedAs .halted) := by
    rw [set_fin_self, Vector.set_set]
    rfl
  unfold Mach.seqIns
  rw [show m.wordFault (.coo c) (m.ctx (.coo c)).ret .halt = none from hw]
  exact congrArg (fun v => ({ m with coo := v, tokens := m.tokens.filter fun p => p.2 ≠ .coo c } : Mach)) hset

/-- R143: a coordinator context goes through its program up to its HALT. -/
theorem frontReach_halt {m : Mach} {c : Fin 8} (hq : m.Quiet) (hr : m.ctxRuns (.coo c) = true)
    (hf : m.fetch .coo [] m.coo[c].ret.pc = .ok .halt) (hw : m.wordFault (.coo c) m.coo[c].ret .halt = none) :
    (m.frontReach (.coo c)).wakeAll = { (m.setCtx (.coo c) (m.coo[c].endedAs .halted)) with
      tokens := m.tokens.filter fun p => p.2 ≠ .coo c } := by
  generalize ht : ({ (m.setCtx (.coo c) (m.coo[c].endedAs .halted)) with
      tokens := m.tokens.filter fun p => p.2 ≠ .coo c } : Mach) = t
  have htq : t.Quiet := by
    rw [← ht]
    exact (Mach.setCtx_quiet hq (.coo c) rfl).congr rfl rfl rfl
  have hst : (t.ctx (.coo c)).st = .halted := by
    rw [← ht]
    exact congrArg CtxRec.st (set_fin_self ..)
  have hstands : t.ctxRuns (.coo c) = false := by
    unfold Mach.ctxRuns
    rw [hst]
    simp
  have hgo : Mach.seqGo (.coo c) 8192 m = t := by
    rw [Mach.seqGo_step hr hf 8191, Mach.seqIns_halt hw, ht, Mach.wakeAll_of_quiet htq, Mach.seqGo_stands hstands]
  show (Mach.seqGo (.coo c) 8192 m).wakeAll.wakeAll = t
  rw [hgo, Mach.wakeAll_of_quiet htq, Mach.wakeAll_of_quiet htq]

/-! ## PLAN_UNDERRUN (R127, R471) -/

theorem Mach.underrun_faults {m : Mach} {n : Fin 16} (hp : m.fe[n].plan = []) (hi : m.fe[n].inRun = true)
    (hr : m.fe[n].replan = none) (hf : m.inFs n = false) : m.underrun n = m.enterFs n cUnderrun false false := by
  unfold Mach.underrun
  dsimp only
  rw [Mach.front_planned hp hr, if_pos (by rw [hi, hp]; rfl), Mach.fieldFault, if_neg (by simp [hf])]

theorem CtxRec.held_busy {r : CtxRec} {cause : Nat} (h : ctxBusy r.st = true) :
    (r.held false cause).st = .suspended := by
  unfold CtxRec.held
  rw [if_neg nofun, if_pos h]

/-- A register of the field's engine or of its fail-safe state is not one that the raise of its source writes. -/
theorem faultReport_raise (n : Fin 16) : (R.FE_FAULT_CAUSE n).a ∉ raiseRegs (80 + n) ∧
    (R.SAF_FS_STATUS_FS n).a ∉ raiseRegs (80 + n) := by
  simp only [raiseRegs, R.FE_FAULT_CAUSE, R.SAF_FS_STATUS_FS, R.HS_EVT_PEND, R.HSQ_PBA, R.CBK_QLEVEL_QMAX, R.CBK_ANGEL,
    List.mem_cons, List.not_mem_nil, or_false]
  omega

/-- The entry into fail-safe reports its cause, and holds the field's contexts (R115, R471). -/
theorem Mach.enterFs_reports (m : Mach) (n : Fin 16) {cause : Nat} (hc : cause < 256) (byctx doubt : Bool) : ∃ f ws p,
    (∃ r, f.ctx = Vector.ofFn fun d => m.fe[n].ctx[d].held (byctx && d == r) cause) ∧
    (∀ g, rrd (rwrs g ws) (R.FE_FAULT_CAUSE n) = cause) ∧ (∀ g, rrd (rwrs g ws) (R.SAF_FS_STATUS_FS n) = 1) ∧
    m.enterFs n cause byctx doubt = ((m.dwellEnd n).faulted n doubt f ws).raiseP (80 + n) cause p := by
  obtain ⟨d, b, hd⟩ := (m.dwellEnd_dwellsOnly n).field
  refine ⟨_, _, _, ⟨?_, ?_⟩, fun g => ?_, fun g => ?_, rfl⟩
  · exact ((m.dwellEnd n).fe[n].stopRec (m.dwellEnd n).mt cause).ctx
  · show Vector.ofFn _ = _
    rw [hd]
  · refine (rrd_rwrs_written [] _ g (by simp [R.FE_FAULT_CAUSE]) (by simp [R.FE_FAULT_CAUSE]) ?_).trans
      (Nat.mod_eq_of_lt hc)
    simp only [List.forall_mem_cons, RF.Apart, R.FE_FAULT_CAUSE, R.FE_FAULT_CTX, R.FE_FAULT_BYCTX,
      R.FE_FAULT_PC_LO, R.FE_FAULT_PC_HI, R.SAF_FS_STATUS_FS, R.SAF_FS_STATUS_DOUBT, R.SAF_FS_STATUS_RECOV,
      R.SAF_FS_STATUS_WINEXP, R.SAF_FS_STATUS_LEDOK, R.SAF_FS_STATUS_CAUSE, R.SAF_FS_FAULT_MT_LO, R.SAF_FS_FAULT_MT_HI]
    refine ⟨?_, ?_, ?_, ?_, ?_, ?_, ?_, ?_, ?_, ?_, ?_, ?_, fun _ h => absurd h List.not_mem_nil⟩ <;> omega
  · refine rrd_rwrs_written [_, _, _, _, _] _ g (Nat.le_refl 0) (show 0 < 32 by decide) ?_
    simp only [List.forall_mem_cons, RF.Apart, R.SAF_FS_STATUS_FS, R.SAF_FS_STATUS_DOUBT, R.SAF_FS_STATUS_RECOV,
      R.SAF_FS_STATUS_WINEXP, R.SAF_FS_STATUS_LEDOK, R.SAF_FS_STATUS_CAUSE, R.SAF_FS_FAULT_MT_LO, R.SAF_FS_FAULT_MT_HI]
    refine ⟨?_, ?_, ?_, ?_, ?_, ?_, ?_, fun _ h => absurd h List.not_mem_nil⟩ <;> omega

theorem planUnderrun_answers {s : State} {dt : Nat} {n : Fin 16} {m : Mach} (hm : m = s.at dt) (hp : m.fe[n].plan = [])
    (hi : m.fe[n].inRun = true) (hr : m.fe[n].replan = none) (hf : m.inFs n = false) :
    Answers (.planUnderrun dt n) s fun t =>
      t.inFs n = true ∧ t.rd (R.FE_FAULT_CAUSE n) = 0x20 ∧ t.evt (80 + n) = 1 ∧ t.Dark n ∧
      (∀ d : Fin 8, ctxBusy m.fe[n].ctx[d].st = true → t.fe[n].ctx[d].st = .suspended) ∧
      (∀ k : Fin 16, k ≠ n → t.fe[k] = m.fe[k]) ∧ t.mem = m.mem ∧ t.mode = m.mode := by
  have hfault : m.fieldFault n cUnderrun false false = m.enterFs n cUnderrun false false := if_neg (by simp [hf])
  have hrun := Mach.underrun_faults hp hi hr hf
  obtain ⟨honly, hfe⟩ := hfault ▸ m.fieldFault_only n cUnderrun false false
  obtain ⟨f, ws, p, ⟨r, hctx⟩, hcause, hfs, he⟩ := m.enterFs_reports n (show cUnderrun < 256 by decide) false false
  obtain ⟨hncause, hnfs⟩ := faultReport_raise n
  obtain ⟨g, q, hdark, -, hframe⟩ := (m.dwellEnd n).faulted_frame n false f ws
  have hmode : (m.enterFs n cUnderrun false false).mode = m.mode :=
    Mach.rd_congr (honly _ (not_faultWrites_low (by simp) n))
  subst hm
  refine answers_of rfl hrun ⟨?_, ?_, ?_, ?_, fun d hd => ?_, fun k hk => (hfe k hk).1, ?_, hmode⟩
  · rw [he, Mach.inFs_iff]
    exact (Mach.rd_congr (Mach.raiseP_word_ne hnfs)).trans (hfs _)
  · rw [he]
    exact (Mach.rd_congr (Mach.raiseP_word_ne hncause)).trans (hcause _)
  · rw [he]
    exact Mach.raiseP_pend (by omega)
  · unfold Mach.Dark
    rw [he, Mach.raiseP_pins, hframe]
    dsimp only
    rw [set_fin_self]
    exact hdark
  · rw [he, Mach.raiseP_fe, hframe]
    dsimp only
    rw [set_fin_self, hctx]
    simp only [Fin.getElem_fin, Vector.getElem_ofFn, Bool.false_and]
    exact CtxRec.held_busy hd
  · rw [he, Mach.raiseP_mem, hframe, ((s.at dt).dwellEnd_dwellsOnly n).2]

end Sys2Proof.Machine
end

section
/-! PROOF. LASER_ON_RUN_START: the front waits before a run, or the run starts with its gate edges queued (R57, R63,
R126, R210 to R212, R224). -/
namespace Sys2Proof.Machine

/-! ## Where a run stands at the front -/

/-- A run stands at the front of the field, which may go on; the plan holds the run up to its end `u`, and the
trellis has granted all of it (R126, R251). -/
structure Mach.RunStands (m : Mach) (n : Fin 16) (c : Fin 8) (e : PlanEntry) (p : PSeg) (u : Nat) : Prop where
  owner : m.fe[n].owner = some c
  runs : m.frontRuns n c = true
  inRun : m.fe[n].inRun = false
  fresh : m.fe[n].fresh = false
  replan : m.fe[n].replan = none
  emit : m.fe[n].emit = none
  dwell : m.fe[n].dwell = none
  plan : m.fe[n].plan.head? = some e
  segs : e.segs.head? = some p
  laser : p.seg.laser = true
  held : m.frontHeld n c = false
  runEnd : runEnd m.fe[n].plan 0 = some u
  cleared : u ≤ m.clearance n

section
variable {m : Mach} {n : Fin 16} {c : Fin 8} {e : PlanEntry} {p : PSeg} {u : Nat} (h : m.RunStands n c e p u)
include h

theorem Mach.RunStands.runPlan : m.fe[n].runPlan = m.fe[n].plan := by
  unfold Field.runPlan
  rw [h.emit]

theorem Mach.RunStands.planStart : m.fe[n].planStart = some p.t0 := by
  obtain ⟨rest, hplan⟩ := List.head?_eq_some_iff.mp h.plan
  obtain ⟨segs, hsegs⟩ := List.head?_eq_some_iff.mp h.segs
  unfold Field.planStart
  rw [hplan, List.flatMap_cons, hsegs]
  rfl

theorem Mach.RunStands.atRunStart : m.atRunStart n = true := by
  obtain ⟨rest, hplan⟩ := List.head?_eq_some_iff.mp h.plan
  unfold Mach.atRunStart
  rw [hplan]
  dsimp only
  rw [h.segs, h.emit, h.inRun, Option.map_some, h.laser]
  rfl

theorem Mach.RunStands.runStart : m.runStart n = m.runHere n := by
  obtain ⟨rest, hplan⟩ := List.head?_eq_some_iff.mp h.plan
  have hgo : ¬ ((!m.frontRuns n c) = true ∨ m.fe[n].inRun = true) := by
    rw [h.runs, h.inRun]
    simp
  have hstand : m.runStand n c = m.runHere n := by
    unfold Mach.runStand
    rw [hplan]
    dsimp only
    rw [h.atRunStart, h.held, Bool.and_false]
    rfl
  unfold Mach.runStart
  rw [h.owner]
  dsimp only
  rw [if_neg hgo, Mach.passReplan_none h.replan, h.emit, h.fresh, ← hstand]
  rfl

/-- Nothing but the laser's permission holds the run back. -/
theorem Mach.RunStands.runBlocked : m.runBlocked n = if m.runDenied n then some 3 else none := by
  unfold Mach.runBlocked
  dsimp only
  rw [h.runPlan, h.runEnd]
  exact if_neg (Nat.not_lt.mpr h.cleared)

/-- R126: not permitted to emit, the front waits in dwell class 3. -/
theorem Mach.RunStands.denied (hd : m.runDenied n = true) :
    m.runStart n = m.setField n { m.fe[n] with dwell := some (m.mt, 3) } := by
  rw [h.runStart, Mach.runHere, h.runBlocked, hd]
  show m.dwellIn n 3 = _
  rw [Mach.dwellIn, h.dwell]
  rfl

theorem Mach.RunStands.startRun (hd : m.runDenied n = false) (hs : m.soonest n ≤ p.t0) (hs' : p.t0 ≤ m.soonest n + 40) :
    m.runStart n = m.startRun n p.t0 := by
  rw [h.runStart, Mach.runHere, h.runBlocked, hd, h.planStart]
  exact (if_pos hs).trans (if_pos hs')

end

/-- R63, R126, R224: the module is ARMED and stays so, the laser is ready where that is asked for, and the synthesizer
is in lock. -/
theorem Mach.runDenied_false {m : Mach} {n : Fin 16} (hm : m.mode = modeArmed) (hd : m.saf.disarming = false)
    (hp : m.pstate = 0) (hl : m.rd R.TIM_STATUS_LOCK = 1)
    (hr : m.rd (R.FE_LCH_CTRL_RDYREQ n) = 1 → m.fe[n].lch.rdy = true) : m.runDenied n = false := by
  have hready : (m.on (R.FE_LCH_CTRL_RDYREQ n) && !m.fe[n].lch.rdy) = false := by
    by_cases h : m.rd (R.FE_LCH_CTRL_RDYREQ n) = 1
    · rw [hr h, Bool.not_true, Bool.and_false]
    · exact (congrArg (· && _) (beq_false_of_ne h)).trans (Bool.false_and _)
  unfold Mach.runDenied
  rw [hm, hd, hp, Mach.on_of_rd hl, hready]
  rfl

/-! ## The gate edges (R210, R212) -/

theorem Mach.gateEdges_unmoved {m : Mach} {n : Fin 16} {a b on off : Nat}
    (hon : on = min 800 (m.rd (R.FE_LCH_GADV_GONADV n))) (hoff : off = min 800 (m.rd (R.FE_LCH_GADV_GOFFADV n)))
    (hab : a < b) (hlen : off < b - a + on)
    (hlow : ∀ d, m.fe[n].lch.lastFall = some d → d + max 1 (m.rd (R.FE_LCH_MINLOW n)) ≤ a - on) :
    m.gateEdges n a b = (some (a - on, b - off), false) := by
  subst hon hoff
  unfold Mach.gateEdges
  dsimp only
  rw [if_neg (by omega), if_neg (by omega)]
  split
  · next d hd => exact if_neg (Nat.not_lt.mpr (hlow d hd))
  · rfl

/-- The gate stage of a field takes the two edges of a run. -/
def Mach.pushRun (m : Mach) (n : Fin 16) (r d : Nat) : Mach :=
  (m.pushEdge (.gate n) r (.gate true true)).pushEdge (.gate n) d (.gate false false)

theorem Mach.pushRun_stages (m : Mach) (n : Fin 16) (r d : Nat) :
    (m.pushRun n r d).stage (.gate n) =
      ((m.stage (.gate n)).push 32 ⟨r, .gate true true⟩).push 32 ⟨d, .gate false false⟩ ∧
    (∀ e, e ≠ .gate n → (m.pushRun n r d).stage e = m.stage e) := by
  refine ⟨?_, fun e he => ?_⟩
  · exact (Mach.stage_setStage_same ..).trans (congrArg (Stage.push · 32 _) (Mach.stage_setStage_same ..))
  · exact (Mach.stage_setStage_ne _ _ he).trans (Mach.stage_setStage_ne _ _ he)

theorem Mach.gateRun_unmoved {m : Mach} {n : Fin 16} {a b r d : Nat} (h : m.gateEdges n a b = (some (r, d), false)) :
    m.gateRun n a (some b) =
      (m.pushRun n r d).setField n
        { m.fe[n] with lch := { m.fe[n].lch with fallSet := true, lastFall := some d } } := by
  unfold Mach.gateRun
  dsimp only
  rw [h]
  exact Mach.modField_setField (m.pushRun n r d) n { m.fe[n] with lch := { m.fe[n].lch with fallSet := true } }
    fun f => { f with lch := { f.lch with lastFall := some d } }

/-! ## Emission begins (R126, R133) -/

theorem Lch.setGint_lastFall (l : Lch) (t : Nat) (v : Bool) : (l.setGint t v).lastFall = l.lastFall := by
  unfold Lch.setGint
  dsimp only
  split <;> rfl

theorem Field.offRamp_frame (f : Field) (t : Nat) : (f.offRamp t).ctx = f.ctx ∧ (f.offRamp t).plan = f.plan ∧
    (f.offRamp t).lch = f.lch := by
  unfold Field.offRamp
  split <;> exact ⟨rfl, rfl, rfl⟩

theorem Field.begin'_run (f : Field) (t0 now : Nat) (e : PlanEntry) : (f.begin' t0 now e true).ctx = f.ctx ∧
    (f.begin' t0 now e true).plan = f.plan ∧ (f.begin' t0 now e true).lch.lastFall = f.lch.lastFall ∧
    (f.begin' t0 now e true).inRun = true ∧ (f.begin' t0 now e true).emit = some t0 := by
  obtain ⟨hc, hp, hl⟩ := f.leavePoint.offRamp_frame t0
  refine ⟨hc, hp, ?_, rfl, rfl⟩
  unfold Field.begin'
  dsimp only
  split <;> simp only [apply_ite Lch.lastFall, Lch.setGint_lastFall, ite_self, hl] <;> rfl

theorem Mach.dwellClose_none {m : Mach} {n : Fin 16} (h : m.fe[n].dwell = none) (t : Nat) : m.dwellClose n t = m := by
  unfold Mach.dwellClose
  rw [h]

/-- The edges of the run are queued, and the field emits from its start on. -/
theorem Mach.RunStands.startRun_emits {m : Mach} {n : Fin 16} {c : Fin 8} {e : PlanEntry} {p : PSeg} {u r d : Nat}
    (h : m.RunStands n c e p u) (hedges : m.gateEdges n p.t0 u = (some (r, d), false)) :
    ∃ f, m.startRun n p.t0 = (m.pushRun n r d).setField n f ∧ f.ctx = m.fe[n].ctx ∧ f.plan = m.fe[n].plan ∧
      f.lch.lastFall = some d ∧ f.inRun = true ∧ f.emit = some p.t0 := by
  obtain ⟨rest, hplan⟩ := List.head?_eq_some_iff.mp h.plan
  generalize hg : ({ m.fe[n] with lch := { m.fe[n].lch with fallSet := true, lastFall := some d } } : Field) = g
  have hgate : m.gateRun n p.t0 (some u) = (m.pushRun n r d).setField n g := hg ▸ Mach.gateRun_unmoved hedges
  have hself : ((m.pushRun n r d).setField n g).fe[n] = g := set_fin_self ..
  have hgplan : g.plan = e :: rest := by rw [← hg]; exact hplan
  have hstart : m.startRun n p.t0 = ((m.pushRun n r d).setField n g).beginEntry n p.t0 e true := by
    unfold Mach.startRun
    dsimp only
    rw [Mach.dwellClose_none h.dwell, h.runPlan, h.runEnd, hgate, hself, hgplan]
  have hbegin : ((m.pushRun n r d).setField n g).beginEntry n p.t0 e true =
      (m.pushRun n r d).setField n ((g.begin' p.t0 m.mt e true).noted (m.pushRun n r d) n) :=
    (congrArg (Mach.noteFront · n) (Mach.modField_setField ..)).trans (Mach.noteFront_setField ..)
  obtain ⟨hctx, hpl, hfall, hin, hemit⟩ := g.begin'_run p.t0 m.mt e
  refine ⟨_, hstart.trans hbegin, hctx.trans ?_, hpl.trans ?_, hfall.trans ?_, hin, hemit⟩
  · rw [← hg]
  · rw [← hg]
  · rw [← hg]

end Sys2Proof.Machine
end

section
/-! PROOF. The statement on the emission front: it moves, runs start, and an underrun faults the field. -/
namespace Sys2Proof.Machine

/-- Settles O22: the front retires what has ended, lets a run in with its edges queued, and faults at the plan's end. -/
theorem frontMovesAndRunsStart : Obligations.FrontMovesAndRunsStart := by
  intro s dt n c m hm
  refine ⟨fun i e l h hp => ?_, fun hq hr hf hw => ?_, ?_, fun _ hp hi hr hf => planUnderrun_answers hm hp hi hr hf⟩
  · subst hm
    exact answers_of rfl rfl (frontReach_motionEnds h hp)
  · subst hm
    exact answers_of rfl (frontReach_halt hq hr hf hw) ⟨congrArg CtxRec.st (set_fin_self ..),
      congrArg CtxRec.retired (set_fin_self ..), fun k hk => set_fin_ne _ _ hk, rfl⟩
  intro e p u on off hown hruns hin hfresh hrep hemit hdwell hplan hsegs hlaser hheld hon hoff hend hclear
  have h : m.RunStands n c e p u :=
    ⟨hown, hruns, hin, hfresh, hrep, hemit, hdwell, hplan, hsegs, hlaser, hheld, hend, hclear⟩
  refine ⟨fun hd => ?_, fun hmode hdis hpow hlock hrdy hs hs' hpu hlen hlow => ?_⟩
  · subst hm
    exact answers_of rfl (h.denied hd) rfl
  · have hedges := Mach.gateEdges_unmoved hon hoff hpu hlen hlow
    obtain ⟨f, hf, hctx, hpl, hfall, hrun, hem⟩ := h.startRun_emits hedges
    have hstart := (h.startRun (Mach.runDenied_false hmode hdis hpow hlock hrdy) hs hs').trans hf
    obtain ⟨hgate, hother⟩ := m.pushRun_stages n (p.t0 - on) (u - off)
    have hself : ((m.pushRun n (p.t0 - on) (u - off)).setField n f).fe[n] = f := set_fin_self ..
    subst hm
    refine answers_of rfl hstart ?_
    rw [hself]
    exact ⟨hrun, hem, hfall, hgate, hother, hctx, hpl, fun k hk => set_fin_ne _ _ hk, rfl⟩

end Sys2Proof.Machine
end

section
/-! PROOF. The planner: instructions without a path, faults found, and BRCs planned past (R80, R122, R128, R131). -/
namespace Sys2Proof.Machine

/-! ## Where nothing stops planning -/

/-- The planner of the field plans, at the start of an instruction and outside a run, with no checkpoint due and no
prefetched words (R122, R128). -/
structure Mach.Plans (m : Mach) (n : Fin 16) (c : Fin 8) : Prop where
  owner : m.fe[n].owner = some c
  pstop : m.pstop n = 0
  mode : modeReady ≤ m.mode
  openIns : m.fe[n].openIns = none
  ckAt : m.fe[n].planEnd < m.fe[n].ckAt + 40000
  inRun : m.fe[n].inRun = false
  runAt : m.fe[n].runAt = none
  legs : m.fe[n].legs = []
  prefetch : m.fe[n].prefetch = []

/-- R128: 50 µs of planned emission do not lie behind the last point yet. -/
theorem Field.needCk_early {f : Field} (h : f.planEnd < f.ckAt + 40000) : f.needCk = false := by
  unfold Field.needCk
  split
  · rw [decide_eq_false (Nat.not_le.mpr h), Bool.and_false]
  · rfl

theorem Mach.tryCk_idle {m : Mach} {n : Fin 16} (h : m.fe[n].needCk = false) (c : Fin 8) : m.tryCk n c = m := by
  unfold Mach.tryCk
  rw [h]
  rfl

theorem Mach.closeRun_idle {m : Mach} {n : Fin 16} (hi : m.fe[n].inRun = false) (hr : m.fe[n].runAt = none) :
    m.closeRun n = m := by
  unfold Mach.closeRun
  dsimp only
  rw [hi, hr]
  rfl

/-- What the planner does with an instruction that it has read. -/
def Mach.decodeIns (m : Mach) (n : Fin 16) (c : Fin 8) (i : TInstr) (segs : List Seg) (slowed : List (BitVec 8)) :
    Mach :=
  match m.wordFault (.fe n c) m.fe[n].pl i with
  | some code => m.setField n (m.fe[n].foundFault i code)
  | none => if isMotion i then m.decodeMotion n c i segs slowed else m.decodeBare n c i

section
variable {m : Mach} {n : Fin 16} {c : Fin 8} (h : m.Plans n c) {i : TInstr} {segs : List Seg} {slowed : List (BitVec 8)}
include h

theorem Mach.Plans.nextIns : m.nextIns n = m.fetch .fe m.fe[n].prefetch m.fe[n].pl.pc := by
  unfold Mach.nextIns
  rw [h.openIns]

theorem Mach.Plans.tryCk : m.tryCk n c = m := Mach.tryCk_idle (Field.needCk_early h.ckAt) c

theorem Mach.Plans.goes : ¬ (m.pstop n ≠ 0 ∨ m.mode < modeReady) :=
  not_or.mpr ⟨not_not.mpr h.pstop, Nat.not_lt.mpr h.mode⟩

theorem Mach.Plans.decode_error {code : Nat} (hf : m.fetch .fe m.fe[n].prefetch m.fe[n].pl.pc = .error code) :
    m.plannerDecode n segs slowed = m.setField n (m.fe[n].foundFault .nop code) := by
  unfold Mach.plannerDecode
  rw [h.owner]
  dsimp only
  rw [if_neg h.goes, h.tryCk, h.nextIns, hf]

/-- An instruction is planned, and neither a checkpoint nor the end of a run comes with it. -/
theorem Mach.Plans.decode_ok {t : Mach} (hf : m.fetch .fe m.fe[n].prefetch m.fe[n].pl.pc = .ok i)
    (ht : m.decodeIns n c i segs slowed = t) (hck : t.fe[n].needCk = false) (hin : t.fe[n].inRun = false)
    (hrun : t.fe[n].runAt = none) : m.plannerDecode n segs slowed = t := by
  have hdecode : m.plannerDecode n segs slowed = ((m.decodeIns n c i segs slowed).tryCk n c).closeRun n := by
    unfold Mach.plannerDecode
    rw [h.owner]
    dsimp only
    rw [if_neg h.goes, h.tryCk, h.nextIns, hf]
    dsimp only
    rw [h.openIns]
    rfl
  rw [hdecode, ht, Mach.tryCk_idle hck, Mach.closeRun_idle hin hrun]

/-- R80: the fault is appended as found. -/
theorem Mach.Plans.foundFault (code : Nat) : m.fe[n].foundFault i code =
    { m.fe[n] with
      plan := m.fe[n].plan ++ [bareEntry m.fe[n].pl i (some (BitVec.ofNat 8 code)) m.fe[n].pl false] } := by
  unfold Field.foundFault
  rw [h.openIns, ← h.legs]
  rfl

/-- An instruction that changes the field alone, and plans no emission. -/
theorem Mach.Plans.decode_field {f : Field} (hf : m.fetch .fe m.fe[n].prefetch m.fe[n].pl.pc = .ok i)
    (ht : m.decodeIns n c i segs slowed = m.setField n f) (hck : f.planEnd < f.ckAt + 40000)
    (hin : f.inRun = m.fe[n].inRun) (hrun : f.runAt = m.fe[n].runAt) :
    m.plannerDecode n segs slowed = m.setField n f := by
  have hself : (m.setField n f).fe[n] = f := set_fin_self ..
  refine h.decode_ok hf ht ?_ ?_ ?_
  · rw [hself]
    exact Field.needCk_early hck
  · rw [hself, hin, h.inRun]
  · rw [hself, hrun, h.runAt]

theorem Mach.Plans.decode_fault {code : Nat} (hf : m.fetch .fe m.fe[n].prefetch m.fe[n].pl.pc = .ok i)
    (hw : m.wordFault (.fe n c) m.fe[n].pl i = some code) : m.plannerDecode n segs slowed = m.setField n
      { m.fe[n] with
        plan := m.fe[n].plan ++ [bareEntry m.fe[n].pl i (some (BitVec.ofNat 8 code)) m.fe[n].pl false] } := by
  refine h.decode_field hf ?_ h.ckAt rfl rfl
  unfold Mach.decodeIns
  rw [hw]
  exact congrArg (m.setField n) (h.foundFault code)

end

/-! ## Instructions without a path -/

theorem Mach.decodeBare_plain {i : TInstr} (h : opc i ≠ 3) (m : Mach) (n : Fin 16) (c : Fin 8) : m.decodeBare n c i =
    m.setField n { m.fe[n] with
      plan := m.fe[n].plan ++ [bareEntry m.fe[n].pl i none (m.after m.fe[n].pl i false) false]
      pl := m.after m.fe[n].pl i false, barrier := isBarrier i
      prefetch := usedWords m.fe[n].pl.pc i m.fe[n].prefetch } := by
  cases i with
  | brc => exact absurd rfl h
  | _ => rfl

section
variable {m : Mach} {n : Fin 16} {c : Fin 8} {i : TInstr} {segs : List Seg} {slowed : List (BitVec 8)}
  (hw : m.wordFault (.fe n c) m.fe[n].pl i = none)
include hw

theorem Mach.decodeIns_bare (hi : isMotion i = false) : m.decodeIns n c i segs slowed = m.decodeBare n c i := by
  unfold Mach.decodeIns
  rw [hw, hi]
  rfl

theorem Mach.decodeIns_motion (hi : isMotion i = true) :
    m.decodeIns n c i segs slowed = m.decodeMotion n c i segs slowed := by
  unfold Mach.decodeIns
  rw [hw, hi]
  rfl

/-- R122: such an instruction is planned with the state after it. -/
theorem Mach.Plans.decode_bare (h : m.Plans n c) (hf : m.fetch .fe m.fe[n].prefetch m.fe[n].pl.pc = .ok i)
    (hi : isMotion i = false) (ho : opc i ≠ 3) : m.plannerDecode n segs slowed =
    m.setField n { m.fe[n] with
      plan := m.fe[n].plan ++ [bareEntry m.fe[n].pl i none (m.after m.fe[n].pl i false) false]
      pl := m.after m.fe[n].pl i false, barrier := isBarrier i } := by
  have hwords : usedWords m.fe[n].pl.pc i m.fe[n].prefetch = m.fe[n].prefetch := by
    rw [h.prefetch]
    rfl
  refine h.decode_field hf ?_ h.ckAt rfl rfl
  rw [Mach.decodeIns_bare hw hi, Mach.decodeBare_plain ho, hwords]

end

/-! ## A BRC planned past (R128, R131) -/

/-- The field once a BRC is planned past under its hint. -/
def Mach.branched (m : Mach) (n : Fin 16) (c : Fin 8) (i : TInstr) (likely : Bool) : Field :=
  { m.fe[n] with
    plan := (flagCk m.fe[n].plan.reverse).reverse ++ [bareEntry m.fe[n].pl i none (m.after m.fe[n].pl i likely) likely]
    pl := m.after m.fe[n].pl i likely
    ckpts := m.fe[n].ckpts ++ [m.ckptAt n c (m.after m.fe[n].pl i likely) (m.after m.fe[n].pl i (!likely)) (branchOf i)
      (m.prefetchAt (m.after m.fe[n].pl i (!likely)).pc)]
    ckAt := m.fe[n].planEnd, prefetch := usedWords m.fe[n].pl.pc i m.fe[n].prefetch }

theorem Mach.Plans.decode_brc {m : Mach} {n : Fin 16} {c : Fin 8} (h : m.Plans n c) {segs : List Seg}
    {slowed : List (BitVec 8)} {hint cls test : BitVec 4} {idx : Byte} {off value : Word}
    (hf : m.fetch .fe m.fe[n].prefetch m.fe[n].pl.pc = .ok (.brc hint cls idx test off value))
    (hw : m.wordFault (.fe n c) m.fe[n].pl (.brc hint cls idx test off value) = none) (hh : hint.toNat < 2) :
    m.plannerDecode n segs slowed = m.setField n (m.branched n c (.brc hint cls idx test off value) (hint == 1)) := by
  have hne : hint ≠ 2 := fun e => by
    subst e
    exact absurd hh (by decide)
  refine h.decode_field hf ?_ (Nat.lt_add_of_pos_right (by decide)) rfl rfl
  rw [Mach.decodeIns_bare hw rfl]
  exact if_neg hne

end Sys2Proof.Machine
end

section
/-! PROOF. The planner takes the segments of a motion (R123, R128, R146). -/
namespace Sys2Proof.Machine

/-! ## Segments along legs (R146, R148) -/

theorem SegFrom.enter_start (a : SegFrom) (l : Leg) :
    (a.enter l).t0 = a.t0 ∧ ((a.enter l).x, (a.enter l).y, (a.enter l).z) = (a.x, a.y, a.z) := by
  unfold SegFrom.enter
  split
  · exact ⟨rfl, rfl⟩
  · split <;> exact ⟨rfl, rfl⟩

/-- The segments planned are those given, and the first starts at the frontier. -/
theorem runLegs_segs {m : Mach} {n : Fin 16} {lim : Limits} {tol most : Nat} {mk : SegFrom → Seg → PSeg}
    (hmk : ∀ a s, (mk a s).seg = { s with ckpt := false } ∧ (mk a s).t0 = a.t0 ∧
      ((mk a s).x0, (mk a s).y0, (mk a s).z0) = (a.x, a.y, a.z))
    {l : List Seg} {legs : List Leg} {a : SegFrom} {r : List PSeg × List Leg}
    (h : m.runLegs n lim tol most mk l legs a = some r) :
    r.1.map (fun p => { p.seg with ckpt := false }) = l.map (fun s => { s with ckpt := false }) ∧
    ∀ p, r.1.head? = some p → p.t0 = a.t0 ∧ (p.x0, p.y0, p.z0) = (a.x, a.y, a.z) := by
  induction l generalizing legs a r with
  | nil =>
    rw [Mach.runLegs, Option.some.injEq] at h
    subst h
    exact ⟨rfl, fun _ hp => (Option.some_ne_none _ hp.symm).elim⟩
  | cons s l ih =>
    rw [Mach.runLegs] at h
    obtain ⟨q, -, hq⟩ := List.exists_of_findSome?_eq_some h
    obtain ⟨-, hq⟩ := Option.ite_none_left_eq_some.mp hq
    obtain ⟨o, -, ho⟩ := List.exists_of_findSome?_eq_some hq
    obtain ⟨r', hr', rfl⟩ := Option.map_eq_some_iff.mp ho
    obtain ⟨hmap, -⟩ := ih hr'
    obtain ⟨hseg, ht, hp⟩ := hmk (a.enter q.1) s
    obtain ⟨het, hep⟩ := a.enter_start q.1
    refine ⟨?_, fun p hhead => ?_⟩
    · rw [List.map_cons, List.map_cons, hmap, hseg]
    · cases hhead
      exact ⟨ht.trans het, hp.trans hep⟩

theorem alongLegs_segs {m : Mach} {n : Fin 16} {c : Fin 8} {i : TInstr} {segs : List Seg} {slowed : List (BitVec 8)}
    {r : List PSeg × List Leg} (h : m.alongLegs n c i segs slowed = some r) :
    r.1.map (fun p => { p.seg with ckpt := false }) = segs.map (fun s => { s with ckpt := false }) ∧
    ∀ p, r.1.head? = some p → p.t0 = (m.frontier n).t0 ∧
      (p.x0, p.y0, p.z0) = ((m.frontier n).x, (m.frontier n).y, (m.frontier n).z) :=
  runLegs_segs (fun _ _ => ⟨rfl, rfl, rfl⟩) h

/-! ## The entries of a motion (R123) -/

theorem chunks_segs (st after : PState) (i : TInstr) (part whole : Bool) (idx stopdec : Nat) (l : List PSeg) :
    (chunks st after i part whole idx stopdec l).flatMap (·.segs) = l := by
  have hl : l.takeWhile (!·.seg.laser) ++ l.dropWhile (!·.seg.laser) = l := List.takeWhile_append_dropWhile
  unfold chunks
  dsimp only
  split
  · next hon =>
    rw [List.isEmpty_iff.mp hon, List.append_nil] at hl
    simpa using hl
  · split
    · next hoff =>
      rw [List.isEmpty_iff.mp hoff, List.nil_append] at hl
      simpa using hl
    · simp

/-! ## The state after a motion (R75, R77) -/

theorem PState.noteWobble_eq (st : PState) (l : List PSeg) : ∃ w, st.noteWobble l = { st with wstart := w } := by
  unfold PState.noteWobble
  split
  · split
    · exact ⟨_, rfl⟩
    · exact ⟨_, rfl⟩
  · exact ⟨_, rfl⟩

/-- A motion ends at its end point, which is a laser-on point by CONT; SPIN and WOBBLE's start do not matter. -/
theorem Motion.after {i : TInstr} (h : Motion i) (hi : isMotion i = true) (m : Mach) (st : PState) (w : Option Nat)
    (b : Bool) : m.after { st with wstart := w } i b = PState.fall { st with
      wstart := w, spin := 0, px := (m.endPoint st i).1, py := (m.endPoint st i).2, laserOn := contOf st i
      moved := true } i := by
  have hs : resetsSpin i = true := by
    unfold resetsSpin
    rw [hi]
    rfl
  cases h with
  | poly cont rel np close k a =>
    unfold Mach.after
    simp only [hs, hi, if_true]
    rfl
  | _ => rfl

end Sys2Proof.Machine
end

section
/-! PROOF. The statement on the planner: motions planned, summaries published, and replans ready (R123, R138, R146,
R248). -/
namespace Sys2Proof.Machine

/-! ## A motion whose segments are taken -/

/-- Split counters are all that a lowered joint and a settle hold change outside the plan (R159, R161). -/
theorem Mach.noteSplit_frame (m : Mach) (n : Fin 16) (settle : Nat) (slowed : List (BitVec 8)) :
    ∃ g, m.noteSplit n settle slowed = { m with regs := g } := by
  have hfold (l : List (BitVec 8)) : ∀ g, ∃ g', l.foldl (fun (m : Mach) (k : BitVec 8) =>
      (m.inc (R.FE_SPL_SLOWED n)).wr (R.FE_SPL_MINM n) (min (m.rd (R.FE_SPL_MINM n)) k.toNat)) { m with regs := g } =
      { m with regs := g' } := by
    induction l with
    | nil => exact fun g => ⟨g, rfl⟩
    | cons k l ih => exact fun g => ih _
  unfold Mach.noteSplit
  dsimp only
  split
  · exact hfold slowed m.regs
  · exact hfold slowed _

section
variable {m : Mach} {n : Fin 16} {c : Fin 8} {i : TInstr} {segs : List Seg} {slowed : List (BitVec 8)}
  (hprof : m.profileStuck n m.fe[n].pl.mprof.toNat = false) (hcor : m.fe[n].cor.isSome = true)
include hprof hcor

theorem Mach.decodeMotion_along : m.decodeMotion n c i segs slowed =
    match m.alongLegs n c i segs slowed with
    | none => m
    | some (ps, left) =>
      match m.pathFault n ps, legsDone left && m.polyPoison i with
      | some code, _ => m.setField n (m.fe[n].foundFault i code)
      | none, true => m.setField n (m.fe[n].foundFault i fPoison)
      | none, false =>
        if planCap - m.fe[n].segsLeft m.mt < segs.length ∨
            (!legsDone left ∧ segs.length ≠ planCap - m.fe[n].segsLeft m.mt) ∨ !m.planOk n c i ps left slowed then m
        else
          (m.setField n { m.withSegs n i ps left with
            prefetch := usedWords m.fe[n].pl.pc i (m.withSegs n i ps left).prefetch }).noteSplit n
            (((settleSeg ps).map (·.seg.dur)).getD 0) slowed := by
  have hnone : m.fe[n].cor.isNone = false := by rw [← Option.not_isSome, hcor]; rfl
  unfold Mach.decodeMotion
  dsimp only
  rw [hprof, hnone]
  rfl

/-- Segments that do not run along the motion are no plan of it. -/
theorem Mach.decodeMotion_astray (h : m.alongLegs n c i segs slowed = none) : m.decodeMotion n c i segs slowed = m := by
  rw [Mach.decodeMotion_along hprof hcor, h]

/-- Segments that run along the whole motion, on a path without fault, and keep every limit are taken. -/
theorem Mach.decodeMotion_whole {ps : List PSeg} (h : m.alongLegs n c i segs slowed = some (ps, []))
    (hpath : m.pathFault n ps = none) (hpoison : m.polyPoison i = false) (hok : m.planOk n c i ps [] slowed = true)
    (hroom : segs.length + m.fe[n].segsLeft m.mt ≤ 32768) : ∃ w g, m.decodeMotion n c i segs slowed =
      { m.setField n { m.withSegs n i ps [] with prefetch := w } with regs := g } := by
  have hfits : ¬ (planCap - m.fe[n].segsLeft m.mt < segs.length ∨
      ((!legsDone []) = true ∧ segs.length ≠ planCap - m.fe[n].segsLeft m.mt) ∨
      (!m.planOk n c i ps [] slowed) = true) := by
    rw [hok]
    unfold planCap
    rintro (hlt | ⟨hleft, -⟩ | hno)
    · omega
    · exact absurd hleft (by decide)
    · cases hno
  obtain ⟨g, hg⟩ := Mach.noteSplit_frame (m.setField n { m.withSegs n i ps [] with
    prefetch := usedWords m.fe[n].pl.pc i (m.withSegs n i ps []).prefetch }) n
    (((settleSeg ps).map (·.seg.dur)).getD 0) slowed
  refine ⟨usedWords m.fe[n].pl.pc i (m.withSegs n i ps []).prefetch, g, ?_⟩
  rw [Mach.decodeMotion_along hprof hcor, h]
  dsimp only
  rw [hpath, hpoison, Bool.and_false]
  dsimp only
  rw [if_neg hfits, hg]

end

/-- The plan with all segments of a motion: the planner stands behind it, where the motion ends (R75, R77, R122). -/
theorem Mach.withSegs_whole {i : TInstr} (hi : isMotion i = true) (m : Mach) (n : Fin 16) (ps : List PSeg) :
    let g := m.withSegs n i ps []
    (g.plan.flatMap fun e => e.segs) = (m.fe[n].plan.flatMap fun e => e.segs) ++ ps ∧
    (g.pl.px, g.pl.py) = m.endPoint m.fe[n].pl i ∧ g.pl.laserOn = contOf m.fe[n].pl i ∧ g.pl.moved = true ∧
    g.planEnd = (m.frontier n).t0 + segsDur ps ∧ g.inRun = m.fe[n].inRun ∧ g.runAt = m.fe[n].runAt := by
  obtain ⟨w, hw⟩ := m.fe[n].pl.noteWobble_eq ps
  have hpl : (m.withSegs n i ps []).pl = m.after (m.fe[n].pl.noteWobble ps) i false := rfl
  rw [hw, (Motion.of_isMotion hi).after hi] at hpl
  dsimp only
  rw [hpl]
  refine ⟨?_, rfl, rfl, rfl, rfl, rfl, rfl⟩
  exact (List.flatMap_append ..).trans (congrArg (_ ++ ·) (chunks_segs ..))

section
variable {m : Mach} {n : Fin 16} {c : Fin 8} {i : TInstr} {segs : List Seg} {slowed : List (BitVec 8)} (h : m.Plans n c)
  (hi : m.fetch .fe m.fe[n].prefetch m.fe[n].pl.pc = .ok i) (hw : m.wordFault (.fe n c) m.fe[n].pl i = none)
  (hmo : isMotion i = true) (hprof : m.profileStuck n m.fe[n].pl.mprof.toNat = false) (hcor : m.fe[n].cor.isSome = true)
include h hi hw hmo hprof hcor

theorem Mach.Plans.decode_astray (hastray : m.alongLegs n c i segs slowed = none) : m.plannerDecode n segs slowed = m :=
  h.decode_ok hi ((Mach.decodeIns_motion hw hmo).trans (Mach.decodeMotion_astray hprof hcor hastray))
    (Field.needCk_early h.ckAt) h.inRun h.runAt

/-- R123, R128: a whole motion is planned, and no checkpoint is due behind it. -/
theorem Mach.Plans.decode_whole {ps : List PSeg} (hps : m.alongLegs n c i segs slowed = some (ps, []))
    (hpath : m.pathFault n ps = none) (hpoison : m.polyPoison i = false) (hok : m.planOk n c i ps [] slowed = true)
    (hroom : segs.length + m.fe[n].segsLeft m.mt ≤ 32768) (hneed : (m.withSegs n i ps []).needCk = false) :
    ∃ w g, m.plannerDecode n segs slowed =
      { m.setField n { m.withSegs n i ps [] with prefetch := w } with regs := g } := by
  obtain ⟨w, g, ht⟩ := Mach.decodeMotion_whole hprof hcor hps hpath hpoison hok hroom
  obtain ⟨-, -, -, -, -, hin, hrun⟩ := Mach.withSegs_whole hmo m n ps
  have hself : ({ m.setField n { m.withSegs n i ps [] with prefetch := w } with regs := g } : Mach).fe[n] =
    { m.withSegs n i ps [] with prefetch := w } := set_fin_self ..
  refine ⟨w, g, h.decode_ok hi ((Mach.decodeIns_motion hw hmo).trans ht) ?_ ?_ ?_⟩
  · rw [hself]
    exact hneed
  · rw [hself]
    exact hin.trans h.inRun
  · rw [hself]
    exact hrun.trans h.runAt

end

/-! ## SUMMARY_PUBLISH (R248) -/

theorem Mach.summaryOf_fields (m : Mach) (n : Fin 16) (k : Nat) : (m.summaryOf n k).slice = k ∧
    (m.summaryOf n k).ver = m.fe[n].ver ∧ (m.summaryOf n k).pubAt = m.mt := by
  unfold Mach.summaryOf
  split <;> exact ⟨rfl, rfl, rfl⟩

/-- The summary joins those that are kept of the field. -/
theorem Mach.publish_adds {m : Mach} {n : Fin 16} {k : Nat} (hcov : m.fe[n].covers k = true)
    (hnone : m.fe[n].summary k = none) (hk : m.mt / 16000 ≤ k) (hroom : (m.fe[n].published m.mt).length < 2048) :
    ∃ keep, keep ⊆ m.fe[n].summ ∧ m.publish n k = m.setField n { m.fe[n] with summ := keep ++ [m.summaryOf n k] } := by
  refine ⟨_, List.filter_subset_self .., if_pos ?_⟩
  rw [hcov, hnone, decide_eq_true (show m.mt / sliceTicks ≤ k from hk),
    decide_eq_true (show (m.fe[n].published m.mt).length < summCap from hroom)]
  rfl

/-! ## REPLAN_READY (R138) -/

/-- The first fine tick at or after an instant. -/
theorem ceilTo_fineTick (t : Nat) :
    t ≤ ceilTo fineTick t ∧ ceilTo fineTick t % 80 = 0 ∧ ceilTo fineTick t < t + 80 := by
  unfold ceilTo fineTick
  omega

/-- Registers once a replan that took `d` ticks is ready: the longest one, and the count of late ones. -/
def Mach.replanRegs (m : Mach) (n : Fin 16) (d : Nat) : Sparse Word :=
  let g := rwr m.regs (R.FE_REPLAN_MAX n) (max (m.rd (R.FE_REPLAN_MAX n)) (min d 65535))
  if 16000 < d then rinc g (R.FE_REPLAN_LATE n) else g

section
variable (m : Mach) (n : Fin 16) (d : Nat)

theorem Mach.replanRegs_max :
    rrd (m.replanRegs n d) (R.FE_REPLAN_MAX n) = max (m.rd (R.FE_REPLAN_MAX n)) (min d 65535) := by
  have hlt : m.rd (R.FE_REPLAN_MAX n) < 2 ^ 16 := rrd_lt _ 15 0
  have hw : rrd (rwr m.regs (R.FE_REPLAN_MAX n) (max (m.rd (R.FE_REPLAN_MAX n)) (min d 65535))) (R.FE_REPLAN_MAX n) =
      max (m.rd (R.FE_REPLAN_MAX n)) (min d 65535) :=
    (rrd_wr_same (by omega) (by omega)).trans (Nat.mod_eq_of_lt (by omega))
  unfold Mach.replanRegs
  dsimp only
  split
  · exact (rrd_rinc_ne (by omega)).trans hw
  · exact hw

theorem Mach.replanRegs_late : rrd (m.replanRegs n d) (R.FE_REPLAN_LATE n) =
    if 16000 < d then min (m.rd (R.FE_REPLAN_LATE n) + 1) (2 ^ 32 - 1) else m.rd (R.FE_REPLAN_LATE n) := by
  have hw : rrd (rwr m.regs (R.FE_REPLAN_MAX n) (max (m.rd (R.FE_REPLAN_MAX n)) (min d 65535))) (R.FE_REPLAN_LATE n) =
      m.rd (R.FE_REPLAN_LATE n) := rrd_wr_ne (by omega)
  unfold Mach.replanRegs
  dsimp only
  split
  · rw [← hw]
    exact rrd_rinc_word ..
  · exact hw

theorem Mach.replanRegs_keeps {a : Nat} (h : a ∉ [(R.FE_REPLAN_MAX n).a, (R.FE_REPLAN_LATE n).a]) :
    rget (m.replanRegs n d) a = rget m.regs a := by
  simp only [List.mem_cons, List.not_mem_nil, or_false, not_or] at h
  obtain ⟨hmax, hlate⟩ := h
  unfold Mach.replanRegs
  dsimp only
  split
  · exact (rget_rinc_ne hlate).trans (rget_rwr_ne hmax _)
  · exact rget_rwr_ne hmax _

end

theorem Mach.replanReady_goes {m : Mach} {n : Fin 16} {r : Replan} (hr : m.fe[n].replan = some r) (hg : r.go = none)
    (hp : m.fe[n].planReady = true) : m.replanReady n =
      { m with
        fe := m.fe.set n { m.fe[n] with replan := some { r with go := some (ceilTo fineTick (max m.mt r.rampEnd)) } }
        regs := m.replanRegs n (m.mt - r.since) } := by
  have hgo : ¬ (r.go.isSome = true ∨ (!m.fe[n].planReady) = true) := by
    rw [hg, hp]
    simp
  unfold Mach.replanReady
  rw [hr]
  dsimp only
  rw [if_neg hgo]
  unfold Mach.replanRegs
  dsimp only
  split <;> rfl

/-! ## The statement -/

theorem answers_plannerDecode {s : State} {dt : Nat} {n : Fin 16} {segs : List Seg} {slowed : List (BitVec 8)}
    {t : Mach} {P : Mach → Prop} (ht : (s.at dt).plannerDecode n segs slowed = t) (hq : t.Quiet) (h : P t) :
    Answers (.plannerDecode dt n segs slowed) s P :=
  answers_of rfl ((congrArg Mach.wakeAll ht).trans (Mach.wakeAll_of_quiet hq)) h

theorem Mach.setField_quiet {m : Mach} (h : m.Quiet) {n : Fin 16} {f : Field} (hf : f.ctx = m.fe[n].ctx) :
    (m.setField n f).Quiet := h.of_ctx fun x => Mach.setField_ctx hf x

/-- Settles O20: what the planner appends by the kind of instruction, and what a summary and a replan ready leave. -/
theorem plannerDecodesAndPublishes : Obligations.PlannerDecodesAndPublishes := by
  intro s dt n m f hm hf
  subst hf
  refine ⟨fun c segs slowed hq hown hstop hmode hopen hck hin hrun hlegs hpre => ?_, fun k hcov hnone hk hroom => ?_,
    fun r hq hr hg hp => ?_⟩
  · have h : m.Plans n c := ⟨hown, hstop, hmode, hopen, hck, hin, hrun, hlegs, hpre⟩
    refine ⟨fun code he => ?_, fun i hi => ⟨fun code hw => ?_, fun hw => ⟨fun hmo ho => ?_, ?_, ?_, ?_⟩⟩⟩
    · have ht := h.decode_error (segs := segs) (slowed := slowed) he
      rw [h.foundFault] at ht
      subst hm
      exact answers_plannerDecode ht (Mach.setField_quiet hq (by rfl)) rfl
    · have ht := h.decode_fault (segs := segs) (slowed := slowed) hi hw
      subst hm
      exact answers_plannerDecode ht (Mach.setField_quiet hq (by rfl)) rfl
    · have ht := h.decode_bare (segs := segs) (slowed := slowed) hw hi hmo ho
      subst hm
      exact answers_plannerDecode ht (Mach.setField_quiet hq (by rfl)) rfl
    · rintro hint cls idx test off value rfl hh
      have ht := h.decode_brc (segs := segs) (slowed := slowed) hi hw hh
      have hself : (m.setField n (m.branched n c (.brc hint cls idx test off value) (hint == 1))).fe[n] =
        m.branched n c (.brc hint cls idx test off value) (hint == 1) := set_fin_self ..
      subst hm
      refine answers_plannerDecode ht (Mach.setField_quiet hq (by rfl)) ?_
      rw [hself]
      exact ⟨rfl, rfl, congrArg (Option.map _) List.getLast?_concat, congrArg (Option.map _) List.getLast?_concat,
        List.length_append, fun k hk => set_fin_ne _ _ hk, rfl⟩
    · intro hmo hprof hcor ps hps hpath hpoison hok hroom hneed
      obtain ⟨w, g, ht⟩ := h.decode_whole hi hw hmo hprof hcor hps hpath hpoison hok hroom hneed
      obtain ⟨hsegs, hend, hon, hmoved, hplanEnd, -⟩ := Mach.withSegs_whole hmo m n ps
      obtain ⟨hmap, hhead⟩ := alongLegs_segs hps
      have hself : ({ m.setField n { m.withSegs n i ps [] with prefetch := w } with regs := g } : Mach).fe[n] =
        { m.withSegs n i ps [] with prefetch := w } := set_fin_self ..
      subst hm
      refine answers_plannerDecode ht ?_ ?_
      · exact (Mach.setField_quiet hq (n := n) (f := { (s.at dt).withSegs n i ps [] with prefetch := w }) rfl).congr
          rfl rfl rfl
      · rw [hself]
        exact ⟨hsegs, hmap, hhead, hend, hon, hmoved, hplanEnd, fun k hk => set_fin_ne _ _ hk, rfl⟩
    · intro hmo hprof hcor hastray
      have ht := h.decode_astray hi hw hmo hprof hcor hastray
      subst hm
      exact answers_plannerDecode ht hq rfl
  · obtain ⟨keep, hkeep, ht⟩ := Mach.publish_adds hcov hnone hk hroom
    obtain ⟨hslice, hver, hat⟩ := m.summaryOf_fields n k
    have hself : (m.setField n { m.fe[n] with summ := keep ++ [m.summaryOf n k] }).fe[n] =
      { m.fe[n] with summ := keep ++ [m.summaryOf n k] } := set_fin_self ..
    subst hm
    refine answers_of rfl ht ?_
    rw [hself]
    refine ⟨⟨_, List.mem_append_right _ (List.mem_singleton.mpr rfl), rfl, hslice, hver, hat⟩, fun x hx => ?_, rfl⟩
    exact (List.mem_append.mp hx).imp (fun h => hkeep h) List.mem_singleton.mp
  · have ht := Mach.replanReady_goes hr hg hp
    obtain ⟨hge, hmod, hlt⟩ := ceilTo_fineTick (max m.mt r.rampEnd)
    have hq' := (Mach.setField_quiet hq (n := n) (f := { m.fe[n] with
      replan := some { r with go := some (ceilTo fineTick (max m.mt r.rampEnd)) } }) rfl).congr
      (t := { m with
        fe := m.fe.set n { m.fe[n] with replan := some { r with go := some (ceilTo fineTick (max m.mt r.rampEnd)) } }
        regs := m.replanRegs n (m.mt - r.since) }) rfl rfl rfl
    subst hm
    refine answers_of rfl ((congrArg Mach.wakeAll ht).trans (Mach.wakeAll_of_quiet hq')) ?_
    rw [set_fin_self]
    exact ⟨⟨_, rfl, (le_max_left ..).trans hge, (le_max_right ..).trans hge, hmod, hlt⟩, Mach.replanRegs_max ..,
      Mach.replanRegs_late .., fun a ha => Mach.replanRegs_keeps _ n _ ha, rfl⟩

end Sys2Proof.Machine
end

section
/-! PROOF. What an entry into fail-safe shows, and what it leaves of the field's deflector link (R173, R469, R471). -/
namespace Sys2Proof.Machine

/-! ## A field that faults -/

section
variable (m : Mach) (n : Fin 16)

theorem Mach.wr64_word_ne (lo hi : RF) (v : Nat) {a : Nat} (h : a ≠ lo.a) (h' : a ≠ hi.a) :
    (m.wr64 lo hi v).word a = m.word a := (rget_rwr_ne h' _).trans (rget_rwr_ne h _)

/-- The link's status stands in a register that the end of a dwell does not write. -/
theorem Mach.dwellEnd_fdlStatus :
    (m.dwellEnd n).word (R.FE_FDL_STATUS_LINK n).a = m.word (R.FE_FDL_STATUS_LINK n).a := by
  unfold Mach.dwellEnd Mach.dwellClose
  split
  · rfl
  · next t c _ =>
    have hclose (u : Mach) (v : Nat) :
        (u.wr64 (R.FE_DWELL_LO n c) (R.FE_DWELL_HI n c) v).word (R.FE_FDL_STATUS_LINK n).a =
          u.word (R.FE_FDL_STATUS_LINK n).a :=
      u.wr64_word_ne _ _ v (by simp only [R.FE_FDL_STATUS_LINK, R.FE_DWELL_LO]; omega)
        (by simp only [R.FE_FDL_STATUS_LINK, R.FE_DWELL_HI]; omega)
    have hstuck (u : Mach) : (u.unstick n).word (R.FE_FDL_STATUS_LINK n).a = u.word (R.FE_FDL_STATUS_LINK n).a := by
      unfold Mach.unstick
      rw [Mach.wr64_word_ne _ _ _ _ (by simp only [R.FE_FDL_STATUS_LINK, R.FE_TRL_BOOK_LO]; omega)
        (by simp only [R.FE_FDL_STATUS_LINK, R.FE_TRL_BOOK_HI]; omega)]
      exact Mach.wr_word_ne _ _ (by simp only [R.FE_FDL_STATUS_LINK, R.TRL_STUCK]; omega)
    dsimp only
    split
    · exact (hstuck _).trans (hclose ..)
    · exact hclose ..

theorem Mach.outputsSafe_fdlStatus (doubt : Bool) :
    (m.outputsSafe n doubt).word (R.FE_FDL_STATUS_LINK n).a = m.word (R.FE_FDL_STATUS_LINK n).a := by
  have hc : (R.FE_FDL_STATUS_LINK n).a ≠ (R.FE_LCH_COUT n).a := by
    simp only [R.FE_FDL_STATUS_LINK, R.FE_LCH_COUT]; omega
  have hg : (R.FE_FDL_STATUS_LINK n).a ≠ (R.SAF_FS_STATUS_GEN n).a := by
    simp only [R.FE_FDL_STATUS_LINK, R.SAF_FS_STATUS_GEN]; omega
  rw [Mach.word, m.outputsSafe_regs, rget_rwr_ne hc]
  cases doubt with
  | true => exact rget_rwr_ne hg 0
  | false => rfl

theorem fdlStatus_raise : (R.FE_FDL_STATUS_LINK n).a ∉ raiseRegs (80 + n) := by
  simp only [raiseRegs, R.FE_FDL_STATUS_LINK, R.HS_EVT_PEND, R.HSQ_PBA, R.CBK_QLEVEL_QMAX, R.CBK_ANGEL, List.mem_cons,
    List.not_mem_nil, or_false]
  omega

theorem Field.brake_spl (f : Field) (p : PSeg) : (f.brake p).spl = f.spl := by
  unfold Field.brake
  split <;> rfl

/-- The entry into fail-safe leaves the field's deflector link: its record, and the status it shows. -/
theorem Mach.enterFs_leavesLink (cause : Nat) (byctx doubt : Bool) :
    (m.enterFs n cause byctx doubt).fe[n].spl = m.fe[n].spl ∧
    (m.enterFs n cause byctx doubt).rd (R.FE_FDL_STATUS_LINK n) = m.rd (R.FE_FDL_STATUS_LINK n) := by
  obtain ⟨d, b, hd⟩ := (m.dwellEnd_dwellsOnly n).field
  have hspl : (m.dwellEnd n).fe[n].spl = m.fe[n].spl := by rw [hd]
  obtain ⟨f, ws, p, hf, hws, he⟩ : ∃ f ws p, f.spl = m.fe[n].spl ∧ (∀ p ∈ ws, (R.FE_FDL_STATUS_LINK n).a ≠ p.1.a) ∧
      m.enterFs n cause byctx doubt = ((m.dwellEnd n).faulted n doubt f ws).raiseP (80 + n) cause p := by
    refine ⟨_, _, _, ?_, ?_, rfl⟩
    · exact (Field.brake_spl ..).trans hspl
    simp only [List.forall_mem_cons, R.FE_FDL_STATUS_LINK, R.FE_FAULT_CAUSE, R.FE_FAULT_CTX, R.FE_FAULT_BYCTX,
      R.FE_FAULT_PC_LO, R.FE_FAULT_PC_HI, R.SAF_FS_STATUS_FS, R.SAF_FS_STATUS_DOUBT, R.SAF_FS_STATUS_RECOV,
      R.SAF_FS_STATUS_WINEXP, R.SAF_FS_STATUS_LEDOK, R.SAF_FS_STATUS_CAUSE, R.SAF_FS_FAULT_MT_LO, R.SAF_FS_FAULT_MT_HI]
    refine ⟨?_, ?_, ?_, ?_, ?_, ?_, ?_, ?_, ?_, ?_, ?_, ?_, ?_, fun _ h => absurd h List.not_mem_nil⟩ <;> omega
  rw [he]
  refine ⟨?_, Mach.rd_congr ?_⟩
  · rw [Mach.raiseP_fe]
    exact (congrArg Field.spl (set_fin_self ..)).trans hf
  · calc (((m.dwellEnd n).faulted n doubt f ws).raiseP (80 + n) cause p).word (R.FE_FDL_STATUS_LINK n).a
      _ = ((m.dwellEnd n).faulted n doubt f ws).word (R.FE_FDL_STATUS_LINK n).a :=
          Mach.raiseP_word_ne (fdlStatus_raise n)
      _ = ((m.dwellEnd n).outputsSafe n doubt).word (R.FE_FDL_STATUS_LINK n).a := rget_rwrs_ne ws _ hws
      _ = (m.dwellEnd n).word (R.FE_FDL_STATUS_LINK n).a := Mach.outputsSafe_fdlStatus ..
      _ = m.word (R.FE_FDL_STATUS_LINK n).a := m.dwellEnd_fdlStatus n

/-- The entry into fail-safe shows its cause, and the laser outputs are dark (R469, R471). -/
theorem Mach.enterFs_shows {cause : Nat} (hc : cause < 256) (byctx doubt : Bool) :
    (m.enterFs n cause byctx doubt).inFs n = true ∧
    (m.enterFs n cause byctx doubt).rd (R.FE_FAULT_CAUSE n) = cause ∧ (m.enterFs n cause byctx doubt).Dark n := by
  obtain ⟨f, ws, p, -, hcause, hfs, he⟩ := m.enterFs_reports n hc byctx doubt
  obtain ⟨hncause, hnfs⟩ := faultReport_raise n
  obtain ⟨g, q, hdark, -, hframe⟩ := (m.dwellEnd n).faulted_frame n doubt f ws
  rw [he]
  refine ⟨Mach.inFs_iff.mpr ((Mach.rd_congr (Mach.raiseP_word_ne hnfs)).trans (hfs _)),
    (Mach.rd_congr (Mach.raiseP_word_ne hncause)).trans (hcause _), ?_⟩
  unfold Mach.Dark
  rw [Mach.raiseP_pins, hframe]
  dsimp only
  rw [set_fin_self]
  exact hdark

end

end Sys2Proof.Machine
end

section
/-! PROOF. Galvo samples (R164). -/
namespace Sys2Proof.Machine

/-! ## A sample of the converters -/

section
variable (m : Mach) (n : Fin 16) (gx gy gz lpd : Code) (avail : Nat)

theorem Mach.galvoSample_away (h : m.mt % 400 ≠ 0) : m.galvoSample n gx gy gz lpd avail = m := if_pos h

/-- A sample is bad: a converter's code is clipped, or the position is not plausible. -/
def Mach.badSample : Bool :=
  let t := m.takeAdc n gx gy gz lpd
  clipped gx || clipped gy || !t.plausible n (codeGu t.pins[n].gx) (codeGu t.pins[n].gy)

/-- A late sample and a bad one are counted, each in its own register. -/
def sampleCounts (g : Sparse Word) (late bad : Bool) : Sparse Word :=
  let g := cond late (rinc g (R.FE_SPL_GLATE n)) g
  cond bad (rinc g (R.FE_SPL_GBAD n)) g

/-- The newest position after a sample. -/
def Split.sampled (s : Split) (lock : Option Nat) (used : Bool) (t : Nat) (x y : Int) : Split :=
  let s := { s with lockFrom := lock }
  if used then { s with sampleAt := some t, gmx := x, gmy := y } else s

/-- A sample at its instant (R164): the pins, the newest position, and the counters. -/
theorem Mach.galvoSample_at (h : m.mt % 400 = 0) : ∃ lock, m.galvoSample n gx gy gz lpd avail =
    { m with
      pins := (m.takeAdc n gx gy gz lpd).pins
      fe := m.fe.set n { m.fe[n] with
        spl := m.fe[n].spl.sampled lock (!(decide (800 < avail) || m.badSample n gx gy gz lpd)) m.mt
          (codeGu (m.takeAdc n gx gy gz lpd).pins[n].gx) (codeGu (m.takeAdc n gx gy gz lpd).pins[n].gy) }
      regs := sampleCounts n m.regs (decide (800 < avail)) (m.badSample n gx gy gz lpd) } := by
  unfold Mach.galvoSample
  rw [if_neg (not_not_intro h)]
  have hbad : (clipped gx || clipped gy || !(m.takeAdc n gx gy gz lpd).plausible n
      (codeGu (m.takeAdc n gx gy gz lpd).pins[n].gx) (codeGu (m.takeAdc n gx gy gz lpd).pins[n].gy)) =
      m.badSample n gx gy gz lpd := rfl
  refine ⟨(m.takeAdc n gx gy gz lpd).trackLock n (m.takeAdc n gx gy gz lpd).pins[n].gx
    (m.takeAdc n gx gy gz lpd).pins[n].gy (m.takeAdc n gx gy gz lpd).pins[n].gz, ?_⟩
  dsimp only
  rw [hbad]
  cases m.badSample n gx gy gz lpd <;> cases decide (800 < avail) <;> rfl

/-- The two counters stand in registers of their own. -/
theorem sampleCounts_glate (g : Sparse Word) (late bad : Bool) : rrd (sampleCounts n g late bad) (R.FE_SPL_GLATE n) =
    if late then min (rrd g (R.FE_SPL_GLATE n) + 1) (2 ^ 32 - 1) else rrd g (R.FE_SPL_GLATE n) := by
  have hne : (R.FE_SPL_GLATE n).a ≠ (R.FE_SPL_GBAD n).a := by simp only [R.FE_SPL_GLATE, R.FE_SPL_GBAD]; omega
  have hbad : rrd (sampleCounts n g late bad) (R.FE_SPL_GLATE n) =
      rrd (sampleCounts n g late false) (R.FE_SPL_GLATE n) := by
    cases bad with
    | true => exact rrd_rinc_ne hne
    | false => rfl
  rw [hbad]
  cases late with
  | true => exact rrd_rinc_word g _
  | false => rfl

theorem sampleCounts_gbad (g : Sparse Word) (late : Bool) : rrd (sampleCounts n g late true) (R.FE_SPL_GBAD n) =
    min (rrd g (R.FE_SPL_GBAD n) + 1) (2 ^ 32 - 1) := by
  have hne : (R.FE_SPL_GBAD n).a ≠ (R.FE_SPL_GLATE n).a := by simp only [R.FE_SPL_GLATE, R.FE_SPL_GBAD]; omega
  refine (rrd_rinc_word _ _).trans ?_
  cases late with
  | true => exact congrArg (fun v => min (v + 1) (2 ^ 32 - 1)) (rrd_rinc_ne hne)
  | false => rfl

theorem sampleCounts_ne (g : Sparse Word) (late bad : Bool) {a : Nat}
    (h : a ∉ [(R.FE_SPL_GLATE n).a, (R.FE_SPL_GBAD n).a]) : rget (sampleCounts n g late bad) a = rget g a := by
  simp only [List.mem_cons, List.not_mem_nil, or_false, not_or] at h
  obtain ⟨hl, hb⟩ := h
  have hlate : rget (cond late (rinc g (R.FE_SPL_GLATE n)) g) a = rget g a := by
    cases late with
    | true => exact rget_rinc_ne hl
    | false => rfl
  cases bad with
  | true => exact (rget_rinc_ne hb).trans hlate
  | false => exact hlate

theorem Mach.takeAdc_codes : ((m.takeAdc n gx gy gz lpd).pins[n].gx, (m.takeAdc n gx gy gz lpd).pins[n].gy,
      (m.takeAdc n gx gy gz lpd).pins[n].gz, (m.takeAdc n gx gy gz lpd).pins[n].lpd) =
    (m.adcCorrect n 0 gx, m.adcCorrect n 1 gy, m.adcCorrect n 2 gz, m.adcCorrect n 3 lpd) := by
  unfold Mach.takeAdc
  rw [set_fin_self]

theorem Mach.badSample_clipped (h : clipped gx = true ∨ clipped gy = true) : m.badSample n gx gy gz lpd = true := by
  unfold Mach.badSample
  rcases h with h | h <;> simp [h]

/-- The first sample is plausible wherever it lies. -/
theorem Mach.badSample_first (hx : clipped gx = false) (hy : clipped gy = false) (h : m.fe[n].spl.sampleAt = none) :
    m.badSample n gx gy gz lpd = false := by
  have hp (x y : Int) : (m.takeAdc n gx gy gz lpd).plausible n x y = true := by
    unfold Mach.plausible
    dsimp only
    split
    · rfl
    · next t0 ht => exact absurd (h.symm.trans ht) nofun
  unfold Mach.badSample
  simp [hx, hy, hp]

end

end Sys2Proof.Machine
end

section
/-! PROOF. Frames of the deflector link (R163, R172 to R174). -/
namespace Sys2Proof.Machine

/-! ## Forward frames -/

theorem Split.noteCount_seq (s : Split) (t : Nat) (c : Word) : (s.noteCount t c).seq = s.seq := by
  unfold Split.noteCount
  split <;> rfl

theorem Split.noteCount_between (s : Split) {t : Nat} (h : t % 2000 ≠ 0) (c : Word) : s.noteCount t c = s := if_neg h

section
variable (m : Mach) (n : Fin 16)

/-- The count of the frame source is noted at ST boundaries, whether a frame leaves or not (R168). -/
def Mach.counted : Mach :=
  m.setField n { m.fe[n] with spl := m.fe[n].spl.noteCount m.mt (m.srcCount (m.frmSrc n)) }

theorem Mach.counted_seq : (m.counted n).fe[n].spl.seq = m.fe[n].spl.seq := by
  unfold Mach.counted
  rw [Mach.setField_fe, set_fin_self]
  exact Split.noteCount_seq ..

theorem Mach.counted_between (h : m.mt % 2000 ≠ 0) : m.counted n = m := by
  unfold Mach.counted
  rw [Split.noteCount_between _ h]
  exact m.setField_self n

variable {m n}

theorem Mach.fdlFrame_off (h : m.mt % 80 ≠ 0 ∨ m.rd (R.FE_FDL_CTRL_EN n) = 0 ∨ m.mode = modeBoot) :
    m.fdlFrame n = m.counted n := if_pos h

section
variable (ht : m.mt % 80 = 0) (he : m.rd (R.FE_FDL_CTRL_EN n) = 1) (hb : m.mode ≠ modeBoot)
include ht he hb

theorem Mach.fdlFrame_on : m.fdlFrame n =
    if m.outSafe n then (m.counted n).fdlPut n 0 0 else (m.counted n).fdlLive n := by
  refine if_neg (fun h : m.mt % fineTick ≠ 0 ∨ m.rd (R.FE_FDL_CTRL_EN n) = 0 ∨ m.mode = modeBoot => ?_)
  rcases h with h | h | h
  · exact h ht
  · exact absurd (he.symm.trans h) (by decide)
  · exact hb h

/-- In fail-safe the zero codes go out (R174, R469). -/
theorem Mach.fdlFrame_safe (hs : m.outSafe n = true) : m.fdlFrame n = (m.counted n).fdlSend n
    (BitVec.ofNat 16 (m.rd (R.FE_FDL_ZERO_ZX n))) (BitVec.ofNat 16 (m.rd (R.FE_FDL_ZERO_ZY n))) := by
  have hoff : ¬ ((m.counted n).rd (R.FE_FDL_CTRL_EN n) = 0 ∨ (m.counted n).mode = modeBoot) := by
    rintro (h | h)
    · exact absurd (he.symm.trans h) (by decide)
    · exact hb h
  rw [Mach.fdlFrame_on ht he hb, if_pos hs, Mach.fdlPut, if_neg hoff]
  exact if_pos hs

end

/-- What the plan holds at an instant does not depend on the deflector link. -/
theorem Field.live_spl (f : Field) (s : Split) (t : Nat) :
    ({ f with spl := s } : Field).live t = { f.live t with spl := s } := by
  unfold Field.live
  rw [show ({ f with spl := s } : Field).stands = f.stands from rfl]
  cases f.stands with
  | false => rfl
  | true =>
    simp only [if_true]
    unfold Field.slipTo
    rw [show ({ f with spl := s } : Field).planStart = f.planStart from rfl]
    cases f.planStart with
    | none => rfl
    | some u =>
      dsimp only
      split <;> rfl

/-- The frame for an instant has left; where it has no deflection, its words were free values (R163). -/
def Mach.fdlSent (m : Mach) (n : Fin 16) (te : Nat) : Mach :=
  let t := m.fdlSend n (m.fdlWords n te).x (m.fdlWords n te).y
  if (m.deflection n te).isNone then { t with free := t.free + 2 } else t

theorem Mach.fdlSent_free (m : Mach) (n : Fin 16) (te : Nat) :
    ∃ k, m.fdlSent n te = { m.fdlSend n (m.fdlWords n te).x (m.fdlWords n te).y with free := k } := by
  unfold Mach.fdlSent
  dsimp only
  split
  · exact ⟨_, rfl⟩
  · exact ⟨_, rfl⟩

theorem Mach.fdlSent_segOn (te : Nat) : (((m.fdlSent n te).fe[n]).live (m.fdlSent n te).mt).segOn (m.fdlSent n te).mt =
    (m.fe[n].live m.mt).segOn m.mt := by
  obtain ⟨k, he⟩ := m.fdlSent_free n te
  rw [he]
  unfold Mach.fdlSend
  dsimp only
  rw [set_fin_self, Field.live_spl]
  rfl

/-- Off emission, with a sample in age and the bed point in the table, a frame leaves and no more happens (R163). -/
theorem Mach.fdlLive_quiet {te : Nat} (hte : te = m.mt + min (m.rd (R.FE_FDL_DLAT n)) 8000)
    (hl : m.fe[n].lasing m.mt = false) (ho : m.sampleOld n = false) (hs : (m.fe[n].live m.mt).segOn m.mt = none)
    (hc : ∀ c, m.fe[n].cor = some c → c.inside (m.frameBed n te).1 (m.frameBed n te).2 = true) :
    m.fdlLive n = m.fdlSent n te := by
  have herr : (m.fdlSent n te).noteFrameErr n = m.fdlSent n te := by
    unfold Mach.noteFrameErr
    rw [Mach.fdlSent_segOn, hs]
  unfold Mach.fdlLive
  dsimp only
  rw [← hte, hl, ho]
  simp only [Bool.false_eq_true, if_false]
  cases h : m.fe[n].cor with
  | none => exact herr
  | some c => exact (congrArg (fun b => cond (!b) _ _) (hc c h)).trans herr

end

end Sys2Proof.Machine
end

section
/-! PROOF. Return frames of the deflector link (R173). -/
namespace Sys2Proof.Machine

theorem bits_status (b : Byte) : bits b.toNat 3 0 = b.toNat % 16 := by
  unfold bits
  rw [pow_zero, Nat.div_one]
  rfl

theorem bits_ready (b : Byte) : bits b.toNat 4 4 = if b.getLsbD 4 then 1 else 0 := by
  unfold bits
  rw [BitVec.getLsbD, Nat.testBit_eq_decide_div_mod_eq]
  split <;> simp_all

/-! ## What a good frame leaves -/

section
variable (m : Mach) (n : Fin 16) (ack stat : Byte)

/-- What a good frame shows: the status of the link, and the count of bad forward frames (R173). -/
def returnWrites (up : Nat) : List (RF × Nat) :=
  [(R.FE_FDL_BADFWD n, up), (R.FE_FDL_STATUS_LINK n, 1), (R.FE_FDL_STATUS_BADRUN n, bits stat.toNat 3 0),
   (R.FE_FDL_STATUS_READY n, bits stat.toNat 4 4), (R.FE_FDL_STATUS_ACK n, ack.toNat)]

/-- The bad forward frames counted on by those that BADRUN has grown by. -/
def Mach.badForward : Nat :=
  min (m.rd (R.FE_FDL_BADFWD n) + (bits stat.toNat 3 0 - m.rd (R.FE_FDL_STATUS_BADRUN n))) (2 ^ 32 - 1)

/-- A good frame is noted, and the registers show it. -/
def Mach.returned (up : Nat) : Mach :=
  (m.setField n { m.fe[n] with spl := { m.fe[n].spl with lastReturn := some m.mt } }).wrs (returnWrites n ack stat up)

theorem Mach.returned_regs (up : Nat) : (m.returned n ack stat up).regs = rwrs m.regs (returnWrites n ack stat up) := by
  rw [Mach.returned, Mach.wrs_regs, Mach.setField_regs]

theorem Mach.returned_spl (up : Nat) : (m.returned n ack stat up).fe[n].spl.lastReturn = some m.mt :=
  congrArg (fun f : Field => f.spl.lastReturn) (set_fin_self ..)

/-- A good frame leaves all but the field's record of the link and the registers. -/
theorem Mach.returned_frame (up : Nat) : (∀ k : Fin 16, k ≠ n → (m.returned n ack stat up).fe[k] = m.fe[k]) ∧
    m.returned n ack stat up =
      { m with fe := (m.returned n ack stat up).fe, regs := (m.returned n ack stat up).regs } := by
  unfold Mach.returned
  generalize returnWrites n ack stat up = ws
  exact ⟨fun k hk => set_fin_ne _ _ hk, rfl⟩

theorem rget_returnWrites (g : Sparse Word) (up : Nat) {a : Nat} (h : a ≠ (R.FE_FDL_STATUS_LINK n).a)
    (h' : a ≠ (R.FE_FDL_BADFWD n).a) : rget (rwrs g (returnWrites n ack stat up)) a = rget g a := by
  refine rget_rwrs_ne _ _ ?_
  simp only [returnWrites, List.forall_mem_cons]
  exact ⟨h', h, h, h, h, fun _ h => absurd h List.not_mem_nil⟩

theorem Mach.returned_word (up : Nat) {a : Nat} (h : a ≠ (R.FE_FDL_STATUS_LINK n).a) (h' : a ≠ (R.FE_FDL_BADFWD n).a) :
    (m.returned n ack stat up).word a = m.word a := by
  rw [Mach.word, m.returned_regs]
  exact rget_returnWrites n ack stat m.regs up h h'

theorem Mach.returned_keeps (up : Nat) :
    m.Keeps (m.returned n ack stat up) [(R.FE_FDL_STATUS_LINK n).a, (R.FE_FDL_BADFWD n).a] := by
  intro a ha
  simp only [List.mem_cons, List.not_mem_nil, or_false, not_or] at ha
  obtain ⟨hs, hb⟩ := ha
  exact m.returned_word n ack stat up hs hb

/-- The registers after a good frame: no write touches the bits of another. -/
theorem rrd_returnWrites (g : Sparse Word) (up : Nat) :
    rrd (rwrs g (returnWrites n ack stat up)) (R.FE_FDL_STATUS_LINK n) = 1 ∧
    rrd (rwrs g (returnWrites n ack stat up)) (R.FE_FDL_STATUS_BADRUN n) = bits stat.toNat 3 0 % 2 ^ 4 ∧
    rrd (rwrs g (returnWrites n ack stat up)) (R.FE_FDL_STATUS_ACK n) = ack.toNat % 2 ^ 8 ∧
    rrd (rwrs g (returnWrites n ack stat up)) (R.FE_FDL_STATUS_READY n) = bits stat.toNat 4 4 % 2 ^ 1 ∧
    rrd (rwrs g (returnWrites n ack stat up)) (R.FE_FDL_BADFWD n) = up % 2 ^ 32 := by
  refine ⟨?_, ?_, ?_, ?_, ?_⟩
  · refine rrd_rwrs_written [_] [_, _, _] g (Nat.le_refl 0) (show 0 < 32 by decide) ?_
    simp [RF.Apart, R.FE_FDL_STATUS_LINK, R.FE_FDL_STATUS_BADRUN, R.FE_FDL_STATUS_READY, R.FE_FDL_STATUS_ACK]
  · refine rrd_rwrs_written [_, _] [_, _] g (show 1 ≤ 4 by decide) (show 4 < 32 by decide) ?_
    simp [RF.Apart, R.FE_FDL_STATUS_BADRUN, R.FE_FDL_STATUS_READY, R.FE_FDL_STATUS_ACK]
  · exact rrd_rwrs_written [_, _, _, _] [] g (show 8 ≤ 15 by decide) (show 15 < 32 by decide) (by simp)
  · refine rrd_rwrs_written [_, _, _] [_] g (Nat.le_refl 5) (show 5 < 32 by decide) ?_
    simp [RF.Apart, R.FE_FDL_STATUS_READY, R.FE_FDL_STATUS_ACK]
  · refine rrd_rwrs_written [] [_, _, _, _] g (Nat.zero_le 31) (show 31 < 32 by decide) ?_
    simp [RF.Apart, R.FE_FDL_BADFWD, R.FE_FDL_STATUS_LINK, R.FE_FDL_STATUS_BADRUN, R.FE_FDL_STATUS_READY,
      R.FE_FDL_STATUS_ACK]

theorem Mach.badForward_eq : m.badForward n stat =
    min (m.rd (R.FE_FDL_BADFWD n) + (stat.toNat % 16 - m.rd (R.FE_FDL_STATUS_BADRUN n))) (2 ^ 32 - 1) := by
  rw [Mach.badForward, bits_status]

theorem Mach.badForward_lt : m.badForward n stat < 2 ^ 32 := by
  unfold Mach.badForward
  omega

theorem Mach.returned_status {up : Nat} (hup : up < 2 ^ 32) :
    (m.returned n ack stat up).rd (R.FE_FDL_STATUS_LINK n) = 1 ∧
    (m.returned n ack stat up).rd (R.FE_FDL_STATUS_BADRUN n) = stat.toNat % 16 ∧
    (m.returned n ack stat up).rd (R.FE_FDL_STATUS_ACK n) = ack.toNat ∧
    ((m.returned n ack stat up).rd (R.FE_FDL_STATUS_READY n) = 1 ↔ stat.getLsbD 4 = true) ∧
    (m.returned n ack stat up).rd (R.FE_FDL_BADFWD n) = up := by
  obtain ⟨hlink, hrun, hack, hready, hbad⟩ := rrd_returnWrites n ack stat m.regs up
  rw [bits_status] at hrun
  rw [bits_ready] at hready
  unfold Mach.rd
  rw [m.returned_regs]
  refine ⟨hlink, hrun.trans (Nat.mod_mod ..), hack.trans (Nat.mod_eq_of_lt ack.isLt), ?_,
    hbad.trans (Nat.mod_eq_of_lt hup)⟩
  rw [hready]
  cases stat.getLsbD 4 <;> simp

theorem Mach.fdlReturn_bad : m.fdlReturn n ack stat false = m.inc (R.FE_FDL_BADRET n) := rfl

/-- With return frames enabled, BADRUN above 4 faults the field, and so does READY 0 while ARMED (R173, R469). -/
theorem Mach.fdlReturn_good : m.fdlReturn n ack stat true =
    if m.rd (R.FE_FDL_CTRL_RETEN n) = 1 ∧ (4 < stat.toNat % 16 ∨ (stat.getLsbD 4 = false ∧ m.mode = modeArmed)) then
      (m.returned n ack stat (m.badForward n stat)).fieldFault n cFdllink false false
    else m.returned n ack stat (m.badForward n stat) := by
  have hret (up : Nat) : (m.returned n ack stat up).rd (R.FE_FDL_CTRL_RETEN n) = m.rd (R.FE_FDL_CTRL_RETEN n) :=
    Mach.rd_congr (m.returned_word n ack stat up (by simp [R.FE_FDL_CTRL_RETEN, R.FE_FDL_STATUS_LINK])
      (by simp [R.FE_FDL_CTRL_RETEN, R.FE_FDL_BADFWD]))
  have hmode (up : Nat) : (m.returned n ack stat up).mode = m.mode :=
    Mach.rd_congr (m.returned_word n ack stat up (by simp only [R.GLB_MODE_MODE, R.FE_FDL_STATUS_LINK]; omega)
      (by simp only [R.GLB_MODE_MODE, R.FE_FDL_BADFWD]; omega))
  have hrdy : (stat.getLsbD 4 = false) = (bits stat.toNat 4 4 = 0) := by
    rw [bits_ready]
    cases stat.getLsbD 4 <;> simp
  unfold Mach.fdlReturn
  rw [if_neg (by simp)]
  dsimp only
  rw [← Mach.badForward]
  generalize m.badForward n stat = up
  simp only [← hret up, ← hmode up, hrdy, ← bits_status]
  rfl

/-- A fault of the link shows itself, and leaves what the link shows (R173, R469). -/
theorem Mach.fdllink_faults {m : Mach} {n : Fin 16} (hf : m.inFs n = false) :
    (m.fieldFault n cFdllink false false).rd (R.FE_FDL_STATUS_LINK n) = m.rd (R.FE_FDL_STATUS_LINK n) ∧
    (m.fieldFault n cFdllink false false).fe[n].spl = m.fe[n].spl ∧
    (m.fieldFault n cFdllink false false).inFs n = true ∧
    (m.fieldFault n cFdllink false false).rd (R.FE_FAULT_CAUSE n) = 0x23 ∧
    (m.fieldFault n cFdllink false false).Dark n := by
  have he : m.fieldFault n cFdllink false false = m.enterFs n cFdllink false false := if_neg (by simp [hf])
  rw [he]
  obtain ⟨hspl, hlink⟩ := m.enterFs_leavesLink n cFdllink false false
  exact ⟨hlink, hspl, m.enterFs_shows n (show cFdllink < 256 by decide) false false⟩

end

/-! ## No return frame -/

section
variable {m : Mach} {n : Fin 16}

theorem Mach.fdlTimeout_heard {t0 : Nat} (h : m.fe[n].spl.lastReturn = some t0) (ht : m.mt < t0 + 1280) :
    m.fdlTimeout n = m := by
  have hs : m.fe[n].spl.silent m.mt = false := by
    unfold Split.silent
    rw [h]
    exact decide_eq_false (not_le.mpr ht)
  exact if_neg (Bool.eq_false_iff.mp hs)

/-- After 16 fine ticks without a frame the link is down; with return frames enabled, the field faults (R173). -/
theorem Mach.fdlTimeout_silent (h : ∀ t0, m.fe[n].spl.lastReturn = some t0 → t0 + 1280 ≤ m.mt) : m.fdlTimeout n =
    if m.rd (R.FE_FDL_CTRL_EN n) = 1 ∧ m.rd (R.FE_FDL_CTRL_RETEN n) = 1 then
      (m.wr (R.FE_FDL_STATUS_LINK n) 0).fieldFault n cFdllink false false else m.wr (R.FE_FDL_STATUS_LINK n) 0 := by
  have hs : m.fe[n].spl.silent m.mt = true := by
    unfold Split.silent
    split
    · rfl
    · next t0 ht => exact decide_eq_true (h t0 ht)
  have hen : (m.wr (R.FE_FDL_STATUS_LINK n) 0).rd (R.FE_FDL_CTRL_EN n) = m.rd (R.FE_FDL_CTRL_EN n) :=
    Mach.rd_congr (m.wr_word_ne 0 (by simp [R.FE_FDL_CTRL_EN, R.FE_FDL_STATUS_LINK]))
  have hret : (m.wr (R.FE_FDL_STATUS_LINK n) 0).rd (R.FE_FDL_CTRL_RETEN n) = m.rd (R.FE_FDL_CTRL_RETEN n) :=
    Mach.rd_congr (m.wr_word_ne 0 (by simp [R.FE_FDL_CTRL_RETEN, R.FE_FDL_STATUS_LINK]))
  unfold Mach.fdlTimeout
  rw [if_pos hs]
  dsimp only
  rw [hen, hret]

theorem Mach.linkDown_rd (m : Mach) (n : Fin 16) : (m.wr (R.FE_FDL_STATUS_LINK n) 0).rd (R.FE_FDL_STATUS_LINK n) = 0 :=
  rrd_rwr_same _ 0 (Nat.le_refl 0) (show 0 < 32 by decide)

end

end Sys2Proof.Machine
end

section
/-! PROOF. The statement on galvo samples and on the frames of the deflector link (R163, R164, R172 to R174). -/
namespace Sys2Proof.Machine

section
variable {s : State} {dt : Nat} {n : Fin 16} {m : Mach} (hm : m = s.at dt)
include hm

/-- A sample at its instant: what is counted, and what becomes the newest position (R164). -/
theorem galvoSample_answers (gx gy gz lpd : Code) (avail : Nat) (h : m.mt % 400 = 0) :
    Answers (.galvoSample dt n gx gy gz lpd avail) s fun t =>
      (t.pins[n].gx, t.pins[n].gy, t.pins[n].gz, t.pins[n].lpd) =
        (m.adcCorrect n 0 gx, m.adcCorrect n 1 gy, m.adcCorrect n 2 gz, m.adcCorrect n 3 lpd) ∧
      (800 < avail ∨ clipped gx = true ∨ clipped gy = true →
        (t.fe[n].spl.sampleAt, t.fe[n].spl.gmx, t.fe[n].spl.gmy) =
          (m.fe[n].spl.sampleAt, m.fe[n].spl.gmx, m.fe[n].spl.gmy)) ∧
      t.rd (R.FE_SPL_GLATE n) =
        (if 800 < avail then min (m.rd (R.FE_SPL_GLATE n) + 1) (2 ^ 32 - 1) else m.rd (R.FE_SPL_GLATE n)) ∧
      (clipped gx = true ∨ clipped gy = true →
        t.rd (R.FE_SPL_GBAD n) = min (m.rd (R.FE_SPL_GBAD n) + 1) (2 ^ 32 - 1)) ∧
      m.Keeps t [(R.FE_SPL_GLATE n).a, (R.FE_SPL_GBAD n).a] ∧
      (avail ≤ 800 → clipped gx = false → clipped gy = false → m.fe[n].spl.sampleAt = none →
        t.fe[n].spl.sampleAt = some m.mt ∧ t.fe[n].spl.gmx = codeGu t.pins[n].gx ∧
        t.fe[n].spl.gmy = codeGu t.pins[n].gy ∧ t.regs = m.regs) ∧
      (∀ k : Fin 16, k ≠ n → t.fe[k] = m.fe[k] ∧ t.pins[k] = m.pins[k]) ∧
      t = { m with fe := t.fe, pins := t.pins, regs := t.regs } := by
  obtain ⟨lock, ht⟩ := m.galvoSample_at n gx gy gz lpd avail h
  subst hm
  refine answers_of rfl ht ?_
  generalize s.at dt = m at *
  dsimp only
  rw [set_fin_self]
  refine ⟨m.takeAdc_codes n gx gy gz lpd, fun hu => ?_, ?_, fun hc => ?_, fun a ha => sampleCounts_ne _ _ _ _ ha,
    fun hl hx hy hs => ?_, fun k hk => ⟨set_fin_ne _ _ hk, set_fin_ne _ _ hk⟩, rfl⟩
  · have hunused : (!(decide (800 < avail) || m.badSample n gx gy gz lpd)) = false := by
      rcases hu with hu | hu
      · simp [hu]
      · simp [m.badSample_clipped n gx gy gz lpd hu]
    rw [hunused]
    rfl
  · exact (sampleCounts_glate ..).trans (if_congr decide_eq_true_iff rfl rfl)
  · rw [m.badSample_clipped n gx gy gz lpd hc]
    exact sampleCounts_gbad ..
  · rw [m.badSample_first n gx gy gz lpd hx hy hs, decide_eq_false (not_lt.mpr hl)]
    exact ⟨rfl, rfl, rfl, rfl⟩

/-- A forward frame while the outputs are in fail-safe: the zero codes (R174, R469). -/
theorem fdlFrameSend_safe (ht : m.mt % 80 = 0) (he : m.rd (R.FE_FDL_CTRL_EN n) = 1) (hb : m.mode ≠ modeBoot)
    (hs : m.outSafe n = true) : Answers (.fdlFrameSend dt n) s fun t =>
      ∃ x y, x.toNat = m.rd (R.FE_FDL_ZERO_ZX n) ∧ y.toNat = m.rd (R.FE_FDL_ZERO_ZY n) ∧
        t.out = .fdl n x y m.fe[n].spl.seq (fdlCrc x y m.fe[n].spl.seq) :: m.out ∧
        t.fe[n].spl.seq = m.fe[n].spl.seq + 1 ∧ (t.pins[n].fdlX, t.pins[n].fdlY) = (x, y) ∧
        (∀ k : Fin 16, k ≠ n → t.fe[k] = m.fe[k] ∧ t.pins[k] = m.pins[k]) ∧
        t = { m with fe := t.fe, pins := t.pins, out := t.out } := by
  have hx : m.rd (R.FE_FDL_ZERO_ZX n) < 2 ^ 16 := rrd_lt _ 15 0
  have hy : m.rd (R.FE_FDL_ZERO_ZY n) < 2 ^ 16 := rrd_lt _ 31 16
  have hfr := Mach.fdlFrame_safe ht he hb hs
  subst hm
  refine answers_of rfl hfr ⟨_, _, (BitVec.toNat_ofNat ..).trans (Nat.mod_eq_of_lt hx),
    (BitVec.toNat_ofNat ..).trans (Nat.mod_eq_of_lt hy), ?_⟩
  generalize s.at dt = m at *
  have hseq := m.counted_seq n
  unfold Mach.fdlSend
  dsimp only
  rw [set_fin_self, set_fin_self, hseq]
  exact ⟨rfl, rfl, rfl, fun k hk => ⟨(set_fin_ne _ _ hk).trans (set_fin_ne _ _ hk), set_fin_ne _ _ hk⟩, rfl⟩

/-- A forward frame off emission: the words of the deflection (R163, R172). -/
theorem fdlFrameSend_live (ht : m.mt % 80 = 0) (he : m.rd (R.FE_FDL_CTRL_EN n) = 1) (hb : m.mode ≠ modeBoot)
    {te : Nat} {w : FdlWords} (hte : te = m.mt + min (m.rd (R.FE_FDL_DLAT n)) 8000) (hw : w = m.fdlWords n te)
    (hst : m.mt % 2000 ≠ 0) (hs : m.outSafe n = false) (hl : m.fe[n].lasing m.mt = false) (ho : m.sampleOld n = false)
    (hseg : (m.fe[n].live m.mt).segOn m.mt = none)
    (hc : ∀ c, m.fe[n].cor = some c → c.inside (m.frameBed n te).1 (m.frameBed n te).2 = true) :
    Answers (.fdlFrameSend dt n) s fun t =>
      t.out = .fdl n w.x w.y m.fe[n].spl.seq (fdlCrc w.x w.y m.fe[n].spl.seq) :: m.out ∧
      t.fe[n].spl.seq = m.fe[n].spl.seq + 1 ∧ t.fe[n].spl.lateRun = 0 ∧ (t.pins[n].fdlX, t.pins[n].fdlY) = (w.x, w.y) ∧
      (∀ k : Fin 16, k ≠ n → t.fe[k] = m.fe[k] ∧ t.pins[k] = m.pins[k]) ∧
      t = { m with fe := t.fe, pins := t.pins, out := t.out, free := t.free } := by
  have hfr : m.fdlFrame n = m.fdlSent n te := by
    rw [Mach.fdlFrame_on ht he hb, if_neg (Bool.eq_false_iff.mp hs), m.counted_between n hst]
    exact Mach.fdlLive_quiet hte hl ho hseg hc
  obtain ⟨k, hk⟩ := m.fdlSent_free n te
  rw [← hw] at hk
  have htk := hfr.trans hk
  subst hm
  refine answers_of rfl htk ?_
  generalize s.at dt = m at *
  unfold Mach.fdlSend
  dsimp only
  rw [set_fin_self, set_fin_self]
  exact ⟨rfl, rfl, rfl, rfl, fun k hk => ⟨set_fin_ne _ _ hk, set_fin_ne _ _ hk⟩, rfl⟩

/-- A good return frame that faults nothing (R173). -/
theorem fdlReturn_shows (ack stat : Byte)
    (h : m.rd (R.FE_FDL_CTRL_RETEN n) = 0 ∨ (stat.toNat % 16 ≤ 4 ∧ (stat.getLsbD 4 = true ∨ m.mode ≠ modeArmed))) :
    Answers (.fdlReturnFrame dt n ack stat true) s fun t =>
      t.rd (R.FE_FDL_STATUS_LINK n) = 1 ∧ t.rd (R.FE_FDL_STATUS_BADRUN n) = stat.toNat % 16 ∧
      t.rd (R.FE_FDL_STATUS_ACK n) = ack.toNat ∧ (t.rd (R.FE_FDL_STATUS_READY n) = 1 ↔ stat.getLsbD 4 = true) ∧
      t.rd (R.FE_FDL_BADFWD n) =
        min (m.rd (R.FE_FDL_BADFWD n) + (stat.toNat % 16 - m.rd (R.FE_FDL_STATUS_BADRUN n))) (2 ^ 32 - 1) ∧
      t.fe[n].spl.lastReturn = some m.mt ∧ (∀ k : Fin 16, k ≠ n → t.fe[k] = m.fe[k]) ∧
      m.Keeps t [(R.FE_FDL_STATUS_LINK n).a, (R.FE_FDL_BADFWD n).a] ∧ t = { m with fe := t.fe, regs := t.regs } := by
  have hgood : ¬ (m.rd (R.FE_FDL_CTRL_RETEN n) = 1 ∧
      (4 < stat.toNat % 16 ∨ (stat.getLsbD 4 = false ∧ m.mode = modeArmed))) := by
    rintro ⟨hr, hbad⟩
    rcases h with h | ⟨hrun, hready⟩
    · omega
    · rcases hbad with hbad | ⟨hlow, harm⟩
      · omega
      · exact hready.elim (fun hset => absurd (hset.symm.trans hlow) nofun) (fun hmode => hmode harm)
  have ht := (m.fdlReturn_good n ack stat).trans (if_neg hgood)
  have hup := m.badForward_lt n stat
  rw [← m.badForward_eq]
  generalize m.badForward n stat = up at ht hup ⊢
  obtain ⟨hlink, hrun, hack, hready, hbad⟩ := m.returned_status n ack stat hup
  obtain ⟨hother, hframe⟩ := m.returned_frame n ack stat up
  have hspl := m.returned_spl n ack stat up
  have hkeeps := m.returned_keeps n ack stat up
  subst hm
  exact answers_of rfl ht ⟨hlink, hrun, hack, hready, hbad, hspl, hother, hkeeps, hframe⟩

/-- A good return frame that faults the field with FDLLINK (R173, R469). -/
theorem fdlReturn_faults (ack stat : Byte) (hr : m.rd (R.FE_FDL_CTRL_RETEN n) = 1) (hf : m.inFs n = false)
    (h : 4 < stat.toNat % 16 ∨ (stat.getLsbD 4 = false ∧ m.mode = modeArmed)) :
    Answers (.fdlReturnFrame dt n ack stat true) s fun t =>
      t.rd (R.FE_FDL_STATUS_LINK n) = 1 ∧ t.fe[n].spl.lastReturn = some m.mt ∧ t.inFs n = true ∧
      t.rd (R.FE_FAULT_CAUSE n) = 0x23 ∧ t.Dark n := by
  have ht := (m.fdlReturn_good n ack stat).trans (if_pos ⟨hr, h⟩)
  have hup := m.badForward_lt n stat
  generalize m.badForward n stat = up at ht hup
  have hfs : (m.returned n ack stat up).inFs n = false := by
    refine (congrArg (· == 1) (Mach.rd_congr (m.returned_word n ack stat up ?_ ?_))).trans hf
    · simp only [R.SAF_FS_STATUS_FS, R.FE_FDL_STATUS_LINK]
      omega
    · simp only [R.SAF_FS_STATUS_FS, R.FE_FDL_BADFWD]
      omega
  obtain ⟨hlink, hspl, hfault⟩ := Mach.fdllink_faults hfs
  obtain ⟨hup1, -⟩ := m.returned_status n ack stat hup
  have hone := hlink.trans hup1
  have hlast := (congrArg Split.lastReturn hspl).trans (m.returned_spl n ack stat up)
  subst hm
  exact answers_of rfl ht ⟨hone, hlast, hfault⟩

end

/-- Settles O24: a sample by whether it is late or bad, a forward frame by the fail-safe, a return frame by its CRC. -/
theorem deflectorLinkAndSamples : Obligations.DeflectorLinkAndSamples := by
  intro s dt n m hm
  refine ⟨fun gx gy gz lpd avail h => galvoSample_answers hm gx gy gz lpd avail h, fun h gx gy gz lpd avail => ?_,
    fun ht he hb => ⟨fun hs => fdlFrameSend_safe hm ht he hb hs, fun te w hte hw hst hs hl ho hseg hc =>
      fdlFrameSend_live hm ht he hb hte hw hst hs hl ho hseg hc⟩, fun h => ?_, fun ack stat => ?_, fun ack stat h => ?_,
    fun ack stat hr hf h => ?_, fun h => ?_, fun h => ⟨fun hoff => ?_, fun he hr hf => ?_⟩⟩
  · have ht := m.galvoSample_away n gx gy gz lpd avail h
    subst hm
    exact answers_of rfl ht rfl
  · have ht := Mach.fdlFrame_off h
    subst hm
    exact answers_of rfl ht ⟨rfl, rfl⟩
  · subst hm
    exact answers_of rfl (Mach.fdlReturn_bad ..) ⟨rrd_rinc_word _ _, Mach.inc_only _ _⟩
  · exact fdlReturn_shows hm ack stat h
  · exact fdlReturn_faults hm ack stat hr hf h
  · obtain ⟨t0, hl, hlt⟩ := h
    have ht := Mach.fdlTimeout_heard hl hlt
    subst hm
    exact answers_of rfl ht rfl
  · have hen : ¬ (m.rd (R.FE_FDL_CTRL_EN n) = 1 ∧ m.rd (R.FE_FDL_CTRL_RETEN n) = 1) := by
      rintro ⟨he, hr⟩
      rcases hoff with hoff | hoff
      · exact absurd (he.symm.trans hoff) (by decide)
      · exact absurd (hr.symm.trans hoff) (by decide)
    have ht := (Mach.fdlTimeout_silent h).trans (if_neg hen)
    subst hm
    exact answers_of rfl ht ⟨Mach.linkDown_rd .., Mach.wr_only _ _ _ (by simp)⟩
  · have hdown : (m.wr (R.FE_FDL_STATUS_LINK n) 0).inFs n = false := by
      refine (congrArg (· == 1) (Mach.rd_congr (m.wr_word_ne 0 ?_))).trans hf
      simp only [R.SAF_FS_STATUS_FS, R.FE_FDL_STATUS_LINK]
      omega
    have ht := (Mach.fdlTimeout_silent h).trans (if_pos ⟨he, hr⟩)
    obtain ⟨hlink, -, hfault⟩ := Mach.fdllink_faults hdown
    have hzero := hlink.trans (m.linkDown_rd n)
    subst hm
    exact answers_of rfl ht ⟨hzero, hfault⟩

end Sys2Proof.Machine
end

section
/-! PROOF. What a miss of a slot leaves (R58, R60, R195, R196). -/
namespace Sys2Proof.Machine

/-! ## Registers, records and counts -/

/-- The engines, the stages and the memory stand as they did: registers, records and counts may have changed. -/
structure Mach.EnginesAs (m t : Mach) : Prop where
  stages : t.stages = m.stages
  fe : t.fe = m.fe
  pins : t.pins = m.pins
  slot : t.slot = m.slot
  mem : t.mem = m.mem
  axis : t.axis = m.axis
  mt : t.mt = m.mt

theorem Mach.EnginesAs.refl (m : Mach) : m.EnginesAs m := ⟨rfl, rfl, rfl, rfl, rfl, rfl, rfl⟩

theorem Mach.EnginesAs.trans {m t u : Mach} (h : m.EnginesAs t) (h' : t.EnginesAs u) : m.EnginesAs u :=
  ⟨h'.stages.trans h.stages, h'.fe.trans h.fe, h'.pins.trans h.pins, h'.slot.trans h.slot, h'.mem.trans h.mem,
    h'.axis.trans h.axis, h'.mt.trans h.mt⟩

theorem Mach.wrs_engines (m : Mach) (l : List (RF × Nat)) : m.EnginesAs (m.wrs l) := ⟨rfl, rfl, rfl, rfl, rfl, rfl, rfl⟩

theorem Mach.inc_engines (m : Mach) (r : RF) : m.EnginesAs (m.inc r) := ⟨rfl, rfl, rfl, rfl, rfl, rfl, rfl⟩

theorem Mach.raise_engines (m : Mach) (src code inst value : Nat) : m.EnginesAs (m.raise src code inst value) :=
  ⟨rfl, rfl, rfl, rfl, rfl, rfl, rfl⟩

theorem Mach.raiseOnce_engines (m : Mach) (src code inst value : Nat) : m.EnginesAs (m.raiseOnce src code inst value) :=
  ⟨Mach.raiseOnce_stages .., Mach.raiseOnce_fe .., Mach.raiseOnce_pins .., Mach.raiseOnce_slot ..,
    Mach.raiseOnce_mem .., Mach.raiseOnce_axis .., Mach.raiseOnce_mt ..⟩

theorem Mach.noteLate_engines (m : Mach) (cls inst : Nat) (order : Bool) : m.EnginesAs (m.noteLate cls inst order) :=
  (m.inc_engines _).trans ((Mach.wrs_engines ..).trans (Mach.raise_engines ..))

/-- A saturating counter counts up to its last value. -/
theorem rrd_rinc_sat {g : Sparse Word} {a h l : Nat} (hl : l ≤ h) (hh : h < 32) :
    rrd (rinc g ⟨a, h, l⟩) ⟨a, h, l⟩ = min (rrd g ⟨a, h, l⟩ + 1) (2 ^ (h + 1 - l) - 1) := by
  have hlt : rrd g ⟨a, h, l⟩ < 2 ^ (h + 1 - l) := rrd_lt a h l
  by_cases hc : rrd g ⟨a, h, l⟩ + 1 < 2 ^ (h + 1 - l)
  · rw [rrd_rinc hl hh hc]
    omega
  · have hs : rinc g ⟨a, h, l⟩ = g := if_neg hc
    rw [hs]
    omega

/-! ## A miss before the loop's field faults -/

/-- A miss as it is counted and raised, whatever becomes of the loop (R195). -/
def Mach.missed (m : Mach) (s : Fin 160) (order : Bool) : Mach :=
  let c := m.rd (R.CE_SLOT_CFG_CORE s)
  let t := (m.inc (R.CE_SLOT_MISS_MISS s)).wrs
    [(R.CE_SLOT_STATUS_OVR s, 1), (R.CE_SLOT_STATUS_CONSEC s, min 15 (m.rd (R.CE_SLOT_STATUS_CONSEC s) + 1))]
  let u := t.noteLate 1 (t.slotInst s) order
  u.raiseOnce (64 + c) 0 c (u.rd (R.CE_SLOT_MISS_MISS s))

/-- Registers that a miss of slot `s`, on core `c`, may write. -/
def missWrites (s c : Nat) : List Nat :=
  [(R.CE_SLOT_MISS_MISS s).a, (R.CE_SLOT_STATUS_OVR s).a, (R.TIM_LATE 1).a, R.TIM_LATE_LAST_CLASS.a] ++
    (raiseRegs 20 ++ raiseRegs (64 + c))

section
variable (m : Mach) (s : Fin 160) (order : Bool)

theorem Mach.slotMiss_below (h : m.rd (R.CE_SLOT_STATUS_CONSEC s) + 1 < max 1 (m.rd (R.CE_SLOT_CFG_K s))) :
    m.slotMiss s order = m.missed s order :=
  if_neg (by omega)

theorem Mach.slotMiss_reaches (h : m.rd (R.CE_SLOT_STATUS_CONSEC s) + 1 = max 1 (m.rd (R.CE_SLOT_CFG_K s))) :
    m.slotMiss s order = (m.missed s order).loopMiss s :=
  if_pos (by omega)

theorem Mach.missed_engines : m.EnginesAs (m.missed s order) :=
  (m.inc_engines _).trans ((Mach.wrs_engines ..).trans ((Mach.noteLate_engines ..).trans (Mach.raiseOnce_engines ..)))

theorem Mach.core_lt : m.rd (R.CE_SLOT_CFG_CORE s) < 8 := rrd_lt (R.CE_SLOT_CFG_CORE s).a 18 16

theorem Mach.missed_word_ne {a : Nat} (h : a ∉ missWrites s (m.rd (R.CE_SLOT_CFG_CORE s))) :
    (m.missed s order).word a = m.word a := by
  simp only [missWrites, List.mem_append, List.mem_cons, List.not_mem_nil, or_false, not_or] at h
  obtain ⟨⟨hmiss, hstatus, hlate, hlast⟩, hraise, honce⟩ := h
  unfold Mach.missed
  dsimp only
  rw [Mach.raiseOnce_word_ne _ honce, Mach.noteLate_word_ne _ hlate hlast hraise, Mach.wrs_word_ne]
  · exact rget_rinc_ne hmiss
  · simp only [List.forall_mem_cons]
    exact ⟨hstatus, hstatus, fun _ hp => absurd hp List.not_mem_nil⟩

/-- A miss writes of its slot's registers those of the miss counter and of STATUS (R195). -/
theorem Mach.missed_slotWord {a : Nat} (h : SlotReg a) (hmiss : a ≠ (R.CE_SLOT_MISS_MISS s).a)
    (hstatus : a ≠ (R.CE_SLOT_STATUS_OVR s).a) : (m.missed s order).word a = m.word a := by
  have hcore := m.core_lt s
  have hraise : a ∉ raiseRegs 20 := h.notMem_raiseRegs (by decide)
  have honce : a ∉ raiseRegs (64 + m.rd (R.CE_SLOT_CFG_CORE s)) := h.notMem_raiseRegs (by omega)
  obtain ⟨hlo, -⟩ := h
  refine m.missed_word_ne s order ?_
  simp only [missWrites, List.mem_append, not_or]
  refine ⟨?_, hraise, honce⟩
  simp only [List.mem_cons, List.not_mem_nil, or_false, not_or]
  refine ⟨hmiss, hstatus, ?_, ?_⟩
  · simp only [R.TIM_LATE]
    omega
  · simp only [R.TIM_LATE_LAST_CLASS]
    omega

/-- The state registers of the slots are none that a miss writes. -/
theorem Mach.missed_stateWord {a : Nat} (h : 0x680000 ≤ a) (h' : a < 0x694000) :
    (m.missed s order).word a = m.word a := by
  have hcore := m.core_lt s
  refine m.missed_word_ne s order ?_
  simp only [missWrites, raiseRegs, R.CE_SLOT_MISS_MISS, R.CE_SLOT_STATUS_OVR, R.TIM_LATE, R.TIM_LATE_LAST_CLASS,
    R.HS_EVT_PEND, R.HSQ_PBA, R.CBK_QLEVEL_QMAX, R.CBK_ANGEL, List.mem_append, List.mem_cons, List.not_mem_nil,
    or_false]
  omega

theorem Mach.missed_inFs (n : Fin 16) : (m.missed s order).inFs n = m.inFs n := by
  have hcore := m.core_lt s
  refine congrArg (· == 1) (Mach.rd_congr (m.missed_word_ne s order ?_))
  simp only [missWrites, raiseRegs, R.CE_SLOT_MISS_MISS, R.CE_SLOT_STATUS_OVR, R.TIM_LATE, R.TIM_LATE_LAST_CLASS,
    R.HS_EVT_PEND, R.HSQ_PBA, R.CBK_QLEVEL_QMAX, R.CBK_ANGEL, R.SAF_FS_STATUS_FS, List.mem_append, List.mem_cons,
    List.not_mem_nil, or_false]
  omega

/-- The miss counter counts, up to its last value (R195). -/
theorem Mach.slotMiss_miss : (m.slotMiss s order).rd (R.CE_SLOT_MISS_MISS s) =
    min (m.rd (R.CE_SLOT_MISS_MISS s) + 1) (2 ^ 16 - 1) := by
  have hslot : SlotReg (R.CE_SLOT_MISS_MISS s).a := by
    simp only [SlotReg, R.CE_SLOT_MISS_MISS]
    omega
  rw [Mach.rd_congr (m.slotMiss_word s order hslot), Mach.rd_congr (Mach.wrs_word_ne _ ?_)]
  · exact rrd_rinc_sat (by omega) (by omega)
  · simp only [List.forall_mem_cons, R.CE_SLOT_MISS_MISS, R.CE_SLOT_STATUS_OVR, R.CE_SLOT_STATUS_CONSEC]
    exact ⟨by omega, by omega, fun _ hp => absurd hp List.not_mem_nil⟩

/-- A miss is a late output of class 1 (R58, R195). -/
theorem Mach.missed_late : (m.missed s order).rd (R.TIM_LATE 1) = min (m.rd (R.TIM_LATE 1) + 1) (2 ^ 16 - 1) ∧
    (m.missed s order).rd R.TIM_LATE_LAST_ORDER = bool01 order ∧ (m.missed s order).evt 20 = 1 := by
  have hcore := m.core_lt s
  have honce (a : Nat) (h : a < 0x50000 ∨ a = 0x100100) : a ∉ raiseRegs (64 + m.rd (R.CE_SLOT_CFG_CORE s)) := by
    simp only [raiseRegs, R.HS_EVT_PEND, R.HSQ_PBA, R.CBK_QLEVEL_QMAX, R.CBK_ANGEL, List.mem_cons, List.not_mem_nil,
      or_false]
    omega
  have hcount : ((m.inc (R.CE_SLOT_MISS_MISS s)).wrs [(R.CE_SLOT_STATUS_OVR s, 1),
      (R.CE_SLOT_STATUS_CONSEC s, min 15 (m.rd (R.CE_SLOT_STATUS_CONSEC s) + 1))]).rd (R.TIM_LATE 1) =
      m.rd (R.TIM_LATE 1) := by
    refine Mach.rd_congr ((Mach.wrs_word_ne _ ?_).trans (rget_rinc_ne ?_))
    · simp only [List.forall_mem_cons, R.TIM_LATE, R.CE_SLOT_STATUS_OVR, R.CE_SLOT_STATUS_CONSEC]
      exact ⟨by omega, by omega, fun _ hp => absurd hp List.not_mem_nil⟩
    · simp only [R.TIM_LATE]
      omega
  unfold Mach.missed
  dsimp only
  rw [← hcount]
  generalize Mach.wrs _ _ = t
  obtain ⟨hevt, -⟩ := t.noteLate_only 1 (t.slotInst s) order
  refine ⟨?_, ?_, (Mach.rd_congr (Mach.raiseOnce_word_ne _ (honce _ (.inr rfl)))).trans hevt⟩
  · rw [Mach.rd_congr (Mach.raiseOnce_word_ne _ (honce _ (.inl (by decide)))), t.noteLate_rd (by decide),
      rrd_rwrs_apart (by decide) _ _ ?_]
    · exact rrd_rinc_sat (by decide) (by decide)
    · simp only [lateLast, List.forall_mem_cons]
      decide
  · rw [Mach.rd_congr (Mach.raiseOnce_word_ne _ (honce _ (.inl (by decide)))), t.noteLate_rd (by decide)]
    refine (rrd_rwrs_written [_] [_] _ (by decide) (by decide) ?_).trans ?_
    · simp only [List.forall_mem_cons]
      decide
    · cases order <;> rfl

/-- The state registers of a slot stand (R195). -/
theorem Mach.missed_sregs (k : Fin 160) : (m.missed s order).sregs k = m.sregs k := by
  unfold Mach.sregs
  refine List.map_congr_left fun i hi => ?_
  have hreg {r : RF} (h : 0x680000 ≤ r.a) (h' : r.a < 0x694000) : (m.missed s order).rdS r = m.rdS r :=
    congrArg (signed _) (Mach.rd_congr (m.missed_stateWord s order h h'))
  rw [List.mem_range] at hi
  unfold Mach.blkAt
  rw [hreg (r := R.CE_SREGE k i) (by simp only [R.CE_SREGE]; omega) (by simp only [R.CE_SREGE]; omega)]
  refine congrArg (Blk.mk · _) (List.map_congr_left fun j hj => ?_)
  rw [List.mem_range] at hj
  exact hreg (r := R.CE_SREGM k i j) (by simp only [R.CE_SREGM]; omega) (by simp only [R.CE_SREGM]; omega)

end

/-! ## LOOPMISS (R196) -/

/-- The entry into fail-safe is one of a field: the slots stand. -/
theorem Mach.enterFs_slot (m : Mach) (n : Fin 16) (cause : Nat) (byctx doubt : Bool) :
    (m.enterFs n cause byctx doubt).slot = m.slot := by
  obtain ⟨f, ws, p, -, -, -, he⟩ := m.enterFs_eq n cause byctx doubt
  obtain ⟨g, q, -, -, hframe⟩ := (m.dwellEnd n).faulted_frame n doubt f ws
  obtain ⟨-, hdwell⟩ := m.dwellEnd_dwellsOnly n
  rw [he, Mach.raiseP_slot, hframe, hdwell]

/-- CONSEC has reached K: the slot's field is in fail-safe with LOOPMISS. -/
theorem Mach.loopMiss_field {m : Mach} {s : Fin 160} {n : Fin 16} (hn : m.slotField s = n) (hf : m.inFs n = false) :
    (m.loopMiss s).inFs n = true ∧ (m.loopMiss s).rd (R.FE_FAULT_CAUSE n) = 0x28 ∧ (m.loopMiss s).Dark n ∧
    (m.loopMiss s).slot = m.slot.set s { m.slot[s] with missed := true } := by
  have hlt : m.slotField s < 16 := hn ▸ n.isLt
  have hfin : (⟨m.slotField s, hlt⟩ : Fin 16) = n := Fin.ext hn
  have he : m.loopMiss s =
      (m.setSlot s { m.slot[s] with missed := true }).enterFs n cLoopmiss false (m.servoSlot s) := by
    unfold Mach.loopMiss
    rw [dif_pos hlt, hfin]
    exact if_neg (Bool.eq_false_iff.mp hf)
  obtain ⟨hfs, hcause, hdark⟩ := (m.setSlot s { m.slot[s] with missed := true }).enterFs_shows n
    (show cLoopmiss < 256 by decide) false (m.servoSlot s)
  rw [he]
  exact ⟨hfs, hcause, hdark, Mach.enterFs_slot ..⟩

end Sys2Proof.Machine
end

section
/-! PROOF. What an execution of a slot leaves: its slot, the set-point of VCORE, and its outputs (R23, R193 to R195). -/
namespace Sys2Proof.Machine

theorem spared_field (s : Fin 160) : (R.CE_SLOT_CFG_FIELD s).Spared s := by
  simp only [RF.Spared, SlotReg, RF.Apart, R.CE_SLOT_CFG_FIELD, R.CE_SLOT_STATUS_SAT, R.CE_SLOT_STATUS_AOVF,
    R.CE_SLOT_STATUS_OSAT]
  omega

theorem spared_k (s : Fin 160) : (R.CE_SLOT_CFG_K s).Spared s := by
  simp only [RF.Spared, SlotReg, RF.Apart, R.CE_SLOT_CFG_K, R.CE_SLOT_STATUS_SAT, R.CE_SLOT_STATUS_AOVF,
    R.CE_SLOT_STATUS_OSAT]
  omega

/-! ## State and VCORE -/

theorem Mach.noteSlack_engines (m : Mach) (c sl : Nat) (miss : Bool) : m.EnginesAs (m.noteSlack c sl miss) :=
  ⟨rfl, rfl, rfl, rfl, rfl, rfl, rfl⟩

theorem Mach.fastRaise_engines (m : Mach) : m.EnginesAs m.fastRaise :=
  ⟨m.setVcore_stages 850, m.setVcore_fe 850, m.setVcore_pins 850, m.setVcore_slot 850, m.setVcore_mem 850,
    m.setVcore_axis 850, m.setVcore_mt 850⟩

theorem Mach.putSregs_engines (m : Mach) (s : Nat) (old new : List Blk) : m.EnginesAs (m.putSregs s old new) := by
  unfold Mach.putSregs
  generalize List.range 8 = l
  induction l generalizing m with
  | nil => exact .refl m
  | cons k l ih =>
    refine .trans ?_ (ih _)
    dsimp only
    split
    · exact .refl m
    · exact m.wrs_engines _

/-- The state registers of the slots lie above the registers of the module's blocks. -/
theorem Mach.putSregs_word_below (m : Mach) (s : Nat) (old new : List Blk) {a : Nat} (h : a < 0x680000) :
    (m.putSregs s old new).word a = m.word a := by
  unfold Mach.putSregs
  generalize List.range 8 = l
  induction l generalizing m with
  | nil => rfl
  | cons k l ih =>
    refine (ih _).trans ?_
    dsimp only
    split
    · rfl
    · refine m.wrs_word_ne fun p hp => ?_
      rcases List.mem_append.mp hp with hp | hp
      · obtain ⟨j, -, rfl⟩ := List.mem_map.mp hp
        simp only [R.CE_SREGM]
        omega
      · rw [List.mem_singleton.mp hp]
        simp only [R.CE_SREGE]
        omega

/-- The record of a slot whose oldest execution has ended. -/
def Mach.endedSlot (m : Mach) (s : Fin 160) (o : ExecOut) : Slot :=
  { o.slot with exec := m.slot[s].exec.drop 1, doneAt := m.mt, sats := o.sat }

theorem Mach.setFree_word (m : Mach) (f a : Nat) : ({ m with free := f } : Mach).word a = m.word a := rfl

section
variable (m : Mach) (s : Fin 160) (sl : Nat) (miss : Bool) (o : ExecOut)

theorem Mach.execState_engines : (m.setSlot s (m.endedSlot s o)).EnginesAs (m.execState s o) := by
  have hput := (m.setSlot s (m.endedSlot s o)).putSregs_engines s (m.sregs s) o.s
  unfold Mach.execState
  dsimp only
  rw [← Mach.endedSlot]
  generalize (m.setSlot s (m.endedSlot s o)).putSregs s (m.sregs s) o.s = t at hput ⊢
  have hfree (l : List (RF × Nat)) (f : Nat) : (m.setSlot s (m.endedSlot s o)).EnginesAs { t.wrs l with free := f } :=
    hput.trans ⟨rfl, rfl, rfl, rfl, rfl, rfl, rfl⟩
  split
  · exact (hfree ..).trans (Mach.raiseOnce_engines ..)
  · exact hfree ..

/-- Of the registers below the event flags an execution's state writes none. -/
theorem Mach.execState_word_below {a : Nat} (h : a < 0x50000) : (m.execState s o).word a = m.word a := by
  have hput := (m.setSlot s (m.endedSlot s o)).putSregs_word_below s (m.sregs s) o.s (a := a) (by omega)
  have hraise : a ∉ raiseRegs 74 := by
    simp only [raiseRegs, R.HS_EVT_PEND, R.HSQ_PBA, R.CBK_QLEVEL_QMAX, R.CBK_ANGEL, List.mem_cons, List.not_mem_nil,
      or_false]
    omega
  have hstatus (v v' v'' : Nat) : ∀ p ∈ [(R.CE_SLOT_STATUS_SAT s, v), (R.CE_SLOT_STATUS_AOVF s, v'),
      (R.CE_SLOT_STATUS_OSAT s, v'')], a ≠ p.1.a := by
    simp only [List.forall_mem_cons, R.CE_SLOT_STATUS_SAT, R.CE_SLOT_STATUS_AOVF, R.CE_SLOT_STATUS_OSAT]
    exact ⟨by omega, by omega, by omega, fun _ hp => absurd hp List.not_mem_nil⟩
  unfold Mach.execState
  dsimp only
  rw [← Mach.endedSlot]
  generalize (m.setSlot s (m.endedSlot s o)).putSregs s (m.sregs s) o.s = t at hput ⊢
  have hwrs (v v' v'' f : Nat) : ({ t.wrs [(R.CE_SLOT_STATUS_SAT s, v), (R.CE_SLOT_STATUS_AOVF s, v'),
      (R.CE_SLOT_STATUS_OSAT s, v'')] with free := f } : Mach).word a = m.word a := by
    rw [Mach.setFree_word, t.wrs_word_ne (hstatus v v' v''), hput]
    rfl
  split
  · exact (Mach.raiseOnce_word_ne _ hraise).trans (hwrs ..)
  · exact hwrs ..

theorem Mach.executed_engines : (m.setSlot s (m.endedSlot s o)).EnginesAs (m.executed s sl miss o) := by
  have hnote := m.noteSlack_engines (m.rd (R.CE_SLOT_CFG_CORE s)) sl miss
  unfold Mach.executed
  dsimp only
  generalize m.noteSlack _ sl miss = t at hnote ⊢
  have hraised : m.EnginesAs (if sl ≤ 102 then t.fastRaise else t) := by
    split
    · exact hnote.trans t.fastRaise_engines
    · exact hnote
  generalize (if sl ≤ 102 then t.fastRaise else t) = u at hraised ⊢
  have hslot : u.endedSlot s o = m.endedSlot s o := by
    unfold Mach.endedSlot
    rw [hraised.slot, hraised.mt]
  have hset : (m.setSlot s (m.endedSlot s o)).EnginesAs (u.setSlot s (u.endedSlot s o)) :=
    ⟨hraised.stages, hraised.fe, hraised.pins, by rw [hslot]; exact congrArg (Vector.set · s _) hraised.slot,
      hraised.mem, hraised.axis, hraised.mt⟩
  exact hset.trans (u.execState_engines s o)

/-- The slot's oldest execution has ended, and no other slot has changed. -/
theorem Mach.executed_slot : (m.executed s sl miss o).slot[s] = m.endedSlot s o ∧
    ∀ j, j ≠ s → (m.executed s sl miss o).slot[j] = m.slot[j] := by
  rw [(m.executed_engines s sl miss o).slot]
  exact ⟨set_fin_self .., fun j hj => set_fin_ne _ _ hj⟩

/-- A reported slack of 102 or less raises VCORE to 850 mV (R23). -/
theorem Mach.executed_vcore : (m.executed s sl miss o).rd R.PWR_VCORE_SET =
    if sl ≤ 102 then 850 else m.rd R.PWR_VCORE_SET := by
  unfold Mach.executed
  dsimp only
  rw [Mach.rd_congr (Mach.execState_word_below _ s o (by decide))]
  split
  · exact Mach.setVcore_rd _ (Nat.le_refl 850)
  · rfl

theorem Mach.executed_lateCount : (m.executed s sl miss o).rd (R.TIM_LATE 1) = m.rd (R.TIM_LATE 1) := by
  unfold Mach.executed
  dsimp only
  rw [Mach.rd_congr (Mach.execState_word_below _ s o (by decide))]
  split
  · exact Mach.rd_congr (Mach.setVcore_word_ne _ 850 (by decide))
  · rfl

end

/-! ## Outputs -/

/-- Outputs handed over: the slot keeps its executions, and other slots, memory, axes and VCORE stand. -/
structure Mach.HandsOver (m t : Mach) (s : Fin 160) : Prop where
  exec : t.slot[s].exec = m.slot[s].exec
  doneAt : t.slot[s].doneAt = m.slot[s].doneAt
  others : ∀ j, j ≠ s → t.slot[j] = m.slot[j]
  mem : t.mem = m.mem
  axis : t.axis = m.axis
  vcore : t.rd R.PWR_VCORE_SET = m.rd R.PWR_VCORE_SET

theorem Mach.HandsOver.refl (m : Mach) (s : Fin 160) : m.HandsOver m s := ⟨rfl, rfl, fun _ _ => rfl, rfl, rfl, rfl⟩

theorem Mach.HandsOver.trans {m t u : Mach} {s : Fin 160} (h : m.HandsOver t s) (h' : t.HandsOver u s) :
    m.HandsOver u s :=
  ⟨h'.exec.trans h.exec, h'.doneAt.trans h.doneAt, fun j hj => (h'.others j hj).trans (h.others j hj),
    h'.mem.trans h.mem, h'.axis.trans h.axis, h'.vcore.trans h.vcore⟩

section
variable (m : Mach) (s : Fin 160) (due : Nat)

theorem Mach.wr_handsOver {r : RF} (v : Nat) (h : R.PWR_VCORE_SET.a ≠ r.a) : m.HandsOver (m.wr r v) s :=
  ⟨rfl, rfl, fun _ _ => rfl, rfl, rfl, Mach.rd_congr (m.wr_word_ne v h)⟩

theorem Mach.pushEdge_handsOver (e : Edge) (v : EdgeVal) : m.HandsOver (m.pushEdge e due v) s :=
  ⟨rfl, rfl, fun _ _ => rfl, rfl, rfl, rfl⟩

theorem Mach.setSlot_handsOver {x : Slot} (hexec : x.exec = m.slot[s].exec) (hdone : x.doneAt = m.slot[s].doneAt) :
    m.HandsOver (m.setSlot s x) s :=
  ⟨(congrArg Slot.exec (set_fin_self m.slot s x)).trans hexec,
    (congrArg Slot.doneAt (set_fin_self m.slot s x)).trans hdone, fun _ hj => set_fin_ne _ _ hj, rfl, rfl, rfl⟩

theorem Mach.output_handsOver (port : Nat) (v : Rat) : m.HandsOver (m.output s due port v) s := by
  unfold Mach.output
  split
  · exact m.setSlot_handsOver s rfl rfl
  · split
    · dsimp only
      split
      · exact m.pushEdge_handsOver ..
      · exact m.pushEdge_handsOver ..
      · exact m.pushEdge_handsOver ..
      · split
        · exact m.pushEdge_handsOver ..
        · refine m.wr_handsOver s 1 ?_
          simp only [R.PWR_VCORE_SET, R.FE_LCH_STATUS_PSRCERR]
          omega
      · exact ⟨rfl, rfl, fun _ _ => rfl, rfl, rfl, rfl⟩
    · exact .refl m s

theorem Mach.outputs_handsOver (l : List (Nat × Rat)) : m.HandsOver (m.outputs s due l) s := by
  unfold Mach.outputs
  induction l generalizing m with
  | nil => exact .refl m s
  | cons o l ih => exact (m.output_handsOver s due ..).trans (ih _)

variable {m s}

/-- An output on port 512 is queued on the field's GXC stage (R193, R194). -/
theorem Mach.outputs_gxc {n : Fin 16} (hn : m.slotField s = n) (v : Rat) : m.outputs s due [(512, v)] =
    m.pushEdge (.gxc n) due (.dac (BitVec.ofInt 20 (outConv 512 v).1.num)) := by
  have hlt : m.slotField s < 16 := hn ▸ n.isLt
  have hfin : (⟨m.slotField s, hlt⟩ : Fin 16) = n := Fin.ext hn
  show m.output s due 512 (outConv 512 v).1 = _
  unfold Mach.output
  rw [if_neg (by decide), dif_pos hlt]
  exact congrArg (fun f : Fin 16 => m.pushEdge (.gxc f) due (.dac (BitVec.ofInt 20 (outConv 512 v).1.num))) hfin

theorem Mach.outputs_gxc_stage {n : Fin 16} (hn : m.slotField s = n) (v : Rat) :
    (m.outputs s due [(512, v)]).stage (.gxc n) =
      (m.stage (.gxc n)).push 4 ⟨due, .dac (BitVec.ofInt 20 (outConv 512 v).1.num)⟩ ∧
    ∀ e', e' ≠ .gxc n → (m.outputs s due [(512, v)]).stage e' = m.stage e' := by
  rw [Mach.outputs_gxc due hn]
  exact ⟨Mach.stage_setStage_same .., fun _ he => Mach.stage_setStage_ne _ _ he⟩

end

/-! ## Completion and drop -/

section
variable {m : Mach} {s : Fin 160} {e : ExecRec} {rest : List ExecRec}

theorem Mach.execComplete_none (h : m.slot[s].exec = [] ∨ m.coreRuns (m.rd (R.CE_SLOT_CFG_CORE s)) ≠ some s) :
    m.execComplete s = m := by
  unfold Mach.execComplete
  split
  · rfl
  · next hexec =>
    rcases h with h | h
    · exact absurd (hexec.symm.trans h) nofun
    · exact if_pos h

theorem Mach.execDrop_none (h : m.slot[s].exec = [] ∨ m.coreRuns (m.rd (R.CE_SLOT_CFG_CORE s)) = some s ∨
    ∃ e, m.slot[s].exec.head? = some e ∧ m.mt + 40 < e.due) : m.execDrop s = m := by
  unfold Mach.execDrop
  split
  · rfl
  · next hexec =>
    rw [hexec] at h
    rcases h with h | h | ⟨e, he, hd⟩
    · exact absurd h nofun
    · exact if_pos (.inr h)
    · obtain rfl := Option.some.inj he
      exact if_pos (.inl hd)

/-- Late, or in violation of a stage's order, an execution hands nothing over and counts as a miss (R55, R195). -/
theorem Mach.execComplete_missed (hexec : m.slot[s].exec = e :: rest)
    (hr : m.coreRuns (m.rd (R.CE_SLOT_CFG_CORE s)) = some s) (h : e.due < m.mt + 40 ∨ m.outViolates s e.due = true) :
    m.execComplete s = (m.executed s 0 true (m.runExec s e)).slotMiss s (!decide (e.due < m.mt + 40)) := by
  rw [Mach.execComplete_runs hexec hr]
  by_cases hd : e.due < m.mt + 40
  · simp [hd]
  · simp [hd, h.resolve_left hd]

/-- On time: the slot's execution has ended, CONSEC is 0, and the outputs stand in their stages. -/
theorem Mach.onTime_shows (hexec : m.slot[s].exec = e :: rest) {t : Mach}
    (ht : t = ((m.executed s (slackOf e m.mt) false (m.runExec s e)).outputs s e.due (m.runExec s e).outs).wr
      (R.CE_SLOT_STATUS_CONSEC s) 0) :
    t.slot[s].exec = rest ∧ t.slot[s].doneAt = m.mt ∧ t.rd (R.CE_SLOT_STATUS_CONSEC s) = 0 ∧
    t.rd (R.CE_SLOT_MISS_MISS s) = m.rd (R.CE_SLOT_MISS_MISS s) ∧
    t.rd R.PWR_VCORE_SET = (if slackOf e m.mt ≤ 102 then 850 else m.rd R.PWR_VCORE_SET) ∧
    (∀ (n : Fin 16) (v : Rat), m.slotField s = n → (m.runExec s e).outs = [(512, v)] →
      t.stage (.gxc n) = (m.stage (.gxc n)).push 4 ⟨e.due, .dac (BitVec.ofInt 20 (outConv 512 v).1.num)⟩ ∧
      ∀ e', e' ≠ .gxc n → t.stage e' = m.stage e') ∧
    (∀ j, j ≠ s → t.slot[j] = m.slot[j]) ∧ t.mem = m.mem ∧ t.axis = m.axis := by
  have hrun := m.executed_engines s (slackOf e m.mt) false (m.runExec s e)
  have hmiss := m.executed_rd s (slackOf e m.mt) false (m.runExec s e) (spared_miss s)
  have hvcore := m.executed_vcore s (slackOf e m.mt) false (m.runExec s e)
  have hfield := m.executed_rd s (slackOf e m.mt) false (m.runExec s e) (spared_field s)
  obtain ⟨hself, hothers⟩ := m.executed_slot s (slackOf e m.mt) false (m.runExec s e)
  generalize m.executed s _ false _ = u at ht hrun hmiss hvcore hfield hself hothers
  have hout := u.outputs_handsOver s e.due (m.runExec s e).outs
  have hmissOut : (u.outputs s e.due (m.runExec s e).outs).rd (R.CE_SLOT_MISS_MISS s) = u.rd (R.CE_SLOT_MISS_MISS s) :=
    Mach.rd_congr (u.outputs_word s e.due _ (spared_miss s).1)
  have hgxc (n : Fin 16) (v : Rat) (hn : m.slotField s = n) (ho : (m.runExec s e).outs = [(512, v)]) :
      (u.outputs s e.due (m.runExec s e).outs).stage (.gxc n) =
        (m.stage (.gxc n)).push 4 ⟨e.due, .dac (BitVec.ofInt 20 (outConv 512 v).1.num)⟩ ∧
      ∀ e', e' ≠ .gxc n → (u.outputs s e.due (m.runExec s e).outs).stage e' = m.stage e' := by
    have hstage (e' : Edge) : u.stage e' = m.stage e' := stage_congr hrun.stages e'
    simpa only [ho, hstage] using Mach.outputs_gxc_stage e.due (hfield.trans hn) v
  generalize u.outputs s e.due (m.runExec s e).outs = w at ht hout hmissOut hgxc
  obtain ⟨hconsec, -, hkept⟩ := w.consecCleared_rd s
  have hapart : R.PWR_VCORE_SET.a ≠ (R.CE_SLOT_STATUS_CONSEC s).a := by
    simp only [R.PWR_VCORE_SET, R.CE_SLOT_STATUS_CONSEC]
    omega
  have hdone : u.HandsOver t s := hout.trans (ht ▸ w.wr_handsOver s 0 hapart)
  have hstage (e' : Edge) : t.stage e' = w.stage e' := stage_congr (ht ▸ w.wr_stages _ 0) e'
  refine ⟨?_, ?_, ht ▸ hconsec, (ht ▸ hkept).trans (hmissOut.trans hmiss), hdone.vcore.trans hvcore,
    fun n v hn ho => ?_, fun j hj => (hdone.others j hj).trans (hothers j hj), hdone.mem.trans hrun.mem, hdone.axis.trans hrun.axis⟩
  · rw [hdone.exec, hself]
    exact congrArg (List.drop 1) hexec
  · rw [hdone.doneAt, hself]
    rfl
  · simpa only [hstage] using hgxc n v hn ho

/-- Late or out of order, with CONSEC still below K: the miss is counted, and no output has changed. -/
theorem Mach.missed_shows (hexec : m.slot[s].exec = e :: rest) {t : Mach} {order : Bool}
    (hk : m.rd (R.CE_SLOT_STATUS_CONSEC s) + 1 < max 1 (m.rd (R.CE_SLOT_CFG_K s)))
    (ht : t = (m.executed s 0 true (m.runExec s e)).slotMiss s order) :
    t.slot[s].exec = rest ∧ t.slot[s].doneAt = m.mt ∧ t.rd (R.CE_SLOT_STATUS_OVR s) = 1 ∧
    t.rd (R.CE_SLOT_MISS_MISS s) = min (m.rd (R.CE_SLOT_MISS_MISS s) + 1) (2 ^ 16 - 1) ∧
    t.rd (R.CE_SLOT_STATUS_CONSEC s) = min 15 (m.rd (R.CE_SLOT_STATUS_CONSEC s) + 1) ∧
    t.rd (R.TIM_LATE 1) = min (m.rd (R.TIM_LATE 1) + 1) (2 ^ 16 - 1) ∧
    t.rd R.TIM_LATE_LAST_ORDER = bool01 order ∧ t.evt 20 = 1 ∧
    t.stages = m.stages ∧ t.fe = m.fe ∧ (∀ j, j ≠ s → t.slot[j] = m.slot[j]) ∧ t.mem = m.mem ∧ t.axis = m.axis := by
  have hrun := m.executed_engines s 0 true (m.runExec s e)
  have hrd {r : RF} (h : r.Spared s) := m.executed_rd s 0 true (m.runExec s e) h
  have hmiss := hrd (spared_miss s)
  have hconsec := hrd (spared_consec s)
  have hlimit := hrd (spared_k s)
  have hlate := m.executed_lateCount s 0 true (m.runExec s e)
  obtain ⟨hself, hothers⟩ := m.executed_slot s 0 true (m.runExec s e)
  generalize m.executed s 0 true _ = u at ht hrun hmiss hconsec hlimit hlate hself hothers
  have hbelow : t = u.missed s order := ht.trans (u.slotMiss_below s order (by rwa [hconsec, hlimit]))
  have heng := hrun.trans (hbelow ▸ u.missed_engines s order)
  have hslot : t.slot = u.slot := hbelow ▸ (u.missed_engines s order).slot
  obtain ⟨hcount, horder, hevt⟩ := hbelow ▸ u.missed_late s order
  obtain ⟨hconsec', hovr⟩ := ht ▸ u.slotMiss_consec s order
  have hmiss' := ht ▸ u.slotMiss_miss s order
  rw [hmiss] at hmiss'
  rw [hconsec] at hconsec'
  rw [hlate] at hcount
  refine ⟨?_, ?_, hovr, hmiss', hconsec', hcount, horder, hevt, heng.stages, heng.fe, fun j hj => ?_,
    heng.mem, heng.axis⟩
  · rw [hslot, hself]
    exact congrArg (List.drop 1) hexec
  · rw [hslot, hself]
    rfl
  · rw [hslot]
    exact hothers j hj

end

end Sys2Proof.Machine
end

section
/-! PROOF. Sample instants of a slot: the inputs are taken, a swap acts, or a STOP acts (R179, R181, R182,
R194, R202, R218). -/
namespace Sys2Proof.Machine

/-! ## Swaps (R202, R203) -/

/-- The fields that a swap writes once the states are rescaled. -/
def swapFields (s sat bank aovf : Nat) : List (RF × Nat) :=
  [(R.CE_SLOT_STATUS_SAT s, sat), (R.CE_SLOT_STATUS_ACTBANK s, bank), (R.CE_SLOT_STATUS_SWPEND s, 0),
   (R.CE_SLOT_SWAP_REQ s, 0), (R.CE_SLOT_STATUS_AOVF s, aovf)]

theorem Mach.swapFields_rd (m : Mach) (s sat bank aovf : Nat) :
    (m.wrs (swapFields s sat bank aovf)).rd (R.CE_SLOT_STATUS_ACTBANK s) = bank % 2 ∧
    (m.wrs (swapFields s sat bank aovf)).rd (R.CE_SLOT_STATUS_SWPEND s) = 0 ∧
    (m.wrs (swapFields s sat bank aovf)).rd (R.CE_SLOT_STATUS_STATE s) = m.rd (R.CE_SLOT_STATUS_STATE s) := by
  unfold Mach.rd
  rw [Mach.wrs_regs]
  generalize m.regs = g
  refine ⟨?_, ?_, ?_⟩
  · refine rrd_rwrs_written [_] [_, _, _] g (Nat.le_refl 11) (show 11 < 32 by decide) ?_
    simp only [List.forall_mem_cons, RF.Apart, R.CE_SLOT_STATUS_ACTBANK, R.CE_SLOT_STATUS_SWPEND, R.CE_SLOT_SWAP_REQ,
      R.CE_SLOT_STATUS_AOVF]
    refine ⟨?_, ?_, ?_, fun _ h => absurd h List.not_mem_nil⟩ <;> omega
  · refine rrd_rwrs_written [_, _] [_, _] g (Nat.le_refl 12) (show 12 < 32 by decide) ?_
    simp only [List.forall_mem_cons, RF.Apart, R.CE_SLOT_STATUS_SWPEND, R.CE_SLOT_SWAP_REQ, R.CE_SLOT_STATUS_AOVF]
    refine ⟨?_, ?_, fun _ h => absurd h List.not_mem_nil⟩ <;> omega
  · refine rrd_rwrs_apart (show 1 < 32 by decide) _ g ?_
    simp only [swapFields, List.forall_mem_cons, RF.Apart, R.CE_SLOT_STATUS_SAT, R.CE_SLOT_STATUS_ACTBANK,
      R.CE_SLOT_STATUS_SWPEND, R.CE_SLOT_SWAP_REQ, R.CE_SLOT_STATUS_AOVF, R.CE_SLOT_STATUS_STATE]
    refine ⟨?_, ?_, ?_, ?_, ?_, fun _ h => absurd h List.not_mem_nil⟩ <;> omega

theorem slotReg_status (s : Fin 160) : SlotReg (R.CE_SLOT_STATUS_STATE s).a := by
  simp only [SlotReg, R.CE_SLOT_STATUS_STATE]
  omega

section
variable (m : Mach) (s : Fin 160)

/-- What a swap makes of the slot's states. -/
def Mach.swapOut (m : Mach) (s : Fin 160) : SwapOut :=
  let a := m.rd (R.CE_SLOT_STATUS_ACTBANK s)
  swapInts (m.bank s a) (m.bank s (1 - a)) (if m.slot[s].lib.isSome then [] else (m.slotProg s).getD [])
    ⟨m.sregs s, m.slot[s].sats, false⟩

/-- The registers at a swap: the states are rescaled, and the other bank is in force. -/
def Mach.swapped (m : Mach) (s : Fin 160) : Mach :=
  (m.putSregs s (m.sregs s) (m.swapOut s).s).wrs (swapFields s (satWord (m.swapOut s).sats)
    (1 - m.rd (R.CE_SLOT_STATUS_ACTBANK s)) (max (m.rd (R.CE_SLOT_STATUS_AOVF s)) (bool01 (m.swapOut s).aovf)))

/-- The record of a slot whose swap has acted. -/
def Slot.afterSwap (x : Slot) (sats : List Nat) (libS : Rat) : Slot :=
  { x with swapReq := none, sats := sats, libS := libS }

theorem Slot.afterSwap_stopAt (x : Slot) (sats : List Nat) (libS : Rat) :
    (x.afterSwap sats libS).stopAt = x.stopAt := rfl

/-- The integral state of POOL within the limits of the bank that comes into force. -/
def Mach.swapLibS (m : Mach) (s : Fin 160) : Rat :=
  poolLimit (m.slot[s].tune.getD (1 - m.rd (R.CE_SLOT_STATUS_ACTBANK s)) none) m.slot[s].libS

/-- A swap: registers, the slot's record, and source 74 where a state saturated. -/
theorem Mach.swapNow_eq : m.swapNow s =
    (if (m.swapOut s).aovf then (m.swapped s).raiseOnce 74 0 s 0 else m.swapped s).setSlot s
      (m.slot[s].afterSwap (m.swapOut s).sats (m.swapLibS s)) := by
  unfold Mach.swapNow Mach.swapped swapFields Mach.swapLibS Slot.afterSwap Mach.swapOut
  rfl

theorem Mach.swapped_rd :
    (m.swapped s).rd (R.CE_SLOT_STATUS_ACTBANK s) = 1 - m.rd (R.CE_SLOT_STATUS_ACTBANK s) ∧
    (m.swapped s).rd (R.CE_SLOT_STATUS_SWPEND s) = 0 ∧
    (m.swapped s).rd (R.CE_SLOT_STATUS_STATE s) = m.rd (R.CE_SLOT_STATUS_STATE s) := by
  have hput := m.putSregs_word s (m.sregs s) (m.swapOut s).s (slotReg_status s)
  unfold Mach.swapped
  generalize m.putSregs s (m.sregs s) (m.swapOut s).s = t at hput ⊢
  obtain ⟨hbank, hpend, hkeep⟩ := t.swapFields_rd s (satWord (m.swapOut s).sats)
    (1 - m.rd (R.CE_SLOT_STATUS_ACTBANK s)) (max (m.rd (R.CE_SLOT_STATUS_AOVF s)) (bool01 (m.swapOut s).aovf))
  exact ⟨hbank.trans (Nat.mod_eq_of_lt (by omega)), hpend, hkeep.trans (Mach.rd_congr hput)⟩

/-- The swap: the other bank is in force, none is pending, and the slot's state and its STOP stand. -/
theorem Mach.swapNow_shows :
    (m.swapNow s).rd (R.CE_SLOT_STATUS_ACTBANK s) = 1 - m.rd (R.CE_SLOT_STATUS_ACTBANK s) ∧
    (m.swapNow s).rd (R.CE_SLOT_STATUS_SWPEND s) = 0 ∧
    (m.swapNow s).rd (R.CE_SLOT_STATUS_STATE s) = m.rd (R.CE_SLOT_STATUS_STATE s) ∧
    (m.swapNow s).slot[s].swapReq = none ∧ (m.swapNow s).slot[s].stopAt = m.slot[s].stopAt := by
  have hshown := m.swapped_rd s
  rw [Mach.swapNow_eq]
  generalize m.swapped s = w at hshown ⊢
  have honce : (if (m.swapOut s).aovf then w.raiseOnce 74 0 s 0 else w).word (R.CE_SLOT_STATUS_STATE s).a =
      w.word (R.CE_SLOT_STATUS_STATE s).a := by
    split
    · exact w.raiseOnce_word_ne ((slotReg_status s).notMem_raiseRegs (by decide))
    · rfl
  generalize (if (m.swapOut s).aovf then w.raiseOnce 74 0 s 0 else w) = u at honce ⊢
  have hrd (r : RF) (h : r.a = (R.CE_SLOT_STATUS_STATE s).a) :
      (u.setSlot s (m.slot[s].afterSwap (m.swapOut s).sats (m.swapLibS s))).rd r = w.rd r :=
    Mach.rd_congr (h ▸ honce)
  obtain ⟨hbank, hpend, hstate⟩ := hshown
  refine ⟨(hrd (R.CE_SLOT_STATUS_ACTBANK s) rfl).trans hbank, (hrd (R.CE_SLOT_STATUS_SWPEND s) rfl).trans hpend,
    (hrd _ rfl).trans hstate, ?_, ?_⟩
  · exact (congrArg Slot.swapReq (set_fin_self u.slot s _))
  · exact (congrArg Slot.stopAt (set_fin_self u.slot s _)).trans (Slot.afterSwap_stopAt ..)

theorem Mach.swapAt_none {m : Mach} {s : Fin 160} (h : m.slot[s].swapReq = none) : m.swapAt s = m := by
  unfold Mach.swapAt
  rw [h]

theorem Mach.swapAt_due {m : Mach} {s : Fin 160} {q : Nat} (h : m.slot[s].swapReq = some q) (hq : q + 400 ≤ m.mt) :
    m.swapAt s = m.swapNow s := by
  unfold Mach.swapAt
  rw [h]
  exact if_pos hq

/-! ## STOP (R182, R218) -/

/-- Code 0 is queued for an instant, where the slot drives the output. -/
def Mach.pushZero (m : Mach) (due : Nat) (b : Bool) (e : Edge) : Mach := if b then m.pushEdge e due (.dac 0) else m

theorem Mach.pushZero_frame (m : Mach) (due : Nat) (b : Bool) (e : Edge) :
    ∃ l, m.pushZero due b e = { m with stages := l } := by
  cases b <;> exact ⟨_, rfl⟩

theorem Mach.pushZero_same (m : Mach) (due : Nat) (b : Bool) (e : Edge) : (m.pushZero due b e).stage e =
    if b then (m.stage e).push (stageDepth e) ⟨due, .dac 0⟩ else m.stage e := by
  cases b with
  | true => exact Mach.stage_setStage_same ..
  | false => rfl

theorem Mach.pushZero_ne (m : Mach) (due : Nat) (b : Bool) {e e' : Edge} (h : e' ≠ e) :
    (m.pushZero due b e).stage e' = m.stage e' := by
  cases b with
  | true => exact Mach.stage_setStage_ne _ _ h
  | false => rfl

/-- Code 0 on those DAC ports of field `n` that are in `ps`, on LPWR where the field takes power from the stage. -/
def Mach.dacsOff (m : Mach) (n : Fin 16) (due : Nat) (ps : List Nat) : Mach :=
  (((m.pushZero due (ps.contains 512) (.gxc n)).pushZero due (ps.contains 513) (.gyc n)).pushZero due (ps.contains 514)
    (.gzc n)).pushZero due (m.rdf (R.FE_LCH_CTRL_PMODE n) == 1 && ps.contains 515) (.lpwr n)

/-- The slot is OFF: its STOP has acted, and its core shows the load without it. -/
def Mach.slotOff (m : Mach) (s : Fin 160) : Mach :=
  let t := m.wr (R.CE_SLOT_STATUS_STATE s) 0
  let t := t.showLoad (t.rd (R.CE_SLOT_CFG_CORE s))
  t.setSlot s { t.slot[s] with stopAt := none }

/-- The slot is OFF, and its DAC ports go to code 0. -/
def Mach.stopped (m : Mach) (s : Fin 160) : Mach :=
  if h : m.slotField s < 16 then
    (m.slotOff s).dacsOff ⟨m.slotField s, h⟩ (m.mt + m.rd (R.CE_SLOT_LAT_L s)) (m.slotOuts s)
  else m.slotOff s

/-- STOP acts; source 76 is raised where the slot was an outer loop (R182, R199). -/
theorem Mach.slotHalt_eq : ∃ b : Bool, m.slotHalt s = if b then (m.stopped s).raise 76 0 s 0 else m.stopped s := by
  refine ⟨(List.range 160).any fun t => m.runs t && (m.bindings t).any (·.1 == s.val), ?_⟩
  unfold Mach.slotHalt Mach.stopped
  dsimp only
  rw [← Mach.slotOff]
  by_cases h : m.slotField s < 16
  · rw [dif_pos h, dif_pos h, Mach.dacsOff]
    cases (m.slotOff s).rdf (R.FE_LCH_CTRL_PMODE (m.slotField s)) == 1 <;> rfl
  · rw [dif_neg h, dif_neg h]

theorem Mach.dacsOff_frame (n : Fin 16) (due : Nat) (ps : List Nat) :
    ∃ l, m.dacsOff n due ps = { m with stages := l } := by
  unfold Mach.dacsOff
  obtain ⟨x, hx⟩ := m.pushZero_frame due (ps.contains 512) (.gxc n)
  obtain ⟨y, hy⟩ := Mach.pushZero_frame { m with stages := x } due (ps.contains 513) (.gyc n)
  obtain ⟨z, hz⟩ := Mach.pushZero_frame { m with stages := y } due (ps.contains 514) (.gzc n)
  rw [hx, hy, hz]
  exact Mach.pushZero_frame ..

/-- Of the stages that the statement on STOP speaks of: GXC and LPWR go to code 0 where driven, gates stand. -/
theorem Mach.dacsOff_stage (n : Fin 16) (due : Nat) (ps : List Nat) :
    (m.dacsOff n due ps).stage (.gxc n) =
      (if ps.contains 512 then (m.stage (.gxc n)).push 4 ⟨due, .dac 0⟩ else m.stage (.gxc n)) ∧
    (m.dacsOff n due ps).stage (.lpwr n) =
      (if ps.contains 515 ∧ m.rdf (R.FE_LCH_CTRL_PMODE n) = 1 then (m.stage (.lpwr n)).push 4 ⟨due, .dac 0⟩
        else m.stage (.lpwr n)) ∧
    ∀ g : Fin 16, (m.dacsOff n due ps).stage (.gate g) = m.stage (.gate g) := by
  unfold Mach.dacsOff
  refine ⟨?_, ?_, fun g => ?_⟩
  · simp (disch := simp) only [Mach.pushZero_ne, Mach.pushZero_same, stageDepth]
  · simp (disch := simp) only [Mach.pushZero_ne, Mach.pushZero_same, stageDepth, Bool.and_eq_true, beq_iff_eq, and_comm]
  · simp (disch := simp) only [Mach.pushZero_ne]

theorem Mach.wr_frame (r : RF) (v : Nat) : ∃ g, m.wr r v = { m with regs := g } := ⟨_, rfl⟩

theorem Mach.slotOff_frame : ∃ g, m.slotOff s =
    { m with slot := m.slot.set s { m.slot[s] with stopAt := none }, regs := g } := by
  obtain ⟨g, hg⟩ := m.wr_frame (R.CE_SLOT_STATUS_STATE s) 0
  unfold Mach.slotOff Mach.showLoad
  dsimp only
  rw [hg]
  generalize ({ m with regs := g } : Mach).rd (R.CE_SLOT_CFG_CORE s) = c
  generalize ({ m with regs := g } : Mach).coreLoad c = v
  obtain ⟨g', hg'⟩ := ({ m with regs := g } : Mach).wr_frame (R.CE_CORE_LOAD c) v
  rw [hg']
  exact ⟨g', rfl⟩

/-- Slots and stages are no registers. -/
theorem Mach.setSlot_word (x : Slot) (l : List (Edge × Stage)) (a : Nat) :
    ({ m.setSlot s x with stages := l } : Mach).word a = m.word a := rfl

theorem Mach.stopped_frame : ∃ l, m.stopped s = { m.slotOff s with stages := l } := by
  unfold Mach.stopped
  split
  · exact Mach.dacsOff_frame ..
  · exact ⟨_, rfl⟩

/-- STOP acts: its slot's record, registers, stages and a report (R182). -/
theorem Mach.slotHalt_frame : ∃ g l o c, m.slotHalt s =
    { m with slot := m.slot.set s { m.slot[s] with stopAt := none }, regs := g, stages := l, out := o, cbk := c } := by
  obtain ⟨b, he⟩ := m.slotHalt_eq s
  obtain ⟨l, hl⟩ := m.stopped_frame s
  obtain ⟨g, hg⟩ := m.slotOff_frame s
  rw [he, hl, hg]
  cases b <;> exact ⟨_, _, _, _, rfl⟩

/-- Of STATUS only STATE is written. -/
theorem Mach.slotHalt_status :
    (m.slotHalt s).word (R.CE_SLOT_STATUS_STATE s).a =
      (m.wr (R.CE_SLOT_STATUS_STATE s) 0).word (R.CE_SLOT_STATUS_STATE s).a := by
  obtain ⟨b, he⟩ := m.slotHalt_eq s
  obtain ⟨l, hl⟩ := m.stopped_frame s
  have hraise : (if b then (m.stopped s).raise 76 0 s 0 else m.stopped s).word (R.CE_SLOT_STATUS_STATE s).a =
      (m.stopped s).word (R.CE_SLOT_STATUS_STATE s).a := by
    split
    · exact Mach.raise_word_ne ((slotReg_status s).notMem_raiseRegs (by decide))
    · rfl
  have hcore := (m.wr (R.CE_SLOT_STATUS_STATE s) 0).core_lt s
  rw [he, hraise, hl]
  unfold Mach.slotOff Mach.showLoad
  dsimp only
  generalize m.wr (R.CE_SLOT_STATUS_STATE s) 0 = t at hcore ⊢
  rw [Mach.setSlot_word, t.wr_word_ne]
  simp only [R.CE_SLOT_STATUS_STATE, R.CE_CORE_LOAD]
  omega

/-- STOP has acted: the slot is OFF, and its banks stand. -/
theorem Mach.slotHalt_rd : (m.slotHalt s).rd (R.CE_SLOT_STATUS_STATE s) = 0 ∧
    (m.slotHalt s).rd (R.CE_SLOT_STATUS_ACTBANK s) = m.rd (R.CE_SLOT_STATUS_ACTBANK s) ∧
    (m.slotHalt s).rd (R.CE_SLOT_STATUS_SWPEND s) = m.rd (R.CE_SLOT_STATUS_SWPEND s) := by
  have hword := m.slotHalt_status s
  have hrd (r : RF) (h : r.a = (R.CE_SLOT_STATUS_STATE s).a) :
      (m.slotHalt s).rd r = (m.wr (R.CE_SLOT_STATUS_STATE s) 0).rd r := Mach.rd_congr (h ▸ hword)
  rw [hrd (R.CE_SLOT_STATUS_STATE s) rfl, hrd (R.CE_SLOT_STATUS_ACTBANK s) rfl, hrd (R.CE_SLOT_STATUS_SWPEND s) rfl]
  exact ⟨rrd_wr_same (by omega) (by omega), rrd_wr_above (by omega) (by omega) (by omega),
    rrd_wr_above (by omega) (by omega) (by omega)⟩

/-- The stages of the slot's field once STOP has acted (R182, R218). -/
theorem Mach.slotHalt_stage {n : Fin 16} (hn : m.slotField s = n) :
    (m.slotHalt s).stage (.gxc n) = (if (m.slotOuts s).contains 512 then
      (m.stage (.gxc n)).push 4 ⟨m.mt + m.rd (R.CE_SLOT_LAT_L s), .dac 0⟩ else m.stage (.gxc n)) ∧
    (m.slotHalt s).stage (.lpwr n) =
      (if (m.slotOuts s).contains 515 ∧ m.rdf (R.FE_LCH_CTRL_PMODE n) = 1 then
        (m.stage (.lpwr n)).push 4 ⟨m.mt + m.rd (R.CE_SLOT_LAT_L s), .dac 0⟩ else m.stage (.lpwr n)) ∧
    ∀ g : Fin 16, (m.slotHalt s).stage (.gate g) = m.stage (.gate g) := by
  have hlt : m.slotField s < 16 := hn ▸ n.isLt
  have hfin : (⟨m.slotField s, hlt⟩ : Fin 16) = n := Fin.ext hn
  have hstopped : m.stopped s = (m.slotOff s).dacsOff n (m.mt + m.rd (R.CE_SLOT_LAT_L s)) (m.slotOuts s) :=
    (dif_pos hlt).trans (congrArg (fun f => (m.slotOff s).dacsOff f _ _) hfin)
  obtain ⟨b, he⟩ := m.slotHalt_eq s
  have hraise : (if b then (m.stopped s).raise 76 0 s 0 else m.stopped s).stages = (m.stopped s).stages := by
    cases b <;> rfl
  obtain ⟨g, hoff⟩ := m.slotOff_frame s
  have hstage (e : Edge) : (m.slotOff s).stage e = m.stage e := stage_congr (by rw [hoff]) e
  have hmode : (m.slotOff s).rdf (R.FE_LCH_CTRL_PMODE n) = m.rdf (R.FE_LCH_CTRL_PMODE n) := by
    rw [hoff]
    rfl
  obtain ⟨hx, hl, hg⟩ := (m.slotOff s).dacsOff_stage n (m.mt + m.rd (R.CE_SLOT_LAT_L s)) (m.slotOuts s)
  rw [hstage] at hx
  rw [hstage, hmode] at hl
  have hall (e : Edge) : (m.slotHalt s).stage e = (m.stopped s).stage e := stage_congr (by rw [he, hraise]) e
  rw [hall, hall, hstopped]
  exact ⟨hx, hl, fun g => by rw [hall, hstopped, hg, hstage]⟩

end

/-! ## A sample instant -/

section
variable {m : Mach} {s : Fin 160}

theorem Mach.takeSample_halts (r : Option PoolRec) (h : (m.swapAt s).slot[s].stopAt.isSome = true) :
    m.takeSample s r = (m.swapAt s).slotHalt s := if_pos h

/-- The execution that a sample calls for (R181, R194). -/
def Mach.sampleRec (m : Mach) (s : Fin 160) (r : Option PoolRec) : ExecRec :=
  ⟨m.mt, if m.frameSlot s then m.mt else m.mt + 240, m.slotDue s, m.sampleIns s r⟩

theorem Mach.sampleRec_periodic (r : Option PoolRec) (h : m.frameSlot s = false) :
    m.sampleRec s r = ⟨m.mt, m.mt + 240, m.mt + m.rd (R.CE_SLOT_LAT_L s), m.sampleIns s r⟩ := by
  have hdue : m.slotDue s = m.mt + m.rd (R.CE_SLOT_LAT_L s) := if_neg (by simp [h])
  unfold Mach.sampleRec
  rw [hdue, h]
  rfl

/-- A slot whose execution is queued. -/
def Mach.sampled (m : Mach) (s : Fin 160) (r : Option PoolRec) : Mach :=
  { m.setSlot s { m.slot[s] with exec := m.slot[s].exec ++ [m.sampleRec s r], lastTk := some m.mt } with
    free := m.free + 4 }

theorem Mach.takeSample_queues (r : Option PoolRec) (h : (m.swapAt s).slot[s].stopAt.isSome = false) :
    m.takeSample s r = (m.swapAt s).sampled s r := if_neg (Bool.eq_false_iff.mp h)

theorem Mach.sampled_slot (r : Option PoolRec) : (m.sampled s r).slot[s] =
    { m.slot[s] with exec := m.slot[s].exec ++ [m.sampleRec s r], lastTk := some m.mt } := set_fin_self ..

/-- A sample instant is one of a periodic slot in RUN (R179). -/
theorem Mach.sampleDue_runs (h : m.sampleDue s = true) :
    m.rd (R.CE_SLOT_STATUS_STATE s) = 1 ∧ m.frameSlot s = false := by
  unfold Mach.sampleDue Mach.runs at h
  simp only [Bool.and_eq_true, beq_iff_eq, Bool.not_eq_true'] at h
  obtain ⟨⟨⟨⟨hruns, hframe⟩, -⟩, -⟩, -⟩ := h
  exact ⟨hruns, hframe⟩

theorem Mach.slotSample_due (h : m.sampleDue s = true) : m.slotSample s = m.takeSample s none := if_pos h

/-- A swap requested 400 ticks before acts first; then STOP or the sample (R202). -/
theorem Mach.swapSample_shows {q : Nat} (h : m.sampleDue s = true) (hq : m.slot[s].swapReq = some q)
    (hle : q + 400 ≤ m.mt) {t : Mach} (ht : t = m.takeSample s none) :
    t.rd (R.CE_SLOT_STATUS_ACTBANK s) = 1 - m.rd (R.CE_SLOT_STATUS_ACTBANK s) ∧
    t.rd (R.CE_SLOT_STATUS_SWPEND s) = 0 ∧ t.slot[s].swapReq = none ∧
    t.rd (R.CE_SLOT_STATUS_STATE s) = (if m.slot[s].stopAt.isSome then 0 else 1) := by
  obtain ⟨hrun, -⟩ := Mach.sampleDue_runs h
  obtain ⟨hbank, hpend, hstate, hreq, hstop⟩ := m.swapNow_shows s
  have hhalts := m.takeSample_halts (s := s) none
  have hqueues := m.takeSample_queues (s := s) none
  rw [Mach.swapAt_due hq hle, hstop] at hhalts hqueues
  generalize m.swapNow s = w at hhalts hqueues hbank hpend hstate hreq
  cases hs : m.slot[s].stopAt.isSome with
  | true =>
    obtain ⟨hoff, hbank', hpend'⟩ := w.slotHalt_rd s
    obtain ⟨g, l, o, c, hframe⟩ := w.slotHalt_frame s
    rw [ht, hhalts hs]
    refine ⟨hbank'.trans hbank, hpend'.trans hpend, ?_, hoff⟩
    rw [hframe]
    exact (congrArg Slot.swapReq (set_fin_self w.slot s _)).trans hreq
  | false =>
    rw [ht, hqueues hs]
    refine ⟨hbank, hpend, ?_, hstate.trans hrun⟩
    rw [Mach.sampled_slot]
    exact hreq

end

end Sys2Proof.Machine
end

section
/-! PROOF. The statement on samples and executions of a slot (R55, R60, R179, R181, R182, R194 to R196, R202, R218). -/
namespace Sys2Proof.Machine

section
variable {s : State} {dt : Nat} {k : Fin 160} {m : Mach} (hm : m = s.at dt)
include hm

/-- A sample instant without STOP or swap: the inputs are taken, and an execution is queued (R181). -/
theorem slotSample_queues (h : m.sampleDue k = true) (hstop : m.slot[k].stopAt = none)
    (hswap : m.slot[k].swapReq = none) : Answers (.slotSample dt k) s fun t =>
      t.slot[k] = { m.slot[k] with
        exec := m.slot[k].exec ++ [⟨m.mt, m.mt + 240, m.mt + m.rd (R.CE_SLOT_LAT_L k), m.sampleIns k none⟩]
        lastTk := some m.mt } ∧
      (∀ j, j ≠ k → t.slot[j] = m.slot[j]) ∧ t = { m with slot := t.slot, free := m.free + 4 } := by
  obtain ⟨-, hframe⟩ := Mach.sampleDue_runs h
  have hat := Mach.swapAt_none hswap
  have ht : m.slotSample k = m.sampled k none := by
    rw [Mach.slotSample_due h, Mach.takeSample_queues none (by rw [hat, hstop]; rfl), hat]
  have hslot := m.sampled_slot (s := k) none
  rw [Mach.sampleRec_periodic none hframe] at hslot
  subst hm
  exact answers_of rfl ht ⟨hslot, fun j hj => set_fin_ne _ _ hj, rfl⟩

/-- A sample instant at which STOP acts (R182, R218). -/
theorem slotSample_stops {n : Fin 16} (h : m.sampleDue k = true) (hstop : m.slot[k].stopAt.isSome = true)
    (hswap : m.slot[k].swapReq = none) (hn : m.slotField k = n) : Answers (.slotSample dt k) s fun t =>
      t.rd (R.CE_SLOT_STATUS_STATE k) = 0 ∧ t.slot[k] = { m.slot[k] with stopAt := none } ∧
      (t.stage (.gxc n) = if (m.slotOuts k).contains 512 then
        (m.stage (.gxc n)).push 4 ⟨m.mt + m.rd (R.CE_SLOT_LAT_L k), .dac 0⟩ else m.stage (.gxc n)) ∧
      (t.stage (.lpwr n) = if (m.slotOuts k).contains 515 ∧ m.rdf (R.FE_LCH_CTRL_PMODE n) = 1 then
        (m.stage (.lpwr n)).push 4 ⟨m.mt + m.rd (R.CE_SLOT_LAT_L k), .dac 0⟩ else m.stage (.lpwr n)) ∧
      (∀ j, j ≠ k → t.slot[j] = m.slot[j]) ∧ (∀ g : Fin 16, t.stage (.gate g) = m.stage (.gate g)) ∧
      t = { m with slot := t.slot, regs := t.regs, stages := t.stages, out := t.out, cbk := t.cbk } := by
  have hat := Mach.swapAt_none hswap
  have ht : m.slotSample k = m.slotHalt k := by
    rw [Mach.slotSample_due h, Mach.takeSample_halts none (by rwa [hat]), hat]
  obtain ⟨hoff, -⟩ := m.slotHalt_rd k
  obtain ⟨hx, hl, hg⟩ := m.slotHalt_stage k hn
  obtain ⟨g, l, o, c, hframe⟩ := m.slotHalt_frame k
  have hslot : (m.slotHalt k).slot = m.slot.set k { m.slot[k] with stopAt := none } := by rw [hframe]
  subst hm
  refine answers_of rfl ht ⟨hoff, ?_, hx, hl, fun j hj => ?_, hg, ?_⟩
  · rw [hslot]
    exact set_fin_self ..
  · rw [hslot]
    exact set_fin_ne _ _ hj
  · rw [hframe]

end

/-! ## An execution dropped (R181, R195, R196) -/

/-- The oldest execution of a slot is gone, and the watch of its core notes a miss. -/
def Mach.dropped (m : Mach) (k : Fin 160) (rest : List ExecRec) : Mach :=
  (m.setSlot k { m.slot[k] with exec := rest }).noteSlack (m.rd (R.CE_SLOT_CFG_CORE k)) 0 true

section
variable (m : Mach) (k : Fin 160) (rest : List ExecRec)

theorem Mach.dropped_engines : (m.setSlot k { m.slot[k] with exec := rest }).EnginesAs (m.dropped k rest) :=
  Mach.noteSlack_engines ..

theorem Mach.dropped_rd (r : RF) : (m.dropped k rest).rd r = m.rd r := rfl

theorem Mach.dropped_sregs : (m.dropped k rest).sregs k = m.sregs k := rfl

/-- A drop with CONSEC still below K: a miss, and state and outputs stand. -/
theorem Mach.dropped_misses (hk : m.rd (R.CE_SLOT_STATUS_CONSEC k) + 1 < max 1 (m.rd (R.CE_SLOT_CFG_K k))) {t : Mach}
    (ht : t = (m.dropped k rest).slotMiss k false) :
    t.slot = m.slot.set k { m.slot[k] with exec := rest } ∧ t.rd (R.CE_SLOT_STATUS_OVR k) = 1 ∧
    t.rd (R.CE_SLOT_STATUS_CONSEC k) = min 15 (m.rd (R.CE_SLOT_STATUS_CONSEC k) + 1) ∧ t.sregs k = m.sregs k ∧
    t.stages = m.stages ∧ t.fe = m.fe ∧ t.pins = m.pins ∧ t.mem = m.mem ∧ t.axis = m.axis := by
  obtain ⟨hconsec, hovr⟩ := (m.dropped k rest).slotMiss_consec k false
  rw [← m.dropped_rd k rest, ← m.dropped_rd k rest (R.CE_SLOT_CFG_K k)] at hk
  have hbelow := Mach.slotMiss_below _ k false hk
  have heng := (m.dropped_engines k rest).trans ((m.dropped k rest).missed_engines k false)
  have hstate := ((m.dropped k rest).missed_sregs k false k).trans (m.dropped_sregs k rest)
  rw [← hbelow, ← ht] at heng hstate
  rw [← ht] at hconsec hovr
  exact ⟨heng.slot, hovr, hconsec, hstate, heng.stages, heng.fe, heng.pins, heng.mem, heng.axis⟩

/-- A drop with which CONSEC reaches K: the slot's field is in fail-safe with LOOPMISS. -/
theorem Mach.dropped_faults {n : Fin 16} (hn : m.slotField k = n) (hf : m.inFs n = false)
    (hk : m.rd (R.CE_SLOT_STATUS_CONSEC k) + 1 = max 1 (m.rd (R.CE_SLOT_CFG_K k))) {t : Mach}
    (ht : t = (m.dropped k rest).slotMiss k false) :
    t.inFs n = true ∧ t.rd (R.FE_FAULT_CAUSE n) = 0x28 ∧ t.Dark n ∧
    t.slot = m.slot.set k { m.slot[k] with exec := rest, missed := true } := by
  have hreaches := (m.dropped k rest).slotMiss_reaches k false hk
  have hfs : ((m.dropped k rest).missed k false).inFs n = false := ((m.dropped k rest).missed_inFs k false n).trans hf
  have hslot := ((m.dropped_engines k rest).trans ((m.dropped k rest).missed_engines k false)).slot
  have hfield : ((m.dropped k rest).missed k false).slotField k = n := by
    refine (Mach.rd_congr (Mach.missed_slotWord _ k false (spared_field k).1 ?_ ?_)).trans hn
    · simp only [R.CE_SLOT_CFG_FIELD, R.CE_SLOT_MISS_MISS]
      omega
    · simp only [R.CE_SLOT_CFG_FIELD, R.CE_SLOT_STATUS_OVR]
      omega
  obtain ⟨hin, hcause, hdark, hset⟩ := Mach.loopMiss_field hfield hfs
  rw [← hreaches, ← ht] at hin hcause hdark hset
  refine ⟨hin, hcause, hdark, ?_⟩
  have hself : (m.setSlot k { m.slot[k] with exec := rest }).slot = m.slot.set k { m.slot[k] with exec := rest } := rfl
  rw [hset, hslot, hself, set_fin_self, Vector.set_set]

end

/-- Settles O26: a sample by STOP and swap, a completion by whether it is late or out of order, a drop by CONSEC. -/
theorem slotSamplesAndExecutions : Obligations.SlotSamplesAndExecutions := by
  rintro s dt k m x hm rfl
  refine ⟨fun h => ?_,
    fun h => ⟨slotSample_queues hm h, fun q hq hle => ?_, fun n hs hq hn => slotSample_stops hm h hs hq hn⟩,
    fun h => ?_, fun h => ?_, fun e rest hexec hr => ⟨fun hd hv => ?_, fun hd hk => ?_⟩,
    fun e rest hexec hd hr => ⟨fun hk => ?_, fun n hn hf hk => ?_⟩⟩
  · have ht : m.slotSample k = m := if_neg (Bool.eq_false_iff.mp h)
    subst hm
    exact answers_of rfl ht rfl
  · have hshown := Mach.swapSample_shows h hq hle rfl
    have ht := Mach.slotSample_due h
    subst hm
    exact answers_of rfl ht hshown
  · subst hm
    exact answers_of rfl (Mach.execComplete_none h) rfl
  · subst hm
    exact answers_of rfl (Mach.execDrop_none h) rfl
  · have hshown := Mach.onTime_shows hexec (Mach.execComplete_onTime hexec hr hd hv)
    subst hm
    exact answers_of rfl rfl hshown
  · obtain ⟨hrest, hdone, hovr, hmiss, hconsec, hlate, horder, hevt⟩ :=
      Mach.missed_shows hexec hk (Mach.execComplete_missed hexec hr hd)
    have hbit : bool01 (!decide (e.due < m.mt + 40)) = if e.due < m.mt + 40 then 0 else 1 := by
      by_cases h : e.due < m.mt + 40 <;> simp [h, bool01]
    rw [hbit] at horder
    subst hm
    exact answers_of rfl rfl ⟨hrest, hdone, hovr, hmiss, hconsec, hlate, horder, hevt⟩
  · have hshown := m.dropped_misses k rest hk rfl
    have ht := Mach.execDrop_misses hexec hr hd
    subst hm
    exact answers_of rfl ht hshown
  · have hshown := m.dropped_faults k rest hn hf hk rfl
    have ht := Mach.execDrop_misses hexec hr hd
    subst hm
    exact answers_of rfl ht hshown

end Sys2Proof.Machine
end


section
/-! PROOF. What a fault of a field leaves of its laser channel, and that it ends dark whether the field was in
fail-safe before or not (R223 to R225, R469, R490). -/
namespace Sys2Proof.Machine

/-- A register of the laser channel other than COUT: no fault writes one. -/
def LchReg (n : Fin 16) (a : Nat) : Prop :=
  0x804000 + n * 0x40000 ≤ a ∧ a < 0x805000 + n * 0x40000 ∧ a ≠ (R.FE_LCH_COUT n).a

section
variable {n : Fin 16}

theorem lchReg_status : LchReg n (R.FE_LCH_STATUS_ALM n).a := by
  simp only [LchReg, R.FE_LCH_STATUS_ALM, R.FE_LCH_COUT]
  omega

theorem LchReg.notMem_raiseRegs {a : Nat} (h : LchReg n a) {src : Nat} (hs : src < 256) : a ∉ raiseRegs src := by
  obtain ⟨hlo, hhi, -⟩ := h
  simp only [raiseRegs, R.HS_EVT_PEND, R.HSQ_PBA, R.CBK_QLEVEL_QMAX, R.CBK_ANGEL, List.mem_cons, List.not_mem_nil,
    or_false]
  omega

theorem Lch.pin_alm (l : Lch) (t : Nat) (v : Bool) : (l.pin t v).alm = l.alm :=
  (apply_ite Lch.alm ..).trans (ite_self _)

theorem Lch.dark_alm (l : Lch) (t : Nat) : (l.dark t).alm = l.alm := l.pin_alm t false

theorem Lch.setGint_alm (l : Lch) (t : Nat) (v : Bool) : (l.setGint t v).alm = l.alm := by
  unfold Lch.setGint
  dsimp only
  split <;> rfl

end

section
variable (m : Mach) (n : Fin 16) (cause : Nat) (byctx doubt : Bool)

/-! ## The registers of the channel -/

theorem Mach.dwellEnd_lchWord {a : Nat} (h : LchReg n a) : (m.dwellEnd n).word a = m.word a := by
  obtain ⟨hlo, hhi, -⟩ := h
  have hstuck (u : Mach) : (u.unstick n).word a = u.word a := by
    unfold Mach.unstick
    rw [Mach.wr64_word_ne _ _ _ _ (by simp only [R.FE_TRL_BOOK_LO]; omega) (by simp only [R.FE_TRL_BOOK_HI]; omega)]
    exact Mach.wr_word_ne _ _ (by simp only [R.TRL_STUCK]; omega)
  unfold Mach.dwellEnd Mach.dwellClose
  split
  · rfl
  · next t c _ =>
    have hclose (u : Mach) (v : Nat) : (u.wr64 (R.FE_DWELL_LO n c) (R.FE_DWELL_HI n c) v).word a = u.word a :=
      u.wr64_word_ne _ _ v (by simp only [R.FE_DWELL_LO]; omega) (by simp only [R.FE_DWELL_HI]; omega)
    dsimp only
    split
    · exact (hstuck _).trans (hclose ..)
    · exact hclose ..

theorem Mach.outputsSafe_lchWord {a : Nat} (h : LchReg n a) : (m.outputsSafe n doubt).word a = m.word a := by
  obtain ⟨hlo, -, hcout⟩ := h
  have hgen : a ≠ (R.SAF_FS_STATUS_GEN n).a := by
    simp only [R.SAF_FS_STATUS_GEN]
    omega
  rw [Mach.word, m.outputsSafe_regs, rget_rwr_ne hcout]
  cases doubt with
  | true => exact rget_rwr_ne hgen 0
  | false => rfl

/-- A fault that joins another: the alarm stands, and of the channel's registers COUT alone is written. -/
theorem Mach.joinCause_lch : (m.joinCause n cause doubt).fe[n].lch.alm = m.fe[n].lch.alm ∧
    ∀ a, LchReg n a → (m.joinCause n cause doubt).word a = m.word a := by
  obtain ⟨f, ws, hf, hws, he⟩ : ∃ f ws, f.lch = (m.outputsSafe n doubt).fe[n].lch ∧
      (∀ a, LchReg n a → ∀ p ∈ ws, a ≠ p.1.a) ∧ m.joinCause n cause doubt = m.faulted n doubt f ws := by
    refine ⟨_, _, ?_, fun a ha => ?_, rfl⟩
    · rfl
    obtain ⟨hlo, -, -⟩ := ha
    simp only [List.forall_mem_cons, R.SAF_FS_STATUS_CAUSE, R.FE_FAULT_CAUSE, R.SAF_FS_STATUS_RECOV,
      R.SAF_FS_STATUS_DOUBT]
    refine ⟨?_, ?_, ?_, ?_, fun _ h => absurd h List.not_mem_nil⟩ <;> omega
  have hlch : (m.outputsSafe n doubt).fe[n].lch = m.fe[n].lch.dark m.mt := congrArg Field.lch (set_fin_self ..)
  have hself : (m.faulted n doubt f ws).fe[n] = f := set_fin_self m.fe n f
  rw [he]
  refine ⟨?_, fun a ha => (rget_rwrs_ne ws _ (hws a ha)).trans (m.outputsSafe_lchWord n doubt ha)⟩
  rw [hself, hf, hlch, Lch.dark_alm]

/-- The entry into fail-safe: the channel goes dark with its gate, and of its registers COUT alone is written. -/
theorem Mach.enterFs_lch : (m.enterFs n cause byctx doubt).fe[n].lch.alm = m.fe[n].lch.alm ∧
    ∀ a, LchReg n a → (m.enterFs n cause byctx doubt).word a = m.word a := by
  obtain ⟨d, b, hd⟩ := (m.dwellEnd_dwellsOnly n).field
  have halm : (m.dwellEnd n).fe[n].lch.alm = m.fe[n].lch.alm := by rw [hd]
  refine ⟨?_, fun a ha => ?_⟩
  · show (Mach.raiseP _ _ _ _).fe[n].lch.alm = _
    rw [Mach.raiseP_fe]
    show ((m.dwellEnd n).fe.set n _)[n].lch.alm = _
    rw [set_fin_self]
    show (Lch.setGint _ _ _).alm = _
    rw [Lch.setGint_alm, Lch.dark_alm, halm]
  · obtain ⟨f, ws, p, hws, he⟩ : ∃ f ws p, (∀ p ∈ ws, a ≠ p.1.a) ∧
        m.enterFs n cause byctx doubt = ((m.dwellEnd n).faulted n doubt f ws).raiseP (80 + n) cause p := by
      refine ⟨_, _, _, ?_, rfl⟩
      obtain ⟨hlo, -, -⟩ := ha
      simp only [List.forall_mem_cons, R.FE_FAULT_CAUSE, R.FE_FAULT_CTX, R.FE_FAULT_BYCTX, R.FE_FAULT_PC_LO,
        R.FE_FAULT_PC_HI, R.SAF_FS_STATUS_FS, R.SAF_FS_STATUS_DOUBT, R.SAF_FS_STATUS_RECOV, R.SAF_FS_STATUS_WINEXP,
        R.SAF_FS_STATUS_LEDOK, R.SAF_FS_STATUS_CAUSE, R.SAF_FS_FAULT_MT_LO, R.SAF_FS_FAULT_MT_HI]
      refine ⟨?_, ?_, ?_, ?_, ?_, ?_, ?_, ?_, ?_, ?_, ?_, ?_, ?_, fun _ h => absurd h List.not_mem_nil⟩ <;> omega
    rw [he]
    calc (((m.dwellEnd n).faulted n doubt f ws).raiseP (80 + n) cause p).word a
      _ = ((m.dwellEnd n).faulted n doubt f ws).word a := Mach.raiseP_word_ne (ha.notMem_raiseRegs (by omega))
      _ = ((m.dwellEnd n).outputsSafe n doubt).word a := rget_rwrs_ne ws _ hws
      _ = (m.dwellEnd n).word a := Mach.outputsSafe_lchWord _ n doubt ha
      _ = m.word a := m.dwellEnd_lchWord n ha

theorem Mach.fieldFault_lch : (m.fieldFault n cause byctx doubt).fe[n].lch.alm = m.fe[n].lch.alm ∧
    ∀ a, LchReg n a → (m.fieldFault n cause byctx doubt).word a = m.word a := by
  unfold Mach.fieldFault
  split
  · exact m.joinCause_lch n cause doubt
  · exact m.enterFs_lch n cause byctx doubt

/-! ## The field after a fault -/

theorem Mach.faulted_dark (f : Field) (ws : List (RF × Nat)) : (m.faulted n doubt f ws).Dark n := by
  obtain ⟨g, p, hp, -, he⟩ := m.faulted_frame n doubt f ws
  unfold Mach.Dark
  rw [he]
  dsimp only
  rw [set_fin_self]
  exact hp

/-- A field in fail-safe to which a cause joins stays there. -/
theorem Mach.joinCause_inFs (h : m.inFs n = true) : (m.joinCause n cause doubt).inFs n = true := by
  obtain ⟨f, ws, -, hws, he⟩ := m.joinCause_eq n cause doubt
  have hcout : (R.SAF_FS_STATUS_FS n).a ≠ (R.FE_LCH_COUT n).a := by
    simp only [R.SAF_FS_STATUS_FS, R.FE_LCH_COUT]
    omega
  have hgen : rrd (if doubt then rwr m.regs (R.SAF_FS_STATUS_GEN n) 0 else m.regs) (R.SAF_FS_STATUS_FS n) =
      rrd m.regs (R.SAF_FS_STATUS_FS n) := by
    split
    · exact rrd_wr_below (by omega) (by omega) (by omega)
    · rfl
  rw [he, Mach.inFs_iff, m.faulted_regs, rrd_rwrs_apart (show 0 < 32 by decide) ws _ fun p hp => (hws p hp).2,
    m.outputsSafe_regs, rrd_rwr_ne _ _ _ hcout, hgen]
  exact Mach.inFs_iff.mp h

/-- R469, R471: a fault leaves its field in fail-safe with dark laser outputs. -/
theorem Mach.fieldFault_dark : (m.fieldFault n cause byctx doubt).inFs n = true ∧
    (m.fieldFault n cause byctx doubt).Dark n := by
  unfold Mach.fieldFault
  split
  · next h =>
    refine ⟨m.joinCause_inFs n cause doubt h, ?_⟩
    obtain ⟨f, ws, -, -, he⟩ := m.joinCause_eq n cause doubt
    rw [he]
    exact m.faulted_dark n doubt f ws
  · obtain ⟨f, ws, p, -, -, hfs, he⟩ := m.enterFs_eq n cause byctx doubt
    obtain ⟨-, hnfs⟩ := faultReport_raise n
    rw [he]
    refine ⟨Mach.inFs_iff.mpr ((Mach.rd_congr (Mach.raiseP_word_ne hnfs)).trans (hfs _)), ?_⟩
    unfold Mach.Dark
    rw [Mach.raiseP_pins]
    exact (m.dwellEnd n).faulted_dark n doubt f ws

/-- A fault of a field is none of memory's or of an axis's. -/
theorem Mach.fieldFault_frame : (m.fieldFault n cause byctx doubt).mem = m.mem ∧
    (m.fieldFault n cause byctx doubt).axis = m.axis := by
  unfold Mach.fieldFault
  split
  · obtain ⟨f, ws, -, -, he⟩ := m.joinCause_eq n cause doubt
    obtain ⟨g, q, -, -, hframe⟩ := m.faulted_frame n doubt f ws
    rw [he, hframe]
    exact ⟨rfl, rfl⟩
  · obtain ⟨f, ws, p, -, -, -, he⟩ := m.enterFs_eq n cause byctx doubt
    obtain ⟨g, q, -, -, hframe⟩ := (m.dwellEnd n).faulted_frame n doubt f ws
    rw [he, Mach.raiseP_mem, Mach.raiseP_axis, hframe, (m.dwellEnd_dwellsOnly n).2]
    exact ⟨rfl, rfl⟩

/-- R471: a fault of a field that was not in fail-safe shows its cause, and raises the field's source. -/
theorem Mach.fieldFault_reports {cause : Nat} (hc : cause < 256) (hf : m.inFs n = false) :
    (m.fieldFault n cause byctx doubt).rd (R.FE_FAULT_CAUSE n) = cause ∧
    (m.fieldFault n cause byctx doubt).evt (80 + n) = 1 := by
  have hfault : m.fieldFault n cause byctx doubt = m.enterFs n cause byctx doubt := if_neg (by simp [hf])
  obtain ⟨-, hcause, -⟩ := m.enterFs_shows n hc byctx doubt
  obtain ⟨f, ws, p, -, -, -, he⟩ := m.enterFs_eq n cause byctx doubt
  refine ⟨hfault ▸ hcause, ?_⟩
  rw [hfault, he]
  exact Mach.raiseP_pend (by omega)

end

end Sys2Proof.Machine
end

section
/-! PROOF. Power codes of the laser channel, and its held settings (R215, R218, R220). -/
namespace Sys2Proof.Machine

section
variable (m : Mach) (n : Fin 16)

/-! ## A power code -/

/-- The code at LPWR_n for a code of the chain: 0 in fail-safe, else held to 0 and LIMIT (R215, R469). -/
def Mach.powerOut (c : Int) : Int := if m.outSafe n then 0 else m.outCode n c

/-- The clamp acts while the gate is on (R215). -/
def Mach.clamps (c : Int) : Bool := !m.outSafe n && m.powerOut n c != c && m.fe[n].lch.gintAt' m.mt

/-- The laser's record with a code presented at an instant. -/
def Lch.presented (l : Lch) (t o : Nat) : Lch := { l with coutHist := (t, o) :: keepHist t l.coutHist }

theorem Mach.presentPower_eq (c : Int) : m.presentPower n c =
    { m with
      fe := m.fe.set n { m.fe[n] with lch := m.fe[n].lch.presented m.mt (m.powerOut n c).toNat }
      pins := m.pins.set n { m.pins[n] with lpwr := BitVec.ofInt 20 (m.powerOut n c) }
      regs := rwr (if m.clamps n c then rinc m.regs (R.FE_LCH_CLAMPN n) else m.regs) (R.FE_LCH_COUT n)
        (m.powerOut n c).toNat } := rfl

/-- LIMIT has 19 bits, as COUT has. -/
theorem Mach.powerOut_lt (c : Int) : (m.powerOut n c).toNat < 2 ^ 19 := by
  have hlimit : m.rdf (R.FE_LCH_LIMIT n) < 2 ^ 19 := rrd_lt (R.FE_LCH_LIMIT n).a 18 0
  unfold Mach.powerOut Mach.outCode
  split <;> omega

theorem Mach.powerOut_zero : m.powerOut n 0 = 0 := by
  unfold Mach.powerOut Mach.outCode
  split <;> omega

/-- Code 0 is never clamped. -/
theorem Mach.clamps_zero : m.clamps n 0 = false := by
  simp [Mach.clamps, m.powerOut_zero n]

theorem Mach.clamps_iff (c : Int) : m.clamps n c = true ↔
    m.outSafe n = false ∧ m.powerOut n c ≠ c ∧ m.fe[n].lch.gintAt' m.mt = true := by
  simp [Mach.clamps, and_assoc]

theorem Mach.presentPower_cout (c : Int) : (m.presentPower n c).rd (R.FE_LCH_COUT n) = (m.powerOut n c).toNat :=
  (rrd_rwr_same (R.FE_LCH_COUT n) _ (Nat.zero_le _) (show 18 < 32 by decide)).trans
    (Nat.mod_eq_of_lt (m.powerOut_lt n c))

theorem Mach.presentPower_clampn (c : Int) : (m.presentPower n c).rd (R.FE_LCH_CLAMPN n) =
    if m.clamps n c then min (m.rd (R.FE_LCH_CLAMPN n) + 1) (2 ^ 32 - 1) else m.rd (R.FE_LCH_CLAMPN n) := by
  have hcout : (R.FE_LCH_CLAMPN n).a ≠ (R.FE_LCH_COUT n).a := by simp [R.FE_LCH_CLAMPN, R.FE_LCH_COUT]
  rw [Mach.rd, m.presentPower_eq, rrd_rwr_ne _ _ _ hcout]
  cases m.clamps n c with
  | true =>
    rw [if_pos rfl, if_pos rfl]
    exact rrd_rinc_word ..
  | false =>
    rw [if_neg Bool.false_ne_true, if_neg Bool.false_ne_true]
    rfl

theorem Mach.presentPower_zero : m.presentPower n 0 =
    { m with
      fe := m.fe.set n { m.fe[n] with lch := m.fe[n].lch.presented m.mt 0 }
      pins := m.pins.set n { m.pins[n] with lpwr := 0 }
      regs := rwr m.regs (R.FE_LCH_COUT n) 0 } := by
  rw [m.presentPower_eq, m.powerOut_zero, m.clamps_zero]
  rfl

/-! ## A direct update -/

theorem Mach.directPower_away (h : m.mt % 400 ≠ 0 ∨ m.rdf (R.FE_LCH_CTRL_PMODE n) = 1) : m.directPower n = m := if_pos h

/-- The chain's code for the power planned PLEAD ahead, with the factors of 400 ticks before (R218, R237). -/
theorem Mach.directCode_eq : m.directCode n = m.chainOf n (m.planPower n (m.mt + m.plead n))
    (m.fe[n].lch.factAt (m.mt - 400)) (m.fe[n].lch.keffAt (m.fe[n].snapAt (m.mt - 400)) (m.mt - 400))
    (m.fe[n].lch.rho (m.mt - 400)) := rfl

theorem Mach.directPower_due (ht : m.mt % 400 = 0) (hp : m.rdf (R.FE_LCH_CTRL_PMODE n) = 0) :
    m.directPower n = (m.presentPower n (m.directCode n)).wr (R.FE_LCH_PWRMISS n) 0 :=
  if_neg (by simp [ht, hp])

/-! ## Held settings -/

/-- The settings that are held while a context is ACTIVE, as written (R220). -/
def Mach.heldWrites : List (RF × Nat) :=
  [(R.FE_LCH_CTRL_PMODE n, m.rd (R.FE_LCH_CTRL_PMODE n)), (R.FE_LCH_CTRL_LFEN n, m.rd (R.FE_LCH_CTRL_LFEN n)),
   (R.FE_LCH_FS n, m.rd (R.FE_LCH_FS n)), (R.FE_LCH_LIMIT n, m.rd (R.FE_LCH_LIMIT n))]

theorem Mach.lchForce_eq : m.lchForce n =
    { m with regs := rwr m.regs (R.FE_LCH_STATUS_PEND n) 0, force := rwrs m.force (m.heldWrites n) } := rfl

/-- Each held setting reads back from the settings in force. -/
theorem heldWrites_rd (g : Sparse Word) :
    rrd (rwrs g (m.heldWrites n)) (R.FE_LCH_CTRL_PMODE n) = m.rd (R.FE_LCH_CTRL_PMODE n) ∧
    rrd (rwrs g (m.heldWrites n)) (R.FE_LCH_CTRL_LFEN n) = m.rd (R.FE_LCH_CTRL_LFEN n) ∧
    rrd (rwrs g (m.heldWrites n)) (R.FE_LCH_FS n) = m.rd (R.FE_LCH_FS n) ∧
    rrd (rwrs g (m.heldWrites n)) (R.FE_LCH_LIMIT n) = m.rd (R.FE_LCH_LIMIT n) := by
  have hlt (a h l : Nat) : rrd m.regs ⟨a, h, l⟩ % 2 ^ (h + 1 - l) = rrd m.regs ⟨a, h, l⟩ := Nat.mod_eq_of_lt (rrd_lt a h l)
  refine ⟨(rrd_rwrs_written [] [_, _, _] g ?_ ?_ ?_).trans (hlt ..), (rrd_rwrs_written [_] [_, _] g ?_ ?_ ?_).trans (hlt ..),
    (rrd_rwrs_written [_, _] [_] g ?_ ?_ ?_).trans (hlt ..), (rrd_rwrs_written [_, _, _] [] g ?_ ?_ ?_).trans (hlt ..)⟩ <;>
  simp [RF.Apart, R.FE_LCH_CTRL_PMODE, R.FE_LCH_CTRL_LFEN, R.FE_LCH_FS, R.FE_LCH_LIMIT]

theorem heldWrites_others (g : Sparse Word) {a : Nat}
    (ha : a ∉ [(R.FE_LCH_CTRL_PMODE n).a, (R.FE_LCH_FS n).a, (R.FE_LCH_LIMIT n).a]) :
    rget (rwrs g (m.heldWrites n)) a = rget g a := by
  simp only [List.mem_cons, List.not_mem_nil, or_false, not_or] at ha
  obtain ⟨hctrl, hfs, hlimit⟩ := ha
  refine rget_rwrs_ne (m.heldWrites n) g ?_
  simp only [Mach.heldWrites, List.forall_mem_cons]
  exact ⟨hctrl, hctrl, hfs, hlimit, fun _ h => absurd h List.not_mem_nil⟩

/-- The ledger factor with the held settings in force: 1.0 where LFEN is 0 (R215, R221). -/
theorem Mach.lchForce_ledgerFactor : (m.lchForce n).ledgerFactor n =
    if m.rd (R.FE_LCH_CTRL_LFEN n) = 1 then m.rd (R.FE_LCH_LFAC n) else 32768 := by
  obtain ⟨-, hlfen, -⟩ := heldWrites_rd m n m.force
  have hlfac : rrd (rwr m.regs (R.FE_LCH_STATUS_PEND n) 0) (R.FE_LCH_LFAC n) = m.rd (R.FE_LCH_LFAC n) :=
    rrd_rwr_ne _ _ _ (by simp [R.FE_LCH_LFAC, R.FE_LCH_STATUS_PEND])
  rw [m.lchForce_eq]
  unfold Mach.ledgerFactor Mach.rdf
  dsimp only
  rw [hlfen]
  unfold Mach.rd at hlfac ⊢
  dsimp only
  rw [hlfac]

/-- Settings in force `f`, registers `g`, pins `p` and a field's laser record in the place of the module's own. -/
def Mach.laserSet (l : Lch) (g f : Sparse Word) (p : Vector FieldPins 16) : Mach :=
  { m with regs := g, force := f, pins := p, fe := m.fe.set n { m.fe[n] with lch := l } }

/-- The laser's record with a ledger factor in effect from an instant on. -/
def Lch.factored (l : Lch) (t k : Nat) : Lch := { l with facts := (t, k) :: keepHist t l.facts }

theorem Lch.factored_factAt (l : Lch) (t k : Nat) : (l.factored t k).factAt t = k := by
  simp [Lch.factAt, Lch.factored, inEffect]

theorem Mach.noteFact_lchForce : (m.lchForce n).noteFact n =
    m.laserSet n (m.fe[n].lch.factored m.mt ((m.lchForce n).ledgerFactor n)) (rwr m.regs (R.FE_LCH_STATUS_PEND n) 0)
      (rwrs m.force (m.heldWrites n)) m.pins := by
  unfold Mach.noteFact Mach.laserSet Lch.factored Mach.setField
  rw [m.lchForce_eq]

theorem Mach.laserSet_presentPower (l : Lch) (g f : Sparse Word) (p : Vector FieldPins 16) :
    (m.laserSet n l g f p).presentPower n 0 = m.laserSet n (l.presented m.mt 0) (rwr g (R.FE_LCH_COUT n) 0) f
      (p.set n { p[n] with lpwr := 0 }) := by
  rw [Mach.presentPower_zero]
  unfold Mach.laserSet
  dsimp only
  rw [set_fin_self, Vector.set_set]

theorem Mach.laserSet_rdf (l : Lch) (g f : Sparse Word) (p : Vector FieldPins 16) (r : RF) :
    (m.laserSet n l g f p).rdf r = rrd f r := rfl

/-- On a change to trim mode code 0 is presented, and else the settings alone act (R218, R220). -/
theorem Mach.lchApply_eq : m.lchApply n =
    if m.rdf (R.FE_LCH_CTRL_PMODE n) = 0 ∧ m.rd (R.FE_LCH_CTRL_PMODE n) = 1 then
      ((m.lchForce n).noteFact n).presentPower n 0 else (m.lchForce n).noteFact n := by
  obtain ⟨hpmode, -⟩ := heldWrites_rd m n m.force
  have hforce : ((m.lchForce n).noteFact n).rdf (R.FE_LCH_CTRL_PMODE n) = m.rd (R.FE_LCH_CTRL_PMODE n) := by
    rw [m.noteFact_lchForce, m.laserSet_rdf]
    exact hpmode
  unfold Mach.lchApply
  dsimp only
  rw [hforce]

/-- What the held settings leave as they act: of the registers PEND and COUT alone, and the pins unless the mode changes
to trim. -/
theorem Mach.lchApply_parts : ∃ l g p, m.lchApply n = m.laserSet n l g (rwrs m.force (m.heldWrites n)) p ∧
    l.factAt m.mt = (m.lchForce n).ledgerFactor n ∧
    (∀ a, a ∉ [(R.FE_LCH_STATUS_PEND n).a, (R.FE_LCH_COUT n).a] → rget g a = rget m.regs a) ∧
    rrd g (R.FE_LCH_STATUS_PEND n) = 0 ∧
    (m.rdf (R.FE_LCH_CTRL_PMODE n) = 0 → m.rd (R.FE_LCH_CTRL_PMODE n) = 1 →
      p = m.pins.set n { m.pins[n] with lpwr := 0 } ∧ rrd g (R.FE_LCH_COUT n) = 0) ∧
    (m.rdf (R.FE_LCH_CTRL_PMODE n) = 1 ∨ m.rd (R.FE_LCH_CTRL_PMODE n) = 0 → p = m.pins) := by
  have hpend : rrd (rwr m.regs (R.FE_LCH_STATUS_PEND n) 0) (R.FE_LCH_STATUS_PEND n) = 0 :=
    rrd_rwr_same _ 0 (Nat.le_refl 4) (show 4 < 32 by decide)
  have hcout : (R.FE_LCH_STATUS_PEND n).a ≠ (R.FE_LCH_COUT n).a := by simp [R.FE_LCH_STATUS_PEND, R.FE_LCH_COUT]
  have hfact := m.fe[n].lch.factored_factAt m.mt ((m.lchForce n).ledgerFactor n)
  rw [m.lchApply_eq, m.noteFact_lchForce, m.laserSet_presentPower]
  split
  · next h =>
    obtain ⟨hold, hnew⟩ := h
    refine ⟨_, _, _, rfl, hfact, fun a ha => ?_, (rrd_rwr_ne _ _ 0 hcout).trans hpend, fun _ _ => ⟨rfl, ?_⟩,
      fun hno => ?_⟩
    · simp only [List.mem_cons, List.not_mem_nil, or_false, not_or] at ha
      obtain ⟨hp, hc⟩ := ha
      exact (rget_rwr_ne hc 0).trans (rget_rwr_ne hp 0)
    · exact rrd_rwr_same _ 0 (Nat.zero_le 18) (show 18 < 32 by decide)
    · omega
  · next h =>
    refine ⟨_, _, _, rfl, hfact, fun a ha => ?_, hpend, fun hold hnew => absurd ⟨hold, hnew⟩ h, fun _ => rfl⟩
    simp only [List.mem_cons, List.not_mem_nil, or_false, not_or] at ha
    exact rget_rwr_ne ha.1 0

theorem Mach.lchPending_held (hp : m.on (R.FE_LCH_STATUS_PEND n) = true) (ha : m.fe[n].active = false) :
    m.lchPending n = m.lchApply n := if_pos (by rw [hp, ha]; rfl)

theorem Mach.lchPending_waits (h : m.on (R.FE_LCH_STATUS_PEND n) = false ∨ m.fe[n].active = true) :
    m.lchPending n = m := by
  unfold Mach.lchPending
  rcases h with h | h <;> rw [h]
  · rfl
  · rw [Bool.not_true, Bool.and_false]
    rfl

end

end Sys2Proof.Machine
end

section
/-! PROOF. The laser's inputs: alarm, ready and photodiode (R222 to R225), and the statement on the channel's commands. -/
namespace Sys2Proof.Machine

section
variable (m : Mach) (n : Fin 16)

/-! ## Alarm and ready -/

/-- LALM_n as seen from this instant on. -/
def Mach.alarmSeen (b : Bool) : Mach :=
  m.setField n { m.fe[n] with lch := { m.fe[n].lch with alm := b, almAt := some m.mt } }

/-- The alarm is shown and the gate is low, before the field faults. -/
def Mach.alarmShown : Mach := ((m.alarmSeen n true).gateLow n).wr (R.FE_LCH_STATUS_ALM n) 1

/-- LRDY_n as seen and shown from this instant on. -/
def Mach.readyShown (a : Bool) : Mach :=
  (m.setField n { m.fe[n] with lch := { m.fe[n].lch with rdy := a, rdyAt := some m.mt } }).wr (R.FE_LCH_STATUS_RDY n)
    (bool01 a)

theorem Mach.laserAlarm_unqualified (h : m.almQualified n = false) : m.laserAlarm n = m := if_pos (by rw [h]; rfl)

theorem Mach.laserAlarmOff_unqualified (h : m.almQualified n = false) : m.laserAlarmOff n = m := if_pos (by rw [h]; rfl)

theorem Mach.laserReady_unqualified (h : m.rdyQualified n = false) (a : Bool) : m.laserReady n a = m :=
  if_pos (by rw [h]; rfl)

theorem Mach.laserAlarm_qualified (h : m.almQualified n = true) :
    m.laserAlarm n = (m.alarmShown n).fieldFault n cLalm false false := if_neg (by simp [h])

theorem Mach.laserAlarmOff_qualified (h : m.almQualified n = true) :
    m.laserAlarmOff n = (m.alarmSeen n false).wr (R.FE_LCH_STATUS_ALM n) 0 := if_neg (by simp [h])

theorem Mach.laserReady_qualified (h : m.rdyQualified n = true) (a : Bool) : m.laserReady n a =
    if m.fe[n].lch.rdy && !a && m.fe[n].lch.gintAt' m.mt then (m.readyShown n a).fieldFault n cLrdy false false
    else m.readyShown n a := if_neg (by simp [h])

theorem Mach.alarmSeen_fe (b : Bool) : (m.alarmSeen n b).fe[n] =
    { m.fe[n] with lch := { m.fe[n].lch with alm := b, almAt := some m.mt } } := set_fin_self ..

theorem Mach.alarmShown_alm : (m.alarmShown n).fe[n].lch.alm = true := by
  show ((m.alarmSeen n true).fe.set n _)[n].lch.alm = true
  rw [set_fin_self]
  show (Lch.pin _ _ _).alm = true
  rw [Lch.pin_alm, m.alarmSeen_fe]

/-- A write of the channel's status does not touch the field's fail-safe state. -/
theorem Mach.status_inFs {r : RF} (hr : r.a = (R.FE_LCH_STATUS_ALM n).a) (v : Nat) : (m.wr r v).inFs n = m.inFs n := by
  refine congrArg (· == 1) (Mach.rd_congr (m.wr_word_ne v ?_))
  rw [hr]
  simp only [R.SAF_FS_STATUS_FS, R.FE_LCH_STATUS_ALM]
  omega

theorem status_rd {g : Sparse Word} {a k v : Nat} (hk : k < 32) (hv : v ≤ 1) : rrd (rwr g ⟨a, k, k⟩ v) ⟨a, k, k⟩ = v :=
  (rrd_wr_same (Nat.le_refl k) hk).trans (by rw [Nat.add_sub_cancel_left]; omega)

/-! ## Photodiode -/

/-- The check's count of failures, up to 255. -/
def Mach.pdCounted : Mach := m.wr (R.FE_LCH_STATUS_PDCNT n) (min (m.rd (R.FE_LCH_STATUS_PDCNT n) + 1) 255)

theorem Mach.pdCheck_idle (h : m.pdChecked n = false) : m.pdCheck n = m := if_pos (by rw [h]; rfl)

theorem Mach.pdCheck_good (h : m.pdChecked n = true) (hf : m.pdFails n = false) :
    m.pdCheck n = m.wr (R.FE_LCH_STATUS_PDCNT n) 0 := by
  unfold Mach.pdCheck
  rw [h, hf]
  rfl

theorem Mach.pdCheck_fails (h : m.pdChecked n = true) (hf : m.pdFails n = true) : m.pdCheck n =
    if m.rd (R.FE_LCH_STATUS_PDCNT n) + 1 = m.rd (R.FE_LCH_PDCHK_PDN n) then
      (m.pdCounted n).fieldFault n cPddev false false else m.pdCounted n := by
  have hpdn : (m.pdCounted n).rd (R.FE_LCH_PDCHK_PDN n) = m.rd (R.FE_LCH_PDCHK_PDN n) :=
    rrd_rwr_ne _ _ _ (by simp [R.FE_LCH_PDCHK_PDN, R.FE_LCH_STATUS_PDCNT])
  rw [← hpdn]
  unfold Mach.pdCheck
  rw [h, hf]
  rfl

theorem Mach.pdCounted_rd : (m.pdCounted n).rd (R.FE_LCH_STATUS_PDCNT n) = min (m.rd (R.FE_LCH_STATUS_PDCNT n) + 1) 255 :=
  (rrd_rwr_same _ _ (show 8 ≤ 15 by decide) (show 15 < 32 by decide)).trans
    (Nat.mod_eq_of_lt (Nat.lt_succ_of_le (Nat.min_le_right ..)))

end

/-! ## What the commands answer -/

section
variable {s : State} {dt : Nat} {n : Fin 16} {m : Mach} (hm : m = s.at dt)
include hm

/-- R215, R218: a direct update at its instant. -/
theorem directPowerUpdate_due {c o : Int} (ht : m.mt % 400 = 0) (hp : m.rdf (R.FE_LCH_CTRL_PMODE n) = 0)
    (hc : c = m.directCode n) (ho : o = m.powerOut n c) : Answers (.directPowerUpdate dt n) s fun t =>
      t.pins[n] = { m.pins[n] with lpwr := BitVec.ofInt 20 o } ∧ t.rd (R.FE_LCH_COUT n) = o.toNat ∧
      t.rd (R.FE_LCH_PWRMISS n) = 0 ∧
      t.rd (R.FE_LCH_CLAMPN n) = (if m.outSafe n = false ∧ o ≠ c ∧ m.fe[n].lch.gintAt' m.mt = true then
        min (m.rd (R.FE_LCH_CLAMPN n) + 1) (2 ^ 32 - 1) else m.rd (R.FE_LCH_CLAMPN n)) ∧
      t.fe[n].lch.coutHist.head? = some (m.mt, o.toNat) ∧
      (∀ j : Fin 16, j ≠ n → t.fe[j] = m.fe[j] ∧ t.pins[j] = m.pins[j]) ∧
      m.Keeps t [(R.FE_LCH_COUT n).a, (R.FE_LCH_CLAMPN n).a, (R.FE_LCH_PWRMISS n).a] ∧
      t = { m with fe := t.fe, pins := t.pins, regs := t.regs } := by
  have hdue := m.directPower_due n ht hp
  rw [← hc] at hdue
  have hmiss {r : RF} (h : r.a ≠ (R.FE_LCH_PWRMISS n).a) :
      ((m.presentPower n c).wr (R.FE_LCH_PWRMISS n) 0).rd r = (m.presentPower n c).rd r := rrd_rwr_ne _ _ 0 h
  have hcout := (hmiss (by simp [R.FE_LCH_COUT, R.FE_LCH_PWRMISS])).trans (m.presentPower_cout n c)
  have hclamp := (hmiss (by simp [R.FE_LCH_CLAMPN, R.FE_LCH_PWRMISS])).trans (m.presentPower_clampn n c)
  simp only [m.clamps_iff] at hclamp
  have hkeeps : m.Keeps ((m.presentPower n c).wr (R.FE_LCH_PWRMISS n) 0)
      [(R.FE_LCH_COUT n).a, (R.FE_LCH_CLAMPN n).a, (R.FE_LCH_PWRMISS n).a] := by
    intro a ha
    simp only [List.mem_cons, List.not_mem_nil, or_false, not_or] at ha
    obtain ⟨h1, h2, h3⟩ := ha
    exact (Mach.wr_word_ne _ 0 h3).trans (m.presentPower_keeps n c a (by simp [h1, h2]))
  have hhead : (m.presentPower n c).fe[n].lch.coutHist.head? = some (m.mt, (m.powerOut n c).toNat) := by
    rw [m.presentPower_eq]
    dsimp only
    rw [set_fin_self]
    rfl
  subst ho
  have hframe := m.presentPower_eq n c
  subst hm
  refine answers_of rfl hdue ⟨set_fin_self .., hcout, ?_, hclamp, hhead, fun j hj => ⟨set_fin_ne _ _ hj, set_fin_ne _ _ hj⟩,
    hkeeps, ?_⟩
  · exact rrd_rwr_same _ 0 (Nat.zero_le 1) (show 1 < 32 by decide)
  · rfl

/-- R220: the held settings act. -/
theorem lchPendingApply_held (hp : m.on (R.FE_LCH_STATUS_PEND n) = true) (ha : m.fe[n].active = false) :
    Answers (.lchPendingApply dt n) s fun t =>
      t.rdf (R.FE_LCH_CTRL_PMODE n) = m.rd (R.FE_LCH_CTRL_PMODE n) ∧ t.rdf (R.FE_LCH_CTRL_LFEN n) = m.rd (R.FE_LCH_CTRL_LFEN n) ∧
      t.rdf (R.FE_LCH_FS n) = m.rd (R.FE_LCH_FS n) ∧ t.rdf (R.FE_LCH_LIMIT n) = m.rd (R.FE_LCH_LIMIT n) ∧
      t.rd (R.FE_LCH_STATUS_PEND n) = 0 ∧ m.Keeps t [(R.FE_LCH_STATUS_PEND n).a, (R.FE_LCH_COUT n).a] ∧
      (∀ a, a ∉ [(R.FE_LCH_CTRL_PMODE n).a, (R.FE_LCH_FS n).a, (R.FE_LCH_LIMIT n).a] → rget t.force a = rget m.force a) ∧
      t.fe[n].lch.factAt m.mt = (if m.rd (R.FE_LCH_CTRL_LFEN n) = 1 then m.rd (R.FE_LCH_LFAC n) else 32768) ∧
      (∀ j : Fin 16, j ≠ n → t.fe[j] = m.fe[j]) ∧
      (m.rdf (R.FE_LCH_CTRL_PMODE n) = 0 → m.rd (R.FE_LCH_CTRL_PMODE n) = 1 →
        t.pins = m.pins.set n { m.pins[n] with lpwr := 0 } ∧ t.rd (R.FE_LCH_COUT n) = 0) ∧
      (m.rdf (R.FE_LCH_CTRL_PMODE n) = 1 ∨ m.rd (R.FE_LCH_CTRL_PMODE n) = 0 → t.pins = m.pins) ∧
      t = { m with regs := t.regs, force := t.force, fe := t.fe, pins := t.pins } := by
  obtain ⟨l, g, p, he, hfact, hkeeps, hpend, htrim, hstays⟩ := m.lchApply_parts n
  obtain ⟨hpmode, hlfen, hfs, hlimit⟩ := heldWrites_rd m n m.force
  have hforce (a : Nat) := heldWrites_others m n m.force (a := a)
  have ht := (m.lchPending_held n hp ha).trans he
  have hself : (m.fe.set n { m.fe[n] with lch := l })[n].lch.factAt m.mt = _ :=
    (congrArg (fun f : Field => f.lch.factAt m.mt) (set_fin_self ..)).trans (hfact.trans (m.lchForce_ledgerFactor n))
  generalize rwrs m.force (m.heldWrites n) = f at ht hpmode hlfen hfs hlimit hforce
  subst hm
  exact answers_of rfl ht ⟨hpmode, hlfen, hfs, hlimit, hpend, hkeeps, hforce, hself, fun j hj => set_fin_ne _ _ hj, htrim,
    hstays, rfl⟩

/-- R223: an alarm drops the gate and faults the field with LALM. -/
theorem laserAlarm_faults (hq : m.almQualified n = true) : Answers (.laserAlarm dt n) s fun t =>
    t.fe[n].lch.alm = true ∧ t.rd (R.FE_LCH_STATUS_ALM n) = 1 ∧ t.Dark n ∧ t.inFs n = true ∧
    (m.inFs n = false → t.rd (R.FE_FAULT_CAUSE n) = 0x30 ∧ t.evt (80 + n) = 1) ∧
    (∀ j : Fin 16, j ≠ n → t.fe[j] = m.fe[j] ∧ t.pins[j] = m.pins[j]) ∧ t.mem = m.mem ∧ t.axis = m.axis := by
  have ht := m.laserAlarm_qualified n hq
  obtain ⟨halm, hword⟩ := (m.alarmShown n).fieldFault_lch n cLalm false false
  obtain ⟨hfs, hdark⟩ := (m.alarmShown n).fieldFault_dark n cLalm false false
  obtain ⟨hmem, haxis⟩ := (m.alarmShown n).fieldFault_frame n cLalm false false
  obtain ⟨-, hothers⟩ := (m.alarmShown n).fieldFault_only n cLalm false false
  have hshown : (m.alarmShown n).rd (R.FE_LCH_STATUS_ALM n) = 1 := status_rd (show 3 < 32 by decide) (Nat.le_refl 1)
  have hin : (m.alarmShown n).inFs n = m.inFs n := Mach.status_inFs _ n rfl 1
  have hbefore (j : Fin 16) (hj : j ≠ n) : (m.alarmShown n).fe[j] = m.fe[j] ∧ (m.alarmShown n).pins[j] = m.pins[j] :=
    ⟨(set_fin_ne _ _ hj).trans (set_fin_ne _ _ hj), set_fin_ne _ _ hj⟩
  have halarm := halm.trans (m.alarmShown_alm n)
  have hreport (hf : m.inFs n = false) := (m.alarmShown n).fieldFault_reports n false false (show cLalm < 256 by decide)
    (hin.trans hf)
  subst hm
  exact answers_of rfl ht ⟨halarm, (Mach.rd_congr (hword _ lchReg_status)).trans hshown, hdark, hfs, hreport,
    fun j hj => ⟨(hothers j hj).1.trans (hbefore j hj).1, (hothers j hj).2.trans (hbefore j hj).2⟩, hmem, haxis⟩

/-- R224: ready lost with the gate on faults the field with LRDY. -/
theorem laserReady_faults (hq : m.rdyQualified n = true) (hr : m.fe[n].lch.rdy = true)
    (hg : m.fe[n].lch.gintAt' m.mt = true) (hf : m.inFs n = false) : Answers (.laserReadyChange dt n false) s fun t =>
      t.rd (R.FE_LCH_STATUS_RDY n) = 0 ∧ t.inFs n = true ∧ t.rd (R.FE_FAULT_CAUSE n) = 0x31 ∧ t.Dark n ∧
      (∀ j : Fin 16, j ≠ n → t.fe[j] = m.fe[j]) := by
  have ht := (m.laserReady_qualified n hq false).trans (if_pos (by rw [hr, hg]; rfl))
  obtain ⟨-, hword⟩ := (m.readyShown n false).fieldFault_lch n cLrdy false false
  obtain ⟨hfs, hdark⟩ := (m.readyShown n false).fieldFault_dark n cLrdy false false
  obtain ⟨-, hothers⟩ := (m.readyShown n false).fieldFault_only n cLrdy false false
  have hin : (m.readyShown n false).inFs n = m.inFs n :=
    Mach.status_inFs _ n (r := R.FE_LCH_STATUS_RDY n) rfl 0
  have hshown : (m.readyShown n false).rd (R.FE_LCH_STATUS_RDY n) = 0 := status_rd (show 2 < 32 by decide) (Nat.zero_le 1)
  obtain ⟨hcause, -⟩ := (m.readyShown n false).fieldFault_reports n false false (show cLrdy < 256 by decide) (hin.trans hf)
  subst hm
  exact answers_of rfl ht ⟨(Mach.rd_congr (r := R.FE_LCH_STATUS_RDY n) (hword _ lchReg_status)).trans hshown, hfs, hcause, hdark,
    fun j hj => (hothers j hj).1.trans (set_fin_ne _ _ hj)⟩

/-- R225: the PDN-th failure in a row faults the field with PDDEV. -/
theorem pdCheck_faults (hc : m.pdChecked n = true) (hfail : m.pdFails n = true)
    (hn : m.rd (R.FE_LCH_STATUS_PDCNT n) + 1 = m.rd (R.FE_LCH_PDCHK_PDN n)) (hf : m.inFs n = false) :
    Answers (.pdCheck dt n) s fun t =>
      t.rd (R.FE_LCH_STATUS_PDCNT n) = m.rd (R.FE_LCH_PDCHK_PDN n) ∧ t.inFs n = true ∧
      t.rd (R.FE_FAULT_CAUSE n) = 0x32 ∧ t.Dark n := by
  have ht := (m.pdCheck_fails n hc hfail).trans (if_pos hn)
  have hpdn : m.rd (R.FE_LCH_PDCHK_PDN n) < 2 ^ 8 := rrd_lt (R.FE_LCH_PDCHK_PDN n).a 7 0
  have hcount : (m.pdCounted n).rd (R.FE_LCH_STATUS_PDCNT n) = m.rd (R.FE_LCH_PDCHK_PDN n) :=
    (m.pdCounted_rd n).trans (by omega)
  obtain ⟨-, hword⟩ := (m.pdCounted n).fieldFault_lch n cPddev false false
  obtain ⟨hfs, hdark⟩ := (m.pdCounted n).fieldFault_dark n cPddev false false
  have hin : (m.pdCounted n).inFs n = m.inFs n := Mach.status_inFs _ n (r := R.FE_LCH_STATUS_PDCNT n) rfl _
  obtain ⟨hcause, -⟩ := (m.pdCounted n).fieldFault_reports n false false (show cPddev < 256 by decide) (hin.trans hf)
  subst hm
  exact answers_of rfl ht ⟨(Mach.rd_congr (r := R.FE_LCH_STATUS_PDCNT n) (hword _ lchReg_status)).trans hcount, hfs, hcause, hdark⟩

end

/-- Settles O27: an update and the held settings by their conditions, an input's change by whether it is qualified, and
a fault where the alarm, the ready or the photodiode calls for one. -/
theorem laserChannelCommands : Obligations.LaserChannelCommands := by
  intro s dt n m l hm hl
  subst hl
  refine ⟨fun h => ?_, fun u c o ht hp hu hc ho => ?_, lchPendingApply_held hm, fun h => ?_, fun h => ⟨?_, ?_⟩,
    fun h a => ?_, fun h => ⟨laserAlarm_faults hm h, ?_⟩, fun a hq h => ?_, laserReady_faults hm, fun h => ?_,
    fun h => ⟨fun hf => ?_, fun hf hn => ?_, pdCheck_faults hm h⟩⟩
  · have ht := m.directPower_away n h
    subst hm
    exact answers_of rfl ht rfl
  · rw [hu] at hc
    have hcode := hc.trans (m.directCode_eq n).symm
    have hout : o = m.powerOut n c := ho
    exact directPowerUpdate_due hm ht hp hcode hout
  · have ht := m.lchPending_waits n h
    subst hm
    exact answers_of rfl ht rfl
  · have ht := m.laserAlarm_unqualified n h
    subst hm
    exact answers_of rfl ht rfl
  · have ht := m.laserAlarmOff_unqualified n h
    subst hm
    exact answers_of rfl ht rfl
  · have ht := m.laserReady_unqualified n h a
    subst hm
    exact answers_of rfl ht rfl
  · have ht := m.laserAlarmOff_qualified n h
    subst hm
    exact answers_of rfl ht ⟨set_fin_self .., status_rd (show 3 < 32 by decide) (Nat.zero_le 1),
      fun j hj => set_fin_ne _ _ hj, Mach.wr_keeps _ _ 0 (by simp), rfl⟩
  · have ht := (m.laserReady_qualified n hq a).trans (if_neg (by rcases h with h | h | h <;> rw [h] <;> simp))
    subst hm
    exact answers_of rfl ht ⟨set_fin_self .., status_rd (show 2 < 32 by decide) (by cases a <;> decide),
      fun j hj => set_fin_ne _ _ hj, Mach.wr_keeps _ _ _ (by simp), rfl⟩
  · have ht := m.pdCheck_idle n h
    subst hm
    exact answers_of rfl ht rfl
  · have ht := m.pdCheck_good n h hf
    subst hm
    exact answers_of rfl ht ⟨rrd_rwr_same _ 0 (show 8 ≤ 15 by decide) (show 15 < 32 by decide),
      Mach.wr_only _ _ _ (by simp)⟩
  · have ht := (m.pdCheck_fails n h hf).trans (if_neg hn)
    have hcount := m.pdCounted_rd n
    subst hm
    exact answers_of rfl ht ⟨hcount, Mach.wr_only _ _ _ (by simp)⟩

end Sys2Proof.Machine
end

section
/-! PROOF. What a raise and a write of the module's own leave, and the bytes a write makes (R354, R356, R361, R405). -/
namespace Sys2Proof.Machine

/-! ## Registers, records and memory -/

/-- The cameras, the pool pipelines, the image processors, the slots and the fields stand as they did, and every
register but those listed: records, counts and memory may have changed. -/
structure Mach.BookkeepingOnly (l : List Nat) (m t : Mach) : Prop where
  keeps : m.Keeps t l
  cam : t.cam = m.cam
  pool : t.pool = m.pool
  bi : t.bi = m.bi
  slot : t.slot = m.slot
  fe : t.fe = m.fe
  mt : t.mt = m.mt

/-- Registers past those of the records, the host and the memory: the slots', the pipelines' and the processors'. -/
def EngineReg (a : Nat) : Prop := 0x205000 ≤ a ∧ a < 0x100000000

theorem EngineReg.notMem_raiseRegs {a src : Nat} (h : EngineReg a) (hs : src < 256) : a ∉ raiseRegs src := by
  obtain ⟨hlo, hhi⟩ := h
  simp only [raiseRegs, R.HS_EVT_PEND, R.HSQ_PBA, R.CBK_QLEVEL_QMAX, R.CBK_ANGEL, List.mem_cons, List.not_mem_nil,
    or_false]
  omega

/-- Registers that a write of a port may touch: the two counts of refused lines, the port's errors, and the raise. -/
def storeRegs (p : Nat) : List Nat :=
  [R.MEM_UNBACKED.a, R.MEM_WPOISON.a, (R.MEM_PORT_ERRN p).a] ++ raiseRegs 43

theorem EngineReg.notMem_storeRegs {a p : Nat} (h : EngineReg a) (hp : p < 12) : a ∉ storeRegs p := by
  have hraise := h.notMem_raiseRegs (show 43 < 256 by decide)
  obtain ⟨hlo, hhi⟩ := h
  simp only [storeRegs, R.MEM_UNBACKED, R.MEM_WPOISON, R.MEM_PORT_ERRN, List.mem_append, List.mem_cons, List.not_mem_nil,
    or_false, hraise]
  omega

/-- The pending bit of a source lies in no register of an engine, and no write of a port touches that of another word. -/
theorem evtWord_notMem_storeRegs {src p : Nat} (hs : src < 256) (h : 64 ≤ src) :
    (R.HS_EVT_PEND (src / 32)).a ∉ storeRegs p := by
  simp only [storeRegs, raiseRegs, R.MEM_UNBACKED, R.MEM_WPOISON, R.MEM_PORT_ERRN, R.HS_EVT_PEND, R.HSQ_PBA,
    R.CBK_QLEVEL_QMAX, R.CBK_ANGEL, List.cons_append, List.nil_append, List.mem_cons, List.not_mem_nil, or_false]
  omega

theorem EngineReg.ne_evtWord {a src : Nat} (h : EngineReg a) (hs : src < 256) : (R.HS_EVT_PEND (src / 32)).a ≠ a := by
  intro he
  exact h.notMem_raiseRegs hs (he ▸ List.mem_cons_self ..)

section
variable {l l' : List Nat} {m t u : Mach}

theorem Mach.BookkeepingOnly.refl (l : List Nat) (m : Mach) : m.BookkeepingOnly l m :=
  ⟨fun _ _ => rfl, rfl, rfl, rfl, rfl, rfl, rfl⟩

theorem Mach.BookkeepingOnly.trans (h : m.BookkeepingOnly l t) (h' : t.BookkeepingOnly l u) : m.BookkeepingOnly l u :=
  ⟨fun a ha => (h'.keeps a ha).trans (h.keeps a ha), h'.cam.trans h.cam, h'.pool.trans h.pool, h'.bi.trans h.bi,
    h'.slot.trans h.slot, h'.fe.trans h.fe, h'.mt.trans h.mt⟩

theorem Mach.BookkeepingOnly.mono (h : m.BookkeepingOnly l t) (hl : l ⊆ l') : m.BookkeepingOnly l' t :=
  { h with keeps := fun a ha => h.keeps a fun hm => ha (hl hm) }

theorem Mach.BookkeepingOnly.rd (h : m.BookkeepingOnly l t) {r : RF} (hr : r.a ∉ l) : t.rd r = m.rd r :=
  Mach.rd_congr (h.keeps r.a hr)

theorem Mach.wr_bookkeeping (m : Mach) (r : RF) (v : Nat) : m.BookkeepingOnly [r.a] (m.wr r v) :=
  ⟨m.wr_keeps r v (List.mem_singleton_self _), rfl, rfl, rfl, rfl, rfl, rfl⟩

theorem Mach.inc_bookkeeping (m : Mach) (r : RF) : m.BookkeepingOnly [r.a] (m.inc r) :=
  ⟨(m.inc_only r).1, rfl, rfl, rfl, rfl, rfl, rfl⟩

theorem Mach.raise_bookkeeping (m : Mach) (src code inst value : Nat) :
    m.BookkeepingOnly (raiseRegs src) (m.raise src code inst value) :=
  ⟨fun _ ha => Mach.raise_word_ne ha, rfl, rfl, rfl, rfl, rfl, rfl⟩

theorem Mach.raiseOnce_bookkeeping (m : Mach) (src code inst value : Nat) :
    m.BookkeepingOnly (raiseRegs src) (m.raiseOnce src code inst value) :=
  ⟨fun _ ha => m.raiseOnce_word_ne ha, by simp, by simp, by simp, by simp, by simp, by simp⟩

theorem Mach.incRaise_bookkeeping (m : Mach) (r : RF) (src code inst : Nat) :
    m.BookkeepingOnly (r.a :: raiseRegs src) (m.incRaise r src code inst) :=
  ((m.inc_bookkeeping r).mono (by simp)).trans
    (((m.inc r).raise_bookkeeping src code inst _).mono (List.subset_cons_self ..))

theorem Mach.incRaiseOnce_bookkeeping (m : Mach) (r : RF) (src code inst : Nat) :
    m.BookkeepingOnly (r.a :: raiseRegs src) (m.incRaiseOnce r src code inst) :=
  ((m.inc_bookkeeping r).mono (by simp)).trans
    (((m.inc r).raiseOnce_bookkeeping src code inst _).mono (List.subset_cons_self ..))

end

/-! ## A raise that happens once in a management tick -/

section
variable (m : Mach) {src : Nat}

theorem Mach.evt_congr {m t : Mach} (h : t.word (R.HS_EVT_PEND (src / 32)).a = m.word (R.HS_EVT_PEND (src / 32)).a) :
    t.evt src = m.evt src := Mach.rd_congr h

/-- The source shows after it, raised now or already showing. -/
theorem Mach.raiseOnce_evt (code inst value : Nat) (hs : src < 256) (h : m.raisedThisTick src = false ∨ m.evt src = 1) :
    (m.raiseOnce src code inst value).evt src = 1 := by
  unfold Mach.raiseOnce
  split
  · next hr => exact h.resolve_left (by simp [hr])
  · have hpend : (m.raise src code inst value).evt src = 1 := m.raise_pend hs
    generalize m.raise src code inst value = t at hpend ⊢
    exact hpend

/-- A raise of one source is not one of another. -/
theorem Mach.raiseOnce_raised (code inst value : Nat) {src' : Nat} (h : src' ≠ src) :
    (m.raiseOnce src code inst value).raisedThisTick src' = m.raisedThisTick src' := by
  unfold Mach.raiseOnce
  split
  · rfl
  · exact congrArg (· == m.tick + 1) (sget_sset_ne (d := fun _ => 0) h m.env.onceTick (m.tick + 1))

end

/-! ## A write of one line -/

section
variable (m : Mach) (p : Fin 12) (s : Byte) (a : Nat) (bs : List Byte)

/-- What a write of one line may do: it is discarded as unbacked, its bytes are made, or it is refused on poison
(R356, R361). -/
theorem Mach.writeLine_cases :
    (m.unbacked a = true ∧ m.writeLine p s a bs .clean = m.incRaise R.MEM_UNBACKED 43 0 p) ∨
    (m.unbacked a = false ∧ m.writeLine p s a bs .clean = (m.openRow a).storeLine a bs) ∨
    (m.unbacked a = false ∧ bs.length ≠ 128 ∧ m.writeLine p s a bs .clean = (m.openRow a).refuseWrite p s a) := by
  cases hu : m.unbacked a with
  | true => exact .inl ⟨rfl, if_pos hu⟩
  | false =>
    have hback : m.writeLine p s a bs .clean = _ := if_neg (by simp [hu])
    by_cases hfull : bs.length = 128
    · exact .inr (.inl ⟨rfl, hback.trans (if_pos hfull)⟩)
    · cases hpoison : (m.openRow a).mem.poison.contains (a / 128) with
      | true => exact .inr (.inr ⟨rfl, hfull, hback.trans ((if_neg hfull).trans (if_pos hpoison))⟩)
      | false =>
        exact .inr (.inl ⟨rfl, hback.trans ((if_neg hfull).trans (if_neg (Bool.eq_false_iff.mp hpoison)))⟩)

/-- A whole line with memory behind it: its bytes are made. -/
theorem Mach.writeLine_whole (hu : m.unbacked a = false) (hl : bs.length = 128) :
    m.writeLine p s a bs .clean = (m.openRow a).storeLine a bs := by
  obtain ⟨h, -⟩ | ⟨-, h⟩ | ⟨-, h, -⟩ := m.writeLine_cases p s a bs
  · exact absurd (hu.symm.trans h) nofun
  · exact h
  · exact absurd hl h

theorem Mach.refuseWrite_bookkeeping : m.BookkeepingOnly (storeRegs p) (m.refuseWrite p s a) := by
  have hcount := m.incRaiseOnce_bookkeeping R.MEM_WPOISON 43 1 p
  have herr := (m.incRaiseOnce R.MEM_WPOISON 43 1 p).inc_bookkeeping (R.MEM_PORT_ERRN p)
  refine Mach.BookkeepingOnly.trans (hcount.mono ?_) ⟨?_, herr.cam, herr.pool, herr.bi, herr.slot, herr.fe, herr.mt⟩
  · exact List.subset_cons_of_subset _ (List.cons_subset_cons _ (List.subset_cons_self ..))
  · exact (herr.mono (by simp [storeRegs])).keeps

theorem Mach.writeLine_bookkeeping : m.BookkeepingOnly (storeRegs p) (m.writeLine p s a bs .clean) := by
  obtain ⟨-, h⟩ | ⟨-, h⟩ | ⟨-, -, h⟩ := m.writeLine_cases p s a bs <;> rw [h]
  · exact (m.incRaise_bookkeeping R.MEM_UNBACKED 43 0 p).mono
      (List.cons_subset_cons _ (List.subset_cons_of_subset _ (List.subset_cons_self ..)))
  · exact ⟨fun _ _ => rfl, rfl, rfl, rfl, rfl, rfl, rfl⟩
  · have hrow : m.BookkeepingOnly (storeRegs p) (m.openRow a) := ⟨fun _ _ => rfl, rfl, rfl, rfl, rfl, rfl, rfl⟩
    exact hrow.trans ((m.openRow a).refuseWrite_bookkeeping p s a)

/-- A write of a line raises no source but 43. -/
theorem Mach.writeLine_raised {src : Nat} (hs : src ≠ 43) :
    (m.writeLine p s a bs .clean).raisedThisTick src = m.raisedThisTick src := by
  obtain ⟨-, h⟩ | ⟨-, h⟩ | ⟨-, -, h⟩ := m.writeLine_cases p s a bs <;> rw [h]
  · rfl
  · rfl
  · exact Mach.raiseOnce_raised _ 1 p _ hs

/-- No byte but those of the write changes. -/
theorem Mach.writeLine_byte_ne {k : Nat} (hk : k < a ∨ a + bs.length ≤ k) :
    (m.writeLine p s a bs .clean).byte k = m.byte k := by
  obtain ⟨-, h⟩ | ⟨-, h⟩ | ⟨-, -, h⟩ := m.writeLine_cases p s a bs <;> rw [h]
  · rfl
  · exact Mach.storeLine_byte_ne hk
  · have hmem : ((m.openRow a).refuseWrite p s a).mem = (m.openRow a).mem := Mach.incRaiseOnce_mem ..
    have hbytes : ((m.openRow a).refuseWrite p s a).mem.bytes = m.mem.bytes := by
      rw [hmem]
      rfl
    exact congrArg (fun b : List Host.Cell => sget memDefault b k) hbytes

end

/-! ## A write of a range -/

section
variable (m : Mach) (p : Fin 12) (s a : Nat) (bs : List Byte)

theorem Mach.dmaWrite_bookkeeping : m.BookkeepingOnly (storeRegs p) (m.dmaWrite p s a bs) := by
  unfold Mach.dmaWrite Mach.memPut
  induction linesOf a bs.length generalizing m with
  | nil => exact .refl _ m
  | cons l ls ih => exact (m.writeLine_bookkeeping p _ _ _).trans (ih _)

theorem Mach.dmaWrite_raised {src : Nat} (hs : src ≠ 43) :
    (m.dmaWrite p s a bs).raisedThisTick src = m.raisedThisTick src := by
  unfold Mach.dmaWrite Mach.memPut
  induction linesOf a bs.length generalizing m with
  | nil => rfl
  | cons l ls ih => exact (ih _).trans (m.writeLine_raised p _ _ _ hs)

/-- The part of a range in a line lies within the range. -/
theorem lineSlice_within {k : Nat} (l : Nat) (hk : k < a ∨ a + bs.length ≤ k) :
    k < (lineSlice a bs l).1 ∨ (lineSlice a bs l).1 + (lineSlice a bs l).2.length ≤ k := by
  simp only [lineSlice, List.length_take, List.length_drop]
  omega

/-- No byte outside of the range changes. -/
theorem Mach.dmaWrite_byte_ne {k : Nat} (hk : k < a ∨ a + bs.length ≤ k) :
    (m.dmaWrite p s a bs).byte k = m.byte k := by
  unfold Mach.dmaWrite Mach.memPut
  induction linesOf a bs.length generalizing m with
  | nil => rfl
  | cons l ls ih => exact (ih _).trans (m.writeLine_byte_ne p _ _ _ (lineSlice_within a bs l hk))

/-- Two whole lines are written one after the other. -/
theorem Mach.dmaWrite_two (q : Nat) (hl : bs.length = 256) : m.dmaWrite p s (128 * q) bs =
    (m.writeLine p (BitVec.ofNat 8 s) (128 * q) (bs.take 128) .clean).writeLine p (BitVec.ofNat 8 s) (128 * q + 128)
      (bs.drop 128) .clean := by
  have hlines : linesOf (128 * q) bs.length = [q, q + 1] := by
    have hlast : (128 * q + 256 - 1) / 128 - 128 * q / 128 + 1 = 2 := by omega
    have hfirst : 128 * q / 128 = q := by omega
    rw [hl, linesOf, if_neg (by decide), hlast, hfirst]
    rfl
  have hone : lineSlice (128 * q) bs q = (128 * q, bs.take 128) := by
    simp [lineSlice]
  have htwo : lineSlice (128 * q) bs (q + 1) = (128 * q + 128, bs.drop 128) := by
    have hmax : max (128 * q) (128 * (q + 1)) = 128 * q + 128 := by omega
    have hskip : 128 * q + 128 - 128 * q = 128 := by omega
    have hroom : 128 * (q + 1) + 128 - (128 * q + 128) = 128 := by omega
    have hrest : (bs.drop 128).length ≤ 128 := by rw [List.length_drop]; omega
    rw [lineSlice, hmax, hskip, hroom, List.take_of_length_le hrest]
  unfold Mach.dmaWrite Mach.memPut
  rw [hlines, List.foldl_cons, List.foldl_cons, List.foldl_nil, hone, htwo]

/-- Two whole lines with memory behind both hold the bytes written. -/
theorem Mach.dmaWrite_bytes (q : Nat) (hl : bs.length = 256) (h0 : m.unbacked (128 * q) = false)
    (h1 : m.unbacked (128 * q + 128) = false) : (m.dmaWrite p s (128 * q) bs).bytes (128 * q) 256 = bs := by
  have hlen0 : (bs.take 128).length = 128 := by rw [List.length_take]; omega
  have hlen1 : (bs.drop 128).length = 128 := by rw [List.length_drop]; omega
  have h1' : ((m.openRow (128 * q)).storeLine (128 * q) (bs.take 128)).unbacked (128 * q + 128) = false := h1
  rw [m.dmaWrite_two p s bs q hl, m.writeLine_whole p _ _ _ h0 hlen0, Mach.writeLine_whole _ p _ _ _ h1' hlen1]
  refine List.ext_getElem (by simp [Mach.bytes, hl]) fun i hi hi' => ?_
  simp only [Mach.bytes, List.getElem_map, List.getElem_range]
  by_cases hlow : i < 128
  · refine (Mach.storeLine_byte_ne (.inl (by omega))).trans ?_
    refine (Mach.storeLine_byte (m := m.openRow (128 * q)) (h := by omega)).trans ?_
    exact List.getElem_take
  · have hat : 128 * q + i = 128 * q + 128 + (i - 128) := by omega
    rw [hat]
    refine (Mach.storeLine_byte (k := i - 128) (h := by omega)).trans (List.getElem_drop.trans ?_)
    exact getElem_congr_idx (by omega)

end

end Sys2Proof.Machine
end

section
/-! PROOF. A pool pipeline's record: shown, filed in its ring, and given to the slots of its field (R180, R230 to R232). -/
namespace Sys2Proof.Machine

/-- A fold over distinct elements of which one alone acts. -/
theorem foldl_acts_once {α β : Type} {f : α → β → α} {a : α} {k : β} {l : List β} (hk : k ∈ l)
    (hbefore : ∀ j, j ≠ k → f a j = a) (hafter : ∀ j, j ≠ k → f (f a k) j = f a k) (hnd : l.Nodup) :
    l.foldl f a = f a k := by
  induction l with
  | nil => exact absurd hk List.not_mem_nil
  | cons b l ih =>
    obtain ⟨hb, hl⟩ := List.nodup_cons.mp hnd
    by_cases hbk : b = k
    · subst hbk
      exact List.foldlRecOn l f (motive := (· = f a b)) rfl fun x hx j hj => by
        rw [hx]
        exact hafter j fun e => hb (e ▸ hj)
    · rw [List.foldl_cons, hbefore b hbk]
      exact ih ((List.mem_cons.mp hk).resolve_left fun e => hbk e.symm) hl

/-- The place after the next write of a ring of at least one place. -/
theorem ringNext_eq {z : Nat} (hz : 0 < z) (w : Nat) : ringNext z w = (w + 1) % z := by
  unfold ringNext
  rw [Nat.max_eq_right hz]

/-- A write pointer of 24 bits holds any place of a ring of up to 2^23 places. -/
theorem ringNext_fits {z w : Nat} (hz : 0 < z) (hle : z ≤ 2 ^ 23) : ringNext z w % 2 ^ 24 = (w + 1) % z := by
  rw [ringNext_eq hz]
  have := Nat.mod_lt (w + 1) hz
  exact Nat.mod_eq_of_lt (by omega)

section
variable (m : Mach) (n : Fin 16) (r : PoolRec)

/-! ## The record is shown -/

/-- The record leaves its queue, and its flags are taken over where it is valid. -/
def Mach.recordTaken (rest : List PoolRec) : Mach :=
  m.setPool n { m.pool[n] with pend := rest, flags := if r.inv = 0 then r.pflag else m.pool[n].flags }

/-- Its number is shown, and as the latest valid one where it is valid. -/
def Mach.recordNumbered : Mach :=
  if r.inv = 0 then (m.wr (R.IMG_PP_LAST_FRAME n) r.frame.toNat).wr (R.IMG_PP_LAST_VALID n) r.frame.toNat
  else m.wr (R.IMG_PP_LAST_FRAME n) r.frame.toNat

/-- The pipeline's source is raised for the INVALID bit of lost data. -/
def Mach.recordFlagged : Mach := if r.inv.getLsbD 2 then m.raiseOnce (112 + n) 0 n 0 else m

def Mach.recordShown : Mach := (m.recordNumbered n r).recordFlagged n r

/-- The record goes to its ring where the ring is on. -/
def Mach.recordFiled : Mach := if m.on (R.IMG_PP_CTRL_RECEN n) then m.recWrite n r else m

theorem Mach.poolDeliver_nil (h : m.pool[n].pend = []) : m.poolDeliver n = m := by
  unfold Mach.poolDeliver
  rw [h]

theorem Mach.poolDeliver_cons {rest : List PoolRec} (h : m.pool[n].pend = r :: rest) :
    m.poolDeliver n = (((m.recordTaken n r rest).recordShown n r).recordFiled n r).deliverRec n r := by
  unfold Mach.poolDeliver
  rw [h]
  rfl

/-- Registers that showing a record may write. -/
def shownRegs (n : Nat) : List Nat := [(R.IMG_PP_LAST_FRAME n).a, (R.IMG_PP_LAST_VALID n).a] ++ raiseRegs (112 + n)

theorem Mach.recordNumbered_bookkeeping : m.BookkeepingOnly (shownRegs n) (m.recordNumbered n r) := by
  have hframe := m.wr_bookkeeping (R.IMG_PP_LAST_FRAME n) r.frame.toNat
  unfold Mach.recordNumbered
  split
  · exact (hframe.mono (by simp [shownRegs])).trans
      ((Mach.wr_bookkeeping _ (R.IMG_PP_LAST_VALID n) _).mono (by simp [shownRegs]))
  · exact hframe.mono (by simp [shownRegs])

theorem Mach.recordFlagged_bookkeeping : m.BookkeepingOnly (raiseRegs (112 + n)) (m.recordFlagged n r) := by
  unfold Mach.recordFlagged
  split
  · exact m.raiseOnce_bookkeeping _ 0 n 0
  · exact .refl _ m

theorem Mach.recordShown_bookkeeping : m.BookkeepingOnly (shownRegs n) (m.recordShown n r) :=
  (m.recordNumbered_bookkeeping n r).trans
    (((m.recordNumbered n r).recordFlagged_bookkeeping n r).mono (List.subset_append_right ..))

theorem Mach.recordShown_mem : (m.recordShown n r).mem = m.mem := by
  have hnumbered : (m.recordNumbered n r).mem = m.mem := by
    unfold Mach.recordNumbered
    split
    · exact (Mach.wr_mem ..).trans (Mach.wr_mem ..)
    · exact Mach.wr_mem ..
  unfold Mach.recordShown Mach.recordFlagged
  split
  · rw [Mach.raiseOnce_mem, hnumbered]
  · exact hnumbered

theorem poolReg_engine {n a : Nat} (hn : n < 16) (h : 0x1010000 + n * 0x100 ≤ a) (h' : a < 0x1010100 + n * 0x100) : EngineReg a :=
  ⟨by omega, by omega⟩

theorem Mach.recordNumbered_rd :
    (m.recordNumbered n r).rd (R.IMG_PP_LAST_FRAME n) = r.frame.toNat ∧
    (m.recordNumbered n r).rd (R.IMG_PP_LAST_VALID n) =
      (if r.inv = 0 then r.frame.toNat else m.rd (R.IMG_PP_LAST_VALID n)) := by
  have hone (g : Sparse Word) (a : Nat) : rrd (rwr g ⟨a, 31, 0⟩ r.frame.toNat) ⟨a, 31, 0⟩ = r.frame.toNat :=
    (rrd_rwr_same _ _ (Nat.zero_le 31) (show 31 < 32 by decide)).trans (Nat.mod_eq_of_lt r.frame.isLt)
  have hne : (R.IMG_PP_LAST_FRAME n).a ≠ (R.IMG_PP_LAST_VALID n).a := by simp [R.IMG_PP_LAST_FRAME, R.IMG_PP_LAST_VALID]
  unfold Mach.recordNumbered
  split
  · exact ⟨(rrd_rwr_ne _ _ _ hne).trans (hone ..), hone ..⟩
  · exact ⟨hone .., rrd_rwr_ne _ _ _ hne.symm⟩

theorem Mach.recordShown_rd :
    (m.recordShown n r).rd (R.IMG_PP_LAST_FRAME n) = r.frame.toNat ∧
    (m.recordShown n r).rd (R.IMG_PP_LAST_VALID n) =
      (if r.inv = 0 then r.frame.toNat else m.rd (R.IMG_PP_LAST_VALID n)) := by
  obtain ⟨hframe, hvalid⟩ := m.recordNumbered_rd n r
  have hflag := (m.recordNumbered n r).recordFlagged_bookkeeping n r
  have hengine (a : Nat) (h : 0x1010000 + n * 0x100 ≤ a) (h' : a < 0x1010100 + n * 0x100) : a ∉ raiseRegs (112 + n) :=
    (poolReg_engine n.isLt h h').notMem_raiseRegs (by omega)
  exact ⟨(hflag.rd (hengine _ (by simp [R.IMG_PP_LAST_FRAME]) (by simp [R.IMG_PP_LAST_FRAME]))).trans hframe,
    (hflag.rd (hengine _ (by simp [R.IMG_PP_LAST_VALID]) (by simp [R.IMG_PP_LAST_VALID]))).trans hvalid⟩

theorem Mach.recordNumbered_raised (src : Nat) : (m.recordNumbered n r).raisedThisTick src = m.raisedThisTick src := by
  have hwr (m : Mach) (q : RF) (v : Nat) : (m.wr q v).raisedThisTick src = m.raisedThisTick src := rfl
  unfold Mach.recordNumbered
  split
  · exact (hwr ..).trans (hwr ..)
  · exact hwr ..

/-- After it the pipeline's source shows, or may still be raised in this tick. -/
theorem Mach.recordShown_raised (h : m.raisedThisTick (112 + n) = false) :
    (r.inv.getLsbD 2 = true → (m.recordShown n r).evt (112 + n) = 1) ∧
    ((m.recordShown n r).raisedThisTick (112 + n) = false ∨ (m.recordShown n r).evt (112 + n) = 1) := by
  have hn := (m.recordNumbered_raised n r _).trans h
  unfold Mach.recordShown Mach.recordFlagged
  split
  · have hevt := (m.recordNumbered n r).raiseOnce_evt 0 n 0 (show 112 + n.val < 256 by omega) (.inl hn)
    exact ⟨fun _ => hevt, .inr hevt⟩
  · next hb => exact ⟨fun hset => absurd hset hb, .inl hn⟩

/-! ## The record is filed -/

theorem Mach.recWrite_full (h : ringFull (2 ^ (8 + m.rd (R.IMG_PP_REC_SIZE n))) (m.rd (R.IMG_PP_REC_WPTR n))
    (m.rd (R.IMG_PP_REC_RPTR n)) = true) : m.recWrite n r = m.incRaiseOnce (R.IMG_PP_REC_LOST n) (112 + n) 1 n :=
  if_pos h

/-- The machine after the bytes of a record are written at its ring's write pointer. -/
def Mach.recordWritten : Mach :=
  m.dmaWrite 4 n (m.addr (R.IMG_PP_REC_BASE_LO n) (R.IMG_PP_REC_BASE_HI n) + 256 * m.rd (R.IMG_PP_REC_WPTR n)) r.encode

theorem Mach.recWrite_room {z : Nat} (hz : z = 2 ^ (8 + m.rd (R.IMG_PP_REC_SIZE n)))
    (h : ringFull z (m.rd (R.IMG_PP_REC_WPTR n)) (m.rd (R.IMG_PP_REC_RPTR n)) = false) :
    m.recWrite n r = (m.recordWritten n r).wr (R.IMG_PP_REC_WPTR n) (ringNext z (m.rd (R.IMG_PP_REC_WPTR n))) := by
  subst hz
  exact if_neg (Bool.eq_false_iff.mp h)

theorem Mach.wr_recWptr (v : Nat) : (m.wr (R.IMG_PP_REC_WPTR n) v).rd (R.IMG_PP_REC_WPTR n) = v % 2 ^ 24 :=
  rrd_rwr_same _ _ (Nat.zero_le 23) (show 23 < 32 by decide)

theorem Mach.wr_byte (q : RF) (v a : Nat) : (m.wr q v).byte a = m.byte a := rfl

theorem Mach.wr_bytes (q : RF) (v a k : Nat) : (m.wr q v).bytes a k = m.bytes a k := rfl

/-- Registers that filing a record may write. -/
def filedRegs (n : Nat) : List Nat :=
  [(R.IMG_PP_REC_WPTR n).a, (R.IMG_PP_REC_LOST n).a] ++ raiseRegs (112 + n) ++ storeRegs 4

theorem Mach.recWrite_bookkeeping : m.BookkeepingOnly (filedRegs n) (m.recWrite n r) := by
  cases h : ringFull (2 ^ (8 + m.rd (R.IMG_PP_REC_SIZE n))) (m.rd (R.IMG_PP_REC_WPTR n)) (m.rd (R.IMG_PP_REC_RPTR n)) with
  | true =>
    rw [m.recWrite_full n r h]
    refine (m.incRaiseOnce_bookkeeping (R.IMG_PP_REC_LOST n) (112 + n) 1 n).mono ?_
    exact List.subset_append_of_subset_left _ (List.subset_cons_self ..)
  | false =>
    rw [m.recWrite_room n r rfl h]
    exact ((m.dmaWrite_bookkeeping 4 n _ r.encode).mono (List.subset_append_right ..)).trans
      ((Mach.wr_bookkeeping _ (R.IMG_PP_REC_WPTR n) _).mono (List.cons_subset.mpr ⟨List.mem_cons_self .., List.nil_subset _⟩))

theorem Mach.recordFiled_bookkeeping : m.BookkeepingOnly (filedRegs n) (m.recordFiled n r) := by
  unfold Mach.recordFiled
  split
  · exact m.recWrite_bookkeeping n r
  · exact .refl _ m

/-- A source that shows goes on showing. -/
theorem Mach.recWrite_evt (h : m.evt (112 + n) = 1) : (m.recWrite n r).evt (112 + n) = 1 := by
  have hword {a : Nat} (ha : 0x1010000 + n * 0x100 ≤ a) (ha' : a < 0x1010100 + n * 0x100) :
      (R.HS_EVT_PEND ((112 + n.val) / 32)).a ≠ a := (poolReg_engine n.isLt ha ha').ne_evtWord (by omega)
  cases hfull : ringFull (2 ^ (8 + m.rd (R.IMG_PP_REC_SIZE n))) (m.rd (R.IMG_PP_REC_WPTR n)) (m.rd (R.IMG_PP_REC_RPTR n)) with
  | true =>
    rw [m.recWrite_full n r hfull]
    refine Mach.raiseOnce_evt _ 1 n _ (by omega) (.inr ((Mach.evt_congr ((m.inc_bookkeeping _).keeps _ ?_)).trans h))
    simpa using (hword (by simp [R.IMG_PP_REC_LOST]) (by simp [R.IMG_PP_REC_LOST]))
  | false =>
    rw [m.recWrite_room n r rfl hfull]
    have hwr := (m.recordWritten n r).wr_word_ne (ringNext (2 ^ (8 + m.rd (R.IMG_PP_REC_SIZE n))) (m.rd (R.IMG_PP_REC_WPTR n)))
      (hword (a := (R.IMG_PP_REC_WPTR n).a) (by simp [R.IMG_PP_REC_WPTR]) (by simp [R.IMG_PP_REC_WPTR]))
    have hdma := (m.dmaWrite_bookkeeping 4 n (m.addr (R.IMG_PP_REC_BASE_LO n) (R.IMG_PP_REC_BASE_HI n) +
      256 * m.rd (R.IMG_PP_REC_WPTR n)) r.encode).keeps _ (evtWord_notMem_storeRegs (src := 112 + n) (by omega) (by omega))
    exact (Mach.evt_congr (hwr.trans hdma)).trans h

/-- With the ring full the record is counted lost and its source raised. -/
theorem Mach.recWrite_lost (h : ringFull (2 ^ (8 + m.rd (R.IMG_PP_REC_SIZE n))) (m.rd (R.IMG_PP_REC_WPTR n))
    (m.rd (R.IMG_PP_REC_RPTR n)) = true) (hr : m.raisedThisTick (112 + n) = false ∨ m.evt (112 + n) = 1) :
    (m.recWrite n r).rd (R.IMG_PP_REC_LOST n) = min (m.rd (R.IMG_PP_REC_LOST n) + 1) (2 ^ 32 - 1) ∧
    (m.recWrite n r).evt (112 + n) = 1 ∧ (m.recWrite n r).mem = m.mem := by
  have hlost : EngineReg (R.IMG_PP_REC_LOST n).a :=
    poolReg_engine n.isLt (by simp [R.IMG_PP_REC_LOST]) (by simp [R.IMG_PP_REC_LOST])
  have hcount := ((m.inc (R.IMG_PP_REC_LOST n)).raiseOnce_bookkeeping (112 + n) 1 n
    ((m.inc (R.IMG_PP_REC_LOST n)).rd (R.IMG_PP_REC_LOST n))).rd (hlost.notMem_raiseRegs (by omega))
  have hevt : (m.inc (R.IMG_PP_REC_LOST n)).evt (112 + n) = m.evt (112 + n) :=
    Mach.evt_congr ((m.inc_bookkeeping _).keeps _ (by simpa using (hlost.ne_evtWord (by omega))))
  rw [m.recWrite_full n r h]
  exact ⟨hcount.trans (rrd_rinc_word ..), Mach.raiseOnce_evt _ 1 n _ (by omega) (by rwa [hevt]), Mach.incRaiseOnce_mem ..⟩

/-- With room in the ring the record's bytes are written, and the write pointer goes on. -/
theorem Mach.recWrite_written {z A : Nat} (hz : z = 2 ^ (8 + m.rd (R.IMG_PP_REC_SIZE n)))
    (hA : A = m.addr (R.IMG_PP_REC_BASE_LO n) (R.IMG_PP_REC_BASE_HI n) + 256 * m.rd (R.IMG_PP_REC_WPTR n))
    (hl : r.encode.length = 256) (h : ringFull z (m.rd (R.IMG_PP_REC_WPTR n)) (m.rd (R.IMG_PP_REC_RPTR n)) = false) :
    (m.recWrite n r).rd (R.IMG_PP_REC_WPTR n) = (m.rd (R.IMG_PP_REC_WPTR n) + 1) % z ∧
    (m.unbacked A = false → m.unbacked (A + 128) = false → (m.recWrite n r).bytes A 256 = r.encode) ∧
    ∀ a, a < A ∨ A + 256 ≤ a → (m.recWrite n r).byte a = m.byte a := by
  have hsize : m.rd (R.IMG_PP_REC_SIZE n) < 2 ^ 4 := rrd_lt (R.IMG_PP_REC_SIZE n).a 3 0
  have hpos : 0 < z := hz ▸ Nat.two_pow_pos _
  have hle : z ≤ 2 ^ 23 := hz ▸ Nat.pow_le_pow_right (by decide) (by omega)
  have hwritten : m.recordWritten n r = m.dmaWrite 4 n A r.encode := by
    rw [hA]
    rfl
  have hline : ∃ q, A = 128 * q := by
    refine ⟨A / 128, ?_⟩
    have hbase : m.addr (R.IMG_PP_REC_BASE_LO n) (R.IMG_PP_REC_BASE_HI n) =
      m.rd (R.IMG_PP_REC_BASE_LO n) * 2 ^ 12 + m.rd (R.IMG_PP_REC_BASE_HI n) * 2 ^ 32 := rfl
    omega
  rw [m.recWrite_room n r hz h, hwritten]
  refine ⟨?_, fun h0 h1 => ?_, fun a ha => ?_⟩
  · rw [Mach.wr_recWptr]
    exact ringNext_fits hpos hle
  · obtain ⟨q, hq⟩ := hline
    subst hq
    exact (Mach.wr_bytes ..).trans (m.dmaWrite_bytes 4 n r.encode q hl h0 h1)
  · exact (Mach.wr_byte ..).trans (m.dmaWrite_byte_ne 4 n A r.encode (hl.symm ▸ ha))

/-! ## The record goes to the slots -/

/-- A slot takes the record where it is in RUN, frame-triggered, of the field, and past its first instant (R180). -/
def Mach.giveRec (k : Fin 160) : Mach :=
  if m.runs k && m.frameSlot k && m.slotField k == n.val && decide (m.slot[k].firstTk ≤ m.mt) then m.frameSample k r else m

theorem Mach.deliverRec_foldl : m.deliverRec n r = (List.finRange 160).foldl (fun (m : Mach) k => m.giveRec n r k) m := rfl

theorem Mach.giveRec_idle {k : Fin 160} (h : m.runs k = false) : m.giveRec n r k = m := if_neg (by rw [h]; simp)

/-- With no slot in RUN nobody takes the record. -/
theorem Mach.deliverRec_idle (h : ∀ k : Fin 160, m.runs k = false) : m.deliverRec n r = m :=
  m.deliverRec_foldl n r ▸ List.foldl_fixed' (fun k => m.giveRec_idle n r (h k)) _

/-- A frame-triggered slot with no execution queued takes a sample (R180). -/
theorem Mach.frameSample_queues {k : Fin 160} (he : m.slot[k].exec = []) (hs : m.slot[k].stopAt = none)
    (hw : m.slot[k].swapReq = none) : m.frameSample k r = m.sampled k (some r) := by
  have hnone : m.unstarted k = false := by
    unfold Mach.unstarted
    rw [he]
  have hswap := Mach.swapAt_none hw
  have hqueues := m.takeSample_queues (s := k) (some r) (by rw [hswap, hs]; rfl)
  rw [hswap] at hqueues
  exact (if_neg (by simp [hnone])).trans hqueues

/-- One slot alone in RUN, frame-triggered and of the field: it alone takes the record. -/
theorem Mach.deliverRec_one {k : Fin 160} (hr : m.runs k = true) (hf : m.frameSlot k = true) (hn : m.slotField k = n)
    (ht : m.slot[k].firstTk ≤ m.mt) (he : m.slot[k].exec = []) (hs : m.slot[k].stopAt = none)
    (hw : m.slot[k].swapReq = none) (hothers : ∀ j : Fin 160, j ≠ k → m.runs j = false) :
    m.deliverRec n r = m.sampled k (some r) := by
  have hacts : m.giveRec n r k = m.sampled k (some r) := by
    refine (if_pos ?_).trans (m.frameSample_queues r he hs hw)
    rw [hr, hf, hn, decide_eq_true ht]
    simp
  have hafter (j : Fin 160) (hj : j ≠ k) : (m.giveRec n r k).giveRec n r j = m.giveRec n r k := by
    rw [hacts]
    exact Mach.giveRec_idle _ n r (hothers j hj)
  rw [m.deliverRec_foldl, ← hacts]
  exact foldl_acts_once (List.mem_finRange k) (fun j hj => m.giveRec_idle n r (hothers j hj)) hafter (List.nodup_finRange 160)

end

end Sys2Proof.Machine
end

section
/-! PROOF. What POOL_RECORD_DELIVER answers (R180, R230 to R232). -/
namespace Sys2Proof.Machine

theorem notMem_shownRegs {n a : Nat} (hn : n < 16) (ha : EngineReg a) (hf : a ≠ (R.IMG_PP_LAST_FRAME n).a)
    (hv : a ≠ (R.IMG_PP_LAST_VALID n).a) : a ∉ shownRegs n := by
  have hraise : a ∉ raiseRegs (112 + n) := ha.notMem_raiseRegs (by omega)
  simp [shownRegs, hf, hv, hraise]

theorem notMem_filedRegs {n a : Nat} (hn : n < 16) (ha : EngineReg a) (hw : a ≠ (R.IMG_PP_REC_WPTR n).a)
    (hl : a ≠ (R.IMG_PP_REC_LOST n).a) : a ∉ filedRegs n := by
  have hraise : a ∉ raiseRegs (112 + n) := ha.notMem_raiseRegs (by omega)
  have hstore : a ∉ storeRegs 4 := ha.notMem_storeRegs (by decide)
  simp [filedRegs, hw, hl, hraise, hstore]

section
variable {m : Mach} {n : Fin 16} {r : PoolRec}

/-- The memory behind an address depends on the ranks in force alone. -/
theorem Mach.unbacked_congr {m t : Mach} (a : Nat)
    (h : ∀ c < 2, t.word (R.MEM_CH_RMAP_L0 c).a = m.word (R.MEM_CH_RMAP_L0 c).a) : t.unbacked a = m.unbacked a := by
  have hc := h (chanOf a) (by unfold chanOf; omega)
  have h0 : t.rd (R.MEM_CH_RMAP_L0 (chanOf a)) = m.rd (R.MEM_CH_RMAP_L0 (chanOf a)) := Mach.rd_congr hc
  have h1 : t.rd (R.MEM_CH_RMAP_L1 (chanOf a)) = m.rd (R.MEM_CH_RMAP_L1 (chanOf a)) := Mach.rd_congr hc
  unfold Mach.unbacked Mach.backing
  rw [h0, h1]

/-- Showing a record touches no register of its ring. -/
theorem Mach.recordShown_ring (m : Mach) (n : Fin 16) (r : PoolRec) {q : RF} (ha : 0x1010080 + n * 0x100 ≤ q.a)
    (ha' : q.a < 0x1010098 + n * 0x100) : (m.recordShown n r).rd q = m.rd q := by
  refine (m.recordShown_bookkeeping n r).rd (notMem_shownRegs n.isLt ⟨by omega, by omega⟩ ?_ ?_)
  · simp only [R.IMG_PP_LAST_FRAME]
    omega
  · simp only [R.IMG_PP_LAST_VALID]
    omega

theorem Mach.recordShown_recen (m : Mach) (n : Fin 16) (r : PoolRec) :
    (m.recordShown n r).rd (R.IMG_PP_CTRL_RECEN n) = m.rd (R.IMG_PP_CTRL_RECEN n) := by
  refine (m.recordShown_bookkeeping n r).rd (notMem_shownRegs n.isLt (poolReg_engine n.isLt ?_ ?_) ?_ ?_) <;>
    simp [R.IMG_PP_CTRL_RECEN, R.IMG_PP_LAST_FRAME, R.IMG_PP_LAST_VALID]

theorem Mach.recordShown_unbacked (m : Mach) (n : Fin 16) (r : PoolRec) (a : Nat) :
    (m.recordShown n r).unbacked a = m.unbacked a := by
  refine Mach.unbacked_congr a fun c hc => (m.recordShown_bookkeeping n r).keeps _ ?_
  simp only [shownRegs, raiseRegs, R.IMG_PP_LAST_FRAME, R.IMG_PP_LAST_VALID, R.HS_EVT_PEND, R.HSQ_PBA, R.CBK_QLEVEL_QMAX,
    R.CBK_ANGEL, R.MEM_CH_RMAP_L0, List.cons_append, List.nil_append, List.mem_cons, List.not_mem_nil, or_false]
  omega

theorem Mach.recordFiled_on (h : m.rd (R.IMG_PP_CTRL_RECEN n) = 1) : m.recordFiled n r = m.recWrite n r :=
  if_pos (by unfold Mach.on; rw [h]; rfl)

theorem Mach.recordFiled_off (h : m.rd (R.IMG_PP_CTRL_RECEN n) = 0) : m.recordFiled n r = m :=
  if_neg (by unfold Mach.on; rw [h]; decide)

theorem slotReg_block (k : Fin 160) {a : Nat} (h : 0x401000 + k * 0x40 ≤ a) (h' : a < 0x401040 + k * 0x40) : SlotReg a :=
  ⟨by omega, by omega⟩

/-- A slot's registers stand apart from what showing and filing a record writes. -/
theorem slotReg_notMem_records {n a : Nat} (hn : n < 16) (ha : SlotReg a) : a ∉ shownRegs n ∧ a ∉ filedRegs n := by
  obtain ⟨hlo, hhi⟩ := ha
  have hengine : EngineReg a := ⟨by omega, by omega⟩
  refine ⟨notMem_shownRegs hn hengine ?_ ?_, notMem_filedRegs hn hengine ?_ ?_⟩ <;>
    simp only [R.IMG_PP_LAST_FRAME, R.IMG_PP_LAST_VALID, R.IMG_PP_REC_WPTR, R.IMG_PP_REC_LOST] <;> omega

/-- A record shown and filed, of a machine whose queue it has left. -/
def Mach.recordDone (m : Mach) (n : Fin 16) (r : PoolRec) : Mach := (m.recordShown n r).recordFiled n r

theorem Mach.recordDone_slots (m : Mach) (n : Fin 16) (r : PoolRec) {q : RF} (hq : SlotReg q.a) :
    (m.recordDone n r).rd q = m.rd q := by
  obtain ⟨hshown, hfiled⟩ := slotReg_notMem_records n.isLt hq
  exact (((m.recordShown n r).recordFiled_bookkeeping n r).rd hfiled).trans ((m.recordShown_bookkeeping n r).rd hshown)

/-- Every slot is in its state, of its kind and its field as before. -/
theorem Mach.recordDone_slotCfg (m : Mach) (n : Fin 16) (r : PoolRec) (k : Fin 160) :
    (m.recordDone n r).runs k = m.runs k ∧ (m.recordDone n r).frameSlot k = m.frameSlot k ∧
    (m.recordDone n r).slotField k = m.slotField k := by
  have hreg (q : RF) (h : 0x401000 + k * 0x40 ≤ q.a) (h' : q.a < 0x401040 + k * 0x40) : (m.recordDone n r).rd q = m.rd q :=
    m.recordDone_slots n r (slotReg_block k h h')
  exact ⟨congrArg (· == 1) (hreg (R.CE_SLOT_STATUS_STATE k) (by simp [R.CE_SLOT_STATUS_STATE]) (by simp [R.CE_SLOT_STATUS_STATE])),
    congrArg (· == 1) (hreg (R.CE_SLOT_CFG_FRM k) (by simp [R.CE_SLOT_CFG_FRM]) (by simp [R.CE_SLOT_CFG_FRM])),
    hreg (R.CE_SLOT_CFG_FIELD k) (by simp [R.CE_SLOT_CFG_FIELD]) (by simp [R.CE_SLOT_CFG_FIELD])⟩

theorem Mach.recordDone_parts (m : Mach) (n : Fin 16) (r : PoolRec) : (m.recordDone n r).pool = m.pool ∧
    (m.recordDone n r).slot = m.slot ∧ (m.recordDone n r).fe = m.fe ∧ (m.recordDone n r).mt = m.mt := by
  have hshown := m.recordShown_bookkeeping n r
  have hfiled := (m.recordShown n r).recordFiled_bookkeeping n r
  exact ⟨hfiled.pool.trans hshown.pool, hfiled.slot.trans hshown.slot, hfiled.fe.trans hshown.fe, hfiled.mt.trans hshown.mt⟩

/-- Filing leaves the numbers shown. -/
theorem Mach.recordDone_rd (m : Mach) (n : Fin 16) (r : PoolRec) :
    (m.recordDone n r).rd (R.IMG_PP_LAST_FRAME n) = r.frame.toNat ∧
    (m.recordDone n r).rd (R.IMG_PP_LAST_VALID n) = (if r.inv = 0 then r.frame.toNat else m.rd (R.IMG_PP_LAST_VALID n)) := by
  obtain ⟨hframe, hvalid⟩ := m.recordShown_rd n r
  have hfiled := (m.recordShown n r).recordFiled_bookkeeping n r
  have hlast : (R.IMG_PP_LAST_FRAME n).a ∉ filedRegs n := by
    refine notMem_filedRegs n.isLt (poolReg_engine n.isLt ?_ ?_) ?_ ?_ <;>
      simp [R.IMG_PP_LAST_FRAME, R.IMG_PP_REC_WPTR, R.IMG_PP_REC_LOST]
  have hlastValid : (R.IMG_PP_LAST_VALID n).a ∉ filedRegs n := by
    refine notMem_filedRegs n.isLt (poolReg_engine n.isLt ?_ ?_) ?_ ?_ <;>
      simp [R.IMG_PP_LAST_VALID, R.IMG_PP_REC_WPTR, R.IMG_PP_REC_LOST]
  exact ⟨(hfiled.rd hlast).trans hframe, (hfiled.rd hlastValid).trans hvalid⟩

theorem Mach.recordDone_evt (m : Mach) (n : Fin 16) (r : PoolRec) (h : m.raisedThisTick (112 + n) = false)
    (hb : r.inv.getLsbD 2 = true) : (m.recordDone n r).evt (112 + n) = 1 := by
  obtain ⟨hshown, -⟩ := m.recordShown_raised n r h
  unfold Mach.recordDone Mach.recordFiled
  split
  · exact Mach.recWrite_evt _ n r (hshown hb)
  · exact hshown hb

theorem Mach.recordDone_off (h : m.rd (R.IMG_PP_CTRL_RECEN n) = 0) :
    (m.recordDone n r).mem = m.mem ∧ m.Keeps (m.recordDone n r) (shownRegs n) := by
  have hoff : m.recordDone n r = m.recordShown n r := Mach.recordFiled_off ((m.recordShown_recen n r).trans h)
  rw [hoff]
  exact ⟨m.recordShown_mem n r, (m.recordShown_bookkeeping n r).keeps⟩

theorem Mach.recordDone_on (h : m.rd (R.IMG_PP_CTRL_RECEN n) = 1) : m.recordDone n r = (m.recordShown n r).recWrite n r :=
  Mach.recordFiled_on ((m.recordShown_recen n r).trans h)

/-- With the ring on, the record is written at the write pointer, or is lost with the ring full. -/
theorem Mach.recordDone_ring (hr : m.raisedThisTick (112 + n) = false) (hl : r.encode.length = 256) {A z : Nat}
    (hz : z = 2 ^ (8 + m.rd (R.IMG_PP_REC_SIZE n)))
    (hA : A = m.addr (R.IMG_PP_REC_BASE_LO n) (R.IMG_PP_REC_BASE_HI n) + 256 * m.rd (R.IMG_PP_REC_WPTR n))
    (hon : m.rd (R.IMG_PP_CTRL_RECEN n) = 1) :
    (ringFull z (m.rd (R.IMG_PP_REC_WPTR n)) (m.rd (R.IMG_PP_REC_RPTR n)) = false →
      (m.recordDone n r).rd (R.IMG_PP_REC_WPTR n) = (m.rd (R.IMG_PP_REC_WPTR n) + 1) % z ∧
      (m.unbacked A = false → m.unbacked (A + 128) = false → (m.recordDone n r).bytes A 256 = r.encode) ∧
      ∀ a, a < A ∨ A + 256 ≤ a → (m.recordDone n r).byte a = m.byte a) ∧
    (ringFull z (m.rd (R.IMG_PP_REC_WPTR n)) (m.rd (R.IMG_PP_REC_RPTR n)) = true →
      (m.recordDone n r).rd (R.IMG_PP_REC_LOST n) = min (m.rd (R.IMG_PP_REC_LOST n) + 1) (2 ^ 32 - 1) ∧
      (m.recordDone n r).evt (112 + n) = 1 ∧ (m.recordDone n r).mem = m.mem) := by
  have hsize := m.recordShown_ring n r (q := R.IMG_PP_REC_SIZE n) (by simp [R.IMG_PP_REC_SIZE]) (by simp [R.IMG_PP_REC_SIZE])
  have hwptr := m.recordShown_ring n r (q := R.IMG_PP_REC_WPTR n) (by simp [R.IMG_PP_REC_WPTR]) (by simp [R.IMG_PP_REC_WPTR])
  have hrptr := m.recordShown_ring n r (q := R.IMG_PP_REC_RPTR n) (by simp [R.IMG_PP_REC_RPTR]) (by simp [R.IMG_PP_REC_RPTR])
  have hlost := m.recordShown_ring n r (q := R.IMG_PP_REC_LOST n) (by simp [R.IMG_PP_REC_LOST]) (by simp [R.IMG_PP_REC_LOST])
  have hlo := m.recordShown_ring n r (q := R.IMG_PP_REC_BASE_LO n) (by simp [R.IMG_PP_REC_BASE_LO]) (by simp [R.IMG_PP_REC_BASE_LO])
  have hhi := m.recordShown_ring n r (q := R.IMG_PP_REC_BASE_HI n) (by simp [R.IMG_PP_REC_BASE_HI]) (by simp [R.IMG_PP_REC_BASE_HI])
  have hbase : (m.recordShown n r).addr (R.IMG_PP_REC_BASE_LO n) (R.IMG_PP_REC_BASE_HI n) =
      m.addr (R.IMG_PP_REC_BASE_LO n) (R.IMG_PP_REC_BASE_HI n) := by
    unfold Mach.addr
    rw [hlo, hhi]
  have hback := m.recordShown_unbacked n r
  have hmem := m.recordShown_mem n r
  obtain ⟨-, hraised⟩ := m.recordShown_raised n r hr
  rw [m.recordDone_on hon]
  generalize m.recordShown n r = t at *
  rw [← hsize] at hz
  rw [← hwptr, ← hrptr, ← hlost]
  rw [← hbase, ← hwptr] at hA
  refine ⟨fun hroom => ?_, fun hfull => ?_⟩
  · obtain ⟨hw, hbytes, hothers⟩ := t.recWrite_written n r hz hA hl hroom
    refine ⟨hw, fun h0 h1 => hbytes ((hback A).trans h0) ((hback _).trans h1), fun a ha => (hothers a ha).trans ?_⟩
    unfold Mach.byte
    rw [hmem]
  · rw [hz] at hfull
    obtain ⟨hcount, hevt, hsame⟩ := t.recWrite_lost n r hfull hraised
    exact ⟨hcount, hevt, hsame.trans hmem⟩

end

section
variable {s : State} {dt : Nat} {n : Fin 16} {m : Mach} (hm : m = s.at dt) {r : PoolRec} {rest : List PoolRec}
  (hp : m.pool[n].pend = r :: rest)
include hm hp

/-- R230 to R232: the record is shown and filed. -/
theorem poolRecordDeliver_files (hr : m.raisedThisTick (112 + n) = false) (hidle : ∀ k : Fin 160, m.runs k = false)
    (hl : r.encode.length = 256) : Answers (.poolRecordDeliver dt n) s fun t =>
      t.pool[n] = { m.pool[n] with pend := rest, flags := if r.inv = 0 then r.pflag else m.pool[n].flags } ∧
      t.rd (R.IMG_PP_LAST_FRAME n) = r.frame.toNat ∧
      t.rd (R.IMG_PP_LAST_VALID n) = (if r.inv = 0 then r.frame.toNat else m.rd (R.IMG_PP_LAST_VALID n)) ∧
      (r.inv.getLsbD 2 = true → t.evt (112 + n) = 1) ∧
      (∀ A z, z = 2 ^ (8 + m.rd (R.IMG_PP_REC_SIZE n)) →
        A = m.addr (R.IMG_PP_REC_BASE_LO n) (R.IMG_PP_REC_BASE_HI n) + 256 * m.rd (R.IMG_PP_REC_WPTR n) → m.rd (R.IMG_PP_CTRL_RECEN n) = 1 →
        (ringFull z (m.rd (R.IMG_PP_REC_WPTR n)) (m.rd (R.IMG_PP_REC_RPTR n)) = false →
          t.rd (R.IMG_PP_REC_WPTR n) = (m.rd (R.IMG_PP_REC_WPTR n) + 1) % z ∧
          (m.unbacked A = false → m.unbacked (A + 128) = false → t.bytes A 256 = r.encode) ∧
          ∀ a, a < A ∨ A + 256 ≤ a → t.byte a = m.byte a) ∧
        (ringFull z (m.rd (R.IMG_PP_REC_WPTR n)) (m.rd (R.IMG_PP_REC_RPTR n)) = true →
          t.rd (R.IMG_PP_REC_LOST n) = min (m.rd (R.IMG_PP_REC_LOST n) + 1) (2 ^ 32 - 1) ∧ t.evt (112 + n) = 1 ∧ t.mem = m.mem)) ∧
      (m.rd (R.IMG_PP_CTRL_RECEN n) = 0 → t.mem = m.mem ∧
        m.Keeps t ([(R.IMG_PP_LAST_FRAME n).a, (R.IMG_PP_LAST_VALID n).a] ++ raiseRegs (112 + n))) ∧
      (∀ j : Fin 16, j ≠ n → t.pool[j] = m.pool[j]) ∧ t.slot = m.slot ∧ t.fe = m.fe := by
  have ht := m.poolDeliver_cons n r hp
  have hruns (k : Fin 160) := (Mach.recordDone_slotCfg (m.recordTaken n r rest) n r k).1.trans (hidle k)
  have hdone := ht.trans (Mach.deliverRec_idle ((m.recordTaken n r rest).recordDone n r) n r hruns)
  obtain ⟨hframe, hvalid⟩ := (m.recordTaken n r rest).recordDone_rd n r
  have hevt := (m.recordTaken n r rest).recordDone_evt n r hr
  obtain ⟨hpool, hslot, hfe, -⟩ := (m.recordTaken n r rest).recordDone_parts n r
  have hring (A z : Nat) := Mach.recordDone_ring (m := m.recordTaken n r rest) (r := r) hr hl (A := A) (z := z)
  have hoff := Mach.recordDone_off (m := m.recordTaken n r rest) (n := n) (r := r)
  generalize (m.recordTaken n r rest).recordDone n r = t at *
  have hself : t.pool[n] = _ := (congrArg (fun v : Vector Pool 16 => v[n]) hpool).trans (set_fin_self ..)
  have hothers (j : Fin 16) (hj : j ≠ n) : t.pool[j] = m.pool[j] :=
    (congrArg (fun v : Vector Pool 16 => v[j]) hpool).trans (set_fin_ne _ _ hj)
  subst hm
  exact answers_of rfl hdone ⟨hself, hframe, hvalid, hevt, hring, hoff, hothers, hslot, hfe⟩

/-- R180: the one slot in RUN that takes the field's records gets a sample. -/
theorem poolRecordDeliver_samples {k : Fin 160} (hk : m.runs k = true) (hf : m.frameSlot k = true)
    (hn : m.slotField k = n) (hfirst : m.slot[k].firstTk ≤ m.mt) (he : m.slot[k].exec = []) (hs : m.slot[k].stopAt = none)
    (hw : m.slot[k].swapReq = none) (hothers : ∀ j : Fin 160, j ≠ k → m.runs j = false) :
    Answers (.poolRecordDeliver dt n) s fun t =>
      (∃ e, t.slot[k] = { m.slot[k] with exec := [e], lastTk := some m.mt } ∧ e.tk = m.mt ∧ e.ready = m.mt) ∧
      (∀ j : Fin 160, j ≠ k → t.slot[j] = m.slot[j]) := by
  have ht := m.poolDeliver_cons n r hp
  have hstate (j : Fin 160) (b : Bool) (hj : m.runs j = b) : ((m.recordTaken n r rest).recordDone n r).runs j = b :=
    (Mach.recordDone_slotCfg _ n r j).1.trans hj
  obtain ⟨-, hframe, hfield⟩ := Mach.recordDone_slotCfg (m.recordTaken n r rest) n r k
  have hframeSlot := hframe.trans hf
  have hslotField := hfield.trans hn
  obtain ⟨-, hslot, -, hmt⟩ := (m.recordTaken n r rest).recordDone_parts n r
  change m.poolDeliver n = ((m.recordTaken n r rest).recordDone n r).deliverRec n r at ht
  generalize (m.recordTaken n r rest).recordDone n r = t at *
  have hthis : t.slot[k] = m.slot[k] := congrArg (fun v : Vector Slot 160 => v[k]) hslot
  have htime : t.mt = m.mt := hmt
  have hsampled := t.deliverRec_one n r (hstate k true hk) hframeSlot hslotField
    (by rw [hthis, htime]; exact hfirst) (by rw [hthis]; exact he) (by rw [hthis]; exact hs) (by rw [hthis]; exact hw)
    (fun j hj => hstate j false (hothers j hj))
  have hexec : (t.sampled k (some r)).slot[k] =
      { m.slot[k] with exec := [t.sampleRec k (some r)], lastTk := some m.mt } := by
    rw [Mach.sampled_slot, hthis, htime, he]
    rfl
  have hready : (t.sampleRec k (some r)).ready = m.mt := (if_pos hframeSlot).trans htime
  have hrest (j : Fin 160) (hj : j ≠ k) : (t.sampled k (some r)).slot[j] = m.slot[j] :=
    (set_fin_ne _ _ hj).trans (congrArg (fun v : Vector Slot 160 => v[j]) hslot)
  subst hm
  exact answers_of rfl (ht.trans hsampled) ⟨⟨_, hexec, htime, hready⟩, hrest⟩

end

end Sys2Proof.Machine
end

section
/-! PROOF. Image processors: frames taken and completed, and the shadow sets (R295, R297, R300, R301). -/
namespace Sys2Proof.Machine

/-! ## Lists and fields -/

theorem getD_modify_same {α : Type} (l : List α) (i : Nat) (f : α → α) (d : α) (h : i < l.length) :
    (modify l i f).getD i d = f (l.getD i d) := by
  induction l generalizing i with
  | nil => exact absurd h (Nat.not_lt_zero _)
  | cons a l ih =>
    cases i with
    | zero => rfl
    | succ i => exact ih i (Nat.lt_of_succ_lt_succ h)

theorem getD_modify_ne {α : Type} (l : List α) {i k : Nat} (f : α → α) (d : α) (h : k ≠ i) :
    (modify l i f).getD k d = l.getD k d := by
  induction l generalizing i k with
  | nil => rfl
  | cons a l ih =>
    cases i with
    | zero =>
      cases k with
      | zero => exact absurd rfl h
      | succ k => rfl
    | succ i =>
      cases k with
      | zero => rfl
      | succ k => exact ih fun e => h (congrArg Nat.succ e)

section
variable (m : Mach) (b : Fin 2)

theorem Mach.wr_biBusy (v : Nat) : (m.wr (R.IMG_BI_STATUS_BUSY b) v).rd (R.IMG_BI_STATUS_BUSY b) = v % 2 :=
  rrd_rwr_same _ _ (Nat.zero_le 0) (show 0 < 32 by decide)

theorem Mach.wrs_biStatus (v p : Nat) :
    (m.wrs [(R.IMG_BI_STATUS_BUSY b, v), (R.IMG_BI_STATUS_PORT b, p)]).rd (R.IMG_BI_STATUS_BUSY b) = v % 2 ∧
    (m.wrs [(R.IMG_BI_STATUS_BUSY b, v), (R.IMG_BI_STATUS_PORT b, p)]).rd (R.IMG_BI_STATUS_PORT b) = p % 32 := by
  refine ⟨(rrd_rwrs_written [] [_] _ (Nat.zero_le 0) (show 0 < 32 by decide) ?_), (rrd_rwrs_written [_] [] _
    (show 1 ≤ 5 by decide) (show 5 < 32 by decide) (by simp))⟩
  simp [RF.Apart, R.IMG_BI_STATUS_BUSY, R.IMG_BI_STATUS_PORT]

theorem Mach.wrs_biStatus_keeps (v p : Nat) :
    m.Keeps (m.wrs [(R.IMG_BI_STATUS_BUSY b, v), (R.IMG_BI_STATUS_PORT b, p)]) [(R.IMG_BI_STATUS_BUSY b).a] :=
  (m.wrs_only _ (by simp [R.IMG_BI_STATUS_BUSY, R.IMG_BI_STATUS_PORT])).1

/-! ## A frame is taken -/

theorem Mach.biTake_none (h : m.bi[b].cur.isSome = true ∨ m.biPick b = none ∨ (b = 1 ∧ m.bi0Takes = true)) :
    m.biTake b = m := by
  unfold Mach.biTake
  split
  · rfl
  · next hfree =>
    rcases h with h | h | ⟨h, h'⟩
    · exact absurd (by rw [h]; rfl) hfree
    · rw [h]
    · exact absurd (by simp [h, h']) hfree

/-- With no set due, a frame begins with the settings in force. -/
theorem Mach.applySets_none (bank : Nat) (f : Frame) (h : ∀ k, m.setDue b k = false) : m.applySets b bank f = m := by
  unfold Mach.applySets
  rw [if_neg (by simp [h bank])]
  exact List.foldl_fixed' (fun k => if_neg (by simp [h])) _

/-- The ring of a frame's port, with the frame taken out of the queue of the waiting ones. -/
def Mach.ringTaken (f : Frame) : Mach :=
  m.setCam f.port { m.cam[f.port] with
    ring := m.cam[f.port].ring.map fun q => if q.slot = f.slot then { f with taken := true } else q }

/-- The job of a frame that begins now. -/
def Mach.biJob (bank : Nat) (f : Frame) : BiJob :=
  { frame := f, bank := bank, force := biForce m.force b
    modes := (List.range 4).map fun s => m.rd (R.IMG_BI_S_STATUS_STATE b s) }

theorem Mach.biStart_none (bank : Nat) (f : Frame) (h : ∀ k, m.setDue b k = false) :
    m.biStart b bank f = (m.setBi b { m.bi[b] with cur := some (m.biJob b bank f) }).wrs
      [(R.IMG_BI_STATUS_BUSY b, 1), (R.IMG_BI_STATUS_PORT b, f.port)] := by
  unfold Mach.biStart
  rw [m.applySets_none b bank f h]
  rfl

theorem Mach.biTake_some {f : Frame} {bank : Nat} (hc : m.bi[b].cur = none) (h1 : b = 1 → m.bi0Takes = false)
    (hp : m.biPick b = some (f, bank)) (h : ∀ k, m.setDue b k = false) :
    m.biTake b = ((m.ringTaken f).setBi b
      { m.bi[b] with cur := some ((m.ringTaken f).biJob b bank { f with taken := true }) }).wrs
        [(R.IMG_BI_STATUS_BUSY b, 1), (R.IMG_BI_STATUS_PORT b, f.port)] := by
  have hfree : (m.bi[b].cur.isSome || (b == 1 && m.bi0Takes)) = false := by
    rw [hc]
    by_cases hb : b = 1
    · simp [h1 hb]
    · simp [hb]
  have hstart := (m.ringTaken f).biStart_none b bank { f with taken := true } h
  unfold Mach.biTake
  rw [if_neg (Bool.eq_false_iff.mp hfree), hp]
  exact hstart

/-! ## A frame is complete -/

/-- Registers of the statistics of a processor. -/
def statsRegs (b : Nat) : List Nat :=
  [(R.IMG_BI_STWPTR b).a, (R.IMG_BI_STLOST b).a] ++ raiseRegs (133 + b) ++ storeRegs 6

theorem biReg_engine {b a : Nat} (hb : b < 2) (h : 0x1020000 + b * 0x10000 ≤ a) (h' : a < 0x1030000 + b * 0x10000) :
    EngineReg a := ⟨by omega, by omega⟩

theorem notMem_statsRegs {b a : Nat} (hb : b < 2) (ha : EngineReg a) (hw : a ≠ (R.IMG_BI_STWPTR b).a)
    (hl : a ≠ (R.IMG_BI_STLOST b).a) : a ∉ statsRegs b := by
  have hraise : a ∉ raiseRegs (133 + b) := ha.notMem_raiseRegs (by omega)
  have hstore : a ∉ storeRegs 6 := ha.notMem_storeRegs (by decide)
  simp [statsRegs, hw, hl, hraise, hstore]

theorem Mach.statsWrite_full {z : Nat} (bytes : List Byte) (hz : z = 2 ^ (2 + m.rd (R.IMG_BI_STSIZE b)))
    (h : ringFull z (m.rd (R.IMG_BI_STWPTR b)) (m.rd (R.IMG_BI_STRPTR b)) = true) :
    m.statsWrite b bytes = m.inc (R.IMG_BI_STLOST b) := by
  subst hz
  exact if_pos h

/-- The machine after the bytes of a statistics record are written at its ring's write pointer. -/
def Mach.statsWritten (bytes : List Byte) : Mach :=
  m.dmaWrite 6 (8 + b) (m.addr (R.IMG_BI_STBASE_LO b) (R.IMG_BI_STBASE_HI b) + 12288 * m.rd (R.IMG_BI_STWPTR b)) bytes

theorem Mach.statsWrite_room {z : Nat} (bytes : List Byte) (hz : z = 2 ^ (2 + m.rd (R.IMG_BI_STSIZE b)))
    (h : ringFull z (m.rd (R.IMG_BI_STWPTR b)) (m.rd (R.IMG_BI_STRPTR b)) = false) :
    m.statsWrite b bytes =
      ((m.statsWritten b bytes).wr (R.IMG_BI_STWPTR b) (ringNext z (m.rd (R.IMG_BI_STWPTR b)))).raiseOnce (133 + b) 0 b 0 := by
  subst hz
  exact if_neg (Bool.eq_false_iff.mp h)

theorem Mach.statsWrite_bookkeeping (bytes : List Byte) : m.BookkeepingOnly (statsRegs b) (m.statsWrite b bytes) := by
  cases h : ringFull (2 ^ (2 + m.rd (R.IMG_BI_STSIZE b))) (m.rd (R.IMG_BI_STWPTR b)) (m.rd (R.IMG_BI_STRPTR b)) with
  | true =>
    rw [m.statsWrite_full b bytes rfl h]
    exact (m.inc_bookkeeping (R.IMG_BI_STLOST b)).mono (by simp [statsRegs])
  | false =>
    rw [m.statsWrite_room b bytes rfl h]
    refine Mach.BookkeepingOnly.trans ?_ ((Mach.raiseOnce_bookkeeping _ (133 + b) 0 b 0).mono ?_)
    · exact ((m.dmaWrite_bookkeeping 6 (8 + b) _ bytes).mono (List.subset_append_right ..)).trans
        ((Mach.wr_bookkeeping _ (R.IMG_BI_STWPTR b) _).mono (List.cons_subset.mpr ⟨List.mem_cons_self .., List.nil_subset _⟩))
    · exact List.subset_append_of_subset_left _ (List.subset_append_right ..)

theorem Mach.wr_stwptr (v : Nat) : (m.wr (R.IMG_BI_STWPTR b) v).rd (R.IMG_BI_STWPTR b) = v % 2 ^ 24 :=
  rrd_rwr_same _ _ (Nat.zero_le 23) (show 23 < 32 by decide)

/-- With room in the ring the write pointer goes on, and the processor's source shows. -/
theorem Mach.statsWrite_shows {z : Nat} (bytes : List Byte) (hz : z = 2 ^ (2 + m.rd (R.IMG_BI_STSIZE b)))
    (h : ringFull z (m.rd (R.IMG_BI_STWPTR b)) (m.rd (R.IMG_BI_STRPTR b)) = false) :
    (m.statsWrite b bytes).rd (R.IMG_BI_STWPTR b) = (m.rd (R.IMG_BI_STWPTR b) + 1) % z ∧
    (m.raisedThisTick (133 + b) = false → (m.statsWrite b bytes).evt (133 + b) = 1) := by
  have hsize : m.rd (R.IMG_BI_STSIZE b) < 2 ^ 4 := rrd_lt (R.IMG_BI_STSIZE b).a 3 0
  have hpos : 0 < z := hz ▸ Nat.two_pow_pos _
  have hle : z ≤ 2 ^ 23 := hz ▸ Nat.pow_le_pow_right (by decide) (by omega)
  have hptr : EngineReg (R.IMG_BI_STWPTR b).a := biReg_engine b.isLt (by simp [R.IMG_BI_STWPTR]) (by simp only [R.IMG_BI_STWPTR]; omega)
  have hraised : (m.statsWritten b bytes).raisedThisTick (133 + b) = m.raisedThisTick (133 + b) :=
    m.dmaWrite_raised 6 (8 + b) _ bytes (by omega)
  have hwr (t : Mach) (q : RF) (v : Nat) : (t.wr q v).raisedThisTick (133 + b) = t.raisedThisTick (133 + b) := rfl
  rw [m.statsWrite_room b bytes hz h]
  refine ⟨?_, fun hr => Mach.raiseOnce_evt _ 0 b 0 (by omega) (.inl ((hwr ..).trans (hraised.trans hr)))⟩
  rw [(Mach.raiseOnce_bookkeeping _ (133 + b) 0 b 0).rd (hptr.notMem_raiseRegs (by omega)), Mach.wr_stwptr]
  exact ringNext_fits hpos hle

theorem Mach.statsWrite_lost {z : Nat} (bytes : List Byte) (hz : z = 2 ^ (2 + m.rd (R.IMG_BI_STSIZE b)))
    (h : ringFull z (m.rd (R.IMG_BI_STWPTR b)) (m.rd (R.IMG_BI_STRPTR b)) = true) :
    (m.statsWrite b bytes).rd (R.IMG_BI_STLOST b) = min (m.rd (R.IMG_BI_STLOST b) + 1) (2 ^ 32 - 1) ∧
    (m.statsWrite b bytes).mem = m.mem := by
  rw [m.statsWrite_full b bytes hz h]
  exact ⟨rrd_rinc_word .., Mach.inc_mem ..⟩

/-- A frame that no stream takes leaves its statistics alone. -/
theorem Mach.biOutputs_stats (j : BiJob) (h : ∀ k, k < 4 → j.streams b k = false) :
    ∃ bytes, m.biOutputs b j = m.statsWrite b bytes := by
  refine ⟨j.stats b ((j.proc b).stage3 j.frame.lines), ?_⟩
  unfold Mach.biOutputs
  dsimp only
  generalize m.statsWrite b _ = t
  refine List.foldlRecOn _ _ (motive := (· = t)) rfl fun x hx k hk => ?_
  exact (if_neg (by simp [h k (List.mem_range.mp hk)])).trans hx

/-- The slot that a frame of the ring holds is freed. -/
def Mach.frameFreed (f : Frame) : Mach := if f.taken then m.freeWait f else m

theorem Mach.frameFreed_eq (f : Frame) : ∃ v : Vector Cam 20, m.frameFreed f = { m with cam := v } ∧
    (f.taken = true → v[f.port].ring = m.cam[f.port].ring.filter fun q => !(q.slot == f.slot && q.taken)) := by
  unfold Mach.frameFreed
  split
  · exact ⟨_, rfl, fun _ => congrArg Cam.ring (set_fin_self ..)⟩
  · next h => exact ⟨_, rfl, fun h' => absurd h' h⟩

theorem Mach.biComplete_none (h : ∀ j, m.bi[b].cur = some j → j.frame.closed = false) : m.biComplete b = m := by
  unfold Mach.biComplete
  split
  · rfl
  · next j hj => exact if_pos (by rw [h j hj]; rfl)

/-- The processor goes on with its suspended frame or is free; of the registers its status alone changes. -/
theorem Mach.biNext_shows : ∃ g, m.biNext b =
      { m with bi := m.bi.set b { m.bi[b] with cur := m.bi[b].susp, susp := none }, regs := g } ∧
    rrd g (R.IMG_BI_STATUS_BUSY b) = bool01 m.bi[b].susp.isSome ∧
    ∀ a, a ≠ (R.IMG_BI_STATUS_BUSY b).a → rget g a = rget m.regs a := by
  unfold Mach.biNext
  dsimp only
  cases m.bi[b].susp with
  | none =>
    exact ⟨_, rfl, m.wr_biBusy b 0, fun a ha => m.wr_word_ne 0 ha⟩
  | some j =>
    obtain ⟨hbusy, -⟩ := m.wrs_biStatus b 1 j.frame.port
    exact ⟨_, rfl, hbusy, fun a ha => m.wrs_biStatus_keeps b 1 j.frame.port a (by simpa using ha)⟩

/-- What follows the outputs of a frame: it is counted, its slot is freed, and the processor goes on (R292, R297). -/
def Mach.frameDone (f : Frame) : Mach := ((m.inc (R.IMG_BI_FRAMES b)).frameFreed f).biNext b

theorem Mach.frameDone_shows (f : Frame) :
    (m.frameDone b f).rd (R.IMG_BI_FRAMES b) = min (m.rd (R.IMG_BI_FRAMES b) + 1) (2 ^ 32 - 1) ∧
    (m.frameDone b f).bi = m.bi.set b { m.bi[b] with cur := m.bi[b].susp, susp := none } ∧
    (m.frameDone b f).rd (R.IMG_BI_STATUS_BUSY b) = bool01 m.bi[b].susp.isSome ∧
    (f.taken = true → (m.frameDone b f).cam[f.port].ring =
      m.cam[f.port].ring.filter fun q => !(q.slot == f.slot && q.taken)) ∧
    (m.frameDone b f).mem = m.mem ∧
    m.Keeps (m.frameDone b f) [(R.IMG_BI_FRAMES b).a, (R.IMG_BI_STATUS_BUSY b).a] := by
  have hcount : rrd (m.inc (R.IMG_BI_FRAMES b)).regs (R.IMG_BI_FRAMES b) =
      min (m.rd (R.IMG_BI_FRAMES b) + 1) (2 ^ 32 - 1) := rrd_rinc_word ..
  have hinc := (m.inc_only (R.IMG_BI_FRAMES b)).1
  obtain ⟨v, hfreed, hring⟩ := (m.inc (R.IMG_BI_FRAMES b)).frameFreed_eq f
  obtain ⟨g, hnext, hbusy, hwords⟩ := ((m.inc (R.IMG_BI_FRAMES b)).frameFreed f).biNext_shows b
  rw [hfreed] at hwords hbusy
  have hframes : rrd g (R.IMG_BI_FRAMES b) = rrd (m.inc (R.IMG_BI_FRAMES b)).regs (R.IMG_BI_FRAMES b) :=
    congrArg (fun u : Word => bits u.toNat 31 0) (hwords _ (by simp [R.IMG_BI_FRAMES, R.IMG_BI_STATUS_BUSY]))
  unfold Mach.frameDone
  rw [hnext, hfreed]
  refine ⟨hframes.trans hcount, rfl, hbusy, hring, rfl, fun a ha => ?_⟩
  simp only [List.mem_cons, List.not_mem_nil, or_false, not_or] at ha
  exact (hwords a ha.2).trans (hinc a (by simpa using ha.1))

/-- A closed frame: its outputs, and what follows them. -/
theorem Mach.biComplete_some {j : BiJob} (hj : m.bi[b].cur = some j) (hc : j.frame.closed = true) :
    m.biComplete b = (m.biOutputs b j).frameDone b j.frame := by
  unfold Mach.biComplete
  rw [hj]
  exact if_neg (by simp [hc])

end

end Sys2Proof.Machine
end

section
/-! PROOF. What the commands of the image processors answer, and the statement on pool records, frames of the image
processors and shadow sets (R295, R297, R300, R301). -/
namespace Sys2Proof.Machine

/-! ## Shadow sets -/

theorem commitBit_field (b k : Nat) : (commitBit b k).msb = 0 ∧ (commitBit b k).lsb = 0 := by
  unfold commitBit
  split <;> exact ⟨rfl, rfl⟩

theorem rrd_commitBit (g : Sparse Word) (b k : Nat) : rrd (rwr g (commitBit b k) 1) (commitBit b k) = 1 := by
  obtain ⟨hm, hl⟩ := commitBit_field b k
  rw [rrd_rwr_same _ _ (by rw [hm, hl]) (by rw [hm]; decide), hm, hl]
  rfl

theorem setIx_lt (x : ShadowSet) : (setIx x).2 < 7 := by
  cases x with
  | bank b k => exact Nat.lt_of_lt_of_le k.isLt (by decide)
  | stream b k => exact Nat.add_lt_add_left k.isLt 3

/-- R301: COMMIT makes one set pending. -/
theorem shadowCommit_pends {s : State} {dt : Nat} {m : Mach} (hm : m = s.at dt) {b : Fin 2} {x : ShadowSet}
    (ho : m.open? 0x1000000 = true) (hb : (setIx x).1 = b) (hl : m.bi[b].commits.length = 7) :
    Answers (.shadowCommit dt x) s fun t =>
      t.rd (commitBit b (setIx x).2) = 1 ∧ (t.bi[b].commits).getD (setIx x).2 none = some m.mt ∧
      (∀ k, k ≠ (setIx x).2 → (t.bi[b].commits).getD k none = (m.bi[b].commits).getD k none) ∧ t.force = m.force ∧
      (∀ k : Fin 2, k ≠ b → t.bi[k] = m.bi[k]) ∧ m.Keeps t [(commitBit b (setIx x).2).a] ∧
      t = { m with bi := t.bi, regs := t.regs } := by
  subst hb
  have hopen := Mach.ifOpen_open (·.shadowCommit x) ho
  have hix := setIx_lt x
  have hcommits : (m.shadowCommit x).bi[(setIx x).1].commits =
      modify m.bi[(setIx x).1].commits (setIx x).2 fun _ => some m.mt := congrArg Bi.commits (set_fin_self ..)
  have hself := getD_modify_same m.bi[(setIx x).1].commits (setIx x).2 (fun _ => some m.mt) none (by omega)
  have hothers {k : Nat} (hk : k ≠ (setIx x).2) :=
    getD_modify_ne m.bi[(setIx x).1].commits (fun _ => some m.mt) none hk
  rw [← hcommits] at hself hothers
  subst hm
  exact answers_of rfl hopen ⟨rrd_commitBit .., hself, fun k hk => hothers hk, rfl, fun k hk => set_fin_ne _ _ hk,
    Mach.wr_keeps _ _ 1 (List.mem_singleton_self _), rfl⟩

/-! ## Frames -/

section
variable {s : State} {dt : Nat} {b : Fin 2} {m : Mach} (hm : m = s.at dt)
include hm

/-- R295: a free processor starts the frame that it picks. -/
theorem biTakeFrame_starts {f : Frame} {bank : Nat} (hc : m.bi[b].cur = none) (h1 : b = 1 → m.bi0Takes = false)
    (hp : m.biPick b = some (f, bank)) (hd : ∀ k, m.setDue b k = false) : Answers (.biTakeFrame dt b) s fun t =>
      (∃ j, t.bi[b] = { m.bi[b] with cur := some j } ∧ j.frame = { f with taken := true } ∧ j.bank = bank) ∧
      t.rd (R.IMG_BI_STATUS_BUSY b) = 1 ∧ t.rd (R.IMG_BI_STATUS_PORT b) = f.port ∧
      t.cam[f.port].ring = m.cam[f.port].ring.map (fun q => if q.slot = f.slot then { f with taken := true } else q) ∧
      (∀ j : Fin 20, j ≠ f.port → t.cam[j] = m.cam[j]) ∧ (∀ k : Fin 2, k ≠ b → t.bi[k] = m.bi[k]) ∧
      m.Keeps t [(R.IMG_BI_STATUS_BUSY b).a] ∧ t = { m with cam := t.cam, bi := t.bi, regs := t.regs } := by
  have ht := m.biTake_some b hc h1 hp hd
  obtain ⟨hbusy, hport⟩ := m.wrs_biStatus b 1 f.port
  have hfits : f.port.val % 32 = f.port := Nat.mod_eq_of_lt (by omega)
  have hring : (m.ringTaken f).cam[f.port].ring = m.cam[f.port].ring.map _ := congrArg Cam.ring (set_fin_self ..)
  have hkeeps := m.wrs_biStatus_keeps b 1 f.port
  subst hm
  exact answers_of rfl ht ⟨⟨_, set_fin_self .., rfl, rfl⟩, hbusy, hport.trans hfits, hring,
    fun j hj => set_fin_ne _ _ hj, fun k hk => set_fin_ne _ _ hk, hkeeps, rfl⟩

/-- R297, R300: a frame that no stream takes is counted, and its statistics are written or counted lost. -/
theorem biFrameComplete_counts {j : BiJob} {z : Nat} (hj : m.bi[b].cur = some j) (hc : j.frame.closed = true)
    (hs : ∀ k, k < 4 → j.streams b k = false) (hz : z = 2 ^ (2 + m.rd (R.IMG_BI_STSIZE b))) :
    Answers (.biFrameComplete dt b) s fun t =>
      t.rd (R.IMG_BI_FRAMES b) = min (m.rd (R.IMG_BI_FRAMES b) + 1) (2 ^ 32 - 1) ∧
      t.bi[b] = { m.bi[b] with cur := m.bi[b].susp, susp := none } ∧
      t.rd (R.IMG_BI_STATUS_BUSY b) = bool01 m.bi[b].susp.isSome ∧
      (j.frame.taken = true → t.cam[j.frame.port].ring = m.cam[j.frame.port].ring.filter fun q => !(q.slot == j.frame.slot && q.taken)) ∧
      (ringFull z (m.rd (R.IMG_BI_STWPTR b)) (m.rd (R.IMG_BI_STRPTR b)) = true →
        t.rd (R.IMG_BI_STLOST b) = min (m.rd (R.IMG_BI_STLOST b) + 1) (2 ^ 32 - 1) ∧ t.mem = m.mem) ∧
      (ringFull z (m.rd (R.IMG_BI_STWPTR b)) (m.rd (R.IMG_BI_STRPTR b)) = false →
        t.rd (R.IMG_BI_STWPTR b) = (m.rd (R.IMG_BI_STWPTR b) + 1) % z ∧ (m.raisedThisTick (133 + b) = false → t.evt (133 + b) = 1)) ∧
      (∀ k : Fin 2, k ≠ b → t.bi[k] = m.bi[k]) := by
  have ht := m.biComplete_some b hj hc
  obtain ⟨bytes, hout⟩ := m.biOutputs_stats b j hs
  rw [hout] at ht
  have hstats := m.statsWrite_bookkeeping b bytes
  have hroom := m.statsWrite_shows b bytes hz
  have hlost := m.statsWrite_lost b bytes hz
  generalize m.statsWrite b bytes = w at ht hstats hroom hlost
  have hreg {a : Nat} (h : 0x1020000 + b * 0x10000 ≤ a) (h' : a < 0x1020058 + b * 0x10000) : EngineReg a :=
    biReg_engine b.isLt h (by omega)
  have hframes : w.rd (R.IMG_BI_FRAMES b) = m.rd (R.IMG_BI_FRAMES b) :=
    hstats.rd (notMem_statsRegs b.isLt (hreg (by simp [R.IMG_BI_FRAMES]) (by simp [R.IMG_BI_FRAMES]))
      (by simp [R.IMG_BI_FRAMES, R.IMG_BI_STWPTR]) (by simp [R.IMG_BI_FRAMES, R.IMG_BI_STLOST]))
  obtain ⟨hcount, hbi, hbusy, hring, hmem, hkeeps⟩ := w.frameDone_shows b j.frame
  generalize w.frameDone b j.frame = t at *
  rw [hframes] at hcount
  rw [hstats.bi] at hbi hbusy
  rw [hstats.cam] at hring
  have hptr : t.rd (R.IMG_BI_STWPTR b) = w.rd (R.IMG_BI_STWPTR b) :=
    Mach.rd_congr (hkeeps _ (by simp [R.IMG_BI_STWPTR, R.IMG_BI_FRAMES, R.IMG_BI_STATUS_BUSY]))
  have hlostCount : t.rd (R.IMG_BI_STLOST b) = w.rd (R.IMG_BI_STLOST b) :=
    Mach.rd_congr (hkeeps _ (by simp [R.IMG_BI_STLOST, R.IMG_BI_FRAMES, R.IMG_BI_STATUS_BUSY]))
  have hevt : t.evt (133 + b) = w.evt (133 + b) := by
    refine Mach.evt_congr (hkeeps _ ?_)
    have h0 := (hreg (a := (R.IMG_BI_FRAMES b).a) (by simp [R.IMG_BI_FRAMES]) (by simp [R.IMG_BI_FRAMES])).ne_evtWord
      (show 133 + b.val < 256 by omega)
    have h1 := (hreg (a := (R.IMG_BI_STATUS_BUSY b).a) (by simp [R.IMG_BI_STATUS_BUSY])
      (by simp [R.IMG_BI_STATUS_BUSY])).ne_evtWord (show 133 + b.val < 256 by omega)
    simp [h0, h1]
  have hself : t.bi[b] = { m.bi[b] with cur := m.bi[b].susp, susp := none } := by
    rw [hbi]
    exact set_fin_self ..
  have hothers (k : Fin 2) (hk : k ≠ b) : t.bi[k] = m.bi[k] := by
    rw [hbi]
    exact set_fin_ne _ _ hk
  subst hm
  refine answers_of rfl ht ⟨hcount, hself, hbusy, hring, fun hfull => ?_, fun hfree => ?_, hothers⟩
  · obtain ⟨hcountLost, hsame⟩ := hlost hfull
    exact ⟨hlostCount.trans hcountLost, hmem.trans hsame⟩
  · obtain ⟨hnextPtr, hraise⟩ := hroom hfree
    exact ⟨hptr.trans hnextPtr, fun hr => hevt.trans (hraise hr)⟩

end

/-- Settles O33: a delivery by the oldest record and its ring, a processor by what it may take or complete, and a COMMIT
by the one entry it writes. -/
theorem poolRecordsAndImageProcessors : Obligations.PoolRecordsAndImageProcessors := by
  refine ⟨fun s dt n m hm => ⟨fun h => ?_, fun r rest hp hr hidle hl => poolRecordDeliver_files hm hp hr hidle hl,
    fun r rest k hp hk hf hn ht he hs hw hothers => poolRecordDeliver_samples hm hp hk hf hn ht he hs hw hothers⟩,
    fun s dt b m hm => ⟨fun h => ?_, fun f bank hc h1 hp hd => biTakeFrame_starts hm hc h1 hp hd, fun h => ?_,
      fun j z hj hc hs hz => biFrameComplete_counts hm hj hc hs hz, fun x ho hb hl => shadowCommit_pends hm ho hb hl⟩⟩
  · have ht := m.poolDeliver_nil n h
    subst hm
    exact answers_of rfl ht rfl
  · have ht := m.biTake_none b h
    subst hm
    exact answers_of rfl ht rfl
  · have ht := m.biComplete_none b h
    subst hm
    exact answers_of rfl ht rfl

end Sys2Proof.Machine
end

section
/-! PROOF. Claims and their conflicts (R246): what judges them, and that either claim may be named first. -/
namespace Sys2Proof.Machine

/-- A register of the trellis (R36, R241 to R245). -/
@[reducible] def TrlReg (a : Nat) : Prop := 0xC00000 ≤ a ∧ a < 0xD00000

theorem clampN_le {lo hi x : Nat} (h : lo ≤ hi) : clampN lo hi x ≤ hi := by
  unfold clampN
  split
  · exact h
  · split <;> omega

/-- An owner set is one of 256. -/
theorem Mach.tileSet_lt (m : Mach) (x y : Nat) : m.tileSet x y < 256 := by
  have hlt := rrd_lt (g := m.regs) (0xC10000 + (512 * y + x) / 4 * 4) ((512 * y + x) % 4 * 8 + 7) ((512 * y + x) % 4 * 8)
  rwa [Nat.add_assoc, Nat.add_sub_cancel_left] at hlt

/-! ## Conflicts read the trellis's registers alone -/

section
variable {m t : Mach} (h : ∀ a, TrlReg a → t.word a = m.word a)
include h

theorem Mach.rd_trl {r : RF} (hr : TrlReg r.a) : t.rd r = m.rd r := Mach.rd_congr (h _ hr)

theorem Mach.tail_congr : t.tail = m.tail := by
  unfold Mach.tail
  rw [Mach.rd_trl h (by decide)]

theorem Mach.expand_congr (b : Box) : t.expand b = m.expand b := by
  unfold Mach.expand Mach.rdS
  rw [Mach.rd_trl h (r := R.TRL_KO_XLO) (by decide), Mach.rd_trl h (r := R.TRL_KO_YLO) (by decide),
    Mach.rd_trl h (r := R.TRL_KO_XHI) (by decide), Mach.rd_trl h (r := R.TRL_KO_YHI) (by decide)]

theorem Mach.tilesOf_congr (b : Box) : t.tilesOf b = m.tilesOf b := by
  simp only [Mach.tilesOf, Mach.tileX, Mach.tileY, Mach.tileShift, Mach.rdS,
    Mach.rd_trl h (r := R.TRL_TILE_ORGX) (by decide), Mach.rd_trl h (r := R.TRL_TILE_ORGY) (by decide),
    Mach.rd_trl h (r := R.TRL_TILE_GEOM_TSHIFT) (by decide)]

theorem Mach.inMap_congr (x y : Int) : t.inMap x y = m.inMap x y := by
  unfold Mach.inMap Mach.tileNx Mach.tileNy
  rw [Mach.rd_trl h (r := R.TRL_TILE_GEOM_NX) (by decide), Mach.rd_trl h (r := R.TRL_TILE_GEOM_NY) (by decide)]

/-- The tile map lies in the trellis's registers, as far as it is a map. -/
theorem Mach.tileSet_congr {x y : Int} (hm : m.inMap x y = true) :
    t.tileSet x.toNat y.toNat = m.tileSet x.toNat y.toNat := by
  have hnx : m.tileNx ≤ 512 := clampN_le (by decide)
  have hny : m.tileNy ≤ 512 := clampN_le (by decide)
  simp only [Mach.inMap, decide_eq_true_eq] at hm
  refine Mach.rd_trl h ⟨?_, ?_⟩ <;> dsimp only <;> omega

theorem Mach.exclMeet_congr (b c : Box) : t.exclMeet b c = m.exclMeet b c := by
  unfold Mach.exclMeet
  rw [Mach.tilesOf_congr h b, Mach.tilesOf_congr h c]
  refine congrArg (m.tilesOf b).any (funext fun p => ?_)
  rw [Mach.inMap_congr h]
  cases hm : m.inMap p.1 p.2 with
  | false => rfl
  | true =>
    have hlt := m.tileSet_lt p.1.toNat p.2.toNat
    rw [Mach.tileSet_congr h hm]
    unfold Mach.on
    rw [Mach.rd_trl h (by simp only [TrlReg, R.TRL_OWN_ATTR_EXCL]; omega)]

theorem Mach.conflict_congr (f g : Claim) : t.conflict f g = m.conflict f g := by
  simp only [Mach.conflict, Mach.tail_congr h, Mach.expand_congr h, Mach.exclMeet_congr h]

end

/-! ## Either claim may be named first -/

theorem overlap_comm (a e b f : Int) : overlap a e b f = overlap b f a e :=
  decide_eq_decide.mpr and_comm

theorem Mach.exclMeet_comm (m : Mach) (b c : Box) : m.exclMeet b c = m.exclMeet c b := by
  rw [Bool.eq_iff_iff]
  simp only [Mach.exclMeet, List.any_eq_true, Bool.and_eq_true, List.contains_iff_mem]
  constructor <;> exact fun ⟨p, hp, ⟨hin, hp'⟩, hex⟩ => ⟨p, hp', ⟨hin, hp⟩, hex⟩

theorem Mach.conflict_comm (m : Mach) (f g : Claim) : m.conflict f g = m.conflict g f := by
  unfold Mach.conflict
  cases f.box with
  | none => cases g.box <;> rfl
  | some b =>
    cases g.box with
    | none => rfl
    | some c =>
      dsimp only
      rw [overlap_comm f.a f.e g.a g.e, m.exclMeet_comm b c]
      congr 1
      exact Bool.or_comm ..

/-- An empty box conflicts with nothing. -/
theorem Mach.conflict_none (m : Mach) (k : Nat) (g : Claim) : m.conflict (sliceClaim k none) g = false := rfl

end Sys2Proof.Machine
end

section
/-! PROOF. The grant pass (R251 to R254): what a pass may change, and that it lets no two reservations conflict. -/
namespace Sys2Proof.Machine

/-! ## What a pass may change -/

/-- No reservations of different fields conflict (R252). -/
def Mach.NoConflicts (m : Mach) : Prop :=
  ∀ i j : Fin 16, i ≠ j → ∀ r ∈ m.fe[i].resv, ∀ q ∈ m.fe[j].resv,
    m.conflict (sliceClaim r.slice r.box) (sliceClaim q.slice q.box) = false

/-- Registers that a pass may write: each field's clearance, age and denials. -/
def passRegs : List Nat :=
  (List.range 16).flatMap fun n =>
    [(R.FE_TRL_CLEAR_LO n).a, (R.FE_TRL_CLEAR_HI n).a, (R.FE_TRL_AGE_AGE n).a, (R.FE_TRL_DENY n).a]

theorem mem_passRegs {a : Nat} : a ∈ passRegs ↔ ∃ n < 16, a = (R.FE_TRL_CLEAR_LO n).a ∨ a = (R.FE_TRL_CLEAR_HI n).a ∨
    a = (R.FE_TRL_AGE_AGE n).a ∨ a = (R.FE_TRL_DENY n).a := by
  simp only [passRegs, List.mem_flatMap, List.mem_range, List.mem_cons, List.not_mem_nil, or_false]

theorem TrlReg.notMem_passRegs {a : Nat} (h : TrlReg a) : a ∉ passRegs := by
  obtain ⟨hlo, -⟩ := h
  rw [mem_passRegs]
  simp only [R.FE_TRL_CLEAR_LO, R.FE_TRL_CLEAR_HI, R.FE_TRL_AGE_AGE, R.FE_TRL_DENY]
  omega

/-- A pass, or a part of it, changes nothing but reservations and its own registers, and brings no conflict. -/
structure Mach.GrantsOnly (m t : Mach) : Prop where
  keeps : m.Keeps t passRegs
  field : ∀ n : Fin 16, t.fe[n] = { m.fe[n] with resv := t.fe[n].resv }
  frame : t = { m with fe := t.fe, regs := t.regs }
  safe : m.NoConflicts → t.NoConflicts

theorem Mach.GrantsOnly.trl {m t : Mach} (h : m.GrantsOnly t) {a : Nat} (ha : TrlReg a) : t.word a = m.word a :=
  h.keeps a ha.notMem_passRegs

theorem Mach.GrantsOnly.trans {m t u : Mach} (h : m.GrantsOnly t) (h' : t.GrantsOnly u) : m.GrantsOnly u where
  keeps a ha := (h'.keeps a ha).trans (h.keeps a ha)
  field n := by
    rw [h'.field n, h.field n]
  frame := by
    rw [h'.frame, h.frame]
  safe hm := h'.safe (h.safe hm)

/-- Registers alone change. -/
theorem Mach.GrantsOnly.of_regs {m : Mach} {g : Sparse Word} (hk : m.Keeps { m with regs := g } passRegs) :
    m.GrantsOnly { m with regs := g } where
  keeps := hk
  field _ := rfl
  frame := rfl
  safe hm i j hij r hr q hq :=
    (Mach.conflict_congr (fun a ha => hk a ha.notMem_passRegs) _ _).trans (hm i j hij r hr q hq)

theorem Mach.GrantsOnly.refl (m : Mach) : m.GrantsOnly m := .of_regs fun _ _ => rfl

/-- Reservations alone change, and none is new but such as meet no other field's. -/
theorem Mach.GrantsOnly.of_resv {m : Mach} {fe : Vector Field 16} (hf : ∀ n : Fin 16, fe[n] = { m.fe[n] with resv := fe[n].resv })
    (hs : m.NoConflicts → Mach.NoConflicts { m with fe := fe }) : m.GrantsOnly { m with fe := fe } where
  keeps _ _ := rfl
  field := hf
  frame := rfl
  safe := hs

theorem Mach.GrantsOnly.foldl {α : Type} {f : Mach → α → Mach} (h : ∀ m a, Mach.GrantsOnly m (f m a)) (l : List α) (m : Mach) :
    m.GrantsOnly (l.foldl f m) :=
  List.foldlRecOn l f (motive := m.GrantsOnly) (.refl m) fun t ht a _ => ht.trans (h t a)

/-! ## One grant -/

section
variable {m : Mach} {n : Fin 16} {k t : Nat} {x : Summary}

theorem Field.summaryAt_slice {f : Field} (h : f.summaryAt k t = some x) : x.slice = k := by
  have hx := List.find?_some h
  simp only [Bool.and_eq_true, beq_iff_eq] at hx
  exact hx.1.1

/-- The reservation that a grant makes: the summary's box, or the empty box of a laser-off slice (R252). -/
def Summary.reserves (x : Summary) : Resv := ⟨x.slice, if x.lon then some x.box else none⟩

/-- A slice that may be granted meets no other field's reservation. -/
theorem Mach.grantable_spares (h : m.grantable n t x = true) {j : Fin 16} (hj : j ≠ n) {q : Resv} (hq : q ∈ m.fe[j].resv) :
    m.conflict (sliceClaim x.reserves.slice x.reserves.box) (sliceClaim q.slice q.box) = false := by
  cases hlon : x.lon with
  | false =>
    have hbox : x.reserves.box = none := by simp [Summary.reserves, hlon]
    rw [hbox]
    rfl
  | true =>
    have hbox : x.reserves.box = some x.box := by simp [Summary.reserves, hlon]
    rw [hbox]
    simp only [Mach.grantable, hlon, Bool.not_true, Bool.false_or, Bool.and_eq_true, Bool.not_eq_true'] at h
    obtain ⟨⟨-, hresv⟩, -⟩ := h
    simp only [Mach.meetsResv, List.any_eq_false, List.mem_finRange, Bool.and_eq_true, bne_iff_ne, List.any_eq_true,
      not_and, not_exists, Bool.not_eq_true, forall_const] at hresv
    exact hresv j hj q hq

/-- The field holds the reservation of a granted slice in the place of an older one. -/
def Mach.reserve (m : Mach) (n : Fin 16) (r : Resv) : Mach :=
  m.setField n { m.fe[n] with resv := (m.fe[n].resv.filter fun q => q.slice ≠ r.slice) ++ [r] }

theorem Mach.reserve_grantsOnly {r : Resv} (h : ∀ j : Fin 16, j ≠ n → ∀ q ∈ m.fe[j].resv,
    m.conflict (sliceClaim r.slice r.box) (sliceClaim q.slice q.box) = false) : m.GrantsOnly (m.reserve n r) := by
  have hmine {q : Resv} (hq : q ∈ (m.reserve n r).fe[n].resv) : q ∈ m.fe[n].resv ∨ q = r := by
    rw [Mach.reserve, Mach.setField_fe, set_fin_self] at hq
    obtain hq | hq := List.mem_append.mp hq
    · exact .inl (List.mem_of_mem_filter hq)
    · exact .inr (List.mem_singleton.mp hq)
  have hother {j : Fin 16} (hj : j ≠ n) : (m.reserve n r).fe[j] = m.fe[j] := set_fin_ne _ _ hj
  refine .of_resv (fun j => ?_) fun hm i j hij p hp q hq => ?_
  · by_cases hj : j = n
    · subst hj
      rw [set_fin_self]
    · rw [set_fin_ne _ _ hj]
  · show m.conflict _ _ = false
    by_cases hi : i = n
    · subst hi
      have hj : j ≠ i := fun e => hij e.symm
      rw [set_fin_ne _ _ hj] at hq
      obtain hp | rfl := hmine hp
      · exact hm i j hij p hp q hq
      · exact h j hj q hq
    · rw [set_fin_ne _ _ hi] at hp
      by_cases hj : j = n
      · subst hj
        obtain hq | rfl := hmine hq
        · exact hm i j hij p hp q hq
        · rw [Mach.conflict_comm]
          exact h i hi p hp
      · rw [set_fin_ne _ _ hj] at hq
        exact hm i j hij p hp q hq

end

/-! ## The pass -/

section
variable (b : Nat) (n : Fin 16)

theorem Mach.grantFrom_none {fuel k : Nat} {got : Bool} {m : Mach} (h : m.fe[n].summaryAt k (b - 8000) = none) :
    Mach.grantFrom b n fuel k got m = (m, k, got) := by
  cases fuel with
  | zero => rfl
  | succ fuel =>
    unfold Mach.grantFrom
    rw [h]

theorem Mach.grantFrom_granted {fuel k : Nat} {got : Bool} {m : Mach} {x : Summary}
    (h : m.fe[n].summaryAt k (b - 8000) = some x) (hg : m.grantable n (b - 8000) x = true) :
    Mach.grantFrom b n (fuel + 1) k got m = Mach.grantFrom b n fuel (k + 1) (got || x.lon) (m.reserve n x.reserves) := by
  have hk := Field.summaryAt_slice h
  subst hk
  rw [Mach.grantFrom, h]
  exact if_pos hg

theorem Mach.grantFrom_denied {fuel k : Nat} {got : Bool} {m : Mach} {x : Summary}
    (h : m.fe[n].summaryAt k (b - 8000) = some x) (hg : m.grantable n (b - 8000) x = false) :
    Mach.grantFrom b n fuel k got m = (m, k, got) := by
  cases fuel with
  | zero => rfl
  | succ fuel =>
    rw [Mach.grantFrom, h]
    exact if_neg (by simp [hg])

theorem Mach.grantFrom_grantsOnly (fuel k : Nat) (got : Bool) (m : Mach) :
    m.GrantsOnly (Mach.grantFrom b n fuel k got m).1 := by
  induction fuel generalizing k got m with
  | zero => exact .refl m
  | succ fuel ih =>
    cases h : m.fe[n].summaryAt k (b - 8000) with
    | none =>
      rw [Mach.grantFrom_none b n h]
      exact .refl m
    | some x =>
      cases hg : m.grantable n (b - 8000) x with
      | false =>
        rw [Mach.grantFrom_denied b n h hg]
        exact .refl m
      | true =>
        rw [Mach.grantFrom_granted b n h hg]
        exact (Mach.reserve_grantsOnly fun _ hj _ hq => Mach.grantable_spares hg hj hq).trans (ih ..)

end

/-- A field's part of the pass, once its slices are granted up to `k`: its age and its denials. -/
def Mach.ageField (m : Mach) (b : Nat) (n : Fin 16) (k : Nat) (got : Bool) : Mach :=
  let denied : Bool := ((m.fe[n].summaryAt k (b - 8000)).map (·.lon)).getD false
  let age := m.rd (R.FE_TRL_AGE_AGE n)
  let age' := if got then 0 else if denied then min (age + 1) 255 else age
  let u := m.wrs [(R.FE_TRL_AGE_AGE n, age'), (R.FE_TRL_AGE_EFF n, m.effOf n age')]
  cond denied (u.inc (R.FE_TRL_DENY n)) u

/-- The first slice that a field has not reserved yet. -/
def Mach.grantStart (m : Mach) (b : Nat) (n : Fin 16) : Nat :=
  max (b / sliceTicks) (m.fe[n].clearFrom (b - 8000) 2049 (b / sliceTicks))

theorem Mach.grantField_eq (m : Mach) (b : Nat) (n : Fin 16) : Mach.grantField b m n =
    let r := Mach.grantFrom b n (b / sliceTicks + 2048 - m.grantStart b n) (m.grantStart b n) false m
    r.1.ageField b n r.2.1 r.2.2 := rfl

theorem Mach.ageField_grantsOnly (m : Mach) (b : Nat) (n : Fin 16) (k : Nat) (got : Bool) :
    m.GrantsOnly (m.ageField b n k got) := by
  have hage : (R.FE_TRL_AGE_AGE n).a ∈ passRegs := mem_passRegs.mpr ⟨n, n.isLt, .inr (.inr (.inl rfl))⟩
  have hdeny : (R.FE_TRL_DENY n).a ∈ passRegs := mem_passRegs.mpr ⟨n, n.isLt, .inr (.inr (.inr rfl))⟩
  have hwrs (v w : Nat) : m.GrantsOnly (m.wrs [(R.FE_TRL_AGE_AGE n, v), (R.FE_TRL_AGE_EFF n, w)]) :=
    .of_regs (m.wrs_only _ (by simpa using ⟨hage, hage⟩)).1
  have hinc (u : Mach) : u.GrantsOnly (u.inc (R.FE_TRL_DENY n)) :=
    .of_regs fun a ha => rget_rinc_ne fun e => ha (e ▸ hdeny)
  unfold Mach.ageField
  dsimp only
  cases ((m.fe[n].summaryAt k (b - 8000)).map (·.lon)).getD false with
  | true => exact (hwrs ..).trans (hinc _)
  | false => exact hwrs ..

theorem Mach.grantField_grantsOnly (b : Nat) (m : Mach) (n : Fin 16) : m.GrantsOnly (Mach.grantField b m n) := by
  rw [Mach.grantField_eq]
  exact (Mach.grantFrom_grantsOnly ..).trans (Mach.ageField_grantsOnly ..)

/-- Reservations that a pass forgets (R252). -/
def Mach.forgetOld (m : Mach) (k tail : Nat) : Mach := { m with fe := m.fe.map fun f => f.oldResv k tail }

theorem Mach.forgetOld_fe (m : Mach) (k tail : Nat) (n : Fin 16) : (m.forgetOld k tail).fe[n] = m.fe[n].oldResv k tail :=
  Vector.getElem_map ..

theorem Mach.forgetOld_grantsOnly (m : Mach) (k tail : Nat) : m.GrantsOnly (m.forgetOld k tail) := by
  have hkept {n : Fin 16} {r : Resv} (hr : r ∈ (m.forgetOld k tail).fe[n].resv) : r ∈ m.fe[n].resv := by
    rw [Mach.forgetOld_fe] at hr
    exact List.mem_of_mem_filter hr
  refine .of_resv (fun n => ?_) fun hm i j hij r hr q hq => hm i j hij r (hkept hr) q (hkept hq)
  have hfe := m.forgetOld_fe k tail n
  unfold Mach.forgetOld at hfe
  rw [hfe]
  rfl

theorem Mach.postClear_grantsOnly (m : Mach) : m.GrantsOnly m.postClear := by
  refine .foldl (fun t n => .of_regs fun a ha => ?_) _ m
  have hlo : a ≠ (R.FE_TRL_CLEAR_LO n).a := fun e => ha (mem_passRegs.mpr ⟨n, n.isLt, .inl e⟩)
  have hhi : a ≠ (R.FE_TRL_CLEAR_HI n).a := fun e => ha (mem_passRegs.mpr ⟨n, n.isLt, .inr (.inl e)⟩)
  exact (rget_rwr_ne hhi _).trans (rget_rwr_ne hlo _)

/-- The grants of a pass, before old reservations are forgotten: none while the trellis is off (R243, R252). -/
def Mach.granted (m : Mach) : Mach :=
  if m.on R.TRL_CTRL_EN then m.grantOrder.foldl (Mach.grantField m.mt) m else m

theorem Mach.grantPass_away {m : Mach} (h : m.mt % 16000 ≠ 0) : m.grantPass = m := if_pos h

theorem Mach.grantPass_boundary {m : Mach} (h : m.mt % 16000 = 0) : m.grantPass =
    (m.granted.forgetOld (m.granted.mt / sliceTicks) (m.granted.rd R.TRL_KO_TAIL)).postClear := if_neg (not_not_intro h)

theorem Mach.granted_grantsOnly (m : Mach) : m.GrantsOnly m.granted := by
  unfold Mach.granted
  split
  · exact .foldl (Mach.grantField_grantsOnly m.mt) _ m
  · exact .refl m

theorem Mach.grantPass_grantsOnly {m : Mach} (h : m.mt % 16000 = 0) : m.GrantsOnly m.grantPass := by
  rw [Mach.grantPass_boundary h]
  exact (m.granted_grantsOnly.trans (Mach.forgetOld_grantsOnly ..)).trans (Mach.postClear_grantsOnly _)

end Sys2Proof.Machine
end

section
/-! PROOF. What a pass posts (R251 to R253): clearance instants, and of a field alone on its slice the reservation, the age
and the denials. -/
namespace Sys2Proof.Machine

/-- What one of distinct elements brings about stands at the end of a fold, where the others leave it alone. -/
theorem foldl_shows {α β : Type} {f : α → β → α} {P Q : α → Prop} {a : α} {k : β} {l : List β} (hk : k ∈ l)
    (hnd : l.Nodup) (ha : P a) (hbefore : ∀ a j, j ≠ k → P a → P (f a j)) (hat : ∀ a, P a → Q (f a k))
    (hafter : ∀ a j, j ≠ k → Q a → Q (f a j)) : Q (l.foldl f a) := by
  induction l generalizing a with
  | nil => exact absurd hk List.not_mem_nil
  | cons b l ih =>
    obtain ⟨hb, hl⟩ := List.nodup_cons.mp hnd
    by_cases hbk : b = k
    · subst hbk
      exact List.foldlRecOn l f (motive := Q) (hat a ha) fun x hx j hj => hafter x j (fun e => hb (e ▸ hj)) hx
    · exact ih ((List.mem_cons.mp hk).resolve_left fun e => hbk e.symm) hl (hbefore a b hbk ha)

/-! ## Clearance -/

theorem Mach.clearance_off {m : Mach} (h : m.rd R.TRL_CTRL_EN = 0) (n : Fin 16) : m.clearance n = 2 ^ 64 - 1 :=
  if_neg (by simp [Mach.on, h])

theorem Mach.clearance_on {m : Mach} (h : m.rd R.TRL_CTRL_EN = 1) (n : Fin 16) : m.clearance n =
    m.fe[n].clearFrom (passView m.mt) 2049 (m.mt / sliceTicks) * sliceTicks :=
  if_pos (by simp [Mach.on, h])

theorem Mach.clearance_congr {m t : Mach} (hr : ∀ a, TrlReg a → t.word a = m.word a) (hf : t.fe = m.fe) (ht : t.mt = m.mt)
    (n : Fin 16) : t.clearance n = m.clearance n := by
  unfold Mach.clearance Mach.on
  rw [Mach.rd_trl hr (r := R.TRL_CTRL_EN) (by decide), hf, ht]

/-- Both halves of every field's clearance show (R251). -/
theorem Mach.postClear_shows (m : Mach) (n : Fin 16) :
    m.postClear.rd (R.FE_TRL_CLEAR_LO n) = m.clearance n % 2 ^ 32 ∧
    m.postClear.rd (R.FE_TRL_CLEAR_HI n) = m.clearance n / 2 ^ 32 % 2 ^ 32 := by
  unfold Mach.postClear
  refine foldl_shows (P := fun t : Mach => t.clearance n = m.clearance n)
    (Q := fun t : Mach => t.rd (R.FE_TRL_CLEAR_LO n) = m.clearance n % 2 ^ 32 ∧
      t.rd (R.FE_TRL_CLEAR_HI n) = m.clearance n / 2 ^ 32 % 2 ^ 32) (List.mem_finRange n) (List.nodup_finRange 16) rfl
    (fun t j _ ht => ?_) (fun t ht => ?_) fun t j hj ht => ?_
  · refine (Mach.clearance_congr (m := t)
      (t := t.wr64 (R.FE_TRL_CLEAR_LO j) (R.FE_TRL_CLEAR_HI j) (t.clearance j)) (fun a ha => ?_)
      (Mach.wr64_fe ..) (Mach.wr64_mt ..) n).trans ht
    refine Mach.wr64_word_ne _ _ _ _ ?_ ?_ <;> simp only [TrlReg, R.FE_TRL_CLEAR_LO, R.FE_TRL_CLEAR_HI] at ha ⊢ <;> omega
  · rw [← ht]
    constructor
    · exact (rrd_rwr_ne _ _ _ (by simp [R.FE_TRL_CLEAR_LO, R.FE_TRL_CLEAR_HI])).trans
        (rrd_rwr_same (R.FE_TRL_CLEAR_LO n) _ (Nat.zero_le _) (by simp [R.FE_TRL_CLEAR_LO]))
    · exact rrd_rwr_same (R.FE_TRL_CLEAR_HI n) _ (Nat.zero_le _) (by simp [R.FE_TRL_CLEAR_HI])
  · have hne : j.val ≠ n.val := fun e => hj (Fin.ext e)
    have hkeep {r : RF} (hlo : r.a ≠ (R.FE_TRL_CLEAR_LO j).a) (hhi : r.a ≠ (R.FE_TRL_CLEAR_HI j).a) :
        (t.wr64 (R.FE_TRL_CLEAR_LO j) (R.FE_TRL_CLEAR_HI j) (t.clearance j)).rd r = t.rd r :=
      Mach.rd_congr (Mach.wr64_word_ne _ _ _ _ hlo hhi)
    rw [hkeep, hkeep]
    · exact ht
    all_goals simp only [R.FE_TRL_CLEAR_LO, R.FE_TRL_CLEAR_HI]; omega

theorem Mach.postClear_rd64 (m : Mach) (n : Fin 16) (h : m.clearance n < 2 ^ 64) :
    m.postClear.rd64 (R.FE_TRL_CLEAR_LO n) (R.FE_TRL_CLEAR_HI n) = m.clearance n := by
  obtain ⟨hlo, hhi⟩ := m.postClear_shows n
  unfold Mach.rd64
  rw [hlo, hhi]
  omega

/-- The trellis off: no field is held up (R243, R251). -/
theorem Mach.grantPass_off {m : Mach} (hb : m.mt % 16000 = 0) (h : m.rd R.TRL_CTRL_EN = 0) (n : Fin 16) :
    m.grantPass.rd (R.FE_TRL_CLEAR_LO n) = 2 ^ 32 - 1 ∧ m.grantPass.rd (R.FE_TRL_CLEAR_HI n) = 2 ^ 32 - 1 := by
  have hen : (m.granted.forgetOld (m.granted.mt / sliceTicks) (m.granted.rd R.TRL_KO_TAIL)).rd R.TRL_CTRL_EN = 0 :=
    (Mach.rd_trl (fun a ha => m.granted_grantsOnly.trl ha) (by decide)).trans h
  obtain ⟨hlo, hhi⟩ := Mach.postClear_shows _ n
  rw [Mach.grantPass_boundary hb, hlo, hhi, Mach.clearance_off hen n]
  decide

/-! ## The order of a pass -/

theorem insertPrio_perm (m : Mach) (n : Fin 16) (l : List (Fin 16)) : (insertPrio m n l).Perm (n :: l) := by
  induction l with
  | nil => exact .refl _
  | cons j l ih =>
    unfold insertPrio
    split
    · exact .refl _
    · exact (ih.cons j).trans (.swap ..)

/-- Every field has its turn once (R252). -/
theorem Mach.grantOrder_perm (m : Mach) : m.grantOrder.Perm (List.finRange 16) := by
  have hfold (l r : List (Fin 16)) : (l.foldl (fun l n => insertPrio m n l) r).Perm (l ++ r) := by
    induction l generalizing r with
    | nil => exact .refl _
    | cons n l ih => exact (ih _).trans (((insertPrio_perm m n r).append_left l).trans List.perm_middle)
  have hall := hfold (List.finRange 16) []
  rwa [List.append_nil] at hall

/-! ## A field with one summary -/

section
variable {f : Field} {x : Summary} {k t : Nat}

theorem Field.summaryAt_nil (h : f.summ = []) : f.summaryAt k t = none := by
  unfold Field.summaryAt
  rw [h]
  rfl

theorem Field.clearFrom_none (fuel : Nat) (h : f.summaryAt k t = none) : f.clearFrom t fuel k = k := by
  cases fuel with
  | zero => rfl
  | succ fuel => rw [Field.clearFrom, h]

theorem Field.clearFrom_some (fuel : Nat) (h : f.summaryAt k t = some x) : f.clearFrom t (fuel + 1) k =
    if covered x (f.reserved k) then f.clearFrom t fuel (k + 1) else k := by
  rw [Field.clearFrom, h]

/-- The one summary, published by `t` and standing. -/
theorem Field.summaryAt_sole (h : f.summ = [x]) (hp : x.pubAt ≤ t) (hg : x.goneAt = none) :
    f.summaryAt k t = if x.slice = k then some x else none := by
  unfold Field.summaryAt
  rw [h]
  by_cases hk : x.slice = k <;> simp [hk, hp, hg]

/-- A laser-on slice is covered where its box is reserved (R251). -/
theorem covered_reserved (hlon : x.lon = true) : covered x (some ⟨x.slice, some x.box⟩) = true := by
  simp [covered, hlon, Box.within]

theorem covered_unreserved (hlon : x.lon = true) : covered x none = false := by
  simp [covered, hlon]

theorem Field.clearFrom_sole (h : f.summ = [x]) (hp : x.pubAt ≤ t) (hg : x.goneAt = none) {fuel : Nat} (hf : fuel ≠ 0) :
    f.clearFrom t fuel x.slice = if covered x (f.reserved x.slice) then x.slice + 1 else x.slice := by
  obtain ⟨fuel, rfl⟩ := Nat.exists_eq_succ_of_ne_zero hf
  have hnext : f.summaryAt (x.slice + 1) t = none := (Field.summaryAt_sole h hp hg).trans (if_neg (by omega))
  rw [Field.clearFrom_some fuel ((Field.summaryAt_sole h hp hg).trans (if_pos rfl)), Field.clearFrom_none fuel hnext]

end

/-! ## What the pass leaves of such a field -/

/-- Field `n` holds the reservations `l` and shows an age and denials; the other fields and the trellis's registers stand
as they did. -/
structure Mach.Posted (m : Mach) (n : Fin 16) (l : List Resv) (age deny : Nat) (t : Mach) : Prop where
  fe : t.fe = m.fe.set n { m.fe[n] with resv := l }
  mt : t.mt = m.mt
  rng : t.rng = m.rng
  trl : ∀ a, TrlReg a → t.word a = m.word a
  age : t.rd (R.FE_TRL_AGE_AGE n) = age
  deny : t.rd (R.FE_TRL_DENY n) = deny

section
variable {m t : Mach} {n : Fin 16} {l : List Resv} {age deny : Nat}

theorem Mach.Posted.start (h : m.fe[n].resv = []) :
    m.Posted n [] (m.rd (R.FE_TRL_AGE_AGE n)) (m.rd (R.FE_TRL_DENY n)) m where
  fe := by
    rw [← h]
    exact (Vector.set_getElem_self ..).symm
  mt := rfl
  rng := rfl
  trl _ _ := rfl
  age := rfl
  deny := rfl

theorem Mach.Posted.self (h : m.Posted n l age deny t) : t.fe[n] = { m.fe[n] with resv := l } := by
  rw [h.fe, set_fin_self]

theorem Mach.Posted.other (h : m.Posted n l age deny t) {j : Fin 16} (hj : j ≠ n) : t.fe[j] = m.fe[j] := by
  rw [h.fe, set_fin_ne _ _ hj]

/-- Age registers of a field: written with what a grant or a denial makes of the age. -/
theorem Mach.Posted.aged (h : m.Posted n l age deny t) {v w : Nat} (hv : v < 256) :
    m.Posted n l v deny (t.wrs [(R.FE_TRL_AGE_AGE n, v), (R.FE_TRL_AGE_EFF n, w)]) where
  fe := (Mach.wrs_fe ..).trans h.fe
  mt := (Mach.wrs_mt ..).trans h.mt
  rng := (Mach.wrs_rng ..).trans h.rng
  trl a ha := by
    refine (Mach.wrs_word_ne _ ?_).trans (h.trl a ha)
    simp only [List.forall_mem_cons, R.FE_TRL_AGE_AGE, R.FE_TRL_AGE_EFF, TrlReg] at ha ⊢
    exact ⟨by omega, by omega, fun _ hp => absurd hp List.not_mem_nil⟩
  age := (rrd_rwrs_written [] [_] _ (by simp [R.FE_TRL_AGE_AGE]) (by simp [R.FE_TRL_AGE_AGE])
    (by simp [RF.Apart, R.FE_TRL_AGE_AGE, R.FE_TRL_AGE_EFF])).trans (Nat.mod_eq_of_lt hv)
  deny := by
    refine (Mach.rd_congr (Mach.wrs_word_ne _ ?_)).trans h.deny
    simp only [List.forall_mem_cons, R.FE_TRL_AGE_AGE, R.FE_TRL_AGE_EFF, R.FE_TRL_DENY]
    exact ⟨by omega, by omega, fun _ hp => absurd hp List.not_mem_nil⟩

theorem Mach.Posted.denied (h : m.Posted n l age deny t) :
    m.Posted n l age (min (deny + 1) (2 ^ 32 - 1)) (t.inc (R.FE_TRL_DENY n)) where
  fe := h.fe
  mt := h.mt
  rng := h.rng
  trl a ha := (rget_rinc_ne (by simp only [TrlReg] at ha; omega)).trans (h.trl a ha)
  age := (rrd_rinc_ne (by omega)).trans h.age
  deny := by
    rw [← h.deny]
    exact rrd_rinc_word ..

/-- A field without a summary is passed over (R252). -/
theorem Mach.Posted.passOver (h : m.Posted n l age deny t) {j : Fin 16} (hj : j ≠ n) (hs : m.fe[j].summ = []) (b : Nat) :
    m.Posted n l age deny (Mach.grantField b t j) := by
  have hne : j.val ≠ n.val := fun e => hj (Fin.ext e)
  have hsumm : t.fe[j].summ = [] := by rw [h.other hj, hs]
  have hnone (k : Nat) : t.fe[j].summaryAt k (b - 8000) = none := Field.summaryAt_nil hsumm
  have heq : Mach.grantField b t j = t.wrs [(R.FE_TRL_AGE_AGE j, t.rd (R.FE_TRL_AGE_AGE j)),
      (R.FE_TRL_AGE_EFF j, t.effOf j (t.rd (R.FE_TRL_AGE_AGE j)))] := by
    rw [Mach.grantField_eq, Mach.grantFrom_none b j (hnone _)]
    unfold Mach.ageField
    dsimp only
    rw [hnone]
    rfl
  have hword {a : Nat} (ha : a ≠ (R.FE_TRL_AGE_AGE j).a) : (Mach.grantField b t j).word a = t.word a := by
    rw [heq]
    refine Mach.wrs_word_ne _ ?_
    simp only [List.forall_mem_cons]
    exact ⟨ha, ha, fun _ hp => absurd hp List.not_mem_nil⟩
  refine ⟨?_, ?_, ?_, fun a ha => (hword ?_).trans (h.trl a ha), (Mach.rd_congr (hword ?_)).trans h.age,
    (Mach.rd_congr (hword ?_)).trans h.deny⟩
  · rw [heq, Mach.wrs_fe, h.fe]
  · rw [heq, Mach.wrs_mt, h.mt]
  · rw [heq, Mach.wrs_rng, h.rng]
  all_goals simp only [TrlReg, R.FE_TRL_AGE_AGE, R.FE_TRL_DENY] at *; omega

end

/-- Without a ring, a laser-on slice may be granted where it meets no other field's reservation. -/
theorem Mach.Posted.grantable_iff {m t : Mach} {n : Fin 16} {x : Summary} {age deny : Nat} (hlon : x.lon = true)
    (hring : x.ringm = false) (hhist : m.rng.hist = []) (h : m.Posted n [] age deny t) (u : Nat) : t.grantable n u x = true ↔
    ∀ j : Fin 16, j ≠ n → ∀ r ∈ m.fe[j].resv, m.conflict (sliceClaim x.slice (some x.box)) (sliceClaim r.slice r.box) = false := by
  have hmeets : t.meetsRing n u x.slice x.box = false := by
    simp [Mach.meetsRing, Rng.decidedBy, h.rng, hhist]
  simp only [Mach.grantable, hlon, hring, hmeets, Mach.meetsResv, Mach.conflict_congr h.trl, Bool.not_true, Bool.not_false,
    Bool.false_or, Bool.true_or, Bool.true_and, Bool.and_true, Bool.not_eq_true', List.any_eq_false, List.mem_finRange,
    forall_const, Bool.and_eq_true, bne_iff_ne, List.any_eq_true, not_and, not_exists, Bool.not_eq_true]
  refine forall_congr' fun j => forall_congr' fun hj => ?_
  rw [h.other hj]

section
variable {m t : Mach} {n : Fin 16} {x : Summary} {age deny b : Nat}
  (hs : m.fe[n].summ = [x]) (hp : x.pubAt ≤ b - 8000) (hg : x.goneAt = none) (hlon : x.lon = true) (hring : x.ringm = false)
  (hhist : m.rng.hist = []) (hb : b / sliceTicks = x.slice)

include hs hp hg hlon hb in
/-- The pass looks at the slice of the summary first. -/
theorem Mach.Posted.grantField_first (h : m.Posted n [] age deny t) : Mach.grantField b t n =
    let r := Mach.grantFrom b n 2048 x.slice false t
    r.1.ageField b n r.2.1 r.2.2 := by
  have hsumm : t.fe[n].summ = [x] := by rw [h.self, hs]
  have hresv : t.fe[n].reserved x.slice = none := by rw [h.self]; rfl
  have hstart : t.grantStart b n = x.slice := by
    unfold Mach.grantStart
    rw [hb, Field.clearFrom_sole hsumm hp hg (by decide), hresv, covered_unreserved hlon]
    exact Nat.max_self _
  rw [Mach.grantField_eq, hstart, hb, Nat.add_sub_cancel_left]

include hs hp hg hlon hring hhist hb in
theorem Mach.Posted.grantField_grants (h : m.Posted n [] age deny t)
    (hc : ∀ j : Fin 16, j ≠ n → ∀ r ∈ m.fe[j].resv, m.conflict (sliceClaim x.slice (some x.box)) (sliceClaim r.slice r.box) = false) :
    m.Posted n [⟨x.slice, some x.box⟩] 0 deny (Mach.grantField b t n) := by
  have hsumm : t.fe[n].summ = [x] := by rw [h.self, hs]
  have hgrant : t.grantable n (b - 8000) x = true := (Mach.Posted.grantable_iff hlon hring hhist h (b - 8000)).mpr hc
  have hres : (t.reserve n x.reserves).fe = m.fe.set n { m.fe[n] with resv := [⟨x.slice, some x.box⟩] } := by
    unfold Mach.reserve Summary.reserves
    rw [Mach.setField_fe, h.self, h.fe, Vector.set_set, hlon]
    rfl
  have hreserved : m.Posted n [⟨x.slice, some x.box⟩] age deny (t.reserve n x.reserves) :=
    ⟨hres, h.mt, h.rng, h.trl, h.age, h.deny⟩
  have hnext : (t.reserve n x.reserves).fe[n].summaryAt (x.slice + 1) (b - 8000) = none := by
    rw [hreserved.self]
    exact (Field.summaryAt_sole hs hp hg).trans (if_neg (by omega))
  rw [h.grantField_first hs hp hg hlon hb,
    Mach.grantFrom_granted b n (fuel := 2047) ((Field.summaryAt_sole hsumm hp hg).trans (if_pos rfl)) hgrant,
    Mach.grantFrom_none b n hnext]
  unfold Mach.ageField
  dsimp only
  rw [hnext, hlon]
  exact hreserved.aged (by decide)

include hs hp hg hlon hring hhist hb in
theorem Mach.Posted.grantField_denies (h : m.Posted n [] age deny t) {j : Fin 16} {r : Resv} (hj : j ≠ n)
    (hr : r ∈ m.fe[j].resv) (hc : m.conflict (sliceClaim x.slice (some x.box)) (sliceClaim r.slice r.box) = true) :
    m.Posted n [] (min (age + 1) 255) (min (deny + 1) (2 ^ 32 - 1)) (Mach.grantField b t n) := by
  have hsumm : t.fe[n].summ = [x] := by rw [h.self, hs]
  have hgrant : t.grantable n (b - 8000) x = false := by
    rw [Bool.eq_false_iff]
    intro hg'
    exact absurd ((Mach.Posted.grantable_iff hlon hring hhist h (b - 8000)).mp hg' j hj r hr) (by simp [hc])
  have hsome : t.fe[n].summaryAt x.slice (b - 8000) = some x := (Field.summaryAt_sole hsumm hp hg).trans (if_pos rfl)
  rw [h.grantField_first hs hp hg hlon hb, Mach.grantFrom_denied b n hsome hgrant]
  unfold Mach.ageField
  dsimp only
  rw [hsome, h.age]
  simp only [Option.map_some, Option.getD_some, hlon, cond_true, Bool.false_eq_true, if_false, if_true]
  exact (h.aged (by omega)).denied

end

/-! ## What the pass shows of such a field -/

section
variable {m : Mach} {n : Fin 16} {x : Summary} {l : List Resv} {age deny : Nat}

/-- The field that is alone on its slice has its turn, whenever it comes, among fields that are passed over. -/
theorem Mach.granted_posted (hen : m.rd R.TRL_CTRL_EN = 1) (hother : ∀ j : Fin 16, j ≠ n → m.fe[j].summ = [])
    (hresv : m.fe[n].resv = [])
    (hturn : ∀ t, m.Posted n [] (m.rd (R.FE_TRL_AGE_AGE n)) (m.rd (R.FE_TRL_DENY n)) t →
      m.Posted n l age deny (Mach.grantField m.mt t n)) : m.Posted n l age deny m.granted := by
  have hperm := m.grantOrder_perm
  have hon : m.granted = m.grantOrder.foldl (Mach.grantField m.mt) m := if_pos (by simp [Mach.on, hen])
  rw [hon]
  exact foldl_shows (hperm.mem_iff.mpr (List.mem_finRange n)) (hperm.nodup_iff.mpr (List.nodup_finRange 16))
    (Mach.Posted.start hresv) (fun t j hj ht => ht.passOver hj (hother j hj) m.mt) hturn
    fun t j hj ht => ht.passOver hj (hother j hj) m.mt

theorem passView_boundary {t : Nat} (h : t % 16000 = 0) : passView t = t - 8000 := by
  unfold passView sliceTicks
  omega

/-- The clearance of a field with one summary, of the slice that begins: past that slice where it is covered, and else at
it (R251). -/
theorem Mach.clearance_sole {u : Mach} (hen : u.rd R.TRL_CTRL_EN = 1) (hs : u.fe[n].summ = [x]) (hp : x.pubAt ≤ u.mt - 8000)
    (hg : x.goneAt = none) (hx : x.slice = u.mt / sliceTicks) (hb : u.mt % 16000 = 0) :
    u.clearance n = if covered x (u.fe[n].reserved x.slice) then u.mt + 16000 else u.mt := by
  have hsole := Field.clearFrom_sole (t := passView u.mt) (fuel := 2049) hs (by rwa [passView_boundary hb]) hg (by decide)
  rw [Mach.clearance_on hen, ← hx, hsole, hx]
  unfold sliceTicks
  split <;> omega

/-- Posting the clearance leaves the other registers. -/
theorem Mach.postClear_rd {u : Mach} {r : RF}
    (hr : ∀ j : Fin 16, r.a ≠ (R.FE_TRL_CLEAR_LO j).a ∧ r.a ≠ (R.FE_TRL_CLEAR_HI j).a) : u.postClear.rd r = u.rd r :=
  List.foldlRecOn (List.finRange 16) _ (motive := fun t : Mach => t.rd r = u.rd r) rfl fun _ ht j _ =>
    (Mach.rd_congr (Mach.wr64_word_ne _ _ _ _ (hr j).1 (hr j).2)).trans ht

theorem Mach.postClear_fe (u : Mach) : u.postClear.fe = u.fe :=
  List.foldlRecOn (List.finRange 16) _ (motive := fun t : Mach => t.fe = u.fe) rfl fun _ ht _ _ =>
    (Mach.wr64_fe ..).trans ht

/-- Reservations of the present slice and of later ones are not forgotten. -/
theorem Field.oldResv_current {f : Field} {k : Nat} (h : ∀ r ∈ f.resv, k ≤ r.slice) (tail : Nat) : f.oldResv k tail = f := by
  have hfilter : (f.resv.filter fun r => decide (k ≤ r.slice + tail + 1)) = f.resv :=
    List.filter_eq_self.mpr fun r hr => decide_eq_true (by have := h r hr; omega)
  unfold Field.oldResv
  rw [hfilter]

/-- Of what a field's turn leaves, the rest of the pass keeps reservations of the present slice, and posts the clearance
they give (R251). -/
theorem Mach.Posted.pass (h : m.Posted n l age deny m.granted) (hb : m.mt % 16000 = 0) (hmt : m.mt < 2 ^ 63)
    (hen : m.rd R.TRL_CTRL_EN = 1) (hs : m.fe[n].summ = [x]) (hp : x.pubAt ≤ m.mt - 8000) (hg : x.goneAt = none)
    (hx : x.slice = m.mt / sliceTicks) (hl : ∀ r ∈ l, r.slice = x.slice) :
    m.grantPass.fe[n].resv = l ∧
    m.grantPass.rd64 (R.FE_TRL_CLEAR_LO n) (R.FE_TRL_CLEAR_HI n) =
      (if covered x (l.find? fun r => r.slice == x.slice) then m.mt + 16000 else m.mt) ∧
    m.grantPass.rd (R.FE_TRL_AGE_AGE n) = age ∧ m.grantPass.rd (R.FE_TRL_DENY n) = deny := by
  obtain ⟨u, hu, hfe, htime, hrd⟩ : ∃ u : Mach, m.grantPass = u.postClear ∧ u.fe[n] = { m.fe[n] with resv := l } ∧
      u.mt = m.mt ∧ ∀ r, u.rd r = m.granted.rd r := by
    refine ⟨_, Mach.grantPass_boundary hb, ?_, h.mt, fun _ => rfl⟩
    rw [Mach.forgetOld_fe, h.self, h.mt]
    exact Field.oldResv_current (fun r hr => by rw [hl r hr, hx]) _
  have honu : u.rd R.TRL_CTRL_EN = 1 := (hrd _).trans ((Mach.rd_trl h.trl (by decide)).trans hen)
  have hclear : u.clearance n = if covered x (l.find? fun r => r.slice == x.slice) then m.mt + 16000 else m.mt := by
    rw [Mach.clearance_sole honu (by rw [hfe, hs]) (by rwa [htime]) hg (by rwa [htime]) (by rwa [htime]), hfe, htime]
    rfl
  have hlt : u.clearance n < 2 ^ 64 := by
    rw [hclear]
    split <;> omega
  rw [hu]
  refine ⟨by rw [u.postClear_fe, hfe], (u.postClear_rd64 n hlt).trans hclear, ?_, ?_⟩
  · rw [Mach.postClear_rd fun j => by simp only [R.FE_TRL_AGE_AGE, R.FE_TRL_CLEAR_LO, R.FE_TRL_CLEAR_HI]; omega, hrd]
    exact h.age
  · rw [Mach.postClear_rd fun j => by simp only [R.FE_TRL_DENY, R.FE_TRL_CLEAR_LO, R.FE_TRL_CLEAR_HI]; omega, hrd]
    exact h.deny

end

end Sys2Proof.Machine
end

section
/-! PROOF. The ring decision (R260 to R262): what the counts and the watch over paths leave, and the grants of a window. -/
namespace Sys2Proof.Machine

/-! ## Before the window -/

/-- Registers, records and the runs of losses may have changed, and of the sources raised once a tick none but 25. -/
structure Mach.JudgedOnly (l : List Nat) (m t : Mach) : Prop where
  keeps : m.Keeps t l
  rng : ∃ r, t.rng = { m.rng with missRun := r }
  mt : t.mt = m.mt
  fe : t.fe = m.fe
  coo : t.coo = m.coo
  axis : t.axis = m.axis
  mem : t.mem = m.mem
  signals : t.signals = m.signals
  raised : ∀ src, src ≠ 25 → t.raisedThisTick src = m.raisedThisTick src

section
variable {l l' : List Nat} {m t u : Mach}

theorem Mach.JudgedOnly.refl (l : List Nat) (m : Mach) : m.JudgedOnly l m :=
  ⟨fun _ _ => rfl, ⟨_, rfl⟩, rfl, rfl, rfl, rfl, rfl, rfl, fun _ _ => rfl⟩

theorem Mach.JudgedOnly.trans (h : m.JudgedOnly l t) (h' : t.JudgedOnly l u) : m.JudgedOnly l u where
  keeps a ha := (h'.keeps a ha).trans (h.keeps a ha)
  rng := by
    obtain ⟨r, hr⟩ := h.rng
    obtain ⟨r', hr'⟩ := h'.rng
    exact ⟨r', by rw [hr', hr]⟩
  mt := h'.mt.trans h.mt
  fe := h'.fe.trans h.fe
  coo := h'.coo.trans h.coo
  axis := h'.axis.trans h.axis
  mem := h'.mem.trans h.mem
  signals := h'.signals.trans h.signals
  raised src hs := (h'.raised src hs).trans (h.raised src hs)

theorem Mach.JudgedOnly.mono (h : m.JudgedOnly l t) (hl : l ⊆ l') : m.JudgedOnly l' t :=
  { h with keeps := fun a ha => h.keeps a fun hm => ha (hl hm) }

theorem Mach.JudgedOnly.rd (h : m.JudgedOnly l t) {r : RF} (hr : r.a ∉ l) : t.rd r = m.rd r := Mach.rd_congr (h.keeps r.a hr)

theorem Mach.wr_judged (m : Mach) (r : RF) (v : Nat) : m.JudgedOnly [r.a] (m.wr r v) :=
  ⟨m.wr_keeps r v (List.mem_singleton_self _), ⟨_, Mach.wr_rng ..⟩, rfl, rfl, rfl, rfl, rfl, rfl, fun _ _ => rfl⟩

theorem Mach.raise_judged (m : Mach) (src code inst value : Nat) : m.JudgedOnly (raiseRegs src) (m.raise src code inst value) :=
  ⟨fun _ ha => Mach.raise_word_ne ha, ⟨_, Mach.raise_rng ..⟩, rfl, rfl, rfl, rfl, rfl, rfl, fun _ _ => rfl⟩

theorem Mach.incRaiseOnce_judged (m : Mach) (r : RF) (code inst : Nat) :
    m.JudgedOnly (r.a :: raiseRegs 25) (m.incRaiseOnce r 25 code inst) :=
  ⟨(m.incRaiseOnce_bookkeeping r 25 code inst).keeps, ⟨_, Mach.incRaiseOnce_rng ..⟩, by simp, by simp, by simp, by simp, by simp,
    by simp, fun _ hs => Mach.raiseOnce_raised (m.inc r) code inst _ hs⟩

end

/-- Registers that a decision may write before its window: the count of missing frames, the losses, and two sources'. -/
def judgedRegs : List Nat := R.RNG_CYCMISS.a :: R.RNG_STATUS_LOSSA.a :: (raiseRegs 25 ++ raiseRegs 22)

section
variable (m : Mach) (cycle : Word)

/-- Frames that the decision of a cycle misses (R416). -/
def Mach.missing : List Nat := m.rmask.filter fun id => !m.hasFrame cycle id

theorem Mach.countMissing_judged : m.JudgedOnly judgedRegs (m.countMissing cycle) :=
  List.foldlRecOn _ _ (motive := m.JudgedOnly judgedRegs) (.refl _ m) fun _ ht _ _ =>
    ht.trans ((Mach.incRaiseOnce_judged ..).mono (by decide))

/-- Each missing frame counts once. -/
theorem Mach.countMissing_counts :
    (m.countMissing cycle).rd R.RNG_CYCMISS = min (m.rd R.RNG_CYCMISS + (m.missing cycle).length) (2 ^ 32 - 1) := by
  have hone (t : Mach) : (t.incRaiseOnce R.RNG_CYCMISS 25 0 0).rd R.RNG_CYCMISS = min (t.rd R.RNG_CYCMISS + 1) (2 ^ 32 - 1) :=
    (Mach.rd_congr (Mach.raiseOnce_word_ne _ (by decide))).trans (rrd_rinc_word t.regs _)
  have hfold (l : List Nat) (t : Mach) : (l.foldl (fun (m : Mach) _ => m.incRaiseOnce R.RNG_CYCMISS 25 0 0) t).rd R.RNG_CYCMISS =
      min (t.rd R.RNG_CYCMISS + l.length) (2 ^ 32 - 1) := by
    induction l generalizing t with
    | nil =>
      have hlt : t.rd R.RNG_CYCMISS < 2 ^ 32 := rrd_lt ..
      rw [List.foldl_nil, List.length_nil]
      omega
    | cons _ l ih =>
      rw [List.foldl_cons, ih, hone, List.length_cons]
      omega
  exact hfold (m.missing cycle) m

theorem lossBit_addr (p : Fin 2) : (lossBit p).a = R.RNG_STATUS_LOSSA.a := by
  unfold lossBit
  split <;> rfl

/-- The run of losses of a port, longer or begun anew (R416). -/
def Mach.setMissRun (l : List Nat) : Mach := { m with rng := { m.rng with missRun := l } }

/-- A loss begins at the end of its window, and ends with a cycle that is whole. -/
def Mach.lossJudged (p : Fin 2) (n : Nat) (whole : Bool) : Mach :=
  if !m.on (lossBit p) && decide (max 1 (m.rd R.RNG_PLWIN) ≤ n) then (m.wr (lossBit p) 1).raise 22 0 p 0
  else if m.on (lossBit p) && whole then (m.wr (lossBit p) 0).raise 22 1 p 0
  else m

theorem Mach.pathLoss_eq (p : Fin 2) : ∃ l n whole, m.pathLoss cycle p = (m.setMissRun l).lossJudged p n whole :=
  ⟨_, _, _, rfl⟩

theorem Mach.setMissRun_judged (l : List Nat) : m.JudgedOnly judgedRegs (m.setMissRun l) :=
  ⟨fun _ _ => rfl, ⟨l, rfl⟩, rfl, rfl, rfl, rfl, rfl, rfl, fun _ _ => rfl⟩

/-- A loss that begins or ends is shown and raised. -/
theorem Mach.lossShown_judged (p : Fin 2) (v code : Nat) : m.JudgedOnly judgedRegs ((m.wr (lossBit p) v).raise 22 code p 0) :=
  ((m.wr_judged _ v).mono (by simp [judgedRegs, lossBit_addr])).trans ((Mach.raise_judged ..).mono (by decide))

theorem Mach.lossJudged_judged (p : Fin 2) (n : Nat) (whole : Bool) : m.JudgedOnly judgedRegs (m.lossJudged p n whole) := by
  unfold Mach.lossJudged
  split
  · exact m.lossShown_judged p 1 0
  · split
    · exact m.lossShown_judged p 0 1
    · exact .refl _ m

theorem Mach.pathLoss_judged (p : Fin 2) : m.JudgedOnly judgedRegs (m.pathLoss cycle p) := by
  obtain ⟨l, n, whole, h⟩ := m.pathLoss_eq cycle p
  rw [h]
  exact (m.setMissRun_judged l).trans (Mach.lossJudged_judged ..)

/-- A path loss counts no missing frame. -/
theorem Mach.pathLoss_missCount (p : Fin 2) : (m.pathLoss cycle p).rd R.RNG_CYCMISS = m.rd R.RNG_CYCMISS := by
  obtain ⟨l, n, whole, h⟩ := m.pathLoss_eq cycle p
  have hshown (u : Mach) (v code : Nat) : ((u.wr (lossBit p) v).raise 22 code p 0).rd R.RNG_CYCMISS = u.rd R.RNG_CYCMISS :=
    (Mach.rd_congr (Mach.raise_word_ne (by decide))).trans
      (Mach.rd_congr (u.wr_word_ne v (by rw [lossBit_addr]; decide)))
  rw [h]
  unfold Mach.lossJudged
  split
  · exact hshown ..
  · split
    · exact hshown ..
    · rfl

/-- What the decision does before its window: frames that are missing count, and each path is judged. -/
def Mach.beforeWindow : Mach := ((m.countMissing cycle).pathLoss cycle 0).pathLoss cycle 1

theorem Mach.beforeWindow_judged : m.JudgedOnly judgedRegs (m.beforeWindow cycle) :=
  ((m.countMissing_judged cycle).trans (Mach.pathLoss_judged ..)).trans (Mach.pathLoss_judged ..)

theorem Mach.beforeWindow_missCount : (m.beforeWindow cycle).rd R.RNG_CYCMISS =
    min (m.rd R.RNG_CYCMISS + (m.missing cycle).length) (2 ^ 32 - 1) := by
  unfold Mach.beforeWindow
  rw [Mach.pathLoss_missCount, Mach.pathLoss_missCount, Mach.countMissing_counts]

end

/-! ## What a window's decision reads -/

/-- A register that the decision of a window reads: the time of the latest capture, the cycle, and the trellis's. -/
@[reducible] def ArbReg (a : Nat) : Prop :=
  a = R.TIM_MTK_SEQ.a ∨ a = R.TIM_MTK_PT.a ∨ a = R.RNG_CYC_PER.a ∨ a = R.RNG_CTRL_CYCEN.a ∨ TrlReg a

theorem ArbReg.notMem_judgedRegs {a : Nat} (h : ArbReg a) : a ∉ judgedRegs := by
  simp only [judgedRegs, raiseRegs, ArbReg, TrlReg, R.TIM_MTK_SEQ, R.TIM_MTK_PT, R.RNG_CYC_PER, R.RNG_CTRL_CYCEN,
    R.RNG_CYCMISS, R.RNG_STATUS_LOSSA, R.HS_EVT_PEND, R.HSQ_PBA, R.CBK_QLEVEL_QMAX, R.CBK_ANGEL, List.cons_append,
    List.nil_append, List.mem_cons, List.not_mem_nil, or_false] at h ⊢
  omega

/-- The time, the registers a window's decision reads, and the frames held stand as they did. -/
structure Mach.SameWindow (m t : Mach) : Prop where
  word : ∀ a, ArbReg a → t.word a = m.word a
  mt : t.mt = m.mt
  own : t.rng.own = m.rng.own
  rx : t.rng.rx = m.rng.rx

section
variable {m t : Mach} (h : m.SameWindow t)
include h

theorem Mach.SameWindow.rd {r : RF} (hr : ArbReg r.a) : t.rd r = m.rd r := Mach.rd_congr (h.word _ hr)

theorem Mach.SameWindow.trl (a : Nat) (ha : TrlReg a) : t.word a = m.word a := h.word a (.inr (.inr (.inr (.inr ha))))

theorem Mach.SameWindow.ptOf (k : Nat) : t.ptOf k = m.ptOf k := by
  unfold Mach.ptOf
  rw [h.rd (r := R.TIM_MTK_SEQ) (.inl rfl), h.rd (r := R.TIM_MTK_PT) (.inr (.inl rfl))]

theorem Mach.SameWindow.cycNs : t.cycNs = m.cycNs := by
  unfold Mach.cycNs
  rw [h.rd (r := R.RNG_CYC_PER) (.inr (.inr (.inl rfl)))]

theorem Mach.SameWindow.window (c : Nat) : t.window c = m.window c := by
  unfold Mach.window Mach.launchPt
  rw [h.mt, h.ptOf, h.cycNs, Mach.rd_trl h.trl (r := R.TRL_RDEPTH) (by decide)]

theorem Mach.SameWindow.rmask : t.rmask = m.rmask := by
  unfold Mach.rmask
  rw [Mach.rd_trl h.trl (r := R.TRL_CTRL_RMASK) (by decide)]

theorem Mach.SameWindow.hasFrame (cycle : Word) (id : Nat) : t.hasFrame cycle id = m.hasFrame cycle id := by
  unfold Mach.hasFrame
  rw [h.own, h.rx, Mach.rd_trl h.trl (r := R.TRL_CTRL_MODID) (by decide)]

theorem Mach.SameWindow.reqBefore (near : Int) (a b : RingReq) : t.reqBefore near a b = m.reqBefore near a b := by
  unfold Mach.reqBefore Mach.reqEff
  rw [Mach.rd_trl h.trl (r := R.TRL_AGESTEP) (by decide)]

theorem Mach.SameWindow.reqInsert (near : Int) (r : RingReq) (l : List RingReq) :
    t.reqInsert near r l = m.reqInsert near r l := by
  induction l with
  | nil => rfl
  | cons q l ih => rw [Mach.reqInsert, Mach.reqInsert, h.reqBefore, ih]

theorem Mach.SameWindow.windowReqs (cycle : Word) (own : Bool) : t.windowReqs cycle own = m.windowReqs cycle own := by
  unfold Mach.windowReqs
  simp only [h.window, h.own, h.rx, h.rmask, h.reqInsert]

theorem Mach.SameWindow.windowGrants (hh : t.rng.hist = m.rng.hist) (near : Int) (l : List RingReq) :
    t.windowGrants near l = m.windowGrants near l := by
  unfold Mach.windowGrants
  simp only [h.mt, hh, Mach.conflict_congr h.trl]

theorem Mach.SameWindow.histKeep (hh : t.rng.hist = m.rng.hist) : t.histKeep = m.histKeep := by
  unfold Mach.histKeep
  simp only [h.mt, hh, h.ptOf, Mach.tail_congr h.trl, Mach.rd_trl h.trl (r := R.TRL_GUARD) (by decide)]

end

theorem Mach.JudgedOnly.sameWindow {m t : Mach} (h : m.JudgedOnly judgedRegs t) : m.SameWindow t where
  word a ha := h.keeps a ha.notMem_judgedRegs
  mt := h.mt
  own := by obtain ⟨r, hr⟩ := h.rng; rw [hr]
  rx := by obtain ⟨r, hr⟩ := h.rng; rw [hr]

theorem Mach.SameWindow.trans {m t u : Mach} (h : m.SameWindow t) (h' : t.SameWindow u) : m.SameWindow u :=
  ⟨fun a ha => (h'.word a ha).trans (h.word a ha), h'.mt.trans h.mt, h'.own.trans h.own, h'.rx.trans h.rx⟩

/-! ## The grants of a window -/

/-- Grants of different fields do not conflict. -/
def Mach.RingSafe (m : Mach) (near : Int) (l : List RingGrant) : Prop :=
  ∀ g ∈ l, ∀ q ∈ l, g.g ≠ q.g → m.conflict (ringClaim near g) (ringClaim near q) = false

theorem Mach.RingSafe.congr {m t : Mach} (h : ∀ a, TrlReg a → t.word a = m.word a) {near : Int} {l : List RingGrant}
    (hs : m.RingSafe near l) : t.RingSafe near l :=
  fun g hg q hq hne => (Mach.conflict_congr h _ _).trans (hs g hg q hq hne)

/-- A grant that conflicts with none of another field joins them. -/
theorem Mach.RingSafe.snoc {m : Mach} {near : Int} {l : List RingGrant} (h : m.RingSafe near l) {r : RingGrant}
    (hr : ∀ q ∈ l, q.g ≠ r.g → m.conflict (ringClaim near r) (ringClaim near q) = false) : m.RingSafe near (l ++ [r]) := by
  intro g hg q hq hne
  rw [List.mem_append, List.mem_singleton] at hg hq
  obtain hg | rfl := hg
  · obtain hq | rfl := hq
    · exact h g hg q hq hne
    · rw [Mach.conflict_comm]
      exact hr g hg hne
  · obtain hq | rfl := hq
    · exact hr q hq hne.symm
    · exact absurd rfl hne

/-- R260: a request is granted only where it conflicts with no grant of another field that stands. -/
theorem Mach.windowGrants_safe {m : Mach} {near : Int} (h : m.RingSafe near m.rng.hist) (l : List RingReq) :
    m.RingSafe near (m.rng.hist ++ m.windowGrants near l) := by
  unfold Mach.windowGrants
  refine List.foldlRecOn l _ (motive := fun s : List RingGrant × List (BitVec 7) => m.RingSafe near (m.rng.hist ++ s.1))
    (by simpa using h) fun s hs r _ => ?_
  dsimp only
  split
  · exact hs
  · split
    · exact hs
    · next hclash =>
      rw [← List.append_assoc]
      refine hs.snoc fun q hq hne => ?_
      simp only [Bool.not_eq_true, List.any_eq_false, Bool.and_eq_true, bne_iff_ne, not_and] at hclash
      exact hclash q hq hne

end Sys2Proof.Machine
end

section
/-! PROOF. The decision instant of a cycle (R260 to R262), and the grants of the trellis and of the ring together. -/
namespace Sys2Proof.Machine

/-! ## The window's decision -/

section
variable (m : Mach) (cycle : Word)

/-- The ring grants held, and the end of an abstention. -/
def Mach.withRing (hist : List RingGrant) (til : Option Nat) : Mach :=
  { m with rng := { m.rng with hist := hist, abstainTil := til } }

theorem Mach.withRing_sameWindow (hist : List RingGrant) (til : Option Nat) : m.SameWindow (m.withRing hist til) :=
  ⟨fun _ _ => rfl, rfl, rfl, rfl⟩

/-- No past abstention reaches into the window (R261). -/
def Mach.ringFree (w : Int × Int) : Bool :=
  match m.rng.abstainTil with
  | none => true
  | some t => decide (nearPt w.1 t ≤ w.1)

/-- A window's requests are granted, the module's own among them where it is free. -/
def Mach.windowGrant (w : Int × Int) (free : Bool) : Mach :=
  let u := if free then m.withRing m.rng.hist none else m
  u.withRing (u.rng.hist ++ u.windowGrants w.1 (u.windowReqs cycle free)) u.rng.abstainTil

/-- Every frame is there and none of the past windows was abstained from: the window's requests are granted (R260). -/
theorem Mach.windowDecide_grants (hen : m.rd R.TRL_CTRL_RINGEN = 1) (hpt : m.rd R.TRL_CTRL_PTVALID = 1)
    (hall : ∀ id ∈ m.rmask, m.hasFrame cycle id = true) (habs : m.rng.abstainTil = none) :
    m.windowDecide cycle = m.withRing (m.histKeep ++
      (m.withRing m.histKeep none).windowGrants (m.window cycle.toNat).1 (m.windowReqs cycle true)) none := by
  have hkept := m.withRing_sameWindow m.histKeep m.rng.abstainTil
  have hcond : (!(m.withRing m.histKeep m.rng.abstainTil).on R.TRL_CTRL_PTVALID ||
      (m.withRing m.histKeep m.rng.abstainTil).rmask.any fun id =>
        !(m.withRing m.histKeep m.rng.abstainTil).hasFrame cycle id) = false := by
    have hnone : (m.rmask.any fun id => !m.hasFrame cycle id) = false :=
      List.any_eq_false.mpr fun id hid => by simp [hall id hid]
    have hvalid : (m.withRing m.histKeep m.rng.abstainTil).on R.TRL_CTRL_PTVALID = true := beq_iff_eq.mpr hpt
    simp only [hkept.rmask, hkept.hasFrame, hnone, hvalid]
    rfl
  have hgranted : m.windowDecide cycle = (m.withRing m.histKeep m.rng.abstainTil).windowGrant cycle (m.window cycle.toNat)
      ((m.withRing m.histKeep m.rng.abstainTil).ringFree (m.window cycle.toNat)) := by
    have hon : (m.withRing m.histKeep m.rng.abstainTil).on R.TRL_CTRL_RINGEN = true := beq_iff_eq.mpr hen
    refine (if_neg ?_).trans (if_neg ?_)
    · exact (congrArg not hon).trans_ne (by decide)
    · exact hcond.trans_ne (by decide)
  have hfree : (m.withRing m.histKeep m.rng.abstainTil).ringFree (m.window cycle.toNat) = true := by
    unfold Mach.ringFree Mach.withRing
    dsimp only
    rw [habs]
  rw [hgranted, hfree]
  exact congrArg (fun l => m.withRing (m.histKeep ++ (m.withRing m.histKeep none).windowGrants (m.window cycle.toNat).1 l) none)
    ((m.withRing_sameWindow m.histKeep none).windowReqs cycle true)

/-- A frame is missing, or PT does not hold: the module abstains (R261). -/
theorem Mach.windowDecide_abstains (hen : m.rd R.TRL_CTRL_RINGEN = 1) (hmiss : ∃ id ∈ m.rmask, m.hasFrame cycle id = false) :
    m.windowDecide cycle = (m.withRing m.histKeep m.rng.abstainTil).abstain (m.window cycle.toNat) := by
  have hkept := m.withRing_sameWindow m.histKeep m.rng.abstainTil
  have hsome : ((m.withRing m.histKeep m.rng.abstainTil).rmask.any fun id =>
      !(m.withRing m.histKeep m.rng.abstainTil).hasFrame cycle id) = true := by
    rw [List.any_eq_true, hkept.rmask]
    obtain ⟨id, hid, hno⟩ := hmiss
    exact ⟨id, hid, by rw [hkept.hasFrame, hno]; rfl⟩
  have hon : (m.withRing m.histKeep m.rng.abstainTil).on R.TRL_CTRL_RINGEN = true := beq_iff_eq.mpr hen
  refine (if_neg ?_).trans (if_pos ?_)
  · exact (congrArg not hon).trans_ne (by decide)
  · exact (congrArg _ hsome).trans (Bool.or_true _)

end

/-! ## The decision -/

section
variable {m : Mach} {cycle : Word}

theorem Mach.applySignals_nil (h : m.rng.sigRecs = []) (l : Word) : m.applySignals l = m := by
  unfold Mach.applySignals Mach.heldCycles
  rw [h]
  rfl

theorem Mach.ringDecision_away (h : m.mt < m.decideAt cycle.toNat ∨ m.rd R.RNG_CTRL_CYCEN = 0 ∨ m.ringMode = 0 ∨
    cycle ∈ m.rng.decided ∨ cycle.toNat % m.cycNs ≠ 0) : m.ringDecision cycle = m := by
  refine if_pos ?_
  obtain h | h | h | h | h := h
  · exact .inl h
  · exact .inr (.inl (by simp [Mach.on, h]))
  · exact .inr (.inr (.inl h))
  · exact .inr (.inr (.inr (.inl (by simpa using h))))
  · exact .inr (.inr (.inr (.inr h)))

/-- The cycle joins those decided. -/
def Mach.markDecided (m : Mach) (cycle : Word) : Mach :=
  { m with rng := { m.rng with decided := (cycle :: m.rng.decided).take 16 } }

/-- The module as the decision of a cycle comes to its window. -/
def Mach.atWindow (m : Mach) (cycle : Word) : Mach := (m.markDecided cycle).beforeWindow cycle

theorem Mach.ringDecision_due (ht : m.decideAt cycle.toNat ≤ m.mt) (hen : m.rd R.RNG_CTRL_CYCEN = 1) (hmode : m.ringMode ≠ 0)
    (hnew : cycle ∉ m.rng.decided) (hgrid : cycle.toNat % m.cycNs = 0) :
    m.ringDecision cycle = ((m.atWindow cycle).windowDecide cycle).applySignals cycle := by
  refine if_neg ?_
  simp only [Mach.on, hen, List.contains_iff_mem, not_or, Nat.not_lt, not_not]
  exact ⟨ht, by decide, hmode, hnew, hgrid⟩

theorem Mach.atWindow_judged (m : Mach) (cycle : Word) : (m.markDecided cycle).JudgedOnly judgedRegs (m.atWindow cycle) :=
  Mach.beforeWindow_judged ..

theorem Mach.atWindow_sameWindow (m : Mach) (cycle : Word) : m.SameWindow (m.atWindow cycle) :=
  Mach.SameWindow.trans (t := m.markDecided cycle) ⟨fun _ _ => rfl, rfl, rfl, rfl⟩ (m.atWindow_judged cycle).sameWindow

/-- Of the ring's state the window finds the cycle among those decided, and the rest as it stood. -/
theorem Mach.atWindow_rng (m : Mach) (cycle : Word) : ∃ r, (m.atWindow cycle).rng =
    { m.rng with decided := (cycle :: m.rng.decided).take 16, missRun := r } :=
  (m.atWindow_judged cycle).rng

theorem Mach.atWindow_missCount (m : Mach) (cycle : Word) : (m.atWindow cycle).rd R.RNG_CYCMISS =
    min (m.rd R.RNG_CYCMISS + (m.missing cycle).length) (2 ^ 32 - 1) :=
  Mach.beforeWindow_missCount ..

/-- A window decided, and no signal held: with no context waiting the decision ends there. -/
theorem Mach.Quiet.ringDecision_ends (hq : m.Quiet) (ht : m.decideAt cycle.toNat ≤ m.mt) (hen : m.rd R.RNG_CTRL_CYCEN = 1)
    (hmode : m.ringMode ≠ 0) (hnew : cycle ∉ m.rng.decided) (hgrid : cycle.toNat % m.cycNs = 0) {t : Mach}
    (hwin : (m.atWindow cycle).windowDecide cycle = t) (hsig : t.rng.sigRecs = []) (hf : t.fe = m.fe) (hc : t.coo = m.coo)
    (hx : t.axis = m.axis) : (m.ringDecision cycle).wakeAll = t := by
  rw [Mach.ringDecision_due ht hen hmode hnew hgrid, hwin, Mach.applySignals_nil hsig]
  exact Mach.wakeAll_of_quiet (hq.congr hf hc hx)

/-- R261: an abstention is noted, counted and raised, and grants nothing. -/
theorem Mach.abstain_shows (m : Mach) (w : Int × Int) :
    (∃ til, (m.abstain w).rng = { m.rng with abstainTil := some til }) ∧
    (m.abstain w).rd R.TRL_ABSTAIN = min (m.rd R.TRL_ABSTAIN + 1) (2 ^ 32 - 1) ∧
    (m.raisedThisTick 154 = false → (m.abstain w).evt 154 = 1) ∧
    (m.abstain w).rd R.RNG_CYCMISS = m.rd R.RNG_CYCMISS ∧ (m.abstain w).signals = m.signals ∧ (m.abstain w).fe = m.fe ∧
    (m.abstain w).coo = m.coo ∧ (m.abstain w).axis = m.axis ∧ (m.abstain w).mem = m.mem := by
  unfold Mach.abstain
  refine ⟨⟨_, Mach.raiseOnce_rng ..⟩, ?_, fun h => Mach.raiseOnce_evt _ _ _ _ (by decide) (.inl h), ?_, Mach.raiseOnce_signals ..,
    Mach.raiseOnce_fe .., Mach.raiseOnce_coo .., Mach.raiseOnce_axis .., Mach.raiseOnce_mem ..⟩
  · exact (Mach.rd_congr (Mach.raiseOnce_word_ne _ (by decide))).trans (rrd_rinc_word m.regs _)
  · exact (Mach.rd_congr (Mach.raiseOnce_word_ne _ (by decide))).trans (rrd_rinc_ne (by decide))

section
variable (hsig : m.rng.sigRecs = []) (hring : m.rd R.TRL_CTRL_RINGEN = 1) {near : Int}
  (hnear : near = (m.window cycle.toNat).1) {k : Mach} (hk : k = { m with rng := { m.rng with hist := m.histKeep } })

include hring hnear hk in
/-- R260: with every frame at hand the window's requests join the grants kept. -/
theorem Mach.atWindow_grants (hall : ∀ id ∈ m.rmask, m.hasFrame cycle id = true) (hpt : m.rd R.TRL_CTRL_PTVALID = 1)
    (habs : m.rng.abstainTil = none) : (m.atWindow cycle).windowDecide cycle =
      (m.atWindow cycle).withRing (k.rng.hist ++ k.windowGrants near (m.windowReqs cycle true)) none := by
  have hs := m.atWindow_sameWindow cycle
  obtain ⟨r, hrng⟩ := m.atWindow_rng cycle
  have hhist : (m.atWindow cycle).histKeep = m.histKeep := hs.histKeep (by rw [hrng])
  have hgrants : ((m.atWindow cycle).withRing m.histKeep none).windowGrants near (m.windowReqs cycle true) =
      k.windowGrants near (m.windowReqs cycle true) := by
    subst hk
    exact Mach.SameWindow.windowGrants (m := { m with rng := { m.rng with hist := m.histKeep } })
      (t := (m.atWindow cycle).withRing m.histKeep none) ⟨hs.word, hs.mt, hs.own, hs.rx⟩ rfl near _
  have hkept : k.rng.hist = m.histKeep := by rw [hk]
  rw [Mach.windowDecide_grants _ cycle ((Mach.rd_trl hs.trl (by decide)).trans hring)
    ((Mach.rd_trl hs.trl (by decide)).trans hpt) (fun id hid => by rw [hs.hasFrame]; exact hall id (hs.rmask ▸ hid))
    (by rw [hrng, habs]), hhist, hs.window, hs.windowReqs, ← hnear, hgrants, hkept]

include hring in
/-- R261: with a frame missing the module abstains from the window. -/
theorem Mach.atWindow_abstains (hmiss : ∃ id ∈ m.rmask, m.hasFrame cycle id = false) :
    (m.atWindow cycle).windowDecide cycle =
      ((m.atWindow cycle).withRing m.histKeep m.rng.abstainTil).abstain (m.window cycle.toNat) := by
  have hs := m.atWindow_sameWindow cycle
  obtain ⟨r, hrng⟩ := m.atWindow_rng cycle
  have habs : (m.atWindow cycle).rng.abstainTil = m.rng.abstainTil := by rw [hrng]
  rw [Mach.windowDecide_abstains _ cycle ((Mach.rd_trl hs.trl (by decide)).trans hring), hs.histKeep (by rw [hrng]), hs.window,
    habs]
  obtain ⟨id, hid, hno⟩ := hmiss
  exact ⟨id, hs.rmask ▸ hid, (hs.hasFrame cycle id).trans hno⟩

end

end

/-! ## What the decision answers -/

section
variable {s : State} {dt : Nat} {m : Mach} {cycle : Word}

/-- The statements' answer to a decision that is due, from the decision of its window. -/
theorem answers_ringDecision (hm : m = s.at dt) (hq : m.Quiet) (ht : m.decideAt cycle.toNat ≤ m.mt)
    (hen : m.rd R.RNG_CTRL_CYCEN = 1) (hmode : m.ringMode ≠ 0) (hnew : cycle ∉ m.rng.decided)
    (hgrid : cycle.toNat % m.cycNs = 0) {t : Mach} (hwin : (m.atWindow cycle).windowDecide cycle = t)
    (hsig : t.rng.sigRecs = []) (hf : t.fe = m.fe) (hc : t.coo = m.coo) (hx : t.axis = m.axis) {P : Mach → Prop} (hP : P t) :
    Answers (.ringDecision dt cycle) s P := by
  have hends := hq.ringDecision_ends ht hen hmode hnew hgrid hwin hsig hf hc hx
  subst hm
  exact answers_of rfl hends hP

/-- No frame of a cycle has come from another module. -/
theorem Mach.hasFrame_none {id : Nat} (h : ∀ q ∈ m.rng.rx, q.cycle ≠ cycle) (hid : id ≠ m.rd R.TRL_CTRL_MODID) :
    m.hasFrame cycle id = false :=
  (if_neg hid).trans (List.any_eq_false.mpr fun q hq => by simp [h q hq])

variable (hm : m = s.at dt) (hq : m.Quiet) (ht : m.decideAt cycle.toNat ≤ m.mt) (hen : m.rd R.RNG_CTRL_CYCEN = 1)
  (hmode : m.ringMode ≠ 0) (hnew : cycle ∉ m.rng.decided) (hgrid : cycle.toNat % m.cycNs = 0) (hsig : m.rng.sigRecs = [])
  (hring : m.rd R.TRL_CTRL_RINGEN = 1)
include hm hq ht hen hmode hnew hgrid hsig hring

theorem answers_ringDecision_grants (hall : ∀ id ∈ m.rmask, m.hasFrame cycle id = true) (hpt : m.rd R.TRL_CTRL_PTVALID = 1)
    (habs : m.rng.abstainTil = none) {near : Int} (hnear : near = (m.window cycle.toNat).1) {k : Mach}
    (hk : k = { m with rng := { m.rng with hist := m.histKeep } }) :
    Answers (.ringDecision dt cycle) s fun t =>
      t.rng.hist = k.rng.hist ++ k.windowGrants near (m.windowReqs cycle true) ∧
      (m.RingSafe near k.rng.hist → t.RingSafe near t.rng.hist) ∧
      t.rng.decided = (cycle :: m.rng.decided).take 16 ∧ t.rd R.TRL_ABSTAIN = m.rd R.TRL_ABSTAIN ∧
      t.rd R.RNG_CYCMISS = m.rd R.RNG_CYCMISS ∧ t.signals = m.signals ∧ t.fe = m.fe ∧ t.mem = m.mem ∧ t.axis = m.axis := by
  have hj := m.atWindow_judged cycle
  have hs := m.atWindow_sameWindow cycle
  have hcount := m.atWindow_missCount cycle
  obtain ⟨r, hrng⟩ := m.atWindow_rng cycle
  have hnone : m.missing cycle = [] := List.filter_eq_nil_iff.mpr fun id hid => by simp [hall id hid]
  have hlt : m.rd R.RNG_CYCMISS < 2 ^ 32 := rrd_lt ..
  refine answers_ringDecision hm hq ht hen hmode hnew hgrid (Mach.atWindow_grants hring hnear hk hall hpt habs) ?_ hj.fe hj.coo
    hj.axis ⟨rfl, fun hsafe => ?_, ?_, Mach.rd_trl hs.trl (by decide), ?_, hj.signals, hj.fe, hj.mem, hj.axis⟩
  · exact (congrArg Rng.sigRecs hrng).trans hsig
  · have hkept : k.RingSafe near k.rng.hist := Mach.RingSafe.congr (fun _ _ => by rw [hk]; rfl) hsafe
    refine (Mach.windowGrants_safe hkept _).congr fun a ha => (hs.trl a ha).trans ?_
    rw [hk]
    rfl
  · exact congrArg Rng.decided hrng
  · refine Eq.trans hcount ?_
    rw [hnone, List.length_nil]
    omega

theorem answers_ringDecision_abstains (hframes : ∀ q ∈ m.rng.rx, q.cycle ≠ cycle)
    (hmask : ∃ id ∈ m.rmask, id ≠ m.rd R.TRL_CTRL_MODID) (hraised : m.raisedThisTick 154 = false) {k : Mach}
    (hk : k = { m with rng := { m.rng with hist := m.histKeep } }) :
    Answers (.ringDecision dt cycle) s fun t =>
      t.rng.hist = k.rng.hist ∧ t.rng.abstainTil.isSome = true ∧
      t.rd R.TRL_ABSTAIN = min (m.rd R.TRL_ABSTAIN + 1) (2 ^ 32 - 1) ∧ t.evt 154 = 1 ∧
      t.rd R.RNG_CYCMISS = min (m.rd R.RNG_CYCMISS + (m.rmask.filter fun id => !m.hasFrame cycle id).length) (2 ^ 32 - 1) ∧
      t.signals = m.signals ∧ t.fe = m.fe ∧ t.mem = m.mem ∧ t.axis = m.axis := by
  have hj := m.atWindow_judged cycle
  have hs := m.atWindow_sameWindow cycle
  have hcount := m.atWindow_missCount cycle
  obtain ⟨r, hrng⟩ := m.atWindow_rng cycle
  obtain ⟨id, hid, hother⟩ := hmask
  have hwin := Mach.atWindow_abstains (cycle := cycle) hring ⟨id, hid, Mach.hasFrame_none hframes hother⟩
  obtain ⟨⟨til, htil⟩, habstain, hevt, hmiss, hsignals, hfe, hcoo, haxis, hmem⟩ :=
    Mach.abstain_shows ((m.atWindow cycle).withRing m.histKeep m.rng.abstainTil) (m.window cycle.toNat)
  generalize ((m.atWindow cycle).withRing m.histKeep m.rng.abstainTil).abstain (m.window cycle.toNat) = t at *
  refine answers_ringDecision hm hq ht hen hmode hnew hgrid hwin ?_ (hfe.trans hj.fe) (hcoo.trans hj.coo) (haxis.trans hj.axis)
    ⟨?_, ?_, ?_, hevt ((hj.raised 154 (by decide)).trans hraised), hmiss.trans hcount, hsignals.trans hj.signals,
      hfe.trans hj.fe, hmem.trans hj.mem, haxis.trans hj.axis⟩
  · rw [htil]
    exact (congrArg Rng.sigRecs hrng).trans hsig
  · rw [htil, hk]
    rfl
  · rw [htil]
    rfl
  · have hsame : ((m.atWindow cycle).withRing m.histKeep m.rng.abstainTil).rd R.TRL_ABSTAIN = m.rd R.TRL_ABSTAIN :=
      Mach.rd_trl hs.trl (by decide)
    rw [habstain, hsame]

end

/-! ## The trellis and the ring -/

section
variable {s : State} {dt : Nat} {m : Mach} (hm : m = s.at dt)
include hm

theorem answers_grantPass {t : Mach} (ht : m.grantPass = t) {P : Mach → Prop} (hP : P t) : Answers (.grantPass dt) s P := by
  subst hm
  exact answers_of rfl ht hP

/-- A laser-on slice that begins, of a field alone to publish one (R251 to R253): it is granted or denied. -/
theorem answers_grantPass_sole {n : Fin 16} {x : Summary} (hb : m.mt % 16000 = 0) (hlo : 8000 ≤ m.mt) (hhi : m.mt < 2 ^ 63)
    (hen : m.rd R.TRL_CTRL_EN = 1) (hother : ∀ h : Fin 16, h ≠ n → m.fe[h].summ = []) (hs : m.fe[n].summ = [x])
    (hresv : m.fe[n].resv = []) (hx : x.slice = m.mt / 16000) (hpub : x.pubAt + 8000 ≤ m.mt) (hgone : x.goneAt = none)
    (hlon : x.lon = true) (hring : x.ringm = false) (hhist : m.rng.hist = []) :
    ((∀ h : Fin 16, h ≠ n → ∀ r ∈ m.fe[h].resv,
        m.conflict (sliceClaim x.slice (some x.box)) (sliceClaim r.slice r.box) = false) → Answers (.grantPass dt) s fun t =>
      t.fe[n].resv = [⟨x.slice, some x.box⟩] ∧ t.rd64 (R.FE_TRL_CLEAR_LO n) (R.FE_TRL_CLEAR_HI n) = m.mt + 16000 ∧
      t.rd (R.FE_TRL_AGE_AGE n) = 0 ∧ t.rd (R.FE_TRL_DENY n) = m.rd (R.FE_TRL_DENY n)) ∧
    (∀ (h : Fin 16) (r : Resv), h ≠ n → r ∈ m.fe[h].resv →
      m.conflict (sliceClaim x.slice (some x.box)) (sliceClaim r.slice r.box) = true → Answers (.grantPass dt) s fun t =>
      t.fe[n].resv = [] ∧ t.rd64 (R.FE_TRL_CLEAR_LO n) (R.FE_TRL_CLEAR_HI n) = m.mt ∧
      t.rd (R.FE_TRL_AGE_AGE n) = min (m.rd (R.FE_TRL_AGE_AGE n) + 1) 255 ∧
      t.rd (R.FE_TRL_DENY n) = min (m.rd (R.FE_TRL_DENY n) + 1) (2 ^ 32 - 1)) := by
  have hp : x.pubAt ≤ m.mt - 8000 := by omega
  refine ⟨fun hfree => ?_, fun h r hne hr hc => ?_⟩
  · have hposted := Mach.granted_posted hen hother hresv fun t ht =>
      ht.grantField_grants hs hp hgone hlon hring hhist hx.symm hfree
    obtain ⟨hres, hclear, hage, hdeny⟩ := hposted.pass hb hhi hen hs hp hgone hx (by simp)
    rw [List.find?_cons_of_pos (by simp), covered_reserved hlon] at hclear
    exact answers_grantPass hm rfl ⟨hres, hclear, hage, hdeny⟩
  · have hposted := Mach.granted_posted hen hother hresv fun t ht =>
      ht.grantField_denies hs hp hgone hlon hring hhist hx.symm hne hr hc
    obtain ⟨hres, hclear, hage, hdeny⟩ := hposted.pass hb hhi hen hs hp hgone hx (by simp)
    rw [List.find?_nil, covered_unreserved hlon] at hclear
    exact answers_grantPass hm rfl ⟨hres, hclear, hage, hdeny⟩

end

/-- Settles O29: a pass grants where no reservation of another field meets the claim, and a decision where no grant does. -/
theorem grantsNeverConflict : Obligations.GrantsNeverConflict := by
  intro s dt m hm
  refine ⟨fun hb => answers_grantPass hm (Mach.grantPass_away hb) rfl, fun hb => ?_,
    fun n x hb hlo hhi hen hother hs hresv hx hpub hgone hlon hring hhist =>
      answers_grantPass_sole hm hb hlo hhi hen hother hs hresv hx hpub hgone hlon hring hhist,
    fun cycle near k hq hnear hk ht hen hmode hnew hgrid hsig hring =>
      ⟨fun hall hpt habs => answers_ringDecision_grants hm hq ht hen hmode hnew hgrid hsig hring hall hpt habs hnear hk,
        fun hframes hmask hraised =>
          answers_ringDecision_abstains hm hq ht hen hmode hnew hgrid hsig hring hframes hmask hraised hk⟩,
    fun cycle hq haway => ?_⟩
  · obtain ⟨hkeeps, hfield, hframe, hsafe⟩ := Mach.grantPass_grantsOnly hb
    exact answers_grantPass hm rfl ⟨hsafe, fun hen n => Mach.grantPass_off hb hen n, hfield, hkeeps, hframe⟩
  · have hends : (m.ringDecision cycle).wakeAll = m := by
      rw [Mach.ringDecision_away haway]
      exact Mach.wakeAll_of_quiet hq
    subst hm
    exact answers_of rfl hends rfl

end Sys2Proof.Machine
end

section
/-! PROOF. Deposits in the heat ledger (R266, R268, R269): a share added to a cell, and the nine shares of kernel K3. -/
namespace Sys2Proof.Machine

/-! ## Cells of the grid -/

section
variable {m : Mach} {i j i' j' : Int} {k : Nat}

theorem Mach.hldNx_le (m : Mach) : m.hldNx ≤ 2048 := clampN_le (by decide)

theorem Mach.cellIx_eq_some : m.cellIx i j = some k ↔
    (0 ≤ i ∧ i < m.hldNx ∧ 0 ≤ j ∧ j < m.hldNy) ∧ 2048 * j.toNat + i.toNat = k := by
  unfold Mach.cellIx
  split <;> simp_all

/-- One cell has one place in the grid. -/
theorem Mach.cellIx_inj (h : m.cellIx i j = some k) (h' : m.cellIx i' j' = some k) : i = i' ∧ j = j' := by
  obtain ⟨⟨hi, hix, hj, -⟩, he⟩ := Mach.cellIx_eq_some.mp h
  obtain ⟨⟨hi', hix', hj', -⟩, he'⟩ := Mach.cellIx_eq_some.mp h'
  have := m.hldNx_le
  omega

end

/-! ## One share -/

section
variable (m : Mach) (k a : Nat)

theorem Ledger.open'_cell (l : Ledger) (t j : Nat) : (l.open' t).cell j = l.cell j := by
  unfold Ledger.open'
  split <;> rfl

/-- The ledger with a share added (R269). -/
def Mach.shared : Ledger := (m.addShare k a).1.ledger

theorem Mach.addShare_eq : m.addShare k a = ({ m with ledger := m.shared k a }, decide (65535 < m.energy k m.mt + a)) := rfl

theorem Mach.shared_cell : (m.shared k a).cell k = cellWord (min (m.energy k m.mt + a) 65535) (coarse m.mt) :=
  Ledger.cell_put (m.ledger.open' m.mt) k _

theorem Mach.shared_cell_ne {j : Nat} (h : j ≠ k) : (m.shared k a).cell j = m.ledger.cell j :=
  (Ledger.cell_put_ne (m.ledger.open' m.mt) _ h).trans (Ledger.open'_cell ..)

/-- A share that the cell holds. -/
theorem Mach.depositShare_fits {i j : Int} (hk : m.cellIx i j = some k) (h : m.energy k m.mt + a ≤ 65535) :
    m.depositShare i j a = { m with ledger := m.shared k a } := by
  unfold Mach.depositShare
  rw [hk]
  exact if_neg (by simpa [Mach.addShare_eq] using h)

/-- A share that saturates the cell: it is counted and reported (R269). -/
theorem Mach.depositShare_saturates {i j : Int} (hk : m.cellIx i j = some k) (h : 65535 < m.energy k m.mt + a) :
    m.depositShare i j a = Mach.noteSat { m with ledger := m.shared k a } := by
  unfold Mach.depositShare
  rw [hk]
  exact if_pos (by simpa [Mach.addShare_eq] using h)

theorem Mach.noteSat_shows : m.noteSat.ledger = m.ledger ∧ m.noteSat.rd R.HLD_SAT = min (m.rd R.HLD_SAT + 1) (2 ^ 32 - 1) ∧
    m.noteSat.rd R.HLD_STATUS_SATF = 1 ∧ (m.raisedThisTick 158 = false → m.noteSat.evt 158 = 1) ∧
    m.Keeps m.noteSat ([R.HLD_SAT.a, R.HLD_STATUS_SATF.a] ++ raiseRegs 158) := by
  have hword {a : Nat} (ha : a ∉ raiseRegs 158) : m.noteSat.word a = ((m.inc R.HLD_SAT).wr R.HLD_STATUS_SATF 1).word a :=
    Mach.raiseOnce_word_ne _ ha
  refine ⟨Mach.raiseOnce_ledger .., ?_, ?_, fun h => Mach.raiseOnce_evt _ _ _ _ (by decide) (.inl h), fun a ha => ?_⟩
  · exact (Mach.rd_congr (hword (by decide))).trans
      ((Mach.rd_congr (Mach.wr_word_ne _ _ (by decide))).trans (rrd_rinc_word m.regs _))
  · exact (Mach.rd_congr (hword (by decide))).trans (rrd_rwr_same R.HLD_STATUS_SATF 1 (by decide) (by decide))
  · simp only [List.mem_append, List.mem_cons, List.not_mem_nil, or_false, not_or] at ha
    obtain ⟨⟨hsat, hflag⟩, hraise⟩ := ha
    exact (hword hraise).trans ((Mach.wr_word_ne _ _ hflag).trans (rget_rinc_ne hsat))

end

/-! ## Several shares -/

/-- A share of a deposit: its place from the spot's cell, and its amount. -/
abbrev Share := Int × Int × Nat

section
variable {i j : Int}

/-- Shares are added to cells around the cell at column `i` and row `j`. -/
def Mach.depositShares (m : Mach) (i j : Int) (ws : List Share) : Mach :=
  ws.foldl (fun (m : Mach) w => m.depositShare (i + w.1) (j + w.2.1) w.2.2) m

/-- Shares that lie on the grid, each on a cell of its own that holds it: each cell takes its share, and nothing else
changes. -/
theorem Mach.depositShares_fit {m : Mach} {ws : List Share} (hnd : (ws.map fun w => (w.1, w.2.1)).Nodup)
    (hfit : ∀ w ∈ ws, ∃ k, m.cellIx (i + w.1) (j + w.2.1) = some k ∧ m.energy k m.mt + w.2.2 ≤ 65535) :
    (∀ w ∈ ws, ∀ k, m.cellIx (i + w.1) (j + w.2.1) = some k →
      (m.depositShares i j ws).ledger.cell k = cellWord (m.energy k m.mt + w.2.2) (coarse m.mt)) ∧
    (∀ k, (∀ w ∈ ws, m.cellIx (i + w.1) (j + w.2.1) ≠ some k) → (m.depositShares i j ws).ledger.cell k = m.ledger.cell k) ∧
    m.depositShares i j ws = { m with ledger := (m.depositShares i j ws).ledger } := by
  induction ws generalizing m with
  | nil => exact ⟨fun _ hw => absurd hw List.not_mem_nil, fun _ _ => rfl, rfl⟩
  | cons w ws ih =>
    obtain ⟨hw, hnd'⟩ := List.nodup_cons.mp hnd
    obtain ⟨⟨k₀, hk₀, he₀⟩, hfit'⟩ := List.forall_mem_cons.mp hfit
    have hstep : m.depositShares i j (w :: ws) = Mach.depositShares { m with ledger := m.shared k₀ w.2.2 } i j ws :=
      congrArg (fun t : Mach => t.depositShares i j ws) (m.depositShare_fits k₀ w.2.2 hk₀ he₀)
    have hother {v : Share} (hv : v ∈ ws) {k : Nat} (hk : m.cellIx (i + v.1) (j + v.2.1) = some k) : k ≠ k₀ := by
      rintro rfl
      obtain ⟨hi, hj⟩ := Mach.cellIx_inj hk hk₀
      refine hw (List.mem_map.mpr ⟨v, hv, Prod.ext ?_ ?_⟩) <;> dsimp only <;> omega
    have henergy {k : Nat} (hk : k ≠ k₀) (t : Nat) : Mach.energy { m with ledger := m.shared k₀ w.2.2 } k t = m.energy k t :=
      congrArg (fun c => decayE (m.rd R.HLD_DECAY) c (coarse t)) (m.shared_cell_ne k₀ w.2.2 hk)
    obtain ⟨hcells, hrest, hframe⟩ := ih (m := { m with ledger := m.shared k₀ w.2.2 }) hnd' fun v hv => by
      obtain ⟨k, hk, he⟩ := hfit' v hv
      exact ⟨k, hk, by rwa [henergy (hother hv hk)]⟩
    rw [hstep]
    refine ⟨List.forall_mem_cons.mpr ⟨fun k hk => ?_, fun v hv k hk => ?_⟩, fun k hk => ?_, hframe⟩
    · obtain rfl : k₀ = k := Option.some.inj (hk₀.symm.trans hk)
      refine (hrest k₀ fun v hv hv' => hother hv hv' rfl).trans ?_
      refine (m.shared_cell k₀ w.2.2).trans ?_
      rw [Nat.min_eq_left he₀]
    · refine (hcells v hv k hk).trans ?_
      rw [henergy (hother hv hk)]
    · obtain ⟨hk₁, hk'⟩ := List.forall_mem_cons.mp hk
      exact (hrest k hk').trans (m.shared_cell_ne k₀ w.2.2 fun e => hk₁ (e ▸ hk₀))

end

/-! ## Kernel K3 -/

/-- The nine shares of a deposit: what the neighbours leave, and theirs (R269). -/
def shares3 (a : Nat) : List Share :=
  (0, 0, a - (4 * (a / 16) + 4 * (a * 2 / 16))) :: kernel3.map fun w => (w.1, w.2.1, a * w.2.2 / 16)

theorem kernel3_sides (a : Nat) : kernel3.foldl (fun v w => v + a * w.2.2 / 16) 0 = 4 * (a / 16) + 4 * (a * 2 / 16) := by
  simp only [kernel3, List.foldl_cons, List.foldl_nil, Nat.mul_one]
  omega

theorem Mach.spread_k3 (m : Mach) (i j : Int) (a : Nat) : m.spread i j a true = m.depositShares i j (shares3 a) := by
  unfold Mach.spread Mach.depositShares shares3
  rw [if_pos rfl, List.foldl_cons, List.foldl_map]
  dsimp only
  rw [kernel3_sides, Int.add_zero, Int.add_zero]

theorem Mach.spread_k1 (m : Mach) (i j : Int) (a : Nat) : m.spread i j a false = m.depositShare i j a := rfl

/-- No share is more than the deposit. -/
theorem shares3_le {a : Nat} {w : Share} (h : w ∈ shares3 a) : w.2.2 ≤ a := by
  obtain rfl | h := List.mem_cons.mp h
  · exact Nat.sub_le ..
  · obtain ⟨v, hv, rfl⟩ := List.mem_map.mp h
    have hsix : ∀ v ∈ kernel3, v.2.2 ≤ 16 := by decide
    have := Nat.mul_le_mul_left a (hsix v hv)
    dsimp only
    omega

theorem shares3_nodup (a : Nat) : ((shares3 a).map fun w => (w.1, w.2.1)).Nodup :=
  (by decide : ((0, 0) :: kernel3.map fun w => (w.1, w.2.1) : List (Int × Int)).Nodup)

/-- The shares stay within one cell of the spot's. -/
theorem shares3_near {a : Nat} {w : Share} (h : w ∈ shares3 a) : -1 ≤ w.1 ∧ w.1 ≤ 1 ∧ -1 ≤ w.2.1 ∧ w.2.1 ≤ 1 := by
  obtain rfl | h := List.mem_cons.mp h
  · dsimp only
    decide
  · obtain ⟨v, hv, rfl⟩ := List.mem_map.mp h
    have hnear : ∀ v ∈ kernel3, -1 ≤ v.1 ∧ v.1 ≤ 1 ∧ -1 ≤ v.2.1 ∧ v.2.1 ≤ 1 := by decide
    exact hnear v hv

end Sys2Proof.Machine
end

section
/-! PROOF. The heat ledger's commands (R221, R265 to R270, R274): deposits, the sweep, factors and the window. -/
namespace Sys2Proof.Machine

/-! ## The deposit of a field -/

section
variable {m : Mach} {n : Fin 16} {st : PState} (hst : st = (m.fe[n].ctx[m.fe[n].owner.getD m.fe[n].lastOwner]).ret)

include hst in
theorem Mach.deposit_away (h : m.mt % 2000 ≠ 0 ∨ m.mt < 2000 ∨ st.dep = false ∨ m.rd R.HLD_CTRL = 0 ∨ m.depositAmount n = 0) :
    m.deposit n = m := by
  subst hst
  refine if_pos ?_
  obtain h | h | h | h | h := h
  · exact .inl h
  · exact .inr (.inl h)
  · exact .inr (.inr (.inl (by rw [h]; rfl)))
  · exact .inr (.inr (.inr (.inl h)))
  · exact .inr (.inr (.inr (.inr h)))

variable {a : Nat} {b c : Int × Int} (ha : a = m.depositAmount n) (hbed : b = m.bedAt n (m.mt - 1000))
  (hc : c = m.cellXY b.1 b.2) (hb : m.mt % 2000 = 0) (hlo : 2000 ≤ m.mt) (hdep : st.dep = true) (hon : m.rd R.HLD_CTRL = 1)
  (hne : a ≠ 0)
include hst ha hbed hc hb hlo hdep hon hne

/-- At a boundary the deposit goes to the cell under the spot of half a servo tick ago, or is counted as lost. -/
theorem Mach.deposit_due : m.deposit n = match m.cellIx c.1 c.2 with
    | none => m.incRaiseOnce R.HLD_DEPOUT 156 0 n
    | some _ => m.spread c.1 c.2 a st.k3 := by
  subst hst ha hbed hc
  have hdue : ¬(m.mt % servoTick ≠ 0 ∨ m.mt < servoTick ∨
      (!(m.fe[n].ctx[m.fe[n].owner.getD m.fe[n].lastOwner]).ret.dep) = true ∨ m.rd R.HLD_CTRL = 0 ∨ m.depositAmount n = 0) := by
    simp only [servoTick, hdep, hon, Bool.not_true, not_or]
    exact ⟨by omega, by omega, by decide, by decide, hne⟩
  exact (if_neg hdue).trans (by rfl)

theorem Mach.deposit_outside (h : m.cellIx c.1 c.2 = none) : m.deposit n = m.incRaiseOnce R.HLD_DEPOUT 156 0 n := by
  rw [Mach.deposit_due hst ha hbed hc hb hlo hdep hon hne, h]

theorem Mach.deposit_inside {k : Nat} (h : m.cellIx c.1 c.2 = some k) : m.deposit n = m.spread c.1 c.2 a st.k3 := by
  rw [Mach.deposit_due hst ha hbed hc hb hlo hdep hon hne, h]

end

/-! ## The sweep -/

section
variable (m : Mach)

/-- LEDOK of one field falls where that field is in fail-safe. -/
def Mach.ledDown (n : Fin 16) : Mach := if m.inFs n then m.wr (R.SAF_FS_STATUS_LEDOK n) 0 else m

theorem Mach.ledBad_eq : m.ledBad = (List.finRange 16).foldl Mach.ledDown m := rfl

theorem Mach.ledDown_apart (n : Fin 16) {r : RF} (hr : r.msb < 32) (h : (R.SAF_FS_STATUS_LEDOK n).Apart r) :
    (m.ledDown n).rd r = m.rd r := by
  unfold Mach.ledDown
  split
  · exact rrd_rwr_apart 0 (by simp [R.SAF_FS_STATUS_LEDOK]) hr h
  · rfl

theorem Mach.ledDown_self (n : Fin 16) : (m.ledDown n).rd (R.SAF_FS_STATUS_LEDOK n) =
    if m.inFs n then 0 else m.rd (R.SAF_FS_STATUS_LEDOK n) := by
  unfold Mach.ledDown
  split
  · exact rrd_rwr_same _ _ (by simp [R.SAF_FS_STATUS_LEDOK]) (by simp [R.SAF_FS_STATUS_LEDOK])
  · rfl

/-- LEDOK falls in the fields that are in fail-safe (R483). -/
theorem Mach.ledBad_shows (n : Fin 16) :
    m.ledBad.rd (R.SAF_FS_STATUS_LEDOK n) = if m.inFs n then 0 else m.rd (R.SAF_FS_STATUS_LEDOK n) := by
  have hother (t : Mach) {j : Fin 16} (hj : j ≠ n) :
      (t.ledDown j).rd (R.SAF_FS_STATUS_LEDOK n) = t.rd (R.SAF_FS_STATUS_LEDOK n) ∧
      (t.ledDown j).rd (R.SAF_FS_STATUS_FS n) = t.rd (R.SAF_FS_STATUS_FS n) := by
    have hne : j.val ≠ n.val := fun e => hj (Fin.ext e)
    constructor <;> refine t.ledDown_apart j ?_ (.inl ?_) <;>
      simp only [R.SAF_FS_STATUS_LEDOK, R.SAF_FS_STATUS_FS] <;> omega
  rw [Mach.ledBad_eq]
  refine foldl_shows
    (P := fun t : Mach => t.rd (R.SAF_FS_STATUS_FS n) = m.rd (R.SAF_FS_STATUS_FS n) ∧
      t.rd (R.SAF_FS_STATUS_LEDOK n) = m.rd (R.SAF_FS_STATUS_LEDOK n))
    (Q := fun t : Mach => t.rd (R.SAF_FS_STATUS_LEDOK n) = if m.inFs n then 0 else m.rd (R.SAF_FS_STATUS_LEDOK n))
    (List.mem_finRange n) (List.nodup_finRange 16) ⟨rfl, rfl⟩ (fun t j hj ⟨hfs, hok⟩ => ?_) (fun t ⟨hfs, hok⟩ => ?_)
    fun t j hj ht => (hother t hj).1.trans ht
  · exact ⟨(hother t hj).2.trans hfs, (hother t hj).1.trans hok⟩
  · have hin : t.inFs n = m.inFs n := congrArg (· == 1) hfs
    rw [t.ledDown_self, hin, hok]

theorem Mach.ledBad_ledger : m.ledBad.ledger = m.ledger := by
  refine List.foldlRecOn (List.finRange 16) Mach.ledDown (motive := fun t : Mach => t.ledger = m.ledger) rfl fun t ht n _ => ?_
  unfold Mach.ledDown
  split
  · exact (Mach.wr_ledger ..).trans ht
  · exact ht

variable {m} {j k : Nat}

theorem Mach.sweepVisit_early (h : m.mt < m.sweepDueAt j k) : m.sweepVisit j k = m := if_pos (.inl h)

/-- The module with a cell written back, decayed to now (R267). -/
def Mach.swept (m : Mach) (c : Nat) : Mach := { m with ledger := m.ledger.put c (m.cellRead c m.mt) }

theorem Mach.sweepVisit_due (h : m.sweepDueAt j k ≤ m.mt) (hk : k < m.hldNx * m.hldNy) {c : Nat}
    (hc : c = 2048 * (k / m.hldNx) + k % m.hldNx) :
    m.sweepVisit j k = if m.sweepDueAt j k + sweepTicks < m.mt then (m.swept c).ledBad.raise 157 0 0 0 else m.swept c := by
  subst hc
  exact if_neg (by omega)

end

/-! ## Factors -/

section
variable {m : Mach} {n : Fin 16}

theorem Mach.factorNow_one (h : m.rd R.HLD_CTRL = 0 ∨ m.cellOf (m.planBed n m.mt).1 (m.planBed n m.mt).2 = none) :
    m.factorNow n = 0x8000 := by
  unfold Mach.factorNow
  split
  · rfl
  · next hon =>
    dsimp only
    rw [h.resolve_left hon]

theorem Mach.factorNow_cell {k : Nat} (hon : m.rd R.HLD_CTRL = 1)
    (hk : m.cellOf (m.planBed n m.mt).1 (m.planBed n m.mt).2 = some k) :
    m.factorNow n = m.factorOf (m.fe[n].matAt m.mt) (decayE (m.rd R.HLD_DECAY) (m.factorCell k) (coarse m.mt)) := by
  unfold Mach.factorNow
  rw [if_neg (by omega)]
  dsimp only
  rw [hk]

/-- The table's entries are words of 16 bits, and what lies between two of them is one as well. -/
theorem Mach.factorOf_lt (m : Mach) (mat e : Nat) : m.factorOf mat e < 65536 := by
  have hlt (i : Nat) : m.rd (R.HLD_FAC mat i) < 65536 := rrd_lt ..
  unfold Mach.factorOf
  dsimp only
  split
  · have hi := hlt (e / 256)
    have hi' := hlt (e / 256 + 1)
    generalize m.rd (R.HLD_FAC mat (e / 256)) = x at hi ⊢
    generalize m.rd (R.HLD_FAC mat (e / 256 + 1)) = y at hi' ⊢
    have hstep : ((y : Int) - x) * (e % 256 : Nat) ≤ (65535 - (x : Int)) * 256 := calc
      ((y : Int) - x) * (e % 256 : Nat) ≤ (65535 - (x : Int)) * (e % 256 : Nat) :=
        mul_le_mul_of_nonneg_right (by omega) (by omega)
      _ ≤ (65535 - (x : Int)) * 256 := mul_le_mul_of_nonneg_left (by omega) (by omega)
    omega
  · have := hlt 255
    omega

theorem Mach.factorNow_lt (m : Mach) (n : Fin 16) : m.factorNow n < 65536 := by
  cases hk : m.cellOf (m.planBed n m.mt).1 (m.planBed n m.mt).2 with
  | none => rw [Mach.factorNow_one (.inr hk)]; decide
  | some k =>
    have hbit : m.rd R.HLD_CTRL < 2 := rrd_lt ..
    by_cases hon : m.rd R.HLD_CTRL = 1
    · rw [Mach.factorNow_cell hon hk]
      exact m.factorOf_lt _ _
    · rw [Mach.factorNow_one (.inl (by omega))]
      decide

theorem Mach.deliverFactor_away (h : m.mt % 2000 ≠ 0) (late : Bool) : m.deliverFactor n late = m := if_pos h

theorem Mach.deliverFactor_late (h : m.mt % 2000 = 0) : m.deliverFactor n true = m.inc (R.FE_LCH_LFLATE n) :=
  if_neg (not_not_intro h)

theorem Mach.deliverFactor_onTime (h : m.mt % 2000 = 0) :
    m.deliverFactor n false = (m.wr (R.FE_LCH_LFAC n) (m.factorNow n)).noteFact n := if_neg (not_not_intro h)

theorem Mach.noteFact_fe (m : Mach) (n : Fin 16) : (m.noteFact n).fe =
    m.fe.set n { m.fe[n] with lch := m.fe[n].lch.factored m.mt (m.ledgerFactor n) } := rfl

/-- A register is written and the factor noted: the register and the field's laser record change. -/
theorem Mach.wr_noteFact_frame (m : Mach) (r : RF) (v : Nat) (n : Fin 16) :
    (m.wr r v).noteFact n = { m with fe := ((m.wr r v).noteFact n).fe, regs := rwr m.regs r v } := rfl

theorem Mach.wr_lfac_rd (m : Mach) (n : Fin 16) {v : Nat} (hv : v < 65536) :
    (m.wr (R.FE_LCH_LFAC n) v).rd (R.FE_LCH_LFAC n) = v :=
  (rrd_rwr_same (R.FE_LCH_LFAC n) _ (Nat.zero_le _) (by simp [R.FE_LCH_LFAC])).trans (Nat.mod_eq_of_lt hv)

theorem Mach.wr_lfac_ledgerFactor (m : Mach) (n : Fin 16) {v : Nat} (hv : v < 65536) :
    (m.wr (R.FE_LCH_LFAC n) v).ledgerFactor n = if m.rdf (R.FE_LCH_CTRL_LFEN n) = 1 then v else 32768 := by
  unfold Mach.ledgerFactor Mach.rdf
  rw [m.wr_lfac_rd n hv, Mach.wr_force]

/-- The factor in effect once this boundary's is delivered: 1.0 where LFEN is 0 (R221). -/
def Mach.factorInEffect (m : Mach) (n : Fin 16) : Nat := if m.rdf (R.FE_LCH_CTRL_LFEN n) = 1 then m.factorNow n else 32768

/-- A factor delivered shows, and is in effect where LFEN has it (R221). -/
theorem Mach.deliverFactor_shows (h : m.mt % 2000 = 0) {t : Mach} (ht : m.deliverFactor n false = t) :
    t.rd (R.FE_LCH_LFAC n) = m.factorNow n ∧
    t.fe = m.fe.set n { m.fe[n] with lch := t.fe[n].lch } ∧
    t.fe[n].lch.factAt m.mt = m.factorInEffect n ∧
    ({ m with fe := t.fe } : Mach).OnlyRegs t [(R.FE_LCH_LFAC n).a] := by
  have hshown : rrd (rwr m.regs (R.FE_LCH_LFAC n) (m.factorNow n)) (R.FE_LCH_LFAC n) = m.factorNow n :=
    m.wr_lfac_rd n (m.factorNow_lt n)
  have hfact : (m.wr (R.FE_LCH_LFAC n) (m.factorNow n)).ledgerFactor n = m.factorInEffect n :=
    m.wr_lfac_ledgerFactor n (m.factorNow_lt n)
  have hlch : t.fe = m.fe.set n { m.fe[n] with lch := m.fe[n].lch.factored m.mt (m.factorInEffect n) } := by
    rw [← ht, Mach.deliverFactor_onTime h, Mach.noteFact_fe, hfact, Mach.wr_fe, Mach.wr_mt]
  have hself : t.fe[n].lch = m.fe[n].lch.factored m.mt (m.factorInEffect n) := by
    rw [hlch, set_fin_self]
  have hframe : t = { m with fe := t.fe, regs := rwr m.regs (R.FE_LCH_LFAC n) (m.factorNow n) } := by
    rw [← ht, Mach.deliverFactor_onTime h]
    exact Mach.wr_noteFact_frame m _ _ n
  have hregs : t.regs = rwr m.regs (R.FE_LCH_LFAC n) (m.factorNow n) := by rw [hframe]
  refine ⟨?_, by rw [hself, hlch], by rw [hself, Lch.factored_factAt], fun a ha => ?_, ?_⟩
  · rw [Mach.rd, hregs]
    exact hshown
  · rw [Mach.word, hregs]
    exact rget_rwr_ne (by simpa using ha) _
  · rw [hregs]
    exact hframe

end

/-! ## The window -/

section
variable {m : Mach} {cell : Nat} {v : Word}

theorem Mach.ledgerWrite_closed (h : m.open? 0x2800000 = false) : m.ledgerWrite cell v = m.early :=
  if_pos (by simp [h])

theorem Mach.ledgerWrite_locked (h : m.open? 0x2800000 = true) (hl : m.rd R.HLD_BLK_XSTAT_UNLOCKED = 0) :
    m.ledgerWrite cell v = m.wr R.HLD_BLK_XSTAT_XLOCK 1 :=
  (if_neg (by simp [h])).trans (if_pos (by simp [Mach.on, hl]))

theorem Mach.ledgerWrite_unlocked (h : m.open? 0x2800000 = true) (hl : m.rd R.HLD_BLK_XSTAT_UNLOCKED = 1) :
    m.ledgerWrite cell v = match m.cellIx (cell % 2048 : Nat) (cell / 2048 : Nat) with
      | none => m
      | some k => { m with ledger := { m.ledger.put k v with before := serase m.ledger.before k } } :=
  ((if_neg (by simp [h])).trans (if_neg (by simp [Mach.on, hl]))).trans (by rfl)

theorem Mach.ledgerWrite_outside (h : m.open? 0x2800000 = true) (hl : m.rd R.HLD_BLK_XSTAT_UNLOCKED = 1)
    (hout : m.hldNx ≤ cell % 2048 ∨ m.hldNy ≤ cell / 2048) : m.ledgerWrite cell v = m := by
  have hnone : m.cellIx (cell % 2048 : Nat) (cell / 2048 : Nat) = none := if_neg (by omega)
  rw [Mach.ledgerWrite_unlocked h hl, hnone]

theorem Mach.ledgerWrite_inside (h : m.open? 0x2800000 = true) (hl : m.rd R.HLD_BLK_XSTAT_UNLOCKED = 1)
    (hx : cell % 2048 < m.hldNx) (hy : cell / 2048 < m.hldNy) :
    m.ledgerWrite cell v = { m with ledger := { m.ledger.put cell v with before := serase m.ledger.before cell } } := by
  have hsome : m.cellIx (cell % 2048 : Nat) (cell / 2048 : Nat) = some cell := Mach.cellIx_eq_some.mpr (by omega)
  rw [Mach.ledgerWrite_unlocked h hl, hsome]

end

end Sys2Proof.Machine
end

section
/-! PROOF. What the heat ledger's commands answer (R221, R265 to R270, R274). -/
namespace Sys2Proof.Machine

section
variable {s : State} {dt : Nat} {m : Mach} (hm : m = s.at dt)
include hm

/-! ## Deposits -/

section
variable {n : Fin 16} {st : PState} {a : Nat} {b c : Int × Int}
  (hst : st = (m.fe[n].ctx[m.fe[n].owner.getD m.fe[n].lastOwner]).ret) (ha : a = m.depositAmount n)
  (hbed : b = m.bedAt n (m.mt - 1000)) (hc : c = m.cellXY b.1 b.2)

theorem answers_hldDeposit {t : Mach} (ht : m.deposit n = t) {P : Mach → Prop} (hP : P t) : Answers (.hldDeposit dt n) s P := by
  subst hm
  exact answers_of rfl ht hP

variable (hb : m.mt % 2000 = 0) (hlo : 2000 ≤ m.mt) (hdep : st.dep = true) (hon : m.rd R.HLD_CTRL = 1) (hne : a ≠ 0)
include hst ha hbed hc hb hlo hdep hon hne

theorem answers_hldDeposit_k1 {k : Nat} (hk : m.cellIx c.1 c.2 = some k) (hk3 : st.k3 = false) :
    Answers (.hldDeposit dt n) s fun t =>
      t.ledger.cell k = cellWord (min (m.energy k m.mt + a) 65535) (coarse m.mt) ∧
      (∀ j, j ≠ k → t.ledger.cell j = m.ledger.cell j) ∧
      (m.energy k m.mt + a ≤ 65535 → t = { m with ledger := t.ledger }) ∧
      (65535 < m.energy k m.mt + a → t.rd R.HLD_SAT = min (m.rd R.HLD_SAT + 1) (2 ^ 32 - 1) ∧ t.rd R.HLD_STATUS_SATF = 1 ∧
        (m.raisedThisTick 158 = false → t.evt 158 = 1) ∧
        m.Keeps t ([R.HLD_SAT.a, R.HLD_STATUS_SATF.a] ++ raiseRegs 158)) := by
  have hdeposit : m.deposit n = m.depositShare c.1 c.2 a := by
    rw [Mach.deposit_inside hst ha hbed hc hb hlo hdep hon hne hk, hk3, Mach.spread_k1]
  by_cases hfit : m.energy k m.mt + a ≤ 65535
  · refine answers_hldDeposit hm (hdeposit.trans (m.depositShare_fits k a hk hfit))
      ⟨m.shared_cell k a, fun j hj => m.shared_cell_ne k a hj, fun _ => rfl, fun h => by omega⟩
  · have hfull : 65535 < m.energy k m.mt + a := by omega
    obtain ⟨hledger, hsat, hflag, hevt, hkeeps⟩ := Mach.noteSat_shows { m with ledger := m.shared k a }
    refine answers_hldDeposit hm (hdeposit.trans (m.depositShare_saturates k a hk hfull)) ⟨?_, fun j hj => ?_, fun h => by omega,
      fun _ => ⟨hsat, hflag, hevt, hkeeps⟩⟩
    · rw [hledger]
      exact m.shared_cell k a
    · rw [hledger]
      exact m.shared_cell_ne k a hj

theorem answers_hldDeposit_k3 {k side : Nat} (hk : m.cellIx c.1 c.2 = some k) (hk3 : st.k3 = true) (hxlo : 0 < c.1)
    (hxhi : c.1 + 1 < m.hldNx) (hylo : 0 < c.2) (hyhi : c.2 + 1 < m.hldNy) (hfit : ∀ j, m.energy j m.mt + a ≤ 65535)
    (hside : side = 4 * (a / 16) + 4 * (a * 2 / 16)) :
    Answers (.hldDeposit dt n) s fun t =>
      t.ledger.cell k = cellWord (m.energy k m.mt + (a - side)) (coarse m.mt) ∧
      (∀ w ∈ kernel3, ∀ j, m.cellIx (c.1 + w.1) (c.2 + w.2.1) = some j →
        t.ledger.cell j = cellWord (m.energy j m.mt + a * w.2.2 / 16) (coarse m.mt)) ∧
      (∀ j, j ≠ k → (∀ w ∈ kernel3, m.cellIx (c.1 + w.1) (c.2 + w.2.1) ≠ some j) → t.ledger.cell j = m.ledger.cell j) ∧
      t = { m with ledger := t.ledger } := by
  have hdeposit : m.deposit n = m.depositShares c.1 c.2 (shares3 a) := by
    rw [Mach.deposit_inside hst ha hbed hc hb hlo hdep hon hne hk, hk3, Mach.spread_k3]
  obtain ⟨hcells, hrest, hframe⟩ := Mach.depositShares_fit (m := m) (i := c.1) (j := c.2) (shares3_nodup a) fun w hw => by
    obtain ⟨hx, hx', hy, hy'⟩ := shares3_near hw
    refine ⟨_, Mach.cellIx_eq_some.mpr ⟨by omega, rfl⟩, ?_⟩
    exact (Nat.add_le_add_left (shares3_le hw) _).trans (hfit _)
  have hcentre : m.cellIx (c.1 + 0) (c.2 + 0) = some k := by rw [Int.add_zero, Int.add_zero, hk]
  have hneighbour {w : Share} (hw : w ∈ kernel3) : (w.1, w.2.1, a * w.2.2 / 16) ∈ shares3 a :=
    List.mem_cons_of_mem _ (List.mem_map_of_mem hw)
  refine answers_hldDeposit hm hdeposit ⟨?_, fun w hw j hj => hcells _ (hneighbour hw) j hj, fun j hj hnot => hrest j ?_, hframe⟩
  · rw [hside]
    exact hcells _ (List.mem_cons_self ..) k hcentre
  · refine List.forall_mem_cons.mpr ⟨fun e => hj (Option.some.inj (e.symm.trans hcentre)), fun w hw => ?_⟩
    obtain ⟨v, hv, rfl⟩ := List.mem_map.mp hw
    exact hnot v hv

theorem answers_hldDeposit_outside (hk : m.cellIx c.1 c.2 = none) (hr : m.raisedThisTick 156 = false) :
    Answers (.hldDeposit dt n) s fun t =>
      t.rd R.HLD_DEPOUT = min (m.rd R.HLD_DEPOUT + 1) (2 ^ 32 - 1) ∧ t.evt 156 = 1 ∧ t.ledger = m.ledger ∧
      m.Keeps t (R.HLD_DEPOUT.a :: raiseRegs 156) :=
  answers_hldDeposit hm (Mach.deposit_outside hst ha hbed hc hb hlo hdep hon hne hk)
    ⟨(Mach.rd_congr (Mach.raiseOnce_word_ne _ (by decide))).trans (rrd_rinc_word m.regs _),
      Mach.raiseOnce_evt _ _ _ _ (by decide) (.inl hr), Mach.incRaiseOnce_ledger .., (m.incRaiseOnce_bookkeeping ..).keeps⟩

end

/-! ## Factors -/

theorem answers_ledgerFactorDeliver {n : Fin 16} {late : Bool} {t : Mach} (ht : m.deliverFactor n late = t) {P : Mach → Prop}
    (hP : P t) : Answers (.ledgerFactorDeliver dt n late) s P := by
  subst hm
  exact answers_of rfl ht hP

theorem answers_ledgerFactorDeliver_onTime (n : Fin 16) (hb : m.mt % 2000 = 0) :
    Answers (.ledgerFactorDeliver dt n false) s fun t =>
      (m.rd R.HLD_CTRL = 0 ∨ m.cellOf (m.planBed n m.mt).1 (m.planBed n m.mt).2 = none → t.rd (R.FE_LCH_LFAC n) = 0x8000) ∧
      (∀ k, m.rd R.HLD_CTRL = 1 → m.cellOf (m.planBed n m.mt).1 (m.planBed n m.mt).2 = some k → m.ledger.depAt ≠ m.mt →
        t.rd (R.FE_LCH_LFAC n) = m.factorOf (m.fe[n].matAt m.mt) (m.energy k m.mt)) ∧
      (∀ k w, m.rd R.HLD_CTRL = 1 → m.cellOf (m.planBed n m.mt).1 (m.planBed n m.mt).2 = some k → m.ledger.depAt = m.mt →
        m.ledger.before.lookup k = some w → t.rd (R.FE_LCH_LFAC n) =
          m.factorOf (m.fe[n].matAt m.mt) (decayE (m.rd R.HLD_DECAY) w (coarse m.mt))) ∧
      t.fe[n].lch.factAt m.mt = (if m.rdf (R.FE_LCH_CTRL_LFEN n) = 1 then t.rd (R.FE_LCH_LFAC n) else 32768) ∧
      (∀ j : Fin 16, j ≠ n → t.fe[j] = m.fe[j]) ∧ t.fe[n].ctx = m.fe[n].ctx ∧ t.fe[n].plan = m.fe[n].plan ∧
      ({ m with fe := t.fe } : Mach).OnlyRegs t [(R.FE_LCH_LFAC n).a] := by
  obtain ⟨t, ht⟩ : ∃ t, m.deliverFactor n false = t := ⟨_, rfl⟩
  obtain ⟨hlfac, hfe, hfact, honly⟩ := Mach.deliverFactor_shows hb ht
  have hself : t.fe[n] = { m.fe[n] with lch := t.fe[n].lch } := by
    conv_lhs => rw [hfe, set_fin_self]
  refine answers_ledgerFactorDeliver hm ht ⟨fun h => ?_, fun k hon hk hdep => ?_, fun k w hon hk hdep hw => ?_, ?_, fun j hj => ?_,
    by rw [hself], by rw [hself], honly⟩
  · rw [hlfac, Mach.factorNow_one h]
  · have hcell : m.factorCell k = m.ledger.cell k := if_neg hdep
    rw [hlfac, Mach.factorNow_cell hon hk, hcell]
    rfl
  · have hcell : m.factorCell k = w := (if_pos hdep).trans (by rw [hw]; rfl)
    rw [hlfac, Mach.factorNow_cell hon hk, hcell]
  · rw [hfact, hlfac]
    rfl
  · rw [hfe, set_fin_ne _ _ hj]

theorem answers_ledgerFactorDeliver_late (n : Fin 16) (hb : m.mt % 2000 = 0) :
    Answers (.ledgerFactorDeliver dt n true) s fun t =>
      t.rd (R.FE_LCH_LFLATE n) = min (m.rd (R.FE_LCH_LFLATE n) + 1) (2 ^ 32 - 1) ∧ m.OnlyRegs t [(R.FE_LCH_LFLATE n).a] :=
  answers_ledgerFactorDeliver hm (Mach.deliverFactor_late hb) ⟨rrd_rinc_word .., m.inc_only _⟩

/-! ## The sweep -/

theorem answers_sweepVisit {j : Nat} {k : BitVec 22} {t : Mach} (ht : m.sweepVisit j k.toNat = t) {P : Mach → Prop} (hP : P t) :
    Answers (.sweepVisit dt j k) s P := by
  subst hm
  exact answers_of rfl ht hP

theorem answers_sweepVisit_due {j : Nat} {k : BitVec 22} {c : Nat} (hc : c = 2048 * (k.toNat / m.hldNx) + k.toNat % m.hldNx)
    (hk : k.toNat < m.hldNx * m.hldNy) (hdue : m.sweepDueAt j k.toNat ≤ m.mt) :
    Answers (.sweepVisit dt j k) s fun t =>
      t.ledger.cell c = m.cellRead c m.mt ∧ (∀ i, i ≠ c → t.ledger.cell i = m.ledger.cell i) ∧
      (m.mt ≤ m.sweepDueAt j k.toNat + 800000000 → t = { m with ledger := t.ledger }) ∧
      (m.sweepDueAt j k.toNat + 800000000 < m.mt → t.evt 157 = 1 ∧
        ∀ n : Fin 16, t.rd (R.SAF_FS_STATUS_LEDOK n) = if m.inFs n then 0 else m.rd (R.SAF_FS_STATUS_LEDOK n)) := by
  have hvisit := Mach.sweepVisit_due hdue hk hc
  have hcell : (m.swept c).ledger.cell c = m.cellRead c m.mt := Ledger.cell_put ..
  have hrest {i : Nat} (hi : i ≠ c) : (m.swept c).ledger.cell i = m.ledger.cell i := Ledger.cell_put_ne _ _ hi
  by_cases hlate : m.sweepDueAt j k.toNat + 800000000 < m.mt
  · have hledger : ((m.swept c).ledBad.raise 157 0 0 0).ledger = (m.swept c).ledger :=
      (Mach.raise_ledger ..).trans (Mach.ledBad_ledger _)
    have hok (n : Fin 16) : ((m.swept c).ledBad.raise 157 0 0 0).rd (R.SAF_FS_STATUS_LEDOK n) =
        (m.swept c).ledBad.rd (R.SAF_FS_STATUS_LEDOK n) := by
      refine Mach.rd_congr (Mach.raise_word_ne ?_)
      simp only [raiseRegs, R.HS_EVT_PEND, R.HSQ_PBA, R.CBK_QLEVEL_QMAX, R.CBK_ANGEL, R.SAF_FS_STATUS_LEDOK, List.mem_cons,
        List.not_mem_nil, or_false]
      omega
    refine answers_sweepVisit hm (hvisit.trans (if_pos hlate)) ⟨?_, fun i hi => ?_, fun h => by omega,
      fun _ => ⟨Mach.raise_pend (by decide), fun n => (hok n).trans (Mach.ledBad_shows _ n)⟩⟩
    · rw [hledger, hcell]
    · rw [hledger, hrest hi]
  · exact answers_sweepVisit hm (hvisit.trans (if_neg hlate)) ⟨hcell, fun i hi => hrest hi, fun _ => rfl, fun h => absurd h hlate⟩

/-! ## The window -/

theorem answers_ledgerWindowWrite {cell : BitVec 22} {v : Word} {t : Mach} (ht : m.ledgerWrite cell.toNat v = t)
    {P : Mach → Prop} (hP : P t) : Answers (.ledgerWindowWrite dt cell v) s P := by
  subst hm
  exact answers_of rfl ht hP

theorem answers_ledgerWindowWrite_locked {cell : BitVec 22} {v : Word} (ho : m.open? 0x2800000 = true)
    (hl : m.rd R.HLD_BLK_XSTAT_UNLOCKED = 0) : Answers (.ledgerWindowWrite dt cell v) s fun t =>
      t.rd R.HLD_BLK_XSTAT_XLOCK = 1 ∧ m.OnlyRegs t [R.HLD_BLK_XSTAT_XLOCK.a] :=
  answers_ledgerWindowWrite hm (Mach.ledgerWrite_locked ho hl)
    ⟨rrd_rwr_same R.HLD_BLK_XSTAT_XLOCK 1 (by decide) (by decide), m.wr_only _ _ (List.mem_singleton_self _)⟩

theorem answers_ledgerWindowWrite_inside {cell : BitVec 22} {v : Word} (ho : m.open? 0x2800000 = true)
    (hl : m.rd R.HLD_BLK_XSTAT_UNLOCKED = 1) (hx : cell.toNat % 2048 < m.hldNx) (hy : cell.toNat / 2048 < m.hldNy) :
    Answers (.ledgerWindowWrite dt cell v) s fun t =>
      t.ledger.cell cell.toNat = v ∧ (∀ j, j ≠ cell.toNat → t.ledger.cell j = m.ledger.cell j) ∧
      t = { m with ledger := t.ledger } :=
  answers_ledgerWindowWrite hm (Mach.ledgerWrite_inside ho hl hx hy)
    ⟨Ledger.cell_put m.ledger _ v, fun _ hj => Ledger.cell_put_ne m.ledger v hj, rfl⟩

end

/-- Settles O28: a deposit by its kernel, a visit by its due instant, a factor by the cell its boundary finds, and a window
write by whether the block answers and is unlocked. -/
theorem ledgerDepositsSweepAndFactors : Obligations.LedgerDepositsSweepAndFactors := by
  intro s dt m hm
  refine ⟨fun n st a b c hst ha hbed hc => ⟨fun h => ?_, fun hb hlo hdep hon hne => ⟨?_, ?_, ?_⟩, fun hb late => ?_, fun hb => ?_⟩,
    fun j k c hc hk => ⟨fun h => answers_sweepVisit hm (Mach.sweepVisit_early h) rfl,
      fun h => answers_sweepVisit_due hm hc hk h⟩,
    fun cell v ho => answers_ledgerWindowWrite hm (Mach.ledgerWrite_closed ho) m.early_counts.1,
    fun cell v ho => ⟨fun hl hout => answers_ledgerWindowWrite hm (Mach.ledgerWrite_outside ho hl hout) rfl,
      fun hl hx hy => answers_ledgerWindowWrite_inside hm ho hl hx hy, fun hl => answers_ledgerWindowWrite_locked hm ho hl⟩⟩
  · subst ha
    exact answers_hldDeposit hm (Mach.deposit_away hst h) rfl
  · exact fun k hk hk3 => answers_hldDeposit_k1 hm hst ha hbed hc hb hlo hdep hon hne hk hk3
  · exact fun k side hk hk3 hxlo hxhi hylo hyhi hfit hside =>
      answers_hldDeposit_k3 hm hst ha hbed hc hb hlo hdep hon hne hk hk3 hxlo hxhi hylo hyhi hfit hside
  · exact fun hk hr => answers_hldDeposit_outside hm hst ha hbed hc hb hlo hdep hon hne hk hr
  · exact answers_ledgerFactorDeliver hm (Mach.deliverFactor_away hb late) rfl
  · exact ⟨answers_ledgerFactorDeliver_onTime hm n hb, answers_ledgerFactorDeliver_late hm n hb⟩

end Sys2Proof.Machine
end

section
/-! PROOF. A keep-out register that has changed in the same instant, as a host writes 0 to it (R9, R245). -/
namespace Sys2Proof.Machine

/-- Every domain answers, and the keep-out direction has gone from 0 to 5 in the present instant. -/
def directionUpdated : State :=
  { State.reset with m := State.reset.m.wrs [(R.HS_BOOT_DOMOPEN, 255), (R.TRL_KO_DIR, 5)] }

/-- R9: the host's 0 clears what stood as the instant began, and the update of the instant stays. -/
theorem directionUpdated_write :
    (effectOf (.keepoutWrite 0 .dir 0) (directionUpdated.at 0)).rd R.TRL_KO_DIR = 5 := by
  decide +kernel

/-- Refutes O30: a 0 written to TRL_KO_DIR at the instant of an update of it leaves the update (R9, `Fd.after`), and not
the written 0.  The statement lacks the premise that the register stands as the instant began. -/
theorem not_keepoutTimeoutAndBooking : ¬ Obligations.KeepoutTimeoutAndBooking := by
  intro h
  obtain ⟨hwrite, -⟩ := h directionUpdated 0 _ rfl
  obtain ⟨hstored, -⟩ := (hwrite .dir 0 (by decide +kernel)).effect
  exact absurd (directionUpdated_write.symm.trans (hstored 15 rfl)) (by decide)

end Sys2Proof.Machine
end

section
/-! PROOF. A camera port enabled at the instant its CTRL has changed (R9, R283). -/
namespace Sys2Proof.Machine

/-- Every domain answers, the geometry of port 0 is 4 by 2, and its virtual channel has gone from 0 to 5 in the present
instant. -/
def channelUpdated : State :=
  { State.reset with m := State.reset.m.wrs [(R.HS_BOOT_DOMOPEN, 255), (R.IMG_CAM_GEOM_WIDTH 0, 4),
      (R.IMG_CAM_GEOM_HEIGHT 0, 2), (R.IMG_CAM_CTRL_VC 0, 5)] }

/-- EN, one lane, RAW8 and channel 0. -/
def enableChannel0 : Word := 0x3

/-- R9: the host's 0 clears what stood as the instant began, and the update of the instant stays. -/
theorem channelUpdated_enable :
    (effectOf (.cameraEnable 0 0 enableChannel0) (channelUpdated.at 0)).rd (R.IMG_CAM_CTRL_VC 0) = 5 := by
  decide +kernel

/-- Refutes O31: CAMERA_ENABLE is a write of CTRL, and a channel of 0 written at the instant of an update of VC leaves the
update (R9, `Fd.after`), not the written 0.  The statement lacks the premise that CTRL stands as the instant began. -/
theorem not_cameraPortCommands : ¬ Obligations.CameraPortCommands := by
  intro h
  obtain ⟨hopen, -⟩ := h channelUpdated 0 0 _ _ rfl rfl
  obtain ⟨henable, -⟩ := hopen (by decide +kernel)
  obtain ⟨haccepted, -⟩ := henable enableChannel0 (by decide +kernel)
  obtain ⟨-, -, -, hchannel, -⟩ := (haccepted (by decide +kernel) (by decide +kernel)).effect
  exact absurd (channelUpdated_enable.symm.trans hchannel) (by decide)

end Sys2Proof.Machine
end

section
/-! PROOF. Camera ports: frame starts and packets (R281, R282, R285, R286, R290). -/
namespace Sys2Proof.Machine

section
variable (m : Mach) (p : Fin 20)

/-! ## A port that is not enabled -/

theorem Mach.frameStart_off (h : m.camOn p = false) : m.frameStart p = m := if_pos (by rw [h]; rfl)

theorem Mach.frameEnd_off (h : m.camOn p = false) : m.frameEnd p = m := if_neg (by rw [h]; exact Bool.false_ne_true)

theorem Mach.csiPacket_off (k : CsiPacket) (h : m.camOn p = false) : m.csiPacket p k = m := if_pos (by rw [h]; rfl)

/-! ## A frame opens -/

theorem Mach.closeFrame_none (miss : Bool) (h : m.cam[p].open_ = none) : m.closeFrame p miss = m := by
  unfold Mach.closeFrame
  rw [h]

/-- The port with a new frame open, counted, and its trigger taken. -/
def Mach.portOpened : Mach :=
  { m.setCam p { m.cam[p] with
      open_ := some (m.newFrame p), next := m.cam[p].next + 1
      trigs := match (m.newFrame p).trig with | some d => m.cam[p].trigs.erase d | none => m.cam[p].trigs } with
    free := m.free + 1 }

theorem Mach.portOpened_cam_ne {j : Fin 20} (h : j ≠ p) : (m.portOpened p).cam[j] = m.cam[j] := set_fin_ne _ _ h

theorem Mach.portOpened_cam : (m.portOpened p).cam[p].open_ = some (m.newFrame p) ∧
    (m.portOpened p).cam[p].next = m.cam[p].next + 1 ∧ (m.portOpened p).cam[p].ring = m.cam[p].ring := by
  have hself : (m.portOpened p).cam[p] = _ := set_fin_self ..
  rw [hself]
  exact ⟨rfl, rfl, rfl⟩

theorem Mach.frameStart_opens (hon : m.camOn p = true) (ho : m.cam[p].open_ = none) (hb : inlineBi p = none) :
    m.frameStart p = m.portOpened p := by
  unfold Mach.frameStart
  rw [if_neg (by simp [hon]), m.closeFrame_none p true ho, hb]
  rfl

/-- A bed port numbers its frames from the port's own count (R290). -/
theorem Mach.newFrame_num (h : 16 ≤ p.val) : (m.newFrame p).num = m.cam[p].next := by
  have hpool : poolOf p = none := dif_neg (by omega)
  show m.frameNum p _ = _
  unfold Mach.frameNum
  rw [hpool]

theorem inlineBi_bed {b : Fin 2} (h : inlineBi p = some b) : 16 ≤ p.val := by
  unfold inlineBi at h
  split at h
  · omega
  · split at h
    · omega
    · exact absurd h nofun

/-- A free processor begins with the in-line frame, in bank 0 (R296). -/
theorem Mach.biInline_free {b : Fin 2} (f : Frame) (hc : m.bi[b].cur = none) (hd : ∀ k, m.setDue b k = false) :
    m.biInline b f = (m.setBi b { m.bi[b] with cur := some (m.biJob b 0 f) }).wrs
      [(R.IMG_BI_STATUS_BUSY b, 1), (R.IMG_BI_STATUS_PORT b, f.port)] := by
  rw [← m.biStart_none b 0 f hd]
  unfold Mach.biInline
  dsimp only
  rw [hc]
  dsimp only
  rw [hc]

/-- The processor of an in-line port has the frame that opens, in bank 0. -/
def Mach.inlineBegun (b : Fin 2) : Mach :=
  (m.portOpened p).setBi b { m.bi[b] with cur := some ((m.portOpened p).biJob b 0 (m.newFrame p)) }

theorem Mach.inlineBegun_bi (b : Fin 2) :
    (m.inlineBegun p b).bi[b].cur = some ((m.portOpened p).biJob b 0 (m.newFrame p)) ∧
    ∀ k : Fin 2, k ≠ b → (m.inlineBegun p b).bi[k] = m.bi[k] :=
  ⟨congrArg Bi.cur (set_fin_self m.bi b { m.bi[b] with cur := some ((m.portOpened p).biJob b 0 (m.newFrame p)) }),
    fun _ hk => set_fin_ne _ _ hk⟩

/-- The free processor of an in-line port takes the frame that opens (R296). -/
theorem Mach.frameStart_inline {b : Fin 2} (hon : m.camOn p = true) (ho : m.cam[p].open_ = none)
    (hb : inlineBi p = some b) (hc : m.bi[b].cur = none) (hd : ∀ k, m.setDue b k = false) :
    m.frameStart p = (m.inlineBegun p b).wrs [(R.IMG_BI_STATUS_BUSY b, 1), (R.IMG_BI_STATUS_PORT b, p)] := by
  refine Eq.trans ?_ ((m.portOpened p).biInline_free (m.newFrame p) hc hd)
  unfold Mach.frameStart
  rw [if_neg (by simp [hon]), m.closeFrame_none p true ho, hb]
  rfl

/-! ## The open frame -/

/-- The port with another open frame in place of its own. -/
def Mach.withFrame (f : Frame) : Mach := m.setCam p { m.cam[p] with open_ := some f }

theorem Mach.withFrame_cam (f : Frame) : (m.withFrame p f).cam[p] = { m.cam[p] with open_ := some f } := set_fin_self ..

theorem Mach.withFrame_cam_ne (f : Frame) {j : Fin 20} (h : j ≠ p) : (m.withFrame p f).cam[j] = m.cam[j] :=
  set_fin_ne _ _ h

theorem Mach.withFrame_twice (f f' : Frame) : (m.withFrame p f).withFrame p f' = m.withFrame p f' := by
  have hcam := m.withFrame_cam p f
  show Mach.setCam _ p { (m.withFrame p f).cam[p] with open_ := some f' } = _
  rw [hcam]
  unfold Mach.withFrame Mach.setCam
  rw [Vector.set_set]

theorem Mach.withOpen_some {f : Frame} (g : Frame → Frame) (h : m.cam[p].open_ = some f) :
    m.withOpen p g = m.withFrame p (g f) := by
  unfold Mach.withOpen
  rw [h]
  rfl

/-! ## Packets -/

variable {f : Frame} {k : CsiPacket}

theorem Mach.csiPacket_badHeader (hon : m.camOn p = true) (ho : m.cam[p].open_ = some f) (hk : k.headerBad = true) :
    m.csiPacket p k =
      (m.inc (R.IMG_CAM_PKTDROP p)).withFrame p { f with flags := { f.flags with pktLost := true } } := by
  unfold Mach.csiPacket
  rw [if_neg (by simp [hon]), if_pos hk]
  exact Mach.withOpen_some _ p _ ho

theorem Mach.csiPacket_good (hon : m.camOn p = true) (hk : k.headerBad = false) (hf : k.headerFixed = false) :
    m.csiPacket p k = m.goodPacket p k := by
  unfold Mach.csiPacket
  rw [if_neg (by simp [hon]), if_neg (by simp [hk]), if_neg (by simp [hf])]

theorem Mach.goodPacket_otherChannel (h : k.vc.toNat ≠ m.rd (R.IMG_CAM_CTRL_VC p)) :
    m.goodPacket p k = m.inc (R.IMG_CAM_VCOTHER p) := if_pos h

variable (hv : k.vc.toNat = m.rd (R.IMG_CAM_CTRL_VC p)) (ho : m.cam[p].open_ = some f)
include hv ho

/-- A packet of the port's own channel, no frame start and no frame end: by its data type (R281). -/
theorem Mach.goodPacket_own (h2 : 2 ≤ k.dtype.toNat) : m.goodPacket p k =
    if k.dtype.toNat < 0x10 ∨ k.dtype.toNat = 0x12 then m.withFrame p { f with lastPkt := m.mt }
    else if k.dtype.toNat = 0x2A + m.camFmt p then
      m.withFrame p (Frame.addLine { f with lastPkt := m.mt } (unpackLine f.fmt (k.payload.length + 1) k.payload)
        (m.padCode p) k.crcBad)
    else (m.withFrame p { f with lastPkt := m.mt }).inc (R.IMG_CAM_PKTDROP p) := by
  have hnote : m.notePacket p = m.withFrame p { f with lastPkt := m.mt } := m.withOpen_some p _ ho
  have hopen := congrArg Cam.open_ (m.withFrame_cam p { f with lastPkt := m.mt })
  have hline := (Mach.withOpen_some _ p (fun f => f.addLine (unpackLine f.fmt (k.payload.length + 1) k.payload)
    (m.padCode p) k.crcBad) hopen).trans (m.withFrame_twice p _ _)
  unfold Mach.goodPacket
  rw [if_neg (by simp [hv]), hnote, if_neg (by omega), if_neg (by omega), ← hline]
  rfl

theorem Mach.goodPacket_line (h : k.dtype.toNat = 0x2A + m.camFmt p) : m.goodPacket p k =
    m.withFrame p (Frame.addLine { f with lastPkt := m.mt } (unpackLine f.fmt (k.payload.length + 1) k.payload)
      (m.padCode p) k.crcBad) :=
  (m.goodPacket_own p hv ho (by omega)).trans ((if_neg (by omega)).trans (if_pos h))

theorem Mach.goodPacket_short (h2 : 2 ≤ k.dtype.toNat) (h : k.dtype.toNat < 0x10 ∨ k.dtype.toNat = 0x12) :
    m.goodPacket p k = m.withFrame p { f with lastPkt := m.mt } :=
  (m.goodPacket_own p hv ho h2).trans (if_pos h)

theorem Mach.goodPacket_otherType (h : 0x10 ≤ k.dtype.toNat) (h12 : k.dtype.toNat ≠ 0x12)
    (hd : k.dtype.toNat ≠ 0x2A + m.camFmt p) :
    m.goodPacket p k = (m.withFrame p { f with lastPkt := m.mt }).inc (R.IMG_CAM_PKTDROP p) :=
  (m.goodPacket_own p hv ho (by omega)).trans ((if_neg (by omega)).trans (if_neg hd))

end

end Sys2Proof.Machine
end

section
/-! PROOF. Bed ports: a frame closes and waits in memory, or is dropped (R285 to R287, R290, R292, R293). -/
namespace Sys2Proof.Machine

/-! ## One source raised beside another -/

section
variable (m : Mach) {src src' : Nat} (code inst value : Nat)

/-- A raise leaves the pending bits of the other sources. -/
theorem Mach.raise_evt_ne (hs : src < 256) (hs' : src' < 256) (h : src' ≠ src) :
    (m.raise src code inst value).evt src' = m.evt src' := by
  have hbit : rrd (rwr m.regs ⟨(R.HS_EVT_PEND (src / 32)).a, src % 32, src % 32⟩ 1)
      ⟨(R.HS_EVT_PEND (src' / 32)).a, src' % 32, src' % 32⟩ = m.evt src' :=
    rrd_rwr_apart 1 (Nat.le_refl _) (Nat.mod_lt _ (by decide)) (by simp only [RF.Apart, R.HS_EVT_PEND]; omega)
  have hpend : rrd (pend m.regs m.out m.fnMask src).1
      ⟨(R.HS_EVT_PEND (src' / 32)).a, src' % 32, src' % 32⟩ = m.evt src' := by
    unfold pend
    dsimp only
    split
    · exact (signalVec_pend (by simp only [R.HS_EVT_PEND]; omega)).trans hbit
    · exact hbit
  refine Eq.trans (congrArg (fun w : Word => bits w.toNat (src' % 32) (src' % 32)) ?_) hpend
  show rget (if _ then enqueueRegs _ _ _ else _) _ = _
  split
  · exact enqueueRegs_word_ne (by simp only [R.HS_EVT_PEND, R.CBK_QLEVEL_QMAX]; omega)
      (by simp only [R.HS_EVT_PEND, R.CBK_ANGEL]; omega)
  · rfl

theorem Mach.raiseOnce_evt_ne (hs : src < 256) (hs' : src' < 256) (h : src' ≠ src) :
    (m.raiseOnce src code inst value).evt src' = m.evt src' := by
  have hraise := m.raise_evt_ne code inst value hs hs' h
  unfold Mach.raiseOnce
  split
  · rfl
  · generalize m.raise src code inst value = t at hraise ⊢
    exact hraise

end

theorem Mach.inc_raised (m : Mach) (r : RF) (src : Nat) : (m.inc r).raisedThisTick src = m.raisedThisTick src := by
  unfold Mach.raisedThisTick Mach.tick
  rw [Mach.inc_env, Mach.inc_mt]

/-- A count of 32 bits and a raise in one: the count, and the source where it had not been raised in this tick. -/
theorem Mach.incRaiseOnce_counts (m : Mach) {a src code inst : Nat} (ha : EngineReg a) (hs : src < 256) :
    (m.incRaiseOnce ⟨a, 31, 0⟩ src code inst).rd ⟨a, 31, 0⟩ = min (m.rd ⟨a, 31, 0⟩ + 1) (2 ^ 32 - 1) ∧
    (m.raisedThisTick src = false → (m.incRaiseOnce ⟨a, 31, 0⟩ src code inst).evt src = 1) ∧
    ∀ src', src' < 256 → src' ≠ src → (m.incRaiseOnce ⟨a, 31, 0⟩ src code inst).evt src' = m.evt src' := by
  refine ⟨?_, fun hr => Mach.raiseOnce_evt _ code inst _ hs (.inl ((m.inc_raised ..).trans hr)), fun src' hs' hne => ?_⟩
  · exact ((Mach.raiseOnce_bookkeeping ..).rd (ha.notMem_raiseRegs hs)).trans (rrd_rinc_word ..)
  · exact (Mach.raiseOnce_evt_ne _ code inst _ hs hs' hne).trans
      (Mach.evt_congr ((m.inc_only ⟨a, 31, 0⟩).1 _ (by simpa using ha.ne_evtWord hs')))

/-! ## The registers of a port -/

theorem camReg_engine {p a : Nat} (hp : p < 20) (h : 0x1001000 + p * 0x100 ≤ a) (h' : a < 0x1001100 + p * 0x100) :
    EngineReg a := ⟨by omega, by omega⟩

theorem GeomF.code_lt (g : GeomF) : g.code < 128 := by
  have hbit (b : Bool) : bool01 b ≤ 1 := by cases b <;> decide
  have := hbit g.frameShort
  have := hbit g.frameLong
  have := hbit g.lineShort
  have := hbit g.lineLong
  have := hbit g.crcErr
  have := hbit g.pktLost
  have := hbit g.femiss
  unfold GeomF.code
  omega

section
variable (m : Mach) (p : Fin 20) (f : Frame)

/-! ## A closed frame is counted and shown -/

/-- What shows a frame: its number, flags and lines (R286, R287). -/
def lastWrites : List (RF × Nat) :=
  [(R.IMG_CAM_LAST p, f.num.toNat), (R.IMG_CAM_LASTG_GEOMF p, f.flags.code), (R.IMG_CAM_LASTG_LINESRX p, f.linesRx),
   (R.IMG_CAM_LASTL_LMIN p, f.lmin), (R.IMG_CAM_LASTL_LMAX p, f.lmax)]

/-- The frame is counted and shown. -/
def Mach.frameShown : Mach := (m.inc (R.IMG_CAM_FRAMES p)).wrs (lastWrites p f)

theorem Mach.noteClosed_eq : m.noteClosed p f =
    if f.flags.bad then (m.frameShown p f).incRaiseOnce (R.IMG_CAM_MISMATCH p) 128 0 p else m.frameShown p f := rfl

/-- Registers that show a closed frame. -/
def lastRegs (p : Nat) : List Nat :=
  [(R.IMG_CAM_FRAMES p).a, (R.IMG_CAM_LAST p).a, (R.IMG_CAM_LASTG_GEOMF p).a, (R.IMG_CAM_LASTL_LMIN p).a]

/-- Registers that a closed frame may change. -/
def closedRegs (p : Nat) : List Nat := lastRegs p ++ (R.IMG_CAM_MISMATCH p).a :: raiseRegs 128

theorem Mach.frameShown_bookkeeping : m.BookkeepingOnly (lastRegs p) (m.frameShown p f) := by
  refine ((m.inc_bookkeeping (R.IMG_CAM_FRAMES p)).mono (by simp [lastRegs])).trans ⟨?_, rfl, rfl, rfl, rfl, rfl, rfl⟩
  refine (Mach.wrs_only _ _ ?_).1
  simp [lastWrites, lastRegs, R.IMG_CAM_LASTG_GEOMF, R.IMG_CAM_LASTG_LINESRX, R.IMG_CAM_LASTL_LMIN, R.IMG_CAM_LASTL_LMAX]

theorem Mach.noteClosed_bookkeeping : m.BookkeepingOnly (closedRegs p) (m.noteClosed p f) := by
  have hshown := (m.frameShown_bookkeeping p f).mono
    (List.subset_append_left (lastRegs p) ((R.IMG_CAM_MISMATCH p).a :: raiseRegs 128))
  rw [m.noteClosed_eq]
  split
  · exact hshown.trans ((Mach.incRaiseOnce_bookkeeping ..).mono (List.subset_append_right ..))
  · exact hshown

/-- The registers of the port show the frame. -/
structure Mach.ShowsFrame (t : Mach) (p : Fin 20) (f : Frame) : Prop where
  last : t.rd (R.IMG_CAM_LAST p) = f.num.toNat
  geomf : t.rd (R.IMG_CAM_LASTG_GEOMF p) = f.flags.code
  linesRx : t.rd (R.IMG_CAM_LASTG_LINESRX p) = f.linesRx
  lmin : t.rd (R.IMG_CAM_LASTL_LMIN p) = f.lmin
  lmax : t.rd (R.IMG_CAM_LASTL_LMAX p) = f.lmax

theorem rrd_lastWrites (g : Sparse Word) :
    rrd (rwrs g (lastWrites p f)) (R.IMG_CAM_LAST p) = f.num.toNat % 2 ^ 32 ∧
    rrd (rwrs g (lastWrites p f)) (R.IMG_CAM_LASTG_GEOMF p) = f.flags.code % 2 ^ 7 ∧
    rrd (rwrs g (lastWrites p f)) (R.IMG_CAM_LASTG_LINESRX p) = f.linesRx % 2 ^ 16 ∧
    rrd (rwrs g (lastWrites p f)) (R.IMG_CAM_LASTL_LMIN p) = f.lmin % 2 ^ 16 ∧
    rrd (rwrs g (lastWrites p f)) (R.IMG_CAM_LASTL_LMAX p) = f.lmax % 2 ^ 16 := by
  refine ⟨rrd_rwrs_written [] [_, _, _, _] g (Nat.zero_le 31) (show 31 < 32 by decide) ?_,
    rrd_rwrs_written [_] [_, _, _] g (Nat.zero_le 6) (show 6 < 32 by decide) ?_,
    rrd_rwrs_written [_, _] [_, _] g (show 16 ≤ 31 by decide) (show 31 < 32 by decide) ?_,
    rrd_rwrs_written [_, _, _] [_] g (Nat.zero_le 15) (show 15 < 32 by decide) ?_,
    rrd_rwrs_written [_, _, _, _] [] g (show 16 ≤ 31 by decide) (show 31 < 32 by decide) (by simp)⟩ <;>
  simp [RF.Apart, R.IMG_CAM_LAST, R.IMG_CAM_LASTG_GEOMF, R.IMG_CAM_LASTG_LINESRX, R.IMG_CAM_LASTL_LMIN, R.IMG_CAM_LASTL_LMAX]

theorem Mach.frameShown_regs :
    (m.frameShown p f).regs = rwrs (m.inc (R.IMG_CAM_FRAMES p)).regs (lastWrites p f) := Mach.wrs_regs ..

theorem Mach.frameShown_env : (m.frameShown p f).env = m.env := (Mach.wrs_env ..).trans (Mach.inc_env ..)

theorem Mach.frameShown_mem : (m.frameShown p f).mem = m.mem := (Mach.wrs_mem ..).trans (Mach.inc_mem ..)

theorem Mach.frameShown_shows (hl : f.linesRx < 65536) (hmin : f.lmin < 65536) (hmax : f.lmax < 65536) :
    (m.frameShown p f).ShowsFrame p f := by
  obtain ⟨hnum, hcode, hlines, hlmin, hlmax⟩ := rrd_lastWrites p f (m.inc (R.IMG_CAM_FRAMES p)).regs
  rw [← m.frameShown_regs] at hnum hcode hlines hlmin hlmax
  generalize m.frameShown p f = t at *
  exact ⟨hnum.trans (Nat.mod_eq_of_lt f.num.isLt), hcode.trans (Nat.mod_eq_of_lt f.flags.code_lt),
    hlines.trans (Nat.mod_eq_of_lt hl), hlmin.trans (Nat.mod_eq_of_lt hmin), hlmax.trans (Nat.mod_eq_of_lt hmax)⟩

variable {m p f} in
theorem Mach.ShowsFrame.of_keeps {t : Mach} {l : List Nat} (h : m.ShowsFrame p f) (hk : m.Keeps t l)
    (hl : ∀ a ∈ lastRegs p, a ∉ l) : t.ShowsFrame p f := by
  have hrd {r : RF} (hr : r.a ∈ lastRegs p) : t.rd r = m.rd r := Mach.rd_congr (hk _ (hl _ hr))
  exact ⟨(hrd (by simp [lastRegs])).trans h.last, (hrd (by simp [lastRegs])).trans h.geomf,
    (hrd (by simp [lastRegs, R.IMG_CAM_LASTG_GEOMF, R.IMG_CAM_LASTG_LINESRX])).trans h.linesRx,
    (hrd (by simp [lastRegs])).trans h.lmin,
    (hrd (by simp [lastRegs, R.IMG_CAM_LASTL_LMIN, R.IMG_CAM_LASTL_LMAX])).trans h.lmax⟩

theorem Mach.frameShown_counts :
    (m.frameShown p f).rd (R.IMG_CAM_FRAMES p) = min (m.rd (R.IMG_CAM_FRAMES p) + 1) (2 ^ 32 - 1) := by
  have hrest : ∀ q ∈ lastWrites p f, (R.IMG_CAM_FRAMES p).a ≠ q.1.a := by
    simp [lastWrites, R.IMG_CAM_FRAMES, R.IMG_CAM_LAST, R.IMG_CAM_LASTG_GEOMF, R.IMG_CAM_LASTG_LINESRX,
      R.IMG_CAM_LASTL_LMIN, R.IMG_CAM_LASTL_LMAX]
  have hword := rget_rwrs_ne (lastWrites p f) (m.inc (R.IMG_CAM_FRAMES p)).regs hrest
  rw [← m.frameShown_regs] at hword
  exact (Mach.rd_congr hword).trans (rrd_rinc_word ..)

/-- The registers that show a frame are the port's, and neither of its counts of bad and of dropped frames. -/
theorem lastRegs_port {a : Nat} (h : a ∈ lastRegs p) :
    EngineReg a ∧ a ≠ (R.IMG_CAM_MISMATCH p).a ∧ a ≠ (R.IMG_CAM_DROP p).a := by
  have hp := p.isLt
  simp only [lastRegs, R.IMG_CAM_FRAMES, R.IMG_CAM_LAST, R.IMG_CAM_LASTG_GEOMF, R.IMG_CAM_LASTL_LMIN, List.mem_cons,
    List.not_mem_nil, or_false] at h
  simp only [EngineReg, R.IMG_CAM_MISMATCH, R.IMG_CAM_DROP]
  omega

theorem Mach.frameShown_raised (src : Nat) : (m.frameShown p f).raisedThisTick src = m.raisedThisTick src := by
  unfold Mach.raisedThisTick Mach.tick
  rw [m.frameShown_env, (m.frameShown_bookkeeping p f).mt]

theorem Mach.noteClosed_mem : (m.noteClosed p f).mem = m.mem := by
  rw [m.noteClosed_eq]
  split
  · exact (Mach.incRaiseOnce_mem ..).trans (m.frameShown_mem p f)
  · exact m.frameShown_mem p f

theorem Mach.noteClosed_raised {src : Nat} (hs : src ≠ 128) :
    (m.noteClosed p f).raisedThisTick src = m.raisedThisTick src := by
  rw [m.noteClosed_eq]
  split
  · exact (Mach.raiseOnce_raised _ 0 p _ hs).trans ((Mach.inc_raised ..).trans (m.frameShown_raised p f src))
  · exact m.frameShown_raised p f src

/-- What a closed frame is counted as, and what is shown of it. -/
theorem Mach.noteClosed_shows (hl : f.linesRx < 65536) (hmin : f.lmin < 65536) (hmax : f.lmax < 65536) :
    (m.noteClosed p f).ShowsFrame p f ∧
    (m.noteClosed p f).rd (R.IMG_CAM_FRAMES p) = min (m.rd (R.IMG_CAM_FRAMES p) + 1) (2 ^ 32 - 1) ∧
    (m.noteClosed p f).rd (R.IMG_CAM_MISMATCH p) = (if f.flags.code = 0 then m.rd (R.IMG_CAM_MISMATCH p) else
      min (m.rd (R.IMG_CAM_MISMATCH p) + 1) (2 ^ 32 - 1)) ∧
    (f.flags.code ≠ 0 → m.raisedThisTick 128 = false → (m.noteClosed p f).evt 128 = 1) := by
  have hshown := m.frameShown_shows p f hl hmin hmax
  have hframes := m.frameShown_counts p f
  have hraised := m.frameShown_raised p f 128
  have hmiss : (m.frameShown p f).rd (R.IMG_CAM_MISMATCH p) = m.rd (R.IMG_CAM_MISMATCH p) :=
    (m.frameShown_bookkeeping p f).rd fun h => (lastRegs_port p h).2.1 rfl
  rw [m.noteClosed_eq]
  generalize m.frameShown p f = t at *
  by_cases hc : f.flags.code = 0
  · rw [if_neg (by simp [GeomF.bad, hc]), if_pos hc]
    exact ⟨hshown, hframes, hmiss, fun h => absurd hc h⟩
  · have hport : EngineReg (R.IMG_CAM_MISMATCH p).a :=
      camReg_engine p.isLt (by simp [R.IMG_CAM_MISMATCH]) (by simp [R.IMG_CAM_MISMATCH])
    obtain ⟨hcount, hevt, -⟩ := t.incRaiseOnce_counts (code := 0) (inst := p) hport (show 128 < 256 by decide)
    have hkeeps := t.incRaiseOnce_bookkeeping (R.IMG_CAM_MISMATCH p) 128 0 p
    have hlast {a : Nat} (ha : a ∈ lastRegs p) : a ∉ (R.IMG_CAM_MISMATCH p).a :: raiseRegs 128 := by
      obtain ⟨hengine, hne, -⟩ := lastRegs_port p ha
      have hraise := hengine.notMem_raiseRegs (show 128 < 256 by decide)
      simp [hne, hraise]
    rw [if_pos (by simp [GeomF.bad, hc]), if_neg hc]
    exact ⟨hshown.of_keeps hkeeps.keeps fun a ha => hlast ha, (hkeeps.rd (hlast (by simp [lastRegs]))).trans hframes,
      hcount.trans (by rw [← hmiss]; rfl), fun _ hr => hevt (hraised.trans hr)⟩

/-! ## A closed frame waits in memory, or is dropped -/

variable {f} in
theorem Mach.waits_bed (hp : 18 ≤ p.val) (hon : m.camOn p = true) : m.waits? p f = true := by
  have hring : m.hasRing p = true := by
    unfold Mach.hasRing
    rw [if_neg (by omega), decide_eq_true hp]
    exact hon
  unfold Mach.waits?
  rw [hring, decide_eq_true (show 16 ≤ p.val by omega)]
  rfl

/-- The frame has its slot of the wait ring. -/
def Mach.ringEntered : Mach :=
  m.setCam p { m.cam[p] with
    ring := m.cam[p].ring ++ [{ f.stored with slot := freeSlot m.cam[p].ring m.cam[p].ringSlot }]
    ringSlot := (freeSlot m.cam[p].ring m.cam[p].ringSlot + 1) % 4 }

/-- The address of a slot of the wait ring (R292). -/
def Mach.waitAddr (k : Nat) : Nat :=
  m.addr (R.IMG_CAM_WAIT_BASE_LO p) (R.IMG_CAM_WAIT_BASE_HI p) + m.rd (R.IMG_CAM_WAIT_SLOT p) * k

theorem Mach.waitRing_full (hw : m.waits? p f = true) (hr : 4 ≤ m.cam[p].ring.length) :
    m.waitRing p f = m.incRaiseOnce (R.IMG_CAM_DROP p) 129 0 p := by
  unfold Mach.waitRing
  dsimp only
  rw [if_neg (by simp [hw]), if_pos hr]

theorem Mach.waitRing_room (hw : m.waits? p f = true) (hr : m.cam[p].ring.length < 4) : m.waitRing p f =
    (m.ringEntered p f).dmaWrite 5 p (m.waitAddr p (freeSlot m.cam[p].ring m.cam[p].ringSlot)) f.encode := by
  unfold Mach.waitRing
  dsimp only
  rw [if_neg (by simp [hw]), if_neg (by omega)]
  rfl

/-- Registers that a frame entering the wait ring, or dropped, may change. -/
def waitRegs (p : Nat) : List Nat := (R.IMG_CAM_DROP p).a :: raiseRegs 129 ++ storeRegs 5

theorem notMem_waitRegs {a : Nat} (ha : EngineReg a) (hd : a ≠ (R.IMG_CAM_DROP p).a) : a ∉ waitRegs p := by
  have hraise := ha.notMem_raiseRegs (show 129 < 256 by decide)
  have hstore := ha.notMem_storeRegs (show 5 < 12 by decide)
  simp [waitRegs, hd, hraise, hstore]

/-- What the wait ring leaves alone: registers but its own, the other ports and the port's open frame. -/
structure Mach.WaitsOnly (m t : Mach) (p : Fin 20) : Prop where
  keeps : m.Keeps t (waitRegs p)
  evt : t.evt 128 = m.evt 128
  others : ∀ j : Fin 20, j ≠ p → t.cam[j] = m.cam[j]
  frame : t.cam[p].open_ = m.cam[p].open_
  bi : t.bi = m.bi
  pool : t.pool = m.pool

theorem Mach.waitRing_drops (hw : m.waits? p f = true) (hr : 4 ≤ m.cam[p].ring.length) :
    m.WaitsOnly (m.waitRing p f) p ∧ (m.waitRing p f).cam[p].ring = m.cam[p].ring ∧
    (m.waitRing p f).rd (R.IMG_CAM_DROP p) = min (m.rd (R.IMG_CAM_DROP p) + 1) (2 ^ 32 - 1) ∧
    (m.raisedThisTick 129 = false → (m.waitRing p f).evt 129 = 1) ∧ (m.waitRing p f).mem = m.mem := by
  have hport : EngineReg (R.IMG_CAM_DROP p).a :=
    camReg_engine p.isLt (by simp [R.IMG_CAM_DROP]) (by simp [R.IMG_CAM_DROP])
  have hleft := m.incRaiseOnce_bookkeeping (R.IMG_CAM_DROP p) 129 0 p
  obtain ⟨hcount, hevt, hother⟩ := m.incRaiseOnce_counts (code := 0) (inst := p) hport (show 129 < 256 by decide)
  rw [m.waitRing_full p f hw hr]
  refine ⟨⟨(hleft.mono (List.subset_append_left _ _)).keeps, hother 128 (by decide) (by decide), fun j _ => ?_, ?_,
    hleft.bi, hleft.pool⟩, ?_, hcount, hevt, Mach.incRaiseOnce_mem ..⟩ <;> rw [hleft.cam]

theorem Mach.waitRing_enters (hw : m.waits? p f = true) (hr : m.cam[p].ring.length < 4) :
    m.WaitsOnly (m.waitRing p f) p ∧
    (m.waitRing p f).cam[p].ring =
      m.cam[p].ring ++ [{ f.stored with slot := freeSlot m.cam[p].ring m.cam[p].ringSlot }] ∧
    (m.waitRing p f).rd (R.IMG_CAM_DROP p) = m.rd (R.IMG_CAM_DROP p) ∧
    ∀ a, a < m.waitAddr p (freeSlot m.cam[p].ring m.cam[p].ringSlot) ∨
      m.waitAddr p (freeSlot m.cam[p].ring m.cam[p].ringSlot) + f.encode.length ≤ a →
        (m.waitRing p f).byte a = m.byte a := by
  have hport : EngineReg (R.IMG_CAM_DROP p).a :=
    camReg_engine p.isLt (by simp [R.IMG_CAM_DROP]) (by simp [R.IMG_CAM_DROP])
  have hself : (m.ringEntered p f).cam[p] = _ := set_fin_self ..
  have hne (j : Fin 20) (hj : j ≠ p) : (m.ringEntered p f).cam[j] = m.cam[j] := set_fin_ne _ _ hj
  have hbytes {k : Nat} := (m.ringEntered p f).dmaWrite_byte_ne 5 p
    (m.waitAddr p (freeSlot m.cam[p].ring m.cam[p].ringSlot)) f.encode (k := k)
  have hleft := (m.ringEntered p f).dmaWrite_bookkeeping 5 p
    (m.waitAddr p (freeSlot m.cam[p].ring m.cam[p].ringSlot)) f.encode
  rw [m.waitRing_room p f hw hr]
  generalize (m.ringEntered p f).dmaWrite 5 p _ f.encode = t at *
  have hevt : t.evt 128 = m.evt 128 :=
    Mach.evt_congr (hleft.keeps _ (evtWord_notMem_storeRegs (src := 128) (p := 5) (by decide) (by decide)))
  have hdrop : t.rd (R.IMG_CAM_DROP p) = m.rd (R.IMG_CAM_DROP p) :=
    hleft.rd (hport.notMem_storeRegs (show 5 < 12 by decide))
  have hkeeps : m.Keeps t (waitRegs p) := fun a ha => hleft.keeps a fun h => ha (List.mem_append_right _ h)
  rw [← hleft.cam] at hself hne
  exact ⟨⟨hkeeps, hevt, hne, by rw [hself], hleft.bi, hleft.pool⟩, by rw [hself], hdrop,
    fun a ha => hbytes ha⟩

/-! ## A frame closes -/

/-- The port with no frame open. -/
def Mach.portClosed : Mach := m.setCam p { m.cam[p] with open_ := none }

/-- The port once its frame has closed, counted and shown, before the frame goes to the wait ring. -/
def Mach.portNoted : Mach := (m.portClosed p).noteClosed p f

/-- The frame of a port 18 or 19 is counted and shown, and waits for a processor. -/
theorem Mach.closeFrame_bed (miss : Bool) (hp : 18 ≤ p.val) (ho : m.cam[p].open_ = some f) :
    m.closeFrame p miss = (m.portNoted p (f.close m.mt miss)).waitRing p (f.close m.mt miss) := by
  have hpool : poolOf p = none := dif_neg (by omega)
  have hbi : inlineBi p = none := (if_neg (by omega)).trans (if_neg (by omega))
  have harchive (t : Mach) (g : Frame) : t.archive p g = t :=
    if_neg (by rw [decide_eq_false (show ¬ p.val < 16 by omega), Bool.false_and]; exact Bool.false_ne_true)
  unfold Mach.closeFrame
  rw [ho, hpool, hbi]
  dsimp only
  rw [harchive]
  rfl

theorem Mach.frameTimeout_due (ho : m.cam[p].open_ = some f) (hf : m.rd (R.IMG_CAM_FTO p) ≠ 0)
    (ht : f.lastPkt + m.rd (R.IMG_CAM_FTO p) * 800 ≤ m.mt) : m.frameTimeout p = m.closeFrame p true := by
  unfold Mach.frameTimeout
  rw [ho]
  exact if_pos ⟨hf, ht⟩

theorem Mach.frameTimeout_early (ho : m.cam[p].open_ = some f)
    (h : m.rd (R.IMG_CAM_FTO p) = 0 ∨ m.mt < f.lastPkt + m.rd (R.IMG_CAM_FTO p) * 800) : m.frameTimeout p = m := by
  unfold Mach.frameTimeout
  rw [ho]
  exact if_neg (by omega)

theorem Mach.frameEnd_on (h : m.camOn p = true) : m.frameEnd p = m.closeFrame p false := if_pos h

theorem Mach.portNoted_bookkeeping : (m.portClosed p).BookkeepingOnly (closedRegs p) (m.portNoted p f) :=
  (m.portClosed p).noteClosed_bookkeeping p f

theorem Mach.portNoted_cam : (m.portNoted p f).cam[p] = { m.cam[p] with open_ := none } ∧
    ∀ j : Fin 20, j ≠ p → (m.portNoted p f).cam[j] = m.cam[j] := by
  rw [(m.portNoted_bookkeeping p f).cam]
  exact ⟨set_fin_self .., fun j hj => set_fin_ne _ _ hj⟩

/-- Registers of the port that a closed frame leaves. -/
theorem Mach.portNoted_rd {r : RF} (ha : EngineReg r.a) (hl : r.a ∉ lastRegs p) (hm : r.a ≠ (R.IMG_CAM_MISMATCH p).a) :
    (m.portNoted p f).rd r = m.rd r := by
  have hraise := ha.notMem_raiseRegs (show 128 < 256 by decide)
  exact (m.portNoted_bookkeeping p f).rd (by simp [closedRegs, hl, hm, hraise])

theorem Mach.portNoted_ringRegs : (m.portNoted p f).rd (R.IMG_CAM_CTRL_EN p) = m.rd (R.IMG_CAM_CTRL_EN p) ∧
    (m.portNoted p f).rd (R.IMG_CAM_DROP p) = m.rd (R.IMG_CAM_DROP p) ∧
    ∀ k, (m.portNoted p f).waitAddr p k = m.waitAddr p k := by
  have hreg (o : Nat) (ho : o < 0x30 ∨ o = 0x74) (h l : Nat) :
      (m.portNoted p f).rd ⟨0x1001000 + o + p * 0x100, h, l⟩ = m.rd ⟨0x1001000 + o + p * 0x100, h, l⟩ := by
    refine m.portNoted_rd p f (camReg_engine p.isLt ?_ ?_) ?_ ?_ <;>
    simp only [lastRegs, R.IMG_CAM_FRAMES, R.IMG_CAM_LAST, R.IMG_CAM_LASTG_GEOMF, R.IMG_CAM_LASTL_LMIN,
      R.IMG_CAM_MISMATCH, List.mem_cons, List.not_mem_nil, or_false] <;> omega
  refine ⟨hreg 0 (by decide) 0 0, hreg 0x74 (by decide) 31 0, fun k => ?_⟩
  have hlo : (m.portNoted p f).rd (R.IMG_CAM_WAIT_BASE_LO p) = _ := hreg 0x20 (by decide) 31 12
  have hhi : (m.portNoted p f).rd (R.IMG_CAM_WAIT_BASE_HI p) = _ := hreg 0x24 (by decide) 3 0
  have hslot : (m.portNoted p f).rd (R.IMG_CAM_WAIT_SLOT p) = _ := hreg 0x28 (by decide) 31 0
  unfold Mach.waitAddr Mach.addr
  rw [hlo, hhi, hslot]
  rfl

/-- The frame of a port 18 or 19 has closed as `f`: it is counted and shown (R285 to R287). -/
structure Mach.BedFrameClosed (m t : Mach) (p : Fin 20) (f : Frame) : Prop where
  frame : t.cam[p].open_ = none
  frames : t.rd (R.IMG_CAM_FRAMES p) = min (m.rd (R.IMG_CAM_FRAMES p) + 1) (2 ^ 32 - 1)
  shows : t.ShowsFrame p f
  mismatch : t.rd (R.IMG_CAM_MISMATCH p) = (if f.flags.code = 0 then m.rd (R.IMG_CAM_MISMATCH p) else
    min (m.rd (R.IMG_CAM_MISMATCH p) + 1) (2 ^ 32 - 1))
  evt : f.flags.code ≠ 0 → m.raisedThisTick 128 = false → t.evt 128 = 1
  others : ∀ j : Fin 20, j ≠ p → t.cam[j] = m.cam[j]
  bi : t.bi = m.bi
  pool : t.pool = m.pool

variable {m p f} in
/-- What is counted and shown of a frame stands after the wait ring. -/
theorem Mach.WaitsOnly.closed {t : Mach} (h : (m.portNoted p f).WaitsOnly t p) (hl : f.linesRx < 65536)
    (hmin : f.lmin < 65536) (hmax : f.lmax < 65536) : m.BedFrameClosed t p f := by
  obtain ⟨hshows, hframes, hmiss, hevt⟩ := (m.portClosed p).noteClosed_shows p f hl hmin hmax
  obtain ⟨hself, hothers⟩ := m.portNoted_cam p f
  have hbook := m.portNoted_bookkeeping p f
  have hlast (a : Nat) (ha : a ∈ lastRegs p) : a ∉ waitRegs p := by
    obtain ⟨hengine, -, hdrop⟩ := lastRegs_port p ha
    exact notMem_waitRegs p hengine hdrop
  have hmissReg : (R.IMG_CAM_MISMATCH p).a ∉ waitRegs p :=
    notMem_waitRegs p (camReg_engine p.isLt (by simp [R.IMG_CAM_MISMATCH]) (by simp [R.IMG_CAM_MISMATCH]))
      (by simp [R.IMG_CAM_MISMATCH, R.IMG_CAM_DROP])
  exact ⟨h.frame.trans (by rw [hself]), (Mach.rd_congr (h.keeps _ (hlast _ (by simp [lastRegs])))).trans hframes,
    hshows.of_keeps h.keeps hlast, (Mach.rd_congr (h.keeps _ hmissReg)).trans hmiss,
    fun hc hr => h.evt.trans (hevt hc hr), fun j hj => (h.others j hj).trans (hothers j hj), h.bi.trans hbook.bi,
    h.pool.trans hbook.pool⟩

variable {m p f} in
/-- The frame enters a free slot of the ring; no byte outside of the slot changes (R292, R293). -/
theorem Mach.portNoted_enters (hp : 18 ≤ p.val) (hon : m.camOn p = true) (hr : m.cam[p].ring.length < 4) :
    (m.portNoted p f).WaitsOnly ((m.portNoted p f).waitRing p f) p ∧
    ((m.portNoted p f).waitRing p f).cam[p].ring =
      m.cam[p].ring ++ [{ f.stored with slot := freeSlot m.cam[p].ring m.cam[p].ringSlot }] ∧
    ((m.portNoted p f).waitRing p f).rd (R.IMG_CAM_DROP p) = m.rd (R.IMG_CAM_DROP p) ∧
    ∀ a, a < m.waitAddr p (freeSlot m.cam[p].ring m.cam[p].ringSlot) ∨
      m.waitAddr p (freeSlot m.cam[p].ring m.cam[p].ringSlot) + f.encode.length ≤ a →
        ((m.portNoted p f).waitRing p f).byte a = m.byte a := by
  obtain ⟨hen, hdrop, haddr⟩ := m.portNoted_ringRegs p f
  obtain ⟨hself, -⟩ := m.portNoted_cam p f
  have hmem : (m.portNoted p f).mem = m.mem := (m.portClosed p).noteClosed_mem p f
  have hbyte (a : Nat) : (m.portNoted p f).byte a = m.byte a := congrArg (fun x : Mem => sget memDefault x.bytes a) hmem
  have hw : (m.portNoted p f).waits? p f = true := Mach.waits_bed _ p hp ((congrArg (· == 1) hen).trans hon)
  have henters := Mach.waitRing_enters _ p f hw (by rw [hself]; exact hr)
  simp only [hself, hdrop, haddr, hbyte] at henters
  exact henters

variable {m p f} in
/-- With the ring full the frame is dropped and counted, and memory stands (R293). -/
theorem Mach.portNoted_drops (hp : 18 ≤ p.val) (hon : m.camOn p = true) (hr : 4 ≤ m.cam[p].ring.length) :
    (m.portNoted p f).WaitsOnly ((m.portNoted p f).waitRing p f) p ∧
    ((m.portNoted p f).waitRing p f).cam[p].ring = m.cam[p].ring ∧
    ((m.portNoted p f).waitRing p f).rd (R.IMG_CAM_DROP p) = min (m.rd (R.IMG_CAM_DROP p) + 1) (2 ^ 32 - 1) ∧
    (m.raisedThisTick 129 = false → ((m.portNoted p f).waitRing p f).evt 129 = 1) ∧
    ((m.portNoted p f).waitRing p f).mem = m.mem := by
  obtain ⟨hen, hdrop, -⟩ := m.portNoted_ringRegs p f
  obtain ⟨hself, -⟩ := m.portNoted_cam p f
  have hmem : (m.portNoted p f).mem = m.mem := (m.portClosed p).noteClosed_mem p f
  have hraised : (m.portNoted p f).raisedThisTick 129 = m.raisedThisTick 129 :=
    (m.portClosed p).noteClosed_raised p f (by decide)
  have hw : (m.portNoted p f).waits? p f = true := Mach.waits_bed _ p hp ((congrArg (· == 1) hen).trans hon)
  have hdrops := Mach.waitRing_drops _ p f hw (by rw [hself]; exact hr)
  rw [hself, hdrop, hraised, hmem] at hdrops
  exact hdrops

end

end Sys2Proof.Machine
end

section
/-! PROOF. What the commands of a camera port answer, and the statement on its packets and frames (R281, R282, R285 to
R287, R290, R292, R293). -/
namespace Sys2Proof.Machine

section
variable {s : State} {dt : Nat} {p : Fin 20} {m : Mach} (hm : m = s.at dt) (hon : m.camOn p = true)
include hm hon

/-! ## Frame starts -/

/-- R285, R290: a frame of the port's geometry opens. -/
theorem cameraFrameStart_opens (ho : m.cam[p].open_ = none) (hb : inlineBi p = none) :
    Answers (.cameraFrameStart dt p) s fun t =>
      (∃ f, t.cam[p].open_ = some f ∧ f.mtFs = m.mt ∧ f.lines = [] ∧ f.closed = false ∧
        f.width = m.rd (R.IMG_CAM_GEOM_WIDTH p) ∧ f.height = m.rd (R.IMG_CAM_GEOM_HEIGHT p) ∧
        f.fmt = m.rd (R.IMG_CAM_CTRL_DT p) ∧ (16 ≤ p.val → f.num = m.cam[p].next)) ∧
      t.cam[p].next = m.cam[p].next + 1 ∧ t.cam[p].ring = m.cam[p].ring ∧
      (∀ j : Fin 20, j ≠ p → t.cam[j] = m.cam[j]) ∧ t = { m with cam := t.cam, free := m.free + 1 } := by
  have ht := m.frameStart_opens p hon ho hb
  obtain ⟨hopen, hnext, hring⟩ := m.portOpened_cam p
  have hothers {j : Fin 20} (hj : j ≠ p) := m.portOpened_cam_ne p hj
  have hnum := m.newFrame_num p
  subst hm
  exact answers_of rfl ht
    ⟨⟨_, hopen, rfl, rfl, rfl, rfl, rfl, rfl, hnum⟩, hnext, hring, fun j hj => hothers hj, rfl⟩

/-- R285, R296: the free processor of an in-line port takes the frame that opens. -/
theorem cameraFrameStart_inline {b : Fin 2} (ho : m.cam[p].open_ = none) (hb : inlineBi p = some b)
    (hc : m.bi[b].cur = none) (hd : ∀ k, m.setDue b k = false) : Answers (.cameraFrameStart dt p) s fun t =>
      (∃ f j, t.cam[p].open_ = some f ∧ f.num = m.cam[p].next ∧ t.bi[b].cur = some j ∧ j.frame = f ∧ j.bank = 0) ∧
      t.rd (R.IMG_BI_STATUS_BUSY b) = 1 ∧ t.rd (R.IMG_BI_STATUS_PORT b) = p ∧
      (∀ k : Fin 2, k ≠ b → t.bi[k] = m.bi[k]) ∧ m.Keeps t [(R.IMG_BI_STATUS_BUSY b).a] ∧ t.mem = m.mem := by
  have ht := m.frameStart_inline p hon ho hb hc hd
  obtain ⟨hopen, -, -⟩ := m.portOpened_cam p
  obtain ⟨hcur, hothers⟩ := m.inlineBegun_bi p b
  obtain ⟨hbusy, hport⟩ := (m.inlineBegun p b).wrs_biStatus b 1 p
  have hkeeps := (m.inlineBegun p b).wrs_biStatus_keeps b 1 p
  have hnum := m.newFrame_num p (inlineBi_bed p hb)
  have hfits : p.val % 32 = p := Nat.mod_eq_of_lt (by omega)
  subst hm
  exact answers_of rfl ht ⟨⟨_, _, hopen, hnum, hcur, rfl, rfl⟩, hbusy, hport.trans hfits, hothers, hkeeps, rfl⟩

end

section
variable {s : State} {dt : Nat} {p : Fin 20} {m : Mach} (hm : m = s.at dt)
include hm

/-! ## Frame ends -/

/-- A frame end, or the timeout of a frame, closes the open frame (R285). -/
theorem closeFrame_answers {f : Frame} {miss : Bool} {k : Instr} (ho : m.cam[p].open_ = some f) (hon : m.camOn p = true)
    (hk : (k = .cameraFrameEnd dt p ∧ miss = false) ∨ (k = .frameTimeout dt p ∧ miss = true ∧
      m.rd (R.IMG_CAM_FTO p) ≠ 0 ∧ f.lastPkt + m.rd (R.IMG_CAM_FTO p) * 800 ≤ m.mt)) :
    exec k s = s.done (m.closeFrame p miss) := by
  rcases hk with ⟨rfl, rfl⟩ | ⟨rfl, rfl, hfto, hdue⟩
  · have ht := m.frameEnd_on p hon
    subst hm
    exact congrArg s.done ht
  · have ht := m.frameTimeout_due p f ho hfto hdue
    subst hm
    exact congrArg s.done ht

/-! ## Packets -/

variable {f : Frame} {k : CsiPacket} (hon : m.camOn p = true) (ho : m.cam[p].open_ = some f)
include hon ho

/-- R281, R282: a packet whose header is lost is counted, and its frame marked. -/
theorem csiPacketReceive_badHeader (hk : k.headerBad = true) : Answers (.csiPacketReceive dt p k) s fun t =>
    t.rd (R.IMG_CAM_PKTDROP p) = min (m.rd (R.IMG_CAM_PKTDROP p) + 1) (2 ^ 32 - 1) ∧
    t.cam[p] = { m.cam[p] with open_ := some { f with flags := { f.flags with pktLost := true } } } ∧
    (∀ j : Fin 20, j ≠ p → t.cam[j] = m.cam[j]) ∧ m.Keeps t [(R.IMG_CAM_PKTDROP p).a] ∧
    t = { m with cam := t.cam, regs := t.regs } := by
  have ht := m.csiPacket_badHeader p hon ho hk
  have hcount : (m.inc (R.IMG_CAM_PKTDROP p)).rd (R.IMG_CAM_PKTDROP p) = _ := rrd_rinc_word ..
  have hkeeps := (m.inc_only (R.IMG_CAM_PKTDROP p)).1
  subst hm
  exact answers_of rfl ht ⟨hcount, Mach.withFrame_cam .., fun j hj => Mach.withFrame_cam_ne _ p _ hj, hkeeps, rfl⟩

variable (hk : k.headerBad = false) (hf : k.headerFixed = false)
include hk hf

/-- R281: a packet of another channel is counted. -/
theorem csiPacketReceive_otherChannel (hv : k.vc.toNat ≠ m.rd (R.IMG_CAM_CTRL_VC p)) :
    Answers (.csiPacketReceive dt p k) s fun t =>
      t.rd (R.IMG_CAM_VCOTHER p) = min (m.rd (R.IMG_CAM_VCOTHER p) + 1) (2 ^ 32 - 1) ∧
      m.OnlyRegs t [(R.IMG_CAM_VCOTHER p).a] := by
  have ht := (m.csiPacket_good p hon hk hf).trans (m.goodPacket_otherChannel p hv)
  have hcount : (m.inc (R.IMG_CAM_VCOTHER p)).rd (R.IMG_CAM_VCOTHER p) = _ := rrd_rinc_word ..
  have honly := m.inc_only (R.IMG_CAM_VCOTHER p)
  subst hm
  exact answers_of rfl ht ⟨hcount, honly⟩

variable (hv : k.vc.toNat = m.rd (R.IMG_CAM_CTRL_VC p))
include hv

/-- A packet that changes the open frame and nothing else. -/
theorem csiPacketReceive_frame {g : Frame} (hg : m.goodPacket p k = m.withFrame p g) :
    Answers (.csiPacketReceive dt p k) s fun t =>
      t.cam[p] = { m.cam[p] with open_ := some g } ∧ (∀ j : Fin 20, j ≠ p → t.cam[j] = m.cam[j]) ∧
      t = { m with cam := t.cam } := by
  have ht := (m.csiPacket_good p hon hk hf).trans hg
  subst hm
  exact answers_of rfl ht ⟨Mach.withFrame_cam .., fun j hj => Mach.withFrame_cam_ne _ p _ hj, rfl⟩

/-- R281: a long packet of another type is counted. -/
theorem csiPacketReceive_otherType (h : 0x10 ≤ k.dtype.toNat) (h12 : k.dtype.toNat ≠ 0x12)
    (hd : k.dtype.toNat ≠ 0x2A + m.camFmt p) : Answers (.csiPacketReceive dt p k) s fun t =>
      t.rd (R.IMG_CAM_PKTDROP p) = min (m.rd (R.IMG_CAM_PKTDROP p) + 1) (2 ^ 32 - 1) ∧
      t.cam[p] = { m.cam[p] with open_ := some { f with lastPkt := m.mt } } ∧ m.Keeps t [(R.IMG_CAM_PKTDROP p).a] := by
  have ht := (m.csiPacket_good p hon hk hf).trans (m.goodPacket_otherType p hv ho h h12 hd)
  have hcount : (m.inc (R.IMG_CAM_PKTDROP p)).rd (R.IMG_CAM_PKTDROP p) = _ := rrd_rinc_word ..
  have hkeeps := (m.inc_only (R.IMG_CAM_PKTDROP p)).1
  have hframe := m.withFrame_cam p { f with lastPkt := m.mt }
  subst hm
  exact answers_of rfl ht ⟨hcount, hframe, hkeeps⟩

end

/-- Settles O32: a frame start by the processor of the port, a frame that closes by the room in the wait ring, and a packet
by its header, its channel and its data type. -/
theorem cameraFrames : Obligations.CameraFrames := by
  intro s dt p m c hm hc
  subst hc
  refine ⟨fun hoff => ?_, fun hon ho => ⟨cameraFrameStart_opens hm hon ho,
    fun b hb hcur hd => cameraFrameStart_inline hm hon ho hb hcur hd⟩,
    fun f g miss k ho hp hon hk hg hl hmin hmax => ⟨_, closeFrame_answers hm ho hon hk, ?_⟩, fun f ho h => ?_,
    fun f k hon ho => ⟨csiPacketReceive_badHeader hm hon ho, fun hk hf =>
      ⟨csiPacketReceive_otherChannel hm hon ho hk hf, fun hv =>
        ⟨fun hd => csiPacketReceive_frame hm hon ho hk hf hv (m.goodPacket_line p hv ho hd),
          fun h2 hd => csiPacketReceive_frame hm hon ho hk hf hv (m.goodPacket_short p hv ho h2 hd),
          csiPacketReceive_otherType hm hon ho hk hf hv⟩⟩⟩⟩
  · have hstart := m.frameStart_off p hoff
    have hend := m.frameEnd_off p hoff
    have hpacket (k : CsiPacket) := m.csiPacket_off p k hoff
    subst hm
    exact ⟨answers_of rfl hstart rfl, answers_of rfl hend rfl, fun k => answers_of rfl (hpacket k) rfl⟩
  · have hclose := m.closeFrame_bed p f miss hp ho
    have hshort : g.flags.frameShort = true ↔ f.linesRx < f.height := hg ▸ decide_eq_true_iff
    have hfemiss (h : miss = true) : g.flags.femiss = true := by rw [hg, h]; exact Bool.or_true _
    have henters := Mach.portNoted_enters (f := g) hp hon
    have hdrops := Mach.portNoted_drops (f := g) hp hon
    have hwaits : (m.portNoted p g).WaitsOnly ((m.portNoted p g).waitRing p g) p :=
      (Nat.lt_or_ge m.cam[p].ring.length 4).elim (fun hr => (henters hr).1) fun hr => (hdrops hr).1
    subst hg
    obtain ⟨hopen, hframes, hshown, hmiss, hevt, hothers, hbi, hpool⟩ := hwaits.closed hl hmin hmax
    rw [hclose]
    generalize (m.portNoted p (f.close m.mt miss)).waitRing p (f.close m.mt miss) = t at *
    exact ⟨hopen, hframes, hshown.last, hshown.geomf, hshown.linesRx, hshown.lmin, hshown.lmax, hshort, hfemiss, hmiss,
      hevt, fun hr => (henters hr).2, fun hr => (hdrops hr).2, hothers, hbi, hpool⟩
  · have ht := m.frameTimeout_early p f ho h
    subst hm
    exact answers_of rfl ht rfl

end Sys2Proof.Machine
end
